-- ==== Sys2Proof/Word.lean ====
section
/-! DEFINITION. Word types of the K40 model and their plainest arithmetic: bytes, 16-, 32- and 64-bit words,
and the sparse keyed lists every island of the model keeps its state in. -/

namespace Sys2Proof

/-- One byte. -/
abbrev Byte := BitVec 8
/-- A 16-bit word. -/
abbrev W16 := BitVec 16
/-- A 32-bit word, the bits of one FP32 value among other things. -/
abbrev W32 := BitVec 32
/-- A 64-bit word: every KCP register is one (R8, R631). -/
abbrev W64 := BitVec 64

/-- A sparse store: (key, value) pairs with strictly rising keys; an absent key reads as its store's default. -/
abbrev AMap (α : Type) := List (Nat × α)

/-- The modulus of a 32-bit count. -/
def pow32 : Nat := 4294967296
/-- The modulus of a 64-bit count. -/
def pow64 : Nat := 18446744073709551616

end Sys2Proof
end

