-- ==== Sys2Proof/Config.lean ====
section
/-! DEFINITION. What an implementation of the K40 fixes and the manual does not: free values. Each constant here
has NO BODY, so no proof can use a value of it; every claim holds for every value. -/

namespace Sys2Proof

/-- What a template's index program derives from its NIN stream entries and the 24 B of ARGS (R127, R516).
The encoding of scalar-unit instructions is Wenkorak's and the manual does not give it (assumption log 6). -/
opaque Config.indexProgram : (program : List W64) → (entries : List W64) → (args : List W64) → W64

/-- The bit of its 16,777,216-bit spill filter that a key selects: R273 names a hash and does not give it (assumption log 7). -/
opaque Config.filterBit : (tid : Nat) → (defkey : Bool) → (row : Nat) → Nat

/-- Whether a program's instruction lies in the scalar-unit set, branches only forward and reads within its
entries and ARGS (last bullet of R517); the encoding is not given (assumption log 6). -/
opaque Config.programOk : (nin : Nat) → (program : List W64) → Bool

/-- The class, modulo 4, that the Sieve takes a row of another node to have before its fetch: the manual does not say how
it knows (assumption log 40). -/
opaque Config.remoteClass : (tid row : Nat) → Nat

/-- An element of a row that a sum of squares reads without the manual giving it a row to read: the contribution is formed,
and from what is not stated (R193, R195, R196; assumption log 44). -/
opaque Config.unreadRow : (tid : Nat) → (defkey : Bool) → (row elem : Nat) → W32

/-- The event code of a Clerk log entry whose code the manual does not give, by cause: 0 Clerk SRAM (R569), 1 a failed
PED_WR (R627), 2 a home map or ordinal table (R331) (assumption log 9). -/
opaque Config.logCode : (cause : Nat) → Nat

/-- The 16 B of arguments of such an entry, by cause and by what it concerns (assumption log 9). -/
opaque Config.logArgs : (cause what : Nat) → W64 × W64

/-- How the fields a log entry holds are laid in its 16 B of arguments, by event code: the manual names the fields of
0x0001, 0x0C10 and 0x0C11 and not their places (assumption log 9). -/
opaque Config.logPack : (code : Nat) → (fields : List Nat) → W64 × W64

/-- The set, below 1,024, of a front-cache slice that a granule's line lies in: R324 gives the sets and not the choice
(assumption log 32). -/
opaque Config.cacheSet : (granule : Nat) → Nat

/-- The front-cache hint of a row read that another node's READ asks for, which carries none (assumption log 32). -/
opaque Config.remoteHint : Nat

/-- What the Larder's check of a word with three or more wrong bits comes to, modulo 3: it takes the word as clean, corrects
a bit of it, or finds it uncorrectable; R298 gives one and two wrong bits (assumption log 5). -/
opaque Config.manyBits : (block bits : Nat) → Nat

/-- The data bits of a 64 B codeword that wrong bits of one of its symbols invert, as a 512-bit mask, 0 for a check symbol:
R318 gives the symbols and not which byte of the codeword each bit holds (assumption log 5). -/
opaque Config.symbolMask : (burst lane bits : Nat) → Nat

/-- Where the CSEQ tables of R388 lie in the HBM table area: the manual gives no place (assumption log 36). -/
opaque Config.cseqTables : Nat

/-- The position the outbound wheel of a Chip Data Port stands at when requests leave, by how many have left before: time
turns the wheel, and time is no part of the model (assumption log 50). -/
opaque Config.wheelAt : (port sent : Nat) → Nat

/-- The KCP clock in MHz, which the surroundings supply (R563, R614) (assumption log 12). -/
opaque Config.kcpMhz : Nat

end Sys2Proof
end

