-- ==== Sys2Proof/Syntax.lean ====
section
/-! DEFINITION. The commands of the K40: one constructor of `Instr` per row of spec/opcode_table.json, with the
operands the step needs. Three kinds of operand occur: what the sender of the command writes (a register value, a
packet, a Pedlar request), what the surroundings answer inside the step (`ChipView`), and what the manual leaves to
the hardware or to physics (a placement, a test verdict, a duration; `ue`, that a check found a stored word
uncorrectable; `errs`, the codewords received with wrong symbols; `lines`, front-cache granules whose line is found
uncorrectable; `words` and `sram`, how many words a check corrected): the last are FREE VALUES, since every claim is made for
every operand. -/

namespace Sys2Proof

/-- The status codes of R14. -/
inductive Status where
  | ok | okDefaulted | okReplayed | okRedone | lateDeferred | lateDropped
  | faultAbort | segViolation | perm | homeAbsent | remoteTimeout
  | shuttered | resetLost | badDescriptor | badTemplate | tableAbsent | uncorrectable | poisoned
  deriving DecidableEq, Repr

/-- Width classes of a row (table of R41), in the order of their header codes 00, 01, 10, 11. -/
inductive RowClass where
  | w32 | w16 | w8 | w4
  deriving DecidableEq, Repr

/-- What the surroundings answer to the chip-memory reads one step makes (R625, R627): the bytes listed, 0 at every
address not listed, and whether an answer carried ERR = 1. It is an input: nothing ties two views to each other. -/
structure ChipView where
  cells : List (Nat × Byte)
  err : Bool
  deriving DecidableEq, Repr

/-- Where the hardware puts a version slot's structures in the HBM table area (R668 leaves the choice to it):
directory, first shelf, state array, learned default row and its state; `other`, the bytes that the structures of R36
whose sizes the manual does not give hold at that moment. -/
structure Placement where
  dir : Nat
  shelf : Nat
  state : Nat
  defRow : Nat
  defState : Nat
  other : Nat
  deriving DecidableEq, Repr

/-- The header of the firmware image the CSB verified (R651). -/
structure ImageHdr where
  build : Nat
  minor : Nat
  major : Nat
  secver : Nat
  deriving DecidableEq, Repr

/-- One stack's training result (R316, R334, R338, R343): `capacity` in GB. -/
structure StackTrain where
  fail : Bool
  height : Nat
  capacity : Nat
  rate : Nat
  repaired : Nat
  atLimit : Nat
  deriving DecidableEq, Repr

/-- What the self-test sequencers found (R301, R334, R155, R533): a physical verdict, hence an operand. `larderRows` is the
failing rows of each Larder channel that has some: channel and number. -/
structure BistResult where
  larderRows : List (Nat × Nat)
  hbm : List StackTrain
  millsGood : List Nat
  sramFail : Nat
  durationMs : Nat
  deriving DecidableEq, Repr

/-- The part of a Span packet header (R368) that a step reads: destination, source, relays passed, virtual lane. -/
structure PktHdr where
  dest : Nat
  src : Nat
  hops : Nat
  vl : Nat
  deriving DecidableEq, Repr

/-- READ (R369). -/
structure ReadPkt where
  tag : Nat
  tid : Nat
  slot : Nat
  slice : Nat
  spec : Bool
  place : Bool
  resync : Bool
  defkey : Bool
  epoch : Nat
  row : Nat
  step : Nat
  deriving DecidableEq, Repr

/-- ROW (R370): the 16 B row header, the Pawn entries and the element bytes are there when `status` is CS_OK. -/
structure RowPkt where
  tag : Nat
  status : Status
  prov : Bool
  baseExp : Nat
  slice : Nat
  cseq : Nat
  header : BitVec 128
  pawns : List W64
  elems : List Byte
  deriving DecidableEq, Repr

/-- The key fields of PROMOTE and NOTICE (R373). -/
structure KeyPkt where
  tid : Nat
  defkey : Bool
  row : Nat
  step : Nat
  deriving DecidableEq, Repr

/-- ABSENT (R373), with the 16 bytes of the refused packet as two words. -/
structure AbsentPkt where
  tag : Nat
  kind : Nat
  node : Nat
  w8 : W64
  w10 : W64
  deriving DecidableEq, Repr

/-- PARTIAL (R372): `w16` is CLASS. Codes are the two's-complement integers the bytes stand for. -/
structure PartialPkt where
  tid : Nat
  defkey : Bool
  row : Nat
  slice : Nat
  w16 : Bool
  ownExp : Bool
  rescaled : Bool
  step : Nat
  epoch : Nat
  exp : Nat
  contrib : Nat
  tokens : Nat
  codes : List Int
  deriving DecidableEq, Repr

/-- UPDATE (R373). -/
structure UpdatePkt where
  cseq : Nat
  tid : Nat
  slot : Nat
  slice : Nat
  defkey : Bool
  baseExp : Nat
  row : Nat
  header : BitVec 128
  pawns : List W64
  elems : List Byte
  deriving DecidableEq, Repr

/-- MARK (R373). -/
structure MarkPkt where
  cseq : Nat
  tid : Nat
  step : Nat
  deriving DecidableEq, Repr

/-- LQUERY and LSTATE (R373). -/
structure LinkPkt where
  peerPort : Nat
  lastRx : Nat
  known : Bool
  deriving DecidableEq, Repr

/-- The body of a Span packet, by KIND (R368). -/
inductive PktBody where
  | read (p : ReadPkt)
  | row (p : RowPkt)
  | promote (p : KeyPkt)
  | notice (p : KeyPkt)
  | absent (p : AbsentPkt)
  | part (p : PartialPkt)
  | update (p : UpdatePkt)
  | mark (p : MarkPkt)
  | lquery (p : LinkPkt)
  | lstate (p : LinkPkt)
  deriving DecidableEq, Repr

/-- A Span packet. -/
structure Packet where
  hdr : PktHdr
  body : PktBody
  deriving DecidableEq, Repr

/-- A received flit (R355): its header fields, 240 B of payload, its CRC and whether a codeword under it failed. -/
structure Flit where
  fseq : Nat
  ack : Nat
  nak : Bool
  grantCh : Nat
  grant : Nat
  idle : Bool
  first : Nat
  payload : List Byte
  crc : W64
  fecCorrected : Nat
  fecFailed : Nat
  deriving DecidableEq, Repr

/-- What the two ends exchange at link bring-up (R363). -/
structure LinkExchange where
  member : Nat
  node : Nat
  port : Nat
  deriving DecidableEq, Repr

/-- Which read met an uncorrectable HBM codeword (R329, R331): a read a home serves (position in its queue), a chunk
a Carter reads of a Run's or transfer's stream, or none (a read no bag waits on). -/
inductive HbmReader where
  | homeRead (idx : Nat)
  | stream (carter ord stream : Nat)
  | homeMap (slot : Nat)
  | spillRecord (idx : Nat)
  | none
  deriving DecidableEq, Repr

/-- Which structure of the Larder a read found uncorrectable (table of R299). -/
inductive LarderSpot where
  | hotCopy (tid slot dirIdx : Nat)
  | replica (tid slot row : Nat)
  | indexBucket (bucket : Nat)
  | kept (idx : Nat)
  | record (pos : Nat)
  | pen (idx : Nat)
  | filter (tid : Nat) (defkey : Bool) (row : Nat)
  | none
  deriving DecidableEq, Repr

/-- What a cell with an uncorrectable word holds (table of R453). -/
inductive CellSpot where
  | submission (flow idx : Nat)
  | runStream (ord stream elem : Nat)
  | transferData (ord : Nat)
  | completion (flow idx : Nat)
  | received (port idx : Nat)
  | sentFlit (port fseq : Nat)
  deriving DecidableEq, Repr

/-- What a reader visit finds in one island (R593, R594): the cycles its clock ran since the previous visit, the
increases of its eight counters that the passing of time alone caused (cycles, occupancies, idle causes), and for a
column the nine idle-cause increases (R609). Time is an input of the model, so these are operands. -/
structure IslandInc where
  island : Nat
  cycles : Nat
  adds : List Nat
  idle : List Nat
  deriving DecidableEq, Repr

/-- A path-delay sample of one island (R565): margins of its 16 monitors in 0.1 % units. -/
structure MarginIn where
  island : Nat
  margins : List Nat
  deriving DecidableEq, Repr

/-- A symbol of an HBM codeword received wrong (R318): the burst, 0 or 1, the lane, 0 to 35, and the wrong bits of it. -/
structure SymErr where
  burst : Nat
  lane : Nat
  bits : Nat
  deriving DecidableEq, Repr

/-- A codeword a read meets (local address / 64) with the symbols of it received wrong. -/
structure CwErr where
  cw : Nat
  syms : List SymErr
  deriving DecidableEq, Repr

/-- Choices of the K40 in the table area that a HOMEMAP_INSTALL meets: bytes that structures of unknown size take, and the place
of a first map with its ordinal table (R36). -/
structure MapRoom where
  other : Nat
  loc : Nat
  deriving DecidableEq, Repr

/-- A POP: the request's header word, and the words of cells that its reads correct (R452, R467). -/
structure PopReq where
  hdr : W64
  words : Nat
  deriving DecidableEq, Repr

/-- The chunk a Carter moves (R474, R475): stream `stream` of a Run, or 0 the reads and 1 the writes of a transfer; and what its
reads of HBM, of front-cache lines and of cells meet. -/
structure ChunkIn where
  stream : Nat
  errs : List CwErr
  lines : List Nat
  words : Nat
  deriving DecidableEq, Repr

/-- The bag a Mill starts, and chip memory for the entries that a recomputation reads again (R173). -/
structure BagIn where
  bag : Nat
  v : ChipView
  deriving DecidableEq, Repr

/-- A home row read: its place among those that wait, and what its reads of HBM and of front-cache lines meet. -/
structure HomeReadIn where
  idx : Nat
  errs : List CwErr
  lines : List Nat
  deriving DecidableEq, Repr

/-- What comes with a row (R154, R298): `ue`, that the Mill found a word of the bag uncorrectable; words of the Mill's SRAM and of
the Larder that were corrected; and chip memory, for the entries that a replay reads again (R172). -/
structure ArriveIn where
  ue : Bool
  sram : Nat
  words : Nat
  v : ChipView
  deriving DecidableEq, Repr

/-- What the read of a finished tile meets (R154): `ue`, that a word of it is uncorrectable; words of it that are corrected. -/
structure TileIn where
  ue : Bool
  sram : Nat
  deriving DecidableEq, Repr

/-- What the reads of an apply unit meet: a Larder block of the entry's record found uncorrectable (R299), and codewords received
with wrong symbols (R329). -/
structure UnitIn where
  bad : Option Nat
  errs : List CwErr
  deriving DecidableEq, Repr

/-- What retraining gives (R354, R385): the peer's LAST_RX, how many lanes of each
direction fail, and the one the spare replaces. -/
structure RetrainIn where
  peerLastRx : Nat
  txFail : Nat
  rxFail : Nat
  lane : Nat
  deriving DecidableEq, Repr

/-- The commands, in the order of spec/opcode_table.json. `slot` names the mailbox slot whose command runs; `ctag` is the
TAG the surroundings gave the inbound header of a Pedlar request (R623, R626). -/
inductive Instr where
  | identify (slot : Nat)
  | logRead (slot : Nat) (v : ChipView)
  | selftest (slot : Nat)
  | powerState (slot : Nat)
  | wipe (slot : Nat)
  | lifecycle (slot : Nat) (v : ChipView) (sigOk : Bool)
  | tableCreate (slot : Nat) (v : ChipView) (place : Placement)
  | tableDescribe (slot : Nat) (v : ChipView)
  | tableDestroy (slot : Nat)
  | loadStart (slot : Nat) (place : Placement)
  | loadRows (slot : Nat) (v : ChipView)
  | loadEnd (slot : Nat)
  | switch (slot : Nat)
  | rowRestore (slot : Nat) (v : ChipView)
  | templateInstall (slot : Nat) (v : ChipView)
  | templateInstallComplete (tslot : Nat)
  | ctxSet (slot : Nat)
  | segSet (slot : Nat)
  | flowConfig (slot : Nat)
  | nodeSet (slot : Nat)
  | homemapInstall (slot : Nat) (v : ChipView) (room : MapRoom)
  | routeSet (slot : Nat) (v : ChipView)
  | larderPlan (slot : Nat)
  | hotsetRefresh (slot : Nat) (v : ChipView)
  | deferredConfigExecute (slot : Nat) (v : ChipView)
  | stepOpen (slot : Nat) (v : ChipView)
  | sealStep (slot : Nat)
  | sealDone
  | commit (slot : Nat)
  | stepReport (slot : Nat) (v : ChipView)
  | ctrConfig (slot : Nat)
  | shutter (slot : Nat)
  | shutterDone (idx : Nat) (us : Nat)
  | unshutter (slot : Nat)
  | marginReport (slot : Nat) (volts : List Nat) (mhz : Nat)
  | replan (slot : Nat)
  | mbxDoorbell (val : W64)
  | mbxSlotWrite (slot word : Nat) (val : W64)
  | mbxRespHeadWrite (val : W64)
  | mbxRingConfigWrite (size : Bool) (val : W64)
  | commandTake
  | responseWrite
  | clerkBeat
  | heartbeatIntervalEnd
  | clerkSramUncorrectable
  | wchNop (val : W64)
  | dumpLog (val : W64)
  | haltClerk (val : W64)
  | writeCo (val : W64)
  | restartClerk (val : W64)
  | wchRecoveryReset (val : W64)
  | forceHeld (val : W64)
  | gblResetCold (val : W64)
  | gblResetRecovery (val : W64)
  | gblResetClerkOnly (val : W64)
  | cmbResetRequest
  | resetTakeHold
  | recoveryComplete
  | porAssert
  | porRelease
  | rstNFall
  | rstNRelease
  | refclkLoss
  | railFault
  | clerkSecureBoot (ok : Bool) (img : ImageHdr)
  | selftestSequenceDone (res : BistResult)
  | powerTransitionDone (us : Nat)
  | tileSave (col mill : Nat)
  | tileRestore (col mill : Nat)
  | pedlarPush (port ctag : Nat) (hdr : W64) (data : List W64)
  | pedlarPop (port ctag : Nat) (req : PopReq)
  | pedlarProbe (port ctag : Nat) (hdr : W64)
  | subSubmit (val : W64)
  | runAdmit (flow duration : Nat) (v : ChipView)
  | transferAdmit (flow duration : Nat) (v : ChipView)
  | replacedItemEnd (flow duration : Nat)
  | bagGroupDispatch (ord col : Nat)
  | distributorForward (ord group : Nat)
  | carterChunk (carter ord : Nat) (chunk : ChunkIn)
  | bagStart (col mill ord : Nat) (b : BagIn)
  | rowReadIssue (col mill : Nat)
  | homeRowRead (r : HomeReadIn)
  | rowArrive (col mill : Nat) (a : ArriveIn)
  | sieveWindowClose (col : Nat)
  | bagPoolEnd (col mill : Nat) (tile : TileIn)
  | tileDrain (col mill : Nat)
  | runRecordWrite (ord duration : Nat)
  | transferRecordWrite (ord duration : Nat)
  | backwardContribution (col mill : Nat) (ue : Bool)
  | mergeFlush (col : Nat)
  | backwardStreamIdle (col : Nat)
  | partialEnqueue
  | foldHoldExpire (port idx : Nat)
  | ledgerFold (pos : Nat) (ue : Bool)
  | journalFlushDone
  | applyUnit (u : UnitIn)
  | promotionReceive
  | spillScan
  | shelfEvaluate (tid shelf : Nat)
  | shelfRebuild (tid slot shelf newShelf : Nat)
  | commitDone (duration : Nat)
  | rowMoveComplete (idx : Nat)
  | commitNoticeReceive (col : Nat)
  | linkTraining (port txFail rxFail lane : Nat)
  | linkBringupExchange (port : Nat) (x : Option LinkExchange)
  | flitReceive (port : Nat) (f : Flit)
  | nakReceive (port ack : Nat)
  | linkRetrainDone (port : Nat) (r : RetrainIn)
  | recoverRetrainTimeout (port : Nat)
  | lquery (port : Nat) (h : PktHdr) (p : LinkPkt)
  | lstate (port : Nat) (h : PktHdr) (p : LinkPkt)
  | lqueryTimeout (port : Nat)
  | packetSend (port chan idx : Nat)
  | read (port : Nat) (h : PktHdr) (p : ReadPkt)
  | row (port : Nat) (h : PktHdr) (p : RowPkt)
  | promote (port : Nat) (h : PktHdr) (p : KeyPkt)
  | notice (port : Nat) (h : PktHdr) (p : KeyPkt)
  | absent (port : Nat) (h : PktHdr) (p : AbsentPkt)
  | part (port : Nat) (h : PktHdr) (p : PartialPkt)
  | update (port : Nat) (h : PktHdr) (p : UpdatePkt)
  | mark (port : Nat) (h : PktHdr) (p : MarkPkt)
  | remoteReadTimeout (tagSlot : Nat)
  | promoteResend (col idx : Nat)
  | migrationReadIssue (map : Nat)
  | migrationReadRetry (idx : Nat)
  | xltInval (val : W64)
  | invalTakeEffect
  | rangeRetranslate (ord stream : Nat) (v : ChipView)
  | invalAck
  | faultRaise
  | faultRecordWrite
  | faultReplyReplay (val : W64)
  | faultReplyAbort (val : W64)
  | faultOverdue (pend : Nat)
  | fltRingHeadWrite (val : W64)
  | fltRingConfigWrite (size : Bool) (val : W64)
  | fltStatusClear (val : W64)
  | streamTailTimeout (flow : Nat)
  | flowTimeout (flow : Nat)
  | qhSplitWrite (val : W64)
  | qhTimeoutWrite (val : W64)
  | qhCellUncorrectable (spot : CellSpot)
  | rdData (port : Nat) (hdr : W64) (data : List Byte)
  | wrAck (port : Nat) (hdr : W64)
  | cdpHeaderDiscard (port : Nat) (hdr : W64)
  | cdpReadyChange (port : Nat) (kRdy sRdy : Bool)
  | cdpCreditReturn (port : Nat) (header data : Bool)
  | hbmThermalSample (stack temp : Nat)
  | hbmRefresh (stack chan bank : Nat)
  | hbmPatrol (cw : Nat) (syms : List SymErr) (written : Bool)
  | hbmReadUncorrectable (e : CwErr) (who : HbmReader)
  | larderPatrol (block wrong : Nat)
  | larderReadUncorrectable (block : Nat) (spot : LarderSpot)
  | hbmTempWrite (stack : Nat) (val : W64)
  | hbmHintCfgWrite (stack : Nat) (val : W64)
  | test1500LoadInstr (stack : Nat) (val : W64) (hard : Bool)
  | test1500ShiftData (stack : Nat) (val : W64) (captured : W32)
  | marginSample (ins : List MarginIn)
  | readerVisit (incs : List IslandInc)
  | dumpPeriodEnd (incs : List IslandInc)
  | ctrModeWrite (val : W64)
  | ctrFreezeWrite (val : W64) (incs : List IslandInc)
  | ctrDumpPeriodWrite (val : W64)
  | ctrSampleWrite (val : W64)
  | sampleRecordWrite (idx : Nat) (times : List Nat)
  | mclIdleCauseClear (col : Nat) (val : W64)
  | asyClear (val : W64)
  | ldgLatePolicyWrite (val : W64)
  | gblEventWrite (val : W64)
  | gblEventEnWrite (off : Nat) (val : W64)
  | gblMsiAddrWrite (val : W64)
  | registerWrite (off : Nat) (val : W64)
  | spanRxElectricalIdle (port : Nat)
  | lastRxExpire (port : Nat)
  deriving DecidableEq, Repr

end Sys2Proof
end

