-- ==== Sys2Proof/Machine/State.lean ====
section
/-! DEFINITION. The state of one K40 as plain data, island by island, and the state right after reset. Each field's
comment ends with the rule that names it, its width and its reset value in square brackets; "model" in place of a
width marks a field that is the model's own bookkeeping of something the manual describes without a register. -/

namespace Sys2Proof.Machine

open Sys2Proof

/-! ## Block, reset and interrupt state -/

/-- Block states, in the order of the codes of R529. -/
inductive BlockState where
  | off | selftest | held | ready | running | quiescing | retention
  deriving DecidableEq, Repr

/-- Reset classes of R540, coded 1, 2, 3 in GBL_RESET. -/
inductive ResetClass where
  | cold | recovery | clerkOnly
  deriving DecidableEq, Repr

/-- What drives the block while GBL_RESET.ACTIVE is nonzero, or while a self-test, wipe or power sequence runs. -/
inductive Sequence where
  /-- No sequence runs. -/
  | idle
  /-- A reset waits for the end of its hold-off (R290, R542): class, RESET_SOURCE. -/
  | holdOff (cls : ResetClass) (source : Nat)
  /-- FORCE_HELD drains the data plane (R526). -/
  | heldDrain
  /-- A drain before P3 or Off, with the target (R557). -/
  | powerDrain (target : Nat)
  /-- The cold sequence of R532 (class 1) or the recovery sequence (class 2) runs; power-up has class 0. -/
  | start (cls : Nat)
  /-- SELFTEST runs with this part mask, asked by mailbox slot (R537). -/
  | selftest (mask : Nat)
  /-- WIPE runs (R551); true once the wipe is done and the Clerk has restarted. -/
  | wipe (booted : Bool)
  /-- LIFECYCLE wipes and restarts (R555); true once that is done and the parts are tested. -/
  | lifecycle (booted : Bool)
  deriving DecidableEq, Repr

/-- States of the IEEE 1149.1 TAP that R643 tells apart. -/
inductive TapState where
  | testLogicReset | shiftDr | shiftIr | other
  deriving DecidableEq, Repr

/-- The GBL block and the reset inputs. -/
structure Gbl where
  /-- Block state [R529, R652; 3 bits; reset 1 SELFTEST]. -/
  state : BlockState
  /-- HELD_CAUSE: bit 0 self-test, 1 boot, 2 FORCE_HELD, 3 Scrapped [R652; 4 bits; reset 0]. -/
  heldCause : Nat
  /-- QUIESCE: 1 reset hold-off, 2 FORCE_HELD drain, 3 drain before P3 or Off [R652; 2 bits; reset 0]. -/
  quiesce : Nat
  /-- LAST_RESET: 0 power-up, 1 cold, 2 recovery, 3 Clerk-only [R652, R653; 2 bits; reset 0]. -/
  lastReset : Nat
  /-- RESET_SOURCE [R652; 3 bits; reset 0]. -/
  resetSource : Nat
  /-- RESETS since power-up, saturating [R652; 16 bits; reset 0]. -/
  resets : Nat
  /-- GBL_EVENT [R654; 21 bits used of 64; reset 0]. -/
  event : W64
  /-- GBL_EVENT_EN [R656; 21 bits used of 64; reset 3]. -/
  eventEn : W64
  /-- GBL_EVENT_ROUTE [R657; 64 bits; reset 0]. -/
  route : W64
  /-- GBL_EVENT_ROUTE_HI [R657; 20 bits used of 64; reset 0]. -/
  routeHi : W64
  /-- GBL_MSI_MODE [R658; 16 bits used of 64; reset 0]. -/
  msiMode : W64
  /-- GBL_MSI_ADDR [R658; 64 bits; reset 0]. -/
  msiAddr : W64
  /-- Lines that keep one message pending while VALID is 0 [R660; model; reset none]. -/
  msiPending : List Nat
  /-- Messages sent per line since GBL_MSI_ADDR was written, modulo 2^16 [R660; 16 bits each; reset 0]. -/
  msiSeq : AMap Nat
  /-- The condition of each line as last evaluated [R659; 16 bits; reset 0]. -/
  lineCond : Nat
  /-- irq_k40 [R635; 16 bits; reset 0]. -/
  irq : Nat
  /-- Class shown in ACTIVE of GBL_RESET: 0 to 3 [R662; 2 bits; reset 0]. -/
  active : Nat
  /-- REFUSED of GBL_RESET [R541, R543, R662; 1 bit; reset 0]. -/
  refused : Bool
  /-- REFUSALS of GBL_RESET [R662; 8 bits; reset 0]. -/
  refusals : Nat
  /-- The sequence in progress [R532, R537, R540, R551, R555; model; reset: the power-up sequence]. -/
  seq : Sequence
  /-- A failed self-test stands [R536; model; reset false]. -/
  testFailed : Bool
  /-- SRAM_FAILED of the last SRAM test [R537, R538; 5 bits; reset 0]. -/
  sramFailed : Nat
  /-- por_n as driven: true while asserted [R617, R638; 1 bit; reset released]. -/
  porLow : Bool
  /-- rst_n as driven: true while low [R617, R639; 1 bit; reset high]. -/
  rstLow : Bool
  /-- refclk_100 lost or a rail out of tolerance until por_n is asserted and released [R637, R641; 1 bit; reset 0]. -/
  clockLost : Bool
  /-- trst_n as driven: true while low [R617, R643; 1 bit; reset low, as the integrator may tie it]. -/
  trstLow : Bool
  /-- The TAP's state [R643; model; reset Test-Logic-Reset]. -/
  tap : TapState
  /-- The life-cycle state in the fuses: 0 Blank, 1 Provisioned, 2 Field, 3 Field-Debug, 4 Return, 5 Scrapped
  [R552, R650, R670; 3 bits; reset 1, as delivered]. -/
  lifecycle : Nat
  /-- Silicon stepping, STEP_MAJOR × 16 + STEP_MINOR [R649; 8 bits; reset: fused, DESIGN CHOICE 0 (log 2)]. -/
  stepping : Nat
  /-- The 128-bit unique identifier in the fuses [R535; 128 bits; reset: fused, DESIGN CHOICE 0 (log 2)]. -/
  uid : BitVec 128
  /-- ID_FW [R651; 49 bits used of 64; reset 0]. -/
  idFw : W64
  /-- The fused rollback counter an image's SECVER is compared with [R534; 16 bits; reset: fused, DESIGN CHOICE 0 (log 2)]. -/
  rollback : Nat
  /-- The fused SHA-384 digest of the owner key [R553, R670; 384 bits; reset: fused, DESIGN CHOICE 0 (log 2)]. -/
  ownerDigest : BitVec 384
  /-- Boot count in the CSB store [R673; 32 bits; reset: DESIGN CHOICE 0 (log 2), so that the first boot reads 1]. -/
  bootCount : Nat
  deriving DecidableEq, Repr

/-! ## Mailboxes, Clerk and Watchman -/

/-- A Deold message (R501): its header fields and W1 to W7. -/
structure Msg where
  op : Nat
  seq : Nat
  ctx : Nat
  w : List W64
  deriving DecidableEq, Repr

/-- A command the Clerk has taken and not answered (R506). -/
structure Taken where
  slot : Nat
  msg : Msg
  /-- Held until COMMIT_DONE (R251) or until a template slot drains (R114). -/
  held : Bool
  deriving DecidableEq, Repr

/-- A response (R503): KIND 0 FINAL, 1 ACCEPTED, 2 REPORT; its payload as 64-bit words, 7 to an entry. -/
structure Response where
  slot : Nat
  seq : Nat
  op : Nat
  kind : Nat
  status : Status
  entries : Nat
  payload : List W64
  deriving DecidableEq, Repr

/-- A FINAL response whose result block is still being written (R507): it is posted when the last WR_ACK is in. -/
structure Awaiting where
  resp : Response
  left : Nat
  deriving DecidableEq, Repr

/-- An accepted asynchronous command whose REPORT is not posted yet (R504). -/
structure Owed where
  slot : Nat
  seq : Nat
  op : Nat
  deriving DecidableEq, Repr

/-- The MBX block. -/
structure Mbx where
  /-- MBX_SLOT words, word w of slot n at key 8n + w [R495, R501; 512 × 64 bits; reset 0]. -/
  slots : AMap W64
  /-- Busy slots in doorbell order; bit n of MBX_BUSY is membership [R495, R498; 64 bits; reset 0]. -/
  busy : List Nat
  /-- Busy slots the Clerk has not taken, in doorbell order [R495, R506; model; reset none]. -/
  rung : List Nat
  /-- Commands taken and not answered, in the order taken [R506, R523; model; reset none]. -/
  taken : List Taken
  /-- Responses that wait for ring room, in order [R500; model; reset none]. -/
  respQ : List Response
  /-- FINAL responses that wait for their result block to be accepted [R507; model; reset none]. -/
  awaiting : List Awaiting
  /-- MBX_RESP_BASE [R498; 49 bits used of 64; reset 0]. -/
  respBase : W64
  /-- SIZE of MBX_RESP_SIZE [R498; 17 bits; reset 0x400]. -/
  respSize : Nat
  /-- REFUSED of MBX_RESP_SIZE [R496, R498; 1 bit; reset 0]. -/
  refused : Bool
  /-- MBX_RESP_HEAD [R498; 32 bits; reset 0]. -/
  head : Nat
  /-- MBX_RESP_TAIL [R498; 32 bits; reset 0]. -/
  tail : Nat
  /-- BEATS of MBX_HEARTBEAT [R498, R520; 32 bits; reset 0]. -/
  beats : Nat
  /-- MISSED of MBX_HEARTBEAT [R498, R520; 3 bits; reset 0]. -/
  missed : Nat
  deriving DecidableEq, Repr

/-- A Clerk log entry (R515): sequence, event code, open step, 16 B of arguments as two words. -/
structure LogEntry where
  seq : Nat
  code : Nat
  step : Nat
  a0 : W64
  a1 : W64
  deriving DecidableEq, Repr

/-- The recovery report of R549 before it is posted. -/
structure RecReport where
  sealedStep : Nat
  phase : Nat
  sealedValid : Bool
  sealedKept : Bool
  openValid : Bool
  source : Nat
  openStep : Nat
  runsLost : Nat
  openEntries : Nat
  openTokens : Nat
  openContrib : Nat
  sealedEntries : Nat
  sealedTokens : Nat
  sealedContrib : Nat
  deriving DecidableEq, Repr

/-- Reductions, in the order of REDUCTION (R516). -/
inductive Reduction where
  | sum | mean | sumsq | meanvar | max
  deriving DecidableEq, Repr

/-- An installed Run template (table of R113, image header of R516). -/
structure Template where
  backward : Bool
  red : Reduction
  weighted : Bool
  wgrad : Bool
  outFmts : Nat
  fuseOps : Nat
  preload : Bool
  hintRows : Nat
  hintStreams : Nat
  ninstr : Nat
  nin : Nat
  colMask : Nat
  program : List W64
  deriving DecidableEq, Repr

/-- CLERK of WCH_STATUS, in the order of its codes (R524). -/
inductive ClerkState where
  | notStarted | booting | running | haltedLost | haltedHost | bootFailed
  deriving DecidableEq, Repr

/-- The Clerk and what it keeps. -/
structure Clerk where
  /-- CLERK of WCH_STATUS [R524; 3 bits; reset 0 NOT_STARTED]. -/
  state : ClerkState
  /-- An uncorrectable SRAM word has halted the Clerk and the Watchman has not acted yet [R572; model; reset false]. -/
  stopped : Bool
  /-- The Clerk log, oldest first, at most 2,048 entries [R515; 2,048 × 32 B; reset empty]. -/
  log : List LogEntry
  /-- Sequence number of the next log entry [R515; 32 bits; reset 0, DESIGN CHOICE (log 2)]. -/
  logNext : Nat
  /-- Accepted asynchronous commands with a REPORT owed, kept in the configuration record [R504; model; reset none]. -/
  owed : List Owed
  /-- Commands whose slots were busy when a recovery reset took hold, in doorbell order [R548; model; reset none]. -/
  lost : List Owed
  /-- REPORTs owed from before a recovery reset [R504, R548; model; reset none]. -/
  lostOwed : List Owed
  /-- The recovery report to post [R549; model; reset none]. -/
  report : Option RecReport
  /-- The payload of the REPORT of the last SELFTEST, WIPE or LIFECYCLE [R538; model; reset none]. -/
  testReport : List W64
  /-- Template install waiting for its slot to drain: template slot, mailbox slot, the template [R114; model; reset none]. -/
  waiting : Option (Nat × Nat × Template)
  /-- NODE_ID and NODE_VALID in the configuration record [R546; 15 bits; reset 0]. -/
  cfgNode : Nat × Bool
  /-- The plan in the configuration record [R307, R546; 64 bits; reset 0]. -/
  cfgPlan : W64
  deriving DecidableEq, Repr

/-- The Watchman block. -/
structure Wch where
  /-- SHUTTERED of WCH_STATUS [R521, R524; 1 bit; reset 0]. -/
  shuttered : Bool
  /-- BUSY of WCH_STATUS: a Watchman command is in progress [R524, R526; 1 bit; reset 0]. -/
  busy : Bool
  /-- LOST_COUNT [R524; 16 bits; reset 0]. -/
  lostCount : Nat
  /-- WCH_ARG [R525; 64 bits; reset 0]. -/
  arg : W64
  /-- WCH_RESULT [R525; 64 bits; reset 0]. -/
  result : W64
  /-- WCH_LOGWIN [R526; 120 × 32 B; reset empty]. -/
  logwin : List LogEntry
  /-- A beat came in the present interval [R520; model; reset false]. -/
  beat : Bool
  deriving DecidableEq, Repr

/-! ## Tables, templates, home maps, HBM table area -/

/-- States of a version slot (R72). -/
inductive SlotState where
  | empty | loading | standby | active | draining
  deriving DecidableEq, Repr

/-- What the K40 tracks of one allocated shelf besides its bytes in HBM: its class, the next free byte of its row
area, its Assayer signal (R98), its evaluation mark (R278) and, once a rebuild has replaced it, the Runs it must outlive
(R57, R99). -/
structure ShelfInfo where
  num : Nat
  cls : RowClass
  fill : Nat
  signal : W32
  mark : Option Nat
  retired : Option (List Nat)
  deriving DecidableEq, Repr

/-- A version slot of a table (R34, R72, R668). -/
structure VSlot where
  state : SlotState
  rows : Nat
  shelves : Nat
  dirLoc : Nat
  shelfLoc : Nat
  stateLoc : Nat
  defLoc : Nat
  defStateLoc : Nat
  refs : Nat
  used : List ShelfInfo
  deriving DecidableEq, Repr

/-- Optimiser kinds, in the order of OPT_KIND (R267). -/
inductive OptKind where
  | none | sgd | momentum | adagrad | adam
  deriving DecidableEq, Repr

/-- The optimiser block (R267). Values are FP32 bits. -/
structure OptBlock where
  kind : OptKind
  s16 : Bool
  partW16 : Bool
  threshold : Bool
  lr : W32
  beta1 : W32
  beta2 : W32
  eps : W32
  wd : W32
  shelfUp : W32
  shelfDown : W32
  shelfDecay : W32
  b1Pow : W32
  b2Pow : W32
  powStep : Nat
  deriving DecidableEq, Repr

/-- A table descriptor (R34). TABLE_STATE is LIVE or DESTROYING; an absent key of `State.tables` is ABSENT. -/
structure Table where
  dim64 : Nat
  hbits : Nat
  homeMap : Nat
  rangeMode : Bool
  defMode : Bool
  defMean : Bool
  meanNorm : Bool
  drop : Bool
  shelfExpPin : Bool
  classFixed : Bool
  fixedClass : RowClass
  shelfExpInit : Nat
  seed : W64
  missingValue : W64
  popW32 : Nat
  popW16 : Nat
  popW8 : Nat
  missingEn : Bool
  defHome : Nat
  pawnSlots : Nat
  slot0 : VSlot
  slot1 : VSlot
  active : Nat
  destroying : Bool
  opt : OptBlock
  /-- AGREED[t], unset after Table create (R210). -/
  agreed : Option Nat
  /-- A Shutter of the table has begun, and whether it was forced (R577, R238). -/
  shut : Option Bool
  deriving DecidableEq, Repr

/-- A migrating row of an INBOUND shard (R584 to R590): the slices received so far. -/
structure MigRow where
  tid : Nat
  row : Nat
  pos : Nat
  got : List RowPkt
  written : Bool
  failed : Bool
  deriving DecidableEq, Repr

/-- One INBOUND shard of one table: the next directory position to request and the rows requested. -/
structure Inbound where
  shard : Nat
  tid : Nat
  next : Nat
  rows : List MigRow
  deriving DecidableEq, Repr

/-- The forwarding counts of a map slot (R580). -/
structure FwdCounts where
  rowsOut : Nat
  rowsIn : Nat
  entriesOut : Nat
  rowsFailed : Nat
  partials : Nat
  reads : Nat
  epochDropped : Nat
  deriving DecidableEq, Repr

/-- A home-map slot (R59, R60): the nodes of the shards (0 where not listed), its epoch, and re-sharding state. -/
structure HomeMap where
  entries : AMap Nat
  epoch : Nat
  /-- Where it lies in the HBM table area, its ordinal table behind it (R36). -/
  loc : Nat
  unusable : Bool
  /-- The previous map and epoch while the forwarding period is open (R583). -/
  old : Option (AMap Nat × Nat)
  inbound : List Inbound
  /-- Rows handed over as losing home: TID, ROW (R585). -/
  handed : List (Nat × Nat)
  /-- Slices of rows served to migration reads and not yet handed over: TID, ROW, slice (R585). -/
  served : List (Nat × Nat × Nat)
  counts : FwdCounts
  deriving DecidableEq, Repr

/-- A row move in progress (R55, R56): where its directory entry is and the entry it ends with. -/
structure RowMove where
  tid : Nat
  slot : Nat
  dirAddr : Nat
  entry : BitVec 128
  /-- The copy at the new location has completed (R547). -/
  copied : Bool
  deriving DecidableEq, Repr

/-! ## Translation and faults -/

/-- A segment (R410): its four words. -/
structure Seg where
  base : W64
  last : W64
  phys : W64
  flags : W64
  deriving DecidableEq, Repr

/-- An address context: its registers and segments (R404 to R416). -/
structure Ctx where
  valid : Bool
  ptMode : Bool
  winOfs : W64
  root : W64
  ptfmt : W64
  segs : AMap Seg
  deriving DecidableEq, Repr

/-- A leaf of the walker cache (R420): the context, the HVA and physical bases, the level, and the write bit. -/
structure Leaf where
  ctx : Nat
  hva : Nat
  level : Nat
  pa : Nat
  write : Bool
  deriving DecidableEq, Repr

/-- The kept translation of a range (R422): a segment's displacement, or pinned leaves. -/
inductive Xlat where
  | seg (n : Nat) (base : Nat) (phys : Nat)
  | pages (winOfs : Nat) (leaves : List Leaf)
  deriving DecidableEq, Repr

/-- Fault kinds, in the order of KIND (R434). -/
inductive FaultKind where
  | notPresent | segment | perm | walk
  deriving DecidableEq, Repr

/-- What faulted: an admission walk of a submission flow, or a stream of an admitted item. -/
inductive FaultSource where
  | admission (flow : Nat)
  | stream (ord stream : Nat)
  deriving DecidableEq, Repr

/-- A fault before it has an entry (R429 to R432). `key` is the segment number, or the DA bits at or above the
walk's page in page-table mode. -/
structure FaultReq where
  src : FaultSource
  ctx : Nat
  ptMode : Bool
  kind : FaultKind
  key : Nat
  seg : Nat
  level : Nat
  da : Nat
  write : Bool
  carter : Nat
  tag : Nat
  deriving DecidableEq, Repr

/-- A pending entry (R431): its generation, first fault, sources joined, and whether its record is written. -/
structure PendEntry where
  gen : Nat
  first : FaultReq
  srcs : List FaultSource
  written : Bool
  /-- Its record has found the ring full (R436). -/
  met : Bool
  deriving DecidableEq, Repr

/-- The FLT block. -/
structure Flt where
  /-- FLT_RING_BASE [R444; 49 bits used of 64; reset 0]. -/
  base : W64
  /-- FLT_RING_SIZE [R445; 17 bits; reset 0x1000]. -/
  size : Nat
  /-- FLT_RING_HEAD [R446; 32 bits; reset 0]. -/
  head : Nat
  /-- FLT_RING_TAIL [R446; 32 bits; reset 0]. -/
  tail : Nat
  /-- FULL of FLT_STATUS [R447; 1 bit; reset 0]. -/
  full : Bool
  /-- PEND_FULL [R447; 1 bit; reset 0]. -/
  pendFull : Bool
  /-- BAD_REPLY [R447; 1 bit; reset 0]. -/
  badReply : Bool
  /-- OVERDUE [R447; 1 bit; reset 0]. -/
  overdue : Bool
  /-- REFUSED [R447; 1 bit; reset 0]. -/
  refused : Bool
  /-- RECORDS [R447; 32 bits; reset 0]. -/
  records : Nat
  /-- Pending entries in use by number [R431; 256 entries; reset none]. -/
  pend : AMap PendEntry
  /-- Generations of the entries, raised when an entry is taken [R431; 256 × 8 bits; reset 0]. -/
  gens : AMap Nat
  /-- Entries whose records wait for the ring, in the order taken [R436; model; reset none]. -/
  recQ : List Nat
  /-- Faults raised and not yet joined or entered, in the order they stalled [R431, R432; model; reset none]. -/
  raised : List FaultReq
  deriving DecidableEq, Repr

/-- The XLT block. -/
structure Xlt where
  /-- CTX of XLT_CTX_SEL [R404; 6 bits; reset 0]. -/
  ctxSel : Nat
  /-- The 64 contexts; an absent one has VALID 0 and page-table mode [R404 to R416; 64 contexts; reset none set up]. -/
  ctxs : AMap Ctx
  /-- Unpinned and pinned leaves of the walker cache [R420; 4,096 leaves; reset empty]. -/
  cache : List Leaf
  /-- The invalidation that awaits its acknowledgement: its XLT_INVAL word [R424, R425; 64 bits; reset none]. -/
  inval : Option W64
  /-- The invalidation has taken effect [R426; model; reset false]. -/
  invalActive : Bool
  /-- SEQ of XLT_INVAL_ACK [R425; 4 bits; reset 0]. -/
  ackSeq : Nat
  /-- REFUSED of XLT_INVAL_ACK [R425; 1 bit; reset 0]. -/
  refused : Bool
  deriving DecidableEq, Repr

/-! ## Queue Hall: flows, Runs, transfers, Chip Data Ports -/

/-- Flow kinds, in the order of their codes (R456). -/
inductive FlowKind where
  | unused | runSubmit | xferSubmit | complete | stream
  deriving DecidableEq, Repr

/-- An item of a submission flow: the words of its descriptor (16 for a Run, 8 for a transfer), whether a re-arm
replaced it (R483) or a forced Shutter ended it (R577), and whether a cell of it was found uncorrectable (R453). -/
structure SubItem where
  words : List W64
  replaced : Bool
  ended : Bool
  bad : Bool
  deriving DecidableEq, Repr

/-- A flow (R454 to R465, R491). A COMPLETE flow holds records of 4 words each. -/
structure Flow where
  kind : FlowKind
  limit : Nat
  reserve : Nat
  items : List SubItem
  records : List (List W64)
  /-- Records whose cell was found uncorrectable (positions). -/
  badRecords : List Nat
  /-- Cells promised to records not yet written (R459). -/
  promised : Nat
  lastPopped : List W64
  underrun : Bool
  overrun : Bool
  timeout : Bool
  shut : Bool
  shutForced : Bool
  gen : Nat
  /-- Ordinals of the flow's items that had begun at its last re-arm: they finish their data movement before admission
  takes an item of the new generation (R484). -/
  barrier : List Nat
  deriving DecidableEq, Repr

/-- A Run descriptor's fields (R115). -/
structure RunDesc where
  template : Nat
  flow : Nat
  tid : Nat
  spec : Bool
  keepRows : Bool
  armGen : Nat
  step : Nat
  tag : Nat
  idxDa : Nat
  ctx : Nat
  idxCount : Nat
  idxW64 : Bool
  idxSigned : Bool
  fixedLen : Bool
  bagLenM1 : Nat
  ofsDa : Nat
  nbags : Nat
  wgtDa : Nat
  wgtEn : Bool
  wgtBf16 : Bool
  outDa : Nat
  outFmt : Nat
  fuseDa : Nat
  fuseOp : Nat
  fuseBf16 : Bool
  preDa : Nat
  preEn : Bool
  preBf16 : Bool
  tallyFloor : Nat
  hintRows : Nat
  hintStreams : Nat
  gradDa : Nat
  gradBf16 : Bool
  args : List W64
  deriving DecidableEq, Repr

/-- A transfer descriptor's fields (R476). -/
structure XferDesc where
  srcDa : Nat
  srcCtx : Nat
  dstDa : Nat
  dstCtx : Nat
  elem : Nat
  n0 : Nat
  n1 : Nat
  n2 : Nat
  n3 : Nat
  armGen : Nat
  srcS1 : Int
  srcS2 : Int
  srcS3 : Int
  dstS1 : Int
  dstS2 : Int
  dstS3 : Int
  flow : Nat
  hint : Nat
  tag : Nat
  deriving DecidableEq, Repr

/-- The ranges of a Run (R116). -/
inductive RangeKind where
  | index | offsets | weight | output | operand | preload | gradient
  deriving DecidableEq, Repr

/-- An element that waits to be written: its index in the range, the bag it belongs to, its bytes. -/
structure OutElem where
  idx : Nat
  bag : Nat
  bytes : List Byte
  deriving DecidableEq, Repr

/-- A stream of a Run: one range of R116 with its translation, element size and cursor, and the data it holds. -/
structure Stream where
  kind : RangeKind
  da : Nat
  len : Nat
  elem : Nat
  write : Bool
  xlat : Xlat
  /-- The stream-pool flow that carries it (R486). -/
  flow : Nat
  /-- Elements asked for or written so far (R449). -/
  cursor : Nat
  /-- Inbound: the bytes delivered so far, by offset in the range. -/
  got : AMap Byte
  /-- Inbound: bytes the distributor has taken out of the flow (R487). -/
  taken : Nat
  /-- Inbound: elements whose data failed, with the status of the failure (R330, R453, R627). -/
  badElems : List (Nat × Status)
  /-- Outbound: elements that wait for a Carter, in the order they came (R487). -/
  outQ : List OutElem
  /-- A short unit handed under R464: inbound, the bytes handed; outbound, the elements handed. -/
  handed : Nat
  /-- In the overlap set of an invalidation and not yet re-translated (R427). -/
  stale : Bool
  /-- Stalled on a fault (R430). -/
  stalled : Bool
  /-- Replayed and not yet re-translated (R439). -/
  replay : Bool
  /-- The Carter that moved its last chunk, 63 where none has; while the stream is stalled that Carter stays with it (R430, R475). -/
  carter : Nat
  deriving DecidableEq, Repr

/-- What became of a bag. A `held` bag waits for commit notices (R141). -/
inductive BagState where
  | pending | started | held | draining | left
  | failed (s : Status)
  deriving DecidableEq, Repr

/-- A bag's progress: its state, the slices drained, output writes not yet accepted, and the counts of the pass that
leaves (R146). -/
structure BagInfo where
  state : BagState
  writes : Nat
  defaulted : Nat
  replays : Nat
  redone : Bool
  deriving DecidableEq, Repr

/-- A bag group (R122): its column, 40 while it waits to be handed again (R577), and whether the distributor has forwarded
it (R488). -/
structure GroupInfo where
  col : Nat
  forwarded : Bool
  deriving DecidableEq, Repr

/-- An admitted Run: the sealed descriptor and its progress (R119 to R122, R486). -/
structure Run where
  ord : Nat
  desc : RunDesc
  tmpl : Template
  dim : Nat
  slot : Nat
  epoch : Nat
  subFlow : Nat
  backward : Bool
  streams : List Stream
  nextGroup : Nat
  groups : AMap GroupInfo
  bags : AMap BagInfo
  kept : Bool
  lateDropped : Bool
  lateDeferred : Bool
  /-- Columns whose next flush carries this Run in its set (R207). -/
  flushCols : List Nat
  /-- Partials of the Run not yet taken by the Ledger or a Span port (R152). -/
  partialsOut : Nat
  /-- The status that ended the Run early: CS_FAULT_ABORT or CS_SHUTTERED (R151). -/
  ended : Option Status
  deriving DecidableEq, Repr

/-- An admitted transfer (R477 to R481). -/
structure Xfer where
  ord : Nat
  desc : XferDesc
  subFlow : Nat
  src : Xlat
  dst : Xlat
  /-- Elements asked for, and elements written and accepted, in cursor order. -/
  cursor : Nat
  done : Nat
  /-- Bytes read and not yet written, by element × ELEM + offset. -/
  got : AMap Byte
  /-- Requests outstanding that write element `done`. -/
  writes : Nat
  /-- The first element whose source read failed, with its status (R481). -/
  bad : Option (Nat × Status)
  carter : Nat
  staleSrc : Bool
  staleDst : Bool
  stalled : Bool
  replay : Bool
  ended : Option Status
  deriving DecidableEq, Repr

/-- Who waits for the answer to a request sent on a Chip Data Port (R626, R627). -/
inductive Owner where
  | runRead (ord stream ofs : Nat)
  | runWrite (ord stream bag : Nat)
  | xferRead (ord ofs : Nat)
  | xferWrite (ord elem : Nat)
  | clerkResult (slot : Nat)
  | dump
  | small
  deriving DecidableEq, Repr

/-- Outbound kinds, coded 1 to 4 (R622). -/
inductive OutKind where
  | rdReq | wr | pedAns | pedWr
  deriving DecidableEq, Repr

/-- An outbound header with its data (R621, R622). `tag` is set when it leaves; `data` is what it writes. -/
structure OutReq where
  kind : OutKind
  tag : Nat
  addr : Nat
  len : Nat
  data : List Byte
  owner : Owner
  deriving DecidableEq, Repr

/-- A Chip Data Port (R618 to R630). -/
structure CdpPort where
  kRdy : Bool
  sRdy : Bool
  hdrCredit : Nat
  datCredit : Nat
  /-- Pedlar credits the surroundings hold for this port (R619). -/
  pedCredit : Nat
  /-- What waits for credit or a tag, oldest first. -/
  outQ : List OutReq
  /-- Requests without an answer (R626). -/
  outstanding : List OutReq
  /-- Requests that have left since the last power-up or reset of the block (R346). -/
  sent : Nat
  deriving DecidableEq, Repr

/-- The Queue Hall. -/
structure Qh where
  /-- The configured flows; an absent flow below 8,192 is UNUSED and one above is of the stream pool
  [R456, R457; 16,384 flows; reset none configured]. -/
  flows : AMap Flow
  /-- QH_FLOW_SEL [R490; 14 bits; reset 0]. -/
  flowSel : Nat
  /-- STREAM_K [R493; 5 bits; reset 0x0A]. -/
  streamK : Nat
  /-- EXT_K [R493; 5 bits; reset 0x14]. -/
  extK : Nat
  /-- REFUSED of QH_TIMEOUT [R493; 1 bit; reset 0]. -/
  timeoutRefused : Bool
  /-- READ of QH_SPLIT [R350; 4 bits; reset 9]. -/
  splitRead : Nat
  /-- WRITE of QH_SPLIT [R350; 4 bits; reset 4]. -/
  splitWrite : Nat
  /-- REMOTE of QH_SPLIT [R350; 4 bits; reset 3]. -/
  splitRemote : Nat
  /-- REFUSED of QH_SPLIT [R350; 1 bit; reset 0]. -/
  splitRefused : Bool
  /-- CORRECTED of QH_ECC_COUNT [R494; 32 bits; reset 0]. -/
  eccCorrected : Nat
  /-- UNCORRECTABLE of QH_ECC_COUNT [R494; 16 bits; reset 0]. -/
  eccUncorrectable : Nat
  /-- Words corrected in the present window of 1,200,000 cycles, which stack 0's thermal sample closes [R452; model;
  reset 0]. -/
  eccWindow : Nat
  /-- The SUB window [R117, R648; 16 × 64 bits, write only; reset 0]. -/
  sub : AMap W64
  /-- Admitted and unfinished Runs [R119, R120; at most 4,096 with the transfers; reset none]. -/
  runs : List Run
  /-- Admitted and unfinished transfers [R479; reset none]. -/
  xfers : List Xfer
  /-- Submission flows whose head is parked on an admission fault, with the status that ends it after an abort reply
  [R423, R440; model; reset none]. -/
  parked : AMap (Option Status)
  deriving DecidableEq, Repr

/-! ## Mills and columns -/

/-- The key of a row as the gather path and the Ledger name it. -/
structure RowKey where
  tid : Nat
  defkey : Bool
  row : Nat
  deriving DecidableEq, Repr

/-- One index entry of a bag after classification (R66, R67). -/
inductive Lookup where
  | valid (row : Nat)
  | zeroRow
  | learned
  deriving DecidableEq, Repr

/-- The sources of R128. -/
inductive RowSource where
  | sieve | kept | larder | hbm | replica | remote
  deriving DecidableEq, Repr

/-- A row slice in a row buffer: its header, BASE_EXP, Pawn entries and element bytes. -/
structure RowSlice where
  header : BitVec 128
  baseExp : Nat
  pawns : List W64
  elems : List Byte
  deriving DecidableEq, Repr

/-- A row read a Mill has issued: its position in the bag, key, source, answer and provisional mark (R140). -/
structure MillRead where
  pos : Nat
  key : RowKey
  source : RowSource
  answered : Bool
  status : Status
  prov : Bool
  data : Option RowSlice
  deriving DecidableEq, Repr

/-- A row waiting for its commit notice (R141 to R144). -/
structure WaitRow where
  key : RowKey
  home : Nat
  isLocal : Bool
  noticed : Bool
  deriving DecidableEq, Repr

/-- A bag in the wait list (R141). -/
structure WaitBag where
  ord : Nat
  bag : Nat
  rows : List WaitRow
  deriving DecidableEq, Repr

/-- Sample record under way (R605 to R607): the fields that do not depend on time; cycle counts come with the step that
writes the record. -/
structure Sample where
  ord : Nat
  bag : Nat
  tag : Nat
  template : Nat
  tid : Nat
  col : Nat
  mill : Nat
  spec : Bool
  redone : Bool
  failed : Bool
  backward : Bool
  status : Status
  passes : Nat
  rows : Nat
  srcs : List Nat
  done : Bool
  deriving DecidableEq, Repr

/-- A kept row (R135, R663). -/
structure KeptRow where
  step : Nat
  tid : Nat
  slot : Nat
  row : Nat
  defkey : Bool
  slice : Nat
  /-- Its place in the KEPT region, which the slices of a row share, and the bytes it takes. -/
  block : Nat
  size : Nat
  data : RowSlice
  deriving DecidableEq, Repr

/-- A bag slice on a Mill: the pass in progress (R161 to R183, R189). -/
structure BagWork where
  ord : Nat
  bag : Nat
  slice : Nat
  floor : Nat
  passes : Nat
  /-- Lookups of the bag, in bag order, with their weights (FP32 bits). -/
  lookups : List (Lookup × W32)
  /-- Lookups whose read has been issued, and rows consumed (CURSOR). -/
  issued : Nat
  cursor : Nat
  /-- Rows counted by mean and variance (K). -/
  k : Nat
  acc : List W32
  tally : List Int
  second : List W32
  tallyUsed : Bool
  reads : List MillRead
  prov : List WaitRow
  /-- Finished slices' result elements, and the variance's. -/
  result : List W32
  result2 : List W32
  failed : Option Status
  /-- A slice is being pooled; false between two slices of the bag. -/
  opened : Bool
  /-- Provisional rows of the pass in progress (R140). -/
  provNow : List WaitRow
  /-- Column events of a speculative bag, held until it leaves (R597): event code and count. -/
  events : List (Nat × Nat)
  /-- Rows a speculative bag keeps once it leaves (R27, R137). -/
  keep : List KeptRow
  /-- Lookups of the pass whose events and window uses are counted: those made again after a restore are not (R190). -/
  counted : Nat
  deriving DecidableEq, Repr

/-- A Mill (R182, R187, R188): the bag it pools, the token that waits to drain, and a tile saved to HBM. -/
structure Mill where
  work : Option BagWork
  /-- A token in the finished tile: run, bag, bytes. -/
  token : Option (Nat × Nat × List Byte)
  /-- The finished tile holds a slice that is not the bag's last: run and bag (R182). -/
  part : Option (Nat × Nat)
  saved : Option BagWork
  deriving DecidableEq, Repr

/-- Key of a merge slot (R200). -/
structure MergeKey where
  step : Nat
  key : RowKey
  slice : Nat
  epoch : Nat
  deriving DecidableEq, Repr

/-- A merge slot (R200 to R206): the copies by Mill with their values and tokens, and the Runs in it. -/
structure MergeSlot where
  mkey : MergeKey
  spread : Bool
  owner : Nat
  copies : AMap (List W32)
  tokens : Nat
  bad : Bool
  deriving DecidableEq, Repr

/-- A lookup as a column's window sees it (R131, R133, R201): step and direction of its Run, row key, slot, epoch, slice, and
whether its row is read. -/
structure SieveKey where
  step : Nat
  backward : Bool
  key : RowKey
  slot : Nat
  epoch : Nat
  slice : Nat
  reads : Bool
  deriving DecidableEq, Repr

/-- A Sieve store line (R132): the key within slot and epoch, and the row with its mark once fetched. -/
structure Pin where
  key : RowKey
  slot : Nat
  epoch : Nat
  slice : Nat
  data : Option (RowSlice × Bool)
  deriving DecidableEq, Repr

/-- COL_STATE, in the order of its codes (R158). -/
inductive ColState where
  | enabled | shuttering | shuttered | failed
  deriving DecidableEq, Repr

/-- A Mill column. -/
structure Column where
  /-- GOOD of MCL_SPARE_MAP [R159; 32 bits; reset 0]. -/
  good : Nat
  /-- ACTIVE_MAP of MCL_SPARE_MAP [R155, R159; 32 bits; reset 0]. -/
  active : Nat
  /-- COL_STATE [R158; 2 bits; reset 0]. -/
  state : ColState
  /-- The 32 Mills; an absent one is idle [R154, R182; model; reset idle]. -/
  mills : AMap Mill
  /-- The wait list [R141, R142; 256 bags, 1,024 rows; reset empty]. -/
  wait : List WaitBag
  /-- Bags released for recomputation [R144; model; reset none]. -/
  redo : List (Nat × Nat)
  /-- Lookups made in the present Sieve window, in order; one that needs no row has no key [R131; at most 4,096; reset none]. -/
  window : List (Option SieveKey)
  /-- The Sieve store [R132; 32 KiB; reset empty]. -/
  pins : List Pin
  /-- The column serves backward work [R199; 1 bit; reset 0]. -/
  backward : Bool
  /-- The merge table [R200; 5 slots per active Mill; reset empty]. -/
  merge : List MergeSlot
  /-- A flush is due [R204; model; reset false]. -/
  flushDue : Bool
  /-- Runs that contributed since the last flush [R207; model; reset none]. -/
  runSet : List Nat
  /-- Commit notices that wait to be received [R143; model; reset none]. -/
  notices : List RowKey
  /-- Idle-cause counts c = 0 to 8 [R609, R611; 9 × 48 bits; reset 0]. -/
  idle : AMap Nat
  /-- SEL of MCL_IDLE_CAUSE [R611; 4 bits; reset 0]. -/
  idleSel : Nat
  /-- WRAPPED of MCL_IDLE_CAUSE [R611; 1 bit; reset 0]. -/
  wrapped : Bool
  deriving DecidableEq, Repr

/-! ## Ledger, Day Book, Commit -/

/-- Why a contribution is in the pen: while the pen step is unset, until its epoch is installed (R586), or until a step
opens: the one it folds into (R231, R232). -/
inductive PenHold where
  | no | unset | epoch
  | step (n : Nat)
  deriving DecidableEq, Repr

/-- A contribution at the Ledger input or in the pen: a local partial (FP32) or a received packet. -/
structure Contrib where
  key : RowKey
  slice : Nat
  step : Nat
  epoch : Nat
  vals : List W32
  contrib : Nat
  tokens : Nat
  /-- Runs in whose set the flush stands (R207, R234); empty for a remote partial. -/
  runs : List Nat
  /-- Bytes it takes in the pen (R232). -/
  bytes : Nat
  /-- It was classified late under the DEFER policy (R229). -/
  deferred : Bool
  /-- The packet it came in, for a remote partial (R589). -/
  pkt : Option Packet
  /-- Why it is in the pen. -/
  hold : PenHold
  /-- Its first block in the pen, counted from the pen's base (R232, R302). -/
  block : Nat
  deriving DecidableEq, Repr

/-- A Ledger entry with its accumulator record (R216, R217). -/
structure LEntry where
  pos : Nat
  /-- ACC: the record's Larder block, counted from the base of the Ledger region (R216, R217). -/
  acb : Nat
  /-- APPLIED (R216, R261). -/
  applied : Bool
  key : RowKey
  step : Nat
  deferred : Bool
  promoted : Bool
  /-- The Day Book holds it (R256). -/
  issued : Bool
  /-- The record holds an uncorrectable word (R299). -/
  bad : Bool
  contrib : Nat
  tokens : Nat
  defTokens : Nat
  acc : List W32
  deriving DecidableEq, Repr

/-- A spill record (R225); elements are bfloat16 bits. -/
structure Spill where
  /-- Its slot in the Day Book spill area. -/
  place : Nat
  step : Nat
  key : RowKey
  slice : Nat
  deferred : Bool
  tokens : Nat
  contrib : Nat
  elems : List W16
  deriving DecidableEq, Repr

/-- A journal entry (R254). -/
structure JEntry where
  /-- Its local HBM address in the journal area; 0 for an entry SPILL makes afresh. -/
  loc : Nat
  key : RowKey
  deferred : Bool
  filtered : Bool
  tokens : Nat
  defTokens : Nat
  contrib : Nat
  acc : List W32
  /-- The journal entry is uncorrectable (R331). -/
  bad : Bool
  deriving DecidableEq, Repr

/-- A rebuild record of the journal header (R253, R281). -/
structure Rebuild where
  tid : Nat
  slot : Nat
  oldShelf : Nat
  newShelf : Nat
  delta : Int
  done : Bool
  /-- The rows it re-coded, which a redo hands to the Crier again (R281, R291). -/
  recoded : List Nat
  deriving DecidableEq, Repr

/-- The Day Book's journal (R253): what a recovery reset keeps once `flushDone` is set (R236, R291). -/
structure Journal where
  step : Nat
  lambda : W32
  entries : List JEntry
  /-- Spill records of the step. -/
  spills : Nat
  flushDone : Bool
  /-- TID, B1_POW, B2_POW, POW_STEP of the ADAM tables. -/
  powers : List (Nat × W32 × W32 × Nat)
  rebuilds : List Rebuild
  deriving DecidableEq, Repr

/-- Commit phases, in the order of PHASE (R250). -/
inductive Phase where
  | idle | journal | apply | spill | shelf | finish
  deriving DecidableEq, Repr

/-- Who asked for a promotion: a column or a node, which gets a notice, or a read that waits here (R143, R282). -/
inductive Asker where
  | column (c : Nat)
  | node (n : Nat)
  | read
  deriving DecidableEq, Repr

/-- A promotion on its way to the commit engine (R259). -/
structure PromoReq where
  key : RowKey
  step : Nat
  who : Asker
  deriving DecidableEq, Repr

/-- The commit engine and the report's counts (R293, R294). -/
structure Commit where
  /-- PHASE [R294; 3 bits; reset 0]. -/
  phase : Phase
  /-- REDO [R294; 1 bit; reset 0]. -/
  redo : Bool
  /-- The step of the running or last Commit [R293; 32 bits; reset 0]. -/
  step : Nat
  /-- FLUSH_DONE of LDG_COMMIT_PROGRESS [R256, R294; 1 bit; reset 0]. -/
  flushDone : Bool
  /-- λ of the running Commit [R249; 32 bits; reset 0]. -/
  lambda : W32
  /-- The journal entries not yet issued, in commit order [R258; model; reset none]. -/
  todo : List JEntry
  /-- Promoted keys not yet issued, in order of arrival [R258, R260; 65,536 keys; reset none]. -/
  promoted : List RowKey
  /-- Promotions on their way to the engine [R259; model; reset none]. -/
  promoIn : List PromoReq
  /-- Notices owed once a key is applied [R143, R259; model; reset none]. -/
  notices : List PromoReq
  /-- Spill keys merged in the present batch of SPILL [R276; model; reset none]. -/
  batch : List JEntry
  /-- Spill records not yet folded [R276; model; reset none]. -/
  spillLeft : List Spill
  /-- Keys SPILL has applied [R274; model; reset none]. -/
  spillDone : List RowKey
  /-- Commit counts [R293, R294; 32 bits each, saturating; reset 0]. -/
  applied : Nat
  skipped : Nat
  poisonSkip : Nat
  orphaned : Nat
  spillRecords : Nat
  spillKeys : Nat
  spillScans : Nat
  nonfinite : Nat
  stateSat : Nat
  promotedCount : Nat
  promoteLost : Nat
  /-- Promotions lost before the Commit they belong to is accepted (R260). -/
  lostEarly : Nat
  rebuilt : Nat
  rebuildDeferred : Nat
  crierUpdates : Nat
  marks : Nat
  duration : Nat
  deriving DecidableEq, Repr

/-- Reasons of the drop log, in the order of REASON (R244). -/
inductive DropReason where
  | policy | horizon | stray | table | epoch | absent | shutter
  deriving DecidableEq, Repr

/-- A drop-log slot (R244). -/
structure DropRec where
  row : Nat
  tid : Nat
  defkey : Bool
  reason : DropReason
  stepLo : Nat
  deriving DecidableEq, Repr

/-- What the Ledger classifies against while no step is open (R231). -/
inductive PenRef where
  /-- The pen step is unset: after a cold or recovery reset or a wipe. -/
  | unset
  /-- The step opened last: the pen step, which is r while no step is open, is the one after it. -/
  | after (step : Nat)
  deriving DecidableEq, Repr

/-- The Ledger. -/
structure Ledger where
  /-- OPEN and OPEN_STEP [R239, R240; 1 + 32 bits; reset none]. -/
  openStep : Option Nat
  /-- SEALED and SEALED_STEP [R239, R240; 1 + 32 bits; reset none]. -/
  sealedStep : Option Nat
  /-- OPEN_STEP of LDG_STEP, which keeps the number of the step opened last [R240, R246; 32; reset 0]. -/
  openWas : Nat
  /-- SEALED_STEP of LDG_STEP, which keeps the number of the step sealed last [R240, R246; 32; reset 0]. -/
  sealedWas : Nat
  /-- SEALING [R239, R246; 1 bit; reset 0]. -/
  sealing : Bool
  /-- SEAL_DONE has fired for the sealed step [R20, R228; 1 bit; reset 0]. -/
  sealDone : Bool
  /-- COMMITTING [R239; 1 bit; reset 0]. -/
  committing : Bool
  /-- The index entries with their records [R215 to R217; 4,194,304 entries; reset none]. -/
  entries : List LEntry
  /-- The Day Book spill records, in append order [R225; reset none]. -/
  spills : List Spill
  /-- Keys whose filter bits are set, open step [R273; 16,777,216 bits; reset clear]. -/
  filterOpen : List RowKey
  /-- Keys whose filter bits are set, sealed step [R273; 16,777,216 bits; reset clear]. -/
  filterSealed : List RowKey
  /-- The input queue [R247; 4,096 slices; reset empty]. -/
  input : List Contrib
  /-- How many of the input's slices reached it before the Seal [R228, R246; model; reset 0]. -/
  beforeSeal : Nat
  /-- The holding pen [R232; 16 MiB; reset empty]. -/
  pen : List Contrib
  /-- The pen reference [R231; model; reset unset]. -/
  penRef : PenRef
  /-- PEN_FULL [R239; 1 bit; reset 0]. -/
  penFull : Bool
  /-- SPILLED [R224, R239; 1 bit; reset 0]. -/
  spilled : Bool
  /-- SPILL_RECORDS of the open step [R239; 32 bits; reset 0]. -/
  spillRecords : Nat
  /-- HORIZON [R242; 8 bits; reset 8]. -/
  horizon : Nat
  /-- DEFERRED of LDG_LATE_COUNT [R243; 24 bits; reset 0]. -/
  deferred : Nat
  /-- DROPPED of LDG_LATE_COUNT [R243; 24 bits; reset 0]. -/
  dropped : Nat
  /-- REFUSED of LDG_LATE_COUNT [R243; 16 bits; reset 0]. -/
  refused : Nat
  /-- LDG_DROP_LOG [R244; 64 slots; reset empty]. -/
  dropLog : List DropRec
  /-- LATE_ARRIVAL has not fired since the last Seal, and a step has been sealed [R233; model; reset false]. -/
  lateArmed : Bool
  /-- `lateArmed` as the last Seal found it: it serves contributions that reached the input before that Seal [R233; model;
  reset false]. -/
  latePrior : Bool
  /-- LOCAL_MAX of the open step by table, as shift + 141 [R671; 8 bits per table; reset none]. -/
  localMax : AMap Nat
  /-- The last sealed step and its LOCAL_MAX [R211; model; reset none]. -/
  lastSealed : Option (Nat × AMap Nat)
  /-- The journal in the Day Book [R253; reset none]. -/
  journal : Option Journal
  /-- The commit engine. -/
  commit : Commit
  deriving DecidableEq, Repr

/-! ## Assayer -/

/-- The Assayer counters of one table (R110), plus, for the Commit and each load that runs, the saturations counted in it
and whether SAT_THRESHOLD has been raised for it (R112). -/
structure AsyCounts where
  satRows : Nat
  satElems : Nat
  escElems : Nat
  escLost : Nat
  nan : Nat
  underRows : Nat
  underElems : Nat
  sqerr : W64
  elems : Nat
  rescaled : Nat
  ownExp : Nat
  replayBags : Nat
  replayPasses : Nat
  spans : AMap (Nat × Bool)
  deriving DecidableEq, Repr

/-- The ASY block. -/
structure Asy where
  /-- TID of ASY_TABLE_SEL [R109; 12 bits; reset 0]. -/
  sel : Nat
  /-- Counter sets by TID [R107, R110; one set per TID; reset 0]. -/
  counts : AMap AsyCounts
  /-- THRESH [R111; 32 bits; reset 0]. -/
  thresh : Nat
  /-- HIT_TID [R111; 12 bits; reset 0]. -/
  hitTid : Nat
  /-- HIT [R111; 1 bit; reset 0]. -/
  hit : Bool
  deriving DecidableEq, Repr

/-! ## Larder and HBM -/

/-- A Larder copy of a home row (directory TIER = 1), in 64 B units. -/
structure LCopy where
  tid : Nat
  slot : Nat
  dirAddr : Nat
  block : Nat
  bytes : List Byte
  deriving DecidableEq, Repr

/-- Larder storage that has been given up and stays in use for now (R57): its first block and number of blocks, the
directory entry whose row move must complete first, and the Runs that must end first. -/
structure LRetired where
  block : Nat
  blocks : Nat
  move : Option Nat
  runs : List Nat
  deriving DecidableEq, Repr

/-- A replica of a remote row, whole, with its BASE_EXP (R308). -/
structure Replica where
  tid : Nat
  slot : Nat
  row : Nat
  defkey : Bool
  home : Nat
  bucket : Nat
  block : Nat
  size : Nat
  data : RowSlice
  /-- The step it counts as marked for since its placement (R283); none where no step was open then. -/
  placed : Option Nat
  /-- Slices of an update received so far, until it replaces the replica wholly (R286). -/
  staging : List UpdatePkt
  deriving DecidableEq, Repr

/-- A replica a hot-set refresh is reading: the step it will count as marked for, its slices so far (R310). -/
structure Placing where
  tid : Nat
  slot : Nat
  row : Nat
  home : Nat
  bucket : Nat
  placed : Option Nat
  slices : Nat
  got : List RowPkt
  deriving DecidableEq, Repr

/-- A hot-set refresh that reads replicas (steps 5 to 7 of R309): the command, the replicas (TID, ROW) not yet asked for, the
ones being read, the subscriber removals (TID, node, ROW), the homes a RESYNC was sent to (R390), the report's counts, and the
status of a failed argument read. -/
structure Refresh where
  slot : Nat
  msg : Msg
  todo : List (Nat × Nat)
  now : List Placing
  removals : List (Nat × Nat × Nat)
  asked : List Nat
  hot : Nat
  rep : Nat
  notHomed : Nat
  noHot : Nat
  noRep : Nat
  bucketFull : Nat
  readFailed : Nat
  ends : Option Status
  deriving DecidableEq, Repr

/-- STATE of LRD_STATUS, in the order of its codes (R313). -/
inductive LarderState where
  | untested | ready | retention | failed
  deriving DecidableEq, Repr

/-- The Larder and the LRD block. -/
structure Larder where
  /-- STATE [R313; 2 bits; reset 0 UNTESTED]. -/
  state : LarderState
  /-- LRD_PLAN; PLAN_VALID is whether one is installed [R303, R313; 60 bits used of 64; reset 0]. -/
  plan : W64
  /-- PLAN_VALID [R313; 1 bit; reset 0]. -/
  planValid : Bool
  /-- The hot-set refresh in progress; REFRESHING is whether there is one [R309, R313; 1 bit; reset 0]. -/
  refresh : Option Refresh
  /-- KEPT_REFUSED [R313; 24 bits; reset 0]. -/
  keptRefused : Nat
  /-- CRIER_DISCARDED [R313; 16 bits; reset 0]. -/
  crierDiscarded : Nat
  /-- REPLICA_DROPPED [R313; 16 bits; reset 0]. -/
  replicaDropped : Nat
  /-- CE_COUNT of LRD_ECC [R314; 24 bits; reset 0]. -/
  ceCount : Nat
  /-- UE_COUNT of LRD_ECC [R314; 11 bits; reset 0]. -/
  ueCount : Nat
  /-- LAST_UE of LRD_ECC [R314; 29 bits; reset 0]. -/
  lastUe : Nat
  /-- Words corrected in the present 1 ms window, which stack 0's thermal sample closes [R314; model; reset 0]. -/
  ceWindow : Nat
  /-- Blocks whose word a patrol poisoned [R300; model; reset none]. -/
  poison : List Nat
  /-- REPAIRED of LRD_REPAIR [R315; 16 bits; reset 0]. -/
  repaired : Nat
  /-- MIN_SPARES [R315; 7 bits; reset 0]. -/
  minSpares : Nat
  /-- MIN_CHANNEL [R315; 9 bits; reset 0]. -/
  minChannel : Nat
  /-- BIST_FAIL [R315; 1 bit; reset 0]. -/
  bistFail : Bool
  /-- Larder copies of home rows [R302; HOT region; reset none]. -/
  copies : List LCopy
  /-- Replicas and their index entries [R302, R308; REPLICA region; reset none]. -/
  replicas : List Replica
  /-- Kept rows [R135, R302; KEPT region; reset none]. -/
  kept : List KeptRow
  /-- Storage given up and still in use [R57, R306; model; reset none]. -/
  retired : List LRetired
  deriving DecidableEq, Repr

/-- STATE of HBM_STATUS, in the order of its codes (R338). -/
inductive StackState where
  | untrained | training | ready | shuttering | shuttered | selfRefresh | failed
  deriving DecidableEq, Repr

/-- A front-cache line (R324 to R326): its granule, KEEP mark, whether a KEEP request has touched it since
allocation, least recently used first in its list. -/
structure CacheLine where
  granule : Nat
  keep : Bool
  touched : Bool
  deriving DecidableEq, Repr

/-- An HBM stack and its registers. -/
structure Stack where
  /-- STATE of HBM_STATUS [R338; 3 bits; reset 0 UNTRAINED]. -/
  state : StackState
  /-- HEIGHT [R338; 5 bits; reset 0]. -/
  height : Nat
  /-- RATE [R338; 8 bits; reset 0]. -/
  rate : Nat
  /-- The stack's capacity in GB, from training [R316, R320; model; reset 0]. -/
  capacity : Nat
  /-- POISON_SEEN [R338; 1 bit; reset 0]. -/
  poisonSeen : Bool
  /-- TEMP [R339; 8 bits; reset 0]. -/
  temp : Nat
  /-- THR1 [R339; 8 bits; reset 0x5A]. -/
  thr1 : Nat
  /-- THR2 [R339; 8 bits; reset 0x64]. -/
  thr2 : Nat
  /-- MAX_TEMP [R339; 8 bits; reset 0]. -/
  maxTemp : Nat
  /-- LEVEL of HBM_THROTTLE [R336, R340; 3 bits; reset 0]. -/
  level : Nat
  /-- ABOVE_THR1 [R340; 1 bit; reset 0]. -/
  above1 : Bool
  /-- ABOVE_THR2 [R340; 1 bit; reset 0]. -/
  above2 : Bool
  /-- THROTTLE_MS [R340; 24 bits; reset 0]. -/
  throttleMs : Nat
  /-- THR2_HIT [R340; 1 bit; reset 0]. -/
  thr2Hit : Bool
  /-- CE_COUNT of HBM_ECC_CE [R341; 32 bits; reset 0]. -/
  ceCount : Nat
  /-- RATE_THRESH [R341; 16 bits; reset 0x100]. -/
  rateThresh : Nat
  /-- RATE_HIT [R341; 1 bit; reset 0]. -/
  rateHit : Bool
  /-- Corrections in the present 1 ms window, which a thermal sample closes [R333; model; reset 0]. -/
  ceWindow : Nat
  /-- LAST_ADDR of HBM_ECC_UE [R342; 33 bits; reset 0]. -/
  lastAddr : Nat
  /-- UE_COUNT of HBM_ECC_UE [R342; 16 bits; reset 0]. -/
  ueCount : Nat
  /-- POISON_READS [R342; 15 bits; reset 0]. -/
  poisonReads : Nat
  /-- REPAIRED of HBM_LANE_REPAIR [R343; 9 bits; reset 0]. -/
  repaired : Nat
  /-- AT_LIMIT [R343; 7 bits; reset 0]. -/
  atLimit : Nat
  /-- TRAIN_FAIL [R343; 1 bit; reset 0]. -/
  trainFail : Bool
  /-- KEEP_WAYS [R344; 5 bits; reset 8]. -/
  keepWays : Nat
  /-- DISABLE [R344; 1 bit; reset 0]. -/
  disable : Bool
  /-- DATA of HBM_TEST1500 [R345; 32 bits; reset 0]. -/
  tData : W32
  /-- LEN_M1 [R345; 5 bits; reset 0]. -/
  tLen : Nat
  /-- INSTR [R345; 8 bits; reset 0]. -/
  tInstr : Nat
  /-- OP [R345; 2 bits; reset 0]. -/
  tOp : Nat
  /-- REFUSED of HBM_TEST1500 [R345; 1 bit; reset 0]. -/
  tRefused : Bool
  /-- The instruction held in the wrapper [R335; model; reset 0]. -/
  wrapper : Nat
  /-- The front-cache slice's lines, least recently used first [R324; 1,024 sets of 16 lines; reset empty]. -/
  cache : List CacheLine
  /-- Bank refreshes carried out, by channel × 64 + bank [R323; model; reset 0]. -/
  refreshes : AMap Nat
  deriving DecidableEq, Repr

/-! ## Span -/

/-- STATE of SPN_LINK_STATE, in the order of its codes (R393). -/
inductive LinkState where
  | down | training | up | recover | shuttering | shuttered | failed
  deriving DecidableEq, Repr

/-- A packet in an outbound queue: eligible to send (R378), sent bytes none, and the cells of received packets it still
lies in, as port, channel and number (R360). -/
structure Queued where
  pkt : Packet
  eligible : Bool
  lent : List (Nat × Nat × Nat)
  deriving DecidableEq, Repr

/-- A packet in flits that await ACK (R357): its first and last FSEQ and its channel. -/
structure SentPkt where
  first : Nat
  last : Nat
  chan : Nat
  pkt : Packet
  deriving DecidableEq, Repr

/-- A Span port. -/
structure Port where
  /-- STATE [R393; 3 bits; reset 0 DOWN]. -/
  state : LinkState
  /-- SPARE_USED [R393; 1 bit; reset 0]. -/
  spareUsed : Bool
  /-- SPARE_FOR [R393; 3 bits; reset 0]. -/
  spareFor : Nat
  /-- WRONG_PEER [R393; 1 bit; reset 0]. -/
  wrongPeer : Bool
  /-- PEER_ID [R393; 14 bits; reset 0]. -/
  peerId : Nat
  /-- PEER_PORT [R393; 3 bits; reset 0]. -/
  peerPort : Nat
  /-- PEER_VALID [R393; 1 bit; reset 0]. -/
  peerValid : Bool
  /-- PEER_MEMBER [R393; 8 bits; reset 0]. -/
  peerMember : Nat
  /-- CORRECTED of SPN_FEC_STATS [R394; 32 bits; reset 0]. -/
  corrected : Nat
  /-- UNCORRECTABLE [R394; 16 bits; reset 0]. -/
  uncorrectable : Nat
  /-- CORRUPT [R394; 8 bits; reset 0]. -/
  corrupt : Nat
  /-- MISROUTED [R394; 8 bits; reset 0]. -/
  misrouted : Nat
  /-- REPLAYS of SPN_RETRY [R395; 24 bits; reset 0]. -/
  replays : Nat
  /-- LINK_DOWNS [R395; 8 bits; reset 0]. -/
  linkDowns : Nat
  /-- RECOVERED [R395; 8 bits; reset 0]. -/
  recovered : Nat
  /-- UNRESOLVED [R395; 8 bits; reset 0]. -/
  unresolved : Nat
  /-- Credit held for each channel, in cells [R359, R396; 8 channels; reset 0]. -/
  credit : AMap Nat
  /-- FSEQ of the next flit sent [R355; 12 bits; reset 0, DESIGN CHOICE (log 2)]. -/
  txSeq : Nat
  /-- Packets in flits without ACK [R357; model; reset none]. -/
  unacked : List SentPkt
  /-- Flits sent and not covered by ACK, oldest first [R357; at most 2,048; reset none]. -/
  flits : List Flit
  /-- Packet bytes that wait for a flit to fill, and the unit of it where its first packet begins, 15 for none [R355; model;
  reset none]. -/
  txBytes : List Byte
  txFirst : Nat
  /-- Cells to grant to the peer, by channel [R359, R360; model; reset none]. -/
  owed : AMap Nat
  /-- Flits sent since power-up or a cold or recovery reset, oldest first: a record of outputs [model; reset none]. -/
  wire : List Flit
  /-- FSEQ of the next flit expected [R356; 12 bits; reset 0, DESIGN CHOICE (log 2)]. -/
  rxSeq : Nat
  /-- Last flit accepted, kept after RECOVER as LAST_RX [R384; 12 bits; reset none]. -/
  lastRx : Option Nat
  /-- A NAK is owed to the peer [R356; 1 bit; reset 0]. -/
  nakOut : Bool
  /-- Consecutive NAKs received for one FSEQ, and that FSEQ [R358; model; reset 0]. -/
  naks : Nat × Nat
  /-- Outbound queues by channel [R359; model; reset empty]. -/
  queues : AMap (List Queued)
  /-- Payload bytes of a packet not yet whole [R355, R360; model; reset empty]. -/
  rxBytes : List Byte
  /-- Whole packets received and not yet acted on [R360; model; reset empty]. -/
  rx : List Packet
  /-- An LQUERY waits for its LSTATE [R386; model; reset false]. -/
  querying : Bool
  deriving DecidableEq, Repr

/-- What an outstanding READ of this K40 is for (R369, R376): a Mill's row read, a migrating row, or a placement. -/
inductive ReqFor where
  | mill (col mill pos slice : Nat)
  | migrate (map tid row slice : Nat)
  | place
  deriving DecidableEq, Repr

/-- An outstanding READ (R369): its TAG's slot and generation and its purpose. -/
structure Req where
  tag : Nat
  node : Nat
  pkt : ReadPkt
  purpose : ReqFor
  deriving DecidableEq, Repr

/-- A read a home serves: of a Mill of this K40, or of a READ packet from another node (R139, R282). -/
inductive HomeOrigin where
  | mill (col mill pos : Nat)
  | node (src : Nat) (tag : Nat)
  deriving DecidableEq, Repr

/-- A read that waits at its home (R139, R282, R310, R585). -/
structure HomeRead where
  origin : HomeOrigin
  key : RowKey
  slot : Nat
  slice : Nat
  spec : Bool
  place : Bool
  resync : Bool
  epoch : Nat
  step : Nat
  /-- A migration read (R585). -/
  migrate : Bool
  /-- The front-cache hint of the row read: 1 STREAM, 2 KEEP, 3 DISCARD_AFTER_LAST_USE (R325). -/
  hint : Nat
  /-- It carries the last-use mark (R327). -/
  last : Bool
  /-- It has promoted the entry it waits for (R282). -/
  asked : Bool
  deriving DecidableEq, Repr

/-- A Crier record (R285): a replicated row and its subscribers. -/
structure CrierRec where
  tid : Nat
  slot : Nat
  row : Nat
  defkey : Bool
  nodes : List Nat
  deriving DecidableEq, Repr

/-- The Span blocks and the hall-wide state. -/
structure Span where
  /-- NODE_ID [R362, R392; 14 bits; reset 0]. -/
  nodeId : Nat
  /-- NODE_VALID [R392; 1 bit; reset 0]. -/
  nodeValid : Bool
  /-- RD_TIMEOUT [R392; 8 bits; reset 0x0C]. -/
  rdTimeout : Nat
  /-- FOLD_HOLD [R392; 8 bits; reset 0]. -/
  foldHold : Nat
  /-- LATE_ANSWERS [R392; 16 bits; reset 0]. -/
  lateAnswers : Nat
  /-- CRIER_GAPS [R392; 16 bits; reset 0]. -/
  crierGaps : Nat
  /-- The 8 ports; an absent one is at reset [R351; 8 ports; reset]. -/
  ports : AMap Port
  /-- GROUP_ROUTE [R364; 128 × 8 bits; reset 0]. -/
  groupRoute : AMap Nat
  /-- MEMBER_ROUTE [R364; 128 × 8 bits; reset 0]. -/
  memberRoute : AMap Nat
  /-- Outstanding READs [R369, R376, R33; 16,384 slots; reset none]. -/
  reqs : List Req
  /-- Generations of the request slots [R369, R380; 6 bits each; reset 0]. -/
  gens : AMap Nat
  /-- Partials that wait to enter an outbound queue, with the Runs that emitted them [R377; model; reset none]. -/
  partialQ : List (Packet × List Nat)
  /-- Reads waiting at this home [R139; model; reset none]. -/
  homeReads : List HomeRead
  /-- Migration reads refused for the moment, to be repeated after 1 ms [R586; model; reset none]. -/
  retry : List Req
  /-- Crier records [R285; HBM table area; reset none]. -/
  crier : List CrierRec
  /-- CSEQ to send next, by subscriber [R388; 16,384 × 16 bits; reset 0]. -/
  cseqOut : AMap Nat
  /-- CSEQ expected next, by home, for homes that are synchronised; an absent home is desynchronised
  [R388, R389, R391; 16,384 × 16 bits; reset all desynchronised]. -/
  cseqIn : AMap Nat
  /-- Last end-of-step mark held, by (home, TID): home × 4,096 + TID [R283, R287; model; reset none]. -/
  marks : AMap Nat
  /-- Routes whose present absence HOME_ABSENT has fired for [R382; model; reset none]. -/
  absentFired : List Nat
  deriving DecidableEq, Repr

/-! ## Counters, power, Shutters -/

/-- MODE of CTR_MODE (R612). -/
inductive CtrMode where
  | live | dump | freeze
  deriving DecidableEq, Repr

/-- One island's counters (R593 to R599). -/
structure Island where
  /-- Cycle counter [R593; 48 bits; reset 0]. -/
  cycles : Nat
  /-- CTR_EVSEL[n] [R612; 15 bits used; reset 0]. -/
  evsel : AMap Nat
  /-- CTR_THRESH[n] [R612; 32 bits; reset 0]. -/
  thresh : AMap Nat
  /-- The eight counters [R594; 32 bits; reset 0]. -/
  value : AMap Nat
  /-- Counter values at the last visit [R599; model; reset 0]. -/
  seen : AMap Nat
  /-- Cycle counter at the last visit [R614; 48 bits; reset 0]. -/
  seenCycles : Nat
  /-- AGG[n] [R599, R614; 48 bits; reset 0]. -/
  agg : AMap Nat
  /-- STICKY [R599, R614; 8 bits; reset 0]. -/
  sticky : Nat
  deriving DecidableEq, Repr

/-- The CTR block. -/
structure Ctr where
  /-- MODE [R612; 2 bits; reset 0 LIVE]. -/
  mode : CtrMode
  /-- SKIPPED [R612; 16 bits; reset 0]. -/
  skipped : Nat
  /-- REFUSED of CTR_MODE [R612; 1 bit; reset 0]. -/
  refused : Bool
  /-- CTR_DUMP_BASE [R612; 49 bits used; reset 0]. -/
  dumpBase : W64
  /-- PERIOD [R612; 32 bits; reset 0x400]. -/
  period : Nat
  /-- FREEZE [R612; 1 bit; reset 0]. -/
  freeze : Bool
  /-- FROZEN [R612; 1 bit; reset 0]. -/
  frozen : Bool
  /-- The snapshot the window shows while frozen: islands by number [R604; model; reset none]. -/
  snapshot : AMap Island
  /-- SEQ of CTR_SEQ [R612; 32 bits; reset 0]. -/
  seq : Nat
  /-- SAMPLE_SEQ [R612; 32 bits; reset 0]. -/
  sampleSeq : Nat
  /-- ISLAND of CTR_ISL_SEL [R612; 7 bits; reset 0]. -/
  islSel : Nat
  /-- CTR_SAMPLE without DROPPED [R613; 49 bits used; reset: K = 16]. -/
  sample : W64
  /-- DROPPED [R613; 15 bits; reset 0]. -/
  dropped : Nat
  /-- The LFSR [R605; 32 bits; reset 1]. -/
  lfsr : W32
  /-- The 66 islands; an absent one is all zero [R563, R594; reset 0]. -/
  islands : AMap Island
  /-- Tagged bags whose records are under way or wait to be written [R606; model; reset none]. -/
  samples : List Sample
  deriving DecidableEq, Repr

/-- The PWR block and the operating point. -/
structure Pwr where
  /-- CURRENT [R557, R562; 3 bits; reset 0]. -/
  current : Nat
  /-- TARGET [R562; 3 bits; reset 0]. -/
  target : Nat
  /-- BUSY [R562; 1 bit; reset 0]. -/
  busy : Bool
  /-- The mailbox slot that POWER_STATE answers at the end [R560; model; reset none]. -/
  slot : Option Nat
  /-- LAST_US [R562; 16 bits; reset 0]. -/
  lastUs : Nat
  /-- ISL_SEL of PWR_MARGIN [R566; 7 bits; reset 0]. -/
  islSel : Nat
  /-- MIN_MARGIN [R566; 10 bits; reset 0]. -/
  minMargin : Nat
  /-- MIN_ISLAND [R566; 7 bits; reset 0]. -/
  minIsland : Nat
  /-- VALID of PWR_MARGIN [R566; 1 bit; reset 0]. -/
  valid : Bool
  /-- LOW_THRESH [R566; 10 bits; reset 0x1E]. -/
  lowThresh : Nat
  /-- LOW [R566; 1 bit; reset 0]. -/
  low : Bool
  /-- Monitor samples, island × 16 + n [R566; 10 bits each; reset 0]. -/
  margins : AMap Nat
  /-- INITIAL of PWR_MONITOR, island × 16 + n, in the fuses [R566; 10 bits each; reset: fused, DESIGN CHOICE 0 (log 2)]. -/
  initial : AMap Nat
  /-- VDD_CORE of G0 to G3 in mV, in the CSB store [R564, R568; 4 × 16 bits; reset: not given, DESIGN CHOICE 850 (log 2)]. -/
  volts : List Nat
  /-- The Mill clock in MHz, in the CSB store [R557, R568; 16 bits; reset 1,600, as delivered]. -/
  millMhz : Nat
  deriving DecidableEq, Repr

/-- A Shutter that runs or has finished (R574 to R580): KIND, NUMBER, the mailbox slots and SEQs its REPORT goes to,
and the REPORT's sixteen counts. -/
structure Shutter where
  kind : Nat
  num : Nat
  force : Bool
  owners : List Owed
  w1 : Nat
  counts : AMap Nat
  done : Bool
  deriving DecidableEq, Repr

/-! ## The whole state -/

/-- The state of one K40. -/
structure State where
  /-- Waiting commands, first in first out: the model's queue, no part of the K40 [model; reset empty]. -/
  pending : List Instr
  gbl : Gbl
  mbx : Mbx
  clerk : Clerk
  wch : Wch
  pwr : Pwr
  /-- Table descriptors by TID; absent is ABSENT [R34; 4,096 × 256 B; reset none]. -/
  tables : AMap Table
  /-- Template slots [R113; 512; reset none]. -/
  templates : AMap Template
  /-- Home-map slots [R59; 16; reset none]. -/
  maps : AMap HomeMap
  /-- Row moves in progress [R55, R56; model; reset none]. -/
  moves : List RowMove
  /-- The HBM data space by local address, canonical, 0 where not listed [R320, R550; 384 × NG × 256 B; reset 0]. -/
  hbm : List Host.Cell
  /-- Poisoned codewords, by address / 64, rising [R329, R330; model; reset none]. -/
  poison : List Nat
  xlt : Xlt
  flt : Flt
  qh : Qh
  /-- The 8 Chip Data Ports; an absent one is at reset [R617 to R630; 8 ports; reset down]. -/
  cdp : AMap CdpPort
  /-- What has left on the Chip Data Ports since power-up, oldest first: the model's record of outputs [model; reset none]. -/
  wire : List OutReq
  /-- The 40 columns; an absent one is at reset [R154; 40; reset]. -/
  cols : AMap Column
  ldg : Ledger
  asy : Asy
  lrd : Larder
  /-- The 12 stacks; an absent one is at reset [R317; 12; reset]. -/
  hbmStacks : AMap Stack
  span : Span
  /-- Packets sent on Span ports since power-up, oldest first, with their ports: a record of outputs [model; reset none]. -/
  spanWire : List (Nat × Packet)
  ctr : Ctr
  /-- Shutters [R574; model; reset none]. -/
  shutters : List Shutter
  deriving DecidableEq, Repr

/-- Why the machine stops with a fault: no command of the K40 stops it, so the one constructor names the case that
never arises. -/
inductive Fault where
  /-- Raised by no meaning; safe, since a machine that never stops here goes on as the manual says. -/
  | machineStop
  deriving DecidableEq, Repr

/-- Why a command is refused. -/
inductive Refusal where
  /-- Raised by `exec` alone, for a command that has no meaning yet; safe: it stops where the hardware goes on. -/
  | notModelled (mnemonic : String)
  deriving DecidableEq, Repr

/-! ## Reset -/

def Gbl.reset : Gbl :=
  { state := .selftest, heldCause := 0, quiesce := 0, lastReset := 0, resetSource := 0, resets := 0,
    event := 0, eventEn := 3, route := 0, routeHi := 0, msiMode := 0, msiAddr := 0, msiPending := [],
    msiSeq := [], lineCond := 0, irq := 0, active := 0, refused := false, refusals := 0, seq := .start 0,
    testFailed := false, sramFailed := 0, porLow := false, rstLow := false, clockLost := false, trstLow := true,
    tap := .testLogicReset, lifecycle := 1, stepping := 0,
    uid := 0, idFw := 0, rollback := 0, ownerDigest := 0, bootCount := 0 }

def Mbx.reset : Mbx :=
  { slots := [], busy := [], rung := [], taken := [], respQ := [], awaiting := [], respBase := 0, respSize := 0x400,
    refused := false, head := 0, tail := 0, beats := 0, missed := 0 }

def Clerk.reset : Clerk :=
  { state := .notStarted, stopped := false, log := [], logNext := 0, owed := [], lost := [], lostOwed := [], report := none,
    testReport := [], waiting := none, cfgNode := (0, false), cfgPlan := 0 }

def Wch.reset : Wch :=
  { shuttered := false, busy := false, lostCount := 0, arg := 0, result := 0, logwin := [], beat := false }

def Pwr.reset : Pwr :=
  { current := 0, target := 0, busy := false, slot := none, lastUs := 0, islSel := 0, minMargin := 0,
    minIsland := 0, valid := false, lowThresh := 0x1E, low := false, margins := [], initial := [],
    volts := [850, 850, 850, 850], millMhz := 1600 }

def Xlt.reset : Xlt :=
  { ctxSel := 0, ctxs := [], cache := [], inval := none, invalActive := false, ackSeq := 0, refused := false }

def Flt.reset : Flt :=
  { base := 0, size := 0x1000, head := 0, tail := 0, full := false, pendFull := false, badReply := false,
    overdue := false, refused := false, records := 0, pend := [], gens := [], recQ := [], raised := [] }

def Qh.reset : Qh :=
  { flows := [], flowSel := 0, streamK := 0x0A, extK := 0x14, timeoutRefused := false, splitRead := 9,
    splitWrite := 4, splitRemote := 3, splitRefused := false, eccCorrected := 0, eccUncorrectable := 0, eccWindow := 0,
    sub := [], runs := [], xfers := [], parked := [] }

def Commit.reset : Commit :=
  { phase := .idle, redo := false, step := 0, flushDone := false, lambda := 0, todo := [], promoted := [], promoIn := [],
    notices := [], batch := [], spillLeft := [], spillDone := [], applied := 0, skipped := 0, poisonSkip := 0, orphaned := 0,
    spillRecords := 0, spillKeys := 0, spillScans := 0, nonfinite := 0, stateSat := 0, promotedCount := 0,
    promoteLost := 0, lostEarly := 0, rebuilt := 0, rebuildDeferred := 0, crierUpdates := 0, marks := 0, duration := 0 }

def Ledger.reset : Ledger :=
  { openStep := none, sealedStep := none, openWas := 0, sealedWas := 0, sealing := false, sealDone := false, committing := false,
    entries := [], spills := [], filterOpen := [], filterSealed := [], input := [], beforeSeal := 0, pen := [],
    penRef := .unset, penFull := false, spilled := false, spillRecords := 0, horizon := 8, deferred := 0,
    dropped := 0, refused := 0, dropLog := [], lateArmed := false, latePrior := false, localMax := [], lastSealed := none,
    journal := none, commit := Commit.reset }

def Asy.reset : Asy := { sel := 0, counts := [], thresh := 0, hitTid := 0, hit := false }

def Larder.reset : Larder :=
  { state := .untested, plan := 0, planValid := false, refresh := none, keptRefused := 0,
    crierDiscarded := 0, replicaDropped := 0, ceCount := 0, ueCount := 0, lastUe := 0, ceWindow := 0, poison := [],
    repaired := 0, minSpares := 0, minChannel := 0, bistFail := false, copies := [], replicas := [], kept := [],
    retired := [] }

def Span.reset : Span :=
  { nodeId := 0, nodeValid := false, rdTimeout := 0x0C, foldHold := 0, lateAnswers := 0, crierGaps := 0,
    ports := [], groupRoute := [], memberRoute := [], reqs := [], gens := [], partialQ := [], homeReads := [],
    retry := [], crier := [], cseqOut := [], cseqIn := [], marks := [], absentFired := [] }

def Ctr.reset : Ctr :=
  { mode := .live, skipped := 0, refused := false, dumpBase := 0, period := 0x400, freeze := false,
    frozen := false, snapshot := [], seq := 0, sampleSeq := 0, islSel := 0, sample := 0x20, dropped := 0,
    lfsr := 1, islands := [], samples := [] }

/-- The machine right after por_n is released (R531, R532): every register at the value its table's Reset column
gives, every memory and queue empty, the block in SELFTEST with the power-up sequence running. The sequence's end
(CLERK_SECURE_BOOT, then SELFTEST_SEQUENCE_DONE) takes it to READY or HELD (assumption log 1). -/
def State.reset : State :=
  { pending := [], gbl := Gbl.reset, mbx := Mbx.reset, clerk := Clerk.reset, wch := Wch.reset, pwr := Pwr.reset,
    tables := [], templates := [], maps := [], moves := [], hbm := [], poison := [], xlt := Xlt.reset,
    flt := Flt.reset, qh := Qh.reset, cdp := [], wire := [], cols := [], ldg := Ledger.reset, asy := Asy.reset,
    lrd := Larder.reset, hbmStacks := [], span := Span.reset, spanWire := [], ctr := Ctr.reset, shutters := [] }

end Sys2Proof.Machine
end

