-- ==== Sys2Proof/Machine/Ops.lean ====
section
/-! DEFINITION. The named operations every island uses: keyed stores, byte memory, bit fields, saturating counts,
the Chip Data Port queues, events with their interrupt lines, the Clerk log and the response queue. -/

namespace Sys2Proof.Machine

open Sys2Proof

/-! ## Keyed stores -/

/-- The value at a key, if the store holds one. -/
def mget {α : Type} : AMap α → Nat → Option α
  | [], _ => none
  | (k', v) :: r, k => if k = k' then some v else mget r k

/-- The value at a key, or the store's default. -/
def mgetD {α : Type} (m : AMap α) (k : Nat) (d : α) : α := (mget m k).getD d

/-- Store a value, keys strictly rising. -/
def mset {α : Type} : AMap α → Nat → α → AMap α
  | [], k, v => [(k, v)]
  | (k', v') :: r, k, v =>
    if k < k' then (k, v) :: (k', v') :: r
    else if k = k' then (k, v) :: r
    else (k', v') :: mset r k v

/-- Remove a key. -/
def mdel {α : Type} : AMap α → Nat → AMap α
  | [], _ => []
  | (k', v') :: r, k => if k = k' then mdel r k else (k', v') :: mdel r k

/-- Change the value at a key, from the default where the store holds none. -/
def mmod {α : Type} (m : AMap α) (k : Nat) (d : α) (f : α → α) : AMap α := mset m k (f (mgetD m k d))

/-- The element at a list position changed. -/
def lmod {α : Type} (l : List α) (i : Nat) (f : α → α) : List α :=
  match l, i with
  | [], _ => []
  | x :: r, 0 => f x :: r
  | x :: r, n + 1 => x :: lmod r n f

/-- Each element that passes the test changed. -/
def lmap {α : Type} (l : List α) (p : α → Bool) (f : α → α) : List α := l.map (fun x => if p x then f x else x)

/-- The lowest number from `k` on that a list does not hold, looking at `fuel` candidates. -/
def firstFree (used : List Nat) : Nat → Nat → Nat
  | 0, k => k
  | n + 1, k => if k ∈ used then firstFree used n (k + 1) else k

/-! ## Byte memory: the HBM data space (R320), 0 at every unlisted address (R550) -/

/-- One byte. -/
def memGet (m : List Host.Cell) (a : Nat) : Byte := mgetD m a 0

/-- Write one byte; writing 0 removes the entry, which keeps the canonical form. -/
def memSet (m : List Host.Cell) (a : Nat) (b : Byte) : List Host.Cell := if b = 0 then mdel m a else mset m a b

/-- `n` bytes from address `a`. -/
def memRead (m : List Host.Cell) (a n : Nat) : List Byte := (List.range n).map (fun i => memGet m (a + i))

/-- Bytes written from address `a` on. -/
def memWrite (m : List Host.Cell) (a : Nat) : List Byte → List Host.Cell
  | [] => m
  | b :: r => memWrite (memSet m a b) (a + 1) r

/-- Keys strictly rising and every key above a bound. -/
def keysAbove {α : Type} : Nat → AMap α → Bool
  | _, [] => true
  | lo, (k, _) :: r => decide (lo ≤ k) && keysAbove (k + 1) r

/-- The canonical form of memory: addresses strictly rising, no byte equal to what an unlisted address reads as. -/
def Memory.wf (m : List Host.Cell) : Bool := keysAbove 0 m && m.all (fun c => decide (c.2 ≠ 0))

/-- A little-endian number. -/
def leNat : List Byte → Nat
  | [] => 0
  | b :: r => b.toNat + 256 * leNat r

/-- A number as `n` little-endian bytes. -/
def toLe : Nat → Nat → List Byte
  | 0, _ => []
  | n + 1, v => BitVec.ofNat 8 v :: toLe n (v / 256)

/-- Bytes of a list of 64-bit words. -/
def wordsToBytes (ws : List W64) : List Byte := ws.flatMap (fun w => toLe 8 w.toNat)

/-- Bytes as 64-bit words, `n` of them. -/
def bytesToWords : Nat → List Byte → List W64
  | 0, _ => []
  | n + 1, bs => BitVec.ofNat 64 (leNat (bs.take 8)) :: bytesToWords n (bs.drop 8)

/-- A little-endian field of `n` bytes at an offset of a byte block. -/
def fieldAt (bs : List Byte) (ofs n : Nat) : Nat := leNat ((bs.drop ofs).take n)

/-- What the surroundings answer for `n` bytes of chip memory at `a` (R625). -/
def viewBytes (v : ChipView) (a n : Nat) : List Byte := (List.range n).map (fun i => mgetD v.cells (a + i) 0)

/-! ## Bit fields and counts -/

/-- Bits `lo` to `lo + n - 1` of a word. -/
def bits (w : W64) (lo n : Nat) : Nat := w.toNat >>> lo % 2 ^ n

/-- One bit of a word. -/
def bit (w : W64) (i : Nat) : Bool := w.getLsbD i

/-- The same of a plain number. -/
def nbits (w lo n : Nat) : Nat := w >>> lo % 2 ^ n

/-- A truth value as a bit. -/
def b2n (b : Bool) : Nat := if b then 1 else 0

/-- A word whose reserved bits are 0. -/
def reservedClear (w : W64) (lo n : Nat) : Bool := bits w lo n == 0

/-- A count of `n` bits that saturates. -/
def satAdd (n x y : Nat) : Nat := min (x + y) (2 ^ n - 1)

/-- A FP32 or integer word's low 64 bits. -/
def w64 (n : Nat) : W64 := BitVec.ofNat 64 n

/-- R9: step `a` is later than step `b`. -/
def stepLater (a b : Nat) : Bool :=
  let d := (a + pow32 - b) % pow32
  decide (1 ≤ d) && decide (d ≤ 2147483647)

/-- R9: equal or later. -/
def stepGe (a b : Nat) : Bool := a == b || stepLater a b

/-! ## Open step, block state -/

/-- The step the log and the records name as open; 0 when none is. -/
def openStepNo (s : State) : Nat := s.ldg.openStep.getD 0

/-- RUNNING while a step is open or sealed, or a Run or transfer is admitted and unfinished (R529). -/
def hasWork (s : State) : Bool :=
  s.ldg.openStep.isSome || s.ldg.sealedStep.isSome || !s.qh.runs.isEmpty || !s.qh.xfers.isEmpty

/-- The block passes between READY and RUNNING on its own (R530). -/
def settle (s : State) : State :=
  match s.gbl.state with
  | .ready => if hasWork s then { s with gbl := { s.gbl with state := .running } } else s
  | .running => if hasWork s then s else { s with gbl := { s.gbl with state := .ready } }
  | _ => s

/-- READY or RUNNING: admission may take work (R529). -/
def isLive (s : State) : Bool := s.gbl.state == .ready || s.gbl.state == .running

/-- The Clerk executes. -/
def clerkRuns (s : State) : Bool := s.clerk.state == .running && !s.clerk.stopped

/-- The KCP answers: in every state but OFF (R632). -/
def kcpAlive (s : State) : Bool := !s.gbl.porLow && !s.gbl.clockLost && s.gbl.state != .off

/-- A write over the KCP: no effect while nothing acknowledges it (R632). -/
def kcpWrite (s : State) (f : State → State) : Host.Outcome State Fault Refusal :=
  .next (if kcpAlive s then f s else s)

/-- A Shutter of this kind and number has finished (R577). -/
def shutterDone (s : State) (kind num : Nat) : Bool :=
  s.shutters.any (fun x => x.kind == kind && x.num == num && x.done)

/-- A Shutter of this kind and number has begun, finished or not. -/
def shutterBegun (s : State) (kind num : Nat) : Bool :=
  s.shutters.any (fun x => x.kind == kind && x.num == num)

/-- The data plane is shuttered: by the Watchman (R522), or by a Shutter of kind STACK or DATA_PLANE (R577). -/
def dataPlaneShut (s : State) : Bool :=
  s.wch.shuttered || s.shutters.any (fun x => x.kind == 4 || x.kind == 6)

/-- Admission may take a Run or a transfer: block state, power state and Shutters (R529, R522). -/
def admissionOpen (s : State) : Bool := isLive s && !dataPlaneShut s

/-! ## Chip Data Ports -/

/-- A port that is down. -/
def CdpPort.down : CdpPort :=
  { kRdy := false, sRdy := false, hdrCredit := 0, datCredit := 0, pedCredit := 0, outQ := [], outstanding := [],
    sent := 0 }

/-- Port `p`. -/
def cdpPort (s : State) (p : Nat) : CdpPort := mgetD s.cdp p CdpPort.down

/-- A reset or start sequence has not reached the end of secure boot (R646). -/
def beforeBootEnd (s : State) : Bool :=
  s.gbl.state == .selftest &&
    (match s.gbl.seq with
      | .start _ => s.clerk.state == .notStarted || s.clerk.state == .booting
      | _ => false)

/-- k_rdy of port `p`, by block state (R646). -/
def kRdyOf (s : State) (p : Nat) : Bool :=
  if s.gbl.porLow || s.gbl.clockLost || s.gbl.state == .off || beforeBootEnd s then false
  else if s.gbl.state == .retention then p == 0
  else true

/-- Inbound Pedlar entries a port's requests hold: each until its answer has left (R466, R473; assumption log 41). -/
def CdpPort.pedHeld (c : CdpPort) : Nat := (c.outQ.filter (fun r => r.kind == .pedAns)).length

/-- A port with new ready levels: credits return to zero while either is 0, and the K40 grants 8 Pedlar credits when
the port comes up, none in RETENTION (R619, R620, R646), less the entries that answers not yet sent still take (R466, R473). -/
def CdpPort.setReady (c : CdpPort) (retention k r : Bool) : CdpPort :=
  let up := k && r
  let was := c.kRdy && c.sRdy
  { c with
    kRdy := k, sRdy := r,
    hdrCredit := if up && was then c.hdrCredit else 0,
    datCredit := if up && was then c.datCredit else 0,
    pedCredit := if up && !retention then (if was then c.pedCredit else 8 - c.pedHeld) else 0 }

/-- Every port's k_rdy follows the block state. -/
def refreshReady (s : State) : State :=
  { s with cdp := (List.range 8).foldl (fun m p =>
      let c := mgetD m p CdpPort.down
      mset m p (c.setReady (s.gbl.state == .retention) (kRdyOf s p) c.sRdy)) s.cdp }

/-- 64 B units that a request covers (R621, R622). -/
def OutReq.units (r : OutReq) : Nat := (r.addr % 64 + r.len + 63) / 64

/-- Data beats a header owns (R622). -/
def OutReq.beats (r : OutReq) : Nat := if r.kind = .rdReq then 0 else (r.units + 1) / 2

/-- The outbound header (R621). -/
def OutReq.header (r : OutReq) : W64 :=
  let kind := match r.kind with
    | .rdReq => 1
    | .wr => 2
    | .pedAns => 3
    | .pedWr => 4
  w64 (kind + r.tag * 2 ^ 4 + (r.units - 1) * 2 ^ 15 + (if r.kind = .pedAns then 0 else r.addr / 64 * 2 ^ 21))

/-- A Pedlar answer carries the surroundings' own tag and takes none of the port's (R626). -/
def OutReq.takesTag (r : OutReq) : Bool := r.kind != .pedAns

/-- The head of a port's queue can leave: both sides ready, credit for the header and its beats, a tag (R618, R619,
R626). -/
def CdpPort.canSend (c : CdpPort) (r : OutReq) : Bool :=
  c.kRdy && c.sRdy && decide (1 ≤ c.hdrCredit) && decide (r.beats ≤ c.datCredit) &&
    (!r.takesTag || decide (c.outstanding.length < 2048))

/-! ## The bandwidth wheel (R346 to R349) -/

/-- Classes of wheel positions. -/
inductive WheelClass where
  | read | write | remote
  deriving DecidableEq, Repr

/-- The next position: the class of the largest deficit, share × (k + 1) / 16 less the positions it has, ties to R, then W,
then X (R348). -/
def wheelPick (r w x k : Nat) (ps : List WheelClass) : WheelClass :=
  let lack (share : Nat) (c : WheelClass) : Int := (share * (k + 1) : Nat) - (16 * ps.count c : Nat)
  if lack w .write ≤ lack r .read ∧ lack x .remote ≤ lack r .read then .read
  else if lack x .remote ≤ lack w .write then .write
  else .remote

/-- The wheel of 16 positions that the three shares of QH_SPLIT give (R348). -/
def wheelOf (r w x : Nat) : List WheelClass := (List.range 16).foldl (fun ps k => ps ++ [wheelPick r w x k ps]) []

/-- Class of an outbound request (R347): Pedlar-path traffic, completion records and messages are remote, the rest write. -/
def OutReq.cls (r : OutReq) : WheelClass := if r.kind = .pedAns ∨ r.kind = .pedWr then .remote else .write

/-- The oldest request of a class that waits at a port, if it can leave: a class leaves in its order. -/
def CdpPort.ready (c : CdpPort) (k : WheelClass) : Option OutReq :=
  (c.outQ.find? (fun r => r.cls == k)).filter c.canSend

/-- The request that a position of this class takes (R347, R349): a read position counts as write; one whose class has none
ready goes to the other. -/
def CdpPort.pick (c : CdpPort) (k : WheelClass) : Option OutReq :=
  match c.ready .write, c.ready .remote with
  | none, x => x
  | some w, none => some w
  | some w, some x => if k = .remote then some x else some w

/-- A request leaves; an answer that leaves frees its Pedlar entry, whose credit goes back (R473, R619, R626). -/
def CdpPort.send (c : CdpPort) (r : OutReq) : CdpPort × OutReq :=
  let r' := if r.takesTag then { r with tag := firstFree (c.outstanding.map OutReq.tag) 2048 0 } else r
  ({ c with
    outQ := c.outQ.erase r, pedCredit := if r.kind = .pedAns then c.pedCredit + 1 else c.pedCredit, hdrCredit := c.hdrCredit - 1, datCredit := c.datCredit - r.beats, sent := c.sent + 1,
    outstanding := if r.takesTag then c.outstanding ++ [r'] else c.outstanding }, r')

/-- What can leave does, position by position of the wheel from `pos` on. Answers the port and what left. -/
def CdpPort.drain (wheel : List WheelClass) : Nat → Nat → CdpPort → CdpPort × List OutReq
  | 0, _, c => (c, [])
  | n + 1, pos, c =>
    match c.pick (wheel.getD (pos % 16) .write) with
    | none => (c, [])
    | some r =>
      let (c', r') := c.send r
      let (c'', more) := CdpPort.drain wheel n (pos + 1) c'
      (c'', r' :: more)

/-- Port `p` sends what it can. -/
def pumpPort (p : Nat) (s : State) : State :=
  let c := cdpPort s p
  let wheel := wheelOf s.qh.splitRead s.qh.splitWrite s.qh.splitRemote
  let (c', sent) := CdpPort.drain wheel c.outQ.length (Config.wheelAt p c.sent) c
  { s with cdp := mset s.cdp p c', wire := s.wire ++ sent }

/-- The port of a chip-memory address (R624). -/
def portOf (s : State) (a : Nat) : Nat :=
  if s.gbl.state == .retention then 0 else ((a >>> 12) ^^^ (a >>> 15) ^^^ (a >>> 18)) % 8

/-- A request joins port `p`'s queue. -/
def enqueueOn (p : Nat) (r : OutReq) (s : State) : State :=
  pumpPort p { s with cdp := mmod s.cdp p CdpPort.down (fun c => { c with outQ := c.outQ ++ [r] }) }

/-- A request joins the queue of the port its address names. -/
def enqueue (r : OutReq) (s : State) : State := enqueueOn (portOf s r.addr) r s

/-- Bytes of a transfer cut at 4 KiB boundaries (R624). -/
def cut4k : Nat → Nat → List Byte → List (Nat × List Byte)
  | 0, _, _ => []
  | n + 1, a, bs =>
    if bs.isEmpty then []
    else
      let k := 4096 - a % 4096
      (a, bs.take k) :: cut4k n (a + k) (bs.drop k)

/-- The pieces of a write. -/
def pieces (a : Nat) (bs : List Byte) : List (Nat × List Byte) := cut4k (bs.length / 4096 + 2) a bs

/-- Write bytes to chip memory, for an owner that waits for the answers. -/
def chipWrite (kind : OutKind) (owner : Owner) (a : Nat) (bs : List Byte) (s : State) : State :=
  (pieces a bs).foldl (fun t p =>
    enqueue { kind := kind, tag := 0, addr := p.1, len := p.2.length, data := p.2, owner := owner } t) s

/-- Read `n` bytes of chip memory, for an owner that waits for the answer. -/
def chipRead (owner : Owner) (a n : Nat) (s : State) : State :=
  enqueue { kind := .rdReq, tag := 0, addr := a, len := n, data := [], owner := owner } s

/-! ## Events and interrupts -/

/-- Bit numbers of GBL_EVENT (R654). -/
def evClerkLost : Nat := 0
def evSelftestDone : Nat := 1
def evFaultPending : Nat := 2
def evFaultRingFull : Nat := 3
def evCommitDone : Nat := 4
def evSealDone : Nat := 5
def evLateArrival : Nat := 6
def evSatThreshold : Nat := 7
def evFlowTimeout : Nat := 8
def evFlowOverrun : Nat := 9
def evFlowUnderrun : Nat := 10
def evHbmThermal : Nat := 11
def evEccUncorrectable : Nat := 12
def evEccCorrectedRate : Nat := 13
def evSpanLink : Nat := 14
def evHomeAbsent : Nat := 15
def evMarginLow : Nat := 16
def evShutterDone : Nat := 17
def evCounterDump : Nat := 18
def evCtrSticky : Nat := 19
def evInvalAck : Nat := 20

/-- LINE_e of the two route registers (R657). -/
def lineOf (s : State) (e : Nat) : Nat :=
  if e < 16 then bits s.gbl.route (4 * e) 4 else bits s.gbl.routeHi (4 * (e - 16)) 4

/-- The condition of line `n` (R659). -/
def lineCondOf (s : State) (n : Nat) : Bool :=
  (List.range 21).any (fun e => bit s.gbl.event e && bit s.gbl.eventEn e && lineOf s e == n)

/-- Line `n` is signalled by message (R658). -/
def msiLine (s : State) (n : Nat) : Bool := bit s.gbl.msiMode n

/-- Send line `n`'s message: a PED_WR of 4 B at BASE × 64 + 4 × n (R660). -/
def sendMsi (n : Nat) (s : State) : State :=
  let q := (mgetD s.gbl.msiSeq n 0 + 1) % 65536
  let s := { s with gbl := { s.gbl with
    msiSeq := mset s.gbl.msiSeq n q, msiPending := s.gbl.msiPending.filter (· ≠ n) } }
  chipWrite .pedWr .small (bits s.gbl.msiAddr 6 43 * 64 + 4 * n) (toLe 4 (n + q * 65536)) s

/-- A rise of a message-mode line: its message is sent while VALID is 1 and kept pending otherwise (R660). -/
def riseMsi (n : Nat) (s : State) : State :=
  if bit s.gbl.msiAddr 0 then sendMsi n s
  else { s with gbl := { s.gbl with msiPending :=
    if n ∈ s.gbl.msiPending then s.gbl.msiPending else s.gbl.msiPending ++ [n] } }

/-- The 16 line conditions as a number. -/
def lineConds (s : State) : Nat :=
  (List.range 16).foldl (fun c n => c + (if lineCondOf s n then 2 ^ n else 0)) 0

/-- Evaluate the lines after a change of an event, an enable, a route or the mode: levels follow, message-mode lines
whose condition rose send (R635, R659, R660). -/
def evalLines (s : State) : State :=
  let now := lineConds s
  let old := s.gbl.lineCond
  let level := (List.range 16).foldl (fun c n => c + (if now.testBit n && !msiLine s n then 2 ^ n else 0)) 0
  let s' := { s with gbl := { s.gbl with lineCond := now, irq := level } }
  (List.range 16).foldl (fun t n =>
    if now.testBit n && !old.testBit n && msiLine s n then riseMsi n t else t) s'

/-- Raise an event: its GBL_EVENT bit is set; a set bit stays set with no further effect (R654, R655). -/
def raise (e : Nat) (s : State) : State :=
  evalLines { s with gbl := { s.gbl with event := s.gbl.event ||| (1#64 <<< e) } }

/-! ## Clerk log, responses -/

/-- A Clerk log entry; the last 2,048 are kept (R515). -/
def logAdd (code : Nat) (a0 a1 : W64) (s : State) : State :=
  let e : LogEntry := { seq := s.clerk.logNext, code := code, step := openStepNo s, a0 := a0, a1 := a1 }
  let l := s.clerk.log ++ [e]
  { s with clerk := { s.clerk with
    log := l.drop (l.length - 2048), logNext := (s.clerk.logNext + 1) % pow32 } }

/-- A log entry whose code and arguments the manual leaves open (assumption log 9). -/
def logOpen (cause what : Nat) (s : State) : State :=
  logAdd (Config.logCode cause) (Config.logArgs cause what).1 (Config.logArgs cause what).2 s

/-- A response joins the queue for the ring (R500). -/
def post (r : Response) (s : State) : State := { s with mbx := { s.mbx with respQ := s.mbx.respQ ++ [r] } }

/-- A response of one entry to a message in a slot. -/
def respOf (slot : Nat) (m : Msg) (kind : Nat) (st : Status) (payload : List W64) : Response :=
  { slot := slot, seq := m.seq, op := m.op, kind := kind, status := st, entries := 1, payload := payload }

/-- Post the FINAL response of a message. -/
def postFinal (slot : Nat) (m : Msg) (st : Status) (payload : List W64) (s : State) : State :=
  post (respOf slot m 0 st payload) s

/-- Post the REPORT of an accepted command (R504): `entries` of the ring, and the payload. -/
def postReport (o : Owed) (st : Status) (entries : Nat) (payload : List W64) (s : State) : State :=
  let s := post { slot := o.slot, seq := o.seq, op := o.op, kind := 2, status := st, entries := entries,
                  payload := payload } s
  { s with clerk := { s.clerk with owed := s.clerk.owed.filter (· ≠ o) } }

/-- Post the REPORTs of every owed command with this OP. -/
def reportAll (op entries : Nat) (payload : List W64) (s : State) : State :=
  (s.clerk.owed.filter (·.op == op)).foldl (fun t o => postReport o .ok entries payload t) s

/-- Two 32-bit values as one payload word. -/
def pair32 (lo hi : Nat) : W64 := w64 (lo % pow32 + hi % pow32 * pow32)

/-- 32-bit fields as payload words. -/
def words32 : List Nat → List W64
  | [] => []
  | [a] => [pair32 a 0]
  | a :: b :: r => pair32 a b :: words32 r

end Sys2Proof.Machine
end

