-- ==== Sys2Proof/Machine/Fp.lean ====
section
/-! DEFINITION. Binary32 and binary64 arithmetic with rounding to nearest, ties away from zero (R4), and the NaN rules
of R165. Finite values are computed exactly as dyadic numbers m × 2^e and narrowed once. -/

namespace Sys2Proof.Machine

open Sys2Proof

/-- A dyadic number m × 2^e. -/
structure Dy where
  m : Int
  e : Int
  deriving DecidableEq, Repr

/-- m × 2^k for k of either sign is asked only where k ≥ 0; a negative k gives m. -/
def shl (m : Int) (k : Int) : Int := m * (2 ^ k.toNat : Nat)

/-- Exact sum. -/
def Dy.add (a b : Dy) : Dy :=
  let e := min a.e b.e
  { m := shl a.m (a.e - e) + shl b.m (b.e - e), e := e }

/-- Exact product. -/
def Dy.mul (a b : Dy) : Dy := { m := a.m * b.m, e := a.e + b.e }

/-- Exact negation. -/
def Dy.neg (a : Dy) : Dy := { a with m := -a.m }

/-- Exact difference. -/
def Dy.sub (a b : Dy) : Dy := a.add b.neg

/-- a < b. -/
def Dy.lt (a b : Dy) : Bool := decide ((a.sub b).m < 0)

/-- |a|. -/
def Dy.abs (a : Dy) : Dy := { a with m := a.m.natAbs }

/-- floor(log2 |a|) of a nonzero value (R88). -/
def Dy.expo (a : Dy) : Int := (Nat.log2 a.m.natAbs : Nat) + a.e

/-- A positive magnitude n × 2^e rounded to a binary format with `p` fraction bits and smallest quantum 2^qmin: the
magnitude bits, before the test for overflow. Halves go away from zero (R4). -/
def roundMag (p : Nat) (qmin : Int) (n : Nat) (e : Int) : Nat :=
  let big : Int := (Nat.log2 n : Nat) + e
  let q := max (big - p) qmin
  let k := if q ≤ e then n * 2 ^ (e - q).toNat else
    let sh := (q - e).toNat
    (n + 2 ^ (sh - 1)) / 2 ^ sh
  (q - qmin).toNat * 2 ^ p + k

/-- Magnitude bits of +∞ in binary32. -/
def infMag : Nat := 0x7F800000

/-- A binary32 value from its sign and magnitude bits. -/
def mkF (neg : Bool) (mag : Nat) : W32 := BitVec.ofNat 32 (mag + if neg then 0x80000000 else 0)

/-- A dyadic number rounded to binary32; `zneg` is the sign of an exact zero. Overflow gives an infinity (R165). -/
def roundF (zneg : Bool) (d : Dy) : W32 :=
  if d.m = 0 then mkF zneg 0
  else mkF (decide (d.m < 0)) (min (roundMag 23 (-149) d.m.natAbs d.e) infMag)

/-- A dyadic number rounded to binary64 (R110, ASY_MSE_NUM). -/
def roundD (d : Dy) : W64 :=
  if d.m = 0 then 0
  else w64 (min (roundMag 52 (-1074) d.m.natAbs d.e) 0x7FF0000000000000 +
    if d.m < 0 then 0x8000000000000000 else 0)

/-- Sign bit. -/
def fNeg (x : W32) : Bool := x.getLsbD 31
/-- The 31 magnitude bits. -/
def fMag (x : W32) : Nat := x.toNat % 0x80000000
/-- NaN. -/
def isNan (x : W32) : Bool := decide (infMag < fMag x)
/-- Infinity. -/
def isInf (x : W32) : Bool := fMag x == infMag
/-- A zero of either sign. -/
def isZero (x : W32) : Bool := fMag x == 0
/-- Neither NaN nor infinity. -/
def isFin (x : W32) : Bool := decide (fMag x < infMag)

/-- The exact value of a finite binary32 number. -/
def fDy (x : W32) : Dy :=
  let e := fMag x / 0x800000
  let f := fMag x % 0x800000
  let n : Int := if e = 0 then f else f + 0x800000
  { m := if fNeg x then -n else n, e := if e = 0 then -149 else (e : Int) - 150 }

/-- The exact value of a finite binary64 number. -/
def dDy (x : W64) : Dy :=
  let mag := x.toNat % 0x8000000000000000
  let e := mag / 0x10000000000000
  let f := mag % 0x10000000000000
  let n : Int := if e = 0 then f else f + 0x10000000000000
  { m := if x.getLsbD 63 then -n else n, e := if e = 0 then -1074 else (e : Int) - 1075 }

/-- The NaN of an invalid operation (R165). -/
def qNan : W32 := 0x7FC00000#32
/-- +1. -/
def fOne : W32 := 0x3F800000#32
/-- −∞. -/
def fNegInf : W32 := 0xFF800000#32
/-- A NaN with its quiet bit set (R165). -/
def quiet (x : W32) : W32 := x ||| 0x00400000#32

/-- The first NaN among the operands, quieted; else what the operation gives (R165). -/
def nanOr (xs : List W32) (r : W32) : W32 :=
  match xs.find? isNan with
  | some x => quiet x
  | none => r

/-- fma(a, b, c), rounded once (R161, R165). -/
def fma (a b c : W32) : W32 :=
  nanOr [a, b, c] <|
    let pneg := fNeg a != fNeg b
    if isInf a || isInf b then
      if isZero a || isZero b then qNan
      else if isInf c && fNeg c != pneg then qNan
      else mkF pneg infMag
    else if isInf c then c
    else
      let p := (fDy a).mul (fDy b)
      if p.m = 0 && isZero c then mkF (pneg && fNeg c) 0
      else roundF false (p.add (fDy c))

/-- Two-operand sum. -/
def fAdd (a b : W32) : W32 :=
  nanOr [a, b] <|
    if isInf a then (if isInf b && fNeg a != fNeg b then qNan else a)
    else if isInf b then b
    else if isZero a && isZero b then mkF (fNeg a && fNeg b) 0
    else roundF false ((fDy a).add (fDy b))

/-- The value with its sign changed; a NaN keeps its sign. -/
def fFlip (x : W32) : W32 := if isNan x then x else x ^^^ 0x80000000#32

/-- Two-operand difference. -/
def fSub (a b : W32) : W32 := fAdd a (fFlip b)

/-- Two-operand product. -/
def fMul (a b : W32) : W32 :=
  nanOr [a, b] <|
    let neg := fNeg a != fNeg b
    if isInf a || isInf b then (if isZero a || isZero b then qNan else mkF neg infMag)
    else roundF neg ((fDy a).mul (fDy b))

/-- Quotient of two positive dyadic numbers, cut below far beyond the last rounded bit; with halves going away from
zero, cutting toward zero never changes a rounding. -/
def quotDy (a b : Dy) : Dy :=
  let n := a.m.natAbs
  let d := b.m.natAbs
  let k := Nat.log2 d + 64
  { m := (n * 2 ^ k / d : Nat), e := a.e - b.e - k }

/-- Two-operand quotient. -/
def fDiv (a b : W32) : W32 :=
  nanOr [a, b] <|
    let neg := fNeg a != fNeg b
    if isInf a then (if isInf b then qNan else mkF neg infMag)
    else if isInf b then mkF neg 0
    else if isZero b then (if isZero a then qNan else mkF neg infMag)
    else if isZero a then mkF neg 0
    else
      let q := quotDy (fDy a) (fDy b)
      roundF neg { q with m := if neg then -q.m else q.m }

/-- S ÷ d for an exact integer d ≥ 1, rounded once (R175). -/
def fDivNat (a : W32) (d : Nat) : W32 :=
  if isNan a then quiet a
  else if isInf a || isZero a then a
  else
    let q := quotDy (fDy a) { m := d, e := 0 }
    roundF (fNeg a) { q with m := if fNeg a then -q.m else q.m }

/-- 1 ÷ k (R176). -/
def fRecip (k : Nat) : W32 := fDivNat fOne k

/-- The integer square root by bits: `b` bits of the root still to find, `r` found. -/
def isqrtLoop (n : Nat) : Nat → Nat → Nat
  | 0, r => r
  | b + 1, r =>
    let t := r + 2 ^ b
    isqrtLoop n b (if t * t ≤ n then t else r)

/-- Integer square root. -/
def isqrt (n : Nat) : Nat := isqrtLoop n (Nat.log2 n / 2 + 1) 0

/-- Square root, rounded once. -/
def fSqrt (x : W32) : W32 :=
  if isNan x then quiet x
  else if isZero x then x
  else if fNeg x then qNan
  else if isInf x then x
  else
    let d := fDy x
    let odd := d.e % 2 ≠ 0
    let n := d.m.natAbs * 2 ^ (if odd then 65 else 64)
    let e := if odd then d.e - 65 else d.e - 64
    roundF false { m := (isqrt n : Nat), e := e / 2 }

/-- max(acc, t): +0 ranks above −0 (R177); NaN as every other operation (R165). -/
def fMax (a b : W32) : W32 :=
  nanOr [a, b] <|
    let key (x : W32) : Int := if fNeg x then -(fMag x : Int) - 1 else fMag x
    if key a < key b then b else a

/-- a < b for finite or infinite values; false with a NaN. -/
def fLt (a b : W32) : Bool :=
  if isNan a || isNan b then false
  else
    let key (x : W32) : Int := if fNeg x then -(fMag x : Int) else fMag x
    decide (key a < key b)

/-- a ≥ b. -/
def fGe (a b : W32) : Bool := !isNan a && !isNan b && !fLt a b

/-- |a|. -/
def fAbs (x : W32) : W32 := BitVec.ofNat 32 (fMag x)

/-- An exact integer as binary32, rounded once. -/
def fOfInt (n : Int) : W32 := roundF false { m := n, e := 0 }

/-- A code times 2^s: exact for every code and shift of R80 and R81. -/
def fScale (c s : Int) : W32 := roundF false { m := c, e := s }

/-- acc + T × 2^f, exact sum, one rounding (R161). -/
def fJoin (acc : W32) (t f : Int) : W32 :=
  if isNan acc then quiet acc
  else if isInf acc then acc
  else if t = 0 && isZero acc then (if fNeg acc then mkF false 0 else acc)
  else roundF false ((fDy acc).add { m := t, e := f })

/-! ## Integer rounding and narrow forms -/

/-- R82: an integer re-scaled by k ≥ 1 places, halves away from zero; k = 0 leaves it. -/
def rshiftRound (c : Int) (k : Nat) : Int :=
  if k = 0 then c
  else
    let m := (c.natAbs + 2 ^ (k - 1)) / 2 ^ k
    if c < 0 then -(m : Int) else m

/-- R82: x ÷ 2^s rounded to an integer. -/
def roundAway (x : Dy) (s : Int) : Int :=
  if s ≤ x.e then shl x.m (x.e - s) else rshiftRound x.m (s - x.e).toNat

/-- Limit an integer to a range. -/
def clampI (lo hi x : Int) : Int := if x < lo then lo else if hi < x then hi else x

/-- The smallest n with M < (CMAX + 0.5) × 2^n, for M > 0 (R89, R103). -/
def needShift (mx : Dy) (cmax : Nat) : Int :=
  let kk := 2 * cmax + 1
  let m := mx.m.natAbs
  let t0 : Int := (Nat.log2 kk : Nat) - (Nat.log2 m : Nat)
  let fits := if 0 ≤ t0 then decide (m * 2 ^ t0.toNat < kk) else decide (m < kk * 2 ^ (-t0).toNat)
  mx.e + 1 - (if fits then t0 else t0 - 1)

/-- The larger of two magnitudes. -/
def Dy.maxAbs (a b : Dy) : Dy := if a.abs.lt b.abs then b.abs else a.abs

/-- The largest magnitude of finite values; 0 of none. -/
def maxMag (xs : List W32) : Dy := xs.foldl (fun m x => m.maxAbs (fDy x)) { m := 0, e := 0 }

/-- R103: the own exponent of a token, a state vector or a partial: shift, clamped. -/
def ownShift (cmax : Nat) (xs : List W32) : Int :=
  let mx := maxMag xs
  if mx.m = 0 then 0
  else clampI (-141) (if cmax = 127 then 114 else 112) (needShift mx cmax)

/-- A finite value as a code at shift s, clamped to ±CMAX; whether it was clamped (R89, R105). -/
def toCode (cmax : Nat) (s : Int) (x : W32) : Int × Bool :=
  let c := roundAway (fDy x) s
  let c' := clampI (-cmax) cmax c
  (c', c != c')

/-- R83: the value a narrowing conversion takes in place of a NaN or an infinity. -/
def subst (x : W32) : W32 :=
  if isNan x then 0
  else if isInf x then mkF (fNeg x) 0x7F7FFFFF
  else x

/-- R86: FP32 to bfloat16 of a finite value: the bits, whether it saturated, whether a nonzero value became zero. -/
def toBf16 (x : W32) : W16 × Bool × Bool :=
  let k := (fMag x + 0x8000) / 0x10000
  let sat := decide (0x7F80 ≤ k)
  let mag := if sat then 0x7F7F else k
  (BitVec.ofNat 16 (mag + if fNeg x then 0x8000 else 0), sat, decide (mag = 0 ∧ fMag x ≠ 0))

/-- bfloat16 to FP32, exact (R86). -/
def ofBf16 (b : W16) : W32 := BitVec.ofNat 32 (b.toNat * 0x10000)

/-- R106: output conversion to bfloat16, and whether column event 0x105 counts the element. -/
def outBf16 (x : W32) : W16 × Bool :=
  let sgn := if fNeg x then 0x8000 else 0
  if isNan x then (BitVec.ofNat 16 (0x7FC0 + sgn), true)
  else if isInf x then (BitVec.ofNat 16 (0x7F80 + sgn), true)
  else
    let (b, sat, _) := toBf16 x
    (b, sat)

/-- A two's-complement integer of `n` bits from its pattern. -/
def sext (n v : Nat) : Int := if v < 2 ^ (n - 1) then v else (v : Int) - 2 ^ n

/-- The pattern of an integer in `n` bits. -/
def pat (n : Nat) (c : Int) : Nat := (c % (2 ^ n : Nat)).toNat

end Sys2Proof.Machine
end

