-- ==== Sys2Proof/Machine/Codes.lean ====
section
/-! DEFINITION. Rows and their codes: the row header, the four classes, encoding and decoding of W32, W16, W8 and W4
rows with Pawn entries, and what the Assayer counts of a row write (chapter "Row codes and scales"). -/

namespace Sys2Proof.Machine

open Sys2Proof

/-! ## Classes and headers -/

/-- Header code of a class (R41). -/
def classCode : RowClass → Nat
  | .w32 => 0
  | .w16 => 1
  | .w8 => 2
  | .w4 => 3

/-- The class of a header code. -/
def classOf (n : Nat) : RowClass :=
  match n % 4 with
  | 0 => .w32
  | 1 => .w16
  | 2 => .w8
  | _ => .w4

/-- Element bytes of `n` elements (R41). -/
def elemBytes (c : RowClass) (n : Nat) : Nat :=
  match c with
  | .w32 => 4 * n
  | .w16 => 2 * n
  | .w8 => n
  | .w4 => n / 2

/-- A row's size (R41). -/
def rowSize (c : RowClass) (d : Nat) : Nat := 16 + elemBytes c d

/-- CMAX of an integer class (R88). -/
def classCmax (c : RowClass) : Nat := if c = .w8 then 127 else 7
/-- GAP of an integer class (R88). -/
def classGap (c : RowClass) : Int := if c = .w8 then 3 else 2
/-- A class with codes, escapes and a Pawn list. -/
def isCoded (c : RowClass) : Bool := c == .w8 || c == .w4

/-- A row header by field (R42). -/
structure Hdr where
  stamp : Nat
  expOfs : Int
  cls : RowClass
  pawnPtr : Nat
  pawnCnt : Nat
  pop : Nat
  dflt : Bool
  poisoned : Bool
  sat : Bool
  replica : Bool
  deriving DecidableEq, Repr

/-- The header's 128 bits; reserved bits are written 0 (R42, R43). -/
def hdrBits (h : Hdr) : BitVec 128 :=
  BitVec.ofNat 128 (h.stamp % pow32 + pat 4 h.expOfs * 2 ^ 32 + classCode h.cls * 2 ^ 36 + h.pawnPtr * 2 ^ 38 +
    h.pawnCnt * 2 ^ 54 + h.pop * 2 ^ 58 + b2n h.dflt * 2 ^ 74 + b2n h.poisoned * 2 ^ 75 + b2n h.sat * 2 ^ 76 +
    b2n h.replica * 2 ^ 77)

/-- The fields of a header; reserved bits are ignored (R42, R43). -/
def hdrOf (b : BitVec 128) : Hdr :=
  let n := b.toNat
  { stamp := nbits n 0 32, expOfs := sext 4 (nbits n 32 4), cls := classOf (nbits n 36 2),
    pawnPtr := nbits n 38 16, pawnCnt := nbits n 54 4, pop := nbits n 58 16, dflt := n.testBit 74,
    poisoned := n.testBit 75, sat := n.testBit 76, replica := n.testBit 77 }

/-- A header as 16 bytes. -/
def hdrBytes (h : Hdr) : List Byte := toLe 16 (hdrBits h).toNat

/-! ## Pawn entries -/

/-- A Pawn entry (R93): value, element, start of its row in 16 B units. -/
def pawnWord (value : W32) (elem row : Nat) : W64 :=
  w64 (value.toNat + elem * 2 ^ 32 + row * 2 ^ 45 + 2 ^ 63)
/-- VALUE. -/
def pawnValue (p : W64) : W32 := BitVec.ofNat 32 (bits p 0 32)
/-- ELEM. -/
def pawnElem (p : W64) : Nat := bits p 32 13
/-- ROW. -/
def pawnRow (p : W64) : Nat := bits p 45 17
/-- VALID. -/
def pawnValid (p : W64) : Bool := bit p 63

/-! ## Encoding -/

/-- A sorted insertion, largest first. -/
def insDesc (x : Int) : List Int → List Int
  | [] => [x]
  | y :: r => if y < x then x :: y :: r else y :: insDesc x r

/-- Largest first. -/
def sortDesc (l : List Int) : List Int := l.foldr insDesc []

/-- The element of largest magnitude among (index, value) pairs, the lower index at equal magnitudes. -/
def argMax : List (Nat × W32) → Option (Nat × W32)
  | [] => none
  | p :: r =>
    match argMax r with
    | none => some p
    | some q => if fMag p.2 < fMag q.2 then some q else some p

/-- The `n` largest, in ascending index order afterwards by the caller. -/
def takeMax : Nat → List (Nat × W32) → List Nat
  | 0, _ => []
  | n + 1, l =>
    match argMax l with
    | none => []
    | some p => p.1 :: takeMax n (l.filter (fun q => q.1 != p.1))

/-- (index, value) pairs. -/
def indexed (xs : List W32) : List (Nat × W32) := (List.range xs.length).zip xs

/-- What the Assayer and the shelf signal learn of a row write (R90, R97, R110). -/
structure RowCounts where
  satRows : Nat
  satElems : Nat
  escElems : Nat
  escLost : Nat
  nan : Nat
  underRows : Nat
  underElems : Nat
  /-- Elements of a W16, W8 or W4 write. -/
  elems : Nat
  /-- x − x̂ of those elements, in order. -/
  errs : List Dy
  /-- k_up − k_down. -/
  k : Int
  /-- Σx². -/
  energy : Dy
  deriving DecidableEq, Repr

/-- An encoded row before its place is known: offset, element bytes, escapes (element and value), SAT bit. -/
structure Encoded where
  expOfs : Int
  elems : List Byte
  escapes : List (Nat × W32)
  sat : Bool
  counts : RowCounts
  deriving DecidableEq, Repr

/-- Two 4-bit codes to a byte (R87). -/
def packNibbles : List Nat → List Byte
  | a :: b :: r => BitVec.ofNat 8 (a + 16 * b) :: packNibbles r
  | [a] => [BitVec.ofNat 8 a]
  | [] => []

/-- Element bytes of codes, an escape given as none (R87, R88). -/
def packCodes (c : RowClass) (codes : List (Option Int)) : List Byte :=
  if c = .w8 then codes.map (fun o => match o with
    | some x => BitVec.ofNat 8 (pat 8 x)
    | none => 0x80#8)
  else packNibbles (codes.map (fun o => match o with
    | some x => pat 4 x
    | none => 8))

/-- Squared, exact. -/
def Dy.sq (a : Dy) : Dy := a.mul a
/-- Exact zero. -/
def Dy.zero : Dy := { m := 0, e := 0 }
/-- Σx² of finite values. -/
def energyOf (xs : List W32) : Dy := xs.foldl (fun a x => a.add (fDy x).sq) Dy.zero

/-- R89: encode a W8 or W4 row, after the substitutions of R83. An infinity counts once in SAT_ELEMS, whether or not the
value that replaces it is clamped too (R83's "once"; assumption log 34). -/
def encodeCoded (c : RowClass) (base : Int) (free : Nat) (raw : List W32) : Encoded :=
  let nan := (raw.filter isNan).length
  let sub := (raw.filter isInf).length
  let xs := raw.map subst
  let cmax := classCmax c
  let ix := indexed xs
  let nz := ix.filter (fun p => !isZero p.2)
  let r := min (xs.length / 64) 16
  let haveRef := decide (r ≤ nz.length)
  let ref := (sortDesc (nz.map (fun p => (fDy p.2).expo))).getD (r - 1) 0
  let cand := if haveRef then nz.filter (fun p => decide (ref + classGap c ≤ (fDy p.2).expo)) else []
  let esc := takeMax (min 8 free) cand
  let mx := maxMag ((ix.filter (fun p => !(cand.any (fun q => q.1 == p.1)))).map (·.2))
  let need := if mx.m = 0 then base else needShift mx cmax
  let s := clampI (base - 8) (base + 7) need
  let coded := ix.map (fun p => (p, if p.1 ∈ esc then none else some (toCode cmax s p.2)))
  let under := decide (need < base - 8)
  let clamped := coded.filter (fun q => match q.2 with
    | some (_, b) => b
    | none => false)
  let lost := coded.filter (fun q => match q.2 with
    | some (z, _) => z == 0 && !isZero q.1.2
    | none => false)
  let finite := clamped.filter (fun q => !isInf (raw.getD q.1.1 0))
  { expOfs := s - base
    elems := packCodes c (coded.map (fun q => q.2.map (·.1)))
    escapes := ix.filter (fun p => p.1 ∈ esc)
    sat := !clamped.isEmpty || decide (0 < nan + sub)
    counts :=
      { satRows := b2n (decide (base + 7 < need)), satElems := finite.length + sub, escElems := esc.length,
        escLost := cand.length - esc.length, nan := nan, underRows := b2n under,
        underElems := if under then lost.length else 0, elems := xs.length,
        errs := coded.map (fun q => match q.2 with
          | some (z, _) => (fDy q.1.2).sub { m := z, e := s }
          | none => Dy.zero),
        k := max 0 (need - (base + 7)) - max 0 ((base - 8) - need), energy := energyOf xs } }

/-- Encode a row's FP32 values in a class: R83, then R85, R86 or R89. `base` is BASE_EXP − 141. An infinity of a W16
write is substituted and then replaced again by R86: one count for the element (assumption log 34). -/
def encodeRow (c : RowClass) (base : Int) (free : Nat) (raw : List W32) : Encoded :=
  let nan := (raw.filter isNan).length
  let sub := (raw.filter isInf).length
  let xs := raw.map subst
  match c with
  | .w32 =>
    { expOfs := 0, elems := xs.flatMap (fun x => toLe 4 x.toNat), escapes := [], sat := decide (0 < nan + sub),
      counts := { satRows := 0, satElems := sub, escElems := 0, escLost := 0, nan := nan, underRows := 0,
                  underElems := 0, elems := 0, errs := [], k := 0, energy := Dy.zero } }
  | .w16 =>
    let cs := xs.map toBf16
    let sat := ((raw.zip cs).filter (fun p => !isInf p.1 && p.2.2.1)).length
    { expOfs := 0, elems := cs.flatMap (fun t => toLe 2 t.1.toNat), escapes := [],
      sat := decide (0 < nan + sub + sat),
      counts := { satRows := 0, satElems := sub + sat, escElems := 0, escLost := 0, nan := nan, underRows := 0,
                  underElems := (cs.filter (fun t => t.2.2)).length, elems := xs.length,
                  errs := (xs.zip cs).map (fun p => (fDy p.1).sub (fDy (ofBf16 p.2.1))), k := 0,
                  energy := Dy.zero } }
  | _ => encodeCoded c base free raw

/-! ## Decoding -/

/-- Raw codes of a W8 or W4 element area, none for an escape (R87, R88). -/
def unpackCodes (c : RowClass) (bs : List Byte) : List (Option Int) :=
  if c = .w8 then bs.map (fun b => if b = 0x80#8 then none else some (sext 8 b.toNat))
  else bs.flatMap (fun b =>
    [b.toNat % 16, b.toNat / 16].map (fun n => if n = 8 then none else some (sext 4 n)))

/-- Group bytes into little-endian numbers of `k` bytes. -/
def groupLe (k : Nat) : Nat → List Byte → List Nat
  | 0, _ => []
  | n + 1, bs => leNat (bs.take k) :: groupLe k n (bs.drop k)

/-- One element of a row as a Mill takes it: FP32 bits, or a code at the row's shift, or an escaped value. -/
inductive Elem where
  | fp (x : W32)
  | code (c : Int)
  | escape (x : W32)
  deriving DecidableEq, Repr

/-- Elements of a row or row slice whose first element has index `first`; none where R92 finds an escape without its
Pawn entry. -/
def rowElems (c : RowClass) (first : Nat) (pawns : List W64) (bs : List Byte) : Option (List Elem) :=
  match c with
  | .w32 => some ((groupLe 4 (bs.length / 4) bs).map (fun n => .fp (BitVec.ofNat 32 n)))
  | .w16 => some ((groupLe 2 (bs.length / 2) bs).map (fun n => .fp (ofBf16 (BitVec.ofNat 16 n))))
  | _ =>
    let cs := unpackCodes c bs
    ((List.range cs.length).zip cs).mapM (fun p => match p.2 with
      | some x => some (.code x)
      | none => (pawns.find? (fun w => pawnElem w == first + p.1)).map (fun w => .escape (pawnValue w)))

/-- The exact FP32 value of an element at shift `s` (R91). -/
def elemValue (s : Int) : Elem → W32
  | .fp x => x
  | .code c => fScale c s
  | .escape x => x

/-- R81: the shift of a coded row. -/
def rowShift (baseExp : Nat) (h : Hdr) : Int := (baseExp : Int) - 141 + h.expOfs

/-- FP32 values of a whole row or slice. -/
def decodeElems (h : Hdr) (baseExp first : Nat) (pawns : List W64) (bs : List Byte) : Option (List W32) :=
  (rowElems h.cls first pawns bs).map (fun es => es.map (elemValue (rowShift baseExp h)))

/-- R92: a coded row is well formed: its escapes are PAWN_CNT in number, each with its entry, every entry VALID and of
this row (`ofs` in 16 B units). -/
def codedOk (h : Hdr) (ofs : Nat) (pawns : List W64) (bs : List Byte) : Bool :=
  !isCoded h.cls ||
    ((unpackCodes h.cls bs).filter (·.isNone)).length == h.pawnCnt &&
      pawns.all (fun p => pawnValid p && pawnRow p == ofs) && (rowElems h.cls 0 pawns bs).isSome

/-! ## Assayer -/

/-- Counters of a table that has counted nothing (R108). -/
def AsyCounts.zero : AsyCounts :=
  { satRows := 0, satElems := 0, escElems := 0, escLost := 0, nan := 0, underRows := 0, underElems := 0,
    sqerr := 0, elems := 0, rescaled := 0, ownExp := 0, replayBags := 0, replayPasses := 0, spans := [] }

/-- SQERR after the errors of a row write, in order (R110): each exact square is added with one rounding. -/
def addErrs (acc : W64) (errs : List Dy) : W64 :=
  errs.foldl (fun a d => if d.m = 0 then a else roundD ((dDy a).add d.sq)) acc

/-- Saturations of R112. -/
def RowCounts.sats (c : RowCounts) : Nat := c.satElems + c.escLost + c.nan

/-- `n` more saturations in every span of the table that is open (R112). -/
def AsyCounts.saturate (n : Nat) (a : AsyCounts) : AsyCounts :=
  { a with spans := a.spans.map (fun p => (p.1, (p.2.1 + n, p.2.2))) }

/-- The counters after a row write (R90, R107, R110), each saturating (R108). -/
def AsyCounts.addRow (a : AsyCounts) (c : RowCounts) : AsyCounts :=
  { a with
    satRows := satAdd 32 a.satRows c.satRows, satElems := satAdd 32 a.satElems c.satElems,
    escElems := satAdd 32 a.escElems c.escElems, escLost := satAdd 16 a.escLost c.escLost,
    nan := satAdd 16 a.nan c.nan, underRows := satAdd 32 a.underRows c.underRows,
    underElems := satAdd 32 a.underElems c.underElems, sqerr := addErrs a.sqerr c.errs,
    elems := satAdd 64 a.elems c.elems, spans := (a.saturate c.sats).spans }

/-- Change the counters of a table. -/
def asyMod (tid : Nat) (f : AsyCounts → AsyCounts) (s : State) : State :=
  { s with asy := { s.asy with counts := mmod s.asy.counts tid AsyCounts.zero f } }

/-- The spans of R112: a Commit, a load of version slot 0 or 1, a ROW_RESTORE. -/
def spanCommit : Nat := 0
def spanLoad (slot : Nat) : Nat := 1 + slot
def spanRestore : Nat := 3

/-- A Commit or a load of the table begins: its saturations start from none (R112). -/
def asySpanStart (tid k : Nat) (s : State) : State := asyMod tid (fun a => { a with spans := mset a.spans k (0, false) }) s

/-- It ends: what saturates later counts in it no more. -/
def asySpanEnd (tid k : Nat) (s : State) : State := asyMod tid (fun a => { a with spans := mdel a.spans k }) s

/-- The Commit ends for every table. -/
def asyCommitEnd (s : State) : State :=
  { s with asy := { s.asy with counts := s.asy.counts.map (fun p => (p.1, { p.2 with spans := mdel p.2.spans spanCommit })) } }

/-- The counters start from none while slots are LOADING, whose loads go on (R108, R112). -/
def asyReopen (s : State) : State :=
  s.tables.foldl (fun t p => [p.2.slot0, p.2.slot1].zipIdx.foldl (fun t v =>
    if v.1.state == .loading then asySpanStart p.1 (spanLoad v.2) t else t) t) s

/-- R112: raise SAT_THRESHOLD when the saturations of a Commit or load reach THRESH, once for each. -/
def satCheck (tid : Nat) (s : State) : State :=
  let a := mgetD s.asy.counts tid AsyCounts.zero
  let hit (p : Nat × (Nat × Bool)) : Bool := decide (s.asy.thresh ≤ p.2.1) && !p.2.2
  if s.asy.thresh ≠ 0 ∧ a.spans.any hit = true then
    let s := asyMod tid (fun a => { a with spans := a.spans.map (fun p => (p.1, (p.2.1, p.2.2 || hit p))) }) s
    raise evSatThreshold { s with asy := { s.asy with hitTid := tid, hit := true } }
  else s

/-- A row write of a table as the Assayer sees it. -/
def assay (tid : Nat) (c : RowCounts) (s : State) : State := satCheck tid (asyMod tid (·.addRow c) s)

/-- R97: the shelf signal after a row write: k × (1 + q) added with one rounding. -/
def addSignal (sig : W32) (c : RowCounts) : W32 :=
  if c.k = 0 ∨ c.energy.m = 0 then sig
  else
    let err := c.errs.foldl (fun a d => a.add d.sq) Dy.zero
    let kk : Dy := { m := c.k, e := 0 }
    let num := ((fDy sig).mul c.energy).add (kk.mul (c.energy.add err))
    let q := quotDy num c.energy
    roundF false { q with m := if num.m < 0 then -q.m else q.m }

end Sys2Proof.Machine
end

