-- ==== Sys2Proof/Machine/Rows.lean ====
section
/-! DEFINITION. Where rows live: the HBM data space and its interleave, home maps and the home function, row
directories, shelves with their Pawn lists, Larder copies, and the operations that read and write whole rows
(chapters "Tables, rows and homes" and "The Larder and the twelve stacks"). -/

namespace Sys2Proof.Machine

open Sys2Proof

/-! ## HBM data space -/

/-- Bytes of a shelf. -/
def shelfBytes : Nat := 0x200000

/-- NG, granules of 256 B in a channel (R320), by a stack's capacity in GB: eight ninths of its array are data lanes (R318),
over 32 channels; 5,592,405 for 48 GB, the figure R320 gives, which stands before training too (assumption log 3). -/
def granules (gb : Nat) : Nat := if gb = 0 then 5592405 else gb * 1048576 / 9

/-- A stack that is at reset. -/
def Stack.reset : Stack :=
  { state := .untrained, height := 0, rate := 0, capacity := 0, poisonSeen := false, temp := 0, thr1 := 0x5A, thr2 := 0x64,
    maxTemp := 0, level := 0, above1 := false, above2 := false, throttleMs := 0, thr2Hit := false, ceCount := 0,
    rateThresh := 0x100, rateHit := false, ceWindow := 0, lastAddr := 0, ueCount := 0, poisonReads := 0,
    repaired := 0, atLimit := 0, trainFail := false, keepWays := 8, disable := false, tData := 0, tLen := 0,
    tInstr := 0, tOp := 0, tRefused := false, wrapper := 0, cache := [], refreshes := [] }

/-- Stack `n`. -/
def stackOf (s : State) (n : Nat) : Stack := mgetD s.hbmStacks n Stack.reset

/-- Change stack `n`. -/
def stackMod (n : Nat) (f : Stack → Stack) (s : State) : State :=
  { s with hbmStacks := mmod s.hbmStacks n Stack.reset f }

/-- Size of the local HBM data space in bytes (R320). -/
def hbmSize (s : State) : Nat := 384 * granules (stackOf s 0).capacity * 256

/-- R320: stack, channel and granule within the channel. -/
def hbmPlace (addr : Nat) : Nat × Nat × Nat :=
  let g := addr >>> 8
  let lo := g % 128
  let hi := g >>> 7
  let grp := hi % 3
  let n := hi / 3
  let f7 := (n ^^^ (n >>> 7) ^^^ (n >>> 14) ^^^ (n >>> 21)) % 128
  let ch := grp * 128 + (lo ^^^ f7)
  (ch >>> 5, ch % 32, n)

/-- The pseudo-channel of granule `n` of a channel (R320). -/
def pseudoChannel (n : Nat) : Nat := n % 2

/-- R296: Larder channel and in-channel block of a Larder block. -/
def larderPlace (b : Nat) : Nat × Nat := ((b ^^^ (b >>> 9) ^^^ (b >>> 18)) % 512, b >>> 9)

/-- The tier of a Larder channel (R296). -/
def larderTier (channel : Nat) : Nat := channel >>> 7

/-- One GiB. -/
def gib : Nat := 0x40000000

/-- Fields of a Larder plan word (R303). -/
def planHot (p : W64) : Nat := bits p 0 9
def planReplica (p : W64) : Nat := bits p 9 9
def planKept (p : W64) : Nat := bits p 18 9
def planLedger (p : W64) : Nat := bits p 27 9
def planJournal (p : W64) : Nat := bits p 36 12
def planSpill (p : W64) : Nat := bits p 48 12

/-- 64 MiB, the unit of the Larder regions (R303). -/
def regionUnit : Nat := 0x4000000

/-- Base of the Mill save area, 32 MiB at the top of the data space (R191, R302). -/
def saveBase (s : State) : Nat := hbmSize s - 0x2000000

/-- The top of the HBM table area under a plan: below the Mill save area, the journal and the spill area (R302). -/
def tableTopOf (s : State) (plan : W64) : Nat := saveBase s - (planJournal plan + planSpill plan) * gib

/-- The top of the HBM table area under the installed plan. -/
def tableTop (s : State) : Nat := tableTopOf s s.lrd.plan

/-- Write bytes to HBM; a codeword written whole loses its poison (R330). -/
def hbmWrite (a : Nat) (bs : List Byte) (s : State) : State :=
  { s with
    hbm := memWrite s.hbm a bs
    poison := s.poison.filter (fun c => !(decide (a ≤ c * 64) && decide (c * 64 + 64 ≤ a + bs.length))) }

/-- Zeros over a range of HBM. -/
def hbmClear (a n : Nat) (s : State) : State :=
  { s with
    hbm := s.hbm.filter (fun c => !(decide (a ≤ c.1) && decide (c.1 < a + n)))
    poison := s.poison.filter (fun c => !(decide (a ≤ c * 64) && decide (c * 64 + 64 ≤ a + n))) }

/-- Read bytes of HBM. -/
def hbmRead (s : State) (a n : Nat) : List Byte := memRead s.hbm a n

/-- A poisoned codeword under these bytes (R330), if there is one. -/
def poisonedAt (s : State) (a n : Nat) : Option Nat :=
  s.poison.find? (fun c => decide (c * 64 < a + n) && decide (a < c * 64 + 64))

/-- Poisoned codewords under `n` bytes of HBM. -/
def poisonsAt (s : State) (a n : Nat) : List Nat :=
  s.poison.filter (fun c => decide (c * 64 < a + n) && decide (a < c * 64 + 64))

/-- A read met a poisoned codeword: its stack counts it in POISON_READS, 15 bits, saturating (R330, R342). -/
def countPoisonRead (cw : Nat) (s : State) : State :=
  stackMod (hbmPlace (cw * 64)).1 (fun k => { k with poisonReads := satAdd 15 k.poisonReads 1 }) s

/-- Keep a list of codewords rising. -/
def insAsc (x : Nat) : List Nat → List Nat
  | [] => [x]
  | y :: r => if x < y then x :: y :: r else if x = y then y :: r else y :: insAsc x r

/-! ## Home maps and the home function -/

/-- K1 of R63. -/
def mixK1 : Nat := 0xA3C59AC2F1D36B17
/-- K2 of R63. -/
def mixK2 : Nat := 0xD1B54A32C9E87F25

/-- R63: the keyed bijection on b bits. -/
def mix (x seed b : Nat) : Nat :=
  let m := 2 ^ b
  let x := (x ^^^ seed) % m
  let x := x * mixK1 % m
  let x := x ^^^ (x >>> ((b + 1) / 2))
  let x := x ^^^ ((seed >>> 32) % m)
  let x := x * mixK2 % m
  x ^^^ (x >>> (b / 3))

/-- The top of the home function: shard and slot within the shard (R63). -/
def shardSlot (t : Table) (row : Nat) : Nat × Nat :=
  let v := if t.rangeMode then row else mix row t.seed.toNat t.hbits
  (v >>> (t.hbits - 16), v % 2 ^ (t.hbits - 16))

/-- Undo x ^ (x >> k) on b bits. -/
def unXorShift (k b y : Nat) : Nat := (List.range (b / k + 1)).foldl (fun x _ => y ^^^ (x >>> k)) y

/-- The inverse of an odd number modulo 2^b, b at most 64. -/
def oddInverse (k b : Nat) : Nat :=
  let m := 2 ^ b
  (List.range 6).foldl (fun x _ => x * ((m + 2) - k * x % m) % m) (k % m)

/-- The row identifier that the bijection of R63 takes to a value (R584). -/
def unmix (y seed b : Nat) : Nat :=
  let m := 2 ^ b
  let x := unXorShift (b / 3) b y
  let x := x * oddInverse mixK2 b % m
  let x := x ^^^ ((seed >>> 32) % m)
  let x := unXorShift ((b + 1) / 2) b x
  let x := x * oddInverse mixK1 b % m
  (x ^^^ seed) % m

/-- The row at a (shard, slot) value. -/
def unmixRow (t : Table) (v : Nat) : Nat := if t.rangeMode then v else unmix v t.seed.toNat t.hbits

/-- The home node of a shard in a map (R59, R63). -/
def nodeOfShard (m : AMap Nat) (shard : Nat) : Nat := mgetD m shard 0 % 16384

/-- A node owns a shard under some epoch the map slot serves: the current map, or the previous one during forwarding. -/
def ownsShard (m : HomeMap) (me shard : Nat) : Bool :=
  nodeOfShard m.entries shard == me || (m.old.map (fun o => nodeOfShard o.1 shard == me)).getD false

/-- How many shards below `n` a node owns in the current map. Shards not listed in a map belong to node 0. -/
def ownedBelow (m : HomeMap) (me n : Nat) : Nat :=
  if me = 0 then n - (m.entries.filter (fun p => decide (p.1 < n) && p.2 % 16384 != 0)).length
  else (m.entries.filter (fun p => decide (p.1 < n) && p.2 % 16384 == me)).length

/-- How many shards below `n` a node owns in the previous map alone, while the forwarding period is open. -/
def losesBelow (m : HomeMap) (me n : Nat) : Nat :=
  match m.old with
  | none => 0
  | some o =>
    if me = 0 then
      (m.entries.filter (fun p => decide (p.1 < n) && p.2 % 16384 != 0 && nodeOfShard o.1 p.1 == 0)).length
    else
      (o.1.filter (fun p => decide (p.1 < n) && p.2 % 16384 == me && nodeOfShard m.entries p.1 != me)).length

/-- The local ordinal of a shard: its rank among the shards this node owns in the current map; those it loses come after
them until the forwarding period closes; none (0xFFFF) for a shard of another node (R59, R64, R65). -/
def ordinal (m : HomeMap) (me shard : Nat) : Option Nat :=
  if nodeOfShard m.entries shard = me then some (ownedBelow m me shard)
  else if ownsShard m me shard then some (ownedBelow m me 65536 + losesBelow m me shard)
  else none

/-- How many shards have an ordinal here. -/
def ownedShards (m : HomeMap) (me : Nat) : Nat := ownedBelow m me 65536 + losesBelow m me 65536

/-- Drop repeats. -/
def dedupNat : List Nat → List Nat
  | [] => []
  | x :: r => if x ∈ r then dedupNat r else x :: dedupNat r

/-- Distinct nodes of a map (R36). -/
def distinctNodes (m : AMap Nat) : Nat :=
  let listed := m.filter (fun p => decide (p.1 < 65536))
  let ns := dedupNat (listed.map (fun p => p.2 % 16384))
  if listed.length < 65536 ∧ 0 ∉ ns then ns.length + 1 else ns.length

/-- The current map of a table, if its slot holds one. -/
def mapOf (s : State) (t : Table) : Option HomeMap := mget s.maps t.homeMap

/-- Home node of a row under the current map; of the learned default row, DEF_HOME (R63, R69). -/
def homeNode (s : State) (t : Table) (defkey : Bool) (row : Nat) : Nat :=
  if defkey then t.defHome
  else match mapOf s t with
    | some m => nodeOfShard m.entries (shardSlot t row).1
    | none => 0

/-- This K40's number in a map (SPN_NODE_ID). -/
def self (s : State) : Nat := s.span.nodeId

/-- The directory position of a row this K40 homes (R64); none where another node homes it. -/
def dirIndex (s : State) (t : Table) (row : Nat) : Option Nat :=
  let (shard, slot) := shardSlot t row
  (mapOf s t).bind (fun m => (ordinal m (self s) shard).map (fun o => o * 2 ^ (t.hbits - 16) + slot))

/-! ## Version slots -/

/-- A slot that holds no storage (R72, R668). -/
def VSlot.none : VSlot :=
  { state := .empty, rows := 0, shelves := 0, dirLoc := 0, shelfLoc := 0, stateLoc := 0, defLoc := 0,
    defStateLoc := 0, refs := 0, used := [] }

/-- Version slot 0 or 1 of a table. -/
def vslot (t : Table) (i : Nat) : VSlot := if i = 0 then t.slot0 else t.slot1

/-- Replace a version slot. -/
def setVslot (t : Table) (i : Nat) (v : VSlot) : Table := if i = 0 then { t with slot0 := v } else { t with slot1 := v }

/-- Change a table's descriptor. -/
def tableMod (tid : Nat) (f : Table → Table) (s : State) : State :=
  match mget s.tables tid with
  | some t => { s with tables := mset s.tables tid (f t) }
  | none => s

/-- A table with a LIVE descriptor (R38). -/
def liveTable (s : State) (tid : Nat) : Option Table :=
  match mget s.tables tid with
  | some t => if t.destroying then none else some t
  | none => none

/-- The ACTIVE slot of a table, if it has one. -/
def activeSlot (t : Table) : Option Nat :=
  if (vslot t t.active).state = .active then some t.active else none

/-- D. -/
def Table.dim (t : Table) : Nat := 64 * t.dim64

/-- A slot's storage ends: it is EMPTY and its locations read 0 (R76, R668); ROWS and SHELVES stay. Its bytes in HBM stay
as they are. -/
def freeSlot (t : Table) (i : Nat) : Table :=
  setVslot t i { VSlot.none with rows := (vslot t i).rows, shelves := (vslot t i).shelves }

/-- The row moves and Larder copies of a slot whose storage ends. -/
def forgetSlot (tid slot : Nat) (s : State) : State :=
  { s with
    moves := s.moves.filter (fun m => !(m.tid == tid && m.slot == slot)),
    lrd := { s.lrd with copies := s.lrd.copies.filter (fun c => !(c.tid == tid && c.slot == slot)) } }

/-- R76: a DRAINING slot whose count reaches zero becomes EMPTY; R39: a DESTROYING table with both counts at zero is
ABSENT. -/
def settleSlot (tid slot : Nat) (s : State) : State :=
  match mget s.tables tid with
  | none => s
  | some t =>
    let gone := (vslot t slot).state = .draining ∧ (vslot t slot).refs = 0
    let t' := if gone then freeSlot t slot else t
    let s := if gone then forgetSlot tid slot s else s
    if t'.destroying ∧ t'.slot0.refs = 0 ∧ t'.slot1.refs = 0 then
      forgetSlot tid 0 (forgetSlot tid 1 { s with tables := mdel s.tables tid })
    else { s with tables := mset s.tables tid t' }

/-- Take a reference on a slot. -/
def addRef (tid slot : Nat) (s : State) : State :=
  tableMod tid (fun t => setVslot t slot { vslot t slot with refs := (vslot t slot).refs + 1 }) s

/-- Give a reference back. -/
def dropRef (tid slot : Nat) (s : State) : State :=
  settleSlot tid slot
    (tableMod tid (fun t => setVslot t slot { vslot t slot with refs := (vslot t slot).refs - 1 }) s)

/-! ## Directory entries -/

/-- A row-directory entry (R54). -/
structure DirEnt where
  cls : RowClass
  tier : Nat
  loaded : Bool
  shelf : Nat
  ofs : Nat
  larder : Nat
  deriving DecidableEq, Repr

/-- The entry's 128 bits. -/
def dirBits (e : DirEnt) : BitVec 128 :=
  BitVec.ofNat 128 (classCode e.cls + e.tier * 4 + b2n e.loaded * 16 + e.shelf * 2 ^ 8 + e.ofs * 2 ^ 32 +
    e.larder * 2 ^ 64)

/-- The fields of an entry. -/
def dirOf (b : BitVec 128) : DirEnt :=
  let n := b.toNat
  { cls := classOf (nbits n 0 2), tier := nbits n 2 2, loaded := n.testBit 4, shelf := nbits n 8 24,
    ofs := nbits n 32 17, larder := nbits n 64 29 }

/-- Address of a directory entry (R64). -/
def dirAddr (v : VSlot) (ix : Nat) : Nat := v.dirLoc + ix * 16

/-- Read the directory entry at an address. -/
def readDir (s : State) (a : Nat) : DirEnt := dirOf (BitVec.ofNat 128 (leNat (hbmRead s a 16)))

/-- Write it. -/
def writeDir (a : Nat) (e : DirEnt) (s : State) : State := hbmWrite a (toLe 16 (dirBits e).toNat) s

/-! ## Shelves -/

/-- A shelf header (R51). -/
structure ShelfHdr where
  baseExp : Nat
  cls : RowClass
  pinned : Bool
  tid : Nat
  slot : Nat
  nrows : Nat
  pawnUsed : Nat
  deriving DecidableEq, Repr

/-- Word 0 of a shelf header. -/
def shelfBits (h : ShelfHdr) : W64 :=
  w64 (h.baseExp + classCode h.cls * 2 ^ 8 + b2n h.pinned * 2 ^ 10 + h.tid * 2 ^ 12 + h.slot * 2 ^ 24 +
    h.nrows * 2 ^ 32 + h.pawnUsed * 2 ^ 48)

/-- Its fields. -/
def shelfOf (w : W64) : ShelfHdr :=
  { baseExp := bits w 0 8, cls := classOf (bits w 8 2), pinned := bit w 10, tid := bits w 12 12,
    slot := bits w 24 1, nrows := bits w 32 16, pawnUsed := bits w 48 16 }

/-- Address of shelf `n` of a slot. -/
def shelfAddr (v : VSlot) (n : Nat) : Nat := v.shelfLoc + n * shelfBytes

/-- Read a shelf's header. -/
def readShelf (s : State) (v : VSlot) (n : Nat) : ShelfHdr :=
  shelfOf (w64 (leNat (hbmRead s (shelfAddr v n) 8)))

/-- Write a shelf's header. -/
def writeShelf (v : VSlot) (n : Nat) (h : ShelfHdr) (s : State) : State :=
  hbmWrite (shelfAddr v n) (toLe 8 (shelfBits h).toNat) s

/-- PAWN_SLOTS of a shelf: none in W32 and W16 shelves (R52). -/
def pawnSlots (t : Table) (c : RowClass) : Nat := if isCoded c then t.pawnSlots else 0

/-- Address of Pawn entry `n` of a shelf (R93). -/
def pawnAddr (t : Table) (v : VSlot) (shelf n : Nat) : Nat :=
  shelfAddr v shelf + shelfBytes - (t.pawnSlots - n) * 8

/-- End of a shelf's row area (R51, R52). -/
def rowAreaEnd (t : Table) (c : RowClass) : Nat := shelfBytes - pawnSlots t c * 8

/-- Address of a row. -/
def rowAddr (v : VSlot) (shelf ofs : Nat) : Nat := shelfAddr v shelf + ofs * 16

/-- Change what the K40 tracks of one shelf. -/
def shelfMod (tid slot n : Nat) (f : ShelfInfo → ShelfInfo) (s : State) : State :=
  tableMod tid (fun t =>
    let v := vslot t slot
    setVslot t slot { v with used := lmap v.used (fun i => i.num == n) f }) s

/-- A shelf of the class with room for a row: the first allocated one, else the lowest free number (R50; the choice is
the hardware's, assumption log 8). The flag says the shelf is new. -/
def findShelf (t : Table) (v : VSlot) (c : RowClass) : Option (Nat × Bool) :=
  match v.used.find? (fun i => i.cls == c && i.retired.isNone && decide (i.fill + rowSize c t.dim ≤ rowAreaEnd t c)) with
  | some i => some (i.num, false)
  | none =>
    let k := firstFree (v.used.map ShelfInfo.num) v.used.length 0
    if k < v.shelves ∧ 64 + rowSize c t.dim ≤ rowAreaEnd t c then some (k, true) else none

/-- Take a new shelf: its header with SHELF_EXP_INIT, nothing in it (R34, R51). The manual gives SHELF_EXP_INIT to W8 and W4
shelves: BASE_EXP of a W32 or W16 shelf is 0 (DESIGN CHOICE, assumption log 17). -/
def newShelf (tid slot n : Nat) (c : RowClass) (baseExp : Nat) (s : State) : State :=
  match mget s.tables tid with
  | none => s
  | some t =>
    let v := vslot t slot
    let i : ShelfInfo := { num := n, cls := c, fill := 64, signal := 0, mark := none, retired := none }
    let v' := { v with used := v.used ++ [i] }
    let s := { s with tables := mset s.tables tid (setVslot t slot v') }
    let s := hbmWrite (shelfAddr v n) (List.replicate 64 0) s
    writeShelf v n { baseExp := if isCoded c then baseExp else 0, cls := c, pinned := false, tid := tid,
                     slot := slot, nrows := 0, pawnUsed := 0 } s

/-! ## Writing a row -/

/-- What a row write takes besides its values. -/
structure RowMeta where
  stamp : Nat
  pop : Nat
  dflt : Bool
  deriving DecidableEq, Repr

/-- Whether the shelf's signal takes row writes: unpinned W8 and W4 shelves (R53, R97). -/
def signalled (t : Table) (h : ShelfHdr) : Bool := isCoded h.cls && !h.pinned && !t.shelfExpPin

/-- Write a row at a place in a shelf: fresh Pawn entries first, then the header and the elements (R95). Where `count` it is
counted by the Assayer (R90) and in the shelf's signal (R97): a hot-set refresh counts in neither (R98, R107). PAWN_PTR of a
row without Pawn entries, which the manual does not give, is 0 (DESIGN CHOICE, assumption log 17). -/
def storeRowAt (count : Bool) (tid slot shelf ofs : Nat) (m : RowMeta) (xs : List W32) (s : State) : State :=
  match mget s.tables tid with
  | none => s
  | some t =>
    let v := vslot t slot
    let sh := readShelf s v shelf
    let enc := encodeRow sh.cls ((sh.baseExp : Int) - 141) (pawnSlots t sh.cls - sh.pawnUsed) xs
    let n := enc.escapes.length
    let s := hbmWrite (pawnAddr t v shelf sh.pawnUsed)
      (wordsToBytes (enc.escapes.map (fun p => pawnWord p.2 p.1 ofs))) s
    let s := if n = 0 then s else writeShelf v shelf { sh with pawnUsed := sh.pawnUsed + n } s
    let h : Hdr := { stamp := m.stamp, expOfs := enc.expOfs, cls := sh.cls,
                     pawnPtr := if n = 0 then 0 else sh.pawnUsed, pawnCnt := n, pop := m.pop, dflt := m.dflt,
                     poisoned := false, sat := enc.sat, replica := false }
    let s := hbmWrite (rowAddr v shelf ofs) (hdrBytes h ++ enc.elems) s
    if !count then s
    else
      let s := if signalled t sh then
          shelfMod tid slot shelf (fun i => { i with signal := addSignal i.signal enc.counts }) s else s
      assay tid enc.counts s

/-- A row write that is counted. -/
def writeRowAt (tid slot shelf ofs : Nat) (m : RowMeta) (xs : List W32) (s : State) : State :=
  storeRowAt true tid slot shelf ofs m xs s

/-- A shelf that a rebuild has replaced can be used again: no row of it is still moving, and no Run admitted before its last
row moved is unfinished (R57). -/
def reusable (s : State) (tid slot : Nat) (i : ShelfInfo) : Bool :=
  match i.retired with
  | none => false
  | some runs =>
    !(s.moves.any (fun m => m.tid == tid && m.slot == slot && (readDir s m.dirAddr).shelf == i.num)) &&
      !(s.qh.runs.any (fun r => decide (r.ord ∈ runs)))

/-- Return the reusable shelves of a slot to its free ones. -/
def reclaim (tid slot : Nat) (s : State) : State :=
  tableMod tid (fun t =>
    let v := vslot t slot
    setVslot t slot { v with used := v.used.filter (fun i => !reusable s tid slot i) }) s

/-- Place a row in a shelf of its class with room; answers where. None where no shelf has room. -/
def placeRowIn (count : Bool) (tid slot : Nat) (c : RowClass) (m : RowMeta) (xs : List W32) (s₀ : State) :
    Option (Nat × Nat × State) :=
  let s := reclaim tid slot s₀
  match mget s.tables tid with
  | none => none
  | some t =>
    match findShelf t (vslot t slot) c with
    | none => none
    | some (n, fresh) =>
      let s := if fresh then newShelf tid slot n c t.shelfExpInit s else s
      match mget s.tables tid with
      | none => none
      | some t =>
        let v := vslot t slot
        let fill := ((v.used.find? (fun i => i.num == n)).map ShelfInfo.fill).getD 64
        let ofs := fill / 16
        let s := storeRowAt count tid slot n ofs m xs s
        let sh := readShelf s v n
        let s := writeShelf v n { sh with nrows := sh.nrows + 1 } s
        let s := shelfMod tid slot n (fun i => { i with fill := i.fill + rowSize c t.dim }) s
        some (n, ofs, s)

/-- Place a row with a row write that is counted. -/
def placeRow (tid slot : Nat) (c : RowClass) (m : RowMeta) (xs : List W32) (s : State) : Option (Nat × Nat × State) :=
  placeRowIn true tid slot c m xs s

/-- R47, R49: the class a popularity gives. -/
def classFor (t : Table) (pop : Nat) : RowClass :=
  if t.classFixed then t.fixedClass
  else if t.popW32 ≤ pop then .w32
  else if t.popW16 ≤ pop then .w16
  else if t.popW8 ≤ pop then .w8
  else .w4

/-! ## Reading a row at its home -/

/-- Elements of slice `k` (R179). -/
def sliceLen (d k : Nat) : Nat := min 1024 (d - 1024 * k)

/-- Number of slices. -/
def sliceCount (d : Nat) : Nat := (d + 1023) / 1024

/-- Byte offset of slice `k` in the element area. -/
def sliceOfs (c : RowClass) (k : Nat) : Nat := elemBytes c (1024 * k)

/-- Pawn entries of a row, as its header names them. -/
def pawnsOf (s : State) (t : Table) (v : VSlot) (shelf : Nat) (h : Hdr) : List W64 :=
  bytesToWords h.pawnCnt (hbmRead s (pawnAddr t v shelf h.pawnPtr) (h.pawnCnt * 8))

/-- The outcome of reading a row or a slice of it at its home. `cw` names a poisoned codeword met. -/
inductive RowRead where
  | ok (data : RowSlice)
  | fail (st : Status) (cw : Option Nat)
  deriving DecidableEq, Repr

/-- R44, R92: what the header, the directory and the Pawn list say against each other. -/
def rowSound (t : Table) (e : DirEnt) (h : Hdr) (pawns : List W64) (elems : List Byte) : Bool :=
  decide (h.pawnCnt ≤ 8) && decide (h.pawnPtr + h.pawnCnt ≤ pawnSlots t h.cls) && h.cls == e.cls &&
    codedOk h e.ofs pawns elems

/-- Read bytes of a shelf row: header first, then the elements asked for and their Pawn entries. `k = none` asks for the
whole row. -/
def readShelfRow (s : State) (t : Table) (v : VSlot) (e : DirEnt) (k : Option Nat) : RowRead :=
  let a := rowAddr v e.shelf e.ofs
  match poisonedAt s a 16 with
  | some cw => .fail .poisoned (some cw)
  | none =>
    let h := hdrOf (BitVec.ofNat 128 (leNat (hbmRead s a 16)))
    if h.poisoned then .fail .poisoned none
    else
      let pawns := pawnsOf s t v e.shelf h
      let whole := hbmRead s (a + 16) (elemBytes e.cls t.dim)
      if !rowSound t e h pawns whole then .fail .uncorrectable none
      else
        let (ofs, n) := match k with
          | some k => (sliceOfs e.cls k, elemBytes e.cls (sliceLen t.dim k))
          | none => (0, elemBytes e.cls t.dim)
        let first := match k with
          | some k => 1024 * k
          | none => 0
        let len := match k with
          | some k => sliceLen t.dim k
          | none => t.dim
        let mine := pawns.filter (fun p => decide (first ≤ pawnElem p) && decide (pawnElem p < first + len))
        let pw := if mine.isEmpty then none
          else poisonedAt s (pawnAddr t v e.shelf h.pawnPtr) (h.pawnCnt * 8)
        match poisonedAt s (a + 16 + ofs) n, pw.orElse (fun _ => poisonedAt s (shelfAddr v e.shelf) 8) with
        | some cw, _ => .fail .poisoned (some cw)
        | none, some cw => .fail .uncorrectable (some cw)
        | none, none =>
          .ok { header := hdrBits h, baseExp := (readShelf s v e.shelf).baseExp, pawns := mine,
                elems := (whole.drop ofs).take n }

/-- The Larder copy at a directory address, if one is held. -/
def copyAt (s : State) (tid slot dirA : Nat) : Option LCopy :=
  s.lrd.copies.find? (fun c => c.tid == tid && c.slot == slot && c.dirAddr == dirA)

/-- A learned default row stands by itself: class W32, with no directory entry (R69). -/
def defaultEnt : DirEnt := { cls := .w32, tier := 0, loaded := true, shelf := 0, ofs := 0, larder := 0 }

/-- Read the learned default row (R44, R69, R265): class W32, beside the slot's directory. The manual does not say what a
read gives before a load has written the row: the bytes that stand at its place (DESIGN CHOICE, assumption log 17). -/
def readDefault (s : State) (t : Table) (v : VSlot) (k : Option Nat) : RowRead :=
  let n := rowSize .w32 t.dim
  match poisonedAt s v.defLoc 16 with
  | some cw => .fail .poisoned (some cw)
  | none =>
    let h := hdrOf (BitVec.ofNat 128 (leNat (hbmRead s v.defLoc 16)))
    if h.poisoned then .fail .poisoned none
    else if !rowSound t defaultEnt h [] [] then .fail .uncorrectable none
    else
      let (ofs, len) := match k with
        | some k => (4096 * k, 4 * sliceLen t.dim k)
        | none => (0, n - 16)
      match poisonedAt s (v.defLoc + 16 + ofs) len with
      | some cw => .fail .poisoned (some cw)
      | none => .ok { header := hdrBits h, baseExp := 0, pawns := [], elems := hbmRead s (v.defLoc + 16 + ofs) len }

/-- Read a row this K40 homes, at a directory position: TIER 3 or not LOADED ends with CS_POISONED (R58); a row at
TIER = 2 is read at its current location (R55). -/
def readHomeRow (s : State) (t : Table) (slot ix : Nat) (k : Option Nat) : RowRead :=
  let v := vslot t slot
  let da := dirAddr v ix
  match poisonedAt s da 16 with
  | some cw => .fail .poisoned (some cw)
  | none =>
    let e := readDir s da
    if e.tier = 3 ∨ !e.loaded then .fail .poisoned none
    else readShelfRow s t v e k

/-- A read's side effect on the counts (R330). -/
def noteRead (r : RowRead) (s : State) : State :=
  match r with
  | .fail _ (some cw) => countPoisonRead cw s
  | _ => s

/-- Decode a whole row that was read (R91); none where an escape has no Pawn entry. -/
def decodeRow (r : RowSlice) : Option (List W32) := decodeElems (hdrOf r.header) r.baseExp 0 r.pawns r.elems

/-! ## Row moves and Larder copies -/

/-- A row move begins: the entry reads TIER = 2 with its current location until the move completes (R55). -/
def startMove (tid slot da : Nat) (target : DirEnt) (s : State) : State :=
  let s := writeDir da { readDir s da with tier := 2 } s
  { s with moves := s.moves ++ [{ tid := tid, slot := slot, dirAddr := da, entry := dirBits target, copied := true }] }

/-- 64 B blocks of a copy. -/
def blocksOf (bytes : Nat) : Nat := (bytes + 63) / 64

/-- The lowest place for `n` blocks in a region, apart from the used ranges; the choice is the hardware's (assumption log 8). -/
def placeBlocks (used : List (Nat × Nat)) (base top n : Nat) : Option Nat :=
  (base :: used.map (fun u => u.1 + u.2)).foldl (fun best c =>
    let fits := decide (base ≤ c) && decide (c + n ≤ top) &&
      used.all (fun u => decide (u.1 + u.2 ≤ c) || decide (c + n ≤ u.1))
    match best with
    | some b => if fits && decide (c < b) then some c else best
    | none => if fits then some c else none) none

/-- 64 B blocks of a Larder region given in 64 MiB units. -/
def regionBlocks (n : Nat) : Nat := n * 1048576

/-! ### Larder storage given up (R57, R306) -/

/-- The storage is in use still: the row move that ends it is under way, or a Run that must end first has not. -/
def LRetired.live (s : State) (x : LRetired) : Bool :=
  (match x.move with
    | some da => s.moves.any (fun m => m.dirAddr == da)
    | none => false) || s.qh.runs.any (fun r => decide (r.ord ∈ x.runs))

/-- Larder storage that no placement may take yet: block and number of blocks. -/
def larderHeld (s : State) : List (Nat × Nat) := (s.lrd.retired.filter (LRetired.live s)).map (fun x => (x.block, x.blocks))

/-- Give up Larder storage: it outlives the Runs admitted by now (R57). -/
def larderRetire (block n : Nat) (move : Option Nat) (s : State) : State :=
  let x : LRetired := { block := block, blocks := n, move := move, runs := s.qh.runs.map Run.ord }
  { s with lrd := { s.lrd with retired := s.lrd.retired.filter (LRetired.live s) ++ [x] } }

/-- A row move of a directory entry has completed: the storage it gives up outlives the Runs admitted before (R57). -/
def settleRetired (da : Nat) (s : State) : State :=
  let l := lmap s.lrd.retired (fun x => x.move == some da) (fun x => { x with move := none, runs := s.qh.runs.map Run.ord })
  { s with lrd := { s.lrd with retired := l } }

/-- Drop the Larder copy at a directory address; its storage stays in use as R57 gives. -/
def dropCopy (tid slot da : Nat) (s : State) : State :=
  let mine := fun (c : LCopy) => c.tid == tid && c.slot == slot && c.dirAddr == da
  let move := if s.moves.any (fun m => m.dirAddr == da) then some da else none
  let s := (s.lrd.copies.filter mine).foldl (fun t c => larderRetire c.block (blocksOf c.bytes.length) move t) s
  { s with lrd := { s.lrd with copies := s.lrd.copies.filter (fun c => !mine c) } }

/-- Bytes of a whole row in its shelf: header and elements. -/
def rowBytesAt (s : State) (v : VSlot) (d : Nat) (e : DirEnt) : List Byte :=
  hbmRead s (rowAddr v e.shelf e.ofs) (rowSize e.cls d)

/-- Write the Larder copy of a row through from its shelf, when TIER is 1 (R284). -/
def refreshCopy (tid slot da : Nat) (s : State) : State :=
  match mget s.tables tid with
  | none => s
  | some t =>
    let bs := rowBytesAt s (vslot t slot) t.dim (readDir s da)
    let l := lmap s.lrd.copies (fun c => c.tid == tid && c.slot == slot && c.dirAddr == da)
      (fun c => { c with bytes := bs })
    let ok := match copyAt s tid slot da with
      | some c => s.lrd.poison.filter (fun b => !(decide (c.block ≤ b) && decide (b < c.block + blocksOf bs.length)))
      | none => s.lrd.poison
    { s with lrd := { s.lrd with copies := l, poison := ok } }

/-! ## The rows of a shelf -/

/-- Directory positions of a slot whose entries are not all 0, ascending. -/
def listedRows (s : State) (v : VSlot) (n : Nat) : List Nat :=
  let cells := s.hbm.filter (fun c => decide (v.dirLoc ≤ c.1) && decide (c.1 < v.dirLoc + 16 * n))
  dedupNat (cells.map (fun c => (c.1 - v.dirLoc) / 16))

/-- Entries of the directory at this K40: positions of a slot. -/
def dirCount (s : State) (t : Table) : Nat :=
  ((mapOf s t).map (fun m => ownedShards m (self s))).getD 0 * 2 ^ (t.hbits - 16)

/-- Insert a row by its place in the shelf. -/
def insOfs (x : Nat × DirEnt) : List (Nat × DirEnt) → List (Nat × DirEnt)
  | [] => [x]
  | y :: r => if x.2.ofs < y.2.ofs then x :: y :: r else y :: insOfs x r

/-- Rows of a shelf in their order: directory address and entry. -/
def rowsIn (s : State) (t : Table) (v : VSlot) (n : Nat) : List (Nat × DirEnt) :=
  let es := (listedRows s v (dirCount s t)).map (fun ix => (dirAddr v ix, readDir s (dirAddr v ix)))
  (es.filter (fun p => p.2.loaded && p.2.tier != 3 && p.2.shelf == n)).foldr insOfs []

end Sys2Proof.Machine
end

