-- ==== Sys2Proof/Machine/Translate.lean ====
section
/-! DEFINITION. Device addresses: contexts, segments and page tables, the translation of a range, and the Clerk's reads
and writes of argument and result blocks (chapter "Addresses, segments and faults", R507). -/

namespace Sys2Proof.Machine

open Sys2Proof

/-- A context as reset leaves it: page-table mode, not set up (R409). -/
def Ctx.reset : Ctx := { valid := false, ptMode := true, winOfs := 0, root := 0, ptfmt := 0, segs := [] }

/-- Context `c`. -/
def ctxOf (s : State) (c : Nat) : Ctx := mgetD s.xlt.ctxs c Ctx.reset

/-- A segment with every word 0. -/
def Seg.zero : Seg := { base := 0, last := 0, phys := 0, flags := 0 }

/-- First DA of a segment (R410). -/
def segBase (g : Seg) : Nat := bits g.base 12 44 * 4096
/-- Last DA of a segment, the end of its last page. -/
def segEnd (g : Seg) : Nat := bits g.last 12 44 * 4096 + 4095
/-- PLOCAL as an address. -/
def segLocal (g : Seg) : Nat := bits g.phys 12 38 * 4096
/-- PNODE. -/
def segNode (g : Seg) : Nat := bits g.phys 50 14
/-- VALID, PRESENT, READ, WRITE. -/
def segValid (g : Seg) : Bool := bit g.flags 0
def segPresent (g : Seg) : Bool := bit g.flags 1
def segRead (g : Seg) : Bool := bit g.flags 2
def segWrite (g : Seg) : Bool := bit g.flags 3

/-- 2^49: below it chip memory, from it on the local HBM data space (R400). -/
def hbmLocal : Nat := 0x2000000000000

/-- Where a local physical range lies: chip memory, local HBM at an offset, or nowhere (R400). -/
inductive Target where
  | chip | hbm | none
  deriving DecidableEq, Repr

/-- The target of `n` bytes at a local physical address. -/
def targetOf (s : State) (a n : Nat) : Target :=
  if a + n ≤ hbmLocal then .chip
  else if hbmLocal ≤ a ∧ a + n ≤ hbmLocal + hbmSize s then .hbm
  else .none

/-- NODE_ID, or 0 while NODE_VALID is 0 (R402). -/
def ownNode (s : State) : Nat := if s.span.nodeValid then s.span.nodeId else 0

/-- How a translation fails: a check of R413 or R421, or a fault of check 6; with the walk level and the DA at which it
failed (0 in segment mode). -/
inductive XlatFail where
  | segment (level da : Nat)
  | perm (level da : Nat)
  | fault (kind : FaultKind) (level da : Nat)
  deriving DecidableEq, Repr

/-- The segment that holds a range wholly, if one VALID segment does (R413). -/
def segHolding (c : Ctx) (da n : Nat) : Option (Nat × Seg) :=
  c.segs.find? (fun p => segValid p.2 && decide (segBase p.2 ≤ da) && decide (da + n ≤ segEnd p.2 + 1))

/-- Checks 4 to 6 in segment mode (R413). -/
def segTranslate (s : State) (c : Ctx) (da n : Nat) (write : Bool) : Except XlatFail Xlat :=
  match segHolding c da n with
  | none => .error (.segment 0 da)
  | some (i, g) =>
    let local_ := segLocal g + (da - segBase g)
    if !segPresent g ∨ segNode g ≠ ownNode s ∨ targetOf s local_ n = .none then .error (.segment 0 da)
    else if (if write then !segWrite g || targetOf s local_ n == .hbm else !segRead g) then .error (.perm 0 da)
    else .ok (.seg i (segBase g) (segLocal g))

/-- A page-table entry read by the walker: none when it is uncorrectable or poisoned (R418). -/
def walkRead (s : State) (v : ChipView) (a : Nat) : Option W64 :=
  match targetOf s a 8 with
  | .chip => if v.err then none else some (w64 (leNat (viewBytes v a 8)))
  | .hbm =>
    let h := a - hbmLocal
    if (poisonedAt s h 8).isSome then none else some (w64 (leNat (hbmRead s h 8)))
  | .none => none

/-- LEVELS, P_BIT, W_BIT, PS_BIT, ADDR_MSB, EN_2M, EN_1G of XLT_PTFMT (R416). -/
def fmtLevels (f : W64) : Nat := bits f 0 3
def fmtP (f : W64) : Nat := bits f 3 6
def fmtW (f : W64) : Nat := bits f 9 6
def fmtPs (f : W64) : Nat := bits f 15 6
def fmtMsb (f : W64) : Nat := bits f 21 6
def fmt2m (f : W64) : Bool := bit f 27
def fmt1g (f : W64) : Bool := bit f 28

/-- R417: a format that page-table mode can use. -/
def fmtOk (f : W64) : Bool :=
  let inField (b : Nat) : Bool := decide (12 ≤ b) && decide (b ≤ fmtMsb f)
  (fmtLevels f == 4 || fmtLevels f == 5) && decide (20 ≤ fmtMsb f) && decide (fmtMsb f ≤ 49) &&
    fmtP f != fmtW f && fmtP f != fmtPs f && fmtW f != fmtPs f &&
    !inField (fmtP f) && !inField (fmtW f) && !inField (fmtPs f)

/-- HVA of a DA (R398). -/
def hvaOf (c : Ctx) (da : Nat) : Nat := (da + bits c.winOfs 12 52 * 4096) % pow64

/-- R418, from level `lvl` down with the table at `table`. Answers the leaf's level, base and write bit. -/
def walkFrom (s : State) (v : ChipView) (f : W64) (hva da : Nat) (write : Bool) : Nat → Nat → Except XlatFail Leaf
  | lvl, table =>
    match walkRead s v (table + (hva >>> (12 + 9 * lvl)) % 512 * 8) with
    | none => .error (.fault .walk lvl da)
    | some e =>
      if !bit e (fmtP f) then .error (.fault .notPresent lvl da)
      else
        let base := bits e 12 (fmtMsb f - 11) * 4096
        let leaf := lvl == 0 || (lvl == 1 && fmt2m f && bit e (fmtPs f)) || (lvl == 2 && fmt1g f && bit e (fmtPs f))
        let size := 2 ^ (12 + 9 * lvl)
        let done : Except XlatFail Leaf :=
          if base % size ≠ 0 then .error (.fault .walk lvl da)
          else if write && !bit e (fmtW f) then .error (.perm lvl da)
          else
            let t := targetOf s (base + hva % size) 1
            if t = .none then .error (.segment lvl da)
            else if write && t == .hbm then .error (.perm lvl da)
            else .ok { ctx := 0, hva := hva / size * size, level := lvl, pa := base, write := bit e (fmtW f) }
        match lvl with
        | 0 => done
        | l + 1 => if leaf then done else walkFrom s v f hva da write l base

/-- A leaf that covers an HVA. -/
def leafCovers (l : Leaf) (hva : Nat) : Bool :=
  decide (l.hva ≤ hva) && decide (hva < l.hva + 2 ^ (12 + 9 * l.level))

/-- Walk one page of a context: the walker cache first, then the tables (R418, R420). -/
def walkPage (s : State) (v : ChipView) (ci : Nat) (da : Nat) (write : Bool) : Except XlatFail Leaf :=
  let c := ctxOf s ci
  let f := c.ptfmt
  let hva := hvaOf c da
  let top := if fmtLevels f = 5 then 56 else 47
  let hi := hva >>> top
  if hi ≠ 0 ∧ hi ≠ 2 ^ (64 - top) - 1 then .error (.segment (fmtLevels f - 1) da)
  else
    match s.xlt.cache.find? (fun l => l.ctx == ci && leafCovers l hva) with
    | some l =>
      let t := targetOf s (l.pa + (hva - l.hva)) 1
      if write && (!l.write || t == .hbm) then .error (.perm l.level da) else .ok l
    | none =>
      match walkFrom s v f hva da write (fmtLevels f - 1) (bits c.root 12 38 * 4096) with
      | .error e => .error e
      | .ok l => .ok { l with ctx := ci }

/-- Walk a range in ascending address order, one leaf at a time (R421). With those that earlier ranges of the Run touch, `pre`,
the leaf that would be one more than 1,024 fails check 4 (R420). -/
def walkRange (s : State) (v : ChipView) (ci : Nat) (write : Bool) (pre : List Leaf) :
    Nat → Nat → Nat → List Leaf → Except XlatFail (List Leaf)
  | 0, da, _, _ => .error (.segment 0 da)
  | k + 1, da, n, acc =>
    match walkPage s v ci da write with
    | .error e => .error e
    | .ok l =>
      let known := (pre ++ acc).contains l
      let rest := l.hva + 2 ^ (12 + 9 * l.level) - hvaOf (ctxOf s ci) da
      if !known ∧ 1024 ≤ pre.length + (acc.filter (fun x => !pre.contains x)).length then .error (.segment 0 da)
      else if n ≤ rest then .ok (acc ++ [l]) else walkRange s v ci write pre k (da + rest) (n - rest) (acc ++ [l])

/-- Translate a range of `n` bytes at `da` in a context (R407, R413, R421, R422), `pre` being the leaves that the item's earlier
ranges touch. -/
def translateAfter (pre : List Leaf) (s : State) (v : ChipView) (ci da n : Nat) (write : Bool) : Except XlatFail Xlat :=
  let c := ctxOf s ci
  if !c.valid ∨ 2 ^ 56 < da + n then .error (.segment 0 da)
  else if c.ptMode then
    if !fmtOk c.ptfmt ∨ !bit c.root 0 then .error (.segment 0 da)
    else match walkRange s v ci write pre 1025 da n [] with
      | .error e => .error e
      | .ok ls => .ok (.pages (bits c.winOfs 12 52 * 4096) ls)
  else segTranslate s c da n write

/-- Translate one range by itself. -/
def translate (s : State) (v : ChipView) (ci da n : Nat) (write : Bool) : Except XlatFail Xlat :=
  translateAfter [] s v ci da n write

/-- Local physical address of a DA under a kept translation. -/
def physOf (x : Xlat) (da : Nat) : Nat :=
  match x with
  | .seg _ base phys => phys + (da - base)
  | .pages win ls =>
    let hva := (da + win) % pow64
    match ls.find? (fun l => leafCovers l hva) with
    | some l => l.pa + (hva - l.hva)
    | none => 0

/-- Leaves a translation pins. -/
def leavesOf : Xlat → List Leaf
  | .seg _ _ _ => []
  | .pages _ ls => ls

/-- A range under a translation, cut where its leaves end: physical address and length. -/
def physPieces (x : Xlat) : Nat → Nat → Nat → List (Nat × Nat)
  | 0, _, _ => []
  | k + 1, da, n =>
    if n = 0 then []
    else
      let len := match x with
        | .seg _ _ _ => n
        | .pages win ls =>
          let hva := (da + win) % pow64
          match ls.find? (fun l => leafCovers l hva) with
          | some l => min n (l.hva + 2 ^ (12 + 9 * l.level) - hva)
          | none => n
      (physOf x da, len) :: physPieces x k (da + len) (n - len)

/-- The pieces of a range. -/
def rangePieces (x : Xlat) (da n : Nat) : List (Nat × Nat) := physPieces x 1026 da n

/-! ## The Clerk's argument and result blocks (R507) -/

/-- What a failed translation answers a command: NOT_PRESENT and WALK are treated as CS_SEG_VIOLATION. -/
def failStatus : XlatFail → Status
  | .perm _ _ => .perm
  | _ => .segViolation

/-- Read an argument block by DA in a context. -/
def clerkRead (s : State) (v : ChipView) (ci da n : Nat) : Except Status (List Byte) :=
  match translate s v ci da n false with
  | .error e => .error (failStatus e)
  | .ok x =>
    let ps := rangePieces x da n
    let bad := ps.any (fun p => match targetOf s p.1 p.2 with
      | .hbm => (poisonedAt s (p.1 - hbmLocal) p.2).isSome
      | _ => v.err)
    if bad then .error .uncorrectable
    else .ok (ps.flatMap (fun p => match targetOf s p.1 p.2 with
      | .hbm => hbmRead s (p.1 - hbmLocal) p.2
      | _ => viewBytes v p.1 p.2))

/-- Where the entry lies that a walk reads at level `stop` (R418). -/
def pteAddr (s : State) (v : ChipView) (f : W64) (hva stop : Nat) : Nat → Nat → Option Nat
  | lvl, table =>
    let a := table + (hva >>> (12 + 9 * lvl)) % 512 * 8
    if lvl = stop then some a
    else match lvl with
      | 0 => none
      | l + 1 => (walkRead s v a).bind (fun e => pteAddr s v f hva stop l (bits e 12 (fmtMsb f - 11) * 4096))

/-- The poisoned codeword that a failed walk met in an entry (R330, R418). -/
def walkPoison (s : State) (v : ChipView) (ci : Nat) : XlatFail → Option Nat
  | .fault .walk lvl da =>
    let c := ctxOf s ci
    (pteAddr s v c.ptfmt (hvaOf c da) lvl (fmtLevels c.ptfmt - 1) (bits c.root 12 38 * 4096)).bind (fun a =>
      match targetOf s a 8 with
      | .hbm => poisonedAt s (a - hbmLocal) 8
      | _ => none)
  | _ => none

/-- A failed walk counts the poisoned codeword it met (R330). -/
def noteWalk (v : ChipView) (ci : Nat) (e : XlatFail) (s : State) : State :=
  match walkPoison s v ci e with
  | some cw => countPoisonRead cw s
  | none => s

/-- What a read of an argument block leaves behind: POISON_READS of the poisoned codewords it meets (R330). -/
def noteClerk (v : ChipView) (ci da n : Nat) (s : State) : State :=
  match translate s v ci da n false with
  | .error e => noteWalk v ci e s
  | .ok x =>
    (rangePieces x da n).foldl (fun t p => match targetOf s p.1 p.2 with
      | .hbm => (poisonsAt s (p.1 - hbmLocal) p.2).foldl (fun t c => countPoisonRead c t) t
      | _ => t) s

/-- Bytes cut to the pieces of a range. -/
def cutPieces : List (Nat × Nat) → List Byte → List (Nat × List Byte)
  | [], _ => []
  | (a, n) :: r, bs => (a, bs.take n) :: cutPieces r (bs.drop n)

/-- How many requests a list of pieces makes. -/
def requestCount (ps : List (Nat × List Byte)) : Nat :=
  ps.foldl (fun n p => n + (pieces p.1 p.2).length) 0

/-- The writes of a result block that goes to a translated DA (R507, R624). -/
def sendResult (slot : Nat) (x : Xlat) (da : Nat) (bs : List Byte) (s : State) : State :=
  (cutPieces (rangePieces x da bs.length) bs).foldl (fun t p => chipWrite .wr (.clerkResult slot) p.1 p.2 t) s

/-- Write a result block and hold the FINAL response until it is accepted (R507). -/
def clerkResult (s : State) (v : ChipView) (slot : Nat) (m : Msg) (da : Nat) (bs : List Byte) (payload : List W64) :
    State :=
  match translate s v m.ctx da bs.length true with
  | .error e => postFinal slot m (failStatus e) [] (noteWalk v m.ctx e s)
  | .ok x =>
    sendResult slot x da bs { s with mbx := { s.mbx with
      awaiting := s.mbx.awaiting ++ [{ resp := respOf slot m 0 .ok payload,
                                       left := requestCount (cutPieces (rangePieces x da bs.length) bs) }] } }

/-! ## Deold commands -/

/-- A taken command in a slot with this OP that the running Clerk can carry out now: `slow` commands run one at a time,
in doorbell order, behind any slow command taken before and not answered (R506). -/
def takenCmd (s : State) (op slot : Nat) (slow : Nat → Bool) : Option Taken :=
  if !clerkRuns s then none
  else
    match s.mbx.taken.find? (fun t => t.slot == slot) with
    | some t =>
      if t.msg.op ≠ op ∨ t.held then none
      else if slow op then
        match s.mbx.taken.find? (fun u => slow u.msg.op) with
        | some u => if u.slot = slot then some t else none
        | none => none
      else some t
    | none => none

/-- The slow commands of R509. -/
def isSlow (op : Nat) : Bool :=
  op ∈ [0x0301, 0x0501, 0x0505, 0x0506, 0x0508, 0x0601, 0x0802, 0x0803, 0x0901, 0x0902, 0x0D02]

/-- The asynchronous commands of R509. -/
def isAsync (op : Nat) : Bool := op ∈ [0x0201, 0x0401, 0x0402, 0x0A02, 0x0A03, 0x0C01]

/-- The command leaves the taken list. -/
def untake (slot : Nat) (s : State) : State :=
  { s with mbx := { s.mbx with taken := s.mbx.taken.filter (fun t => t.slot != slot) } }

/-- Carry out a taken command: `f` answers the state after the command, its response posted. Where no such command is
ready the step does not come about (assumption log 3). -/
def cmdStep (op slot : Nat) (s : State) (f : Msg → State → State) : Host.Outcome State Fault Refusal :=
  match takenCmd s op slot isSlow with
  | none => .next s
  | some t => .next (settle (f t.msg (untake slot s)))

/-- W1 to W7 of a message. -/
def arg (m : Msg) (i : Nat) : W64 := m.w.getD (i - 1) 0

/-- Accept an asynchronous command: ACCEPTED now, a REPORT owed (R504). -/
def accept (slot : Nat) (m : Msg) (s : State) : State :=
  let s := post (respOf slot m 1 .ok []) s
  { s with clerk := { s.clerk with owed := s.clerk.owed ++ [{ slot := slot, seq := m.seq, op := m.op }] } }

/-- A table is named in a command: its LIVE descriptor, or CS_TABLE_ABSENT, the table is not there (R14). -/
def withTable (slot : Nat) (m : Msg) (tid : Nat) (s : State) (f : Table → State) : State :=
  match liveTable s tid with
  | some t => f t
  | none => postFinal slot m .tableAbsent [] s

end Sys2Proof.Machine
end

