-- ==== Sys2Proof/Machine/Deold.lean ====
section
/-! DEFINITION. The mailbox block, the taking of Deold commands and the response ring (chapter "The Clerk, the Deold
command set and the Watchman"): MBX_DOORBELL, MBX_SLOT_WRITE, MBX_RESP_HEAD_WRITE, MBX_RING_CONFIG_WRITE, COMMAND_TAKE
and RESPONSE_WRITE. -/

namespace Sys2Proof.Machine

open Sys2Proof

/-! ## Mailboxes -/

/-- A mailbox access was ignored (R496, R499). -/
def mbxRefuse (s : State) : State := { s with mbx := { s.mbx with refused := true } }

/-- R495, R496: ring a slot; a busy slot's doorbell is ignored and sets REFUSED. -/
def ringSlot (n : Nat) (s : State) : State :=
  if n ∈ s.mbx.busy then mbxRefuse s
  else { s with mbx := { s.mbx with busy := s.mbx.busy ++ [n], rung := s.mbx.rung ++ [n] } }

/-- MBX_DOORBELL (R495, R496, R498). -/
def execMbxDoorbell (val : W64) (s : State) : Host.Outcome State Fault Refusal :=
  kcpWrite s (ringSlot (bits val 0 6))

/-- One word of a slot written, unless the slot is busy (R496). -/
def writeSlotWord (n w : Nat) (val : W64) (s : State) : State :=
  if n ∈ s.mbx.busy then mbxRefuse s
  else { s with mbx := { s.mbx with slots := mset s.mbx.slots (8 * n + w) val } }

/-- MBX_SLOT_WRITE: a word of MBX_SLOT[n] (R495, R496). -/
def execMbxSlotWrite (n w : Nat) (val : W64) (s : State) : Host.Outcome State Fault Refusal :=
  if n < 64 ∧ w < 8 then kcpWrite s (writeSlotWord n w val) else .next s

/-- R499, R446: a HEAD write is ignored when it would pass TAIL. -/
def headPasses (newHead head tail : Nat) : Bool :=
  decide ((tail + pow32 - head) % pow32 < (newHead + pow32 - head) % pow32)

/-- MBX_RESP_HEAD takes a new HEAD (R498, R499). -/
def writeRespHead (val : W64) (s : State) : State :=
  let h := bits val 0 32
  if headPasses h s.mbx.head s.mbx.tail then mbxRefuse s
  else { s with mbx := { s.mbx with head := h } }

/-- MBX_RESP_HEAD_WRITE. -/
def execMbxRespHeadWrite (val : W64) (s : State) : Host.Outcome State Fault Refusal :=
  kcpWrite s (writeRespHead val)

/-- VALID and BASE of MBX_RESP_BASE and GBL_MSI_ADDR: the bits such a register keeps (R498, R658). -/
def baseMask : W64 := 0x0001FFFFFFFFFFC1#64

/-- A power of two from 64 to 65,536 (R445, R498). -/
def ringSizeOk (n : Nat) : Bool := n ∈ [64, 128, 256, 512, 1024, 2048, 4096, 8192, 16384, 32768, 65536]

/-- The ring registers may change: HEAD equals TAIL and MBX_BUSY is 0 (R499). -/
def ringIdle (s : State) : Bool := s.mbx.head == s.mbx.tail && s.mbx.busy.isEmpty

/-- MBX_RESP_BASE (R498, R499): a write that changes nothing is never refused. -/
def writeRespBase (val : W64) (s : State) : State :=
  let b := val &&& baseMask
  if b = s.mbx.respBase then s
  else if ringIdle s then { s with mbx := { s.mbx with respBase := b } }
  else mbxRefuse s

/-- MBX_RESP_SIZE (R498, R499, R666). -/
def writeRespSize (val : W64) (s : State) : State :=
  let n := bits val 0 17
  let keep := s.mbx.refused && !bit val 63
  if n = s.mbx.respSize then { s with mbx := { s.mbx with refused := keep } }
  else if ringSizeOk n && ringIdle s then { s with mbx := { s.mbx with respSize := n, refused := keep } }
  else mbxRefuse s

/-- MBX_RING_CONFIG_WRITE: MBX_RESP_BASE, or MBX_RESP_SIZE where `size`. -/
def execMbxRingConfigWrite (size : Bool) (val : W64) (s : State) : Host.Outcome State Fault Refusal :=
  kcpWrite s (if size then writeRespSize val else writeRespBase val)

/-! ## Taking a command -/

/-- Block states a command is accepted in (R509). -/
inductive Accepted where
  | any | kept | live | heldReady | notSelftest | readyOnly
  deriving DecidableEq, Repr

/-- Whether a block state is in a group of R509. -/
def acceptedIn (a : Accepted) (b : BlockState) : Bool :=
  match a with
  | .any => b != .off
  | .kept => b == .held || b == .ready || b == .running
  | .live => b == .ready || b == .running
  | .heldReady => b == .held || b == .ready
  | .notSelftest => b != .off && b != .selftest
  | .readyOnly => b == .ready

/-- A mask of the low `n` bits. -/
def low (n : Nat) : Nat := 2 ^ n - 1

/-- R509: for each OP its states and the bits of W1 to W7 its arguments use; other bits are reserved (R502). -/
def cmdTable : List (Nat × Accepted × List Nat) :=
  [(0x0101, .any, []), (0x0102, .any, [low 56, low 44]), (0x0201, .heldReady, [low 4]),
   (0x0301, .notSelftest, [low 3]), (0x0401, .heldReady, []), (0x0402, .heldReady, [low 3, low 56]),
   (0x0501, .live, [low 56]), (0x0502, .kept, [low 12, low 56]), (0x0503, .live, [low 12]),
   (0x0504, .live, [low 13, low 41, low 24]), (0x0505, .live, [low 14, low 56, low 17, low 32]),
   (0x0506, .live, [low 13]), (0x0507, .live, [low 12]), (0x0508, .live, [low 12, low 56, low 32]),
   (0x0601, .live, [low 9, low 56]),
   (0x0701, .live, [low 8, 0xFFFFFFFFFFFFF000, 0x3FFFFFFFFF001, low 29]),
   (0x0702, .live, [0xF3F, 0xFFFFFFFFFFF000, 0xFFFFFFFFFFF000, 0xFFFFFFFFFFFFF000, low 4]),
   (0x0703, .live, [0x73FFF, 0x1FFFFF1FFFFF]), (0x0801, .kept, [low 15]),
   (0x0802, .live, [0xFFFF000F, low 56]), (0x0803, .live, [low 56]), (0x0901, .live, [low 60]),
   (0x0902, .live, [low 56]), (0x0A01, .live, [0x1FFFFFFFFFFF, low 56]), (0x0A02, .live, [low 32]),
   (0x0A03, .live, [low 64]), (0x0A04, .live, [low 56]), (0x0B01, .kept, [0xFF7F7F, low 15, low 32]),
   (0x0C01, .live, [0xFFFFFF0F]), (0x0C02, .live, [0xFFFFFF07]), (0x0D01, .kept, []),
   (0x0D02, .readyOnly, [low 64, low 16])]

/-- The row of an OP. -/
def cmdRow (op : Nat) : Option (Accepted × List Nat) :=
  (cmdTable.find? (fun r => r.1 == op)).map (·.2)

/-- No reserved bit of the argument words is set (R502). -/
def argsClear (masks : List Nat) (ws : List W64) : Bool :=
  (List.range 7).all (fun i => (ws.getD i 0).toNat &&& (masks.getD i 0) == (ws.getD i 0).toNat)

/-- Arguments whose range R509 states lie in it (R502): counts of LOG_READ and LOAD_ROWS, ROWS of LOAD_START, entries of
STEP_OPEN. -/
def argRanges (op : Nat) (ws : List W64) : Bool :=
  let f (i lo n : Nat) : Nat := bits (ws.getD i 0) lo n
  if op = 0x0102 then decide (1 ≤ f 1 32 12) && decide (f 1 32 12 ≤ 2048)
  else if op = 0x0504 then decide (f 1 0 41 ≤ 2 ^ 40)
  else if op = 0x0505 then decide (1 ≤ f 2 0 17) && decide (f 2 0 17 ≤ 65536)
  else if op = 0x0A01 then decide (f 0 32 13 ≤ 4096)
  else true

/-- R552: outside Field and Field-Debug only five commands are accepted. -/
def lifecycleAllows (lc op : Nat) : Bool :=
  lc == 2 || lc == 3 || op ∈ [0x0101, 0x0102, 0x0201, 0x0401, 0x0402]

/-- The message in a slot (R501). -/
def msgOf (s : State) (n : Nat) : Msg :=
  let w (i : Nat) : W64 := mgetD s.mbx.slots (8 * n + i) 0
  { op := bits (w 0) 0 16, seq := bits (w 0) 16 16, ctx := bits (w 0) 32 6,
    w := [w 1, w 2, w 3, w 4, w 5, w 6, w 7] }

/-- The checks of R502, R509 and R552 that every command meets when it is taken. -/
def msgOk (s : State) (n : Nat) (m : Msg) : Bool :=
  match cmdRow m.op with
  | none => false
  | some (a, masks) =>
    bits (mgetD s.mbx.slots (8 * n) 0) 38 26 == 0 && argsClear masks m.w && argRanges m.op m.w && acceptedIn a s.gbl.state &&
      lifecycleAllows s.gbl.lifecycle m.op

/-- The Clerk takes the first rung slot: a command that breaks R502, R509 or R552 is answered CS_BAD_DESCRIPTOR, any
other waits to be carried out (R495, R506). -/
def takeFirst (n : Nat) (rest : List Nat) (s : State) : State :=
  let m := msgOf s n
  let s := { s with mbx := { s.mbx with rung := rest } }
  if msgOk s n m then { s with mbx := { s.mbx with taken := s.mbx.taken ++ [{ slot := n, msg := m, held := false }] } }
  else postFinal n m .badDescriptor [] s

/-- Nothing is owed from before a recovery reset, which the Clerk answers before it takes a slot (R548). -/
def owesNothing (s : State) : Bool := s.clerk.lost.isEmpty && s.clerk.lostOwed.isEmpty && s.clerk.report.isNone

/-- COMMAND_TAKE. -/
def execCommandTake (s : State) : Host.Outcome State Fault Refusal :=
  match s.mbx.rung with
  | [] => .next s
  | n :: rest => if clerkRuns s && owesNothing s then .next (takeFirst n rest s) else .next s

/-! ## The response ring -/

/-- Status codes (R14). -/
def statusCode : Status → Nat
  | .ok => 0x00
  | .okDefaulted => 0x01
  | .okReplayed => 0x02
  | .okRedone => 0x03
  | .lateDeferred => 0x10
  | .lateDropped => 0x11
  | .faultAbort => 0x20
  | .segViolation => 0x21
  | .perm => 0x22
  | .homeAbsent => 0x30
  | .remoteTimeout => 0x31
  | .shuttered => 0x40
  | .resetLost => 0x41
  | .badDescriptor => 0x50
  | .badTemplate => 0x51
  | .tableAbsent => 0x52
  | .uncorrectable => 0x60
  | .poisoned => 0x61

/-- R500, R437: PHASE of entry `k`. -/
def phaseOf (k size : Nat) : Nat := if k / size % 2 = 0 then 1 else 0

/-- The word each entry of a response starts with (R503). -/
def respWord (r : Response) (cont : Bool) (phase : Nat) : W64 :=
  w64 (r.seq + r.slot * 2 ^ 16 + r.kind * 2 ^ 22 + statusCode r.status * 2 ^ 24 + r.op * 2 ^ 32 +
    (r.entries - 1) * 2 ^ 48 + b2n cont * 2 ^ 50 + phase * 2 ^ 63)

/-- Bytes of entry `i` of a response. -/
def respEntry (r : Response) (i phase : Nat) : List Byte :=
  toLe 8 (respWord r (i != 0) phase).toNat ++
    wordsToBytes ((List.range 7).map (fun j => r.payload.getD (7 * i + j) 0))

/-- A ring with room for `n` entries (R436, R500). -/
def ringRoom (valid : Bool) (head tail size n : Nat) : Bool :=
  valid && decide ((tail + pow32 - head) % pow32 + n ≤ size)

/-- Write entry `i` of a response at its place in the ring. -/
def writeEntry (r : Response) (i : Nat) (s : State) : State :=
  let k := (s.mbx.tail + i) % pow32
  chipWrite .pedWr .small (bits s.mbx.respBase 6 43 * 64 + k % s.mbx.respSize * 64)
    (respEntry r i (phaseOf k s.mbx.respSize)) s

/-- Write a response: its later entries before its first; TAIL passes it whole; the first response of a command frees
its slot (R497, R503). -/
def writeResponse (r : Response) (rest : List Response) (s : State) : State :=
  let s := { s with mbx := { s.mbx with respQ := rest } }
  let s := ((List.range r.entries).reverse).foldl (fun t i => writeEntry r i t) s
  { s with mbx := { s.mbx with
    tail := (s.mbx.tail + r.entries) % pow32,
    busy := if r.kind = 2 then s.mbx.busy else s.mbx.busy.filter (· ≠ r.slot) } }

/-- The head of the response queue can be written. -/
def responseReady (s : State) : Option (Response × List Response) :=
  match s.mbx.respQ with
  | [] => none
  | r :: rest =>
    if clerkRuns s && ringRoom (bit s.mbx.respBase 0) s.mbx.head s.mbx.tail s.mbx.respSize r.entries
    then some (r, rest) else none

/-- RESPONSE_WRITE (R497, R500, R503). -/
def execResponseWrite (s : State) : Host.Outcome State Fault Refusal :=
  match responseReady s with
  | none => .next s
  | some (r, rest) => .next (writeResponse r rest s)

end Sys2Proof.Machine
end

