-- ==== Sys2Proof/Machine/Counters.lean ====
section
/-! DEFINITION. Island counters, the central reader, dumps, the frozen view, CTR_CONFIG and sample records (chapter
"Counters and sampling"). Cycle counters, occupancies and idle causes rise with time, which is an input of the model:
they arrive as operands of the reader's steps (assumption log 12). -/

namespace Sys2Proof.Machine

open Sys2Proof

/-! ## Islands -/

/-- 2^48. -/
def pow48 : Nat := 281474976710656

/-- An island with every counter 0. -/
def Island.zero : Island :=
  { cycles := 0, evsel := [], thresh := [], value := [], seen := [], seenCycles := 0, agg := [], sticky := 0 }

/-- Island `i`. -/
def islandOf (s : State) (i : Nat) : Island := mgetD s.ctr.islands i Island.zero

/-- Change an island. -/
def islandMod (i : Nat) (f : Island → Island) (s : State) : State :=
  { s with ctr := { s.ctr with islands := mmod s.ctr.islands i Island.zero f } }

/-- CTR_EVSEL[n] of an island. -/
def evselOf (k : Island) (n : Nat) : Nat := mgetD k.evsel n 0
def evEvent (w : Nat) : Nat := nbits w 0 12
def evThresh (w : Nat) : Bool := w.testBit 12
def evChain (w : Nat) : Bool := w.testBit 13
def evEnable (w : Nat) : Bool := w.testBit 14

/-- Counter `n` is the upper half of a chained pair (R595). -/
def isUpper (k : Island) (n : Nat) : Bool := n % 2 == 1 && evChain (evselOf k (n - 1))

/-- Counter `n` leads a chained pair. -/
def isChained (k : Island) (n : Nat) : Bool := n % 2 == 0 && evChain (evselOf k n)

/-- Add to counter `n`: a chained pair is one 64-bit counter, any other wraps at 2^32 (R594, R595). -/
def Island.bump (k : Island) (n x : Nat) : Island :=
  if isUpper k n ∨ !evEnable (evselOf k n) then k
  else if isChained k n then
    let v := (mgetD k.value n 0 + mgetD k.value (n + 1) 0 * pow32 + x) % pow64
    { k with value := mset (mset k.value n (v % pow32)) (n + 1) (v / pow32) }
  else { k with value := mset k.value n ((mgetD k.value n 0 + x) % pow32) }

/-- A count event occurred `x` times in an island: every counter that selects it adds them (R594, R596). -/
def countEv (i code x : Nat) (s : State) : State :=
  islandMod i (fun k => (List.range 8).foldl (fun k n =>
    if evEvent (evselOf k n) = code then k.bump n x else k) k) s

/-- Island numbers (R563). -/
def islLarder : Nat := 40
def islHbm (n : Nat) : Nat := 41 + n
def islLedger : Nat := 53
def islQh : Nat := 54
def islSpan (n : Nat) : Nat := 55 + n

/-- Classes of islands in the event table. -/
inductive IslClass where
  | column | larder | hbm | ledger | qh | span | other
  deriving DecidableEq, Repr

/-- The class of an island. -/
def islClass (i : Nat) : IslClass :=
  if i < 40 then .column else if i = 40 then .larder else if i < 53 then .hbm else if i = 53 then .ledger
  else if i = 54 then .qh else if i < 63 then .span else .other

/-- Count events of a class (R596). -/
def countCodes : IslClass → List Nat
  | .column => [0x000, 0x100, 0x101, 0x102, 0x103, 0x104, 0x105, 0x106, 0x107, 0x120, 0x121, 0x122, 0x123, 0x124,
      0x125, 0x126, 0x127, 0x128]
  | .larder => [0x000, 0x200, 0x201]
  | .hbm => [0x000, 0x300, 0x301, 0x302, 0x303, 0x304, 0x311]
  | .ledger => [0x000, 0x400, 0x401, 0x402, 0x403, 0x420, 0x421, 0x422, 0x423, 0x424, 0x425, 0x426, 0x427, 0x428]
  | .qh => [0x000, 0x500, 0x501, 0x502]
  | .span => [0x000, 0x600, 0x601, 0x602, 0x603, 0x620, 0x621, 0x622, 0x623, 0x624, 0x625, 0x626, 0x627, 0x628]
  | .other => [0x000]

/-- Occupancy events of a class (R596). -/
def occCodes : IslClass → List Nat
  | .column => [0x110, 0x111]
  | .larder => [0x210]
  | .hbm => [0x310]
  | .ledger => [0x410, 0x411]
  | .qh => [0x510, 0x511, 0x512]
  | .span => [0x610]
  | .other => []

/-- Events that steps of the model count themselves. -/
def steppedCodes : List Nat :=
  [0x100, 0x101, 0x102, 0x103, 0x104, 0x105, 0x106, 0x107, 0x400, 0x401, 0x402, 0x403, 0x500, 0x501, 0x502, 0x600, 0x601,
   0x602, 0x603]

/-- A column at reset. -/
def Column.reset : Column :=
  { good := 0, active := 0, state := .enabled, mills := [], wait := [], redo := [], window := [], pins := [],
    backward := false, merge := [], flushDue := false, runSet := [], notices := [], idle := [],
    idleSel := 0, wrapped := false }

/-- Column `c`. -/
def colOf (s : State) (c : Nat) : Column := mgetD s.cols c Column.reset

/-- Change column `c`. -/
def colMod (c : Nat) (f : Column → Column) (s : State) : State :=
  { s with cols := mmod s.cols c Column.reset f }

/-- The largest value an occupancy can have, where R596 gives it. -/
def occBound (code : Nat) : Option Nat :=
  if code = 0x410 ∨ code = 0x511 then some 4096
  else if code = 0x411 then some 1024
  else if code = 0x512 then some 16384
  else if code = 0x610 then some 2048
  else none

/-- What an occupancy adds in so many cycles: the operand's sum within the bound of the occupancy; with THRESH_EN the cycles in
which it exceeds N, none where it cannot (R594, R596). -/
def occAdd (code cycles given : Nat) (thr : Bool) (n : Nat) : Nat :=
  match occBound code with
  | some b => if thr then (if b ≤ n then 0 else min given cycles) else min given (b * cycles)
  | none => if thr then min given cycles else given

/-- What the passing of time adds to a counter: the island's cycles, a column's idle causes, an idle cause of a Span port or the
Ledger within its cycles, an occupancy, else what the operand says (R594, R609). -/
def timeAdd (i code cycles given : Nat) (idle : List Nat) (thr : Bool) (n : Nat) : Nat :=
  if code = 0 then cycles
  else if code ∈ occCodes (islClass i) then occAdd code cycles given thr n
  else if code ∉ countCodes (islClass i) ∨ code ∈ steppedCodes then 0
  else if islClass i = .column then idle.getD (code - 0x120) 0
  else if 0x20 ≤ code % 256 ∨ code = 0x311 then min given cycles
  else given

/-- Bits set in a 32-bit map. -/
def popCount (n : Nat) : Nat := ((List.range 32).filter (fun i => n.testBit i)).length

/-- The cycles of a column's active Mills under their causes: each cycle under exactly one, those under none of the first eight
under NO_WORK (R609, R610). -/
def idleSplit : Nat → Nat → List Nat → List Nat
  | 0, left, _ => [left]
  | k + 1, left, xs => min (xs.headD 0) left :: idleSplit k (left - min (xs.headD 0) left) xs.tail

/-- The nine increases of a column whose clock ran so many cycles. -/
def idleOf (k : Column) (cycles : Nat) (xs : List Nat) : List Nat := idleSplit 8 (cycles * popCount k.active) xs

/-! ## Columns' idle counts -/

/-- Add to the nine idle counts; one that wraps sets WRAPPED (R611). -/
def Column.addIdle (k : Column) (xs : List Nat) : Column :=
  (List.range 9).foldl (fun k c =>
    let v := mgetD k.idle c 0 + xs.getD c 0
    { k with idle := mset k.idle c (v % pow48), wrapped := k.wrapped || decide (pow48 ≤ v) }) k

/-! ## The reader -/

/-- Time passes in one island. -/
def passTime (x : IslandInc) (s : State) : State :=
  if x.island ≤ 65 then
    let idle := idleOf (colOf s x.island) x.cycles x.idle
    let s := islandMod x.island (fun k =>
      let k := (List.range 8).foldl (fun k n =>
        k.bump n (timeAdd x.island (evEvent (evselOf k n)) x.cycles (x.adds.getD n 0) idle (evThresh (evselOf k n))
          (mgetD k.thresh n 0))) k
      { k with cycles := (k.cycles + x.cycles) % pow48 }) s
    if x.island < 40 then colMod x.island (fun c => c.addIdle idle) s else s
  else s

/-- Fold one counter's increase since the last visit into its aggregate (R599). -/
def Island.fold (k : Island) (n : Nat) : Island :=
  if isUpper k n then k
  else if isChained k n then
    let now := mgetD k.value n 0 + mgetD k.value (n + 1) 0 * pow32
    let old := mgetD k.seen n 0 + mgetD k.seen (n + 1) 0 * pow32
    let tot := mgetD k.agg n 0 + mgetD k.agg (n + 1) 0 * pow48 + (now + pow64 - old) % pow64
    { k with
      agg := mset (mset k.agg n (tot % pow48)) (n + 1) (tot / pow48 % pow48)
      sticky := if pow48 * pow48 ≤ tot then k.sticky ||| 2 ^ (n + 1) else k.sticky }
  else
    let tot := mgetD k.agg n 0 + (mgetD k.value n 0 + pow32 - mgetD k.seen n 0) % pow32
    { k with agg := mset k.agg n (tot % pow48), sticky := if pow48 ≤ tot then k.sticky ||| 2 ^ n else k.sticky }

/-- Visit one island. -/
def Island.visit (k : Island) : Island :=
  let k' := (List.range 8).foldl Island.fold k
  { k' with seen := k'.value, seenCycles := k'.cycles }

/-- Some STICKY bit of the block is set. -/
def anySticky (s : State) : Bool := s.ctr.islands.any (fun p => p.2.sticky != 0)

/-- The reader visits every island; the first wrap after every STICKY bit was clear fires CTR_STICKY (R599). -/
def visitAll (incs : List IslandInc) (s : State) : State :=
  let was := anySticky s
  let s := incs.foldl (fun t x => passTime x t) s
  let s := { s with ctr := { s.ctr with islands := s.ctr.islands.map (fun p => (p.1, p.2.visit)) } }
  if !was && anySticky s then raise evCtrSticky s else s

/-- The reader runs outside P3 and Off (R615). -/
def readerRuns (s : State) : Bool := s.gbl.state != .off && s.gbl.state != .retention

/-- READER_VISIT (R599, R593, R594, R609). -/
def execReaderVisit (incs : List IslandInc) (s : State) : Host.Outcome State Fault Refusal :=
  .next (if readerRuns s then visitAll incs s else s)

/-- A snapshot: the increases are folded and SEQ rises by 1 (R601). -/
def snapshot (incs : List IslandInc) (s : State) : State :=
  let s := visitAll incs s
  { s with ctr := { s.ctr with seq := (s.ctr.seq + 1) % pow32 } }

/-- Clock of an island in MHz at the present power state (R557, R614, table of islands of "The K40 in one training
step"); a gated island shows 0. -/
def clockMhz (s : State) (i : Nat) : Nat :=
  let p1 := s.pwr.current == 1
  let p3 := s.pwr.current == 3
  if i < 40 then (if s.pwr.current = 2 ∨ p3 then 0 else if p1 then s.pwr.millMhz * 3 / 4 else s.pwr.millMhz)
  else if i = 63 then 1000
  else if i = 64 then 100
  else if i = 65 then Config.kcpMhz % 4096
  else if p3 then 0
  else if i = 40 then 2000
  else if i < 53 then mgetD (s.hbmStacks.map (fun q => (q.1, q.2.rate * 25))) (i - 41) 0
  else if i < 55 then (if p1 then 900 else 1200)
  else 1328

/-- The words of an island block (R614). -/
def islandBlock (s : State) (i : Nat) (k : Island) : List W64 :=
  let chained := (List.range 4).foldl (fun c j => c + b2n (isChained k (2 * j)) * 2 ^ j) 0
  [w64 (k.seenCycles + i * pow48), w64 (k.sticky + chained * 2 ^ 8 + clockMhz s i * 2 ^ 16)] ++
    (List.range 8).map (fun n => w64 (mgetD k.agg n 0)) ++ List.replicate 6 0

/-- The words of a dump record (R603). -/
def dumpRecord (s : State) : List W64 :=
  [w64 (s.ctr.seq + 66 * pow32), w64 (islandOf s islQh).seenCycles, 0, 0, 0, 0, 0, w64 s.ctr.seq] ++
    (List.range 66).flatMap (fun i => islandBlock s i (islandOf s i))

/-- A byte block cut in 256 B writes. -/
def cut256 : Nat → Nat → List Byte → List (Nat × List Byte)
  | 0, _, _ => []
  | n + 1, a, bs => if bs.isEmpty then [] else (a, bs.take 256) :: cut256 n (a + 256) (bs.drop 256)

/-- The reader's writes of the dump record: the first block, which holds the repeated SEQ, goes last (R602). -/
def dumpWrites (a : Nat) (bs : List Byte) : List (Nat × List Byte) :=
  match cut256 40 a bs with
  | [] => []
  | x :: r => r ++ [x]

/-- A dump record is still on its way out. -/
def dumpBusy (s : State) : Bool := s.cdp.any (fun p => p.2.outQ.any (fun r => r.owner == .dump))

/-- A snapshot and its record, then COUNTER_DUMP (R602). -/
def dumpNow (incs : List IslandInc) (s : State) : State :=
  let s := snapshot incs s
  let base := s.ctr.dumpBase
  let a := bits base 14 35 * 16384 + s.ctr.seq % 2 ^ bits base 1 4 * 16384
  let s := (dumpWrites a (wordsToBytes (dumpRecord s))).foldl (fun t p => chipWrite .pedWr .dump p.1 p.2 t) s
  raise evCounterDump s

/-- DUMP_PERIOD_END (R602): in DUMP mode the period starts a snapshot; it is skipped and counted while the previous
record is incomplete, and skipped while VALID is 0. -/
def execDumpPeriodEnd (incs : List IslandInc) (s : State) : Host.Outcome State Fault Refusal :=
  .next (if !readerRuns s ∨ s.ctr.mode ≠ .dump ∨ !bit s.ctr.dumpBase 0 then s
    else if dumpBusy s then { s with ctr := { s.ctr with skipped := satAdd 16 s.ctr.skipped 1 } }
    else dumpNow incs s)

/-! ## Control registers -/

/-- REFUSED of CTR_MODE is set. -/
def ctrRefuse (s : State) : State := { s with ctr := { s.ctr with refused := true } }

/-- A write of CTR_MODE (R612, R666). -/
def writeCtrMode (val : W64) (s : State) : State :=
  if s.ctr.frozen then ctrRefuse s
  else
    let m := match bits val 0 2 with
      | 0 => CtrMode.live
      | 1 => CtrMode.dump
      | 2 => CtrMode.freeze
      | _ => s.ctr.mode
    { s with ctr := { s.ctr with mode := m, refused := s.ctr.refused && !bit val 63 } }

/-- CTR_MODE_WRITE (R600, R612). -/
def execCtrModeWrite (val : W64) (s : State) : Host.Outcome State Fault Refusal := kcpWrite s (writeCtrMode val)

/-- A write of CTR_FREEZE: FREEZE = 1 takes a snapshot and freezes the view, 0 thaws it (R604). -/
def writeCtrFreeze (incs : List IslandInc) (val : W64) (s : State) : State :=
  if bit val 0 then
    if s.ctr.frozen ∨ s.ctr.mode ≠ .freeze then ctrRefuse s
    else
      let s := snapshot incs s
      { s with ctr := { s.ctr with freeze := true, frozen := true, snapshot := s.ctr.islands } }
  else { s with ctr := { s.ctr with freeze := false, frozen := false, snapshot := [] } }

/-- CTR_FREEZE_WRITE (R604). -/
def execCtrFreezeWrite (val : W64) (incs : List IslandInc) (s : State) : Host.Outcome State Fault Refusal :=
  kcpWrite s (writeCtrFreeze incs val)

/-- A write of CTR_DUMP_PERIOD; below 16 it is refused (R612). -/
def writeCtrPeriod (val : W64) (s : State) : State :=
  if bits val 0 32 < 16 then ctrRefuse s else { s with ctr := { s.ctr with period := bits val 0 32 } }

/-- CTR_DUMP_PERIOD_WRITE (R612). -/
def execCtrDumpPeriodWrite (val : W64) (s : State) : Host.Outcome State Fault Refusal :=
  kcpWrite s (writeCtrPeriod val)

/-- A write of CTR_SAMPLE; K below 4 or above 24 leaves K unchanged (R613). -/
def writeCtrSample (val : W64) (s : State) : State :=
  let k := bits val 1 5
  let k := if k < 4 ∨ 24 < k then bits s.ctr.sample 1 5 else k
  { s with ctr := { s.ctr with
    sample := w64 (bits val 0 1 + k * 2 + bits val 6 4 * 2 ^ 6 + bits val 12 37 * 2 ^ 12) } }

/-- CTR_SAMPLE_WRITE (R605, R613). -/
def execCtrSampleWrite (val : W64) (s : State) : Host.Outcome State Fault Refusal := kcpWrite s (writeCtrSample val)

/-- A write of CTR_DUMP_BASE (R612). -/
def writeDumpBase (val : W64) (s : State) : State :=
  { s with ctr := { s.ctr with dumpBase := val &&& 0x0001FFFFFFFFC01F#64 } }

/-- A write of CTR_ISL_SEL; above 65 it is ignored (R612). -/
def writeIslSel (val : W64) (s : State) : State :=
  if 65 < bits val 0 7 then s else { s with ctr := { s.ctr with islSel := bits val 0 7 } }

/-- A write of 1 to STICKY bits of an island block (R614): of the aggregates, and of the frozen view that shows them. -/
def clearSticky (i : Nat) (val : W64) (s : State) : State :=
  let f := fun (k : Island) => { k with sticky := k.sticky &&& (255 - bits val 0 8) }
  let s := { s with ctr := { s.ctr with islands := mmod s.ctr.islands i Island.zero f } }
  { s with ctr := { s.ctr with
    snapshot := if s.ctr.frozen then mmod s.ctr.snapshot i Island.zero f else s.ctr.snapshot } }

/-- A write of MCL_IDLE_CAUSE of a column: SEL above 8 is ignored, WRAPPED is cleared by 1, CLEAR zeroes the counts
(R611). -/
def writeIdleCause (c : Nat) (val : W64) (s : State) : State :=
  colMod c (fun k => { k with
    idleSel := if 8 < bits val 0 4 then k.idleSel else bits val 0 4
    wrapped := k.wrapped && !bit val 56
    idle := if bit val 63 then [] else k.idle }) s

/-- MCL_IDLE_CAUSE_CLEAR: a write of column `c`'s MCL_IDLE_CAUSE with CLEAR = 1 (R611). -/
def execMclIdleCauseClear (c : Nat) (val : W64) (s : State) : Host.Outcome State Fault Refusal :=
  if c < 40 then kcpWrite s (writeIdleCause c (val ||| 0x8000000000000000#64)) else .next s

/-! ## CTR_CONFIG -/

/-- One counter of one island configured: counter, aggregate and sticky bit zeroed (R598). -/
def Island.config (k : Island) (n ev th : Nat) : Island :=
  { k with
    evsel := mset k.evsel n ev, thresh := mset k.thresh n th, value := mset k.value n 0, seen := mset k.seen n 0
    agg := mset k.agg n 0, sticky := k.sticky &&& (255 - 2 ^ n) }

/-- The refusals of R598. -/
def ctrConfigOk (first last mask ev : Nat) : Bool :=
  let isls := (List.range (last + 1 - first)).map (· + first)
  decide (first ≤ last) && decide (last ≤ 65) && mask != 0 &&
    isls.all (fun i => decide (evEvent ev ∈ countCodes (islClass i)) || decide (evEvent ev ∈ occCodes (islClass i))) &&
    !(evThresh ev && isls.any (fun i => decide (evEvent ev ∈ countCodes (islClass i)))) &&
    !(evChain ev && [1, 3, 5, 7].any (fun n => mask.testBit n))

/-- The counters of MASK of every island from FIRST to LAST set. -/
def ctrConfigure (first last mask ev th : Nat) (s : State) : State :=
  ((List.range (last + 1 - first)).map (· + first)).foldl (fun t i =>
    islandMod i (fun k => (List.range 8).foldl (fun k n =>
      if mask.testBit n then k.config n ev th else k) k) t) s

/-- CTR_CONFIG (R598, OP 0x0B01). -/
def execCtrConfig (slot : Nat) (s : State) : Host.Outcome State Fault Refusal :=
  cmdStep 0x0B01 slot s fun m s =>
    let first := bits (arg m 1) 0 7
    let last := bits (arg m 1) 8 7
    let mask := bits (arg m 1) 16 8
    let ev := bits (arg m 2) 0 15
    if ctrConfigOk first last mask ev then
      postFinal slot m .ok [] (ctrConfigure first last mask ev (bits (arg m 3) 0 32) s)
    else postFinal slot m .badDescriptor [] s

/-! ## Sample records -/

/-- One step of the LFSR, x^32 + x^22 + x^2 + x + 1 (R605). -/
def lfsrStep (x : W32) : W32 :=
  let fb := (x.getLsbD 31 ^^ x.getLsbD 21) ^^ (x.getLsbD 1 ^^ x.getLsbD 0)
  (x <<< 1) ||| (if fb then 1#32 else 0#32)

/-- The words of a sample record; `times` are LONGEST, the ten stamps from 0x28 on, and WAIT (R607). -/
def sampleRecord (seq : Nat) (x : Sample) (times : List Nat) : List W64 :=
  let src (i : Nat) : Nat := min (x.srcs.getD i 0) 65535
  [w64 (seq + x.tag * pow32),
   w64 (x.bag + x.template * 2 ^ 24 + x.tid * 2 ^ 33 + x.col * 2 ^ 45 + x.mill * 2 ^ 51 + b2n x.spec * 2 ^ 56 +
     b2n x.redone * 2 ^ 57 + b2n x.failed * 2 ^ 58 + b2n x.backward * 2 ^ 59),
   w64 (statusCode x.status + x.passes % 256 * 2 ^ 8 + x.rows % pow32 * 2 ^ 16),
   w64 (src 0 + src 1 * 2 ^ 16 + src 2 * 2 ^ 32 + src 3 * 2 ^ 48),
   w64 (src 4 + src 5 * 2 ^ 16 + times.getD 0 0 % pow32 * pow32)] ++
    (List.range 10).map (fun i => w64 (times.getD (i + 1) 0 % pow48)) ++
    [w64 (times.getD 11 0 % pow32 + seq * pow32)]

/-- Writes of the Pedlar path that wait, in 64 outbound entries (R466). -/
def pedlarWaiting (s : State) : Nat :=
  s.cdp.foldl (fun n p => n + (p.2.outQ.filter (fun r => r.kind == .pedWr || r.kind == .pedAns)).length) 0

/-- SAMPLE_RECORD_WRITE (R606): the record of a tagged bag that has left or failed; dropped and counted where the Pedlar
outbound queue is full. -/
def execSampleRecordWrite (idx : Nat) (times : List Nat) (s : State) : Host.Outcome State Fault Refusal :=
  match s.ctr.samples[idx]? with
  | none => .next s
  | some x =>
    if !x.done then .next s
    else
      let s := { s with ctr := { s.ctr with samples := s.ctr.samples.eraseIdx idx } }
      if 64 ≤ pedlarWaiting s then .next { s with ctr := { s.ctr with dropped := satAdd 15 s.ctr.dropped 1 } }
      else
        let w := s.ctr.sample
        let a := bits w 12 37 * 4096 + s.ctr.sampleSeq % 2 ^ (bits w 6 4 + 5) * 128
        let s := chipWrite .pedWr .small a (wordsToBytes (sampleRecord s.ctr.sampleSeq x times)) s
        .next { s with ctr := { s.ctr with sampleSeq := (s.ctr.sampleSeq + 1) % pow32 } }

end Sys2Proof.Machine
end

