-- ==== Sys2Proof/Machine/Qh.lean ====
section
/-! DEFINITION. The Queue Hall's flows: cells, fullness, completion records, re-arms, the Pedlar path, the SUB window and
the flow registers (chapter "The Queue Hall, Carters and the Pedlar path"). -/

namespace Sys2Proof.Machine

open Sys2Proof

/-! ## Flows and cells -/

/-- A flow nobody has configured (R457). -/
def Flow.unused : Flow :=
  { kind := .unused, limit := 0, reserve := 0, items := [], records := [], badRecords := [], promised := 0,
    lastPopped := [], underrun := false, overrun := false, timeout := false, shut := false, shutForced := false,
    gen := 0, barrier := [] }

/-- Flow `f` below 8,192. -/
def flowOf (s : State) (f : Nat) : Flow := mgetD s.qh.flows f Flow.unused

/-- Change a flow. -/
def flowMod (f : Nat) (g : Flow → Flow) (s : State) : State :=
  { s with qh := { s.qh with flows := mmod s.qh.flows f Flow.unused g } }

/-- The Clerk has configured flow 0 and the stream pool since the last cold or recovery reset (R457): flow 0 has a
LIMIT, which no flow configure takes away (R458). -/
def poolUp (s : State) : Bool := (flowOf s 0).limit != 0

/-- Cells an item of a submission flow takes (R456). -/
def itemCells (k : FlowKind) : Nat := if k = .runSubmit then 2 else 1

/-- Cells held (R456). -/
def Flow.held (f : Flow) : Nat :=
  match f.kind with
  | .runSubmit => 2 * f.items.length
  | .xferSubmit => f.items.length
  | .complete => f.records.length
  | _ => 0

/-- Cells held and promised (R459). -/
def Flow.load (f : Flow) : Nat := f.held + f.promised

/-- Cells of the flow part of the pool (R451). -/
def flowCells : Nat := 720896

/-- Reserves of the stream pool: 8,192 flows of 16 cells (R457). -/
def poolReserve : Nat := 131072

/-- Sum of all reserves (R489). -/
def reservedSum (s : State) : Nat :=
  s.qh.flows.foldl (fun n p => n + p.2.reserve) (if poolUp s then poolReserve else 0)

/-- Cells the flow of a stream holds: what it holds unread, packed in order (R449, R456, R486). -/
def Stream.cells (x : Stream) : Nat :=
  (x.got.length - x.taken + 63) / 64 + ((x.outQ.foldl (fun k q => k + q.bytes.length) 0) + 63) / 64

/-- Cells of a stream-pool flow. -/
def streamCells (s : State) (f : Nat) : Nat :=
  s.qh.runs.foldl (fun n r => r.streams.foldl (fun n x => if x.flow = f then n + x.cells else n) n) 0

/-- RESERVE of a stream-pool flow (R457). -/
def streamReserve : Nat := 16

/-- LIMIT of a stream-pool flow (R457). -/
def streamLimit : Nat := 256

/-- Cells the stream-pool flows draw from the common pool (R457, R459). -/
def streamsDraw (s : State) : Nat :=
  s.qh.runs.foldl (fun n r => r.streams.foldl (fun n x => n + (x.cells - streamReserve)) n) 0

/-- Cells drawn from the common pool (R459). -/
def commonUsed (s : State) : Nat := s.qh.flows.foldl (fun n p => n + (p.2.load - p.2.reserve)) (streamsDraw s)

/-- Free cells of the common pool (R489); 0 until the pool is configured. -/
def commonFree (s : State) : Nat := if poolUp s then flowCells - reservedSum s - commonUsed s else 0

/-- A flow is full (R459). -/
def flowFull (s : State) (f : Flow) : Bool :=
  f.kind != .unused && (decide (f.limit ≤ f.load) || (decide (f.reserve ≤ f.load) && commonFree s == 0))

/-- The flow of a stream is full (R457, R459). -/
def streamFull (s : State) (x : Stream) : Bool :=
  decide (streamLimit ≤ x.cells) || (decide (streamReserve ≤ x.cells) && commonFree s == 0)

/-- A flow can take `n` more cells without going beyond full: within LIMIT, and what its reserve does not give from the
common pool (R459, R462). -/
def flowTakes (s : State) (f : Flow) (n : Nat) : Bool :=
  decide (f.load + n ≤ f.limit) && decide ((f.load + n - f.reserve) - (f.load - f.reserve) ≤ commonFree s)

/-- A completion flow of kind COMPLETE with a cell that can be reserved (R119, R120). -/
def recordRoom (s : State) (f : Nat) : Bool := flowTakes s (flowOf s f) 1

/-- A flow is of kind COMPLETE. -/
def isComplete (s : State) (f : Nat) : Bool := (flowOf s f).kind == .complete

/-- Admission promises one cell (R119). -/
def promise (f : Nat) (s : State) : State := flowMod f (fun g => { g with promised := g.promised + 1 }) s

/-- A record takes its cell; a promised one becomes held (R459). -/
def putRecord (f : Nat) (promised : Bool) (ws : List W64) (s : State) : State :=
  flowMod f (fun g => { g with
    promised := if promised then g.promised - 1 else g.promised, records := g.records ++ [ws] }) s

/-- The record of an item that ends at admission: to its COMPLETE flow, or to the Clerk log as 0x0C11 (R669). -/
def recordAtAdmission (sub named tag : Nat) (ws : List W64) (s : State) : State :=
  if isComplete s named then putRecord named false ws s
  else logAdd 0x0C11 (Config.logPack 0x0C11 [sub, named, tag]).1 (Config.logPack 0x0C11 [sub, named, tag]).2 s

/-- An item that ends at admission has a cell for its record, or needs none (R669). -/
def recordReady (s : State) (named : Nat) : Bool := !isComplete s named || recordRoom s named

/-! ## Descriptors -/

/-- Word `i` of an item. -/
def SubItem.word (x : SubItem) (i : Nat) : W64 := x.words.getD i 0

/-- The fields of a Run descriptor (R115). -/
def runDescOf (x : SubItem) : RunDesc :=
  let w := x.word
  { template := bits (w 0) 0 9, flow := bits (w 0) 16 14, tid := bits (w 0) 32 12, spec := bit (w 0) 48,
    keepRows := bit (w 0) 49, armGen := bits (w 0) 56 8, step := bits (w 1) 0 32, tag := bits (w 1) 32 32,
    idxDa := bits (w 2) 0 56, ctx := bits (w 2) 56 6, idxCount := bits (w 3) 0 32, idxW64 := bit (w 3) 32,
    idxSigned := bit (w 3) 33, fixedLen := bit (w 3) 34, bagLenM1 := bits (w 3) 48 16, ofsDa := bits (w 4) 0 56,
    nbags := bits (w 5) 0 25, wgtDa := bits (w 6) 0 56, wgtEn := bit (w 6) 56, wgtBf16 := bit (w 6) 57,
    outDa := bits (w 7) 0 56, outFmt := bits (w 7) 56 2, fuseDa := bits (w 8) 0 56, fuseOp := bits (w 8) 56 2,
    fuseBf16 := bit (w 8) 58, preDa := bits (w 9) 0 56, preEn := bit (w 9) 56, preBf16 := bit (w 9) 57,
    tallyFloor := bits (w 10) 0 8, hintRows := bits (w 10) 8 2, hintStreams := bits (w 10) 10 2,
    gradDa := bits (w 11) 0 56, gradBf16 := bit (w 11) 56, args := [w 12, w 13, w 14] }

/-- The bits of the sixteen words of a Run descriptor that R115 names; the others are reserved. -/
def runMasks : List Nat :=
  [0xFF031FFF3FFF01FF, 0xFFFFFFFFFFFFFFFF, 0x3FFFFFFFFFFFFFFF,
   0xFFFF0007FFFFFFFF, 0x00FFFFFFFFFFFFFF, 0x1FFFFFF, 0x03FFFFFFFFFFFFFF, 0x03FFFFFFFFFFFFFF, 0x07FFFFFFFFFFFFFF,
   0x03FFFFFFFFFFFFFF, 0xFFF, 0x01FFFFFFFFFFFFFF, 0xFFFFFFFFFFFFFFFF, 0xFFFFFFFFFFFFFFFF, 0xFFFFFFFFFFFFFFFF, 0]

/-- The bits of the eight words of a transfer descriptor that R476 names. -/
def xferMasks : List Nat :=
  [0x3FFFFFFFFFFFFFFF, 0x3FFFFFFFFFFFFFFF, 0xFFFFFFFFFFFFFFFF, 0x00FFFFFFFFFFFFFF, 0xFFFFFFFFFFFFFFFF,
   0xFFFFFFFFFFFFFFFF, 0xFFFFFFFFFFFFFFFF, 0x0000FFFFFFFFFFFF]

/-- Every reserved bit of an item is 0. -/
def masksClear (masks : List Nat) (x : SubItem) : Bool :=
  (List.range masks.length).all (fun i => (x.word i).toNat &&& masks.getD i 0 == (x.word i).toNat)

/-- The fields of a transfer descriptor (R476). -/
def xferDescOf (x : SubItem) : XferDesc :=
  let w := x.word
  { srcDa := bits (w 0) 0 56, srcCtx := bits (w 0) 56 6, dstDa := bits (w 1) 0 56, dstCtx := bits (w 1) 56 6,
    elem := bits (w 2) 0 16, n0 := bits (w 2) 16 24, n1 := bits (w 2) 40 24, n2 := bits (w 3) 0 24,
    n3 := bits (w 3) 24 24, armGen := bits (w 3) 48 8, srcS1 := sext 32 (bits (w 4) 0 32),
    srcS2 := sext 32 (bits (w 4) 32 32), srcS3 := sext 32 (bits (w 5) 0 32), dstS1 := sext 32 (bits (w 5) 32 32),
    dstS2 := sext 32 (bits (w 6) 0 32), dstS3 := sext 32 (bits (w 6) 32 32), flow := bits (w 7) 0 14,
    hint := bits (w 7) 14 2, tag := bits (w 7) 16 32 }

/-- ARM_GEN of an item. -/
def itemGen (k : FlowKind) (x : SubItem) : Nat :=
  if k = .runSubmit then bits (x.word 0) 56 8 else bits (x.word 3) 48 8

/-! ## Completion records -/

/-- What a Run's record says besides its descriptor's fields (R148). -/
structure RunEnd where
  status : Status
  kept : Bool
  redone : Bool
  part : Bool
  defaulted : Nat
  replays : Nat
  failBag : Nat
  failCount : Nat
  duration : Nat
  deriving DecidableEq, Repr

/-- The words of a Run's completion record (R148). -/
def runRecord (d : RunDesc) (e : RunEnd) : List W64 :=
  [w64 (d.tag + d.template * 2 ^ 32 + statusCode e.status * 2 ^ 48 +
      (b2n d.spec + b2n e.kept * 2 + b2n e.redone * 4 + b2n e.part * 8) * 2 ^ 56),
   pair32 (min e.defaulted (pow32 - 1)) (min e.replays (pow32 - 1)), pair32 e.failBag e.failCount,
   w64 (e.duration % 2 ^ 48 + d.armGen * 2 ^ 48)]

/-- The record of a Run that ends at admission (R150). -/
def runRecordAtAdmission (d : RunDesc) (st : Status) (duration : Nat) : List W64 :=
  runRecord d { status := st, kept := false, redone := false, part := false, defaulted := 0, replays := 0,
                failBag := 0, failCount := d.nbags, duration := duration }

/-- The words of a transfer's completion record (R480). -/
def xferRecord (d : XferDesc) (carter : Nat) (st : Status) (replaced : Bool) (done duration : Nat) : List W64 :=
  [w64 (d.tag + carter * 2 ^ 32 + statusCode st * 2 ^ 48 + b2n replaced * 2 ^ 56), w64 (done % 2 ^ 48), 0,
   w64 (duration % 2 ^ 48 + d.armGen * 2 ^ 48 + 2 ^ 56)]

/-! ## Submission -/

/-- Ordinals of a flow's items that have begun and not finished. -/
def begunOf (s : State) (f : Nat) : List Nat :=
  (s.qh.runs.filter (·.subFlow == f)).map Run.ord ++ (s.qh.xfers.filter (·.subFlow == f)).map Xfer.ord

/-- An item enters a submission flow: a re-arming item replaces those that have not begun and carry another generation
(R483), and the items that have begun hold the new generation back (R484); GEN follows (R485). -/
def enterItem (f : Nat) (ws : List W64) (s : State) : State :=
  let begun := begunOf s f
  flowMod f (fun g =>
    let x : SubItem := { words := ws, replaced := false, ended := false, bad := false }
    let n := itemGen g.kind x
    let items := if n = g.gen then g.items
      else g.items.map (fun y => if itemGen g.kind y = n then y else { y with replaced := true })
    { g with items := items ++ [x], gen := n, barrier := if n = g.gen then g.barrier else begun }) s

/-- A list of words in items of `n` words. -/
def itemsOf : Nat → Nat → List W64 → List (List W64)
  | 0, _, _ => []
  | k + 1, n, ws => (List.range n).map (fun i => ws.getD i 0) :: itemsOf k n (ws.drop n)

/-- A flow's bit sets and its event fires on the first occurrence after the bit was last clear (R463). -/
def flowOverrun (f : Nat) (s : State) : State :=
  let was := (flowOf s f).overrun
  let s := flowMod f (fun g => { g with overrun := true }) s
  if was then s else raise evFlowOverrun s

/-- The same for an underrun. -/
def flowUnderrun (f : Nat) (s : State) : State :=
  let was := (flowOf s f).underrun
  let s := flowMod f (fun g => { g with underrun := true }) s
  if was then s else raise evFlowUnderrun s

/-! ## The Pedlar path -/

/-- Fields of a Pedlar request header (R467). -/
def pedOp (h : W64) : Nat := bits h 0 3
def pedFlow (h : W64) : Nat := bits h 4 14
def pedCells (h : W64) : Nat := bits h 18 3
def pedTag (h : W64) : Nat := bits h 24 8

/-- Reserved bits of a request header are 0 (R467). -/
def pedReserved (h : W64) : Bool := !bit h 3 && bits h 21 3 == 0 && bits h 32 32 == 0

/-- CELLS lies within R467 for its OP. -/
def pedCellsOk (h : W64) : Bool :=
  match pedOp h with
  | 0 | 1 => decide (1 ≤ pedCells h) && decide (pedCells h ≤ 4)
  | 2 => pedCells h == 0
  | _ => false

/-- Kind of any flow: those above 8,191 are the stream pool (R457). -/
def kindOf (s : State) (f : Nat) : FlowKind :=
  if 8192 ≤ f then (if poolUp s then .stream else .unused) else (flowOf s f).kind

/-- Cells held by any flow. -/
def cellsOf (s : State) (f : Nat) : Nat := if 8192 ≤ f then streamCells s f else (flowOf s f).held

/-- Any flow is full (R459). -/
def fullOf (s : State) (f : Nat) : Bool :=
  if 8192 ≤ f then poolUp s && (decide (streamLimit ≤ streamCells s f) ||
    (decide (streamReserve ≤ streamCells s f) && commonFree s == 0)) else flowFull s (flowOf s f)

/-- A Pedlar answer's header (R468). -/
def pedAnswer (s : State) (h : W64) (st : Status) (popped : Nat) (under excess : Bool) : W64 :=
  let f := pedFlow h
  w64 (pedTag h + statusCode st * 2 ^ 8 + popped * 2 ^ 16 + b2n (cellsOf s f == 0) * 2 ^ 20 +
    b2n (fullOf s f) * 2 ^ 21 + b2n under * 2 ^ 22 + b2n excess * 2 ^ 23 + cellsOf s f * 2 ^ 24)

/-- The answer leaves on the port of its request (R622), whose inbound entry it takes until then (R473). -/
def sendAnswer (port ctag : Nat) (hdr : W64) (cells : List W64) (s : State) : State :=
  let bs := wordsToBytes (hdr :: cells)
  let c := cdpPort s port
  let s := { s with cdp := mset s.cdp port { c with pedCredit := c.pedCredit - 1 } }
  enqueueOn port { kind := .pedAns, tag := ctag % 2048, addr := 0, len := bs.length, data := bs, owner := .small } s

/-- The K40 takes a Pedlar request only on a port that is up with a credit granted (R473, R619, R620). -/
def pedTaken (s : State) (port : Nat) : Bool :=
  decide (port < 8) && (cdpPort s port).kRdy && (cdpPort s port).sRdy && decide (1 ≤ (cdpPort s port).pedCredit)

/-- The command of a request: the OP of its header, or any where the OP is rejected (R467). -/
def pedIs (h : W64) (op : Nat) : Bool := pedOp h == op || decide (3 ≤ pedOp h)

/-- A refused request: answered and nothing changed. -/
def pedRefuse (port ctag : Nat) (h : W64) (st : Status) (s : State) : State :=
  sendAnswer port ctag (pedAnswer s h st 0 false false) [] s

/-- PUSH suits the flow's kind (R469). -/
def pushSuits (k : FlowKind) (cells : Nat) : Bool :=
  match k with
  | .runSubmit => cells == 2 || cells == 4
  | .xferSubmit => true
  | _ => false

/-- PUSH (R462, R469, R470, R482 to R485, R536). -/
def pedPush (port ctag : Nat) (h : W64) (data : List W64) (s : State) : State :=
  let f := pedFlow h
  let n := pedCells h
  if pedOp h ≠ 0 ∨ !pedReserved h ∨ !pedCellsOk h then pedRefuse port ctag h .badDescriptor s
  else if s.gbl.state = .held ∨ s.gbl.state = .selftest then pedRefuse port ctag h .shuttered s
  else if !pushSuits (kindOf s f) n then pedRefuse port ctag h .badDescriptor s
  else if (flowOf s f).shut then pedRefuse port ctag h .shuttered s
  else if !flowTakes s (flowOf s f) n then
    let s := flowOverrun f s
    sendAnswer port ctag (pedAnswer s h .ok 0 false true) [] s
  else
    let k := if kindOf s f = .runSubmit then 2 else 1
    let s := (itemsOf (n / k) (8 * k) data).foldl (fun t ws => enterItem f ws t) s
    sendAnswer port ctag (pedAnswer s h .ok 0 false false) [] s

/-- PEDLAR_PUSH. -/
def execPedlarPush (port ctag : Nat) (hdr : W64) (data : List W64) (s : State) : Host.Outcome State Fault Refusal :=
  .next (if pedTaken s port && pedIs hdr 0 then pedPush port ctag hdr data (countEv islQh 0x502 1 s) else s)

/-- The cell that shows a record: its 32 B low, its high 32 B zero (R456). -/
def recordCell (ws : List W64) : List W64 := (List.range 4).map (fun i => ws.getD i 0) ++ [0, 0, 0, 0]

/-- The cells a POP of `n` takes: an uncorrectable one reads as zeros (R453). -/
def popCells (g : Flow) (n : Nat) : List (List W64) :=
  (List.range (min n g.records.length)).map (fun i =>
    if i ∈ g.badRecords then List.replicate 8 0 else recordCell (g.records.getD i []))

/-- `n` words of cells are corrected: CORRECTED, and ECC_CORRECTED_RATE at the 65,536th of a window (R452). -/
def correctedCells (n : Nat) (s : State) : State :=
  let was := s.qh.eccWindow
  let s := { s with qh := { s.qh with eccCorrected := satAdd 32 s.qh.eccCorrected n, eccWindow := was + n } }
  if was < 65536 ∧ 65536 ≤ was + n then raise evEccCorrectedRate s else s

/-- POP (R452, R453, R461, R471): `words`, the words that its reads of cells correct. -/
def pedPop (port ctag : Nat) (h : W64) (words : Nat) (s : State) : State :=
  let f := pedFlow h
  let n := pedCells h
  if pedOp h ≠ 1 ∨ !pedReserved h ∨ !pedCellsOk h ∨ kindOf s f ≠ .complete then
    pedRefuse port ctag h .badDescriptor s
  else
    let g := flowOf s f
    if g.records.isEmpty then
      let s := flowUnderrun f s
      sendAnswer port ctag (pedAnswer s h .ok 0 true false)
        ((List.range 8).map (fun i => g.lastPopped.getD i 0)) s
    else
      let k := min n g.records.length
      let cells := popCells g n
      let bad := g.badRecords.any (fun i => decide (i < k))
      let s := flowMod f (fun g => { g with
        records := g.records.drop k,
        badRecords := (g.badRecords.filter (fun i => decide (k ≤ i))).map (fun i => i - k),
        lastPopped := cells.getD (k - 1) [] }) s
      correctedCells words
        (sendAnswer port ctag (pedAnswer s h (if bad then .uncorrectable else .ok) k false false) cells.flatten s)

/-- PEDLAR_POP. -/
def execPedlarPop (port ctag : Nat) (req : PopReq) (s : State) : Host.Outcome State Fault Refusal :=
  .next (if pedTaken s port && pedIs req.hdr 1 then pedPop port ctag req.hdr req.words (countEv islQh 0x502 1 s) else s)

/-- PROBE (R468, R469): served for a flow of any kind. -/
def pedProbe (port ctag : Nat) (h : W64) (s : State) : State :=
  if pedOp h ≠ 2 ∨ !pedReserved h ∨ !pedCellsOk h then pedRefuse port ctag h .badDescriptor s
  else sendAnswer port ctag (pedAnswer s h .ok 0 false false) [] s

/-- PEDLAR_PROBE. -/
def execPedlarProbe (port ctag : Nat) (hdr : W64) (s : State) : Host.Outcome State Fault Refusal :=
  .next (if pedTaken s port && pedIs hdr 2 then pedProbe port ctag hdr (countEv islQh 0x502 1 s) else s)

/-! ## The SUB window -/

/-- A word of the SUB window is written (R117). -/
def writeSubWord (i : Nat) (val : W64) (s : State) : State := { s with qh := { s.qh with sub := mset s.qh.sub i val } }

/-- Flow 0 takes a submission from the SUB window (R648); one whose Shutter has begun takes none (assumption log 16). -/
def subTaken (s : State) : Bool :=
  isLive s && (flowOf s 0).kind == .runSubmit && !(flowOf s 0).shut && flowTakes s (flowOf s 0) 2

/-- The word at offset 0x078 is written: the descriptor enters flow 0, or is ignored with OVERRUN (R117, R485, R648). -/
def subSubmit (val : W64) (s : State) : State :=
  let s := writeSubWord 15 val s
  if subTaken s then enterItem 0 ((List.range 16).map (fun i => mgetD s.qh.sub i 0)) s else flowOverrun 0 s

/-- SUB_SUBMIT. -/
def execSubSubmit (val : W64) (s : State) : Host.Outcome State Fault Refusal := kcpWrite s (subSubmit val)

/-! ## Timeouts, errors, registers -/

/-- STREAM_TAIL_TIMEOUT (R464): a stream flow that has held cells unread hands them to its consumer as a short unit. -/
def execStreamTailTimeout (flow : Nat) (s : State) : Host.Outcome State Fault Refusal :=
  let hand := fun (x : Stream) => if x.flow = flow then
      { x with handed := if x.write then x.outQ.length else x.got.length } else x
  .next (if flow < 8192 then s
    else { s with qh := { s.qh with runs := s.qh.runs.map (fun r => { r with streams := r.streams.map hand }) } })

/-- A flow that driver software or the surroundings read (R465). -/
def timed (k : FlowKind) : Bool := k == .complete || k == .runSubmit || k == .xferSubmit

/-- FLOW_TIMEOUT (R465, R463). -/
def execFlowTimeout (flow : Nat) (s : State) : Host.Outcome State Fault Refusal :=
  let g := flowOf s flow
  .next (if timed g.kind ∧ g.held ≠ 0 then
      let s := flowMod flow (fun g => { g with timeout := true }) s
      if g.timeout then s else raise evFlowTimeout s
    else s)

/-- A write of QH_SPLIT: taken only in READY, with three counts that are not 0 and sum to 16; a write of the present
counts is never refused and acts on REFUSED alone (R350, R666). -/
def writeQhSplit (val : W64) (s : State) : State :=
  let r := bits val 0 4
  let w := bits val 4 4
  let m := bits val 8 4
  let keep := s.qh.splitRefused && !bit val 63
  if r = s.qh.splitRead ∧ w = s.qh.splitWrite ∧ m = s.qh.splitRemote then
    { s with qh := { s.qh with splitRefused := keep } }
  else if s.gbl.state ≠ .ready ∨ r = 0 ∨ w = 0 ∨ m = 0 ∨ r + w + m ≠ 16 then
    { s with qh := { s.qh with splitRefused := true } }
  else { s with qh := { s.qh with splitRead := r, splitWrite := w, splitRemote := m, splitRefused := keep } }

/-- QH_SPLIT_WRITE. -/
def execQhSplitWrite (val : W64) (s : State) : Host.Outcome State Fault Refusal := kcpWrite s (writeQhSplit val)

/-- A write of QH_TIMEOUT: refused with either field below 4 or above 31 (R493, R666). -/
def writeQhTimeout (val : W64) (s : State) : State :=
  let a := bits val 0 5
  let b := bits val 8 5
  if a < 4 ∨ b < 4 then { s with qh := { s.qh with timeoutRefused := true } }
  else { s with qh := { s.qh with streamK := a, extK := b, timeoutRefused := s.qh.timeoutRefused && !bit val 63 } }

/-- QH_TIMEOUT_WRITE. -/
def execQhTimeoutWrite (val : W64) (s : State) : Host.Outcome State Fault Refusal := kcpWrite s (writeQhTimeout val)

/-- A write of QH_FLOW_STATE: UNDERRUN, OVERRUN and TIMEOUT of the selected flow are cleared by 1 (R463, R491). -/
def writeFlowState (val : W64) (s : State) : State :=
  if 8192 ≤ s.qh.flowSel then s
  else flowMod s.qh.flowSel (fun g => { g with
    underrun := g.underrun && !bit val 5, overrun := g.overrun && !bit val 6, timeout := g.timeout && !bit val 7 }) s

/-! ## FLOW_CONFIG -/

/-- Kind of a code (R456). -/
def kindCode : Nat → Option FlowKind
  | 0 => some .unused
  | 1 => some .runSubmit
  | 2 => some .xferSubmit
  | 3 => some .complete
  | _ => none

/-- An admitted Run or transfer names a flow as its completion flow. -/
def flowNamed (s : State) (f : Nat) : Bool :=
  s.qh.runs.any (fun r => r.desc.flow == f) || s.qh.xfers.any (fun x => x.desc.flow == f)

/-- The refusals of R458. -/
def flowConfigOk (s : State) (f limit reserve : Nat) : Bool :=
  decide (f < 8192) && decide (reserve ≤ limit) && limit != 0 && decide (limit ≤ flowCells) &&
    decide (reservedSum s - (flowOf s f).reserve + reserve ≤ flowCells) && (flowOf s f).held == 0 && !flowNamed s f

/-- FLOW_CONFIG (R456 to R458, OP 0x0703): W1 FLOW [13:0], KIND [18:16]; W2 LIMIT [20:0], RESERVE [44:24]. -/
def execFlowConfig (slot : Nat) (s : State) : Host.Outcome State Fault Refusal :=
  cmdStep 0x0703 slot s fun m s =>
    let f := bits (arg m 1) 0 14
    let limit := bits (arg m 2) 0 21
    let reserve := bits (arg m 2) 24 21
    match kindCode (bits (arg m 1) 16 3) with
    | none => postFinal slot m .badDescriptor [] s
    | some k =>
      if flowConfigOk s f limit reserve then
        postFinal slot m .ok [] (flowMod f (fun g => { g with kind := k, limit := limit, reserve := reserve }) s)
      else postFinal slot m .badDescriptor [] s

end Sys2Proof.Machine
end

