-- ==== Sys2Proof/Machine/Admission.lean ====
section
/-! DEFINITION. Admission of Runs and transfers: the checks of R118 and R478, the holds, parking on a fault, binding, and
the items that end at admission (chapters "Runs and the gather path" and "The Queue Hall"). -/

namespace Sys2Proof.Machine

open Sys2Proof

/-! ## Ranges of a Run -/

/-- Size of an output token (R184). -/
def tokenSize (fmt dim : Nat) (two : Bool) : Nat :=
  let one := if fmt = 0 then 4 * dim else if fmt = 1 then 2 * dim else dim + 16
  if two then 2 * one else one

/-- A range of R116: kind, DA, length, element size, whether it is written. -/
structure RangeReq where
  kind : RangeKind
  da : Nat
  len : Nat
  elem : Nat
  write : Bool
  deriving DecidableEq, Repr

/-- A range of `n` elements. -/
def mkRange (kind : RangeKind) (da n elem : Nat) (write : Bool) : RangeReq :=
  { kind := kind, da := da, len := n * elem, elem := elem, write := write }

/-- The present ranges of a Run (R116). -/
def rangesOf (d : RunDesc) (t : Template) (dim : Nat) : List RangeReq :=
  let vec (half : Bool) : Nat := dim * (if half then 2 else 4)
  [mkRange .index d.idxDa d.idxCount (if d.idxW64 then 8 else 4) false] ++
    (if d.fixedLen then [] else [mkRange .offsets d.ofsDa (d.nbags + 1) 4 false]) ++
    (if d.wgtEn then [mkRange .weight d.wgtDa d.idxCount (if d.wgtBf16 then 2 else 4) false] else []) ++
    (if t.backward then (if t.wgrad then [mkRange .output d.outDa d.idxCount 4 true] else [])
      else [mkRange .output d.outDa d.nbags (tokenSize d.outFmt dim (t.red == .meanvar)) true]) ++
    (if d.fuseOp = 0 then [] else [mkRange .operand d.fuseDa d.nbags (vec d.fuseBf16) false]) ++
    (if d.preEn then [mkRange .preload d.preDa d.nbags (vec d.preBf16) false] else []) ++
    (if t.backward then [mkRange .gradient d.gradDa d.nbags (vec d.gradBf16) false] else [])

/-! ## Check 2 -/

/-- R10, R19, R22: the step rules for a descriptor. -/
def stepRules (s : State) (backward spec : Bool) (step : Nat) : Bool :=
  let far := match s.ldg.openStep with
    | some o => (step + pow32 - o) % pow32 == 2147483648
    | none => false
  !far && !(backward && spec) &&
    (s.ldg.openStep == some step || (backward && s.ldg.sealedStep == some step))

/-- Absent ranges have DA 0 (R116). -/
def absentZero (d : RunDesc) (t : Template) : Bool :=
  (!d.fixedLen || d.ofsDa == 0) && (d.wgtEn || d.wgtDa == 0) && (!(t.backward && !t.wgrad) || d.outDa == 0) &&
    (d.fuseOp != 0 || d.fuseDa == 0) && (d.preEn || d.preDa == 0) && (t.backward || d.gradDa == 0)

/-- The descriptor agrees with its template (R115, R118 check 2). -/
def agrees (d : RunDesc) (t : Template) : Bool :=
  d.wgtEn == t.weighted && (t.ninstr != 0 || d.args.all (· == 0)) &&
    (if t.backward then d.outFmt == 0 && d.fuseOp == 0 && !d.preEn
      else t.outFmts.testBit d.outFmt && t.fuseOps.testBit d.fuseOp && (!d.preEn || t.preload))

/-- Fields within the ranges of R115, and the length rule of fixed-length bags. -/
def fieldsOk (d : RunDesc) : Bool :=
  d.idxCount != 0 && d.nbags != 0 && decide (d.nbags ≤ 16777216) && d.outFmt != 3 && d.fuseOp != 3 &&
    (if d.fixedLen then d.idxCount == d.nbags * (d.bagLenM1 + 1) else d.bagLenM1 == 0)

/-- Check 2 of R118. -/
def check2 (s : State) (x : SubItem) (d : RunDesc) (t : Template) : Bool :=
  masksClear runMasks x && fieldsOk d && agrees d t && absentZero d t && isComplete s d.flow &&
    stepRules s t.backward d.spec d.step

/-! ## Checks 4 to 6 -/

/-- Drop repeated leaves. -/
def dedupLeaves : List Leaf → List Leaf
  | [] => []
  | x :: r => if x ∈ r then dedupLeaves r else x :: dedupLeaves r

/-- Every range translated in turn (R422), with the leaves that the ranges before it touch (R420). -/
def translateAll (s : State) (v : ChipView) (ctx : Nat) : List Leaf → List RangeReq → List (Except XlatFail Xlat)
  | _, [] => []
  | pre, r :: rs =>
    let x := translateAfter pre s v ctx r.da r.len r.write
    x :: translateAll s v ctx (match x with
      | .ok y => dedupLeaves (pre ++ leavesOf y)
      | .error _ => pre) rs

/-- A failure of these translations, if one failed: in segment mode check 4 goes over every range before check 5 (R118);
in page-table mode the ranges are walked in turn and the first leaf that fails decides (R421). -/
def firstFail (ptMode : Bool) (xs : List (Except XlatFail Xlat)) : Option XlatFail :=
  let fails := xs.filterMap (fun x => match x with
    | .error e => some e
    | .ok _ => none)
  if ptMode then fails.head?
  else match fails.find? (fun e => match e with
    | .segment _ _ => true
    | _ => false) with
  | some e => some e
  | none => fails.head?

/-- What a translation gave. -/
def okOf (xs : List (Except XlatFail Xlat)) : List Xlat :=
  xs.filterMap (fun x => match x with
    | .ok y => some y
    | .error _ => none)

/-- Distinct leaves of several translations. -/
def leavesAll (xs : List Xlat) : List Leaf := dedupLeaves (xs.flatMap leavesOf)

/-- Leaves pinned by admitted work (R420). -/
def pinnedLeaves (s : State) : List Leaf :=
  leavesAll (s.qh.runs.flatMap (fun r => r.streams.map Stream.xlat) ++ s.qh.xfers.flatMap (fun x => [x.src, x.dst]))

/-- The walker cache can pin these leaves beside those pinned already (R420). -/
def canPin (s : State) (ls : List Leaf) : Bool := decide ((dedupLeaves (ls ++ pinnedLeaves s)).length ≤ 4096)

/-- The cache takes walked leaves; unpinned ones give way beyond 4,096 (R420). -/
def cacheLeaves (ls : List Leaf) (s : State) : State :=
  let all := dedupLeaves (s.xlt.cache ++ ls)
  let pins := pinnedLeaves s ++ ls
  let excess := all.length - 4096
  let loose := (all.filter (fun l => !decide (l ∈ pins))).take excess
  { s with xlt := { s.xlt with cache := all.filter (fun l => !decide (l ∈ loose)) } }

/-- The fault record's key: the segment number, or the DA bits at or above the page of the walk's level (R431). -/
def faultKey (level da : Nat) : Nat := da >>> (12 + 9 * level)

/-- What admission finds of an item. -/
inductive Verdict where
  | ends (st : Status)
  | faults (f : FaultReq)
  | passes (xs : List Xlat)
  deriving DecidableEq, Repr

/-- Checks 4 to 6 over ranges in one context; `pre`, leaves that the item has touched before. -/
def rangeVerdict (s : State) (v : ChipView) (flow ctx tag : Nat) (pre : List Leaf) (rs : List RangeReq) : Verdict :=
  let c := ctxOf s ctx
  let xs := translateAll s v ctx pre rs
  match firstFail c.ptMode xs with
  | some (.fault kind level da) =>
    .faults { src := .admission flow, ctx := ctx, ptMode := c.ptMode, kind := kind, key := faultKey level da,
              seg := 0, level := level, da := da,
              write := rs.any (fun r => r.write && decide (r.da ≤ da) && decide (da < r.da + r.len)),
              carter := 63, tag := tag }
  | some e => .ends (failStatus e)
  | none => .passes (okOf xs)

/-! ## Items that end at admission -/

/-- A flow's admission leaves the pending table; an entry whose count reaches 0 is freed (R442). -/
def leaveAdmission (flow : Nat) (s : State) : State :=
  let other := fun (x : FaultSource) => x != .admission flow
  let pend := (s.flt.pend.map (fun p => (p.1, { p.2 with srcs := p.2.srcs.filter other }))).filter
    (fun p => !p.2.srcs.isEmpty)
  { s with flt := { s.flt with
    pend := pend, recQ := s.flt.recQ.filter (fun n => (mget pend n).isSome),
    raised := s.flt.raised.filter (fun f => other f.src) } }

/-- The head of a submission flow leaves it. -/
def dropHead (flow : Nat) (s : State) : State :=
  let s := leaveAdmission flow s
  let s := flowMod flow (fun g => { g with items := g.items.drop 1 }) s
  { s with qh := { s.qh with parked := mdel s.qh.parked flow } }

/-- A Run ends at admission: its record takes a cell, or admission holds the flow (R150, R669). -/
def endRunItem (flow dur : Nat) (d : RunDesc) (st : Status) (s : State) : State :=
  if recordReady s d.flow then
    recordAtAdmission flow d.flow d.tag (runRecordAtAdmission d st dur) (dropHead flow s)
  else s

/-- A transfer ends at admission (R481, R483). -/
def endXferItem (flow dur : Nat) (d : XferDesc) (st : Status) (replaced : Bool) (s : State) : State :=
  if recordReady s d.flow then
    recordAtAdmission flow d.flow d.tag (xferRecord d 63 st replaced 0 dur) (dropHead flow s)
  else s

/-- Admission parks the head of the flow with a fault (R423). -/
def park (flow : Nat) (f : FaultReq) (s : State) : State :=
  { s with
    qh := { s.qh with parked := mset s.qh.parked flow none }
    flt := { s.flt with raised := s.flt.raised ++ [f] } }

/-! ## Re-arms, ordinals, stream flows -/

/-- A bag has left or failed. -/
def BagInfo.isOver (b : BagInfo) : Bool :=
  match b.state with
  | .left => true
  | .failed _ => true
  | _ => false

/-- A Run has finished its data movement: it was ended, or every bag is over and every output write accepted (R484). -/
def Run.moved (r : Run) : Bool :=
  r.ended.isSome ||
    ((r.bags.filter (fun p => p.2.isOver)).length == r.desc.nbags && r.bags.all (fun p => p.2.writes == 0))

/-- Elements of a transfer. -/
def XferDesc.count (d : XferDesc) : Nat := d.n0 * d.n1 * d.n2 * d.n3

/-- A transfer has finished its data movement. -/
def Xfer.moved (x : Xfer) : Bool := x.ended.isSome || x.done == x.desc.count

/-- R484: items that had begun at the flow's last re-arm still move data. -/
def armWaits (s : State) (flow : Nat) : Bool :=
  let b := (flowOf s flow).barrier
  s.qh.runs.any (fun r => r.subFlow == flow && decide (r.ord ∈ b) && !r.moved) ||
    s.qh.xfers.any (fun x => x.subFlow == flow && decide (x.ord ∈ b) && !x.moved)

/-- Ordinals of admitted work. -/
def ordsOf (s : State) : List Nat := s.qh.runs.map Run.ord ++ s.qh.xfers.map Xfer.ord

/-- A free admission ordinal. -/
def freeOrd (s : State) : Nat := firstFree (ordsOf s) 4096 0

/-- Stream-pool flows in use. -/
def poolFlows (s : State) : List Nat := s.qh.runs.flatMap (fun r => r.streams.map Stream.flow)

/-- `n` free stream-pool flows, lowest first. -/
def freePool : Nat → List Nat → List Nat
  | 0, _ => []
  | n + 1, used => let f := firstFree used 8192 8192; f :: freePool n (f :: used)

/-- The stream pool has a flow for each range (R486). -/
def poolRoom (s : State) (n : Nat) : Bool := poolUp s && decide ((poolFlows s).length + n ≤ 8192)

/-- Admitted and unfinished work is below 4,096 (R120, R479). -/
def admitRoom (s : State) : Bool := decide ((ordsOf s).length < 4096)

/-! ## Binding a Run -/

/-- Streams of a Run from its ranges, translations and flows. -/
def mkStreams : List RangeReq → List Xlat → List Nat → List Stream
  | r :: rs, x :: xs, f :: fs =>
    { kind := r.kind, da := r.da, len := r.len, elem := r.elem, write := r.write, xlat := x, flow := f, cursor := 0,
      got := [], taken := 0, badElems := [], outQ := [], handed := 0, carter := 63, stale := false, stalled := false,
      replay := false } :: mkStreams rs xs fs
  | _, _, _ => []

/-- An admitted Run (R119). -/
def bindRun (s : State) (flow : Nat) (d : RunDesc) (t : Template) (tab : Table) (slot : Nat) (rs : List RangeReq)
    (xs : List Xlat) : Run :=
  { ord := freeOrd s, desc := d, tmpl := t, dim := tab.dim, slot := slot,
    epoch := ((mapOf s tab).map HomeMap.epoch).getD 0, subFlow := flow, backward := t.backward,
    streams := mkStreams rs xs (freePool rs.length (poolFlows s)), nextGroup := 0, groups := [], bags := [],
    kept := false, lateDropped := false, lateDeferred := false, flushCols := [], partialsOut := 0, ended := none }

/-- The Run is admitted: template, slot, epoch and ranges bound, a reference taken, a cell promised, in one step (R61, R62,
R76, R119). -/
def admitRun (flow : Nat) (r : Run) (xs : List Xlat) (s : State) : State :=
  let s := cacheLeaves (leavesAll xs) (dropHead flow s)
  let s := addRef r.desc.tid r.slot (promise r.desc.flow s)
  let s := flowMod flow (fun g => { g with barrier := [] }) s
  settle (countEv islQh 0x500 1 { s with qh := { s.qh with runs := s.qh.runs ++ [r] } })

/-- The template's mask names a column in state ENABLED (R157). -/
def someColumn (s : State) (t : Template) : Bool :=
  (List.range 40).any (fun c => t.colMask.testBit c && (colOf s c).state == .enabled)

/-- R23: forward Runs of step s + 1 without SPEC and backward Runs of s + 1 wait for COMMIT_DONE of the sealed step s. -/
def commitHolds (s : State) (backward spec : Bool) (step : Nat) : Bool :=
  match s.ldg.sealedStep with
  | some q => step == (q + 1) % pow32 && (backward || !spec)
  | none => false

/-- The checks of R118 on a Run, with the Shutters of R577 and the column rule of R157 after the checks they
follow, and the unusable map slot of R331. -/
def runVerdict (s : State) (v : ChipView) (flow : Nat) (x : SubItem) (d : RunDesc) : Verdict :=
  match mget s.templates d.template with
  | none => .ends .badTemplate
  | some t =>
    if !check2 s x d t then .ends .badDescriptor
    else if (flowOf s d.flow).shut then .ends .shuttered
    else match liveTable s d.tid with
      | none => .ends .tableAbsent
      | some tab =>
        match activeSlot tab with
        | none => .ends .tableAbsent
        | some _ =>
          if tab.shut.isSome then .ends .shuttered
          else if ((mapOf s tab).map HomeMap.unusable).getD false then .ends .tableAbsent
          else match rangeVerdict s v flow d.ctx d.tag [] (rangesOf d t tab.dim) with
            | .passes xs => if someColumn s t then .passes xs else .ends .shuttered
            | y => y

/-- Nothing holds a Run that passed: R23, R120, R420, R486, R559. -/
def runFree (s : State) (d : RunDesc) (t : Template) (n : Nat) (xs : List Xlat) : Bool :=
  !commitHolds s t.backward d.spec d.step && s.pwr.current != 2 && admitRoom s && recordRoom s d.flow &&
    poolRoom s n && canPin s (leavesAll xs)

/-- A Run that passed the checks is admitted, unless something holds it. -/
def admitPassed (flow : Nat) (d : RunDesc) (xs : List Xlat) (s : State) : State :=
  match mget s.templates d.template, liveTable s d.tid with
  | some t, some tab =>
    let rs := rangesOf d t tab.dim
    if runFree s d t rs.length xs then admitRun flow (bindRun s flow d t tab tab.active rs xs) xs s else s
  | _, _ => s

/-- The head Run of a flow meets admission. -/
def admitHead (flow dur : Nat) (v : ChipView) (x : SubItem) (s : State) : State :=
  let d := runDescOf x
  match mget s.qh.parked flow with
  | some none => s
  | some (some st) => endRunItem flow dur d st s
  | none =>
    if armWaits s flow ∨ (s.clerk.waiting.map Prod.fst) = some d.template then s
    else if x.bad then endRunItem flow dur d .uncorrectable s
    else match runVerdict s v flow x d with
      | .ends st => endRunItem flow dur d st s
      | .faults f => park flow f (noteWalk v f.ctx (.fault f.kind f.level f.da) s)
      | .passes xs => admitPassed flow d xs s

/-- RUN_ADMIT (R118 to R121): admission looks at the head of a Run submission flow. -/
def execRunAdmit (flow duration : Nat) (v : ChipView) (s : State) : Host.Outcome State Fault Refusal :=
  let g := flowOf s flow
  match g.items with
  | [] => .next s
  | x :: _ =>
    .next (if !admissionOpen s ∨ g.kind ≠ .runSubmit ∨ x.replaced ∨ x.ended then s
      else admitHead flow duration v x s)

/-! ## Transfers -/

/-- Lowest and highest element address of a footprint over the corners of the cursor space (R478). -/
def corners (da : Nat) (elem : Nat) (n0 n1 n2 n3 : Nat) (s1 s2 s3 : Int) : Int × Int :=
  let lo1 (n : Nat) (st : Int) : Int := if st < 0 then (n - 1 : Nat) * st else 0
  let hi1 (n : Nat) (st : Int) : Int := if st < 0 then 0 else (n - 1 : Nat) * st
  ((da : Int) + lo1 n1 s1 + lo1 n2 s2 + lo1 n3 s3,
   (da : Int) + (n0 - 1 : Nat) * (elem : Int) + hi1 n1 s1 + hi1 n2 s2 + hi1 n3 s3)

/-- Source footprint: first byte and length. -/
def srcFoot (d : XferDesc) : Int × Nat :=
  let c := corners d.srcDa d.elem d.n0 d.n1 d.n2 d.n3 d.srcS1 d.srcS2 d.srcS3
  (c.1, (c.2 - c.1).toNat + d.elem)

/-- Destination footprint. -/
def dstFoot (d : XferDesc) : Int × Nat :=
  let c := corners d.dstDa d.elem d.n0 d.n1 d.n2 d.n3 d.dstS1 d.dstS2 d.dstS3
  (c.1, (c.2 - c.1).toNat + d.elem)

/-- Check 2 on a transfer (R478). -/
def xferCheck2 (s : State) (x : SubItem) (d : XferDesc) : Bool :=
  masksClear xferMasks x && decide (4 ≤ d.elem) && decide (d.elem ≤ 32768) && d.elem % 4 == 0 && d.n0 != 0 &&
    d.n1 != 0 && d.n2 != 0 && d.n3 != 0 && d.srcDa % 4 == 0 && d.dstDa % 4 == 0 &&
    [d.srcS1, d.srcS2, d.srcS3, d.dstS1, d.dstS2, d.dstS3].all (fun z => z % 4 == 0) &&
    decide (d.count < pow48) && isComplete s d.flow

/-- Checks 4 to 6 on one footprint; one that starts below DA 0 lies in no translation. -/
def footVerdict (s : State) (v : ChipView) (flow ctx : Nat) (pre : List Leaf) (f : Int × Nat) (write : Bool) : Verdict :=
  if f.1 < 0 then .ends .segViolation
  else rangeVerdict s v flow ctx 0xFFFFFFFF pre
    [{ kind := .output, da := f.1.toNat, len := f.2, elem := 1, write := write }]

/-- Two lists of physical pieces share a byte. -/
def piecesMeet (xs ys : List (Nat × Nat)) : Bool :=
  xs.any (fun a => ys.any (fun b => decide (a.1 < b.1 + b.2) && decide (b.1 < a.1 + a.2)))

/-- The checks of R478 on a transfer, source before destination, then the overlap. -/
def xferVerdict (s : State) (v : ChipView) (flow : Nat) (x : SubItem) (d : XferDesc) : Verdict :=
  if !xferCheck2 s x d then .ends .badDescriptor
  else if (flowOf s d.flow).shut then .ends .shuttered
  else match footVerdict s v flow d.srcCtx [] (srcFoot d) false with
    | .passes xs =>
      match footVerdict s v flow d.dstCtx (leavesAll xs) (dstFoot d) true with
      | .passes ys =>
        let a := xs.flatMap (fun t => rangePieces t (srcFoot d).1.toNat (srcFoot d).2)
        let b := ys.flatMap (fun t => rangePieces t (dstFoot d).1.toNat (dstFoot d).2)
        if piecesMeet a b then .ends .badDescriptor
        else .passes (xs ++ ys)
      | y => y
    | y => y

/-- The transfer is admitted (R119, R479). -/
def admitXfer (flow : Nat) (d : XferDesc) (src dst : Xlat) (s : State) : State :=
  let x : Xfer := { ord := freeOrd s, desc := d, subFlow := flow, src := src, dst := dst, cursor := 0, done := 0,
                    got := [], writes := 0, bad := none, carter := 63, staleSrc := false, staleDst := false, stalled := false,
                    replay := false, ended := none }
  let s := cacheLeaves (leavesAll [src, dst]) (dropHead flow s)
  let s := flowMod flow (fun g => { g with barrier := [] }) (promise d.flow s)
  settle (countEv islQh 0x500 1 { s with qh := { s.qh with xfers := s.qh.xfers ++ [x] } })

/-- The head transfer of a flow meets admission. -/
def admitXferHead (flow dur : Nat) (v : ChipView) (x : SubItem) (s : State) : State :=
  let d := xferDescOf x
  match mget s.qh.parked flow with
  | some none => s
  | some (some st) => endXferItem flow dur d st false s
  | none =>
    if armWaits s flow then s
    else if x.bad then endXferItem flow dur d .uncorrectable false s
    else match xferVerdict s v flow x d with
      | .ends st => endXferItem flow dur d st false s
      | .faults f => park flow f (noteWalk v f.ctx (.fault f.kind f.level f.da) s)
      | .passes [src, dst] =>
        if admitRoom s && recordRoom s d.flow && canPin s (leavesAll [src, dst]) then admitXfer flow d src dst s
        else s
      | .passes _ => s

/-- TRANSFER_ADMIT (R478, R479). -/
def execTransferAdmit (flow duration : Nat) (v : ChipView) (s : State) : Host.Outcome State Fault Refusal :=
  let g := flowOf s flow
  match g.items with
  | [] => .next s
  | x :: _ =>
    .next (if !admissionOpen s ∨ g.kind ≠ .xferSubmit ∨ x.replaced ∨ x.ended then s
      else admitXferHead flow duration v x s)

/-- REPLACED_ITEM_END (R483, R577): a replaced item, or one that a forced Shutter of its flow ended, ends at admission with
CS_SHUTTERED. -/
def execReplacedItemEnd (flow duration : Nat) (s : State) : Host.Outcome State Fault Refusal :=
  let g := flowOf s flow
  match g.items with
  | [] => .next s
  | x :: _ =>
    .next (if !isLive s ∨ !(x.replaced || x.ended) then s
      else if g.kind = .runSubmit then endRunItem flow duration (runDescOf x) .shuttered s
      else if g.kind = .xferSubmit then endXferItem flow duration (xferDescOf x) .shuttered x.replaced s
      else s)

end Sys2Proof.Machine
end

