-- ==== Sys2Proof/Machine/FrontCache.lean ====
section
/-! DEFINITION. The front cache of the stacks: which granules its lines hold and their marks (R324 to R328). A line's data
equals the HBM's at every moment, since a write updates any line of its granule before it completes, so only the lines' places
are state. Also the counts of uncorrectable Larder words (R299, R314). -/

namespace Sys2Proof.Machine

open Sys2Proof

/-- A descriptor's hint, or the template's default where it is 0 (R325). -/
def effHint (desc tmpl : Nat) : Nat := if desc = 0 then tmpl else desc

/-- A line is of the set a granule belongs to: one of a slice's 1,024 (R324). -/
def sameSet (g : Nat) (l : CacheLine) : Bool := Config.cacheSet l.granule % 1024 == Config.cacheSet g % 1024

/-- The first line in the list that passes, removed: the list is least recently used first. -/
def evict (p : CacheLine → Bool) : List CacheLine → List CacheLine
  | [] => []
  | l :: r => if p l then r else l :: evict p r

/-- Room for a line in its set of 16: the least recently used line without KEEP goes, or with KEEP when all have it (R324,
R326). -/
def makeRoom (g : Nat) (ls : List CacheLine) : List CacheLine :=
  let set := ls.filter (sameSet g)
  if set.length < 16 then ls
  else if set.all CacheLine.keep then evict (sameSet g) ls
  else evict (fun l => sameSet g l && !l.keep) ls

/-- At most KEEP_WAYS lines of a set are marked: the least recently used ones of more lose the mark (R326). The list is least
recently used first. -/
def limitKeep (ways : Nat) : List CacheLine → List CacheLine
  | [] => []
  | l :: r =>
    let later := (r.filter (fun x => x.keep && sameSet l.granule x)).length
    (if l.keep && decide (ways ≤ later) then { l with keep := false } else l) :: limitKeep ways r

/-- A read of granule `g` at a stack, by its hint (table of R325). `clean`: no codeword of it is poisoned, so that it may be
cached (R328). -/
def Stack.front (k : Stack) (hint : Nat) (last clean : Bool) (g : Nat) : Stack :=
  let hit := k.cache.find? (fun l => l.granule == g)
  let others := k.cache.filter (fun l => l.granule != g)
  if k.disable ∨ hint < 2 ∨ !clean then k
  else
    match hit with
    | some l =>
      if hint = 2 then { k with cache := limitKeep k.keepWays (others ++ [{ l with keep := true, touched := true }]) }
      else if last && !l.touched then { k with cache := others }
      else { k with cache := others ++ [l] }
    | none =>
      let ls := makeRoom g k.cache
      if hint = 2 then { k with cache := limitKeep k.keepWays (ls ++ [{ granule := g, keep := true, touched := true }]) }
      else { k with cache := ls ++ [{ granule := g, keep := false, touched := false }] }

/-- Granules under `n` bytes. -/
def granulesOf (a n : Nat) : List Nat :=
  if n = 0 then [] else (List.range ((a + n - 1) / 256 + 1 - a / 256)).map (fun i => a / 256 + i)

/-- A read of `n` bytes of the local HBM passes the front cache (R325). -/
def frontRead (hint : Nat) (last : Bool) (a n : Nat) (s : State) : State :=
  (granulesOf a n).foldl (fun t g =>
    stackMod (hbmPlace (g * 256)).1 (fun k => k.front hint last (poisonedAt t (g * 256) 256).isNone g) t) s

/-- An uncorrectable word is never cached: the granule's line goes (R328, R571). -/
def frontDrop (a : Nat) (s : State) : State :=
  stackMod (hbmPlace a).1 (fun k => { k with cache := k.cache.filter (fun l => l.granule != a / 256) }) s

/-! ## Uncorrectable Larder words -/

/-- R299, R314: count an uncorrectable word in UE_COUNT, show its block in LAST_UE, fire ECC_UNCORRECTABLE. The block's poison
is spent: what held it is dropped or marked. -/
def larderUe (block : Nat) (s : State) : State :=
  raise evEccUncorrectable { s with lrd := { s.lrd with
    ueCount := satAdd 11 s.lrd.ueCount 1, lastUe := block % 2 ^ 29, poison := s.lrd.poison.filter (· ≠ block) } }

/-- Count copies and replicas dropped under R299. -/
def countReplicaDropped (n : Nat) (s : State) : State :=
  { s with lrd := { s.lrd with replicaDropped := satAdd 16 s.lrd.replicaDropped n } }

/-- First block of the REPLICA region, where the replica index lies (R302, R308). -/
def replicaBase (s : State) : Nat := planHot s.lrd.plan * 1048576

/-- Buckets of the replica index. -/
def bucketCount (s : State) : Nat := planReplica s.lrd.plan * 65536

/-- The bucket of a key (R308). -/
def bucketOf (s : State) (tid slot row : Nat) : Nat :=
  let x := row ||| (tid * 2 ^ 40) ||| (slot * 2 ^ 52)
  x * 0x9E3779B97F4A7C15 % pow64 % bucketCount s

/-- The Larder block an index bucket is (R302, R308). -/
def bucketBlock (s : State) (b : Nat) : Nat := replicaBase s + b

/-- A write of whole blocks clears their poison. -/
def cleanBlocks (b n : Nat) (s : State) : State :=
  { s with lrd := { s.lrd with poison := s.lrd.poison.filter (fun c => !(decide (b ≤ c) && decide (c < b + n))) } }

end Sys2Proof.Machine
end

