-- ==== Sys2Proof/Machine/Ecc.lean ====
section
/-! DEFINITION. The checks of the two memories: the Reed-Solomon code of the HBM codewords and what its verdicts do (R318,
R319, R329 to R333), and the SEC-DED check of the Larder's words (R298, R314). -/

namespace Sys2Proof.Machine

open Sys2Proof

/-! ## GF(2^8) (R318) -/

/-- Multiply by α, the root x of the field polynomial x^8 + x^4 + x^3 + x^2 + 1. -/
def gfTimesX (a : Nat) : Nat := if 128 ≤ a then (2 * a) ^^^ 0x11D else 2 * a

/-- α^n. -/
def gfExp : Nat → Nat
  | 0 => 1
  | n + 1 => gfTimesX (gfExp n)

/-- The product of two field elements: the multiples of `a` by α^i for the bits i of `b`. -/
def gfMul (a b : Nat) : Nat :=
  ((List.range 8).foldl (fun (p : Nat × Nat) i => (if b.testBit i then p.1 ^^^ p.2 else p.1, gfTimesX p.2)) (0, a)).1

/-- The inverse of a nonzero element: its power 254. -/
def gfInv (a : Nat) : Nat :=
  ((List.range 7).foldl (fun (p : Nat × Nat) _ => let q := gfMul p.2 p.2; (gfMul p.1 q, q)) (1, a)).1

/-- Solve `n` linear equations over the field; a row is its coefficients and its right side. None where they are singular. -/
def gfSolve : Nat → List (List Nat) → Option (List Nat)
  | 0, _ => some []
  | n + 1, rows =>
    match rows.find? (fun r => r.headD 0 != 0) with
    | none => none
    | some p =>
      let q := p.tail.map (gfMul (gfInv (p.headD 0)))
      let rest := (rows.erase p).map (fun r => List.zipWith (fun a b => a ^^^ gfMul (r.headD 0) b) r.tail q)
      (gfSolve n rest).map (fun xs => (List.zipWith gfMul q xs).foldl (· ^^^ ·) (q.getLastD 0) :: xs)

/-! ## The decoder (R318, R319) -/

/-- Symbols of a codeword: 36 lanes in each of two bursts. Symbol 36 × burst + lane has its evaluation point at α to that
power (the order of the symbols in the code is a DESIGN CHOICE, assumption log 5). -/
def cwSymbols : Nat := 72

/-- A received codeword's wrong symbols: number and the bits that are wrong, symbol by symbol. -/
def wrongSymbols (errs : List SymErr) : List (Nat × Nat) :=
  (List.range cwSymbols).filterMap (fun j =>
    let bits := errs.foldl (fun n e =>
      if e.burst < 2 ∧ e.lane < 36 ∧ 36 * e.burst + e.lane = j then n ^^^ (e.bits % 256) else n) 0
    if bits = 0 then none else some (j, bits))

/-- Syndrome `i` of an error: its value at the root α^i of the generator (R318). -/
def syndrome (wrong : List (Nat × Nat)) (i : Nat) : Nat :=
  wrong.foldl (fun n w => n ^^^ gfMul w.2 (gfExp (i * w.1 % 255))) 0

/-- The eight syndromes. -/
def syndromes (wrong : List (Nat × Nat)) : List Nat := (List.range 8).map (syndrome wrong)

/-- The error of exactly `v` symbols that has these syndromes, if the equations give one: the locator, its roots among the
symbols, and the value at each. -/
def errorOf (v : Nat) (syn : List Nat) : Option (List (Nat × Nat)) :=
  let s := fun i => syn.getD i 0
  match gfSolve v ((List.range v).map (fun i => (List.range (v + 1)).map (fun k => s (i + k)))) with
  | none => none
  | some loc =>
    let at0 := fun j => (List.range v).foldl (fun n k => n ^^^ gfMul (loc.getD k 0) (gfExp (j * k % 255))) (gfExp (j * v % 255))
    let ps := (List.range cwSymbols).filter (fun j => at0 j == 0)
    match gfSolve v ((List.range v).map (fun i => ps.map (fun j => gfExp (i * j % 255)) ++ [s i])) with
    | none => none
    | some ys =>
      let e := ps.zip ys
      if ps.length = v ∧ e.all (fun x => x.2 != 0) ∧ syndromes e = syn then some e else none

/-- The codeword within 4 symbols that the decoder finds, as the error it takes away (R319). -/
def decodeError (syn : List Nat) : Option (List (Nat × Nat)) :=
  [1, 2, 3, 4].findSome? (fun v => errorOf v syn)

/-- What a read of a codeword comes to: it is read, corrected or not, with the symbol bits that remain wrong; or it is
uncorrectable. -/
inductive CwVerdict where
  | read (corrected : Bool) (wrong : List (Nat × Nat))
  | bad
  deriving DecidableEq, Repr

/-- The difference of two errors. -/
def errorXor (a b : List (Nat × Nat)) : List (Nat × Nat) :=
  (List.range cwSymbols).filterMap (fun j =>
    let at0 := fun (l : List (Nat × Nat)) => ((l.find? (fun w => w.1 == j)).map Prod.snd).getD 0
    if at0 a ^^^ at0 b = 0 then none else some (j, at0 a ^^^ at0 b))

/-- R319: 4 or fewer wrong symbols are corrected; 5 or more are uncorrectable where the decoder finds no codeword within 4
symbols, and miscorrected otherwise. -/
def cwVerdict (errs : List SymErr) : CwVerdict :=
  let w := wrongSymbols errs
  if w.isEmpty then .read false []
  else if w.length ≤ 4 then .read true []
  else if syndromes w = List.replicate 8 0 then .read false w
  else match decodeError (syndromes w) with
    | some e => .read true (errorXor w e)
    | none => .bad

/-- Invert the data bits that wrong symbols of a codeword carry. A miscorrected codeword is taken as wrong in its stack from
then on (assumption log 5). -/
def flipCw (cw : Nat) (wrong : List (Nat × Nat)) (s : State) : State :=
  if wrong.isEmpty then s
  else
    let m := wrong.foldl (fun n w => n ^^^ Config.symbolMask (w.1 / 36) (w.1 % 36) w.2) 0
    hbmWrite (cw * 64) (toLe 64 (leNat (hbmRead s (cw * 64) 64) ^^^ m % 2 ^ 512)) s

/-! ## Corrected and uncorrectable codewords (R329, R333, R341, R342) -/

/-- A controller serves its stack: trained and not in self-refresh. -/
def stackServes (k : Stack) : Bool := k.state == .ready || k.state == .shuttering || k.state == .shuttered

/-- A corrected codeword of a stack: CE_COUNT, and ECC_CORRECTED_RATE once the window's corrections reach RATE_THRESH
(R333, R341). -/
def correctedHbm (n : Nat) (s : State) : State :=
  let k := stackOf s n
  let w := k.ceWindow + 1
  let hit := k.rateThresh != 0 && decide (k.rateThresh ≤ w) && !k.rateHit
  let s := stackMod n (fun k => { k with
    ceCount := satAdd 32 k.ceCount 1, ceWindow := w, rateHit := k.rateHit || hit }) s
  if hit then raise evEccCorrectedRate s else s

/-- Set POISONED in the header at an address, unless its codeword is the damaged one or poisoned itself (R329). -/
def poisonHeader (cw a : Nat) (s : State) : State :=
  if a / 64 = cw ∨ a / 64 ∈ s.poison then s
  else hbmWrite a (hdrBytes { hdrOf (BitVec.ofNat 128 (leNat (hbmRead s a 16))) with poisoned := true }) s

/-- Addresses of the rows of one version slot that a codeword lies in: rows of the shelf that holds it, and the learned default
row. -/
def rowsUnder (s : State) (t : Table) (v : VSlot) (cw : Nat) : List Nat :=
  let a := cw * 64
  let meets := fun (lo n : Nat) => decide (lo < a + 64) && decide (a < lo + n)
  let shelf :=
    if v.shelfLoc ≤ a ∧ a < v.shelfLoc + v.shelves * shelfBytes then
      let n := (a - v.shelfLoc) / shelfBytes
      ((rowsIn s t v n).filter (fun p => meets (rowAddr v n p.2.ofs) (rowSize p.2.cls t.dim))).map
        (fun p => rowAddr v n p.2.ofs)
    else []
  let dflt := if t.defMode ∧ meets v.defLoc (rowSize .w32 t.dim) then [v.defLoc] else []
  shelf ++ dflt

/-- Mark every table row a damaged codeword lies in (R329). -/
def markRows (cw : Nat) (s : State) : State :=
  s.tables.foldl (fun s p => [p.2.slot0, p.2.slot1].foldl (fun s v =>
    if v.state = .empty then s else (rowsUnder s p.2 v cw).foldl (fun s a => poisonHeader cw a s) s) s) s

/-- R329: a codeword found uncorrectable is counted, fires the event and is rewritten with its data as read and the poison
mark; the headers of the rows it lies in are marked. `drop`: the write-back is dropped because the granule has been written
since (R332). -/
def hbmUe (e : CwErr) (drop : Bool) (s : State) : State :=
  let n := (hbmPlace (e.cw * 64)).1
  let s := stackMod n (fun k => { k with ueCount := satAdd 16 k.ueCount 1, lastAddr := e.cw % 2 ^ 33 }) s
  let s := raise evEccUncorrectable (frontDrop (e.cw * 64) s)
  if drop then s
  else
    let s := markRows e.cw (flipCw e.cw (wrongSymbols e.syms) s)
    stackMod n (fun k => { k with poisonSeen := true }) { s with poison := insAsc e.cw s.poison }

/-- A codeword of the data space, not yet poisoned, at a stack that serves. -/
def cwLive (s : State) (cw : Nat) : Bool :=
  decide (cw * 64 < hbmSize s) && !s.poison.contains cw && stackServes (stackOf s (hbmPlace (cw * 64)).1)

/-- Bytes at `a` meet a codeword. -/
def meetsCw (cw a n : Nat) : Bool := decide (cw * 64 < a + n) && decide (a < cw * 64 + 64)

/-- The codeword lies under one of these ranges. -/
def meetsAny (cw : Nat) (rs : List (Nat × Nat)) : Bool := rs.any (fun r => meetsCw cw r.1 r.2)

/-- Of the codewords that a read of these ranges finds wrong, the uncorrectable ones. -/
def badIn (s : State) (rs : List (Nat × Nat)) (errs : List CwErr) : List CwErr :=
  errs.filter (fun e => cwLive s e.cw && meetsAny e.cw rs && cwVerdict e.syms == .bad)

/-- A read of these ranges meets codewords that are not uncorrectable: a correction counts in its stack, a miscorrection stays
in what the codeword reads as. -/
def fixErrs (rs : List (Nat × Nat)) (errs : List CwErr) (s : State) : State :=
  errs.foldl (fun t e =>
    if !(cwLive t e.cw && meetsAny e.cw rs) then t
    else match cwVerdict e.syms with
      | .read c wrong => flipCw e.cw wrong (if c then correctedHbm (hbmPlace (e.cw * 64)).1 t else t)
      | .bad => t) s

/-- Codewords found uncorrectable. -/
def loseErrs (bad : List CwErr) (s : State) : State :=
  bad.foldl (fun t e => if cwLive t e.cw then hbmUe e false t else t) s

/-! ## Front-cache lines (R571) -/

/-- Front-cache lines under a read that are found uncorrectable are invalidated; the request is served from the stack
(R571). -/
def dropLines (rs : List (Nat × Nat)) (lines : List Nat) (s : State) : State :=
  (lines.filter (fun g => rs.any (fun r => decide (g * 256 < r.1 + r.2) && decide (r.1 < g * 256 + 256)))).foldl
    (fun t g => frontDrop (g * 256) t) s

/-! ## The Larder's check (R298, R314) -/

/-- What the (72,64) check makes of a word with so many wrong bits (R298). -/
def larderCheck (block wrong : Nat) : Nat := if wrong ≤ 2 then wrong else Config.manyBits block wrong % 3

/-- `n` corrected words: CE_COUNT, and ECC_CORRECTED_RATE at the 65,536th of a 1 ms window (R298, R314). -/
def correctedLarder (n : Nat) (s : State) : State :=
  let was := s.lrd.ceWindow
  let s := { s with lrd := { s.lrd with ceCount := satAdd 24 s.lrd.ceCount n, ceWindow := was + n } }
  if was < 65536 ∧ 65536 ≤ was + n then raise evEccCorrectedRate s else s

end Sys2Proof.Machine
end

