-- ==== Sys2Proof/Machine/Work.lean ====
section
/-! DEFINITION. Admitted Runs and transfers: finding and changing them, their bags, and their early end by an abort reply
or a forced Shutter (R149 to R151, R440, R442). -/

namespace Sys2Proof.Machine

open Sys2Proof

/-- The admitted Run with this ordinal. -/
def runOf (s : State) (ord : Nat) : Option Run := s.qh.runs.find? (·.ord == ord)

/-- Change the Run with this ordinal. -/
def runMod (ord : Nat) (f : Run → Run) (s : State) : State :=
  { s with qh := { s.qh with runs := lmap s.qh.runs (·.ord == ord) f } }

/-- The admitted transfer with this ordinal. -/
def xferOf (s : State) (ord : Nat) : Option Xfer := s.qh.xfers.find? (·.ord == ord)

/-- Change the transfer with this ordinal. -/
def xferMod (ord : Nat) (f : Xfer → Xfer) (s : State) : State :=
  { s with qh := { s.qh with xfers := lmap s.qh.xfers (·.ord == ord) f } }

/-- A bag nothing has happened to. -/
def BagInfo.fresh : BagInfo := { state := .pending, writes := 0, defaulted := 0, replays := 0, redone := false }

/-- Bag `b` of a Run. -/
def bagOf (r : Run) (b : Nat) : BagInfo := mgetD r.bags b BagInfo.fresh

/-- Change bag `b` of a Run. -/
def bagMod (ord b : Nat) (f : BagInfo → BagInfo) (s : State) : State :=
  runMod ord (fun r => { r with bags := mmod r.bags b BagInfo.fresh f }) s

/-- The status of a bag that has left (R29). -/
def bagStatus (i : BagInfo) : Status :=
  if i.redone then .okRedone else if i.replays ≠ 0 then .okReplayed else if i.defaulted ≠ 0 then .okDefaulted else .ok

/-- A tagged bag that has left or failed closes its sample (R606). -/
def closeSample (ord b : Nat) (s : State) : State :=
  match (runOf s ord).map (fun r => bagOf r b) with
  | none => s
  | some i =>
    let mine := fun (x : Sample) => x.ord == ord && x.bag == b && !x.done
    let close := fun (x : Sample) => match i.state with
      | .failed st => { x with failed := true, status := st, done := true }
      | .left => { x with status := bagStatus i, redone := i.redone, passes := i.replays, done := true }
      | _ => x
    { s with ctr := { s.ctr with samples := lmap s.ctr.samples mine close } }

/-- A bag fails with a status, unless it has left or failed already. -/
def failBag (ord b : Nat) (st : Status) (s : State) : State :=
  closeSample ord b (bagMod ord b (fun i => if i.isOver then i else { i with state := .failed st }) s)

/-- Every bag from `b` on fails (R124). -/
def failFrom (ord b : Nat) (st : Status) (s : State) : State :=
  match runOf s ord with
  | none => s
  | some r => (List.range (r.desc.nbags - b)).foldl (fun t i => failBag ord (b + i) st t) s

/-- The stream of a kind in a Run. -/
def streamOf (r : Run) (k : RangeKind) : Option Stream := r.streams.find? (·.kind == k)

/-- Change the streams of a kind in a Run. -/
def streamMod (ord : Nat) (k : RangeKind) (f : Stream → Stream) (s : State) : State :=
  runMod ord (fun r => { r with streams := lmap r.streams (·.kind == k) f }) s

/-- Change the stream at a position of a Run. -/
def streamAt (ord i : Nat) (f : Stream → Stream) (s : State) : State :=
  runMod ord (fun r => { r with streams := lmod r.streams i f }) s

/-- A Mill that holds nothing. -/
def Mill.idle : Mill := { work := none, token := none, part := none, saved := none }

/-- Work of a Run. -/
def ofRun (ord : Nat) (w : Option BagWork) : Bool :=
  match w with
  | some b => b.ord == ord
  | none => false

/-- A Mill gives up the work and the token of a Run. -/
def Mill.purge (ord : Nat) (m : Mill) : Mill :=
  { work := if ofRun ord m.work then none else m.work,
    token := m.token.filter (fun t => t.1 != ord),
    part := m.part.filter (fun t => t.1 != ord),
    saved := if ofRun ord m.saved then none else m.saved }

/-- A column gives up the bags of a Run, those of its wait list too. -/
def Column.purge (ord : Nat) (c : Column) : Column :=
  { c with
    mills := c.mills.map (fun p => (p.1, p.2.purge ord)),
    wait := c.wait.filter (fun w => w.ord != ord),
    redo := c.redo.filter (fun w => w.1 != ord) }

/-- Sources of a pending entry that do not belong to a Run or transfer. -/
def notOf (ord : Nat) (x : FaultSource) : Bool :=
  match x with
  | .stream o _ => o != ord
  | .admission _ => true

/-- Streams of a Run or transfer leave the pending table; an entry whose count reaches 0 is freed (R442). -/
def leaveEntries (ord : Nat) (s : State) : State :=
  let pend := (s.flt.pend.map (fun p => (p.1, { p.2 with srcs := p.2.srcs.filter (notOf ord) }))).filter
    (fun p => !p.2.srcs.isEmpty)
  { s with flt := { s.flt with
    pend := pend,
    recQ := s.flt.recQ.filter (fun n => (mget pend n).isSome),
    raised := s.flt.raised.filter (fun f => notOf ord f.src) } }

/-- A bag that had not left counts as failed (R150); a bag whose token is wholly on its way into memory leaves when it is
accepted. `q` elements of the bag still wait in the output flow and are written no more. -/
def BagInfo.cut (st : Status) (q : Nat) (i : BagInfo) : BagInfo :=
  let i := { i with writes := i.writes - q }
  if i.isOver ∨ (i.state = .draining ∧ q = 0 ∧ i.writes ≠ 0) then i else { i with state := .failed st }

/-- Elements of a bag that wait in the Run's output flow. -/
def queuedOf (r : Run) (b : Nat) : Nat :=
  r.streams.foldl (fun n x => n + (x.outQ.filter (fun e => e.bag == b)).length) 0

/-- Some column's Mill works for a Run. -/
def millOfRun (s : State) (ord c m : Nat) : Bool :=
  match mget s.cols c with
  | none => false
  | some col => match mget col.mills m with
    | none => false
    | some k => ofRun ord k.work

/-- Row reads that pass a test on their Mill are given up: those waiting at this home go, and the tags of those sent advance
their generation (R376, R380). -/
def dropReads (p : Nat → Nat → Bool) (s : State) : State :=
  let goneH := fun (h : HomeRead) => match h.origin with
    | .mill c m _ => p c m
    | .node _ _ => false
  let goneR := fun (q : Req) => match q.purpose with
    | .mill c m _ _ => p c m
    | _ => false
  let gens := (s.span.reqs.filter goneR).foldl (fun g q => mmod g (q.tag % 16384) 0 (fun n => (n + 1) % 64)) s.span.gens
  { s with span := { s.span with
    homeReads := s.span.homeReads.filter (fun h => !goneH h), reqs := s.span.reqs.filter (fun q => !goneR q),
    gens := gens } }

/-- The samples of a Run's bags that had not ended end as failed with the Run's status (R606). -/
def failSamples (ord : Nat) (st : Status) (s : State) : State :=
  let l := lmap s.ctr.samples (fun x => x.ord == ord && !x.done)
    (fun x => { x with failed := true, status := st, done := true })
  { s with ctr := { s.ctr with samples := l } }

/-- Mark the columns that hold contributions of a Run for a flush. -/
def flushFor (ord : Nat) (s : State) : State :=
  { s with cols := s.cols.map (fun p => (p.1, if ord ∈ p.2.runSet then { p.2 with flushDue := true } else p.2)) }

/-- A Run ends early: its bags that had not left fail, its Mills and columns give it up, its stalled streams leave their
entries. What its Mills have contributed stays folded (R197, R440). -/
def endRun (ord : Nat) (st : Status) (s : State) : State :=
  match runOf s ord with
  | none => s
  | some r =>
    if r.ended.isSome then s
    else
      let s := runMod ord (fun r => { r with
        ended := some st,
        bags := r.bags.map (fun p => (p.1, p.2.cut st (queuedOf r p.1))),
        streams := r.streams.map (fun x =>
          { x with outQ := [], stale := false, stalled := false, replay := false }) }) s
      let s := dropReads (millOfRun s ord) s
      let s := flushFor ord { s with cols := s.cols.map (fun p => (p.1, p.2.purge ord)) }
      failSamples ord st (leaveEntries ord s)

/-- A transfer ends early. -/
def endXfer (ord : Nat) (st : Status) (s : State) : State :=
  let s := xferMod ord (fun x => { x with
    ended := some (x.ended.getD st), got := [], staleSrc := false, staleDst := false, stalled := false,
    replay := false }) s
  leaveEntries ord s

end Sys2Proof.Machine
end

