-- ==== Sys2Proof/Machine/Faults.lean ====
section
/-! DEFINITION. Contexts and segments set by the Clerk, invalidation and re-translation, and the fault unit (chapter
"Addresses, segments and faults"). -/

namespace Sys2Proof.Machine

open Sys2Proof

/-! ## CTX_SET and SEG_SET -/

/-- RUNS: admitted Runs and transfers bound to a context and not yet finished (R404). -/
def ctxRuns (s : State) (c : Nat) : Nat :=
  (s.qh.runs.filter (fun r => r.desc.ctx == c)).length +
    (s.qh.xfers.filter (fun x => x.desc.srcCtx == c || x.desc.dstCtx == c)).length

/-- Change a context. -/
def ctxMod (c : Nat) (f : Ctx → Ctx) (s : State) : State :=
  { s with xlt := { s.xlt with ctxs := mmod s.xlt.ctxs c Ctx.reset f } }

/-- The refusals of R408 and R417. -/
def ctxSetOk (s : State) (c : Nat) (valid pt : Bool) (win root fmt : W64) : Bool :=
  let k := ctxOf s c
  let same := k.ptMode == pt && k.winOfs == win && k.root == root && k.ptfmt == fmt && (valid || !k.valid)
  (ctxRuns s c == 0 || same) && (!pt || fmtOk fmt)

/-- CTX_SET (R404 to R408, R417, OP 0x0701). -/
def execCtxSet (slot : Nat) (s : State) : Host.Outcome State Fault Refusal :=
  cmdStep 0x0701 slot s fun m s =>
    let c := bits (arg m 1) 0 6
    let valid := bit (arg m 1) 6
    let pt := bit (arg m 1) 7
    if ctxSetOk s c valid pt (arg m 2) (arg m 3) (arg m 4) then
      postFinal slot m .ok [] (ctxMod c (fun k =>
        { k with valid := valid, ptMode := pt, winOfs := arg m 2, root := arg m 3, ptfmt := arg m 4 }) s)
    else postFinal slot m .badDescriptor [] s

/-- Two segments overlap. -/
def segsMeet (a b : Seg) : Bool := decide (segBase a ≤ segEnd b) && decide (segBase b ≤ segEnd a)

/-- The refusals of R412 for a segment with VALID = 1. -/
def segSetOk (s : State) (c n : Nat) (g : Seg) : Bool :=
  let len := segEnd g + 1 - segBase g
  let others := (ctxOf s c).segs.filter (fun p => p.1 != n && segValid p.2)
  segBase g != 0 && decide (segBase g ≤ segEnd g) && !others.any (fun p => segsMeet g p.2) &&
    segNode g == ownNode s && targetOf s (segLocal g) len != .none &&
    !(segWrite g && targetOf s (segLocal g) len == .hbm)

/-- SEG_SET (R410 to R414, OP 0x0702). -/
def execSegSet (slot : Nat) (s : State) : Host.Outcome State Fault Refusal :=
  cmdStep 0x0702 slot s fun m s =>
    let c := bits (arg m 1) 0 6
    let n := bits (arg m 1) 8 4
    let g : Seg := { base := arg m 2, last := arg m 3, phys := arg m 4, flags := arg m 5 }
    if !segValid g || segSetOk s c n g then
      postFinal slot m .ok [] (ctxMod c (fun k => { k with segs := mset k.segs n g }) s)
    else postFinal slot m .badDescriptor [] s

/-! ## Invalidation -/

/-- A context an invalidation names (R424). -/
def invalNames (w : W64) (c : Nat) : Bool := bit w 6 || bits w 0 6 == c

/-- The DA range of an invalidation: first byte and length (R424). -/
def invalRange (w : W64) : Nat × Nat :=
  let k := bits w 7 5
  if k = 31 then (0, 2 ^ 56)
  else let n := 2 ^ (12 + k); (bits w 12 44 * 4096 / n * n, n)

/-- A range of `n` bytes at `da` in a context meets an invalidation. -/
def invalMeets (w : W64) (c da n : Nat) : Bool :=
  let r := invalRange w
  invalNames w c && decide (da < r.1 + r.2) && decide (r.1 < da + n)

/-- A write of XLT_INVAL (R424, R425). -/
def writeInval (val : W64) (s : State) : State :=
  if s.xlt.inval.isSome then { s with xlt := { s.xlt with refused := true } }
  else { s with xlt := { s.xlt with inval := some val, invalActive := false } }

/-- XLT_INVAL. -/
def execXltInval (val : W64) (s : State) : Host.Outcome State Fault Refusal := kcpWrite s (writeInval val)

/-- A leaf overlaps an invalidation: its DAs are its HVAs less the window offset (R398, R426). Of a leaf that begins below the
offset, the part from the offset on has DAs, from 0 on. -/
def leafMeets (s : State) (w : W64) (l : Leaf) : Bool :=
  let da := (l.hva + pow64 - bits (ctxOf s l.ctx).winOfs 12 52 * 4096) % pow64
  let n := 2 ^ (12 + 9 * l.level)
  if pow64 < da + n then invalMeets w l.ctx 0 (da + n - pow64) else invalMeets w l.ctx da n

/-- A stream meets an invalidation and joins its overlap set; a stalled one is re-translated at its replay (R427). -/
def markStream (w : W64) (ctx : Nat) (x : Stream) : Stream :=
  if invalMeets w ctx x.da x.len && !x.stalled then { x with stale := true } else x

/-- The same for the footprints of a transfer. -/
def markXfer (w : W64) (x : Xfer) : Xfer :=
  let a := srcFoot x.desc
  let b := dstFoot x.desc
  { x with
    staleSrc := x.staleSrc || (invalMeets w x.desc.srcCtx a.1.toNat a.2 && !x.stalled)
    staleDst := x.staleDst || (invalMeets w x.desc.dstCtx b.1.toNat b.2 && !x.stalled) }

/-- The invalidation takes effect (R426, R427): leaves that overlap leave the cache; the pinned ones among them are
re-walked with the ranges of the overlap set. -/
def takeEffect (w : W64) (s : State) : State :=
  { s with
    xlt := { s.xlt with invalActive := true, cache := s.xlt.cache.filter (fun l => !leafMeets s w l) }
    qh := { s.qh with
      runs := s.qh.runs.map (fun r =>
        if r.ended.isSome then r else { r with streams := r.streams.map (markStream w r.desc.ctx) })
      xfers := s.qh.xfers.map (fun x => if x.ended.isSome then x else markXfer w x) } }

/-- INVAL_TAKE_EFFECT (R426). -/
def execInvalTakeEffect (s : State) : Host.Outcome State Fault Refusal :=
  match s.xlt.inval with
  | none => .next s
  | some w => .next (if s.xlt.invalActive then s else takeEffect w s)

/-- Every range of the overlap set has been re-translated (R428). -/
def overlapDone (s : State) : Bool :=
  s.qh.runs.all (fun r => r.streams.all (fun x => !x.stale)) &&
    s.qh.xfers.all (fun x => !x.staleSrc && !x.staleDst)

/-- INVAL_ACK (R425, R428). -/
def execInvalAck (s : State) : Host.Outcome State Fault Refusal :=
  match s.xlt.inval with
  | none => .next s
  | some w =>
    .next (if s.xlt.invalActive && overlapDone s then
        raise evInvalAck { s with xlt := { s.xlt with inval := none, invalActive := false, ackSeq := bits w 56 4 } }
      else s)

/-- A write of XLT_INVAL_ACK: REFUSED is cleared by 1 (R425). -/
def writeInvalAck (val : W64) (s : State) : State :=
  { s with xlt := { s.xlt with refused := s.xlt.refused && !bit val 5 } }

/-- The kind of fault that a failed re-translation raises in segment mode (R429). -/
def segFaultKind (s : State) (c : Ctx) (da n : Nat) (write : Bool) : FaultKind :=
  match segHolding c da n with
  | none => .segment
  | some (_, g) =>
    let a := segLocal g + (da - segBase g)
    if !segPresent g then .notPresent
    else if (if write then !segWrite g || targetOf s a n == .hbm else !segRead g) then .perm
    else .segment

/-- The segment a kept translation is bound to. -/
def boundSeg : Xlat → Nat
  | .seg n _ _ => n
  | .pages _ _ => 0

/-- The fault a failed re-translation raises: kind, key, level (R429, R431, R434). -/
def faultParts (s : State) (ctx : Nat) (x : Xlat) (da n : Nat) (write : Bool) (e : XlatFail) : FaultKind × Nat × Nat :=
  let c := ctxOf s ctx
  if c.ptMode then
    match e with
    | .segment l a => (.segment, faultKey l a, l)
    | .perm l a => (.perm, faultKey l a, l)
    | .fault k l a => (k, faultKey l a, l)
  else (segFaultKind s c da n write, boundSeg x, 0)

/-- A fault of a stream. -/
def streamFault (s : State) (ord i ctx tag carter : Nat) (x : Xlat) (next da n : Nat) (write : Bool) (e : XlatFail) :
    FaultReq :=
  let p := faultParts s ctx x da n write e
  { src := .stream ord i, ctx := ctx, ptMode := (ctxOf s ctx).ptMode, kind := p.1, key := p.2.1,
    seg := if (ctxOf s ctx).ptMode then 0 else boundSeg x, level := p.2.2, da := next, write := write,
    carter := carter, tag := tag }

/-- A fault waits to join or take an entry (R431, R432). -/
def raiseFault (f : FaultReq) (s : State) : State := { s with flt := { s.flt with raised := s.flt.raised ++ [f] } }

/-- The part of a stream's range to translate again: in page-table mode from its next element on, else the whole
(R429, R439). -/
def restOf (ptMode : Bool) (x : Stream) : Nat × Nat :=
  if ptMode && !x.write then (x.da + x.cursor * x.elem, x.len - x.cursor * x.elem) else (x.da, x.len)

/-- Re-translate a Run's stream: it goes on under the new translation, or raises a fault and stalls (R427 to R429). -/
def retranslateStream (ord i : Nat) (v : ChipView) (r : Run) (x : Stream) (s : State) : State :=
  let rest := restOf (ctxOf s r.desc.ctx).ptMode x
  match translate s v r.desc.ctx rest.1 rest.2 x.write with
  | .ok y =>
    cacheLeaves (leavesOf y)
      (streamAt ord i (fun x => { x with xlat := y, stale := false, stalled := false, replay := false }) s)
  | .error e =>
    noteWalk v r.desc.ctx e <|
      raiseFault (streamFault s ord i r.desc.ctx r.desc.tag x.carter x.xlat (x.da + x.cursor * x.elem) rest.1 rest.2 x.write e)
      (streamAt ord i (fun x => { x with stale := false, stalled := true, replay := false }) s)

/-- Re-translate one footprint of a transfer: 0 the source, 1 the destination. -/
def retranslateXfer (ord i : Nat) (v : ChipView) (x : Xfer) (s : State) : State :=
  let write := i != 0
  let foot := if write then dstFoot x.desc else srcFoot x.desc
  let ctx := if write then x.desc.dstCtx else x.desc.srcCtx
  match translate s v ctx foot.1.toNat foot.2 write with
  | .ok y =>
    cacheLeaves (leavesOf y) (xferMod ord (fun x => if write
      then { x with dst := y, staleDst := false, stalled := false, replay := false }
      else { x with src := y, staleSrc := false, stalled := false, replay := false }) s)
  | .error e =>
    noteWalk v ctx e <| raiseFault (streamFault s ord i ctx 0xFFFFFFFF x.carter (if write then x.dst else x.src) foot.1.toNat foot.1.toNat
        foot.2 write e)
      (xferMod ord (fun x => if write then { x with staleDst := false, stalled := true, replay := false }
        else { x with staleSrc := false, stalled := true, replay := false }) s)

/-- A stream that needs re-translation: of an overlap set, or replayed. -/
def needsXlat (x : Stream) : Bool := x.stale || x.replay

/-- RANGE_RETRANSLATE (R427 to R429, R439): stream `stream` of the Run with this ordinal, or the source (0) or
destination (1) of the transfer. -/
def execRangeRetranslate (ord stream : Nat) (v : ChipView) (s : State) : Host.Outcome State Fault Refusal :=
  match runOf s ord, xferOf s ord with
  | some r, _ =>
    match r.streams[stream]? with
    | some x => .next (if needsXlat x then retranslateStream ord stream v r x s else s)
    | none => .next s
  | none, some x =>
    .next (if (if stream = 0 then x.staleSrc || x.replay else x.staleDst || x.replay)
      then retranslateXfer ord (min stream 1) v x s else s)
  | none, none => .next s

/-! ## The fault unit -/

/-- A fault joins an entry of the same context, kind and key (R431). -/
def joins (f : FaultReq) (p : Nat × PendEntry) : Bool :=
  p.2.first.ctx == f.ctx && p.2.first.kind == f.kind && p.2.first.key == f.key && p.2.first.ptMode == f.ptMode

/-- Join an entry, or take the lowest free one with its generation raised by 1 (R431). -/
def enterFault (f : FaultReq) (s : State) : Option State :=
  match s.flt.pend.find? (joins f) with
  | some (n, e) =>
    some { s with flt := { s.flt with pend := mset s.flt.pend n { e with srcs := e.srcs ++ [f.src] } } }
  | none =>
    if 256 ≤ s.flt.pend.length then none
    else
      let n := firstFree (s.flt.pend.map Prod.fst) 256 0
      let g := (mgetD s.flt.gens n 0 + 1) % 256
      some { s with flt := { s.flt with
        pend := mset s.flt.pend n { gen := g, first := f, srcs := [f.src], written := false, met := false },
        gens := mset s.flt.gens n g, recQ := s.flt.recQ ++ [n] } }

/-- The first waiting fault, in the order of stalling, that can join or take an entry goes there; where one cannot,
PEND_FULL is set (R431, R432). -/
def placeFault : List FaultReq → List FaultReq → State → State
  | _, [], s => s
  | before, f :: rest, s =>
    match enterFault f s with
    | some t => { t with flt := { t.flt with raised := before ++ rest } }
    | none => placeFault (before ++ [f]) rest { s with flt := { s.flt with pendFull := true } }

/-- FAULT_RAISE. -/
def execFaultRaise (s : State) : Host.Outcome State Fault Refusal := .next (placeFault [] s.flt.raised s)

/-- KIND codes (R434). -/
def faultCode : FaultKind → Nat
  | .notPresent => 0
  | .segment => 1
  | .perm => 2
  | .walk => 3

/-- The words of a fault record (R434). -/
def faultRecord (n : Nat) (e : PendEntry) (phase : Nat) : List W64 :=
  let f := e.first
  let adm := match f.src with
    | .admission _ => true
    | _ => false
  [w64 (n + e.gen * 2 ^ 8 + faultCode f.kind * 2 ^ 16 + b2n f.write * 2 ^ 18 + b2n f.ptMode * 2 ^ 19 + f.ctx * 2 ^ 20 +
      phase * 2 ^ 26 + b2n adm * 2 ^ 27 + e.srcs.length * 2 ^ 32), w64 (f.da % 2 ^ 56),
   w64 (f.seg + f.level * 2 ^ 4 + f.carter * 2 ^ 8 + f.tag * 2 ^ 32), 0]

/-- Write the record of a pending entry at TAIL, then raise FAULT_PENDING (R433, R435, R437). -/
def writeFaultRecord (n : Nat) (rest : List Nat) (e : PendEntry) (s : State) : State :=
  let k := s.flt.tail
  let bs := wordsToBytes (faultRecord n e (phaseOf k s.flt.size))
  let s := chipWrite .pedWr .small (bits s.flt.base 5 44 * 32 + k % s.flt.size * 32) bs s
  raise evFaultPending { s with flt := { s.flt with
    tail := (k + 1) % pow32, records := satAdd 32 s.flt.records 1, recQ := rest,
    pend := mset s.flt.pend n { e with written := true } } }

/-- The record of entry `n` finds the ring full: FULL and FAULT_RING_FULL, once for the record (R436, R447). -/
def faultRingFull (n : Nat) (e : PendEntry) (s : State) : State :=
  if e.met then s
  else raise evFaultRingFull { s with flt := { s.flt with full := true, pend := mset s.flt.pend n { e with met := true } } }

/-- FAULT_RECORD_WRITE (R433 to R437): the record of the entry taken first among those that wait. -/
def execFaultRecordWrite (s : State) : Host.Outcome State Fault Refusal :=
  match s.flt.recQ with
  | [] => .next s
  | n :: rest =>
    match mget s.flt.pend n with
    | none => .next { s with flt := { s.flt with recQ := rest } }
    | some e =>
      .next (if ringRoom (bit s.flt.base 0) s.flt.head s.flt.tail s.flt.size 1 then writeFaultRecord n rest e s
        else faultRingFull n e s)

/-- What a replay does to one source: a stream translates again, a parked admission resumes its walk (R439). -/
def replaySource (x : FaultSource) (s : State) : State :=
  match x with
  | .admission f => { s with qh := { s.qh with parked := mdel s.qh.parked f } }
  | .stream ord i =>
    xferMod ord (fun y => { y with stalled := false, replay := true })
      (streamAt ord i (fun y => { y with stalled := false, replay := true }) s)

/-- What an abort does to one source (R423, R440). -/
def abortSource (x : FaultSource) (s : State) : State :=
  match x with
  | .admission f => { s with qh := { s.qh with parked := mset s.qh.parked f (some .faultAbort) } }
  | .stream ord _ => if (runOf s ord).isSome then endRun ord .faultAbort s else endXfer ord .faultAbort s

/-- The entry a reply names, if it holds one of this generation (R438). -/
def replyEntry (s : State) (val : W64) : Option PendEntry :=
  match mget s.flt.pend (bits val 0 8) with
  | some e => if e.gen = bits val 8 8 then some e else none
  | none => none

/-- A write of FLT_REPLY (R438 to R440, R442). -/
def writeReply (val : W64) (s : State) : State :=
  match replyEntry s val with
  | none => { s with flt := { s.flt with badReply := true } }
  | some e =>
    let n := bits val 0 8
    let s := { s with flt := { s.flt with
      pend := mdel s.flt.pend n, recQ := s.flt.recQ.filter (fun k => k != n) } }
    e.srcs.foldl (fun t x => if bit val 16 then abortSource x t else replaySource x t) s

/-- FAULT_REPLY_REPLAY: a write of FLT_REPLY with ABORT = 0 (R439). -/
def execFaultReplyReplay (val : W64) (s : State) : Host.Outcome State Fault Refusal :=
  kcpWrite s (writeReply (val &&& ~~~(0x10000#64)))

/-- FAULT_REPLY_ABORT: a write of FLT_REPLY with ABORT = 1 (R440). -/
def execFaultReplyAbort (val : W64) (s : State) : Host.Outcome State Fault Refusal :=
  kcpWrite s (writeReply (val ||| 0x10000#64))

/-- FAULT_OVERDUE (R441): a written record has stayed unreplied for 60,000 Queue Hall cycles. -/
def execFaultOverdue (pend : Nat) (s : State) : Host.Outcome State Fault Refusal :=
  match mget s.flt.pend pend with
  | some e => .next (if e.written then { s with flt := { s.flt with overdue := true } } else s)
  | none => .next s

/-! ## Fault registers -/

/-- REFUSED of FLT_STATUS is set. -/
def fltRefuse (s : State) : State := { s with flt := { s.flt with refused := true } }

/-- A write of FLT_RING_HEAD (R446). -/
def writeFltHead (val : W64) (s : State) : State :=
  if headPasses (bits val 0 32) s.flt.head s.flt.tail then fltRefuse s
  else { s with flt := { s.flt with head := bits val 0 32 } }

/-- FLT_RING_HEAD_WRITE. -/
def execFltRingHeadWrite (val : W64) (s : State) : Host.Outcome State Fault Refusal := kcpWrite s (writeFltHead val)

/-- The ring registers may change (R444). -/
def fltIdle (s : State) : Bool := s.flt.tail == s.flt.head && s.flt.pend.isEmpty

/-- A write of FLT_RING_BASE (R444). -/
def writeFltBase (val : W64) (s : State) : State :=
  if fltIdle s then { s with flt := { s.flt with base := val &&& 0x0001FFFFFFFFFFE1#64 } } else fltRefuse s

/-- A write of FLT_RING_SIZE (R444, R445). -/
def writeFltSize (val : W64) (s : State) : State :=
  if fltIdle s && ringSizeOk (bits val 0 17) then { s with flt := { s.flt with size := bits val 0 17 } }
  else fltRefuse s

/-- FLT_RING_CONFIG_WRITE: FLT_RING_BASE, or FLT_RING_SIZE where `size`. -/
def execFltRingConfigWrite (size : Bool) (val : W64) (s : State) : Host.Outcome State Fault Refusal :=
  kcpWrite s (if size then writeFltSize val else writeFltBase val)

/-- A write of FLT_STATUS: CLEAR clears bits 4 to 0 (R447). -/
def writeFltStatus (val : W64) (s : State) : State :=
  if bit val 63 then { s with flt := { s.flt with
    full := false, pendFull := false, badReply := false, overdue := false, refused := false } }
  else s

/-- FLT_STATUS_CLEAR: a write of FLT_STATUS with CLEAR = 1 (R447). -/
def execFltStatusClear (val : W64) (s : State) : Host.Outcome State Fault Refusal :=
  kcpWrite s (writeFltStatus (val ||| 0x8000000000000000#64))

end Sys2Proof.Machine
end

