-- ==== Sys2Proof/Machine/Carters.lean ====
section
/-! DEFINITION. Stream data between memory and the flows: Carter chunks, the distributor, inbound headers of the Chip Data
Ports, uncorrectable cells, and the completion records of Runs and transfers (chapters "The Queue Hall" and "Ports,
clocks and rails"). -/

namespace Sys2Proof.Machine

open Sys2Proof

/-! ## Bytes of streams -/

/-- Bytes stored by offset. -/
def putBytes (m : AMap Byte) (a : Nat) : List Byte → AMap Byte
  | [] => m
  | b :: r => putBytes (mset m a b) (a + 1) r

/-- `n` bytes from an offset, if every one of them is there. -/
def getBytes (m : AMap Byte) : Nat → Nat → Option (List Byte)
  | _, 0 => some []
  | a, n + 1 =>
    match mget m a, getBytes m (a + 1) n with
    | some b, some r => some (b :: r)
    | _, _ => none

/-- Element `i` of a stream, delivered or not. -/
def elemOf (x : Stream) (i : Nat) : Option (List Byte) := getBytes x.got (i * x.elem) x.elem

/-- Elements a range covers. -/
def Stream.count (x : Stream) : Nat := x.len / x.elem

/-- The status of an element whose data failed. -/
def badOf (x : Stream) (i : Nat) : Option Status := (x.badElems.find? (fun p => p.1 == i)).map Prod.snd

/-- Elements touched by `n` bytes from an offset. -/
def elemsIn (size ofs n : Nat) : List Nat :=
  (List.range ((ofs + n - 1) / size + 1 - ofs / size)).map (fun i => ofs / size + i)

/-- Count each poisoned codeword met (R330). -/
def countPoisons (cws : List Nat) (s : State) : State := cws.foldl (fun t c => countPoisonRead c t) s

/-- One request of a chunk: physical address and length cut where leaves and 4 KiB blocks end, with the offset in the
range (R449, R624). -/
def chunkPieces (x : Xlat) (da ofs n : Nat) : List (Nat × Nat × Nat) :=
  let ps := rangePieces x (da + ofs) n
  let cut := ps.flatMap (fun p => (pieces p.1 (List.replicate p.2 0)).map (fun q => (q.1, q.2.length)))
  (cut.foldl (fun (acc : Nat × List (Nat × Nat × Nat)) p => (acc.1 + p.2, acc.2 ++ [(acc.1, p.1, p.2)])) (ofs, [])).2

/-- Whole elements a chunk moves: up to 4 KiB, at least one (R449, R474). -/
def chunkElems (elem left : Nat) : Nat := min left (max 1 (4096 / elem))

/-- 64 B units of bytes. -/
def unitsOf (n : Nat) : Nat := (n + 63) / 64

/-! ## Bag groups in the streams -/

/-- Offset entry `b` of a Run in offsets mode, if delivered. -/
def offsetAt (r : Run) (b : Nat) : Option Nat :=
  (streamOf r .offsets).bind (fun x => (elemOf x b).map leNat)

/-- The entries of bag `b`: first and end; none where an offset is not delivered yet (R124, R125). -/
def bagEntries (r : Run) (b : Nat) : Option (Nat × Nat) :=
  if r.desc.fixedLen then some (b * (r.desc.bagLenM1 + 1), (b + 1) * (r.desc.bagLenM1 + 1))
  else match offsetAt r b, offsetAt r (b + 1) with
    | some lo, some hi => some (lo, hi)
    | _, _ => none

/-- R124: the offsets of bag `b` are wrong. -/
def offsetsBad (r : Run) (b lo hi : Nat) : Bool :=
  !r.desc.fixedLen && ((b == 0 && lo != 0) || decide (hi < lo) || decide (r.desc.idxCount < hi) ||
    (b + 1 == r.desc.nbags && hi != r.desc.idxCount))

/-- Number of bag groups (R122). -/
def groupCount (r : Run) : Nat := (r.desc.nbags + 63) / 64

/-- Bags of group `g`. -/
def groupBags (r : Run) (g : Nat) : List Nat := (List.range (min 64 (r.desc.nbags - 64 * g))).map (fun i => 64 * g + i)

/-- The entries a group covers, as far as its offsets are sound. -/
def groupEnd (r : Run) (g : Nat) : Option Nat :=
  (groupBags r g).foldl (fun acc b =>
    match acc, bagEntries r b with
    | some e, some (lo, hi) => some (if offsetsBad r b lo hi then e else max e hi)
    | _, _ => none) (some 0)

/-- Delivered bytes of an inbound stream up to `n`, all there; an index stream hands over whole units of 4 cells, its
tail, or a short unit (R464). -/
def deliveredTo (x : Stream) (n : Nat) : Bool :=
  let there := x.got.filter (fun c => decide (c.1 < n))
  decide (there.length = min n x.len) &&
    (x.kind != .index || decide (x.len ≤ x.got.length) || decide (n ≤ x.handed) ||
      decide (n ≤ x.got.length / 256 * 256))

/-- How far a group reads each inbound stream, in bytes. -/
def groupNeeds (r : Run) (g : Nat) (entries : Nat) (x : Stream) : Nat :=
  let bags := min r.desc.nbags (64 * (g + 1))
  match x.kind with
  | .index | .weight => entries * x.elem
  | .offsets => (bags + 1) * x.elem
  | .operand | .preload | .gradient => bags * x.elem
  | .output => 0

/-- Bytes of a stream that the group next in line takes, once it is handed to a column: the distributor moves them on as
they come (R487, R488), so that they take no room in the flow. -/
def nextNeeds (r : Run) (x : Stream) : Nat :=
  match r.groups.find? (fun g => !g.2.forwarded) with
  | some g => groupNeeds r g.1 ((groupEnd r g.1).getD 0) x
  | none => 0

/-! ## Carter chunks -/

/-- The front-cache hint of a Run's stream: HINT_STREAMS goes with index, weight and operand streams (R115, R127), the
template's default where the descriptor has 0; other streams read as STREAM. -/
def streamHint (s : State) (ord : Nat) (k : RangeKind) : Nat :=
  match runOf s ord with
  | none => 1
  | some r =>
    match k with
    | .index | .weight | .operand => effHint r.desc.hintStreams r.tmpl.hintStreams
    | _ => 1

/-- Data read from the local HBM reaches its stream; elements on poisoned codewords fail (R330). Every request of a stream
carries the last-use mark (R327). -/
def fromHbm (ord i ofs a n elem hint : Nat) (s : State) : State :=
  let cws := poisonsAt s a n
  let bad := cws.flatMap (fun c =>
    let lo := max (c * 64) a - a + ofs
    let hi := min (c * 64 + 64) (a + n) - a + ofs
    (elemsIn elem lo (hi - lo)).map (fun e => (e, Status.poisoned)))
  let bs := hbmRead s a n
  let s := frontRead hint true a n s
  countPoisons cws (streamAt ord i (fun x => { x with
    got := putBytes x.got ofs bs, badElems := x.badElems ++ bad }) s)

/-- A request at or above the limit of the local HBM: its elements fail with CS_SEG_VIOLATION (R321). -/
def beyondHbm (ord i ofs n elem : Nat) (s : State) : State :=
  streamAt ord i (fun x => { x with
    got := putBytes x.got ofs (List.replicate n 0),
    badElems := x.badElems ++ (elemsIn elem ofs n).map (fun e => (e, Status.segViolation)) }) s

/-- An inbound chunk of a Run's stream: requests to chip memory, or data from the local HBM at once. -/
def chunkIn (carter ord i : Nat) (x : Stream) (s : State) : State :=
  let n := chunkElems x.elem (x.count - x.cursor)
  let ps := chunkPieces x.xlat x.da (x.cursor * x.elem) (n * x.elem)
  let s := ps.foldl (fun t p => match targetOf t p.2.1 p.2.2 with
    | .hbm => fromHbm ord i p.1 (p.2.1 - hbmLocal) p.2.2 x.elem (streamHint t ord x.kind) t
    | .none => beyondHbm ord i p.1 p.2.2 x.elem t
    | .chip => chipRead (.runRead ord i p.1) p.2.1 p.2.2 t) s
  countEv islQh 0x501 (unitsOf (n * x.elem)) (streamAt ord i (fun y => { y with cursor := y.cursor + n, carter := carter }) s)

/-- The elements of an outbound chunk: whole elements up to 4 KiB, at least one (R449, R474). -/
def takeOut : Nat → List OutElem → List OutElem
  | _, [] => []
  | room, e :: r => if e.bytes.length ≤ room then e :: takeOut (room - e.bytes.length) r else []

/-- Elements of the next outbound chunk. -/
def outChunk (q : List OutElem) : List OutElem :=
  match q with
  | [] => []
  | e :: r => e :: takeOut (4096 - e.bytes.length) r

/-- Write one element of a Run's output at its place in the range (R487). TILE_DRAIN counted the element as one write of
its bag; here it becomes the requests it takes. -/
def writeElem (ord i : Nat) (x : Stream) (e : OutElem) (s : State) : State :=
  let ps := cutPieces (rangePieces x.xlat (x.da + e.idx * x.elem) e.bytes.length) e.bytes
  let n := requestCount ps
  let s := bagMod ord e.bag (fun b => { b with writes := b.writes + n - 1 }) s
  ps.foldl (fun t p => chipWrite .wr (.runWrite ord i e.bag) p.1 p.2 t) s

/-- An outbound chunk of a Run's stream. -/
def chunkOut (carter ord i : Nat) (x : Stream) (s : State) : State :=
  let es := outChunk x.outQ
  let s := streamAt ord i (fun y => { y with
    outQ := y.outQ.drop es.length, handed := y.handed - es.length, cursor := y.cursor + es.length, carter := carter }) s
  let s := es.foldl (fun t e => writeElem ord i x e t) s
  countEv islQh 0x501 (es.foldl (fun n e => n + unitsOf e.bytes.length) 0) s

/-- The producer of an outbound stream has marked its end: every bag of the Run has drained or failed (R464). -/
def outEnded (r : Run) : Bool :=
  (r.bags.filter (fun p => p.2.isOver || p.2.state == .draining)).length == r.desc.nbags

/-- A stream is ready for a Carter (R460, R474): inbound with room for 64 cells in a flow that is not full, outbound with 64 cells
or a short unit. -/
def streamReady (s : State) (r : Run) (x : Stream) : Bool :=
  !x.stale && !x.stalled && !x.replay && r.ended.isNone &&
    (if x.write then
      !x.outQ.isEmpty && (decide (4096 ≤ x.outQ.foldl (fun k q => k + q.bytes.length) 0) || x.handed != 0 ||
        outEnded r)
    else decide (x.cursor < x.count) && !streamFull s x &&
      decide ((x.cursor * x.elem - max x.taken (nextNeeds r x) + 63) / 64 + 64 ≤ 256))

/-- Source and destination DA of element `k` of a transfer, in cursor order (R477). -/
def xferAddr (d : XferDesc) (k : Nat) : Nat × Nat :=
  let i0 := k % d.n0
  let i1 := k / d.n0 % d.n1
  let i2 := k / (d.n0 * d.n1) % d.n2
  let i3 := k / (d.n0 * d.n1 * d.n2)
  let off (s1 s2 s3 : Int) : Int := (i0 * d.elem : Nat) + i1 * s1 + i2 * s2 + i3 * s3
  (((d.srcDa : Int) + off d.srcS1 d.srcS2 d.srcS3).toNat, ((d.dstDa : Int) + off d.dstS1 d.dstS2 d.dstS3).toNat)

/-- Of two failures of source reads, the one of the earlier element. -/
def firstBad (a : Option (Nat × Status)) (b : Nat × Status) : Option (Nat × Status) :=
  match a with
  | none => some b
  | some x => if b.1 < x.1 then some b else some x

/-- Read one element of a transfer's source. -/
def xferReadElem (ord k : Nat) (x : Xfer) (s : State) : State :=
  let ps := chunkPieces x.src (xferAddr x.desc k).1 0 x.desc.elem
  ps.foldl (fun t p => match targetOf t p.2.1 p.2.2 with
    | .hbm =>
      let a := p.2.1 - hbmLocal
      let cws := poisonsAt t a p.2.2
      let bs := hbmRead t a p.2.2
      let t := frontRead x.desc.hint true a p.2.2 t
      countPoisons cws (xferMod ord (fun y => { y with
        got := putBytes y.got (k * x.desc.elem + p.1) bs,
        bad := if cws.isEmpty then y.bad else firstBad y.bad (k, .poisoned) }) t)
    | .none => xferMod ord (fun y => { y with
        got := putBytes y.got (k * x.desc.elem + p.1) (List.replicate p.2.2 0), bad := firstBad y.bad (k, .segViolation) }) t
    | .chip => chipRead (.xferRead ord (k * x.desc.elem + p.1)) p.2.1 p.2.2 t) s

/-- An inbound chunk of a transfer. -/
def xferChunkIn (carter ord : Nat) (x : Xfer) (s : State) : State :=
  let n := chunkElems x.desc.elem (x.desc.count - x.cursor)
  let s := (List.range n).foldl (fun t i => xferReadElem ord (x.cursor + i) x t) s
  countEv islQh 0x501 (unitsOf (n * x.desc.elem))
    (xferMod ord (fun y => { y with cursor := y.cursor + n, carter := carter }) s)

/-- The transfer's next element can be written: read whole, not failed, and every element before it accepted, so that no
later element is written when one fails (R481). -/
def xferNext (x : Xfer) : Option (List Byte) :=
  if x.writes ≠ 0 ∨ (x.bad.map (fun b => decide (b.1 ≤ x.done))).getD false then none
  else getBytes x.got (x.done * x.desc.elem) x.desc.elem

/-- Write the transfer's next element. -/
def xferChunkOut (carter ord : Nat) (x : Xfer) (bs : List Byte) (s : State) : State :=
  let ps := cutPieces (rangePieces x.dst (xferAddr x.desc x.done).2 bs.length) bs
  let s := xferMod ord (fun y => { y with
    writes := requestCount ps, carter := carter,
    got := y.got.filter (fun c => decide ((x.done + 1) * x.desc.elem ≤ c.1)) }) s
  countEv islQh 0x501 (unitsOf bs.length)
    (ps.foldl (fun t p => chipWrite .wr (.xferWrite ord x.done) p.1 p.2 t) s)

/-- A transfer can move. -/
def xferReady (x : Xfer) : Bool := x.ended.isNone && !x.stalled && !x.replay

/-- A transfer's reads can go on. -/
def xferReads (x : Xfer) : Bool := xferReady x && !x.staleSrc && decide (x.cursor < x.desc.count) && x.bad.isNone

/-- A transfer's writes can go on. -/
def xferWrites (x : Xfer) : Bool := xferReady x && !x.staleDst && decide (x.done < x.cursor)

/-- A Carter moves the next chunk of a stream, if it is ready. -/
def carterStep (carter ord stream : Nat) (s : State) : State :=
  match runOf s ord, xferOf s ord with
  | some r, _ =>
    match r.streams[stream]? with
    | some x =>
      if streamReady s r x then (if x.write then chunkOut carter ord stream x s else chunkIn carter ord stream x s) else s
    | none => s
  | none, some x =>
    if stream = 0 then (if xferReads x then xferChunkIn carter ord x s else s)
    else match xferNext x with
      | some bs => if xferWrites x then xferChunkOut carter ord x bs s else s
      | none => s
  | none, none => s

/-- The stream has a chunk that a Carter can move. -/
def carterMoves (s : State) (ord stream : Nat) : Bool :=
  match runOf s ord, xferOf s ord with
  | some r, _ => (r.streams[stream]?.map (streamReady s r)).getD false
  | none, some x => if stream = 0 then xferReads x else (xferNext x).isSome && xferWrites x
  | none, none => false

/-- Elements of an inbound chunk whose HBM bytes lie in a codeword. -/
def chunkHits (s : State) (cw elem : Nat) (ps : List (Nat × Nat × Nat)) : List Nat :=
  dedupNat (ps.flatMap (fun p =>
    match targetOf s p.2.1 p.2.2 with
    | .hbm =>
      let a := p.2.1 - hbmLocal
      if meetsCw cw a p.2.2 then
        let lo := max (cw * 64) a - a + p.1
        elemsIn elem lo (min (cw * 64 + 64) (a + p.2.2) - a + p.1 - lo)
      else []
    | _ => []))

/-- The local HBM ranges among some pieces of a chunk. -/
def hbmRanges (s : State) (ps : List (Nat × Nat × Nat)) : List (Nat × Nat) :=
  ps.filterMap (fun p => match targetOf s p.2.1 p.2.2 with
    | .hbm => some (p.2.1 - hbmLocal, p.2.2)
    | _ => none)

/-- Pieces of the next inbound chunk of a Run's stream. -/
def runPieces (x : Stream) : List (Nat × Nat × Nat) :=
  chunkPieces x.xlat x.da (x.cursor * x.elem) (chunkElems x.elem (x.count - x.cursor) * x.elem)

/-- Elements of the next inbound chunk of a transfer. -/
def xferElems (x : Xfer) : List Nat :=
  (List.range (chunkElems x.desc.elem (x.desc.count - x.cursor))).map (fun i => x.cursor + i)

/-- Pieces of an element of a transfer's source. -/
def elemPieces (x : Xfer) (k : Nat) : List (Nat × Nat × Nat) := chunkPieces x.src (xferAddr x.desc k).1 0 x.desc.elem

/-- The local HBM ranges that the next chunk of a stream reads. -/
def chunkRanges (s : State) (ord stream : Nat) : List (Nat × Nat) :=
  match runOf s ord, xferOf s ord with
  | some r, _ =>
    match r.streams[stream]? with
    | some x => if x.write || !streamReady s r x then [] else hbmRanges s (runPieces x)
    | none => []
  | none, some x => if stream ≠ 0 ∨ !xferReads x then [] else (xferElems x).flatMap (fun k => hbmRanges s (elemPieces x k))
  | none, none => []

/-- Elements of the chunk on uncorrectable codewords fail with CS_UNCORRECTABLE (R329, R481). -/
def failElems (s : State) (ord stream : Nat) (bad : List CwErr) (t : State) : State :=
  match runOf s ord, xferOf s ord with
  | some r, _ =>
    match r.streams[stream]? with
    | some x =>
      let hits := bad.flatMap (fun e => chunkHits s e.cw x.elem (runPieces x))
      streamAt ord stream (fun y => { y with badElems := y.badElems ++ hits.map (fun e => (e, Status.uncorrectable)) }) t
    | none => t
  | none, some x =>
    match (xferElems x).find? (fun k => bad.any (fun e => !(chunkHits s e.cw x.desc.elem (elemPieces x k)).isEmpty)) with
    | some k => xferMod ord (fun y => { y with bad := firstBad y.bad (k, .uncorrectable) }) t
    | none => t
  | none, none => t

/-- A Carter's chunk whose reads meet wrong codewords: what the check corrects is read, elements on an uncorrectable codeword
fail. -/
def carterErrs (carter ord stream : Nat) (errs : List CwErr) (s : State) : State :=
  let rs := chunkRanges s ord stream
  let bad := badIn s rs errs
  let s := fixErrs rs errs s
  loseErrs bad (failElems s ord stream bad (carterStep carter ord stream s))

/-- The Carter stays with a stream that is stalled on a fault (R430, R475). -/
def carterHeld (s : State) (carter : Nat) : Bool :=
  s.qh.runs.any (fun r => r.streams.any (fun x => x.stalled && x.carter == carter)) ||
    s.qh.xfers.any (fun x => x.stalled && x.carter == carter)

/-- CARTER_CHUNK (R449, R452, R474, R475, R477, R571): a Carter moves one chunk of a stream of a Run, or of the reads or the
writes of a transfer; which ready stream comes next in the order of R474 is the operand's, since the chunks that other
Carters have in hand at that moment are no state of the model (assumption log 41). -/
def execCarterChunk (carter ord : Nat) (chunk : ChunkIn) (s : State) : Host.Outcome State Fault Refusal :=
  .next (if 48 ≤ carter || carterHeld s carter then s
    else correctedCells (if carterMoves s ord chunk.stream then chunk.words else 0)
      (carterErrs carter ord chunk.stream chunk.errs (dropLines (chunkRanges s ord chunk.stream) chunk.lines s)))

/-! ## The distributor -/

/-- A group's part of every inbound stream has been delivered. -/
def groupReady (r : Run) (g : Nat) : Bool :=
  match groupEnd r g with
  | none => false
  | some e => r.streams.all (fun x => x.write || deliveredTo x (groupNeeds r g e x))

/-- Groups before `g` have been forwarded: an inbound flow is read in order (R488). -/
def groupsBefore (r : Run) (g : Nat) : Bool :=
  (List.range g).all (fun k => match mget r.groups k with
    | some i => i.forwarded
    | none => false)

/-- Forward a group to its column's input buffer. -/
def forwardGroup (ord g : Nat) (r : Run) (i : GroupInfo) (s : State) : State :=
  let e := (groupEnd r g).getD 0
  runMod ord (fun r => { r with
    groups := mset r.groups g { i with forwarded := true },
    streams := r.streams.map (fun x => if x.write then x
      else { x with taken := max x.taken (min x.len (groupNeeds r g e x)) }) }) s

/-- DISTRIBUTOR_FORWARD (R487, R488). -/
def execDistributorForward (ord group : Nat) (s : State) : Host.Outcome State Fault Refusal :=
  match runOf s ord with
  | none => .next s
  | some r =>
    match mget r.groups group with
    | none => .next s
    | some i =>
      .next (if !i.forwarded && r.ended.isNone && groupsBefore r group && groupReady r group
        then forwardGroup ord group r i s else s)

/-! ## Inbound headers of the Chip Data Ports -/

/-- Fields of an inbound header (R621). -/
def inKind (h : W64) : Nat := bits h 0 4
def inTag (h : W64) : Nat := bits h 4 11
def inErr (h : W64) : Bool := bit h 21
def inReserved (h : W64) : Bool := bits h 22 42 == 0

/-- The outstanding request an answer names, of the kinds its KIND answers (R621, R626). -/
def answered (s : State) (port : Nat) (h : W64) : Option OutReq :=
  let want (r : OutReq) : Bool := if inKind h = 8 then r.kind == .rdReq else r.kind == .wr || r.kind == .pedWr
  (cdpPort s port).outstanding.find? (fun r => r.tag == inTag h && want r)

/-- A header the K40 discards: an unlisted KIND, a reserved bit, or a TAG with no request outstanding (R628). -/
def headerBad (s : State) (port : Nat) (h : W64) : Bool :=
  !inReserved h || (inKind h != 8 && inKind h != 9 && inKind h != 10) ||
    (inKind h != 10 && (answered s port h).isNone)

/-- The K40 sees inbound headers on a port while its k_rdy is 1 (R620). -/
def portSees (s : State) (port : Nat) : Bool := decide (port < 8) && (cdpPort s port).kRdy

/-- A request is answered: its tag is free, and what waited may leave (R626). -/
def retire (port : Nat) (r : OutReq) (s : State) : State :=
  let c := cdpPort s port
  pumpPort port { s with cdp := mset s.cdp port { c with outstanding := c.outstanding.erase r } }

/-- Data of a read reaches its stream; with ERR its elements fail (R627). -/
def readDone (r : OutReq) (err : Bool) (bs : List Byte) (s : State) : State :=
  match r.owner with
  | .runRead ord i ofs =>
    match (runOf s ord).bind (fun q => q.streams[i]?) with
    | none => s
    | some x =>
      let bad := if err then (elemsIn x.elem ofs bs.length).map (fun e => (e, Status.uncorrectable)) else []
      streamAt ord i (fun y => { y with got := putBytes y.got ofs bs, badElems := y.badElems ++ bad }) s
  | .xferRead ord ofs =>
    xferMod ord (fun x => { x with
      got := putBytes x.got ofs bs,
      bad := if err then firstBad x.bad (ofs / x.desc.elem, .uncorrectable) else x.bad }) s
  | _ => s

/-- The bytes a read asked for, out of the whole units its data carries. -/
def readBytes (r : OutReq) (data : List Byte) : List Byte :=
  (List.range r.len).map (fun i => data.getD (r.addr % 64 + i) 0)

/-- RD_DATA (R622, R625 to R627). -/
def execRdData (port : Nat) (hdr : W64) (data : List Byte) (s : State) : Host.Outcome State Fault Refusal :=
  match answered s port hdr with
  | none => .next s
  | some r =>
    .next (if !portSees s port || headerBad s port hdr || inKind hdr != 8 then s
      else
        let s := readDone r (inErr hdr) (readBytes r data) (retire port r s)
        if inErr hdr then raise evEccUncorrectable s else s)

/-- A bag's token is accepted: once no write of it is outstanding the bag has left; with ERR it fails (R149, R627). -/
def tokenDone (ord b : Nat) (err : Bool) (s : State) : State :=
  closeSample ord b <| bagMod ord b (fun i =>
    let i := { i with writes := i.writes - 1 }
    let i := if err && !(match i.state with
        | .failed _ => true
        | _ => false) then { i with state := .failed .uncorrectable } else i
    if i.state = .draining ∧ i.writes = 0 then { i with state := .left } else i) s

/-- A transfer's element is accepted; with ERR the transfer ends there (R481, R627). -/
def xferDone (ord k : Nat) (err : Bool) (s : State) : State :=
  xferMod ord (fun x =>
    if x.done ≠ k then x
    else
      let x := { x with writes := x.writes - 1, bad := if err then some (k, .uncorrectable) else x.bad }
      if x.writes = 0 ∧ (x.bad.map (fun b => decide (k < b.1))).getD true then { x with done := k + 1 } else x) s

/-- A part of a Clerk result block is accepted; the response follows the last (R507). -/
def resultDone (slot : Nat) (err : Bool) (s : State) : State :=
  match s.mbx.awaiting.find? (fun a => a.resp.slot == slot) with
  | none => s
  | some a =>
    let rest := s.mbx.awaiting.filter (fun b => b.resp.slot != slot)
    if err then post { a.resp with status := .uncorrectable, payload := [] } { s with mbx := { s.mbx with awaiting := rest } }
    else if a.left ≤ 1 then post a.resp { s with mbx := { s.mbx with awaiting := rest } }
    else
      let l := lmap s.mbx.awaiting (fun b => b.resp.slot == slot) (fun b => { b with left := b.left - 1 })
      { s with mbx := { s.mbx with awaiting := l } }

/-- What an accepted write does for its owner. -/
def writeDone (r : OutReq) (err : Bool) (s : State) : State :=
  match r.owner with
  | .runWrite ord _ b => tokenDone ord b err s
  | .xferWrite ord k => xferDone ord k err s
  | .clerkResult slot => resultDone slot err s
  | _ => if err then logOpen 1 r.addr s else s

/-- WR_ACK (R622, R625, R627). -/
def execWrAck (port : Nat) (hdr : W64) (s : State) : Host.Outcome State Fault Refusal :=
  match answered s port hdr with
  | none => .next s
  | some r =>
    .next (if !portSees s port || headerBad s port hdr || inKind hdr != 9 then s
      else
        let s := writeDone r (inErr hdr) (retire port r s)
        if inErr hdr then raise evEccUncorrectable s else s)

/-- CDP_HEADER_DISCARD (R628): log entry 0x0C10 with the port and the header. -/
def execCdpHeaderDiscard (port : Nat) (hdr : W64) (s : State) : Host.Outcome State Fault Refusal :=
  let a := Config.logPack 0x0C10 [port, hdr.toNat]
  .next (if portSees s port && headerBad s port hdr then logAdd 0x0C10 a.1 a.2 s else s)

/-- CDP_READY_CHANGE (R620, R630, R646): the surroundings' s_rdy changes; k_rdy is the K40's own and follows the block
state. -/
def execCdpReadyChange (port : Nat) (_kRdy sRdy : Bool) (s : State) : Host.Outcome State Fault Refusal :=
  .next (if 8 ≤ port then s
    else
      let c := (cdpPort s port).setReady (s.gbl.state == .retention) (kRdyOf s port) sRdy
      pumpPort port { s with cdp := mset s.cdp port c })

/-- CDP_CREDIT_RETURN (R619): the surroundings return a header credit, a data credit, or both; the K40 holds at most
1,024 of each. -/
def execCdpCreditReturn (port : Nat) (header data : Bool) (s : State) : Host.Outcome State Fault Refusal :=
  let c := cdpPort s port
  .next (if 8 ≤ port ∨ !(c.kRdy && c.sRdy) then s
    else
      let c := { c with
        hdrCredit := min 1024 (c.hdrCredit + b2n header), datCredit := min 1024 (c.datCredit + b2n data) }
      pumpPort port { s with cdp := mset s.cdp port c })

/-! ## Uncorrectable cells -/

/-- A packet of a Span port that an uncorrectable retry cell loses is settled with the packet's fate elsewhere; here the
received packet is discarded as corrupt (R374, R453). -/
def dropReceived (port idx : Nat) (p : Port) : Port :=
  if port < 8 ∧ idx < p.rx.length then { p with rx := p.rx.eraseIdx idx, corrupt := satAdd 8 p.corrupt 1 } else p

/-- Count an uncorrectable cell word and fire the event (R453, R494). -/
def countCell (s : State) : State :=
  raise evEccUncorrectable { s with qh := { s.qh with eccUncorrectable := satAdd 16 s.qh.eccUncorrectable 1 } }

/-! ## Completion records -/

/-- The first failed bag and the number of failed bags. -/
def failsOf (r : Run) : Option (Nat × Status) × Nat :=
  let fs := r.bags.filterMap (fun p => match p.2.state with
    | .failed st => some (p.1, st)
    | _ => none)
  (fs.head?, fs.length)

/-- Lowest bag that has not left. -/
def firstNotLeft (r : Run) : Nat → Nat → Nat
  | 0, b => b
  | n + 1, b => if (bagOf r b).state = .left then firstNotLeft r n (b + 1) else b

/-- Bags that have left. -/
def leftCount (r : Run) : Nat := (r.bags.filter (fun p => p.2.state == .left)).length

/-- Sum over the bags that have left. -/
def sumLeft (r : Run) (f : BagInfo → Nat) : Nat :=
  r.bags.foldl (fun n p => if p.2.state == .left then n + f p.2 else n) 0

/-- A bag of the Run was recomputed. -/
def anyRedone (r : Run) : Bool := r.bags.any (fun p => p.2.redone)

/-- The status that R29 and R234 give a Run no bag of which failed. -/
def goodStatus (r : Run) : Status :=
  if r.backward && r.lateDropped then .lateDropped
  else if r.backward && r.lateDeferred then .lateDeferred
  else if anyRedone r then .okRedone
  else if sumLeft r BagInfo.replays ≠ 0 then .okReplayed
  else if sumLeft r BagInfo.defaulted ≠ 0 then .okDefaulted
  else .ok

/-- The end of a Run as its record says it (R148, R150, R151). -/
def runEndOf (r : Run) (duration : Nat) : RunEnd :=
  let fs := failsOf r
  let notLeft := r.desc.nbags - leftCount r
  { status := match r.ended with
      | some st => st
      | none => (fs.1.map Prod.snd).getD (goodStatus r),
    kept := r.kept, redone := anyRedone r,
    part := (if r.ended.isSome then notLeft != 0 else fs.2 != 0) && leftCount r != 0,
    defaulted := sumLeft r BagInfo.defaulted, replays := sumLeft r BagInfo.replays,
    failBag := if r.ended.isSome then (if notLeft = 0 then pow32 - 1 else firstNotLeft r r.desc.nbags 0)
      else (fs.1.map Prod.fst).getD (pow32 - 1),
    failCount := if r.ended.isSome then notLeft else fs.2, duration := duration }

/-- A column still holds contributions of a Run that no flush has carried (R207). -/
def contributes (s : State) (ord : Nat) : Bool := s.cols.any (fun p => decide (ord ∈ p.2.runSet))

/-- A Run's record can be written: every bag over, every output write accepted, every partial taken (R152, R207). -/
def runFinished (s : State) (r : Run) : Bool :=
  (r.ended.isSome || (r.bags.filter (fun p => p.2.isOver)).length == r.desc.nbags) &&
    r.bags.all (fun p => p.2.writes == 0) && r.partialsOut == 0 && !contributes s r.ord

/-- Write the Run's record, give back its slot reference and its stream flows (R76, R152, R486). -/
def finishRun (r : Run) (duration : Nat) (s : State) : State :=
  let s := putRecord r.desc.flow true (runRecord r.desc (runEndOf r duration)) s
  let s := { s with qh := { s.qh with runs := s.qh.runs.filter (fun q => q.ord != r.ord) } }
  settle (dropRef r.desc.tid r.slot s)

/-- RUN_RECORD_WRITE (R148 to R153). -/
def execRunRecordWrite (ord duration : Nat) (s : State) : Host.Outcome State Fault Refusal :=
  match runOf s ord with
  | none => .next s
  | some r => .next (if runFinished s r then finishRun r duration s else s)

/-- A transfer is over, with its status: ended early, failed at an element with no write outstanding, or all accepted
(R481). -/
def xferStatus (x : Xfer) : Option Status :=
  if x.writes ≠ 0 then none
  else match x.ended, x.bad with
    | some st, _ => some st
    | none, some (k, st) => if k ≤ x.done then some st else none
    | none, none => if x.done = x.desc.count then some .ok else none

/-- TRANSFER_RECORD_WRITE (R480, R481). -/
def execTransferRecordWrite (ord duration : Nat) (s : State) : Host.Outcome State Fault Refusal :=
  match xferOf s ord with
  | none => .next s
  | some x =>
    match xferStatus x with
    | none => .next s
    | some st =>
      let s := putRecord x.desc.flow true (xferRecord x.desc x.carter st false x.done duration) s
      .next (settle { s with qh := { s.qh with xfers := s.qh.xfers.filter (fun y => y.ord != ord) } })

end Sys2Proof.Machine
end

