-- ==== Sys2Proof/Machine/Net.lean ====
section
/-! DEFINITION. What every sender on Span uses: ports, routes, packet lengths, the relay fold, outbound queues, the
handling of unreachable packets, and the late counts and drop log of the Ledger (chapters "Span links and the hall-wide
pool" and "The Ledger: gradients without loss"). -/

namespace Sys2Proof.Machine

open Sys2Proof

/-! ## Drop log and late counts -/

/-- Enter a discarded partial in the drop log while it has a free slot (R244). -/
def logDrop (key : RowKey) (step : Nat) (why : DropReason) (s : State) : State :=
  if 64 ≤ s.ldg.dropLog.length then s
  else { s with ldg := { s.ldg with dropLog := s.ldg.dropLog ++
    [{ row := if key.defkey then 0 else key.row, tid := key.tid, defkey := key.defkey, reason := why,
       stepLo := step % 128 }] } }

/-- A partial discarded here: counted in DROPPED and logged (R230, R235, R243). -/
def dropPartial (key : RowKey) (step : Nat) (why : DropReason) (s : State) : State :=
  logDrop key step why { s with ldg := { s.ldg with dropped := satAdd 24 s.ldg.dropped 1 } }

/-- A partial refused as home absent: counted in REFUSED and logged (R235, R243). -/
def refusePartial (key : RowKey) (step : Nat) (s : State) : State :=
  logDrop key step .absent { s with ldg := { s.ldg with refused := satAdd 16 s.ldg.refused 1 } }

/-! ## Ports and routes -/

/-- A port at reset. -/
def Port.reset : Port :=
  { state := .down, spareUsed := false, spareFor := 0, wrongPeer := false, peerId := 0, peerPort := 0,
    peerValid := false, peerMember := 0, corrected := 0, uncorrectable := 0, corrupt := 0, misrouted := 0,
    replays := 0, linkDowns := 0, recovered := 0, unresolved := 0, credit := [], txSeq := 0, unacked := [],
    flits := [], txBytes := [], txFirst := 15, owed := [], wire := [], rxSeq := 0, lastRx := none, nakOut := false, naks := (0, 0), queues := [], rxBytes := [], rx := [],
    querying := false }

/-- Port `p`. -/
def portAt (s : State) (p : Nat) : Port := mgetD s.span.ports p Port.reset

/-- Change port `p`. -/
def portMod (p : Nat) (f : Port → Port) (s : State) : State :=
  { s with span := { s.span with ports := mmod s.span.ports p Port.reset f } }

/-- Port `p` is UP. -/
def portUp (s : State) (p : Nat) : Bool := (portAt s p).state == .up

/-- Group and member of a node number (R364). -/
def groupOf (d : Nat) : Nat := d / 128
def memberOf (d : Nat) : Nat := d % 128

/-- The key of the route a destination takes: group entries, then member entries. -/
def routeKey (s : State) (d : Nat) : Nat :=
  if groupOf d = groupOf (self s) then 128 + memberOf d else groupOf d

/-- The route entry a destination takes (R364). -/
def routeEntry (s : State) (d : Nat) : Nat :=
  if groupOf d = groupOf (self s) then mgetD s.span.memberRoute (memberOf d) 0
  else mgetD s.span.groupRoute (groupOf d) 0

/-- The port of a route entry: PRIMARY while UP, ALTERNATE while it may be used and PRIMARY is not UP (R364). -/
def entryPort (s : State) (e : Nat) : Option Nat :=
  if !e.testBit 7 then none
  else if portUp s (nbits e 0 3) then some (nbits e 0 3)
  else if e.testBit 6 && portUp s (nbits e 3 3) then some (nbits e 3 3)
  else none

/-- The port to a node that is not this one. -/
def routePort (s : State) (d : Nat) : Option Nat := entryPort s (routeEntry s d)

/-! ## Packets -/

/-- A KIND code (R368). -/
def kindNo : PktBody → Nat
  | .read _ => 1
  | .row _ => 2
  | .promote _ => 3
  | .notice _ => 4
  | .absent _ => 5
  | .part _ => 6
  | .update _ => 7
  | .mark _ => 8
  | .lquery _ => 9
  | .lstate _ => 10

/-- The CLASS of a kind (R368). -/
def classNo : PktBody → Nat
  | .read _ | .promote _ | .lquery _ => 0
  | .row _ | .notice _ | .absent _ | .lstate _ => 1
  | .part _ => 2
  | .update _ | .mark _ => 3

/-- Bytes padded to 16 B. -/
def pad16 (n : Nat) : Nat := (n + 15) / 16 * 16

/-- Length of a packet in bytes (R368 to R373). -/
def pktBytes : PktBody → Nat
  | .read _ | .promote _ | .notice _ | .absent _ => 32
  | .row p => if p.status = .ok then 32 + pad16 (8 * p.pawns.length) + pad16 p.elems.length else 16
  | .part p => 32 + pad16 ((if p.w16 then 2 else 1) * p.codes.length)
  | .update p => 48 + pad16 (8 * p.pawns.length) + pad16 p.elems.length
  | .mark _ | .lquery _ | .lstate _ => 16

/-- 64 B cells of credit a packet takes (R359). -/
def pktCells (b : PktBody) : Nat := (pktBytes b + 63) / 64

/-- A packet of this K40 (R367). -/
def mkPkt (s : State) (dest : Nat) (b : PktBody) : Packet :=
  { hdr := { dest := dest, src := self s, hops := 0, vl := 0 }, body := b }

/-- The row a PARTIAL names. -/
def partKey (p : PartialPkt) : RowKey := { tid := p.tid, defkey := p.defkey, row := p.row }

/-! ## Partials that fold (R209, R213, R377) -/

/-- CMAX of a partial's class. -/
def partCmax (w16 : Bool) : Nat := if w16 then 32767 else 127
/-- The upper limit of the shift of R103. -/
def partTop (w16 : Bool) : Int := if w16 then 112 else 114

/-- The K40 encodes a partial of a table: LOCAL_MAX of the open step takes the largest shift of R103 (R671). -/
def noteLocalMax (tid step : Nat) (shift : Int) (s : State) : State :=
  if s.ldg.openStep = some step then
    let m := mget s.ldg.localMax tid
    let n := (shift + 141).toNat
    { s with ldg := { s.ldg with localMax := mset s.ldg.localMax tid (max (m.getD 0) n) } }
  else s

/-- Elements the K40 clamps in a partial count in SAT_ELEMS of its table (R105). -/
def countClamps (tid n : Nat) (s : State) : State :=
  if n = 0 then s
  else satCheck tid (asyMod tid (fun a => { a with satElems := satAdd 32 a.satElems n, spans := (a.saturate n).spans }) s)

/-- R213: two packets folded: the result, whether the fold rescaled, and how many elements it clamped. -/
def foldPkts (p q : PartialPkt) : PartialPkt × Bool × Nat :=
  let sp : Int := (p.exp : Int) - 141
  let sq : Int := (q.exp : Int) - 141
  let a := max sp sq
  let cmax : Int := partCmax p.w16
  let sum := (p.codes.zip q.codes).map (fun c => rshiftRound c.1 (a - sp).toNat + rshiftRound c.2 (a - sq).toNat)
  let beyond := sum.any (fun c => decide (cmax < c.natAbs))
  let out (a : Int) (cs : List Int) (r : Bool) : PartialPkt :=
    { p with exp := (a + 141).toNat, codes := cs, ownExp := p.ownExp || q.ownExp,
             rescaled := r || p.rescaled || q.rescaled, contrib := min (p.contrib + q.contrib) 65535,
             tokens := min (p.tokens + q.tokens) (pow32 - 1) }
  if !beyond then (out a sum false, false, 0)
  else if a + 1 ≤ partTop p.w16 then (out (a + 1) (sum.map (fun c => rshiftRound c 1)) true, true, 0)
  else (out a (sum.map (clampI (-cmax) cmax)) false, false, (sum.filter (fun c => decide (cmax < c.natAbs))).length)

/-- Two partials may fold in a queue (R213, R377). -/
def samePartial (p q : PartialPkt) : Bool :=
  p.tid == q.tid && p.defkey == q.defkey && p.row == q.row && p.step == q.step && p.epoch == q.epoch &&
    p.slice == q.slice && p.w16 == q.w16 && p.codes.length == q.codes.length

/-- The first of some queued partials that a new one folds into (R377). -/
def foldIn (dest : Nat) (p : PartialPkt) : Nat → List Queued → Option (Nat × PartialPkt)
  | _, [] => none
  | i, q :: r =>
    match q.pkt.body with
    | .part x => if q.pkt.hdr.dest = dest ∧ samePartial x p then some (i, x) else foldIn dest p (i + 1) r
    | _ => foldIn dest p (i + 1) r

/-- Where a new partial folds in a port's two PUSH queues: channel, position, partial. The port matches against at most 4,096
queued partials (R377): the first ones of virtual lane 0, then of 1 (the order is a DESIGN CHOICE, assumption log 8). -/
def foldSlot (dest : Nat) (p : PartialPkt) (queues : AMap (List Queued)) : Option (Nat × Nat × PartialPkt) :=
  let q0 := (mgetD queues 4 []).take 4096
  let q1 := (mgetD queues 5 []).take (4096 - q0.length)
  match foldIn dest p 0 q0 with
  | some (i, x) => some (4, i, x)
  | none => (foldIn dest p 0 q1).map (fun r => (5, r.1, r.2))

/-- Values of a partial's codes as FP32, exact. -/
def partValues (p : PartialPkt) : List W32 := p.codes.map (fun c => fScale c ((p.exp : Int) - 141))

/-! ## Outbound queues -/

/-- The channel a packet takes on a port: its class, and virtual lane 1 once it leaves its source group (R359, R366). -/
def channelOf (s : State) (port : Nat) (k : Packet) : Nat :=
  let leaves := groupOf (portAt s port).peerId != groupOf k.hdr.src
  classNo k.body * 2 + (if k.hdr.vl = 1 ∨ leaves then 1 else 0)

/-- Cells of received packets are free again: their port owes the peer their credit (R360). -/
def oweCells (l : List (Nat × Nat × Nat)) (s : State) : State :=
  l.foldl (fun t x => portMod x.1 (fun p => { p with owed := mmod p.owed x.2.1 0 (fun n => n + x.2.2) }) t) s

/-- A packet joins a port's queue; a PARTIAL folds into a queued one where it can and waits FOLD_HOLD otherwise (R377,
R378). Its virtual lane changes only as it enters the link (R366). A packet in transit keeps the cells it was received in,
`lent`, unless it folds (R360). -/
def joinQueue (lent : List (Nat × Nat × Nat)) (port : Nat) (k : Packet) (s : State) : State :=
  let qs := (portAt s port).queues
  let put (ch : Nat) (q : List Queued) (s : State) : State := portMod port (fun p => { p with queues := mset p.queues ch q }) s
  let ch := channelOf s port k
  let add (e : Bool) (s : State) : State := put ch (mgetD qs ch [] ++ [{ pkt := k, eligible := e, lent := lent }]) s
  match k.body with
  | .part p =>
    match foldSlot k.hdr.dest p qs with
    | some (c, i, x) =>
      let (y, resc, clamps) := foldPkts x p
      let s := put c (lmod (mgetD qs c []) i (fun e => { e with pkt := { e.pkt with body := .part y } })) s
      let s := if resc then asyMod p.tid (fun a => { a with rescaled := satAdd 32 a.rescaled 1 }) s else s
      let vs := partValues y
      let s := if y.codes.all (· == 0) then s else noteLocalMax p.tid p.step (ownShift (partCmax y.w16) vs) s
      countClamps p.tid clamps (countEv (islSpan port) 0x602 1 (oweCells lent s))
    | none => add (s.span.foldHold == 0) s
  | _ => add true s

/-- The place where a packet for this node itself waits to be taken: a port number of the model's own (R364). -/
def localPort : Nat := 8

/-- A packet for this node is delivered here (R364). -/
def deliver (k : Packet) (s : State) : State := portMod localPort (fun p => { p with rx := p.rx ++ [k] }) s

/-- HOME_ABSENT fires on the first packet for an unreachable node after a change of its route's state (R382). -/
def noteAbsent (d : Nat) (s : State) : State :=
  let key := routeKey s d
  if key ∈ s.span.absentFired then s
  else raise evHomeAbsent { s with span := { s.span with absentFired := s.span.absentFired ++ [key] } }

/-- Bytes 0x08 to 0x17 of a READ as two words (R369, R373). -/
def readWords (p : ReadPkt) : W64 × W64 :=
  (w64 (p.tag + p.tid * 2 ^ 20 + p.slot * 2 ^ 32 + p.slice * 2 ^ 33 + b2n p.spec * 2 ^ 36 + b2n p.place * 2 ^ 37 +
     b2n p.resync * 2 ^ 38 + b2n p.defkey * 2 ^ 39 + p.epoch * 2 ^ 40), w64 p.row)

/-- The same of a PROMOTE. -/
def keyWords (p : KeyPkt) : W64 × W64 := (w64 (p.tid + b2n p.defkey * 2 ^ 12 + p.row * 2 ^ 13), w64 p.step)

/-- The ABSENT answer to a packet that cannot reach its node, if its kind has one (R373, R382). -/
def absentFor (s : State) (k : Packet) : Option Packet :=
  let answer (tag kind : Nat) (w : W64 × W64) : Packet :=
    mkPkt s k.hdr.src (.absent { tag := tag, kind := kind, node := k.hdr.dest, w8 := w.1, w10 := w.2 })
  match k.body with
  | .read p => some (answer p.tag 1 (readWords p))
  | .promote p => some (answer 0 3 (keyWords p))
  | _ => none

/-- A packet joins the queue of its route's port, if it has one; one for this node is delivered here (R364). -/
def trySendFrom (lent : List (Nat × Nat × Nat)) (k : Packet) (s : State) : Option State :=
  if k.hdr.dest = self s then some (deliver k (oweCells lent s))
  else (routePort s k.hdr.dest).map (fun p => joinQueue lent p k s)

/-- The same for a packet that lies in no received cells. -/
def trySend (k : Packet) (s : State) : Option State := trySendFrom [] k s

/-- A packet of another node that this K40 holds and cannot send on, and its answer where that cannot be sent either (R382). -/
def unreachable (k : Packet) (s : State) : State :=
  let s := noteAbsent k.hdr.dest s
  match k.body with
  | .part p => refusePartial (partKey p) p.step s
  | _ =>
    match absentFor s k with
    | some a => (trySend a s).getD (noteAbsent a.hdr.dest s)
    | none => s

/-- Send a packet of another node on, or handle it under R382. -/
def relay (k : Packet) (s : State) : State := (trySend k s).getD (unreachable k s)

/-- Send a packet of this K40 that has no requester waiting here. -/
def sendOwn (dest : Nat) (b : PktBody) (s : State) : State := relay (mkPkt s dest b) s

end Sys2Proof.Machine
end

