-- ==== Sys2Proof/Machine/Gather.lean ====
section
/-! DEFINITION. The gather path: bag groups and columns, classification of indices, the sources of a row, Sieve windows, row
reads and their service at the home (chapters "Runs and the gather path" and "Tables, rows and homes"). -/

namespace Sys2Proof.Machine

open Sys2Proof

/-! ## Mills -/

/-- Mill `m` of a column. -/
def millOf (c : Column) (m : Nat) : Mill := mgetD c.mills m Mill.idle

/-- Change Mill `m` of column `c`. -/
def millMod (c m : Nat) (f : Mill → Mill) (s : State) : State :=
  colMod c (fun k => { k with mills := mmod k.mills m Mill.idle f }) s

/-- The work on Mill `c.m`. -/
def workOf (s : State) (c m : Nat) : Option BagWork := (millOf (colOf s c) m).work

/-- Replace the work of a Mill. -/
def setWork (c m : Nat) (w : Option BagWork) (s : State) : State := millMod c m (fun k => { k with work := w }) s

/-- The Mills run: power states P0 and P1 (R557). -/
def millsRun (s : State) : Bool := decide (s.pwr.current < 2)

/-- The Mill gives up its bag, with the tiles that hold it and the reads it has outstanding. -/
def freeMill (c m : Nat) (s : State) : State :=
  millMod c m (fun k => { k with work := none, part := none }) (dropReads (fun x y => x == c && y == m) s)

/-- A bag ends with a status on the Mill that works on it. -/
def failOn (c m : Nat) (w : BagWork) (st : Status) (s : State) : State := freeMill c m (failBag w.ord w.bag st s)

/-- The Run's last backward bag has formed its contributions: its columns flush (kind 2 of R204). -/
def lastBag (r : Run) : Bool :=
  decide ((r.bags.filter (fun p => p.2.isOver || p.2.state == .draining)).length = r.desc.nbags)

/-- A Run whose last backward bag is formed asks for its flushes. -/
def afterBag (ord : Nat) (s : State) : State :=
  match runOf s ord with
  | some r => if r.backward && lastBag r then flushFor ord s else s
  | none => s

/-! ## Bag groups (R122) -/

/-- Stream entries of a lookup: NIN to each (R516). Where a bag's entries do not divide by NIN the last ones name no lookup
(assumption log 6). -/
def lookupCount (tm : Template) (lo hi : Nat) : Nat := if tm.ninstr = 0 then hi - lo else (hi - lo) / tm.nin

/-- Lookups of a bag over all its slices (R181), as far as its offsets are known. -/
def bagLookups (r : Run) (b : Nat) : Nat :=
  ((bagEntries r b).map (fun p => lookupCount r.tmpl p.1 p.2)).getD 0 * sliceCount r.dim

/-- Lookups of a Run that wait at a column: those of the bags handed to it that no Mill holds and that are not over. -/
def runLoad (r : Run) (c : Nat) : Nat :=
  r.groups.foldl (fun n g => if g.2.col = c then
    (groupBags r g.1).foldl (fun n b => match (bagOf r b).state with
      | .pending => n + bagLookups r b
      | .held => n + bagLookups r b
      | _ => n) n else n) 0

/-- Lookups a bag on a Mill has still to complete. -/
def workLeft (r : Run) (w : BagWork) : Nat :=
  (if w.opened then w.lookups.length - w.cursor else w.lookups.length) +
    (sliceCount r.dim - w.slice - 1) * w.lookups.length

/-- Lookups outstanding on a Mill, a saved tile's among them. -/
def millLoad (s : State) (m : Mill) : Nat :=
  (m.work.toList ++ m.saved.toList).foldl (fun n w => n + ((runOf s w.ord).map (fun r => workLeft r w)).getD 0) 0

/-- Lookups outstanding at a column. -/
def colLoad (s : State) (c : Nat) : Nat :=
  (colOf s c).mills.foldl (fun n p => n + millLoad s p.2) (s.qh.runs.foldl (fun n r => n + runLoad r c) 0)

/-- A column a Run may use: in its mask and ENABLED (R113, R157). -/
def permitted (s : State) (r : Run) (c : Nat) : Bool :=
  decide (c < 40) && r.tmpl.colMask.testBit c && (colOf s c).state == .enabled

/-- The permitted columns with the fewest lookups outstanding (R122); among equals the choice is free. -/
def leastLoaded (s : State) (r : Run) (c : Nat) : Bool :=
  permitted s r c && (List.range 40).all (fun d => !permitted s r d || decide (colLoad s c ≤ colLoad s d))

/-- One step of the LFSR for a bag handed to a column, and the record of a tagged bag (R605). -/
def tagBag (r : Run) (c b : Nat) (s : State) : State :=
  if !bit s.ctr.sample 0 then s
  else
    let x := lfsrStep s.ctr.lfsr
    let s := { s with ctr := { s.ctr with lfsr := x } }
    if x.toNat % 2 ^ bits s.ctr.sample 1 5 ≠ 0 then s
    else
      let y : Sample := { ord := r.ord, bag := b, tag := r.desc.tag, template := r.desc.template, tid := r.desc.tid,
                          col := c, mill := 0, spec := r.desc.spec, redone := false, failed := false,
                          backward := r.backward, status := .ok, passes := 0, rows := 0, srcs := [], done := false }
      { s with ctr := { s.ctr with samples := s.ctr.samples ++ [y] } }

/-- The group of a Run that is handed next: one that a forced column Shutter gave back (R577), else the next of the Run; with
whether it has been forwarded. -/
def groupToHand (r : Run) : Option (Nat × Bool) :=
  match r.groups.find? (fun g => g.2.col == 40) with
  | some g => some (g.1, g.2.forwarded)
  | none => if r.nextGroup < groupCount r then some (r.nextGroup, false) else none

/-- BAG_GROUP_DISPATCH (R122, R157, R577, R605): the next group of a Run goes to a permitted column with the fewest
lookups. -/
def execBagGroupDispatch (ord col : Nat) (s : State) : Host.Outcome State Fault Refusal :=
  match runOf s ord with
  | none => .next s
  | some r =>
    match groupToHand r with
    | none => .next s
    | some (g, fwd) =>
      .next (if r.ended.isNone && leastLoaded s r col then
          let s := runMod ord (fun r => { r with
            groups := mset r.groups g { col := col, forwarded := fwd }, nextGroup := max r.nextGroup (g + 1) }) s
          ((groupBags r g).filter (fun b => (bagOf r b).state == .pending)).foldl (fun t b => tagBag r col b t) s
        else s)

/-! ## Indices (R66 to R70, R126, R127) -/

/-- An index extended to 64 bits (R66). -/
def extendIndex (is64 signed : Bool) (raw : Nat) : W64 :=
  if !is64 && signed then BitVec.ofInt 64 (sext 32 raw) else w64 raw

/-- R66: a valid row identifier, or none where the index is defaulted. -/
def classify (t : Table) (rows : Nat) (signed : Bool) (x : W64) : Option Nat :=
  if t.missingEn && x == t.missingValue then none
  else if signed && x.getLsbD 63 then none
  else if rows ≤ x.toNat then none
  else some x.toNat

/-- The identifier of one lookup from its stream entries (R127). -/
def identify (t : Table) (rows : Nat) (d : RunDesc) (tm : Template) (xs : List W64) : Option Nat :=
  if tm.ninstr = 0 then xs.head?.bind (classify t rows d.idxSigned)
  else if xs.any (fun x => (classify t rows d.idxSigned x).isNone) then none
  else classify t rows false (Config.indexProgram tm.program xs d.args)

/-- R67 to R69: the row a lookup names, or the table's default row. -/
def lookupOf (t : Table) (o : Option Nat) : Lookup :=
  match o with
  | some r => .valid r
  | none => if t.defMode then .learned else .zeroRow

/-- A lookup was defaulted. -/
def Lookup.defaulted : Lookup → Bool
  | .valid _ => false
  | .zeroRow => true
  | .learned => true

/-- The key a lookup reads, if it reads a row. -/
def Lookup.key (tid : Nat) : Lookup → Option RowKey
  | .valid r => some { tid := tid, defkey := false, row := r }
  | .zeroRow => none
  | .learned => some { tid := tid, defkey := true, row := 0 }

/-- A float element of a stream: 2 bytes are bfloat16, 4 are FP32. -/
def floatOf (bs : List Byte) : W32 :=
  if bs.length = 2 then ofBf16 (BitVec.ofNat 16 (leNat bs)) else BitVec.ofNat 32 (leNat bs)

/-- A vector of floats of `k` bytes each. -/
def floatsOf (k : Nat) (bs : List Byte) : List W32 :=
  (groupLe k (bs.length / k) bs).map (fun n => if k = 2 then ofBf16 (BitVec.ofNat 16 n) else BitVec.ofNat 32 n)

/-- Bytes of element `i` of a stream of a Run. -/
def streamElem (r : Run) (k : RangeKind) (i : Nat) : List Byte := ((streamOf r k).bind (fun x => elemOf x i)).getD []

/-- The vector a Run's operand, preload or gradient range holds for bag `b`, decoded exactly. -/
def bagVector (r : Run) (k : RangeKind) (bf16 : Bool) (b : Nat) : List W32 :=
  floatsOf (if bf16 then 2 else 4) (streamElem r k b)

/-- The lookups of a bag with their weights, 1 where the bag is unweighted. A derived identifier takes the weight of the first
of its NIN entries: each entry has a weight and the manual does not say which of them weighs it (R127; DESIGN CHOICE,
assumption log 6). -/
def lookupsOf (r : Run) (t : Table) (rows lo hi : Nat) : List (Lookup × W32) :=
  let nin := if r.tmpl.ninstr = 0 then 1 else r.tmpl.nin
  (List.range (lookupCount r.tmpl lo hi)).map (fun j =>
    let e := lo + j * nin
    let xs := (List.range nin).map (fun i =>
      extendIndex r.desc.idxW64 r.desc.idxSigned (leNat (streamElem r .index (e + i))))
    (lookupOf t (identify t rows r.desc r.tmpl xs),
      if r.desc.wgtEn then floatOf (streamElem r .weight e) else fOne))

/-- The first failure among elements of a stream. -/
def streamBad (r : Run) (k : RangeKind) (is : List Nat) : Option Status :=
  (streamOf r k).bind (fun x => (is.filterMap (badOf x)).head?)

/-- The status of the first failed stream element a bag needs (R330, R453, R627). -/
def bagBad (r : Run) (b lo hi : Nat) : Option Status :=
  let es := (List.range (hi - lo)).map (fun i => lo + i)
  let ks : List (RangeKind × List Nat) :=
    [(.index, es), (.weight, es), (.operand, [b]), (.preload, [b]), (.gradient, [b])]
  (ks.filterMap (fun p => streamBad r p.1 p.2)).head?

/-! ## Row homes under an epoch (R61, R63, R583, R588) -/

/-- The map a table's rows are found by under an epoch: the current one, or the previous one while it is kept. -/
def mapUnder (m : HomeMap) (epoch : Nat) : AMap Nat :=
  if m.epoch = epoch then m.entries
  else match m.old with
    | some (e, ep) => if ep = epoch then e else m.entries
    | none => m.entries

/-- An epoch this K40 serves for a map: the current one, or the previous one during forwarding. -/
def serves (m : HomeMap) (epoch : Nat) : Bool := m.epoch == epoch || (m.old.map (fun o => o.2 == epoch)).getD false

/-- Home of a key under an epoch. -/
def homeUnder (s : State) (t : Table) (epoch : Nat) (key : RowKey) : Nat :=
  if key.defkey then t.defHome
  else match mapOf s t with
    | some m => nodeOfShard (mapUnder m epoch) (shardSlot t key.row).1
    | none => 0

/-- Where a row of a moved shard stands at this K40. -/
inductive RowPhase where
  | here
  | notRequested (losing : Nat)
  | waiting
  | handedOver (gaining : Nat)
  deriving DecidableEq, Repr

/-- R588: the phase of a row during forwarding. -/
def rowPhase (s : State) (t : Table) (key : RowKey) : RowPhase :=
  if key.defkey then .here
  else match mapOf s t with
    | none => .here
    | some m =>
      let (shard, pos) := shardSlot t key.row
      if (key.tid, key.row) ∈ m.handed then .handedOver (nodeOfShard m.entries shard)
      else match m.inbound.find? (fun i => i.shard == shard && i.tid == key.tid) with
        | none => .here
        | some i =>
          if i.next ≤ pos then .notRequested (((m.old.map (fun o => nodeOfShard o.1 shard))).getD 0)
          else match i.rows.find? (fun x => x.row == key.row) with
            | none => .here
            | some x => if x.written || x.failed then .here else .waiting

/-! ## The KEPT and LEDGER regions (R302) -/

/-- First block of the KEPT region (R302). -/
def keptBase (s : State) : Nat := replicaBase s + regionBlocks (planReplica s.lrd.plan)

/-- First block of the LEDGER region: the holding pen of 262,144 blocks, then two spill filters of 32,768 blocks each, then
the accumulator records (R302). -/
def ledgerBase (s : State) : Nat := keptBase s + regionBlocks (planKept s.lrd.plan)

/-- A poisoned block among some (R300). -/
def poisonIn (s : State) (block n : Nat) : Option Nat :=
  s.lrd.poison.find? (fun c => decide (block ≤ c) && decide (c < block + n))

/-- The block that holds a key's bit in the spill filter of a step: the filter by the step's bit 0, bits in order (DESIGN
CHOICE, assumption log 7). -/
def filterBlock (s : State) (step : Nat) (key : RowKey) : Nat :=
  ledgerBase s + 262144 + step % 2 * 32768 + Config.filterBit key.tid key.defkey key.row % 16777216 / 512

/-- Set the filter bit of a key in the filter of a step (R273). -/
def setFilter (key : RowKey) (step : Nat) (s : State) : State :=
  let add := fun (l : List RowKey) => if key ∈ l then l else l ++ [key]
  if s.ldg.openStep = some step then { s with ldg := { s.ldg with filterOpen := add s.ldg.filterOpen } }
  else { s with ldg := { s.ldg with filterSealed := add s.ldg.filterSealed } }

/-- The filter of a step is read for a key: a bit in a poisoned word is taken as set (R299, R300). The word stays as it is
until the filter is cleared. -/
def meetFilter (key : RowKey) (step : Nat) (s : State) : State :=
  let b := filterBlock s step key
  if b ∈ s.lrd.poison then
    let s := setFilter key step (larderUe b s)
    { s with lrd := { s.lrd with poison := insAsc b s.lrd.poison } }
  else s

/-- The filters that a row read looks in: the sealed step's, and for a speculative read that of the step before the Run's where
it is open here (R24, R139, R274). -/
def meetFilters (key : RowKey) (before : Option Nat) (s : State) : State :=
  let s := match s.ldg.sealedStep with
    | some q => meetFilter key q s
    | none => s
  match before with
  | some q => if s.ldg.openStep = some q then meetFilter key q s else s
  | none => s

/-! ## Applied or not (R24, R139, R274) -/

/-- Two keys select one bit of a spill filter of 16,777,216 bits (R273). -/
def sameBit (a b : RowKey) : Bool :=
  Config.filterBit a.tid a.defkey a.row % 16777216 == Config.filterBit b.tid b.defkey b.row % 16777216

/-- A key hits the spill filter bits set by some keys (R273). -/
def filterHit (fs : List RowKey) (key : RowKey) : Bool := fs.any (fun k => k == key || sameBit k key)

/-- SPILL has ended in the running Commit. -/
def spillOver (s : State) : Bool := s.ldg.commit.phase == .shelf || s.ldg.commit.phase == .finish

/-- Journal entries of a sealed step whose redo has not been commanded (R291). -/
def redoWaits (s : State) (key : RowKey) : Bool :=
  s.ldg.commit.phase == .idle &&
    (s.ldg.journal.map (fun j => j.flushDone && j.entries.any (fun e => e.key == key))).getD false

/-- The sealed step holds an entry of the key that Commit has not applied. -/
def unapplied (s : State) (key : RowKey) : Bool :=
  match s.ldg.sealedStep with
  | none => false
  | some q =>
    s.ldg.entries.any (fun e => e.key == key && e.step == q) || s.ldg.commit.todo.any (fun e => e.key == key) ||
      s.ldg.commit.batch.any (fun e => e.key == key) || redoWaits s key ||
      (!spillOver s && filterHit s.ldg.filterSealed key && !(s.ldg.commit.spillDone.any (fun k => k == key)))

/-- The Ledger here holds an entry of step `q` for a row that Commit has not applied (R24): the sealed step's, or one of the
step that is still open here. -/
def heldFor (s : State) (q : Nat) (key : RowKey) : Bool :=
  if s.ldg.sealedStep = some q then unapplied s key
  else decide (s.ldg.openStep = some q) &&
    (s.ldg.entries.any (fun e => e.key == key && e.step == q) || filterHit s.ldg.filterOpen key)

/-- The step before a step, modulo 2^32. -/
def stepBefore (step : Nat) : Nat := (step + pow32 - 1) % pow32

/-- The step before this one is sealed here. -/
def sealedBefore (s : State) (step : Nat) : Bool := (s.ldg.sealedStep.map (fun q => (q + 1) % pow32 == step)).getD false

/-! ## Sieve windows (R131 to R134, R181, R201) -/

/-- A backward Run reads a row only when its template forms weight gradients (R195). -/
def needsRows (r : Run) : Bool := !r.backward || r.tmpl.wgrad

/-- A lookup of slice `k` of a Run as a window sees it. -/
def windowKey (r : Run) (k : Nat) (key : RowKey) : SieveKey :=
  { step := r.desc.step, backward := r.backward, key := key, slot := r.slot, epoch := r.epoch, slice := k, reads := needsRows r }

/-- What a Sieve line is kept under: one version slot and one bound epoch (R133). -/
def SieveKey.line (k : SieveKey) : SieveKey := { k with step := 0, backward := false }

/-- Two lookups read one line. -/
def SieveKey.shares (k x : SieveKey) : Bool := x.reads && k.line == x.line

/-- The lookups of slice `k` of a bag from its `i`-th to before its `j`-th; a zero default row has no key. -/
def sliceKeys (r : Run) (ls : List (Lookup × W32)) (k i j : Nat) : List (Option SieveKey) :=
  ((ls.take j).drop i).map (fun l => (l.1.key r.desc.tid).map (windowKey r k))

/-- Every slice of a bag from the `k`-th on. -/
def slicesFrom (r : Run) (ls : List (Lookup × W32)) (k : Nat) : List (Option SieveKey) :=
  (List.range (sliceCount r.dim - k)).flatMap (fun i => sliceKeys r ls (k + i) 0 ls.length)

/-- Lookups of the pass that the window has: issued, or consumed where the Run reads no row; those made again after a restore
are counted already (R190). -/
def madeOf (r : Run) (w : BagWork) : Nat := if needsRows r then max w.issued w.counted else w.cursor

/-- The lookups a Mill's work has still to make. -/
def workKeys (s : State) (w : BagWork) : List (Option SieveKey) :=
  match runOf s w.ord with
  | none => []
  | some r =>
    if w.opened then sliceKeys r w.lookups w.slice (madeOf r w) w.lookups.length ++ slicesFrom r w.lookups (w.slice + 1)
    else slicesFrom r w.lookups w.slice

/-- The lookups a Mill's work has made and not consumed. -/
def openKeys (s : State) (w : BagWork) : List (Option SieveKey) :=
  match runOf s w.ord with
  | none => []
  | some r => if w.opened then sliceKeys r w.lookups w.slice w.cursor (madeOf r w) else []

/-- The works on a column's Mills. -/
def Column.works (c : Column) : List BagWork := c.mills.filterMap (fun p => p.2.work)

/-- The lookups of the bags a column holds and has not started, those released for recomputation among them (R144). -/
def queuedKeys (s : State) (c : Nat) : List (Option SieveKey) :=
  s.qh.runs.flatMap (fun r =>
    match mget s.tables r.desc.tid with
    | none => []
    | some t =>
      r.groups.flatMap (fun g =>
        if g.2.col = c ∧ g.2.forwarded then
          (groupBags r g.1).flatMap (fun b =>
            if (bagOf r b).state = .pending ∨ ((bagOf r b).state = .held ∧ (r.ord, b) ∈ (colOf s c).redo) then
              match bagEntries r b with
              | some (lo, hi) => slicesFrom r (lookupsOf r t (vslot t r.slot).rows lo hi) 0
              | none => []
            else [])
        else []))

/-- The lookups a column has queued: those of bags being pooled, then those of bags that wait. -/
def aheadKeys (s : State) (c : Nat) : List (Option SieveKey) := (colOf s c).works.flatMap (workKeys s) ++ queuedKeys s c

/-- What the present window has room for of the lookups queued (R131). -/
def windowAhead (s : State) (c : Nat) : List (Option SieveKey) :=
  (aheadKeys s c).take (4096 - (colOf s c).window.length)

/-- The present window: the lookups made, and those queued that it has room for (R131). -/
def windowOf (s : State) (c : Nat) : List (Option SieveKey) := (colOf s c).window ++ windowAhead s c

/-- Uses of each key in a window, in order of first use. -/
def countUses : List SieveKey → List (SieveKey × Nat) → List (SieveKey × Nat)
  | [], acc => acc
  | k :: r, acc =>
    if acc.any (fun p => p.1 == k) then countUses r (acc.map (fun p => if p.1 = k then (p.1, p.2 + 1) else p))
    else countUses r (acc ++ [(k, 1)])

/-- Insertion in descending order of use count, equal counts in order of first use. -/
def insUses (x : SieveKey × Nat) : List (SieveKey × Nat) → List (SieveKey × Nat)
  | [] => [x]
  | y :: r => if y.2 < x.2 then x :: y :: r else y :: insUses x r

/-- Candidates for the store: rows used more than once, heaviest first (R132). -/
def candidates (us : List (SieveKey × Nat)) : List (SieveKey × Nat) :=
  (us.filter (fun p => decide (1 < p.2))).foldl (fun acc p => insUses p acc) []

/-- The class of a row this K40 homes, from its directory entry; of another node's row the manual does not say how the Sieve
knows it before the fetch (assumption log 40). -/
def classAt (s : State) (t : Table) (k : SieveKey) : RowClass :=
  if k.key.defkey then .w32
  else if homeUnder s t k.epoch k.key ≠ self s then classOf (Config.remoteClass k.key.tid k.key.row % 4)
  else match dirIndex s t k.key.row with
    | some ix => (readDir s (dirAddr (vslot t k.slot) ix)).cls
    | none => .w32

/-- Bytes of a row slice. -/
def sliceBytes (s : State) (k : SieveKey) : Nat :=
  match mget s.tables k.key.tid with
  | none => 0
  | some t => 16 + elemBytes (classAt s t k) (sliceLen t.dim k.slice)

/-- Fill 32 KiB until the next row would not fit (R132). -/
def fillStore (s : State) : Nat → List (SieveKey × Nat) → List SieveKey
  | _, [] => []
  | room, p :: r => if sliceBytes s p.1 ≤ room then p.1 :: fillStore s (room - sliceBytes s p.1) r else []

/-- The rows the Sieve pins of a window: its repeated rows by use count (R132). -/
def pinned (s : State) (c : Nat) : List SieveKey :=
  let ks := (windowOf s c).filterMap (fun k => k.bind (fun k => if k.reads then some k.line else none))
  fillStore s 32768 (candidates (countUses ks []))

/-- The line of a store. -/
def Pin.holds (p : Pin) (k : SieveKey) : Bool :=
  p.key == k.key && p.slot == k.slot && p.epoch == k.epoch && p.slice == k.slice

/-- The pin of a key. -/
def pinOf (c : Column) (k : SieveKey) : Option Pin := c.pins.find? (fun p => p.holds k)

/-- The key of a pin. -/
def Pin.line (p : Pin) : SieveKey :=
  { step := 0, backward := false, key := p.key, slot := p.slot, epoch := p.epoch, slice := p.slice, reads := true }

/-- Pins come into a store one after another, while they fit. -/
def addPins (s : State) (ks : List SieveKey) (ps : List Pin) : List Pin :=
  ks.foldl (fun ps k =>
    let used := ps.foldl (fun n p => n + sliceBytes s p.line) 0
    if ps.any (fun p => p.holds k) ∨ 32768 < used + sliceBytes s k then ps
    else ps ++ [{ key := k.key, slot := k.slot, epoch := k.epoch, slice := k.slice, data := none }]) ps

/-- The tag table has taken in the lookups that have reached the column: rows that they repeat in the present window are
pinned (R131, R132). -/
def fillSieve (c : Nat) (s : State) : State :=
  let ahead := windowAhead s c
  let new := (pinned s c).filter (fun k => ahead.any (fun x => (x.map k.shares).getD false))
  colMod c (fun k => { k with pins := addPins s new k.pins }) s

/-- One lookup of the window is made. -/
def useWindow (c : Nat) (x : Option SieveKey) (s : State) : State := colMod c (fun k => { k with window := k.window ++ [x] }) s

/-- A column has lookups queued. -/
def moreLookups (s : State) (c : Nat) : Bool := !(aheadKeys s c).isEmpty

/-- SIEVE_WINDOW_CLOSE (R131, R134): a full window, or a short one with no further lookups queued; its pins are freed. -/
def execSieveWindowClose (col : Nat) (s : State) : Host.Outcome State Fault Refusal :=
  let w := (colOf s col).window
  .next (if decide (col < 40) && (decide (4096 ≤ w.length) || (!w.isEmpty && !moreLookups s col)) then
      colMod col (fun k => { k with window := [], pins := [] }) s
    else s)

/-- Change the pin of a key. -/
def pinMod (col : Nat) (k : SieveKey) (f : Pin → Pin) (s : State) : State :=
  colMod col (fun c => { c with pins := lmap c.pins (fun p => p.holds k) f }) s

/-- A pinned row has uses of the window left: lookups made and not consumed, or lookups still to come. -/
def pinUsed (s : State) (c : Nat) (k : SieveKey) : Bool :=
  ((colOf s c).works.flatMap (openKeys s) ++ windowAhead s c).any (fun x => (x.map k.shares).getD false)

/-- A use of a row has been consumed; the last one in the window frees its pin (R134). -/
def freePin (col : Nat) (k : SieveKey) (s : State) : State :=
  if pinUsed s col k then s else colMod col (fun c => { c with pins := c.pins.filter (fun p => !p.holds k) }) s

/-- The Sieve key of a read of a work. -/
def sieveKey (r : Run) (w : BagWork) (key : RowKey) : SieveKey := { windowKey r w.slice key with reads := true }

/-- A pinned row's fetch is on its way on some Mill of the column. -/
def fetching (s : State) (c : Nat) (k : SieveKey) : Bool :=
  (colOf s c).works.any (fun w => match runOf s w.ord with
    | none => false
    | some r => k.shares (sieveKey r w k.key) && w.reads.any (fun x => x.key == k.key && !x.answered))

/-! ## Events of a column -/

/-- Count a column event, or hold it for a speculative bag (R597). -/
def colEvent (c code n : Nat) (spec : Bool) (w : BagWork) (s : State) : BagWork × State :=
  if spec then ({ w with events := w.events ++ [(code, n)] }, s) else (w, countEv c code n s)

/-- A lookup is made: it counts in the column's events and window, once where a restored tile makes it again (R131, R190,
R597). `src`: the source of the row it reads. -/
def countLookup (col : Nat) (r : Run) (w : BagWork) (src : Option RowSource) (k : Option SieveKey) (s : State) :
    BagWork × State :=
  if w.issued < w.counted then (w, s)
  else
    let (w, s) := colEvent col 0x100 1 r.desc.spec w s
    let (w, s) := match src with
      | none => (w, s)
      | some src => colEvent col (if src = RowSource.sieve then 0x102 else 0x101) 1 r.desc.spec w s
    ({ w with counted := w.issued + 1 }, useWindow col k s)

/-! ## Reading stream data again (R172, R173) -/

/-- A stream whose elements a replay or a recomputation reads again, and which of them: the bag's index and weight entries and
its preload vector. -/
def againElems (x : Stream) (b lo hi : Nat) : Option (Nat × Nat) :=
  match x.kind with
  | .index | .weight => some (lo, hi - lo)
  | .preload => some (b, 1)
  | _ => none

/-- Some stream that is to be read again has no translation at the moment. -/
def againWaits (r : Run) : Bool :=
  r.streams.any (fun x => (x.stale || x.stalled || x.replay) && (againElems x 0 0 0).isSome)

/-- One piece of a stream is read again. -/
def againPiece (ord i : Nat) (x : Stream) (v : ChipView) (p : Nat × Nat × Nat) (s : State) : State :=
  match targetOf s p.2.1 p.2.2 with
  | .hbm => fromHbm ord i p.1 (p.2.1 - hbmLocal) p.2.2 x.elem (streamHint s ord x.kind) s
  | .none => beyondHbm ord i p.1 p.2.2 x.elem s
  | .chip => streamAt ord i (fun y => { y with
      got := putBytes y.got p.1 (viewBytes v p.2.1 p.2.2),
      badElems := if v.err then y.badElems ++ (elemsIn x.elem p.1 p.2.2).map (fun e => (e, Status.uncorrectable))
        else y.badElems }) s

/-- A stream's elements from the `k`-th on are read again through the Run's translation; `v` is what chip memory holds. -/
def againStream (ord i k n : Nat) (x : Stream) (v : ChipView) (s : State) : State :=
  let s := streamAt ord i (fun y => { y with badElems := y.badElems.filter (fun e => e.1 < k || k + n ≤ e.1) }) s
  if n = 0 then s
  else (chunkPieces x.xlat x.da (k * x.elem) (n * x.elem)).foldl (fun t p => againPiece ord i x v p t) s

/-- A replay or a recomputation of bag `b` reads its entries again. -/
def readAgain (r : Run) (b lo hi : Nat) (v : ChipView) (s : State) : State :=
  (r.streams.zip (List.range r.streams.length)).foldl (fun t p => match againElems p.1 b lo hi with
    | some (k, n) => againStream r.ord p.2 k n p.1 v t
    | none => t) s

/-! ## Starting a bag (R124, R142, R179, R182, R199) -/

/-- The first bag up to `b` whose offsets are wrong (R124). -/
def firstBadOffset (r : Run) (b : Nat) : Option Nat :=
  (List.range (b + 1)).find? (fun i => match bagEntries r i with
    | some (lo, hi) => offsetsBad r i lo hi && (streamBad r .offsets [i, i + 1]).isNone
    | none => false)

/-- Rows in a column's wait list. -/
def waitRows (c : Column) : Nat := c.wait.foldl (fun n w => n + w.rows.length) 0

/-- R142: the wait list is at a limit. -/
def waitFull (c : Column) : Bool := decide (256 ≤ c.wait.length) || decide (1024 ≤ waitRows c)

/-- Some Mill of a column works for a Run of this direction. -/
def worksFor (s : State) (c : Nat) (backward : Bool) : Bool :=
  (colOf s c).mills.any (fun p =>
    (match p.2.work with
      | some w => ((runOf s w.ord).map (fun r => r.backward == backward)).getD false
      | none => false) ||
    (!backward && p.2.token.isSome))

/-- A stalled bag's finished tile waits on the Mill: it starts no new bag meanwhile (R187). -/
def millStalled (s : State) (m : Mill) : Bool :=
  match m.token with
  | none => false
  | some (ord, _, _) => ((runOf s ord).map (fun r => r.streams.any (fun x => x.write && x.stalled))).getD false

/-- A Mill that may take a bag: active, with no bag, nothing saved and no stalled tile (R155, R187, R188). -/
def millFree (s : State) (c : Column) (m : Nat) : Bool :=
  decide (m < 32) && c.active.testBit m && (millOf c m).work.isNone && (millOf c m).saved.isNone && !millStalled s (millOf c m)

/-- The bag waits at this column: forwarded and not started, or released for recomputation (R144). -/
def bagWaits (s : State) (col : Nat) (r : Run) (b : Nat) : Bool :=
  match mget r.groups (b / 64) with
  | none => false
  | some g =>
    g.col == col && g.forwarded && decide (b < r.desc.nbags) &&
      ((bagOf r b).state == .pending || ((bagOf r b).state == .held && (r.ord, b) ∈ (colOf s col).redo))

/-- The accumulator at the start of a slice (R161, R175, R176). A backward bag keeps its weight-gradient sums. -/
def accStart (r : Run) (b k n : Nat) : List W32 :=
  if r.desc.preEn ∧ (r.tmpl.red = .sum ∨ r.tmpl.red = .sumsq) then
    ((bagVector r .preload r.desc.preBf16 b).drop (1024 * k)).take n
  else List.replicate n (if r.tmpl.red = .max then fNegInf else 0)

/-- Open slice `k` of a work (R179). -/
def BagWork.openSlice (w : BagWork) (r : Run) (k : Nat) : BagWork :=
  let n := sliceLen r.dim k
  { w with
    slice := k, opened := true, issued := 0, cursor := 0, counted := 0, k := 0,
    acc := if r.backward then w.acc else accStart r w.bag k n,
    tally := List.replicate n 0, second := List.replicate n 0, tallyUsed := false, reads := [], provNow := [] }

/-- The work of a bag at its start (R171). -/
def BagWork.start (r : Run) (b : Nat) (ls : List (Lookup × W32)) : BagWork :=
  let w : BagWork := {
    ord := r.ord, bag := b, slice := 0, floor := r.desc.tallyFloor, passes := 0, lookups := ls,
    issued := 0, cursor := 0, k := 0, acc := if r.backward then List.replicate ls.length 0 else [], tally := [],
    second := [], tallyUsed := false, reads := [], prov := [], result := [], result2 := [], failed := none,
    opened := false, provNow := [], events := [], keep := [], counted := 0 }
  w.openSlice r 0

/-- The sample record of a tagged bag takes its Mill and rows; a recomputation starts it afresh (R606). -/
def sampleStart (ord b col mill rows : Nat) (redo : Bool) (s : State) : State :=
  let l := lmap s.ctr.samples (fun x => x.ord == ord && x.bag == b && !x.done)
    (fun x => { x with col := col, mill := mill, rows := rows, srcs := [], redone := redo })
  { s with ctr := { s.ctr with samples := l } }

/-- A bag whose offsets and stream data are good starts on a Mill, its indices classified. -/
def openBag (col mill b : Nat) (redo : Bool) (r : Run) (t : Table) (lo hi : Nat) (s : State) : State :=
  match bagBad r b lo hi with
  | some st => afterBag r.ord (failBag r.ord b st s)
  | none =>
    let ls := lookupsOf r t (vslot t r.slot).rows lo hi
    let s := bagMod r.ord b (fun i => { i with state := .started, redone := i.redone || redo }) s
    let s := colMod col (fun c => { c with backward := r.backward }) s
    setWork col mill (some (BagWork.start r b ls)) (sampleStart r.ord b col mill ls.length redo s)

/-- Start bag `b` on a Mill: offsets checked, and for a recomputation the bag's entries read again (R124, R144, R173). -/
def startBag (col mill b : Nat) (r : Run) (t : Table) (v : ChipView) (s : State) : State :=
  let redo := decide ((r.ord, b) ∈ (colOf s col).redo)
  match streamBad r .offsets [b, b + 1] with
  | some st => afterBag r.ord (failBag r.ord b st s)
  | none =>
    match firstBadOffset r b with
    | some b0 => afterBag r.ord (failFrom r.ord b0 .badDescriptor s)
    | none =>
      match bagEntries r b with
      | none => s
      | some (lo, hi) =>
        if !redo then openBag col mill b false r t lo hi s
        else if againWaits r then s
        else
          let s := colMod col (fun c => { c with redo := c.redo.filter (fun p => p != (r.ord, b)) }) s
          let s := readAgain r b lo hi v s
          openBag col mill b true ((runOf s r.ord).getD r) t lo hi s

/-- The column's service direction lets a bag of this Run start; a forward bag at a column in backward service asks for the
flush the switch needs (R199, R204). -/
def directionOk (s : State) (col : Nat) (r : Run) : Bool :=
  let c := colOf s col
  if r.backward then c.backward || !worksFor s col false
  else !c.backward || (!worksFor s col true && c.merge.isEmpty)

/-- BAG_START (R124, R142, R157, R171, R173, R179, R182, R187, R199). -/
def execBagStart (col mill ord : Nat) (b : BagIn) (s : State) : Host.Outcome State Fault Refusal :=
  let c := colOf s col
  let m := millOf c mill
  match runOf s ord, m.work with
  | some r, some w =>
    .next (if w.ord == ord && w.bag == b.bag && !w.opened && millsRun s
      then setWork col mill (some (w.openSlice r w.slice)) s else s)
  | some r, none =>
    match mget s.tables r.desc.tid with
    | none => .next s
    | some t =>
      .next (if !(r.ended.isNone && millsRun s && millFree s c mill && bagWaits s col r b.bag &&
            (c.state == .enabled || c.state == .shuttering) && !(r.desc.spec && waitFull c)) then s
        else if directionOk s col r then startBag col mill b.bag r t b.v s
        else if !r.backward && !worksFor s col true then colMod col (fun k => { k with flushDue := true }) s
        else s)
  | none, _ => .next s

/-! ## Row reads (R128 to R137) -/

/-- Rounded up to the 64 B granules of the row buffers. -/
def up64 (n : Nat) : Nat := (n + 63) / 64 * 64

/-- Row-buffer bytes a work's reads take. -/
def bufferUsed (w : BagWork) (n : Nat) : Nat :=
  w.reads.foldl (fun k x => k + (match x.data with
    | some d => up64 (16 + d.elems.length)
    | none => if x.answered then 0 else up64 (16 + 4 * n))) 0

/-- Row requests in flight: reads of Mills without an answer, migration and placement reads (R33). -/
def inFlight (s : State) : Nat :=
  s.cols.foldl (fun n p => p.2.mills.foldl (fun n q => match q.2.work with
    | some w => n + (w.reads.filter (fun x => !x.answered)).length
    | none => n) n) 0 +
  (s.span.reqs.filter (fun q => match q.purpose with
    | .mill _ _ _ _ => false
    | _ => true)).length

/-- A slice of a whole row held in a replica. -/
def cutSlice (t : Table) (d : RowSlice) (k : Nat) : RowSlice :=
  let cls := (hdrOf d.header).cls
  { d with
    pawns := d.pawns.filter (fun p => decide (1024 * k ≤ pawnElem p) && decide (pawnElem p < 1024 * k + sliceLen t.dim k)),
    elems := (d.elems.drop (sliceOfs cls k)).take (elemBytes cls (sliceLen t.dim k)) }

/-- The kept copy a backward Run may use (R128, R137). -/
def keptFor (s : State) (r : Run) (key : RowKey) (k : Nat) : Option KeptRow :=
  if !r.backward then none
  else s.lrd.kept.find? (fun x => x.step == r.desc.step && x.tid == key.tid && x.slot == r.slot && x.row == key.row &&
    x.defkey == key.defkey && x.slice == k)

/-- A replica a Run of step u may read: its home synchronised and a mark of step u − 1 or later held (R25, R283, R389). -/
def replicaFor (s : State) (r : Run) (key : RowKey) : Option Replica :=
  match s.lrd.replicas.find? (fun x => x.tid == key.tid && x.slot == r.slot && x.row == key.row &&
      x.defkey == key.defkey) with
  | none => none
  | some x =>
    let before := stepBefore r.desc.step
    let fresh := (x.placed.map (fun p => stepGe p before)).getD false || (match mget s.span.marks (x.home * 4096 + key.tid) with
      | some m => stepGe m before
      | none => false)
    if (mget s.span.cseqIn x.home).isSome && fresh then some x else none

/-- Where a Mill's read goes. -/
inductive Found where
  | pin (d : RowSlice) (prov : Bool)
  | pinWait
  | data (src : RowSource) (d : RowSlice)
  | localHome (src : RowSource)
  | remote (node : Nat)
  deriving DecidableEq, Repr

/-- The tier a home row is read from. -/
def localTier (s : State) (t : Table) (slot : Nat) (key : RowKey) : RowSource :=
  if key.defkey then .hbm
  else match dirIndex s t key.row with
    | some ix => if (readDir s (dirAddr (vslot t slot) ix)).tier = 1 then .larder else .hbm
    | none => .hbm

/-- The node that holds a row for a Mill of this K40: its home under the bound epoch, or where R588 sends the read. A Mill's
read of a row this K40 has yet to fetch waits here until the row is written. -/
def holderOf (s : State) (t : Table) (epoch : Nat) (key : RowKey) : Nat :=
  let h := homeUnder s t epoch key
  if h ≠ self s then h
  else match rowPhase s t key with
    | .handedOver n => n
    | _ => h

/-- The first source of R128 that holds a row for a lookup of a work. -/
def findRow (s : State) (col : Nat) (r : Run) (w : BagWork) (t : Table) (key : RowKey) : Found :=
  let sk := sieveKey r w key
  let rest :=
    match keptFor s r key w.slice with
    | some x => .data .kept x.data
    | none =>
      let h := holderOf s t r.epoch key
      if h = self s then .localHome (localTier s t r.slot key)
      else match replicaFor s r key with
        | some x => .data .replica (cutSlice t x.data w.slice)
        | none => .remote h
  match pinOf (colOf s col) sk with
  | none => rest
  | some p =>
    match p.data with
    | some (d, prov) => .pin d prov
    | none => if fetching s col sk then .pinWait else rest

/-- R299: a kept copy found uncorrectable is counted and dropped with the row's other slices; the row is gathered again. -/
def lostKept (s : State) (r : Run) (w : BagWork) (key : RowKey) : State :=
  match keptFor s r key w.slice with
  | none => s
  | some x =>
    match poisonIn s x.block (blocksOf x.size) with
    | none => s
    | some c =>
      let s := larderUe c s
      { s with lrd := { s.lrd with kept := s.lrd.kept.filter (fun y => y.block != x.block) } }

/-- R299: the replica a read takes, or the index bucket it looks in, is poisoned: it is counted, the replica or all the
bucket's replicas are removed and counted in REPLICA_DROPPED, and the row comes from its home. -/
def loseReplicas (p : Replica → Bool) (s : State) : State :=
  let gone := s.lrd.replicas.filter p
  countReplicaDropped gone.length { s with lrd := { s.lrd with replicas := s.lrd.replicas.filter (fun x => !p x) } }

/-- The replica index is read for a lookup that reaches it (R128, R308). -/
def lostReplica (s : State) (r : Run) (key : RowKey) : State :=
  let b := bucketOf s key.tid r.slot key.row
  if bucketBlock s b ∈ s.lrd.poison then loseReplicas (fun x => x.bucket == b) (larderUe (bucketBlock s b) s)
  else match replicaFor s r key with
    | none => s
    | some x =>
      match poisonIn s x.block (blocksOf (x.size + 16)) with
      | none => s
      | some c => loseReplicas (· == x) (larderUe c s)

/-- A lookup that neither a pin, a kept copy nor this K40's own tables serve reads the replica index (R128, R308). -/
def readReplicas (col : Nat) (r : Run) (w : BagWork) (t : Table) (key : RowKey) (s : State) : State :=
  match findRow s col r w t key with
  | .data .replica _ => lostReplica s r key
  | .remote _ => lostReplica s r key
  | _ => s

/-- A home map or ordinal table is damaged: the Clerk logs it, and its slot is unusable until the map is installed again
(R331). -/
def loseMap (map : Nat) (s : State) : State :=
  match mget s.maps map with
  | none => s
  | some m =>
    if m.unusable then s else logOpen 2 map { s with maps := mset s.maps map { m with unusable := true } }

/-- The home map's entry of a row's shard is read through the front cache as KEEP, and at its home the ordinal table's behind it
(R59, R60, R325, R331). The entries are 2 B each. -/
def readMap (t : Table) (key : RowKey) (home : Bool) (s : State) : State :=
  match if key.defkey then none else mapOf s t with
  | none => s
  | some m =>
    let a := m.loc + 2 * (shardSlot t key.row).1
    (if home then [a, a + 131072] else [a]).foldl (fun s a =>
      if (poisonedAt s a 2).isSome then loseMap t.homeMap (countPoisons (poisonsAt s a 2) s) else frontRead 2 false a 2 s) s

/-- A lookup that neither a pin nor a kept copy serves looks for its row's home. -/
def readHomeMap (col : Nat) (r : Run) (w : BagWork) (t : Table) (key : RowKey) (s : State) : State :=
  match findRow s col r w t key with
  | .pin _ _ => s
  | .pinWait => s
  | .data .kept _ => s
  | _ => readMap t key false s

/-- What a lookup finds poisoned on its way through the sources of R128 is dropped: a kept copy, the map slot, then a replica
or its index bucket (R299, R300, R331). -/
def readIndex (col : Nat) (r : Run) (w : BagWork) (t : Table) (key : RowKey) (s : State) : State :=
  readReplicas col r w t key (readHomeMap col r w t key (match findRow s col r w t key with
    | .data .kept _ => lostKept s r w key
    | _ => s))

/-- Record a read in a work. -/
def BagWork.addRead (w : BagWork) (x : MillRead) : BagWork := { w with reads := w.reads ++ [x], issued := w.issued + 1 }

/-- A free request slot, with its tag (R369). -/
def freeTag (s : State) : Option Nat :=
  let n := firstFree (s.span.reqs.map (fun q => q.tag % 16384)) 16384 0
  if 16384 ≤ n then none else some (n + mgetD s.span.gens n 0 * 16384)

/-- Send a READ of this K40; none where its home cannot be reached (R382). -/
def sendRead (node : Nat) (p : ReadPkt) (purpose : ReqFor) (s : State) : Option State :=
  (trySend (mkPkt s node (.read p)) s).map (fun s =>
    { s with span := { s.span with reqs := s.span.reqs ++ [{ tag := p.tag, node := node, pkt := p, purpose := purpose }] } })

/-- The READ of a lookup (R369). -/
def readPktOf (r : Run) (w : BagWork) (key : RowKey) (tag : Nat) : ReadPkt :=
  { tag := tag, tid := key.tid, slot := r.slot, slice := w.slice, spec := r.desc.spec, place := false, resync := false,
    defkey := key.defkey, epoch := r.epoch, row := key.row, step := r.desc.step }

/-- A read serves its row's last use in the present Sieve window: a pinned row's one fetch serves every use of it, and any
other read serves the last when no later lookup of the window names the row (R327). The lookup itself is the first of those
queued, unless a restored tile makes it again. -/
def lastUse (s : State) (r : Run) (w : BagWork) (col : Nat) (key : RowKey) : Bool :=
  let k := sieveKey r w key
  let uses := (windowAhead s col).filter (fun x => (x.map k.shares).getD false)
  (pinOf (colOf s col) k).isSome || decide (uses.length ≤ if w.issued < w.counted then 0 else 1)

/-- The HomeRead of a lookup of a Mill. -/
def homeReadOf (s : State) (r : Run) (w : BagWork) (col mill : Nat) (key : RowKey) : HomeRead :=
  { origin := .mill col mill w.issued, key := key, slot := r.slot, slice := w.slice, spec := r.desc.spec, place := false,
    resync := false, epoch := r.epoch, step := r.desc.step, migrate := false,
    hint := effHint r.desc.hintRows r.tmpl.hintRows, last := lastUse s r w col key, asked := false }

/-- A row read of a known key. A use of a pinned row takes the line with the mark its fetch brought (R140): also where a Run
that is not speculative, or one of another step, fetched it, which R140 does not distinguish (DESIGN CHOICE, assumption
log 40). -/
def issueRead (col mill : Nat) (r : Run) (w : BagWork) (t : Table) (key : RowKey) (s : State) : State :=
  let put (src : RowSource) (ans : Option (Status × Option RowSlice)) (prov : Bool) (s : State) : State :=
    let x : MillRead := { pos := w.issued, key := key, source := src, answered := ans.isSome,
                          status := (ans.map Prod.fst).getD .ok, prov := prov, data := ans.bind Prod.snd }
    let (w, s) := countLookup col r w (some src) (some (windowKey r w.slice key)) s
    setWork col mill (some (w.addRead x)) s
  let room := decide (inFlight s < 16384) &&
    decide (bufferUsed w (sliceLen r.dim w.slice) + up64 (16 + 4 * sliceLen r.dim w.slice) ≤ 28672)
  match findRow s col r w t key with
  | .pin d prov => put .sieve (some (.ok, some d)) prov s
  | .pinWait => s
  | .data src d =>
    let s := if room then put src (some (.ok, some d)) false s else s
    if room ∧ (pinOf (colOf s col) (sieveKey r w key)).isSome then
      pinMod col (sieveKey r w key) (fun p => { p with data := some (d, false) }) s
    else s
  | .localHome src =>
    if room then
      put src none false { s with span := { s.span with homeReads := s.span.homeReads ++ [homeReadOf s r w col mill key] } }
    else s
  | .remote node =>
    if !room then s
    else match freeTag s with
      | none => s
      | some tag =>
        match sendRead node (readPktOf r w key tag) (.mill col mill w.issued w.slice) s with
        | some s' => put .remote none false s'
        | none => put .remote (some (.homeAbsent, none)) false (noteAbsent node s)

/-- ROW_READ_ISSUE (R33, R66, R126 to R128, R132, R137, R195): the next lookup of a Mill's bag goes to its source. A zero
default row needs no read (R68). -/
def execRowReadIssue (col mill : Nat) (s : State) : Host.Outcome State Fault Refusal :=
  match workOf s col mill with
  | none => .next s
  | some w =>
    match runOf s w.ord, w.lookups[w.issued]? with
    | some r, some l =>
      match mget s.tables r.desc.tid with
      | none => .next s
      | some t =>
        if !(w.opened && millsRun s && needsRows r && decide ((colOf s col).window.length < 4096)) then .next s
        else
          let s := fillSieve col s
          match l.1.key r.desc.tid with
          | some key => .next (issueRead col mill r w t key (readIndex col r w t key s))
          | none =>
            let (w, s) := countLookup col r w none none s
            let x : MillRead := { pos := w.issued, key := { tid := r.desc.tid, defkey := true, row := 0 },
                                  source := .sieve, answered := true, status := .ok, prov := false, data := none }
            .next (setWork col mill (some (w.addRead x)) s)
    | _, _ => .next s

/-- An answer reaches the Mill that waits for it; a pinned row's first fetch fills its line, with its mark (R132, R140). -/
def answerMill (col mill pos : Nat) (key : RowKey) (slice : Nat) (st : Status) (prov : Bool) (d : Option RowSlice)
    (s : State) : State :=
  match workOf s col mill with
  | none => s
  | some w =>
    let mine := fun (x : MillRead) => x.pos == pos && x.key == key && !x.answered
    if w.slice ≠ slice ∨ !(w.reads.any mine) then s
    else
      let l := lmap w.reads mine (fun x => { x with answered := true, status := st, prov := prov, data := d })
      let s := setWork col mill (some { w with reads := l }) s
      match runOf s w.ord, d with
      | some r, some y =>
        if st = .ok then pinMod col (sieveKey r w key) (fun p => { p with data := some (p.data.getD (y, prov)) }) s else s
      | _, _ => s

/-! ## Service at the home (R24, R44, R55, R58, R64, R139, R140, R282, R310, R585) -/

/-- Read a row from its Larder copy: the bytes of the HBM row, its Pawn entries and BASE_EXP from the shelf (R284). -/
def readCopy (s : State) (t : Table) (v : VSlot) (e : DirEnt) (c : LCopy) (k : Option Nat) : RowRead :=
  let h := hdrOf (BitVec.ofNat 128 (leNat (c.bytes.take 16)))
  if h.poisoned then .fail .poisoned none
  else
    let pawns := pawnsOf s t v e.shelf h
    let whole := c.bytes.drop 16
    if !rowSound t e h pawns whole then .fail .uncorrectable none
    else
      let d : RowSlice := { header := hdrBits h, baseExp := (readShelf s v e.shelf).baseExp, pawns := pawns, elems := whole }
      match k with
      | some k => .ok (cutSlice t d k)
      | none => .ok d

/-- A Larder copy with no poisoned word (R300). -/
def soundCopy (s : State) (c : LCopy) : Bool :=
  (poisonIn s c.block (blocksOf c.bytes.length)).isNone

/-- The Larder copy of a home row a read would take (R128). -/
def copyOfRow (s : State) (t : Table) (slot : Nat) (key : RowKey) : Option LCopy :=
  if key.defkey then none
  else match dirIndex s t key.row with
    | none => none
    | some ix =>
      let da := dirAddr (vslot t slot) ix
      let e := readDir s da
      if e.tier = 1 ∧ e.loaded ∧ (poisonedAt s da 16).isNone then copyAt s key.tid slot da else none

/-- R299, first row: a copy found uncorrectable is counted, the row returns to TIER = 0 by a row move, and REPLICA_DROPPED
counts it. -/
def loseHotCopy (tid slot da : Nat) (s : State) : State :=
  let s := startMove tid slot da { readDir s da with tier := 0, larder := 0 } (dropCopy tid slot da s)
  countReplicaDropped 1 s

/-- A read that takes the row's Larder copy finds it poisoned (R299, R300). -/
def lostHotCopy (t : Table) (slot : Nat) (key : RowKey) (s : State) : State :=
  match copyOfRow s t slot key with
  | none => s
  | some c => match poisonIn s c.block (blocksOf c.bytes.length) with
    | none => s
    | some b => loseHotCopy key.tid slot c.dirAddr (larderUe b s)

/-- Read a row this K40 homes, from its Larder copy where TIER is 1 (R128). -/
def readAtHome (s : State) (t : Table) (slot : Nat) (key : RowKey) (k : Option Nat) : RowRead :=
  if key.defkey then readDefault s t (vslot t slot) k
  else match dirIndex s t key.row with
    | none => .fail .tableAbsent none
    | some ix =>
      match copyOfRow s t slot key with
      | some c =>
        if soundCopy s c then readCopy s t (vslot t slot) (readDir s (dirAddr (vslot t slot) ix)) c k
        else readHomeRow s t slot ix k
      | none => readHomeRow s t slot ix k

/-- A read at a home must wait: a placement or migration read, or a non-speculative read of the next step, for an entry not
yet applied (R282, R310, R585); a read of a row that is still migrating here (R588). -/
def homeWaits (s : State) (t : Table) (h : HomeRead) : Bool :=
  (match rowPhase s t h.key with
    | .waiting => true
    | .notRequested _ => true
    | _ => false) ||
    (unapplied s h.key && (h.place || h.migrate || (!h.spec && sealedBefore s h.step)))

/-- The status of a read and its data. -/
def readStatus : RowRead → Status × Option RowSlice
  | .ok d => (.ok, some d)
  | .fail st _ => (st, none)

/-- CSEQ this home will use next for a subscriber (R388, R390). -/
def nextCseq (s : State) (node : Nat) : Nat := mgetD s.span.cseqOut node 0

/-- The reader joins the row's Crier record (R285, R310). -/
def subscribe (node slot : Nat) (key : RowKey) (s : State) : State :=
  let same := fun (c : CrierRec) => c.tid == key.tid && c.slot == slot && c.row == key.row && c.defkey == key.defkey
  let join := fun (c : CrierRec) => if node ∈ c.nodes then c else { c with nodes := c.nodes ++ [node] }
  let fresh : CrierRec := { tid := key.tid, slot := slot, row := key.row, defkey := key.defkey, nodes := [node] }
  let l := if s.span.crier.any same then lmap s.span.crier same join else s.span.crier ++ [fresh]
  { s with span := { s.span with crier := l } }

/-- The ROW that answers a READ (R370). -/
def rowPktOf (tag slice : Nat) (st : Status) (prov : Bool) (d : Option RowSlice) (cseq : Nat) : RowPkt :=
  match d with
  | some d => { tag := tag, status := st, prov := prov, baseExp := d.baseExp, slice := slice, cseq := cseq,
                header := d.header, pawns := d.pawns, elems := d.elems }
  | none => { tag := tag, status := st, prov := prov, baseExp := 0, slice := slice, cseq := cseq,
              header := 0, pawns := [], elems := [] }

/-- The event of an uncorrectable row (R44, R92). -/
def noteStatus (st : Status) (s : State) : State := if st = .uncorrectable then raise evEccUncorrectable s else s

/-- The codes of a W16 or W8 vector at its own shift (R103): the shift, the codes, how many clamped. -/
def encodeAt (cmax : Nat) (n : Int) (xs : List W32) : List Int × Nat :=
  let cs := xs.map (toCode cmax n)
  (cs.map Prod.fst, (cs.filter Prod.snd).length)

/-- The substitutions of R83 in a partial count as in a row write (R107, R208). -/
def countSubst (tid : Nat) (xs : List W32) (s : State) : State :=
  let nan := (xs.filter isNan).length
  let inf := (xs.filter isInf).length
  if nan + inf = 0 then s
  else satCheck tid (asyMod tid (fun a => { a with
    nan := satAdd 16 a.nan nan, satElems := satAdd 32 a.satElems inf, spans := (a.saturate (nan + inf)).spans }) s)

/-- Elements that clamp in an encoding, beside the infinities, which their substitution counts already (R83, R105). -/
def clampsOf (cmax : Nat) (n : Int) (raw : List W32) : Nat :=
  (raw.filter (fun x => !isInf x && (toCode cmax n (subst x)).2)).length

/-- The open-step entry of a handed-over row goes to the gaining home as W16 partials (R585). -/
def sendEntry (t : Table) (epoch gaining : Nat) (e : LEntry) (s : State) : State :=
  (List.range (sliceCount t.dim)).foldl (fun s k =>
    let raw := (e.acc.drop (1024 * k)).take (sliceLen t.dim k)
    let xs := raw.map subst
    let n := ownShift 32767 xs
    let (cs, _) := encodeAt 32767 n xs
    let p : PartialPkt := {
      tid := e.key.tid, defkey := e.key.defkey, row := e.key.row, slice := k, w16 := true,
      ownExp := false, rescaled := false, step := e.step, epoch := epoch, exp := (n + 141).toNat,
      contrib := if k = 0 then min e.contrib 65535 else 0, tokens := if k = 0 then min e.tokens (pow32 - 1) else 0,
      codes := cs }
    let s := if xs.all isZero then s else noteLocalMax e.key.tid e.step n s
    countClamps e.key.tid (clampsOf 32767 n raw) (countSubst e.key.tid raw (sendOwn gaining (.part p) s))) s

/-- Change the forwarding counts of a map slot. -/
def fwdMod (map : Nat) (f : FwdCounts → FwdCounts) (s : State) : State :=
  match mget s.maps map with
  | some m => { s with maps := mset s.maps map { m with counts := f m.counts } }
  | none => s

/-- The last slice of a migration read is served: the row is handed over and its open entry sent after it (R585). -/
def handOver (t : Table) (h : HomeRead) (gaining : Nat) (s : State) : State :=
  match mget s.maps t.homeMap with
  | none => s
  | some m =>
    let s := { s with maps := mset s.maps t.homeMap { m with handed := m.handed ++ [(h.key.tid, h.key.row)] } }
    let s := fwdMod t.homeMap (fun c => { c with rowsOut := satAdd 32 c.rowsOut 1 }) s
    let mine := fun (e : LEntry) => e.key == h.key && some e.step == s.ldg.openStep
    match s.ldg.entries.find? mine with
    | none => s
    | some e =>
      let rest := s.ldg.entries.filter (fun e => !mine e)
      let s := { s with ldg := { s.ldg with entries := rest } }
      let s := fwdMod t.homeMap (fun c => { c with entriesOut := satAdd 32 c.entriesOut 1 }) s
      sendEntry t h.epoch gaining e s

/-- A slice of a row has been served to a migration read; the last of them hands the row over. -/
def serveSlice (t : Table) (h : HomeRead) (gaining : Nat) (s : State) : State :=
  match mget s.maps t.homeMap with
  | none => s
  | some m =>
    let me := (h.key.tid, h.key.row, h.slice)
    let l := if me ∈ m.served then m.served else m.served ++ [me]
    let mine := fun (x : Nat × Nat × Nat) => x.1 == h.key.tid && x.2.1 == h.key.row
    if (l.filter mine).length < sliceCount t.dim then { s with maps := mset s.maps t.homeMap { m with served := l } }
    else
      let rest := l.filter (fun x => !mine x)
      handOver t h gaining { s with maps := mset s.maps t.homeMap { m with served := rest } }

/-- Address of a node's entry of a CSEQ table in the HBM table area: 16,384 entries of 2 B for the CSEQ sent, then as many for
the CSEQ expected (R388; the place is not given, assumption log 36). -/
def cseqAddr (expected : Bool) (node : Nat) : Nat := Config.cseqTables + b2n expected * 32768 + 2 * node

/-- A CSEQ table is read through the front cache as KEEP (R388). -/
def readCseq (expected : Bool) (node : Nat) (s : State) : State := frontRead 2 false (cseqAddr expected node) 2 s

/-- Serve a read of another node (R24, R140, R310, R370, R390, R585). -/
def serveNode (src tag : Nat) (t : Table) (h : HomeRead) (st : Status) (prov : Bool) (d : Option RowSlice)
    (s : State) : State :=
  let s := if h.place && st = .ok then subscribe src h.slot h.key s else s
  let p := rowPktOf tag h.slice st prov d (if h.resync then nextCseq s src else 0)
  let s := sendOwn src (.row p) (if h.resync then readCseq false src s else s)
  let s := dropRef h.key.tid h.slot s
  if h.migrate then serveSlice t h src s else s

/-- The HBM bytes a home's row read touches, with their front-cache hints: the directory entry as KEEP, and under the read's
hint the shelf and row headers, the slice's elements and the row's Pawn entries (R127, R325, R329). A row served from its
Larder copy reads no shelf row. -/
def homeRanges (s : State) (t : Table) (h : HomeRead) : List (Nat × Nat × Nat) :=
  let v := vslot t h.slot
  if h.key.defkey then
    [(h.hint, v.defLoc, 16), (h.hint, v.defLoc + 16 + 4096 * h.slice, 4 * sliceLen t.dim h.slice)]
  else match dirIndex s t h.key.row with
    | none => []
    | some ix =>
      let da := dirAddr v ix
      let e := readDir s da
      if (copyOfRow s t h.slot h.key).isSome ∨ !e.loaded ∨ e.tier = 3 then [(2, da, 16)]
      else
        let a := rowAddr v e.shelf e.ofs
        let hd := hdrOf (BitVec.ofNat 128 (leNat (hbmRead s a 16)))
        [(2, da, 16), (h.hint, shelfAddr v e.shelf, 8), (h.hint, a, 16),
          (h.hint, a + 16 + sliceOfs e.cls h.slice, elemBytes e.cls (sliceLen t.dim h.slice)),
          (h.hint, pawnAddr t v e.shelf hd.pawnPtr, 8 * hd.pawnCnt)]

/-- What the front cache sees of a home's row read. -/
def frontHomeRead (t : Table) (h : HomeRead) (s : State) : State :=
  (homeRanges s t h).foldl (fun s r => frontRead r.1 h.last r.2.1 r.2.2 s) s

/-- The mark of a read's answer: the Run is speculative and this Ledger holds an entry of the step before the Run's that Commit
has not applied (R24, R140). -/
def provMark (s : State) (h : HomeRead) : Bool := h.spec && heldFor s (stepBefore h.step) h.key

/-- Answer a read at its home: to the Mill or the node that sent it. -/
def serveHome (idx : Nat) (h : HomeRead) (t : Table) (st : Status) (d : Option RowSlice) (s : State) : State :=
  let prov := provMark s h
  let s := { s with span := { s.span with homeReads := s.span.homeReads.eraseIdx idx } }
  match h.origin with
  | .mill col mill pos => answerMill col mill pos h.key h.slice st prov d s
  | .node src tag => serveNode src tag t h st prov d s

/-- The row as the read finds it, with what the read leaves behind: counts, the event of R44, front-cache lines and, where
the Larder copy was poisoned, its loss (R299). -/
def readHere (t : Table) (h : HomeRead) (s : State) : (Status × Option RowSlice) × State :=
  let r := readAtHome s t h.slot h.key (some h.slice)
  let (st, d) := readStatus r
  ((st, d), lostHotCopy t h.slot h.key (frontHomeRead t h (noteStatus st (noteRead r s))))

/-- A read that R282 holds promotes the entry it waits for, once: one that waits on arrival or that a seal or a fold since has
made wait. -/
def askEntry (idx : Nat) (h : HomeRead) (s : State) : State :=
  if h.asked || h.spec || h.place || h.migrate || !(sealedBefore s h.step && unapplied s h.key) then s
  else
    let q : PromoReq := { key := h.key, step := s.ldg.sealedStep.getD 0, who := .read }
    let s := { s with span := { s.span with homeReads := lmod s.span.homeReads idx (fun x => { x with asked := true }) } }
    { s with ldg := { s.ldg with commit := { s.ldg.commit with promoIn := s.ldg.commit.promoIn ++ [q] } } }

/-- The read is served. A codeword of it that the check finds uncorrectable ends it with CS_UNCORRECTABLE (R129, R329, R331);
the others are corrected, and damaged front-cache lines go, their data read from the stack (R571). -/
def serveRead (idx : Nat) (h : HomeRead) (t : Table) (errs : List CwErr) (lines : List Nat) (s : State) : State :=
  let s := readMap t h.key true s
  let rs := (homeRanges s t h).map (fun r => (r.2.1, r.2.2))
  let bad := badIn s rs errs
  let s := fixErrs rs errs (dropLines rs lines s)
  if bad.isEmpty then
    let (a, s) := readHere t h s
    serveHome idx h t a.1 a.2 s
  else loseErrs bad (serveHome idx h t .uncorrectable none (frontHomeRead t h s))

/-- HOME_ROW_READ: one Ledger-island operation reads the row, applies the provisional test and answers (R139, R282, R329,
R571). -/
def execHomeRowRead (r : HomeReadIn) (s : State) : Host.Outcome State Fault Refusal :=
  match s.span.homeReads[r.idx]? with
  | none => .next s
  | some h =>
    match mget s.tables h.key.tid with
    | none => .next s
    | some t =>
      let s := meetFilters h.key (if h.spec then some (stepBefore h.step) else none) s
      .next (if homeWaits s t h then askEntry r.idx h s else serveRead r.idx h t r.errs r.lines s)

end Sys2Proof.Machine
end

