-- ==== Sys2Proof/Machine/Pool.lean ====
section
/-! DEFINITION. Pooling on a Mill: the FP32 path, the Tally and its overflow, kept rows, the finish stage, the wait list of
speculative bags, tiles that drain, and saved tiles (chapter "Mills: pooling and accumulation"). -/

namespace Sys2Proof.Machine

open Sys2Proof

/-! ## The Tally (R166 to R171) -/

/-- The largest value of a lane (R169). -/
def laneMax : Nat := 2 ^ 47 - 1

/-- R167: an element aligned to shift `f`, and whether nonzero bits were dropped (R168). -/
def alignElem (s f : Int) : Elem → Int × Bool
  | .fp _ => (0, false)
  | .code c =>
    if f ≤ s then (shl c (s - f), false)
    else
      let k := (f - s).toNat
      let q := rshiftRound c k
      (q, q * (2 ^ k : Nat) != c)
  | .escape v =>
    let q := roundAway (fDy v) f
    (q, ((fDy v).sub { m := q, e := f }).m != 0)

/-- A term or a lane lies outside the lane's range (R169). -/
def laneOver (x : Int) : Bool := decide (laneMax < x.natAbs)

/-- The lanes after a Tally row; none on an overflow (R169). -/
def tallyAdd (lanes : List Int) (terms : List (Int × Bool)) : Option (List Int) :=
  let out := (lanes.zip terms).map (fun p => p.1 + p.2.1)
  if terms.any (fun t => laneOver t.1) || out.any laneOver then none else some out

/-- The floor shift of a work (R166). -/
def floorShift (w : BagWork) : Int := (w.floor : Int) - 141

/-! ## One row into a slice (R160, R161, R175, R176) -/

/-- R160: the row goes to the integer path. -/
def tallyRow (r : Run) (cls : RowClass) : Bool :=
  (r.tmpl.red == .sum || r.tmpl.red == .mean) && !r.desc.wgtEn && isCoded cls

/-- t of R175: the weighted element, or the element. -/
def termOf (r : Run) (wgt x : W32) : W32 := if r.desc.wgtEn then fMul wgt x else x

/-- One FP32-path row into the accumulators of a slice: sum and mean, sum of squares, max (R161, R175). -/
def fpRow (r : Run) (wgt : W32) (xs acc : List W32) : List W32 :=
  (xs.zip acc).map (fun p => match r.tmpl.red with
    | .sumsq => let t := termOf r wgt p.1; fma t t p.2
    | .max => fMax p.2 (termOf r wgt p.1)
    | _ => fma wgt p.1 p.2)

/-- One row of mean and variance: the running mean and the second accumulator (R176). -/
def varRow (r : Run) (wgt rk : W32) (xs m q : List W32) : List (W32 × W32) :=
  (xs.zip (m.zip q)).map (fun p =>
    let t := termOf r wgt p.1
    let d := fSub t p.2.1
    let m' := fma d rk p.2.1
    (m', fma d (fSub t m') p.2.2))

/-- What a row did to the pass: the work after it with its count of floor roundings, or an overflow. -/
inductive RowStep where
  | done (w : BagWork) (rounded : Nat)
  | overflow
  deriving DecidableEq, Repr

/-- Add a row's elements to a work (R161, R175, R176). `skip` is a defaulted row that a mean and variance leaves out (R70). -/
def addRow (r : Run) (w : BagWork) (wgt : W32) (cls : RowClass) (s : Int) (es : List Elem) (skip : Bool) : RowStep :=
  if tallyRow r cls then
    let terms := es.map (alignElem s (floorShift w))
    match tallyAdd w.tally terms with
    | none => .overflow
    | some l => .done { w with tally := l, tallyUsed := true } (terms.filter Prod.snd).length
  else
    let xs := es.map (elemValue s)
    if r.tmpl.red = .meanvar then
      if skip then .done w 0
      else
        let mq := varRow r wgt (fRecip (w.k + 1)) xs w.acc w.second
        .done { w with k := w.k + 1, acc := mq.map Prod.fst, second := mq.map Prod.snd } 0
    else .done { w with acc := fpRow r wgt xs w.acc } 0

/-- R27, R170, R180: the pass is abandoned, with the rows it would have kept of the slice; the floor rises by 8, the slice starts
again. -/
def BagWork.replay (w : BagWork) (r : Run) : BagWork :=
  { w.openSlice r w.slice with
    floor := min (w.floor + 8) 255, passes := w.passes + 1, keep := w.keep.filter (fun x => x.slice != w.slice) }

/-! ## Kept rows (R135, R136, R663) -/

/-- Larder bytes of a kept row, whole (R663). -/
def keptBytes (cls : RowClass) (d : Nat) : Nat := up64 (rowSize cls d + 16)

/-- A place in the KEPT region for a row of so many bytes, apart from the kept rows and from storage given up that is still in
use (R57, R135, R306). -/
def keptPlace (s : State) (n : Nat) : Option Nat :=
  placeBlocks (s.lrd.kept.map (fun y => (y.block, blocksOf y.size)) ++ larderHeld s) (keptBase s)
    (keptBase s + regionBlocks (planKept s.lrd.plan)) (blocksOf n)

/-- Slices of one kept row. -/
def KeptRow.sameRow (x y : KeptRow) : Bool :=
  y.step == x.step && y.tid == x.tid && y.slot == x.slot && y.row == x.row && y.defkey == x.defkey

/-- Keep a row slice while the region has room; the first slice of a row takes its space (R135, R136). -/
def keepRow (ord : Nat) (x : KeptRow) (s : State) : State :=
  let put (b : Nat) : State :=
    runMod ord (fun r => { r with kept := true })
      { s with lrd := { s.lrd with kept := s.lrd.kept ++ [{ x with block := b }] } }
  if s.lrd.kept.any (fun y => x.sameRow y && y.slice == x.slice) then s
  else match s.lrd.kept.find? (fun y => x.sameRow y && y.slice == 0) with
    | some y => put y.block
    | none =>
      if x.slice ≠ 0 then s
      else match keptPlace s x.size with
        | some b => put b
        | none => { s with lrd := { s.lrd with keptRefused := satAdd 24 s.lrd.keptRefused 1 } }

/-- The kept copy of a row slice that was read; its place is found when it is kept. -/
def keptOf (r : Run) (w : BagWork) (key : RowKey) (d : RowSlice) : KeptRow :=
  { step := r.desc.step, tid := key.tid, slot := r.slot, row := key.row, defkey := key.defkey, slice := w.slice,
    block := 0, size := keptBytes (hdrOf d.header).cls r.dim, data := d }

/-! ## ROW_ARRIVE -/

/-- Position of a source in the sample record (R607). -/
def sourceNo : RowSource → Nat
  | .sieve => 0
  | .kept => 1
  | .larder => 2
  | .hbm => 3
  | .replica => 4
  | .remote => 5

/-- A tagged bag counts its rows by source (R607). -/
def sampleRow (ord b : Nat) (src : RowSource) (s : State) : State :=
  let i := sourceNo src
  let bump := fun (x : Sample) => { x with srcs := (List.range 6).map (fun j =>
    satAdd 16 (x.srcs.getD j 0) (if j = i then 1 else 0)) }
  { s with ctr := { s.ctr with samples := lmap s.ctr.samples (fun x => x.ord == ord && x.bag == b && !x.done) bump } }

/-- A provisional row of a pass. -/
def provRow (s : State) (r : Run) (key : RowKey) : WaitRow :=
  let home := match mget s.tables key.tid with
    | some t => homeUnder s t r.epoch key
    | none => self s
  { key := key, home := home, isLocal := home == self s, noticed := false }

/-- Add a provisional row once. -/
def addProv (x : WaitRow) (l : List WaitRow) : List WaitRow := if l.any (fun y => y.key == x.key) then l else l ++ [x]

/-- Elements of a lookup's row slice: those read, or the zeros of a zero default row (R68, R91). -/
def readElems (r : Run) (w : BagWork) (d : Option RowSlice) : Option (RowClass × Int × List Elem) :=
  match d with
  | none => some (.w32, 0, List.replicate (sliceLen r.dim w.slice) (.fp 0))
  | some y =>
    let h := hdrOf y.header
    (rowElems h.cls (1024 * w.slice) y.pawns y.elems).map (fun es => (h.cls, rowShift y.baseExp h, es))

/-- The read is consumed: the cursor moves on, its buffer space and its use of a pin are free. -/
def consume (col mill : Nat) (r : Run) (w : BagWork) (x : MillRead) (s : State) : State :=
  let w := { w with cursor := w.cursor + 1, reads := w.reads.filter (fun y => y.pos != x.pos) }
  let s := setWork col mill (some w) s
  if x.data.isSome then freePin col (sieveKey r w x.key) (sampleRow w.ord w.bag x.source s) else s

/-- A row is kept as it arrives, by a speculative bag once it leaves (R27, R135, R137). -/
def keepNow (r : Run) (w : BagWork) (x : MillRead) (s : State) : BagWork × State :=
  match x.data with
  | none => (w, s)
  | some d =>
    if !r.desc.keepRows then (w, s)
    else if r.desc.spec then ({ w with keep := w.keep ++ [keptOf r w x.key d] }, s)
    else (w, keepRow r.ord (keptOf r w x.key d) s)

/-- A Tally overflow: the bag's entries are read again through the Run's translation, which must stand for it, and the slice
starts again (R170, R172, R173). A failure of what is read ends the bag. -/
def replayBag (col mill : Nat) (r : Run) (t : Table) (w : BagWork) (v : ChipView) (s : State) : State :=
  if againWaits r then s
  else match bagEntries r w.bag with
    | none => s
    | some (lo, hi) =>
      let s := readAgain r w.bag lo hi v s
      let r := (runOf s w.ord).getD r
      match bagBad r w.bag lo hi with
      | some st => failOn col mill w st s
      | none =>
        let w := { w with lookups := lookupsOf r t (vslot t r.slot).rows lo hi }
        setWork col mill (some (w.replay r)) (dropReads (fun c m => c == col && m == mill) s)

/-- A row of a forward bag is pooled. -/
def poolRow (col mill : Nat) (r : Run) (t : Table) (w : BagWork) (l : Lookup × W32) (x : MillRead) (v : ChipView)
    (s : State) : State :=
  match readElems r w x.data with
  | none => noteStatus .uncorrectable (failOn col mill w .uncorrectable s)
  | some (cls, sh, es) =>
    match addRow r w l.2 cls sh es (l.1.defaulted && t.defMean) with
    | .overflow => replayBag col mill r t w v s
    | .done w n =>
      let (w, s) := keepNow r w x s
      let w := if x.prov then { w with provNow := addProv (provRow s r x.key) w.provNow } else w
      let (w, s) := colEvent col 0x103 n r.desc.spec w s
      consume col mill r w x s

/-- The row comes from the Larder. -/
def RowSource.inLarder (x : RowSource) : Bool := x == .larder || x == .kept || x == .replica

/-- Corrected words that a row's arrival brings: of the Mill's SRAM in column event 0x104, of a Larder row in CE_COUNT (R154,
R298). -/
def arriveWords (col : Nat) (r : Run) (w : BagWork) (x : MillRead) (sram words : Nat) (s : State) : BagWork × State :=
  colEvent col 0x104 sram r.desc.spec w (if x.source.inLarder then correctedLarder words s else s)

/-- ROW_ARRIVE: the row at the bag's cursor has come and is added in bag order (R91, R129, R154, R160 to R170, R172, R298). -/
def execRowArrive (col mill : Nat) (a : ArriveIn) (s : State) : Host.Outcome State Fault Refusal :=
  match workOf s col mill with
  | none => .next s
  | some w =>
    match runOf s w.ord, w.lookups[w.cursor]?, w.reads.find? (fun x => x.pos == w.cursor) with
    | some r, some l, some x =>
      match mget s.tables r.desc.tid with
      | none => .next s
      | some t =>
        .next (if !(w.opened && x.answered && millsRun s && !r.backward) then s
          else
            let (w, s) := arriveWords col r w x a.sram a.words s
            if a.ue then noteStatus .uncorrectable (failOn col mill w .uncorrectable s)
            else if x.status ≠ .ok then failOn col mill w x.status s
            else poolRow col mill r t w l x a.v s)
    | _, _, _ => .next s

/-! ## The finish stage (R183 to R185, R106) -/

/-- The divisor of a mean (R70). -/
def divisorOf (t : Table) (w : BagWork) : Nat :=
  if t.defMean then (w.lookups.filter (fun l => !l.1.defaulted)).length else w.lookups.length

/-- The preload elements of a slice; none where the Run has none. -/
def preloadSlice (r : Run) (w : BagWork) : Option (List W32) :=
  if r.desc.preEn then
    some (((bagVector r .preload r.desc.preBf16 w.bag).drop (1024 * w.slice)).take (sliceLen r.dim w.slice))
  else none

/-- Add the preload where R175 places it after the reduction. -/
def addPreload (p : Option (List W32)) (ys : List W32) : List W32 :=
  match p with
  | some ps => (ys.zip ps).map (fun q => fAdd q.1 q.2)
  | none => ys

/-- The bag sum S of a slice (R161). -/
def sliceSum (w : BagWork) : List W32 :=
  if w.tallyUsed then (w.acc.zip w.tally).map (fun p => fJoin p.1 p.2 (floorShift w)) else w.acc

/-- The reduction's result of a slice before the epilogue, and the variance (R70, R175 to R177). -/
def sliceResult (r : Run) (t : Table) (w : BagWork) : List W32 × List W32 :=
  let n := sliceLen r.dim w.slice
  let zero := List.replicate n (0 : W32)
  match r.tmpl.red with
  | .sum => (sliceSum w, [])
  | .sumsq => (w.acc, [])
  | .mean =>
    let d := divisorOf t w
    (addPreload (preloadSlice r w) (if d = 0 then zero else (sliceSum w).map (fun x => fDivNat x d)), [])
  | .meanvar =>
    (addPreload (preloadSlice r w) (if w.k = 0 then zero else w.acc),
      if w.k = 0 then zero else w.second.map (fun q => fDivNat q w.k))
  | .max => (addPreload (preloadSlice r w) (if w.lookups.isEmpty then zero else w.acc), [])

/-- The epilogue (step 4 of R183). -/
def epilogue (r : Run) (w : BagWork) (ys : List W32) : List W32 :=
  if r.desc.fuseOp = 0 then ys
  else
    let os := ((bagVector r .operand r.desc.fuseBf16 w.bag).drop (1024 * w.slice)).take (sliceLen r.dim w.slice)
    (ys.zip os).map (fun p => if r.desc.fuseOp = 1 then fAdd p.1 p.2 else fMul p.1 p.2)

/-- One vector of a token, with what event 0x105 counts of it (R106, R184, R185). -/
def outVector (fmt : Nat) (xs : List W32) : List Byte × Nat :=
  if fmt = 0 then (xs.flatMap (fun x => toLe 4 x.toNat), 0)
  else if fmt = 1 then
    let ys := xs.map outBf16
    (ys.flatMap (fun y => toLe 2 y.1.toNat), (ys.filter Prod.snd).length)
  else
    let zs := xs.map subst
    let n := ownShift 127 zs
    let cs := zs.map (toCode 127 n)
    (cs.map (fun c => BitVec.ofNat 8 (pat 8 c.1)) ++ [BitVec.ofNat 8 (n + 141).toNat] ++ List.replicate 15 0,
      (xs.filter (fun x => !isFin x)).length + (cs.filter Prod.snd).length)

/-- The output token of a bag (R184). -/
def tokenOf (r : Run) (w : BagWork) : List Byte × Nat :=
  let a := outVector r.desc.outFmt w.result
  if r.tmpl.red = .meanvar then
    let b := outVector r.desc.outFmt w.result2
    (a.1 ++ b.1, a.2 + b.2)
  else a

/-- Defaulted lookups of a bag (R67, R127). -/
def defaultedOf (w : BagWork) : Nat := (w.lookups.filter (fun l => l.1.defaulted)).length

/-- Replay counts of the Assayer (R110, R174). -/
def countReplays (tid n : Nat) (s : State) : State :=
  if n = 0 then s
  else asyMod tid (fun a => { a with
    replayBags := satAdd 32 a.replayBags 1, replayPasses := satAdd 32 a.replayPasses n }) s

/-- A bag leaves the Mill: its counts, the events and kept rows it held, and its token (R26, R30, R146, R149). -/
def leaveBag (col mill : Nat) (r : Run) (w : BagWork) (bytes : List Byte) (s : State) : State :=
  let s := bagMod r.ord w.bag (fun i => { i with
    state := if bytes.isEmpty then .left else .draining, defaulted := defaultedOf w, replays := w.passes }) s
  let s := countReplays r.desc.tid w.passes s
  let s := w.events.foldl (fun t e => countEv col e.1 e.2 t) s
  let s := w.keep.foldl (fun t x => keepRow r.ord x t) s
  let s := setWork col mill none s
  if bytes.isEmpty then closeSample r.ord w.bag s
  else millMod col mill (fun m => { m with token := some (r.ord, w.bag, bytes) }) s

/-! ## The wait list (R141 to R147) -/

/-- A column already waits for a notice of this key. -/
def awaitsKey (c : Column) (key : RowKey) : Bool :=
  c.wait.any (fun w => w.rows.any (fun x => x.key == key && !x.noticed))

/-- The key fields of a PROMOTE or NOTICE. -/
def keyPkt (key : RowKey) (step : Nat) : KeyPkt := { tid := key.tid, defkey := key.defkey, row := key.row, step := step }

/-- Ask for a row's promotion: the Ledger for a local row, its home for a remote one; false where the home cannot be reached
(R28, R143). The step named is the sealed one, before the Run's. -/
def askPromotion (col step : Nat) (x : WaitRow) (s : State) : State × Bool :=
  let before := stepBefore step
  if x.isLocal then
    let q : PromoReq := { key := x.key, step := before, who := .column col }
    ({ s with ldg := { s.ldg with commit := { s.ldg.commit with promoIn := s.ldg.commit.promoIn ++ [q] } } }, true)
  else match trySend (mkPkt s x.home (.promote (keyPkt x.key before))) s with
    | some s => (s, true)
    | none => (noteAbsent x.home s, false)

/-- Send the promotions of a bag's rows; false where a home cannot be reached. -/
def askAll (col step : Nat) : List WaitRow → State → State × Bool
  | [], s => (s, true)
  | x :: rest, s =>
    let (s, ok) := if awaitsKey (colOf s col) x.key then (s, true) else askPromotion col step x s
    let (s, more) := askAll col step rest s
    (s, ok && more)

/-- The wait list can take a bag of `n` rows (R142). -/
def waitTakes (c : Column) (n : Nat) : Bool := decide (c.wait.length < 256) && decide (waitRows c + n ≤ 1024)

/-- The rows a bag waits for: at most the 1,024 that the list holds. A bag with more sees the others again when it is recomputed
(R142; DESIGN CHOICE, assumption log 40). -/
def waitsFor (w : BagWork) : List WaitRow := w.prov.take 1024

/-- A provisional bag is discarded and waits (R141, R143, R146, R147). -/
def waitBag (col mill : Nat) (r : Run) (w : BagWork) (s : State) : State :=
  let rows := waitsFor w
  if !waitTakes (colOf s col) rows.length then s
  else
    let (s, ok) := askAll col r.desc.step rows s
    if !ok then failOn col mill w .homeAbsent s
    else
      let s := bagMod r.ord w.bag (fun i => { i with state := .held }) s
      let s := freeMill col mill s
      colMod col (fun c => { c with wait := c.wait ++ [{ ord := r.ord, bag := w.bag, rows := rows }] }) s

/-- Mark a key's rows as noticed and release the bags that hold every notice (R144). -/
def Column.notice (c : Column) (key : RowKey) : Column :=
  let mark := fun (w : WaitBag) => { w with rows := lmap w.rows (fun x => x.key == key) (fun x => { x with noticed := true }) }
  let l := c.wait.map mark
  let ready := fun (w : WaitBag) => w.rows.all (fun x => x.noticed)
  { c with wait := l.filter (fun w => !ready w), redo := c.redo ++ (l.filter ready).map (fun w => (w.ord, w.bag)) }

/-- COMMIT_NOTICE_RECEIVE (R26, R27, R144): the column takes its oldest notice. -/
def execCommitNoticeReceive (col : Nat) (s : State) : Host.Outcome State Fault Refusal :=
  match (colOf s col).notices with
  | [] => .next s
  | k :: rest => .next (colMod col (fun c => { c with notices := rest }.notice k) s)

/-- The home of a row is absent: the bags of a column that wait on it end (R147). -/
def absentWait (col : Nat) (key : RowKey) (s : State) : State :=
  let onIt := fun (b : WaitBag) => b.rows.any (fun y => y.key == key && !y.noticed && !y.isLocal)
  let gone := (colOf s col).wait.filter onIt
  if gone.isEmpty then s
  else
    let s := gone.foldl (fun t b => failBag b.ord b.bag .homeAbsent t) s
    colMod col (fun c => { c with wait := c.wait.filter (fun b => !onIt b) }) s

/-- PROMOTE_RESEND (R381): the `idx`-th remote row of a column's wait list that has no notice asks again; a home that cannot
be reached ends the bags that wait on it (R147). -/
def execPromoteResend (col idx : Nat) (s : State) : Host.Outcome State Fault Refusal :=
  let rows := (colOf s col).wait.flatMap (fun w => (w.rows.filter (fun x => !x.noticed && !x.isLocal)).map (fun x => (w, x)))
  match rows[idx]? with
  | none => .next s
  | some (w, x) =>
    match runOf s w.ord with
    | none => .next s
    | some r =>
      let (s, ok) := askPromotion col r.desc.step x s
      .next (if ok then s else absentWait col x.key s)

/-! ## BAG_POOL_END -/

/-- The weight gradients of a backward bag, finished (R193): bytes of its indices in order. -/
def gammaBytes (r : Run) (t : Table) (w : BagWork) : List Byte :=
  if !r.tmpl.wgrad then []
  else
    let d := divisorOf t w
    (w.lookups.zip w.acc).flatMap (fun p =>
      let g : W32 := match p.1.1, r.tmpl.red with
        | .zeroRow, _ => 0
        | _, .mean => if d = 0 then 0 else fDivNat p.2 d
        | _, .sumsq => fMul 0x40000000#32 p.2
        | _, _ => p.2
      toLe 4 g.toNat)

/-- The end of a backward bag's last slice (R193, R196): its weight gradients, or a failed bag. -/
def endBackward (col mill : Nat) (r : Run) (t : Table) (w : BagWork) (s : State) : State :=
  afterBag r.ord (match w.failed with
    | some st => failOn col mill w st s
    | none => leaveBag col mill r w (gammaBytes r t w) s)

/-- The end of a forward bag's last slice. -/
def endForward (col mill : Nat) (r : Run) (w : BagWork) (s : State) : State :=
  if !w.prov.isEmpty then waitBag col mill r w s
  else
    let (bytes, n) := tokenOf r w
    let (w, s) := colEvent col 0x105 n r.desc.spec w s
    leaveBag col mill r w bytes s

/-- A slice of a forward bag finishes. -/
def finishSlice (r : Run) (t : Table) (w : BagWork) : BagWork :=
  if r.backward then w
  else
    let y := sliceResult r t w
    { w with result := w.result ++ epilogue r w y.1, result2 := w.result2 ++ y.2 }

/-- The provisional rows of the finished pass join the bag's. -/
def BagWork.closePass (w : BagWork) : BagWork := { w with prov := w.provNow.foldl (fun l x => addProv x l) w.prov, provNow := [] }

/-- A slice has finished: the bag's next slice may fill the other tile (R182), or the bag ends. -/
def endSlice (col mill : Nat) (r : Run) (t : Table) (w : BagWork) (s : State) : State :=
  let v := (finishSlice r t w).closePass
  if w.slice + 1 < sliceCount r.dim then
    millMod col mill (fun k => { k with
      work := some { v with opened := false, slice := w.slice + 1 },
      part := if r.backward then none else some (r.ord, w.bag) }) s
  else if r.backward then endBackward col mill r t v s
  else endForward col mill r v s

/-- BAG_POOL_END: a slice's pooling ends; the last slice's token, or the wait list (R26, R125, R141, R154, R183). A tile is
filled again only after its drain has been accepted, so a slice ends while the Mill's other tile is empty (R182). -/
def execBagPoolEnd (col mill : Nat) (tile : TileIn) (s : State) : Host.Outcome State Fault Refusal :=
  let m := millOf (colOf s col) mill
  match m.work with
  | none => .next s
  | some w =>
    match runOf s w.ord with
    | none => .next s
    | some r =>
      match mget s.tables r.desc.tid with
      | none => .next s
      | some t =>
        let waits := !tile.ue && (m.token.isSome || m.part.isSome)
        .next (if !(w.opened && decide (w.lookups.length ≤ w.cursor) && millsRun s) || waits then s
          else
            let (w, s) := colEvent col 0x104 tile.sram r.desc.spec w s
            if tile.ue then afterBag r.ord (noteStatus .uncorrectable (failOn col mill w .uncorrectable s))
            else endSlice col mill r t w s)

/-! ## TILE_DRAIN -/

/-- Elements a token makes in the output flow: a forward token whole, weight gradients by index (R487). The weight gradient of
a derived identifier is written at the first of its NIN index entries and the others keep what they hold: R116 gives the range
an element for each entry and does not say which of them takes it (DESIGN CHOICE, assumption log 6). -/
def tokenElems (r : Run) (b : Nat) (bytes : List Byte) : List OutElem :=
  if r.backward then
    let lo := ((bagEntries r b).map Prod.fst).getD 0
    let nin := if r.tmpl.ninstr = 0 then 1 else r.tmpl.nin
    (List.range (bytes.length / 4)).map (fun j =>
      { idx := lo + j * nin, bag := b, bytes := (bytes.drop (4 * j)).take 4 })
  else [{ idx := b, bag := b, bytes := bytes }]

/-- Room in the output flow of a Run: an empty flow, or one that is not full and takes the token's cells within its LIMIT (R457,
R460). -/
def outRoom (s : State) (x : Stream) (n : Nat) : Bool :=
  x.outQ.isEmpty || (!streamFull s x && decide (unitsOf (x.outQ.foldl (fun k e => k + e.bytes.length) n) ≤ streamLimit))

/-- TILE_DRAIN (R182, R487): a finished tile's token enters the Run's output flow, tagged with its bag; a slice that is not the
bag's last leaves the tile and joins the token. -/
def execTileDrain (col mill : Nat) (s : State) : Host.Outcome State Fault Refusal :=
  match (millOf (colOf s col) mill).token with
  | none => .next (if millsRun s then millMod col mill (fun k => { k with part := none }) s else s)
  | some (ord, b, bytes) =>
    match (runOf s ord).bind (fun r => (streamOf r .output).map (fun x => (r, x))) with
    | none => .next s
    | some (r, x) =>
      .next (if !(millsRun s && r.ended.isNone && outRoom s x bytes.length) then s
        else
          let es := tokenElems r b bytes
          let s := streamMod ord .output (fun y => { y with outQ := y.outQ ++ es }) s
          let s := bagMod ord b (fun i => { i with writes := i.writes + es.length }) s
          millMod col mill (fun k => { k with token := none }) s)

/-! ## Saved tiles (R188 to R191) -/

/-- The save image of a tile (R189). -/
def tileImage (w : BagWork) : List Byte :=
  let pad (n : Nat) (l : List Byte) : List Byte := l ++ List.replicate (n - l.length) 0
  let lanes := if w.second.any (fun q => q != 0) then w.second.flatMap (fun q => toLe 8 q.toNat)
    else w.tally.flatMap (fun x => toLe 8 (pat 64 x))
  pad 0x1000 (w.acc.flatMap (fun x => toLe 4 x.toNat)) ++ pad 0x2000 lanes ++
    toLe 8 (w.ord + w.bag * 2 ^ 12 + w.slice * 2 ^ 36 + w.floor * 2 ^ 39 + w.passes * 2 ^ 47 + b2n w.tallyUsed * 2 ^ 53) ++
    toLe 8 (w.cursor % pow32 + w.k % pow32 * pow32) ++ List.replicate 48 0

/-- Where the first image of Mill `c.m` lies in the save area: images of 12,352 B, two to a Mill, in Mill order (R191; the
order is a DESIGN CHOICE, assumption log 18). -/
def saveAddr (s : State) (c m : Nat) : Nat := saveBase s + (32 * c + m) * 24704

/-- The block goes to P2 or P3 (R188). -/
def savesTiles (s : State) : Bool := s.pwr.busy && (s.pwr.target == 2 || s.pwr.target == 3)

/-- The tile holds a partly pooled slice (R188). -/
def BagWork.partly (w : BagWork) : Bool := w.opened && w.cursor != 0

/-- The bag has seen a provisional row (R141). -/
def BagWork.sawProv (w : BagWork) : Bool := !w.prov.isEmpty || !w.provNow.isEmpty

/-- The work as it is after a save: the reads given up are made again, and counted once (R190). -/
def BagWork.saved (w : BagWork) : BagWork := { w with issued := w.cursor, reads := [] }

/-- TILE_SAVE (R188, R189, R191, R192): a partly pooled slice leaves its Mill for HBM while the block goes to P2 or P3; its reads
are given up and made again after the restore. A bag that saw a provisional row is never saved: it is discarded and waits. -/
def execTileSave (col mill : Nat) (s : State) : Host.Outcome State Fault Refusal :=
  match workOf s col mill with
  | none => .next s
  | some w =>
    match runOf s w.ord with
    | none => .next s
    | some r =>
      .next (if !(savesTiles s && w.partly && (millOf (colOf s col) mill).saved.isNone) then s
        else if w.sawProv then waitBag col mill r w.closePass s
        else
          let s := dropReads (fun c m => c == col && m == mill) s
          let s := hbmWrite (saveAddr s col mill) (tileImage w.saved) s
          millMod col mill (fun k => { k with work := none, saved := some w.saved }) s)

/-- TILE_RESTORE (R188, R190): back in P0 or P1 the Mill takes the tile up exactly where the save left it. -/
def execTileRestore (col mill : Nat) (s : State) : Host.Outcome State Fault Refusal :=
  let m := millOf (colOf s col) mill
  match m.saved with
  | none => .next s
  | some w =>
    .next (if millsRun s && !s.pwr.busy && m.work.isNone then
        millMod col mill (fun k => { k with work := some w, saved := none }) s
      else s)

end Sys2Proof.Machine
end

