-- ==== Sys2Proof/Machine/Backward.lean ====
section
/-! DEFINITION. The backward path in the columns: row contributions and weight gradients, the merge table, its flushes, the
encoding of remote partials, and the queues of partials on their way (chapter "The Ledger: gradients without loss"). -/

namespace Sys2Proof.Machine

open Sys2Proof

/-! ## Contributions (R193) -/

/-- round(u × 2w): the product with 2w exact, rounded once. -/
def fMulTwice (u w : W32) : W32 :=
  if isFin u && isFin w then
    let d := (fDy u).mul (fDy w)
    roundF (fNeg u != fNeg w) { d with e := d.e + 1 }
  else fMul u w

/-- The gradient elements of a slice of a bag. -/
def gradSlice (r : Run) (w : BagWork) : List W32 :=
  ((bagVector r .gradient r.desc.gradBf16 w.bag).drop (1024 * w.slice)).take (sliceLen r.dim w.slice)

/-- The row contribution of a slice from the elements of its row (R193). A mean whose divisor is 0 contributes +0 (assumption
log 19). -/
def contribution (r : Run) (d : Nat) (wgt : W32) (g xs : List W32) : List W32 :=
  match r.tmpl.red with
  | .mean => g.map (fun e => if d = 0 then 0 else fMul wgt (fDivNat e d))
  | .sumsq => (g.zip xs).map (fun p => fMulTwice (fMul (fMul wgt p.2) p.1) wgt)
  | _ => g.map (fun e => fMul wgt e)

/-- The elements of a row that a sum of squares has no read of: its template forms no weight gradients, or the read failed
(R195, R196). The contribution is formed all the same and the manual does not say from what: free values (assumption log 44). -/
def unreadElems (r : Run) (w : BagWork) (key : RowKey) : List W32 :=
  (List.range (sliceLen r.dim w.slice)).map (fun i => Config.unreadRow key.tid key.defkey key.row (1024 * w.slice + i))

/-- The weight-gradient accumulation of a slice, in ascending element order (R193). -/
def gammaStep (r : Run) (wgt a : W32) (g xs : List W32) : W32 :=
  (g.zip xs).foldl (fun a p =>
    if r.tmpl.red = .sumsq then fma (fMul (fMul wgt p.2) p.1) p.2 a else fma p.1 p.2 a) a

/-! ## The merge table (R199 to R203) -/

/-- Merge slots of one Mill. -/
def slotsPerMill : Nat := 5

/-- Slots of Mill `m` in use. -/
def slotsUsed (c : Column) (m : Nat) : Nat := (c.merge.filter (fun x => x.spread || x.owner == m)).length

/-- Active Mills of a column, ascending. -/
def activeMills (c : Column) : List Nat := (List.range 32).filter (fun m => c.active.testBit m)

/-- The Mill with the most free slots, the lowest position on equal counts (R201). -/
def ownerMill (c : Column) : Option Nat :=
  (activeMills c).foldl (fun best m => match best with
    | none => some m
    | some b => if slotsUsed c m < slotsUsed c b then some m else best) none

/-- A lookup of a backward bag uses a merge key. -/
def SieveKey.merges (x : SieveKey) (k : MergeKey) : Bool :=
  x.backward && x.step == k.step && x.key == k.key && x.slice == k.slice && x.epoch == k.epoch

/-- Uses of a key in a window (R201). -/
def usesIn (win : List (Option SieveKey)) (k : MergeKey) : Nat :=
  (win.filter (fun x => (x.map (fun y => y.merges k)).getD false)).length

/-- A fresh slot for a key used so often in the window: spread over every active Mill at 64 uses, else in one owner; none where
too few are free. -/
def freshSlot (c : Column) (uses : Nat) (k : MergeKey) : Option MergeSlot :=
  let ms := activeMills c
  if 64 ≤ uses then
    if !ms.isEmpty && ms.all (fun m => decide (slotsUsed c m < slotsPerMill)) then
      some { mkey := k, spread := true, owner := 0, copies := [], tokens := 0, bad := false }
    else none
  else match ownerMill c with
    | none => none
    | some m => if slotsUsed c m < slotsPerMill then
        some { mkey := k, spread := false, owner := m, copies := [], tokens := 0, bad := false } else none

/-- Add a contribution of Mill `m` into a slot: the first one fills its copy, each later one is one FP32 addition an element
(R203, R205). -/
def MergeSlot.add (x : MergeSlot) (m : Nat) (vals : List W32) (ue : Bool) : MergeSlot :=
  let at_ := if x.spread then m else x.owner
  let sum := match mget x.copies at_ with
    | some old => (old.zip vals).map (fun p => fAdd p.1 p.2)
    | none => vals
  { x with copies := mset x.copies at_ sum, tokens := x.tokens + 1, bad := x.bad || ue }

/-- Put a contribution into the table; none where it finds too few free slots. -/
def Column.merged (c : Column) (uses ord m : Nat) (k : MergeKey) (vals : List W32) (ue : Bool) : Option Column :=
  let runs := if ord ∈ c.runSet then c.runSet else c.runSet ++ [ord]
  if c.merge.any (fun x => x.mkey == k) then
    some { c with merge := lmap c.merge (fun x => x.mkey == k) (fun x => x.add m vals ue), runSet := runs }
  else match freshSlot c uses k with
    | some x => some { c with merge := c.merge ++ [x.add m vals ue], runSet := runs }
    | none => none

/-- The elements of a row a backward Run has read. -/
def backElems (r : Run) (w : BagWork) (x : Option MillRead) : Option (List W32) :=
  match x with
  | none => none
  | some y => if y.status ≠ .ok then none
    else (readElems r w y.data).map (fun p => p.2.2.map (elemValue p.2.1))

/-- The status of a failed read (R196), an undecodable row among them (R92). -/
def backFail (r : Run) (w : BagWork) (x : Option MillRead) : Option Status :=
  match x with
  | none => none
  | some y => if y.status ≠ .ok then some y.status
    else if (readElems r w y.data).isNone then some .uncorrectable else none

/-- The work after a lookup: its weight-gradient sum, its first failure, the cursor. -/
def stepBackward (col mill : Nat) (r : Run) (w : BagWork) (wgt : W32) (zero : Bool) (x : Option MillRead) (s : State) :
    State :=
  let g := gradSlice r w
  let acc := match backElems r w x with
    | some xs => if r.tmpl.wgrad && !zero then lmod w.acc w.cursor (fun a => gammaStep r wgt a g xs) else w.acc
    | none => w.acc
  let w := { w with acc := acc, failed := w.failed.orElse (fun _ => backFail r w x) }
  match x with
  | some y => consume col mill r w y s
  | none =>
    let key := ((w.lookups[w.cursor]?).bind (fun l => l.1.key r.desc.tid)).map (windowKey r w.slice)
    let s := countEv col 0x100 1 (useWindow col key s)
    setWork col mill (some { w with cursor := w.cursor + 1 }) s

/-- Form one contribution (R68, R69, R193, R196, R198, R269). -/
def contribute (col mill : Nat) (r : Run) (t : Table) (w : BagWork) (l : Lookup × W32) (x : Option MillRead) (ue : Bool)
    (s : State) : State :=
  match l.1.key r.desc.tid with
  | none => stepBackward col mill r w l.2 true x s
  | some key =>
    if t.opt.kind = .none then stepBackward col mill r w l.2 false x s
    else
      let xs := (backElems r w x).getD (unreadElems r w key)
      let vs := contribution r (divisorOf t w) l.2 (gradSlice r w) xs
      let k : MergeKey := { step := r.desc.step, key := key, slice := w.slice, epoch := r.epoch }
      match (colOf s col).merged (usesIn (windowOf s col) k) r.ord mill k vs ue with
      | some c => stepBackward col mill r w l.2 false x { s with cols := mset s.cols col c }
      | none => colMod col (fun c => { c with flushDue := true }) s

/-- The Run contributes in a column although a lookup made no contribution: its record waits for the flush (R207). -/
def readyLookup (r : Run) (w : BagWork) : Option (Option MillRead) :=
  if needsRows r then
    match w.reads.find? (fun x => x.pos == w.cursor) with
    | some x => if x.answered then some (some x) else none
    | none => none
  else some none

/-- BACKWARD_CONTRIBUTION (R68, R69, R193, R196, R200 to R203, R269): the next lookup of a backward bag's slice. `ue`: the merge
slot holds an uncorrectable word (R154). -/
def execBackwardContribution (col mill : Nat) (ue : Bool) (s : State) : Host.Outcome State Fault Refusal :=
  match workOf s col mill with
  | none => .next s
  | some w =>
    match runOf s w.ord, w.lookups[w.cursor]? with
    | some r, some l =>
      match mget s.tables r.desc.tid, readyLookup r w with
      | some t, some x =>
        .next (if !(w.opened && r.backward && millsRun s && (x.isSome || decide ((colOf s col).window.length < 4096))) then s
          else contribute col mill r t w l x ue s)
      | _, _ => .next s
    | _, _ => .next s

/-! ## Flushes (R204 to R209, R212) -/

/-- The values a slot emits: its copies summed in ascending position order (R205). -/
def slotValues (x : MergeSlot) : List W32 :=
  match x.copies with
  | [] => []
  | c :: rest => rest.foldl (fun acc d => (acc.zip d.2).map (fun p => fAdd p.1 p.2)) c.2

/-- R209, R212: a remote partial of a table from its values before R83: the packet, its own shift of R103, clamps. -/
def encodePartial (t : Table) (k : MergeKey) (raw : List W32) (contrib tokens : Nat) : PartialPkt × Int × Nat :=
  let w16 := t.opt.partW16
  let cmax := partCmax w16
  let xs := raw.map subst
  let n := ownShift cmax xs
  let zero := xs.all isZero
  let (shift, own) := match t.agreed with
    | some a => if zero || decide (n ≤ (a : Int) - 141) then ((a : Int) - 141, false) else (n, true)
    | none => (n, false)
  ({ tid := k.key.tid, defkey := k.key.defkey, row := k.key.row, slice := k.slice, w16 := w16, ownExp := own,
     rescaled := false, step := k.step, epoch := k.epoch, exp := (shift + 141).toNat, contrib := contrib,
     tokens := tokens, codes := (encodeAt cmax shift xs).1 }, n, clampsOf cmax shift raw)

/-- Bytes a local partial takes in the pen (R232). -/
def penLocal (n : Nat) : Nat := up64 (64 + 4 * n)

/-- Encode a remote partial and record what the encoding adds to LOCAL_MAX, OWN_EXP and SAT_ELEMS (R105, R212, R671). -/
def encodeRemote (t : Table) (k : MergeKey) (raw : List W32) (contrib tokens : Nat) (s : State) : PartialPkt × State :=
  let (p, n, clamps) := encodePartial t k raw contrib tokens
  let s := if (raw.map subst).all isZero then s else noteLocalMax k.key.tid k.step n s
  let s := if p.ownExp then asyMod k.key.tid (fun a => { a with ownExp := satAdd 32 a.ownExp 1 }) s else s
  (p, countClamps k.key.tid clamps s)

/-- Emit one slot as a partial: to the local Ledger's input, or on its way to a Span port. -/
def emitSlot (runs : List Nat) (x : MergeSlot) (s : State) : State :=
  match mget s.tables x.mkey.key.tid with
  | none => s
  | some t =>
    let raw := slotValues x
    let s := countSubst x.mkey.key.tid raw s
    let first := x.mkey.slice == 0
    let contrib := if first then 1 else 0
    let tokens := if first then x.tokens else 0
    let home := homeUnder s t x.mkey.epoch x.mkey.key
    if home = self s then
      let c : Contrib := { key := x.mkey.key, slice := x.mkey.slice, step := x.mkey.step, epoch := x.mkey.epoch,
                           vals := raw.map subst, contrib := contrib, tokens := tokens, runs := runs,
                           bytes := penLocal raw.length, deferred := false, pkt := none, hold := .no, block := 0 }
      { s with ldg := { s.ldg with input := s.ldg.input ++ [c] } }
    else
      let (p, s) := encodeRemote t x.mkey raw contrib tokens s
      { s with span := { s.span with partialQ := s.span.partialQ ++ [(mkPkt s home (.part p), runs)] } }

/-- A slot with an uncorrectable word is discarded and counted (R154, R235). -/
def dropSlot (s : State) : State :=
  raise evEccUncorrectable { s with ldg := { s.ldg with dropped := satAdd 24 s.ldg.dropped 1 } }

/-- Flush a column's merge table: one partial per key, carrying the Runs that contributed since the last flush. -/
def flushColumn (col : Nat) (s : State) : State :=
  let c := colOf s col
  let good := c.merge.filter (fun x => !x.bad)
  let s := c.merge.foldl (fun t x => if x.bad then dropSlot t else emitSlot c.runSet x t) s
  let s := c.runSet.foldl (fun t o => runMod o (fun r => { r with partialsOut := r.partialsOut + good.length }) t) s
  let s := countEv col 0x107 good.length (countEv col 0x106 1 s)
  colMod col (fun k => { k with merge := [], runSet := [], flushDue := false }) s

/-- Partials of a flush that stay at this K40. -/
def localPartials (s : State) (c : Column) : Nat :=
  (c.merge.filter (fun x => !x.bad && (match mget s.tables x.mkey.key.tid with
    | some t => homeUnder s t x.mkey.epoch x.mkey.key == self s
    | none => false))).length

/-- MERGE_FLUSH (R204 to R209, R226): a flush that is due is carried out once the Ledger's input takes its local partials. A
column in backward service with nothing left to do passes to forward service by its flush (R199). -/
def execMergeFlush (col : Nat) (s : State) : Host.Outcome State Fault Refusal :=
  let c := colOf s col
  .next (if c.flushDue && decide (s.ldg.input.length + localPartials s c ≤ 4096) then flushColumn col s else s)

/-- BACKWARD_STREAM_IDLE (kind 3 of R204): the column's backward flows have stayed empty for 64 Mill cycles. -/
def execBackwardStreamIdle (col : Nat) (s : State) : Host.Outcome State Fault Refusal :=
  let c := colOf s col
  let busy := s.qh.runs.any (fun r => r.backward && r.groups.any (fun g => g.2.col == col && g.2.forwarded &&
    (groupBags r g.1).any (fun b => (bagOf r b).state == .pending)))
  .next (if decide (col < 40) && c.backward && !busy && !(c.merge.isEmpty && c.runSet.isEmpty)
    then colMod col (fun k => { k with flushDue := true }) s else s)

/-! ## Partials on their way (R152, R377, R378) -/

/-- The Runs of a partial lose one partial that was out. -/
def partialTaken (runs : List Nat) (s : State) : State :=
  runs.foldl (fun t o => runMod o (fun r => { r with partialsOut := r.partialsOut - 1 }) t) s

/-- PARTIAL_ENQUEUE (R152, R377): the oldest partial enters the queue of its route's port, where it may fold; one whose home
cannot be reached is refused (R382). -/
def execPartialEnqueue (s : State) : Host.Outcome State Fault Refusal :=
  match s.span.partialQ with
  | [] => .next s
  | (k, runs) :: rest =>
    let s := { s with span := { s.span with partialQ := rest } }
    .next (partialTaken runs (relay k s))

/-- Make the `idx`-th partial of the queues of a port eligible. -/
def makeEligible : Nat → List Queued → List Queued
  | _, [] => []
  | i, q :: r =>
    match q.pkt.body, i with
    | .part _, 0 => { q with eligible := true } :: r
    | .part _, n + 1 => q :: makeEligible n r
    | _, n => q :: makeEligible n r

/-- Partials in a queue. -/
def partialsIn (q : List Queued) : Nat := (q.filter (fun e => kindNo e.pkt.body == 6)).length

/-- FOLD_HOLD_EXPIRE (R378): the `idx`-th queued partial of a port, virtual lane 0 before 1, has waited FOLD_HOLD × 64 Span
cycles. -/
def execFoldHoldExpire (port idx : Nat) (s : State) : Host.Outcome State Fault Refusal :=
  if 8 ≤ port then .next s
  else
    let qs := (portAt s port).queues
    let n := partialsIn (mgetD qs 4 [])
    let (ch, i) := if idx < n then (4, idx) else (5, idx - n)
    .next (if (mget qs ch).isSome then
        portMod port (fun p => { p with queues := mmod p.queues ch [] (makeEligible i) }) s else s)

end Sys2Proof.Machine
end

