-- ==== Sys2Proof/Machine/Ledger.lean ====
section
/-! DEFINITION. The Ledger: classification of contributions, the holding pen, folding, the Day Book spill, and the commands
STEP_OPEN, SEAL and STEP_REPORT (chapters "The Ledger: gradients without loss" and "The K40 in one training step"). -/

namespace Sys2Proof.Machine

open Sys2Proof

/-! ## Classification (R18, R21, R40, R65, R229 to R231, R238, R586, R589, R592) -/

/-- What becomes of a contribution. -/
inductive Fate where
  | fold (step : Nat) (deferred : Bool)
  | pen (hold : PenHold) (deferred : Bool)
  | drop (why : DropReason)
  | forward (home : Nat)
  deriving DecidableEq, Repr

/-- The reference step of R231 and whether a step counts as open. A contribution that reached the input before the Seal
(`pre`) is classified as it was when it arrived. -/
def refStep (s : State) (pre : Bool) : Option (Nat × Bool) :=
  match s.ldg.openStep, s.ldg.sealedStep with
  | some o, some q => if pre then some (q, true) else some (o, true)
  | some o, none => some (o, true)
  | none, some q =>
    if pre then some (q, true)
    else match s.ldg.penRef with
      | .unset => none
      | .after x => some ((x + 1) % pow32, false)
  | none, none =>
    match s.ldg.penRef with
    | .unset => none
    | .after x => some ((x + 1) % pow32, false)

/-- R229 to R231: the fate of a contribution of `step` of a table against reference step `r`. -/
def stepFate (t : Table) (horizon r step : Nat) (isOpen : Bool) : Fate :=
  let d := (step + pow32 - r) % pow32
  if d = 0 then (if isOpen then .fold r false else .pen (.step r) false)
  else if d = 1 ∧ isOpen then .pen (.step ((r + 1) % pow32)) false
  else if d ≤ 2147483648 then .drop .stray
  else if t.drop then .drop .policy
  else if horizon < pow32 - d then .drop .horizon
  else if isOpen then .fold r true
  else .pen (.step r) true

/-- Epoch `a` is later than epoch `b` (R60). -/
def epochLater (a b : Nat) : Bool :=
  let d := (a + 65536 - b) % 65536
  decide (1 ≤ d) && decide (d ≤ 32767)

/-- This K40 homes a key under some epoch it serves (R65, R592); the learned default row at DEF_HOME (R265). -/
def homesKey (s : State) (t : Table) (key : RowKey) : Bool :=
  if key.defkey then t.defHome == self s
  else match mapOf s t with
    | none => false
    | some m => ownsShard m (self s) (shardSlot t key.row).1

/-- What the table, its Shutter, the epochs and re-sharding make of a contribution, before its step is looked at. -/
def placeFate (s : State) (c : Contrib) : Option Fate :=
  match liveTable s c.key.tid with
  | none => some (.drop .table)
  | some t =>
    if t.shut = some true then some (.drop .shutter)
    else if c.pkt.isSome && ((mapOf s t).map (fun m => epochLater c.epoch m.epoch)).getD false then
      some (.pen .epoch false)
    else match rowPhase s t c.key with
      | .handedOver g => some (.forward g)
      | _ => if homesKey s t c.key then none else some (.drop .epoch)

/-- The fate of a contribution as it arrives. -/
def fateOf (s : State) (c : Contrib) (pre : Bool) : Fate :=
  match placeFate s c with
  | some f => f
  | none =>
    match mget s.tables c.key.tid, refStep s pre with
    | some t, some (r, isOpen) => stepFate t s.ldg.horizon r c.step isOpen
    | _, _ => .pen .unset false

/-- Late or stray, for LATE_ARRIVAL (R233). -/
def Fate.lateOrStray : Fate → Bool
  | .fold _ d => d
  | .pen _ d => d
  | .drop .policy | .drop .horizon | .drop .stray => true
  | .drop _ | .forward _ => false

/-- Raise LATE_ARRIVAL at the first late or stray contribution after each Seal, at most once for each (R233). A contribution
that reached the input before the last Seal (`pre`) counts for the Seal before it. -/
def noteLate (f : Fate) (pre : Bool) (s : State) : State :=
  if !f.lateOrStray then s
  else if pre then
    (if s.ldg.latePrior then raise evLateArrival { s with ldg := { s.ldg with latePrior := false } } else s)
  else if s.ldg.lateArmed then raise evLateArrival { s with ldg := { s.ldg with lateArmed := false } }
  else s

/-- Mark the Runs of a late flush (R234). -/
def markRuns (f : Fate) (runs : List Nat) (s : State) : State :=
  match f with
  | .drop .policy | .drop .horizon => runs.foldl (fun t o => runMod o (fun r => { r with lateDropped := true }) t) s
  | .fold _ true | .pen _ true => runs.foldl (fun t o => runMod o (fun r => { r with lateDeferred := true }) t) s
  | _ => s

/-! ## Room (R220, R225, R227, R232, R248) -/

/-- Index positions (R216). -/
def indexSize : Nat := 4194304

/-- Bytes of an accumulator record (R217). -/
def recordBytes (d : Nat) : Nat := 64 + 4 * d

/-- A place for a record of D elements: blocks from the base of the Ledger region on, behind the pen and the filters (R217, R302).
The choice is the hardware's (assumption log 8). -/
def recordPlace (s : State) (d : Nat) : Option Nat :=
  placeBlocks (s.ldg.entries.map (fun e => (e.acb, blocksOf (recordBytes e.acc.length)))) 327680
    (regionBlocks (planLedger s.lrd.plan)) (blocksOf (recordBytes d))

/-- A fresh entry of D elements has an index entry and room for its record. -/
def entryRoom (s : State) (d : Nat) : Bool :=
  decide (s.ldg.entries.length < indexSize) && (recordPlace s d).isSome

/-- Spill-record slots: a record of a full slice is 2,112 B. -/
def spillSlots (s : State) : Nat := planSpill s.lrd.plan * gib / 2112

/-- The spill area takes a record: its last 4,096 slots only from contributions that arrived before the Seal (R248). -/
def spillRoom (s : State) (pre : Bool) : Bool :=
  decide (s.ldg.spills.length + (if pre then 1 else 4096) ≤ spillSlots s)

/-- Bytes of the holding pen (R232). -/
def penBytes : Nat := 16 * 1048576

/-- Bytes of the pen in use. -/
def penUsed (s : State) : Nat := s.ldg.pen.foldl (fun n c => n + c.bytes) 0

/-- A place in the pen for so many bytes, in blocks from its base (R232, R302). The choice is the hardware's (assumption log
8). -/
def penPlace (s : State) (n : Nat) : Option Nat :=
  placeBlocks (s.ldg.pen.map (fun c => (c.block, blocksOf c.bytes))) 0 262144 (blocksOf n)

/-! ## The layouts (R216, R217) -/

/-- An index entry (R216). -/
def indexBits (s : State) (e : LEntry) : BitVec 128 :=
  BitVec.ofNat 128 (e.key.tid + (if e.key.defkey then 0 else e.key.row) * 2 ^ 12 + b2n e.key.defkey * 2 ^ 52 +
    e.step % 2 * 2 ^ 53 + b2n e.deferred * 2 ^ 54 + b2n e.applied * 2 ^ 55 + b2n e.promoted * 2 ^ 56 +
    (ledgerBase s + e.acb) * 2 ^ 64)

/-- The bytes of an accumulator record (R217). -/
def recordImage (e : LEntry) : List Byte :=
  toLe 8 (e.step + e.contrib * 2 ^ 32) ++ toLe 8 e.tokens ++ toLe 8 e.defTokens ++ List.replicate 40 0 ++
    e.acc.flatMap (fun x => toLe 4 x.toNat)

/-! ## Folding (R215 to R220, R229, R299, R570) -/

/-- Add elements to the accumulator from an offset on, one rounding each. -/
def addAt : Nat → List W32 → List W32 → List W32
  | _, acc, [] => acc
  | _, [], _ => []
  | 0, a :: acc, v :: vs => fAdd a v :: addAt 0 acc vs
  | n + 1, a :: acc, vs => a :: addAt n acc vs

/-- Fold a contribution into an entry. CONTRIB and TOKENS of slice 0 alone are added (R218); an entry with an
uncorrectable record takes no fold (R299). -/
def LEntry.fold (e : LEntry) (c : Contrib) (deferred : Bool) : LEntry :=
  let own (n : Nat) : Nat := if c.slice = 0 then n else 0
  if e.bad then e
  else { e with
    acc := addAt (1024 * c.slice) e.acc c.vals, deferred := e.deferred || deferred,
    contrib := satAdd 32 e.contrib (own c.contrib), tokens := satAdd 40 e.tokens (own c.tokens),
    defTokens := if deferred then satAdd 40 e.defTokens (own c.tokens) else e.defTokens }

/-- The entry of a key for a step. -/
def entryOf (s : State) (key : RowKey) (step : Nat) : Option LEntry :=
  s.ldg.entries.find? (fun e => e.key == key && e.step == step)

/-- A fold under R229 counts in DEFERRED. -/
def countDeferred (deferred : Bool) (s : State) : State :=
  if deferred then { s with ldg := { s.ldg with deferred := satAdd 24 s.ldg.deferred 1 } } else s

/-- A fold or an apply unit reads the record of a key for a step: one with a poisoned word takes no further folds, and nothing is
applied from it (R299, R300). -/
def meetRecord (key : RowKey) (step : Nat) (s : State) : State :=
  match entryOf s key step with
  | none => s
  | some e =>
    match poisonIn s (ledgerBase s + e.acb) (blocksOf (recordBytes e.acc.length)) with
    | none => s
    | some b =>
      let s := larderUe b s
      { s with ldg := { s.ldg with entries := lmap s.ldg.entries (fun x => x.key == key && x.step == step) (fun x => { x with bad := true }) } }

/-- Fold into the entry that is there. -/
def foldEntry (c : Contrib) (step : Nat) (deferred : Bool) (s : State) : State :=
  let l := lmap s.ldg.entries (fun e => e.key == c.key && e.step == step) (fun e => e.fold c deferred)
  countEv islLedger 0x400 1 (countDeferred deferred { s with ldg := { s.ldg with entries := l } })

/-- A new entry of a key for a step at an index position, its record +0 throughout, at a place of the Ledger region that the
write cleans of poison (R217, R220). -/
def newEntry (key : RowKey) (step pos dim acb : Nat) (s : State) : State :=
  let e : LEntry := { pos := pos, acb := acb, applied := false, key := key, step := step, deferred := false, promoted := false,
                      issued := false, bad := false, contrib := 0, tokens := 0, defTokens := 0, acc := List.replicate dim 0 }
  cleanBlocks (ledgerBase s + acb) (blocksOf (recordBytes dim)) { s with ldg := { s.ldg with entries := s.ldg.entries ++ [e] } }

/-- The first contribution for a key creates the entry, every element +0, at a position (R217, R220, R258). -/
def createEntry (c : Contrib) (step pos dim : Nat) (s : State) : State :=
  countEv islLedger 0x401 1 (newEntry c.key step pos dim ((recordPlace s dim).getD 0) s)

/-- Base of the journal area (R302). -/
def journalBase (s : State) : Nat := saveBase s - planJournal s.lrd.plan * gib

/-- Base of the spill area (R302). -/
def spillBase (s : State) : Nat := journalBase s - planSpill s.lrd.plan * gib

/-- Where the record in slot `n` of the spill area lies: slots of 2,112 B, which a record of a full slice fills (assumption log
36). -/
def spillAddr (s : State) (n : Nat) : Nat := spillBase s + n * 2112

/-- Bytes of a spill record (R225). -/
def spillSize (r : Spill) : Nat := 64 + 2 * r.elems.length

/-- The bytes of a spill record (R225). -/
def spillBytes (r : Spill) : List Byte :=
  toLe 8 (r.step + r.key.tid * 2 ^ 32 + b2n r.key.defkey * 2 ^ 44 + r.slice * 2 ^ 45 + r.elems.length * 2 ^ 48 +
    b2n r.deferred * 2 ^ 59) ++ toLe 8 (if r.key.defkey then 0 else r.key.row) ++ toLe 8 r.tokens ++ toLe 8 r.contrib ++
    List.replicate 32 0 ++ r.elems.flatMap (fun x => toLe 2 x.toNat)

/-- A free slot of the spill area. -/
def spillPlace (s : State) : Nat := (placeBlocks (s.ldg.spills.map (fun r => (r.place, 1))) 0 (spillSlots s) 1).getD 0

/-- A spill record (R224, R225). SPILL_RECORDS counts those of the open step; a record of the sealed step counts there while no
step is open beside it. -/
def spillOut (c : Contrib) (step : Nat) (deferred : Bool) (s : State) : State :=
  let r : Spill := { place := spillPlace s, step := step, key := c.key, slice := c.slice, deferred := deferred,
                     tokens := c.tokens, contrib := c.contrib, elems := c.vals.map (fun x => (toBf16 x).1) }
  let own := s.ldg.openStep.isNone || s.ldg.openStep == some step
  let s := hbmWrite (spillAddr s r.place) (spillBytes r) { s with ldg := { s.ldg with
    spills := s.ldg.spills ++ [r], spilled := true,
    spillRecords := if own then satAdd 32 s.ldg.spillRecords 1 else s.ldg.spillRecords } }
  countEv islLedger 0x402 1 (countDeferred deferred (setFilter c.key step s))

/-- An index word is uncorrectable: its entry and record are discarded (R235, R570). An entry that the Day Book holds stays, since
the commit engine has its key from there (DEDUCED, assumption log 46). -/
def loseEntry (pos : Nat) (s : State) : State :=
  let mine := fun (e : LEntry) => e.pos == pos && !e.issued
  if s.ldg.entries.any mine then
    raise evEccUncorrectable { s with ldg := { s.ldg with
      entries := s.ldg.entries.filter (fun e => !mine e), dropped := satAdd 24 s.ldg.dropped 1 } }
  else s

/-- A position the index can give a new entry. -/
def posFree (s : State) (pos : Nat) : Bool :=
  decide (pos < indexSize) && s.ldg.entries.all (fun e => e.pos != pos)

/-- Fold a contribution into its entry of a step, creating it or spilling; none where it must wait for room (R220, R227) or
where the index does not give the position. -/
def foldInto (c : Contrib) (step : Nat) (deferred pre : Bool) (pos : Nat) (s : State) : Option State :=
  if (entryOf s c.key step).isSome then some (foldEntry c step deferred (meetRecord c.key step s))
  else
    let dim := ((mget s.tables c.key.tid).map Table.dim).getD 0
    if entryRoom s dim then
      if posFree s pos then some (foldEntry c step deferred (createEntry c step pos dim s)) else none
    else if spillRoom s pre then some (spillOut c step deferred s)
    else none

/-- Send a contribution for a row this K40 has handed over on to the row's home (R589). -/
def forwardPartial (c : Contrib) (home : Nat) (s : State) : State :=
  match mget s.tables c.key.tid with
  | none => s
  | some t =>
    let s := fwdMod t.homeMap (fun k => { k with partials := satAdd 32 k.partials 1 }) s
    match c.pkt with
    | some k => relay { k with hdr := { k.hdr with dest := home, hops := k.hdr.hops + 1 } } s
    | none =>
      let (p, s) := encodeRemote t { step := c.step, key := c.key, slice := c.slice, epoch := c.epoch } c.vals
        c.contrib c.tokens s
      sendOwn home (.part p) s

/-- A discarded contribution (R230, R235, R592). -/
def discard (c : Contrib) (why : DropReason) (s : State) : State :=
  let s := match why, mget s.tables c.key.tid with
    | .epoch, some t => fwdMod t.homeMap (fun k => { k with epochDropped := satAdd 32 k.epochDropped 1 }) s
    | _, _ => s
  dropPartial c.key c.step why s

/-! ## The fold unit -/

/-- The step whose folds may take place: the open one, or the sealed one until SEAL_DONE. -/
def foldable (s : State) (n : Nat) : Bool :=
  s.ldg.openStep == some n || (s.ldg.sealing && s.ldg.sealedStep == some n)

/-- A contribution in the pen is due: the step it folds into is open, or its epoch has been installed (R232, R586). -/
def penDue (s : State) (c : Contrib) : Bool :=
  match c.hold with
  | .step n => foldable s n
  | .epoch => placeFate s c != some (.pen .epoch false)
  | .unset | .no => false

/-- The first due contribution of the pen. -/
def duePos (s : State) : Option Nat := s.ldg.pen.findIdx? (penDue s)

/-- The fate of a due contribution. -/
def penFate (s : State) (c : Contrib) : Fate :=
  match c.hold with
  | .step n => (placeFate s c).getD (.fold n c.deferred)
  | _ => fateOf s c false

/-- The holds that keep the Runs of a flush: one whose step is not classified yet may still prove late (R231, R234). -/
def PenHold.keepsRuns (h : PenHold) : Bool := h == .unset

/-- Carry out a fate; none where the contribution must wait. -/
def settleFate (c : Contrib) (f : Fate) (pre : Bool) (pos : Nat) (s : State) : Option State :=
  match f with
  | .fold step d => foldInto c step d pre pos s
  | .pen h d =>
    (penPlace s c.bytes).map (fun b =>
      let x : Contrib := { c with hold := h, deferred := d, runs := if h.keepsRuns then c.runs else [], block := b }
      cleanBlocks (ledgerBase s + b) (blocksOf c.bytes) { s with ldg := { s.ldg with pen := s.ldg.pen ++ [x] } })
  | .drop why => some (discard c why s)
  | .forward g => some (forwardPartial c g s)

/-- A contribution in the pen has a poisoned word (R300). -/
def penPoison (s : State) (c : Contrib) : Option Nat := poisonIn s (ledgerBase s + c.block) (blocksOf c.bytes)

/-- A contribution in the pen with an uncorrectable word is discarded and counted; it takes no drop-log slot (R235, R299). -/
def losePen (b : Nat) (s : State) : State :=
  larderUe b { s with ldg := { s.ldg with dropped := satAdd 24 s.ldg.dropped 1 } }

/-- A contribution of the pen that belongs to the step that is being sealed arrived before the Seal (R248). -/
def penPre (s : State) (c : Contrib) : Bool :=
  s.ldg.sealing && (match c.hold with
    | .step n => s.ldg.sealedStep == some n
    | _ => false)

/-- The next contribution of the pen is folded, in arrival order. One whose epoch has come is classified then. -/
def foldPen (i : Nat) (c : Contrib) (pos : Nat) (s : State) : State :=
  let f := penFate s c
  let t := { s with ldg := { s.ldg with pen := s.ldg.pen.eraseIdx i } }
  match penPoison s c with
  | some b => losePen b t
  | none =>
    match settleFate c f (penPre s c) pos t with
    | some u => if c.hold = .epoch then noteLate f false u else u
    | none => s

/-- The head of the input is taken, unless it must wait for room; the Ledger has then taken the partial (R152). -/
def foldHead (c : Contrib) (rest : List Contrib) (pos : Nat) (s : State) : State :=
  let pre := decide (0 < s.ldg.beforeSeal)
  let f := fateOf s c pre
  let t := { s with ldg := { s.ldg with input := rest, beforeSeal := s.ldg.beforeSeal - 1 } }
  match settleFate c f pre pos t with
  | some u => noteLate f pre (markRuns f c.runs (partialTaken c.runs u))
  | none =>
    match f with
    | .pen _ _ => { s with ldg := { s.ldg with penFull := true } }
    | _ => s

/-- The fold unit takes a contribution that is due in the pen, or else the oldest at its input; a new entry takes index position
`pos`. -/
def foldNext (pos : Nat) (s : State) : State :=
  match (duePos s).bind (fun i => (s.ldg.pen[i]?).map (fun c => (i, c))) with
  | some (i, c) => foldPen i c pos s
  | none =>
    match s.ldg.input with
    | c :: rest => foldHead c rest pos s
    | [] => s

/-- LEDGER_FOLD (R21, R40, R215 to R220, R224 to R235, R299, R570, R589): one fold. `ue`: instead, the index word at `pos` is found
uncorrectable as a fold or the journal reads it; what that fold brings is folded by the command that follows. -/
def execLedgerFold (pos : Nat) (ue : Bool) (s : State) : Host.Outcome State Fault Refusal :=
  .next (if ue then loseEntry pos s else foldNext pos s)

/-! ## STEP_OPEN (R18, R210, R231, R513) -/

/-- Entries of an exponent list: TID and byte; none where a bit beside them is set. -/
def exponents : Nat → List Byte → Option (List (Nat × Nat))
  | 0, _ => some []
  | n + 1, bs =>
    let w := fieldAt bs 0 4
    if w &&& 0xFF0FFF ≠ w then none
    else (exponents n (bs.drop 4)).map (fun r => (nbits w 0 12, nbits w 16 8) :: r)

/-- No TID twice. -/
def tidsOnce : List (Nat × Nat) → Bool
  | [] => true
  | (t, _) :: r => !(r.any (fun p => p.1 == t)) && tidsOnce r

/-- Read the exponent list. -/
def exponentList (s : State) (v : ChipView) (ctx n da : Nat) : Except Status (List (Nat × Nat)) :=
  if n = 0 then .ok []
  else match clerkRead s v ctx da (4 * n) with
    | .error e => .error e
    | .ok bs =>
      match exponents n bs with
      | some l => if tidsOnce l then .ok l else .error .badDescriptor
      | none => .error .badDescriptor

/-- R18: the Clerk accepts Step open of this step. -/
def openOk (s : State) (step : Nat) : Bool :=
  match s.ldg.openStep, s.ldg.sealedStep with
  | some _, _ => false
  | none, some q => step == (q + 1) % pow32
  | none, none => true

/-- R210: AGREED of every table for the opened step. -/
def setAgreed (step : Nat) (l : List (Nat × Nat)) (s : State) : State :=
  let last := (s.ldg.lastSealed.map (fun p => if (p.1 + 1) % pow32 = step then p.2 else [])).getD []
  let named (tid : Nat) : Option Nat := (l.find? (fun e => e.1 == tid)).map Prod.snd
  let value (tid : Nat) (old : Option Nat) : Option Nat := (named tid).orElse (fun _ => (mget last tid).orElse (fun _ => old))
  { s with tables := s.tables.map (fun p => (p.1, { p.2 with agreed := value p.1 p.2.agreed })) }

/-- One contribution of a pen whose pen step was unset, classified as though it arrived now (R231, R233, R234); a poisoned one
is discarded (R299). -/
def resolveOne (c : Contrib) (s : State) : State × Bool :=
  match penPoison s c with
  | some b => (losePen b s, false)
  | none =>
    let f := fateOf s c false
    let stay (h : PenHold) (d : Bool) (s : State) : State :=
      { s with ldg := { s.ldg with pen := s.ldg.pen ++ [{ c with hold := h, deferred := d, runs := [] }] } }
    let s := markRuns f c.runs s
    match f with
    | .drop why => (discard c why s, f.lateOrStray)
    | .forward g => (forwardPartial c g s, false)
    | .fold n d => (stay (.step n) d s, d)
    | .pen h d => (stay h d s, d)

/-- All of them, in arrival order; the first late or stray one raises LATE_ARRIVAL. -/
def resolvePen (s : State) : State :=
  let all := s.ldg.pen
  let r := all.foldl (fun (p : State × Bool) c =>
    let q := resolveOne c p.1
    (q.1, p.2 || q.2)) ({ s with ldg := { s.ldg with pen := [] } }, false)
  if r.2 then raise evLateArrival r.1 else r.1

/-- Partials of the pen step that a Step open of another step discards (R18). -/
def strayPen (s : State) : State :=
  let ofStep (c : Contrib) : Bool := match c.hold with
    | .step _ => true
    | _ => false
  let gone := s.ldg.pen.filter ofStep
  let rest := s.ldg.pen.filter (fun c => !ofStep c)
  gone.foldl (fun t c => dropPartial c.key c.step .stray t) { s with ldg := { s.ldg with pen := rest } }

/-- Open a step. -/
def openStepAt (step : Nat) (l : List (Nat × Nat)) (s : State) : State :=
  let was := s.ldg.penRef
  let wrong := s.ldg.sealedStep.isNone && (match was with
    | .unset => false
    | .after x => step != (x + 1) % pow32)
  let s := if wrong then strayPen s else s
  let s := setAgreed step l s
  let s := { s with ldg := { s.ldg with
    openStep := some step, openWas := step, penRef := .after step, localMax := [], spillRecords := 0, filterOpen := [] } }
  if was = .unset then resolvePen s else s

/-- STEP_OPEN. -/
def execStepOpen (slot : Nat) (v : ChipView) (s : State) : Host.Outcome State Fault Refusal :=
  cmdStep 0x0A01 slot s (fun m s =>
    let step := bits (arg m 1) 0 32
    let n := bits (arg m 1) 32 13
    if n > 4096 ∨ !openOk s step then postFinal slot m .badDescriptor [] s
    else match exponentList s v m.ctx n (bits (arg m 2) 0 56) with
      | .error e => postFinal slot m e [] (noteClerk v m.ctx (bits (arg m 2) 0 56) (4 * n) s)
      | .ok l => postFinal slot m .ok [] (openStepAt step l s))

/-! ## SEAL, SEAL_DONE, STEP_REPORT (R211, R228, R245, R246) -/

/-- Columns that hold a slot of the step flush (R204 kind 4). -/
def sealFlush (step : Nat) (s : State) : State :=
  { s with cols := s.cols.map (fun p =>
      (p.1, if p.2.merge.any (fun x => x.mkey.step == step) then { p.2 with flushDue := true } else p.2)) }

/-- Accept Seal(s) (R246); what stands at the input reached it before the Seal. -/
def sealStep (step : Nat) (s : State) : State :=
  sealFlush step { s with ldg := { s.ldg with
    openStep := none, sealedStep := some step, sealedWas := step, sealing := true, sealDone := false, beforeSeal := s.ldg.input.length,
    latePrior := s.ldg.lateArmed, lateArmed := true, lastSealed := some (step, s.ldg.localMax), localMax := [],
    filterSealed := s.ldg.filterOpen, filterOpen := [] } }

/-- SEAL. -/
def execSeal (slot : Nat) (s : State) : Host.Outcome State Fault Refusal :=
  cmdStep 0x0A02 slot s (fun m s =>
    let step := bits (arg m 1) 0 32
    if s.ldg.openStep = some step ∧ s.ldg.sealedStep = none then accept slot m (sealStep step s)
    else postFinal slot m .badDescriptor [] s)

/-- Every fold of the sealed step that reached the input before the Seal has been written (R228). -/
def sealReady (s : State) : Bool :=
  s.ldg.sealing && s.ldg.beforeSeal == 0 && s.ldg.pen.all (fun c => match c.hold with
    | .step n => s.ldg.sealedStep != some n
    | _ => true)

/-- SEAL_DONE (R228, R246, R504). -/
def execSealDone (s : State) : Host.Outcome State Fault Refusal :=
  .next (if sealReady s then
      let s := raise evSealDone { s with ldg := { s.ldg with sealing := false, sealDone := true } }
      if clerkRuns s then reportAll 0x0A02 1 [] s else s
    else s)

/-- The 8 KiB of a step report (R513). -/
def stepReport (mx : AMap Nat) : List Byte :=
  (List.range 4096).flatMap (fun t => match mget mx t with
    | some x => [BitVec.ofNat 8 x, 1#8]
    | none => [0#8, 0#8])

/-- STEP_REPORT. -/
def execStepReport (slot : Nat) (v : ChipView) (s : State) : Host.Outcome State Fault Refusal :=
  cmdStep 0x0A04 slot s (fun m s =>
    match s.ldg.lastSealed with
    | some (step, mx) =>
      if s.ldg.sealing then postFinal slot m .badDescriptor [] s
      else clerkResult s v slot m (bits (arg m 1) 0 56) (stepReport mx) [w64 step]
    | none => postFinal slot m .badDescriptor [] s)

end Sys2Proof.Machine
end

