-- ==== Sys2Proof/Machine/Optim.lean ====
section
/-! DEFINITION. The optimisers: a row's state record, the update arithmetic, and the correction powers of ADAM (chapter
"Seal, Commit and the optimisers", R222, R266, R267, R270 to R272). -/

namespace Sys2Proof.Machine

open Sys2Proof

/-! ## State records (R270, R271) -/

/-- Bytes of a state code. -/
def stateWidth (o : OptBlock) : Nat := if o.s16 then 2 else 1

/-- CMAX of a state vector. -/
def stateCmax (o : OptBlock) : Nat := if o.s16 then 32767 else 127

/-- Bytes of a state record; 0 where the kind has none. -/
def stateBytes (o : OptBlock) (d : Nat) : Nat :=
  match o.kind with
  | .none | .sgd => 0
  | .momentum => 16 + d * stateWidth o
  | .adagrad => 16
  | .adam => 16 + 2 * d * stateWidth o

/-- Decoded optimiser state of a row: the momentum or first moment, the root of the second moment, the accumulator. -/
structure OptState where
  u : List W32
  r : List W32
  acc : W32
  deriving DecidableEq, Repr

/-- State of a row that has none yet. -/
def OptState.zero (o : OptBlock) (d : Nat) : OptState :=
  { u := if o.kind = .momentum ∨ o.kind = .adam then List.replicate d 0 else [],
    r := if o.kind = .adam then List.replicate d 0 else [], acc := 0 }

/-- Decode a vector of codes: code × 2^(byte − 141), exact. -/
def decodeVector (w byte : Nat) (bs : List Byte) (n : Nat) : List W32 :=
  (groupLe w n bs).map (fun x => fScale (sext (8 * w) x) ((byte : Int) - 141))

/-- Decode a state record. -/
def decodeState (o : OptBlock) (d : Nat) (bs : List Byte) : OptState :=
  let w := stateWidth o
  { u := if o.kind = .momentum ∨ o.kind = .adam then decodeVector w (fieldAt bs 0 1) (bs.drop 16) d else [],
    r := if o.kind = .adam then decodeVector w (fieldAt bs 1 1) (bs.drop (16 + w * d)) d else [],
    acc := BitVec.ofNat 32 (fieldAt bs 4 4) }

/-- Encode a state vector under R83 and R103: its exponent byte, its bytes, and how many elements STATE_SAT counts. -/
def encodeVector (o : OptBlock) (xs : List W32) : Nat × List Byte × Nat :=
  let sub := (xs.filter (fun x => !isFin x)).length
  let ys := xs.map subst
  let n := ownShift (stateCmax o) ys
  let (cs, clamped) := encodeAt (stateCmax o) n ys
  let w := stateWidth o
  ((n + 141).toNat, cs.flatMap (fun c => toLe w (pat (8 * w) c)), sub + clamped)

/-- Encode a state record; the count goes to STATE_SAT. -/
def encodeState (o : OptBlock) (x : OptState) : List Byte × Nat :=
  let acc := subst x.acc
  let lost := b2n (!isFin x.acc)
  match o.kind with
  | .none | .sgd => ([], 0)
  | .momentum =>
    let (ea, a, na) := encodeVector o x.u
    (toLe 1 ea ++ List.replicate 15 0 ++ a, na)
  | .adagrad => (List.replicate 4 0 ++ toLe 4 acc.toNat ++ List.replicate 8 0, lost)
  | .adam =>
    let (ea, a, na) := encodeVector o x.u
    let (eb, b, nb) := encodeVector o x.r
    (toLe 1 ea ++ toLe 1 eb ++ List.replicate 14 0 ++ a ++ b, na + nb)

/-- Address of the state record at a directory position of a slot. -/
def stateAddr (t : Table) (v : VSlot) (ix : Nat) : Nat := v.stateLoc + ix * stateBytes t.opt t.dim

/-- Write a row's state; answers what STATE_SAT counts. -/
def writeState (t : Table) (a : Nat) (x : OptState) (s : State) : State × Nat :=
  let (bs, n) := encodeState t.opt x
  (hbmWrite a bs s, n)

/-! ## The gradient (R222) -/

/-- G of an entry. -/
def gradOf (t : Table) (acc : List W32) (tokens : Nat) : List W32 :=
  if !t.meanNorm then acc
  else if tokens = 0 then acc.map (fun _ => 0)
  else acc.map (fun x => fDivNat x tokens)

/-! ## The update (R272) -/

/-- The constants of one Commit and table. -/
structure Hyper where
  eta : W32
  etawd : W32
  omb1 : W32
  omb2 : W32
  c1 : W32
  rc2 : W32
  deriving DecidableEq, Repr

/-- Constants under a learning-rate multiplier. -/
def hyperOf (o : OptBlock) (lambda : W32) : Hyper :=
  let eta := fMul o.lr lambda
  { eta := eta, etawd := fMul eta o.wd, omb1 := fSub fOne o.beta1, omb2 := fSub fOne o.beta2,
    c1 := fSub fOne o.b1Pow, rc2 := fSqrt (fSub fOne o.b2Pow) }

/-- Decoupled weight decay. -/
def decay (o : OptBlock) (h : Hyper) (x : W32) : W32 := if isZero o.wd then x else fma (fFlip h.etawd) x x

/-- SGD. -/
def stepSgd (o : OptBlock) (h : Hyper) (x g : W32) : W32 := fma (fFlip h.eta) g (decay o h x)

/-- SGD with momentum: the new element and the new u. -/
def stepMomentum (o : OptBlock) (h : Hyper) (x g u : W32) : W32 × W32 :=
  let u' := fma o.beta1 u g
  (fma (fFlip h.eta) u' (decay o h x), u')

/-- The new accumulator of a row under Adagrad. -/
def adagradAcc (acc : W32) (gs : List W32) : W32 :=
  let ss := gs.foldl (fun a g => fma g g a) 0
  fAdd acc (fDivNat ss gs.length)

/-- The row's step size under Adagrad. -/
def adagradStep (o : OptBlock) (h : Hyper) (a : W32) : W32 := fDiv h.eta (fAdd (fSqrt a) o.eps)

/-- ADAM: the new element, m and r. -/
def stepAdam (o : OptBlock) (h : Hyper) (x g m r : W32) : W32 × W32 × W32 :=
  let m' := fma h.omb1 g (fMul o.beta1 m)
  let v := fma h.omb2 (fMul g g) (fMul o.beta2 (fMul r r))
  let r' := fSqrt v
  let den := fAdd (fDiv r' h.rc2) o.eps
  let q := fDiv (fDiv m' h.c1) den
  (fma (fFlip h.eta) q (decay o h x), m', r')

/-- Two lists joined element by element, the second read as 0 where it is short. -/
def zip0 (xs ys : List W32) : List (W32 × W32) := xs.zip (ys ++ List.replicate (xs.length - ys.length) 0)

/-- The update of a row: its new elements and its new state. -/
def updateRow (o : OptBlock) (h : Hyper) (xs gs : List W32) (st : OptState) : List W32 × OptState :=
  match o.kind with
  | .none => (xs.map (decay o h), st)
  | .sgd => ((zip0 xs gs).map (fun p => stepSgd o h p.1 p.2), st)
  | .momentum =>
    let l := ((zip0 xs gs).zip (st.u ++ List.replicate (xs.length - st.u.length) 0)).map
      (fun p => stepMomentum o h p.1.1 p.1.2 p.2)
    (l.map Prod.fst, { st with u := l.map Prod.snd })
  | .adagrad =>
    let a := adagradAcc st.acc gs
    let k := adagradStep o h a
    ((zip0 xs gs).map (fun p => fma (fFlip k) p.2 (decay o h p.1)), { st with acc := a })
  | .adam =>
    let l := ((zip0 xs gs).zip (zip0 st.u st.r)).map (fun p => stepAdam o h p.1.1 p.1.2 p.2.1 p.2.2)
    (l.map (fun p => p.1), { st with u := l.map (fun p => p.2.1), r := l.map (fun p => p.2.2) })

/-! ## The correction powers (R266) -/

/-- The powers of a table after the update of a Commit of step s. -/
def advancePowers (step : Nat) (o : OptBlock) : OptBlock :=
  if o.kind = .adam ∧ o.powStep ≠ step then
    { o with b1Pow := fMul o.b1Pow o.beta1, b2Pow := fMul o.b2Pow o.beta2, powStep := step }
  else o

/-- Powers of the ADAM tables, for the journal header (R253). -/
def powersOf (s : State) : List (Nat × W32 × W32 × Nat) :=
  (s.tables.filter (fun p => p.2.opt.kind == .adam)).map (fun p => (p.1, p.2.opt.b1Pow, p.2.opt.b2Pow, p.2.opt.powStep))

/-- A table's powers as the journal holds them (R266, R292). -/
def restorePowers (l : List (Nat × W32 × W32 × Nat)) (tid : Nat) (o : OptBlock) : OptBlock :=
  match l.find? (fun p => p.1 == tid) with
  | some (_, b1, b2, ps) => { o with b1Pow := b1, b2Pow := b2, powStep := ps }
  | none => o

end Sys2Proof.Machine
end

