-- ==== Sys2Proof/Machine/Commit.lean ====
section
/-! DEFINITION. Commit: acceptance, the journal, promotions, the apply unit, the spill phase, the Crier and COMMIT_DONE
(chapter "Seal, Commit and the optimisers"); row moves (R55 to R57). The shelf phase is in Shelf.lean. -/

namespace Sys2Proof.Machine

open Sys2Proof

/-- Change the commit engine. -/
def commitMod (f : Commit → Commit) (s : State) : State :=
  { s with ldg := { s.ldg with commit := f s.ldg.commit } }

/-- The sealed step; 0 where none is. -/
def sealedNo (s : State) : Nat := s.ldg.sealedStep.getD 0

/-! ## Row moves (R55 to R57) -/

/-- Larder blocks that a place in the HOT region must avoid: the copies, the copies that moves in progress will end with, and
what is given up and in use still (R57). -/
def hotUsed (s : State) : List (Nat × Nat) :=
  larderHeld s ++ s.lrd.copies.map (fun c => (c.block, blocksOf c.bytes.length)) ++
    (s.moves.filter (fun m => (dirOf m.entry).tier == 1)).map (fun m =>
      let d := ((mget s.tables m.tid).map Table.dim).getD 0
      ((dirOf m.entry).larder, blocksOf (rowSize (dirOf m.entry).cls d)))

/-- A place in the HOT region for a copy of `n` bytes. -/
def hotPlace (s : State) (n : Nat) : Option Nat :=
  placeBlocks (hotUsed s) 0 (regionBlocks (planHot s.lrd.plan)) (blocksOf n)

/-- A row has left a shelf: a shelf that a rebuild replaces outlives the Runs admitted by now (R57). -/
def leaveShelf (tid slot shelf : Nat) (s : State) : State :=
  shelfMod tid slot shelf (fun i => { i with retired := i.retired.map (fun _ => s.qh.runs.map Run.ord) }) s

/-- A row that went to another place of a slot is no longer held by its old shelf (R51). -/
def unhold (tid slot : Nat) (was now : DirEnt) (s : State) : State :=
  match mget s.tables tid with
  | none => s
  | some t =>
    if was.shelf = now.shelf ∧ was.ofs = now.ofs then s
    else
      let h := readShelf s (vslot t slot) was.shelf
      writeShelf (vslot t slot) was.shelf { h with nrows := h.nrows - 1 } s

/-- A row move completes: the entry takes its new location and tier, and the Larder copy is there or gone (R55, R56). An entry
that reads TIER = 3 by now stays as it is until ROW_RESTORE rewrites it (R58). -/
def finishMove (m : RowMove) (s : State) : State :=
  let was := readDir s m.dirAddr
  let e := dirOf m.entry
  let s := settleRetired m.dirAddr s
  if was.tier = 3 then dropCopy m.tid m.slot m.dirAddr s
  else
    let s := writeDir m.dirAddr e s
    let s := dropCopy m.tid m.slot m.dirAddr s
    let s := leaveShelf m.tid m.slot was.shelf (unhold m.tid m.slot was e s)
    if e.tier ≠ 1 then s
    else match mget s.tables m.tid with
      | none => s
      | some t =>
        let c : LCopy := { tid := m.tid, slot := m.slot, dirAddr := m.dirAddr, block := e.larder,
                           bytes := rowBytesAt s (vslot t m.slot) t.dim e }
        cleanBlocks c.block (blocksOf c.bytes.length) { s with lrd := { s.lrd with copies := s.lrd.copies ++ [c] } }

/-! ## The Crier (R285, R287, R388) -/

/-- Send a numbered packet to a subscriber. -/
def crierSend (node : Nat) (b : Nat → PktBody) (s : State) : State :=
  let q := nextCseq s node
  let s := readCseq false node s
  sendOwn node (b q) { s with span := { s.span with cseqOut := mset s.span.cseqOut node ((q + 1) % 65536) } }

/-- Nodes that subscribe to a row. -/
def subscribersOf (s : State) (tid slot row : Nat) (defkey : Bool) : List Nat :=
  (s.span.crier.filter (fun c => c.tid == tid && c.slot == slot && c.row == row && c.defkey == defkey)).flatMap CrierRec.nodes

/-- The UPDATE of one slice. -/
def updatePkt (t : Table) (slot : Nat) (key : RowKey) (d : RowSlice) (k q : Nat) : PktBody :=
  let x := cutSlice t d k
  .update { cseq := q, tid := key.tid, slot := slot, slice := k, defkey := key.defkey, baseExp := d.baseExp, row := key.row,
            header := d.header, pawns := x.pawns, elems := x.elems }

/-- Hand a written row to the Crier: one UPDATE a slice to every subscriber. -/
def crierRow (t : Table) (slot : Nat) (key : RowKey) (d : RowSlice) (s : State) : State :=
  (subscribersOf s key.tid slot key.row key.defkey).foldl (fun s node =>
    (List.range (sliceCount t.dim)).foldl (fun s k =>
      commitMod (fun c => { c with crierUpdates := satAdd 32 c.crierUpdates 1 })
        (crierSend node (updatePkt t slot key d k) s)) s) s

/-- The end-of-step marks of FINISH: one to every node named in the Crier records of each table (R287). -/
def sendMarks (s : State) : State :=
  let tids := dedupNat (s.span.crier.map CrierRec.tid)
  tids.foldl (fun s tid =>
    let nodes := dedupNat ((s.span.crier.filter (fun c => c.tid == tid)).flatMap CrierRec.nodes)
    nodes.foldl (fun s node =>
      commitMod (fun c => { c with marks := satAdd 32 c.marks 1 })
        (crierSend node (fun q => .mark { cseq := q, tid := tid, step := sealedNo s }) s)) s) s

/-! ## Promotions (R258 to R260) -/

/-- Answer a promotion: the notice goes to who asked. -/
def sendNotice (q : PromoReq) (s : State) : State :=
  match q.who with
  | .column c => colMod c (fun k => { k with notices := k.notices ++ [q.key] }) s
  | .node n => sendOwn n (.notice (keyPkt q.key q.step)) s
  | .read => s

/-- Send the notices that wait for a key. -/
def noticeKey (key : RowKey) (s : State) : State :=
  let mine := s.ldg.commit.notices.filter (fun q => q.key == key)
  let s := commitMod (fun c => { c with notices := c.notices.filter (fun q => q.key != key) }) s
  mine.foldl (fun t q => sendNotice q t) s

/-- Send every notice that waits: SPILL has ended (R259). -/
def noticeAll (s : State) : State :=
  let all := s.ldg.commit.notices
  all.foldl (fun t q => sendNotice q t) (commitMod (fun c => { c with notices := [] }) s)

/-- The key waits for SPILL: its filter bit is set and SPILL has not applied it. -/
def spillKey (s : State) (key : RowKey) : Bool :=
  !spillOver s && filterHit s.ldg.filterSealed key && !(s.ldg.commit.spillDone.any (fun k => k == key))

/-- An entry of the sealed step that APPLY has yet to issue. -/
def unissued (s : State) (key : RowKey) : Bool := unapplied s key && !spillKey s key

/-- A promotion is lost: it counts for the Commit that runs, or else for the next one to be accepted (R260). -/
def losePromotion (c : Commit) : Commit :=
  if c.phase = .idle then { c with lostEarly := satAdd 32 c.lostEarly 1 } else { c with promoteLost := satAdd 32 c.promoteLost 1 }

/-- Queue a promoted entry, or count it as lost where the queue is full (R260). -/
def queuePromoted (key : RowKey) (s : State) : State :=
  if key ∈ s.ldg.commit.promoted then s
  else if 65536 ≤ s.ldg.commit.promoted.length then
    commitMod losePromotion s
  else
    let l := lmap s.ldg.entries (fun e => e.key == key && s.ldg.sealedStep == some e.step) (fun e => { e with promoted := true })
    let s := { s with ldg := { s.ldg with entries := l } }
    commitMod (fun c => { c with promoted := c.promoted ++ [key] }) s

/-- A promotion that waits for its step's Seal: the step is open here still and holds the key (R24; R259 names the sealed step;
DEDUCED, assumption log 40). -/
def promoWaits (s : State) (q : PromoReq) : Bool := s.ldg.openStep == some q.step && heldFor s q.step q.key

/-- A promotion is carried out (R259). -/
def takePromotion (q : PromoReq) (s : State) : State :=
  let s := if s.ldg.sealedStep = some q.step then meetFilter q.key q.step s else s
  let wait (s : State) : State := commitMod (fun c => { c with notices := c.notices ++ [q] }) s
  if s.ldg.sealedStep ≠ some q.step then sendNotice q s
  else if spillKey s q.key then wait s
  else if unapplied s q.key then wait (queuePromoted q.key s)
  else sendNotice q s

/-- PROMOTION_RECEIVE (R259, R260): the commit engine takes the oldest promotion that need not wait for a Seal. -/
def execPromotionReceive (s : State) : Host.Outcome State Fault Refusal :=
  match s.ldg.commit.promoIn.findIdx? (fun q => !promoWaits s q) with
  | none => .next s
  | some i =>
    match s.ldg.commit.promoIn[i]? with
    | none => .next s
    | some q => .next (takePromotion q (commitMod (fun c => { c with promoIn := c.promoIn.eraseIdx i }) s))

/-! ## Acceptance and the journal (R20, R249 to R256, R266, R292) -/

/-- λ that Commit accepts: not negative, infinite or NaN (R249). -/
def lambdaOk (l : W32) : Bool := isFin l && (isZero l || !fNeg l)

/-- The journal that a redo takes its entries from. -/
def redoJournal (s : State) (step : Nat) : Option Journal :=
  s.ldg.journal.filter (fun j => j.flushDone && j.step == step)

/-- A journal entry of a Ledger entry: R83 applied to its elements (R255), FILTERED from the spill filter (R275). -/
def journalEntry (s : State) (e : LEntry) : JEntry :=
  { loc := 0, key := e.key, deferred := e.deferred, filtered := filterHit s.ldg.filterSealed e.key, tokens := e.tokens,
    defTokens := e.defTokens, contrib := e.contrib, acc := e.acc.map subst, bad := e.bad }

/-- Bytes of a journal entry (R254). -/
def jentrySize (e : JEntry) : Nat := 64 + 4 * e.acc.length

/-- The bytes of a journal entry (R254). -/
def jentryBytes (step : Nat) (e : JEntry) : List Byte :=
  toLe 8 (step % pow32 + e.key.tid * 2 ^ 32 + b2n e.key.defkey * 2 ^ 44 + b2n e.deferred * 2 ^ 45 + b2n e.filtered * 2 ^ 46) ++
    toLe 8 (if e.key.defkey then 0 else e.key.row) ++ toLe 8 e.tokens ++ toLe 8 e.defTokens ++ toLe 8 e.contrib ++
    List.replicate 24 0 ++ e.acc.flatMap (fun x => toLe 4 x.toNat)

/-- Entries take their places one behind another, each at a 64 B boundary (R254). -/
def placeJournal : Nat → List JEntry → List JEntry
  | _, [] => []
  | a, e :: r => { e with loc := a } :: placeJournal (a + (jentrySize e + 63) / 64 * 64) r

/-- Bytes of the journal header, whose places R253 does not give (DESIGN CHOICE, assumption log 36): the entries follow it. -/
def journalHeader : Nat := 0x100000

/-- The entries in the journal area (R253, R254). -/
def writeJournal (step : Nat) (es : List JEntry) (s : State) : State :=
  es.foldl (fun t e => hbmWrite e.loc (jentryBytes step e) t) s

/-- Insert by ascending index position. -/
def insPos (e : LEntry) : List LEntry → List LEntry
  | [] => [e]
  | x :: r => if e.pos < x.pos then e :: x :: r else x :: insPos e r

/-- The entries of a step in journal order (R258). -/
def inOrder (s : State) (step : Nat) : List LEntry :=
  (s.ldg.entries.filter (fun e => e.step == step)).foldr insPos []

/-- A Commit of a step is accepted: the counts of its report restart (R294); promotions lost before count in it (R260). -/
def freshCounts (step : Nat) (c : Commit) : Commit :=
  { c with
    step := step, applied := 0, skipped := 0, poisonSkip := 0, orphaned := 0, spillRecords := 0, spillKeys := 0,
    spillScans := 0, nonfinite := 0, stateSat := 0, promotedCount := 0, promoteLost := c.lostEarly, lostEarly := 0,
    rebuilt := 0, rebuildDeferred := 0, crierUpdates := 0, marks := 0, duration := 0, spillDone := [], todo := [],
    batch := [], spillLeft := [] }

/-- A first Commit: the powers advance and the journal header is written (R253, R266). -/
def startJournal (step : Nat) (lambda : W32) (s : State) : State :=
  let s := { s with tables := s.tables.map (fun p => (p.1, { p.2 with opt := advancePowers step p.2.opt })) }
  let n := (s.ldg.spills.filter (fun r => r.step == step)).length
  let j : Journal := { step := step, lambda := lambda, entries := [], spills := n, flushDone := false, powers := powersOf s,
                       rebuilds := [] }
  let s := { s with ldg := { s.ldg with journal := some j } }
  commitMod (fun c => { c with phase := .journal, redo := false, flushDone := false, lambda := lambda }) s

/-- A redo: entries, λ and powers come from the journal; APPLY begins (R291, R292). -/
def startRedo (j : Journal) (s : State) : State :=
  let s := { s with tables := s.tables.map (fun p => (p.1, { p.2 with opt := restorePowers j.powers p.1 p.2.opt })) }
  commitMod (fun c => { c with
    phase := .apply, redo := true, flushDone := true, lambda := j.lambda,
    todo := j.entries.filter (fun e => !e.filtered) }) s

/-- Phases move on where they have nothing left to do (R250). -/
def advanceSpill (s : State) : State :=
  let c := s.ldg.commit
  let s := if c.phase = .apply ∧ c.todo = [] then
      let mine := s.ldg.spills.filter (fun r => r.step == sealedNo s)
      let held := ((s.ldg.journal.map Journal.entries).getD []).filter JEntry.filtered
      commitMod (fun c => { c with phase := .spill, spillLeft := mine, batch := held }) s
    else s
  let c := s.ldg.commit
  if c.phase = .spill ∧ c.todo = [] ∧ c.spillLeft = [] ∧ c.batch = [] then
    noticeAll (commitMod (fun c => { c with phase := .shelf, promoted := [] }) s)
  else s

/-! ## The apply unit (R258, R261 to R265) -/

/-- What an apply unit ends with. -/
inductive Applied where
  | applied | skipped | poison | orphan
  deriving DecidableEq, Repr

/-- Count an outcome. -/
def countApplied (a : Applied) (c : Commit) : Commit :=
  match a with
  | .applied => { c with applied := satAdd 32 c.applied 1 }
  | .skipped => { c with skipped := satAdd 32 c.skipped 1 }
  | .poison => { c with poisonSkip := satAdd 32 c.poisonSkip 1 }
  | .orphan => { c with orphaned := satAdd 32 c.orphaned 1 }

/-- Where a key's row and state are: slot, directory address, directory entry and state address. -/
structure RowPlace where
  slot : Nat
  dirA : Nat
  ent : DirEnt
  stateA : Nat
  deriving DecidableEq, Repr

/-- The row an entry applies to; none where R264 orphans it. -/
def applyPlace (s : State) (key : RowKey) : Option (Table × RowPlace) :=
  match liveTable s key.tid with
  | none => none
  | some t =>
    match activeSlot t with
    | none => none
    | some i =>
      let v := vslot t i
      if key.defkey then
        if t.defHome = self s ∧ t.defMode then
          some (t, { slot := i, dirA := 0, ent := { cls := .w32, tier := 0, loaded := true, shelf := 0, ofs := 0, larder := 0 },
                     stateA := v.defStateLoc })
        else none
      else if v.rows ≤ key.row then none
      else match dirIndex s t key.row with
        | none => none
        | some ix =>
          let e := readDir s (dirAddr v ix)
          if e.tier = 3 ∨ !e.loaded then none
          else some (t, { slot := i, dirA := dirAddr v ix, ent := e, stateA := stateAddr t v ix })

/-- Write the learned default row of a slot, class W32 (R69, R265). -/
def writeDefault (tid slot : Nat) (m : RowMeta) (xs : List W32) (s : State) : State :=
  match mget s.tables tid with
  | none => s
  | some t =>
    let enc := encodeRow .w32 0 0 xs
    let h : Hdr := { stamp := m.stamp, expOfs := 0, cls := .w32, pawnPtr := 0, pawnCnt := 0, pop := m.pop, dflt := true,
                     poisoned := false, sat := enc.sat, replica := false }
    assay tid enc.counts (hbmWrite (vslot t slot).defLoc (hdrBytes h ++ enc.elems) s)

/-- Read a whole row as the apply unit does: the row, or none where R263 stops it. -/
def applyRead (s : State) (t : Table) (p : RowPlace) (key : RowKey) : RowRead :=
  if key.defkey then readDefault s t (vslot t p.slot) none else readShelfRow s t (vslot t p.slot) p.ent none

/-- Local HBM ranges of the optimiser state of a row. -/
def stateRanges (t : Table) (p : RowPlace) : List (Nat × Nat) :=
  if stateBytes t.opt t.dim = 0 then [] else [(p.stateA, stateBytes t.opt t.dim)]

/-- The optimiser state of a row. -/
def applyState (s : State) (t : Table) (p : RowPlace) : OptState :=
  if stateBytes t.opt t.dim = 0 then OptState.zero t.opt t.dim
  else decodeState t.opt t.dim (hbmRead s p.stateA (stateBytes t.opt t.dim))

/-- Local HBM ranges of the row of a place: its header and elements, its Pawn entries, its shelf's header. -/
def rowRanges (s : State) (t : Table) (p : RowPlace) (key : RowKey) : List (Nat × Nat) :=
  let v := vslot t p.slot
  if key.defkey then [(v.defLoc, rowSize .w32 t.dim)]
  else
    let a := rowAddr v p.ent.shelf p.ent.ofs
    let h := hdrOf (BitVec.ofNat 128 (leNat (hbmRead s a 16)))
    [(a, rowSize p.ent.cls t.dim), (shelfAddr v p.ent.shelf, 8)] ++
      (if h.pawnCnt = 0 then [] else [(pawnAddr t v p.ent.shelf h.pawnPtr, 8 * min h.pawnCnt 8)])

/-- Steps 4 to 7 of R261. -/
def writeUpdate (t : Table) (p : RowPlace) (e : JEntry) (h : Hdr) (xs : List W32) (st : OptState) (s : State) : State :=
  let (ys, st') := updateRow t.opt (hyperOf t.opt s.ldg.commit.lambda) xs (gradOf t e.acc e.tokens) st
  let (s, lost) := if stateBytes t.opt t.dim = 0 then (s, 0) else writeState t p.stateA st' s
  let s := commitMod (fun c => { c with stateSat := satAdd 32 c.stateSat lost }) s
  let m : RowMeta := { stamp := sealedNo s, pop := min (h.pop + e.tokens) 65535, dflt := e.key.defkey }
  if e.key.defkey then writeDefault e.key.tid p.slot m ys s
  else
    let s := writeRowAt e.key.tid p.slot p.ent.shelf p.ent.ofs m ys s
    if p.ent.tier = 1 then refreshCopy e.key.tid p.slot p.dirA s else s

/-- Hand the row as it now stands to the Crier. -/
def crierKey (t : Table) (p : RowPlace) (key : RowKey) (s : State) : State :=
  match applyRead s t p key with
  | .ok d => crierRow t p.slot key d s
  | .fail _ _ => s

/-- A Larder block lies in the record of a key of the sealed step. -/
def inRecord (s : State) (key : RowKey) (b : Nat) : Bool :=
  match entryOf s key (sealedNo s) with
  | none => false
  | some e => decide (ledgerBase s + e.acb ≤ b) && decide (b < ledgerBase s + e.acb + blocksOf (recordBytes e.acc.length))

/-- The entry's record: step 1 of R261 finds it uncorrectable in the Larder, where R299 counts the word, or, in a redo, poisoned
in the journal (R331). -/
def recordBad (e : JEntry) (bad : Option Nat) (s : State) : Bool × State :=
  if s.ldg.commit.redo then
    match poisonedAt s e.loc (jentrySize e) with
    | some cw => (true, countPoisonRead cw s)
    | none => (e.bad, s)
  else
    let s := meetRecord e.key (sealedNo s) s
    let held := ((entryOf s e.key (sealedNo s)).map LEntry.bad).getD false
    match bad.filter (inRecord s e.key) with
    | some b => (true, larderUe b s)
    | none => (e.bad || held, s)

/-- Steps 1 and 2 of R261: the row and its state, or none where R263 or R299 stops the unit. A poisoned codeword is counted in
POISON_READS (R330); a codeword found uncorrectable is poisoned (R329). -/
def applyGet (t : Table) (p : RowPlace) (e : JEntry) (bad : Option Nat) (errs : List CwErr) (s : State) :
    Option (RowSlice × List W32 × OptState) × State :=
  let rs := rowRanges s t p e.key ++ stateRanges t p ++ (if s.ldg.commit.redo then [(e.loc, jentrySize e)] else [])
  let lost := badIn s rs errs
  let (no, s) := recordBad e bad (fixErrs rs errs s)
  let r := applyRead s t p e.key
  let s := noteRead r s
  let st := (stateRanges t p).findSome? (fun x => poisonedAt s x.1 x.2)
  let s := match st with
    | some cw => countPoisonRead cw s
    | none => s
  let got := match r with
    | .ok d => (decodeRow d).map (fun xs => (d, xs, applyState s t p))
    | .fail _ _ => none
  (if no || st.isSome || !lost.isEmpty then none else got, loseErrs lost s)

/-- Steps 1 to 7 and 9 of R261 for an entry that is not orphaned; the Crier gets the row of a unit that is stopped too, where it
can be read (R263). `bad`: the Larder block of a word of the record that is found uncorrectable; `errs`: codewords of the row, its
state and, in a redo, the journal entry that are received with wrong symbols. -/
def applyRow (t : Table) (p : RowPlace) (e : JEntry) (bad : Option Nat) (errs : List CwErr) (s : State) : Applied × State :=
  match applyGet t p e bad errs s with
  | (none, s) => (.poison, crierKey t p e.key (raise evEccUncorrectable s))
  | (some (d, xs, st), s) =>
    let h := hdrOf d.header
    if h.stamp = sealedNo s then (.skipped, crierKey t p e.key s)
    else (.applied, crierKey t p e.key (writeUpdate t p e h xs st s))

/-- Step 8: APPLIED, and the notices owed. -/
def markApplied (key : RowKey) (s : State) : State :=
  let l := lmap s.ldg.entries (fun e => e.key == key && s.ldg.sealedStep == some e.step) (fun e => { e with applied := true })
  noticeKey key { s with ldg := { s.ldg with entries := l } }

/-- Step 10: the entry and its record are freed. -/
def freeEntry (key : RowKey) (s : State) : State :=
  let rest := s.ldg.entries.filter (fun e => !(e.key == key && s.ldg.sealedStep == some e.step))
  let s := { s with ldg := { s.ldg with entries := rest } }
  commitMod (fun c => { c with
    todo := c.todo.filter (fun e => e.key != key), promoted := c.promoted.filter (fun k => k != key),
    promotedCount := if key ∈ c.promoted then satAdd 32 c.promotedCount 1 else c.promotedCount,
    spillDone := if c.phase = .spill then c.spillDone ++ [key] else c.spillDone }) s

/-- One apply unit. The rows of R261's steps end in the order 8, 9, 10; none of the three reads what another writes. -/
def applyEntry (e : JEntry) (bad : Option Nat) (errs : List CwErr) (s : State) : State :=
  match applyPlace s e.key with
  | none => freeEntry e.key (markApplied e.key (commitMod (countApplied .orphan) s))
  | some (t, p) =>
    let (a, s) := applyRow t p e bad errs s
    freeEntry e.key (markApplied e.key (countEv islLedger 0x403 1 (commitMod (countApplied a) s)))

/-- The entry issued next: promoted ones first, in the order their promotions arrived, then commit order (R258). -/
def nextEntry (c : Commit) : Option JEntry :=
  match c.promoted.findSome? (fun k => c.todo.find? (fun e => e.key == k)) with
  | some e => some e
  | none => c.todo.head?

/-- Commit waits for a row move and for a row that is still migrating here (R55, R590). -/
def applyWaits (s : State) (key : RowKey) : Bool :=
  (match applyPlace s key with
    | some (_, p) => p.ent.tier == 2
    | none => false) ||
  (match mget s.tables key.tid with
    | some t => (match rowPhase s t key with
        | .waiting => true
        | .notRequested _ => true
        | _ => false)
    | none => false)

/-- The Ledger's work under way can end: live, or under a hold-off or drain. -/
def ledgerRuns (s : State) : Bool := isLive s || s.gbl.state == .quiescing

/-- The commit engine issues nothing while a reset or FORCE_HELD waits (R290, R526), nor in a block state without service. -/
def issueHeld (s : State) : Bool :=
  match s.gbl.seq with
  | .holdOff _ _ => true
  | .heldDrain => true
  | _ => !ledgerRuns s

/-! ## The spill phase (R276) -/

/-- Fold a spill record into an entry: elements exact, one rounding each; tokens and contributors add (R276). -/
def JEntry.foldSpill (e : JEntry) (r : Spill) : JEntry :=
  { e with
    acc := addAt (1024 * r.slice) e.acc (r.elems.map ofBf16), deferred := e.deferred || r.deferred,
    tokens := satAdd 40 e.tokens r.tokens, contrib := satAdd 32 e.contrib r.contrib,
    defTokens := if r.deferred then satAdd 40 e.defTokens r.tokens else e.defTokens }

/-- A fresh entry for a spilled key. -/
def JEntry.fresh (key : RowKey) (d : Nat) : JEntry :=
  { loc := 0, key := key, deferred := false, filtered := false, tokens := 0, defTokens := 0, contrib := 0,
    acc := List.replicate d 0, bad := false }

/-- A free index position for an entry that SPILL makes (R276; the choice is the hardware's, assumption log 8). -/
def freePos (s : State) : Nat := firstFree (s.ldg.entries.map LEntry.pos) (s.ldg.entries.length + 1) 0

/-- A spill record on a poisoned or uncorrectable codeword is discarded and counted (R235, R331). -/
def loseSpill (r : Spill) (s : State) : State :=
  let s := commitMod (fun c => { c with spillLeft := c.spillLeft.erase r }) s
  { s with ldg := { s.ldg with spills := s.ldg.spills.erase r, dropped := satAdd 24 s.ldg.dropped 1 } }

/-- What a scan has done so far: the keys that took a record, the records left for the next scan, how many records folded. -/
structure Scan where
  keys : List RowKey
  left : List Spill
  folded : Nat
  deriving DecidableEq, Repr

/-- A record of this key was folded. -/
def Scan.took (x : Scan) (key : RowKey) : Scan :=
  { x with keys := if key ∈ x.keys then x.keys else x.keys ++ [key], folded := x.folded + 1 }

/-- The elements of a fresh entry for a spilled key: its table's D. -/
def spillDim (s : State) (r : Spill) : Nat :=
  ((mget s.tables r.key.tid).map Table.dim).getD (64 * ((r.elems.length + 63) / 64))

/-- A spill record finds its key in the batch, or takes a fresh entry with its index position and record, or is left (steps 1 to 3
of R276). -/
def foldSpillRec (r : Spill) (x : Scan) (s : State) : Scan × State :=
  if s.ldg.commit.batch.any (fun e => e.key == r.key) then
    (x.took r.key, commitMod (fun c => { c with batch := lmap c.batch (fun e => e.key == r.key) (fun e => e.foldSpill r) }) s)
  else if s.ldg.entries.length < indexSize then
    match recordPlace s (spillDim s r) with
    | some b =>
      (x.took r.key, commitMod (fun c => { c with batch := c.batch ++ [(JEntry.fresh r.key (spillDim s r)).foldSpill r] })
        (newEntry r.key r.step (freePos s) (spillDim s r) b s))
    | none => ({ x with left := x.left ++ [r] }, s)
  else ({ x with left := x.left ++ [r] }, s)

/-- One record of a scan; a poisoned one is discarded (R330, R331). -/
def scanSpill (p : Scan × State) (r : Spill) : Scan × State :=
  match poisonedAt p.2 (spillAddr p.2 r.place) (spillSize r) with
  | some cw => (p.1, raise evEccUncorrectable (countPoisonRead cw (loseSpill r p.2)))
  | none => foldSpillRec r p.1 p.2

/-- One scan of the spill records left: the batch goes to the apply units. -/
def scanSpills (s : State) : State :=
  let (x, s) := s.ldg.commit.spillLeft.foldl scanSpill ({ keys := [], left := [], folded := 0 }, s)
  commitMod (fun c => { c with
    todo := c.batch, batch := [], spillLeft := x.left, spillRecords := satAdd 32 c.spillRecords x.folded,
    spillKeys := satAdd 32 c.spillKeys x.keys.length, spillScans := satAdd 32 c.spillScans 1 }) s

end Sys2Proof.Machine
end

