-- ==== Sys2Proof/Machine/Shelf.lean ====
section
/-! DEFINITION. The shelf phase of Commit (R97 to R101, R277 to R281), the commands that move a Commit on, and its end
(R288, R293). -/

namespace Sys2Proof.Machine

open Sys2Proof

/-! ## Evaluation (R277, R278) -/

/-- A shelf of a slot by number. -/
def shelfInfo (v : VSlot) (n : Nat) : Option ShelfInfo := v.used.find? (fun i => i.num == n)

/-- R277: the shelf is evaluated in the Commit of step q. -/
def evaluable (s : State) (t : Table) (v : VSlot) (i : ShelfInfo) : Bool :=
  t.opt.threshold && i.retired.isNone && signalled t (readShelf s v i.num) && i.mark != some (sealedNo s)

/-- Δ of an evaluable shelf. -/
def shelfDelta (o : OptBlock) (signal : W32) : Int :=
  if fGe signal o.shelfUp then 1 else if fGe (fFlip o.shelfDown) signal then -1 else 0

/-- Δ the shelf is rebuilt with: 0 where it is not evaluated. -/
def rebuildDelta (s : State) (t : Table) (v : VSlot) (i : ShelfInfo) (active : Bool) : Int :=
  if active && evaluable s t v i then shelfDelta t.opt i.signal else 0

/-- The Pawn list is more than three quarters full (R279). -/
def compactDue (s : State) (t : Table) (v : VSlot) (i : ShelfInfo) : Bool :=
  let h := readShelf s v i.num
  isCoded h.cls && decide (3 * pawnSlots t h.cls < 4 * h.pawnUsed)

/-- Rebuild records of the running Commit. -/
def rebuildsOf (s : State) : List Rebuild := (s.ldg.journal.map Journal.rebuilds).getD []

/-- A rebuild of the running Commit made this shelf. -/
def rebuiltHere (s : State) (tid slot n : Nat) : Bool :=
  (rebuildsOf s).any (fun r => r.tid == tid && r.slot == slot && r.newShelf == n)

/-- Change the rebuild list of the journal header. -/
def rebuildsMod (f : List Rebuild → List Rebuild) (s : State) : State :=
  { s with ldg := { s.ldg with journal := s.ldg.journal.map (fun j => { j with rebuilds := f j.rebuilds }) } }

/-- A row still moves into the shelf of a rebuild. -/
def Rebuild.moving (s : State) (r : Rebuild) : Bool :=
  s.moves.any (fun m => m.tid == r.tid && m.slot == r.slot && (dirOf m.entry).shelf == r.newShelf)

/-- DONE is set in the rebuild list once every row of a rebuild has moved (R281). -/
def settleRebuilds (s : State) : State := rebuildsMod (fun l => l.map (fun r => { r with done := r.done || !r.moving s })) s

/-! ## Which rebuilds are due (R279, R280) -/

/-- A shelf that waits for a rebuild: table, slot, shelf, whether its Pawn list is the reason. -/
structure Due where
  tid : Nat
  slot : Nat
  shelf : Nat
  compact : Bool
  deriving DecidableEq, Repr

/-- A free shelf number of a slot (R99, R100). -/
def shelfFree (v : VSlot) (n : Nat) : Bool := decide (n < v.shelves) && v.used.all (fun i => i.num != n)

/-- A slot has some free shelf, one that a rebuild replaced and that no Run and no move holds any more among them (R57, R100). -/
def hasFree (s : State) (tid slot : Nat) (v : VSlot) : Bool :=
  decide ((v.used.filter (fun i => !reusable s tid slot i)).length < v.shelves)

/-- Shelves of a slot that wait for a rebuild and have a free shelf to go to. -/
def dueOf (s : State) (tid : Nat) (t : Table) (slot : Nat) : List Due :=
  let v := vslot t slot
  if v.state = .empty ∨ !hasFree s tid slot v then []
  else v.used.filterMap (fun i =>
    let c := compactDue s t v i && i.retired.isNone
    let d := rebuildDelta s t v i (t.active == slot && v.state == .active)
    if (c || d != 0) && !rebuiltHere s tid slot i.num then some { tid := tid, slot := slot, shelf := i.num, compact := c } else none)

/-- Every rebuild that is due. -/
def dueAll (s : State) : List Due :=
  s.tables.flatMap (fun p => if p.2.destroying then [] else dueOf s p.1 p.2 0 ++ dueOf s p.1 p.2 1)

/-- A rebuild may go now: compactions first, then shelves in ascending number (R279). -/
def dueNow (s : State) (d : Due) : Bool :=
  let all := dueAll s
  decide (d ∈ all) && decide ((rebuildsOf s).length < 64) &&
    (if d.compact then true
     else all.all (fun e => !e.compact && (e.tid != d.tid || e.slot != d.slot || decide (d.shelf ≤ e.shelf))))

/-- A shelf is evaluated with Δ = 0: no rebuild, a compaction among them, waits for it (R277, R280). -/
def evaluatesFlat (s : State) (t : Table) (v : VSlot) (i : ShelfInfo) : Bool :=
  evaluable s t v i && shelfDelta t.opt i.signal == 0 && !compactDue s t v i

/-- Shelves of the ACTIVE slots that still wait for their evaluation and take Δ = 0. -/
def toEvaluate (s : State) : Bool :=
  s.tables.any (fun p => !p.2.destroying && (match activeSlot p.2 with
    | none => false
    | some i => (vslot p.2 i).used.any (evaluatesFlat s p.2 (vslot p.2 i))))

/-- SHELF has ended: every shelf is evaluated, rebuilt or left for another Commit, and every rebuild is complete (R279 to
R281). -/
def shelfOver (s : State) : Bool :=
  !toEvaluate s && (decide (64 ≤ (rebuildsOf s).length) || (dueAll s).isEmpty) && (rebuildsOf s).all Rebuild.done

/-- Move on to the phase that has work (R250): from SHELF to FINISH the end-of-step marks go out (R287). -/
def advance (s : State) : State :=
  let s := settleRebuilds (advanceSpill s)
  if s.ldg.commit.phase = .shelf ∧ shelfOver s then
    let left := (dueAll s).length
    sendMarks (commitMod (fun c => { c with phase := .finish, rebuildDeferred := satAdd 32 c.rebuildDeferred left }) s)
  else s

/-! ## Rebuilds (R99 to R101, R281) -/

/-- R99 step 2 and 3: a row's new offset, codes and clamps; `half` and `dbl` say which re-coding took place. -/
def recode (cls : RowClass) (ofs delta : Int) (codes : List (Option Int)) : Int × List (Option Int) × Bool × Bool :=
  let o := ofs - delta
  let cmax : Int := classCmax cls
  if o < -8 then (-8, codes.map (fun c => c.map (fun z => rshiftRound z 1)), true, false)
  else if 7 < o then (7, codes.map (fun c => c.map (fun z => clampI (-cmax) cmax (2 * z))), false, true)
  else (o, codes, false, false)

/-- Codes of a re-coding that pass a test. -/
def codesThat (p : Int → Bool) (codes : List (Option Int)) : Nat := (codes.filter (fun c => (c.map p).getD false)).length

/-- What each element of a re-coding loses: its value before less its value after. -/
def recodeErrs (was now : Int) (old new : List (Option Int)) : List Dy :=
  (old.zip new).filterMap (fun p => match p.1, p.2 with
    | some a, some b => some (Dy.sub { m := a, e := was } { m := b, e := now })
    | _, _ => none)

/-- What a rebuild's row write counts (R90, R99, R107, R110): its elements and escapes; re-coded, the offset that left its range,
the elements that became 0 or clamped, and the errors. `was` and `now` are the row's shifts. -/
def rebuildCounts (cls : RowClass) (d escapes : Nat) (was now : Int) (old new : List (Option Int)) (half dbl : Bool) :
    RowCounts :=
  { satRows := b2n dbl,
    satElems := if dbl then codesThat (fun z => decide (classCmax cls < (2 * z).natAbs)) old else 0,
    escElems := escapes, escLost := 0, nan := 0, underRows := b2n half,
    underElems := if half then codesThat (fun z => z != 0 && rshiftRound z 1 == 0) old else 0,
    elems := d, errs := if half || dbl then recodeErrs was now old new else [], k := 0, energy := { m := 0, e := 0 } }

/-- A row as a rebuild finds it. -/
structure OldRow where
  hdr : Hdr
  pawns : List W64
  body : List Byte
  /-- It can be read: not marked POISONED, sound, and on no poisoned codeword. -/
  good : Bool
  deriving DecidableEq, Repr

/-- Read a row for a rebuild. -/
def oldRow (s : State) (t : Table) (v : VSlot) (e : DirEnt) : OldRow :=
  let a := rowAddr v e.shelf e.ofs
  let h := hdrOf (BitVec.ofNat 128 (leNat (hbmRead s a 16)))
  let body := hbmRead s (a + 16) (elemBytes e.cls t.dim)
  let pawns := pawnsOf s t v e.shelf h
  { hdr := h, pawns := pawns, body := body,
    good := !h.poisoned && (poisonedAt s a (16 + body.length)).isNone && rowSound t e h pawns body &&
      (h.pawnCnt == 0 || (poisonedAt s (pawnAddr t v e.shelf h.pawnPtr) (8 * h.pawnCnt)).isNone) }

/-- The row as the new shelf takes it: header, codes, Pawn entries, counts and whether it was re-coded. R99 gives no case for a
row that cannot be read: its bytes go over with POISONED set and without Pawn entries, so that a read of it still ends with
CS_POISONED, and nothing is counted (DESIGN CHOICE, assumption log 17). -/
def newRow (t : Table) (cls : RowClass) (base : Nat) (delta : Int) (ptr ofs : Nat) (x : OldRow) :
    Hdr × List Byte × List W64 × RowCounts × Bool :=
  let codes := unpackCodes cls x.body
  let (o, cs, half, dbl) := recode cls x.hdr.expOfs delta codes
  let shift : Int := (base : Int) - 141 + x.hdr.expOfs
  let c := rebuildCounts cls t.dim x.hdr.pawnCnt shift (shift + (if half then 1 else if dbl then -1 else 0)) codes cs half dbl
  if x.good then
    ({ x.hdr with expOfs := o, pawnPtr := if x.hdr.pawnCnt = 0 then 0 else ptr, sat := x.hdr.sat || c.satElems != 0 },
      if half || dbl then packCodes cls cs else x.body,
      x.pawns.map (fun w => pawnWord (pawnValue w) (pawnElem w) ofs), c, half || dbl)
  else
    ({ x.hdr with cls := cls, poisoned := true, pawnPtr := 0, pawnCnt := 0 }, x.body, [],
      rebuildCounts cls 0 0 0 0 [] [] false false, false)

/-- Copy one row to the new shelf, its live Pawn entries compactly, and start its move (R99 steps 2 to 5). A row with TIER = 1
for whose new Larder copy the HOT region has no room moves with TIER = 0: step 5 gives no case (DESIGN CHOICE, assumption
log 17). Answers whether it was re-coded. -/
def copyRow (tid slot shelf dst : Nat) (delta : Int) (p : Nat × DirEnt) (s : State) : State × Bool :=
  match mget s.tables tid with
  | none => (s, false)
  | some t =>
    let v := vslot t slot
    let nh := readShelf s v dst
    let fill := ((shelfInfo v dst).map ShelfInfo.fill).getD 64
    let ofs := fill / 16
    let old := oldRow s t v p.2
    let (h, body, pawns, counts, again) := newRow t p.2.cls (readShelf s v shelf).baseExp delta nh.pawnUsed ofs old
    let s := countPoisons (poisonsAt s (rowAddr v shelf p.2.ofs) (16 + body.length)) s
    let s := hbmWrite (pawnAddr t v dst nh.pawnUsed) (wordsToBytes pawns) s
    let s := hbmWrite (rowAddr v dst ofs) (hdrBytes h ++ body) s
    let s := writeShelf v dst { nh with nrows := nh.nrows + 1, pawnUsed := nh.pawnUsed + pawns.length } s
    let s := shelfMod tid slot dst (fun i => { i with fill := i.fill + rowSize p.2.cls t.dim }) s
    let s := assay tid counts s
    let place := if p.2.tier = 1 then hotPlace s (rowSize p.2.cls t.dim) else none
    let e : DirEnt := { p.2 with
      tier := if place.isSome then 1 else 0, shelf := dst, ofs := ofs, larder := place.getD 0 }
    (startMove tid slot p.1 e s, again)

/-- The row identifier at a directory address, by the row's own position; none where no row of this K40 has it. -/
def keyAt (s : State) (t : Table) (v : VSlot) (dirA : Nat) : Option Nat :=
  let ix := (dirA - v.dirLoc) / 16
  let per := 2 ^ (t.hbits - 16)
  (mapOf s t).bind (fun m =>
    ((List.range 65536).find? (fun sh => ordinal m (self s) sh == some (ix / per))).map
      (fun sh => unmixRow t (sh * per + ix % per)))

/-- Hand a row to the Crier as it stands at a place of its slot (R281). -/
def crierAt (tid slot row : Nat) (e : DirEnt) (s : State) : State :=
  match mget s.tables tid with
  | none => s
  | some t =>
    if (subscribersOf s tid slot row false).isEmpty then s
    else match readShelfRow s t (vslot t slot) e none with
      | .ok d => crierRow t slot { tid := tid, defkey := false, row := row } d s
      | .fail _ _ => s

/-- Copy the rows of a shelf in their order; a re-coded row goes to the Crier and into the rebuild's record (R99, R281). -/
def copyRows (tid slot shelf dst : Nat) (delta : Int) (rows : List (Nat × DirEnt)) (s : State) : State :=
  rows.foldl (fun s p =>
    let (s, again) := copyRow tid slot shelf dst delta p s
    match again, mget s.tables tid with
    | true, some t =>
      match keyAt s t (vslot t slot) p.1, s.moves.getLast? with
      | some row, some m =>
        let mine := fun (r : Rebuild) => r.tid == tid && r.slot == slot && r.newShelf == dst
        crierAt tid slot row { dirOf m.entry with tier := 0 }
          (rebuildsMod (fun l => lmap l mine (fun r => { r with recoded := r.recoded ++ [row] })) s)
      | _, _ => s
    | _, _ => s) s

/-- Rebuild a shelf into a free one (R99), entered in the rebuild list before it (R281); its old shelf and Larder copies are
freed as R57 gives. -/
def rebuildShelf (t : Table) (d : Due) (i : ShelfInfo) (dst : Nat) (s : State) : State :=
  let v := vslot t d.slot
  let h := readShelf s v d.shelf
  let want := rebuildDelta s t v i (t.active == d.slot && v.state == .active)
  let base : Int := (h.baseExp : Int) + want
  let delta : Int := if base < 0 ∨ 255 < base then 0 else want
  let rows := rowsIn s t v d.shelf
  let q := sealedNo s
  let r : Rebuild := { tid := d.tid, slot := d.slot, oldShelf := d.shelf, newShelf := dst, delta := delta, done := false,
                       recoded := [] }
  let s := rebuildsMod (fun l => l ++ [r]) s
  let s := newShelf d.tid d.slot dst h.cls ((h.baseExp : Int) + delta).toNat s
  let v := (mget s.tables d.tid).map (fun t => vslot t d.slot) |>.getD v
  let s := writeShelf v dst { readShelf s v dst with pinned := h.pinned } s
  let s := copyRows d.tid d.slot d.shelf dst delta rows s
  let s := shelfMod d.tid d.slot dst (fun x => { x with mark := some q }) s
  let s := shelfMod d.tid d.slot d.shelf (fun x => { x with retired := some (s.qh.runs.map Run.ord) }) s
  commitMod (fun c => { c with rebuilt := satAdd 32 c.rebuilt 1 }) s

/-- The rows that completed rebuilds re-coded go to the Crier again at a redo, as their directory entries give them (R291,
R292). -/
def resendRecoded (j : Journal) (s : State) : State :=
  (j.rebuilds.filter Rebuild.done).foldl (fun s r =>
    match mget s.tables r.tid with
    | none => s
    | some t => r.recoded.foldl (fun s row => match dirIndex s t row with
        | some ix => crierAt r.tid r.slot row (readDir s (dirAddr (vslot t r.slot) ix)) s
        | none => s) s) s

/-! ## The commands up to SHELF -/

/-- COMMIT (R20, R249, R250, R266, R292, R294). -/
def execCommit (slot : Nat) (s : State) : Host.Outcome State Fault Refusal :=
  cmdStep 0x0A03 slot s (fun m s =>
    let step := bits (arg m 1) 0 32
    let lambda := BitVec.ofNat 32 (bits (arg m 1) 32 32)
    if s.ldg.sealedStep ≠ some step ∨ !s.ldg.sealDone ∨ s.ldg.committing ∨ !lambdaOk lambda then
      postFinal slot m .badDescriptor [] s
    else
      let s := accept slot m s
      let s := commitMod (freshCounts step) { s with ldg := { s.ldg with committing := true } }
      let s := s.tables.foldl (fun t p => asySpanStart p.1 spanCommit t) s
      match redoJournal s step with
      | some j => advance (resendRecoded j (startRedo j s))
      | none => startJournal step lambda s)

/-- The journal reads the records and the spill filter bits of a step's entries; what is poisoned is met (R275, R299, R300). -/
def meetEntries (q : Nat) (s : State) : State :=
  (s.ldg.entries.filter (fun e => e.step == q)).foldl (fun t e => meetFilter e.key q (meetRecord e.key q t)) s

/-- The journal flush ends: every entry of the step, in order, is in the Day Book and APPLY begins (R253 to R256, R275). -/
def flushJournal (j : Journal) (s : State) : State :=
  let q := sealedNo s
  let s := meetEntries q s
  let es := inOrder s q
  let js := placeJournal (journalBase s + journalHeader) (es.map (journalEntry s))
  let subs := es.foldl (fun n e => n + (e.acc.filter (fun x => !isFin x)).length) 0
  let l := lmap s.ldg.entries (fun e => e.step == q) (fun e => { e with acc := e.acc.map subst, issued := true })
  let s := writeJournal q js s
  let s := { s with ldg := { s.ldg with entries := l, journal := some { j with entries := js, flushDone := true } } }
  commitMod (fun c => { c with
    phase := .apply, flushDone := true, nonfinite := satAdd 32 c.nonfinite subs, todo := js.filter (fun e => !e.filtered) }) s

/-- JOURNAL_FLUSH_DONE (R256). -/
def execJournalFlushDone (s : State) : Host.Outcome State Fault Refusal :=
  match s.ldg.journal with
  | none => .next s
  | some j => .next (if s.ldg.commit.phase = .journal ∧ ledgerRuns s then advance (flushJournal j s) else s)

/-- APPLY_UNIT (R258, R261 to R265, R271, R285, R299, R329): the next entry of APPLY or of the batch of SPILL. -/
def execApplyUnit (u : UnitIn) (s : State) : Host.Outcome State Fault Refusal :=
  match nextEntry s.ldg.commit with
  | none => .next s
  | some e =>
    .next (if (s.ldg.commit.phase == .apply || s.ldg.commit.phase == .spill) && !applyWaits s e.key && !issueHeld s
      then advance (applyEntry e u.bad u.errs s) else s)

/-- SPILL_SCAN (R225, R276): one scan; the batch is then applied by apply units. -/
def execSpillScan (s : State) : Host.Outcome State Fault Refusal :=
  .next (if s.ldg.commit.phase = .spill ∧ s.ldg.commit.todo = [] ∧ !issueHeld s then advance (scanSpills s) else s)

/-- ROW_MOVE_COMPLETE (R55 to R57, R281): a row move in progress ends, and the rebuild it belongs to with its last row. -/
def execRowMoveComplete (idx : Nat) (s : State) : Host.Outcome State Fault Refusal :=
  .next (match s.moves[idx]? with
    | none => s
    | some m => advance (finishMove m { s with moves := s.moves.eraseIdx idx }))

/-- SHELF_EVALUATE (R277, R278): a shelf of the ACTIVE slot whose Δ is 0 takes its decayed signal and its mark. One with
another Δ waits for its rebuild. -/
def execShelfEvaluate (tid shelf : Nat) (s : State) : Host.Outcome State Fault Refusal :=
  match liveTable s tid with
  | none => .next s
  | some t =>
    match activeSlot t with
    | none => .next s
    | some k =>
      match shelfInfo (vslot t k) shelf with
      | none => .next s
      | some i =>
        .next (if s.ldg.commit.phase = .shelf ∧ evaluatesFlat s t (vslot t k) i ∧ !issueHeld s then
            let q := sealedNo s
            advance (shelfMod tid k shelf
              (fun i => { i with signal := fMul i.signal t.opt.shelfDecay, mark := some q }) s)
          else s)

/-- SHELF_REBUILD (R99, R100, R279 to R281): the shelf is rebuilt into the free shelf `newShelf` of its slot. -/
def execShelfRebuild (tid slot shelf newShelf : Nat) (s : State) : Host.Outcome State Fault Refusal :=
  let s₀ := reclaim tid slot s
  match liveTable s₀ tid with
  | none => .next s
  | some t =>
    match shelfInfo (vslot t slot) shelf with
    | none => .next s
    | some i =>
      let d : Due := { tid := tid, slot := slot, shelf := shelf, compact := compactDue s₀ t (vslot t slot) i }
      .next (if s.ldg.commit.phase = .shelf ∧ slot < 2 ∧ dueNow s₀ d ∧ shelfFree (vslot t slot) newShelf ∧
          (rowsIn s₀ t (vslot t slot) shelf).all (fun p => p.2.tier != 2) ∧ !issueHeld s then
          advance (rebuildShelf t d i newShelf s₀)
        else s)

/-! ## The end of a Commit (R286 to R288, R293, R514) -/

/-- The commit report (R514). -/
def commitReport (c : Commit) : List W64 :=
  words32 [c.step, b2n c.redo, c.applied, c.skipped, c.poisonSkip, c.orphaned, c.spillRecords, c.spillKeys, c.spillScans,
    c.nonfinite, c.stateSat, c.promotedCount, c.promoteLost, c.rebuilt, c.rebuildDeferred, c.crierUpdates, c.marks, c.duration]

/-- What step s held is freed, its filter area cleared (R138, R273, R288). -/
def freeStep (q : Nat) (s : State) : State :=
  let s := cleanBlocks (ledgerBase s + 262144 + q % 2 * 32768) 32768 s
  { s with
    ldg := { s.ldg with
      entries := s.ldg.entries.filter (fun e => e.step != q), spills := s.ldg.spills.filter (fun r => r.step != q),
      filterSealed := [], sealedStep := none, sealDone := false, committing := false, journal := none }
    lrd := { s.lrd with kept := s.lrd.kept.filter (fun k => k.step != q) } }

/-- COMMIT_DONE. -/
def finishCommit (duration : Nat) (s : State) : State :=
  let q := sealedNo s
  let s := noticeAll (commitMod (fun c => { c with phase := .idle, flushDone := false, duration := min duration (pow32 - 1) }) s)
  let s := raise evCommitDone (asyCommitEnd (freeStep q s))
  let s := if clerkRuns s then reportAll 0x0A03 2 (commitReport s.ldg.commit) s else s
  settle s

/-- COMMIT_DONE (R288, R293): `duration` is the Ledger cycles since the Commit was accepted. A Run or a table that went since
may have left nothing to wait for. -/
def execCommitDone (duration : Nat) (s : State) : Host.Outcome State Fault Refusal :=
  let t := advance s
  .next (if t.ldg.commit.phase = .finish ∧ ledgerRuns t then finishCommit duration t else s)

end Sys2Proof.Machine
end

