-- ==== Sys2Proof/Machine/Flits.lean ====
section
/-! DEFINITION. Bytes of Span: the flit CRC (R355), Span packets as a receiver reads them and as a sender lays them out
(R368 to R374), and the flits a port sends: their stream of packet bytes, ACK, NAK, credit and replay (R355 to R360). -/

namespace Sys2Proof.Machine

open Sys2Proof

/-! ## CRC-64 of ECMA-182 (R355): most significant bit first, initial value 0 (assumption log 23) -/

/-- The generator polynomial without its top term. -/
def crcPoly : Nat := 0x42F0E1EBA9EA3693

/-- One bit. -/
def crcBit (r : Nat) : Nat := if 2 ^ 63 ≤ r then (2 * r % pow64) ^^^ crcPoly else 2 * r

/-- One byte. -/
def crcByte (r : Nat) (b : Byte) : Nat := (List.range 8).foldl (fun x _ => crcBit x) (r ^^^ (b.toNat * 2 ^ 56))

/-- CRC of bytes. -/
def crc64 (bs : List Byte) : Nat := bs.foldl crcByte 0

/-- Header word of a flit. -/
def flitWord (f : Flit) : Nat :=
  f.fseq % 4096 + f.ack % 4096 * 2 ^ 12 + b2n f.nak * 2 ^ 24 + f.grantCh % 8 * 2 ^ 25 + f.grant % 4096 * 2 ^ 28 +
    b2n f.idle * 2 ^ 40 + f.first % 16 * 2 ^ 41

/-- A flit's CRC is good. -/
def crcGood (f : Flit) : Bool :=
  f.payload.length == 240 && crc64 (toLe 8 (flitWord f) ++ f.payload) == f.crc.toNat

/-! ## Packets -/

/-- The statuses a ROW carries (R370). -/
def rowStatus (n : Nat) : Option Status :=
  if n = 0 then some .ok else if n = 0x52 then some .tableAbsent else if n = 0x61 then some .poisoned
  else if n = 0x60 then some .uncorrectable else if n = 0x40 then some .shuttered else none

/-- What follows a row header in ROW and UPDATE at offset `o`: the Pawn entries and the element bytes. -/
def rowTail (bs : List Byte) (o pcnt len : Nat) : Option (List W64 × List Byte) :=
  let cls := (hdrOf (BitVec.ofNat 128 (fieldAt bs (o - 16) 16))).cls
  let room := len - o - pad16 (8 * pcnt)
  if len < o + pad16 (8 * pcnt) ∨ room = 0 ∨ 8 < pcnt then none
  else
    let size := min room (elemBytes cls 1024)
    if pad16 size ≠ room then none
    else some (bytesToWords pcnt (bs.drop o), (bs.drop (o + pad16 (8 * pcnt))).take size)

/-- READ (R369). -/
def parseRead (bs : List Byte) : Option PktBody :=
  let w := fieldAt bs 8 8
  let x := fieldAt bs 16 8
  let y := fieldAt bs 24 8
  if bs.length ≠ 32 ∨ nbits w 56 8 ≠ 0 ∨ nbits x 40 24 ≠ 0 ∨ nbits y 32 32 ≠ 0 then none
  else some (.read {
    tag := nbits w 0 20, tid := nbits w 20 12, slot := nbits w 32 1, slice := nbits w 33 3, spec := w.testBit 36,
    place := w.testBit 37, resync := w.testBit 38, defkey := w.testBit 39, epoch := nbits w 40 16, row := nbits x 0 40,
    step := nbits y 0 32 })

/-- ROW (R370). -/
def parseRow (bs : List Byte) : Option PktBody :=
  let w := fieldAt bs 8 8
  match rowStatus (nbits w 20 8) with
  | none => none
  | some st =>
    let p : RowPkt := { tag := nbits w 0 20, status := st, prov := w.testBit 28, baseExp := nbits w 29 8,
                        slice := nbits w 37 3, cseq := nbits w 44 16, header := 0, pawns := [], elems := [] }
    if nbits w 60 4 ≠ 0 then none
    else if st ≠ .ok then (if bs.length = 16 then some (.row p) else none)
    else (rowTail bs 32 (nbits w 40 4) bs.length).map (fun t =>
      .row { p with header := BitVec.ofNat 128 (fieldAt bs 16 16), pawns := t.1, elems := t.2 })

/-- PROMOTE and NOTICE (R373). -/
def parseKey (bs : List Byte) : Option KeyPkt :=
  let w := fieldAt bs 8 8
  let x := fieldAt bs 16 8
  if bs.length ≠ 32 ∨ nbits w 53 11 ≠ 0 ∨ nbits x 32 32 ≠ 0 ∨ fieldAt bs 24 8 ≠ 0 then none
  else some { tid := nbits w 0 12, defkey := w.testBit 12, row := nbits w 13 40, step := nbits x 0 32 }

/-- ABSENT (R373). -/
def parseAbsent (bs : List Byte) : Option PktBody :=
  let w := fieldAt bs 8 8
  if bs.length ≠ 32 ∨ nbits w 38 26 ≠ 0 then none
  else some (.absent { tag := nbits w 0 20, kind := nbits w 20 4, node := nbits w 24 14, w8 := w64 (fieldAt bs 16 8),
                       w10 := w64 (fieldAt bs 24 8) })

/-- A partial's codes hold neither 0x80 nor 0x8000 (R104, R374). -/
def codesOk (w16 : Bool) (cs : List Int) : Bool := cs.all (fun c => decide (c.natAbs ≤ partCmax w16))

/-- PARTIAL (R372). -/
def parsePartial (bs : List Byte) : Option PktBody :=
  let w := fieldAt bs 8 8
  let x := fieldAt bs 16 8
  let y := fieldAt bs 24 8
  let n := nbits y 48 11
  let w16 := w.testBit 56
  let k := if w16 then 2 else 1
  if bs.length ≠ 32 + pad16 (k * n) ∨ nbits w 59 5 ≠ 0 ∨ nbits x 56 8 ≠ 0 ∨ nbits y 59 5 ≠ 0 then none
  else
    let cs := (groupLe k n (bs.drop 32)).map (sext (8 * k))
    if !codesOk w16 cs then none
    else some (.part {
      tid := nbits w 0 12, defkey := w.testBit 12, row := nbits w 13 40, slice := nbits w 53 3, w16 := w16,
      ownExp := w.testBit 57, rescaled := w.testBit 58, step := nbits x 0 32, epoch := nbits x 32 16, exp := nbits x 48 8,
      contrib := nbits y 0 16, tokens := nbits y 16 32, codes := cs })

/-- UPDATE (R373). -/
def parseUpdate (bs : List Byte) : Option PktBody :=
  let w := fieldAt bs 8 8
  let x := fieldAt bs 16 8
  if nbits w 16 4 ≠ 0 ∨ nbits w 36 3 ≠ 0 ∨ nbits w 52 12 ≠ 0 ∨ nbits x 40 24 ≠ 0 ∨ fieldAt bs 24 8 ≠ 0 then none
  else (rowTail bs 48 (nbits w 48 4) bs.length).map (fun t =>
    .update { cseq := nbits w 0 16, tid := nbits w 20 12, slot := nbits w 32 1, slice := nbits w 33 3,
              defkey := w.testBit 39, baseExp := nbits w 40 8, row := nbits x 0 40,
              header := BitVec.ofNat 128 (fieldAt bs 32 16), pawns := t.1, elems := t.2 })

/-- MARK (R373). -/
def parseMark (bs : List Byte) : Option PktBody :=
  let w := fieldAt bs 8 8
  if bs.length ≠ 16 ∨ nbits w 16 4 ≠ 0 then none
  else some (.mark { cseq := nbits w 0 16, tid := nbits w 20 12, step := nbits w 32 32 })

/-- LQUERY and LSTATE (R373). -/
def parseLink (query : Bool) (bs : List Byte) : Option PktBody :=
  let w := fieldAt bs 8 8
  let p : LinkPkt := { peerPort := nbits w 0 3, lastRx := nbits w 3 12, known := w.testBit 15 }
  if bs.length ≠ 16 ∨ nbits w 16 48 ≠ 0 then none
  else if query then (if nbits w 3 13 = 0 then some (.lquery p) else none)
  else some (.lstate p)

/-- A whole packet; none where R374 discards it. -/
def parsePacket (bs : List Byte) : Option Packet :=
  let w := fieldAt bs 0 8
  let kind := nbits w 0 4
  let h : PktHdr := { dest := nbits w 8 14, src := nbits w 22 14, hops := nbits w 48 4, vl := nbits w 6 1 }
  let body :=
    if kind = 1 then parseRead bs
    else if kind = 2 then parseRow bs
    else if kind = 3 then (parseKey bs).map .promote
    else if kind = 4 then (parseKey bs).map .notice
    else if kind = 5 then parseAbsent bs
    else if kind = 6 then parsePartial bs
    else if kind = 7 then parseUpdate bs
    else if kind = 8 then parseMark bs
    else if kind = 9 then parseLink true bs
    else if kind = 10 then parseLink false bs
    else none
  if w.testBit 7 ∨ nbits w 52 12 ≠ 0 then none else body.map (fun b => { hdr := h, body := b })

/-- What a run of payload bytes holds: whole packets, corrupt ones, corrupt PARTIALs among them, the bytes of a packet
not yet whole, and the cells the corrupt ones came in, with their channels. -/
structure Cut where
  packets : List Packet
  corrupt : Nat
  partials : Nat
  rest : List Byte
  freed : List (Nat × Nat)
  deriving DecidableEq, Repr

/-- Payload bytes that hold no whole packet. -/
def Cut.none (rest : List Byte) : Cut := { packets := [], corrupt := 0, partials := 0, rest := rest, freed := [] }

/-- One packet more that R374 discards, its header word `w` and its bytes `len`. -/
def Cut.discard (w len : Nat) (c : Cut) : Cut :=
  { c with corrupt := c.corrupt + 1, partials := c.partials + b2n (nbits w 0 4 == 6),
           freed := (nbits w 4 2 * 2 + nbits w 6 1, (len + 63) / 64) :: c.freed }

/-- Cut payload bytes into packets by their LEN. A header word of 0 starts no packet: the rest of the payload holds none; any
other header whose LEN is 0 is a packet that R374 discards, and nothing after it in the payload can be read (assumption log
24). -/
def cutPackets : Nat → List Byte → Cut
  | 0, bs => Cut.none bs
  | n + 1, bs =>
    if bs.length < 16 then Cut.none bs
    else
      let w := fieldAt bs 0 8
      let len := 16 * nbits w 36 12
      if w = 0 then Cut.none []
      else if len = 0 then (Cut.none []).discard w 16
      else if bs.length < len then Cut.none bs
      else
        let c := cutPackets n (bs.drop len)
        match parsePacket (bs.take len) with
        | some p => { c with packets := p :: c.packets }
        | none => c.discard w len

/-- Packets of a flit's payload, after the bytes of a packet begun before it. Where none was begun, the first one starts at
FIRST (R355). -/
def flitPackets (before : List Byte) (f : Flit) : Cut :=
  if f.idle then Cut.none before
  else if before.isEmpty then
    (if 15 ≤ f.first then Cut.none []
     else cutPackets 16 (f.payload.drop (16 * f.first)))
  else cutPackets 16 (before ++ f.payload)

/-! ## Packets as a sender lays them out (R368 to R373) -/

/-- Bytes padded with zeros to whole units of 16 B. -/
def padBytes (bs : List Byte) : List Byte := bs ++ List.replicate (pad16 bs.length - bs.length) 0

/-- The packet header (R368). -/
def hdrWord (k : Packet) : Nat :=
  kindNo k.body + classNo k.body * 2 ^ 4 + k.hdr.vl % 2 * 2 ^ 6 + k.hdr.dest % 2 ^ 14 * 2 ^ 8 + k.hdr.src % 2 ^ 14 * 2 ^ 22 +
    pktBytes k.body / 16 * 2 ^ 36 + k.hdr.hops % 16 * 2 ^ 48

/-- Row header, Pawn entries and elements of a ROW or an UPDATE (R370, R373). -/
def tailBytes (header : BitVec 128) (pawns : List W64) (elems : List Byte) : List Byte :=
  toLe 16 header.toNat ++ padBytes (wordsToBytes pawns) ++ padBytes elems

/-- What follows the header (R369 to R373). -/
def bodyBytes : PktBody → List Byte
  | .read p => wordsToBytes [(readWords p).1, (readWords p).2, w64 (p.step % pow32)]
  | .row p =>
    toLe 8 (p.tag + statusCode p.status * 2 ^ 20 + b2n p.prov * 2 ^ 28 + p.baseExp * 2 ^ 29 + p.slice * 2 ^ 37 +
      (if p.status = .ok then p.pawns.length else 0) * 2 ^ 40 + p.cseq % 65536 * 2 ^ 44) ++
      (if p.status = .ok then tailBytes p.header p.pawns p.elems else [])
  | .promote p => wordsToBytes [(keyWords p).1, (keyWords p).2, 0]
  | .notice p => wordsToBytes [(keyWords p).1, (keyWords p).2, 0]
  | .absent p => wordsToBytes [w64 (p.tag + p.kind * 2 ^ 20 + p.node * 2 ^ 24), p.w8, p.w10]
  | .part p =>
    wordsToBytes [
      w64 (p.tid + b2n p.defkey * 2 ^ 12 + p.row * 2 ^ 13 + p.slice * 2 ^ 53 + b2n p.w16 * 2 ^ 56 + b2n p.ownExp * 2 ^ 57 +
        b2n p.rescaled * 2 ^ 58),
      w64 (p.step % pow32 + p.epoch * 2 ^ 32 + p.exp * 2 ^ 48),
      w64 (p.contrib + p.tokens * 2 ^ 16 + p.codes.length * 2 ^ 48)] ++
      padBytes (p.codes.flatMap (fun c => let n := if p.w16 then 2 else 1; toLe n (pat (8 * n) c)))
  | .update p =>
    wordsToBytes [
      w64 (p.cseq % 65536 + p.tid * 2 ^ 20 + p.slot * 2 ^ 32 + p.slice * 2 ^ 33 + b2n p.defkey * 2 ^ 39 + p.baseExp * 2 ^ 40 +
        p.pawns.length * 2 ^ 48), w64 p.row, 0] ++ tailBytes p.header p.pawns p.elems
  | .mark p => toLe 8 (p.cseq % 65536 + p.tid * 2 ^ 20 + p.step % pow32 * 2 ^ 32)
  | .lquery p => toLe 8 (p.peerPort % 8)
  | .lstate p => toLe 8 (p.peerPort % 8 + p.lastRx % 4096 * 2 ^ 3 + b2n p.known * 2 ^ 15)

/-- A packet as its bytes. -/
def packetBytes (k : Packet) : List Byte := toLe 8 (hdrWord k) ++ bodyBytes k.body

/-! ## Flits a port sends (R355 to R360) -/

/-- A flit with the port's present ACK and its CRC. -/
def Port.stamp (p : Port) (f : Flit) : Flit :=
  let f := { f with ack := (p.rxSeq + 4095) % 4096 }
  { f with crc := w64 (crc64 (toLe 8 (flitWord f) ++ f.payload)) }

/-- Flits the port can still send without ACK: 2,048, one of them kept for packet bytes that wait (R357). -/
def Port.window (p : Port) : Nat := 2048 - p.flits.length - b2n (!p.txBytes.isEmpty)

/-- The lowest channel whose credit the port owes. -/
def Port.owing (p : Port) : Option Nat := (List.range 8).find? (fun c => 0 < mgetD p.owed c 0)

/-- A flit leaves: it carries ACK, the NAK that is owed and the credit of one channel, and is held until ACK covers it. -/
def Port.emit (idle : Bool) (first : Nat) (payload : List Byte) (p : Port) : Port :=
  let ch := p.owing.getD 0
  let n := min 4095 (mgetD p.owed ch 0)
  let f := p.stamp { fseq := p.txSeq, ack := 0, nak := p.nakOut, grantCh := ch, grant := n, idle := idle, first := first,
                     payload := payload, crc := 0, fecCorrected := 0, fecFailed := 0 }
  { p with flits := p.flits ++ [f], wire := p.wire ++ [f], txSeq := (p.txSeq + 1) % 4096, nakOut := false,
           owed := if n = 0 then p.owed else mmod p.owed ch 0 (fun c => c - n) }

/-- An IDLE flit leaves, where the window has room. -/
def Port.emitIdle (p : Port) : Port := if 0 < p.window then p.emit true 15 (List.replicate 240 0) else p

/-- IDLE flits give back the credit owed, at most `n` of them. -/
def Port.giveCredit : Nat → Port → Port
  | 0, p => p
  | n + 1, p => if p.owing.isSome then Port.giveCredit n p.emitIdle else p

/-- Whole flits of packet bytes leave; the rest waits. -/
def Port.emitFull : Nat → List Byte → Nat → Port → Port
  | 0, bs, first, p => { p with txBytes := bs, txFirst := first }
  | n + 1, bs, first, p =>
    if bs.length < 240 then { p with txBytes := bs, txFirst := if bs.isEmpty then 15 else first }
    else Port.emitFull n (bs.drop 240) 15 (p.emit false first (bs.take 240))

/-- Packet bytes that wait leave in a flit filled with zeros. -/
def Port.flush (p : Port) : Port :=
  if p.txBytes.isEmpty then p
  else
    { p.emit false p.txFirst (p.txBytes ++ List.replicate (240 - p.txBytes.length) 0) with txBytes := [], txFirst := 15 }

/-- UPDATE and MARK of one source and destination never pass one another (R375). -/
def mayLeave (q : List Queued) (idx : Nat) (k : Packet) : Bool :=
  classNo k.body != 3 || !((q.take idx).any (fun e => e.pkt.hdr.src == k.hdr.src && e.pkt.hdr.dest == k.hdr.dest))

/-- Flits that packet bytes of a number fill behind those that wait. -/
def Port.flitsFor (p : Port) (n : Nat) : Nat := (p.txBytes.length + n + 239) / 240

/-- A queued packet may leave: eligible, in its order, its channel with credit for all of it and the window with room (R357,
R359, R375, R378). -/
def Port.mayGo (p : Port) (chan idx : Nat) (e : Queued) : Bool :=
  e.eligible && decide (pktCells e.pkt.body ≤ mgetD p.credit chan 0) &&
    decide (p.flits.length + p.flitsFor (pktBytes e.pkt.body) ≤ 2048) && mayLeave (mgetD p.queues chan []) idx e.pkt

/-- Some queued packet may leave now. -/
def Port.anyReady (p : Port) : Bool :=
  (List.range 8).any (fun ch => (mgetD p.queues ch []).zipIdx.any (fun e => p.mayGo ch e.2 e.1))

/-- A packet leaves: its bytes follow those of the packet before it. Bytes short of a flit wait while another packet may follow
at once; otherwise the flit is filled with zeros (R355; a DESIGN CHOICE, assumption log 23). It enters the link in the virtual
lane of its channel (R366). -/
def Port.send (chan idx : Nat) (e : Queued) (p : Port) : Port :=
  let bs := packetBytes { e.pkt with hdr := { e.pkt.hdr with vl := chan % 2 } }
  let u : SentPkt := { first := p.txSeq, last := (p.txSeq + p.flitsFor bs.length + 4095) % 4096, chan := chan, pkt := e.pkt }
  let first := if p.txFirst = 15 then p.txBytes.length / 16 else p.txFirst
  let p := { p with
    queues := mset p.queues chan ((mgetD p.queues chan []).eraseIdx idx),
    credit := mmod p.credit chan 0 (fun c => c - pktCells e.pkt.body), unacked := p.unacked ++ [u] }
  let p := Port.emitFull (bs.length / 240 + 2) (p.txBytes ++ bs) first p
  if p.anyReady then p else p.flush

/-- A sequence number is covered by an acknowledgement: it lies at or before it in the window of 2,048 (R357). -/
def covered (ack seq : Nat) : Bool := decide ((ack + 4096 - seq) % 4096 < 2048)

/-- Flits up to `ack` are delivered, and the packets wholly within them (R357). -/
def ackTo (ack : Nat) (p : Port) : Port :=
  { p with unacked := p.unacked.filter (fun u => !covered ack u.last), flits := p.flits.filter (fun f => !covered ack f.fseq) }

/-- The held flits are sent again, oldest first, with the present ACK (R357, R385). -/
def Port.replay (p : Port) : Port :=
  let l := p.flits.map (fun f => p.stamp { f with nak := false })
  { p with flits := l, wire := p.wire ++ l, replays := satAdd 24 p.replays 1 }

/-- Cells of received packets that a port holds (R360). -/
def Port.rxCells (p : Port) : Nat := p.rx.foldl (fun n k => n + pktCells k.body) ((p.rxBytes.length + 63) / 64)

/-- A port does something and the counters follow the flits it sent. -/
def transmit (port : Nat) (f : Port → Port) (s : State) : State :=
  let n := (portAt s port).wire.length
  let s := portMod port f s
  let l := (portAt s port).wire.drop n
  countEv (islSpan port) 0x603 (l.filter Flit.nak).length (countEv (islSpan port) 0x600 l.length s)

/-- A port whose link carries flits. -/
def linkUp (s : State) (port : Nat) : Bool :=
  decide (port < 8) && ((portAt s port).state == .up || (portAt s port).state == .shuttering)

/-- A port gives back the credit it owes while its link carries flits. -/
def grantNow (port : Nat) (s : State) : State := if linkUp s port then transmit port (Port.giveCredit 16) s else s

/-- Received cells are free: their credit goes back to the peer (R360). -/
def returnCells (l : List (Nat × Nat × Nat)) (s : State) : State :=
  (l.map Prod.fst).foldl (fun t p => grantNow p t) (oweCells l s)

end Sys2Proof.Machine
end

