-- ==== Sys2Proof/Machine/Tables.lean ====
section
/-! DEFINITION. Table descriptors and version slots: TABLE_CREATE, TABLE_DESCRIBE, TABLE_DESTROY, LOAD_START, LOAD_ROWS,
LOAD_END, SWITCH and ROW_RESTORE (chapter "Tables, rows and homes", R267, R268, R510, R511, R667). -/

namespace Sys2Proof.Machine

open Sys2Proof

/-! ## Storage in the HBM table area (R36, R302, R668) -/

/-- Bytes rounded up to a codeword: each structure of the table area takes whole codewords, where R36 does not say whether it
does (DESIGN CHOICE, assumption log 17). -/
def round64 (n : Nat) : Nat := (n + 63) / 64 * 64

/-- This K40 keeps the learned default row of a table (R36, R69). -/
def homesDefault (s : State) (t : Table) : Bool := t.defMode && t.defHome == self s

/-- Sizes of the structures a version slot takes, in the order of `Placement`: directory, shelves, state array, learned
default row, its state. -/
def slotSizes (s : State) (t : Table) (shelves : Nat) : List Nat :=
  let n := dirCount s t
  let d := homesDefault s t
  [16 * n, shelves * shelfBytes, n * stateBytes t.opt t.dim, if d then rowSize .w32 t.dim else 0,
   if d then stateBytes t.opt t.dim else 0]

/-- Addresses of a placement, in that order. -/
def placesOf (p : Placement) : List Nat := [p.dir, p.shelf, p.state, p.defRow, p.defState]

/-- Address and size of each structure a placement gives storage to, in whole codewords. -/
def regionsAt (places sizes : List Nat) : List (Nat × Nat) :=
  ((places.zip sizes).filter (fun r => r.2 != 0)).map (fun r => (r.1, round64 r.2))

/-- The structures of a slot in use. -/
def slotRegions (s : State) (t : Table) (i : Nat) : List (Nat × Nat) :=
  let v := vslot t i
  if v.state = .empty then []
  else regionsAt [v.dirLoc, v.shelfLoc, v.stateLoc, v.defLoc, v.defStateLoc] (slotSizes s t v.shelves)

/-- Every structure of every slot in use but one slot that is given up. -/
def usedRegions (s : State) (skip : Option (Nat × Nat)) : List (Nat × Nat) :=
  s.tables.flatMap (fun p => [0, 1].flatMap (fun i =>
    if skip = some (p.1, i) then [] else slotRegions s p.2 i))

/-- Bytes of a list of structures. -/
def regionBytes (rs : List (Nat × Nat)) : Nat := rs.foldl (fun n r => n + r.2) 0

/-- A home map and its ordinal table (R59). -/
def mapBytes : Nat := 262144

/-- Where the home maps and their ordinal tables lie (R36). -/
def mapRegions (s : State) : List (Nat × Nat) := s.maps.map (fun p => (p.2.loc, mapBytes))

/-- What the table area holds whose place is known, but for one slot that is given up (R36). -/
def heldRegions (s : State) (skip : Option (Nat × Nat)) : List (Nat × Nat) := usedRegions s skip ++ mapRegions s

/-- Free space of the HBM table area (R36): what remains after the structures in use, the home maps with their ordinal
tables, and `other` bytes of the structures whose sizes the manual does not give. -/
def freeSpace (s : State) (used : List (Nat × Nat)) (other : Nat) : Nat :=
  tableTop s - (regionBytes used + mapBytes * s.maps.length + other)

/-- Two structures do not overlap. -/
def apart (a b : Nat × Nat) : Bool := decide (a.1 + a.2 ≤ b.1) || decide (b.1 + b.2 ≤ a.1)

/-- Every structure lies apart from those after it. -/
def allApart : List (Nat × Nat) → Bool
  | [] => true
  | a :: r => r.all (apart a) && allApart r

/-- New structures lie in the table area at codeword addresses, apart from each other and from those in use. -/
def placementOk (s : State) (used new : List (Nat × Nat)) : Bool :=
  new.all (fun r => r.1 % 64 == 0 && decide (r.1 + r.2 ≤ tableTop s) && used.all (apart r)) && allApart new

/-- A slot takes its storage and is LOADING, no row loaded (R72 to R74, R668). -/
def openSlot (tid i rows shelves : Nat) (p : Placement) (s : State) : State :=
  let s := forgetSlot tid i s
  match mget s.tables tid with
  | none => s
  | some t =>
    let n := slotSizes s t shelves
    let has (k : Nat) : Bool := n.getD k 0 != 0
    let v : VSlot :=
      { state := .loading, rows := rows, shelves := shelves, dirLoc := p.dir, shelfLoc := p.shelf,
        stateLoc := if stateBytes t.opt t.dim = 0 then 0 else p.state,
        defLoc := if has 3 then p.defRow else 0, defStateLoc := if has 4 then p.defState else 0, refs := 0, used := [] }
    asySpanStart tid (spanLoad i) (hbmClear p.dir (n.getD 0 0) { s with tables := mset s.tables tid (setVslot t i v) })

/-- The limit of 256 TiB over the nodes of a map (R36, R74). -/
def hallFits (m : HomeMap) (shelves : Nat) : Bool :=
  decide (shelves * shelfBytes * distinctNodes m.entries ≤ 2 ^ 48)

/-! ## The descriptor (R34, R267) -/

/-- Reserved bits of the descriptor's words. -/
def descReserved : List (Nat × Nat) :=
  [(0, 0xFF00C000C000F000), (3, 0xFFFE000000000000), (4, 0xFFFFFFFF8000C000), (5, 0xFFFFFFFFFFFFFFFF),
   (6, 0xFFFFE00000000000), (7, 0xFFFFFFFFFF000000), (10, 0xFFFFE00000000000), (11, 0xFFFFFFFFFF000000),
   (14, 0xFF000000000000FE), (15, 0xFFFFFFFFFFFFFFFC), (16, 0x00000000FFFFFF00), (20, 0xFFFFFFFF00000000),
   (22, 0xFFFFFFFF00000000), (25, 0xFFFFFFFFFFFFFFFF), (26, 0xFFFFFFFFFFFFFFFF), (27, 0xFFFFFFFFFFFFFFFF),
   (28, 0xFFFFFFFFFFFFFFFF), (29, 0xFFFFFFFFFFFFFFFF), (30, 0xFFFFFFFFFFFFFFFF), (31, 0xFFFFFFFFFFFFFFFF)]

/-- Bits `lo` to `lo + n - 1` of word `i` of a block. -/
def fieldOf (bs : List Byte) (i lo n : Nat) : Nat := nbits (fieldAt bs (8 * i) 8) lo n

/-- Optimiser kinds by code (R267). -/
def optKindOf (n : Nat) : OptKind :=
  match n with
  | 1 => .sgd
  | 2 => .momentum
  | 3 => .adagrad
  | 4 => .adam
  | _ => .none

/-- Its code. -/
def optKindCode : OptKind → Nat
  | .none => 0
  | .sgd => 1
  | .momentum => 2
  | .adagrad => 3
  | .adam => 4

/-- An FP32 field of the descriptor: word `i`, low or high half. -/
def descFloat (bs : List Byte) (i lo : Nat) : W32 := BitVec.ofNat 32 (fieldOf bs i lo 32)

/-- The optimiser block of a new table (R267). -/
def optOf (bs : List Byte) : OptBlock :=
  { kind := optKindOf (fieldOf bs 16 0 4), s16 := fieldOf bs 16 4 1 == 1, partW16 := fieldOf bs 16 5 1 == 1,
    threshold := fieldOf bs 16 6 2 == 1, lr := descFloat bs 16 32, beta1 := descFloat bs 17 0, beta2 := descFloat bs 17 32,
    eps := descFloat bs 18 0, wd := descFloat bs 18 32, shelfUp := descFloat bs 19 0, shelfDown := descFloat bs 19 32,
    shelfDecay := descFloat bs 20 0, b1Pow := fOne, b2Pow := fOne, powStep := 0 }

/-- The table a descriptor names. -/
def tableOf (bs : List Byte) : Table :=
  { dim64 := fieldOf bs 0 16 8, hbits := fieldOf bs 0 24 6, homeMap := fieldOf bs 0 32 4,
    rangeMode := fieldOf bs 0 36 1 == 1, defMode := fieldOf bs 0 37 1 == 1, defMean := fieldOf bs 0 38 1 == 1,
    meanNorm := fieldOf bs 0 39 1 == 1, drop := fieldOf bs 0 40 2 == 1, shelfExpPin := fieldOf bs 0 42 1 == 1,
    classFixed := fieldOf bs 0 43 1 == 1, fixedClass := classOf (fieldOf bs 0 44 2), shelfExpInit := fieldOf bs 0 48 8,
    seed := w64 (fieldOf bs 1 0 64), missingValue := w64 (fieldOf bs 2 0 64), popW32 := fieldOf bs 3 0 16,
    popW16 := fieldOf bs 3 16 16, popW8 := fieldOf bs 3 32 16, missingEn := fieldOf bs 3 48 1 == 1,
    defHome := fieldOf bs 4 0 14, pawnSlots := fieldOf bs 4 16 15,
    slot0 := { VSlot.none with rows := fieldOf bs 6 0 41, shelves := fieldOf bs 7 0 24 },
    slot1 := { VSlot.none with rows := fieldOf bs 10 0 41, shelves := fieldOf bs 11 0 24 },
    active := 0, destroying := false, opt := optOf bs, agreed := none, shut := none }

/-- Between 0 and 1, 1 included where `one`. -/
def unitOk (one : Bool) (x : W32) : Bool :=
  fGe x 0 && (fLt x fOne || (one && x == fOne))

/-- Positive and finite. -/
def positive (x : W32) : Bool := isFin x && fLt 0 x

/-- Finite and not negative. -/
def nonNegative (x : W32) : Bool := isFin x && fGe x 0

/-- R268: the optimiser block is acceptable. -/
def optOk (o : OptBlock) : Bool :=
  nonNegative o.lr && nonNegative o.wd &&
    (!(o.kind == .momentum || o.kind == .adam) || unitOk false o.beta1) &&
    (!(o.kind == .adam) || unitOk false o.beta2) &&
    (!(o.kind == .adagrad || o.kind == .adam) || positive o.eps) &&
    (!o.threshold || (positive o.shelfUp && positive o.shelfDown && unitOk true o.shelfDecay))

/-- R34: each field lies in its range and no reserved field is set. -/
def descFieldsOk (s : State) (bs : List Byte) : Bool :=
  let t := tableOf bs
  descReserved.all (fun r => fieldAt bs (8 * r.1) 8 &&& r.2 == 0) &&
    decide (1 ≤ t.dim64) && decide (t.dim64 ≤ 128) && decide (16 ≤ t.hbits) && decide (t.hbits ≤ 40) &&
    (mget s.maps t.homeMap).isSome && decide (fieldOf bs 0 40 2 ≤ 1) && decide (t.pawnSlots ≤ 16384) &&
    decide (t.slot0.rows ≤ 2 ^ 40) && decide (t.slot1.rows ≤ 2 ^ 40) && decide (fieldOf bs 16 0 4 ≤ 4) &&
    decide (fieldOf bs 16 6 2 ≤ 1)

/-- R35. -/
def descRulesOk (s : State) (tid : Nat) (t : Table) : Bool :=
  decide (t.popW16 ≤ t.popW32) && decide (t.popW8 ≤ t.popW16) && decide (t.slot0.rows ≤ 2 ^ t.hbits) &&
    decide (t.slot1.rows ≤ 2 ^ t.hbits) && (mget s.tables tid).isNone

/-- R36. -/
def descFits (s : State) (t : Table) (other : Nat) : Bool :=
  let new := (slotSizes s t t.slot0.shelves).map round64
  (match mapOf s t with
    | some m => hallFits m t.slot0.shelves
    | none => false) &&
    decide (new.foldl (· + ·) 0 ≤ freeSpace s (usedRegions s none) other)

/-- Table create is accepted (R34 to R36, R268). -/
def createOk (s : State) (bs : List Byte) (other : Nat) : Bool :=
  let t := tableOf bs
  descFieldsOk s bs && descRulesOk s (fieldOf bs 0 0 12) t && optOk t.opt && descFits s t other

/-- A new table: LIVE, slot 0 LOADING, its Assayer counters at 0 (R73, R108). -/
def createTable (bs : List Byte) (p : Placement) (s : State) : State :=
  let tid := fieldOf bs 0 0 12
  let t := tableOf bs
  let s := asyMod tid (fun _ => { AsyCounts.zero with spans := if s.ldg.committing then [(spanCommit, (0, false))] else [] })
    { s with tables := mset s.tables tid t, shutters := s.shutters.filter (fun x => !(x.kind == 1 && x.num == tid)) }
  openSlot tid 0 t.slot0.rows t.slot0.shelves p s

/-- TABLE_CREATE (R34 to R37, R73, OP 0x0501). A placement that meets a structure in use is no placement the K40 makes:
the step does not come about (assumption log 8). -/
def execTableCreate (slot : Nat) (v : ChipView) (place : Placement) (s : State) : Host.Outcome State Fault Refusal :=
  match takenCmd s 0x0501 slot isSlow with
  | none => .next s
  | some k =>
    match clerkRead s v k.msg.ctx (bits (arg k.msg 1) 0 56) 256 with
    | .error e => cmdStep 0x0501 slot s fun m s => postFinal slot m e [] (noteClerk v m.ctx (bits (arg m 1) 0 56) 256 s)
    | .ok bs =>
      if !createOk s bs place.other then cmdStep 0x0501 slot s fun m s => postFinal slot m .badDescriptor [] s
      else
        let t := tableOf bs
        if placementOk s (heldRegions s none) (regionsAt (placesOf place) (slotSizes s t t.slot0.shelves)) then
          cmdStep 0x0501 slot s fun m s => postFinal slot m .ok [] (createTable bs place s)
        else .next s

/-- Codes of STATEn (R72). -/
def slotCode : SlotState → Nat
  | .empty => 0
  | .loading => 1
  | .standby => 2
  | .active => 3
  | .draining => 4

/-- The words of the descriptor that Table describe writes (R34, R267). -/
def descWords (tid : Nat) (t : Table) : List W64 :=
  let o := t.opt
  let slotWords (v : VSlot) : List W64 :=
    [w64 (v.rows + slotCode v.state * 2 ^ 41), w64 v.shelves, w64 v.dirLoc, w64 v.shelfLoc]
  [w64 (tid + t.dim64 * 2 ^ 16 + t.hbits * 2 ^ 24 + t.homeMap * 2 ^ 32 + b2n t.rangeMode * 2 ^ 36 + b2n t.defMode * 2 ^ 37 +
      b2n t.defMean * 2 ^ 38 + b2n t.meanNorm * 2 ^ 39 + b2n t.drop * 2 ^ 40 + b2n t.shelfExpPin * 2 ^ 42 +
      b2n t.classFixed * 2 ^ 43 + classCode t.fixedClass * 2 ^ 44 + t.shelfExpInit * 2 ^ 48),
   t.seed, t.missingValue,
   w64 (t.popW32 + t.popW16 * 2 ^ 16 + t.popW8 * 2 ^ 32 + b2n t.missingEn * 2 ^ 48),
   w64 (t.defHome + t.pawnSlots * 2 ^ 16), 0] ++ slotWords t.slot0 ++ slotWords t.slot1 ++
  [w64 (t.active + min t.slot0.refs (low 24) * 2 ^ 8 + min t.slot1.refs (low 24) * 2 ^ 32),
   w64 (if t.destroying then 2 else 1),
   w64 (optKindCode o.kind + b2n o.s16 * 2 ^ 4 + b2n o.partW16 * 2 ^ 5 + b2n o.threshold * 2 ^ 6 + o.lr.toNat * 2 ^ 32),
   pair32 o.beta1.toNat o.beta2.toNat, pair32 o.eps.toNat o.wd.toNat, pair32 o.shelfUp.toNat o.shelfDown.toNat,
   pair32 o.shelfDecay.toNat 0, pair32 o.b1Pow.toNat o.b2Pow.toNat, pair32 o.powStep 0,
   w64 t.slot0.stateLoc, w64 t.slot1.stateLoc] ++ List.replicate 7 0

/-- TABLE_DESCRIBE (R34, OP 0x0502): a table that is DESTROYING is described too. -/
def execTableDescribe (slot : Nat) (v : ChipView) (s : State) : Host.Outcome State Fault Refusal :=
  cmdStep 0x0502 slot s fun m s =>
    let tid := bits (arg m 1) 0 12
    match mget s.tables tid with
    | none => postFinal slot m .tableAbsent [] s
    | some t => clerkResult s v slot m (bits (arg m 2) 0 56) (wordsToBytes (descWords tid t)) []

/-- A Commit still has an entry of a table to apply, fresh entries of SPILL and those of a redo among them. -/
def Commit.holds (c : Commit) (tid : Nat) : Bool :=
  (c.todo ++ c.batch).any (fun e => e.key.tid == tid) || c.promoted.any (fun k => k.tid == tid)

/-- The open or the sealed step holds a Ledger entry of a table (R39), in its index, in a spill record, in the Day Book of a
redo or in the running Commit. -/
def holdsEntry (s : State) (tid : Nat) : Bool :=
  s.ldg.entries.any (fun e => e.key.tid == tid && (s.ldg.openStep == some e.step || s.ldg.sealedStep == some e.step)) ||
    s.ldg.spills.any (fun r => r.key.tid == tid) ||
    (!s.ldg.committing && (s.ldg.sealedStep.bind (redoJournal s)).any (fun j => j.entries.any (fun e => e.key.tid == tid))) ||
    (s.ldg.committing && s.ldg.commit.holds tid)

/-- TABLE_DESTROY (R39, OP 0x0503). -/
def execTableDestroy (slot : Nat) (s : State) : Host.Outcome State Fault Refusal :=
  cmdStep 0x0503 slot s fun m s =>
    let tid := bits (arg m 1) 0 12
    withTable slot m tid s fun _ =>
      if holdsEntry s tid then postFinal slot m .badDescriptor [] s
      else postFinal slot m .ok [] (advance (settleSlot tid 0 (asySpanEnd tid (spanLoad 0) (asySpanEnd tid (spanLoad 1)
        (tableMod tid (fun t => { t with destroying := true }) s)))))

/-! ## Table load (R72 to R76, R510, R511) -/

/-- LOAD_START is accepted (R74). -/
def loadStartOk (s : State) (tid i rows shelves other : Nat) (t : Table) : Bool :=
  let v := vslot t i
  let new := (slotSizes s t shelves).map round64
  (v.state == .empty || v.state == .loading) && decide (rows ≤ 2 ^ 40) && decide (rows ≤ 2 ^ t.hbits) &&
    (match mapOf s t with
      | some m => hallFits m shelves
      | none => false) &&
    decide (new.foldl (· + ·) 0 ≤ freeSpace s (usedRegions s (some (tid, i))) other)

/-- LOAD_START (R72, R74, R668, OP 0x0504). -/
def execLoadStart (slot : Nat) (place : Placement) (s : State) : Host.Outcome State Fault Refusal :=
  match takenCmd s 0x0504 slot isSlow with
  | none => .next s
  | some k =>
    let tid := bits (arg k.msg 1) 0 12
    let i := bits (arg k.msg 1) 12 1
    let rows := bits (arg k.msg 2) 0 41
    let shelves := bits (arg k.msg 3) 0 24
    match liveTable s tid with
    | none => cmdStep 0x0504 slot s fun m s => postFinal slot m .tableAbsent [] s
    | some t =>
      if !loadStartOk s tid i rows shelves place.other t then
        cmdStep 0x0504 slot s fun m s => postFinal slot m .badDescriptor [] s
      else if placementOk s (heldRegions s (some (tid, i))) (regionsAt (placesOf place) (slotSizes s t shelves)) then
        cmdStep 0x0504 slot s fun m s => postFinal slot m .ok [] (openSlot tid i rows shelves place s)
      else .next s

/-- State values a load record carries (R510). -/
def stateLen (o : OptBlock) (d : Nat) : Nat :=
  match o.kind with
  | .none | .sgd => 0
  | .momentum => d
  | .adagrad => 1
  | .adam => 2 * d

/-- Bytes of a load record (R510). -/
def loadBytes (t : Table) (hasState : Bool) : Nat :=
  (16 + 4 * t.dim + 4 * (if hasState then stateLen t.opt t.dim else 0) + 15) / 16 * 16

/-- A load record (R510). -/
structure LoadRec where
  row : Nat
  defkey : Bool
  pop : Nat
  vals : List W32
  state : OptState
  deriving DecidableEq, Repr

/-- FP32 values of a block. -/
def floatsAt (bs : List Byte) (ofs n : Nat) : List W32 := (groupLe 4 n (bs.drop ofs)).map (BitVec.ofNat 32)

/-- The record in a block; none where a reserved bit is set (R502). -/
def loadRec (t : Table) (hasState : Bool) (bs : List Byte) : Option LoadRec :=
  if fieldOf bs 0 41 7 ≠ 0 ∨ fieldOf bs 1 0 64 ≠ 0 then none
  else
    let d := t.dim
    let at0 := 16 + 4 * d
    let z := OptState.zero t.opt d
    let st : OptState :=
      if !hasState then z
      else match t.opt.kind with
        | .none | .sgd => z
        | .momentum => { z with u := floatsAt bs at0 d }
        | .adagrad => { z with acc := (floatsAt bs at0 1).headD 0 }
        | .adam => { z with u := floatsAt bs at0 d, r := floatsAt bs (at0 + 4 * d) d }
    some { row := fieldOf bs 0 0 40, defkey := fieldOf bs 0 40 1 == 1, pop := fieldOf bs 0 48 16,
           vals := floatsAt bs 16 d, state := st }

/-- What becomes of a record (R511). -/
inductive LoadFate where
  | write | notHome | outOfRange
  deriving DecidableEq, Repr

/-- Where a record belongs (R511): a row at or above ROWS is out of range whatever its home. -/
def loadFate (s : State) (t : Table) (rows : Nat) (r : LoadRec) : LoadFate :=
  if r.defkey then (if homesDefault s t then .write else .notHome)
  else if rows ≤ r.row then .outOfRange
  else if homeNode s t false r.row = self s then .write
  else .notHome

/-- Where a row's state lies: in the slot's state array, or beside the learned default row. -/
def recordState (t : Table) (v : VSlot) (r : LoadRec) (ix : Nat) : Nat :=
  if r.defkey then v.defStateLoc else stateAddr t v ix

/-- Write a record's state (R511, R270). -/
def writeRecState (tid i ix : Nat) (r : LoadRec) (s : State) : State :=
  match mget s.tables tid with
  | none => s
  | some t =>
    if stateBytes t.opt t.dim = 0 then s
    else (writeState t (recordState t (vslot t i) r ix) r.state s).1

/-- Write a row of a record at a fresh place of its class, and its directory entry; none where no shelf has room. A row
loaded before is written at its own place while its class is the same (assumption log 8). -/
def loadRow (tid i : Nat) (m : RowMeta) (cls : RowClass) (r : LoadRec) (ix : Nat) (s : State) : Option State :=
  match mget s.tables tid with
  | none => none
  | some t =>
    let da := dirAddr (vslot t i) ix
    let e := readDir s da
    if e.loaded ∧ e.cls = cls then some (writeRowAt tid i e.shelf e.ofs m r.vals s)
    else
      (placeRow tid i cls m r.vals s).map (fun p =>
        let now : DirEnt := { cls := cls, tier := 0, loaded := true, shelf := p.1, ofs := p.2.1, larder := 0 }
        let s := if e.loaded then unhold tid i e now p.2.2 else p.2.2
        writeDir da now s)

/-- Write one record of a table load; none where no shelf of its class has room. -/
def loadWrite (tid i stamp : Nat) (t : Table) (r : LoadRec) (s : State) : Option State :=
  let m : RowMeta := { stamp := stamp, pop := r.pop, dflt := r.defkey }
  if r.defkey then some (writeRecState tid i 0 r (writeDefault tid i m r.vals s))
  else
    match dirIndex s t r.row with
    | none => none
    | some ix => (loadRow tid i m (classFor t r.pop) r ix s).map (writeRecState tid i ix r)

/-- How LOAD_ROWS stands: what is written, NOT_HOME, OUT_OF_RANGE, and the status once it has ended early. -/
structure LoadRun where
  st : State
  written : Nat
  notHome : Nat
  outOfRange : Nat
  ended : Option Status
  deriving DecidableEq, Repr

/-- One record of LOAD_ROWS. -/
def loadOne (v : ChipView) (ctx da tid i stamp rows : Nat) (hasState : Bool) (t : Table) (k : LoadRun) (n : Nat) : LoadRun :=
  if k.ended.isSome then k
  else
    let len := loadBytes t hasState
    match clerkRead k.st v ctx (da + n * len) len with
    | .error e => { k with ended := some e, st := noteClerk v ctx (da + n * len) len k.st }
    | .ok bs =>
      match loadRec t hasState bs with
      | none => { k with ended := some .badDescriptor }
      | some r =>
        match loadFate k.st t rows r with
        | .notHome => { k with notHome := k.notHome + 1 }
        | .outOfRange => { k with outOfRange := k.outOfRange + 1 }
        | .write =>
          match loadWrite tid i stamp t r k.st with
          | none => { k with ended := some .badDescriptor }
          | some s => { k with st := s, written := k.written + 1 }

/-- LOAD_ROWS (R74, R508, R510, R511, OP 0x0505). The whole argument range is checked before the first record. -/
def execLoadRows (slot : Nat) (v : ChipView) (s : State) : Host.Outcome State Fault Refusal :=
  cmdStep 0x0505 slot s fun m s =>
    let tid := bits (arg m 1) 0 12
    let i := bits (arg m 1) 12 1
    let hasState := bit (arg m 1) 13
    let da := bits (arg m 2) 0 56
    let n := bits (arg m 3) 0 17
    withTable slot m tid s fun t =>
      if n < 1 ∨ 65536 < n ∨ (vslot t i).state ≠ .loading then postFinal slot m .badDescriptor [0, 0] s
      else match translate s v m.ctx da (n * loadBytes t hasState) false with
        | .error e => postFinal slot m (failStatus e) [0, 0] (noteClerk v m.ctx da (n * loadBytes t hasState) s)
        | .ok _ =>
          let k := (List.range n).foldl
            (loadOne v m.ctx da tid i (bits (arg m 4) 0 32) (vslot t i).rows hasState t)
            { st := s, written := 0, notHome := 0, outOfRange := 0, ended := none }
          postFinal slot m (k.ended.getD .ok) (words32 [k.written, k.notHome, k.outOfRange]) k.st

/-- Every row below ROWS that this K40 homes is loaded (R74). -/
def allLoaded (s : State) (t : Table) (i : Nat) : Bool :=
  (List.range (vslot t i).rows).all (fun r =>
    homeNode s t false r != self s ||
      (match dirIndex s t r with
        | some ix => (readDir s (dirAddr (vslot t i) ix)).loaded
        | none => true))

/-- LOAD_END (R72, R74, OP 0x0506). One that names a slot that is not LOADING, which the manual does not provide for, is
answered CS_BAD_DESCRIPTOR too (DESIGN CHOICE, assumption log 17). -/
def execLoadEnd (slot : Nat) (s : State) : Host.Outcome State Fault Refusal :=
  cmdStep 0x0506 slot s fun m s =>
    let tid := bits (arg m 1) 0 12
    let i := bits (arg m 1) 12 1
    withTable slot m tid s fun t =>
      if (vslot t i).state = .loading ∧ allLoaded s t i then
        postFinal slot m .ok [] (asySpanEnd tid (spanLoad i)
          (tableMod tid (fun t => setVslot t i { vslot t i with state := .standby }) s))
      else postFinal slot m .badDescriptor [] s

/-- The slot a switch makes ACTIVE: the STANDBY one, the lower where both are (assumption log 28). -/
def standbySlot (t : Table) : Option Nat :=
  if t.slot0.state = .standby then some 0 else if t.slot1.state = .standby then some 1 else none

/-- The former ACTIVE slot drains and the STANDBY one is ACTIVE (R75). -/
def switchTo (n : Nat) (t : Table) : Table :=
  let old := activeSlot t
  let t := match old with
    | some k => setVslot t k { vslot t k with state := .draining }
    | none => t
  { setVslot t n { vslot t n with state := .active } with active := n }

/-- SWITCH (R62, R75, R76, OP 0x0507). -/
def execSwitch (slot : Nat) (s : State) : Host.Outcome State Fault Refusal :=
  cmdStep 0x0507 slot s fun m s =>
    let tid := bits (arg m 1) 0 12
    withTable slot m tid s fun t =>
      match standbySlot t with
      | none => postFinal slot m .badDescriptor [] s
      | some n =>
        if s.ldg.committing then postFinal slot m .badDescriptor [] s
        else postFinal slot m .ok [] (settleSlot tid (1 - n) (tableMod tid (switchTo n) s))

/-! ## ROW_RESTORE (R667) -/

/-- A directory codeword that is poisoned is rewritten whole, the entries in it with TIER = 3; entries of the directory
only. -/
def rewriteCodeword (v : VSlot) (entries da : Nat) (s : State) : State :=
  let c := da / 64 * 64
  let bs := (List.range 4).flatMap (fun k =>
    let a := c + 16 * k
    if v.dirLoc ≤ a ∧ a < v.dirLoc + 16 * entries then toLe 16 (dirBits { readDir s a with tier := 3 }).toNat
    else hbmRead s a 16)
  hbmWrite c bs s

/-- A move of the row that is under way ends first. -/
def endMoves (da : Nat) (s : State) : State :=
  (s.moves.filter (fun m => m.dirAddr == da)).foldl (fun t m => finishMove m t)
    { s with moves := s.moves.filter (fun m => m.dirAddr != da) }

/-- Steps 1 to 4 of R667 for a row with a directory entry; none where no shelf has room. -/
def restoreRow (tid i stamp : Nat) (t : Table) (r : LoadRec) (ix : Nat) (s : State) : Option State :=
  let da := dirAddr (vslot t i) ix
  let s := endMoves da s
  let bad := (poisonedAt s da 16).isSome
  let e := readDir s da
  let live := !bad && e.loaded && e.tier != 3
  let cls := if live then e.cls else classFor t r.pop
  let m : RowMeta := { stamp := stamp, pop := r.pop, dflt := false }
  (placeRow tid i cls m r.vals s).map (fun p =>
    let now : DirEnt := { cls := cls, tier := 0, loaded := true, shelf := p.1, ofs := p.2.1, larder := 0 }
    let s := writeRecState tid i ix r p.2.2
    if live then dropCopy tid i da (startMove tid i da now s)
    else
      let s := if bad then rewriteCodeword (vslot t i) (dirCount s t) da s else s
      writeDir da now (dropCopy tid i da s))

/-- The place of a restored row, for the Crier. -/
def restoredPlace (s : State) (t : Table) (i : Nat) (r : LoadRec) : RowPlace :=
  let v := vslot t i
  let da := ((dirIndex s t r.row).map (dirAddr v)).getD 0
  let ent := match s.moves.find? (fun m => m.dirAddr == da) with
    | some m => dirOf m.entry
    | none => readDir s da
  { slot := i, dirA := da, ent := ent, stateA := 0 }

/-- The Crier sends the rewritten row to its subscribers (R667). -/
def restoreCrier (tid i : Nat) (r : LoadRec) (s : State) : State :=
  match mget s.tables tid with
  | none => s
  | some t => crierKey t (restoredPlace s t i r) { tid := tid, defkey := r.defkey, row := if r.defkey then 0 else r.row } s

/-- A table load of its own for R112, beside the spans that run. -/
def ownSpan (tid : Nat) (f : State → Option State) (s : State) : Option State :=
  (f (asySpanStart tid spanRestore s)).map (asySpanEnd tid spanRestore)

/-- The row write of ROW_RESTORE; none where R667 refuses it. -/
def restoreWrite (tid i stamp : Nat) (t : Table) (r : LoadRec) (s : State) : Option State :=
  ownSpan tid (fun s =>
    if r.defkey then
      some (writeRecState tid i 0 r (writeDefault tid i { stamp := stamp, pop := r.pop, dflt := true } r.vals s))
    else (dirIndex s t r.row).bind (fun ix => restoreRow tid i stamp t r ix s)) s

/-- ROW_RESTORE (R667, OP 0x0508). -/
def execRowRestore (slot : Nat) (v : ChipView) (s : State) : Host.Outcome State Fault Refusal :=
  cmdStep 0x0508 slot s fun m s =>
    let tid := bits (arg m 1) 0 12
    withTable slot m tid s fun t =>
      match activeSlot t with
      | none => postFinal slot m .badDescriptor [] s
      | some i =>
        match clerkRead s v m.ctx (bits (arg m 2) 0 56) (loadBytes t true) with
        | .error e => postFinal slot m e [] (noteClerk v m.ctx (bits (arg m 2) 0 56) (loadBytes t true) s)
        | .ok bs =>
          match loadRec t true bs with
          | none => postFinal slot m .badDescriptor [] s
          | some r =>
            if loadFate s t (vslot t i).rows r ≠ .write then postFinal slot m .badDescriptor [] s
            else match restoreWrite tid i (bits (arg m 3) 0 32) t r s with
              | none => postFinal slot m .badDescriptor [] s
              | some s => postFinal slot m .ok [] (advance (restoreCrier tid i r s))

end Sys2Proof.Machine
end

