-- ==== Sys2Proof/Machine/Replicas.lean ====
section
/-! DEFINITION. The REPLICA region and its index, and the placement reads of a hot-set refresh (R286, R302, R308 to R311,
R390). -/

namespace Sys2Proof.Machine

open Sys2Proof

/-! ## The REPLICA region (R302, R308) -/

/-- 64 B blocks of a replica: the row and its BASE_EXP in the 16 B that follow (R308, R663). -/
def replicaBlocks (size : Nat) : Nat := blocksOf (size + 16)

/-- Larder blocks of the REPLICA region in use, those given up that a Run may still read among them (R57, R306). -/
def replicaUsed (s : State) : List (Nat × Nat) :=
  s.lrd.replicas.map (fun r => (r.block, replicaBlocks r.size)) ++ larderHeld s

/-- Replicas go; their storage stays in use as R57 gives (R306). -/
def retireReplicas (gone : Replica → Bool) (s : State) : State :=
  let s := (s.lrd.replicas.filter gone).foldl (fun t r => larderRetire r.block (replicaBlocks r.size) none t) s
  { s with lrd := { s.lrd with replicas := s.lrd.replicas.filter (fun r => !gone r) } }

/-- First block and end of the replicas behind their index (R302). -/
def replicaArea (s : State) : Nat × Nat :=
  let hot := regionBlocks (planHot s.lrd.plan)
  let n := regionBlocks (planReplica s.lrd.plan)
  (hot + n / 16, hot + n)

/-- A place for a replica of a size. -/
def replicaPlace (s : State) (size : Nat) : Option Nat :=
  placeBlocks (replicaUsed s) (replicaArea s).1 (replicaArea s).2 (replicaBlocks size)

/-- Entries of a bucket in use. -/
def bucketUsed (s : State) (b : Nat) : Nat := (s.lrd.replicas.filter (fun r => r.bucket == b)).length

/-! ## Placement reads (R309 to R311, R390) -/

/-- Change the refresh in progress. -/
def refreshMod (f : Refresh → Refresh) (s : State) : State :=
  { s with lrd := { s.lrd with refresh := s.lrd.refresh.map f } }

/-- A placement read failed: its replica is not placed (R311). -/
def failPlacing (q : Req) (s : State) : State :=
  let mine := fun (p : Placing) => p.tid == q.pkt.tid && p.slot == q.pkt.slot && p.row == q.pkt.row
  refreshMod (fun r => if r.now.any mine then
    { r with now := r.now.filter (fun p => !mine p), readFailed := r.readFailed + 1 } else r) s

/-- Why a replica with all its slices is refused, or where it goes. -/
inductive Room where
  | bucketFull
  | noRoom
  | at (block : Nat)
  deriving DecidableEq, Repr

/-- Room for a replica of a size in a bucket. -/
def replicaRoom (s : State) (bucket size : Nat) : Room :=
  if 4 ≤ bucketUsed s bucket then .bucketFull
  else match replicaPlace s size with
    | some b => .at b
    | none => .noRoom

/-- The header a replica holds: the home's, its REPLICA bit set (R42). -/
def replicaHeader (w : BitVec 128) : BitVec 128 := hdrBits { hdrOf w with replica := true }

/-- The whole row of a placement's slices, as a replica. -/
def wholeRow (got : List RowPkt) : RowSlice :=
  let l := (List.range got.length).filterMap (fun k => got.find? (fun x => x.slice == k))
  let h := replicaHeader ((l.head?.map RowPkt.header).getD 0)
  let base := (l.head?.map RowPkt.baseExp).getD 0
  { header := h, baseExp := base, pawns := l.flatMap RowPkt.pawns, elems := l.flatMap RowPkt.elems }

/-- Write a replica and its index entry, or count why not (R309, R311). -/
def placeReplica (p : Placing) (s : State) : State :=
  let d := wholeRow p.got
  let size := 16 + d.elems.length
  let s := refreshMod (fun r => { r with now := r.now.filter (fun x => x != p) }) s
  match replicaRoom s p.bucket size with
  | .bucketFull => refreshMod (fun r => { r with bucketFull := r.bucketFull + 1 }) s
  | .noRoom => refreshMod (fun r => { r with noRep := r.noRep + 1 }) s
  | .at b =>
    let x : Replica := { tid := p.tid, slot := p.slot, row := p.row, defkey := false, home := p.home, bucket := p.bucket,
                         block := b, size := size, data := d, placed := p.placed, staging := [] }
    refreshMod (fun r => { r with rep := r.rep + 1 }) <| cleanBlocks b (replicaBlocks size)
      { s with lrd := { s.lrd with replicas := s.lrd.replicas ++ [x] } }

/-- The home has answered a RESYNC: its CSEQ is expected from now on (R390). -/
def resynced (q : Req) (p : RowPkt) (s : State) : State :=
  if q.pkt.resync then { s with span := { s.span with cseqIn := mset s.span.cseqIn q.node p.cseq } } else s

/-- A ROW for a placement read; the answer to RESYNC counts whatever its status (R370, R390). -/
def takePlaced (q : Req) (p : RowPkt) (s : State) : State :=
  let s := resynced q p s
  if p.status ≠ .ok then failPlacing q s
  else
    let mine := fun (x : Placing) => x.tid == q.pkt.tid && x.slot == q.pkt.slot && x.row == q.pkt.row
    match s.lrd.refresh.bind (fun r => r.now.find? mine) with
    | none => s
    | some x =>
      let x' : Placing := { x with got := x.got ++ [{ p with slice := q.pkt.slice }] }
      let s := refreshMod (fun r => { r with now := r.now.map (fun y => if y = x then x' else y) }) s
      if x'.got.length = x'.slices then placeReplica x' s else s

/-- Send the placement reads of a row, one a slice; none where its home cannot be reached. -/
def sendPlaces (home : Nat) (pkt : ReadPkt) (resync : Bool) : List Nat → State → Option State
  | [], s => some s
  | k :: rest, s =>
    match freeTag s with
    | none => none
    | some tag =>
      match sendRead home { pkt with tag := tag, slice := k, resync := resync && k == 0 } .place s with
      | some s => sendPlaces home pkt resync rest s
      | none => none

/-- This K40 holds, or is reading, a replica of a row. -/
def replicaKnown (s : State) (r : Refresh) (tid slot row : Nat) : Bool :=
  s.lrd.replicas.any (fun x => x.tid == tid && x.slot == slot && x.row == row && !x.defkey) ||
    r.now.any (fun x => x.tid == tid && x.slot == slot && x.row == row)

/-- What becomes of the next listed replica; none where it waits for request slots. -/
def askReplica (tid row : Nat) (r : Refresh) (s : State) : Option State :=
  let refuse := refreshMod (fun r => { r with readFailed := r.readFailed + 1 }) s
  match liveTable s tid with
  | none => some refuse
  | some t =>
    match activeSlot t, mapOf s t with
    | some slot, some m =>
      let home := homeNode s t false row
      if home = self s ∨ 2 ^ t.hbits ≤ row then some refuse
      else if replicaKnown s r tid slot row then some s
      else if bucketCount s = 0 then some (refreshMod (fun r => { r with noRep := r.noRep + 1 }) s)
      else
        let n := sliceCount t.dim
        if 16384 < s.span.reqs.length + n ∨ 16384 < inFlight s + n then none
        else
          let resync := (mget s.span.cseqIn home).isNone && !(decide (home ∈ r.asked))
          let pkt : ReadPkt := { tag := 0, tid := tid, slot := slot, slice := 0, spec := false, place := true, resync := false,
                                 defkey := false, epoch := m.epoch, row := row, step := openStepNo s }
          let p : Placing := { tid := tid, slot := slot, row := row, home := home, bucket := bucketOf s tid slot row,
                               placed := s.ldg.openStep.map (fun u => (u + pow32 - 1) % pow32), slices := n, got := [] }
          match sendPlaces home pkt resync (List.range n) s with
          | none => some (noteAbsent home refuse)
          | some s => some (refreshMod (fun r => { r with
              now := r.now ++ [p], asked := if resync then r.asked ++ [home] else r.asked }) s)
    | _, _ => some refuse

/-- Ask for the listed replicas while request slots are free. -/
def askReplicas : Nat → State → State
  | 0, s => s
  | n + 1, s =>
    match s.lrd.refresh with
    | none => s
    | some r =>
      match r.todo with
      | [] => s
      | (tid, row) :: rest =>
        match askReplica tid row r (refreshMod (fun r => { r with todo := rest }) s) with
        | some s => askReplicas n s
        | none => s

/-- Take a subscriber out of the Crier records of a row (step 6 of R309). -/
def unsubscribe (tid node row : Nat) (s : State) : State :=
  let gone := fun (c : CrierRec) => c.tid == tid && c.row == row && !c.defkey
  let l := lmap s.span.crier gone (fun c => { c with nodes := c.nodes.filter (· ≠ node) })
  { s with span := { s.span with crier := l.filter (fun c => !c.nodes.isEmpty) } }

/-- The refresh report (R512). -/
def refreshReport (r : Refresh) : List W64 :=
  words32 [r.hot, r.rep, r.notHomed, r.noHot, r.noRep, r.bucketFull, r.readFailed]

/-- Steps 6 and 7 of R309 once no replica is left to read. -/
def endRefresh (r : Refresh) (s : State) : State :=
  let s := untake r.slot { s with lrd := { s.lrd with refresh := none } }
  match r.ends with
  | some st => postFinal r.slot r.msg st [] s
  | none =>
    postFinal r.slot r.msg .ok (refreshReport r) (r.removals.foldl (fun s x => unsubscribe x.1 x.2.1 x.2.2 s) s)

/-- The refresh goes on: what can be asked for is asked for; with nothing left it ends, when the Clerk runs. -/
def stepRefresh (s : State) : State :=
  match s.lrd.refresh with
  | none => s
  | some r =>
    let s := askReplicas (r.todo.length + 1) s
    match s.lrd.refresh with
    | none => s
    | some r => if r.todo.isEmpty && r.now.isEmpty && clerkRuns s then endRefresh r s else s

end Sys2Proof.Machine
end

