-- ==== Sys2Proof/Machine/Span.lean ====
section
/-! DEFINITION. Span: answers to this K40's own requests, packets that arrive, migration, the link layer and the loss of a
link (chapters "Span links and the hall-wide pool" and "Errors, spares, Shutters and re-sharding"). -/

namespace Sys2Proof.Machine

open Sys2Proof

/-! ## Migrating rows at the gaining home (R584, R587, R590) -/

/-- Change the home map in a slot. -/
def mapMod (map : Nat) (f : HomeMap → HomeMap) (s : State) : State :=
  match mget s.maps map with
  | some m => { s with maps := mset s.maps map (f m) }
  | none => s

/-- Every row of an INBOUND shard of a table is written or failed. -/
def inboundDone (per : Nat) (i : Inbound) : Bool := decide (per ≤ i.next) && i.rows.all (fun r => r.written || r.failed)

/-- Shards leave INBOUND when each of their rows is written or failed (R590). -/
def settleInbound (map : Nat) (s : State) : State :=
  let per (tid : Nat) : Nat := ((mget s.tables tid).map (fun t => 2 ^ (t.hbits - 16))).getD 0
  mapMod map (fun m => { m with inbound := m.inbound.filter (fun i => !inboundDone (per i.tid) i) }) s

/-- Change a migrating row. -/
def migMod (map tid row : Nat) (f : MigRow → MigRow) (s : State) : State :=
  let one (i : Inbound) : Inbound := { i with rows := lmap i.rows (fun r => r.row == row) f }
  mapMod map (fun m => { m with inbound := lmap m.inbound (fun i => i.tid == tid) one }) s

/-- The migration of a row fails (R590). -/
def failMigration (map tid row : Nat) (s : State) : State :=
  let live := ((mget s.maps map).map (fun m => m.inbound.any (fun i => i.tid == tid &&
    i.rows.any (fun r => r.row == row && !r.failed && !r.written)))).getD false
  if !live then s
  else
    let s := migMod map tid row (fun r => { r with failed := true }) s
    settleInbound map (fwdMod map (fun c => { c with rowsFailed := satAdd 32 c.rowsFailed 1 }) s)

/-- A shelf of a class and base with room for a row and its Pawn entries: one in use, else a free one (R587). -/
def migShelf (s : State) (t : Table) (v : VSlot) (c : RowClass) (base pawns : Nat) : Option (Nat × Bool) :=
  match v.used.find? (fun i => i.cls == c && i.retired.isNone && decide (i.fill + rowSize c t.dim ≤ rowAreaEnd t c) &&
      (readShelf s v i.num).baseExp == base && decide ((readShelf s v i.num).pawnUsed + pawns ≤ pawnSlots t c)) with
  | some i => some (i.num, false)
  | none =>
    let k := firstFree (v.used.map ShelfInfo.num) v.used.length 0
    if k < v.shelves ∧ 64 + rowSize c t.dim ≤ rowAreaEnd t c ∧ pawns ≤ pawnSlots t c then some (k, true) else none

/-- Write a migrated row unchanged, its state zero, and its directory entry (R587). -/
def writeMigrated (map : Nat) (t : Table) (tid slot ix row : Nat) (got : List RowPkt) (s₀ : State) : State :=
  let s := reclaim tid slot s₀
  let v := ((mget s.tables tid).map (fun t => vslot t slot)).getD (vslot t slot)
  match got with
  | [] => s₀
  | p :: _ =>
    let h := hdrOf p.header
    let sorted := (List.range got.length).filterMap (fun k => got.find? (fun x => x.slice == k))
    let elems := sorted.flatMap RowPkt.elems
    let pawns := sorted.flatMap RowPkt.pawns
    match migShelf s t v h.cls p.baseExp pawns.length with
    | none => failMigration map tid row s
    | some (n, fresh) =>
      let s := if fresh then newShelf tid slot n h.cls p.baseExp s else s
      let v := ((mget s.tables tid).map (fun t => vslot t slot)).getD v
      let sh := readShelf s v n
      let ofs := ((shelfInfo v n).map ShelfInfo.fill).getD 64 / 16
      let h' : Hdr := { h with pawnPtr := if pawns.isEmpty then 0 else sh.pawnUsed, pawnCnt := pawns.length, replica := false }
      let s := hbmWrite (pawnAddr t v n sh.pawnUsed)
        (wordsToBytes (pawns.map (fun w => pawnWord (pawnValue w) (pawnElem w) ofs))) s
      let s := hbmWrite (rowAddr v n ofs) (hdrBytes h' ++ elems) s
      let s := writeShelf v n { sh with nrows := sh.nrows + 1, pawnUsed := sh.pawnUsed + pawns.length } s
      let s := shelfMod tid slot n (fun i => { i with fill := i.fill + rowSize h.cls t.dim }) s
      let s := hbmWrite (stateAddr t v ix) (List.replicate (stateBytes t.opt t.dim) 0) s
      let s := writeDir (dirAddr v ix)
        { cls := h.cls, tier := 0, loaded := true, shelf := n, ofs := ofs, larder := 0 } s
      let s := migMod map tid row (fun r => { r with written := true, got := [] }) s
      settleInbound map (fwdMod map (fun c => { c with rowsIn := satAdd 32 c.rowsIn 1 }) s)

/-- A slice of a migrating row arrives; the last one writes the row. -/
def migSlice (map tid row slice : Nat) (p : RowPkt) (s : State) : State :=
  match mget s.tables tid with
  | none => s
  | some t =>
    let s := migMod map tid row (fun r => { r with got := r.got.filter (fun x => x.slice != slice) ++ [{ p with slice := slice }] }) s
    let found := (mget s.maps map).bind (fun m => (m.inbound.find? (fun i => i.tid == tid && i.rows.any (fun r => r.row == row))).bind
      (fun i => i.rows.find? (fun r => r.row == row)))
    match found, activeSlot t, dirIndex s t row with
    | some r, some k, some ix =>
      if r.got.length = sliceCount t.dim ∧ !r.written ∧ !r.failed then writeMigrated map t tid k ix row r.got s else s
    | _, _, _ => s

/-! ## Answers to this K40's own requests (R129, R147, R371, R376, R380) -/

/-- An outstanding request's slot is free again and its generation advances. -/
def freeReq (q : Req) (s : State) : State :=
  { s with span := { s.span with
    reqs := s.span.reqs.filter (fun x => x.tag != q.tag), gens := mmod s.span.gens (q.tag % 16384) 0 (fun n => (n + 1) % 64) } }

/-- The key a READ names. -/
def readKeyOf (p : ReadPkt) : RowKey := { tid := p.tid, defkey := p.defkey, row := if p.defkey then 0 else p.row }

/-- A request ends without its row. -/
def failReq (q : Req) (st : Status) (s : State) : State :=
  let s := freeReq q s
  stepRefresh (match q.purpose with
    | .mill c m pos slice => answerMill c m pos (readKeyOf q.pkt) slice st false none s
    | .migrate map tid row _ => failMigration map tid row s
    | .place => failPlacing q s)

/-- A request gets its ROW. -/
def takeRow (q : Req) (p : RowPkt) (s : State) : State :=
  let s := freeReq q s
  stepRefresh (match q.purpose with
    | .mill c m pos slice =>
      let d : RowSlice := { header := p.header, baseExp := p.baseExp, pawns := p.pawns, elems := p.elems }
      answerMill c m pos (readKeyOf q.pkt) slice p.status p.prov (if p.status = .ok then some d else none) s
    | .migrate map tid row slice =>
      if p.status = .ok then migSlice map tid row slice p s
      else if p.status = .shuttered then { s with span := { s.span with retry := s.span.retry ++ [q] } }
      else failMigration map tid row s
    | .place => takePlaced q p s)

/-- The outstanding request with this TAG, its generation current (R376). -/
def reqOf (s : State) (tag : Nat) : Option Req := s.span.reqs.find? (fun q => q.tag == tag)

/-- An answer to no current request is counted (R376). -/
def lateAnswer (s : State) : State :=
  { s with span := { s.span with lateAnswers := satAdd 16 s.span.lateAnswers 1 } }

/-- The key in the first word of a PROMOTE. -/
def keyOfWord (w : W64) : RowKey := { tid := bits w 0 12, defkey := bit w 12, row := bits w 13 40 }

/-- An ABSENT reaches its requester: a read ends, or the bags that wait on the row end (R129, R147, R382). -/
def takeAbsent (p : AbsentPkt) (s : State) : State :=
  if p.kind = 1 then
    match reqOf s p.tag with
    | some q => failReq q .homeAbsent s
    | none => lateAnswer s
  else if p.kind = 3 then
    (List.range 40).foldl (fun t c => absentWait c (keyOfWord p.w8) t) s
  else s

/-- Handle a packet that cannot be sent on; an ABSENT for a request of this K40 is taken here (R382). -/
def refusePacket (k : Packet) (s : State) : State :=
  if k.hdr.src ≠ self s then unreachable k s
  else
    let s := noteAbsent k.hdr.dest s
    match k.body with
    | .part p => refusePartial (partKey p) p.step s
    | .read p => match reqOf s p.tag with
        | some q => failReq q .homeAbsent s
        | none => s
    | .promote p => (List.range 40).foldl (fun t c =>
        absentWait c { tid := p.tid, defkey := p.defkey, row := p.row } t) s
    | _ => s

/-- Send a packet by another port, or handle it under R382. -/
def reroute (k : Packet) (s : State) : State := (trySend k s).getD (refusePacket k s)

/-! ## Packets that arrive (R364, R367) -/

/-- A packet stopped for its HOPS (R367). -/
def misrouted (port : Nat) (k : Packet) (s : State) : State :=
  refusePacket k (portMod port (fun p => { p with misrouted := satAdd 8 p.misrouted 1 }) s)

/-- The cells a received packet lies in, where it lies in some: its port, its channel and how many (R359, R360). -/
def rxLent (s : State) (port : Nat) (k : Packet) : List (Nat × Nat × Nat) :=
  if port < 8 ∧ k ∈ (portAt s port).rx then [(port, classNo k.body * 2 + k.hdr.vl % 2, pktCells k.body)] else []

/-- A packet leaves what a port has received. -/
def dropRx (port : Nat) (k : Packet) (s : State) : State :=
  if k ∈ (portAt s port).rx then portMod port (fun p => { p with rx := p.rx.erase k }) s else s

/-- The port has taken the packet: its cells are free (R360). -/
def takeRx (port : Nat) (k : Packet) (s : State) : State := returnCells (rxLent s port k) (dropRx port k s)

/-- A packet that cannot be taken yet waits among those received. -/
def stay (port : Nat) (k : Packet) (s : State) : State :=
  if k ∈ (portAt s port).rx then s else portMod port (fun p => { p with rx := p.rx ++ [k] }) s

/-- A packet of another node: one more relay, then on. It keeps its cells until it leaves (R360). -/
def transit (port : Nat) (k : Packet) (s : State) : State :=
  if 14 ≤ k.hdr.hops then misrouted port k (takeRx port k s)
  else
    let lent := rxLent s port k
    let s := dropRx port k s
    let k := { k with hdr := { k.hdr with hops := k.hdr.hops + 1 } }
    match trySendFrom lent k s with
    | some t => grantNow port t
    | none => refusePacket k (returnCells lent s)

/-- An UPDATE or MARK received before from the same source for the same destination still waits to be taken (R375). -/
def waitsBehind (p : Port) (k : Packet) : Bool :=
  classNo k.body == 3 && (p.rx.takeWhile (· != k)).any (fun x =>
    classNo x.body == 3 && x.hdr.src == k.hdr.src && x.hdr.dest == k.hdr.dest)

/-- Span ports carry packets in READY, RUNNING and QUIESCING (R383). -/
def spanRuns (s : State) : Bool := isLive s || s.gbl.state == .quiescing

/-- A packet can come from a port: one of the 8, or the place where this K40 delivers to itself, if it is there (R364). -/
def comesFrom (port : Nat) (k : Packet) (s : State) : Bool :=
  spanRuns s && (decide (port < 8) || (port == localPort && decide (k ∈ (portAt s port).rx)))

/-- A packet arrives at a port: this K40's own goes to `f`, any other on its way. -/
def arrive (port : Nat) (h : PktHdr) (b : PktBody) (s : State) (f : State → State) : Host.Outcome State Fault Refusal :=
  let k : Packet := { hdr := h, body := b }
  .next (if !comesFrom port k s then s
    else if waitsBehind (portAt s port) k then stay port k s
    else if 15 ≤ h.hops then misrouted port k (takeRx port k s)
    else if h.dest = self s then f (takeRx port k s)
    else transit port k s)

/-! ### READ (R65, R78, R282, R310, R577, R585, R586, R588, R592) -/

/-- Answer a READ at once, with the CSEQ that RESYNC asks for (R370, R390). -/
def answerRead (h : PktHdr) (p : ReadPkt) (st : Status) (s : State) : State :=
  let q := if p.resync then nextCseq s h.src else 0
  sendOwn h.src (.row (rowPktOf p.tag p.slice st false none q)) (if p.resync then readCseq false h.src s else s)

/-- Some stack is shuttered: every row meets every stack (R320, R577). -/
def stackShut (s : State) : Bool := s.hbmStacks.any (fun p => p.2.state == .shuttered || p.2.state == .shuttering)

/-- R585: the READ comes from the shard's home under the installed epoch, and this K40 loses the shard. -/
def isMigration (s : State) (t : Table) (h : PktHdr) (p : ReadPkt) : Bool :=
  !p.defkey && (match mapOf s t with
    | none => false
    | some m =>
      let shard := (shardSlot t p.row).1
      m.epoch == p.epoch && nodeOfShard m.entries shard == h.src && h.src != self s &&
        (m.old.map (fun o => nodeOfShard o.1 shard == self s)).getD false)

/-- The READ waits at its home for service; the bound slot counts it (R76). A read that R282 holds asks for the entry. -/
def queueRead (t : Table) (h : PktHdr) (p : ReadPkt) (s : State) : State :=
  let key := readKeyOf p
  let moves := isMigration s t h p
  let asks := !p.spec && !p.place && !moves && sealedBefore s p.step && unapplied s key
  let r : HomeRead := { origin := .node h.src p.tag, key := key, slot := p.slot, slice := p.slice, spec := p.spec,
                        place := p.place, resync := p.resync, epoch := p.epoch, step := p.step,
                        migrate := moves, hint := Config.remoteHint, last := false, asked := asks }
  let s := addRef p.tid p.slot s
  let s := { s with span := { s.span with homeReads := s.span.homeReads ++ [r] } }
  if asks then
    let q : PromoReq := { key := key, step := sealedNo s, who := .read }
    commitMod (fun c => { c with promoIn := c.promoIn ++ [q] }) s
  else s

/-- Re-address a READ: SRC, TAG and EPOCH kept, HOPS raised, counted in FWD_READS (R588). -/
def forwardRead (t : Table) (h : PktHdr) (p : ReadPkt) (dst : Nat) (s : State) : State :=
  let s := fwdMod t.homeMap (fun c => { c with reads := satAdd 32 c.reads 1 }) s
  reroute { hdr := { h with dest := dst, hops := h.hops + 1 }, body := .read p } s

/-- A READ at its destination. A placement read is one of the ACTIVE slot (R310); one that names a slot DRAINING here, for
which the manual gives no answer, is answered CS_TABLE_ABSENT (DESIGN CHOICE, assumption log 17). -/
def takeRead (h : PktHdr) (p : ReadPkt) (s : State) : State :=
  match liveTable s p.tid with
  | none => answerRead h p .tableAbsent s
  | some t =>
    let key := readKeyOf p
    if t.shut.isSome ∨ stackShut s then answerRead h p .shuttered s
    else if ((mapOf s t).map (fun m => epochLater p.epoch m.epoch)).getD false then answerRead h p .shuttered s
    else if !homesKey s t key then answerRead h p .tableAbsent s
    else match rowPhase s t key with
      | .notRequested n => forwardRead t h p n s
      | .handedOver n => forwardRead t h p n s
      | _ =>
        let st := (vslot t p.slot).state
        if st = .active ∨ (st = .draining ∧ !p.place) then queueRead t h p s else answerRead h p .tableAbsent s

/-- READ. -/
def execRead (port : Nat) (h : PktHdr) (p : ReadPkt) (s : State) : Host.Outcome State Fault Refusal :=
  arrive port h (.read p) s (takeRead h p)

/-! ### The other kinds -/

/-- ROW (R129, R140, R371, R376, R586, R587). -/
def execRow (port : Nat) (h : PktHdr) (p : RowPkt) (s : State) : Host.Outcome State Fault Refusal :=
  arrive port h (.row p) s (fun s => match reqOf s p.tag with
    | some q => takeRow q p s
    | none => lateAnswer s)

/-- PROMOTE (R28, R65, R259, R592). -/
def execPromote (port : Nat) (h : PktHdr) (p : KeyPkt) (s : State) : Host.Outcome State Fault Refusal :=
  arrive port h (.promote p) s (fun s =>
    let key : RowKey := { tid := p.tid, defkey := p.defkey, row := p.row }
    let here := (mget s.tables p.tid).map (fun t => homesKey s t key)
    let q : PromoReq := { key := key, step := p.step, who := .node h.src }
    if here = some true then commitMod (fun c => { c with promoIn := c.promoIn ++ [q] }) s else sendNotice q s)

/-- NOTICE (R143, R144): every column that waits for the key takes it. -/
def execNotice (port : Nat) (h : PktHdr) (p : KeyPkt) (s : State) : Host.Outcome State Fault Refusal :=
  arrive port h (.notice p) s (fun s =>
    let key : RowKey := { tid := p.tid, defkey := p.defkey, row := p.row }
    { s with cols := s.cols.map (fun c => (c.1, c.2.notice key)) })

/-- ABSENT (R129, R147, R382, R590). -/
def execAbsent (port : Nat) (h : PktHdr) (p : AbsentPkt) (s : State) : Host.Outcome State Fault Refusal :=
  arrive port h (.absent p) s (takeAbsent p)

/-- A packet discarded as corrupt; a PARTIAL counts in DROPPED too (R374). -/
def corruptPacket (port n partials : Nat) (s : State) : State :=
  let s := portMod port (fun p => { p with corrupt := satAdd 8 p.corrupt n }) s
  { s with ldg := { s.ldg with dropped := satAdd 24 s.ldg.dropped partials } }

/-- PARTIAL (R104, R232, R247, R361, R374): checked, sent on, or taken by the Ledger's input, which holds 4,096 slices. One
that the input cannot take keeps its cells, so that its credit is withheld. -/
def execPart (port : Nat) (h : PktHdr) (p : PartialPkt) (s : State) : Host.Outcome State Fault Refusal :=
  let k : Packet := { hdr := h, body := .part p }
  if port < 8 ∧ spanRuns s ∧ !codesOk p.w16 p.codes then .next (corruptPacket port 1 1 (takeRx port k s))
  else if comesFrom port k s ∧ h.dest = self s ∧ 4096 ≤ s.ldg.input.length then .next (stay port k s)
  else arrive port h (.part p) s (fun s =>
    let c : Contrib := { key := partKey p, slice := p.slice, step := p.step, epoch := p.epoch, vals := partValues p,
                         contrib := p.contrib, tokens := p.tokens, runs := [], bytes := up64 (pktBytes (.part p)),
                         deferred := false, pkt := some k, hold := .no, block := 0 }
    { s with ldg := { s.ldg with input := s.ldg.input ++ [c] } })

/-- CSEQ of an UPDATE or MARK: none where it is discarded (R388, R389). -/
def crierTake (src cseq : Nat) (s : State) : Bool × State :=
  let s := readCseq true src s
  let gap (s : State) : State := { s with span := { s.span with crierGaps := satAdd 16 s.span.crierGaps 1 } }
  match mget s.span.cseqIn src with
  | none => (false, gap s)
  | some e =>
    if e = cseq then (true, { s with span := { s.span with cseqIn := mset s.span.cseqIn src ((e + 1) % 65536) } })
    else (false, gap { s with span := { s.span with cseqIn := mdel s.span.cseqIn src } })

/-- A whole update of a replica (R284, R286). One whose new class needs more room than there is goes. -/
def replaceReplica (r : Replica) (us : List UpdatePkt) (s : State) : State :=
  match us with
  | [] => s
  | u :: _ =>
    let d : RowSlice := { header := replicaHeader u.header, baseExp := u.baseExp, pawns := us.flatMap UpdatePkt.pawns,
                          elems := us.flatMap UpdatePkt.elems }
    let size := 16 + d.elems.length
    let others := s.lrd.replicas.filter (fun x => x != r)
    let t := { s with lrd := { s.lrd with replicas := others } }
    let place := if replicaBlocks size = replicaBlocks r.size then some r.block else replicaPlace t size
    match place with
    | none =>
      let t := larderRetire r.block (replicaBlocks r.size) none t
      { t with lrd := { t.lrd with crierDiscarded := satAdd 16 t.lrd.crierDiscarded 1 } }
    | some b =>
      let r' : Replica := { r with block := b, size := size, data := d, staging := [] }
      let s := if b = r.block then s else larderRetire r.block (replicaBlocks r.size) none s
      cleanBlocks b (replicaBlocks size)
        { s with lrd := { s.lrd with replicas := s.lrd.replicas.map (fun x => if x = r then r' else x) } }

/-- An accepted UPDATE. -/
def takeUpdate (src : Nat) (p : UpdatePkt) (s : State) : State :=
  match s.lrd.replicas.find? (fun x => x.tid == p.tid && x.slot == p.slot && x.row == p.row && x.defkey == p.defkey &&
      x.home == src) with
  | none => { s with lrd := { s.lrd with crierDiscarded := satAdd 16 s.lrd.crierDiscarded 1 } }
  | some r =>
    let us := (if p.slice = 0 then [] else r.staging) ++ [p]
    let n := ((mget s.tables p.tid).map (fun t => sliceCount t.dim)).getD 1
    if us.length = n then replaceReplica r us s
    else
      let r' : Replica := { r with staging := us }
      { s with lrd := { s.lrd with replicas := s.lrd.replicas.map (fun x => if x = r then r' else x) } }

/-- UPDATE (R286, R388, R389). -/
def execUpdate (port : Nat) (h : PktHdr) (p : UpdatePkt) (s : State) : Host.Outcome State Fault Refusal :=
  arrive port h (.update p) s (fun s =>
    let (ok, s) := crierTake h.src p.cseq s
    if ok then takeUpdate h.src p s else s)

/-- MARK (R283, R287, R389). -/
def execMark (port : Nat) (h : PktHdr) (p : MarkPkt) (s : State) : Host.Outcome State Fault Refusal :=
  arrive port h (.mark p) s (fun s =>
    let (ok, s) := crierTake h.src p.cseq s
    if ok then { s with span := { s.span with marks := mset s.span.marks (h.src * 4096 + p.tid) p.step } } else s)

/-- REMOTE_READ_TIMEOUT (R380, R590): RD_TIMEOUT has passed for the READ in a request slot. -/
def execRemoteReadTimeout (tagSlot : Nat) (s : State) : Host.Outcome State Fault Refusal :=
  match s.span.reqs.find? (fun q => q.tag % 16384 == tagSlot) with
  | none => .next s
  | some q => .next (failReq q .remoteTimeout s)

/-! ## Migration reads (R584, R586) -/

/-- Migration READs in flight. -/
def migInFlight (s : State) : Nat :=
  (s.span.reqs.filter (fun q => match q.purpose with
    | .migrate _ _ _ _ => true
    | _ => false)).length

/-- The INBOUND shard read next: the lowest with positions left. -/
def nextInbound (s : State) (m : HomeMap) : Option Inbound :=
  let left := m.inbound.filter (fun i => decide (i.next < ((mget s.tables i.tid).map (fun t => 2 ^ (t.hbits - 16))).getD 0))
  left.foldl (fun best i => match best with
    | none => some i
    | some b => if i.shard < b.shard then some i else best) none

/-- Send the READs of a row's slices, one tag each. -/
def sendSlices (map : Nat) (losing : Nat) (t : Table) (tid slot epoch row step : Nat) : List Nat → State → Option State
  | [], s => some s
  | k :: rest, s =>
    match freeTag s with
    | none => none
    | some tag =>
      let p : ReadPkt := { tag := tag, tid := tid, slot := slot, slice := k, spec := false, place := false, resync := false,
                           defkey := false, epoch := epoch, row := row, step := step }
      match sendRead losing p (.migrate map tid row k) s with
      | some s => sendSlices map losing t tid slot epoch row step rest s
      | none => none

/-- MIGRATION_READ_ISSUE (R33, R584): the gaining home takes the next directory position of its lowest INBOUND shard and reads the
row there, if its identifier lies below ROWS. -/
def execMigrationReadIssue (map : Nat) (s : State) : Host.Outcome State Fault Refusal :=
  match if spanRuns s then mget s.maps map else none with
  | none => .next s
  | some m =>
    match nextInbound s m with
    | none => .next s
    | some i =>
      match mget s.tables i.tid with
      | none => .next s
      | some t =>
        let row := unmixRow t (i.shard * 2 ^ (t.hbits - 16) + i.next)
        let losing := ((m.old.map (fun o => nodeOfShard o.1 i.shard))).getD 0
        let mine := fun (x : Inbound) => x.shard == i.shard && x.tid == i.tid
        let onward (rows : List MigRow) (s : State) : State :=
          mapMod map (fun m => { m with inbound := lmap m.inbound mine (fun x => { x with next := x.next + 1, rows := x.rows ++ rows }) }) s
        match activeSlot t with
        | none => .next (settleInbound map (onward [] s))
        | some k =>
          if (vslot t k).rows ≤ row then .next (settleInbound map (onward [] s))
          else if 1024 < migInFlight s + sliceCount t.dim ∨ 16384 < inFlight s + sliceCount t.dim then .next s
          else
            let fresh : MigRow := { tid := i.tid, row := row, pos := i.next, got := [], written := false, failed := false }
            match sendSlices map losing t i.tid k m.epoch row (openStepNo s) (List.range (sliceCount t.dim)) s with
            | some s => .next (onward [fresh] s)
            | none =>
              if (routePort s losing).isNone then .next (failMigration map i.tid row (onward [fresh] (noteAbsent losing s)))
              else .next s

/-- MIGRATION_READ_RETRY (R33, R586): 1 ms after a losing home without the epoch refused it, a migration read is repeated. -/
def execMigrationReadRetry (idx : Nat) (s : State) : Host.Outcome State Fault Refusal :=
  match if spanRuns s then s.span.retry[idx]? else none, freeTag s with
  | some q, some tag =>
    let t := { s with span := { s.span with retry := s.span.retry.eraseIdx idx } }
    if 16384 ≤ inFlight s then .next s
    else match sendRead q.node { q.pkt with tag := tag } q.purpose t with
      | some u => .next u
      | none => .next (failReq q .homeAbsent (noteAbsent q.node t))
  | _, _ => .next s

/-! ## The link layer (R354 to R359, R363, R375, R378, R383) -/

/-- A route entry names a port. -/
def entryNames (e port : Nat) : Bool := nbits e 0 3 == port || (e.testBit 6 && nbits e 3 3 == port)

/-- The entry of a route key. -/
def entryOfKey (s : State) (key : Nat) : Nat :=
  if 128 ≤ key then mgetD s.span.memberRoute (key - 128) 0 else mgetD s.span.groupRoute key 0

/-- A port's state changes to or from UP: SPAN_LINK fires, and the routes through it have a new state (R382, R387). -/
def linkChanged (port : Nat) (s : State) : State :=
  let l := s.span.absentFired.filter (fun key => !entryNames (entryOfKey s key) port)
  raise evSpanLink { s with span := { s.span with absentFired := l } }

/-- The spare lane as training leaves it: switched in for one failing lane (R354). -/
def Port.trained (p : Port) (txFail rxFail lane : Nat) : Port :=
  let used := txFail = 1 ∨ rxFail = 1
  { p with spareUsed := used, spareFor := if used then lane % 8 else 0 }

/-- Two or more lanes of a direction fail (R354). -/
def lanesLost (txFail rxFail : Nat) : Bool := decide (2 ≤ txFail) || decide (2 ≤ rxFail)

/-- LINK_TRAINING (R354, R362, R383): a DOWN port trains; `txFail` and `rxFail` lanes of a direction fail, `lane` the one that
the spare replaces. -/
def execLinkTraining (port txFail rxFail lane : Nat) (s : State) : Host.Outcome State Fault Refusal :=
  .next (if 8 ≤ port ∨ (portAt s port).state ≠ .down ∨ !s.span.nodeValid ∨ !spanRuns s then s
    else if lanesLost txFail rxFail then raise evSpanLink (portMod port (fun p => { p with state := .failed }) s)
    else portMod port (fun p => { p.trained txFail rxFail lane with state := .training }) s)

/-- Credit a port grants its peer at bring-up: 4,095 cells to a channel, within its 32,768 (R360), less those that received
packets still take (the division among the channels is a DESIGN CHOICE, assumption log 23). -/
def Port.firstCredit (p : Port) : AMap Nat :=
  let held (c : Nat) : Nat := (p.rx.filter (fun k => classNo k.body * 2 + k.hdr.vl % 2 == c)).foldl (fun n k => n + pktCells k.body) 0
  (List.range 8).foldl (fun m c => if 4095 ≤ held c then m else mset m c (4095 - held c)) []

/-- A port whose link comes UP starts its sequence numbers and its credit anew. -/
def Port.fresh (p : Port) : Port :=
  { p with
    credit := [], txSeq := 0, rxSeq := 0, unacked := [], flits := [], txBytes := [], txFirst := 15, owed := p.firstCredit,
    rxBytes := [], nakOut := false, naks := (0, 0), querying := false }

/-- LINK_BRINGUP_EXCHANGE (R7, R360, R363, R387, R393): `x` is what the peer sent, if this K40 can read it. A port that comes
UP grants its first credit at once. -/
def execLinkBringupExchange (port : Nat) (x : Option LinkExchange) (s : State) : Host.Outcome State Fault Refusal :=
  .next (if 8 ≤ port ∨ (portAt s port).state ≠ .training then s
    else match x with
      | none => raise evSpanLink (portMod port (fun p => { p with
          state := .down, wrongPeer := true, peerValid := false, peerId := 0, peerPort := 0, peerMember := 0 }) s)
      | some x =>
        let wrong := x.member % 256 ≠ 0x28 ∨ x.node % 16384 = self s
        let s := portMod port (fun p => { p.fresh with
          state := if wrong then .down else .up, wrongPeer := wrong, peerValid := true, peerId := x.node % 16384,
          peerPort := x.port % 8, peerMember := x.member % 256 }) s
        if wrong then raise evSpanLink s else grantNow port (linkChanged port s))

/-- Queued packets of a port, lowest channel first. -/
def queuedAll (p : Port) : List Packet := p.queues.flatMap (fun q => q.2.map Queued.pkt)

/-- A partial that leaves a port under a Shutter counts in its REPORT: moved, or refused (R580). -/
def notePartial (port : Nat) (k : Packet) (moved : Bool) (s : State) : State :=
  match k.body with
  | .part _ =>
    let add (x : Shutter) : Shutter :=
      { x with counts := mmod x.counts (if moved then 6 else 7) 0 (fun n => satAdd 32 n 1) }
    { s with shutters := lmap s.shutters (fun x => x.kind == 3 && x.num == port && !x.done) add }
  | _ => s

/-- A packet a port gives up goes by another port with the cells it lies in, or is handled under R382. -/
def rerouteLent (port : Nat) (lent : List (Nat × Nat × Nat)) (k : Packet) (s : State) : State :=
  match trySendFrom lent k s with
  | some t => notePartial port k true t
  | none => notePartial port k false (refusePacket k (returnCells lent s))

/-- The same for a packet that was sent and lies in no received cells. -/
def rerouteFrom (port : Nat) (s : State) (k : Packet) : State := rerouteLent port [] k s

/-- A packet a port gives up and no other takes. -/
def refuseFrom (port : Nat) (s : State) (k : Packet) : State := notePartial port k false (refusePacket k s)

/-- Re-route what a port has queued (R364, R384). -/
def rerouteQueue (port : Nat) (s : State) : State :=
  ((portAt s port).queues.flatMap Prod.snd).foldl (fun t e => rerouteLent port e.lent e.pkt t)
    (portMod port (fun p => { p with queues := [] }) s)

/-- The peer is asked by other routes what it accepted last (R386). -/
def askPeer (port : Nat) (s : State) : State :=
  let s := portMod port (fun p => { p with querying := true }) s
  sendOwn (portAt s port).peerId (.lquery { peerPort := (portAt s port).peerPort, lastRx := 0, known := false }) s

/-- LAST_RX is recorded (R384). -/
def Port.record (p : Port) : Port := { p with lastRx := some ((p.rxSeq + 4095) % 4096) }

/-- A port enters RECOVER (R358, R384, R387). One under a Shutter does not come UP again: its flits are settled at once. -/
def enterRecover (port : Nat) (s : State) : State :=
  let shut := (portAt s port).state = .shuttering
  let s := transmit port Port.flush s
  let s := portMod port (fun p => { p.record with
    state := if shut then .shuttering else .recover, linkDowns := satAdd 8 p.linkDowns 1,
    naks := (0, 0), querying := false }) s
  let s := rerouteQueue port (if shut then s else linkChanged port s)
  if shut then askPeer port s else s

/-- A NAK: the flits up to ACK are delivered, a replay from ACK + 1 starts, and the sixteenth NAK in a row for one FSEQ takes
the port to RECOVER (R357, R358). -/
def takeNak (port ack : Nat) (s : State) : State :=
  let fseq := (ack + 1) % 4096
  let s := transmit port (fun p =>
    Port.replay { ackTo (ack % 4096) p with naks := if p.naks.1 = fseq then (fseq, p.naks.2 + 1) else (fseq, 1) }) s
  if 16 ≤ (portAt s port).naks.2 then enterRecover port s else s

/-- NAK_RECEIVE. -/
def execNakReceive (port ack : Nat) (s : State) : Host.Outcome State Fault Refusal :=
  .next (if linkUp s port then takeNak port ack s else s)

/-- ACK goes back for a flit that was accepted, in an IDLE flit; that for an IDLE flit goes with the next flit (R356; a DESIGN
CHOICE, assumption log 23). Credit that is owed goes too (R360). -/
def answerFlit (port : Nat) (idle : Bool) (s : State) : State :=
  if linkUp s port then transmit port (fun p => Port.giveCredit 16 (if idle then p else p.emitIdle)) s else s

/-- What an accepted flit does at its port: ACK, credit, payload (R357, R359, R360). -/
def Port.accept (p : Port) (f : Flit) (c : Cut) : Port :=
  let p := if f.nak then p else ackTo (f.ack % 4096) p
  { p with
    rxSeq := (p.rxSeq + 1) % 4096, nakOut := false, rxBytes := c.rest, rx := p.rx ++ c.packets,
    naks := if f.nak then p.naks else (0, 0), credit := mmod p.credit (f.grantCh % 8) 0 (fun n => n + f.grant % 4096) }

/-- An accepted flit: ACK, credit, payload (R356, R357, R359, R360, R374). -/
def takeFlit (port : Nat) (f : Flit) (s : State) : State :=
  let c := flitPackets (portAt s port).rxBytes f
  let s := portMod port (fun p => p.accept f c) s
  let s := oweCells (c.freed.map (fun x => (port, x.1, x.2))) s
  let s := countEv (islSpan port) 0x601 1 (corruptPacket port c.corrupt c.partials s)
  answerFlit port f.idle (if f.nak then takeNak port (f.ack % 4096) s else s)

/-- A flit is accepted when its CRC is good, no codeword under it failed and its FSEQ is the next (R356); a flit whose packets
the port's 32,768 cells cannot take, which credit keeps a peer from sending, is not (R360; DESIGN CHOICE, assumption log 23). -/
def accepts (p : Port) (f : Flit) : Bool :=
  crcGood f && f.fecFailed == 0 && f.fseq == p.rxSeq && decide ((p.accept f (flitPackets p.rxBytes f)).rxCells ≤ 32768)

/-- FLIT_RECEIVE (R353, R356, R360): a flit that is not accepted is answered with NAK. -/
def execFlitReceive (port : Nat) (f : Flit) (s : State) : Host.Outcome State Fault Refusal :=
  .next (if !linkUp s port then s
    else
      let s := portMod port (fun p => { p with
        corrected := satAdd 32 p.corrected f.fecCorrected, uncorrectable := satAdd 16 p.uncorrectable f.fecFailed }) s
      if accepts (portAt s port) f then takeFlit port f s
      else transmit port (fun p => Port.emitIdle { p with nakOut := true }) s)

/-- PACKET_SEND (R355, R357, R359, R360, R366, R375, R378): the `idx`-th packet of a channel leaves once the channel holds credit
for all of it and the window takes its flits. The cells it was received in come free. -/
def execPacketSend (port chan idx : Nat) (s : State) : Host.Outcome State Fault Refusal :=
  let p := portAt s port
  match (mgetD p.queues chan [])[idx]? with
  | none => .next s
  | some e =>
    .next (if !linkUp s port ∨ 8 ≤ chan ∨ !p.mayGo chan idx e then s
      else
        let k : Packet := { e.pkt with hdr := { e.pkt.hdr with vl := chan % 2 } }
        returnCells e.lent { transmit port (Port.send chan idx e) s with spanWire := s.spanWire ++ [(port, k)] })

/-! ## Losing a link (R384 to R387) -/

/-- A port in RECOVER; one under a forced Shutter, or FAILED, settles its flits in the same way (R354, R386, R577). -/
def recovering (s : State) (port : Nat) (querying : Bool) : Bool :=
  let p := portAt s port
  decide (port < 8) && (p.state == .recover || (querying && (p.state == .shuttering || p.state == .failed))) &&
    p.querying == querying

/-- The state of a port whose flits are settled: DOWN; SHUTTERING until its Shutter is done; FAILED. -/
def Port.settled (p : Port) : LinkState :=
  if p.state = .shuttering then .shuttering else if p.state = .failed then .failed else .down

/-- Retraining finds two or more failing lanes: the port is FAILED, SPAN_LINK fires, and its flits are settled with the peer
(R354, R386). -/
def failLink (port : Nat) (s : State) : State :=
  if (portAt s port).state = .up then
    let s := portMod port (fun p => { p.record with state := .failed, naks := (0, 0) }) (transmit port Port.flush s)
    askPeer port (rerouteQueue port (linkChanged port s))
  else askPeer port (raise evSpanLink (portMod port (fun p => { p with state := .failed }) s))

/-- The link is UP again: what the peer took is freed, the rest sent again with this end's LAST_RX as ACK, an IDLE flit where
there is none (R385). -/
def Port.resume (p : Port) (peerLastRx : Nat) : Port :=
  let p := ackTo (peerLastRx % 4096) { p.record with state := .up, nakOut := false }
  if p.flits.isEmpty then p.emitIdle else p.replay

/-- LINK_RETRAIN_DONE (R354, R384, R385): both ends have retrained within 2 ms and have each other's LAST_RX. The end that counted no 16 NAKs was UP until then. -/
def execLinkRetrainDone (port : Nat) (r : RetrainIn) (s : State) : Host.Outcome State Fault Refusal :=
  let was := (portAt s port).state
  .next (if !recovering s port false ∧ !(port < 8 ∧ was = .up) then s
    else if lanesLost r.txFail r.rxFail then failLink port s
    else
      let s := transmit port (fun p => Port.resume (p.trained r.txFail r.rxFail r.lane) r.peerLastRx) s
      if was = .up then s
      else linkChanged port (portMod port (fun p => { p with recovered := satAdd 8 p.recovered 1 }) s))

/-- RECOVER_RETRAIN_TIMEOUT (R386): 2 ms have passed; the peer is asked over other routes. -/
def execRecoverRetrainTimeout (port : Nat) (s : State) : Host.Outcome State Fault Refusal :=
  .next (if recovering s port false then
      askPeer port s
    else s)

/-- LQUERY (R373, R384, R386): the answer says what this end accepted last on the link to the asker. An end that is still UP
records its LAST_RX then. PEER_PORT of both packets is the port of the packet's receiver (assumption log 25). -/
def execLquery (port : Nat) (h : PktHdr) (p : LinkPkt) (s : State) : Host.Outcome State Fault Refusal :=
  arrive port h (.lquery p) s (fun s =>
    let n := p.peerPort % 8
    let s := if (portAt s n).state = .up then portMod n Port.record s else s
    let mine := portAt s n
    let known := mine.lastRx.isSome && mine.peerValid && mine.peerId == h.src
    sendOwn h.src (.lstate { peerPort := mine.peerPort, lastRx := if known then mine.lastRx.getD 0 else 0, known := known }) s)

/-- Nothing that was sent is held any more. -/
def Port.drained (p : Port) : Port := { p with unacked := [], flits := [], txBytes := [], txFirst := 15, querying := false }

/-- Held packets the peer did not take are handled under R382, and the port goes DOWN. -/
def unresolved (port : Nat) (s : State) : State :=
  let held := (portAt s port).unacked.map SentPkt.pkt
  let s := portMod port (fun p => { p.drained with state := p.settled, unresolved := satAdd 8 p.unresolved 1 }) s
  held.foldl (refuseFrom port) s

/-- The count is settled: what the peer took is delivered, the rest is re-routed (R386). -/
def settleLink (port lastRx : Nat) (s : State) : State :=
  let held := (ackTo (lastRx % 4096) (portAt s port)).unacked.map SentPkt.pkt
  let s := portMod port (fun p => { p.drained with state := p.settled, recovered := satAdd 8 p.recovered 1 }) s
  held.foldl (rerouteFrom port) s

/-- LSTATE (R386). -/
def execLstate (port : Nat) (h : PktHdr) (p : LinkPkt) (s : State) : Host.Outcome State Fault Refusal :=
  arrive port h (.lstate p) s (fun s =>
    let n := p.peerPort % 8
    if recovering s n true && (portAt s n).peerId == h.src then
      (if p.known then settleLink n p.lastRx s else unresolved n s)
    else s)

/-- LQUERY_TIMEOUT (R386). -/
def execLqueryTimeout (port : Nat) (s : State) : Host.Outcome State Fault Refusal :=
  .next (if recovering s port true then unresolved port s else s)

/-- SPAN_RX_ELECTRICAL_IDLE (R383, R387, R395): the peer's lanes are idle and the port sees DOWN. Packets not sent are re-routed;
those the peer may have lost are handled under R382 (assumption log 26), which ends a settlement that ran. -/
def execSpanRxElectricalIdle (port : Nat) (s : State) : Host.Outcome State Fault Refusal :=
  let st := (portAt s port).state
  .next (if 8 ≤ port then s
    else if st = .training then portMod port (fun p => { p with state := .down }) s
    else if st = .up ∨ st = .shuttering then
      let held := (portAt s port).unacked.map SentPkt.pkt
      let s := portMod port (fun p => { p.drained with
        state := p.settled, unresolved := satAdd 8 p.unresolved (b2n p.querying) }) s
      held.foldl (refuseFrom port) (rerouteQueue port (if st = .up then linkChanged port s else s))
    else s)

/-- LAST_RX_EXPIRE (R384): 2 × RD_TIMEOUT has passed. -/
def execLastRxExpire (port : Nat) (s : State) : Host.Outcome State Fault Refusal :=
  .next (if port < 8 then portMod port (fun p => { p with lastRx := none }) s else s)

/-! ## QH_CELL_UNCORRECTABLE (R453) -/

/-- What a cell with an uncorrectable word does to what it holds; none where it holds nothing of the kind. A sent flit that is
lost goes as an IDLE flit in a replay (DESIGN CHOICE, assumption log 23). -/
def cellLost (spot : CellSpot) (s : State) : Option State :=
  match spot with
  | .submission f i =>
    if i < (flowOf s f).items.length then
      some (flowMod f (fun g => { g with items := lmod g.items i (fun x => { x with bad := true }) }) s)
    else none
  | .runStream ord i e =>
    match (runOf s ord).bind (fun r => r.streams[i]?) with
    | some x =>
      if e < x.count ∧ !x.write then
        let first := e * x.elem / 64 * 64
        let bad := (elemsIn x.elem first 64).filter (fun k => decide (k < x.count) && (badOf x k).isNone)
        some (streamAt ord i (fun x => { x with badElems := x.badElems ++ bad.map (fun k => (k, Status.uncorrectable)) }) s)
      else none
    | none => none
  | .transferData ord =>
    match xferOf s ord with
    | some _ => some (xferMod ord (fun x => { x with bad := firstBad x.bad (x.done, .uncorrectable) }) s)
    | none => none
  | .completion f i =>
    if i < (flowOf s f).records.length then some (flowMod f (fun g => { g with badRecords := insAsc i g.badRecords }) s) else none
  | .received port i =>
    match (portAt s port).rx[i]? with
    | some k =>
      if 8 ≤ port then none
      else some (corruptPacket port 1 (b2n (kindNo k.body == 6))
        (returnCells (rxLent s port k) (portMod port (fun p => { p with rx := p.rx.eraseIdx i }) s)))
    | none => none
  | .sentFlit port fseq =>
    let hit := fun (u : SentPkt) => decide ((fseq + 4096 - u.first) % 4096 ≤ (u.last + 4096 - u.first) % 4096)
    let gone := (portAt s port).unacked.filter hit
    if 8 ≤ port ∨ gone.isEmpty then none
    else
      let blank (x : Flit) : Flit := { x with idle := true, first := 15, payload := List.replicate 240 0 }
      let s := portMod port (fun p => { p with
        unacked := p.unacked.filter (fun u => !hit u), unresolved := satAdd 8 p.unresolved 1,
        flits := lmap p.flits (fun x => x.fseq == fseq) blank }) s
      some (gone.foldl (fun t u => refusePacket u.pkt t) s)

/-- QH_CELL_UNCORRECTABLE. -/
def execQhCellUncorrectable (spot : CellSpot) (s : State) : Host.Outcome State Fault Refusal :=
  match cellLost spot s with
  | some t => .next (countCell t)
  | none => .next s

end Sys2Proof.Machine
end

