-- ==== Sys2Proof/Machine/Install.lean ====
section
/-! DEFINITION. What the Clerk installs: TEMPLATE_INSTALL and TEMPLATE_INSTALL_COMPLETE, NODE_SET, HOMEMAP_INSTALL,
ROUTE_SET, LARDER_PLAN, HOTSET_REFRESH and DEFERRED_CONFIG_EXECUTE. -/

namespace Sys2Proof.Machine

open Sys2Proof

/-! ## Run templates (R6, R113, R114, R178, R194, R516, R517) -/

/-- One bit of the CRC-32 of IEEE 802.3, least significant bit first. -/
def crc32Bit (r : Nat) : Nat := if r % 2 = 1 then (r / 2) ^^^ 0xEDB88320 else r / 2

/-- One byte of it. -/
def crc32Byte (r : Nat) (b : Byte) : Nat := (List.range 8).foldl (fun x _ => crc32Bit x) (r ^^^ b.toNat)

/-- CRC-32 of IEEE 802.3. -/
def crc32 (bs : List Byte) : Nat := bs.foldl crc32Byte 0xFFFFFFFF ^^^ 0xFFFFFFFF

/-- MEMBER of the K40 in ID_PART (R649). -/
def memberK40 : Nat := 0x28

/-- The template an image holds. -/
def templateOf (bs : List Byte) : Template :=
  let n := fieldOf bs 2 17 6
  { backward := fieldOf bs 2 0 1 == 1,
    red := match fieldOf bs 2 1 3 with
      | 0 => .sum
      | 1 => .mean
      | 2 => .sumsq
      | 3 => .meanvar
      | _ => .max,
    weighted := fieldOf bs 2 4 1 == 1, wgrad := fieldOf bs 2 5 1 == 1, outFmts := fieldOf bs 2 6 3,
    fuseOps := fieldOf bs 2 9 3, preload := fieldOf bs 2 12 1 == 1, hintRows := fieldOf bs 2 13 2,
    hintStreams := fieldOf bs 2 15 2, ninstr := n, nin := fieldOf bs 2 23 4, colMask := fieldOf bs 3 0 40,
    program := bytesToWords n (bs.drop 64) }

/-- Image bytes named by a header. -/
def imageLength (hdr : List Byte) : Nat := fieldOf hdr 0 32 16

/-- LENGTH lies in the range of R516. -/
def lengthOk (hdr : List Byte) : Bool :=
  let n := imageLength hdr
  n % 8 == 0 && decide (64 + 8 * fieldOf hdr 2 17 6 ≤ n) && decide (n ≤ 4096)

/-- MAGIC, FORMAT, the CRC and the reserved bits of an image. -/
def imageSound (bs : List Byte) : Bool :=
  fieldOf bs 0 0 16 == 0x4B54 && fieldOf bs 0 24 8 == 1 && fieldOf bs 0 16 8 == memberK40 && fieldOf bs 0 48 16 == 0 &&
    fieldOf bs 1 32 32 == 0 && fieldOf bs 2 27 37 == 0 && fieldOf bs 3 40 24 == 0 &&
    (List.range 4).all (fun i => fieldAt bs (32 + 8 * i) 8 == 0) &&
    crc32 (bs.take 8 ++ List.replicate 4 0 ++ bs.drop 12) == fieldOf bs 1 0 32

/-- The ranges and rules of R178, R194 and R517. -/
def templateOk (bs : List Byte) (t : Template) : Bool :=
  decide (fieldOf bs 2 1 3 ≤ 4) && decide (1 ≤ t.hintRows) && decide (1 ≤ t.hintStreams) && decide (t.ninstr ≤ 32) &&
    decide (1 ≤ t.nin) && decide (t.nin ≤ 8) && (t.ninstr != 0 || t.nin == 1) && t.colMask != 0 &&
    (t.backward || !t.wgrad) &&
    (!t.backward || (t.red != .max && t.red != .meanvar && (!t.wgrad || t.weighted) && decide (t.outFmts ≤ 1) &&
      decide (t.fuseOps ≤ 1) && !t.preload)) &&
    (t.program.isEmpty || Config.programOk t.nin t.program)

/-- A Run admitted under the slot's contents has not finished. -/
def templateBusy (s : State) (n : Nat) : Bool := s.qh.runs.any (fun r => r.desc.template == n)

/-- The command keeps its place among the taken ones and waits. -/
def holdTaken (slot : Nat) (s : State) : State :=
  { s with mbx := { s.mbx with taken := lmap s.mbx.taken (fun t => t.slot == slot) (fun t => { t with held := true }) } }

/-- Read an image: none where R517 refuses it. -/
def readImage (s : State) (v : ChipView) (ctx da : Nat) : Except Status (Option Template) :=
  match clerkRead s v ctx da 64 with
  | .error e => .error e
  | .ok hdr =>
    if !lengthOk hdr then .ok none
    else match clerkRead s v ctx da (imageLength hdr) with
      | .error e => .error e
      | .ok bs => .ok (if imageSound bs && templateOk bs (templateOf bs) then some (templateOf bs) else none)

/-- What a failed read of an image leaves behind (R330). -/
def noteImage (v : ChipView) (ctx da : Nat) (s : State) : State :=
  match clerkRead s v ctx da 64 with
  | .error _ => noteClerk v ctx da 64 s
  | .ok hdr => noteClerk v ctx da (imageLength hdr) s

/-- TEMPLATE_INSTALL (R114, R516, R517, OP 0x0601): into a slot whose Runs have not finished, the install waits for them. -/
def execTemplateInstall (slot : Nat) (v : ChipView) (s : State) : Host.Outcome State Fault Refusal :=
  match takenCmd s 0x0601 slot isSlow with
  | none => .next s
  | some k =>
    let n := bits (arg k.msg 1) 0 9
    match readImage s v k.msg.ctx (bits (arg k.msg 2) 0 56) with
    | .error e => cmdStep 0x0601 slot s fun m s => postFinal slot m e [] (noteImage v m.ctx (bits (arg m 2) 0 56) s)
    | .ok none => cmdStep 0x0601 slot s fun m s => postFinal slot m .badTemplate [] s
    | .ok (some t) =>
      if templateBusy s n then
        .next (holdTaken slot { s with clerk := { s.clerk with waiting := some (n, slot, t) } })
      else cmdStep 0x0601 slot s fun m s => postFinal slot m .ok [] { s with templates := mset s.templates n t }

/-- TEMPLATE_INSTALL_COMPLETE (R114): the slot's Runs have finished, so the waiting install takes place. -/
def execTemplateInstallComplete (tslot : Nat) (s : State) : Host.Outcome State Fault Refusal :=
  match s.clerk.waiting with
  | none => .next s
  | some (n, slot, t) =>
    match s.mbx.taken.find? (fun k => k.slot == slot && k.held) with
    | none => .next s
    | some k =>
      .next (if n ≠ tslot ∨ templateBusy s n ∨ !clerkRuns s then s
        else
          let s := untake slot { s with clerk := { s.clerk with waiting := none }, templates := mset s.templates n t }
          postFinal slot k.msg .ok [] s)

/-! ## NODE_SET and ROUTE_SET -/

/-- NODE_SET (R362, R392, R546, OP 0x0801). -/
def execNodeSet (slot : Nat) (s : State) : Host.Outcome State Fault Refusal :=
  cmdStep 0x0801 slot s fun m s =>
    let n := bits (arg m 1) 0 14
    let valid := bit (arg m 1) 14
    if (List.range 8).all (fun p => (portAt s p).state == .down) then
      postFinal slot m .ok [] { s with
        span := { s.span with nodeId := n, nodeValid := valid }, clerk := { s.clerk with cfgNode := (n, valid) } }
    else postFinal slot m .badDescriptor [] s

/-- A table of 128 route entries. -/
def routesOf (bs : List Byte) : AMap Nat :=
  (List.range 128).filterMap (fun i =>
    let e := fieldAt bs i 1
    if e = 0 then none else some (i, e))

/-- Routes whose entries an installation changes have a new state (R382). -/
def installRoutes (groups members : AMap Nat) (s : State) : State :=
  let t := { s with span := { s.span with groupRoute := groups, memberRoute := members } }
  { t with span := { t.span with absentFired := s.span.absentFired.filter (fun k => entryOfKey s k == entryOfKey t k) } }

/-- ROUTE_SET (R364, OP 0x0803). -/
def execRouteSet (slot : Nat) (v : ChipView) (s : State) : Host.Outcome State Fault Refusal :=
  cmdStep 0x0803 slot s fun m s =>
    match clerkRead s v m.ctx (bits (arg m 1) 0 56) 256 with
    | .error e => postFinal slot m e [] (noteClerk v m.ctx (bits (arg m 1) 0 56) 256 s)
    | .ok bs => postFinal slot m .ok [] (installRoutes (routesOf bs) (routesOf (bs.drop 128)) s)

/-! ## HOMEMAP_INSTALL (R59, R60, R62, R582, R583) -/

/-- The entries of a map block, nodes other than 0. -/
def mapEntries (bs : List Byte) : AMap Nat :=
  (((List.range 65536).zip (groupLe 2 65536 bs)).filter (fun p => p.2 % 16384 != 0)).map (fun p => (p.1, p.2 % 16384))

/-- No entry has a reserved bit set (R59). -/
def mapSound (bs : List Byte) : Bool := (groupLe 2 65536 bs).all (fun e => decide (e < 16384))

/-- Tables that use a map slot, with their TIDs. -/
def tablesOn (s : State) (map : Nat) : List (Nat × Table) := s.tables.filter (fun p => p.2.homeMap == map)

/-- A version slot is in a state that R582 excludes. -/
def slotMoving (v : VSlot) : Bool := v.state == .loading || v.state == .standby || v.state == .draining

/-- The map as a slot holds it after an install of a later epoch. -/
def nextMap (m : HomeMap) (entries : AMap Nat) (epoch : Nat) : HomeMap :=
  { m with entries := entries, epoch := epoch, unusable := false, old := some (m.entries, m.epoch), inbound := [],
           handed := [], served := [],
           counts := { rowsOut := 0, rowsIn := 0, entriesOut := 0, rowsFailed := 0, partials := 0, reads := 0,
                       epochDropped := 0 } }

/-- A first map, at its place in the table area. -/
def firstMap (loc : Nat) (entries : AMap Nat) (epoch : Nat) : HomeMap :=
  { entries := entries, epoch := epoch, loc := loc, unusable := false, old := none, inbound := [], handed := [], served := [],
    counts := { rowsOut := 0, rowsIn := 0, entriesOut := 0, rowsFailed := 0, partials := 0, reads := 0, epochDropped := 0 } }

/-- Shards this K40 gains, ascending. -/
def gained (s : State) (m : HomeMap) (entries : AMap Nat) : List Nat :=
  (List.range 65536).filter (fun i => nodeOfShard entries i == self s && nodeOfShard m.entries i != self s)

/-- What the gained shards and one free shelf per class take for a table (R582). -/
def growth (t : Table) (shards : Nat) : Nat := shards * 2 ^ (t.hbits - 16) * 16 + 4 * shelfBytes

/-- The table area can hold the larger directories and state arrays where they stand: DIR_LOC and STATE_LOC keep their values
(R582, R668; assumption log 29). -/
def growthFits (s t : State) (map shards other : Nat) : Bool :=
  let need := (tablesOn s map).foldl (fun n p => n + growth p.2 shards) 0
  decide (need ≤ freeSpace s (usedRegions s none) other) &&
    (heldRegions t none).all (fun r => decide (r.1 + r.2 ≤ tableTop t)) && allApart (heldRegions t none)

/-- R582: an install of a later epoch is refused. -/
def remapOk (s : State) (map : Nat) (m : HomeMap) (other : Nat) (entries : AMap Nat) (epoch : Nat) : Bool :=
  let t := { s with maps := mset s.maps map (nextMap m entries epoch) }
  s.ldg.sealedStep.isNone && m.old.isNone &&
    (tablesOn s map).all (fun p => !slotMoving p.2.slot0 && !slotMoving p.2.slot1) &&
    growthFits s t map (gained s m entries).length other

/-- Shards with an ordinal, in the order of their ordinals. -/
def shardOrder (m : HomeMap) (me : Nat) : List Nat :=
  (List.range 65536).filter (fun i => nodeOfShard m.entries i == me) ++
    (List.range 65536).filter (fun i => nodeOfShard m.entries i != me && ownsShard m me i)

/-- Where a directory position goes when the ordinals change; none where its shard has no ordinal any more. -/
def newIndex (order : List Nat) (m : HomeMap) (me per ix : Nat) : Option Nat :=
  (order[ix / per]?).bind (fun shard => (ordinal m me shard).map (fun o => o * per + ix % per))

/-- Records of an array that are not all 0, by position. -/
def listedRecs (s : State) (base size n : Nat) : List Nat :=
  dedupNat ((s.hbm.filter (fun c => decide (base ≤ c.1) && decide (c.1 < base + size * n))).map (fun c => (c.1 - base) / size))

/-- Move the records of an array to the positions of new ordinals; a poisoned codeword of a record goes with it. -/
def moveRecs (base size n top : Nat) (dst : Nat → Option Nat) (s : State) : State :=
  if size = 0 then s
  else
    let recs := (listedRecs s base size n).map (fun ix => (ix, hbmRead s (base + ix * size) size))
    let marks := s.poison.filter (fun c => decide (base < c * 64 + 64) && decide (c * 64 < base + size * n))
    let hit (ix : Nat) : Bool := marks.any (fun c => decide (base + ix * size < c * 64 + 64) && decide (c * 64 < base + ix * size + size))
    let bad := ((List.range n).filter hit).filterMap dst
    let s := hbmClear base (size * max n top) s
    let s := recs.foldl (fun s r => match dst r.1 with
      | some ix => hbmWrite (base + ix * size) r.2 s
      | none => s) s
    let cws := bad.flatMap (fun ix =>
      let a := (base + ix * size) / 64
      (List.range ((base + ix * size + size + 63) / 64 - a)).map (fun i => a + i))
    { s with poison := cws.foldl (fun l c => insAsc c l) s.poison }

/-- Re-order a slot's directory and state array from one map's ordinals to another's, with the moves and copies that name
directory addresses. -/
def reorderSlot (was now : HomeMap) (tid i : Nat) (s : State) : State :=
  match mget s.tables tid with
  | none => s
  | some t =>
    let v := vslot t i
    if v.state = .empty then s
    else
      let per := 2 ^ (t.hbits - 16)
      let order := shardOrder was (self s)
      let dst := newIndex order now (self s) per
      let n := ownedShards was (self s) * per
      let top := ownedShards now (self s) * per
      let s := moveRecs v.dirLoc 16 n top dst s
      let s := moveRecs v.stateLoc (stateBytes t.opt t.dim) n top dst s
      let addr (a : Nat) : Option Nat := (dst ((a - v.dirLoc) / 16)).map (dirAddr v)
      let moves := s.moves.filterMap (fun m =>
        if m.tid = tid ∧ m.slot = i then (addr m.dirAddr).map (fun a => { m with dirAddr := a }) else some m)
      let copies := s.lrd.copies.filterMap (fun c =>
        if c.tid = tid ∧ c.slot = i then (addr c.dirAddr).map (fun a => { c with dirAddr := a }) else some c)
      { s with moves := moves, lrd := { s.lrd with copies := copies } }

/-- Re-order both slots of every table on a map slot. -/
def reorderAll (map : Nat) (was now : HomeMap) (s : State) : State :=
  (tablesOn s map).foldl (fun s p => reorderSlot was now p.1 1 (reorderSlot was now p.1 0 s)) s

/-- The INBOUND shards of an install: each gained shard of each table with an ACTIVE slot, shards ascending. -/
def inboundOf (s : State) (map : Nat) (shards : List Nat) : List Inbound :=
  shards.flatMap (fun sh => (tablesOn s map).filterMap (fun p =>
    if (activeSlot p.2).isSome then some { shard := sh, tid := p.1, next := 0, rows := [] } else none))

/-- A replica stays: its row's shard keeps its node (R583). -/
def replicaStays (s : State) (map : Nat) (was now : AMap Nat) (r : Replica) : Bool :=
  r.defkey || (match mget s.tables r.tid with
    | none => true
    | some t => t.homeMap != map ||
        nodeOfShard was (shardSlot t r.row).1 == nodeOfShard now (shardSlot t r.row).1)

/-- A later epoch takes effect (R62, R583). -/
def remap (map : Nat) (m : HomeMap) (entries : AMap Nat) (epoch : Nat) (s : State) : State :=
  let now := nextMap m entries epoch
  let s := { s with maps := mset s.maps map now }
  let s := reorderAll map m now s
  let now := { now with inbound := inboundOf s map (gained s m entries) }
  let s := retireReplicas (fun r => !replicaStays s map m.entries entries r) s
  { s with
    maps := mset s.maps map now
    shutters := s.shutters.filter (fun x => !(x.kind == 5 && x.num == map)) }

/-- Some place of the table area takes `n` bytes beside what it holds: one that begins at its start or where a structure
ends. -/
def roomFor (s : State) (n : Nat) : Bool :=
  (0 :: (heldRegions s none).map (fun r => round64 (r.1 + r.2))).any (fun a => placementOk s (heldRegions s none) [(a, n)])

/-- The place of a first map is one the K40 gives it: apart from the structures in use, wherever the table area has such a
place; a map slot in use keeps its own (assumption log 8). -/
def mapPlaced (s : State) (map loc : Nat) : Bool :=
  (mget s.maps map).isSome || placementOk s (heldRegions s none) [(loc, mapBytes)] || !roomFor s mapBytes

/-- Carry out HOMEMAP_INSTALL (R59, R60, R62, R582, R583). -/
def doHomemap (v : ChipView) (other loc slot : Nat) (m : Msg) (s : State) : State :=
  let map := bits (arg m 1) 0 4
  let epoch := bits (arg m 1) 16 16
  match clerkRead s v m.ctx (bits (arg m 2) 0 56) 131072 with
  | .error e => postFinal slot m e [] (noteClerk v m.ctx (bits (arg m 2) 0 56) 131072 s)
  | .ok bs =>
    let entries := mapEntries bs
    if !mapSound bs then postFinal slot m .badDescriptor [] s
    else match mget s.maps map with
      | none => postFinal slot m .ok [] { s with maps := mset s.maps map (firstMap loc entries epoch) }
      | some h =>
        if !epochLater epoch h.epoch ∨ !remapOk s map h other entries epoch then postFinal slot m .badDescriptor [] s
        else postFinal slot m .ok [] (remap map h entries epoch s)

/-- HOMEMAP_INSTALL (R36, OP 0x0802). A first map takes the place `room.loc`; with a place that is not `mapPlaced` the step does not
come about (assumption log 8). -/
def execHomemapInstall (slot : Nat) (v : ChipView) (room : MapRoom) (s : State) : Host.Outcome State Fault Refusal :=
  match takenCmd s 0x0802 slot isSlow with
  | none => .next s
  | some c =>
    if mapPlaced s (bits (arg c.msg 1) 0 4) room.loc then cmdStep 0x0802 slot s (doHomemap v room.other room.loc slot) else .next s

/-- The forwarding period of a map slot closes: the old map goes, and with it the rows of the shards this K40 lost (R591). -/
def closeForwarding (map : Nat) (s : State) : State :=
  match mget s.maps map with
  | none => s
  | some m =>
    let now := { m with old := none, inbound := [], handed := [], served := [] }
    reorderAll map m now { s with maps := mset s.maps map now }

/-! ## LARDER_PLAN (R303 to R306) -/

/-- R304. -/
def planOk (s : State) (p : W64) : Bool :=
  decide (planHot p + planReplica p + planKept p + planLedger p ≤ 384) && planLedger p != 0 &&
    decide (planLedger p ≤ planJournal p * 16) && planSpill p != 0 && bits p 60 4 == 0 &&
    decide ((planJournal p + planSpill p) * gib ≤ saveBase s) &&
    (heldRegions s none).all (fun r => decide (r.1 + r.2 ≤ tableTopOf s p))

/-- R305: a plan that changes the Ledger's areas while the Ledger holds a step. -/
def planHeld (s : State) (p : W64) : Bool :=
  (s.ldg.openStep.isSome || s.ldg.sealedStep.isSome) &&
    (planLedger p != planLedger s.lrd.plan || planJournal p != planJournal s.lrd.plan || planSpill p != planSpill s.lrd.plan)

/-- A Larder copy goes: its directory entry returns to TIER = 0 by a row move, and is read from its shelf from now on. An entry
with TIER = 3, or on a poisoned codeword, stays as it is (R58). -/
def retireCopy (c : LCopy) (s : State) : State :=
  if (poisonedAt s c.dirAddr 16).isSome ∨ (readDir s c.dirAddr).tier = 3 then dropCopy c.tid c.slot c.dirAddr s
  else
    let e := { readDir s c.dirAddr with tier := 0, larder := 0 }
    dropCopy c.tid c.slot c.dirAddr (startMove c.tid c.slot c.dirAddr e s)

/-- Every row move that is under way completes. -/
def endAllMoves (s : State) : State := s.moves.foldl (fun t m => finishMove m t) { s with moves := [] }

/-- The kept rows go; their storage stays in use as R57 gives (R138, R306). -/
def retireKept (s : State) : State :=
  let s := s.lrd.kept.foldl (fun t k => larderRetire k.block (blocksOf k.size) none t) s
  { s with lrd := { s.lrd with kept := [] } }

/-- Install a plan (R306). -/
def installPlan (p : W64) (s : State) : State :=
  let s := endAllMoves s
  let s := s.lrd.copies.foldl (fun t c => retireCopy c t) s
  let s := retireKept (retireReplicas (fun _ => true) s)
  { s with
    lrd := { s.lrd with plan := p, planValid := true }
    clerk := { s.clerk with cfgPlan := p } }

/-- Carry out LARDER_PLAN. -/
def doPlan (slot : Nat) (m : Msg) (s : State) : State :=
  let p := arg m 1
  if planOk s p && !planHeld s p then postFinal slot m .ok [] (installPlan p s) else postFinal slot m .badDescriptor [] s

/-- LARDER_PLAN (R251, R304 to R306, OP 0x0901): held while a Commit runs. -/
def execLarderPlan (slot : Nat) (s : State) : Host.Outcome State Fault Refusal :=
  match takenCmd s 0x0901 slot isSlow with
  | none => .next s
  | some _ => if s.ldg.committing then .next (holdTaken slot s) else cmdStep 0x0901 slot s (doPlan slot)

/-! ## HOTSET_REFRESH (R309 to R312, R512) -/

/-- A hot-set list: its four arrays, each with the status of a failed read in place of its entries. -/
structure HotList where
  tables : List Nat
  hot : Except Status (List (Nat × Nat))
  reps : Except Status (List (Nat × Nat))
  removals : Except Status (List (Nat × Nat × Nat))

/-- The words of an array. -/
def readWordsAt (s : State) (v : ChipView) (ctx da n : Nat) : Except Status (List W64) :=
  if n = 0 then .ok []
  else match clerkRead s v ctx da (8 * n) with
    | .error e => .error e
    | .ok bs => .ok (bytesToWords n bs)

/-- TID and ROW of an entry; none where a reserved bit is set. -/
def rowEntry (w : W64) : Option (Nat × Nat) := if bits w 52 12 = 0 then some (bits w 0 12, bits w 12 40) else none

/-- The subscriber removals of their words. -/
def removalsOf : List W64 → Option (List (Nat × Nat × Nat))
  | a :: b :: r =>
    if bits a 26 38 = 0 ∧ bits b 40 24 = 0 then
      (removalsOf r).map (fun l => (bits a 0 12, bits a 12 14, bits b 0 40) :: l)
    else none
  | _ => some []

/-- All of a list of options. -/
def allSome {α : Type} : List (Option α) → Option (List α)
  | [] => some []
  | none :: _ => none
  | some a :: r => (allSome r).map (fun l => a :: l)

/-- An array's entries, parsed; none where a reserved bit is set. -/
def parsed {α : Type} (r : Except Status (List W64)) (f : List W64 → Option (List α)) : Option (Except Status (List α)) :=
  match r with
  | .error e => some (.error e)
  | .ok ws => (f ws).map .ok

/-- Read a list (R512): the status that refuses it, or its arrays. A failed read of a later array keeps the arrays before it
(R507, R508). -/
def readHotList (s : State) (v : ChipView) (ctx da : Nat) : Except Status HotList :=
  match clerkRead s v ctx da 64 with
  | .error e => .error e
  | .ok h =>
    let nt := fieldOf h 0 0 32
    let nh := fieldOf h 0 32 32
    let nr := fieldOf h 1 0 32
    let nm := fieldOf h 1 32 32
    let total := 64 + 8 * nt + 8 * nh + 8 * nr + 16 * nm
    if 4096 < nt ∨ 1048576 < nh ∨ 1048576 < nr ∨ 1048576 < nm ∨ (h.drop 16).any (fun b => b != 0) then .error .badDescriptor
    else match translate s v ctx da total false with
      | .error e => .error (failStatus e)
      | .ok _ =>
        match readWordsAt s v ctx (da + 64) nt with
        | .error e => .error e
        | .ok ts =>
          let hot := readWordsAt s v ctx (da + 64 + 8 * nt) nh
          let reps := readWordsAt s v ctx (da + 64 + 8 * nt + 8 * nh) nr
          let rem := readWordsAt s v ctx (da + 64 + 8 * nt + 8 * nh + 8 * nr) (2 * nm)
          match parsed hot (fun l => allSome (l.map rowEntry)), parsed reps (fun l => allSome (l.map rowEntry)),
              parsed rem removalsOf with
          | some a, some b, some c =>
            if ts.any (fun w => bits w 12 52 != 0) then .error .badDescriptor
            else .ok { tables := ts.map (fun w => bits w 0 12), hot := a, reps := b, removals := c }
          | _, _, _ => .error .badDescriptor

/-- What the reads of a list leave behind (R330). -/
def noteHotList (v : ChipView) (ctx da : Nat) (s : State) : State :=
  match clerkRead s v ctx da 64 with
  | .error _ => noteClerk v ctx da 64 s
  | .ok h =>
    let total := 64 + 8 * fieldOf h 0 0 32 + 8 * fieldOf h 0 32 32 + 8 * fieldOf h 1 0 32 + 16 * fieldOf h 1 32 32
    noteClerk v ctx da total s

/-- A row header in place with a new POP. -/
def setPop (a pop : Nat) (s : State) : State :=
  let h := hdrOf (BitVec.ofNat 128 (leNat (hbmRead s a 16)))
  hbmWrite a (hdrBytes { h with pop := pop }) s

/-- A row in place takes its halved POP. -/
def halveInPlace (tid i : Nat) (v : VSlot) (da : Nat) (e : DirEnt) (pop : Nat) (s : State) : State :=
  let s := setPop (rowAddr v e.shelf e.ofs) pop s
  if e.tier = 1 then refreshCopy tid i da s else s

/-- Step 1 of R309 for one row: POP is halved, and a row whose class changes goes to a shelf of its new class by a row move. A
row that cannot be read, or for whose class no shelf has room, stays as it is (assumption log 30). -/
def refreshRow (tid i ix : Nat) (s : State) : State :=
  match mget s.tables tid with
  | none => s
  | some t =>
    let v := vslot t i
    let da := dirAddr v ix
    let e := readDir s da
    let a := rowAddr v e.shelf e.ofs
    if !e.loaded ∨ e.tier = 3 ∨ (poisonedAt s da 16).isSome ∨ (poisonedAt s a 16).isSome then s
    else
      let h := hdrOf (BitVec.ofNat 128 (leNat (hbmRead s a 16)))
      let pop := h.pop / 2
      let cls := classFor t pop
      if cls = e.cls then halveInPlace tid i v da e pop s
      else match readShelfRow s t v e none with
        | .fail _ _ => halveInPlace tid i v da e pop s
        | .ok d =>
          match decodeRow d with
          | none => halveInPlace tid i v da e pop s
          | some xs =>
            match placeRowIn false tid i cls { stamp := h.stamp, pop := pop, dflt := false } xs s with
            | none => halveInPlace tid i v da e pop s
            | some (n, ofs, s) =>
              let now : DirEnt := { cls := cls, tier := 0, loaded := true, shelf := n, ofs := ofs, larder := 0 }
              dropCopy tid i da (startMove tid i da now s)

/-- Step 1 of R309 for a slot: every row, and the learned default row, whose class stays W32 (R46, R47, R49). -/
def refreshSlot (tid i : Nat) (s : State) : State :=
  match mget s.tables tid with
  | none => s
  | some t =>
    let v := vslot t i
    if v.state = .empty then s
    else
      let s := (listedRows s v (dirCount s t)).foldl (fun s ix => refreshRow tid i ix s) s
      if homesDefault s t && (poisonedAt s v.defLoc 16).isNone then
        setPop v.defLoc ((hdrOf (BitVec.ofNat 128 (leNat (hbmRead s v.defLoc 16)))).pop / 2) s
      else s

/-- Directory place of a listed hot row that this K40 homes and holds: table, slot, directory address. -/
def hotAt (s : State) (x : Nat × Nat) : Option (Nat × Nat × Nat) :=
  (liveTable s x.1).bind (fun t => (activeSlot t).bind (fun i =>
    if (vslot t i).rows ≤ x.2 ∨ homeNode s t false x.2 ≠ self s then none
    else (dirIndex s t x.2).bind (fun ix =>
      let da := dirAddr (vslot t i) ix
      let e := readDir s da
      if e.loaded ∧ e.tier ≠ 3 ∧ (poisonedAt s da 16).isNone then some (x.1, i, da) else none)))

/-- Step 2: the copies of rows that are not listed go. -/
def dropUnlisted (hot : List (Nat × Nat)) (s : State) : State :=
  let keep := hot.filterMap (hotAt s)
  s.lrd.copies.foldl (fun s c => if (c.tid, c.slot, c.dirAddr) ∈ keep then s else retireCopy c s) s

/-- What step 3 counts: placed, not homed here, no HOT room. -/
structure HotCounts where
  placed : Nat
  notHomed : Nat
  noRoom : Nat
  deriving DecidableEq, Repr

/-- The row has a Larder copy, or a move under way that ends with one. -/
def hotAlready (s : State) (tid i da : Nat) : Bool :=
  ((copyAt s tid i da).isSome && (readDir s da).tier == 1) ||
    s.moves.any (fun m => m.dirAddr == da && (dirOf m.entry).tier == 1)

/-- Step 3 for one listed row: a move through TIER = 2 to TIER = 1. -/
def placeHot (k : HotCounts × State) (x : Nat × Nat) : HotCounts × State :=
  let (c, s) := k
  match hotAt s x with
  | none => ({ c with notHomed := c.notHomed + 1 }, s)
  | some (tid, i, da) =>
    if hotAlready s tid i da then (c, s)
    else
      let s := endMoves da s
      match mget s.tables tid with
      | none => (c, s)
      | some t =>
        let e := readDir s da
        match hotPlace s (rowSize e.cls t.dim) with
        | none => ({ c with noRoom := c.noRoom + 1 }, s)
        | some b => ({ c with placed := c.placed + 1 }, startMove tid i da { e with tier := 1, larder := b } s)

/-- Step 4: replicas that are not listed, and those of a desynchronised home, go (R390). -/
def dropReplicas (reps : List (Nat × Nat)) (s : State) : State :=
  retireReplicas (fun r => (mget s.span.cseqIn r.home).isNone || r.defkey || !decide ((r.tid, r.row) ∈ reps)) s

/-- A refresh that has done its step 1. -/
def newRefresh (slot : Nat) (m : Msg) : Refresh :=
  { slot := slot, msg := m, todo := [], now := [], removals := [], asked := [], hot := 0, rep := 0, notHomed := 0, noHot := 0,
    noRep := 0, bucketFull := 0, readFailed := 0, ends := none }

/-- Steps 1 to 4 of R309; the refresh goes on with its placement reads. -/
def startRefresh (slot : Nat) (m : Msg) (l : HotList) (s : State) : State :=
  let s := endAllMoves s
  let s := l.tables.foldl (fun s tid => refreshSlot tid 1 (refreshSlot tid 0 s)) s
  let r := newRefresh slot m
  let begin (r : Refresh) (s : State) : State :=
    stepRefresh (holdTaken slot { s with lrd := { s.lrd with refresh := some r } })
  match l.hot with
  | .error e => begin { r with ends := some e } s
  | .ok hot =>
    let s := dropUnlisted hot (endAllMoves s)
    let (c, s) := hot.foldl placeHot ({ placed := 0, notHomed := 0, noRoom := 0 }, s)
    let r := { r with hot := c.placed, notHomed := c.notHomed, noHot := c.noRoom }
    match l.reps with
    | .error e => begin { r with ends := some e } s
    | .ok reps =>
      let s := dropReplicas reps s
      match l.removals with
      | .error e => begin { r with todo := reps, ends := some e } s
      | .ok gone => begin { r with todo := reps, removals := gone } s

/-- Carry out HOTSET_REFRESH for a taken command. -/
def doRefresh (slot : Nat) (v : ChipView) (k : Taken) (s : State) : State :=
  match readHotList s v k.msg.ctx (bits (arg k.msg 1) 0 56) with
  | .error e => postFinal slot k.msg e [] (untake slot (noteHotList v k.msg.ctx (bits (arg k.msg 1) 0 56) s))
  | .ok l =>
    let sound := match l.hot, l.reps, l.removals with
      | .ok _, .ok _, .ok _ => true
      | _, _, _ => false
    startRefresh slot k.msg l (if sound then s else noteHotList v k.msg.ctx (bits (arg k.msg 1) 0 56) s)

/-- HOTSET_REFRESH (R251, R309 to R312, R512, OP 0x0902): held while a Commit runs. -/
def execHotsetRefresh (slot : Nat) (v : ChipView) (s : State) : Host.Outcome State Fault Refusal :=
  match takenCmd s 0x0902 slot isSlow with
  | none => .next s
  | some k => if s.ldg.committing then .next (holdTaken slot s) else .next (doRefresh slot v k s)

/-- The held command that a Commit's end lets run (R251). -/
def deferredCmd (s : State) (slot : Nat) : Option Taken :=
  if !clerkRuns s || s.ldg.committing || s.lrd.refresh.isSome then none
  else
    match s.mbx.taken.find? (fun t => t.slot == slot) with
    | some t => if t.held ∧ (t.msg.op = 0x0901 ∨ t.msg.op = 0x0902) then some t else none
    | none => none

/-- DEFERRED_CONFIG_EXECUTE (R251): COMMIT_DONE has fired, so a held plan install or refresh is carried out. -/
def execDeferredConfigExecute (slot : Nat) (v : ChipView) (s : State) : Host.Outcome State Fault Refusal :=
  match deferredCmd s slot with
  | none => .next s
  | some k =>
    .next (if k.msg.op = 0x0901 then doPlan slot k.msg (untake slot s) else doRefresh slot v k s)

end Sys2Proof.Machine
end

