-- ==== Sys2Proof/Machine/Regs.lean ====
section
/-! DEFINITION. The KCP register map (chapter "Register map", R647): what every register reads, what a WRITE_CO writes, and
the writes of the registers that no other file lays out. -/

namespace Sys2Proof.Machine

open Sys2Proof

/-! ## Codes of fields -/

/-- STATE of GBL_STATE (R529). -/
def stateCode : BlockState → Nat
  | .off => 0
  | .selftest => 1
  | .held => 2
  | .ready => 3
  | .running => 4
  | .quiescing => 5
  | .retention => 6

/-- CLERK of WCH_STATUS (R524). -/
def clerkCode : ClerkState → Nat
  | .notStarted => 0
  | .booting => 1
  | .running => 2
  | .haltedLost => 3
  | .haltedHost => 4
  | .bootFailed => 5

/-- KIND of QH_FLOW_STATE (R456). -/
def flowKindNo : FlowKind → Nat
  | .unused => 0
  | .runSubmit => 1
  | .xferSubmit => 2
  | .complete => 3
  | .stream => 4

/-- COL_STATE (R158). -/
def colStateNo : ColState → Nat
  | .enabled => 0
  | .shuttering => 1
  | .shuttered => 2
  | .failed => 3

/-- PHASE of LDG_COMMIT_PROGRESS (R294). -/
def phaseNo : Phase → Nat
  | .idle => 0
  | .journal => 1
  | .apply => 2
  | .spill => 3
  | .shelf => 4
  | .finish => 5

/-- REASON of a drop-log slot (R244). -/
def reasonNo : DropReason → Nat
  | .policy => 0
  | .horizon => 1
  | .stray => 2
  | .table => 3
  | .epoch => 4
  | .absent => 5
  | .shutter => 6

/-- STATE of LRD_STATUS (R313). -/
def larderStateNo : LarderState → Nat
  | .untested => 0
  | .ready => 1
  | .retention => 2
  | .failed => 3

/-- STATE of HBM_STATUS (R338). -/
def stackStateNo : StackState → Nat
  | .untrained => 0
  | .training => 1
  | .ready => 2
  | .shuttering => 3
  | .shuttered => 4
  | .selfRefresh => 5
  | .failed => 6

/-- STATE of SPN_LINK_STATE (R393). -/
def linkStateNo : LinkState → Nat
  | .down => 0
  | .training => 1
  | .up => 2
  | .recover => 3
  | .shuttering => 4
  | .shuttered => 5
  | .failed => 6

/-- MODE of CTR_MODE (R612). -/
def ctrModeNo : CtrMode → Nat
  | .live => 0
  | .dump => 1
  | .freeze => 2

/-! ## Reads by block -/

/-- The Watchman's window is open (R524). -/
def windowOpen (s : State) : Bool :=
  (s.clerk.state != .running && s.clerk.state != .booting) || s.gbl.state == .held

/-- A Clerk log entry as four words (R515). -/
def logWords (e : LogEntry) : List W64 := [w64 (e.seq + e.code * pow32), w64 e.step, e.a0, e.a1]

/-- The MBX block (R498). -/
def readMbx (s : State) (rel : Nat) : W64 :=
  let m := s.mbx
  if rel < 0x1000 then mgetD m.slots (rel / 8) 0
  else if rel = 0x1008 then w64 (m.busy.foldl (fun n i => n + 2 ^ i) 0)
  else if rel = 0x1010 then m.respBase
  else if rel = 0x1018 then w64 (m.respSize + b2n m.refused * 2 ^ 63)
  else if rel = 0x1020 then w64 m.head
  else if rel = 0x1028 then w64 m.tail
  else if rel = 0x1040 then w64 (m.beats + m.missed * pow32)
  else 0

/-- The WCH block (R524 to R526). -/
def readWch (s : State) (rel : Nat) : W64 :=
  let w := s.wch
  if rel = 0 then w64 (clerkCode s.clerk.state + b2n (windowOpen s) * 2 ^ 3 + b2n w.shuttered * 2 ^ 4 + b2n w.busy * 2 ^ 5 +
    w.lostCount * pow32)
  else if rel = 0x10 then w.arg
  else if rel = 0x18 then w.result
  else if 0x100 ≤ rel then (w.logwin.flatMap logWords).getD ((rel - 0x100) / 8) 0
  else 0

/-- ID_PART (R649). -/
def idPart (s : State) : W64 := w64 (0x5153 + 0x4B * 2 ^ 16 + memberK40 * 2 ^ 24 + s.gbl.stepping % 256 * pow32)

/-- ID_CONFIG of a K40 (R650). -/
def idConfig (s : State) : W64 := w64 (0x84C4B050028 + s.gbl.lifecycle % 8 * 2 ^ 44)

/-- GBL_STATE (R652). -/
def gblState (s : State) : W64 :=
  let g := s.gbl
  w64 (stateCode g.state + g.heldCause * 2 ^ 4 + s.pwr.current * 2 ^ 8 + b2n s.ldg.openStep.isSome * 2 ^ 12 +
    b2n s.ldg.sealedStep.isSome * 2 ^ 13 + g.quiesce * 2 ^ 14 + g.lastReset * 2 ^ 16 + g.resetSource * 2 ^ 18 +
    g.resets * pow32)

/-- The GBL block (R649 to R662). -/
def readGbl (s : State) (rel : Nat) : W64 :=
  let g := s.gbl
  if rel = 0 then idPart s
  else if rel = 8 then idConfig s
  else if rel = 0x10 then g.idFw
  else if rel = 0x20 then gblState s
  else if rel = 0x40 then g.event
  else if rel = 0x48 then g.eventEn
  else if rel = 0x50 then g.route
  else if rel = 0x58 then g.routeHi
  else if rel = 0x60 then g.msiMode
  else if rel = 0x68 then g.msiAddr
  else if rel = 0x80 then w64 (g.active * 2 ^ 4 + b2n g.refused * 2 ^ 7 + g.refusals * 2 ^ 8)
  else 0

/-- CTR_VALUE[n]: the counter alone, or the pair it leads (R612). -/
def ctrValue (k : Island) (n : Nat) : W64 :=
  w64 (mgetD k.value n 0 + (if isChained k n then mgetD k.value (n + 1) 0 * pow32 else 0))

/-- The island a block of the CTR_AGG window shows: the aggregates, or the snapshot while the view is frozen (R604). -/
def aggIsland (s : State) (i : Nat) : Island :=
  if s.ctr.frozen then mgetD s.ctr.snapshot i Island.zero else islandOf s i

/-- The CTR block (R612 to R614). -/
def readCtr (s : State) (rel : Nat) : W64 :=
  let c := s.ctr
  let k := islandOf s c.islSel
  if rel = 0 then w64 (ctrModeNo c.mode + c.skipped * pow32 + b2n c.refused * 2 ^ 63)
  else if rel = 8 then c.dumpBase
  else if rel = 0x10 then w64 c.period
  else if rel = 0x18 then w64 (b2n c.freeze + b2n c.frozen * 2)
  else if rel = 0x20 then pair32 c.seq c.sampleSeq
  else if rel = 0x30 then w64 (c.sample.toNat + c.dropped * 2 ^ 49)
  else if rel = 0x40 then w64 (c.islSel + k.cycles * 2 ^ 16)
  else if 0x80 ≤ rel ∧ rel < 0xC0 then w64 (evselOf k ((rel - 0x80) / 8))
  else if 0xC0 ≤ rel ∧ rel < 0x100 then w64 (mgetD k.thresh ((rel - 0xC0) / 8) 0)
  else if 0x100 ≤ rel ∧ rel < 0x140 then ctrValue k ((rel - 0x100) / 8)
  else if 0x1000 ≤ rel ∧ rel < 0x3100 then
    let i := (rel - 0x1000) / 128
    (islandBlock s i (aggIsland s i)).getD (rel % 128 / 8) 0
  else 0

/-- Streams stalled, in entries or waiting for one (R448). -/
def stalledStreams (s : State) : Nat :=
  let isStream := fun (x : FaultSource) => match x with
    | .stream _ _ => true
    | .admission _ => false
  s.flt.pend.foldl (fun n p => n + (p.2.srcs.filter isStream).length) (s.flt.raised.filter (fun f => isStream f.src)).length

/-- The FLT block (R444 to R448). -/
def readFlt (s : State) (rel : Nat) : W64 :=
  let f := s.flt
  if rel = 0 then f.base
  else if rel = 8 then w64 f.size
  else if rel = 0x10 then w64 f.head
  else if rel = 0x18 then w64 f.tail
  else if rel = 0x28 then w64 (b2n f.full + b2n f.pendFull * 2 + b2n f.badReply * 4 + b2n f.overdue * 8 + b2n f.refused * 16 +
    f.records * 2 ^ 16)
  else if rel = 0x30 then w64 (f.pend.length + f.recQ.length * 2 ^ 16 + stalledStreams s % 65536 * pow32)
  else 0

/-- Word `i` of a segment (R410). -/
def segWord (g : Seg) (i : Nat) : W64 :=
  match i with
  | 0 => g.base
  | 1 => g.last
  | 2 => g.phys
  | _ => g.flags

/-- The XLT block (R404 to R425). -/
def readXlt (s : State) (rel : Nat) : W64 :=
  let x := s.xlt
  let k := ctxOf s x.ctxSel
  if rel = 0 then w64 ((List.range 64).foldl (fun n c => n + b2n (ctxOf s c).ptMode * 2 ^ c) 0)
  else if rel = 8 then w64 (x.ctxSel + ctxRuns s x.ctxSel * 2 ^ 16)
  else if rel = 0x40 then k.root
  else if rel = 0x48 then k.ptfmt
  else if rel = 0x50 then w64 (b2n k.valid + bits k.winOfs 12 52 * 4096)
  else if rel = 0x88 then w64 (x.ackSeq + b2n x.inval.isSome * 2 ^ 4 + b2n x.refused * 2 ^ 5)
  else if 0x100 ≤ rel ∧ rel < 0x300 then segWord (mgetD k.segs ((rel - 0x100) / 32) Seg.zero) (rel % 32 / 8)
  else 0

/-- Flows that are full (R489). -/
def fullFlows (s : State) : Nat :=
  (s.qh.flows.filter (fun p => flowFull s p.2)).length + ((poolFlows s).filter (fullOf s)).length

/-- LIMIT and RESERVE of a flow (R457, R492). -/
def flowLimits (s : State) (f : Nat) : Nat × Nat :=
  if 8192 ≤ f then (if poolUp s then (256, 16) else (0, 0)) else ((flowOf s f).limit, (flowOf s f).reserve)

/-- The QH block (R350, R489 to R494). -/
def readQh (s : State) (rel : Nat) : W64 :=
  let q := s.qh
  let g := flowOf s q.flowSel
  if rel = 0 then w64 (commonFree s + reservedSum s * 2 ^ 24 + fullFlows s * 2 ^ 48)
  else if rel = 8 then w64 q.flowSel
  else if rel = 0x10 then
    w64 (flowKindNo (kindOf s q.flowSel) + b2n (cellsOf s q.flowSel == 0) * 2 ^ 3 + b2n (fullOf s q.flowSel) * 2 ^ 4 +
      b2n g.underrun * 2 ^ 5 + b2n g.overrun * 2 ^ 6 + b2n g.timeout * 2 ^ 7 + b2n g.shut * 2 ^ 8 +
      cellsOf s q.flowSel * 2 ^ 16 + g.gen * 2 ^ 40)
  else if rel = 0x18 then w64 ((flowLimits s q.flowSel).1 + (flowLimits s q.flowSel).2 * 2 ^ 24)
  else if rel = 0x20 then w64 (q.streamK + q.extK * 2 ^ 8 + b2n q.timeoutRefused * 2 ^ 63)
  else if rel = 0x28 then w64 (q.eccCorrected + q.eccUncorrectable * pow32)
  else if rel = 0x40 then w64 (q.splitRead + q.splitWrite * 2 ^ 4 + q.splitRemote * 2 ^ 8 + b2n q.splitRefused * 2 ^ 63)
  else 0

/-- The ASY block (R109 to R111). -/
def readAsy (s : State) (rel : Nat) : W64 :=
  let a := s.asy
  let c := mgetD a.counts a.sel AsyCounts.zero
  if rel = 0 then w64 a.sel
  else if rel = 8 then pair32 c.satRows c.satElems
  else if rel = 0x10 then w64 (c.escElems + c.escLost * 2 ^ 32 + c.nan * 2 ^ 48)
  else if rel = 0x18 then pair32 c.underRows c.underElems
  else if rel = 0x20 then c.sqerr
  else if rel = 0x28 then w64 c.elems
  else if rel = 0x30 then w64 (a.thresh + a.hitTid * pow32 + b2n a.hit * 2 ^ 63)
  else if rel = 0x38 then pair32 c.rescaled c.ownExp
  else if rel = 0x40 then pair32 c.replayBags c.replayPasses
  else 0

/-- A drop-log slot (R244). -/
def dropWord (d : DropRec) : W64 :=
  w64 (d.row + d.tid * 2 ^ 40 + b2n d.defkey * 2 ^ 52 + reasonNo d.reason * 2 ^ 53 + d.stepLo % 128 * 2 ^ 56 + 2 ^ 63)

/-- The largest D of a live table; 0 without one. -/
def largestDim (s : State) : Nat :=
  s.tables.foldl (fun n p => if p.2.destroying then n else max n p.2.dim) 0

/-- REGION_FULL of LDG_STATUS (R239). -/
def regionFull (s : State) : Bool :=
  largestDim s != 0 && (recordPlace s (largestDim s)).isNone

/-- Index entries of a step. -/
def entriesOf (s : State) (step : Option Nat) : Nat :=
  match step with
  | none => 0
  | some n => (s.ldg.entries.filter (fun e => e.step == n)).length

/-- The LDG block (R239 to R244, R294). PEN_KIB counts a KiB begun (assumption log 31). -/
def readLdg (s : State) (rel : Nat) : W64 :=
  let l := s.ldg
  let c := l.commit
  if rel = 0 then
    w64 (b2n l.openStep.isSome + b2n l.sealedStep.isSome * 2 + b2n l.sealing * 2 ^ 2 + b2n l.committing * 2 ^ 3 +
      b2n (decide (indexSize ≤ l.entries.length)) * 2 ^ 4 + b2n (regionFull s) * 2 ^ 5 + b2n l.penFull * 2 ^ 6 +
      b2n l.spilled * 2 ^ 7 + l.spillRecords * pow32)
  else if rel = 8 then pair32 l.openWas l.sealedWas
  else if rel = 0x10 then
    w64 (entriesOf s l.openStep + entriesOf s l.sealedStep * 2 ^ 24 + (penUsed s + 1023) / 1024 * 2 ^ 48)
  else if rel = 0x18 then w64 l.horizon
  else if rel = 0x20 then w64 (l.deferred + l.dropped * 2 ^ 24 + l.refused * 2 ^ 48)
  else if rel = 0x30 then
    w64 (phaseNo c.phase + b2n c.redo * 2 ^ 3 + b2n c.flushDone * 2 ^ 4 + min c.applied 0xFFFFFF * 2 ^ 8 +
      min c.promotedCount 65535 * 2 ^ 32 + min c.poisonSkip 65535 * 2 ^ 48)
  else if 0x100 ≤ rel ∧ rel < 0x300 then ((l.dropLog[(rel - 0x100) / 8]?).map dropWord).getD 0
  else 0

/-- The LRD block (R303, R313 to R315). -/
def readLrd (s : State) (rel : Nat) : W64 :=
  let l := s.lrd
  if rel = 0 then
    w64 (larderStateNo l.state + b2n l.planValid * 4 + b2n l.refresh.isSome * 8 + l.keptRefused * 2 ^ 8 +
      l.crierDiscarded * 2 ^ 32 + l.replicaDropped * 2 ^ 48)
  else if rel = 8 then l.plan
  else if rel = 0x10 then w64 (l.ceCount + l.ueCount * 2 ^ 24 + l.lastUe * 2 ^ 35)
  else if rel = 0x18 then w64 (l.repaired + l.minSpares * 2 ^ 16 + l.minChannel * 2 ^ 24 + b2n l.bistFail * 2 ^ 33)
  else 0

/-- The window of stack `n` (R338 to R345). No operation of the test port is in progress when a command is looked at. -/
def readHbm (s : State) (n rel : Nat) : W64 :=
  let h := stackOf s n
  if rel = 0 then w64 (stackStateNo h.state + h.height * 2 ^ 8 + h.rate * 2 ^ 16 + b2n h.poisonSeen * 2 ^ 24)
  else if rel = 8 then w64 (h.temp + h.thr1 * 2 ^ 8 + h.thr2 * 2 ^ 16 + h.maxTemp * 2 ^ 24)
  else if rel = 0x10 then
    w64 (h.level + b2n h.above1 * 2 ^ 3 + b2n h.above2 * 2 ^ 4 + h.throttleMs * 2 ^ 8 + b2n h.thr2Hit * 2 ^ 32)
  else if rel = 0x18 then w64 (h.ceCount + h.rateThresh * 2 ^ 32 + b2n h.rateHit * 2 ^ 63)
  else if rel = 0x20 then w64 (h.lastAddr + h.ueCount * 2 ^ 33 + h.poisonReads * 2 ^ 49)
  else if rel = 0x28 then w64 (h.repaired + h.atLimit * 2 ^ 16 + b2n h.trainFail * 2 ^ 24)
  else if rel = 0x30 then w64 (h.keepWays + b2n h.disable * 2 ^ 5)
  else if rel = 0x100 then
    w64 (h.tData.toNat + h.tLen * 2 ^ 32 + h.tInstr * 2 ^ 37 + h.tOp * 2 ^ 45 + b2n h.tRefused * 2 ^ 49)
  else 0

/-- The window of port `p` (R392 to R396). -/
def readSpn (s : State) (p rel : Nat) : W64 :=
  let n := s.span
  let k := portAt s p
  if rel = 0 then
    w64 (linkStateNo k.state + b2n k.spareUsed * 2 ^ 3 + k.spareFor * 2 ^ 4 + b2n k.wrongPeer * 2 ^ 7 + k.peerId * 2 ^ 8 +
      k.peerPort * 2 ^ 22 + b2n k.peerValid * 2 ^ 25 + k.peerMember * 2 ^ 26)
  else if rel = 8 then
    w64 (n.nodeId + b2n n.nodeValid * 2 ^ 14 + n.rdTimeout * 2 ^ 16 + n.foldHold * 2 ^ 24 + n.lateAnswers * 2 ^ 32 +
      n.crierGaps * 2 ^ 48)
  else if rel = 0x10 then w64 (k.corrected + k.uncorrectable * 2 ^ 32 + k.corrupt * 2 ^ 48 + k.misrouted * 2 ^ 56)
  else if rel = 0x18 then w64 (k.replays + k.linkDowns * 2 ^ 24 + k.recovered * 2 ^ 32 + k.unresolved * 2 ^ 40)
  else if rel = 0x20 then
    w64 ((List.range 8).foldl (fun a c => a + min (mgetD k.credit c 0 / 16) 255 * 2 ^ (8 * c)) 0)
  else 0

/-- A Mill of a column holds a bag, in work or saved. A bag whose finished token only waits to drain from the other tile holds
none: R158 does not say (DESIGN CHOICE, assumption log 41). -/
def Mill.holds (m : Mill) : Bool := m.work.isSome || m.saved.isSome

/-- The window of column `c` (R158, R159, R611). -/
def readMcl (s : State) (c rel : Nat) : W64 :=
  let k := colOf s c
  if rel = 0 then
    w64 (popCount k.active + colStateNo k.state * 2 ^ 8 + b2n (k.mills.any (fun p => p.2.holds)) * 2 ^ 10 +
      k.wait.length * 2 ^ 16 + waitRows k * 2 ^ 32)
  else if rel = 8 then pair32 k.good k.active
  else if rel = 0x10 then w64 (k.idleSel + mgetD k.idle k.idleSel 0 * 2 ^ 8 + b2n k.wrapped * 2 ^ 56)
  else 0

/-- The PWR block (R562, R566). -/
def readPwr (s : State) (rel : Nat) : W64 :=
  let p := s.pwr
  if rel = 0 then w64 (p.current + p.target * 2 ^ 3 + b2n p.busy * 2 ^ 6 + p.lastUs * 2 ^ 8)
  else if rel = 8 then
    w64 (p.islSel + p.minMargin * 2 ^ 8 + p.minIsland * 2 ^ 18 + b2n p.valid * 2 ^ 25 + p.lowThresh * 2 ^ 32 +
      b2n p.low * 2 ^ 63)
  else if 0x100 ≤ rel ∧ rel < 0x180 then
    let i := p.islSel * 16 + (rel - 0x100) / 8
    w64 (mgetD p.margins i 0 + mgetD p.initial i 0 * 2 ^ 32)
  else 0

/-! ## The index (R647) -/

/-- Blocks of the KCP window; the numbered ones are windows of 64 KiB. -/
inductive Block where
  | mbx | wch | gbl | sub | ctr | flt | xlt | qh | asy | ldg | lrd
  | hbm (n : Nat)
  | spn (p : Nat)
  | mcl (c : Nat)
  | pwr
  | none
  deriving DecidableEq, Repr

/-- The block of an offset of the window and the offset within it, of a whole register (R631). -/
def blockOf (off : Nat) : Block × Nat :=
  let a := off % 0x2000000 / 8 * 8
  let w := a % 0x10000
  if a < 0x10000 then (.mbx, a)
  else if a < 0x20000 then (.wch, w)
  else if a < 0x30000 then (.gbl, w)
  else if a < 0x40000 then (.sub, w)
  else if 0x100000 ≤ a ∧ a < 0x110000 then (.ctr, w)
  else if 0x200000 ≤ a ∧ a < 0x210000 then (.flt, w)
  else if 0x300000 ≤ a ∧ a < 0x310000 then (.xlt, w)
  else if 0x400000 ≤ a ∧ a < 0x410000 then (.qh, w)
  else if 0x500000 ≤ a ∧ a < 0x510000 then (.asy, w)
  else if 0x600000 ≤ a ∧ a < 0x610000 then (.ldg, w)
  else if 0x700000 ≤ a ∧ a < 0x710000 then (.lrd, w)
  else if 0x800000 ≤ a ∧ a < 0x8C0000 then (.hbm ((a - 0x800000) / 0x10000), w)
  else if 0xA00000 ≤ a ∧ a < 0xA80000 then (.spn ((a - 0xA00000) / 0x10000), w)
  else if 0xC00000 ≤ a ∧ a < 0xE80000 then (.mcl ((a - 0xC00000) / 0x10000), w)
  else if 0x1000000 ≤ a ∧ a < 0x1010000 then (.pwr, w)
  else (.none, w)

/-- What a KCP read of an offset returns while the KCP answers (R647); 0 at an unmapped offset (R12) and in the SUB window
(R648). -/
def regRead (s : State) (off : Nat) : W64 :=
  match blockOf off with
  | (.mbx, r) => readMbx s r
  | (.wch, r) => readWch s r
  | (.gbl, r) => readGbl s r
  | (.ctr, r) => readCtr s r
  | (.flt, r) => readFlt s r
  | (.xlt, r) => readXlt s r
  | (.qh, r) => readQh s r
  | (.asy, r) => readAsy s r
  | (.ldg, r) => readLdg s r
  | (.lrd, r) => readLrd s r
  | (.hbm n, r) => readHbm s n r
  | (.spn p, r) => readSpn s p r
  | (.mcl c, r) => readMcl s c r
  | (.pwr, r) => readPwr s r
  | (.sub, _) => 0
  | (.none, _) => 0

/-! ## Registers of the GBL block -/

/-- A write of GBL_EVENT: 1 clears a bit, and the lines are evaluated anew (R654, R655, R659). -/
def writeEvent (val : W64) (s : State) : State :=
  evalLines { s with gbl := { s.gbl with event := s.gbl.event &&& ~~~val } }

/-- GBL_EVENT_WRITE. -/
def execGblEventWrite (val : W64) (s : State) : Host.Outcome State Fault Refusal := kcpWrite s (writeEvent val)

/-- The bits that GBL_EVENT_EN keeps (R656). -/
def eventMask : W64 := 0x1FFFFF#64

/-- A write of GBL_EVENT_EN or a route register (R656, R657, R659). -/
def writeEventReg (off : Nat) (val : W64) (s : State) : State :=
  if off = 0x48 then evalLines { s with gbl := { s.gbl with eventEn := val &&& eventMask } }
  else if off = 0x50 then evalLines { s with gbl := { s.gbl with route := val } }
  else if off = 0x58 then evalLines { s with gbl := { s.gbl with routeHi := val &&& 0xFFFFF#64 } }
  else s

/-- GBL_EVENT_EN_WRITE: GBL_EVENT_EN at 0x0002_0048, GBL_EVENT_ROUTE at 0x0002_0050 or GBL_EVENT_ROUTE_HI at 0x0002_0058. -/
def execGblEventEnWrite (off : Nat) (val : W64) (s : State) : Host.Outcome State Fault Refusal :=
  kcpWrite s (writeEventReg (off % 0x10000) val)

/-- A write of GBL_MSI_ADDR: SEQ restarts on every line, and once VALID is 1 each pending message is sent (R658, R660). -/
def writeMsiAddr (val : W64) (s : State) : State :=
  let s := { s with gbl := { s.gbl with msiAddr := val &&& baseMask, msiSeq := [] } }
  if bit val 0 then s.gbl.msiPending.foldl (fun t n => sendMsi n t) s else s

/-- GBL_MSI_ADDR_WRITE. -/
def execGblMsiAddrWrite (val : W64) (s : State) : Host.Outcome State Fault Refusal := kcpWrite s (writeMsiAddr val)

/-- A write of GBL_MSI_MODE (R658). -/
def writeMsiMode (val : W64) (s : State) : State :=
  evalLines { s with gbl := { s.gbl with msiMode := val &&& 0xFFFF#64 } }

/-! ## Registers of the other blocks -/

/-- A write of ASY_TABLE_SEL: CLEAR zeroes every counter of the TID written in the same write (R108, R109). The saturations
that R112 counts in a Commit or load are no counter of R110 and stay. -/
def writeAsySel (val : W64) (s : State) : State :=
  let tid := bits val 0 12
  let s := { s with asy := { s.asy with sel := tid } }
  if bit val 63 then asyMod tid (fun a => { AsyCounts.zero with spans := a.spans }) s else s

/-- ASY_CLEAR: a write of ASY_TABLE_SEL with CLEAR = 1. -/
def execAsyClear (val : W64) (s : State) : Host.Outcome State Fault Refusal :=
  kcpWrite s (writeAsySel (val ||| 0x8000000000000000#64))

/-- A write of ASY_SAT_THRESH (R111). -/
def writeSatThresh (val : W64) (s : State) : State :=
  { s with asy := { s.asy with thresh := bits val 0 32, hit := s.asy.hit && !bit val 63 } }

/-- A write of LDG_LATE_POLICY (R242, R243): 0 leaves HORIZON; CLEAR zeroes the late counts and the drop log. -/
def writeLatePolicy (val : W64) (s : State) : State :=
  let h := bits val 0 8
  let s := { s with ldg := { s.ldg with horizon := if h = 0 then s.ldg.horizon else h } }
  if bit val 63 then { s with ldg := { s.ldg with deferred := 0, dropped := 0, refused := 0, dropLog := [] } } else s

/-- LDG_LATE_POLICY_WRITE. -/
def execLdgLatePolicyWrite (val : W64) (s : State) : Host.Outcome State Fault Refusal := kcpWrite s (writeLatePolicy val)

/-- A write of LDG_STATUS: PEN_FULL and SPILLED are cleared by 1 (R239). -/
def writeLdgStatus (val : W64) (s : State) : State :=
  { s with ldg := { s.ldg with penFull := s.ldg.penFull && !bit val 6, spilled := s.ldg.spilled && !bit val 7 } }

/-- A write of HBM_TEMP (R339): ignored where it would leave THR1 at or above THR2. -/
def writeHbmTemp (n : Nat) (val : W64) (s : State) : State :=
  let a := bits val 8 8
  let b := bits val 16 8
  if b ≤ a then s
  else stackMod n (fun h => { h with thr1 := a, thr2 := b, maxTemp := if bit val 63 then h.temp else h.maxTemp }) s

/-- HBM_TEMP_WRITE. -/
def execHbmTempWrite (stack : Nat) (val : W64) (s : State) : Host.Outcome State Fault Refusal :=
  if stack < 12 then kcpWrite s (writeHbmTemp stack val) else .next s

/-- A write of HBM_HINT_CFG (R326, R344): FLUSH invalidates every line of the slice, and no set keeps more KEEP lines than the
new KEEP_WAYS. -/
def writeHintCfg (n : Nat) (val : W64) (s : State) : State :=
  stackMod n (fun h =>
    let k := if 16 < bits val 0 5 then h.keepWays else bits val 0 5
    { h with keepWays := k, disable := bit val 5, cache := if bit val 8 then [] else limitKeep k h.cache }) s

/-- HBM_HINT_CFG_WRITE. -/
def execHbmHintCfgWrite (stack : Nat) (val : W64) (s : State) : Host.Outcome State Fault Refusal :=
  if stack < 12 then kcpWrite s (writeHintCfg stack val) else .next s

/-- A write of HBM_THROTTLE (R340). -/
def writeThrottle (n : Nat) (val : W64) (s : State) : State :=
  stackMod n (fun h => { h with thr2Hit := h.thr2Hit && !bit val 32 }) s

/-- A write of HBM_ECC_CE (R341). -/
def writeEccCe (n : Nat) (val : W64) (s : State) : State :=
  stackMod n (fun h => { h with rateThresh := bits val 32 16, rateHit := h.rateHit && !bit val 63 }) s

/-- The test port takes a command: the block is Held or the stack SHUTTERED, and a hard post-package repair only in Field-Debug
and Return (R335). -/
def testTakes (s : State) (n : Nat) (hard : Bool) : Bool :=
  (s.gbl.state == .held || (stackOf s n).state == .shuttered) && (!hard || s.gbl.lifecycle == 3 || s.gbl.lifecycle == 4)

/-- The fields of HBM_TEST1500 as a write leaves them (R345, R666). -/
def setTestFields (val : W64) (h : Stack) : Stack :=
  { h with
    tData := BitVec.ofNat 32 (bits val 0 32), tLen := bits val 32 5, tInstr := bits val 37 8, tOp := bits val 45 2,
    tRefused := h.tRefused && !bit val 49 }

/-- A write of HBM_TEST1500. GO = 1 starts OP: 1 loads INSTR into the wrapper, 2 shifts LEN_M1 + 1 bits of DATA and captures
as many; a command the port does not take is ignored and sets REFUSED (R335). Whether INSTR, or the instruction held for a
shift, is a hard repair one is `hard`: the wrapper's instruction set is the stack's. -/
def writeTest1500 (n : Nat) (val : W64) (hard : Bool) (captured : W32) (s : State) : State :=
  let op := bits val 45 2
  let runs := bit val 47 && (op == 1 || op == 2)
  if runs && !testTakes s n hard then stackMod n (fun h => { h with tRefused := true }) s
  else stackMod n (fun h =>
    let h := setTestFields val h
    if !runs then h
    else if op = 1 then { h with wrapper := bits val 37 8 }
    else { h with tData := BitVec.ofNat 32 (captured.toNat % 2 ^ (bits val 32 5 + 1)) }) s

/-- The value with OP and GO as the row names them. -/
def testValue (op : Nat) (val : W64) : W64 :=
  w64 (bits val 0 45 + op * 2 ^ 45 + 2 ^ 47 + b2n (bit val 49) * 2 ^ 49)

/-- TEST1500_LOAD_INSTR: a write with GO = 1 and OP = 1. -/
def execTest1500LoadInstr (stack : Nat) (val : W64) (hard : Bool) (s : State) : Host.Outcome State Fault Refusal :=
  if stack < 12 then kcpWrite s (writeTest1500 stack (testValue 1 val) hard 0) else .next s

/-- TEST1500_SHIFT_DATA: a write with GO = 1 and OP = 2; `captured` is what the stack's wrapper shifts out. A shift is never a
hard repair instruction itself; the instruction it serves was checked when it was loaded. -/
def execTest1500ShiftData (stack : Nat) (val : W64) (captured : W32) (s : State) : Host.Outcome State Fault Refusal :=
  if stack < 12 then kcpWrite s (writeTest1500 stack (testValue 2 val) false captured) else .next s

/-- A write of SPN_NODE_ID through any window: a 0 leaves RD_TIMEOUT (R392). The CO fields keep their value (R13). -/
def writeSpnNode (val : W64) (s : State) : State :=
  let t := bits val 16 8
  { s with span := { s.span with rdTimeout := if t = 0 then s.span.rdTimeout else t, foldHold := bits val 24 8 } }

/-- A write of PWR_MARGIN (R566). -/
def writePwrMargin (val : W64) (s : State) : State :=
  let i := bits val 0 7
  { s with pwr := { s.pwr with
    islSel := if 65 < i then s.pwr.islSel else i, lowThresh := bits val 32 10, low := s.pwr.low && !bit val 63 } }

/-- A write of XLT_CTX_SEL (R404). -/
def writeCtxSel (val : W64) (s : State) : State := { s with xlt := { s.xlt with ctxSel := bits val 0 6 } }

/-- A write of QH_FLOW_SEL (R490). -/
def writeFlowSel (val : W64) (s : State) : State := { s with qh := { s.qh with flowSel := bits val 0 14 } }

/-! ## CO registers (R518, R526) -/

/-- A CO register of the CTR block: of the island selected (R612). -/
def writeCoCtr (rel : Nat) (val : W64) (s : State) : Option State :=
  if 0x80 ≤ rel ∧ rel < 0xC0 then
    some (islandMod s.ctr.islSel (fun k => { k with evsel := mset k.evsel ((rel - 0x80) / 8) (bits val 0 15) }) s)
  else if 0xC0 ≤ rel ∧ rel < 0x100 then
    some (islandMod s.ctr.islSel (fun k => { k with thresh := mset k.thresh ((rel - 0xC0) / 8) (bits val 0 32) }) s)
  else none

/-- Word `i` of a segment written; reserved bits stay 0 (R11, R410). -/
def setSegWord (g : Seg) (i : Nat) (val : W64) : Seg :=
  match i with
  | 0 => { g with base := val &&& 0x00FFFFFFFFFFF000#64 }
  | 1 => { g with last := val &&& 0x00FFFFFFFFFFF000#64 }
  | 2 => { g with phys := val &&& 0xFFFFFFFFFFFFF000#64 }
  | _ => { g with flags := val &&& 0xF#64 }

/-- A CO register of the XLT block: of the context selected, XLT_MODE of all. -/
def writeCoXlt (rel : Nat) (val : W64) (s : State) : Option State :=
  let c := s.xlt.ctxSel
  if rel = 0 then some ((List.range 64).foldl (fun t i => ctxMod i (fun k => { k with ptMode := bit val i }) t) s)
  else if rel = 0x40 then some (ctxMod c (fun k => { k with root := val &&& 0x0003FFFFFFFFF001#64 }) s)
  else if rel = 0x48 then some (ctxMod c (fun k => { k with ptfmt := val &&& 0x1FFFFFFF#64 }) s)
  else if rel = 0x50 then
    some (ctxMod c (fun k => { k with valid := bit val 0, winOfs := val &&& 0xFFFFFFFFFFFFF000#64 }) s)
  else if 0x100 ≤ rel ∧ rel < 0x300 then
    some (ctxMod c (fun k => { k with
      segs := mmod k.segs ((rel - 0x100) / 32) Seg.zero (fun g => setSegWord g (rel % 32 / 8) val) }) s)
  else none

/-- QH_FLOW_LIMIT of the flow selected. The K40 keeps LIMIT 256 and RESERVE 16 for every stream-pool flow (R457). -/
def writeCoQh (rel : Nat) (val : W64) (s : State) : Option State :=
  if rel ≠ 0x18 then none
  else if 8192 ≤ s.qh.flowSel then some s
  else some (flowMod s.qh.flowSel (fun g => { g with limit := bits val 0 21, reserve := bits val 24 21 }) s)

/-- WRITE_CO: the CO fields of the register at an offset take the value; none where it holds no CO register. -/
def writeCoReg (off : Nat) (val : W64) (s : State) : Option State :=
  match blockOf off with
  | (.ctr, r) => writeCoCtr r val s
  | (.xlt, r) => writeCoXlt r val s
  | (.qh, r) => writeCoQh r val s
  | (.lrd, r) => if r = 8 then some { s with lrd := { s.lrd with plan := w64 (bits val 0 60) } } else none
  | (.spn _, r) =>
    if r = 8 then some { s with span := { s.span with nodeId := bits val 0 14, nodeValid := bit val 14 } } else none
  | _ => none

/-- The TAP's state as trst_n leaves it: held in Test-Logic-Reset while that is low (R643). No row of the command table
drives tck, tms or tdi (assumption log 50). -/
def tapState (s : State) : TapState := if s.gbl.trstLow then .testLogicReset else s.gbl.tap

/-- tdo drives, in Shift-DR and Shift-IR alone; it is high impedance without power or clock (R643, R646). -/
def tdoDrives (s : State) : Bool := kcpAlive s && (tapState s == .shiftDr || tapState s == .shiftIr)

end Sys2Proof.Machine
end

