-- ==== Sys2Proof/Machine/Mem.lean ====
section
/-! DEFINITION. The two memories' own events: thermal samples, refresh, patrols and uncorrectable words of the HBM stacks
and the Larder, and the path-delay samples (chapters "The Larder and the twelve stacks" and "Start-up, reset, wiping and
power"). -/

namespace Sys2Proof.Machine

open Sys2Proof

/-- The clocked islands run: not OFF, not in RETENTION (R557). -/
def islandsRun (s : State) : Bool := kcpAlive s && s.gbl.state != .retention

/-! ## HBM stacks -/

/-- The throttle level after a sample (R336). -/
def nextLevel (l temp thr1 thr2 : Nat) : Nat :=
  if thr2 ≤ temp then 6
  else if thr1 ≤ temp then (if l < 4 then l + 1 else if 4 < l then l - 1 else 4)
  else if temp + 3 < thr1 then l - 1
  else l

/-- A stack after its sample (R336, R339, R340); its 1 ms window of corrections starts anew (R333). -/
def Stack.sample (k : Stack) (temp : Nat) : Stack :=
  let l := nextLevel k.level temp k.thr1 k.thr2
  { k with
    level := l, above1 := decide (k.thr1 ≤ temp), above2 := decide (k.thr2 ≤ temp),
    thr2Hit := k.thr2Hit || decide (k.thr2 ≤ temp), throttleMs := if l = 0 then k.throttleMs else satAdd 24 k.throttleMs 1,
    temp := temp, maxTemp := max k.maxTemp temp, ceWindow := 0 }

/-- A stack's sample is taken. Stack 0's sample also closes the 1 ms windows of the Larder and the Queue Hall (R314, R452;
assumption log 33). -/
def takeSample (n temp : Nat) (s : State) : State :=
  let k := stackOf s n
  let s := stackMod n (fun k => k.sample temp) s
  let s := if n = 0 then { s with lrd := { s.lrd with ceWindow := 0 }, qh := { s.qh with eccWindow := 0 } } else s
  if k.thr2 ≤ temp ∧ k.temp < k.thr2 then raise evHbmThermal s else s

/-- HBM_THERMAL_SAMPLE. -/
def execHbmThermalSample (stack temp : Nat) (s : State) : Host.Outcome State Fault Refusal :=
  .next (if stack < 12 ∧ temp < 256 ∧ islandsRun s then takeSample stack temp s else s)

/-- HBM_REFRESH (R323): the bank's refresh is carried out before every wheel position; what it leaves is that it took place. -/
def execHbmRefresh (stack chan bank : Nat) (s : State) : Host.Outcome State Fault Refusal :=
  .next (if stack < 12 ∧ chan < 32 ∧ bank < 64 ∧ stackServes (stackOf s stack)
    then stackMod stack (fun k => { k with refreshes := mmod k.refreshes (chan * 64 + bank) 0 (· + 1) }) s else s)

/-- HBM_PATROL (R332): the patrol reads a codeword, with these symbols wrong; `written`, that the granule has been written
since, so that nothing is written back. -/
def execHbmPatrol (cw : Nat) (syms : List SymErr) (written : Bool) (s : State) : Host.Outcome State Fault Refusal :=
  .next (if !cwLive s cw then s
    else match cwVerdict syms with
      | .bad => hbmUe { cw := cw, syms := syms } written s
      | .read c wrong =>
        let s := if c then correctedHbm (hbmPlace (cw * 64)).1 s else s
        if written then s else flipCw cw wrong s)

/-- A Carter's read of a stream meets the codeword: the chunk is read, its elements on that codeword fail with
CS_UNCORRECTABLE (R329, R481). -/
def streamUe (e : CwErr) (carter ord stream : Nat) (s : State) : State :=
  if (badIn s (chunkRanges s ord stream) [e]).isEmpty then s else carterErrs carter ord stream [e] s

/-- A home's row read meets the codeword: it is answered with CS_UNCORRECTABLE (R129, R329, R331). -/
def homeReadUe (e : CwErr) (idx : Nat) (s : State) : State :=
  match s.span.homeReads[idx]? with
  | none => s
  | some h =>
    match mget s.tables h.key.tid with
    | none => s
    | some t =>
      if homeWaits s t h || (badIn s ((homeRanges s t h).map (fun r => (r.2.1, r.2.2))) [e]).isEmpty then s
      else serveRead idx h t [e] [] s

/-- A read of this K40's own structures meets the codeword uncorrectable, or poisoned before (R329 to R331): what it does to the
codeword's counts and marks, if it is either. -/
def meetOwn (e : CwErr) (s : State) : Option State :=
  if cwLive s e.cw then (if cwVerdict e.syms = .bad then some (hbmUe e false s) else none)
  else if e.cw ∈ s.poison then some (countPoisonRead e.cw s)
  else none

/-- A Day Book spill record is discarded (R235, R331). -/
def spillUe (e : CwErr) (idx : Nat) (s : State) : State :=
  match s.ldg.spills[idx]? with
  | none => s
  | some r =>
    if !meetsCw e.cw (spillAddr s r.place) (spillSize r) then s
    else match meetOwn e s with
      | none => s
      | some t => advance (raise evEccUncorrectable (loseSpill r t))

/-- A home map or ordinal table is damaged: its slot is unusable until the map is installed again, and the Clerk logs it
(R331). -/
def mapUe (e : CwErr) (slot : Nat) (s : State) : State :=
  match mget s.maps slot with
  | none => s
  | some m =>
    if !meetsCw e.cw m.loc mapBytes then s
    else match meetOwn e s with
      | none => s
      | some t => loseMap slot t

/-- HBM_READ_UNCORRECTABLE (R329 to R331): a read meets a codeword with some symbols wrong, or one poisoned before. -/
def execHbmReadUncorrectable (e : CwErr) (who : HbmReader) (s : State) : Host.Outcome State Fault Refusal :=
  .next (match who with
    | .homeRead idx => homeReadUe e idx s
    | .stream carter ord stream => if 48 ≤ carter || carterHeld s carter then s else streamUe e carter ord stream s
    | .homeMap slot => mapUe e slot s
    | .spillRecord idx => spillUe e idx s
    | .none => if cwLive s e.cw ∧ cwVerdict e.syms = .bad then hbmUe e false s else s)

/-! ## The Larder -/

/-- Blocks of the Larder (R295, R296): 24 GiB. -/
def larderBlocks : Nat := 402653184

/-- The Larder serves: tested and not in self-refresh (R313). -/
def larderServes (s : State) : Bool := s.lrd.state == .ready

/-- LARDER_PATROL (R298, R300): the patrol reads a word of a block with so many wrong bits; a correction is written back, an
uncorrectable word is poisoned for the next read. -/
def execLarderPatrol (block wrong : Nat) (s : State) : Host.Outcome State Fault Refusal :=
  .next (if larderBlocks ≤ block ∨ !larderServes s then s
    else match larderCheck block wrong with
      | 0 => s
      | 1 => correctedLarder 1 s
      | _ => { s with lrd := { s.lrd with poison := insAsc block s.lrd.poison } })

/-- A block lies in `n` blocks from a first one. -/
def blockIn (block first n : Nat) : Bool := decide (first ≤ block) && decide (block < first + n)

/-- The filter whose word for a key lies in a block takes the key's bit as set and keeps the block's word as it is (R273, R274,
R299). -/
def takeFilter (block : Nat) (key : RowKey) (s : State) : Option State :=
  let steps := s.ldg.sealedStep.toList ++ s.ldg.openStep.toList
  (steps.find? (fun n => filterBlock s n key == block)).map (fun n =>
    let s := setFilter key n s
    { s with lrd := { s.lrd with poison := insAsc block s.lrd.poison } })

/-- What a read of an uncorrectable word does to what it read, by region (table of R299); none where nothing of the kind lies
in the block. -/
def larderAct (block : Nat) (spot : LarderSpot) (s : State) : Option State :=
  match spot with
  | .hotCopy tid slot ix =>
    match mget s.tables tid with
    | none => none
    | some t =>
      let da := dirAddr (vslot t slot) ix
      match copyAt s tid slot da with
      | some c =>
        if blockIn block c.block (blocksOf c.bytes.length) then some (loseHotCopy tid slot da s) else none
      | none => none
  | .replica tid slot row =>
    let mine := fun (x : Replica) => x.tid == tid && x.slot == slot && x.row == row &&
      blockIn block x.block (replicaBlocks x.size)
    if s.lrd.replicas.any mine then some (loseReplicas mine s) else none
  | .indexBucket b =>
    if b < bucketCount s ∧ block = bucketBlock s b then some (loseReplicas (fun x => x.bucket == b) s) else none
  | .kept idx =>
    match s.lrd.kept[idx]? with
    | some x =>
      if blockIn block x.block (blocksOf x.size) then
        some { s with lrd := { s.lrd with kept := s.lrd.kept.filter (fun y => y.block != x.block) } }
      else none
    | none => none
  | .record pos =>
    let mine := fun (e : LEntry) => e.pos == pos && blockIn block (ledgerBase s + e.acb) (blocksOf (recordBytes e.acc.length))
    if s.ldg.entries.any mine then
      some { s with ldg := { s.ldg with entries := lmap s.ldg.entries mine (fun e => { e with bad := true }) } }
    else none
  | .pen idx =>
    match s.ldg.pen[idx]? with
    | some c =>
      if blockIn block (ledgerBase s + c.block) (blocksOf c.bytes) then
        some { s with ldg := { s.ldg with pen := s.ldg.pen.eraseIdx idx, dropped := satAdd 24 s.ldg.dropped 1 } }
      else none
    | none => none
  | .filter tid defkey row => takeFilter block { tid := tid, defkey := defkey, row := row } s
  | .none => some s

/-- LARDER_READ_UNCORRECTABLE (R299). -/
def execLarderReadUncorrectable (block : Nat) (spot : LarderSpot) (s : State) : Host.Outcome State Fault Refusal :=
  .next (if larderBlocks ≤ block ∨ !larderServes s then s
    else (larderAct block spot (larderUe block s)).getD s)

/-! ## Margins (R565, R566) -/

/-- The samples of one island's sixteen monitors. -/
def setMargins (m : AMap Nat) (x : MarginIn) : AMap Nat :=
  if x.island ≤ 65 then
    (List.range 16).foldl (fun m n => match x.margins[n]? with
      | some v => mset m (x.island * 16 + n) (v % 1024)
      | none => m) m
  else m

/-- The lowest sample and its island, the lower island at equal margins. -/
def lowestMargin : AMap Nat → Option (Nat × Nat)
  | [] => none
  | (k, v) :: r =>
    match lowestMargin r with
    | none => some (v, k / 16)
    | some (w, i) => if v ≤ w then some (v, k / 16) else some (w, i)

/-- The monitors are sampled: MIN_MARGIN, and MARGIN_LOW when it is below LOW_THRESH and LOW was clear (R565). -/
def sampleMargins (ins : List MarginIn) (s : State) : State :=
  let m := ins.foldl setMargins s.pwr.margins
  match lowestMargin m with
  | none => s
  | some (v, i) =>
    let fire := decide (v < s.pwr.lowThresh) && !s.pwr.low
    let s := { s with pwr := { s.pwr with
      margins := m, minMargin := v, minIsland := i, valid := true, low := s.pwr.low || fire } }
    if fire then raise evMarginLow s else s

/-- MARGIN_SAMPLE: in P0, P1 and P2 (R565). -/
def execMarginSample (ins : List MarginIn) (s : State) : Host.Outcome State Fault Refusal :=
  .next (if islandsRun s ∧ s.pwr.current < 3 then sampleMargins ins s else s)

end Sys2Proof.Machine
end

