-- ==== Sys2Proof/Machine/Shutter.lean ====
section
/-! DEFINITION. Shutters (R574 to R581, R591): taking a flow, table, column, Span port, stack, forwarding period or the data
plane out of service, gently or by force, and back. -/

namespace Sys2Proof.Machine

open Sys2Proof

/-! ## Targets -/

/-- How many targets a KIND has (R574). -/
def shutRange (kind : Nat) : Nat := [8192, 4096, 40, 8, 12, 16, 1].getD kind 0

/-- The target can be shuttered (R575). -/
def shutTarget (s : State) (kind num : Nat) : Bool :=
  decide (num < shutRange kind) && !shutterDone s kind num &&
    (match kind with
      | 0 => (flowOf s num).kind != .unused
      | 1 => (liveTable s num).isSome
      | 2 => (colOf s num).state != .failed
      | 4 => s.ldg.openStep.isNone && s.ldg.sealedStep.isNone
      | 5 => ((mget s.maps num).bind HomeMap.old).isSome
      | _ => true)

/-- A Shutter of this target. -/
def Shutter.at (kind num : Nat) (x : Shutter) : Bool := x.kind == kind && x.num == num

/-- Change the Shutter of a target. -/
def shutterMod (kind num : Nat) (f : Shutter → Shutter) (s : State) : State :=
  { s with shutters := lmap s.shutters (Shutter.at kind num) f }

/-- Add to count `i` of a running Shutter's REPORT (R580). -/
def shutAdd (kind num i n : Nat) (s : State) : State :=
  shutterMod kind num (fun x => { x with counts := mmod x.counts i 0 (fun c => satAdd 32 c n) }) s

/-! ## What a forced Shutter ends -/

/-- Bags of a Run that its early end fails (R150). -/
def bagsLost (r : Run) : Nat :=
  r.desc.nbags - (r.bags.filter (fun p => match (p.2.cut .shuttered (queuedOf r p.1)).state with
    | .failed _ => p.2.isOver
    | _ => true)).length

/-- End a Run with CS_SHUTTERED and count it. -/
def shutRun (kind num : Nat) (s : State) (r : Run) : State :=
  if r.ended.isSome then s
  else endRun r.ord .shuttered (shutAdd kind num 3 (bagsLost r) (shutAdd kind num 2 1 s))

/-- End a transfer with CS_SHUTTERED and count it. -/
def shutXfer (kind num : Nat) (s : State) (x : Xfer) : State :=
  if x.ended.isSome then s else endXfer x.ord .shuttered (shutAdd kind num 2 1 s)

/-- End the admitted Runs and transfers that pass a test. -/
def shutWork (kind num : Nat) (p : Run → Bool) (q : Xfer → Bool) (s : State) : State :=
  (s.qh.xfers.filter q).foldl (shutXfer kind num) ((s.qh.runs.filter p).foldl (shutRun kind num) s)

/-- Items of a flow end before they begin; admission writes their records in flow order. -/
def shutItems (n : Nat) (s : State) : State :=
  let fresh := fun (x : SubItem) => !x.replaced && !x.ended
  let s := shutAdd 0 n 4 ((flowOf s n).items.filter fresh).length s
  let s := leaveAdmission n { s with qh := { s.qh with parked := mdel s.qh.parked n } }
  flowMod n (fun g => { g with shutForced := true, items := lmap g.items fresh (fun x => { x with ended := true }) }) s

/-- A Run or transfer of a flow, or naming it. -/
def ofFlow (n : Nat) (r : Run) : Bool := r.subFlow == n || r.desc.flow == n

/-- The same of a transfer. -/
def xferOfFlow (n : Nat) (x : Xfer) : Bool := x.subFlow == n || x.desc.flow == n

/-- An open-step entry is discarded: one count in DROPPED and one drop-log slot for each slice (R235). -/
def discardEntry (s : State) (e : LEntry) : State :=
  (List.range (sliceCount e.acc.length)).foldl (fun t _ => dropPartial e.key e.step .shutter t)
    (shutAdd 1 e.key.tid 5 1 s)

/-- The open-step entries of a table are discarded. -/
def discardEntries (tid : Nat) (s : State) : State :=
  let mine := fun (e : LEntry) => e.key.tid == tid && s.ldg.openStep == some e.step
  let t := (s.ldg.entries.filter mine).foldl discardEntry s
  { t with ldg := { t.ldg with entries := t.ldg.entries.filter (fun e => !mine e) } }

/-- Bags a column has started, and those it holds in its wait list or for recomputation: Run and bag. -/
def startedBags (c : Column) : List (Nat × Nat) :=
  c.mills.flatMap (fun p => p.2.work.toList.map (fun w => (w.ord, w.bag)) ++
    p.2.token.toList.map (fun t => (t.1, t.2.1)) ++ p.2.saved.toList.map (fun w => (w.ord, w.bag))) ++
  c.wait.map (fun w => (w.ord, w.bag)) ++ c.redo

/-- Bags of a group that nothing has started. -/
def groupPending (r : Run) (g : Nat) : Bool := (groupBags r g).any (fun b => (bagOf r b).state == .pending)

/-- What a column has not started is handed again; the samples of those bags are taken anew (R122, R605). -/
def handBack (c : Nat) (s : State) : State :=
  let back := fun (r : Run) (g : Nat × GroupInfo) => r.ended.isNone && g.2.col == c && groupPending r g.1
  let gone := fun (x : Sample) => !x.done && (match runOf s x.ord with
    | some r => r.groups.any (fun g => back r g && g.1 == x.bag / 64) && (bagOf r x.bag).state == .pending
    | none => false)
  { s with
    qh := { s.qh with runs := s.qh.runs.map (fun r =>
      { r with groups := r.groups.map (fun g => if back r g then (g.1, { g.2 with col := 40 }) else g) }) }
    ctr := { s.ctr with samples := s.ctr.samples.filter (fun x => !gone x) } }

/-- A column flushes at once where the Ledger's input takes its local partials, and as soon as it does otherwise (R247). -/
def flushSoon (c : Nat) (s : State) : State :=
  if s.ldg.input.length + localPartials s (colOf s c) ≤ 4096 then flushColumn c s
  else colMod c (fun k => { k with flushDue := true }) s

/-- A column's started bags fail after a flush of its merge table (R237, R577). -/
def shutColumn (c : Nat) (s : State) : State :=
  let s := flushSoon c s
  let bags := startedBags (colOf s c)
  let s := bags.foldl (fun t b => afterBag b.1 (failBag b.1 b.2 .shuttered t)) (shutAdd 2 c 3 bags.length s)
  let s := dropReads (fun x _ => x == c) s
  handBack c (colMod c (fun k => { k with mills := [], wait := [], redo := [], pins := [], window := [] }) s)

/-- Columns that hold contributions flush (R577). -/
def flushAll (s : State) : State :=
  s.cols.foldl (fun t p => if p.2.merge.isEmpty && p.2.runSet.isEmpty then t else flushSoon p.1 t) s

/-- Rows of an INBOUND shard that are neither written nor failed (R591). -/
def unwrittenRows (s : State) (i : Inbound) : Nat :=
  match mget s.tables i.tid with
  | none => 0
  | some t =>
    let per := 2 ^ (t.hbits - 16)
    let rows := ((activeSlot t).map (fun k => (vslot t k).rows)).getD 0
    let later := (List.range (per - i.next)).filter (fun j => decide (unmixRow t (i.shard * per + i.next + j) < rows))
    (i.rows.filter (fun r => !r.written && !r.failed)).length + later.length

/-- A Run bound to the old epoch of a map slot (R591). -/
def boundToOld (s : State) (map : Nat) (r : Run) : Bool :=
  match mget s.maps map, mget s.tables r.desc.tid with
  | some m, some t => t.homeMap == map && (m.old.map (fun o => o.2 == r.epoch)).getD false
  | _, _ => false

/-- The INBOUND rows that are not written count as failed. -/
def failInbound (map : Nat) (s : State) : State :=
  match mget s.maps map with
  | none => s
  | some m =>
    let n := m.inbound.foldl (fun a i => a + unwrittenRows s i) 0
    mapMod map (fun m => { m with inbound := [] }) (fwdMod map (fun c => { c with rowsFailed := satAdd 32 c.rowsFailed n }) s)

/-- A forced Shutter ends the work in flight of its target (R577, R591). -/
def forceShut (kind num : Nat) (s : State) : State :=
  match kind with
  | 0 => shutWork 0 num (ofFlow num) (xferOfFlow num) (shutItems num s)
  | 1 => discardEntries num (shutWork 1 num (fun r => r.desc.tid == num) (fun _ => false)
      (tableMod num (fun t => { t with shut := some true }) s))
  | 2 => shutColumn num s
  | 3 =>
    let s := rerouteQueue num s
    if (portAt s num).unacked.isEmpty || (portAt s num).querying then s else askPeer num s
  | 5 => failInbound num (shutWork 5 num (boundToOld s num) (fun _ => false) s)
  | _ => shutWork kind num (fun _ => true) (fun _ => true) (flushAll s)

/-! ## Beginning -/

/-- A port leaves service (R364, R577); flits of one in RECOVER are settled at once, since it does not come UP again. -/
def shutPort (p : Nat) (s : State) : State :=
  let st := (portAt s p).state
  let s := portMod p (fun k => { k with state := .shuttering }) s
  if st = .up then linkChanged p s
  else if st = .recover ∧ !(portAt s p).unacked.isEmpty ∧ !(portAt s p).querying then askPeer p s
  else s

/-- The target stops accepting work (R577). -/
def stopTarget (kind num : Nat) (force : Bool) (s : State) : State :=
  match kind with
  | 0 => flowMod num (fun g => { g with shut := true }) s
  | 1 => tableMod num (fun t => { t with shut := some force }) s
  | 2 => colMod num (fun k => { k with state := .shuttering }) s
  | 3 => shutPort num s
  | 4 => stackMod num (fun k => { k with state := .shuttering }) s
  | _ => s

/-- A Shutter begins. -/
def beginShutter (kind num w1 : Nat) (force : Bool) (o : Owed) (s : State) : State :=
  let x : Shutter := { kind := kind, num := num, force := force, owners := [o], w1 := w1, counts := [], done := false }
  let s := stopTarget kind num force { s with shutters := s.shutters ++ [x] }
  if force then forceShut kind num s else s

/-- A Shutter joins one that runs for the same target; both get its REPORT, and a forced one makes it forced (R578). -/
def joinShutter (kind num : Nat) (force : Bool) (o : Owed) (x : Shutter) (s : State) : State :=
  let s := shutterMod kind num (fun x => { x with owners := x.owners ++ [o], force := x.force || force }) s
  if force && !x.force then forceShut kind num s else s

/-- Start a Shutter, or join the one that runs. -/
def startShutter (kind num w1 : Nat) (force : Bool) (o : Owed) (s : State) : State :=
  match s.shutters.find? (fun x => x.at kind num && !x.done) with
  | some x => joinShutter kind num force o x s
  | none => beginShutter kind num w1 force o s

/-- SHUTTER (R574 to R578, OP 0x0C01). -/
def execShutter (slot : Nat) (s : State) : Host.Outcome State Fault Refusal :=
  cmdStep 0x0C01 slot s (fun m s =>
    let w := arg m 1
    let kind := bits w 0 3
    let num := bits w 8 24
    if shutTarget s kind num then
      startShutter kind num (bits w 0 32) (bit w 3) { slot := slot, seq := m.seq, op := m.op } (accept slot m s)
    else postFinal slot m .badDescriptor [] s)

/-! ## Ending -/

/-- A bag of a Run that a column still has to finish. -/
def columnHas (c : Nat) (r : Run) : Bool :=
  r.ended.isNone && r.groups.any (fun g => g.2.col == c && (groupBags r g.1).any (fun b => !(bagOf r b).isOver))

/-- A column has finished the groups handed to it, and its merge table can be flushed (R577). -/
def columnReady (s : State) (c : Nat) : Bool :=
  let k := colOf s c
  (startedBags k).isEmpty && !s.qh.runs.any (columnHas c) &&
    (k.merge.isEmpty || decide (s.ldg.input.length + localPartials s k ≤ 4096))

/-- A port has sent and settled what it held (R577). -/
def portReady (s : State) (p : Nat) : Bool :=
  let k := portAt s p
  (queuedAll k).isEmpty && k.unacked.isEmpty && !k.querying

/-- What a Shutter waits for is over (R577, R591). -/
def shutterReady (s : State) (x : Shutter) : Bool :=
  match x.kind with
  | 0 => (flowOf s x.num).items.isEmpty && !s.qh.runs.any (ofFlow x.num) && !s.qh.xfers.any (xferOfFlow x.num)
  | 1 => !s.qh.runs.any (fun r => r.desc.tid == x.num)
  | 2 => columnReady s x.num
  | 3 => portReady s x.num
  | 5 => ((mget s.maps x.num).map (fun m => m.inbound.isEmpty)).getD true && !s.qh.runs.any (boundToOld s x.num)
  | _ => s.qh.runs.isEmpty && s.qh.xfers.isEmpty

/-- The forwarding counts of a map slot, by their place in the REPORT (R580). -/
def fwdFields (m : HomeMap) : AMap Nat :=
  [(8, m.counts.rowsOut), (9, m.counts.rowsIn), (10, m.counts.entriesOut), (11, m.counts.rowsFailed),
   (12, m.counts.partials), (13, m.counts.reads), (14, m.counts.epochDropped)]

/-- The counts of a REPORT with its target, its duration and what the forwarding period counted. -/
def finalCounts (s : State) (x : Shutter) (us : Nat) : AMap Nat :=
  let c := mset (mset x.counts 0 x.w1) 1 (min us (pow32 - 1))
  if x.kind = 5 then (((mget s.maps x.num).map fwdFields).getD []).foldl (fun a f => mset a f.1 f.2) c else c

/-- The payload of a Shutter's REPORT (R580). -/
def shutterReport (x : Shutter) : List W64 := words32 ((List.range 16).map (fun i => mgetD x.counts i 0))

/-- Post the REPORTs of the Shutters that are done and owe one; a forwarding period leaves nothing shuttered. -/
def reportShutters (s : State) : State :=
  let due := fun (x : Shutter) => x.done && !x.owners.isEmpty
  let s := (s.shutters.filter due).foldl (fun t x =>
    x.owners.foldl (fun u o => postReport o .ok 2 (shutterReport x) u) t) s
  let l := lmap s.shutters due (fun x => { x with owners := [] })
  { s with shutters := l.filter (fun x => !(x.kind == 5 && x.done)) }

/-- The drop of the reads that a closed forwarding period would repeat. -/
def dropRetries (map : Nat) (s : State) : State :=
  let other := fun (q : Req) => match q.purpose with
    | .migrate m _ _ _ => m != map
    | _ => true
  { s with span := { s.span with retry := s.span.retry.filter other } }

/-- The target reaches SHUTTERED (R576, R577). -/
def shutTo (kind num : Nat) (s : State) : State :=
  match kind with
  | 2 =>
    let k := colOf s num
    colMod num (fun k => { k with state := .shuttered })
      (if k.merge.isEmpty && k.runSet.isEmpty then s else flushColumn num s)
  | 3 => linkChanged num (portMod num (fun k => { k with state := .shuttered }) s)
  | 4 => stackMod num (fun k => { k with state := .shuttered }) s
  | 5 => dropRetries num (closeForwarding num s)
  | _ => s

/-- A Shutter is done: SHUTTER_DONE fires and the REPORT is posted, or waits for the Clerk (R523, R576). -/
def finishShutter (x : Shutter) (us : Nat) (s : State) : State :=
  let c := finalCounts s x us
  let s := shutTo x.kind x.num (shutterMod x.kind x.num (fun x => { x with counts := c, done := true }) s)
  let s := raise evShutterDone s
  if clerkRuns s then reportShutters s else s

/-- SHUTTER_DONE: the `idx`-th Shutter; `us` is the time since its acceptance in microseconds. -/
def execShutterDone (idx us : Nat) (s : State) : Host.Outcome State Fault Refusal :=
  match s.shutters[idx]? with
  | none => .next s
  | some x => .next (if !x.done && shutterReady s x then finishShutter x us s else s)

/-- A SHUTTERED target returns to service (R579). -/
def openTarget (kind num : Nat) (s : State) : State :=
  match kind with
  | 0 => flowMod num (fun g => { g with shut := false, shutForced := false }) s
  | 1 => tableMod num (fun t => { t with shut := none }) s
  | 2 => colMod num (fun k => { k with state := .enabled }) s
  | 3 => portMod num (fun k => { k with state := .down }) s
  | 4 => stackMod num (fun k => { k with state := .ready }) s
  | _ => s

/-- UNSHUTTER (R574, R579, OP 0x0C02). -/
def execUnshutter (slot : Nat) (s : State) : Host.Outcome State Fault Refusal :=
  cmdStep 0x0C02 slot s (fun m s =>
    let kind := bits (arg m 1) 0 3
    let num := bits (arg m 1) 8 24
    if kind = 5 ∨ !shutterDone s kind num ∨ (kind = 2 ∧ (colOf s num).state = .failed) then
      postFinal slot m .badDescriptor [] s
    else postFinal slot m .ok [] (openTarget kind num { s with shutters := s.shutters.filter (fun x => !x.at kind num) }))

end Sys2Proof.Machine
end

