-- ==== Sys2Proof/Machine/Resets.lean ====
section
/-! DEFINITION. Start-up, resets, self-test, wiping and the life-cycle (R531 to R555, R637 to R644, R662, R665, R673). -/

namespace Sys2Proof.Machine

open Sys2Proof

/-! ## Defaults, idle links -/

/-- The default plan (R307). -/
def defaultPlan : W64 := 0x00100084010040A0#64

/-- Flow 0 as every cold and recovery reset leaves it (R457). -/
def defaultFlow : Flow := { Flow.unused with kind := .runSubmit, limit := 256, reserve := 16 }

/-- What the Clerk sets up when a sequence ends: flow 0 and the Larder plan (step 6 of R532, R307). -/
def defaults (plan : W64) (s : State) : State :=
  { s with
    qh := { s.qh with flows := mset s.qh.flows 0 defaultFlow }
    lrd := { s.lrd with plan := plan, planValid := true }
    clerk := { s.clerk with cfgPlan := plan } }

/-- A port in a block state whose Span lanes are idle (R383, R529). A recovery that ran ends under R382 (R395). -/
def Port.lanesIdle (p : Port) : Port :=
  { p.drained with
    state := if p.state = .failed then .failed else if p.state = .shuttered then .shuttered else .down,
    queues := [], rxBytes := [], owed := [],
    unresolved := satAdd 8 p.unresolved (b2n (p.state == .recover || p.querying)) }

/-- Span lanes fall idle: what the ports hold is handled under R382. -/
def spanIdle (s : State) : State :=
  (List.range 8).foldl (fun t p =>
    let k := portAt t p
    let t := portMod p Port.lanesIdle t
    let t := if k.state = .up then linkChanged p t else t
    (k.unacked.map SentPkt.pkt ++ queuedAll k).foldl (fun u q => refusePacket q u) t) s

/-! ## Reset classes (R540 to R544, R653, R662) -/

/-- CLASS of GBL_RESET. -/
def ResetClass.code : ResetClass → Nat
  | .cold => 1
  | .recovery => 2
  | .clerkOnly => 3

/-- Strength of a class, cold the strongest (R543). -/
def ResetClass.rank : ResetClass → Nat
  | .cold => 3
  | .recovery => 2
  | .clerkOnly => 1

/-- The strength that a request must exceed: that of the reset in hold-off or sequence; a self-test, wipe or life-cycle
change refuses all but a cold reset (R543, R544). Power-up runs the cold sequence. -/
def rankActive (s : State) : Nat :=
  match s.gbl.seq with
  | .holdOff c _ => c.rank
  | .start 2 => 2
  | .start _ => 3
  | .selftest _ | .wipe _ | .lifecycle _ => 2
  | .idle | .heldDrain | .powerDrain _ => if s.gbl.active = 3 then 1 else 0

/-- A request is refused (R541, R543); REFUSALS counts writes of GBL_RESET. -/
def refuseReset (write : Bool) (s : State) : State :=
  { s with gbl := { s.gbl with refused := true, refusals := if write then satAdd 8 s.gbl.refusals 1 else s.gbl.refusals } }

/-! ### The three classes -/

/-- A port with nothing but what the surroundings drive. -/
def CdpPort.bare (c : CdpPort) : CdpPort := { CdpPort.down with sRdy := c.sRdy }

/-- The GBL block as a cold or recovery reset leaves it (R545, R653, R661, R662). -/
def Gbl.afterReset (g : Gbl) (cls : ResetClass) (source : Nat) : Gbl :=
  { g with
    state := .selftest, heldCause := 0, quiesce := 0, lastReset := cls.code, resetSource := source,
    resets := satAdd 16 g.resets 1, event := 0, active := cls.code, seq := .start cls.code }

/-- A cold reset takes hold (R540, R665): everything returns to reset but the fuses, the CSB store, the interrupt set-up and
what the surroundings drive. -/
def coldHold (source : Nat) (s : State) : State :=
  let g := s.gbl.afterReset .cold source
  evalLines (refreshReady { State.reset with
    pending := s.pending, gbl := { g with testFailed := false, sramFailed := 0 }
    pwr := { Pwr.reset with volts := s.pwr.volts, millMhz := s.pwr.millMhz, initial := s.pwr.initial }
    cdp := s.cdp.map (fun p => (p.1, p.2.bare)), wire := s.wire, spanWire := s.spanWire })

/-- The journal of the sealed step is complete, so a recovery reset keeps the step (R236, R291). -/
def sealedKept (s : State) : Bool :=
  s.ldg.sealedStep.isSome && (s.ldg.journal.map (fun j => j.flushDone && s.ldg.sealedStep == some j.step)).getD false

/-- Entries, tokens and contributors of a step: its index entries and its spill records (R236). -/
def stepCounts (s : State) (step : Option Nat) : Nat × Nat × Nat :=
  let es := s.ldg.entries.filter (fun e => step == some e.step)
  let rs := s.ldg.spills.filter (fun r => step == some r.step)
  (es.length + rs.length,
   es.foldl (fun n e => n + e.tokens) 0 + rs.foldl (fun n r => n + r.tokens) 0,
   es.foldl (fun n e => n + e.contrib) 0 + rs.foldl (fun n r => n + r.contrib) 0)

/-- Items that wait in submission flows. -/
def waitingItems (s : State) : Nat := s.qh.flows.foldl (fun n p => n + p.2.items.length) 0

/-- The recovery report (R549), as things stand when the reset takes hold. -/
def recReport (source : Nat) (s : State) : RecReport :=
  let kept := sealedKept s
  let o := stepCounts s s.ldg.openStep
  let q := if kept then (0, 0, 0) else stepCounts s s.ldg.sealedStep
  { sealedStep := s.ldg.sealedStep.getD 0, phase := if s.ldg.committing then phaseNo s.ldg.commit.phase else 0,
    sealedValid := s.ldg.sealedStep.isSome, sealedKept := kept, openValid := s.ldg.openStep.isSome,
    source := if source = 3 then 1 else 0, openStep := s.ldg.openStep.getD 0,
    runsLost := s.qh.runs.length + s.qh.xfers.length + waitingItems s,
    openEntries := o.1, openTokens := o.2.1, openContrib := o.2.2,
    sealedEntries := q.1, sealedTokens := q.2.1, sealedContrib := q.2.2 }

/-- The Ledger after a recovery reset: a sealed step whose journal is complete, with its spill records, and nothing else
(R236, R291). -/
def keptLedger (s : State) : Ledger :=
  if sealedKept s then
    let rs := s.ldg.spills.filter (fun r => s.ldg.sealedStep == some r.step)
    { Ledger.reset with
      sealedStep := s.ldg.sealedStep, sealedWas := s.ldg.sealedStep.getD 0, sealDone := true, journal := s.ldg.journal, spills := rs,
      filterSealed := rs.foldl (fun l r => if r.key ∈ l then l else l ++ [r.key]) [] }
  else Ledger.reset

/-- A shelf that no Run holds any more. -/
def ShelfInfo.released (i : ShelfInfo) : ShelfInfo := { i with retired := i.retired.map (fun _ => []) }

/-- A table with no Run left and no Shutter. -/
def Table.released (t : Table) : Table :=
  { t with
    shut := none,
    slot0 := { t.slot0 with refs := 0, used := t.slot0.used.map ShelfInfo.released },
    slot1 := { t.slot1 with refs := 0, used := t.slot1.used.map ShelfInfo.released } }

/-- Every table loses its Runs; a DRAINING slot and a DESTROYING table end (R39, R76). -/
def releaseTables (s : State) : State :=
  let s : State := { s with tables := s.tables.map (fun p => (p.1, p.2.released)) }
  s.tables.foldl (fun t p => settleSlot p.1 1 (settleSlot p.1 0 t)) s

/-- An entry with TIER = 1 or 2 returns to TIER = 0 where it is (R547); one with TIER = 3 stays (R58). -/
def groundEntry (s : State) (da : Nat) : State :=
  if (poisonedAt s da 16).isSome ∨ (readDir s da).tier = 3 then s else writeDir da { readDir s da with tier := 0, larder := 0 } s

/-- The directory pass of a recovery (R547); a rebuild whose rows have all moved is DONE (R281, R542). -/
def directoryPass (s : State) : State :=
  let s := s.moves.foldl (fun t m => if m.copied then finishMove m t else groundEntry t m.dirAddr) { s with moves := [] }
  let s := (s.lrd.copies.map LCopy.dirAddr).foldl groundEntry s
  settleRebuilds { s with lrd := { s.lrd with copies := [] } }

/-- A stack after a recovery reset: it keeps its training and its counts; its RW fields return to reset (R665). -/
def Stack.recovered (k : Stack) : Stack :=
  { k with
    state := if k.state = .shuttering ∨ k.state = .shuttered ∨ k.state = .selfRefresh then .ready else k.state,
    thr1 := 0x5A, thr2 := 0x64, thr2Hit := false, rateThresh := 0x100, rateHit := false, keepWays := 8, disable := false,
    tData := 0, tLen := 0, tInstr := 0, tOp := 0, tRefused := false, cache := [] }

/-- A column after a recovery reset: its Mills as the last self-test left them. -/
def Column.recovered (c : Column) : Column :=
  { Column.reset with good := c.good, active := c.active, state := if c.state = .failed then .failed else .enabled }

/-- A Span port after a recovery reset: DOWN, its statistics kept. -/
def Port.afterRecovery (p : Port) : Port :=
  { Port.reset with
    state := if p.state = .failed then .failed else .down, spareUsed := p.spareUsed, spareFor := p.spareFor,
    corrected := p.corrected, uncorrectable := p.uncorrectable, corrupt := p.corrupt, misrouted := p.misrouted,
    replays := p.replays, linkDowns := p.linkDowns, recovered := p.recovered, unresolved := p.unresolved }

/-- A request for a migrating row. -/
def Req.migrates (q : Req) : Bool :=
  match q.purpose with
  | .migrate _ _ _ _ => true
  | _ => false

/-- The Span blocks after a recovery reset: routes, Crier records and statistics kept, migration reads in flight asked for
again (R546). -/
def Span.recovered (n : Span) (node : Nat × Bool) : Span :=
  { Span.reset with
    nodeId := node.1, nodeValid := node.2, lateAnswers := n.lateAnswers, crierGaps := n.crierGaps,
    ports := n.ports.map (fun p => (p.1, p.2.afterRecovery)), groupRoute := n.groupRoute, memberRoute := n.memberRoute,
    gens := n.reqs.foldl (fun g q => mmod g (q.tag % 16384) 0 (fun k => (k + 1) % 64)) n.gens,
    retry := n.retry ++ n.reqs.filter Req.migrates, crier := n.crier, cseqOut := n.cseqOut }

/-- The command of a busy slot that a recovery reset will answer (R548). -/
def lostOf (s : State) (n : Nat) : Owed :=
  (s.clerk.lost.find? (fun o => o.slot == n)).getD { slot := n, seq := (msgOf s n).seq, op := (msgOf s n).op }

/-- REPORTs owed: those of accepted commands whose ACCEPTED is in the ring, and those posted and not written (R504, R548). -/
def owedAfter (s : State) : List Owed :=
  let sent := (s.mbx.respQ.filter (fun r => r.kind == 2 && r.op != 0)).map
    (fun r => ({ slot := r.slot, seq := r.seq, op := r.op } : Owed))
  let dark := fun (o : Owed) => s.mbx.respQ.any (fun r => r.kind == 1 && r.slot == o.slot && r.seq == o.seq && r.op == o.op)
  (s.clerk.lostOwed ++ sent ++ s.clerk.owed).filter (fun o => !dark o)

/-- A recovery reset takes hold (R236, R540, R545 to R548, R665). -/
def recoveryHold (source : Nat) (s : State) : State :=
  let report := recReport source s
  let s := directoryPass s
  let m := s.mbx
  let s := { s with
    gbl := s.gbl.afterReset .recovery source
    clerk := { Clerk.reset with
      log := s.clerk.log, logNext := s.clerk.logNext, lost := m.busy.map (lostOf s), lostOwed := owedAfter s,
      report := some (s.clerk.report.getD report), testReport := s.clerk.testReport, cfgNode := s.clerk.cfgNode,
      cfgPlan := s.clerk.cfgPlan }
    mbx := { m with slots := [], rung := [], taken := [], respQ := [], awaiting := [], refused := false, missed := 0 }
    wch := { s.wch with arg := 0, busy := false, beat := false }
    pwr := { Pwr.reset with
      lastUs := s.pwr.lastUs, volts := s.pwr.volts, millMhz := s.pwr.millMhz, initial := s.pwr.initial }
    xlt := Xlt.reset, flt := Flt.reset, qh := Qh.reset, asy := Asy.reset, ctr := Ctr.reset, shutters := []
    cdp := s.cdp.map (fun p => (p.1, p.2.bare))
    cols := s.cols.map (fun p => (p.1, p.2.recovered))
    ldg := keptLedger s
    lrd := { Larder.reset with
      state := if s.lrd.state = .retention then .ready else s.lrd.state, repaired := s.lrd.repaired, minSpares := s.lrd.minSpares,
      minChannel := s.lrd.minChannel, bistFail := s.lrd.bistFail }
    hbmStacks := s.hbmStacks.map (fun p => (p.1, p.2.recovered))
    span := s.span.recovered s.clerk.cfgNode }
  evalLines (refreshReady (asyReopen (releaseTables s)))

/-- A Clerk-only reset takes hold at once (R527, R540, R543, R615). -/
def clerkOnlyHold (source : Nat) (s : State) : State :=
  let scrapped := s.gbl.lifecycle = 5
  let s := { s with
    gbl := { s.gbl with
      lastReset := 3, resetSource := source, resets := satAdd 16 s.gbl.resets 1, active := if scrapped then 0 else 3 }
    clerk := { s.clerk with state := if scrapped then .notStarted else .booting, waiting := none }
    mbx := { s.mbx with missed := 0 }
    wch := { s.wch with beat := false }
    pwr := { s.pwr with slot := none }
    lrd := { s.lrd with refresh := none } }
  islandMod 63 (fun k => { k with value := [], seen := [] }) s

/-- A reset of the whole block takes hold. -/
def takeHold (cls : ResetClass) (source : Nat) (s : State) : State :=
  match cls with
  | .cold => coldHold source s
  | .recovery => recoveryHold source s
  | .clerkOnly => clerkOnlyHold source s

/-- The Larder and the stacks leave self-refresh (R544). -/
def wakeMemories (s : State) : State :=
  { s with
    lrd := { s.lrd with state := if s.lrd.state = .retention then .ready else s.lrd.state }
    hbmStacks := s.hbmStacks.map (fun p => (p.1, { p.2 with state := if p.2.state = .selfRefresh then .ready else p.2.state })) }

/-- A Watchman command that a reset overtakes has failed. -/
def dropDrain (s : State) : State :=
  if s.gbl.seq = .heldDrain then { s with wch := { s.wch with busy := false, result := w64 (5 + 6 * 2 ^ 8) } } else s

/-- The hold-off of a cold or recovery reset begins (R290, R542, R544). -/
def holdOffReset (cls : ResetClass) (source : Nat) (s : State) : State :=
  let s := wakeMemories (dropDrain s)
  refreshReady { s with gbl := { s.gbl with state := .quiescing, quiesce := 1, seq := .holdOff cls source } }

/-- A reset request (R541, R543): accepted, or refused against one as strong. -/
def requestReset (cls : ResetClass) (source : Nat) (write : Bool) (s : State) : State :=
  if cls.rank ≤ rankActive s then refuseReset write s
  else
    let s := { s with gbl := { s.gbl with refused := false, refusals := 0, active := cls.code } }
    if cls = .clerkOnly ∨ s.gbl.state = .selftest then takeHold cls source s else holdOffReset cls source s

/-- A write of GBL_RESET (R541, R662). -/
def writeGblReset (val : W64) (s : State) : State :=
  if bits val 48 16 ≠ 0x5AFE then refuseReset true s
  else match bits val 0 2 with
    | 1 => requestReset .cold 2 true s
    | 2 => requestReset .recovery 2 true s
    | 3 => requestReset .clerkOnly 2 true s
    | _ => refuseReset true s

/-- A written value with its CLASS as the command names it. -/
def withClass (n : Nat) (val : W64) : W64 := w64 (val.toNat / 4 * 4 + n)

/-- GBL_RESET_COLD. -/
def execGblResetCold (val : W64) (s : State) : Host.Outcome State Fault Refusal := kcpWrite s (writeGblReset (withClass 1 val))

/-- GBL_RESET_RECOVERY. -/
def execGblResetRecovery (val : W64) (s : State) : Host.Outcome State Fault Refusal := kcpWrite s (writeGblReset (withClass 2 val))

/-- GBL_RESET_CLERK_ONLY. -/
def execGblResetClerkOnly (val : W64) (s : State) : Host.Outcome State Fault Refusal := kcpWrite s (writeGblReset (withClass 3 val))

/-- CMB_RESET_REQUEST (R639, R644): as a pulse on rst_n. -/
def execCmbResetRequest (s : State) : Host.Outcome State Fault Refusal := kcpWrite s (requestReset .cold 4 false)

/-- FORCE_HELD's drain is over: the block is Held, HBM and Larder keep their contents (R526, R529). -/
def enterHeld (s : State) : State :=
  spanIdle (refreshReady { s with
    gbl := { s.gbl with state := .held, heldCause := s.gbl.heldCause ||| 4, quiesce := 0, seq := .idle }
    wch := { s.wch with busy := false, result := w64 (6 * 2 ^ 8) } })

/-- RESET_TAKE_HOLD (R290, R542, R653): the hold-off ends. An apply unit is one step of this model, so none is under way. -/
def execResetTakeHold (s : State) : Host.Outcome State Fault Refusal :=
  match s.gbl.seq with
  | .holdOff cls source => .next (takeHold cls source s)
  | .heldDrain => .next (enterHeld s)
  | _ => .next s

/-! ## The external inputs (R531, R637 to R641) -/

/-- The block without power: all is lost but the fuses and the CSB store (R5, R529, R638). -/
def powerLost (porLow clockLost : Bool) (s : State) : State :=
  { State.reset with
    pending := s.pending
    gbl := { Gbl.reset with
      state := .off, seq := .idle, porLow := porLow, clockLost := clockLost, rstLow := s.gbl.rstLow,
      lifecycle := s.gbl.lifecycle, stepping := s.gbl.stepping, uid := s.gbl.uid, rollback := s.gbl.rollback,
      ownerDigest := s.gbl.ownerDigest, bootCount := s.gbl.bootCount }
    pwr := { Pwr.reset with volts := s.pwr.volts, millMhz := s.pwr.millMhz, initial := s.pwr.initial }
    cdp := s.cdp.map (fun p => (p.1, p.2.bare)), wire := s.wire, spanWire := s.spanWire }

/-- POR_ASSERT (R543, R637, R638): every sequence stops at once. -/
def execPorAssert (s : State) : Host.Outcome State Fault Refusal := .next (powerLost true false s)

/-- POR_RELEASE (R531, R532): the power-up sequence starts. -/
def execPorRelease (s : State) : Host.Outcome State Fault Refusal :=
  .next (if s.gbl.porLow then
      { s with gbl := { s.gbl with porLow := false, state := .selftest, seq := .start 0 } }
    else s)

/-- REFCLK_LOSS (R637). -/
def execRefclkLoss (s : State) : Host.Outcome State Fault Refusal := .next (if s.gbl.porLow then s else powerLost false true s)

/-- RAIL_FAULT (R641). -/
def execRailFault (s : State) : Host.Outcome State Fault Refusal := .next (if s.gbl.porLow then s else powerLost false true s)

/-- RST_N_FALL (R639): a cold reset request. -/
def execRstNFall (s : State) : Host.Outcome State Fault Refusal :=
  .next (if s.gbl.rstLow then s
    else
      let s := { s with gbl := { s.gbl with rstLow := true } }
      if kcpAlive s then requestReset .cold 1 false s else s)

/-- RST_N_RELEASE (R639): the Clerk may boot. -/
def execRstNRelease (s : State) : Host.Outcome State Fault Refusal :=
  .next { s with gbl := { s.gbl with rstLow := false } }

/-! ## The Clerk starts again (R504, R508, R523, R548, R549) -/

/-- The payload of the recovery report (R549). -/
def recPayload (r : RecReport) : List W64 :=
  [w64 (r.sealedStep % pow32 + r.phase % 8 * 2 ^ 32 + b2n r.sealedValid * 2 ^ 35 + b2n r.sealedKept * 2 ^ 36 +
     b2n r.openValid * 2 ^ 37 + r.source * 2 ^ 38),
   pair32 r.openStep r.runsLost, w64 r.openEntries, w64 r.openTokens, w64 r.openContrib, w64 r.sealedEntries,
   w64 r.sealedTokens, w64 r.sealedContrib]

/-- Entries of the REPORT of a command (R504). -/
def reportEntries (op : Nat) : Nat := if op = 0x0A03 ∨ op = 0x0C01 then 2 else 1

/-- The FINAL response of a command that the Clerk lost (R523, R548). -/
def lostFinal (o : Owed) : Response :=
  { slot := o.slot, seq := o.seq, op := o.op, kind := 0, status := .resetLost, entries := 1, payload := [] }

/-- The REPORT of a command whose REPORT a recovery reset lost (R504). -/
def lostReport (o : Owed) : Response :=
  { slot := o.slot, seq := o.seq, op := o.op, kind := 2, status := .resetLost, entries := reportEntries o.op,
    payload := List.replicate (7 * reportEntries o.op) 0 }

/-- The recovery report as a response (R549). -/
def recResponse (r : RecReport) : Response :=
  { slot := 0, seq := 0, op := 0, kind := 2, status := .resetLost, entries := 2, payload := recPayload r }

/-- After a recovery reset: every slot that was busy is answered in doorbell order, then the REPORTs owed are posted, then the
recovery report (R548). -/
def answerLost (s : State) : State :=
  { s with
    mbx := { s.mbx with respQ := s.mbx.respQ ++ s.clerk.lost.map lostFinal ++ s.clerk.lostOwed.map lostReport ++
      (s.clerk.report.map recResponse).toList }
    clerk := { s.clerk with lost := [], lostOwed := [], report := none } }

/-- What becomes of a slot that the Clerk had taken and not answered: an accepted command keeps its ACCEPTED, any other is
answered CS_RESET_LOST (R523). -/
def resumeSlot (s : State) (n : Nat) : Response :=
  (s.mbx.respQ.find? (fun r => r.slot == n && r.kind == 1)).getD (lostFinal { slot := n, seq := (msgOf s n).seq, op := (msgOf s n).op })

/-- Post the REPORTs whose events fired while the Clerk did not run (R252, R504, R523). -/
def postFired (s : State) : State :=
  let s := if s.ldg.sealing then s else reportAll 0x0A02 1 [] s
  let s := if s.ldg.committing then s
    else reportAll 0x0A03 2 (commitReport s.ldg.commit) s
  let s := if s.gbl.state = .selftest then s
    else [0x0201, 0x0401, 0x0402].foldl (fun t op => reportAll op 1 s.clerk.testReport t) s
  reportShutters s

/-- A Clerk that starts again answers its mailboxes (R523); slots it had not taken wait as they are. -/
def resumeMailbox (s : State) : State :=
  let old := s.mbx.busy.filter (fun n => !(decide (n ∈ s.mbx.rung)) && !s.clerk.lost.any (fun o => o.slot == n))
  let mbx := { s.mbx with
    respQ := old.map (resumeSlot s) ++ s.mbx.respQ.filter (fun r => r.kind == 2), taken := [], awaiting := [] }
  postFired { s with mbx := mbx }

/-! ## Self-test, wipe, boot -/

/-- Parts of a SELFTEST mask: 0 names every part (R537). -/
def testParts (s : State) : Nat :=
  match s.gbl.seq with
  | .selftest m => if m = 0 then 15 else m
  | .wipe _ => 0
  | _ => 15

/-- Failing rows of a Larder channel. -/
def larderBad (r : BistResult) (c : Nat) : Nat := (r.larderRows.filter (fun x => x.1 == c)).foldl (fun n x => n + x.2) 0

/-- Some Larder channel has more failing rows than its 64 spares (R301). -/
def larderFails (r : BistResult) : Bool := (List.range 512).any (fun c => decide (64 < larderBad r c))

/-- The Larder's result: failing rows take the 64 spare rows of their channel, and a channel with more of them fails (R301,
R315). -/
def testLarder (r : BistResult) (s : State) : State :=
  let left := (List.range 512).map (fun c => 64 - larderBad r c)
  let low := left.foldl min 64
  { s with lrd := { s.lrd with
    state := if larderFails r then .failed else .ready, repaired := left.foldl (fun n k => n + (64 - k)) 0,
    minSpares := low, minChannel := left.findIdx (· == low), bistFail := larderFails r } }

/-- A stack that training brought up and the K40 supports (R316, R334). -/
def siteGood (x : StackTrain) : Bool :=
  !x.fail && decide (x.height ∈ [8, 12, 16]) && decide (1 ≤ x.capacity) && decide (x.capacity ≤ 48) && decide (64 ≤ x.rate) &&
    decide (x.rate ≤ 80)

/-- Twelve stacks of one height, one capacity and one rate (R317). -/
def sitesAlike (l : List StackTrain) : Bool :=
  l.length == 12 && l.all (fun x => l.all (fun y => x.height == y.height && x.capacity == y.capacity && x.rate == y.rate))

/-- The stacks' results (R316, R317, R334): sites that differ, an empty site or a stack that R316 does not give fail the
self-test; TRAIN_FAIL shows training alone (R343). -/
def testStacks (r : BistResult) (s : State) : State :=
  (List.range 12).foldl (fun t n =>
    let x := r.hbm.getD n { fail := true, height := 0, capacity := 0, rate := 0, repaired := 0, atLimit := 0 }
    stackMod n (fun k => { k with
      state := if siteGood x && sitesAlike r.hbm then .ready else .failed, height := x.height % 32, rate := x.rate % 256,
      capacity := x.capacity % 64, repaired := x.repaired % 512, atLimit := x.atLimit % 128, trainFail := x.fail }) t) s

/-- Interface training runs (R334, R338). -/
def startTraining (s : State) : State :=
  (List.range 12).foldl (fun t n => stackMod n (fun k => { k with state := .training }) t) s

/-- The lowest `n` bits set in a map. -/
def lowestBits (n map : Nat) : Nat :=
  (((List.range 32).filter (fun i => map.testBit i)).take n).foldl (fun a i => a + 2 ^ i) 0

/-- The Mills' results (R155 to R157). -/
def testMills (r : BistResult) (s : State) : State :=
  (List.range 40).foldl (fun t c =>
    let good := r.millsGood.getD c 0 % pow32
    let active := lowestBits 30 good
    colMod c (fun k => { k with good := good, active := active, state := if active = 0 then .failed else .enabled }) t) s

/-- The results of the parts tested. -/
def applyTest (parts : Nat) (r : BistResult) (s : State) : State :=
  let s := if parts.testBit 0 then testLarder r s else s
  let s := if parts.testBit 1 then testStacks r s else s
  let s := if parts.testBit 2 then testMills r s else s
  if parts.testBit 3 then { s with gbl := { s.gbl with sramFailed := r.sramFail % 32 } } else s

/-- Stacks that failed, as a mask. -/
def stacksFailed (s : State) : Nat :=
  (List.range 12).foldl (fun a n => a + (if (stackOf s n).state = .failed then 2 ^ n else 0)) 0

/-- Active Mills of each column. -/
def activeCounts (s : State) : List Nat := (List.range 40).map (fun c => popCount (colOf s c).active)

/-- RESULT of R538. -/
def testResult (s : State) : Nat :=
  b2n (s.lrd.state == .failed) + 2 * b2n (stacksFailed s != 0) + 4 * b2n ((activeCounts s).any (· == 0)) +
    8 * b2n (s.gbl.sramFailed != 0)

/-- The payload of the REPORT of SELFTEST, WIPE and LIFECYCLE (R538). -/
def testPayload (parts ms : Nat) (s : State) : List W64 :=
  let cs := activeCounts s
  words32 [testResult s, parts, s.lrd.repaired, s.lrd.minSpares,
    (List.range 12).foldl (fun n i => n + (stackOf s i).repaired) 0, stacksFailed s, cs.foldl (· + ·) 0,
    (cs.filter (fun n => decide (1 ≤ n) && decide (n ≤ 29))).length, (cs.filter (· == 0)).length, s.gbl.sramFailed, ms]

/-- A column whose Mills hold nothing. -/
def Column.wiped (c : Column) : Column :=
  { Column.reset with
    good := c.good, active := c.active, state := if c.active = 0 ∧ c.state = .failed then .failed else .enabled,
    idle := c.idle, idleSel := c.idleSel, wrapped := c.wrapped }

/-- A wipe (R550, R551): every memory is zero. The registers of RW and RO fields that are no memory, the mailbox ring with what
waits for it, the fuses and the CSB store stay. REPORTs owed by other commands are owed as after a reset. -/
def wipeAll (s : State) : State :=
  let mine := fun (o : Owed) => o.op ∈ [0x0201, 0x0401, 0x0402]
  { s with
    clerk := { Clerk.reset with
      state := s.clerk.state, stopped := s.clerk.stopped, owed := s.clerk.owed.filter mine, lost := s.clerk.lost,
      lostOwed := s.clerk.lostOwed ++ s.clerk.owed.filter (fun o => !mine o), report := s.clerk.report,
      testReport := s.clerk.testReport }
    tables := [], templates := [], maps := [], moves := [], hbm := [], poison := [], shutters := []
    xlt := { s.xlt with ctxs := [], cache := [], inval := none, invalActive := false }
    flt := { s.flt with pend := [], gens := [], recQ := [], raised := [] }
    qh := { s.qh with flows := [], sub := [], runs := [], xfers := [], parked := [] }
    cols := s.cols.map (fun p => (p.1, p.2.wiped))
    ldg := { Ledger.reset with
      horizon := s.ldg.horizon, deferred := s.ldg.deferred, dropped := s.ldg.dropped, refused := s.ldg.refused,
      dropLog := s.ldg.dropLog, penFull := s.ldg.penFull, spilled := s.ldg.spilled }
    asy := { s.asy with counts := [] }
    lrd := { s.lrd with plan := 0, planValid := false, refresh := none, poison := [], copies := [], replicas := [], kept := [],
                              retired := [] }
    hbmStacks := s.hbmStacks.map (fun p => (p.1, { p.2 with
      cache := [], state := if p.2.state = .shuttering ∨ p.2.state = .shuttered then .ready else p.2.state }))
    span := { s.span with
      nodeId := 0, nodeValid := false, ports := s.span.ports.map (fun p => (p.1, p.2.afterRecovery)), groupRoute := [],
      memberRoute := [], reqs := [], partialQ := [], homeReads := [], retry := [], crier := [], cseqOut := [], cseqIn := [],
      marks := [], absentFired := [] }
    ctr := { s.ctr with samples := [] } }

/-- Slots the Clerk had taken when its memory was wiped are answered CS_RESET_LOST (R523). -/
def loseTaken (s : State) : State :=
  let rs := s.mbx.taken.map (fun t => respOf t.slot t.msg 0 .resetLost [])
  { s with mbx := { s.mbx with respQ := s.mbx.respQ ++ rs, taken := [] } }

/-- ID_FW of a verified image (R651). -/
def idFwOf (i : ImageHdr) : W64 :=
  w64 (i.build % 65536 + i.minor % 256 * 2 ^ 16 + i.major % 256 * 2 ^ 24 + i.secver % 65536 * 2 ^ 32 + 2 ^ 48)

/-- A Clerk boot is due: in a start sequence, after a Clerk-only reset, and at the end of the wipe of WIPE and LIFECYCLE; none
while rst_n is low or the block is Scrapped (R532, R540, R551, R552, R555, R639). -/
def bootDue (s : State) : Bool :=
  kcpAlive s && !s.gbl.rstLow && s.gbl.lifecycle != 5 &&
    (s.clerk.state == .booting || (match s.gbl.seq with
      | .start _ => s.clerk.state == .notStarted
      | .wipe done => !done
      | .lifecycle done => !done
      | _ => false))

/-- The wipe that ends with this boot, if one does; the sequence goes on with the parts' tests. -/
def bootWipe (s : State) : State :=
  match s.gbl.seq with
  | .wipe false => let t := wipeAll s; { t with gbl := { t.gbl with seq := .wipe true } }
  | .lifecycle false => let t := wipeAll s; { t with gbl := { t.gbl with seq := .lifecycle true } }
  | _ => s

/-- The image is accepted: ID_FW, the log entry of R535, and the mailboxes. -/
def bootGood (i : ImageHdr) (s : State) : State :=
  let stopped := s.clerk.stopped
  let s := { s with
    gbl := { s.gbl with idFw := idFwOf i }
    clerk := { s.clerk with state := .running, stopped := false } }
  let a := Config.logPack 0x0001 [s.gbl.uid.toNat]
  let s := logAdd 0x0001 a.1 a.2 s
  let s := if stopped then logOpen 0 0 s else s
  match s.gbl.seq with
  | .start _ => refreshReady s
  | _ => resumeMailbox (answerLost s)

/-- The sequence goes on to step 3 when the boot of a power-up, a cold reset or a life-cycle change has ended, and the stacks
train (R532, R533). -/
def afterBoot (s : State) : State :=
  match s.gbl.seq with
  | .start c => if c = 2 then s else startTraining s
  | .lifecycle _ => startTraining s
  | _ => s

/-- CLERK_SECURE_BOOT (R519, R534, R535, R651, R673): the CSB's verdict on an image and its header; the boot count is raised
first, and an image below the rollback counter is refused. -/
def execClerkSecureBoot (ok : Bool) (img : ImageHdr) (s : State) : Host.Outcome State Fault Refusal :=
  .next (if !bootDue s then s
    else
      let s := bootWipe s
      let s := { s with gbl := { s.gbl with bootCount := min (s.gbl.bootCount + 1) (pow32 - 1) } }
      if ok && decide (s.gbl.rollback ≤ img.secver % 65536) then afterBoot (bootGood img s)
      else
        afterBoot <| refreshReady { s with
          gbl := { s.gbl with active := if s.gbl.active = 3 then 0 else s.gbl.active }
          clerk := { s.clerk with state := .bootFailed } })

/-- The boot of a start sequence has ended, or there is none (R533, R552, R639). -/
def bootOver (s : State) : Bool :=
  (s.clerk.state != .notStarted && s.clerk.state != .booting) || (s.gbl.lifecycle == 5 && !s.gbl.rstLow)

/-- HELD_CAUSE as the failures that stand give it (R533, R536, R552, R652). -/
def heldCauses (s : State) : Nat :=
  b2n s.gbl.testFailed + 2 * b2n (s.clerk.state == .bootFailed) + 8 * b2n (s.gbl.lifecycle == 5)

/-- A sequence ends in READY or HELD and SELFTEST_DONE fires (R533, R545). -/
def endSequence (s : State) : State :=
  let c := heldCauses s
  let g := { s.gbl with
    state := if c = 0 then .ready else .held, heldCause := c, quiesce := 0, seq := .idle, active := 0 }
  raise evSelftestDone (refreshReady { s with gbl := g })

/-- RECOVERY_COMPLETE (R307, R536, R546 to R549). -/
def execRecoveryComplete (s : State) : Host.Outcome State Fault Refusal :=
  .next (if s.gbl.seq = .start 2 ∧ bootOver s then
      let s := if clerkRuns s then defaults (if s.clerk.cfgPlan = 0 then defaultPlan else s.clerk.cfgPlan) s else s
      let s := endSequence s
      settle (if clerkRuns s then answerLost s else s)
    else s)

/-- A sequence whose tests can end: a start after its boot, a self-test, or a wipe after its boot; a life-cycle change to
Scrapped starts no Clerk. -/
def testsDue (s : State) : Bool :=
  match s.gbl.seq with
  | .start 2 => false
  | .start _ => bootOver s
  | .selftest _ => true
  | .wipe done => done
  | .lifecycle done => done || s.gbl.lifecycle == 5
  | _ => false

/-- Step 5 where this command carries it out: of a self-test, and of a change to Scrapped, which ends the Clerk (R537, R552). -/
def stepFive (s : State) : State :=
  match s.gbl.seq with
  | .selftest _ => wipeAll (loseTaken s)
  | .lifecycle false =>
    let t := wipeAll (loseTaken s)
    { t with clerk := { t.clerk with state := .notStarted } }
  | _ => s

/-- SELFTEST_SEQUENCE_DONE (R301, R334, R155, R317, R532, R533, R536 to R539, R551, R555): steps 3 to 6. -/
def execSelftestSequenceDone (res : BistResult) (s : State) : Host.Outcome State Fault Refusal :=
  .next (if !testsDue s then s
    else
      let parts := testParts s
      let s := applyTest parts res (stepFive s)
      let failed := testResult s % 4 != 0 || s.gbl.sramFailed != 0
      let s := { s with gbl := { s.gbl with testFailed := failed } }
      let s := if clerkRuns s then defaults defaultPlan s else s
      let s := { s with
        pwr := { s.pwr with current := 0, target := 0, busy := false, slot := none }
        clerk := { s.clerk with testReport := testPayload parts res.durationMs s } }
      let s := endSequence s
      if clerkRuns s then [0x0201, 0x0401, 0x0402].foldl (fun t op => reportAll op 1 s.clerk.testReport t) s else s)

/-! ## The commands SELFTEST, WIPE and LIFECYCLE -/

/-- The block enters SELFTEST for a command (R529, R646). -/
def enterSelftest (q : Sequence) (s : State) : State :=
  spanIdle (refreshReady { s with gbl := { s.gbl with state := .selftest, heldCause := 0, seq := q } })

/-- The stacks train if the self-test tests them (R334, R537). -/
def trainTested (s : State) : State := if (testParts s).testBit 1 then startTraining s else s

/-- SELFTEST (R537, OP 0x0201). -/
def execSelftest (slot : Nat) (s : State) : Host.Outcome State Fault Refusal :=
  cmdStep 0x0201 slot s (fun m s => trainTested (enterSelftest (.selftest (bits (arg m 1) 0 4)) (accept slot m s)))

/-- WIPE (R551, OP 0x0401). -/
def execWipe (slot : Nat) (s : State) : Host.Outcome State Fault Refusal :=
  cmdStep 0x0401 slot s (fun m s => enterSelftest (.wipe false) (accept slot m s))

/-- The changes of R553, and whether each needs a signature. -/
def lifecycleChange (was now : Nat) : Option Bool :=
  if (was, now) ∈ [(0, 1), (1, 2), (2, 3), (2, 4), (3, 4)] then some true
  else if (was, now) = (3, 2) ∨ (was ≠ 5 ∧ now = 5) then some false
  else none

/-- The fields of a token agree with the block (R554, R555, R673). -/
def tokenOk (s : State) (target : Nat) (bs : List Byte) : Bool :=
  fieldAt bs 0 2 == 0x4C43 && fieldAt bs 2 6 == target + s.gbl.lifecycle * 8 &&
    fieldAt bs 8 8 == s.gbl.bootCount && decide (s.gbl.bootCount < pow32 - 1) && fieldAt bs 16 16 == s.gbl.uid.toNat &&
    (target == 1 || fieldAt bs 32 48 == 0)

/-- LIFECYCLE (R553 to R555, OP 0x0402): `sigOk` is the CSB's verdict on the signature by the key the change names. -/
def execLifecycle (slot : Nat) (v : ChipView) (sigOk : Bool) (s : State) : Host.Outcome State Fault Refusal :=
  cmdStep 0x0402 slot s (fun m s =>
    let target := bits (arg m 1) 0 3
    match lifecycleChange s.gbl.lifecycle target with
    | none => postFinal slot m .badDescriptor [] s
    | some signed =>
      match clerkRead s v m.ctx (bits (arg m 2) 0 56) 176 with
      | .error e => postFinal slot m e [] (noteClerk v m.ctx (bits (arg m 2) 0 56) 176 s)
      | .ok bs =>
        if !tokenOk s target bs ∨ (!signed ∧ fieldAt bs 80 96 ≠ 0) then postFinal slot m .badDescriptor [] s
        else if signed && !sigOk then postFinal slot m .perm [] s
        else
          let digest := if target = 1 then BitVec.ofNat 384 (fieldAt bs 32 48) else s.gbl.ownerDigest
          enterSelftest (.lifecycle false) (accept slot m { s with gbl := { s.gbl with
            lifecycle := target, ownerDigest := digest } }))

end Sys2Proof.Machine
end

