-- ==== Sys2Proof/Machine/Power.lean ====
section
/-! DEFINITION. Power states and the operating point (R556 to R568): POWER_STATE and its end, MARGIN_REPORT, REPLAN. -/

namespace Sys2Proof.Machine

open Sys2Proof

/-! ## POWER_STATE (R556 to R562) -/

/-- A change of power state may start (R558): P3 and Off from READY alone, from RETENTION P0 and P1 alone. -/
def powerAllowed (s : State) (target : Nat) : Bool :=
  decide (target ≤ 4) && (decide (target < 3) || s.gbl.state == .ready) && (s.gbl.state != .retention || decide (target < 2))

/-- The transition starts; its command is answered at its end (R560). -/
def startTransition (slot target : Nat) (s : State) : State :=
  let s := holdTaken slot { s with pwr := { s.pwr with target := target, busy := true, slot := some slot } }
  if target < 3 then s
  else refreshReady { s with gbl := { s.gbl with state := .quiescing, quiesce := 3, seq := .powerDrain target } }

/-- Answer a command that keeps its place while the transition runs. -/
def answerTaken (slot : Nat) (st : Status) (s : State) : State :=
  match s.mbx.taken.find? (fun t => t.slot == slot) with
  | some t => postFinal slot t.msg st [] (untake slot s)
  | none => s

/-- POWER_STATE (R557, R558, OP 0x0301). A transition that has lost its command ends first. -/
def execPowerState (slot : Nat) (s : State) : Host.Outcome State Fault Refusal :=
  match takenCmd s 0x0301 slot isSlow with
  | none => .next s
  | some t =>
    let target := bits (arg t.msg 1) 0 3
    .next (if s.pwr.busy then s
      else if target = s.pwr.current then answerTaken slot .ok s
      else if !powerAllowed s target then answerTaken slot .badDescriptor s
      else startTransition slot target s)

/-- A transition's own registers at its end (R562). -/
def endTransition (us : Nat) (s : State) : State :=
  let slot := s.pwr.slot
  let s := { s with pwr := { s.pwr with
    current := s.pwr.target, busy := false, slot := none, lastUs := min us 65535 } }
  match slot with
  | some n => answerTaken n .ok s
  | none => s

/-- RETENTION (R557, R560): Span lanes idle, the Larder and the stacks in self-refresh. -/
def enterRetention (us : Nat) (s : State) : State :=
  let s := spanIdle (endTransition us s)
  refreshReady { s with
    gbl := { s.gbl with state := .retention, quiesce := 0, seq := .idle }
    lrd := { s.lrd with state := if s.lrd.state = .ready then .retention else s.lrd.state }
    hbmStacks := s.hbmStacks.map (fun p => (p.1, { p.2 with state := if p.2.state = .ready then .selfRefresh else p.2.state })) }

/-- Back from RETENTION (R560): the links train again. -/
def leaveRetention (us : Nat) (s : State) : State :=
  let s := wakeMemories (endTransition us s)
  settle (refreshReady { s with gbl := { s.gbl with state := .ready } })

/-- Every partly pooled tile is saved; a bag that has pooled nothing yet keeps its Mill (R188). -/
def tilesSaved (s : State) : Bool :=
  s.cols.all (fun c => c.2.mills.all (fun m => match m.2.work with
    | none => true
    | some w => !w.partly))

/-- What a transition waits for is over: the tiles' saves before P2 and P3, the drain before P3 and Off. -/
def transitionReady (s : State) : Bool :=
  s.pwr.busy && (!savesTiles s || tilesSaved s) && (decide (s.pwr.target < 3) || s.gbl.seq == .powerDrain s.pwr.target)

/-- POWER_TRANSITION_DONE (R557, R559 to R562): `us` is how long the transition took. After Off nothing answers until por_n is
asserted and released. -/
def execPowerTransitionDone (us : Nat) (s : State) : Host.Outcome State Fault Refusal :=
  .next (if !transitionReady s then s
    else if s.pwr.target = 4 then powerLost false false s
    else if s.pwr.target = 3 then enterRetention us s
    else if s.gbl.state = .retention then leaveRetention us s
    else endTransition us s)

/-! ## Ageing (R563 to R568) -/

/-- The islands of a VDD_CORE group (R563, R564). -/
def groupIslands (g : Nat) : List Nat :=
  match g with
  | 0 => List.range 20
  | 1 => (List.range 20).map (· + 20)
  | 2 => [40, 53, 54, 63, 65]
  | _ => (List.range 12).map (· + 41) ++ (List.range 8).map (· + 55)

/-- The lowest monitor of a group as PWR_MONITOR shows it, with its island. -/
def groupMargin (s : State) (g : Nat) : Nat × Nat :=
  let all := (groupIslands g).flatMap (fun i => (List.range 16).map (fun n => (mgetD s.pwr.margins (i * 16 + n) 0, i)))
  all.foldl (fun b x => if x.1 < b.1 then x else b) (all.headD (0, 0))

/-- A voltage of R567 and R568: 550 to 850 mV in 5 mV steps. -/
def voltOk (v : Nat) : Bool := decide (550 ≤ v) && decide (v ≤ 850) && v % 5 == 0

/-- A Mill clock of R568: 1,000 to 1,600 MHz in 100 MHz steps. -/
def clockOk (f : Nat) : Bool := decide (1000 ≤ f) && decide (f ≤ 1600) && f % 100 == 0

/-- The payload of MARGIN_REPORT (R567). -/
def marginPayload (s : State) (volts : List Nat) (mhz : Nat) : List W64 :=
  (List.range 4).map (fun g =>
    let m := groupMargin s g
    w64 (m.1 + m.2 * 2 ^ 16 + s.pwr.volts.getD g 0 % 65536 * 2 ^ 32 + volts.getD g 0 * 2 ^ 48)) ++
  [w64 (s.pwr.millMhz % 65536 + mhz * 2 ^ 16)]

/-- MARGIN_REPORT (R567, OP 0x0D01): the proposal, a prediction from the silicon's margins, is an operand within R567's
steps; another does not come about (assumption log 3). -/
def execMarginReport (slot : Nat) (volts : List Nat) (mhz : Nat) (s : State) : Host.Outcome State Fault Refusal :=
  if volts.length = 4 ∧ volts.all voltOk ∧ clockOk mhz ∧ mhz ≤ s.pwr.millMhz then
    cmdStep 0x0D01 slot s (fun m s => postFinal slot m .ok (marginPayload s volts mhz) s)
  else .next s

/-- REPLAN (R568, OP 0x0D02). -/
def execReplan (slot : Nat) (s : State) : Host.Outcome State Fault Refusal :=
  cmdStep 0x0D02 slot s (fun m s =>
    let volts := (List.range 4).map (fun g => bits (arg m 1) (16 * g) 16)
    let mhz := bits (arg m 2) 0 16
    if volts.all voltOk && clockOk mhz then
      postFinal slot m .ok [] { s with pwr := { s.pwr with volts := volts, millMhz := mhz } }
    else postFinal slot m .badDescriptor [] s)

end Sys2Proof.Machine
end

