-- ==== Sys2Proof/Machine/Clerk.lean ====
section
/-! DEFINITION. The Clerk's own commands, its heartbeat, and the Watchman (R509, R515, R518, R520 to R526, R572, R581, R672). -/

namespace Sys2Proof.Machine

open Sys2Proof

/-! ## IDENTIFY and LOG_READ -/

/-- IDENTIFY (R672, R673, OP 0x0101). -/
def execIdentify (slot : Nat) (s : State) : Host.Outcome State Fault Refusal :=
  cmdStep 0x0101 slot s (fun m s =>
    postFinal slot m .ok [idPart s, idConfig s, s.gbl.idFw, w64 s.gbl.bootCount] s)

/-- Log entries held whose sequence numbers are `first` and the `n − 1` after it. -/
def logFrom (s : State) (first n : Nat) : List LogEntry :=
  s.clerk.log.filter (fun e => decide ((e.seq + pow32 - first) % pow32 < n))

/-- Oldest and newest sequence held; zeros while the log is empty. -/
def logSpan (s : State) : List W64 := [pair32 ((s.clerk.log.head?.map LogEntry.seq).getD 0) ((s.clerk.log.getLast?.map LogEntry.seq).getD 0)]

/-- LOG_READ (R507, R509, R515, OP 0x0102). -/
def execLogRead (slot : Nat) (v : ChipView) (s : State) : Host.Outcome State Fault Refusal :=
  cmdStep 0x0102 slot s (fun m s =>
    let n := bits (arg m 2) 32 12
    if n = 0 ∨ 2048 < n then postFinal slot m .badDescriptor [] s
    else match logFrom s (bits (arg m 2) 0 32) n with
      | [] => postFinal slot m .ok (logSpan s) s
      | es => clerkResult s v slot m (bits (arg m 1) 0 56) (wordsToBytes (es.flatMap logWords)) (logSpan s))

/-! ## The heartbeat (R520, R521, R572) -/

/-- CLERK_BEAT (R520, R526): MISSED is 0; the first beat after a restart lifts the Watchman's shutter and ends a Clerk-only
reset. -/
def execClerkBeat (s : State) : Host.Outcome State Fault Refusal :=
  .next (if clerkRuns s then
      { s with
        mbx := { s.mbx with beats := (s.mbx.beats + 1) % pow32, missed := 0 }
        wch := { s.wch with beat := true, shuttered := false }
        gbl := { s.gbl with active := if s.gbl.active = 3 then 0 else s.gbl.active } }
    else s)

/-- The Watchman halts the Clerk and shutters the data plane (R521); a refresh the Clerk was carrying out stops where it is. -/
def haltClerk (c : ClerkState) (s : State) : State :=
  { s with
    clerk := { s.clerk with state := c }
    wch := { s.wch with shuttered := true }
    gbl := { s.gbl with active := if s.gbl.active = 3 then 0 else s.gbl.active }
    lrd := { s.lrd with refresh := none } }

/-- Four intervals without a beat (R521). -/
def clerkLost (s : State) : State :=
  let s := haltClerk .haltedLost s
  raise evClerkLost { s with wch := { s.wch with lostCount := satAdd 16 s.wch.lostCount 1 } }

/-- HEARTBEAT_INTERVAL_END (R520, R521): 100,000 Watchman cycles are over. -/
def execHeartbeatIntervalEnd (s : State) : Host.Outcome State Fault Refusal :=
  .next (if s.clerk.state ≠ .running then s
    else if s.wch.beat then { s with wch := { s.wch with beat := false } }
    else
      let s := { s with mbx := { s.mbx with missed := min (s.mbx.missed + 1) 4 } }
      if 4 ≤ s.mbx.missed then clerkLost s else s)

/-- CLERK_SRAM_UNCORRECTABLE (R572): the Clerk stops; the Watchman acts once its beats are missed. -/
def execClerkSramUncorrectable (s : State) : Host.Outcome State Fault Refusal :=
  .next (if s.clerk.state = .running then
      { s with clerk := { s.clerk with stopped := true }, lrd := { s.lrd with refresh := none } }
    else s)

/-! ## The Watchman (R525, R526) -/

/-- WCH_RESULT: CODE, OP, DATA. -/
def wchResult (code op data : Nat) (s : State) : State :=
  { s with wch := { s.wch with result := w64 (code + op * 2 ^ 8 + data * 2 ^ 16) } }

/-- DUMP_LOG: up to 120 entries from sequence ARG on. -/
def wchDump (s : State) : State :=
  let es := (s.clerk.log.filter (fun e => decide (bits s.wch.arg 0 32 ≤ e.seq))).take 120
  wchResult 0 1 es.length { s with wch := { s.wch with logwin := es ++ s.wch.logwin.drop es.length } }

/-- WRITE_CO (R518, R526): only while the Clerk is halted. -/
def wchWriteCo (ofs : Nat) (s : State) : State :=
  if s.clerk.state = .running ∨ s.clerk.state = .booting then wchResult 5 3 0 s
  else match writeCoReg ofs s.wch.arg s with
    | some t => wchResult 0 3 0 t
    | none => wchResult 5 3 0 s

/-- A reset that the Watchman asks for: FAILED where R543 refuses it. -/
def wchReset (op : Nat) (cls : ResetClass) (s : State) : State :=
  wchResult (if cls.rank ≤ rankActive s then 5 else 0) op 0 (requestReset cls 3 false s)

/-- The forced Shutter of the data plane that FORCE_HELD carries out (R526, R581): its REPORT is owed as slot 0's. -/
def shutAll (s : State) : State :=
  let o : Owed := { slot := 0, seq := 0, op := 0x0C01 }
  let s := { s with
    clerk := { s.clerk with owed := s.clerk.owed ++ [o] }
    shutters := s.shutters.filter (fun x => !(x.at 6 0 && x.done)) }
  startShutter 6 0 (6 + 8) true o s

/-- FORCE_HELD (R526, R529, R536, R581): BUSY until the block is Held. -/
def wchForceHeld (s : State) : State :=
  match s.gbl.state with
  | .ready | .running | .retention =>
    let s := shutAll (wakeMemories s)
    wchResult 1 6 0 (refreshReady { s with
      gbl := { s.gbl with state := .quiescing, quiesce := 2, seq := .heldDrain }
      pwr := { s.pwr with current := if s.pwr.current = 3 then 0 else s.pwr.current,
                          target := if s.pwr.current = 3 then 0 else s.pwr.target }
      wch := { s.wch with busy := true } })
  | .held => wchResult 0 6 0 (shutAll { s with gbl := { s.gbl with heldCause := s.gbl.heldCause ||| 4 } })
  | _ => wchResult 5 6 0 s

/-- A command of R526 with its checks. -/
def wchCommand (val : W64) (s : State) : State :=
  let op := bits val 0 8
  let key := bits val 48 16 == 0x5AFE
  if s.wch.busy then wchResult 1 op 0 s
  else if op ∈ [3, 4, 5, 6] ∧ !windowOpen s then wchResult 2 op 0 s
  else if op ∈ [2, 4, 5, 6] ∧ !key then wchResult 3 op 0 s
  else match op with
    | 0 => wchResult 0 0 0 s
    | 1 => wchDump s
    | 2 => wchResult 0 2 0 (haltClerk .haltedHost s)
    | 3 => wchWriteCo (bits val 8 25) s
    | 4 => wchReset 4 .clerkOnly s
    | 5 => wchReset 5 .recovery s
    | 6 => wchForceHeld s
    | _ => wchResult 4 op 0 s

/-- A written value with its OP as the command names it. -/
def withOp (op : Nat) (val : W64) : W64 := w64 (val.toNat / 256 * 256 + op)

/-- WCH_NOP. -/
def execWchNop (val : W64) (s : State) : Host.Outcome State Fault Refusal := kcpWrite s (wchCommand (withOp 0 val))

/-- DUMP_LOG. -/
def execDumpLog (val : W64) (s : State) : Host.Outcome State Fault Refusal := kcpWrite s (wchCommand (withOp 1 val))

/-- HALT_CLERK. -/
def execHaltClerk (val : W64) (s : State) : Host.Outcome State Fault Refusal := kcpWrite s (wchCommand (withOp 2 val))

/-- WRITE_CO. -/
def execWriteCo (val : W64) (s : State) : Host.Outcome State Fault Refusal := kcpWrite s (wchCommand (withOp 3 val))

/-- RESTART_CLERK. -/
def execRestartClerk (val : W64) (s : State) : Host.Outcome State Fault Refusal := kcpWrite s (wchCommand (withOp 4 val))

/-- RECOVERY_RESET of the Watchman. -/
def execWchRecoveryReset (val : W64) (s : State) : Host.Outcome State Fault Refusal := kcpWrite s (wchCommand (withOp 5 val))

/-- FORCE_HELD. -/
def execForceHeld (val : W64) (s : State) : Host.Outcome State Fault Refusal := kcpWrite s (wchCommand (withOp 6 val))

end Sys2Proof.Machine
end

