-- ==== Sys2Proof/Machine/Kcp.lean ====
section
/-! DEFINITION. A write of any register over the control port (R11 to R13, R631, R632, R647): the effect of the register at the
offset. RO and CO fields and unmapped offsets take nothing. -/

namespace Sys2Proof.Machine

open Sys2Proof

/-- The MBX block. -/
def putMbx (r : Nat) (val : W64) (s : State) : State :=
  if r < 0x1000 then writeSlotWord (r / 64) (r % 64 / 8) val s
  else if r = 0x1000 then ringSlot (bits val 0 6) s
  else if r = 0x1010 then writeRespBase val s
  else if r = 0x1018 then writeRespSize val s
  else if r = 0x1020 then writeRespHead val s
  else s

/-- The WCH block. -/
def putWch (r : Nat) (val : W64) (s : State) : State :=
  if r = 8 then wchCommand val s
  else if r = 0x10 then { s with wch := { s.wch with arg := val } }
  else s

/-- The GBL block. -/
def putGbl (r : Nat) (val : W64) (s : State) : State :=
  if r = 0x40 then writeEvent val s
  else if r = 0x48 ∨ r = 0x50 ∨ r = 0x58 then writeEventReg r val s
  else if r = 0x60 then writeMsiMode val s
  else if r = 0x68 then writeMsiAddr val s
  else if r = 0x80 then writeGblReset val s
  else s

/-- The SUB window: its last word submits (R117). -/
def putSub (r : Nat) (val : W64) (s : State) : State :=
  if r < 0x78 then writeSubWord (r / 8) val s else if r = 0x78 then subSubmit val s else s

/-- The CTR block. A write of CTR_FREEZE here comes with no time passed since the last reader visit. -/
def putCtr (r : Nat) (val : W64) (s : State) : State :=
  if r = 0 then writeCtrMode val s
  else if r = 8 then writeDumpBase val s
  else if r = 0x10 then writeCtrPeriod val s
  else if r = 0x18 then writeCtrFreeze [] val s
  else if r = 0x30 then writeCtrSample val s
  else if r = 0x40 then writeIslSel val s
  else if 0x1000 ≤ r ∧ r < 0x1000 + 66 * 128 ∧ r % 128 = 8 then clearSticky ((r - 0x1000) / 128) val s
  else s

/-- The FLT block. -/
def putFlt (r : Nat) (val : W64) (s : State) : State :=
  if r = 0 then writeFltBase val s
  else if r = 8 then writeFltSize val s
  else if r = 0x10 then writeFltHead val s
  else if r = 0x20 then writeReply val s
  else if r = 0x28 then writeFltStatus val s
  else s

/-- The XLT block. -/
def putXlt (r : Nat) (val : W64) (s : State) : State :=
  if r = 8 then writeCtxSel val s
  else if r = 0x80 then writeInval val s
  else if r = 0x88 then writeInvalAck val s
  else s

/-- The QH block. -/
def putQh (r : Nat) (val : W64) (s : State) : State :=
  if r = 8 then writeFlowSel val s
  else if r = 0x10 then writeFlowState val s
  else if r = 0x20 then writeQhTimeout val s
  else if r = 0x40 then writeQhSplit val s
  else s

/-- A write of HBM_TEST1500 with GO = 1 and OP 1 or 2 comes with what the wrapper answers, as a command of its own. -/
def putTest (n : Nat) (val : W64) (s : State) : State :=
  if bit val 47 && (bits val 45 2 == 1 || bits val 45 2 == 2) then s else writeTest1500 n val false 0 s

/-- The window of stack `n`. -/
def putHbm (n r : Nat) (val : W64) (s : State) : State :=
  if r = 8 then writeHbmTemp n val s
  else if r = 0x10 then writeThrottle n val s
  else if r = 0x18 then writeEccCe n val s
  else if r = 0x30 then writeHintCfg n val s
  else if r = 0x100 then putTest n val s
  else s

/-- A write of the register at an offset. -/
def regWrite (off : Nat) (val : W64) (s : State) : State :=
  match blockOf off with
  | (.mbx, r) => putMbx r val s
  | (.wch, r) => putWch r val s
  | (.gbl, r) => putGbl r val s
  | (.sub, r) => putSub r val s
  | (.ctr, r) => putCtr r val s
  | (.flt, r) => putFlt r val s
  | (.xlt, r) => putXlt r val s
  | (.qh, r) => putQh r val s
  | (.asy, r) => if r = 0 then writeAsySel val s else if r = 0x30 then writeSatThresh val s else s
  | (.ldg, r) => if r = 0 then writeLdgStatus val s else if r = 0x18 then writeLatePolicy val s else s
  | (.lrd, _) => s
  | (.hbm n, r) => putHbm n r val s
  | (.spn _, r) => if r = 8 then writeSpnNode val s else s
  | (.mcl c, r) => if r = 0x10 then writeIdleCause c val s else s
  | (.pwr, r) => if r = 8 then writePwrMargin val s else s
  | (.none, _) => s

/-- REGISTER_WRITE. -/
def execRegisterWrite (off : Nat) (val : W64) (s : State) : Host.Outcome State Fault Refusal := kcpWrite s (regWrite off val)

end Sys2Proof.Machine
end

