-- ==== Sys2Proof/Machine/Dispatch.lean ====
section
/-! DEFINITION. The dispatch of commands to their meanings, one arm per row of spec/opcode_table.json. -/

namespace Sys2Proof.Machine

open Sys2Proof

def exec (i : Instr) (s : State) : Host.Outcome State Fault Refusal :=
  match i with
  | .identify slot => Sys2Proof.Machine.execIdentify slot s
  | .logRead slot v => Sys2Proof.Machine.execLogRead slot v s
  | .selftest slot => Sys2Proof.Machine.execSelftest slot s
  | .powerState slot => Sys2Proof.Machine.execPowerState slot s
  | .wipe slot => Sys2Proof.Machine.execWipe slot s
  | .lifecycle slot v sigOk => Sys2Proof.Machine.execLifecycle slot v sigOk s
  | .tableCreate slot v place => Sys2Proof.Machine.execTableCreate slot v place s
  | .tableDescribe slot v => Sys2Proof.Machine.execTableDescribe slot v s
  | .tableDestroy slot => Sys2Proof.Machine.execTableDestroy slot s
  | .loadStart slot place => Sys2Proof.Machine.execLoadStart slot place s
  | .loadRows slot v => Sys2Proof.Machine.execLoadRows slot v s
  | .loadEnd slot => Sys2Proof.Machine.execLoadEnd slot s
  | .switch slot => Sys2Proof.Machine.execSwitch slot s
  | .rowRestore slot v => Sys2Proof.Machine.execRowRestore slot v s
  | .templateInstall slot v => Sys2Proof.Machine.execTemplateInstall slot v s
  | .templateInstallComplete tslot => Sys2Proof.Machine.execTemplateInstallComplete tslot s
  | .ctxSet slot => Sys2Proof.Machine.execCtxSet slot s
  | .segSet slot => Sys2Proof.Machine.execSegSet slot s
  | .flowConfig slot => Sys2Proof.Machine.execFlowConfig slot s
  | .nodeSet slot => Sys2Proof.Machine.execNodeSet slot s
  | .homemapInstall slot v room => Sys2Proof.Machine.execHomemapInstall slot v room s
  | .routeSet slot v => Sys2Proof.Machine.execRouteSet slot v s
  | .larderPlan slot => Sys2Proof.Machine.execLarderPlan slot s
  | .hotsetRefresh slot v => Sys2Proof.Machine.execHotsetRefresh slot v s
  | .deferredConfigExecute slot v => Sys2Proof.Machine.execDeferredConfigExecute slot v s
  | .stepOpen slot v => Sys2Proof.Machine.execStepOpen slot v s
  | .sealStep slot => Sys2Proof.Machine.execSeal slot s
  | .sealDone => Sys2Proof.Machine.execSealDone s
  | .commit slot => Sys2Proof.Machine.execCommit slot s
  | .stepReport slot v => Sys2Proof.Machine.execStepReport slot v s
  | .ctrConfig slot => Sys2Proof.Machine.execCtrConfig slot s
  | .shutter slot => Sys2Proof.Machine.execShutter slot s
  | .shutterDone idx us => Sys2Proof.Machine.execShutterDone idx us s
  | .unshutter slot => Sys2Proof.Machine.execUnshutter slot s
  | .marginReport slot volts mhz => Sys2Proof.Machine.execMarginReport slot volts mhz s
  | .replan slot => Sys2Proof.Machine.execReplan slot s
  | .mbxDoorbell val => Sys2Proof.Machine.execMbxDoorbell val s
  | .mbxSlotWrite slot word val => Sys2Proof.Machine.execMbxSlotWrite slot word val s
  | .mbxRespHeadWrite val => Sys2Proof.Machine.execMbxRespHeadWrite val s
  | .mbxRingConfigWrite size val => Sys2Proof.Machine.execMbxRingConfigWrite size val s
  | .commandTake => Sys2Proof.Machine.execCommandTake s
  | .responseWrite => Sys2Proof.Machine.execResponseWrite s
  | .clerkBeat => Sys2Proof.Machine.execClerkBeat s
  | .heartbeatIntervalEnd => Sys2Proof.Machine.execHeartbeatIntervalEnd s
  | .clerkSramUncorrectable => Sys2Proof.Machine.execClerkSramUncorrectable s
  | .wchNop val => Sys2Proof.Machine.execWchNop val s
  | .dumpLog val => Sys2Proof.Machine.execDumpLog val s
  | .haltClerk val => Sys2Proof.Machine.execHaltClerk val s
  | .writeCo val => Sys2Proof.Machine.execWriteCo val s
  | .restartClerk val => Sys2Proof.Machine.execRestartClerk val s
  | .wchRecoveryReset val => Sys2Proof.Machine.execWchRecoveryReset val s
  | .forceHeld val => Sys2Proof.Machine.execForceHeld val s
  | .gblResetCold val => Sys2Proof.Machine.execGblResetCold val s
  | .gblResetRecovery val => Sys2Proof.Machine.execGblResetRecovery val s
  | .gblResetClerkOnly val => Sys2Proof.Machine.execGblResetClerkOnly val s
  | .cmbResetRequest => Sys2Proof.Machine.execCmbResetRequest s
  | .resetTakeHold => Sys2Proof.Machine.execResetTakeHold s
  | .recoveryComplete => Sys2Proof.Machine.execRecoveryComplete s
  | .porAssert => Sys2Proof.Machine.execPorAssert s
  | .porRelease => Sys2Proof.Machine.execPorRelease s
  | .rstNFall => Sys2Proof.Machine.execRstNFall s
  | .rstNRelease => Sys2Proof.Machine.execRstNRelease s
  | .refclkLoss => Sys2Proof.Machine.execRefclkLoss s
  | .railFault => Sys2Proof.Machine.execRailFault s
  | .clerkSecureBoot ok img => Sys2Proof.Machine.execClerkSecureBoot ok img s
  | .selftestSequenceDone res => Sys2Proof.Machine.execSelftestSequenceDone res s
  | .powerTransitionDone us => Sys2Proof.Machine.execPowerTransitionDone us s
  | .tileSave col mill => Sys2Proof.Machine.execTileSave col mill s
  | .tileRestore col mill => Sys2Proof.Machine.execTileRestore col mill s
  | .pedlarPush port ctag hdr data => Sys2Proof.Machine.execPedlarPush port ctag hdr data s
  | .pedlarPop port ctag req => Sys2Proof.Machine.execPedlarPop port ctag req s
  | .pedlarProbe port ctag hdr => Sys2Proof.Machine.execPedlarProbe port ctag hdr s
  | .subSubmit val => Sys2Proof.Machine.execSubSubmit val s
  | .runAdmit flow duration v => Sys2Proof.Machine.execRunAdmit flow duration v s
  | .transferAdmit flow duration v => Sys2Proof.Machine.execTransferAdmit flow duration v s
  | .replacedItemEnd flow duration => Sys2Proof.Machine.execReplacedItemEnd flow duration s
  | .bagGroupDispatch ord col => Sys2Proof.Machine.execBagGroupDispatch ord col s
  | .distributorForward ord group => Sys2Proof.Machine.execDistributorForward ord group s
  | .carterChunk carter ord chunk => Sys2Proof.Machine.execCarterChunk carter ord chunk s
  | .bagStart col mill ord b => Sys2Proof.Machine.execBagStart col mill ord b s
  | .rowReadIssue col mill => Sys2Proof.Machine.execRowReadIssue col mill s
  | .homeRowRead r => Sys2Proof.Machine.execHomeRowRead r s
  | .rowArrive col mill a => Sys2Proof.Machine.execRowArrive col mill a s
  | .sieveWindowClose col => Sys2Proof.Machine.execSieveWindowClose col s
  | .bagPoolEnd col mill tile => Sys2Proof.Machine.execBagPoolEnd col mill tile s
  | .tileDrain col mill => Sys2Proof.Machine.execTileDrain col mill s
  | .runRecordWrite ord duration => Sys2Proof.Machine.execRunRecordWrite ord duration s
  | .transferRecordWrite ord duration => Sys2Proof.Machine.execTransferRecordWrite ord duration s
  | .backwardContribution col mill ue => Sys2Proof.Machine.execBackwardContribution col mill ue s
  | .mergeFlush col => Sys2Proof.Machine.execMergeFlush col s
  | .backwardStreamIdle col => Sys2Proof.Machine.execBackwardStreamIdle col s
  | .partialEnqueue => Sys2Proof.Machine.execPartialEnqueue s
  | .foldHoldExpire port idx => Sys2Proof.Machine.execFoldHoldExpire port idx s
  | .ledgerFold pos ue => Sys2Proof.Machine.execLedgerFold pos ue s
  | .journalFlushDone => Sys2Proof.Machine.execJournalFlushDone s
  | .applyUnit u => Sys2Proof.Machine.execApplyUnit u s
  | .promotionReceive => Sys2Proof.Machine.execPromotionReceive s
  | .spillScan => Sys2Proof.Machine.execSpillScan s
  | .shelfEvaluate tid shelf => Sys2Proof.Machine.execShelfEvaluate tid shelf s
  | .shelfRebuild tid slot shelf newShelf => Sys2Proof.Machine.execShelfRebuild tid slot shelf newShelf s
  | .commitDone duration => Sys2Proof.Machine.execCommitDone duration s
  | .rowMoveComplete idx => Sys2Proof.Machine.execRowMoveComplete idx s
  | .commitNoticeReceive col => Sys2Proof.Machine.execCommitNoticeReceive col s
  | .linkTraining port txFail rxFail lane => Sys2Proof.Machine.execLinkTraining port txFail rxFail lane s
  | .linkBringupExchange port x => Sys2Proof.Machine.execLinkBringupExchange port x s
  | .flitReceive port f => Sys2Proof.Machine.execFlitReceive port f s
  | .nakReceive port ack => Sys2Proof.Machine.execNakReceive port ack s
  | .linkRetrainDone port r => Sys2Proof.Machine.execLinkRetrainDone port r s
  | .recoverRetrainTimeout port => Sys2Proof.Machine.execRecoverRetrainTimeout port s
  | .lquery port h p => Sys2Proof.Machine.execLquery port h p s
  | .lstate port h p => Sys2Proof.Machine.execLstate port h p s
  | .lqueryTimeout port => Sys2Proof.Machine.execLqueryTimeout port s
  | .packetSend port chan idx => Sys2Proof.Machine.execPacketSend port chan idx s
  | .read port h p => Sys2Proof.Machine.execRead port h p s
  | .row port h p => Sys2Proof.Machine.execRow port h p s
  | .promote port h p => Sys2Proof.Machine.execPromote port h p s
  | .notice port h p => Sys2Proof.Machine.execNotice port h p s
  | .absent port h p => Sys2Proof.Machine.execAbsent port h p s
  | .part port h p => Sys2Proof.Machine.execPart port h p s
  | .update port h p => Sys2Proof.Machine.execUpdate port h p s
  | .mark port h p => Sys2Proof.Machine.execMark port h p s
  | .remoteReadTimeout tagSlot => Sys2Proof.Machine.execRemoteReadTimeout tagSlot s
  | .promoteResend col idx => Sys2Proof.Machine.execPromoteResend col idx s
  | .migrationReadIssue map => Sys2Proof.Machine.execMigrationReadIssue map s
  | .migrationReadRetry idx => Sys2Proof.Machine.execMigrationReadRetry idx s
  | .xltInval val => Sys2Proof.Machine.execXltInval val s
  | .invalTakeEffect => Sys2Proof.Machine.execInvalTakeEffect s
  | .rangeRetranslate ord stream v => Sys2Proof.Machine.execRangeRetranslate ord stream v s
  | .invalAck => Sys2Proof.Machine.execInvalAck s
  | .faultRaise => Sys2Proof.Machine.execFaultRaise s
  | .faultRecordWrite => Sys2Proof.Machine.execFaultRecordWrite s
  | .faultReplyReplay val => Sys2Proof.Machine.execFaultReplyReplay val s
  | .faultReplyAbort val => Sys2Proof.Machine.execFaultReplyAbort val s
  | .faultOverdue pend => Sys2Proof.Machine.execFaultOverdue pend s
  | .fltRingHeadWrite val => Sys2Proof.Machine.execFltRingHeadWrite val s
  | .fltRingConfigWrite size val => Sys2Proof.Machine.execFltRingConfigWrite size val s
  | .fltStatusClear val => Sys2Proof.Machine.execFltStatusClear val s
  | .streamTailTimeout flow => Sys2Proof.Machine.execStreamTailTimeout flow s
  | .flowTimeout flow => Sys2Proof.Machine.execFlowTimeout flow s
  | .qhSplitWrite val => Sys2Proof.Machine.execQhSplitWrite val s
  | .qhTimeoutWrite val => Sys2Proof.Machine.execQhTimeoutWrite val s
  | .qhCellUncorrectable spot => Sys2Proof.Machine.execQhCellUncorrectable spot s
  | .rdData port hdr data => Sys2Proof.Machine.execRdData port hdr data s
  | .wrAck port hdr => Sys2Proof.Machine.execWrAck port hdr s
  | .cdpHeaderDiscard port hdr => Sys2Proof.Machine.execCdpHeaderDiscard port hdr s
  | .cdpReadyChange port kRdy sRdy => Sys2Proof.Machine.execCdpReadyChange port kRdy sRdy s
  | .cdpCreditReturn port header data => Sys2Proof.Machine.execCdpCreditReturn port header data s
  | .hbmThermalSample stack temp => Sys2Proof.Machine.execHbmThermalSample stack temp s
  | .hbmRefresh stack chan bank => Sys2Proof.Machine.execHbmRefresh stack chan bank s
  | .hbmPatrol cw syms written => Sys2Proof.Machine.execHbmPatrol cw syms written s
  | .hbmReadUncorrectable e who => Sys2Proof.Machine.execHbmReadUncorrectable e who s
  | .larderPatrol block wrong => Sys2Proof.Machine.execLarderPatrol block wrong s
  | .larderReadUncorrectable block spot => Sys2Proof.Machine.execLarderReadUncorrectable block spot s
  | .hbmTempWrite stack val => Sys2Proof.Machine.execHbmTempWrite stack val s
  | .hbmHintCfgWrite stack val => Sys2Proof.Machine.execHbmHintCfgWrite stack val s
  | .test1500LoadInstr stack val hard => Sys2Proof.Machine.execTest1500LoadInstr stack val hard s
  | .test1500ShiftData stack val captured => Sys2Proof.Machine.execTest1500ShiftData stack val captured s
  | .marginSample ins => Sys2Proof.Machine.execMarginSample ins s
  | .readerVisit incs => Sys2Proof.Machine.execReaderVisit incs s
  | .dumpPeriodEnd incs => Sys2Proof.Machine.execDumpPeriodEnd incs s
  | .ctrModeWrite val => Sys2Proof.Machine.execCtrModeWrite val s
  | .ctrFreezeWrite val incs => Sys2Proof.Machine.execCtrFreezeWrite val incs s
  | .ctrDumpPeriodWrite val => Sys2Proof.Machine.execCtrDumpPeriodWrite val s
  | .ctrSampleWrite val => Sys2Proof.Machine.execCtrSampleWrite val s
  | .sampleRecordWrite idx times => Sys2Proof.Machine.execSampleRecordWrite idx times s
  | .mclIdleCauseClear col val => Sys2Proof.Machine.execMclIdleCauseClear col val s
  | .asyClear val => Sys2Proof.Machine.execAsyClear val s
  | .ldgLatePolicyWrite val => Sys2Proof.Machine.execLdgLatePolicyWrite val s
  | .gblEventWrite val => Sys2Proof.Machine.execGblEventWrite val s
  | .gblEventEnWrite off val => Sys2Proof.Machine.execGblEventEnWrite off val s
  | .gblMsiAddrWrite val => Sys2Proof.Machine.execGblMsiAddrWrite val s
  | .registerWrite off val => Sys2Proof.Machine.execRegisterWrite off val s
  | .spanRxElectricalIdle port => Sys2Proof.Machine.execSpanRxElectricalIdle port s
  | .lastRxExpire port => Sys2Proof.Machine.execLastRxExpire port s

end Sys2Proof.Machine
end

