-- ==== Sys2Proof/Machine/Parts.lean ====
section
/-! DEFINITION. The parts of the state, and what it means that a step changes nothing outside some of them: the terms
frame statements are made in. -/

namespace Sys2Proof.Machine

open Sys2Proof

/-- The parts of the state. `events` is GBL_EVENT with the interrupt lines and messages it drives, `block` the rest of the
GBL block and the reset inputs; `counts` is the islands' counters, `ctr` the rest of the CTR block; `ports` is the Chip Data
Ports with the record of what has left on them. -/
inductive Part where
  | pending | events | block | mbx | clerk | wch | pwr | tables | templates | maps | moves | hbm | poison | xlt | flt | qh
  | ports | cols | ldg | asy | lrd | hbmStacks | span | spanWire | counts | ctr | shutters
  deriving DecidableEq, Repr

/-- The GBL block without GBL_EVENT and what it drives. -/
def Gbl.still (g : Gbl) : Gbl := { g with event := 0, lineCond := 0, irq := 0, msiPending := [], msiSeq := [] }

/-- The CTR block without the islands' counters. -/
def Ctr.still (c : Ctr) : Ctr := { c with islands := [] }

/-- A part of the state is the same in `t` as in `s`. -/
def Part.Same : Part → State → State → Prop
  | .pending, s, t => t.pending = s.pending
  | .events, s, t => t.gbl.event = s.gbl.event ∧ t.gbl.lineCond = s.gbl.lineCond ∧ t.gbl.irq = s.gbl.irq ∧
      t.gbl.msiPending = s.gbl.msiPending ∧ t.gbl.msiSeq = s.gbl.msiSeq
  | .block, s, t => t.gbl.still = s.gbl.still
  | .mbx, s, t => t.mbx = s.mbx
  | .clerk, s, t => t.clerk = s.clerk
  | .wch, s, t => t.wch = s.wch
  | .pwr, s, t => t.pwr = s.pwr
  | .tables, s, t => t.tables = s.tables
  | .templates, s, t => t.templates = s.templates
  | .maps, s, t => t.maps = s.maps
  | .moves, s, t => t.moves = s.moves
  | .hbm, s, t => t.hbm = s.hbm
  | .poison, s, t => t.poison = s.poison
  | .xlt, s, t => t.xlt = s.xlt
  | .flt, s, t => t.flt = s.flt
  | .qh, s, t => t.qh = s.qh
  | .ports, s, t => t.cdp = s.cdp ∧ t.wire = s.wire
  | .cols, s, t => t.cols = s.cols
  | .ldg, s, t => t.ldg = s.ldg
  | .asy, s, t => t.asy = s.asy
  | .lrd, s, t => t.lrd = s.lrd
  | .hbmStacks, s, t => t.hbmStacks = s.hbmStacks
  | .span, s, t => t.span = s.span
  | .spanWire, s, t => t.spanWire = s.spanWire
  | .counts, s, t => t.ctr.islands = s.ctr.islands
  | .ctr, s, t => t.ctr.still = s.ctr.still
  | .shutters, s, t => t.shutters = s.shutters

/-- From `s` to `t` nothing changes outside the parts named. -/
structure OnlyIn (l : List Part) (s t : State) : Prop where
  same : ∀ p, p ∉ l → p.Same s t

end Sys2Proof.Machine
end

