-- ==== Sys2Proof/Machine/Terms.lean ====
section
/-! DEFINITION. Terms that statements about commands share: a message the Clerk is ready to carry out, the response it posts,
and the state that answers. -/

namespace Sys2Proof.Machine

open Sys2Proof

/-- The running Clerk can carry out message `m` of this OP in this slot now (R495, R506). -/
def Ready (s : State) (op slot : Nat) (m : Msg) : Prop :=
  takenCmd s op slot isSlow = some { slot := slot, msg := m, held := false }

/-- The mailbox block with the message answered: it is no longer taken, and its FINAL response of one entry waits for the
ring (R497, R500, R503). -/
def finalMbx (s : State) (slot : Nat) (m : Msg) (st : Status) (payload : List W64) : Mbx :=
  { s.mbx with
    taken := s.mbx.taken.filter (fun t => t.slot != slot),
    respQ := s.mbx.respQ ++ [respOf slot m 0 st payload] }

/-- The mailbox block with the message ACCEPTED: its REPORT is owed (R504). -/
def acceptedMbx (s : State) (slot : Nat) (m : Msg) : Mbx :=
  { s.mbx with
    taken := s.mbx.taken.filter (fun t => t.slot != slot),
    respQ := s.mbx.respQ ++ [respOf slot m 1 .ok []] }

/-- The mailbox block with the message off the taken list and its FINAL response held until `left` writes of its result block
have been accepted (R507). -/
def awaitingMbx (s : State) (slot : Nat) (m : Msg) (payload : List W64) (left : Nat) : Mbx :=
  { s.mbx with
    taken := s.mbx.taken.filter (fun t => t.slot != slot),
    awaiting := s.mbx.awaiting ++ [{ resp := respOf slot m 0 .ok payload, left := left }] }

/-- The writes that a result block of `n` bytes at a translated DA makes (R507, R624). -/
def resultWrites (x : Xlat) (da : Nat) (bs : List Byte) : Nat := requestCount (cutPieces (rangePieces x da bs.length) bs)

/-- The outcome is a next state with this property. -/
def Leads (o : Host.Outcome State Fault Refusal) (p : State → Prop) : Prop := ∃ t, o = .next t ∧ p t

/-- Every line driven by level shows its condition, and a line in message mode rests at 0 (R635, R659). -/
def LinesFollow (t : State) : Prop := ∀ n < 16, t.gbl.irq.testBit n = (lineCondOf t n && !msiLine t n)

/-- The commands that may clear a bit of GBL_EVENT: a write of it, a write of any register, what may reset the block, and what
takes its power (R545, R655). -/
def MayClear : Instr → Prop
  | .gblEventWrite _ | .registerWrite _ _ => True
  | .gblResetCold _ | .gblResetRecovery _ | .cmbResetRequest | .resetTakeHold | .wchRecoveryReset _ => True
  | .porAssert | .refclkLoss | .railFault | .rstNFall | .powerTransitionDone _ => True
  | _ => False

end Sys2Proof.Machine
end

