-- ==== Sys2Proof/Safety.lean ====
section
/-! DEFINITION. What a safe run is: no step of it stops; and the invariant that every step keeps. -/

namespace Sys2Proof

open Sys2Proof.Machine

/-- The outcome is a next state: the block goes on. -/
def Goes (o : Host.Outcome State Fault Refusal) : Prop := ∃ t, o = .next t

/-- A state from which the next step goes on. -/
def SafeStep (s : State) : Prop := Goes (step s)

/-- What every step keeps: the HBM data space is in its canonical form; GBL_EVENT has no bit but those of R654; the Clerk log
holds at most 2,048 entries (R515); counts stay within their fields: MISSED (R498, R521), RESETS (R652), REFUSALS (R662),
LOST_COUNT (R524). -/
structure Inv (s : State) : Prop where
  hbm : Memory.wf s.hbm = true
  event : s.gbl.event.toNat < 2 ^ 21
  log : s.clerk.log.length ≤ 2048
  missed : s.mbx.missed ≤ 4
  resets : s.gbl.resets ≤ 65535
  refusals : s.gbl.refusals ≤ 255
  lost : s.wch.lostCount ≤ 65535

end Sys2Proof
end

