-- ==== Sys2Proof/Certificates/Slice0/Obligations.lean ====
section
/-! DEFINITION. The statements for the provers. -/

open Sys2Proof Sys2Proof.Machine

/-- A step takes the command at the front of the queue and answers what `exec` answers on the state with the rest of the
queue (assumption log 1). -/
def Obligations.StepRunsCommand : Prop :=
  ∀ (c : Instr) (rest : List Instr) (s : State),
    step { s with pending := c :: rest } = exec c { s with pending := rest }

/-- Where no command waits the block idles: the model's choice (assumption log 1). -/
def Obligations.EmptyQueueIdles : Prop := ∀ s : State, s.pending = [] → step s = .next s

/-- No command changes the queue of the commands that wait (assumption log 1). -/
def Obligations.ExecLeavesQueue : Prop :=
  ∀ (c : Instr) (s t : State), exec c s = .next t → t.pending = s.pending

/-- Every step goes on: the manual gives each command an effect, or says that it is ignored. -/
def Obligations.EveryStepGoesOn : Prop := ∀ s : State, SafeStep s

/-- The invariant holds at reset. -/
def Obligations.InvAtReset : Prop := Inv State.reset

/-- Every step keeps the invariant. -/
def Obligations.EveryStepKeepsInv : Prop := ∀ s t : State, Inv s → step s = .next t → Inv t

/-- An event that is set stays set until GBL_EVENT is written or the block is reset (R655). -/
def Obligations.EventsStayUntilCleared : Prop :=
  ∀ (c : Instr) (s t : State), ¬ MayClear c → exec c s = .next t →
    ∀ i, s.gbl.event.getLsbD i = true → t.gbl.event.getLsbD i = true

/-- What registers read right after reset: offset and value (R652, R654, R656, R662, R498, R445, R493, R350, R242, R339, R524), and
an unmapped offset (R12). -/
def Obligations.ResetRegisterValues : Prop :=
  ∀ p ∈ [(0x20020, 1#64), (0x20040, 0), (0x20048, 3), (0x20080, 0), (0x1018, 0x400), (0x200008, 0x1000), (0x400020, 0x140A),
      (0x400040, 0x349), (0x600018, 8), (0x800008, 0x645A00), (0x10000, 8), (0x90000, 0)],
    regRead State.reset p.1 = p.2

/-- A plain RW register reads back the value written under the mask of its fields (R11); nothing changes while the KCP does not
answer (R632), nor by a write of an unmapped offset (R12). -/
def Obligations.PlainRegistersReadBack : Prop :=
  (∀ (s : State) (val : W64), kcpAlive s = true →
    ∀ p ∈ [(0x10010, 0xFFFFFFFFFFFFFFFF#64), (0x20048, 0x1FFFFF), (0x20050, 0xFFFFFFFFFFFFFFFF), (0x20058, 0xFFFFF),
        (0x20060, 0xFFFF), (0x20068, 0x0001FFFFFFFFFFC1), (0x400008, 0x3FFF)],
      Leads (exec (.registerWrite p.1 val) s) (fun t => regRead t p.1 = val &&& p.2)) ∧
  (∀ (s : State) (val : W64), kcpAlive s = true →
    Leads (exec (.registerWrite 0x300008 val) s) (fun t => bits (regRead t 0x300008) 0 6 = bits val 0 6)) ∧
  (∀ (s : State) (val : W64), kcpAlive s = true → bit val 63 = false →
    Leads (exec (.registerWrite 0x500000 val) s) (fun t => regRead t 0x500000 = val &&& 0xFFF#64)) ∧
  (∀ (s : State) (off : Nat) (val : W64), kcpAlive s = false → exec (.registerWrite off val) s = .next s) ∧
  (∀ (s : State) (val : W64), exec (.registerWrite 0x90000 val) s = .next s)

/-- The event registers and the lines that follow them (R635, R654 to R660). -/
def Obligations.EventRegisterWrites : Prop :=
  (∀ (s : State) (val : W64), kcpAlive s = true →
    Leads (exec (.gblEventWrite val) s) (fun t => t.gbl.event = s.gbl.event &&& ~~~val ∧ LinesFollow t)) ∧
  (∀ (s : State) (val : W64), kcpAlive s = true →
    Leads (exec (.gblEventEnWrite 0x48 val) s) (fun t => t.gbl.eventEn = val &&& 0x1FFFFF#64 ∧ LinesFollow t) ∧
    Leads (exec (.gblEventEnWrite 0x50 val) s) (fun t => t.gbl.route = val ∧ LinesFollow t) ∧
    Leads (exec (.gblEventEnWrite 0x58 val) s) (fun t => t.gbl.routeHi = val &&& 0xFFFFF#64 ∧ LinesFollow t)) ∧
  (∀ (s : State) (val : W64), kcpAlive s = true → bit val 0 = true →
    Leads (exec (.gblMsiAddrWrite val) s) (fun t => t.gbl.msiAddr = val &&& 0x0001FFFFFFFFFFC1#64 ∧ t.gbl.msiPending = [])) ∧
  (∀ (s : State) (val : W64), kcpAlive s = true → bit val 0 = false →
    Leads (exec (.gblMsiAddrWrite val) s) (fun t =>
      t.gbl.msiAddr = val &&& 0x0001FFFFFFFFFFC1#64 ∧ t.gbl.msiPending = s.gbl.msiPending ∧ t.gbl.msiSeq = []))

/-- Writes of the ASY, LDG and HBM blocks (R109, R242, R243, R335, R339, R344, R345). -/
def Obligations.BlockRegisterWrites : Prop :=
  (∀ (s : State) (val : W64), kcpAlive s = true →
    Leads (exec (.asyClear val) s) (fun t =>
      t.asy.sel = bits val 0 12 ∧
      (∃ spans, mgetD t.asy.counts (bits val 0 12) AsyCounts.zero = { AsyCounts.zero with spans := spans }) ∧
      ∀ tid, tid ≠ bits val 0 12 → mgetD t.asy.counts tid AsyCounts.zero = mgetD s.asy.counts tid AsyCounts.zero)) ∧
  (∀ (s : State) (val : W64), kcpAlive s = true →
    Leads (exec (.ldgLatePolicyWrite val) s) (fun t =>
      t.ldg.horizon = (if bits val 0 8 = 0 then s.ldg.horizon else bits val 0 8) ∧
      (bit val 63 = true → t.ldg.deferred = 0 ∧ t.ldg.dropped = 0 ∧ t.ldg.refused = 0 ∧ t.ldg.dropLog = []) ∧
      (bit val 63 = false → t.ldg = { s.ldg with horizon := t.ldg.horizon }))) ∧
  (∀ (s : State) (n : Nat) (val : W64), kcpAlive s = true → n < 12 → bits val 8 8 < bits val 16 8 →
    Leads (exec (.hbmTempWrite n val) s) (fun t =>
      stackOf t n = { stackOf s n with
        thr1 := bits val 8 8, thr2 := bits val 16 8,
        maxTemp := if bit val 63 then (stackOf s n).temp else (stackOf s n).maxTemp } ∧
      ∀ m, m ≠ n → stackOf t m = stackOf s m)) ∧
  (∀ (s : State) (n : Nat) (val : W64), bits val 16 8 ≤ bits val 8 8 → exec (.hbmTempWrite n val) s = .next s) ∧
  (∀ (s : State) (n : Nat) (val : W64), kcpAlive s = true → n < 12 →
    Leads (exec (.hbmHintCfgWrite n val) s) (fun t =>
      (stackOf t n).keepWays = (if 16 < bits val 0 5 then (stackOf s n).keepWays else bits val 0 5) ∧
      (stackOf t n).disable = bit val 5 ∧
      (stackOf t n).cache = (if bit val 8 then [] else limitKeep (stackOf t n).keepWays (stackOf s n).cache) ∧
      ∀ m, m ≠ n → stackOf t m = stackOf s m)) ∧
  (∀ (s : State) (n : Nat) (val : W64), kcpAlive s = true → n < 12 → s.gbl.state = .held →
    Leads (exec (.test1500LoadInstr n val false) s) (fun t =>
      (stackOf t n).wrapper = bits val 37 8 ∧ ∀ m, m ≠ n → stackOf t m = stackOf s m)) ∧
  (∀ (s : State) (n : Nat) (val : W64) (captured : W32), kcpAlive s = true → n < 12 → s.gbl.state = .held →
    Leads (exec (.test1500ShiftData n val captured) s) (fun t =>
      (stackOf t n).tData = BitVec.ofNat 32 (captured.toNat % 2 ^ (bits val 32 5 + 1)) ∧
      ∀ m, m ≠ n → stackOf t m = stackOf s m)) ∧
  (∀ (s : State) (n : Nat) (val : W64) (hard : Bool) (captured : W32), kcpAlive s = true → n < 12 → s.gbl.state ≠ .held →
    (stackOf s n).state ≠ .shuttered →
    Leads (exec (.test1500LoadInstr n val hard) s) (fun t => stackOf t n = { stackOf s n with tRefused := true }) ∧
    Leads (exec (.test1500ShiftData n val captured) s) (fun t => stackOf t n = { stackOf s n with tRefused := true }))

/-- Writes of the MBX block (R495, R496, R498, R499, R666). -/
def Obligations.MailboxRegisterWrites : Prop :=
  (∀ (s : State) (val : W64), kcpAlive s = true → bits val 0 6 ∉ s.mbx.busy →
    Leads (exec (.mbxDoorbell val) s) (fun t =>
      t.mbx = { s.mbx with busy := s.mbx.busy ++ [bits val 0 6], rung := s.mbx.rung ++ [bits val 0 6] })) ∧
  (∀ (s : State) (val : W64), kcpAlive s = true → bits val 0 6 ∈ s.mbx.busy →
    Leads (exec (.mbxDoorbell val) s) (fun t => t.mbx = { s.mbx with refused := true })) ∧
  (∀ (s : State) (n w : Nat) (val : W64), kcpAlive s = true → n < 64 → w < 8 → n ∉ s.mbx.busy →
    Leads (exec (.mbxSlotWrite n w val) s) (fun t =>
      mgetD t.mbx.slots (8 * n + w) 0 = val ∧ (∀ k, k ≠ 8 * n + w → mgetD t.mbx.slots k 0 = mgetD s.mbx.slots k 0) ∧
      t.mbx = { s.mbx with slots := t.mbx.slots })) ∧
  (∀ (s : State) (n w : Nat) (val : W64), kcpAlive s = true → n < 64 → w < 8 → n ∈ s.mbx.busy →
    Leads (exec (.mbxSlotWrite n w val) s) (fun t => t.mbx = { s.mbx with refused := true })) ∧
  (∀ (s : State) (val : W64), kcpAlive s = true → s.mbx.head ≤ bits val 0 32 → bits val 0 32 ≤ s.mbx.tail →
    s.mbx.tail < 2 ^ 32 →
    Leads (exec (.mbxRespHeadWrite val) s) (fun t => t.mbx = { s.mbx with head := bits val 0 32 })) ∧
  (∀ (s : State) (val : W64), kcpAlive s = true → s.mbx.head ≤ s.mbx.tail → s.mbx.tail < bits val 0 32 →
    Leads (exec (.mbxRespHeadWrite val) s) (fun t => t.mbx = { s.mbx with refused := true })) ∧
  (∀ (s : State) (val : W64), kcpAlive s = true → s.mbx.head = s.mbx.tail → s.mbx.busy = [] →
    Leads (exec (.mbxRingConfigWrite false val) s) (fun t =>
      t.mbx = { s.mbx with respBase := val &&& 0x0001FFFFFFFFFFC1#64 }) ∧
    (∀ k, 6 ≤ k → k ≤ 16 → bits val 0 17 = 2 ^ k →
      Leads (exec (.mbxRingConfigWrite true val) s) (fun t =>
        t.mbx = { s.mbx with respSize := 2 ^ k, refused := s.mbx.refused && !bit val 63 }))) ∧
  (∀ (s : State) (val : W64), kcpAlive s = true → s.mbx.busy ≠ [] →
    (val &&& 0x0001FFFFFFFFFFC1#64 ≠ s.mbx.respBase →
      Leads (exec (.mbxRingConfigWrite false val) s) (fun t => t.mbx = { s.mbx with refused := true })) ∧
    (bits val 0 17 ≠ s.mbx.respSize →
      Leads (exec (.mbxRingConfigWrite true val) s) (fun t => t.mbx = { s.mbx with refused := true })))

/-- COMMAND_TAKE and RESPONSE_WRITE (R495, R497, R500, R502, R503, R506, R509, R552). -/
def Obligations.CommandsTakenAndAnswered : Prop :=
  (∀ (s : State) (n : Nat) (rest : List Nat), clerkRuns s = true → owesNothing s = true → s.mbx.rung = n :: rest →
    (msgOk s n (msgOf s n) = true →
      Leads (exec .commandTake s) (fun t =>
        t.mbx = { s.mbx with rung := rest, taken := s.mbx.taken ++ [{ slot := n, msg := msgOf s n, held := false }] })) ∧
    (msgOk s n (msgOf s n) = false →
      Leads (exec .commandTake s) (fun t =>
        t.mbx = { s.mbx with rung := rest, respQ := s.mbx.respQ ++ [respOf n (msgOf s n) 0 .badDescriptor []] }))) ∧
  (∀ (s : State) (r : Response) (rest : List Response), clerkRuns s = true → s.mbx.respQ = r :: rest → r.entries = 1 →
    ringRoom (bit s.mbx.respBase 0) s.mbx.head s.mbx.tail s.mbx.respSize 1 = true → s.mbx.tail < 2 ^ 32 →
    Leads (exec .responseWrite s) (fun t =>
      t.mbx = { s.mbx with
        respQ := rest, tail := (s.mbx.tail + 1) % 2 ^ 32,
        busy := if r.kind = 2 then s.mbx.busy else s.mbx.busy.filter (· ≠ r.slot) } ∧
      t.cdp = (chipWrite .pedWr .small (bits s.mbx.respBase 6 43 * 64 + s.mbx.tail % s.mbx.respSize * 64)
        (respEntry r 0 (phaseOf s.mbx.tail s.mbx.respSize)) s).cdp)) ∧
  (∀ (s : State), responseReady s = none → exec .responseWrite s = .next s)

/-- The heartbeat (R520, R521, R524, R572). -/
def Obligations.HeartbeatAndItsLoss : Prop :=
  (∀ (s : State), clerkRuns s = true →
    Leads (exec .clerkBeat s) (fun t =>
      t.mbx = { s.mbx with beats := (s.mbx.beats + 1) % 2 ^ 32, missed := 0 } ∧ t.wch.shuttered = false ∧
      t.wch.beat = true ∧ t.gbl.active = (if s.gbl.active = 3 then 0 else s.gbl.active))) ∧
  (∀ (s : State), s.clerk.state = .running → s.wch.beat = true →
    Leads (exec .heartbeatIntervalEnd s) (fun t => t.mbx = s.mbx ∧ t.wch = { s.wch with beat := false } ∧ t.clerk = s.clerk)) ∧
  (∀ (s : State), s.clerk.state = .running → s.wch.beat = false → s.mbx.missed < 3 →
    Leads (exec .heartbeatIntervalEnd s) (fun t =>
      t.mbx = { s.mbx with missed := s.mbx.missed + 1 } ∧ t.wch = s.wch ∧ t.clerk = s.clerk)) ∧
  (∀ (s : State), s.clerk.state = .running → s.wch.beat = false → 3 ≤ s.mbx.missed →
    Leads (exec .heartbeatIntervalEnd s) (fun t =>
      t.mbx.missed = 4 ∧ t.clerk.state = .haltedLost ∧ t.wch.shuttered = true ∧
      t.wch.lostCount = min (s.wch.lostCount + 1) 65535 ∧ bit t.gbl.event 0 = true ∧ LinesFollow t)) ∧
  (∀ (s : State), s.clerk.state = .running →
    Leads (exec .clerkSramUncorrectable s) (fun t =>
      t.clerk = { s.clerk with stopped := true } ∧ clerkRuns t = false ∧ t.wch = s.wch ∧ t.lrd.refresh = none))

/-- The commands of the Watchman (R521, R524 to R526, R540, R542, R543). -/
def Obligations.WatchmanCommands : Prop :=
  (∀ (s : State) (val : W64), kcpAlive s = true → s.wch.busy = false →
    exec (.wchNop val) s = .next { s with wch := { s.wch with result := 0 } }) ∧
  (∀ (s : State) (val : W64), kcpAlive s = true → s.wch.busy = false →
    Leads (exec (.dumpLog val) s) (fun t =>
      ∃ es, es = (s.clerk.log.filter (fun e => decide (bits s.wch.arg 0 32 ≤ e.seq))).take 120 ∧
        t.wch.logwin = es ++ s.wch.logwin.drop es.length ∧ t.wch.result = w64 (1 * 2 ^ 8 + es.length * 2 ^ 16) ∧
        OnlyIn [.wch] s t)) ∧
  (∀ (s : State) (val : W64), kcpAlive s = true → s.wch.busy = false → bits val 48 16 = 0x5AFE →
    Leads (exec (.haltClerk val) s) (fun t =>
      t.clerk = { s.clerk with state := .haltedHost } ∧ t.wch.shuttered = true ∧ t.wch.result = w64 (2 * 2 ^ 8) ∧
      t.tables = s.tables ∧ t.qh = s.qh ∧ t.hbm = s.hbm)) ∧
  (∀ (s u : State) (val : W64), kcpAlive s = true → s.wch.busy = false → s.clerk.state ≠ .running → s.clerk.state ≠ .booting →
    writeCoReg (bits val 8 25) s.wch.arg s = some u →
    exec (.writeCo val) s = .next { u with wch := { u.wch with result := w64 (3 * 2 ^ 8) } }) ∧
  (∀ (s : State) (val : W64), kcpAlive s = true → s.wch.busy = false → windowOpen s = true → bits val 48 16 = 0x5AFE →
    s.gbl.lifecycle ≠ 5 → rankActive s = 0 →
    Leads (exec (.restartClerk val) s) (fun t =>
      t.clerk.state = .booting ∧ t.gbl.active = 3 ∧ t.gbl.lastReset = 3 ∧ t.gbl.resetSource = 3 ∧
      t.wch.result = w64 (4 * 2 ^ 8) ∧ t.tables = s.tables ∧ t.ldg = s.ldg ∧ t.qh = s.qh ∧ t.hbm = s.hbm)) ∧
  (∀ (s : State) (val : W64), kcpAlive s = true → s.wch.busy = false → windowOpen s = true → bits val 48 16 = 0x5AFE →
    rankActive s < 2 → s.gbl.state ≠ .selftest →
    Leads (exec (.wchRecoveryReset val) s) (fun t =>
      t.gbl.state = .quiescing ∧ t.gbl.quiesce = 1 ∧ t.gbl.seq = .holdOff .recovery 3 ∧ t.gbl.active = 2)) ∧
  (∀ (s : State) (val : W64), kcpAlive s = true → s.wch.busy = false → windowOpen s = true → bits val 48 16 = 0x5AFE →
    s.gbl.state = .ready ∨ s.gbl.state = .running ∨ s.gbl.state = .retention →
    Leads (exec (.forceHeld val) s) (fun t =>
      t.gbl.state = .quiescing ∧ t.gbl.quiesce = 2 ∧ t.gbl.seq = .heldDrain ∧ t.wch.busy = true ∧
      t.wch.result = w64 (1 + 6 * 2 ^ 8))) ∧
  (∀ (s : State) (val : W64), kcpAlive s = true → s.wch.busy = false → bits val 48 16 ≠ 0x5AFE →
    exec (.haltClerk val) s = .next { s with wch := { s.wch with result := w64 (3 + 2 * 2 ^ 8) } } ∧
    (windowOpen s = true →
      exec (.restartClerk val) s = .next { s with wch := { s.wch with result := w64 (3 + 4 * 2 ^ 8) } } ∧
      exec (.wchRecoveryReset val) s = .next { s with wch := { s.wch with result := w64 (3 + 5 * 2 ^ 8) } } ∧
      exec (.forceHeld val) s = .next { s with wch := { s.wch with result := w64 (3 + 6 * 2 ^ 8) } })) ∧
  (∀ (s : State) (val : W64), kcpAlive s = true → s.wch.busy = false → windowOpen s = false →
    exec (.writeCo val) s = .next { s with wch := { s.wch with result := w64 (2 + 3 * 2 ^ 8) } } ∧
    exec (.forceHeld val) s = .next { s with wch := { s.wch with result := w64 (2 + 6 * 2 ^ 8) } }) ∧
  (∀ (s : State) (val : W64), kcpAlive s = true → s.wch.busy = true →
    exec (.haltClerk val) s = .next { s with wch := { s.wch with result := w64 (1 + 2 * 2 ^ 8) } })

/-- Commands that read, and REPLAN: their answers and the writes they make (R507, R509, R513, R515, R567, R568, R672, R673). -/
def Obligations.QueriesAnswer : Prop :=
  (∀ (s : State) (slot : Nat) (m : Msg), Ready s 0x0101 slot m →
    Leads (exec (.identify slot) s) (fun t =>
      t.mbx = finalMbx s slot m .ok [idPart s, idConfig s, s.gbl.idFw, w64 s.gbl.bootCount] ∧ OnlyIn [.mbx, .block] s t)) ∧
  (∀ (s : State) (slot : Nat) (m : Msg) (v : ChipView), Ready s 0x0102 slot m →
    (bits (arg m 2) 32 12 = 0 ∨ 2048 < bits (arg m 2) 32 12 →
      Leads (exec (.logRead slot v) s) (fun t =>
        t.mbx = finalMbx s slot m .badDescriptor [] ∧ OnlyIn [.mbx, .block] s t)) ∧
    (1 ≤ bits (arg m 2) 32 12 → bits (arg m 2) 32 12 ≤ 2048 →
      (logFrom s (bits (arg m 2) 0 32) (bits (arg m 2) 32 12) = [] →
        Leads (exec (.logRead slot v) s) (fun t => t.mbx = finalMbx s slot m .ok (logSpan s) ∧ OnlyIn [.mbx, .block] s t)) ∧
      (∀ es bs, logFrom s (bits (arg m 2) 0 32) (bits (arg m 2) 32 12) = es → es ≠ [] →
        wordsToBytes (es.flatMap logWords) = bs →
        (∀ x, translate s v m.ctx (bits (arg m 1) 0 56) bs.length true = .ok x →
          Leads (exec (.logRead slot v) s) (fun t =>
            t.mbx = awaitingMbx s slot m (logSpan s) (resultWrites x (bits (arg m 1) 0 56) bs) ∧
            Part.ports.Same (sendResult slot x (bits (arg m 1) 0 56) bs s) t)) ∧
        (∀ e, translate s v m.ctx (bits (arg m 1) 0 56) bs.length true = .error e →
          Leads (exec (.logRead slot v) s) (fun t =>
            t.mbx = finalMbx s slot m (failStatus e) [] ∧ Part.ports.Same s t))))) ∧
  (∀ (s : State) (slot : Nat) (m : Msg) (v : ChipView), Ready s 0x0A04 slot m →
    (∀ step mx x, s.ldg.lastSealed = some (step, mx) → s.ldg.sealing = false →
      translate s v m.ctx (bits (arg m 1) 0 56) (stepReport mx).length true = .ok x →
      Leads (exec (.stepReport slot v) s) (fun t =>
        t.mbx = awaitingMbx s slot m [w64 step] (resultWrites x (bits (arg m 1) 0 56) (stepReport mx)) ∧
        Part.ports.Same (sendResult slot x (bits (arg m 1) 0 56) (stepReport mx) s) t)) ∧
    (∀ step mx e, s.ldg.lastSealed = some (step, mx) → s.ldg.sealing = false →
      translate s v m.ctx (bits (arg m 1) 0 56) (stepReport mx).length true = .error e →
      Leads (exec (.stepReport slot v) s) (fun t =>
        t.mbx = finalMbx s slot m (failStatus e) [] ∧ Part.ports.Same s t)) ∧
    (s.ldg.lastSealed = none ∨ s.ldg.sealing = true →
      Leads (exec (.stepReport slot v) s) (fun t =>
        t.mbx = finalMbx s slot m .badDescriptor [] ∧ OnlyIn [.mbx, .block] s t))) ∧
  (∀ (s : State) (slot : Nat) (m : Msg) (volts : List Nat) (mhz : Nat), Ready s 0x0D01 slot m → volts.length = 4 →
    (∀ v ∈ volts, 550 ≤ v ∧ v ≤ 850 ∧ v % 5 = 0) → 1000 ≤ mhz → mhz ≤ 1600 → mhz % 100 = 0 → mhz ≤ s.pwr.millMhz →
    Leads (exec (.marginReport slot volts mhz) s) (fun t =>
      t.mbx = finalMbx s slot m .ok (marginPayload s volts mhz) ∧ t.pwr = s.pwr)) ∧
  (∀ (s : State) (slot : Nat) (m : Msg) (v0 v1 v2 v3 mhz : Nat), Ready s 0x0D02 slot m → bits (arg m 1) 0 16 = v0 →
    bits (arg m 1) 16 16 = v1 → bits (arg m 1) 32 16 = v2 → bits (arg m 1) 48 16 = v3 → bits (arg m 2) 0 16 = mhz →
    ((∀ v ∈ [v0, v1, v2, v3], 550 ≤ v ∧ v ≤ 850 ∧ v % 5 = 0) → 1000 ≤ mhz → mhz ≤ 1600 → mhz % 100 = 0 →
      Leads (exec (.replan slot) s) (fun t =>
        t.mbx = finalMbx s slot m .ok [] ∧ t.pwr = { s.pwr with volts := [v0, v1, v2, v3], millMhz := mhz })) ∧
    ((∃ v ∈ [v0, v1, v2, v3], v < 550 ∨ 850 < v ∨ v % 5 ≠ 0) ∨ mhz < 1000 ∨ 1600 < mhz ∨ mhz % 100 ≠ 0 →
      Leads (exec (.replan slot) s) (fun t => t.mbx = finalMbx s slot m .badDescriptor [] ∧ t.pwr = s.pwr)))

/-- SELFTEST, WIPE and LIFECYCLE start (R504, R529, R537, R551, R553 to R555). -/
def Obligations.SequenceCommandsStart : Prop :=
  (∀ (s : State) (slot : Nat) (m : Msg), Ready s 0x0201 slot m →
    Leads (exec (.selftest slot) s) (fun t =>
      t.gbl.state = .selftest ∧ t.gbl.seq = .selftest (bits (arg m 1) 0 4) ∧ t.gbl.heldCause = 0 ∧
      respOf slot m 1 .ok [] ∈ t.mbx.respQ ∧
      t.clerk = { s.clerk with owed := s.clerk.owed ++ [{ slot := slot, seq := m.seq, op := m.op }] })) ∧
  (∀ (s : State) (slot : Nat) (m : Msg), Ready s 0x0401 slot m →
    Leads (exec (.wipe slot) s) (fun t =>
      t.gbl.state = .selftest ∧ t.gbl.seq = .wipe false ∧ t.gbl.heldCause = 0 ∧ respOf slot m 1 .ok [] ∈ t.mbx.respQ ∧
      t.clerk = { s.clerk with owed := s.clerk.owed ++ [{ slot := slot, seq := m.seq, op := m.op }] })) ∧
  (∀ (s : State) (slot : Nat) (m : Msg) (v : ChipView) (sigOk : Bool), Ready s 0x0402 slot m →
    (∀ signed bs, lifecycleChange s.gbl.lifecycle (bits (arg m 1) 0 3) = some signed →
      clerkRead s v m.ctx (bits (arg m 2) 0 56) 176 = .ok bs → tokenOk s (bits (arg m 1) 0 3) bs = true →
      (signed = false → fieldAt bs 80 96 = 0) → (signed = true → sigOk = true) →
      Leads (exec (.lifecycle slot v sigOk) s) (fun t =>
        t.gbl.state = .selftest ∧ t.gbl.seq = .lifecycle false ∧ t.gbl.lifecycle = bits (arg m 1) 0 3 ∧
        t.gbl.ownerDigest = (if bits (arg m 1) 0 3 = 1 then BitVec.ofNat 384 (fieldAt bs 32 48) else s.gbl.ownerDigest) ∧
        respOf slot m 1 .ok [] ∈ t.mbx.respQ ∧
        t.clerk = { s.clerk with owed := s.clerk.owed ++ [{ slot := slot, seq := m.seq, op := m.op }] })) ∧
    (lifecycleChange s.gbl.lifecycle (bits (arg m 1) 0 3) = none →
      Leads (exec (.lifecycle slot v sigOk) s) (fun t =>
        t.mbx = finalMbx s slot m .badDescriptor [] ∧ t.gbl.lifecycle = s.gbl.lifecycle)) ∧
    (∀ bs, lifecycleChange s.gbl.lifecycle (bits (arg m 1) 0 3) = some true →
      clerkRead s v m.ctx (bits (arg m 2) 0 56) 176 = .ok bs → tokenOk s (bits (arg m 1) 0 3) bs = true → sigOk = false →
      Leads (exec (.lifecycle slot v sigOk) s) (fun t =>
        t.mbx = finalMbx s slot m .perm [] ∧ t.gbl.lifecycle = s.gbl.lifecycle)))

/-- Power states (R529, R557 to R562). -/
def Obligations.PowerStateChanges : Prop :=
  (∀ (s : State) (slot : Nat) (m : Msg), Ready s 0x0301 slot m → s.pwr.busy = false →
    (bits (arg m 1) 0 3 = s.pwr.current →
      Leads (exec (.powerState slot) s) (fun t => t.mbx = finalMbx s slot m .ok [] ∧ t.pwr = s.pwr ∧ t.gbl = s.gbl)) ∧
    (bits (arg m 1) 0 3 ≠ s.pwr.current → powerAllowed s (bits (arg m 1) 0 3) = false →
      Leads (exec (.powerState slot) s) (fun t =>
        t.mbx = finalMbx s slot m .badDescriptor [] ∧ t.pwr = s.pwr ∧ t.gbl = s.gbl)) ∧
    (bits (arg m 1) 0 3 ≠ s.pwr.current → powerAllowed s (bits (arg m 1) 0 3) = true →
      Leads (exec (.powerState slot) s) (fun t =>
        t.pwr = { s.pwr with target := bits (arg m 1) 0 3, busy := true, slot := some slot } ∧
        t.mbx.respQ = s.mbx.respQ ∧
        (bits (arg m 1) 0 3 < 3 → t.gbl = s.gbl) ∧
        (3 ≤ bits (arg m 1) 0 3 → t.gbl.state = .quiescing ∧ t.gbl.quiesce = 3)))) ∧
  (∀ (s : State) (us slot : Nat) (k : Taken), s.pwr.busy = true → s.pwr.target < 3 → (s.pwr.target = 2 → tilesSaved s = true) →
    s.pwr.slot = some slot → s.mbx.taken.find? (fun t => t.slot == slot) = some k → s.gbl.state ≠ .retention →
    Leads (exec (.powerTransitionDone us) s) (fun t =>
      t.pwr = { s.pwr with current := s.pwr.target, busy := false, slot := none, lastUs := min us 65535 } ∧
      t.mbx = finalMbx s slot k.msg .ok [] ∧ t.gbl = s.gbl)) ∧
  (∀ (s : State) (us : Nat), s.pwr.busy = true → s.pwr.target = 2 ∨ s.pwr.target = 3 → tilesSaved s = false →
    exec (.powerTransitionDone us) s = .next s) ∧
  (∀ (s : State) (us : Nat), s.pwr.busy = true → s.pwr.target = 3 → s.gbl.seq = .powerDrain 3 → tilesSaved s = true →
    Leads (exec (.powerTransitionDone us) s) (fun t =>
      t.gbl.state = .retention ∧ t.gbl.quiesce = 0 ∧ t.pwr.current = 3 ∧ t.pwr.busy = false)) ∧
  (∀ (s : State) (us : Nat), s.pwr.busy = true → s.pwr.target = 4 → s.gbl.seq = .powerDrain 4 →
    Leads (exec (.powerTransitionDone us) s) (fun t =>
      t.gbl.state = .off ∧ kcpAlive t = false ∧ t.hbm = [] ∧ t.tables = [] ∧ t.gbl.uid = s.gbl.uid ∧
      t.gbl.lifecycle = s.gbl.lifecycle))

/-- The hold-off of a reset of this class and source has begun (R541, R542, R544, R662). -/
def HoldOff (cls : ResetClass) (source : Nat) (s t : State) : Prop :=
  t.gbl = { s.gbl with
    state := .quiescing, quiesce := 1, seq := .holdOff cls source, active := cls.code, refused := false, refusals := 0 } ∧
  OnlyIn [.block, .wch, .lrd, .hbmStacks, .ports] s t

/-- The state in which an accepted request takes hold. -/
def accepted (cls : ResetClass) (s : State) : State :=
  { s with gbl := { s.gbl with refused := false, refusals := 0, active := cls.code } }

/-- A cold or recovery request that is stronger than what runs: its hold-off begins, or in SELFTEST it takes hold at once. -/
def Accepts (c : Instr) (cls : ResetClass) (source : Nat) (s : State) : Prop :=
  (s.gbl.state ≠ .selftest → Leads (exec c s) (HoldOff cls source s)) ∧
  (s.gbl.state = .selftest → exec c s = .next (takeHold cls source (accepted cls s)))

/-- Reset requests (R541 to R544, R527, R639, R644, R662). -/
def Obligations.ResetRequests : Prop :=
  (∀ (s : State) (val : W64), kcpAlive s = true → bits val 48 16 = 0x5AFE →
    (rankActive s < 3 → Accepts (.gblResetCold val) .cold 2 s) ∧
    (rankActive s < 2 → Accepts (.gblResetRecovery val) .recovery 2 s) ∧
    (rankActive s < 1 → Leads (exec (.gblResetClerkOnly val) s) (fun t =>
      t.gbl = { s.gbl with
        lastReset := 3, resetSource := 2, resets := min (s.gbl.resets + 1) 65535,
        active := if s.gbl.lifecycle = 5 then 0 else 3, refused := false, refusals := 0 } ∧
      t.clerk = { s.clerk with state := if s.gbl.lifecycle = 5 then .notStarted else .booting, waiting := none } ∧
      t.mbx = { s.mbx with missed := 0 } ∧ t.wch = { s.wch with beat := false } ∧ t.pwr = { s.pwr with slot := none } ∧
      t.lrd = { s.lrd with refresh := none } ∧ OnlyIn [.block, .clerk, .mbx, .wch, .pwr, .lrd, .counts] s t))) ∧
  (∀ (s : State) (val : W64), kcpAlive s = true →
    ∀ c ∈ [(Instr.gblResetCold val, ResetClass.cold), (.gblResetRecovery val, .recovery), (.gblResetClerkOnly val, .clerkOnly)],
      bits val 48 16 ≠ 0x5AFE ∨ c.2.rank ≤ rankActive s →
      exec c.1 s = .next { s with gbl := { s.gbl with refused := true, refusals := min (s.gbl.refusals + 1) 255 } }) ∧
  (∀ s : State, kcpAlive s = true →
    (rankActive s < 3 → Accepts .cmbResetRequest .cold 4 s) ∧
    (3 ≤ rankActive s → exec .cmbResetRequest s = .next { s with gbl := { s.gbl with refused := true } })) ∧
  (∀ s u : State, s.gbl.rstLow = false → u = { s with gbl := { s.gbl with rstLow := true } } →
    (kcpAlive s = true → rankActive s < 3 →
      (s.gbl.state ≠ .selftest → Leads (exec .rstNFall s) (HoldOff .cold 1 u)) ∧
      (s.gbl.state = .selftest → exec .rstNFall s = .next (takeHold .cold 1 (accepted .cold u)))) ∧
    (kcpAlive s = true → 3 ≤ rankActive s → exec .rstNFall s = .next { u with gbl := { u.gbl with refused := true } }) ∧
    (kcpAlive s = false → exec .rstNFall s = .next u)) ∧
  (∀ s : State, s.gbl.rstLow = true → exec .rstNFall s = .next s)

/-- What is in the fuses and the CSB store of the block stays (R5, R540, R638). -/
def FusesKept (s t : State) : Prop :=
  t.gbl.lifecycle = s.gbl.lifecycle ∧ t.gbl.uid = s.gbl.uid ∧ t.gbl.stepping = s.gbl.stepping ∧ t.gbl.rollback = s.gbl.rollback ∧
    t.gbl.ownerDigest = s.gbl.ownerDigest ∧ t.gbl.bootCount = s.gbl.bootCount

/-- Every memory of the K40 is empty. -/
def MemoriesEmpty (t : State) : Prop :=
  t.hbm = [] ∧ t.tables = [] ∧ t.templates = [] ∧ t.maps = [] ∧ t.qh.flows = [] ∧ t.qh.runs = [] ∧ t.ldg = Ledger.reset ∧
    t.lrd = Larder.reset ∧ t.mbx = Mbx.reset ∧ t.clerk = Clerk.reset

/-- Resets that take hold, and the loss of power (R540, R545, R548, R236, R526, R529, R531, R637, R638, R641). -/
def Obligations.ResetsTakeHold : Prop :=
  (∀ (s : State) (src : Nat), s.gbl.seq = .holdOff .cold src →
    Leads (exec .resetTakeHold s) (fun t =>
      t.gbl.state = .selftest ∧ t.gbl.seq = .start 1 ∧ t.gbl.event = 0 ∧ t.gbl.lastReset = 1 ∧ t.gbl.resetSource = src ∧
      t.gbl.resets = min (s.gbl.resets + 1) 65535 ∧ t.gbl.active = 1 ∧ t.gbl.eventEn = s.gbl.eventEn ∧
      t.gbl.msiAddr = s.gbl.msiAddr ∧ MemoriesEmpty t ∧ FusesKept s t)) ∧
  (∀ (s : State) (src : Nat), s.gbl.seq = .holdOff .recovery src →
    Leads (exec .resetTakeHold s) (fun t =>
      t.gbl.state = .selftest ∧ t.gbl.seq = .start 2 ∧ t.gbl.event = 0 ∧ t.gbl.lastReset = 2 ∧ t.gbl.resetSource = src ∧
      t.gbl.resets = min (s.gbl.resets + 1) 65535 ∧ t.qh = Qh.reset ∧ t.xlt = Xlt.reset ∧ t.flt = Flt.reset ∧
      t.asy = { Asy.reset with counts := t.asy.counts } ∧
      (∀ tid, ∃ spans, mgetD t.asy.counts tid AsyCounts.zero = { AsyCounts.zero with spans := spans }) ∧ t.shutters = [] ∧ t.mbx.rung = [] ∧ t.mbx.taken = [] ∧ t.mbx.busy = s.mbx.busy ∧
      t.clerk.log = s.clerk.log ∧ t.clerk.lost.map Owed.slot = s.mbx.busy ∧ t.ldg.openStep = none ∧
      (sealedKept s = false → t.ldg = Ledger.reset) ∧ (sealedKept s = true → t.ldg.journal.map (fun j => { j with rebuilds := [] }) =
        s.ldg.journal.map (fun j => { j with rebuilds := [] })))) ∧
  (∀ s : State, s.gbl.seq = .heldDrain →
    Leads (exec .resetTakeHold s) (fun t =>
      t.gbl.state = .held ∧ t.gbl.heldCause = s.gbl.heldCause ||| 4 ∧ t.gbl.quiesce = 0 ∧ t.gbl.seq = .idle ∧
      t.wch.busy = false ∧ t.wch.result = 0x600#64 ∧ t.hbm = s.hbm ∧ t.tables = s.tables)) ∧
  (∀ s : State, ∃ t, exec .porAssert s = .next t ∧ t.gbl.state = .off ∧ t.gbl.porLow = true ∧ t.gbl.clockLost = false ∧
    MemoriesEmpty t ∧ FusesKept s t) ∧
  (∀ s : State, s.gbl.porLow = false → ∀ c ∈ [Instr.refclkLoss, .railFault],
    Leads (exec c s) (fun t => t.gbl.state = .off ∧ t.gbl.porLow = false ∧ t.gbl.clockLost = true ∧ MemoriesEmpty t ∧ FusesKept s t)) ∧
  (∀ s : State, s.gbl.porLow = true →
    exec .porRelease s = .next { s with gbl := { s.gbl with porLow := false, state := .selftest, seq := .start 0 } }) ∧
  (∀ s : State, exec .rstNRelease s = .next { s with gbl := { s.gbl with rstLow := false } })

/-- The sequence has ended in READY, or in HELD with these causes (R533, R545, R652). -/
def SequenceEnded (causes : Nat) (t : State) : Prop :=
  t.gbl.seq = .idle ∧ t.gbl.active = 0 ∧ t.gbl.quiesce = 0 ∧ t.gbl.heldCause = causes ∧ bit t.gbl.event 1 = true

/-- Flow 0 and the Larder plan as the Clerk installs them (R307, R457, R532). -/
def Defaulted (plan : W64) (t : State) : Prop :=
  mgetD t.qh.flows 0 Flow.unused = { Flow.unused with kind := .runSubmit, limit := 256, reserve := 16 } ∧ t.lrd.plan = plan ∧
    t.lrd.planValid = true

/-- Secure boot and the ends of the start and recovery sequences (R301, R532 to R536, R545, R548, R651, R673). -/
def Obligations.SequencesEnd : Prop :=
  (∀ (s : State) (img : ImageHdr) (n : Nat), bootDue s = true → s.gbl.seq = .start n →
    (s.gbl.rollback ≤ img.secver % 65536 →
      Leads (exec (.clerkSecureBoot true img) s) (fun t =>
        t.clerk.state = .running ∧ t.clerk.stopped = false ∧ t.gbl.idFw = idFwOf img ∧
        t.gbl.bootCount = min (s.gbl.bootCount + 1) (2 ^ 32 - 1) ∧ t.gbl.state = s.gbl.state ∧ t.gbl.seq = .start n)) ∧
    (img.secver % 65536 < s.gbl.rollback →
      Leads (exec (.clerkSecureBoot true img) s) (fun t => t.clerk.state = .bootFailed ∧ t.gbl.idFw = s.gbl.idFw)) ∧
    Leads (exec (.clerkSecureBoot false img) s) (fun t =>
      t.clerk.state = .bootFailed ∧ t.gbl.idFw = s.gbl.idFw ∧ t.gbl.bootCount = min (s.gbl.bootCount + 1) (2 ^ 32 - 1))) ∧
  (∀ (s : State) (res : BistResult) (n : Nat), s.gbl.seq = .start n → n ≠ 2 → bootOver s = true →
    Leads (exec (.selftestSequenceDone res) s) (fun t =>
      SequenceEnded (heldCauses t) t ∧ t.gbl.state = (if heldCauses t = 0 then .ready else .held) ∧
      t.lrd.state = (if larderFails res then .failed else .ready) ∧ t.lrd.bistFail = larderFails res ∧
      (larderFails res = true → t.gbl.testFailed = true) ∧ t.gbl.sramFailed = res.sramFail % 32 ∧
      t.pwr.current = 0 ∧ t.pwr.busy = false ∧ (clerkRuns s = true → Defaulted 0x00100084010040A0#64 t))) ∧
  (∀ s : State, s.gbl.seq = .start 2 → bootOver s = true → clerkRuns s = true →
    Leads (exec .recoveryComplete s) (fun t =>
      SequenceEnded (heldCauses s) t ∧
      (heldCauses s = 0 → t.gbl.state = .ready ∨ t.gbl.state = .running) ∧ (heldCauses s ≠ 0 → t.gbl.state = .held) ∧
      (∀ o ∈ s.clerk.lost, lostFinal o ∈ t.mbx.respQ) ∧ (∀ o ∈ s.clerk.lostOwed, lostReport o ∈ t.mbx.respQ) ∧
      t.clerk.lost = [] ∧ t.clerk.lostOwed = [] ∧ t.clerk.report = none ∧
      Defaulted (if s.clerk.cfgPlan = 0 then 0x00100084010040A0#64 else s.clerk.cfgPlan) t))

/-- Table create, describe, destroy and load start (R34 to R39, R72 to R74, R668). -/
def Obligations.TableCommands : Prop :=
  (∀ (s : State) (slot : Nat) (m : Msg) (v : ChipView) (p : Placement) (bs : List Byte), Ready s 0x0501 slot m →
    clerkRead s v m.ctx (bits (arg m 1) 0 56) 256 = .ok bs →
    (createOk s bs p.other = true →
      placementOk s (heldRegions s none) (regionsAt (placesOf p) (slotSizes s (tableOf bs) (tableOf bs).slot0.shelves)) = true →
      Leads (exec (.tableCreate slot v p) s) (fun t =>
        t.mbx = finalMbx s slot m .ok [] ∧
        (∃ x, mget t.tables (fieldOf bs 0 0 12) = some x ∧ x.dim64 = fieldOf bs 0 16 8 ∧ x.destroying = false ∧
          x.agreed = none ∧ x.opt = optOf bs ∧ x.slot0.state = .loading ∧ x.slot0.rows = fieldOf bs 6 0 41 ∧
          x.slot0.dirLoc = p.dir ∧ x.slot0.used = [] ∧ x.slot0.refs = 0 ∧ x.slot1.state = .empty) ∧
        (∀ k, k ≠ fieldOf bs 0 0 12 → mget t.tables k = mget s.tables k))) ∧
    (createOk s bs p.other = false →
      Leads (exec (.tableCreate slot v p) s) (fun t => t.mbx = finalMbx s slot m .badDescriptor [] ∧ t.tables = s.tables))) ∧
  (∀ (s : State) (slot : Nat) (m : Msg) (v : ChipView), Ready s 0x0502 slot m →
    (∀ x y, mget s.tables (bits (arg m 1) 0 12) = some x →
      translate s v m.ctx (bits (arg m 2) 0 56) (wordsToBytes (descWords (bits (arg m 1) 0 12) x)).length true = .ok y →
      Leads (exec (.tableDescribe slot v) s) (fun t =>
        t.mbx = awaitingMbx s slot m [] (resultWrites y (bits (arg m 2) 0 56) (wordsToBytes (descWords (bits (arg m 1) 0 12) x))) ∧
        t.tables = s.tables)) ∧
    (mget s.tables (bits (arg m 1) 0 12) = none →
      Leads (exec (.tableDescribe slot v) s) (fun t => t.mbx = finalMbx s slot m .tableAbsent [] ∧ t.tables = s.tables))) ∧
  (∀ (s : State) (slot : Nat) (m : Msg), Ready s 0x0503 slot m →
    (∀ x, liveTable s (bits (arg m 1) 0 12) = some x → holdsEntry s (bits (arg m 1) 0 12) = false →
      x.slot0.state ≠ .draining →
      Leads (exec (.tableDestroy slot) s) (fun t => t.mbx = finalMbx s slot m .ok [] ∧
        mget t.tables (bits (arg m 1) 0 12) = (if x.slot0.refs = 0 ∧ x.slot1.refs = 0 then none else some { x with destroying := true }) ∧
        (∀ k, k ≠ bits (arg m 1) 0 12 → mget t.tables k = mget s.tables k))) ∧
    (∀ x, liveTable s (bits (arg m 1) 0 12) = some x → holdsEntry s (bits (arg m 1) 0 12) = true →
      Leads (exec (.tableDestroy slot) s) (fun t => t.mbx = finalMbx s slot m .badDescriptor [] ∧ t.tables = s.tables)) ∧
    (liveTable s (bits (arg m 1) 0 12) = none →
      Leads (exec (.tableDestroy slot) s) (fun t => t.mbx = finalMbx s slot m .tableAbsent [] ∧ t.tables = s.tables))) ∧
  (∀ (s : State) (slot : Nat) (m : Msg) (p : Placement) (x : Table), Ready s 0x0504 slot m →
    liveTable s (bits (arg m 1) 0 12) = some x →
    loadStartOk s (bits (arg m 1) 0 12) (bits (arg m 1) 12 1) (bits (arg m 2) 0 41) (bits (arg m 3) 0 24) p.other x = true →
    placementOk s (heldRegions s (some (bits (arg m 1) 0 12, bits (arg m 1) 12 1)))
      (regionsAt (placesOf p) (slotSizes s x (bits (arg m 3) 0 24))) = true →
    Leads (exec (.loadStart slot p) s) (fun t => t.mbx = finalMbx s slot m .ok [] ∧
      (∃ y, mget t.tables (bits (arg m 1) 0 12) = some y ∧ (vslot y (bits (arg m 1) 12 1)).state = .loading ∧
        (vslot y (bits (arg m 1) 12 1)).rows = bits (arg m 2) 0 41 ∧
        (vslot y (bits (arg m 1) 12 1)).shelves = bits (arg m 3) 0 24 ∧ (vslot y (bits (arg m 1) 12 1)).used = []) ∧
      (∀ k, k ≠ bits (arg m 1) 0 12 → mget t.tables k = mget s.tables k)))

/-- Table load, switch and row restore (R72 to R76, R510, R511, R667). -/
def Obligations.LoadSwitchRestore : Prop :=
  (∀ (s : State) (slot : Nat) (m : Msg) (v : ChipView) (x : Table), Ready s 0x0505 slot m →
    liveTable s (bits (arg m 1) 0 12) = some x →
    (∀ y, 1 ≤ bits (arg m 3) 0 17 → bits (arg m 3) 0 17 ≤ 65536 → (vslot x (bits (arg m 1) 12 1)).state = .loading →
      translate s v m.ctx (bits (arg m 2) 0 56) (bits (arg m 3) 0 17 * loadBytes x (bit (arg m 1) 13)) false = .ok y →
      Leads (exec (.loadRows slot v) s) (fun t => ∃ st a b c, t.mbx = finalMbx s slot m st (words32 [a, b, c]) ∧
        (st = .ok → a + b + c = bits (arg m 3) 0 17) ∧ (st ≠ .ok → a + b + c < bits (arg m 3) 0 17) ∧
        t.maps = s.maps ∧ t.templates = s.templates ∧ t.ldg = s.ldg ∧ t.qh = s.qh)) ∧
    ((vslot x (bits (arg m 1) 12 1)).state ≠ .loading ∨ bits (arg m 3) 0 17 < 1 ∨ 65536 < bits (arg m 3) 0 17 →
      Leads (exec (.loadRows slot v) s) (fun t => t.mbx = finalMbx s slot m .badDescriptor [0, 0] ∧ t.tables = s.tables ∧ t.hbm = s.hbm))) ∧
  (∀ (s : State) (slot : Nat) (m : Msg) (x : Table), Ready s 0x0506 slot m → liveTable s (bits (arg m 1) 0 12) = some x →
    ((vslot x (bits (arg m 1) 12 1)).state = .loading → allLoaded s x (bits (arg m 1) 12 1) = true →
      Leads (exec (.loadEnd slot) s) (fun t => t.mbx = finalMbx s slot m .ok [] ∧
        t.tables = mset s.tables (bits (arg m 1) 0 12) (setVslot x (bits (arg m 1) 12 1) { vslot x (bits (arg m 1) 12 1) with state := .standby }))) ∧
    ((vslot x (bits (arg m 1) 12 1)).state ≠ .loading ∨ allLoaded s x (bits (arg m 1) 12 1) = false →
      Leads (exec (.loadEnd slot) s) (fun t => t.mbx = finalMbx s slot m .badDescriptor [] ∧ t.tables = s.tables))) ∧
  (∀ (s : State) (slot : Nat) (m : Msg) (x : Table), Ready s 0x0507 slot m → liveTable s (bits (arg m 1) 0 12) = some x →
    (∀ n, standbySlot x = some n → s.ldg.committing = false →
      Leads (exec (.switch slot) s) (fun t => t.mbx = finalMbx s slot m .ok [] ∧
        ∃ y, mget t.tables (bits (arg m 1) 0 12) = some y ∧ y.active = n ∧ (vslot y n).state = .active ∧
          (activeSlot x = some (1 - n) → (vslot y (1 - n)).state = if (vslot x (1 - n)).refs = 0 then .empty else .draining))) ∧
    (standbySlot x = none ∨ s.ldg.committing = true →
      Leads (exec (.switch slot) s) (fun t => t.mbx = finalMbx s slot m .badDescriptor [] ∧ t.tables = s.tables))) ∧
  (∀ (s : State) (slot : Nat) (m : Msg) (v : ChipView) (x : Table), Ready s 0x0508 slot m →
    liveTable s (bits (arg m 1) 0 12) = some x →
    (∀ i bs r u, activeSlot x = some i → clerkRead s v m.ctx (bits (arg m 2) 0 56) (loadBytes x true) = .ok bs →
      loadRec x true bs = some r → loadFate s x (vslot x i).rows r = .write →
      restoreWrite (bits (arg m 1) 0 12) i (bits (arg m 3) 0 32) x r (untake slot s) = some u →
      Leads (exec (.rowRestore slot v) s) (fun t => t.hbm = u.hbm ∧ t.tables = u.tables ∧ t.moves = u.moves ∧
        t.mbx = finalMbx s slot m .ok [])) ∧
    (∀ i bs r, activeSlot x = some i → clerkRead s v m.ctx (bits (arg m 2) 0 56) (loadBytes x true) = .ok bs →
      loadRec x true bs = some r → loadFate s x (vslot x i).rows r ≠ .write →
      Leads (exec (.rowRestore slot v) s) (fun t => t.mbx = finalMbx s slot m .badDescriptor [] ∧ t.hbm = s.hbm)) ∧
    (activeSlot x = none →
      Leads (exec (.rowRestore slot v) s) (fun t => t.mbx = finalMbx s slot m .badDescriptor [] ∧ t.hbm = s.hbm)))

/-- Templates, node number, routes and home maps (R59, R60, R114, R362, R364, R517, R582, R583). -/
def Obligations.InstallsByTheClerk : Prop :=
  (∀ (s : State) (slot : Nat) (m : Msg) (v : ChipView), Ready s 0x0601 slot m →
    (∀ x, readImage s v m.ctx (bits (arg m 2) 0 56) = .ok (some x) → templateBusy s (bits (arg m 1) 0 9) = false →
      Leads (exec (.templateInstall slot v) s) (fun t =>
        t.mbx = finalMbx s slot m .ok [] ∧ t.templates = mset s.templates (bits (arg m 1) 0 9) x)) ∧
    (∀ x, readImage s v m.ctx (bits (arg m 2) 0 56) = .ok (some x) → templateBusy s (bits (arg m 1) 0 9) = true →
      Leads (exec (.templateInstall slot v) s) (fun t =>
        t.templates = s.templates ∧ t.clerk.waiting = some (bits (arg m 1) 0 9, slot, x) ∧
        t.mbx.respQ = s.mbx.respQ ∧
        t.mbx.taken = s.mbx.taken.map (fun k => if k.slot == slot then { k with held := true } else k))) ∧
    (readImage s v m.ctx (bits (arg m 2) 0 56) = .ok none →
      Leads (exec (.templateInstall slot v) s) (fun t =>
        t.mbx = finalMbx s slot m .badTemplate [] ∧ t.templates = s.templates))) ∧
  (∀ (s : State) (n slot : Nat) (x : Template) (k : Taken), s.clerk.waiting = some (n, slot, x) →
    s.mbx.taken.find? (fun k => k.slot == slot && k.held) = some k → templateBusy s n = false → clerkRuns s = true →
    Leads (exec (.templateInstallComplete n) s) (fun t =>
      t.mbx = finalMbx s slot k.msg .ok [] ∧ t.templates = mset s.templates n x ∧ t.clerk.waiting = none)) ∧
  (∀ (s : State) (slot : Nat) (m : Msg), Ready s 0x0801 slot m →
    ((∀ p < 8, (portAt s p).state = .down) →
      Leads (exec (.nodeSet slot) s) (fun t => t.mbx = finalMbx s slot m .ok [] ∧
        t.span = { s.span with nodeId := bits (arg m 1) 0 14, nodeValid := bit (arg m 1) 14 })) ∧
    ((∃ p < 8, (portAt s p).state ≠ .down) →
      Leads (exec (.nodeSet slot) s) (fun t => t.mbx = finalMbx s slot m .badDescriptor [] ∧ t.span = s.span))) ∧
  (∀ (s : State) (slot : Nat) (m : Msg) (v : ChipView) (bs : List Byte), Ready s 0x0803 slot m →
    clerkRead s v m.ctx (bits (arg m 1) 0 56) 256 = .ok bs →
    Leads (exec (.routeSet slot v) s) (fun t => t.mbx = finalMbx s slot m .ok [] ∧
      ∀ i < 128, mgetD t.span.groupRoute i 0 = fieldAt bs i 1 ∧ mgetD t.span.memberRoute i 0 = fieldAt (bs.drop 128) i 1)) ∧
  (∀ (s : State) (slot other loc : Nat) (m : Msg) (v : ChipView) (bs : List Byte), Ready s 0x0802 slot m →
    mapPlaced s (bits (arg m 1) 0 4) loc = true → clerkRead s v m.ctx (bits (arg m 2) 0 56) 131072 = .ok bs →
    (mapSound bs = false →
      Leads (exec (.homemapInstall slot v ⟨other, loc⟩) s) (fun t => t.mbx = finalMbx s slot m .badDescriptor [] ∧ t.maps = s.maps)) ∧
    (mapSound bs = true → mget s.maps (bits (arg m 1) 0 4) = none →
      Leads (exec (.homemapInstall slot v ⟨other, loc⟩) s) (fun t => t.mbx = finalMbx s slot m .ok [] ∧
        t.maps = mset s.maps (bits (arg m 1) 0 4) (firstMap loc (mapEntries bs) (bits (arg m 1) 16 16)))) ∧
    (∀ h, mapSound bs = true → mget s.maps (bits (arg m 1) 0 4) = some h → epochLater (bits (arg m 1) 16 16) h.epoch = true →
      remapOk s (bits (arg m 1) 0 4) h other (mapEntries bs) (bits (arg m 1) 16 16) = true →
      Leads (exec (.homemapInstall slot v ⟨other, loc⟩) s) (fun t => t.mbx = finalMbx s slot m .ok [] ∧
        (∃ x, mget t.maps (bits (arg m 1) 0 4) = some x ∧ x.entries = mapEntries bs ∧ x.epoch = bits (arg m 1) 16 16 ∧
          x.old = some (h.entries, h.epoch) ∧ x.counts.rowsOut = 0 ∧ x.counts.rowsIn = 0) ∧
        (∀ k, k ≠ bits (arg m 1) 0 4 → mget t.maps k = mget s.maps k))) ∧
    (∀ h, mapSound bs = true → mget s.maps (bits (arg m 1) 0 4) = some h →
      (epochLater (bits (arg m 1) 16 16) h.epoch = false ∨
        remapOk s (bits (arg m 1) 0 4) h other (mapEntries bs) (bits (arg m 1) 16 16) = false) →
      Leads (exec (.homemapInstall slot v ⟨other, loc⟩) s) (fun t => t.mbx = finalMbx s slot m .badDescriptor [] ∧ t.maps = s.maps)))

/-- Contexts, segments, flows, plans and refreshes (R251, R304 to R306, R309, R408, R412, R417, R456, R458, R512). -/
def Obligations.ContextsFlowsPlans : Prop :=
  (∀ (s : State) (slot : Nat) (m : Msg), Ready s 0x0701 slot m →
    (ctxSetOk s (bits (arg m 1) 0 6) (bit (arg m 1) 6) (bit (arg m 1) 7) (arg m 2) (arg m 3) (arg m 4) = true →
      Leads (exec (.ctxSet slot) s) (fun t => t.mbx = finalMbx s slot m .ok [] ∧
        ctxOf t (bits (arg m 1) 0 6) = { ctxOf s (bits (arg m 1) 0 6) with
          valid := bit (arg m 1) 6, ptMode := bit (arg m 1) 7, winOfs := arg m 2, root := arg m 3, ptfmt := arg m 4 } ∧
        ∀ c, c ≠ bits (arg m 1) 0 6 → ctxOf t c = ctxOf s c)) ∧
    (ctxSetOk s (bits (arg m 1) 0 6) (bit (arg m 1) 6) (bit (arg m 1) 7) (arg m 2) (arg m 3) (arg m 4) = false →
      Leads (exec (.ctxSet slot) s) (fun t => t.mbx = finalMbx s slot m .badDescriptor [] ∧ t.xlt = s.xlt))) ∧
  (∀ (s : State) (slot : Nat) (m : Msg) (g : Seg), Ready s 0x0702 slot m →
    g = { base := arg m 2, last := arg m 3, phys := arg m 4, flags := arg m 5 } →
    (segValid g = false ∨ segSetOk s (bits (arg m 1) 0 6) (bits (arg m 1) 8 4) g = true →
      Leads (exec (.segSet slot) s) (fun t => t.mbx = finalMbx s slot m .ok [] ∧
        mget (ctxOf t (bits (arg m 1) 0 6)).segs (bits (arg m 1) 8 4) = some g ∧
        (∀ n, n ≠ bits (arg m 1) 8 4 →
          mget (ctxOf t (bits (arg m 1) 0 6)).segs n = mget (ctxOf s (bits (arg m 1) 0 6)).segs n) ∧
        ∀ c, c ≠ bits (arg m 1) 0 6 → ctxOf t c = ctxOf s c)) ∧
    (segValid g = true → segSetOk s (bits (arg m 1) 0 6) (bits (arg m 1) 8 4) g = false →
      Leads (exec (.segSet slot) s) (fun t => t.mbx = finalMbx s slot m .badDescriptor [] ∧ t.xlt = s.xlt))) ∧
  (∀ (s : State) (slot : Nat) (m : Msg), Ready s 0x0703 slot m →
    (∀ k, kindCode (bits (arg m 1) 16 3) = some k →
      flowConfigOk s (bits (arg m 1) 0 14) (bits (arg m 2) 0 21) (bits (arg m 2) 24 21) = true →
      Leads (exec (.flowConfig slot) s) (fun t => t.mbx = finalMbx s slot m .ok [] ∧
        flowOf t (bits (arg m 1) 0 14) = { flowOf s (bits (arg m 1) 0 14) with
          kind := k, limit := bits (arg m 2) 0 21, reserve := bits (arg m 2) 24 21 } ∧
        ∀ f, f ≠ bits (arg m 1) 0 14 → flowOf t f = flowOf s f)) ∧
    (kindCode (bits (arg m 1) 16 3) = none ∨
      flowConfigOk s (bits (arg m 1) 0 14) (bits (arg m 2) 0 21) (bits (arg m 2) 24 21) = false →
      Leads (exec (.flowConfig slot) s) (fun t => t.mbx = finalMbx s slot m .badDescriptor [] ∧ t.qh = s.qh))) ∧
  (∀ (s : State) (slot : Nat) (m : Msg) (v : ChipView) (c : Instr), s.ldg.committing = true →
    ((Ready s 0x0901 slot m ∧ c = .larderPlan slot) ∨ (Ready s 0x0902 slot m ∧ c = .hotsetRefresh slot v)) →
    exec c s = .next (holdTaken slot s)) ∧
  (∀ (s : State) (slot : Nat) (m : Msg) (v : ChipView) (c : Instr), s.ldg.committing = false →
    ((Ready s 0x0901 slot m ∧ c = .larderPlan slot) ∨
      (deferredCmd s slot = some { slot := slot, msg := m, held := true } ∧ m.op = 0x0901 ∧ c = .deferredConfigExecute slot v)) →
    (planOk s (arg m 1) = true → planHeld s (arg m 1) = false →
      Leads (exec c s) (fun t => t.mbx = finalMbx s slot m .ok [] ∧ t.lrd.plan = arg m 1 ∧ t.lrd.planValid = true ∧
        t.lrd.copies = [] ∧ t.lrd.replicas = [] ∧ t.lrd.kept = [] ∧ t.ldg = s.ldg)) ∧
    (planOk s (arg m 1) = false ∨ planHeld s (arg m 1) = true →
      Leads (exec c s) (fun t => t.mbx = finalMbx s slot m .badDescriptor [] ∧ t.lrd = s.lrd))) ∧
  (∀ (s : State) (slot : Nat) (m : Msg) (v : ChipView) (c : Instr), s.ldg.committing = false →
    ((Ready s 0x0902 slot m ∧ c = .hotsetRefresh slot v) ∨
      (deferredCmd s slot = some { slot := slot, msg := m, held := true } ∧ m.op = 0x0902 ∧ c = .deferredConfigExecute slot v)) →
    (∀ l hot reps, readHotList s v m.ctx (bits (arg m 1) 0 56) = .ok l → l.hot = .ok hot → l.reps = .ok reps →
      Leads (exec c s) (fun t => (∀ r ∈ t.lrd.replicas, (r.tid, r.row) ∈ reps ∧ r.defkey = false) ∧
        ((∃ r, t.lrd.refresh = some r ∧ r.slot = slot ∧ r.msg = m) ∨
          (t.lrd.refresh = none ∧ ∃ st p, t.mbx = finalMbx s slot m st p)))) ∧
    (∀ e, readHotList s v m.ctx (bits (arg m 1) 0 56) = .error e →
      Leads (exec c s) (fun t => t.mbx = finalMbx s slot m e [] ∧ t.lrd = s.lrd)))

/-- Step open, Seal and Commit (R18, R210, R228, R246, R249, R253, R266, R288, R292). -/
def Obligations.StepSealCommit : Prop :=
  (∀ (s : State) (slot : Nat) (m : Msg) (v : ChipView), Ready s 0x0A01 slot m →
    (∀ l, bits (arg m 1) 32 13 ≤ 4096 → openOk s (bits (arg m 1) 0 32) = true →
      exponentList s v m.ctx (bits (arg m 1) 32 13) (bits (arg m 2) 0 56) = .ok l →
      Leads (exec (.stepOpen slot v) s) (fun t => t.mbx = finalMbx s slot m .ok [] ∧
        (∀ tid x e, mget s.tables tid = some x → l.find? (fun e => e.1 == tid) = some e →
          mget t.tables tid = some { x with agreed := some e.2 }) ∧
        (s.ldg.penRef ≠ .unset → t.ldg.openStep = some (bits (arg m 1) 0 32) ∧ t.ldg.sealedStep = s.ldg.sealedStep ∧
          t.ldg.penRef = .after (bits (arg m 1) 0 32) ∧ t.ldg.localMax = [] ∧ t.ldg.spillRecords = 0 ∧
          t.ldg.filterOpen = [] ∧ t.ldg.entries = s.ldg.entries))) ∧
    (4096 < bits (arg m 1) 32 13 ∨ openOk s (bits (arg m 1) 0 32) = false →
      Leads (exec (.stepOpen slot v) s) (fun t => t.mbx = finalMbx s slot m .badDescriptor [] ∧ t.ldg = s.ldg ∧ t.tables = s.tables))) ∧
  (∀ (s : State) (slot : Nat) (m : Msg), Ready s 0x0A02 slot m →
    (s.ldg.openStep = some (bits (arg m 1) 0 32) → s.ldg.sealedStep = none →
      Leads (exec (.sealStep slot) s) (fun t => t.mbx = acceptedMbx s slot m ∧
        t.clerk.owed = s.clerk.owed ++ [{ slot := slot, seq := m.seq, op := m.op }] ∧
        t.ldg = { s.ldg with openStep := none, sealedStep := some (bits (arg m 1) 0 32), sealedWas := bits (arg m 1) 0 32,
                             sealing := true, sealDone := false, beforeSeal := s.ldg.input.length,
                             latePrior := s.ldg.lateArmed, lateArmed := true,
                             lastSealed := some (bits (arg m 1) 0 32, s.ldg.localMax), localMax := [],
                             filterSealed := s.ldg.filterOpen, filterOpen := [] })) ∧
    (s.ldg.openStep ≠ some (bits (arg m 1) 0 32) ∨ s.ldg.sealedStep ≠ none →
      Leads (exec (.sealStep slot) s) (fun t => t.mbx = finalMbx s slot m .badDescriptor [] ∧ t.ldg = s.ldg))) ∧
  (∀ s : State, sealReady s = true → Leads (exec .sealDone s) (fun t =>
    t.ldg = { s.ldg with sealing := false, sealDone := true } ∧ bit t.gbl.event 5 = true ∧
    (clerkRuns s = true → ∀ o ∈ t.clerk.owed, o.op ≠ 0x0A02))) ∧
  (∀ (s : State) (slot : Nat) (m : Msg), Ready s 0x0A03 slot m →
    s.ldg.sealedStep = some (bits (arg m 1) 0 32) → s.ldg.sealDone = true → s.ldg.committing = false →
    lambdaOk (BitVec.ofNat 32 (bits (arg m 1) 32 32)) = true →
    (redoJournal s (bits (arg m 1) 0 32) = none →
      Leads (exec (.commit slot) s) (fun t => t.mbx = acceptedMbx s slot m ∧ t.ldg.committing = true ∧
        t.ldg.commit.phase = .journal ∧ t.ldg.commit.redo = false ∧
        t.ldg.commit.lambda = BitVec.ofNat 32 (bits (arg m 1) 32 32) ∧ t.ldg.commit.applied = 0 ∧
        t.tables = s.tables.map (fun p => (p.1, { p.2 with opt := advancePowers (bits (arg m 1) 0 32) p.2.opt })) ∧
        ∃ j, t.ldg.journal = some j ∧ j.step = bits (arg m 1) 0 32 ∧
          j.lambda = BitVec.ofNat 32 (bits (arg m 1) 32 32) ∧ j.entries = [] ∧ j.flushDone = false)) ∧
    (∀ j, redoJournal s (bits (arg m 1) 0 32) = some j →
      Leads (exec (.commit slot) s) (fun t => t.mbx = acceptedMbx s slot m ∧
        t.tables = s.tables.map (fun p => (p.1, { p.2 with opt := restorePowers j.powers p.1 p.2.opt }))))) ∧
  (∀ (s : State) (slot : Nat) (m : Msg), Ready s 0x0A03 slot m →
    (s.ldg.sealedStep ≠ some (bits (arg m 1) 0 32) ∨ s.ldg.sealDone = false ∨ s.ldg.committing = true ∨
      lambdaOk (BitVec.ofNat 32 (bits (arg m 1) 32 32)) = false) →
    Leads (exec (.commit slot) s) (fun t => t.mbx = finalMbx s slot m .badDescriptor [] ∧ t.ldg = s.ldg)) ∧
  (∀ (s : State) (q duration : Nat), s.ldg.commit.phase = .finish → ledgerRuns s = true → s.ldg.sealedStep = some q →
    Leads (exec (.commitDone duration) s) (fun t =>
      t.ldg.sealedStep = none ∧ t.ldg.sealDone = false ∧ t.ldg.committing = false ∧ t.ldg.journal = none ∧
      t.ldg.filterSealed = [] ∧ (∀ e ∈ t.ldg.entries, e.step ≠ q) ∧ (∀ r ∈ t.ldg.spills, r.step ≠ q) ∧
      (∀ k ∈ t.lrd.kept, k.step ≠ q) ∧ bit t.gbl.event 4 = true ∧
      (clerkRuns s = true → ∀ o ∈ t.clerk.owed, o.op ≠ 0x0A03)))

/-- The phases of a Commit (R253, R255, R258 to R264, R276 to R281), row moves (R55, R56) and notices (R259). -/
def Obligations.CommitPhases : Prop :=
  (∀ (s w : State) (j : Journal) (es : List JEntry), s.ldg.journal = some j → s.ldg.commit.phase = .journal →
    ledgerRuns s = true → w = meetEntries (sealedNo s) s →
    es = placeJournal (journalBase w + journalHeader) ((inOrder w (sealedNo s)).map (journalEntry w)) →
    ∃ u, exec .journalFlushDone s = .next (advance u) ∧ u.ldg.commit.phase = .apply ∧ u.ldg.commit.flushDone = true ∧
      u.ldg.journal = some { j with entries := es, flushDone := true } ∧
      u.ldg.commit.todo = es.filter (fun e => !e.filtered) ∧ u.hbm = (writeJournal (sealedNo s) es w).hbm ∧ u.tables = s.tables) ∧
  (∀ (s : State) (e : JEntry) (bad : Option Nat) (errs : List CwErr), nextEntry s.ldg.commit = some e →
    (s.ldg.commit.phase = .apply ∨ s.ldg.commit.phase = .spill) → applyWaits s e.key = false → issueHeld s = false →
    (applyPlace s e.key = none →
      Leads (exec (.applyUnit ⟨bad, errs⟩) s) (fun t => t.hbm = s.hbm ∧ t.tables = s.tables ∧ t.lrd = s.lrd)) ∧
    (∀ x p, applyPlace s e.key = some (x, p) →
      (∀ u, applyGet x p e bad errs s = (none, u) → Leads (exec (.applyUnit ⟨bad, errs⟩) s) (fun t =>
        t.hbm = u.hbm ∧ t.tables = s.tables ∧ t.lrd = u.lrd ∧ bit t.gbl.event evEccUncorrectable = true)) ∧
      (∀ d xs st u, applyGet x p e bad errs s = (some (d, xs, st), u) →
        ((hdrOf d.header).stamp = sealedNo u → Leads (exec (.applyUnit ⟨bad, errs⟩) s) (fun t =>
          t.hbm = u.hbm ∧ t.tables = s.tables ∧ t.lrd = u.lrd)) ∧
        ((hdrOf d.header).stamp ≠ sealedNo u → Leads (exec (.applyUnit ⟨bad, errs⟩) s) (fun t =>
          t.hbm = (writeUpdate x p e (hdrOf d.header) xs st u).hbm ∧
          t.tables = (writeUpdate x p e (hdrOf d.header) xs st u).tables ∧
          t.lrd = (writeUpdate x p e (hdrOf d.header) xs st u).lrd))))) ∧
  (∀ (s u w : State) (i : Nat) (q : PromoReq), s.ldg.commit.promoIn.findIdx? (fun q => !promoWaits s q) = some i →
    s.ldg.commit.promoIn[i]? = some q → u = commitMod (fun c => { c with promoIn := c.promoIn.eraseIdx i }) s →
    w = meetFilter q.key q.step u →
    (s.ldg.sealedStep ≠ some q.step → exec .promotionReceive s = .next (sendNotice q u)) ∧
    (s.ldg.sealedStep = some q.step → spillKey w q.key = false → unapplied w q.key = false →
      exec .promotionReceive s = .next (sendNotice q w)) ∧
    (s.ldg.sealedStep = some q.step → (spillKey w q.key = true ∨ unapplied w q.key = true) →
      Leads (exec .promotionReceive s) (fun t => t.ldg.commit.promoIn = s.ldg.commit.promoIn.eraseIdx i ∧
        t.ldg.commit.notices = s.ldg.commit.notices ++ [q] ∧
        (spillKey w q.key = false → q.key ∉ s.ldg.commit.promoted → s.ldg.commit.promoted.length < 65536 →
          t.ldg.commit.promoted = s.ldg.commit.promoted ++ [q.key]) ∧
        (spillKey w q.key = false → q.key ∉ s.ldg.commit.promoted → 65536 ≤ s.ldg.commit.promoted.length →
          t.ldg.commit.promoted = s.ldg.commit.promoted ∧
          (s.ldg.commit.phase ≠ .idle → t.ldg.commit.promoteLost = satAdd 32 s.ldg.commit.promoteLost 1) ∧
          (s.ldg.commit.phase = .idle → t.ldg.commit.lostEarly = satAdd 32 s.ldg.commit.lostEarly 1))))) ∧
  (∀ (s w : State) (x : Scan), s.ldg.commit.phase = .spill → s.ldg.commit.todo = [] → issueHeld s = false →
    s.ldg.commit.spillLeft.foldl scanSpill ({ keys := [], left := [], folded := 0 }, s) = (x, w) →
    ∃ u, exec .spillScan s = .next (advance u) ∧ u.ldg.commit.todo = w.ldg.commit.batch ∧ u.ldg.commit.batch = [] ∧
      u.ldg.commit.spillLeft = x.left ∧ u.ldg.commit.spillRecords = satAdd 32 w.ldg.commit.spillRecords x.folded ∧
      u.ldg.commit.spillKeys = satAdd 32 w.ldg.commit.spillKeys x.keys.length ∧
      u.ldg.commit.spillScans = satAdd 32 w.ldg.commit.spillScans 1 ∧ u.ldg.entries = w.ldg.entries) ∧
  (∀ (s : State) (tid shelf k : Nat) (x : Table) (i : ShelfInfo), liveTable s tid = some x → activeSlot x = some k →
    shelfInfo (vslot x k) shelf = some i → s.ldg.commit.phase = .shelf → evaluatesFlat s x (vslot x k) i = true →
    issueHeld s = false →
    Leads (exec (.shelfEvaluate tid shelf) s) (fun t => mget t.tables tid = some (setVslot x k { vslot x k with
      used := (vslot x k).used.map (fun y => if y.num == shelf then
        { y with signal := fMul y.signal x.opt.shelfDecay, mark := some (sealedNo s) } else y) }) ∧
      ∀ o, o ≠ tid → mget t.tables o = mget s.tables o)) ∧
  (∀ (s : State) (tid slot shelf new : Nat) (x : Table) (i : ShelfInfo) (d : Due), liveTable (reclaim tid slot s) tid = some x →
    shelfInfo (vslot x slot) shelf = some i →
    d = { tid := tid, slot := slot, shelf := shelf, compact := compactDue (reclaim tid slot s) x (vslot x slot) i } →
    s.ldg.commit.phase = .shelf → slot < 2 → dueNow (reclaim tid slot s) d = true → shelfFree (vslot x slot) new = true →
    (∀ p ∈ rowsIn (reclaim tid slot s) x (vslot x slot) shelf, p.2.tier ≠ 2) → issueHeld s = false →
    ∃ u, exec (.shelfRebuild tid slot shelf new) s = .next (advance u) ∧
      ∀ j ∈ u.ldg.journal, ∃ delta rows, j.rebuilds.getLast? =
        some { tid := tid, slot := slot, oldShelf := shelf, newShelf := new, delta := delta, done := false, recoded := rows }) ∧
  (∀ (s : State) (idx : Nat) (m : RowMove), s.moves[idx]? = some m →
    ∃ u, exec (.rowMoveComplete idx) s = .next (advance u) ∧ u.moves = s.moves.eraseIdx idx ∧
      ((dirOf m.entry).tier ≠ 1 ∨ (readDir s m.dirAddr).tier = 3 →
        ∀ c ∈ u.lrd.copies, ¬ (c.tid = m.tid ∧ c.slot = m.slot ∧ c.dirAddr = m.dirAddr)) ∧
      ((dirOf m.entry).tier = 1 → (readDir s m.dirAddr).tier ≠ 3 → (mget s.tables m.tid).isSome →
        ∃ c ∈ u.lrd.copies, c.tid = m.tid ∧ c.slot = m.slot ∧ c.dirAddr = m.dirAddr ∧ c.block = (dirOf m.entry).larder)) ∧
  (∀ (s : State) (col : Nat) (k : RowKey) (rest : List RowKey), (colOf s col).notices = k :: rest →
    Leads (exec (.commitNoticeReceive col) s) (fun t => colOf t col = Column.notice { colOf s col with notices := rest } k ∧
      ∀ o, o ≠ col → colOf t o = colOf s o))

/-- The fold unit (R215 to R220, R224 to R232, R235, R248, R299, R570). -/
def Obligations.LedgerFolds : Prop :=
  (∀ (s : State) (c : Contrib) (rest : List Contrib) (pos n : Nat) (d : Bool), duePos s = none → s.ldg.input = c :: rest →
    fateOf s c (decide (0 < s.ldg.beforeSeal)) = .fold n d →
    ((entryOf s c.key n).isSome = true → Leads (exec (.ledgerFold pos false) s) (fun t => t.ldg.input = rest ∧
      t.ldg.beforeSeal = s.ldg.beforeSeal - 1 ∧ t.ldg.spills = s.ldg.spills ∧ t.ldg.pen = s.ldg.pen ∧
      t.ldg.entries = (meetRecord c.key n s).ldg.entries.map
        (fun e => if e.key == c.key && e.step == n then e.fold c d else e))) ∧
    (∀ dim, (entryOf s c.key n).isSome = false → ((mget s.tables c.key.tid).map Table.dim).getD 0 = dim →
      entryRoom s dim = true → posFree s pos = true →
      Leads (exec (.ledgerFold pos false) s) (fun t => t.ldg.input = rest ∧ t.ldg.spills = s.ldg.spills ∧
        ∃ e, t.ldg.entries = s.ldg.entries ++ [e] ∧ e.pos = pos ∧ e.key = c.key ∧ e.step = n ∧
          e.acc = addAt (1024 * c.slice) (List.replicate dim 0) c.vals)) ∧
    (∀ dim r, (entryOf s c.key n).isSome = false → ((mget s.tables c.key.tid).map Table.dim).getD 0 = dim →
      entryRoom s dim = false → spillRoom s (decide (0 < s.ldg.beforeSeal)) = true →
      r = ({ place := spillPlace s, step := n, key := c.key, slice := c.slice, deferred := d, tokens := c.tokens,
             contrib := c.contrib, elems := c.vals.map (fun x => (toBf16 x).1) } : Spill) →
      Leads (exec (.ledgerFold pos false) s) (fun t => t.ldg.input = rest ∧ t.ldg.entries = s.ldg.entries ∧
        t.ldg.spilled = true ∧ t.ldg.spills = s.ldg.spills ++ [r] ∧
        t.hbm = (hbmWrite (spillAddr s (spillPlace s)) (spillBytes r) s).hbm)) ∧
    (∀ dim, (entryOf s c.key n).isSome = false → ((mget s.tables c.key.tid).map Table.dim).getD 0 = dim →
      entryRoom s dim = false → spillRoom s (decide (0 < s.ldg.beforeSeal)) = false →
      exec (.ledgerFold pos false) s = .next s)) ∧
  (∀ (s : State) (c : Contrib) (rest : List Contrib) (pos : Nat) (why : DropReason), duePos s = none →
    s.ldg.input = c :: rest → fateOf s c (decide (0 < s.ldg.beforeSeal)) = .drop why →
    Leads (exec (.ledgerFold pos false) s) (fun t => t.ldg.input = rest ∧ t.ldg.entries = s.ldg.entries ∧
      t.ldg.pen = s.ldg.pen ∧ t.ldg.dropped = satAdd 24 s.ldg.dropped 1)) ∧
  (∀ (s : State) (c : Contrib) (rest : List Contrib) (pos : Nat) (h : PenHold) (d : Bool), duePos s = none →
    s.ldg.input = c :: rest → fateOf s c (decide (0 < s.ldg.beforeSeal)) = .pen h d →
    (∀ b, penPlace s c.bytes = some b → Leads (exec (.ledgerFold pos false) s) (fun t => t.ldg.input = rest ∧
      t.ldg.entries = s.ldg.entries ∧ t.ldg.pen = s.ldg.pen ++
        [{ c with hold := h, deferred := d, runs := if h.keepsRuns then c.runs else [], block := b }])) ∧
    (penPlace s c.bytes = none → Leads (exec (.ledgerFold pos false) s) (fun t =>
      t.ldg = { s.ldg with penFull := true } ∧ t.qh = s.qh))) ∧
  (∀ (s : State) (c : Contrib) (i pos : Nat), duePos s = some i → s.ldg.pen[i]? = some c →
    (∀ n, penPoison s c = none → c.hold = .step n → placeFate s c = none → (entryOf s c.key n).isSome = true →
      Leads (exec (.ledgerFold pos false) s) (fun t => t.ldg.pen = s.ldg.pen.eraseIdx i ∧ t.ldg.input = s.ldg.input ∧
        t.ldg.entries = (meetRecord c.key n s).ldg.entries.map
          (fun e => if e.key == c.key && e.step == n then e.fold c c.deferred else e))) ∧
    (∀ b, penPoison s c = some b →
      Leads (exec (.ledgerFold pos false) s) (fun t => t.ldg.pen = s.ldg.pen.eraseIdx i ∧ t.ldg.input = s.ldg.input ∧
        t.ldg.entries = s.ldg.entries ∧ t.ldg.dropped = satAdd 24 s.ldg.dropped 1 ∧ t.ldg.dropLog = s.ldg.dropLog))) ∧
  (∀ (s : State) (e : LEntry), e ∈ s.ldg.entries → e.issued = false → Leads (exec (.ledgerFold e.pos true) s) (fun t =>
    t.ldg.entries = s.ldg.entries.filter (fun x => !(x.pos == e.pos && !x.issued)) ∧
    t.ldg.dropped = satAdd 24 s.ldg.dropped 1 ∧ t.ldg.dropLog = s.ldg.dropLog ∧ t.ldg.input = s.ldg.input ∧
    t.ldg.pen = s.ldg.pen ∧ bit t.gbl.event evEccUncorrectable = true)) ∧
  (∀ (s : State) (pos : Nat), (∀ e ∈ s.ldg.entries, e.pos = pos → e.issued = true) → exec (.ledgerFold pos true) s = .next s)

/-- The backward path in the Columns (R193, R200 to R207, R226) and partials on their way (R152, R377, R378). -/
def Obligations.BackwardPath : Prop :=
  (∀ (s : State) (col mill : Nat) (ue : Bool) (w : BagWork) (r : Run) (x : Table) (l : Lookup × W32),
    workOf s col mill = some w → runOf s w.ord = some r → w.lookups[w.cursor]? = some l →
    mget s.tables r.desc.tid = some x → needsRows r = false → w.opened = true → r.backward = true → millsRun s = true →
    (colOf s col).window.length < 4096 →
    (∀ key vs c, l.1.key r.desc.tid = some key → x.opt.kind ≠ .none →
      contribution r (divisorOf x w) l.2 (gradSlice r w) (unreadElems r w key) = vs →
      (colOf s col).merged (usesIn (windowOf s col) { step := r.desc.step, key := key, slice := w.slice, epoch := r.epoch }) r.ord mill { step := r.desc.step, key := key, slice := w.slice, epoch := r.epoch } vs ue = some c →
      Leads (exec (.backwardContribution col mill ue) s) (fun t => (colOf t col).merge = c.merge ∧
        (colOf t col).runSet = c.runSet ∧ (∃ w', workOf t col mill = some w' ∧ w'.cursor = w.cursor + 1))) ∧
    (∀ key vs, l.1.key r.desc.tid = some key → x.opt.kind ≠ .none →
      contribution r (divisorOf x w) l.2 (gradSlice r w) (unreadElems r w key) = vs →
      (colOf s col).merged (usesIn (windowOf s col) { step := r.desc.step, key := key, slice := w.slice, epoch := r.epoch }) r.ord mill { step := r.desc.step, key := key, slice := w.slice, epoch := r.epoch } vs ue = none →
      Leads (exec (.backwardContribution col mill ue) s) (fun t =>
        colOf t col = { colOf s col with flushDue := true } ∧ workOf t col mill = some w)) ∧
    (l.1.key r.desc.tid = none ∨ x.opt.kind = .none →
      Leads (exec (.backwardContribution col mill ue) s) (fun t => (colOf t col).merge = (colOf s col).merge ∧
        ∃ w', workOf t col mill = some w' ∧ w'.cursor = w.cursor + 1))) ∧
  (∀ (s : State) (col : Nat), (colOf s col).flushDue = true →
    (s.ldg.input.length + localPartials s (colOf s col) ≤ 4096 →
      Leads (exec (.mergeFlush col) s) (fun t => colOf t col = { colOf s col with merge := [], runSet := [], flushDue := false } ∧
        (∀ o, o ≠ col → colOf t o = colOf s o) ∧ t.tables = s.tables ∧ t.hbm = s.hbm)) ∧
    (4096 < s.ldg.input.length + localPartials s (colOf s col) → exec (.mergeFlush col) s = .next s)) ∧
  (∀ (s : State) (col : Nat), col < 40 → (colOf s col).backward = true →
    ((colOf s col).merge ≠ [] ∨ (colOf s col).runSet ≠ []) →
    (∀ r ∈ s.qh.runs, r.backward = true → ∀ g ∈ r.groups, g.2.col = col → g.2.forwarded = true →
      ∀ b ∈ groupBags r g.1, (bagOf r b).state ≠ .pending) →
    Leads (exec (.backwardStreamIdle col) s) (fun t => colOf t col = { colOf s col with flushDue := true } ∧
      ∀ o, o ≠ col → colOf t o = colOf s o)) ∧
  (∀ (s : State) (k : Packet) (runs : List Nat) (rest : List (Packet × List Nat)), s.span.partialQ = (k, runs) :: rest →
    ∃ u, exec .partialEnqueue s = .next (partialTaken runs u) ∧ u = relay k { s with span := { s.span with partialQ := rest } }) ∧
  (∀ (s : State) (port idx : Nat) (q : List Queued), port < 8 →
    (idx < partialsIn (mgetD (portAt s port).queues 4 []) → mget (portAt s port).queues 4 = some q →
      Leads (exec (.foldHoldExpire port idx) s) (fun t => mget (portAt t port).queues 4 = some (makeEligible idx q) ∧
        (∀ ch, ch ≠ 4 → mget (portAt t port).queues ch = mget (portAt s port).queues ch) ∧
        ∀ o, o ≠ port → portAt t o = portAt s o)) ∧
    (partialsIn (mgetD (portAt s port).queues 4 []) ≤ idx → mget (portAt s port).queues 5 = some q →
      Leads (exec (.foldHoldExpire port idx) s) (fun t =>
        mget (portAt t port).queues 5 = some (makeEligible (idx - partialsIn (mgetD (portAt s port).queues 4 [])) q) ∧
        (∀ ch, ch ≠ 5 → mget (portAt t port).queues ch = mget (portAt s port).queues ch) ∧
        ∀ o, o ≠ port → portAt t o = portAt s o)))

/-- Counters and sampling (R598 to R606, R611 to R613). That a write of MODE 3, which is ignored, sets no REFUSED is the model's choice (assumption log 14). -/
def Obligations.CountersAndSamples : Prop :=
  (∀ (s : State) (slot : Nat) (m : Msg), Ready s 0x0B01 slot m →
    (ctrConfigOk (bits (arg m 1) 0 7) (bits (arg m 1) 8 7) (bits (arg m 1) 16 8) (bits (arg m 2) 0 15) = true →
      Leads (exec (.ctrConfig slot) s) (fun t => t.mbx = finalMbx s slot m .ok [] ∧
        (∀ i n, bits (arg m 1) 0 7 ≤ i → i ≤ bits (arg m 1) 8 7 → n < 8 → (bits (arg m 1) 16 8).testBit n = true →
          mgetD (islandOf t i).evsel n 0 = bits (arg m 2) 0 15 ∧ mgetD (islandOf t i).thresh n 0 = bits (arg m 3) 0 32 ∧
          mgetD (islandOf t i).value n 0 = 0 ∧ mgetD (islandOf t i).agg n 0 = 0 ∧ (islandOf t i).sticky.testBit n = false) ∧
        (∀ i n, bits (arg m 1) 0 7 ≤ i → i ≤ bits (arg m 1) 8 7 → (bits (arg m 1) 16 8).testBit n = false →
          mgetD (islandOf t i).evsel n 0 = mgetD (islandOf s i).evsel n 0 ∧
          mgetD (islandOf t i).thresh n 0 = mgetD (islandOf s i).thresh n 0 ∧
          mgetD (islandOf t i).value n 0 = mgetD (islandOf s i).value n 0 ∧
          mgetD (islandOf t i).agg n 0 = mgetD (islandOf s i).agg n 0) ∧
        (∀ i, i < bits (arg m 1) 0 7 ∨ bits (arg m 1) 8 7 < i → islandOf t i = islandOf s i))) ∧
    (ctrConfigOk (bits (arg m 1) 0 7) (bits (arg m 1) 8 7) (bits (arg m 1) 16 8) (bits (arg m 2) 0 15) = false →
      Leads (exec (.ctrConfig slot) s) (fun t => t.mbx = finalMbx s slot m .badDescriptor [] ∧ t.ctr = s.ctr))) ∧
  (∀ (s : State) (val : W64) (incs : List IslandInc), kcpAlive s = true →
    Leads (exec (.ctrModeWrite val) s) (fun t => t.ctr =
      if s.ctr.frozen = true then { s.ctr with refused := true }
      else { s.ctr with
        mode := if bits val 0 2 = 0 then .live else if bits val 0 2 = 1 then .dump else if bits val 0 2 = 2 then .freeze else s.ctr.mode
        refused := s.ctr.refused && !bit val 63 }) ∧
    (bit val 0 = true → s.ctr.frozen = false → s.ctr.mode = .freeze →
      Leads (exec (.ctrFreezeWrite val incs) s) (fun t => t.ctr.freeze = true ∧ t.ctr.frozen = true ∧
        t.ctr.islands = (visitAll incs s).ctr.islands ∧ t.ctr.snapshot = t.ctr.islands ∧
        t.ctr.seq = (s.ctr.seq + 1) % 2 ^ 32)) ∧
    (bit val 0 = true → s.ctr.frozen = true ∨ s.ctr.mode ≠ .freeze →
      Leads (exec (.ctrFreezeWrite val incs) s) (fun t => t.ctr = { s.ctr with refused := true })) ∧
    (bit val 0 = false →
      Leads (exec (.ctrFreezeWrite val incs) s) (fun t => t.ctr = { s.ctr with freeze := false, frozen := false, snapshot := [] })) ∧
    Leads (exec (.ctrDumpPeriodWrite val) s) (fun t => t.ctr =
      if bits val 0 32 < 16 then { s.ctr with refused := true } else { s.ctr with period := bits val 0 32 }) ∧
    Leads (exec (.ctrSampleWrite val) s) (fun t =>
      bits t.ctr.sample 1 5 = (if bits val 1 5 < 4 ∨ 24 < bits val 1 5 then bits s.ctr.sample 1 5 else bits val 1 5) ∧
      bits t.ctr.sample 0 1 = bits val 0 1 ∧ bits t.ctr.sample 6 4 = bits val 6 4 ∧ bits t.ctr.sample 12 37 = bits val 12 37) ∧
    (∀ c < 40, Leads (exec (.mclIdleCauseClear c val) s) (fun t =>
      colOf t c = { colOf s c with idle := [], wrapped := (colOf s c).wrapped && !bit val 56,
                                   idleSel := if 8 < bits val 0 4 then (colOf s c).idleSel else bits val 0 4 } ∧
      ∀ o, o ≠ c → colOf t o = colOf s o))) ∧
  (∀ (s w : State) (incs : List IslandInc), readerRuns s = true → w = incs.foldl (fun t x => passTime x t) s →
    Leads (exec (.readerVisit incs) s) (fun t =>
      (∀ p ∈ t.ctr.islands, p.2.seen = p.2.value ∧ p.2.seenCycles = p.2.cycles) ∧
      (∀ i n, n < 8 → isUpper (islandOf w i) n = false → isChained (islandOf w i) n = false →
        mgetD (islandOf t i).agg n 0 = (mgetD (islandOf w i).agg n 0 +
          (mgetD (islandOf w i).value n 0 + 2 ^ 32 - mgetD (islandOf w i).seen n 0) % 2 ^ 32) % 2 ^ 48) ∧
      (anySticky s = false → anySticky t = true → bit t.gbl.event evCtrSticky = true))) ∧
  (∀ (s : State) (incs : List IslandInc), readerRuns s = true → s.ctr.mode = .dump → bit s.ctr.dumpBase 0 = true →
    (∀ w, dumpBusy s = false → w = snapshot incs s →
      exec (.dumpPeriodEnd incs) s = .next (raise evCounterDump
        ((dumpWrites (bits s.ctr.dumpBase 14 35 * 16384 + (s.ctr.seq + 1) % 2 ^ 32 % 2 ^ bits s.ctr.dumpBase 1 4 * 16384)
          (wordsToBytes (dumpRecord w))).foldl (fun t p => chipWrite .pedWr .dump p.1 p.2 t) w)) ∧
      Leads (exec (.dumpPeriodEnd incs) s) (fun t => bit t.gbl.event evCounterDump = true ∧
        t.ctr.seq = (s.ctr.seq + 1) % 2 ^ 32 ∧ t.ctr.skipped = s.ctr.skipped)) ∧
    (dumpBusy s = true →
      Leads (exec (.dumpPeriodEnd incs) s) (fun t => t.ctr = { s.ctr with skipped := satAdd 16 s.ctr.skipped 1 }))) ∧
  (∀ (s : State) (incs : List IslandInc), readerRuns s = false ∨ s.ctr.mode ≠ .dump ∨ bit s.ctr.dumpBase 0 = false →
    exec (.dumpPeriodEnd incs) s = .next s) ∧
  (∀ (s u : State) (idx : Nat) (x : Sample) (times : List Nat), s.ctr.samples[idx]? = some x → x.done = true →
    u = { s with ctr := { s.ctr with samples := s.ctr.samples.eraseIdx idx } } →
    (pedlarWaiting s < 64 → Leads (exec (.sampleRecordWrite idx times) s) (fun t => t.ctr.samples = s.ctr.samples.eraseIdx idx ∧
      t.ctr.sampleSeq = (s.ctr.sampleSeq + 1) % 2 ^ 32 ∧ t.ctr.dropped = s.ctr.dropped ∧
      t.cdp = (chipWrite .pedWr .small
        (bits s.ctr.sample 12 37 * 4096 + s.ctr.sampleSeq % 2 ^ (bits s.ctr.sample 6 4 + 5) * 128)
        (wordsToBytes (sampleRecord s.ctr.sampleSeq x times)) u).cdp)) ∧
    (64 ≤ pedlarWaiting s → exec (.sampleRecordWrite idx times) s =
      .next { u with ctr := { u.ctr with dropped := satAdd 15 s.ctr.dropped 1 } }))

/-- Shutters (R574 to R579, R591) and saved tiles (R188 to R191; the order of the images is the model's choice, assumption
log 18). -/
def Obligations.ShuttersAndTiles : Prop :=
  (∀ (s : State) (slot kind num : Nat) (m : Msg), Ready s 0x0C01 slot m → kind = bits (arg m 1) 0 3 → num = bits (arg m 1) 8 24 →
    (shutTarget s kind num = true → bit (arg m 1) 3 = false → s.shutters.find? (fun x => x.at kind num && !x.done) = none →
      Leads (exec (.shutter slot) s) (fun t => t.mbx = acceptedMbx s slot m ∧
        t.clerk.owed = s.clerk.owed ++ [{ slot := slot, seq := m.seq, op := m.op }] ∧
        t.shutters = s.shutters ++ [{ kind := kind, num := num, force := false,
                                      owners := [{ slot := slot, seq := m.seq, op := m.op }],
                                      w1 := bits (arg m 1) 0 32, counts := [], done := false }] ∧
        (kind = 0 → flowOf t num = { flowOf s num with shut := true }) ∧
        (kind = 1 → ∀ x, mget s.tables num = some x → mget t.tables num = some { x with shut := some false }) ∧
        (kind = 2 → colOf t num = { colOf s num with state := .shuttering }) ∧
        (kind = 4 → stackOf t num = { stackOf s num with state := .shuttering }))) ∧
    (∀ x, shutTarget s kind num = true → bit (arg m 1) 3 = false →
      s.shutters.find? (fun x => x.at kind num && !x.done) = some x →
      Leads (exec (.shutter slot) s) (fun t => t.mbx = acceptedMbx s slot m ∧
        t.shutters = s.shutters.map (fun y => if y.at kind num then
          { y with owners := y.owners ++ [{ slot := slot, seq := m.seq, op := m.op }] } else y))) ∧
    (shutTarget s kind num = false →
      Leads (exec (.shutter slot) s) (fun t => t.mbx = finalMbx s slot m .badDescriptor [] ∧ t.shutters = s.shutters))) ∧
  (∀ (s : State) (idx us : Nat) (x : Shutter), s.shutters[idx]? = some x → x.done = false → shutterReady s x = true →
    Leads (exec (.shutterDone idx us) s) (fun t => bit t.gbl.event 17 = true ∧
      (x.kind = 2 → (colOf t x.num).state = .shuttered) ∧ (x.kind = 4 → (stackOf t x.num).state = .shuttered) ∧
      (clerkRuns s = true → ∀ y ∈ t.shutters, y.done = true → y.owners = []))) ∧
  (∀ (s : State) (slot kind num : Nat) (m : Msg), Ready s 0x0C02 slot m → kind = bits (arg m 1) 0 3 → num = bits (arg m 1) 8 24 →
    (kind ≠ 5 → shutterDone s kind num = true → (kind = 2 → (colOf s num).state ≠ .failed) →
      Leads (exec (.unshutter slot) s) (fun t => t.mbx = finalMbx s slot m .ok [] ∧
        t.shutters = s.shutters.filter (fun x => !x.at kind num) ∧
        (kind = 0 → flowOf t num = { flowOf s num with shut := false, shutForced := false }) ∧
        (kind = 1 → ∀ x, mget s.tables num = some x → mget t.tables num = some { x with shut := none }) ∧
        (kind = 2 → colOf t num = { colOf s num with state := .enabled }) ∧
        (kind = 3 → portAt t num = { portAt s num with state := .down }) ∧
        (kind = 4 → stackOf t num = { stackOf s num with state := .ready }))) ∧
    (kind = 5 ∨ shutterDone s kind num = false ∨ (kind = 2 ∧ (colOf s num).state = .failed) →
      Leads (exec (.unshutter slot) s) (fun t => t.mbx = finalMbx s slot m .badDescriptor [] ∧ t.shutters = s.shutters))) ∧
  (∀ (s : State) (col mill : Nat) (w : BagWork) (r : Run), workOf s col mill = some w → runOf s w.ord = some r →
    savesTiles s = true → w.partly = true → (millOf (colOf s col) mill).saved = none →
    (w.sawProv = false → Leads (exec (.tileSave col mill) s) (fun t =>
      millOf (colOf t col) mill = { millOf (colOf s col) mill with work := none, saved := some w.saved } ∧
      (Memory.wf s.hbm = true → hbmRead t (saveAddr s col mill) (tileImage w.saved).length = tileImage w.saved) ∧
      (∀ a, a < saveAddr s col mill ∨ saveAddr s col mill + (tileImage w.saved).length ≤ a →
        memGet t.hbm a = memGet s.hbm a))) ∧
    (w.sawProv = true → exec (.tileSave col mill) s = .next (waitBag col mill r w.closePass s))) ∧
  (∀ (s : State) (col mill : Nat) (w : BagWork), (millOf (colOf s col) mill).saved = some w → millsRun s = true →
    s.pwr.busy = false → workOf s col mill = none →
    Leads (exec (.tileRestore col mill) s) (fun t =>
      millOf (colOf t col) mill = { millOf (colOf s col) mill with work := some w, saved := none } ∧ t.hbm = s.hbm))

/-- The Pedlar path and the SUB window (R117, R452, R453, R461, R462, R467 to R471, R483, R485, R648). -/
def Obligations.PedlarPath : Prop :=
  (∀ (s : State) (port ctag f n words : Nat) (hdr : W64) (data : List W64), pedTaken s port = true → f = pedFlow hdr → n = pedCells hdr →
    (pedOp hdr = 0 → pedReserved hdr = true → pedCellsOk hdr = true → s.gbl.state ≠ .held → s.gbl.state ≠ .selftest →
      pushSuits (kindOf s f) n = true → (flowOf s f).shut = false → flowTakes s (flowOf s f) n = true →
      Leads (exec (.pedlarPush port ctag hdr data) s) (fun t => ∃ u,
        u = (itemsOf (n / (if kindOf s f = .runSubmit then 2 else 1)) (8 * (if kindOf s f = .runSubmit then 2 else 1)) data).foldl
          (fun t ws => enterItem f ws t) (countEv islQh 0x502 1 s) ∧
        t = sendAnswer port ctag (pedAnswer u hdr .ok 0 false false) [] u ∧ ∀ g, g ≠ f → flowOf t g = flowOf s g)) ∧
    (pedOp hdr = 0 → pedReserved hdr = true → pedCellsOk hdr = true → s.gbl.state ≠ .held → s.gbl.state ≠ .selftest →
      pushSuits (kindOf s f) n = true → (flowOf s f).shut = false → flowTakes s (flowOf s f) n = false →
      Leads (exec (.pedlarPush port ctag hdr data) s) (fun t => flowOf t f = { flowOf s f with overrun := true } ∧
        ((flowOf s f).overrun = false → bit t.gbl.event evFlowOverrun = true) ∧
        ∃ u, t = sendAnswer port ctag (pedAnswer u hdr .ok 0 false true) [] u)) ∧
    (pedOp hdr = 0 → pedReserved hdr = false ∨ pedCellsOk hdr = false ∨
        (s.gbl.state ≠ .held ∧ s.gbl.state ≠ .selftest ∧ pushSuits (kindOf s f) n = false) →
      Leads (exec (.pedlarPush port ctag hdr data) s) (fun t => t.qh = s.qh ∧
        t = sendAnswer port ctag (pedAnswer s hdr .badDescriptor 0 false false) [] (countEv islQh 0x502 1 s))) ∧
    (pedOp hdr = 1 → pedReserved hdr = true → pedCellsOk hdr = true → kindOf s f = .complete → (flowOf s f).records ≠ [] →
      Leads (exec (.pedlarPop port ctag ⟨hdr, words⟩) s) (fun t =>
        (flowOf t f).records = (flowOf s f).records.drop (min n (flowOf s f).records.length) ∧
        (flowOf t f).lastPopped = (popCells (flowOf s f) n).getD (min n (flowOf s f).records.length - 1) [] ∧
        t.qh.eccCorrected = satAdd 32 s.qh.eccCorrected words ∧
        ∃ u st, t = correctedCells words (sendAnswer port ctag
          (pedAnswer u hdr st (min n (flowOf s f).records.length) false false) (popCells (flowOf s f) n).flatten u) ∧
          (st = .uncorrectable ↔ ∃ i ∈ (flowOf s f).badRecords, i < min n (flowOf s f).records.length) ∧
          (st = .uncorrectable ∨ st = .ok))) ∧
    (pedOp hdr = 1 → pedReserved hdr = true → pedCellsOk hdr = true → kindOf s f = .complete → (flowOf s f).records = [] →
      Leads (exec (.pedlarPop port ctag ⟨hdr, words⟩) s) (fun t => flowOf t f = { flowOf s f with underrun := true } ∧
        ∃ u, t = sendAnswer port ctag (pedAnswer u hdr .ok 0 true false) ((List.range 8).map (fun i => (flowOf s f).lastPopped.getD i 0)) u)) ∧
    (pedOp hdr = 2 → pedReserved hdr = true → pedCellsOk hdr = true →
      Leads (exec (.pedlarProbe port ctag hdr) s) (fun t => t.qh = s.qh ∧
        t = sendAnswer port ctag (pedAnswer s hdr .ok 0 false false) [] (countEv islQh 0x502 1 s)))) ∧
  (∀ (s : State) (f gen : Nat) (ws : List W64) (x : SubItem), x = { words := ws, replaced := false, ended := false, bad := false } →
    gen = itemGen (flowOf s f).kind x →
    (flowOf (enterItem f ws s) f).gen = gen ∧
    (gen = (flowOf s f).gen → (flowOf (enterItem f ws s) f).items = (flowOf s f).items ++ [x]) ∧
    (gen ≠ (flowOf s f).gen → (flowOf (enterItem f ws s) f).items = (flowOf s f).items.map (fun y =>
      if itemGen (flowOf s f).kind y = gen then y else { y with replaced := true }) ++ [x])) ∧
  (∀ (s : State) (val : W64), kcpAlive s = true →
    (subTaken s = true → Leads (exec (.subSubmit val) s) (fun t => mgetD t.qh.sub 15 0 = val ∧
      t = enterItem 0 ((List.range 16).map (fun i => if i = 15 then val else mgetD s.qh.sub i 0)) (writeSubWord 15 val s))) ∧
    (subTaken s = false → Leads (exec (.subSubmit val) s) (fun t => mgetD t.qh.sub 15 0 = val ∧
      flowOf t 0 = { flowOf s 0 with overrun := true } ∧ ∀ g, g ≠ 0 → flowOf t g = flowOf s g)))

/-- Admission (R118 to R120, R150, R423, R478, R479, R481, R483, R577, R669). -/
def Obligations.AdmissionOutcomes : Prop :=
  (∀ (s : State) (flow dur : Nat) (v : ChipView) (x : SubItem) (r : List SubItem) (d : RunDesc),
    (flowOf s flow).items = x :: r → admissionOpen s = true → (flowOf s flow).kind = .runSubmit → x.replaced = false → x.ended = false →
    mget s.qh.parked flow = none → armWaits s flow = false → s.clerk.waiting.map Prod.fst ≠ some d.template → d = runDescOf x →
    (∀ t tab xs, x.bad = false → runVerdict s v flow x d = .passes xs → mget s.templates d.template = some t → liveTable s d.tid = some tab →
      runFree s d t (rangesOf d t tab.dim).length xs = true →
      Leads (exec (.runAdmit flow dur v) s) (fun u =>
        u.qh.runs = s.qh.runs ++ [bindRun s flow d t tab tab.active (rangesOf d t tab.dim) xs] ∧
        (flowOf u flow).items = r ∧ (flowOf u flow).barrier = [] ∧
        (flowOf u d.flow).promised = (flowOf s d.flow).promised + 1 ∧
        ∀ f, f ≠ flow → f ≠ d.flow → flowOf u f = flowOf s f)) ∧
    (∀ st, (x.bad = true ∧ st = .uncorrectable) ∨ (x.bad = false ∧ runVerdict s v flow x d = .ends st) → recordReady s d.flow = true →
      exec (.runAdmit flow dur v) s = .next (recordAtAdmission flow d.flow d.tag
        (runRecord d { status := st, kept := false, redone := false, part := false, defaulted := 0, replays := 0, failBag := 0,
                       failCount := d.nbags, duration := dur }) (dropHead flow s))) ∧
    (∀ f w, x.bad = false → runVerdict s v flow x d = .faults f → w = noteWalk v f.ctx (.fault f.kind f.level f.da) s →
      exec (.runAdmit flow dur v) s = .next { w with
        qh := { w.qh with parked := mset w.qh.parked flow none }, flt := { w.flt with raised := w.flt.raised ++ [f] } })) ∧
  (∀ (s : State) (flow dur : Nat) (v : ChipView) (x : SubItem) (r : List SubItem) (d : XferDesc),
    (flowOf s flow).items = x :: r → admissionOpen s = true → (flowOf s flow).kind = .xferSubmit → x.replaced = false → x.ended = false →
    mget s.qh.parked flow = none → armWaits s flow = false → d = xferDescOf x →
    (∀ src dst, x.bad = false → xferVerdict s v flow x d = .passes [src, dst] →
      admitRoom s = true → recordRoom s d.flow = true → canPin s (leavesAll [src, dst]) = true →
      Leads (exec (.transferAdmit flow dur v) s) (fun u =>
        (∃ y, u.qh.xfers = s.qh.xfers ++ [y] ∧ y.ord = freeOrd s ∧ y.desc = d ∧ y.subFlow = flow ∧ y.src = src ∧ y.dst = dst ∧
          y.cursor = 0 ∧ y.done = 0 ∧ y.got = [] ∧ y.ended = none) ∧
        (flowOf u flow).items = r ∧ (flowOf u d.flow).promised = (flowOf s d.flow).promised + 1)) ∧
    (∀ st, (x.bad = true ∧ st = .uncorrectable) ∨ (x.bad = false ∧ xferVerdict s v flow x d = .ends st) → recordReady s d.flow = true →
      exec (.transferAdmit flow dur v) s = .next (recordAtAdmission flow d.flow d.tag (xferRecord d 63 st false 0 dur) (dropHead flow s))) ∧
    (∀ f w, x.bad = false → xferVerdict s v flow x d = .faults f → w = noteWalk v f.ctx (.fault f.kind f.level f.da) s →
      exec (.transferAdmit flow dur v) s = .next { w with
        qh := { w.qh with parked := mset w.qh.parked flow none }, flt := { w.flt with raised := w.flt.raised ++ [f] } })) ∧
  (∀ (s : State) (flow dur : Nat) (x : SubItem) (r : List SubItem), (flowOf s flow).items = x :: r → isLive s = true →
    (x.replaced = true ∨ x.ended = true) →
    ((flowOf s flow).kind = .runSubmit → recordReady s (runDescOf x).flow = true →
      exec (.replacedItemEnd flow dur) s = .next (recordAtAdmission flow (runDescOf x).flow (runDescOf x).tag
        (runRecordAtAdmission (runDescOf x) .shuttered dur) (dropHead flow s))) ∧
    ((flowOf s flow).kind = .xferSubmit → recordReady s (xferDescOf x).flow = true →
      exec (.replacedItemEnd flow dur) s = .next (recordAtAdmission flow (xferDescOf x).flow (xferDescOf x).tag
        (xferRecord (xferDescOf x) 63 .shuttered x.replaced 0 dur) (dropHead flow s)))) ∧
  (∀ (s : State) (sub flow tag : Nat) (ws : List W64), (flowOf s flow).kind = .complete →
    flowOf (recordAtAdmission sub flow tag ws s) flow = { flowOf s flow with records := (flowOf s flow).records ++ [ws] }) ∧
  (∀ (s : State) (flow : Nat), (flowOf (dropHead flow s) flow).items = (flowOf s flow).items.drop 1)

/-- Queue Hall events (R350, R453, R463 to R465, R493, R494, R666). -/
def Obligations.QueueHallEvents : Prop :=
  (∀ (s : State) (flow : Nat), 8192 ≤ flow → ∃ t, exec (.streamTailTimeout flow) s = .next t ∧
    t = { s with qh := { s.qh with runs := t.qh.runs } } ∧ t.qh.runs.length = s.qh.runs.length ∧
    ∀ (i : Nat) (r : Run), s.qh.runs[i]? = some r → ∃ q : Run, t.qh.runs[i]? = some q ∧ q = { r with streams := q.streams } ∧
      ∀ (j : Nat) (x : Stream), r.streams[j]? = some x → q.streams[j]? = some (if x.flow = flow then
        { x with handed := if x.write then x.outQ.length else x.got.length } else x)) ∧
  (∀ (s : State) (flow : Nat), (flowOf s flow).kind = .complete ∨ (flowOf s flow).kind = .runSubmit ∨ (flowOf s flow).kind = .xferSubmit →
    (flowOf s flow).held ≠ 0 → Leads (exec (.flowTimeout flow) s) (fun t => flowOf t flow = { flowOf s flow with timeout := true } ∧
      (∀ g, g ≠ flow → flowOf t g = flowOf s g) ∧
      ((flowOf s flow).timeout = false → bit t.gbl.event evFlowTimeout = true) ∧
      ((flowOf s flow).timeout = true → t.gbl = s.gbl))) ∧
  (∀ (s : State) (val : W64), kcpAlive s = true →
    (s.gbl.state = .ready → bits val 0 4 ≠ 0 → bits val 4 4 ≠ 0 → bits val 8 4 ≠ 0 → bits val 0 4 + bits val 4 4 + bits val 8 4 = 16 →
      exec (.qhSplitWrite val) s = .next { s with qh := { s.qh with
        splitRead := bits val 0 4, splitWrite := bits val 4 4, splitRemote := bits val 8 4,
        splitRefused := s.qh.splitRefused && !bit val 63 } }) ∧
    (¬(bits val 0 4 = s.qh.splitRead ∧ bits val 4 4 = s.qh.splitWrite ∧ bits val 8 4 = s.qh.splitRemote) →
      s.gbl.state ≠ .ready ∨ bits val 0 4 = 0 ∨ bits val 4 4 = 0 ∨ bits val 8 4 = 0 ∨ bits val 0 4 + bits val 4 4 + bits val 8 4 ≠ 16 →
      exec (.qhSplitWrite val) s = .next { s with qh := { s.qh with splitRefused := true } }) ∧
    (4 ≤ bits val 0 5 → 4 ≤ bits val 8 5 →
      exec (.qhTimeoutWrite val) s = .next { s with qh := { s.qh with
        streamK := bits val 0 5, extK := bits val 8 5, timeoutRefused := s.qh.timeoutRefused && !bit val 63 } }) ∧
    (bits val 0 5 < 4 ∨ bits val 8 5 < 4 →
      exec (.qhTimeoutWrite val) s = .next { s with qh := { s.qh with timeoutRefused := true } })) ∧
  (∀ (s : State) (f i : Nat),
    (i < (flowOf s f).items.length → Leads (exec (.qhCellUncorrectable (.submission f i)) s) (fun t =>
      flowOf t f = { flowOf s f with items := lmod (flowOf s f).items i (fun x => { x with bad := true }) } ∧
      t.qh.eccUncorrectable = satAdd 16 s.qh.eccUncorrectable 1 ∧ bit t.gbl.event evEccUncorrectable = true)) ∧
    (i < (flowOf s f).records.length → Leads (exec (.qhCellUncorrectable (.completion f i)) s) (fun t =>
      flowOf t f = { flowOf s f with badRecords := insAsc i (flowOf s f).badRecords } ∧
      t.qh.eccUncorrectable = satAdd 16 s.qh.eccUncorrectable 1 ∧ bit t.gbl.event evEccUncorrectable = true)) ∧
    (∀ x, xferOf s f = some x → Leads (exec (.qhCellUncorrectable (.transferData f)) s) (fun t =>
      t.qh.xfers = (xferMod f (fun x => { x with bad := firstBad x.bad (x.done, .uncorrectable) }) s).qh.xfers ∧
      t.qh.eccUncorrectable = satAdd 16 s.qh.eccUncorrectable 1 ∧ bit t.gbl.event evEccUncorrectable = true)))

/-- The fault unit (R431 to R447). -/
def Obligations.FaultUnit : Prop :=
  (∀ (s : State) (f : FaultReq) (rest : List FaultReq), s.flt.raised = f :: rest →
    (∀ n e, s.flt.pend.find? (joins f) = some (n, e) →
      exec .faultRaise s = .next { s with flt := { s.flt with
        pend := mset s.flt.pend n { e with srcs := e.srcs ++ [f.src] }, raised := rest } }) ∧
    (∀ n g, s.flt.pend.find? (joins f) = none → s.flt.pend.length < 256 → n = firstFree (s.flt.pend.map Prod.fst) 256 0 →
      g = (mgetD s.flt.gens n 0 + 1) % 256 →
      exec .faultRaise s = .next { s with flt := { s.flt with
        pend := mset s.flt.pend n { gen := g, first := f, srcs := [f.src], written := false, met := false }, gens := mset s.flt.gens n g,
        recQ := s.flt.recQ ++ [n], raised := rest } }) ∧
    (s.flt.pend.find? (joins f) = none → 256 ≤ s.flt.pend.length → rest = [] →
      exec .faultRaise s = .next { s with flt := { s.flt with pendFull := true } })) ∧
  (∀ (s : State) (n : Nat) (rest : List Nat) (e : PendEntry), s.flt.recQ = n :: rest → mget s.flt.pend n = some e →
    (ringRoom (bit s.flt.base 0) s.flt.head s.flt.tail s.flt.size 1 = true →
      Leads (exec .faultRecordWrite s) (fun t => t.flt = { s.flt with
          tail := (s.flt.tail + 1) % pow32, records := satAdd 32 s.flt.records 1, recQ := rest,
          pend := mset s.flt.pend n { e with written := true } } ∧ bit t.gbl.event evFaultPending = true ∧
        ∃ u, t = raise evFaultPending u ∧ u.cdp = (chipWrite .pedWr .small (bits s.flt.base 5 44 * 32 + s.flt.tail % s.flt.size * 32)
          (wordsToBytes (faultRecord n e (phaseOf s.flt.tail s.flt.size))) s).cdp)) ∧
    (ringRoom (bit s.flt.base 0) s.flt.head s.flt.tail s.flt.size 1 = false →
      (e.met = true → exec .faultRecordWrite s = .next s) ∧
      (e.met = false → Leads (exec .faultRecordWrite s) (fun t =>
        t.flt = { s.flt with full := true, pend := mset s.flt.pend n { e with met := true } } ∧
        bit t.gbl.event evFaultRingFull = true)))) ∧
  (∀ (s : State) (val : W64), kcpAlive s = true →
    (replyEntry s val = none →
      exec (.faultReplyReplay val) s = .next { s with flt := { s.flt with badReply := true } } ∧
      exec (.faultReplyAbort val) s = .next { s with flt := { s.flt with badReply := true } }) ∧
    (∀ e, replyEntry s val = some e →
      Leads (exec (.faultReplyReplay val) s) (fun t =>
        t.flt = { s.flt with pend := mdel s.flt.pend (bits val 0 8), recQ := s.flt.recQ.filter (fun k => k != bits val 0 8) } ∧
        (∀ f, .admission f ∈ e.srcs → mget t.qh.parked f = none) ∧
        (∀ ord i, .stream ord i ∈ e.srcs → (∀ r x, runOf t ord = some r → r.streams[i]? = some x → x.replay = true ∧ x.stalled = false) ∧
          (∀ x, xferOf t ord = some x → x.replay = true ∧ x.stalled = false)))) ∧
    (∀ e f, replyEntry s val = some e → e.srcs = [.admission f] →
      exec (.faultReplyAbort val) s = .next { s with
        flt := { s.flt with pend := mdel s.flt.pend (bits val 0 8), recQ := s.flt.recQ.filter (fun k => k != bits val 0 8) }
        qh := { s.qh with parked := mset s.qh.parked f (some .faultAbort) } }) ∧
    (∀ e ord i, replyEntry s val = some e → e.srcs = [.stream ord i] →
      Leads (exec (.faultReplyAbort val) s) (fun t => mget t.flt.pend (bits val 0 8) = none ∧
        (∀ r, runOf s ord = some r → r.ended = none → ∃ q, runOf t ord = some q ∧ q.ended = some .faultAbort) ∧
        (∀ x, runOf s ord = none → xferOf s ord = some x → x.ended = none → ∃ q, xferOf t ord = some q ∧ q.ended = some .faultAbort)))) ∧
  (∀ (s : State) (n : Nat) (e : PendEntry), mget s.flt.pend n = some e → e.written = true →
    exec (.faultOverdue n) s = .next { s with flt := { s.flt with overdue := true } }) ∧
  (∀ (s : State) (val : W64), kcpAlive s = true →
    (headPasses (bits val 0 32) s.flt.head s.flt.tail = false →
      exec (.fltRingHeadWrite val) s = .next { s with flt := { s.flt with head := bits val 0 32 } }) ∧
    (headPasses (bits val 0 32) s.flt.head s.flt.tail = true →
      exec (.fltRingHeadWrite val) s = .next { s with flt := { s.flt with refused := true } }) ∧
    (s.flt.tail = s.flt.head → s.flt.pend = [] →
      exec (.fltRingConfigWrite false val) s = .next { s with flt := { s.flt with base := val &&& 0x0001FFFFFFFFFFE1#64 } } ∧
      (ringSizeOk (bits val 0 17) = true →
        exec (.fltRingConfigWrite true val) s = .next { s with flt := { s.flt with size := bits val 0 17 } }) ∧
      (ringSizeOk (bits val 0 17) = false →
        exec (.fltRingConfigWrite true val) s = .next { s with flt := { s.flt with refused := true } })) ∧
    (∀ b, s.flt.tail ≠ s.flt.head ∨ s.flt.pend ≠ [] →
      exec (.fltRingConfigWrite b val) s = .next { s with flt := { s.flt with refused := true } }) ∧
    exec (.fltStatusClear val) s = .next { s with flt := { s.flt with
      full := false, pendFull := false, badReply := false, overdue := false, refused := false } })

/-- Invalidation (R424 to R429, R439). -/
def Obligations.Invalidation : Prop :=
  (∀ (s : State) (val : W64), kcpAlive s = true →
    (s.xlt.inval = none → exec (.xltInval val) s = .next { s with xlt := { s.xlt with inval := some val, invalActive := false } }) ∧
    (s.xlt.inval ≠ none → exec (.xltInval val) s = .next { s with xlt := { s.xlt with refused := true } })) ∧
  (∀ (s : State) (w : W64), s.xlt.inval = some w → s.xlt.invalActive = false →
    Leads (exec .invalTakeEffect s) (fun t =>
      t.xlt = { s.xlt with invalActive := true, cache := s.xlt.cache.filter (fun l => !leafMeets s w l) } ∧
      t = { s with xlt := t.xlt, qh := { s.qh with runs := t.qh.runs, xfers := t.qh.xfers } } ∧
      (∀ (i : Nat) (r : Run), s.qh.runs[i]? = some r → r.ended ≠ none → t.qh.runs[i]? = some r) ∧
      (∀ (i : Nat) (r : Run), s.qh.runs[i]? = some r → r.ended = none → ∃ q : Run, t.qh.runs[i]? = some q ∧
        q = { r with streams := q.streams } ∧
        ∀ (j : Nat) (x : Stream), r.streams[j]? = some x → q.streams[j]? = some { x with
          stale := x.stale || (invalMeets w r.desc.ctx x.da x.len && !x.stalled) }) ∧
      (∀ (i : Nat) (x : Xfer), s.qh.xfers[i]? = some x → x.ended = none → t.qh.xfers[i]? = some { x with
        staleSrc := x.staleSrc || (invalMeets w x.desc.srcCtx (srcFoot x.desc).1.toNat (srcFoot x.desc).2 && !x.stalled)
        staleDst := x.staleDst || (invalMeets w x.desc.dstCtx (dstFoot x.desc).1.toNat (dstFoot x.desc).2 && !x.stalled) }))) ∧
  (∀ (s : State) (ord i : Nat) (v : ChipView) (r : Run) (x : Stream), runOf s ord = some r → r.streams[i]? = some x →
    x.stale = true ∨ x.replay = true →
    (∀ y, translate s v r.desc.ctx (restOf (ctxOf s r.desc.ctx).ptMode x).1 (restOf (ctxOf s r.desc.ctx).ptMode x).2 x.write = .ok y →
      Leads (exec (.rangeRetranslate ord i v) s) (fun t => t.flt = s.flt ∧ ∃ q, runOf t ord = some q ∧
        q.streams[i]? = some { x with xlat := y, stale := false, stalled := false, replay := false })) ∧
    (∀ e, translate s v r.desc.ctx (restOf (ctxOf s r.desc.ctx).ptMode x).1 (restOf (ctxOf s r.desc.ctx).ptMode x).2 x.write = .error e →
      Leads (exec (.rangeRetranslate ord i v) s) (fun t =>
        (∃ f, t.flt = { s.flt with raised := s.flt.raised ++ [f] } ∧ f.src = .stream ord i ∧ f.ctx = r.desc.ctx) ∧
        ∃ q, runOf t ord = some q ∧ q.streams[i]? = some { x with stale := false, stalled := true, replay := false }))) ∧
  (∀ (s : State) (ord : Nat) (v : ChipView) (x : Xfer), runOf s ord = none → xferOf s ord = some x →
    (x.staleSrc = true ∨ x.replay = true → ∀ y, translate s v x.desc.srcCtx (srcFoot x.desc).1.toNat (srcFoot x.desc).2 false = .ok y →
      Leads (exec (.rangeRetranslate ord 0 v) s) (fun t => t.flt = s.flt ∧
        xferOf t ord = some { x with src := y, staleSrc := false, stalled := false, replay := false })) ∧
    (x.staleDst = true ∨ x.replay = true → ∀ y, translate s v x.desc.dstCtx (dstFoot x.desc).1.toNat (dstFoot x.desc).2 true = .ok y →
      Leads (exec (.rangeRetranslate ord 1 v) s) (fun t => t.flt = s.flt ∧
        xferOf t ord = some { x with dst := y, staleDst := false, stalled := false, replay := false })) ∧
    (x.staleSrc = true ∨ x.replay = true → ∀ e, translate s v x.desc.srcCtx (srcFoot x.desc).1.toNat (srcFoot x.desc).2 false = .error e →
      Leads (exec (.rangeRetranslate ord 0 v) s) (fun t => t.flt.raised.length = s.flt.raised.length + 1 ∧
        xferOf t ord = some { x with staleSrc := false, stalled := true, replay := false })) ∧
    (x.staleDst = true ∨ x.replay = true → ∀ e, translate s v x.desc.dstCtx (dstFoot x.desc).1.toNat (dstFoot x.desc).2 true = .error e →
      Leads (exec (.rangeRetranslate ord 1 v) s) (fun t => t.flt.raised.length = s.flt.raised.length + 1 ∧
        xferOf t ord = some { x with staleDst := false, stalled := true, replay := false }))) ∧
  (∀ (s : State) (w : W64), s.xlt.inval = some w → s.xlt.invalActive = true → overlapDone s = true →
    Leads (exec .invalAck s) (fun t => t.xlt = { s.xlt with inval := none, invalActive := false, ackSeq := bits w 56 4 } ∧
      bit t.gbl.event evInvalAck = true ∧ t.qh = s.qh))

/-- The two memories' own events (R299, R300, R314, R319, R323, R329, R331 to R333, R336, R339, R340) and the margins
(R565). -/
def Obligations.MemoryEvents : Prop :=
  (∀ (s : State) (n temp l : Nat), n < 12 → temp < 256 → islandsRun s = true →
    l = nextLevel (stackOf s n).level temp (stackOf s n).thr1 (stackOf s n).thr2 →
    Leads (exec (.hbmThermalSample n temp) s) (fun t =>
      stackOf t n = { stackOf s n with
        level := l, temp := temp, maxTemp := max (stackOf s n).maxTemp temp, ceWindow := 0
        above1 := decide ((stackOf s n).thr1 ≤ temp), above2 := decide ((stackOf s n).thr2 ≤ temp)
        thr2Hit := (stackOf s n).thr2Hit || decide ((stackOf s n).thr2 ≤ temp)
        throttleMs := if l = 0 then (stackOf s n).throttleMs else satAdd 24 (stackOf s n).throttleMs 1 } ∧
      (∀ k, k ≠ n → stackOf t k = stackOf s k) ∧
      ((stackOf s n).thr2 ≤ temp → (stackOf s n).temp < (stackOf s n).thr2 → bit t.gbl.event evHbmThermal = true) ∧
      (temp < (stackOf s n).thr2 → t.gbl = s.gbl))) ∧
  (∀ (s : State) (n chan bank : Nat), n < 12 → chan < 32 → bank < 64 → stackServes (stackOf s n) = true →
    exec (.hbmRefresh n chan bank) s = .next (stackMod n (fun k =>
      { k with refreshes := mset k.refreshes (chan * 64 + bank) (mgetD k.refreshes (chan * 64 + bank) 0 + 1) }) s)) ∧
  (∀ syms, 0 < (wrongSymbols syms).length → (wrongSymbols syms).length ≤ 4 → cwVerdict syms = .read true []) ∧
  (∀ (s : State) (cw n : Nat) (w : Bool) (syms : List SymErr), cwLive s cw = true → n = (hbmPlace (cw * 64)).1 →
    (cwVerdict syms = .read false [] → exec (.hbmPatrol cw syms w) s = .next s) ∧
    (cwVerdict syms = .read true [] → Leads (exec (.hbmPatrol cw syms w) s) (fun t =>
      (stackOf t n).ceCount = satAdd 32 (stackOf s n).ceCount 1 ∧
      (stackOf t n).ceWindow = (stackOf s n).ceWindow + 1 ∧ t.hbm = s.hbm ∧
      ((stackOf s n).rateThresh ≠ 0 → (stackOf s n).rateThresh ≤ (stackOf s n).ceWindow + 1 → (stackOf s n).rateHit = false →
        bit t.gbl.event evEccCorrectedRate = true))) ∧
    (cwVerdict syms = .bad → Leads (exec (.hbmPatrol cw syms w) s) (fun t =>
      (stackOf t n).ueCount = satAdd 16 (stackOf s n).ueCount 1 ∧
      (stackOf t n).lastAddr = cw % 2 ^ 33 ∧ bit t.gbl.event evEccUncorrectable = true ∧
      (w = true → t.hbm = s.hbm ∧ t.poison = s.poison) ∧ (w = false → cw ∈ t.poison ∧ (stackOf t n).poisonSeen = true)))) ∧
  (∀ (s : State) (cw n : Nat) (syms : List SymErr), cwVerdict syms = .bad → n = (hbmPlace (cw * 64)).1 →
    (cwLive s cw = true → Leads (exec (.hbmReadUncorrectable ⟨cw, syms⟩ .none) s) (fun t =>
      (stackOf t n).ueCount = satAdd 16 (stackOf s n).ueCount 1 ∧ (stackOf t n).lastAddr = cw % 2 ^ 33 ∧
      bit t.gbl.event evEccUncorrectable = true ∧ cw ∈ t.poison ∧ (stackOf t n).poisonSeen = true)) ∧
    (∀ (idx : Nat) (h : HomeRead) (t : Table) (u : State), s.span.homeReads[idx]? = some h → mget s.tables h.key.tid = some t →
      homeWaits s t h = false → u = readMap t h.key true s →
      badIn s ((homeRanges s t h).map (fun r => (r.2.1, r.2.2))) [{ cw := cw, syms := syms }] = [{ cw := cw, syms := syms }] →
      badIn u ((homeRanges u t h).map (fun r => (r.2.1, r.2.2))) [{ cw := cw, syms := syms }] = [{ cw := cw, syms := syms }] →
      exec (.hbmReadUncorrectable ⟨cw, syms⟩ (.homeRead idx)) s =
        exec (.hbmReadUncorrectable ⟨cw, syms⟩ .none) (serveHome idx h t .uncorrectable none (frontHomeRead t h u))) ∧
    (∀ c ord i, c < 48 → carterHeld s c = false →
      badIn s (chunkRanges s ord i) [{ cw := cw, syms := syms }] = [{ cw := cw, syms := syms }] →
      exec (.hbmReadUncorrectable ⟨cw, syms⟩ (.stream c ord i)) s =
        exec (.hbmReadUncorrectable ⟨cw, syms⟩ .none) (failElems s ord i [{ cw := cw, syms := syms }] (carterStep c ord i s)))) ∧
  (∀ (s : State) (cw n slot : Nat) (m : HomeMap) (syms : List SymErr), n = (hbmPlace (cw * 64)).1 → mget s.maps slot = some m →
    m.unusable = false → meetsCw cw m.loc mapBytes = true →
    (cwLive s cw = true → cwVerdict syms = .bad → Leads (exec (.hbmReadUncorrectable ⟨cw, syms⟩ (.homeMap slot)) s) (fun t =>
      mget t.maps slot = some { m with unusable := true } ∧ (stackOf t n).ueCount = satAdd 16 (stackOf s n).ueCount 1 ∧
      bit t.gbl.event evEccUncorrectable = true ∧ cw ∈ t.poison)) ∧
    (cwLive s cw = false → cw ∈ s.poison → Leads (exec (.hbmReadUncorrectable ⟨cw, syms⟩ (.homeMap slot)) s) (fun t =>
      mget t.maps slot = some { m with unusable := true } ∧ (stackOf t n).poisonReads = satAdd 15 (stackOf s n).poisonReads 1))) ∧
  (∀ (s : State) (cw n idx : Nat) (r : Spill) (syms : List SymErr), n = (hbmPlace (cw * 64)).1 → s.ldg.spills[idx]? = some r →
    meetsCw cw (spillAddr s r.place) (spillSize r) = true →
    (cwLive s cw = true ∧ cwVerdict syms = .bad ∨ cwLive s cw = false ∧ cw ∈ s.poison) →
    ∃ w, exec (.hbmReadUncorrectable ⟨cw, syms⟩ (.spillRecord idx)) s = .next (advance w) ∧
      w.ldg.spills = s.ldg.spills.erase r ∧ w.ldg.dropped = satAdd 24 s.ldg.dropped 1 ∧
      bit w.gbl.event evEccUncorrectable = true ∧ cw ∈ w.poison ∧
      (cwLive s cw = true → (stackOf w n).ueCount = satAdd 16 (stackOf s n).ueCount 1) ∧
      (cwLive s cw = false → (stackOf w n).poisonReads = satAdd 15 (stackOf s n).poisonReads 1)) ∧
  (∀ (s : State) (block : Nat), block < larderBlocks → s.lrd.state = .ready →
    exec (.larderPatrol block 0) s = .next s ∧
    Leads (exec (.larderPatrol block 1) s) (fun t => t.lrd = { s.lrd with
        ceCount := satAdd 24 s.lrd.ceCount 1, ceWindow := s.lrd.ceWindow + 1 } ∧
      (s.lrd.ceWindow = 65535 → bit t.gbl.event evEccCorrectedRate = true) ∧ (s.lrd.ceWindow ≠ 65535 → t.gbl = s.gbl)) ∧
    exec (.larderPatrol block 2) s = .next { s with lrd := { s.lrd with poison := insAsc block s.lrd.poison } } ∧
    (∀ spot u, larderAct block spot (larderUe block s) = some u →
      exec (.larderReadUncorrectable block spot) s = .next u) ∧
    Leads (exec (.larderReadUncorrectable block .none) s) (fun t => t.lrd = { s.lrd with
        ueCount := satAdd 11 s.lrd.ueCount 1, lastUe := block % 2 ^ 29, poison := s.lrd.poison.filter (· ≠ block) } ∧
      bit t.gbl.event evEccUncorrectable = true ∧ t.ldg = s.ldg ∧ t.hbm = s.hbm) ∧
    (∀ pos (mine : LEntry → Bool), mine = (fun e => e.pos == pos && blockIn block (ledgerBase s + e.acb) (blocksOf (recordBytes e.acc.length))) →
      s.ldg.entries.any mine = true → Leads (exec (.larderReadUncorrectable block (.record pos)) s) (fun t =>
        t.ldg = { s.ldg with entries := s.ldg.entries.map (fun e => if mine e then { e with bad := true } else e) } ∧
        t.lrd = (larderUe block s).lrd ∧ bit t.gbl.event evEccUncorrectable = true)) ∧
    (∀ idx x, s.lrd.kept[idx]? = some x → blockIn block x.block (blocksOf x.size) = true →
      Leads (exec (.larderReadUncorrectable block (.kept idx)) s) (fun t =>
        t.lrd = { (larderUe block s).lrd with kept := s.lrd.kept.filter (fun y => y.block != x.block) } ∧
        bit t.gbl.event evEccUncorrectable = true)) ∧
    (∀ idx c, s.ldg.pen[idx]? = some c → blockIn block (ledgerBase s + c.block) (blocksOf c.bytes) = true →
      Leads (exec (.larderReadUncorrectable block (.pen idx)) s) (fun t => t.ldg = { s.ldg with
        pen := s.ldg.pen.eraseIdx idx, dropped := satAdd 24 s.ldg.dropped 1 } ∧ t.lrd = (larderUe block s).lrd ∧
        bit t.gbl.event evEccUncorrectable = true)) ∧
    (∀ tid slot row (mine : Replica → Bool), mine = (fun x => x.tid == tid && x.slot == slot && x.row == row &&
        blockIn block x.block (replicaBlocks x.size)) → s.lrd.replicas.any mine = true →
      Leads (exec (.larderReadUncorrectable block (.replica tid slot row)) s) (fun t => t.lrd = { (larderUe block s).lrd with
        replicas := s.lrd.replicas.filter (fun x => !mine x)
        replicaDropped := satAdd 16 s.lrd.replicaDropped (s.lrd.replicas.filter mine).length } ∧
        bit t.gbl.event evEccUncorrectable = true)) ∧
    (∀ b, b < bucketCount s → block = bucketBlock s b →
      Leads (exec (.larderReadUncorrectable block (.indexBucket b)) s) (fun t => t.lrd = { (larderUe block s).lrd with
        replicas := s.lrd.replicas.filter (fun x => !(x.bucket == b))
        replicaDropped := satAdd 16 s.lrd.replicaDropped (s.lrd.replicas.filter (fun x => x.bucket == b)).length } ∧
        bit t.gbl.event evEccUncorrectable = true)) ∧
    (∀ tid slot ix tb da c, mget s.tables tid = some tb → da = dirAddr (vslot tb slot) ix → copyAt s tid slot da = some c →
      blockIn block c.block (blocksOf c.bytes.length) = true →
      Leads (exec (.larderReadUncorrectable block (.hotCopy tid slot ix)) s) (fun t =>
        t.lrd.copies = s.lrd.copies.filter (fun c => !(c.tid == tid && c.slot == slot && c.dirAddr == da)) ∧
        t.lrd.replicaDropped = satAdd 16 s.lrd.replicaDropped 1 ∧ t.lrd.ueCount = satAdd 11 s.lrd.ueCount 1 ∧
        bit t.gbl.event evEccUncorrectable = true ∧
        t.moves = s.moves ++ [{ tid := tid, slot := slot, dirAddr := da
                                entry := dirBits { readDir s da with tier := 0, larder := 0 }, copied := true }])) ∧
    (∀ key n, (s.ldg.sealedStep.toList ++ s.ldg.openStep.toList).find? (fun n => filterBlock s n key == block) = some n →
      Leads (exec (.larderReadUncorrectable block (.filter key.tid key.defkey key.row)) s) (fun t =>
        (if s.ldg.openStep = some n then key ∈ t.ldg.filterOpen else key ∈ t.ldg.filterSealed) ∧ block ∈ t.lrd.poison ∧
        t.lrd.ueCount = satAdd 11 s.lrd.ueCount 1 ∧ bit t.gbl.event evEccUncorrectable = true))) ∧
  (∀ (s : State) (ins : List MarginIn) (v i : Nat), islandsRun s = true → s.pwr.current < 3 →
    lowestMargin (ins.foldl setMargins s.pwr.margins) = some (v, i) →
    Leads (exec (.marginSample ins) s) (fun t => t.pwr = { s.pwr with
        margins := ins.foldl setMargins s.pwr.margins, minMargin := v, minIsland := i, valid := true,
        low := s.pwr.low || decide (v < s.pwr.lowThresh) } ∧
      (v < s.pwr.lowThresh → s.pwr.low = false → bit t.gbl.event evMarginLow = true) ∧
      (s.pwr.lowThresh ≤ v → t.gbl = s.gbl)))

/-- The link layer (R354 to R363, R375, R384, R385, R387). Which flit answers, and the cells a port can take, are the model's
choices (assumption log 23). -/
def Obligations.LinkLayer : Prop :=
  (∀ (s : State) (port a b lane : Nat), port < 8 → (portAt s port).state = .down → s.span.nodeValid = true → spanRuns s = true →
    (2 ≤ a ∨ 2 ≤ b → Leads (exec (.linkTraining port a b lane) s) (fun t => portAt t port = { portAt s port with state := .failed } ∧
      bit t.gbl.event evSpanLink = true ∧ ∀ p, p ≠ port → portAt t p = portAt s p)) ∧
    (a < 2 → b < 2 → Leads (exec (.linkTraining port a b lane) s) (fun t =>
      portAt t port = { portAt s port with state := .training, spareUsed := decide (a = 1 ∨ b = 1),
                                           spareFor := if a = 1 ∨ b = 1 then lane % 8 else 0 } ∧
      ∀ p, p ≠ port → portAt t p = portAt s p))) ∧
  (∀ (s : State) (port : Nat), port < 8 → (portAt s port).state = .training →
    Leads (exec (.linkBringupExchange port none) s) (fun t => portAt t port = { portAt s port with
        state := .down, wrongPeer := true, peerValid := false, peerId := 0, peerPort := 0, peerMember := 0 } ∧ bit t.gbl.event evSpanLink = true) ∧
    (∀ (x : LinkExchange) (w : Bool) (q : Port), w = (decide (x.member % 256 ≠ 0x28) || decide (x.node % 16384 = self s)) →
      q = { portAt s port with
        state := if w then .down else .up, wrongPeer := w, peerValid := true, peerId := x.node % 16384,
        peerPort := x.port % 8, peerMember := x.member % 256, credit := [], txSeq := 0, rxSeq := 0, unacked := [], flits := [],
        txBytes := [], txFirst := 15, owed := (portAt s port).firstCredit, rxBytes := [], nakOut := false, naks := (0, 0), querying := false } →
      Leads (exec (.linkBringupExchange port (some x)) s) (fun t =>
        portAt t port = (if w then q else Port.giveCredit 16 q) ∧ bit t.gbl.event evSpanLink = true))) ∧
  (∀ (s : State) (port : Nat) (f : Flit) (c : Cut) (q : Port), linkUp s port = true → c = flitPackets (portAt s port).rxBytes f →
    crcGood f = true → f.fecFailed = 0 → f.fseq = (portAt s port).rxSeq → ((portAt s port).accept f c).rxCells ≤ 32768 →
    q = { portAt s port with
      corrected := satAdd 32 (portAt s port).corrected f.fecCorrected, uncorrectable := satAdd 16 (portAt s port).uncorrectable f.fecFailed
      rxSeq := ((portAt s port).rxSeq + 1) % 4096, nakOut := false, rxBytes := c.rest, rx := (portAt s port).rx ++ c.packets
      credit := mmod (portAt s port).credit (f.grantCh % 8) 0 (fun n => n + f.grant % 4096)
      corrupt := satAdd 8 (portAt s port).corrupt c.corrupt
      owed := c.freed.foldl (fun m x => mmod m x.1 0 (fun n => n + x.2)) (portAt s port).owed } →
    (f.nak = true → ∃ u w, portAt u port = q ∧ exec (.nakReceive port (f.ack % 4096)) u = .next w ∧
      exec (.flitReceive port f) s = .next (answerFlit port f.idle w)) ∧
    (f.nak = false → ∀ r : Port, r = { q with
        unacked := q.unacked.filter (fun u => !covered (f.ack % 4096) u.last)
        flits := q.flits.filter (fun g => !covered (f.ack % 4096) g.fseq), naks := (0, 0) } →
      Leads (exec (.flitReceive port f) s) (fun t => portAt t port = Port.giveCredit 16 (if f.idle then r else r.emitIdle) ∧
        (f.idle = false → 0 < r.window → ∃ g, g ∈ (portAt t port).wire ∧ g.ack = f.fseq % 4096 ∧ g.nak = false) ∧
        ∀ p, p ≠ port → portAt t p = portAt s p))) ∧
  (∀ (s : State) (port : Nat) (f : Flit) (q : Port), linkUp s port = true →
    crcGood f = false ∨ f.fecFailed ≠ 0 ∨ f.fseq ≠ (portAt s port).rxSeq ∨
      32768 < ((portAt s port).accept f (flitPackets (portAt s port).rxBytes f)).rxCells →
    q = { portAt s port with
      corrected := satAdd 32 (portAt s port).corrected f.fecCorrected
      uncorrectable := satAdd 16 (portAt s port).uncorrectable f.fecFailed, nakOut := true } →
    Leads (exec (.flitReceive port f) s) (fun t => portAt t port = q.emitIdle ∧
      (0 < q.window → ∃ g, (portAt t port).wire = (portAt s port).wire ++ [g] ∧ g.nak = true ∧ g.ack = ((portAt s port).rxSeq + 4095) % 4096) ∧
      ∀ p, p ≠ port → portAt t p = portAt s p)) ∧
  (∀ (s : State) (port ack n : Nat) (kept : List Flit) (q : Port), linkUp s port = true →
    n = (if (portAt s port).naks.1 = (ack + 1) % 4096 then (portAt s port).naks.2 + 1 else 1) →
    kept = ((portAt s port).flits.filter (fun g => !covered (ack % 4096) g.fseq)).map (fun g => (portAt s port).stamp { g with nak := false }) →
    q = { portAt s port with
      unacked := (portAt s port).unacked.filter (fun u => !covered (ack % 4096) u.last), flits := kept, wire := (portAt s port).wire ++ kept
      replays := satAdd 24 (portAt s port).replays 1, naks := ((ack + 1) % 4096, n) } →
    (n < 16 → Leads (exec (.nakReceive port ack) s) (fun t => portAt t port = q ∧ ∀ p, p ≠ port → portAt t p = portAt s p)) ∧
    (16 ≤ n → (portAt s port).state = .up → ∃ w, exec (.nakReceive port ack) s = .next (rerouteQueue port (linkChanged port w)) ∧
      portAt w port = { q.flush with state := .recover, lastRx := some ((q.rxSeq + 4095) % 4096), linkDowns := satAdd 8 q.linkDowns 1
                                     naks := (0, 0), querying := false }) ∧
    (16 ≤ n → (portAt s port).state = .shuttering → ∃ w, exec (.nakReceive port ack) s = .next (askPeer port (rerouteQueue port w)) ∧
      portAt w port = { q.flush with state := .shuttering, lastRx := some ((q.rxSeq + 4095) % 4096), linkDowns := satAdd 8 q.linkDowns 1
                                     naks := (0, 0), querying := false })) ∧
  (∀ (s : State) (port chan idx : Nat) (e : Queued) (k : Packet), linkUp s port = true → chan < 8 →
    (mgetD (portAt s port).queues chan [])[idx]? = some e → k = { e.pkt with hdr := { e.pkt.hdr with vl := chan % 2 } } → e.eligible = true →
    pktCells e.pkt.body ≤ mgetD (portAt s port).credit chan 0 →
    (portAt s port).flits.length + (portAt s port).flitsFor (pktBytes e.pkt.body) ≤ 2048 →
    mayLeave (mgetD (portAt s port).queues chan []) idx e.pkt = true →
    ∃ u, exec (.packetSend port chan idx) s = .next (returnCells e.lent u) ∧ u.spanWire = s.spanWire ++ [(port, k)] ∧
      mgetD (portAt u port).queues chan [] = (mgetD (portAt s port).queues chan []).eraseIdx idx ∧
      mgetD (portAt u port).credit chan 0 = mgetD (portAt s port).credit chan 0 - pktCells e.pkt.body ∧
      (portAt u port).unacked = (portAt s port).unacked ++ [{
        first := (portAt s port).txSeq, last := ((portAt s port).txSeq + (portAt s port).flitsFor (packetBytes k).length + 4095) % 4096
        chan := chan, pkt := e.pkt }] ∧
      (∃ sent z, (portAt u port).wire = (portAt s port).wire ++ sent ∧ (portAt u port).flits = (portAt s port).flits ++ sent ∧
        sent.flatMap Flit.payload ++ (portAt u port).txBytes = (portAt s port).txBytes ++ packetBytes k ++ List.replicate z 0 ∧
        ∀ g, g ∈ sent → g.idle = false) ∧
      ∀ p, p ≠ port → portAt u p = portAt s p) ∧
  (∀ (s : State) (port rx a b lane : Nat) (q : Port), a < 2 → b < 2 → q = { portAt s port with
      state := .up, nakOut := false, lastRx := some (((portAt s port).rxSeq + 4095) % 4096), spareUsed := decide (a = 1 ∨ b = 1)
      spareFor := if a = 1 ∨ b = 1 then lane % 8 else 0
      unacked := (portAt s port).unacked.filter (fun u => !covered (rx % 4096) u.last)
      flits := (portAt s port).flits.filter (fun g => !covered (rx % 4096) g.fseq) } →
    (recovering s port false = true → Leads (exec (.linkRetrainDone port ⟨rx, a, b, lane⟩) s) (fun t =>
      portAt t port = { (if q.flits.isEmpty then q.emitIdle else q.replay) with recovered := satAdd 8 (portAt s port).recovered 1 } ∧
      bit t.gbl.event evSpanLink = true)) ∧
    (port < 8 → (portAt s port).state = .up → Leads (exec (.linkRetrainDone port ⟨rx, a, b, lane⟩) s) (fun t =>
      portAt t port = (if q.flits.isEmpty then q.emitIdle else q.replay) ∧ t.gbl = s.gbl))) ∧
  (∀ (s : State) (port rx a b lane : Nat), 2 ≤ a ∨ 2 ≤ b →
    (recovering s port false = true → ∃ w, exec (.linkRetrainDone port ⟨rx, a, b, lane⟩) s = .next (askPeer port w) ∧
      portAt w port = { portAt s port with state := .failed } ∧ bit w.gbl.event evSpanLink = true) ∧
    (port < 8 → (portAt s port).state = .up → ∃ w,
      exec (.linkRetrainDone port ⟨rx, a, b, lane⟩) s = .next (askPeer port (rerouteQueue port (linkChanged port w))) ∧
      portAt w port = { (portAt s port).flush with
        state := .failed, lastRx := some (((portAt s port).rxSeq + 4095) % 4096), naks := (0, 0) })) ∧
  (∀ (s : State) (port : Nat), port < 8 → Leads (exec (.lastRxExpire port) s) (fun t =>
    portAt t port = { portAt s port with lastRx := none } ∧ ∀ p, p ≠ port → portAt t p = portAt s p))

/-- Losing a link (R373, R382 to R384, R386, R387; what idle lanes do to flits that await ACK is the model's choice,
assumption log 26). -/
def Obligations.LinkLoss : Prop :=
  (∀ (s : State) (port : Nat), recovering s port false = true → Leads (exec (.recoverRetrainTimeout port) s) (fun t => ∃ u,
    portAt u port = { portAt s port with querying := true } ∧ (∀ p, p ≠ port → portAt u p = portAt s p) ∧
    t = sendOwn (portAt s port).peerId (.lquery { peerPort := (portAt s port).peerPort, lastRx := 0, known := false }) u)) ∧
  (∀ (s : State) (port n : Nat) (h : PktHdr) (p : LinkPkt), port < 8 → spanRuns s = true → h.hops < 15 → h.dest = self s → n = p.peerPort % 8 →
    ((portAt s n).state = .up → (portAt s n).peerValid = true → (portAt s n).peerId = h.src →
      exec (.lquery port h p) s = .next (sendOwn h.src
        (.lstate { peerPort := (portAt s n).peerPort, lastRx := ((portAt s n).rxSeq + 4095) % 4096, known := true })
        (portMod n (fun k => { k with lastRx := some (((portAt s n).rxSeq + 4095) % 4096) }) (takeRx port { hdr := h, body := .lquery p } s)))) ∧
    (∀ r, (portAt s n).state ≠ .up → (portAt s n).lastRx = some r → (portAt s n).peerValid = true → (portAt s n).peerId = h.src →
      exec (.lquery port h p) s = .next (sendOwn h.src (.lstate { peerPort := (portAt s n).peerPort, lastRx := r, known := true })
        (takeRx port { hdr := h, body := .lquery p } s))) ∧
    ((portAt s n).state ≠ .up → (portAt s n).lastRx = none ∨ (portAt s n).peerValid = false ∨ (portAt s n).peerId ≠ h.src →
      exec (.lquery port h p) s = .next (sendOwn h.src (.lstate { peerPort := (portAt s n).peerPort, lastRx := 0, known := false })
        (takeRx port { hdr := h, body := .lquery p } s))) ∧
    (recovering s n true = true → (portAt s n).peerId = h.src → p.known = true →
      exec (.lstate port h p) s = .next (((portAt s n).unacked.filter (fun u => !covered (p.lastRx % 4096) u.last)).map SentPkt.pkt |>.foldl (rerouteFrom n)
        (portMod n (fun k => { k with state := k.settled, querying := false, unacked := [], flits := [], txBytes := [], txFirst := 15, recovered := satAdd 8 k.recovered 1 })
          (takeRx port { hdr := h, body := .lstate p } s)))) ∧
    (recovering s n true = true → (portAt s n).peerId = h.src → p.known = false →
      exec (.lstate port h p) s = .next (((portAt s n).unacked.map SentPkt.pkt).foldl (refuseFrom n)
        (portMod n (fun k => { k with state := k.settled, querying := false, unacked := [], flits := [], txBytes := [], txFirst := 15, unresolved := satAdd 8 k.unresolved 1 })
          (takeRx port { hdr := h, body := .lstate p } s))))) ∧
  (∀ (s : State) (n : Nat), recovering s n true = true →
    exec (.lqueryTimeout n) s = .next (((portAt s n).unacked.map SentPkt.pkt).foldl (refuseFrom n)
      (portMod n (fun k => { k with state := k.settled, querying := false, unacked := [], flits := [], txBytes := [], txFirst := 15, unresolved := satAdd 8 k.unresolved 1 }) s))) ∧
  (∀ (s : State) (n : Nat), n < 8 →
    ((portAt s n).state = .training → Leads (exec (.spanRxElectricalIdle n) s) (fun t =>
      portAt t n = { portAt s n with state := .down } ∧ ∀ p, p ≠ n → portAt t p = portAt s p)) ∧
    ((portAt s n).state = .up → exec (.spanRxElectricalIdle n) s = .next (((portAt s n).unacked.map SentPkt.pkt).foldl (refuseFrom n)
      (rerouteQueue n (linkChanged n (portMod n (fun k => { k with
        state := .down, unacked := [], flits := [], txBytes := [], txFirst := 15, querying := false
        unresolved := satAdd 8 k.unresolved (b2n k.querying) }) s))))) ∧
    ((portAt s n).state = .shuttering → exec (.spanRxElectricalIdle n) s = .next (((portAt s n).unacked.map SentPkt.pkt).foldl (refuseFrom n)
      (rerouteQueue n (portMod n (fun k => { k with
        state := .shuttering, unacked := [], flits := [], txBytes := [], txFirst := 15, querying := false
        unresolved := satAdd 8 k.unresolved (b2n k.querying) }) s)))))

/-- Packets at their destination (R129, R143, R232, R259, R286, R287, R364, R367, R374 to R376, R389, R577). -/
def Obligations.PacketsTaken : Prop :=
  (∀ (s : State) (port : Nat) (h : PktHdr) (b : PktBody), comesFrom port { hdr := h, body := b } s = true →
    waitsBehind (portAt s port) { hdr := h, body := b } = true →
    (∀ p, b = .update p → exec (.update port h p) s = .next (stay port { hdr := h, body := b } s)) ∧
    (∀ p, b = .mark p → exec (.mark port h p) s = .next (stay port { hdr := h, body := b } s))) ∧
  (∀ (s : State) (port : Nat) (p : PartialPkt), port < 8 → spanRuns s = true → codesOk p.w16 p.codes = false →
    ∀ h, Leads (exec (.part port h p) s) (fun t =>
      t.ldg = { s.ldg with dropped := satAdd 24 s.ldg.dropped 1 } ∧ (portAt t port).corrupt = satAdd 8 (portAt s port).corrupt 1)) ∧
  ∀ (s : State) (port : Nat) (h : PktHdr) (b : PktBody) (u : State), comesFrom port { hdr := h, body := b } s = true →
    waitsBehind (portAt s port) { hdr := h, body := b } = false → h.hops < 15 → h.dest = self s → u = takeRx port { hdr := h, body := b } s →
    (∀ (p : ReadPkt) (a : Status → State), b = .read p →
      (a = fun st => if p.resync then sendOwn h.src (.row (rowPktOf p.tag p.slice st false none (mgetD s.span.cseqOut h.src 0))) (readCseq false h.src u)
        else sendOwn h.src (.row (rowPktOf p.tag p.slice st false none 0)) u) →
      (liveTable s p.tid = none → exec (.read port h p) s = .next (a .tableAbsent)) ∧
      (∀ t, liveTable s p.tid = some t → t.shut ≠ none ∨ stackShut s = true → exec (.read port h p) s = .next (a .shuttered)) ∧
      (∀ t, liveTable s p.tid = some t → t.shut = none → stackShut s = false →
        ((mapOf s t).map (fun m => epochLater p.epoch m.epoch)).getD false = false → homesKey s t (readKeyOf p) = true →
        (rowPhase s t (readKeyOf p) = .here ∨ rowPhase s t (readKeyOf p) = .waiting) →
        ((vslot t p.slot).state = .active ∨ (vslot t p.slot).state = .draining ∧ p.place = false) →
        Leads (exec (.read port h p) s) (fun v => ∃ r : HomeRead, v.span.homeReads = s.span.homeReads ++ [r] ∧
          r.origin = .node h.src p.tag ∧ r.key = readKeyOf p ∧ r.slot = p.slot ∧ r.slice = p.slice ∧ r.step = p.step ∧
          v.tables = (addRef p.tid p.slot s).tables))) ∧
    (∀ (p : RowPkt), b = .row p → (reqOf s p.tag = none →
      Leads (exec (.row port h p) s) (fun t => t.span.lateAnswers = satAdd 16 s.span.lateAnswers 1 ∧ t.span.reqs = s.span.reqs)) ∧
      (∀ q, reqOf s p.tag = some q → exec (.row port h p) s = .next (takeRow q p u))) ∧
    (∀ (p : KeyPkt) (key : RowKey), b = .promote p → key = { tid := p.tid, defkey := p.defkey, row := p.row } →
      (∀ t, mget s.tables p.tid = some t → homesKey s t key = true →
        Leads (exec (.promote port h p) s) (fun v => v.ldg = { s.ldg with commit := { s.ldg.commit with
          promoIn := s.ldg.commit.promoIn ++ [{ key := key, step := p.step, who := .node h.src }] } })) ∧
      ((∀ t, mget s.tables p.tid = some t → homesKey s t key = false) →
        exec (.promote port h p) s = .next (sendOwn h.src (.notice (keyPkt key p.step)) u))) ∧
    (∀ (p : KeyPkt), b = .notice p → Leads (exec (.notice port h p) s) (fun t =>
      t.cols = s.cols.map (fun c => (c.1, c.2.notice { tid := p.tid, defkey := p.defkey, row := p.row })))) ∧
    (∀ (p : AbsentPkt), b = .absent p →
      (p.kind = 1 → reqOf s p.tag = none → Leads (exec (.absent port h p) s) (fun t =>
        t.span.lateAnswers = satAdd 16 s.span.lateAnswers 1 ∧ t.span.reqs = s.span.reqs)) ∧
      (∀ q, p.kind = 1 → reqOf s p.tag = some q → exec (.absent port h p) s = .next (failReq q .homeAbsent u)) ∧
      (p.kind = 3 → exec (.absent port h p) s = .next ((List.range 40).foldl (fun t c => absentWait c (keyOfWord p.w8) t) u))) ∧
    (∀ (p : PartialPkt), b = .part p → codesOk p.w16 p.codes = true →
      (s.ldg.input.length < 4096 → Leads (exec (.part port h p) s) (fun t => ∃ c : Contrib,
        t.ldg = { s.ldg with input := s.ldg.input ++ [c] } ∧ c.key = partKey p ∧ c.slice = p.slice ∧ c.step = p.step ∧ c.epoch = p.epoch ∧
        c.vals = partValues p ∧ c.contrib = p.contrib ∧ c.tokens = p.tokens)) ∧
      (4096 ≤ s.ldg.input.length → exec (.part port h p) s = .next (stay port { hdr := h, body := b } s))) ∧
    (∀ (p : UpdatePkt) (w : State), b = .update p →
      (mget s.span.cseqIn h.src = some p.cseq → w = readCseq true h.src u → exec (.update port h p) s = .next (takeUpdate h.src p
        { w with span := { w.span with cseqIn := mset w.span.cseqIn h.src ((p.cseq + 1) % 65536) } })) ∧
      (mget s.span.cseqIn h.src = some p.cseq → s.lrd.replicas.find? (fun x => x.tid == p.tid && x.slot == p.slot && x.row == p.row &&
          x.defkey == p.defkey && x.home == h.src) = none → Leads (exec (.update port h p) s) (fun t =>
        t.lrd = { s.lrd with crierDiscarded := satAdd 16 s.lrd.crierDiscarded 1 } ∧ mget t.span.cseqIn h.src = some ((p.cseq + 1) % 65536))) ∧
      (mget s.span.cseqIn h.src ≠ some p.cseq → Leads (exec (.update port h p) s) (fun t => t.lrd = s.lrd ∧
        mget t.span.cseqIn h.src = none ∧ t.span.crierGaps = satAdd 16 s.span.crierGaps 1))) ∧
    (∀ (p : MarkPkt), b = .mark p → (mget s.span.cseqIn h.src = some p.cseq → Leads (exec (.mark port h p) s) (fun t =>
        mget t.span.marks (h.src * 4096 + p.tid) = some p.step ∧ mget t.span.cseqIn h.src = some ((p.cseq + 1) % 65536))) ∧
      (mget s.span.cseqIn h.src ≠ some p.cseq → Leads (exec (.mark port h p) s) (fun t => t.span.marks = s.span.marks ∧
        mget t.span.cseqIn h.src = none ∧ t.span.crierGaps = satAdd 16 s.span.crierGaps 1)))

/-- The timers of this K40's own requests (R141, R143, R147, R380 to R382, R584, R586, R590). -/
def Obligations.RequestTimers : Prop :=
  (∀ (s f : State) (k : Nat) (q : Req), s.span.reqs.find? (fun q => q.tag % 16384 == k) = some q →
    f = { s with span := { s.span with reqs := s.span.reqs.filter (fun x => x.tag != q.tag),
                                       gens := mset s.span.gens k ((mgetD s.span.gens k 0 + 1) % 64) } } →
    (exec (.remoteReadTimeout k) s = .next (failReq q .remoteTimeout s)) ∧
    (∀ c m pos slice, q.purpose = .mill c m pos slice → s.lrd.refresh = none →
      exec (.remoteReadTimeout k) s = .next (answerMill c m pos (readKeyOf q.pkt) slice .remoteTimeout false none f)) ∧
    (∀ map tid row slice, q.purpose = .migrate map tid row slice → s.lrd.refresh = none →
      exec (.remoteReadTimeout k) s = .next (failMigration map tid row f))) ∧
  (∀ (s : State) (col idx : Nat) (w : WaitBag) (x : WaitRow) (r : Run),
    ((colOf s col).wait.flatMap (fun w => (w.rows.filter (fun x => !x.noticed && !x.isLocal)).map (fun x => (w, x))))[idx]? = some (w, x) →
    runOf s w.ord = some r →
    (x.home = self s → exec (.promoteResend col idx) s =
      .next (deliver (mkPkt s x.home (.promote { tid := x.key.tid, defkey := x.key.defkey, row := x.key.row,
                                                 step := (r.desc.step + pow32 - 1) % pow32 })) s)) ∧
    (∀ p, x.home ≠ self s → routePort s x.home = some p → exec (.promoteResend col idx) s =
      .next (joinQueue [] p (mkPkt s x.home (.promote { tid := x.key.tid, defkey := x.key.defkey, row := x.key.row,
                                                        step := (r.desc.step + pow32 - 1) % pow32 })) s)) ∧
    (x.home ≠ self s → routePort s x.home = none → exec (.promoteResend col idx) s = .next (absentWait col x.key (noteAbsent x.home s)))) ∧
  (∀ (s : State) (map losing row : Nat) (m : HomeMap) (i : Inbound) (t : Table) (moved : List MigRow → State → State),
    spanRuns s = true → mget s.maps map = some m → nextInbound s m = some i → mget s.tables i.tid = some t →
    losing = ((m.old.map (fun o => nodeOfShard o.1 i.shard))).getD 0 → row = unmixRow t (i.shard * 2 ^ (t.hbits - 16) + i.next) →
    moved = (fun l u => mapMod map (fun m =>
      { m with inbound := lmap m.inbound (fun x => x.shard == i.shard && x.tid == i.tid) (fun x => { x with next := x.next + 1, rows := x.rows ++ l }) }) u) →
    (activeSlot t = none → exec (.migrationReadIssue map) s = .next (settleInbound map (moved [] s))) ∧
    (∀ k, activeSlot t = some k → (vslot t k).rows ≤ row → exec (.migrationReadIssue map) s = .next (settleInbound map (moved [] s))) ∧
    (∀ k, activeSlot t = some k → row < (vslot t k).rows → migInFlight s + sliceCount t.dim ≤ 1024 → inFlight s + sliceCount t.dim ≤ 16384 →
      (∀ u, sendSlices map losing t i.tid k m.epoch row (openStepNo s) (List.range (sliceCount t.dim)) s = some u →
        exec (.migrationReadIssue map) s =
          .next (moved [{ tid := i.tid, row := row, pos := i.next, got := [], written := false, failed := false }] u)) ∧
      (sendSlices map losing t i.tid k m.epoch row (openStepNo s) (List.range (sliceCount t.dim)) s = none → routePort s losing = none →
        exec (.migrationReadIssue map) s = .next (failMigration map i.tid row
          (moved [{ tid := i.tid, row := row, pos := i.next, got := [], written := false, failed := false }] (noteAbsent losing s)))))) ∧
  (∀ (s u : State) (idx tag : Nat) (q : Req), spanRuns s = true → s.span.retry[idx]? = some q → freeTag s = some tag → inFlight s < 16384 →
    u = { s with span := { s.span with retry := s.span.retry.eraseIdx idx } } →
    (q.node = self s ∨ (routePort s q.node).isSome = true → Leads (exec (.migrationReadRetry idx) s) (fun t =>
      t.span.retry = s.span.retry.eraseIdx idx ∧
      t.span.reqs = s.span.reqs ++ [{ tag := tag, node := q.node, pkt := { q.pkt with tag := tag }, purpose := q.purpose }])) ∧
    (q.node ≠ self s → routePort s q.node = none → exec (.migrationReadRetry idx) s = .next (failReq q .homeAbsent (noteAbsent q.node u))))

/-- Answers, ready levels and credits of the Chip Data Ports (R149, R453, R481, R507, R619, R620, R625 to R628, R630, R646; the
arguments of log entry 0x0C10 are open, assumption log 9). -/
def Obligations.ChipPortAnswers : Prop :=
  (∀ (s u : State) (p : Nat) (h : W64) (d : List Byte) (r : OutReq), portSees s p = true → headerBad s p h = false → answered s p h = some r →
    u = pumpPort p { s with cdp := mset s.cdp p { cdpPort s p with outstanding := (cdpPort s p).outstanding.erase r } } →
    (∀ ord i ofs q x, inKind h = 8 → r.owner = .runRead ord i ofs → runOf s ord = some q → q.streams[i]? = some x →
      (inErr h = false → Leads (exec (.rdData p h d) s) (fun t => t.cdp = u.cdp ∧ t.wire = u.wire ∧ ∃ q', runOf t ord = some q' ∧
        q'.streams[i]? = some { x with got := putBytes x.got ofs (readBytes r d) })) ∧
      (inErr h = true → Leads (exec (.rdData p h d) s) (fun t => bit t.gbl.event evEccUncorrectable = true ∧ ∃ q', runOf t ord = some q' ∧
        q'.streams[i]? = some { x with
          got := putBytes x.got ofs (readBytes r d),
          badElems := x.badElems ++ (elemsIn x.elem ofs r.len).map (fun e => (e, Status.uncorrectable)) }))) ∧
    (∀ ord ofs x, inKind h = 8 → r.owner = .xferRead ord ofs → xferOf s ord = some x →
      (inErr h = false → Leads (exec (.rdData p h d) s) (fun t => t.cdp = u.cdp ∧ t.wire = u.wire ∧
        xferOf t ord = some { x with got := putBytes x.got ofs (readBytes r d) })) ∧
      (inErr h = true → Leads (exec (.rdData p h d) s) (fun t => bit t.gbl.event evEccUncorrectable = true ∧
        xferOf t ord = some { x with got := putBytes x.got ofs (readBytes r d), bad := firstBad x.bad (ofs / x.desc.elem, .uncorrectable) }))) ∧
    (∀ ord k b q, inKind h = 9 → r.owner = .runWrite ord k b → runOf s ord = some q → (bagOf q b).state = .draining →
      (inErr h = false → Leads (exec (.wrAck p h) s) (fun t => t.cdp = u.cdp ∧ t.wire = u.wire ∧ ∃ q', runOf t ord = some q' ∧
        bagOf q' b = { bagOf q b with
          writes := (bagOf q b).writes - 1, state := if (bagOf q b).writes - 1 = 0 then .left else .draining })) ∧
      (inErr h = true → Leads (exec (.wrAck p h) s) (fun t => bit t.gbl.event evEccUncorrectable = true ∧ ∃ q', runOf t ord = some q' ∧
        bagOf q' b = { bagOf q b with writes := (bagOf q b).writes - 1, state := .failed .uncorrectable }))) ∧
    (∀ ord k x, inKind h = 9 → r.owner = .xferWrite ord k → xferOf s ord = some x → x.done = k → x.bad = none →
      (inErr h = false → Leads (exec (.wrAck p h) s) (fun t => t.cdp = u.cdp ∧ t.wire = u.wire ∧
        xferOf t ord = some { x with writes := x.writes - 1, done := if x.writes - 1 = 0 then k + 1 else k })) ∧
      (inErr h = true → Leads (exec (.wrAck p h) s) (fun t => bit t.gbl.event evEccUncorrectable = true ∧
        xferOf t ord = some { x with writes := x.writes - 1, bad := some (k, .uncorrectable) }))) ∧
    (∀ slot a, inKind h = 9 → r.owner = .clerkResult slot → s.mbx.awaiting.find? (fun a => a.resp.slot == slot) = some a →
      (inErr h = false → a.left ≤ 1 → Leads (exec (.wrAck p h) s) (fun t =>
        t.mbx = { s.mbx with awaiting := s.mbx.awaiting.filter (fun b => b.resp.slot != slot), respQ := s.mbx.respQ ++ [a.resp] })) ∧
      (inErr h = false → 1 < a.left → Leads (exec (.wrAck p h) s) (fun t =>
        t.mbx = { s.mbx with awaiting := lmap s.mbx.awaiting (fun b => b.resp.slot == slot) (fun b => { b with left := b.left - 1 }) })) ∧
      (inErr h = true → Leads (exec (.wrAck p h) s) (fun t => bit t.gbl.event evEccUncorrectable = true ∧
        t.mbx = { s.mbx with awaiting := s.mbx.awaiting.filter (fun b => b.resp.slot != slot),
                             respQ := s.mbx.respQ ++ [{ a.resp with status := .uncorrectable, payload := [] }] }))) ∧
    (inKind h = 9 → r.owner = .small ∨ r.owner = .dump →
      (inErr h = false → exec (.wrAck p h) s = .next u) ∧
      (inErr h = true → Leads (exec (.wrAck p h) s) (fun t => bit t.gbl.event evEccUncorrectable = true ∧
        t.clerk.log.length = ((logOpen 1 r.addr s).clerk.log).length)))) ∧
  (∀ (s : State) (p : Nat) (h : W64), portSees s p = true → headerBad s p h = true → Leads (exec (.cdpHeaderDiscard p h) s) (fun t => ∃ e : LogEntry,
    e.code = 0x0C10 ∧ (e.a0, e.a1) = Config.logPack 0x0C10 [p, h.toNat] ∧ e.seq = s.clerk.logNext ∧
    t = { s with clerk := { s.clerk with log := (s.clerk.log ++ [e]).drop ((s.clerk.log ++ [e]).length - 2048), logNext := (s.clerk.logNext + 1) % pow32 } })) ∧
  (∀ (s : State) (p : Nat) (k : Bool), p < 8 →
    (Leads (exec (.cdpReadyChange p k false) s) (fun t => t.wire = s.wire ∧ cdpPort t p = { cdpPort s p with
      kRdy := kRdyOf s p, sRdy := false, hdrCredit := 0, datCredit := 0, pedCredit := 0 })) ∧
    (kRdyOf s p = true → s.gbl.state ≠ .retention → ((cdpPort s p).kRdy && (cdpPort s p).sRdy) = false →
      Leads (exec (.cdpReadyChange p k true) s) (fun t => t.wire = s.wire ∧ cdpPort t p = { cdpPort s p with
        kRdy := true, sRdy := true, hdrCredit := 0, datCredit := 0, pedCredit := 8 - (cdpPort s p).pedHeld }))) ∧
  (∀ (s : State) (p : Nat) (a b : Bool), p < 8 → (cdpPort s p).kRdy = true → (cdpPort s p).sRdy = true →
    (exec (.cdpCreditReturn p a b) s = .next (pumpPort p { s with cdp := mset s.cdp p { cdpPort s p with
      hdrCredit := min 1024 ((cdpPort s p).hdrCredit + b2n a), datCredit := min 1024 ((cdpPort s p).datCredit + b2n b) } })) ∧
    ((cdpPort s p).outQ = [] → Leads (exec (.cdpCreditReturn p a b) s) (fun t => t.wire = s.wire ∧ cdpPort t p = { cdpPort s p with
      hdrCredit := min 1024 ((cdpPort s p).hdrCredit + b2n a), datCredit := min 1024 ((cdpPort s p).datCredit + b2n b) })))

/-- Streams and completion records (R148, R151, R152, R449, R474, R475, R477, R480, R481, R486 to R488). -/
def Obligations.StreamsAndRecords : Prop :=
  (∀ (s u v : State) (carter ord i n words : Nat) (errs bad : List CwErr) (lines : List Nat) (r : Run) (x : Stream), carter < 48 → carterHeld s carter = false →
    runOf s ord = some r → r.streams[i]? = some x → streamReady s r x = true → u = dropLines (chunkRanges s ord i) lines s →
    bad = badIn u (chunkRanges u ord i) errs → v = fixErrs (chunkRanges u ord i) errs u →
    (x.write = false → n = min (x.count - x.cursor) (max 1 (4096 / x.elem)) →
      exec (.carterChunk carter ord ⟨i, errs, lines, words⟩) s =
        .next (correctedCells words (loseErrs bad (failElems v ord i bad (chunkIn carter ord i x v)))) ∧
      Leads (exec (.carterChunk carter ord ⟨i, errs, lines, words⟩) s) (fun t => ∃ q y, runOf t ord = some q ∧ q.streams[i]? = some y ∧
        y.cursor = x.cursor + n ∧ y.carter = carter ∧
        ∀ e k, e ∈ bad → k ∈ chunkHits v e.cw x.elem (runPieces x) → (k, .uncorrectable) ∈ y.badElems)) ∧
    (x.write = true → n = (outChunk x.outQ).length → exec (.carterChunk carter ord ⟨i, errs, lines, words⟩) s =
        .next (correctedCells words (loseErrs bad (failElems v ord i bad (chunkOut carter ord i x v)))) ∧
      Leads (exec (.carterChunk carter ord ⟨i, errs, lines, words⟩) s) (fun t => ∃ q y, runOf t ord = some q ∧ q.streams[i]? = some y ∧
        y.cursor = x.cursor + n ∧ y.carter = carter ∧ y.outQ = x.outQ.drop n ∧ y.handed = x.handed - n))) ∧
  (∀ (s u v : State) (carter ord i n words : Nat) (errs bad : List CwErr) (lines : List Nat) (x : Xfer), carter < 48 → carterHeld s carter = false →
    runOf s ord = none → xferOf s ord = some x → u = dropLines (chunkRanges s ord i) lines s → bad = badIn u (chunkRanges u ord i) errs →
    v = fixErrs (chunkRanges u ord i) errs u →
    (i = 0 → xferReads x = true → n = min (x.desc.count - x.cursor) (max 1 (4096 / x.desc.elem)) →
      exec (.carterChunk carter ord ⟨i, errs, lines, words⟩) s =
        .next (correctedCells words (loseErrs bad (failElems v ord i bad (xferChunkIn carter ord x v)))) ∧
      Leads (exec (.carterChunk carter ord ⟨i, errs, lines, words⟩) s) (fun t => ∃ y, xferOf t ord = some y ∧ y.cursor = x.cursor + n ∧ y.carter = carter ∧
        y.done = x.done ∧ ∀ e k, e ∈ bad → k ∈ xferElems x → chunkHits v e.cw x.desc.elem (elemPieces x k) ≠ [] → y.bad.isSome = true)) ∧
    (∀ bs, i ≠ 0 → xferNext x = some bs → xferWrites x = true →
      exec (.carterChunk carter ord ⟨i, errs, lines, words⟩) s =
        .next (correctedCells words (loseErrs bad (failElems v ord i bad (xferChunkOut carter ord x bs v)))) ∧
      Leads (exec (.carterChunk carter ord ⟨i, errs, lines, words⟩) s) (fun t => ∃ y, xferOf t ord = some y ∧ y.carter = carter ∧ y.done = x.done ∧
        y.writes = requestCount (cutPieces (rangePieces x.dst (xferAddr x.desc x.done).2 bs.length) bs)))) ∧
  (∀ (s : State) (carter ord i words : Nat) (errs : List CwErr) (lines : List Nat), 48 ≤ carter ∨ carterHeld s carter = true →
    exec (.carterChunk carter ord ⟨i, errs, lines, words⟩) s = .next s) ∧
  (∀ (s : State) (ord g : Nat) (r : Run) (i : GroupInfo), runOf s ord = some r → mget r.groups g = some i →
    (i.forwarded = false → r.ended = none → groupsBefore r g = true → groupReady r g = true →
      Leads (exec (.distributorForward ord g) s) (fun t => ∃ q, runOf t ord = some q ∧ mget q.groups g = some { i with forwarded := true } ∧
        q.bags = r.bags ∧ q.streams = r.streams.map (fun x => if x.write then x
          else { x with taken := max x.taken (min x.len (groupNeeds r g ((groupEnd r g).getD 0) x)) }))) ∧
    (i.forwarded = true ∨ r.ended ≠ none ∨ groupsBefore r g = false ∨ groupReady r g = false → exec (.distributorForward ord g) s = .next s)) ∧
  (∀ (s u : State) (ord duration : Nat) (r : Run), runOf s ord = some r → u = putRecord r.desc.flow true (runRecord r.desc (runEndOf r duration)) s →
    (runFinished s r = true → exec (.runRecordWrite ord duration) s =
      .next (settle (dropRef r.desc.tid r.slot { u with qh := { u.qh with runs := s.qh.runs.filter (fun q => q.ord != r.ord) } }))) ∧
    (runFinished s r = false → exec (.runRecordWrite ord duration) s = .next s)) ∧
  (∀ (s : State) (ord duration : Nat) (x : Xfer), xferOf s ord = some x →
    (∀ st, xferStatus x = some st → Leads (exec (.transferRecordWrite ord duration) s) (fun t =>
      flowOf t x.desc.flow = { flowOf s x.desc.flow with
        promised := (flowOf s x.desc.flow).promised - 1,
        records := (flowOf s x.desc.flow).records ++ [xferRecord x.desc x.carter st false x.done duration] } ∧
      t.qh.xfers = s.qh.xfers.filter (fun y => y.ord != ord))) ∧
    (xferStatus x = none → exec (.transferRecordWrite ord duration) s = .next s))

/-- Bag groups, bags, Sieve windows and tiles of a column (R122, R124, R131, R134, R142, R157, R171, R179, R182, R199, R487). -/
def Obligations.BagStarts : Prop :=
  (∀ (s : State) (ord col : Nat) (r : Run), runOf s ord = some r →
    (∀ g i, r.groups.find? (fun g => g.2.col == 40) = some (g, i) → r.ended = none → leastLoaded s r col = true →
      Leads (exec (.bagGroupDispatch ord col) s) (fun t => ∃ q, runOf t ord = some q ∧ q.bags = r.bags ∧
        q.groups = mset r.groups g { col := col, forwarded := i.forwarded } ∧ q.nextGroup = max r.nextGroup (g + 1))) ∧
    (r.groups.find? (fun g => g.2.col == 40) = none → r.nextGroup < groupCount r → r.ended = none → leastLoaded s r col = true →
      Leads (exec (.bagGroupDispatch ord col) s) (fun t => ∃ q, runOf t ord = some q ∧ q.bags = r.bags ∧
        q.groups = mset r.groups r.nextGroup { col := col, forwarded := false } ∧ q.nextGroup = r.nextGroup + 1)) ∧
    (r.ended ≠ none ∨ leastLoaded s r col = false → exec (.bagGroupDispatch ord col) s = .next s)) ∧
  (∀ (s : State) (col mill ord b : Nat) (v : ChipView) (r : Run) (t : Table), runOf s ord = some r → mget s.tables r.desc.tid = some t → r.ended = none →
    millsRun s = true → millFree s (colOf s col) mill = true → bagWaits s col r b = true → (colOf s col).state = .enabled →
    (r.desc.spec && waitFull (colOf s col)) = false →
    (∀ st, directionOk s col r = true → streamBad r .offsets [b, b + 1] = some st → (bagOf r b).isOver = false →
      Leads (exec (.bagStart col mill ord ⟨b, v⟩) s) (fun u => ∃ q, runOf u ord = some q ∧ bagOf q b = { bagOf r b with state := .failed st })) ∧
    (∀ lo hi, directionOk s col r = true → streamBad r .offsets [b, b + 1] = none → firstBadOffset r b = none → bagEntries r b = some (lo, hi) →
      ((ord, b) ∉ (colOf s col).redo → bagBad r b lo hi = none → Leads (exec (.bagStart col mill ord ⟨b, v⟩) s) (fun u =>
        workOf u col mill = some (BagWork.start r b (lookupsOf r t (vslot t r.slot).rows lo hi)) ∧ (colOf u col).backward = r.backward ∧
        ∃ q, runOf u ord = some q ∧ (bagOf q b).state = .started)) ∧
      (∀ st, (ord, b) ∉ (colOf s col).redo → bagBad r b lo hi = some st → (bagOf r b).isOver = false →
        Leads (exec (.bagStart col mill ord ⟨b, v⟩) s) (fun u =>
          ∃ q, runOf u ord = some q ∧ bagOf q b = { bagOf r b with state := .failed st })) ∧
      (∀ q w, (ord, b) ∈ (colOf s col).redo → againWaits r = false →
        w = readAgain r b lo hi v (colMod col (fun c => { c with redo := c.redo.filter (fun p => p != (ord, b)) }) s) → runOf w ord = some q →
        bagBad q b lo hi = none → Leads (exec (.bagStart col mill ord ⟨b, v⟩) s) (fun u =>
          workOf u col mill = some (BagWork.start q b (lookupsOf q t (vslot t q.slot).rows lo hi)) ∧ (ord, b) ∉ (colOf u col).redo ∧
          ∃ q', runOf u ord = some q' ∧ (bagOf q' b).state = .started ∧ (bagOf q' b).redone = true)) ∧
      ((ord, b) ∈ (colOf s col).redo → againWaits r = true → exec (.bagStart col mill ord ⟨b, v⟩) s = .next s)) ∧
    (directionOk s col r = false → r.backward = false → worksFor s col true = false →
      Leads (exec (.bagStart col mill ord ⟨b, v⟩) s) (fun u => colOf u col = { colOf s col with flushDue := true } ∧
        ∀ k, k ≠ col → colOf u k = colOf s k))) ∧
  (∀ (s : State) (col mill ord b : Nat) (v : ChipView) (r : Run) (w : BagWork), runOf s ord = some r → (millOf (colOf s col) mill).work = some w →
    w.ord = ord → w.bag = b → w.opened = false → millsRun s = true →
    Leads (exec (.bagStart col mill ord ⟨b, v⟩) s) (fun u => workOf u col mill = some (w.openSlice r w.slice) ∧ u.qh = s.qh)) ∧
  (∀ (s : State) (col : Nat),
    (col < 40 → 4096 ≤ (colOf s col).window.length ∨ (colOf s col).window ≠ [] ∧ moreLookups s col = false →
      Leads (exec (.sieveWindowClose col) s) (fun u => colOf u col = { colOf s col with window := [], pins := [] } ∧
        ∀ k, k ≠ col → colOf u k = colOf s k)) ∧
    (40 ≤ col ∨ (colOf s col).window.length < 4096 ∧ ((colOf s col).window = [] ∨ moreLookups s col = true) →
      exec (.sieveWindowClose col) s = .next s)) ∧
  (∀ (s : State) (col mill : Nat), (millOf (colOf s col) mill).token = none → millsRun s = true →
    Leads (exec (.tileDrain col mill) s) (fun u => millOf (colOf u col) mill = { millOf (colOf s col) mill with part := none } ∧ u.qh = s.qh)) ∧
  (∀ (s : State) (col mill ord b : Nat) (bytes : List Byte) (r : Run) (x : Stream), (millOf (colOf s col) mill).token = some (ord, b, bytes) →
    runOf s ord = some r → streamOf r .output = some x →
    (millsRun s = true → r.ended = none → outRoom s x bytes.length = true → Leads (exec (.tileDrain col mill) s) (fun u =>
      millOf (colOf u col) mill = { millOf (colOf s col) mill with token := none } ∧ ∃ q, runOf u ord = some q ∧
      streamOf q .output = some { x with outQ := x.outQ ++ tokenElems r b bytes } ∧
      bagOf q b = { bagOf r b with writes := (bagOf r b).writes + (tokenElems r b bytes).length })) ∧
    (outRoom s x bytes.length = false → exec (.tileDrain col mill) s = .next s))

/-- Row reads and pooling on a Mill (R68, R125, R126, R128, R129, R131, R139, R141, R154, R182, R183). -/
def Obligations.RowsPooled : Prop :=
  (∀ (s u : State) (col mill : Nat) (w : BagWork) (r : Run) (l : Lookup × W32) (t : Table), workOf s col mill = some w → runOf s w.ord = some r →
    w.lookups[w.issued]? = some l → mget s.tables r.desc.tid = some t → w.opened = true → millsRun s = true → needsRows r = true →
    (colOf s col).window.length < 4096 → u = fillSieve col s →
    (l.1.key r.desc.tid = none → r.desc.spec = false → Leads (exec (.rowReadIssue col mill) s) (fun v =>
      (colOf v col).window = (if w.issued < w.counted then (colOf s col).window else (colOf s col).window ++ [none]) ∧ workOf v col mill = some { w with
        issued := w.issued + 1, counted := max w.counted (w.issued + 1),
        reads := w.reads ++ [{ pos := w.issued, key := { tid := r.desc.tid, defkey := true, row := 0 }, source := .sieve, answered := true,
                               status := .ok, prov := false, data := none }] })) ∧
    (∀ key x, l.1.key r.desc.tid = some key → x = readIndex col r w t key u → exec (.rowReadIssue col mill) s = .next (issueRead col mill r w t key x) ∧
      (∀ src, r.desc.spec = false → findRow x col r w t key = .localHome src → inFlight x < 16384 →
        bufferUsed w (sliceLen r.dim w.slice) + up64 (16 + 4 * sliceLen r.dim w.slice) ≤ 28672 → Leads (exec (.rowReadIssue col mill) s) (fun v =>
          v.span.homeReads = x.span.homeReads ++ [homeReadOf x r w col mill key] ∧ workOf v col mill = some { w with
            issued := w.issued + 1, counted := max w.counted (w.issued + 1),
            reads := w.reads ++ [{ pos := w.issued, key := key, source := src, answered := false, status := .ok, prov := false, data := none }] })))) ∧
  (∀ (s u v : State) (i : Nat) (errs bad : List CwErr) (lines : List Nat) (h : HomeRead) (t : Table) (rs : List (Nat × Nat)), s.span.homeReads[i]? = some h →
    mget s.tables h.key.tid = some t → u = meetFilters h.key (if h.spec then some (stepBefore h.step) else none) s →
    (homeWaits u t h = true → exec (.homeRowRead ⟨i, errs, lines⟩) s = .next (askEntry i h u) ∧
      (h.asked = true → exec (.homeRowRead ⟨i, errs, lines⟩) s = .next u)) ∧
    (homeWaits u t h = false → rs = (homeRanges (readMap t h.key true u) t h).map (fun r => (r.2.1, r.2.2)) →
      bad = badIn (readMap t h.key true u) rs errs → v = fixErrs rs errs (dropLines rs lines (readMap t h.key true u)) →
      (∀ st d x, bad = [] → ((st, d), x) = readHere t h v → exec (.homeRowRead ⟨i, errs, lines⟩) s = .next (serveHome i h t st d x)) ∧
      (bad ≠ [] → exec (.homeRowRead ⟨i, errs, lines⟩) s = .next (loseErrs bad (serveHome i h t .uncorrectable none (frontHomeRead t h v)))) ∧
      (∀ c m pos, h.origin = .mill c m pos → Leads (exec (.homeRowRead ⟨i, errs, lines⟩) s) (fun x =>
        x.span.homeReads = s.span.homeReads.eraseIdx i ∧ x.qh = s.qh ∧ x.tables = s.tables)))) ∧
  (∀ (s u : State) (col mill sram words : Nat) (cv : ChipView) (w : BagWork) (r : Run) (l : Lookup × W32) (x : MillRead) (t : Table), workOf s col mill = some w →
    runOf s w.ord = some r → w.lookups[w.cursor]? = some l → w.reads.find? (fun x => x.pos == w.cursor) = some x → mget s.tables r.desc.tid = some t →
    w.opened = true → x.answered = true → millsRun s = true → r.backward = false → u = (arriveWords col r w x sram words s).2 →
    ((bagOf r w.bag).isOver = false → Leads (exec (.rowArrive col mill ⟨true, sram, words, cv⟩) s) (fun v => workOf v col mill = none ∧
      ∃ q, runOf v w.ord = some q ∧ bagOf q w.bag = { bagOf r w.bag with state := .failed .uncorrectable })) ∧
    (x.status ≠ .ok → (bagOf r w.bag).isOver = false → Leads (exec (.rowArrive col mill ⟨false, sram, words, cv⟩) s) (fun v => workOf v col mill = none ∧
      ∃ q, runOf v w.ord = some q ∧ bagOf q w.bag = { bagOf r w.bag with state := .failed x.status })) ∧
    (x.status = .ok → readElems r w x.data = none → (bagOf r w.bag).isOver = false → Leads (exec (.rowArrive col mill ⟨false, sram, words, cv⟩) s) (fun v =>
      workOf v col mill = none ∧ ∃ q, runOf v w.ord = some q ∧ bagOf q w.bag = { bagOf r w.bag with state := .failed .uncorrectable })) ∧
    (∀ cls sh es, x.status = .ok → readElems r w x.data = some (cls, sh, es) → r.desc.spec = false →
      (∀ y n, r.desc.keepRows = false → x.prov = false → addRow r w l.2 cls sh es (l.1.defaulted && t.defMean) = .done y n →
        Leads (exec (.rowArrive col mill ⟨false, sram, words, cv⟩) s) (fun v =>
          workOf v col mill = some { y with cursor := y.cursor + 1, reads := y.reads.filter (fun z => z.pos != x.pos) })) ∧
      (addRow r w l.2 cls sh es (l.1.defaulted && t.defMean) = .overflow →
        (againWaits r = true → exec (.rowArrive col mill ⟨false, sram, words, cv⟩) s = .next u) ∧
        (∀ lo hi z q, againWaits r = false → bagEntries r w.bag = some (lo, hi) → z = readAgain r w.bag lo hi cv u → runOf z w.ord = some q →
          bagBad q w.bag lo hi = none → Leads (exec (.rowArrive col mill ⟨false, sram, words, cv⟩) s) (fun v =>
            workOf v col mill = some (({ w with lookups := lookupsOf q t (vslot t q.slot).rows lo hi } : BagWork).replay q)))))) ∧
  (∀ (s u : State) (col mill sram : Nat) (w x y : BagWork) (r : Run) (t : Table), workOf s col mill = some w → runOf s w.ord = some r →
    mget s.tables r.desc.tid = some t → w.opened = true → w.lookups.length ≤ w.cursor → millsRun s = true →
    (x, u) = colEvent col 0x104 sram r.desc.spec w s → y = (finishSlice r t x).closePass →
    exec (.bagPoolEnd col mill ⟨true, sram⟩) s = .next (afterBag r.ord (noteStatus .uncorrectable (failOn col mill x .uncorrectable u))) ∧
    ((millOf (colOf s col) mill).token = none → (millOf (colOf s col) mill).part = none →
      (w.slice + 1 < sliceCount r.dim → Leads (exec (.bagPoolEnd col mill ⟨false, sram⟩) s) (fun v =>
        millOf (colOf v col) mill = { millOf (colOf s col) mill with
          work := some { y with opened := false, slice := w.slice + 1 }, part := if r.backward then none else some (r.ord, w.bag) } ∧ v.qh = s.qh)) ∧
      (sliceCount r.dim ≤ w.slice + 1 →
        (r.backward = true → exec (.bagPoolEnd col mill ⟨false, sram⟩) s = .next (endBackward col mill r t y u)) ∧
        (r.backward = false → y.prov ≠ [] → exec (.bagPoolEnd col mill ⟨false, sram⟩) s = .next (waitBag col mill r y u)) ∧
        (r.backward = false → y.prov = [] → r.desc.spec = false → y.keep = [] → (tokenOf r y).1 ≠ [] → Leads (exec (.bagPoolEnd col mill ⟨false, sram⟩) s) (fun v =>
          millOf (colOf v col) mill = { millOf (colOf s col) mill with work := none, token := some (r.ord, y.bag, (tokenOf r y).1) } ∧
          ∃ q, runOf v w.ord = some q ∧ bagOf q y.bag = { bagOf r y.bag with
            state := .draining, defaulted := defaultedOf y, replays := y.passes })))) ∧
    ((millOf (colOf s col) mill).token ≠ none ∨ (millOf (colOf s col) mill).part ≠ none → exec (.bagPoolEnd col mill ⟨false, sram⟩) s = .next s))

/-- What the register writes, the mailbox and the counters change, and that they change nothing else (R495, R498, R500, R598, R604, R611, R635, R655, R242, R490, R446, R345). -/
def Obligations.RegisterFrame : Prop := ∀ s t : State,
  (∀ val, exec (.mbxDoorbell val) s = .next t → OnlyIn [.mbx] s t) ∧
  (∀ slot word val, exec (.mbxSlotWrite slot word val) s = .next t → OnlyIn [.mbx] s t) ∧
  (∀ val, exec (.mbxRespHeadWrite val) s = .next t → OnlyIn [.mbx] s t) ∧
  (∀ size val, exec (.mbxRingConfigWrite size val) s = .next t → OnlyIn [.mbx] s t) ∧
  (exec .commandTake s = .next t → OnlyIn [.mbx] s t) ∧
  (exec .responseWrite s = .next t → OnlyIn [.mbx, .ports] s t) ∧
  (∀ val, exec (.ctrModeWrite val) s = .next t → OnlyIn [.ctr] s t) ∧
  (∀ val incs, exec (.ctrFreezeWrite val incs) s = .next t → OnlyIn [.events, .ports, .cols, .counts, .ctr] s t) ∧
  (∀ val, exec (.ctrDumpPeriodWrite val) s = .next t → OnlyIn [.ctr] s t) ∧
  (∀ val, exec (.ctrSampleWrite val) s = .next t → OnlyIn [.ctr] s t) ∧
  (∀ col val, exec (.mclIdleCauseClear col val) s = .next t → OnlyIn [.cols] s t) ∧
  (∀ incs, exec (.readerVisit incs) s = .next t → OnlyIn [.events, .ports, .cols, .counts] s t) ∧
  (∀ incs, exec (.dumpPeriodEnd incs) s = .next t → OnlyIn [.events, .ports, .cols, .counts, .ctr] s t) ∧
  (∀ idx times, exec (.sampleRecordWrite idx times) s = .next t → OnlyIn [.ports, .ctr] s t) ∧
  (∀ val, exec (.gblEventWrite val) s = .next t → OnlyIn [.events, .ports] s t) ∧
  (∀ off val, exec (.gblEventEnWrite off val) s = .next t → OnlyIn [.events, .block, .ports] s t) ∧
  (∀ val, exec (.gblMsiAddrWrite val) s = .next t → OnlyIn [.events, .block, .ports] s t) ∧
  (∀ val, exec (.asyClear val) s = .next t → OnlyIn [.asy] s t) ∧
  (∀ val, exec (.ldgLatePolicyWrite val) s = .next t → OnlyIn [.ldg] s t) ∧
  (∀ val, exec (.qhSplitWrite val) s = .next t → OnlyIn [.qh] s t) ∧
  (∀ val, exec (.qhTimeoutWrite val) s = .next t → OnlyIn [.qh] s t) ∧
  (∀ val, exec (.fltRingHeadWrite val) s = .next t → OnlyIn [.flt] s t) ∧
  (∀ size val, exec (.fltRingConfigWrite size val) s = .next t → OnlyIn [.flt] s t) ∧
  (∀ val, exec (.fltStatusClear val) s = .next t → OnlyIn [.flt] s t) ∧
  (∀ stack val, exec (.hbmTempWrite stack val) s = .next t → OnlyIn [.hbmStacks] s t) ∧
  (∀ stack val, exec (.hbmHintCfgWrite stack val) s = .next t → OnlyIn [.hbmStacks] s t) ∧
  (∀ stack val hard, exec (.test1500LoadInstr stack val hard) s = .next t → OnlyIn [.hbmStacks] s t) ∧
  (∀ stack val captured, exec (.test1500ShiftData stack val captured) s = .next t → OnlyIn [.hbmStacks] s t)

/-- What each command of the Clerk changes, and that it changes nothing else (R497, R506, R509, R513, R515, R516, R567, R568, R672). -/
def Obligations.ClerkCommandFrame : Prop := ∀ s t : State,
  (∀ slot, exec (.ctrConfig slot) s = .next t → OnlyIn [.block, .mbx, .counts] s t) ∧
  (∀ slot, exec (.flowConfig slot) s = .next t → OnlyIn [.block, .mbx, .qh] s t) ∧
  (∀ slot, exec (.ctxSet slot) s = .next t → OnlyIn [.block, .mbx, .xlt] s t) ∧
  (∀ slot, exec (.segSet slot) s = .next t → OnlyIn [.block, .mbx, .xlt] s t) ∧
  (∀ slot v place, exec (.tableCreate slot v place) s = .next t → OnlyIn [.block, .mbx, .tables, .moves, .hbm, .poison, .asy, .lrd, .hbmStacks, .shutters] s t) ∧
  (∀ slot v, exec (.tableDescribe slot v) s = .next t → OnlyIn [.block, .mbx, .ports, .hbmStacks] s t) ∧
  (∀ slot, exec (.tableDestroy slot) s = .next t → OnlyIn [.events, .block, .mbx, .tables, .moves, .ports, .cols, .ldg, .asy, .lrd, .hbmStacks, .span, .counts] s t) ∧
  (∀ slot place, exec (.loadStart slot place) s = .next t → OnlyIn [.block, .mbx, .tables, .moves, .hbm, .poison, .asy, .lrd] s t) ∧
  (∀ slot v, exec (.loadRows slot v) s = .next t → OnlyIn [.events, .block, .mbx, .tables, .hbm, .poison, .hbmStacks, .ports, .asy] s t) ∧
  (∀ slot, exec (.loadEnd slot) s = .next t → OnlyIn [.block, .mbx, .tables, .asy] s t) ∧
  (∀ slot, exec (.switch slot) s = .next t → OnlyIn [.block, .mbx, .tables, .moves, .lrd] s t) ∧
  (∀ slot v, exec (.rowRestore slot v) s = .next t → OnlyIn [.events, .block, .mbx, .tables, .moves, .hbm, .poison, .ports, .cols, .ldg, .asy, .lrd, .hbmStacks, .span, .counts] s t) ∧
  (∀ slot v, exec (.templateInstall slot v) s = .next t → OnlyIn [.block, .mbx, .clerk, .templates, .hbmStacks] s t) ∧
  (∀ tslot, exec (.templateInstallComplete tslot) s = .next t → OnlyIn [.mbx, .clerk, .templates] s t) ∧
  (∀ slot, exec (.nodeSet slot) s = .next t → OnlyIn [.block, .mbx, .clerk, .span] s t) ∧
  (∀ slot v, exec (.routeSet slot v) s = .next t → OnlyIn [.block, .mbx, .hbmStacks, .span] s t) ∧
  (∀ slot v room, exec (.homemapInstall slot v room) s = .next t → OnlyIn [.block, .mbx, .maps, .moves, .hbm, .poison, .lrd, .hbmStacks, .shutters] s t) ∧
  (∀ slot, exec (.larderPlan slot) s = .next t → OnlyIn [.block, .mbx, .clerk, .tables, .moves, .hbm, .poison, .lrd] s t) ∧
  (∀ slot v, exec (.hotsetRefresh slot v) s = .next t → OnlyIn [.events, .mbx, .tables, .moves, .hbm, .poison, .ports, .ldg, .asy, .lrd, .hbmStacks, .span, .counts] s t) ∧
  (∀ slot v, exec (.deferredConfigExecute slot v) s = .next t → OnlyIn [.events, .mbx, .clerk, .tables, .moves, .hbm, .poison, .ports, .ldg, .asy, .lrd, .hbmStacks, .span, .counts] s t) ∧
  (∀ slot, exec (.identify slot) s = .next t → OnlyIn [.block, .mbx] s t) ∧
  (∀ slot v, exec (.logRead slot v) s = .next t → OnlyIn [.block, .mbx, .ports, .hbmStacks] s t) ∧
  (∀ slot v, exec (.stepReport slot v) s = .next t → OnlyIn [.block, .mbx, .ports, .hbmStacks] s t) ∧
  (∀ slot volts mhz, exec (.marginReport slot volts mhz) s = .next t → OnlyIn [.block, .mbx] s t) ∧
  (∀ slot, exec (.replan slot) s = .next t → OnlyIn [.block, .mbx, .pwr] s t) ∧
  (∀ slot, exec (.powerState slot) s = .next t → OnlyIn [.block, .mbx, .pwr, .ports] s t)

/-- What the Queue Hall, the Carters and the Chip Data Ports change, and that they change nothing else (R119, R449, R468, R470, R471, R474, R480, R487, R619, R620, R626, R628). -/
def Obligations.QueueHallFrame : Prop := ∀ s t : State,
  (∀ port ctag hdr data, exec (.pedlarPush port ctag hdr data) s = .next t → OnlyIn [.events, .qh, .ports, .counts] s t) ∧
  (∀ port ctag req, exec (.pedlarPop port ctag req) s = .next t → OnlyIn [.events, .qh, .ports, .counts] s t) ∧
  (∀ port ctag hdr, exec (.pedlarProbe port ctag hdr) s = .next t → OnlyIn [.ports, .counts] s t) ∧
  (∀ val, exec (.subSubmit val) s = .next t → OnlyIn [.events, .qh, .ports] s t) ∧
  (∀ flow, exec (.streamTailTimeout flow) s = .next t → OnlyIn [.qh] s t) ∧
  (∀ flow, exec (.flowTimeout flow) s = .next t → OnlyIn [.events, .qh, .ports] s t) ∧
  (∀ flow duration v, exec (.runAdmit flow duration v) s = .next t → OnlyIn [.block, .clerk, .tables, .xlt, .flt, .qh, .hbmStacks, .counts] s t) ∧
  (∀ flow duration v, exec (.transferAdmit flow duration v) s = .next t → OnlyIn [.block, .clerk, .xlt, .flt, .qh, .hbmStacks, .counts] s t) ∧
  (∀ flow duration, exec (.replacedItemEnd flow duration) s = .next t → OnlyIn [.clerk, .flt, .qh] s t) ∧
  (∀ carter ord chunk, exec (.carterChunk carter ord chunk) s = .next t → OnlyIn [.events, .hbm, .poison, .qh, .ports, .hbmStacks, .counts] s t) ∧
  (∀ ord group, exec (.distributorForward ord group) s = .next t → OnlyIn [.qh] s t) ∧
  (∀ port hdr data, exec (.rdData port hdr data) s = .next t → OnlyIn [.events, .qh, .ports] s t) ∧
  (∀ port hdr, exec (.wrAck port hdr) s = .next t → OnlyIn [.events, .mbx, .clerk, .qh, .ports, .hbmStacks, .ctr] s t) ∧
  (∀ port hdr, exec (.cdpHeaderDiscard port hdr) s = .next t → OnlyIn [.clerk] s t) ∧
  (∀ port kRdy sRdy, exec (.cdpReadyChange port kRdy sRdy) s = .next t → OnlyIn [.ports] s t) ∧
  (∀ port header data, exec (.cdpCreditReturn port header data) s = .next t → OnlyIn [.ports] s t) ∧
  (∀ ord duration, exec (.runRecordWrite ord duration) s = .next t → OnlyIn [.block, .tables, .moves, .qh, .lrd] s t) ∧
  (∀ ord duration, exec (.transferRecordWrite ord duration) s = .next t → OnlyIn [.block, .qh] s t) ∧
  (∀ ord col, exec (.bagGroupDispatch ord col) s = .next t → OnlyIn [.qh, .ctr] s t)

/-- What invalidations and faults change, and that they change nothing else (R424, R427, R429, R431, R433, R439, R440). -/
def Obligations.FaultFrame : Prop := ∀ s t : State,
  (∀ val, exec (.xltInval val) s = .next t → OnlyIn [.xlt] s t) ∧
  (exec .invalTakeEffect s = .next t → OnlyIn [.xlt, .qh] s t) ∧
  (exec .invalAck s = .next t → OnlyIn [.events, .xlt, .ports] s t) ∧
  (∀ ord stream v, exec (.rangeRetranslate ord stream v) s = .next t → OnlyIn [.xlt, .flt, .qh, .hbmStacks] s t) ∧
  (exec .faultRaise s = .next t → OnlyIn [.flt] s t) ∧
  (exec .faultRecordWrite s = .next t → OnlyIn [.events, .flt, .ports] s t) ∧
  (∀ val, exec (.faultReplyReplay val) s = .next t → OnlyIn [.flt, .qh, .cols, .span, .ctr] s t) ∧
  (∀ val, exec (.faultReplyAbort val) s = .next t → OnlyIn [.flt, .qh, .cols, .span, .ctr] s t) ∧
  (∀ pend, exec (.faultOverdue pend) s = .next t → OnlyIn [.flt] s t)

/-- What the columns and their Mills change, and which bytes of memory a saved tile writes (R122, R126, R131, R139, R144, R183, R188, R189, R191, R199, R205). -/
def Obligations.ColumnFrame : Prop := ∀ s t : State,
  (∀ col, exec (.sieveWindowClose col) s = .next t → OnlyIn [.cols] s t) ∧
  (∀ col mill ord b, exec (.bagStart col mill ord b) s = .next t → OnlyIn [.qh, .cols, .hbmStacks, .ctr] s t) ∧
  (∀ col mill, exec (.rowReadIssue col mill) s = .next t → OnlyIn [.events, .clerk, .maps, .ports, .cols, .ldg, .asy, .lrd, .hbmStacks, .span, .counts] s t) ∧
  (∀ r, exec (.homeRowRead r) s = .next t → OnlyIn [.events, .clerk, .tables, .maps, .moves, .hbm, .poison, .ports, .cols, .ldg, .asy, .lrd, .hbmStacks, .span, .counts] s t) ∧
  (∀ col mill a, exec (.rowArrive col mill a) s = .next t → OnlyIn [.events, .mbx, .maps, .qh, .ports, .cols, .ldg, .asy, .lrd, .hbmStacks, .span, .counts, .ctr] s t) ∧
  (∀ col, exec (.commitNoticeReceive col) s = .next t → OnlyIn [.cols] s t) ∧
  (∀ col idx, exec (.promoteResend col idx) s = .next t → OnlyIn [.events, .qh, .ports, .cols, .ldg, .asy, .span, .counts, .ctr] s t) ∧
  (∀ col mill tile, exec (.bagPoolEnd col mill tile) s = .next t → OnlyIn [.events, .qh, .ports, .cols, .ldg, .asy, .lrd, .span, .counts, .ctr] s t) ∧
  (∀ col mill, exec (.tileDrain col mill) s = .next t → OnlyIn [.qh, .cols] s t) ∧
  (∀ col mill, exec (.tileSave col mill) s = .next t → OnlyIn [.events, .hbm, .poison, .qh, .ports, .cols, .ldg, .asy, .span, .counts, .ctr] s t) ∧
  (∀ col mill, exec (.tileRestore col mill) s = .next t → OnlyIn [.cols] s t) ∧
  (∀ col mill ue, exec (.backwardContribution col mill ue) s = .next t → OnlyIn [.cols, .counts, .ctr] s t) ∧
  (∀ col, exec (.mergeFlush col) s = .next t → OnlyIn [.events, .qh, .ports, .cols, .ldg, .asy, .span, .counts] s t) ∧
  (∀ col, exec (.backwardStreamIdle col) s = .next t → OnlyIn [.cols] s t) ∧
  (∀ col mill w img, workOf s col mill = some w → img = tileImage w.saved → exec (.tileSave col mill) s = .next t →
    (∀ a, a < saveAddr s col mill ∨ saveAddr s col mill + img.length ≤ a → hbmRead t a 1 = hbmRead s a 1) ∧
    (w.sawProv = true → ∀ a, hbmRead t a 1 = hbmRead s a 1) ∧
    ((savesTiles s && w.partly && (millOf (colOf s col) mill).saved.isNone) = false → t = s))

/-- What the Ledger and the phases of Commit change, and that they change nothing else (R210, R220, R228, R245, R250, R253, R258, R261, R266, R278, R292). -/
def Obligations.LedgerFrame : Prop := ∀ s t : State,
  (exec .partialEnqueue s = .next t → OnlyIn [.events, .qh, .ports, .ldg, .asy, .span, .counts] s t) ∧
  (∀ port idx, exec (.foldHoldExpire port idx) s = .next t → OnlyIn [.span] s t) ∧
  (∀ pos ue, exec (.ledgerFold pos ue) s = .next t → OnlyIn [.events, .maps, .hbm, .poison, .qh, .ports, .ldg, .asy, .lrd, .span, .counts] s t) ∧
  (∀ slot v, exec (.stepOpen slot v) s = .next t → OnlyIn [.events, .block, .mbx, .tables, .maps, .qh, .ports, .ldg, .asy, .lrd, .hbmStacks, .span, .counts] s t) ∧
  (∀ slot, exec (.sealStep slot) s = .next t → OnlyIn [.block, .mbx, .clerk, .cols, .ldg] s t) ∧
  (exec .sealDone s = .next t → OnlyIn [.events, .mbx, .clerk, .ports, .ldg] s t) ∧
  (∀ idx, exec (.rowMoveComplete idx) s = .next t → OnlyIn [.events, .tables, .moves, .hbm, .poison, .ports, .cols, .ldg, .asy, .lrd, .hbmStacks, .span, .counts] s t) ∧
  (exec .promotionReceive s = .next t → OnlyIn [.events, .ports, .cols, .ldg, .asy, .lrd, .span, .counts] s t) ∧
  (exec .spillScan s = .next t → OnlyIn [.events, .ports, .cols, .ldg, .asy, .lrd, .hbmStacks, .span, .counts] s t) ∧
  (∀ slot, exec (.commit slot) s = .next t → OnlyIn [.events, .block, .mbx, .clerk, .tables, .ports, .cols, .ldg, .asy, .hbmStacks, .span, .counts] s t) ∧
  (exec .journalFlushDone s = .next t → OnlyIn [.events, .hbm, .poison, .ports, .cols, .ldg, .asy, .lrd, .hbmStacks, .span, .counts] s t) ∧
  (∀ u, exec (.applyUnit u) s = .next t → OnlyIn [.events, .tables, .hbm, .poison, .ports, .cols, .ldg, .asy, .lrd, .hbmStacks, .span, .counts] s t) ∧
  (∀ tid shelf, exec (.shelfEvaluate tid shelf) s = .next t → OnlyIn [.events, .tables, .ports, .cols, .ldg, .asy, .hbmStacks, .span, .counts] s t) ∧
  (∀ tid slot shelf newShelf, exec (.shelfRebuild tid slot shelf newShelf) s = .next t → OnlyIn [.events, .tables, .moves, .hbm, .poison, .ports, .cols, .ldg, .asy, .hbmStacks, .span, .counts] s t) ∧
  (∀ duration, exec (.commitDone duration) s = .next t → OnlyIn [.events, .block, .mbx, .clerk, .ports, .cols, .ldg, .asy, .lrd, .hbmStacks, .span, .counts] s t)

/-- What packets, requests and links change, and that they change nothing else (R354, R356, R364, R367, R373, R375, R376, R382, R383, R385, R387, R584). -/
def Obligations.SpanFrame : Prop := ∀ s t : State,
  (∀ port h p, exec (.read port h p) s = .next t → OnlyIn [.events, .mbx, .tables, .maps, .qh, .ports, .cols, .ldg, .asy, .lrd, .hbmStacks, .span, .counts, .ctr] s t) ∧
  (∀ port h p, exec (.row port h p) s = .next t → OnlyIn [.events, .mbx, .tables, .maps, .hbm, .poison, .qh, .ports, .cols, .ldg, .asy, .lrd, .span, .counts, .ctr] s t) ∧
  (∀ port h p, exec (.promote port h p) s = .next t → OnlyIn [.events, .mbx, .maps, .qh, .ports, .cols, .ldg, .asy, .lrd, .span, .counts, .ctr] s t) ∧
  (∀ port h p, exec (.notice port h p) s = .next t → OnlyIn [.events, .mbx, .maps, .qh, .ports, .cols, .ldg, .asy, .lrd, .span, .counts, .ctr] s t) ∧
  (∀ port h p, exec (.absent port h p) s = .next t → OnlyIn [.events, .mbx, .maps, .qh, .ports, .cols, .ldg, .asy, .lrd, .span, .counts, .ctr] s t) ∧
  (∀ port h p, exec (.part port h p) s = .next t → OnlyIn [.events, .mbx, .maps, .qh, .ports, .cols, .ldg, .asy, .lrd, .span, .counts, .ctr] s t) ∧
  (∀ port h p, exec (.update port h p) s = .next t → OnlyIn [.events, .mbx, .maps, .qh, .ports, .cols, .ldg, .asy, .lrd, .hbmStacks, .span, .counts, .ctr] s t) ∧
  (∀ port h p, exec (.mark port h p) s = .next t → OnlyIn [.events, .mbx, .maps, .qh, .ports, .cols, .ldg, .asy, .lrd, .hbmStacks, .span, .counts, .ctr] s t) ∧
  (∀ tagSlot, exec (.remoteReadTimeout tagSlot) s = .next t → OnlyIn [.events, .mbx, .maps, .ports, .cols, .ldg, .asy, .lrd, .span, .counts] s t) ∧
  (∀ map, exec (.migrationReadIssue map) s = .next t → OnlyIn [.events, .maps, .ports, .ldg, .asy, .span, .counts] s t) ∧
  (∀ idx, exec (.migrationReadRetry idx) s = .next t → OnlyIn [.events, .mbx, .maps, .ports, .cols, .ldg, .asy, .lrd, .span, .counts] s t) ∧
  (∀ port txFail rxFail lane, exec (.linkTraining port txFail rxFail lane) s = .next t → OnlyIn [.events, .ports, .span] s t) ∧
  (∀ port x, exec (.linkBringupExchange port x) s = .next t → OnlyIn [.events, .ports, .span, .counts] s t) ∧
  (∀ port ack, exec (.nakReceive port ack) s = .next t → OnlyIn [.events, .mbx, .maps, .qh, .ports, .cols, .ldg, .asy, .lrd, .span, .counts, .ctr, .shutters] s t) ∧
  (∀ port f, exec (.flitReceive port f) s = .next t → OnlyIn [.events, .mbx, .maps, .qh, .ports, .cols, .ldg, .asy, .lrd, .span, .counts, .ctr, .shutters] s t) ∧
  (∀ port chan idx, exec (.packetSend port chan idx) s = .next t → OnlyIn [.span, .spanWire, .counts] s t) ∧
  (∀ port r, exec (.linkRetrainDone port r) s = .next t → OnlyIn [.events, .mbx, .maps, .qh, .ports, .cols, .ldg, .asy, .lrd, .span, .counts, .ctr, .shutters] s t) ∧
  (∀ port, exec (.recoverRetrainTimeout port) s = .next t → OnlyIn [.events, .ports, .ldg, .asy, .span, .counts] s t) ∧
  (∀ port h p, exec (.lquery port h p) s = .next t → OnlyIn [.events, .mbx, .maps, .qh, .ports, .cols, .ldg, .asy, .lrd, .span, .counts, .ctr] s t) ∧
  (∀ port h p, exec (.lstate port h p) s = .next t → OnlyIn [.events, .mbx, .maps, .qh, .ports, .cols, .ldg, .asy, .lrd, .span, .counts, .ctr, .shutters] s t) ∧
  (∀ port, exec (.lqueryTimeout port) s = .next t → OnlyIn [.events, .mbx, .maps, .qh, .ports, .cols, .ldg, .asy, .lrd, .span, .counts, .ctr, .shutters] s t) ∧
  (∀ port, exec (.spanRxElectricalIdle port) s = .next t → OnlyIn [.events, .mbx, .maps, .qh, .ports, .cols, .ldg, .asy, .lrd, .span, .counts, .ctr, .shutters] s t) ∧
  (∀ port, exec (.lastRxExpire port) s = .next t → OnlyIn [.span] s t) ∧
  (∀ spot, exec (.qhCellUncorrectable spot) s = .next t → OnlyIn [.events, .mbx, .maps, .qh, .ports, .cols, .ldg, .asy, .lrd, .span, .counts, .ctr, .shutters] s t)

/-- What memory events, Shutters, sequences and the heartbeat change, and that they change nothing else (R299, R323, R329, R332, R339, R520, R524, R532, R553, R565, R574, R581). -/
def Obligations.MemoryFrame : Prop := ∀ s t : State,
  (∀ stack temp, exec (.hbmThermalSample stack temp) s = .next t → OnlyIn [.events, .qh, .ports, .lrd, .hbmStacks] s t) ∧
  (∀ stack chan bank, exec (.hbmRefresh stack chan bank) s = .next t → OnlyIn [.hbmStacks] s t) ∧
  (∀ cw syms written, exec (.hbmPatrol cw syms written) s = .next t → OnlyIn [.events, .hbm, .poison, .ports, .hbmStacks] s t) ∧
  (∀ e who, exec (.hbmReadUncorrectable e who) s = .next t → OnlyIn [.events, .clerk, .tables, .maps, .moves, .hbm, .poison, .qh, .ports, .cols, .ldg, .asy, .lrd, .hbmStacks, .span, .counts] s t) ∧
  (∀ block wrong, exec (.larderPatrol block wrong) s = .next t → OnlyIn [.events, .ports, .lrd] s t) ∧
  (∀ block spot, exec (.larderReadUncorrectable block spot) s = .next t → OnlyIn [.events, .moves, .hbm, .poison, .ports, .ldg, .lrd] s t) ∧
  (∀ ins, exec (.marginSample ins) s = .next t → OnlyIn [.events, .pwr, .ports] s t) ∧
  (∀ slot, exec (.shutter slot) s = .next t → OnlyIn [.events, .block, .mbx, .clerk, .tables, .maps, .flt, .qh, .ports, .cols, .ldg, .asy, .lrd, .hbmStacks, .span, .counts, .ctr, .shutters] s t) ∧
  (∀ idx us, exec (.shutterDone idx us) s = .next t → OnlyIn [.events, .mbx, .clerk, .maps, .moves, .hbm, .poison, .qh, .ports, .cols, .ldg, .asy, .lrd, .hbmStacks, .span, .counts, .shutters] s t) ∧
  (∀ slot, exec (.unshutter slot) s = .next t → OnlyIn [.block, .mbx, .tables, .qh, .cols, .hbmStacks, .span, .shutters] s t) ∧
  (exec .porRelease s = .next t → OnlyIn [.block] s t) ∧
  (exec .rstNRelease s = .next t → OnlyIn [.block] s t) ∧
  (exec .recoveryComplete s = .next t → OnlyIn [.events, .block, .mbx, .clerk, .qh, .ports, .lrd] s t) ∧
  (exec .clerkBeat s = .next t → OnlyIn [.block, .mbx, .wch] s t) ∧
  (exec .heartbeatIntervalEnd s = .next t → OnlyIn [.events, .block, .mbx, .clerk, .wch, .ports, .lrd] s t) ∧
  (exec .clerkSramUncorrectable s = .next t → OnlyIn [.clerk, .lrd] s t) ∧
  (∀ slot, exec (.selftest slot) s = .next t → OnlyIn [.events, .block, .mbx, .clerk, .maps, .qh, .ports, .cols, .ldg, .asy, .lrd, .hbmStacks, .span, .counts, .ctr] s t) ∧
  (∀ slot, exec (.wipe slot) s = .next t → OnlyIn [.events, .block, .mbx, .clerk, .maps, .qh, .ports, .cols, .ldg, .asy, .lrd, .span, .counts, .ctr] s t) ∧
  (∀ slot v sigOk, exec (.lifecycle slot v sigOk) s = .next t → OnlyIn [.events, .block, .mbx, .clerk, .maps, .qh, .ports, .cols, .ldg, .asy, .lrd, .hbmStacks, .span, .counts, .ctr] s t) ∧
  (∀ ok img, exec (.clerkSecureBoot ok img) s = .next t → OnlyIn [.block, .mbx, .clerk, .tables, .templates, .maps, .moves, .hbm, .poison, .xlt, .flt, .qh, .ports, .cols, .ldg, .asy, .lrd, .hbmStacks, .span, .ctr, .shutters] s t) ∧
  (∀ res, exec (.selftestSequenceDone res) s = .next t → OnlyIn [.events, .block, .mbx, .clerk, .pwr, .tables, .templates, .maps, .moves, .hbm, .poison, .xlt, .flt, .qh, .ports, .cols, .ldg, .asy, .lrd, .hbmStacks, .span, .ctr, .shutters] s t)

/-- A Pedlar POP of a flow that holds a cell (R471). -/
def Obligations.PopReturnsTheFewer : Prop :=
  ∀ (s : State) (port ctag n k words : Nat) (hdr : W64), pedTaken s port = true → pedOp hdr = 1 → pedReserved hdr = true → pedCellsOk hdr = true →
    kindOf s (pedFlow hdr) = .complete → n = pedCells hdr → k = (flowOf s (pedFlow hdr)).records.length → 1 ≤ k →
    Leads (exec (.pedlarPop port ctag ⟨hdr, words⟩) s) (fun t => ∃ a cells u, t = correctedCells words (sendAnswer port ctag a cells u) ∧
      bits a 16 3 = min n k ∧ bit a 22 = false ∧ cells.length = 8 * min n k ∧
      (flowOf t (pedFlow hdr)).underrun = (flowOf s (pedFlow hdr)).underrun ∧
      (flowOf t (pedFlow hdr)).records.length = k - min n k)

/-- Pedlar requests to a flow whose Shutter has begun (R470). -/
def Obligations.ShutFlowAnswers : Prop :=
  ∀ (s : State) (port ctag f n words : Nat) (hdr : W64) (data : List W64), pedTaken s port = true → f = pedFlow hdr → n = pedCells hdr →
    pedReserved hdr = true → pedCellsOk hdr = true → (flowOf s f).shut = true →
    (pedOp hdr = 0 → s.gbl.state ≠ .held → s.gbl.state ≠ .selftest → pushSuits (kindOf s f) n = true →
      Leads (exec (.pedlarPush port ctag hdr data) s) (fun t => t.qh = s.qh ∧
        t = sendAnswer port ctag (pedAnswer s hdr .shuttered 0 false false) [] (countEv islQh 0x502 1 s))) ∧
    (pedOp hdr = 1 → kindOf s f = .complete → (flowOf s f).records ≠ [] →
      Leads (exec (.pedlarPop port ctag ⟨hdr, words⟩) s) (fun t =>
        (flowOf t f).records = (flowOf s f).records.drop (min n (flowOf s f).records.length) ∧
        ∃ u a, t = correctedCells words (sendAnswer port ctag a (popCells (flowOf s f) n).flatten u))) ∧
    (pedOp hdr = 1 → kindOf s f = .complete → (flowOf s f).records = [] →
      Leads (exec (.pedlarPop port ctag ⟨hdr, words⟩) s) (fun t => (flowOf t f).underrun = true ∧
        ∃ u, t = sendAnswer port ctag (pedAnswer u hdr .ok 0 true false) ((List.range 8).map (fun i => (flowOf s f).lastPopped.getD i 0)) u)) ∧
    (pedOp hdr = 2 → Leads (exec (.pedlarProbe port ctag hdr) s) (fun t => t.qh = s.qh ∧
        t = sendAnswer port ctag (pedAnswer s hdr .ok 0 false false) [] (countEv islQh 0x502 1 s)))

/-- The HEAD rule of the fault ring (R446), with the counters below 2^32 as the registers hold them. -/
def Obligations.HeadWithinTail : Prop :=
  ∀ (s : State) (val : W64), kcpAlive s = true → s.flt.head < 2 ^ 32 → s.flt.tail < 2 ^ 32 →
    (((s.flt.tail : Int) - s.flt.head) % 2 ^ 32 < ((bits val 0 32 : Int) - s.flt.head) % 2 ^ 32 →
      exec (.fltRingHeadWrite val) s = .next { s with flt := { s.flt with refused := true } }) ∧
    (((bits val 0 32 : Int) - s.flt.head) % 2 ^ 32 ≤ ((s.flt.tail : Int) - s.flt.head) % 2 ^ 32 →
      exec (.fltRingHeadWrite val) s = .next { s with flt := { s.flt with head := bits val 0 32 } }) ∧
    (bits val 0 32 = s.flt.tail → exec (.fltRingHeadWrite val) s = .next { s with flt := { s.flt with head := s.flt.tail } })

/-- Doorbells and writes of a busy slot (R496). -/
def Obligations.BusySlotRefuses : Prop :=
  ∀ (s t : State) (n : Nat) (val : W64), kcpAlive s = true → n < 64 → n ∈ s.mbx.busy → t = { s with mbx := { s.mbx with refused := true } } →
    (bits val 0 6 = n → exec (.mbxDoorbell val) s = .next t ∧ exec (.registerWrite 0x1000 val) s = .next t) ∧
    (∀ w, w < 8 → exec (.mbxSlotWrite n w val) s = .next t) ∧
    (∀ b, b < 64 → exec (.registerWrite (64 * n + b) val) s = .next t)

/-- COMMIT and SEAL_DONE (R20). -/
def Obligations.CommitNeedsSealDone : Prop :=
  ∀ (s : State) (slot : Nat) (m : Msg), Ready s 0x0A03 slot m →
    (s.ldg.sealedStep ≠ some (bits (arg m 1) 0 32) ∨ s.ldg.sealDone = false →
      Leads (exec (.commit slot) s) (fun t => t.mbx = finalMbx s slot m .badDescriptor [] ∧ t.ldg = s.ldg ∧ t.tables = s.tables ∧ t.hbm = s.hbm)) ∧
    (∀ t, exec (.commit slot) s = .next t → t.mbx = acceptedMbx s slot m →
      s.ldg.sealedStep = some (bits (arg m 1) 0 32) ∧ s.ldg.sealDone = true)

/-- What LDG_STATUS and LDG_STEP read of a Seal (R246). -/
def Obligations.SealSetsStatus : Prop :=
  (∀ (s : State) (slot : Nat) (m : Msg), Ready s 0x0A02 slot m → s.ldg.openStep = some (bits (arg m 1) 0 32) → s.ldg.sealedStep = none →
    Leads (exec (.sealStep slot) s) (fun t => t.mbx = acceptedMbx s slot m ∧ bit (regRead t 0x600000) 0 = false ∧ bit (regRead t 0x600000) 1 = true ∧
      bit (regRead t 0x600000) 2 = true ∧ bits (regRead t 0x600008) 32 32 = bits (arg m 1) 0 32)) ∧
  (∀ s : State, sealReady s = true → Leads (exec .sealDone s) (fun t => bit t.gbl.event 5 = true ∧ bit (regRead t 0x600000) 2 = false))

/-- The end of a waiting bag (R147). -/
def Obligations.WaitingBagsEnd : Prop :=
  ∀ (s : State) (col : Nat) (w : WaitBag) (x : WaitRow) (r : Run), w ∈ (colOf s col).wait → x ∈ w.rows → x.noticed = false → x.isLocal = false →
    runOf s w.ord = some r → (bagOf r w.bag).isOver = false →
    (∀ port h p, col < 40 → port < 8 → spanRuns s = true → h.hops < 15 → h.dest = self s → p.kind = 3 → keyOfWord p.w8 = x.key →
      Leads (exec (.absent port h p) s) (fun t => (∃ q, runOf t w.ord = some q ∧ (bagOf q w.bag).state = .failed .homeAbsent) ∧ w ∉ (colOf t col).wait)) ∧
    (∀ idx, ((colOf s col).wait.flatMap (fun w => (w.rows.filter (fun x => !x.noticed && !x.isLocal)).map (fun x => (w, x))))[idx]? = some (w, x) →
      x.home ≠ self s → routePort s x.home = none →
      Leads (exec (.promoteResend col idx) s) (fun t => (∃ q, runOf t w.ord = some q ∧ (bagOf q w.bag).state = .failed .homeAbsent) ∧
        w ∉ (colOf t col).wait))
end

