-- ==== Sys2Proof/Laws/Frame.lean ====
section
/-! SUPPORT. Frames compose: the laws of `OnlyIn`. -/

namespace Sys2Proof.Machine

open Sys2Proof

theorem Part.Same.refl (p : Part) (s : State) : p.Same s s := by cases p <;> simp [Part.Same]

theorem Part.Same.trans {p : Part} {a b c : State} (h : p.Same a b) (k : p.Same b c) : p.Same a c := by
  cases p <;> simp_all [Part.Same]

theorem OnlyIn.refl (l : List Part) (s : State) : OnlyIn l s s := ⟨fun p _ => Part.Same.refl p s⟩

theorem OnlyIn.trans {l : List Part} {a b c : State} (h : OnlyIn l a b) (k : OnlyIn l b c) : OnlyIn l a c :=
  ⟨fun p hp => (h.same p hp).trans (k.same p hp)⟩

theorem OnlyIn.mono {l m : List Part} {s t : State} (h : OnlyIn l s t) (k : ∀ p ∈ l, p ∈ m) : OnlyIn m s t :=
  ⟨fun p hp => h.same p (fun q => hp (k p q))⟩

/-- A fold of steps each of which keeps the frame keeps it. -/
theorem OnlyIn.foldl {α : Type} {l : List Part} {f : State → α → State} (h : ∀ t a, OnlyIn l t (f t a)) :
    ∀ (xs : List α) (s : State), OnlyIn l s (xs.foldl f s)
  | [], s => OnlyIn.refl l s
  | x :: r, s => (h s x).trans (OnlyIn.foldl h r (f s x))

theorem OnlyIn.thenFold {α : Type} {l : List Part} {f : State → α → State} {xs : List α} {a s : State}
    (h : OnlyIn l a s) (k : ∀ t a, OnlyIn l t (f t a)) : OnlyIn l a (xs.foldl f s) := h.trans (OnlyIn.foldl k xs s)

/-- The same where the fold carries something beside the state. -/
theorem OnlyIn.foldl_fst {α β : Type} {l : List Part} {f : State × β → α → State × β}
    (h : ∀ t a, OnlyIn l t.1 (f t a).1) : ∀ (xs : List α) (s : State × β), OnlyIn l s.1 (xs.foldl f s).1
  | [], s => OnlyIn.refl l s.1
  | x :: r, s => (h s x).trans (OnlyIn.foldl_fst h r (f s x))

theorem OnlyIn.thenFold_fst {α β : Type} {l : List Part} {f : State × β → α → State × β} {xs : List α} {a : State}
    {p : State × β} (h : OnlyIn l a p.1) (k : ∀ t a, OnlyIn l t.1 (f t a).1) : OnlyIn l a (xs.foldl f p).1 :=
  h.trans (OnlyIn.foldl_fst k xs p)

theorem OnlyIn.foldl_snd {α β : Type} {l : List Part} {f : β × State → α → β × State}
    (h : ∀ t a, OnlyIn l t.2 (f t a).2) : ∀ (xs : List α) (s : β × State), OnlyIn l s.2 (xs.foldl f s).2
  | [], s => OnlyIn.refl l s.2
  | x :: r, s => (h s x).trans (OnlyIn.foldl_snd h r (f s x))

theorem OnlyIn.thenFold_snd {α β : Type} {l : List Part} {f : β × State → α → β × State} {xs : List α} {a : State}
    {p : β × State} (h : OnlyIn l a p.2) (k : ∀ t a, OnlyIn l t.2 (f t a).2) : OnlyIn l a (xs.foldl f p).2 :=
  h.trans (OnlyIn.foldl_snd k xs p)

/-- A choice between two steps. -/
theorem OnlyIn.ite {l : List Part} {s a b : State} {c : Prop} [Decidable c] (h : c → OnlyIn l s a)
    (k : ¬ c → OnlyIn l s b) : OnlyIn l s (if c then a else b) := by
  by_cases q : c
  · simpa [q] using h q
  · simpa [q] using k q

/-- What is reached from `s` within the parts `m`, after what led from `a` to `s`. -/
theorem OnlyIn.step {l m : List Part} {a s t : State} (k : OnlyIn m s t) (q : ∀ p ∈ m, p ∈ l) (h : OnlyIn l a s) :
    OnlyIn l a t := h.trans (k.mono q)

/-- A state on the way. -/
theorem OnlyIn.via {l : List Part} {a s t : State} (h : OnlyIn l a s) (k : OnlyIn l a s → OnlyIn l a t) :
    OnlyIn l a t := k h

/-- The state of a pair taken apart. -/
theorem OnlyIn.of_fst {β : Type} {l : List Part} {a t : State} {b : β} {p : State × β} (e : p = (t, b))
    (h : OnlyIn l a p.1) : OnlyIn l a t := by subst e; exact h

theorem OnlyIn.of_snd {β : Type} {l : List Part} {a t : State} {b : β} {p : β × State} (e : p = (b, t))
    (h : OnlyIn l a p.2) : OnlyIn l a t := by subst e; exact h

/-- Where an answer is given, its state differs from `a` in the parts named only. -/
structure OptIn {β : Type} (π : β → State) (l : List Part) (a : State) (o : Option β) : Prop where
  only : ∀ b, o = some b → OnlyIn l a (π b)

theorem OptIn.none {β : Type} {π : β → State} {l : List Part} {a : State} : OptIn π l a Option.none :=
  ⟨fun _ h => nomatch h⟩

theorem OptIn.some {β : Type} {π : β → State} {l : List Part} {a : State} {b : β} (h : OnlyIn l a (π b)) :
    OptIn π l a (Option.some b) := ⟨fun c e => by cases e; exact h⟩

theorem OptIn.ite {β : Type} {π : β → State} {l : List Part} {a : State} {x y : Option β} {c : Prop} [Decidable c]
    (h : c → OptIn π l a x) (k : ¬ c → OptIn π l a y) : OptIn π l a (if c then x else y) := by
  by_cases q : c
  · simpa [q] using h q
  · simpa [q] using k q

theorem OptIn.via {β : Type} {π : β → State} {l : List Part} {a s : State} {o : Option β} (h : OnlyIn l a s)
    (k : OnlyIn l a s → OptIn π l a o) : OptIn π l a o := k h

theorem OptIn.step {β : Type} {π : β → State} {l m : List Part} {a s : State} {o : Option β}
    (k : OptIn π m s o) (q : ∀ p ∈ m, p ∈ l) (h : OnlyIn l a s) : OptIn π l a o :=
  ⟨fun b e => h.trans ((k.only b e).mono q)⟩

theorem OptIn.map {β γ : Type} {π : β → State} {l : List Part} {a : State} {f : γ → β} {o : Option γ}
    (h : ∀ c, o = Option.some c → OnlyIn l a (π (f c))) : OptIn π l a (o.map f) := by
  cases o with
  | none => exact OptIn.none
  | some c => exact OptIn.some (h c rfl)

theorem OptIn.after {β γ : Type} {π : β → State} {l : List Part} {a : State} {f : γ → Option β} {o : Option γ}
    (h : ∀ c, OptIn π l a (f c)) : OptIn π l a (o.bind f) := by
  cases o with
  | none => exact OptIn.none
  | some c => exact h c

theorem OnlyIn.of_some3 {α β : Type} {l : List Part} {a t : State} {x : α} {y : β} {o : Option (α × β × State)}
    (e : o = Option.some (x, y, t)) (h : OptIn (fun b => b.2.2) l a o) : OnlyIn l a t := h.only _ e

theorem OnlyIn.getD {l : List Part} {a d : State} {o : Option State} (h : OptIn (fun b => b) l a o) (k : OnlyIn l a d) :
    OnlyIn l a (o.getD d) := by
  cases o with
  | none => exact k
  | some c => exact h.only c rfl

theorem OnlyIn.of_some {β : Type} {π : β → State} {l : List Part} {a : State} {b : β} {o : Option β}
    (e : o = Option.some b) (h : OptIn π l a o) : OnlyIn l a (π b) := h.only b e

theorem OnlyIn.ite_fst {β : Type} {l : List Part} {s : State} {a b : State × β} {c : Prop} [Decidable c]
    (h : OnlyIn l s a.1) (k : OnlyIn l s b.1) : OnlyIn l s (if c then a else b).1 := by split <;> assumption

theorem OnlyIn.ite_snd {β : Type} {l : List Part} {s : State} {a b : β × State} {c : Prop} [Decidable c]
    (h : OnlyIn l s a.2) (k : OnlyIn l s b.2) : OnlyIn l s (if c then a else b).2 := by split <;> assumption

/-- A record update of `m`, written out, after what led to `m`. -/
theorem OnlyIn.lit {l : List Part} {a m : State} {pending' gbl' mbx' clerk' wch' pwr' tables' templates' maps' moves' hbm' poison' xlt' flt' qh' cdp' wire' cols' ldg' asy' lrd' hbmStacks' span' spanWire' ctr' shutters'}
    (e : pending' = m.pending)
    (ev : .events ∉ l → gbl'.event = m.gbl.event ∧ gbl'.lineCond = m.gbl.lineCond ∧ gbl'.irq = m.gbl.irq ∧
      gbl'.msiPending = m.gbl.msiPending ∧ gbl'.msiSeq = m.gbl.msiSeq)
    (po : .ports ∉ l → cdp' = m.cdp ∧ wire' = m.wire)
    (k : ∀ p, p ∉ l → p ≠ .events → p ≠ .ports → p.Same m
      ⟨pending', gbl', mbx', clerk', wch', pwr', tables', templates', maps', moves', hbm', poison', xlt', flt', qh', cdp', wire', cols', ldg', asy', lrd', hbmStacks', span', spanWire', ctr', shutters'⟩)
    (h : OnlyIn l a m) : OnlyIn l a
      ⟨pending', gbl', mbx', clerk', wch', pwr', tables', templates', maps', moves', hbm', poison', xlt', flt', qh', cdp', wire', cols', ldg', asy', lrd', hbmStacks', span', spanWire', ctr', shutters'⟩ := by
  subst e
  refine h.trans ⟨fun p hp => ?_⟩
  by_cases q : p = .events
  · subst q; exact ev hp
  · by_cases r : p = .ports
    · subst r; exact po hp
    · exact k p hp q r

end Sys2Proof.Machine
end

