-- ==== Sys2Proof/Laws/FrameBase.lean ====
section
/-! SUPPORT. Which parts of the state each operation may change: the shared operations, the queue heads, admission, translation and the counters. -/

set_option linter.all false

namespace Sys2Proof.Machine

open Sys2Proof

theorem settle_only (s : State) :
    OnlyIn [.block] s (settle s) := by
  unfold settle
  repeat' first
    | with_reducible assumption
    | with_reducible apply OnlyIn.refl
    | (with_reducible apply OnlyIn.ite) <;> intro _
    | split
    | (with_reducible apply OnlyIn.lit); (case e => exact rfl); (case h => first | with_reducible assumption | with_reducible apply OnlyIn.refl); (case ev => first | exact (fun hp => absurd (by decide) hp) | exact (fun _ => ⟨rfl, rfl, rfl, rfl, rfl⟩)); (case po => first | exact (fun hp => absurd (by decide) hp) | exact (fun _ => ⟨rfl, rfl⟩)); (case k => intro p hp ne np; cases p <;> first | exact (absurd (by decide) hp) | exact (absurd rfl ne) | exact (absurd rfl np) | exact rfl)

theorem refreshReady_only (s : State) :
    OnlyIn [.ports] s (refreshReady s) := by
  unfold refreshReady
  repeat' first
    | with_reducible assumption
    | with_reducible apply OnlyIn.refl
    | (with_reducible apply OnlyIn.ite) <;> intro _
    | (extract_lets +onlyGivenNames s; fail_if_success (have : State := s); clear_value s)
    | (with_reducible apply OnlyIn.thenFold_fst); rotate_left; intro _ _
    | (with_reducible apply OnlyIn.thenFold_snd); rotate_left; intro _ _
    | (with_reducible apply OnlyIn.thenFold); rotate_left; intro _ _
    | (with_reducible apply OnlyIn.lit); (case e => exact rfl); (case h => first | with_reducible assumption | with_reducible apply OnlyIn.refl); (case ev => first | exact (fun hp => absurd (by decide) hp) | exact (fun _ => ⟨rfl, rfl, rfl, rfl, rfl⟩)); (case po => first | exact (fun hp => absurd (by decide) hp) | exact (fun _ => ⟨rfl, rfl⟩)); (case k => intro p hp ne np; cases p <;> first | exact (absurd (by decide) hp) | exact (absurd rfl ne) | exact (absurd rfl np) | exact rfl)

theorem pumpPort_only (p : Nat) (s : State) :
    OnlyIn [.ports] s (pumpPort p s) := by
  unfold pumpPort
  repeat' first
    | with_reducible assumption
    | with_reducible apply OnlyIn.refl
    | (with_reducible apply OnlyIn.ite) <;> intro _
    | (extract_lets +onlyGivenNames s; fail_if_success (have : State := s); clear_value s)
    | (with_reducible apply OnlyIn.lit); (case e => exact rfl); (case h => first | with_reducible assumption | with_reducible apply OnlyIn.refl); (case ev => first | exact (fun hp => absurd (by decide) hp) | exact (fun _ => ⟨rfl, rfl, rfl, rfl, rfl⟩)); (case po => first | exact (fun hp => absurd (by decide) hp) | exact (fun _ => ⟨rfl, rfl⟩)); (case k => intro p hp ne np; cases p <;> first | exact (absurd (by decide) hp) | exact (absurd rfl ne) | exact (absurd rfl np) | exact rfl)

theorem enqueueOn_only (p : Nat) (r : OutReq) (s : State) :
    OnlyIn [.ports] s (enqueueOn p r s) := by
  unfold enqueueOn
  repeat' first
    | with_reducible assumption
    | with_reducible apply OnlyIn.refl
    | (with_reducible apply OnlyIn.ite) <;> intro _
    | (with_reducible apply OnlyIn.step (pumpPort_only _ _)); (case q => decide)
    | (with_reducible apply OnlyIn.lit); (case e => exact rfl); (case h => first | with_reducible assumption | with_reducible apply OnlyIn.refl); (case ev => first | exact (fun hp => absurd (by decide) hp) | exact (fun _ => ⟨rfl, rfl, rfl, rfl, rfl⟩)); (case po => first | exact (fun hp => absurd (by decide) hp) | exact (fun _ => ⟨rfl, rfl⟩)); (case k => intro p hp ne np; cases p <;> first | exact (absurd (by decide) hp) | exact (absurd rfl ne) | exact (absurd rfl np) | exact rfl)

theorem enqueue_only (r : OutReq) (s : State) :
    OnlyIn [.ports] s (enqueue r s) := by
  unfold enqueue
  repeat' first
    | with_reducible assumption
    | with_reducible apply OnlyIn.refl
    | (with_reducible apply OnlyIn.ite) <;> intro _
    | (with_reducible apply OnlyIn.step (enqueueOn_only _ _ _)); (case q => decide)

theorem chipWrite_only (kind : OutKind) (owner : Owner) (a : Nat) (bs : List Byte) (s : State) :
    OnlyIn [.ports] s (chipWrite kind owner a bs s) := by
  unfold chipWrite
  repeat' first
    | with_reducible assumption
    | with_reducible apply OnlyIn.refl
    | (with_reducible apply OnlyIn.ite) <;> intro _
    | (with_reducible apply OnlyIn.step (enqueue_only _ _)); (case q => decide)
    | (with_reducible apply OnlyIn.thenFold_fst); rotate_left; intro _ _
    | (with_reducible apply OnlyIn.thenFold_snd); rotate_left; intro _ _
    | (with_reducible apply OnlyIn.thenFold); rotate_left; intro _ _

theorem chipRead_only (owner : Owner) (a n : Nat) (s : State) :
    OnlyIn [.ports] s (chipRead owner a n s) := by
  unfold chipRead
  repeat' first
    | with_reducible assumption
    | with_reducible apply OnlyIn.refl
    | (with_reducible apply OnlyIn.ite) <;> intro _
    | (with_reducible apply OnlyIn.step (enqueue_only _ _)); (case q => decide)

theorem sendMsi_only (n : Nat) (s : State) :
    OnlyIn [.events, .ports] s (sendMsi n s) := by
  unfold sendMsi
  repeat' first
    | with_reducible assumption
    | with_reducible apply OnlyIn.refl
    | (with_reducible apply OnlyIn.ite) <;> intro _
    | (extract_lets +onlyGivenNames s; fail_if_success (have : State := s); clear_value s)
    | (with_reducible apply OnlyIn.step (chipWrite_only _ _ _ _ _)); (case q => decide)
    | (with_reducible apply OnlyIn.lit); (case e => exact rfl); (case h => first | with_reducible assumption | with_reducible apply OnlyIn.refl); (case ev => first | exact (fun hp => absurd (by decide) hp) | exact (fun _ => ⟨rfl, rfl, rfl, rfl, rfl⟩)); (case po => first | exact (fun hp => absurd (by decide) hp) | exact (fun _ => ⟨rfl, rfl⟩)); (case k => intro p hp ne np; cases p <;> first | exact (absurd (by decide) hp) | exact (absurd rfl ne) | exact (absurd rfl np) | exact rfl)

theorem riseMsi_only (n : Nat) (s : State) :
    OnlyIn [.events, .ports] s (riseMsi n s) := by
  unfold riseMsi
  repeat' first
    | with_reducible assumption
    | with_reducible apply OnlyIn.refl
    | (with_reducible apply OnlyIn.ite) <;> intro _
    | (with_reducible apply OnlyIn.step (sendMsi_only _ _)); (case q => decide)
    | (with_reducible apply OnlyIn.lit); (case e => exact rfl); (case h => first | with_reducible assumption | with_reducible apply OnlyIn.refl); (case ev => first | exact (fun hp => absurd (by decide) hp) | exact (fun _ => ⟨rfl, rfl, rfl, rfl, rfl⟩)); (case po => first | exact (fun hp => absurd (by decide) hp) | exact (fun _ => ⟨rfl, rfl⟩)); (case k => intro p hp ne np; cases p <;> first | exact (absurd (by decide) hp) | exact (absurd rfl ne) | exact (absurd rfl np) | exact rfl)

theorem evalLines_only (s : State) :
    OnlyIn [.events, .ports] s (evalLines s) := by
  unfold evalLines
  repeat' first
    | with_reducible assumption
    | with_reducible apply OnlyIn.refl
    | (with_reducible apply OnlyIn.ite) <;> intro _
    | (extract_lets +onlyGivenNames s; fail_if_success (have : State := s); clear_value s)
    | (with_reducible apply OnlyIn.step (riseMsi_only _ _)); (case q => decide)
    | (with_reducible apply OnlyIn.thenFold_fst); rotate_left; intro _ _
    | (with_reducible apply OnlyIn.thenFold_snd); rotate_left; intro _ _
    | (with_reducible apply OnlyIn.thenFold); rotate_left; intro _ _
    | (with_reducible apply OnlyIn.lit); (case e => exact rfl); (case h => first | with_reducible assumption | with_reducible apply OnlyIn.refl); (case ev => first | exact (fun hp => absurd (by decide) hp) | exact (fun _ => ⟨rfl, rfl, rfl, rfl, rfl⟩)); (case po => first | exact (fun hp => absurd (by decide) hp) | exact (fun _ => ⟨rfl, rfl⟩)); (case k => intro p hp ne np; cases p <;> first | exact (absurd (by decide) hp) | exact (absurd rfl ne) | exact (absurd rfl np) | exact rfl)

theorem raise_only (e : Nat) (s : State) :
    OnlyIn [.events, .ports] s (raise e s) := by
  unfold raise
  repeat' first
    | with_reducible assumption
    | with_reducible apply OnlyIn.refl
    | (with_reducible apply OnlyIn.ite) <;> intro _
    | (with_reducible apply OnlyIn.step (evalLines_only _)); (case q => decide)
    | (with_reducible apply OnlyIn.lit); (case e => exact rfl); (case h => first | with_reducible assumption | with_reducible apply OnlyIn.refl); (case ev => first | exact (fun hp => absurd (by decide) hp) | exact (fun _ => ⟨rfl, rfl, rfl, rfl, rfl⟩)); (case po => first | exact (fun hp => absurd (by decide) hp) | exact (fun _ => ⟨rfl, rfl⟩)); (case k => intro p hp ne np; cases p <;> first | exact (absurd (by decide) hp) | exact (absurd rfl ne) | exact (absurd rfl np) | exact rfl)

theorem logAdd_only (code : Nat) (a0 a1 : W64) (s : State) :
    OnlyIn [.clerk] s (logAdd code a0 a1 s) := by
  unfold logAdd
  repeat' first
    | with_reducible assumption
    | with_reducible apply OnlyIn.refl
    | (with_reducible apply OnlyIn.ite) <;> intro _
    | (extract_lets +onlyGivenNames s; fail_if_success (have : State := s); clear_value s)
    | (with_reducible apply OnlyIn.lit); (case e => exact rfl); (case h => first | with_reducible assumption | with_reducible apply OnlyIn.refl); (case ev => first | exact (fun hp => absurd (by decide) hp) | exact (fun _ => ⟨rfl, rfl, rfl, rfl, rfl⟩)); (case po => first | exact (fun hp => absurd (by decide) hp) | exact (fun _ => ⟨rfl, rfl⟩)); (case k => intro p hp ne np; cases p <;> first | exact (absurd (by decide) hp) | exact (absurd rfl ne) | exact (absurd rfl np) | exact rfl)

theorem logOpen_only (cause what : Nat) (s : State) :
    OnlyIn [.clerk] s (logOpen cause what s) := by
  unfold logOpen
  repeat' first
    | with_reducible assumption
    | with_reducible apply OnlyIn.refl
    | (with_reducible apply OnlyIn.ite) <;> intro _
    | (with_reducible apply OnlyIn.step (logAdd_only _ _ _ _)); (case q => decide)

theorem post_only (r : Response) (s : State) :
    OnlyIn [.mbx] s (post r s) := by
  unfold post
  repeat' first
    | with_reducible assumption
    | with_reducible apply OnlyIn.refl
    | (with_reducible apply OnlyIn.ite) <;> intro _
    | (with_reducible apply OnlyIn.lit); (case e => exact rfl); (case h => first | with_reducible assumption | with_reducible apply OnlyIn.refl); (case ev => first | exact (fun hp => absurd (by decide) hp) | exact (fun _ => ⟨rfl, rfl, rfl, rfl, rfl⟩)); (case po => first | exact (fun hp => absurd (by decide) hp) | exact (fun _ => ⟨rfl, rfl⟩)); (case k => intro p hp ne np; cases p <;> first | exact (absurd (by decide) hp) | exact (absurd rfl ne) | exact (absurd rfl np) | exact rfl)

theorem postFinal_only (slot : Nat) (m : Msg) (st : Status) (payload : List W64) (s : State) :
    OnlyIn [.mbx] s (postFinal slot m st payload s) := by
  unfold postFinal
  repeat' first
    | with_reducible assumption
    | with_reducible apply OnlyIn.refl
    | (with_reducible apply OnlyIn.ite) <;> intro _
    | (with_reducible apply OnlyIn.step (post_only _ _)); (case q => decide)

theorem postReport_only (o : Owed) (st : Status) (entries : Nat) (payload : List W64) (s : State) :
    OnlyIn [.mbx, .clerk] s (postReport o st entries payload s) := by
  unfold postReport
  repeat' first
    | with_reducible assumption
    | with_reducible apply OnlyIn.refl
    | (with_reducible apply OnlyIn.ite) <;> intro _
    | (extract_lets +onlyGivenNames s; fail_if_success (have : State := s); clear_value s)
    | (with_reducible apply OnlyIn.step (post_only _ _)); (case q => decide)
    | (with_reducible apply OnlyIn.lit); (case e => exact rfl); (case ev => first | exact (fun hp => absurd (by decide) hp) | exact (fun _ => ⟨rfl, rfl, rfl, rfl, rfl⟩)); (case po => first | exact (fun hp => absurd (by decide) hp) | exact (fun _ => ⟨rfl, rfl⟩)); (case k => intro p hp ne np; cases p <;> first | exact (absurd (by decide) hp) | exact (absurd rfl ne) | exact (absurd rfl np) | exact rfl)

theorem reportAll_only (op entries : Nat) (payload : List W64) (s : State) :
    OnlyIn [.mbx, .clerk] s (reportAll op entries payload s) := by
  unfold reportAll
  repeat' first
    | with_reducible assumption
    | with_reducible apply OnlyIn.refl
    | (with_reducible apply OnlyIn.ite) <;> intro _
    | (with_reducible apply OnlyIn.step (postReport_only _ _ _ _ _)); (case q => decide)
    | (with_reducible apply OnlyIn.thenFold_fst); rotate_left; intro _ _
    | (with_reducible apply OnlyIn.thenFold_snd); rotate_left; intro _ _
    | (with_reducible apply OnlyIn.thenFold); rotate_left; intro _ _

theorem asyMod_only (tid : Nat) (f : AsyCounts → AsyCounts) (s : State) :
    OnlyIn [.asy] s (asyMod tid f s) := by
  unfold asyMod
  repeat' first
    | with_reducible assumption
    | with_reducible apply OnlyIn.refl
    | (with_reducible apply OnlyIn.ite) <;> intro _
    | (with_reducible apply OnlyIn.lit); (case e => exact rfl); (case h => first | with_reducible assumption | with_reducible apply OnlyIn.refl); (case ev => first | exact (fun hp => absurd (by decide) hp) | exact (fun _ => ⟨rfl, rfl, rfl, rfl, rfl⟩)); (case po => first | exact (fun hp => absurd (by decide) hp) | exact (fun _ => ⟨rfl, rfl⟩)); (case k => intro p hp ne np; cases p <;> first | exact (absurd (by decide) hp) | exact (absurd rfl ne) | exact (absurd rfl np) | exact rfl)

theorem asySpanStart_only (tid k : Nat) (s : State) :
    OnlyIn [.asy] s (asySpanStart tid k s) := by
  unfold asySpanStart
  repeat' first
    | with_reducible assumption
    | with_reducible apply OnlyIn.refl
    | (with_reducible apply OnlyIn.ite) <;> intro _
    | (with_reducible apply OnlyIn.step (asyMod_only _ _ _)); (case q => decide)
    | (with_reducible apply OnlyIn.lit); (case e => exact rfl); (case h => first | with_reducible assumption | with_reducible apply OnlyIn.refl); (case ev => first | exact (fun hp => absurd (by decide) hp) | exact (fun _ => ⟨rfl, rfl, rfl, rfl, rfl⟩)); (case po => first | exact (fun hp => absurd (by decide) hp) | exact (fun _ => ⟨rfl, rfl⟩)); (case k => intro p hp ne np; cases p <;> first | exact (absurd (by decide) hp) | exact (absurd rfl ne) | exact (absurd rfl np) | exact rfl)

theorem asySpanEnd_only (tid k : Nat) (s : State) :
    OnlyIn [.asy] s (asySpanEnd tid k s) := by
  unfold asySpanEnd
  repeat' first
    | with_reducible assumption
    | with_reducible apply OnlyIn.refl
    | (with_reducible apply OnlyIn.ite) <;> intro _
    | (with_reducible apply OnlyIn.step (asyMod_only _ _ _)); (case q => decide)
    | (with_reducible apply OnlyIn.lit); (case e => exact rfl); (case h => first | with_reducible assumption | with_reducible apply OnlyIn.refl); (case ev => first | exact (fun hp => absurd (by decide) hp) | exact (fun _ => ⟨rfl, rfl, rfl, rfl, rfl⟩)); (case po => first | exact (fun hp => absurd (by decide) hp) | exact (fun _ => ⟨rfl, rfl⟩)); (case k => intro p hp ne np; cases p <;> first | exact (absurd (by decide) hp) | exact (absurd rfl ne) | exact (absurd rfl np) | exact rfl)

theorem asyCommitEnd_only (s : State) :
    OnlyIn [.asy] s (asyCommitEnd s) := by
  unfold asyCommitEnd
  repeat' first
    | with_reducible assumption
    | with_reducible apply OnlyIn.refl
    | (with_reducible apply OnlyIn.ite) <;> intro _
    | (with_reducible apply OnlyIn.lit); (case e => exact rfl); (case h => first | with_reducible assumption | with_reducible apply OnlyIn.refl); (case ev => first | exact (fun hp => absurd (by decide) hp) | exact (fun _ => ⟨rfl, rfl, rfl, rfl, rfl⟩)); (case po => first | exact (fun hp => absurd (by decide) hp) | exact (fun _ => ⟨rfl, rfl⟩)); (case k => intro p hp ne np; cases p <;> first | exact (absurd (by decide) hp) | exact (absurd rfl ne) | exact (absurd rfl np) | exact rfl)

theorem asyReopen_only (s : State) :
    OnlyIn [.asy] s (asyReopen s) := by
  unfold asyReopen
  repeat' first
    | with_reducible assumption
    | with_reducible apply OnlyIn.refl
    | (with_reducible apply OnlyIn.ite) <;> intro _
    | (with_reducible apply OnlyIn.step (asySpanStart_only _ _ _)); (case q => decide)
    | (with_reducible apply OnlyIn.thenFold_fst); rotate_left; intro _ _
    | (with_reducible apply OnlyIn.thenFold_snd); rotate_left; intro _ _
    | (with_reducible apply OnlyIn.thenFold); rotate_left; intro _ _

theorem satCheck_only (tid : Nat) (s : State) :
    OnlyIn [.events, .ports, .asy] s (satCheck tid s) := by
  unfold satCheck
  repeat' first
    | with_reducible assumption
    | with_reducible apply OnlyIn.refl
    | (with_reducible apply OnlyIn.ite) <;> intro _
    | (extract_lets +onlyGivenNames s; fail_if_success (have : State := s); clear_value s)
    | (with_reducible apply OnlyIn.step (raise_only _ _)); (case q => decide)
    | (with_reducible apply OnlyIn.step (asyMod_only _ _ _)); (case q => decide)
    | (with_reducible apply OnlyIn.lit); (case e => exact rfl); (case ev => first | exact (fun hp => absurd (by decide) hp) | exact (fun _ => ⟨rfl, rfl, rfl, rfl, rfl⟩)); (case po => first | exact (fun hp => absurd (by decide) hp) | exact (fun _ => ⟨rfl, rfl⟩)); (case k => intro p hp ne np; cases p <;> first | exact (absurd (by decide) hp) | exact (absurd rfl ne) | exact (absurd rfl np) | exact rfl)

theorem assay_only (tid : Nat) (c : RowCounts) (s : State) :
    OnlyIn [.events, .ports, .asy] s (assay tid c s) := by
  unfold assay
  repeat' first
    | with_reducible assumption
    | with_reducible apply OnlyIn.refl
    | (with_reducible apply OnlyIn.ite) <;> intro _
    | (with_reducible apply OnlyIn.step (asyMod_only _ _ _)); (case q => decide)
    | (with_reducible apply OnlyIn.step (satCheck_only _ _)); (case q => decide)

theorem stackMod_only (n : Nat) (f : Stack → Stack) (s : State) :
    OnlyIn [.hbmStacks] s (stackMod n f s) := by
  unfold stackMod
  repeat' first
    | with_reducible assumption
    | with_reducible apply OnlyIn.refl
    | (with_reducible apply OnlyIn.ite) <;> intro _
    | (with_reducible apply OnlyIn.lit); (case e => exact rfl); (case h => first | with_reducible assumption | with_reducible apply OnlyIn.refl); (case ev => first | exact (fun hp => absurd (by decide) hp) | exact (fun _ => ⟨rfl, rfl, rfl, rfl, rfl⟩)); (case po => first | exact (fun hp => absurd (by decide) hp) | exact (fun _ => ⟨rfl, rfl⟩)); (case k => intro p hp ne np; cases p <;> first | exact (absurd (by decide) hp) | exact (absurd rfl ne) | exact (absurd rfl np) | exact rfl)

theorem hbmWrite_only (a : Nat) (bs : List Byte) (s : State) :
    OnlyIn [.hbm, .poison] s (hbmWrite a bs s) := by
  unfold hbmWrite
  repeat' first
    | with_reducible assumption
    | with_reducible apply OnlyIn.refl
    | (with_reducible apply OnlyIn.ite) <;> intro _
    | (with_reducible apply OnlyIn.lit); (case e => exact rfl); (case h => first | with_reducible assumption | with_reducible apply OnlyIn.refl); (case ev => first | exact (fun hp => absurd (by decide) hp) | exact (fun _ => ⟨rfl, rfl, rfl, rfl, rfl⟩)); (case po => first | exact (fun hp => absurd (by decide) hp) | exact (fun _ => ⟨rfl, rfl⟩)); (case k => intro p hp ne np; cases p <;> first | exact (absurd (by decide) hp) | exact (absurd rfl ne) | exact (absurd rfl np) | exact rfl)

theorem hbmClear_only (a n : Nat) (s : State) :
    OnlyIn [.hbm, .poison] s (hbmClear a n s) := by
  unfold hbmClear
  repeat' first
    | with_reducible assumption
    | with_reducible apply OnlyIn.refl
    | (with_reducible apply OnlyIn.ite) <;> intro _
    | (with_reducible apply OnlyIn.lit); (case e => exact rfl); (case h => first | with_reducible assumption | with_reducible apply OnlyIn.refl); (case ev => first | exact (fun hp => absurd (by decide) hp) | exact (fun _ => ⟨rfl, rfl, rfl, rfl, rfl⟩)); (case po => first | exact (fun hp => absurd (by decide) hp) | exact (fun _ => ⟨rfl, rfl⟩)); (case k => intro p hp ne np; cases p <;> first | exact (absurd (by decide) hp) | exact (absurd rfl ne) | exact (absurd rfl np) | exact rfl)

theorem countPoisonRead_only (cw : Nat) (s : State) :
    OnlyIn [.hbmStacks] s (countPoisonRead cw s) := by
  unfold countPoisonRead
  repeat' first
    | with_reducible assumption
    | with_reducible apply OnlyIn.refl
    | (with_reducible apply OnlyIn.ite) <;> intro _
    | (with_reducible apply OnlyIn.step (stackMod_only _ _ _)); (case q => decide)
    | (with_reducible apply OnlyIn.lit); (case e => exact rfl); (case h => first | with_reducible assumption | with_reducible apply OnlyIn.refl); (case ev => first | exact (fun hp => absurd (by decide) hp) | exact (fun _ => ⟨rfl, rfl, rfl, rfl, rfl⟩)); (case po => first | exact (fun hp => absurd (by decide) hp) | exact (fun _ => ⟨rfl, rfl⟩)); (case k => intro p hp ne np; cases p <;> first | exact (absurd (by decide) hp) | exact (absurd rfl ne) | exact (absurd rfl np) | exact rfl)

theorem tableMod_only (tid : Nat) (f : Table → Table) (s : State) :
    OnlyIn [.tables] s (tableMod tid f s) := by
  unfold tableMod
  repeat' first
    | with_reducible assumption
    | with_reducible apply OnlyIn.refl
    | (with_reducible apply OnlyIn.ite) <;> intro _
    | split
    | (with_reducible apply OnlyIn.lit); (case e => exact rfl); (case h => first | with_reducible assumption | with_reducible apply OnlyIn.refl); (case ev => first | exact (fun hp => absurd (by decide) hp) | exact (fun _ => ⟨rfl, rfl, rfl, rfl, rfl⟩)); (case po => first | exact (fun hp => absurd (by decide) hp) | exact (fun _ => ⟨rfl, rfl⟩)); (case k => intro p hp ne np; cases p <;> first | exact (absurd (by decide) hp) | exact (absurd rfl ne) | exact (absurd rfl np) | exact rfl)

theorem forgetSlot_only (tid slot : Nat) (s : State) :
    OnlyIn [.moves, .lrd] s (forgetSlot tid slot s) := by
  unfold forgetSlot
  repeat' first
    | with_reducible assumption
    | with_reducible apply OnlyIn.refl
    | (with_reducible apply OnlyIn.ite) <;> intro _
    | (with_reducible apply OnlyIn.lit); (case e => exact rfl); (case h => first | with_reducible assumption | with_reducible apply OnlyIn.refl); (case ev => first | exact (fun hp => absurd (by decide) hp) | exact (fun _ => ⟨rfl, rfl, rfl, rfl, rfl⟩)); (case po => first | exact (fun hp => absurd (by decide) hp) | exact (fun _ => ⟨rfl, rfl⟩)); (case k => intro p hp ne np; cases p <;> first | exact (absurd (by decide) hp) | exact (absurd rfl ne) | exact (absurd rfl np) | exact rfl)

theorem settleSlot_only (tid slot : Nat) (s : State) :
    OnlyIn [.tables, .moves, .lrd] s (settleSlot tid slot s) := by
  unfold settleSlot
  repeat' first
    | with_reducible assumption
    | with_reducible apply OnlyIn.refl
    | (with_reducible apply OnlyIn.ite) <;> intro _
    | (extract_lets +onlyGivenNames s; fail_if_success (have : State := s); clear_value s)
    | (with_reducible apply OnlyIn.step (forgetSlot_only _ _ _)); (case q => decide)
    | split
    | (with_reducible apply OnlyIn.lit); (case e => exact rfl); (case ev => first | exact (fun hp => absurd (by decide) hp) | exact (fun _ => ⟨rfl, rfl, rfl, rfl, rfl⟩)); (case po => first | exact (fun hp => absurd (by decide) hp) | exact (fun _ => ⟨rfl, rfl⟩)); (case k => intro p hp ne np; cases p <;> first | exact (absurd (by decide) hp) | exact (absurd rfl ne) | exact (absurd rfl np) | exact rfl)

theorem addRef_only (tid slot : Nat) (s : State) :
    OnlyIn [.tables] s (addRef tid slot s) := by
  unfold addRef
  repeat' first
    | with_reducible assumption
    | with_reducible apply OnlyIn.refl
    | (with_reducible apply OnlyIn.ite) <;> intro _
    | (with_reducible apply OnlyIn.step (tableMod_only _ _ _)); (case q => decide)
    | (with_reducible apply OnlyIn.lit); (case e => exact rfl); (case h => first | with_reducible assumption | with_reducible apply OnlyIn.refl); (case ev => first | exact (fun hp => absurd (by decide) hp) | exact (fun _ => ⟨rfl, rfl, rfl, rfl, rfl⟩)); (case po => first | exact (fun hp => absurd (by decide) hp) | exact (fun _ => ⟨rfl, rfl⟩)); (case k => intro p hp ne np; cases p <;> first | exact (absurd (by decide) hp) | exact (absurd rfl ne) | exact (absurd rfl np) | exact rfl)

theorem dropRef_only (tid slot : Nat) (s : State) :
    OnlyIn [.tables, .moves, .lrd] s (dropRef tid slot s) := by
  unfold dropRef
  repeat' first
    | with_reducible assumption
    | with_reducible apply OnlyIn.refl
    | (with_reducible apply OnlyIn.ite) <;> intro _
    | (with_reducible apply OnlyIn.step (tableMod_only _ _ _)); (case q => decide)
    | (with_reducible apply OnlyIn.step (settleSlot_only _ _ _)); (case q => decide)
    | (with_reducible apply OnlyIn.lit); (case e => exact rfl); (case h => first | with_reducible assumption | with_reducible apply OnlyIn.refl); (case ev => first | exact (fun hp => absurd (by decide) hp) | exact (fun _ => ⟨rfl, rfl, rfl, rfl, rfl⟩)); (case po => first | exact (fun hp => absurd (by decide) hp) | exact (fun _ => ⟨rfl, rfl⟩)); (case k => intro p hp ne np; cases p <;> first | exact (absurd (by decide) hp) | exact (absurd rfl ne) | exact (absurd rfl np) | exact rfl)

theorem writeDir_only (a : Nat) (e : DirEnt) (s : State) :
    OnlyIn [.hbm, .poison] s (writeDir a e s) := by
  unfold writeDir
  repeat' first
    | with_reducible assumption
    | with_reducible apply OnlyIn.refl
    | (with_reducible apply OnlyIn.ite) <;> intro _
    | (with_reducible apply OnlyIn.step (hbmWrite_only _ _ _)); (case q => decide)

theorem writeShelf_only (v : VSlot) (n : Nat) (h : ShelfHdr) (s : State) :
    OnlyIn [.hbm, .poison] s (writeShelf v n h s) := by
  unfold writeShelf
  repeat' first
    | with_reducible assumption
    | with_reducible apply OnlyIn.refl
    | (with_reducible apply OnlyIn.ite) <;> intro _
    | (with_reducible apply OnlyIn.step (hbmWrite_only _ _ _)); (case q => decide)

theorem shelfMod_only (tid slot n : Nat) (f : ShelfInfo → ShelfInfo) (s : State) :
    OnlyIn [.tables] s (shelfMod tid slot n f s) := by
  unfold shelfMod
  repeat' first
    | with_reducible assumption
    | with_reducible apply OnlyIn.refl
    | (with_reducible apply OnlyIn.ite) <;> intro _
    | (extract_lets +onlyGivenNames s; fail_if_success (have : State := s); clear_value s)
    | (with_reducible apply OnlyIn.step (tableMod_only _ _ _)); (case q => decide)
    | (with_reducible apply OnlyIn.lit); (case e => exact rfl); (case h => first | with_reducible assumption | with_reducible apply OnlyIn.refl); (case ev => first | exact (fun hp => absurd (by decide) hp) | exact (fun _ => ⟨rfl, rfl, rfl, rfl, rfl⟩)); (case po => first | exact (fun hp => absurd (by decide) hp) | exact (fun _ => ⟨rfl, rfl⟩)); (case k => intro p hp ne np; cases p <;> first | exact (absurd (by decide) hp) | exact (absurd rfl ne) | exact (absurd rfl np) | exact rfl)

theorem newShelf_only (tid slot n : Nat) (c : RowClass) (baseExp : Nat) (s : State) :
    OnlyIn [.tables, .hbm, .poison] s (newShelf tid slot n c baseExp s) := by
  unfold newShelf
  repeat' first
    | with_reducible assumption
    | with_reducible apply OnlyIn.refl
    | (with_reducible apply OnlyIn.ite) <;> intro _
    | (extract_lets +onlyGivenNames s; fail_if_success (have : State := s); clear_value s)
    | (with_reducible apply OnlyIn.step (hbmWrite_only _ _ _)); (case q => decide)
    | (with_reducible apply OnlyIn.step (writeShelf_only _ _ _ _)); (case q => decide)
    | split
    | (with_reducible apply OnlyIn.lit); (case e => exact rfl); (case h => first | with_reducible assumption | with_reducible apply OnlyIn.refl); (case ev => first | exact (fun hp => absurd (by decide) hp) | exact (fun _ => ⟨rfl, rfl, rfl, rfl, rfl⟩)); (case po => first | exact (fun hp => absurd (by decide) hp) | exact (fun _ => ⟨rfl, rfl⟩)); (case k => intro p hp ne np; cases p <;> first | exact (absurd (by decide) hp) | exact (absurd rfl ne) | exact (absurd rfl np) | exact rfl)

theorem storeRowAt_only (count : Bool) (tid slot shelf ofs : Nat) (m : RowMeta) (xs : List W32) (s : State) :
    OnlyIn [.events, .tables, .hbm, .poison, .ports, .asy] s (storeRowAt count tid slot shelf ofs m xs s) := by
  unfold storeRowAt
  repeat' first
    | with_reducible assumption
    | with_reducible apply OnlyIn.refl
    | (with_reducible apply OnlyIn.ite) <;> intro _
    | (extract_lets +onlyGivenNames s; fail_if_success (have : State := s); clear_value s)
    | (with_reducible apply OnlyIn.step (assay_only _ _ _)); (case q => decide)
    | (with_reducible apply OnlyIn.step (hbmWrite_only _ _ _)); (case q => decide)
    | (with_reducible apply OnlyIn.step (writeShelf_only _ _ _ _)); (case q => decide)
    | (with_reducible apply OnlyIn.step (shelfMod_only _ _ _ _ _)); (case q => decide)
    | split
    | (with_reducible apply OnlyIn.lit); (case e => exact rfl); (case h => first | with_reducible assumption | with_reducible apply OnlyIn.refl); (case ev => first | exact (fun hp => absurd (by decide) hp) | exact (fun _ => ⟨rfl, rfl, rfl, rfl, rfl⟩)); (case po => first | exact (fun hp => absurd (by decide) hp) | exact (fun _ => ⟨rfl, rfl⟩)); (case k => intro p hp ne np; cases p <;> first | exact (absurd (by decide) hp) | exact (absurd rfl ne) | exact (absurd rfl np) | exact rfl)

theorem writeRowAt_only (tid slot shelf ofs : Nat) (m : RowMeta) (xs : List W32) (s : State) :
    OnlyIn [.events, .tables, .hbm, .poison, .ports, .asy] s (writeRowAt tid slot shelf ofs m xs s) := by
  unfold writeRowAt
  repeat' first
    | with_reducible assumption
    | with_reducible apply OnlyIn.refl
    | (with_reducible apply OnlyIn.ite) <;> intro _
    | (with_reducible apply OnlyIn.step (storeRowAt_only _ _ _ _ _ _ _ _)); (case q => decide)

theorem reclaim_only (tid slot : Nat) (s : State) :
    OnlyIn [.tables] s (reclaim tid slot s) := by
  unfold reclaim
  repeat' first
    | with_reducible assumption
    | with_reducible apply OnlyIn.refl
    | (with_reducible apply OnlyIn.ite) <;> intro _
    | (extract_lets +onlyGivenNames s; fail_if_success (have : State := s); clear_value s)
    | (with_reducible apply OnlyIn.step (tableMod_only _ _ _)); (case q => decide)
    | (with_reducible apply OnlyIn.lit); (case e => exact rfl); (case h => first | with_reducible assumption | with_reducible apply OnlyIn.refl); (case ev => first | exact (fun hp => absurd (by decide) hp) | exact (fun _ => ⟨rfl, rfl, rfl, rfl, rfl⟩)); (case po => first | exact (fun hp => absurd (by decide) hp) | exact (fun _ => ⟨rfl, rfl⟩)); (case k => intro p hp ne np; cases p <;> first | exact (absurd (by decide) hp) | exact (absurd rfl ne) | exact (absurd rfl np) | exact rfl)

theorem placeRowIn_only (count : Bool) (tid slot : Nat) (c : RowClass) (m : RowMeta) (xs : List W32) (s₀ : State) :
    OptIn (fun b => b.2.2) [.events, .tables, .hbm, .poison, .ports, .asy] s₀ (placeRowIn count tid slot c m xs s₀) := by
  unfold placeRowIn
  try dsimp only
  repeat' first
    | with_reducible assumption
    | with_reducible apply OnlyIn.refl
    | (with_reducible apply OnlyIn.ite) <;> intro _
    | with_reducible apply OptIn.none
    | (with_reducible apply OptIn.ite) <;> intro _
    | (with_reducible apply OptIn.some); try dsimp only
    | (with_reducible apply OptIn.map); intro _ _; try dsimp only
    | (with_reducible apply OnlyIn.step (writeShelf_only _ _ _ _)); (case q => decide)
    | (with_reducible apply OnlyIn.step (shelfMod_only _ _ _ _ _)); (case q => decide)
    | (with_reducible apply OnlyIn.step (newShelf_only _ _ _ _ _ _)); (case q => decide)
    | (with_reducible apply OnlyIn.step (storeRowAt_only _ _ _ _ _ _ _ _)); (case q => decide)
    | (with_reducible apply OnlyIn.step (reclaim_only _ _ _)); (case q => decide)
    | split
    | with_reducible apply OnlyIn.ite_fst
    | with_reducible apply OnlyIn.ite_snd
    | with_reducible apply OnlyIn.getD
    | (with_reducible apply OnlyIn.lit); (case e => exact rfl); (case h => first | with_reducible assumption | with_reducible apply OnlyIn.refl); (case ev => first | exact (fun hp => absurd (by decide) hp) | exact (fun _ => ⟨rfl, rfl, rfl, rfl, rfl⟩)); (case po => first | exact (fun hp => absurd (by decide) hp) | exact (fun _ => ⟨rfl, rfl⟩)); (case k => intro p hp ne np; cases p <;> first | exact (absurd (by decide) hp) | exact (absurd rfl ne) | exact (absurd rfl np) | exact rfl)

theorem placeRow_only (tid slot : Nat) (c : RowClass) (m : RowMeta) (xs : List W32) (s : State) :
    OptIn (fun b => b.2.2) [.events, .tables, .hbm, .poison, .ports, .asy] s (placeRow tid slot c m xs s) := by
  unfold placeRow
  repeat' first
    | with_reducible assumption
    | with_reducible apply OnlyIn.refl
    | (with_reducible apply OnlyIn.ite) <;> intro _
    | with_reducible apply OptIn.none
    | (with_reducible apply OptIn.ite) <;> intro _
    | (with_reducible apply OptIn.some); try dsimp only
    | (with_reducible apply OptIn.map); intro _ _; try dsimp only
    | (with_reducible apply OptIn.step (placeRowIn_only _ _ _ _ _ _ _)); (case q => decide)
    | ((with_reducible apply OnlyIn.step (((placeRowIn_only _ _ _ _ _ _ _)).only _ (by assumption)))); (case q => decide)
    | (with_reducible apply OnlyIn.step (OnlyIn.of_some3 (by assumption) (placeRowIn_only _ _ _ _ _ _ _))); (case q => decide)
    | with_reducible apply OnlyIn.ite_fst
    | with_reducible apply OnlyIn.ite_snd

theorem noteRead_only (r : RowRead) (s : State) :
    OnlyIn [.hbmStacks] s (noteRead r s) := by
  unfold noteRead
  repeat' first
    | with_reducible assumption
    | with_reducible apply OnlyIn.refl
    | (with_reducible apply OnlyIn.ite) <;> intro _
    | (with_reducible apply OnlyIn.step (countPoisonRead_only _ _)); (case q => decide)
    | split

theorem startMove_only (tid slot da : Nat) (target : DirEnt) (s : State) :
    OnlyIn [.moves, .hbm, .poison] s (startMove tid slot da target s) := by
  unfold startMove
  repeat' first
    | with_reducible assumption
    | with_reducible apply OnlyIn.refl
    | (with_reducible apply OnlyIn.ite) <;> intro _
    | (extract_lets +onlyGivenNames s; fail_if_success (have : State := s); clear_value s)
    | (with_reducible apply OnlyIn.step (writeDir_only _ _ _)); (case q => decide)
    | (with_reducible apply OnlyIn.lit); (case e => exact rfl); (case ev => first | exact (fun hp => absurd (by decide) hp) | exact (fun _ => ⟨rfl, rfl, rfl, rfl, rfl⟩)); (case po => first | exact (fun hp => absurd (by decide) hp) | exact (fun _ => ⟨rfl, rfl⟩)); (case k => intro p hp ne np; cases p <;> first | exact (absurd (by decide) hp) | exact (absurd rfl ne) | exact (absurd rfl np) | exact rfl)

theorem larderRetire_only (block n : Nat) (move : Option Nat) (s : State) :
    OnlyIn [.lrd] s (larderRetire block n move s) := by
  unfold larderRetire
  repeat' first
    | with_reducible assumption
    | with_reducible apply OnlyIn.refl
    | (with_reducible apply OnlyIn.ite) <;> intro _
    | (extract_lets +onlyGivenNames s; fail_if_success (have : State := s); clear_value s)
    | (with_reducible apply OnlyIn.lit); (case e => exact rfl); (case h => first | with_reducible assumption | with_reducible apply OnlyIn.refl); (case ev => first | exact (fun hp => absurd (by decide) hp) | exact (fun _ => ⟨rfl, rfl, rfl, rfl, rfl⟩)); (case po => first | exact (fun hp => absurd (by decide) hp) | exact (fun _ => ⟨rfl, rfl⟩)); (case k => intro p hp ne np; cases p <;> first | exact (absurd (by decide) hp) | exact (absurd rfl ne) | exact (absurd rfl np) | exact rfl)

theorem settleRetired_only (da : Nat) (s : State) :
    OnlyIn [.lrd] s (settleRetired da s) := by
  unfold settleRetired
  repeat' first
    | with_reducible assumption
    | with_reducible apply OnlyIn.refl
    | (with_reducible apply OnlyIn.ite) <;> intro _
    | (extract_lets +onlyGivenNames s; fail_if_success (have : State := s); clear_value s)
    | (with_reducible apply OnlyIn.lit); (case e => exact rfl); (case h => first | with_reducible assumption | with_reducible apply OnlyIn.refl); (case ev => first | exact (fun hp => absurd (by decide) hp) | exact (fun _ => ⟨rfl, rfl, rfl, rfl, rfl⟩)); (case po => first | exact (fun hp => absurd (by decide) hp) | exact (fun _ => ⟨rfl, rfl⟩)); (case k => intro p hp ne np; cases p <;> first | exact (absurd (by decide) hp) | exact (absurd rfl ne) | exact (absurd rfl np) | exact rfl)

theorem dropCopy_only (tid slot da : Nat) (s : State) :
    OnlyIn [.lrd] s (dropCopy tid slot da s) := by
  unfold dropCopy
  repeat' first
    | with_reducible assumption
    | with_reducible apply OnlyIn.refl
    | (with_reducible apply OnlyIn.ite) <;> intro _
    | (extract_lets +onlyGivenNames s; fail_if_success (have : State := s); clear_value s)
    | (with_reducible apply OnlyIn.step (larderRetire_only _ _ _ _)); (case q => decide)
    | (with_reducible apply OnlyIn.thenFold_fst); rotate_left; intro _ _
    | (with_reducible apply OnlyIn.thenFold_snd); rotate_left; intro _ _
    | (with_reducible apply OnlyIn.thenFold); rotate_left; intro _ _
    | (with_reducible apply OnlyIn.lit); (case e => exact rfl); (case ev => first | exact (fun hp => absurd (by decide) hp) | exact (fun _ => ⟨rfl, rfl, rfl, rfl, rfl⟩)); (case po => first | exact (fun hp => absurd (by decide) hp) | exact (fun _ => ⟨rfl, rfl⟩)); (case k => intro p hp ne np; cases p <;> first | exact (absurd (by decide) hp) | exact (absurd rfl ne) | exact (absurd rfl np) | exact rfl)

theorem refreshCopy_only (tid slot da : Nat) (s : State) :
    OnlyIn [.lrd] s (refreshCopy tid slot da s) := by
  unfold refreshCopy
  repeat' first
    | with_reducible assumption
    | with_reducible apply OnlyIn.refl
    | (with_reducible apply OnlyIn.ite) <;> intro _
    | (extract_lets +onlyGivenNames s; fail_if_success (have : State := s); clear_value s)
    | split
    | (with_reducible apply OnlyIn.lit); (case e => exact rfl); (case h => first | with_reducible assumption | with_reducible apply OnlyIn.refl); (case ev => first | exact (fun hp => absurd (by decide) hp) | exact (fun _ => ⟨rfl, rfl, rfl, rfl, rfl⟩)); (case po => first | exact (fun hp => absurd (by decide) hp) | exact (fun _ => ⟨rfl, rfl⟩)); (case k => intro p hp ne np; cases p <;> first | exact (absurd (by decide) hp) | exact (absurd rfl ne) | exact (absurd rfl np) | exact rfl)

theorem noteWalk_only (v : ChipView) (ci : Nat) (e : XlatFail) (s : State) :
    OnlyIn [.hbmStacks] s (noteWalk v ci e s) := by
  unfold noteWalk
  repeat' first
    | with_reducible assumption
    | with_reducible apply OnlyIn.refl
    | (with_reducible apply OnlyIn.ite) <;> intro _
    | (with_reducible apply OnlyIn.step (countPoisonRead_only _ _)); (case q => decide)
    | split

theorem noteClerk_only (v : ChipView) (ci da n : Nat) (s : State) :
    OnlyIn [.hbmStacks] s (noteClerk v ci da n s) := by
  unfold noteClerk
  repeat' first
    | with_reducible assumption
    | with_reducible apply OnlyIn.refl
    | (with_reducible apply OnlyIn.ite) <;> intro _
    | (with_reducible apply OnlyIn.step (countPoisonRead_only _ _)); (case q => decide)
    | (with_reducible apply OnlyIn.step (noteWalk_only _ _ _ _)); (case q => decide)
    | (with_reducible apply OnlyIn.thenFold_fst); rotate_left; intro _ _
    | (with_reducible apply OnlyIn.thenFold_snd); rotate_left; intro _ _
    | (with_reducible apply OnlyIn.thenFold); rotate_left; intro _ _
    | split

theorem sendResult_only (slot : Nat) (x : Xlat) (da : Nat) (bs : List Byte) (s : State) :
    OnlyIn [.mbx, .ports, .hbmStacks] s (sendResult slot x da bs s) := by
  unfold sendResult
  repeat' first
    | with_reducible assumption
    | with_reducible apply OnlyIn.refl
    | (with_reducible apply OnlyIn.ite) <;> intro _
    | (with_reducible apply OnlyIn.step (chipWrite_only _ _ _ _ _)); (case q => decide)
    | (with_reducible apply OnlyIn.thenFold_fst); rotate_left; intro _ _
    | (with_reducible apply OnlyIn.thenFold_snd); rotate_left; intro _ _
    | (with_reducible apply OnlyIn.thenFold); rotate_left; intro _ _

theorem clerkResult_only (s : State) (v : ChipView) (slot : Nat) (m : Msg) (da : Nat) (bs : List Byte) (payload : List W64) :
    OnlyIn [.mbx, .ports, .hbmStacks] s (clerkResult s v slot m da bs payload) := by
  unfold clerkResult
  repeat' first
    | with_reducible assumption
    | with_reducible apply OnlyIn.refl
    | (with_reducible apply OnlyIn.ite) <;> intro _
    | (with_reducible apply OnlyIn.step (postFinal_only _ _ _ _ _)); (case q => decide)
    | (with_reducible apply OnlyIn.step (noteWalk_only _ _ _ _)); (case q => decide)
    | (with_reducible apply OnlyIn.step (sendResult_only _ _ _ _ _)); (case q => decide)
    | split
    | (with_reducible apply OnlyIn.lit); (case e => exact rfl); (case h => first | with_reducible assumption | with_reducible apply OnlyIn.refl); (case ev => first | exact (fun hp => absurd (by decide) hp) | exact (fun _ => ⟨rfl, rfl, rfl, rfl, rfl⟩)); (case po => first | exact (fun hp => absurd (by decide) hp) | exact (fun _ => ⟨rfl, rfl⟩)); (case k => intro p hp ne np; cases p <;> first | exact (absurd (by decide) hp) | exact (absurd rfl ne) | exact (absurd rfl np) | exact rfl)

theorem untake_only (slot : Nat) (s : State) :
    OnlyIn [.mbx] s (untake slot s) := by
  unfold untake
  repeat' first
    | with_reducible assumption
    | with_reducible apply OnlyIn.refl
    | (with_reducible apply OnlyIn.ite) <;> intro _
    | (with_reducible apply OnlyIn.lit); (case e => exact rfl); (case h => first | with_reducible assumption | with_reducible apply OnlyIn.refl); (case ev => first | exact (fun hp => absurd (by decide) hp) | exact (fun _ => ⟨rfl, rfl, rfl, rfl, rfl⟩)); (case po => first | exact (fun hp => absurd (by decide) hp) | exact (fun _ => ⟨rfl, rfl⟩)); (case k => intro p hp ne np; cases p <;> first | exact (absurd (by decide) hp) | exact (absurd rfl ne) | exact (absurd rfl np) | exact rfl)

theorem accept_only (slot : Nat) (m : Msg) (s : State) :
    OnlyIn [.mbx, .clerk] s (accept slot m s) := by
  unfold accept
  repeat' first
    | with_reducible assumption
    | with_reducible apply OnlyIn.refl
    | (with_reducible apply OnlyIn.ite) <;> intro _
    | (extract_lets +onlyGivenNames s; fail_if_success (have : State := s); clear_value s)
    | (with_reducible apply OnlyIn.step (post_only _ _)); (case q => decide)
    | (with_reducible apply OnlyIn.lit); (case e => exact rfl); (case ev => first | exact (fun hp => absurd (by decide) hp) | exact (fun _ => ⟨rfl, rfl, rfl, rfl, rfl⟩)); (case po => first | exact (fun hp => absurd (by decide) hp) | exact (fun _ => ⟨rfl, rfl⟩)); (case k => intro p hp ne np; cases p <;> first | exact (absurd (by decide) hp) | exact (absurd rfl ne) | exact (absurd rfl np) | exact rfl)

theorem mbxRefuse_only (s : State) :
    OnlyIn [.mbx] s (mbxRefuse s) := by
  unfold mbxRefuse
  repeat' first
    | with_reducible assumption
    | with_reducible apply OnlyIn.refl
    | (with_reducible apply OnlyIn.ite) <;> intro _
    | (with_reducible apply OnlyIn.lit); (case e => exact rfl); (case h => first | with_reducible assumption | with_reducible apply OnlyIn.refl); (case ev => first | exact (fun hp => absurd (by decide) hp) | exact (fun _ => ⟨rfl, rfl, rfl, rfl, rfl⟩)); (case po => first | exact (fun hp => absurd (by decide) hp) | exact (fun _ => ⟨rfl, rfl⟩)); (case k => intro p hp ne np; cases p <;> first | exact (absurd (by decide) hp) | exact (absurd rfl ne) | exact (absurd rfl np) | exact rfl)

theorem ringSlot_only (n : Nat) (s : State) :
    OnlyIn [.mbx] s (ringSlot n s) := by
  unfold ringSlot
  repeat' first
    | with_reducible assumption
    | with_reducible apply OnlyIn.refl
    | (with_reducible apply OnlyIn.ite) <;> intro _
    | (with_reducible apply OnlyIn.step (mbxRefuse_only _)); (case q => decide)
    | (with_reducible apply OnlyIn.lit); (case e => exact rfl); (case h => first | with_reducible assumption | with_reducible apply OnlyIn.refl); (case ev => first | exact (fun hp => absurd (by decide) hp) | exact (fun _ => ⟨rfl, rfl, rfl, rfl, rfl⟩)); (case po => first | exact (fun hp => absurd (by decide) hp) | exact (fun _ => ⟨rfl, rfl⟩)); (case k => intro p hp ne np; cases p <;> first | exact (absurd (by decide) hp) | exact (absurd rfl ne) | exact (absurd rfl np) | exact rfl)

theorem writeSlotWord_only (n w : Nat) (val : W64) (s : State) :
    OnlyIn [.mbx] s (writeSlotWord n w val s) := by
  unfold writeSlotWord
  repeat' first
    | with_reducible assumption
    | with_reducible apply OnlyIn.refl
    | (with_reducible apply OnlyIn.ite) <;> intro _
    | (with_reducible apply OnlyIn.step (mbxRefuse_only _)); (case q => decide)
    | (with_reducible apply OnlyIn.lit); (case e => exact rfl); (case h => first | with_reducible assumption | with_reducible apply OnlyIn.refl); (case ev => first | exact (fun hp => absurd (by decide) hp) | exact (fun _ => ⟨rfl, rfl, rfl, rfl, rfl⟩)); (case po => first | exact (fun hp => absurd (by decide) hp) | exact (fun _ => ⟨rfl, rfl⟩)); (case k => intro p hp ne np; cases p <;> first | exact (absurd (by decide) hp) | exact (absurd rfl ne) | exact (absurd rfl np) | exact rfl)

theorem writeRespHead_only (val : W64) (s : State) :
    OnlyIn [.mbx] s (writeRespHead val s) := by
  unfold writeRespHead
  repeat' first
    | with_reducible assumption
    | with_reducible apply OnlyIn.refl
    | (with_reducible apply OnlyIn.ite) <;> intro _
    | (extract_lets +onlyGivenNames s; fail_if_success (have : State := s); clear_value s)
    | (with_reducible apply OnlyIn.step (mbxRefuse_only _)); (case q => decide)
    | (with_reducible apply OnlyIn.lit); (case e => exact rfl); (case h => first | with_reducible assumption | with_reducible apply OnlyIn.refl); (case ev => first | exact (fun hp => absurd (by decide) hp) | exact (fun _ => ⟨rfl, rfl, rfl, rfl, rfl⟩)); (case po => first | exact (fun hp => absurd (by decide) hp) | exact (fun _ => ⟨rfl, rfl⟩)); (case k => intro p hp ne np; cases p <;> first | exact (absurd (by decide) hp) | exact (absurd rfl ne) | exact (absurd rfl np) | exact rfl)

theorem writeRespBase_only (val : W64) (s : State) :
    OnlyIn [.mbx] s (writeRespBase val s) := by
  unfold writeRespBase
  repeat' first
    | with_reducible assumption
    | with_reducible apply OnlyIn.refl
    | (with_reducible apply OnlyIn.ite) <;> intro _
    | (extract_lets +onlyGivenNames s; fail_if_success (have : State := s); clear_value s)
    | (with_reducible apply OnlyIn.step (mbxRefuse_only _)); (case q => decide)
    | (with_reducible apply OnlyIn.lit); (case e => exact rfl); (case h => first | with_reducible assumption | with_reducible apply OnlyIn.refl); (case ev => first | exact (fun hp => absurd (by decide) hp) | exact (fun _ => ⟨rfl, rfl, rfl, rfl, rfl⟩)); (case po => first | exact (fun hp => absurd (by decide) hp) | exact (fun _ => ⟨rfl, rfl⟩)); (case k => intro p hp ne np; cases p <;> first | exact (absurd (by decide) hp) | exact (absurd rfl ne) | exact (absurd rfl np) | exact rfl)

theorem writeRespSize_only (val : W64) (s : State) :
    OnlyIn [.mbx] s (writeRespSize val s) := by
  unfold writeRespSize
  repeat' first
    | with_reducible assumption
    | with_reducible apply OnlyIn.refl
    | (with_reducible apply OnlyIn.ite) <;> intro _
    | (extract_lets +onlyGivenNames s; fail_if_success (have : State := s); clear_value s)
    | (with_reducible apply OnlyIn.step (mbxRefuse_only _)); (case q => decide)
    | (with_reducible apply OnlyIn.lit); (case e => exact rfl); (case h => first | with_reducible assumption | with_reducible apply OnlyIn.refl); (case ev => first | exact (fun hp => absurd (by decide) hp) | exact (fun _ => ⟨rfl, rfl, rfl, rfl, rfl⟩)); (case po => first | exact (fun hp => absurd (by decide) hp) | exact (fun _ => ⟨rfl, rfl⟩)); (case k => intro p hp ne np; cases p <;> first | exact (absurd (by decide) hp) | exact (absurd rfl ne) | exact (absurd rfl np) | exact rfl)

theorem takeFirst_only (n : Nat) (rest : List Nat) (s : State) :
    OnlyIn [.mbx] s (takeFirst n rest s) := by
  unfold takeFirst
  repeat' first
    | with_reducible assumption
    | with_reducible apply OnlyIn.refl
    | (with_reducible apply OnlyIn.ite) <;> intro _
    | (extract_lets +onlyGivenNames s; fail_if_success (have : State := s); clear_value s)
    | (with_reducible apply OnlyIn.step (postFinal_only _ _ _ _ _)); (case q => decide)
    | (with_reducible apply OnlyIn.lit); (case e => exact rfl); (case ev => first | exact (fun hp => absurd (by decide) hp) | exact (fun _ => ⟨rfl, rfl, rfl, rfl, rfl⟩)); (case po => first | exact (fun hp => absurd (by decide) hp) | exact (fun _ => ⟨rfl, rfl⟩)); (case k => intro p hp ne np; cases p <;> first | exact (absurd (by decide) hp) | exact (absurd rfl ne) | exact (absurd rfl np) | exact rfl)

theorem writeEntry_only (r : Response) (i : Nat) (s : State) :
    OnlyIn [.ports] s (writeEntry r i s) := by
  unfold writeEntry
  repeat' first
    | with_reducible assumption
    | with_reducible apply OnlyIn.refl
    | (with_reducible apply OnlyIn.ite) <;> intro _
    | (extract_lets +onlyGivenNames s; fail_if_success (have : State := s); clear_value s)
    | (with_reducible apply OnlyIn.step (chipWrite_only _ _ _ _ _)); (case q => decide)

theorem writeResponse_only (r : Response) (rest : List Response) (s : State) :
    OnlyIn [.mbx, .ports] s (writeResponse r rest s) := by
  unfold writeResponse
  repeat' first
    | with_reducible assumption
    | with_reducible apply OnlyIn.refl
    | (with_reducible apply OnlyIn.ite) <;> intro _
    | (extract_lets +onlyGivenNames s; fail_if_success (have : State := s); clear_value s)
    | (with_reducible apply OnlyIn.step (writeEntry_only _ _ _)); (case q => decide)
    | (with_reducible apply OnlyIn.thenFold_fst); rotate_left; intro _ _
    | (with_reducible apply OnlyIn.thenFold_snd); rotate_left; intro _ _
    | (with_reducible apply OnlyIn.thenFold); rotate_left; intro _ _
    | (with_reducible apply OnlyIn.lit); (case e => exact rfl); (case ev => first | exact (fun hp => absurd (by decide) hp) | exact (fun _ => ⟨rfl, rfl, rfl, rfl, rfl⟩)); (case po => first | exact (fun hp => absurd (by decide) hp) | exact (fun _ => ⟨rfl, rfl⟩)); (case k => intro p hp ne np; cases p <;> first | exact (absurd (by decide) hp) | exact (absurd rfl ne) | exact (absurd rfl np) | exact rfl)

theorem islandMod_only (i : Nat) (f : Island → Island) (s : State) :
    OnlyIn [.counts] s (islandMod i f s) := by
  unfold islandMod
  repeat' first
    | with_reducible assumption
    | with_reducible apply OnlyIn.refl
    | (with_reducible apply OnlyIn.ite) <;> intro _
    | (with_reducible apply OnlyIn.lit); (case e => exact rfl); (case h => first | with_reducible assumption | with_reducible apply OnlyIn.refl); (case ev => first | exact (fun hp => absurd (by decide) hp) | exact (fun _ => ⟨rfl, rfl, rfl, rfl, rfl⟩)); (case po => first | exact (fun hp => absurd (by decide) hp) | exact (fun _ => ⟨rfl, rfl⟩)); (case k => intro p hp ne np; cases p <;> first | exact (absurd (by decide) hp) | exact (absurd rfl ne) | exact (absurd rfl np) | exact rfl)

theorem countEv_only (i code x : Nat) (s : State) :
    OnlyIn [.counts] s (countEv i code x s) := by
  unfold countEv
  repeat' first
    | with_reducible assumption
    | with_reducible apply OnlyIn.refl
    | (with_reducible apply OnlyIn.ite) <;> intro _
    | (with_reducible apply OnlyIn.step (islandMod_only _ _ _)); (case q => decide)
    | (with_reducible apply OnlyIn.thenFold_fst); rotate_left; intro _ _
    | (with_reducible apply OnlyIn.thenFold_snd); rotate_left; intro _ _
    | (with_reducible apply OnlyIn.thenFold); rotate_left; intro _ _

theorem colMod_only (c : Nat) (f : Column → Column) (s : State) :
    OnlyIn [.cols] s (colMod c f s) := by
  unfold colMod
  repeat' first
    | with_reducible assumption
    | with_reducible apply OnlyIn.refl
    | (with_reducible apply OnlyIn.ite) <;> intro _
    | (with_reducible apply OnlyIn.lit); (case e => exact rfl); (case h => first | with_reducible assumption | with_reducible apply OnlyIn.refl); (case ev => first | exact (fun hp => absurd (by decide) hp) | exact (fun _ => ⟨rfl, rfl, rfl, rfl, rfl⟩)); (case po => first | exact (fun hp => absurd (by decide) hp) | exact (fun _ => ⟨rfl, rfl⟩)); (case k => intro p hp ne np; cases p <;> first | exact (absurd (by decide) hp) | exact (absurd rfl ne) | exact (absurd rfl np) | exact rfl)

theorem passTime_only (x : IslandInc) (s : State) :
    OnlyIn [.cols, .counts] s (passTime x s) := by
  unfold passTime
  repeat' first
    | with_reducible assumption
    | with_reducible apply OnlyIn.refl
    | (with_reducible apply OnlyIn.ite) <;> intro _
    | (extract_lets +onlyGivenNames s; fail_if_success (have : State := s); clear_value s)
    | (with_reducible apply OnlyIn.step (islandMod_only _ _ _)); (case q => decide)
    | (with_reducible apply OnlyIn.step (colMod_only _ _ _)); (case q => decide)
    | (with_reducible apply OnlyIn.thenFold_fst); rotate_left; intro _ _
    | (with_reducible apply OnlyIn.thenFold_snd); rotate_left; intro _ _
    | (with_reducible apply OnlyIn.thenFold); rotate_left; intro _ _
    | with_reducible apply OnlyIn.getD
    | (with_reducible apply OnlyIn.lit); (case e => exact rfl); (case h => first | with_reducible assumption | with_reducible apply OnlyIn.refl); (case ev => first | exact (fun hp => absurd (by decide) hp) | exact (fun _ => ⟨rfl, rfl, rfl, rfl, rfl⟩)); (case po => first | exact (fun hp => absurd (by decide) hp) | exact (fun _ => ⟨rfl, rfl⟩)); (case k => intro p hp ne np; cases p <;> first | exact (absurd (by decide) hp) | exact (absurd rfl ne) | exact (absurd rfl np) | exact rfl)

theorem visitAll_only (incs : List IslandInc) (s : State) :
    OnlyIn [.events, .ports, .cols, .counts] s (visitAll incs s) := by
  unfold visitAll
  repeat' first
    | with_reducible assumption
    | with_reducible apply OnlyIn.refl
    | (with_reducible apply OnlyIn.ite) <;> intro _
    | (extract_lets +onlyGivenNames s; fail_if_success (have : State := s); clear_value s)
    | (with_reducible apply OnlyIn.step (raise_only _ _)); (case q => decide)
    | (with_reducible apply OnlyIn.step (passTime_only _ _)); (case q => decide)
    | (with_reducible apply OnlyIn.thenFold_fst); rotate_left; intro _ _
    | (with_reducible apply OnlyIn.thenFold_snd); rotate_left; intro _ _
    | (with_reducible apply OnlyIn.thenFold); rotate_left; intro _ _
    | (with_reducible apply OnlyIn.lit); (case e => exact rfl); (case ev => first | exact (fun hp => absurd (by decide) hp) | exact (fun _ => ⟨rfl, rfl, rfl, rfl, rfl⟩)); (case po => first | exact (fun hp => absurd (by decide) hp) | exact (fun _ => ⟨rfl, rfl⟩)); (case k => intro p hp ne np; cases p <;> first | exact (absurd (by decide) hp) | exact (absurd rfl ne) | exact (absurd rfl np) | exact rfl)

theorem snapshot_only (incs : List IslandInc) (s : State) :
    OnlyIn [.events, .ports, .cols, .counts, .ctr] s (snapshot incs s) := by
  unfold snapshot
  repeat' first
    | with_reducible assumption
    | with_reducible apply OnlyIn.refl
    | (with_reducible apply OnlyIn.ite) <;> intro _
    | (extract_lets +onlyGivenNames s; fail_if_success (have : State := s); clear_value s)
    | (with_reducible apply OnlyIn.step (visitAll_only _ _)); (case q => decide)
    | (with_reducible apply OnlyIn.lit); (case e => exact rfl); (case ev => first | exact (fun hp => absurd (by decide) hp) | exact (fun _ => ⟨rfl, rfl, rfl, rfl, rfl⟩)); (case po => first | exact (fun hp => absurd (by decide) hp) | exact (fun _ => ⟨rfl, rfl⟩)); (case k => intro p hp ne np; cases p <;> first | exact (absurd (by decide) hp) | exact (absurd rfl ne) | exact (absurd rfl np) | exact rfl)

theorem dumpNow_only (incs : List IslandInc) (s : State) :
    OnlyIn [.events, .ports, .cols, .counts, .ctr] s (dumpNow incs s) := by
  unfold dumpNow
  repeat' first
    | with_reducible assumption
    | with_reducible apply OnlyIn.refl
    | (with_reducible apply OnlyIn.ite) <;> intro _
    | (extract_lets +onlyGivenNames s; fail_if_success (have : State := s); clear_value s)
    | (with_reducible apply OnlyIn.step (chipWrite_only _ _ _ _ _)); (case q => decide)
    | (with_reducible apply OnlyIn.step (raise_only _ _)); (case q => decide)
    | (with_reducible apply OnlyIn.step (snapshot_only _ _)); (case q => decide)
    | (with_reducible apply OnlyIn.thenFold_fst); rotate_left; intro _ _
    | (with_reducible apply OnlyIn.thenFold_snd); rotate_left; intro _ _
    | (with_reducible apply OnlyIn.thenFold); rotate_left; intro _ _

theorem ctrRefuse_only (s : State) :
    OnlyIn [.ctr] s (ctrRefuse s) := by
  unfold ctrRefuse
  repeat' first
    | with_reducible assumption
    | with_reducible apply OnlyIn.refl
    | (with_reducible apply OnlyIn.ite) <;> intro _
    | (with_reducible apply OnlyIn.lit); (case e => exact rfl); (case h => first | with_reducible assumption | with_reducible apply OnlyIn.refl); (case ev => first | exact (fun hp => absurd (by decide) hp) | exact (fun _ => ⟨rfl, rfl, rfl, rfl, rfl⟩)); (case po => first | exact (fun hp => absurd (by decide) hp) | exact (fun _ => ⟨rfl, rfl⟩)); (case k => intro p hp ne np; cases p <;> first | exact (absurd (by decide) hp) | exact (absurd rfl ne) | exact (absurd rfl np) | exact rfl)

theorem writeCtrMode_only (val : W64) (s : State) :
    OnlyIn [.ctr] s (writeCtrMode val s) := by
  unfold writeCtrMode
  repeat' first
    | with_reducible assumption
    | with_reducible apply OnlyIn.refl
    | (with_reducible apply OnlyIn.ite) <;> intro _
    | (extract_lets +onlyGivenNames s; fail_if_success (have : State := s); clear_value s)
    | (with_reducible apply OnlyIn.step (ctrRefuse_only _)); (case q => decide)
    | split
    | (with_reducible apply OnlyIn.lit); (case e => exact rfl); (case h => first | with_reducible assumption | with_reducible apply OnlyIn.refl); (case ev => first | exact (fun hp => absurd (by decide) hp) | exact (fun _ => ⟨rfl, rfl, rfl, rfl, rfl⟩)); (case po => first | exact (fun hp => absurd (by decide) hp) | exact (fun _ => ⟨rfl, rfl⟩)); (case k => intro p hp ne np; cases p <;> first | exact (absurd (by decide) hp) | exact (absurd rfl ne) | exact (absurd rfl np) | exact rfl)

theorem writeCtrFreeze_only (incs : List IslandInc) (val : W64) (s : State) :
    OnlyIn [.events, .ports, .cols, .counts, .ctr] s (writeCtrFreeze incs val s) := by
  unfold writeCtrFreeze
  repeat' first
    | with_reducible assumption
    | with_reducible apply OnlyIn.refl
    | (with_reducible apply OnlyIn.ite) <;> intro _
    | (extract_lets +onlyGivenNames s; fail_if_success (have : State := s); clear_value s)
    | (with_reducible apply OnlyIn.step (snapshot_only _ _)); (case q => decide)
    | (with_reducible apply OnlyIn.step (ctrRefuse_only _)); (case q => decide)
    | (with_reducible apply OnlyIn.lit); (case e => exact rfl); (case ev => first | exact (fun hp => absurd (by decide) hp) | exact (fun _ => ⟨rfl, rfl, rfl, rfl, rfl⟩)); (case po => first | exact (fun hp => absurd (by decide) hp) | exact (fun _ => ⟨rfl, rfl⟩)); (case k => intro p hp ne np; cases p <;> first | exact (absurd (by decide) hp) | exact (absurd rfl ne) | exact (absurd rfl np) | exact rfl)

theorem writeCtrPeriod_only (val : W64) (s : State) :
    OnlyIn [.ctr] s (writeCtrPeriod val s) := by
  unfold writeCtrPeriod
  repeat' first
    | with_reducible assumption
    | with_reducible apply OnlyIn.refl
    | (with_reducible apply OnlyIn.ite) <;> intro _
    | (with_reducible apply OnlyIn.step (ctrRefuse_only _)); (case q => decide)
    | (with_reducible apply OnlyIn.lit); (case e => exact rfl); (case h => first | with_reducible assumption | with_reducible apply OnlyIn.refl); (case ev => first | exact (fun hp => absurd (by decide) hp) | exact (fun _ => ⟨rfl, rfl, rfl, rfl, rfl⟩)); (case po => first | exact (fun hp => absurd (by decide) hp) | exact (fun _ => ⟨rfl, rfl⟩)); (case k => intro p hp ne np; cases p <;> first | exact (absurd (by decide) hp) | exact (absurd rfl ne) | exact (absurd rfl np) | exact rfl)

theorem writeCtrSample_only (val : W64) (s : State) :
    OnlyIn [.ctr] s (writeCtrSample val s) := by
  unfold writeCtrSample
  repeat' first
    | with_reducible assumption
    | with_reducible apply OnlyIn.refl
    | (with_reducible apply OnlyIn.ite) <;> intro _
    | (extract_lets +onlyGivenNames s; fail_if_success (have : State := s); clear_value s)
    | (with_reducible apply OnlyIn.lit); (case e => exact rfl); (case h => first | with_reducible assumption | with_reducible apply OnlyIn.refl); (case ev => first | exact (fun hp => absurd (by decide) hp) | exact (fun _ => ⟨rfl, rfl, rfl, rfl, rfl⟩)); (case po => first | exact (fun hp => absurd (by decide) hp) | exact (fun _ => ⟨rfl, rfl⟩)); (case k => intro p hp ne np; cases p <;> first | exact (absurd (by decide) hp) | exact (absurd rfl ne) | exact (absurd rfl np) | exact rfl)

theorem writeDumpBase_only (val : W64) (s : State) :
    OnlyIn [.ctr] s (writeDumpBase val s) := by
  unfold writeDumpBase
  repeat' first
    | with_reducible assumption
    | with_reducible apply OnlyIn.refl
    | (with_reducible apply OnlyIn.ite) <;> intro _
    | (with_reducible apply OnlyIn.lit); (case e => exact rfl); (case h => first | with_reducible assumption | with_reducible apply OnlyIn.refl); (case ev => first | exact (fun hp => absurd (by decide) hp) | exact (fun _ => ⟨rfl, rfl, rfl, rfl, rfl⟩)); (case po => first | exact (fun hp => absurd (by decide) hp) | exact (fun _ => ⟨rfl, rfl⟩)); (case k => intro p hp ne np; cases p <;> first | exact (absurd (by decide) hp) | exact (absurd rfl ne) | exact (absurd rfl np) | exact rfl)

theorem writeIslSel_only (val : W64) (s : State) :
    OnlyIn [.ctr] s (writeIslSel val s) := by
  unfold writeIslSel
  repeat' first
    | with_reducible assumption
    | with_reducible apply OnlyIn.refl
    | (with_reducible apply OnlyIn.ite) <;> intro _
    | (with_reducible apply OnlyIn.lit); (case e => exact rfl); (case h => first | with_reducible assumption | with_reducible apply OnlyIn.refl); (case ev => first | exact (fun hp => absurd (by decide) hp) | exact (fun _ => ⟨rfl, rfl, rfl, rfl, rfl⟩)); (case po => first | exact (fun hp => absurd (by decide) hp) | exact (fun _ => ⟨rfl, rfl⟩)); (case k => intro p hp ne np; cases p <;> first | exact (absurd (by decide) hp) | exact (absurd rfl ne) | exact (absurd rfl np) | exact rfl)

theorem clearSticky_only (i : Nat) (val : W64) (s : State) :
    OnlyIn [.events, .ports, .cols, .counts, .ctr] s (clearSticky i val s) := by
  unfold clearSticky
  repeat' first
    | with_reducible assumption
    | with_reducible apply OnlyIn.refl
    | (with_reducible apply OnlyIn.ite) <;> intro _
    | (extract_lets +onlyGivenNames s; fail_if_success (have : State := s); clear_value s)
    | (with_reducible apply OnlyIn.step (snapshot_only _ _)); (case q => decide)
    | (with_reducible apply OnlyIn.lit); (case e => exact rfl); (case ev => first | exact (fun hp => absurd (by decide) hp) | exact (fun _ => ⟨rfl, rfl, rfl, rfl, rfl⟩)); (case po => first | exact (fun hp => absurd (by decide) hp) | exact (fun _ => ⟨rfl, rfl⟩)); (case k => intro p hp ne np; cases p <;> first | exact (absurd (by decide) hp) | exact (absurd rfl ne) | exact (absurd rfl np) | exact rfl)

theorem writeIdleCause_only (c : Nat) (val : W64) (s : State) :
    OnlyIn [.cols] s (writeIdleCause c val s) := by
  unfold writeIdleCause
  repeat' first
    | with_reducible assumption
    | with_reducible apply OnlyIn.refl
    | (with_reducible apply OnlyIn.ite) <;> intro _
    | (with_reducible apply OnlyIn.step (colMod_only _ _ _)); (case q => decide)
    | (with_reducible apply OnlyIn.lit); (case e => exact rfl); (case h => first | with_reducible assumption | with_reducible apply OnlyIn.refl); (case ev => first | exact (fun hp => absurd (by decide) hp) | exact (fun _ => ⟨rfl, rfl, rfl, rfl, rfl⟩)); (case po => first | exact (fun hp => absurd (by decide) hp) | exact (fun _ => ⟨rfl, rfl⟩)); (case k => intro p hp ne np; cases p <;> first | exact (absurd (by decide) hp) | exact (absurd rfl ne) | exact (absurd rfl np) | exact rfl)

theorem ctrConfigure_only (first last mask ev th : Nat) (s : State) :
    OnlyIn [.counts] s (ctrConfigure first last mask ev th s) := by
  unfold ctrConfigure
  repeat' first
    | with_reducible assumption
    | with_reducible apply OnlyIn.refl
    | (with_reducible apply OnlyIn.ite) <;> intro _
    | (with_reducible apply OnlyIn.step (islandMod_only _ _ _)); (case q => decide)
    | (with_reducible apply OnlyIn.thenFold_fst); rotate_left; intro _ _
    | (with_reducible apply OnlyIn.thenFold_snd); rotate_left; intro _ _
    | (with_reducible apply OnlyIn.thenFold); rotate_left; intro _ _

theorem flowMod_only (f : Nat) (g : Flow → Flow) (s : State) :
    OnlyIn [.qh] s (flowMod f g s) := by
  unfold flowMod
  repeat' first
    | with_reducible assumption
    | with_reducible apply OnlyIn.refl
    | (with_reducible apply OnlyIn.ite) <;> intro _
    | (with_reducible apply OnlyIn.lit); (case e => exact rfl); (case h => first | with_reducible assumption | with_reducible apply OnlyIn.refl); (case ev => first | exact (fun hp => absurd (by decide) hp) | exact (fun _ => ⟨rfl, rfl, rfl, rfl, rfl⟩)); (case po => first | exact (fun hp => absurd (by decide) hp) | exact (fun _ => ⟨rfl, rfl⟩)); (case k => intro p hp ne np; cases p <;> first | exact (absurd (by decide) hp) | exact (absurd rfl ne) | exact (absurd rfl np) | exact rfl)

theorem promise_only (f : Nat) (s : State) :
    OnlyIn [.qh] s (promise f s) := by
  unfold promise
  repeat' first
    | with_reducible assumption
    | with_reducible apply OnlyIn.refl
    | (with_reducible apply OnlyIn.ite) <;> intro _
    | (with_reducible apply OnlyIn.step (flowMod_only _ _ _)); (case q => decide)
    | (with_reducible apply OnlyIn.lit); (case e => exact rfl); (case h => first | with_reducible assumption | with_reducible apply OnlyIn.refl); (case ev => first | exact (fun hp => absurd (by decide) hp) | exact (fun _ => ⟨rfl, rfl, rfl, rfl, rfl⟩)); (case po => first | exact (fun hp => absurd (by decide) hp) | exact (fun _ => ⟨rfl, rfl⟩)); (case k => intro p hp ne np; cases p <;> first | exact (absurd (by decide) hp) | exact (absurd rfl ne) | exact (absurd rfl np) | exact rfl)

theorem putRecord_only (f : Nat) (promised : Bool) (ws : List W64) (s : State) :
    OnlyIn [.qh] s (putRecord f promised ws s) := by
  unfold putRecord
  repeat' first
    | with_reducible assumption
    | with_reducible apply OnlyIn.refl
    | (with_reducible apply OnlyIn.ite) <;> intro _
    | (with_reducible apply OnlyIn.step (flowMod_only _ _ _)); (case q => decide)
    | (with_reducible apply OnlyIn.lit); (case e => exact rfl); (case h => first | with_reducible assumption | with_reducible apply OnlyIn.refl); (case ev => first | exact (fun hp => absurd (by decide) hp) | exact (fun _ => ⟨rfl, rfl, rfl, rfl, rfl⟩)); (case po => first | exact (fun hp => absurd (by decide) hp) | exact (fun _ => ⟨rfl, rfl⟩)); (case k => intro p hp ne np; cases p <;> first | exact (absurd (by decide) hp) | exact (absurd rfl ne) | exact (absurd rfl np) | exact rfl)

theorem recordAtAdmission_only (sub named tag : Nat) (ws : List W64) (s : State) :
    OnlyIn [.clerk, .qh] s (recordAtAdmission sub named tag ws s) := by
  unfold recordAtAdmission
  repeat' first
    | with_reducible assumption
    | with_reducible apply OnlyIn.refl
    | (with_reducible apply OnlyIn.ite) <;> intro _
    | (with_reducible apply OnlyIn.step (logAdd_only _ _ _ _)); (case q => decide)
    | (with_reducible apply OnlyIn.step (putRecord_only _ _ _ _)); (case q => decide)

theorem enterItem_only (f : Nat) (ws : List W64) (s : State) :
    OnlyIn [.qh] s (enterItem f ws s) := by
  unfold enterItem
  repeat' first
    | with_reducible assumption
    | with_reducible apply OnlyIn.refl
    | (with_reducible apply OnlyIn.ite) <;> intro _
    | (extract_lets +onlyGivenNames s; fail_if_success (have : State := s); clear_value s)
    | (with_reducible apply OnlyIn.step (flowMod_only _ _ _)); (case q => decide)
    | (with_reducible apply OnlyIn.lit); (case e => exact rfl); (case h => first | with_reducible assumption | with_reducible apply OnlyIn.refl); (case ev => first | exact (fun hp => absurd (by decide) hp) | exact (fun _ => ⟨rfl, rfl, rfl, rfl, rfl⟩)); (case po => first | exact (fun hp => absurd (by decide) hp) | exact (fun _ => ⟨rfl, rfl⟩)); (case k => intro p hp ne np; cases p <;> first | exact (absurd (by decide) hp) | exact (absurd rfl ne) | exact (absurd rfl np) | exact rfl)

theorem flowOverrun_only (f : Nat) (s : State) :
    OnlyIn [.events, .qh, .ports] s (flowOverrun f s) := by
  unfold flowOverrun
  repeat' first
    | with_reducible assumption
    | with_reducible apply OnlyIn.refl
    | (with_reducible apply OnlyIn.ite) <;> intro _
    | (extract_lets +onlyGivenNames s; fail_if_success (have : State := s); clear_value s)
    | (with_reducible apply OnlyIn.step (raise_only _ _)); (case q => decide)
    | (with_reducible apply OnlyIn.step (flowMod_only _ _ _)); (case q => decide)
    | (with_reducible apply OnlyIn.lit); (case e => exact rfl); (case h => first | with_reducible assumption | with_reducible apply OnlyIn.refl); (case ev => first | exact (fun hp => absurd (by decide) hp) | exact (fun _ => ⟨rfl, rfl, rfl, rfl, rfl⟩)); (case po => first | exact (fun hp => absurd (by decide) hp) | exact (fun _ => ⟨rfl, rfl⟩)); (case k => intro p hp ne np; cases p <;> first | exact (absurd (by decide) hp) | exact (absurd rfl ne) | exact (absurd rfl np) | exact rfl)

theorem flowUnderrun_only (f : Nat) (s : State) :
    OnlyIn [.events, .qh, .ports] s (flowUnderrun f s) := by
  unfold flowUnderrun
  repeat' first
    | with_reducible assumption
    | with_reducible apply OnlyIn.refl
    | (with_reducible apply OnlyIn.ite) <;> intro _
    | (extract_lets +onlyGivenNames s; fail_if_success (have : State := s); clear_value s)
    | (with_reducible apply OnlyIn.step (raise_only _ _)); (case q => decide)
    | (with_reducible apply OnlyIn.step (flowMod_only _ _ _)); (case q => decide)
    | (with_reducible apply OnlyIn.lit); (case e => exact rfl); (case h => first | with_reducible assumption | with_reducible apply OnlyIn.refl); (case ev => first | exact (fun hp => absurd (by decide) hp) | exact (fun _ => ⟨rfl, rfl, rfl, rfl, rfl⟩)); (case po => first | exact (fun hp => absurd (by decide) hp) | exact (fun _ => ⟨rfl, rfl⟩)); (case k => intro p hp ne np; cases p <;> first | exact (absurd (by decide) hp) | exact (absurd rfl ne) | exact (absurd rfl np) | exact rfl)

theorem sendAnswer_only (port ctag : Nat) (hdr : W64) (cells : List W64) (s : State) :
    OnlyIn [.ports] s (sendAnswer port ctag hdr cells s) := by
  unfold sendAnswer
  repeat' first
    | with_reducible assumption
    | with_reducible apply OnlyIn.refl
    | (with_reducible apply OnlyIn.ite) <;> intro _
    | (extract_lets +onlyGivenNames s; fail_if_success (have : State := s); clear_value s)
    | (with_reducible apply OnlyIn.step (enqueueOn_only _ _ _)); (case q => decide)
    | (with_reducible apply OnlyIn.lit); (case e => exact rfl); (case h => first | with_reducible assumption | with_reducible apply OnlyIn.refl); (case ev => first | exact (fun hp => absurd (by decide) hp) | exact (fun _ => ⟨rfl, rfl, rfl, rfl, rfl⟩)); (case po => first | exact (fun hp => absurd (by decide) hp) | exact (fun _ => ⟨rfl, rfl⟩)); (case k => intro p hp ne np; cases p <;> first | exact (absurd (by decide) hp) | exact (absurd rfl ne) | exact (absurd rfl np) | exact rfl)

theorem pedRefuse_only (port ctag : Nat) (h : W64) (st : Status) (s : State) :
    OnlyIn [.ports] s (pedRefuse port ctag h st s) := by
  unfold pedRefuse
  repeat' first
    | with_reducible assumption
    | with_reducible apply OnlyIn.refl
    | (with_reducible apply OnlyIn.ite) <;> intro _
    | (with_reducible apply OnlyIn.step (sendAnswer_only _ _ _ _ _)); (case q => decide)

theorem pedPush_only (port ctag : Nat) (h : W64) (data : List W64) (s : State) :
    OnlyIn [.events, .qh, .ports] s (pedPush port ctag h data s) := by
  unfold pedPush
  repeat' first
    | with_reducible assumption
    | with_reducible apply OnlyIn.refl
    | (with_reducible apply OnlyIn.ite) <;> intro _
    | (extract_lets +onlyGivenNames s; fail_if_success (have : State := s); clear_value s)
    | (with_reducible apply OnlyIn.step (enterItem_only _ _ _)); (case q => decide)
    | (with_reducible apply OnlyIn.step (flowOverrun_only _ _)); (case q => decide)
    | (with_reducible apply OnlyIn.step (sendAnswer_only _ _ _ _ _)); (case q => decide)
    | (with_reducible apply OnlyIn.step (pedRefuse_only _ _ _ _ _)); (case q => decide)
    | (with_reducible apply OnlyIn.thenFold_fst); rotate_left; intro _ _
    | (with_reducible apply OnlyIn.thenFold_snd); rotate_left; intro _ _
    | (with_reducible apply OnlyIn.thenFold); rotate_left; intro _ _

theorem correctedCells_only (n : Nat) (s : State) :
    OnlyIn [.events, .qh, .ports] s (correctedCells n s) := by
  unfold correctedCells
  repeat' first
    | with_reducible assumption
    | with_reducible apply OnlyIn.refl
    | (with_reducible apply OnlyIn.ite) <;> intro _
    | (extract_lets +onlyGivenNames s; fail_if_success (have : State := s); clear_value s)
    | (with_reducible apply OnlyIn.step (raise_only _ _)); (case q => decide)
    | (with_reducible apply OnlyIn.lit); (case e => exact rfl); (case h => first | with_reducible assumption | with_reducible apply OnlyIn.refl); (case ev => first | exact (fun hp => absurd (by decide) hp) | exact (fun _ => ⟨rfl, rfl, rfl, rfl, rfl⟩)); (case po => first | exact (fun hp => absurd (by decide) hp) | exact (fun _ => ⟨rfl, rfl⟩)); (case k => intro p hp ne np; cases p <;> first | exact (absurd (by decide) hp) | exact (absurd rfl ne) | exact (absurd rfl np) | exact rfl)

theorem pedPop_only (port ctag : Nat) (h : W64) (words : Nat) (s : State) :
    OnlyIn [.events, .qh, .ports] s (pedPop port ctag h words s) := by
  unfold pedPop
  repeat' first
    | with_reducible assumption
    | with_reducible apply OnlyIn.refl
    | (with_reducible apply OnlyIn.ite) <;> intro _
    | (extract_lets +onlyGivenNames s; fail_if_success (have : State := s); clear_value s)
    | (with_reducible apply OnlyIn.step (flowMod_only _ _ _)); (case q => decide)
    | (with_reducible apply OnlyIn.step (flowUnderrun_only _ _)); (case q => decide)
    | (with_reducible apply OnlyIn.step (sendAnswer_only _ _ _ _ _)); (case q => decide)
    | (with_reducible apply OnlyIn.step (pedRefuse_only _ _ _ _ _)); (case q => decide)
    | (with_reducible apply OnlyIn.step (correctedCells_only _ _)); (case q => decide)
    | with_reducible apply OnlyIn.getD
    | (with_reducible apply OnlyIn.lit); (case e => exact rfl); (case h => first | with_reducible assumption | with_reducible apply OnlyIn.refl); (case ev => first | exact (fun hp => absurd (by decide) hp) | exact (fun _ => ⟨rfl, rfl, rfl, rfl, rfl⟩)); (case po => first | exact (fun hp => absurd (by decide) hp) | exact (fun _ => ⟨rfl, rfl⟩)); (case k => intro p hp ne np; cases p <;> first | exact (absurd (by decide) hp) | exact (absurd rfl ne) | exact (absurd rfl np) | exact rfl)

theorem pedProbe_only (port ctag : Nat) (h : W64) (s : State) :
    OnlyIn [.ports] s (pedProbe port ctag h s) := by
  unfold pedProbe
  repeat' first
    | with_reducible assumption
    | with_reducible apply OnlyIn.refl
    | (with_reducible apply OnlyIn.ite) <;> intro _
    | (with_reducible apply OnlyIn.step (sendAnswer_only _ _ _ _ _)); (case q => decide)
    | (with_reducible apply OnlyIn.step (pedRefuse_only _ _ _ _ _)); (case q => decide)

theorem writeSubWord_only (i : Nat) (val : W64) (s : State) :
    OnlyIn [.qh] s (writeSubWord i val s) := by
  unfold writeSubWord
  repeat' first
    | with_reducible assumption
    | with_reducible apply OnlyIn.refl
    | (with_reducible apply OnlyIn.ite) <;> intro _
    | (with_reducible apply OnlyIn.lit); (case e => exact rfl); (case h => first | with_reducible assumption | with_reducible apply OnlyIn.refl); (case ev => first | exact (fun hp => absurd (by decide) hp) | exact (fun _ => ⟨rfl, rfl, rfl, rfl, rfl⟩)); (case po => first | exact (fun hp => absurd (by decide) hp) | exact (fun _ => ⟨rfl, rfl⟩)); (case k => intro p hp ne np; cases p <;> first | exact (absurd (by decide) hp) | exact (absurd rfl ne) | exact (absurd rfl np) | exact rfl)

theorem subSubmit_only (val : W64) (s : State) :
    OnlyIn [.events, .qh, .ports] s (subSubmit val s) := by
  unfold subSubmit
  repeat' first
    | with_reducible assumption
    | with_reducible apply OnlyIn.refl
    | (with_reducible apply OnlyIn.ite) <;> intro _
    | (extract_lets +onlyGivenNames s; fail_if_success (have : State := s); clear_value s)
    | (with_reducible apply OnlyIn.step (enterItem_only _ _ _)); (case q => decide)
    | (with_reducible apply OnlyIn.step (flowOverrun_only _ _)); (case q => decide)
    | (with_reducible apply OnlyIn.step (writeSubWord_only _ _ _)); (case q => decide)

theorem writeQhSplit_only (val : W64) (s : State) :
    OnlyIn [.qh] s (writeQhSplit val s) := by
  unfold writeQhSplit
  repeat' first
    | with_reducible assumption
    | with_reducible apply OnlyIn.refl
    | (with_reducible apply OnlyIn.ite) <;> intro _
    | (extract_lets +onlyGivenNames s; fail_if_success (have : State := s); clear_value s)
    | (with_reducible apply OnlyIn.lit); (case e => exact rfl); (case h => first | with_reducible assumption | with_reducible apply OnlyIn.refl); (case ev => first | exact (fun hp => absurd (by decide) hp) | exact (fun _ => ⟨rfl, rfl, rfl, rfl, rfl⟩)); (case po => first | exact (fun hp => absurd (by decide) hp) | exact (fun _ => ⟨rfl, rfl⟩)); (case k => intro p hp ne np; cases p <;> first | exact (absurd (by decide) hp) | exact (absurd rfl ne) | exact (absurd rfl np) | exact rfl)

theorem writeQhTimeout_only (val : W64) (s : State) :
    OnlyIn [.qh] s (writeQhTimeout val s) := by
  unfold writeQhTimeout
  repeat' first
    | with_reducible assumption
    | with_reducible apply OnlyIn.refl
    | (with_reducible apply OnlyIn.ite) <;> intro _
    | (extract_lets +onlyGivenNames s; fail_if_success (have : State := s); clear_value s)
    | (with_reducible apply OnlyIn.lit); (case e => exact rfl); (case h => first | with_reducible assumption | with_reducible apply OnlyIn.refl); (case ev => first | exact (fun hp => absurd (by decide) hp) | exact (fun _ => ⟨rfl, rfl, rfl, rfl, rfl⟩)); (case po => first | exact (fun hp => absurd (by decide) hp) | exact (fun _ => ⟨rfl, rfl⟩)); (case k => intro p hp ne np; cases p <;> first | exact (absurd (by decide) hp) | exact (absurd rfl ne) | exact (absurd rfl np) | exact rfl)

theorem writeFlowState_only (val : W64) (s : State) :
    OnlyIn [.qh] s (writeFlowState val s) := by
  unfold writeFlowState
  repeat' first
    | with_reducible assumption
    | with_reducible apply OnlyIn.refl
    | (with_reducible apply OnlyIn.ite) <;> intro _
    | (with_reducible apply OnlyIn.step (flowMod_only _ _ _)); (case q => decide)
    | (with_reducible apply OnlyIn.lit); (case e => exact rfl); (case h => first | with_reducible assumption | with_reducible apply OnlyIn.refl); (case ev => first | exact (fun hp => absurd (by decide) hp) | exact (fun _ => ⟨rfl, rfl, rfl, rfl, rfl⟩)); (case po => first | exact (fun hp => absurd (by decide) hp) | exact (fun _ => ⟨rfl, rfl⟩)); (case k => intro p hp ne np; cases p <;> first | exact (absurd (by decide) hp) | exact (absurd rfl ne) | exact (absurd rfl np) | exact rfl)

theorem cacheLeaves_only (ls : List Leaf) (s : State) :
    OnlyIn [.xlt] s (cacheLeaves ls s) := by
  unfold cacheLeaves
  repeat' first
    | with_reducible assumption
    | with_reducible apply OnlyIn.refl
    | (with_reducible apply OnlyIn.ite) <;> intro _
    | (extract_lets +onlyGivenNames s; fail_if_success (have : State := s); clear_value s)
    | (with_reducible apply OnlyIn.lit); (case e => exact rfl); (case h => first | with_reducible assumption | with_reducible apply OnlyIn.refl); (case ev => first | exact (fun hp => absurd (by decide) hp) | exact (fun _ => ⟨rfl, rfl, rfl, rfl, rfl⟩)); (case po => first | exact (fun hp => absurd (by decide) hp) | exact (fun _ => ⟨rfl, rfl⟩)); (case k => intro p hp ne np; cases p <;> first | exact (absurd (by decide) hp) | exact (absurd rfl ne) | exact (absurd rfl np) | exact rfl)

theorem leaveAdmission_only (flow : Nat) (s : State) :
    OnlyIn [.flt] s (leaveAdmission flow s) := by
  unfold leaveAdmission
  repeat' first
    | with_reducible assumption
    | with_reducible apply OnlyIn.refl
    | (with_reducible apply OnlyIn.ite) <;> intro _
    | (extract_lets +onlyGivenNames s; fail_if_success (have : State := s); clear_value s)
    | (with_reducible apply OnlyIn.lit); (case e => exact rfl); (case h => first | with_reducible assumption | with_reducible apply OnlyIn.refl); (case ev => first | exact (fun hp => absurd (by decide) hp) | exact (fun _ => ⟨rfl, rfl, rfl, rfl, rfl⟩)); (case po => first | exact (fun hp => absurd (by decide) hp) | exact (fun _ => ⟨rfl, rfl⟩)); (case k => intro p hp ne np; cases p <;> first | exact (absurd (by decide) hp) | exact (absurd rfl ne) | exact (absurd rfl np) | exact rfl)

theorem dropHead_only (flow : Nat) (s : State) :
    OnlyIn [.flt, .qh] s (dropHead flow s) := by
  unfold dropHead
  repeat' first
    | with_reducible assumption
    | with_reducible apply OnlyIn.refl
    | (with_reducible apply OnlyIn.ite) <;> intro _
    | (extract_lets +onlyGivenNames s; fail_if_success (have : State := s); clear_value s)
    | (with_reducible apply OnlyIn.step (flowMod_only _ _ _)); (case q => decide)
    | (with_reducible apply OnlyIn.step (leaveAdmission_only _ _)); (case q => decide)
    | (with_reducible apply OnlyIn.lit); (case e => exact rfl); (case ev => first | exact (fun hp => absurd (by decide) hp) | exact (fun _ => ⟨rfl, rfl, rfl, rfl, rfl⟩)); (case po => first | exact (fun hp => absurd (by decide) hp) | exact (fun _ => ⟨rfl, rfl⟩)); (case k => intro p hp ne np; cases p <;> first | exact (absurd (by decide) hp) | exact (absurd rfl ne) | exact (absurd rfl np) | exact rfl)

theorem endRunItem_only (flow dur : Nat) (d : RunDesc) (st : Status) (s : State) :
    OnlyIn [.clerk, .flt, .qh] s (endRunItem flow dur d st s) := by
  unfold endRunItem
  repeat' first
    | with_reducible assumption
    | with_reducible apply OnlyIn.refl
    | (with_reducible apply OnlyIn.ite) <;> intro _
    | (with_reducible apply OnlyIn.step (recordAtAdmission_only _ _ _ _ _)); (case q => decide)
    | (with_reducible apply OnlyIn.step (dropHead_only _ _)); (case q => decide)

theorem endXferItem_only (flow dur : Nat) (d : XferDesc) (st : Status) (replaced : Bool) (s : State) :
    OnlyIn [.clerk, .flt, .qh] s (endXferItem flow dur d st replaced s) := by
  unfold endXferItem
  repeat' first
    | with_reducible assumption
    | with_reducible apply OnlyIn.refl
    | (with_reducible apply OnlyIn.ite) <;> intro _
    | (with_reducible apply OnlyIn.step (recordAtAdmission_only _ _ _ _ _)); (case q => decide)
    | (with_reducible apply OnlyIn.step (dropHead_only _ _)); (case q => decide)

theorem park_only (flow : Nat) (f : FaultReq) (s : State) :
    OnlyIn [.flt, .qh] s (park flow f s) := by
  unfold park
  repeat' first
    | with_reducible assumption
    | with_reducible apply OnlyIn.refl
    | (with_reducible apply OnlyIn.ite) <;> intro _
    | (with_reducible apply OnlyIn.lit); (case e => exact rfl); (case h => first | with_reducible assumption | with_reducible apply OnlyIn.refl); (case ev => first | exact (fun hp => absurd (by decide) hp) | exact (fun _ => ⟨rfl, rfl, rfl, rfl, rfl⟩)); (case po => first | exact (fun hp => absurd (by decide) hp) | exact (fun _ => ⟨rfl, rfl⟩)); (case k => intro p hp ne np; cases p <;> first | exact (absurd (by decide) hp) | exact (absurd rfl ne) | exact (absurd rfl np) | exact rfl)

theorem admitRun_only (flow : Nat) (r : Run) (xs : List Xlat) (s : State) :
    OnlyIn [.block, .tables, .xlt, .flt, .qh, .counts] s (admitRun flow r xs s) := by
  unfold admitRun
  repeat' first
    | with_reducible assumption
    | with_reducible apply OnlyIn.refl
    | (with_reducible apply OnlyIn.ite) <;> intro _
    | (extract_lets +onlyGivenNames s; fail_if_success (have : State := s); clear_value s)
    | (with_reducible apply OnlyIn.step (settle_only _)); (case q => decide)
    | (with_reducible apply OnlyIn.step (addRef_only _ _ _)); (case q => decide)
    | (with_reducible apply OnlyIn.step (countEv_only _ _ _ _)); (case q => decide)
    | (with_reducible apply OnlyIn.step (flowMod_only _ _ _)); (case q => decide)
    | (with_reducible apply OnlyIn.step (promise_only _ _)); (case q => decide)
    | (with_reducible apply OnlyIn.step (cacheLeaves_only _ _)); (case q => decide)
    | (with_reducible apply OnlyIn.step (dropHead_only _ _)); (case q => decide)
    | (with_reducible apply OnlyIn.lit); (case e => exact rfl); (case ev => first | exact (fun hp => absurd (by decide) hp) | exact (fun _ => ⟨rfl, rfl, rfl, rfl, rfl⟩)); (case po => first | exact (fun hp => absurd (by decide) hp) | exact (fun _ => ⟨rfl, rfl⟩)); (case k => intro p hp ne np; cases p <;> first | exact (absurd (by decide) hp) | exact (absurd rfl ne) | exact (absurd rfl np) | exact rfl)

theorem admitPassed_only (flow : Nat) (d : RunDesc) (xs : List Xlat) (s : State) :
    OnlyIn [.block, .tables, .xlt, .flt, .qh, .counts] s (admitPassed flow d xs s) := by
  unfold admitPassed
  repeat' first
    | with_reducible assumption
    | with_reducible apply OnlyIn.refl
    | (with_reducible apply OnlyIn.ite) <;> intro _
    | (extract_lets +onlyGivenNames s; fail_if_success (have : State := s); clear_value s)
    | (with_reducible apply OnlyIn.step (admitRun_only _ _ _ _)); (case q => decide)
    | split

theorem admitHead_only (flow dur : Nat) (v : ChipView) (x : SubItem) (s : State) :
    OnlyIn [.block, .clerk, .tables, .xlt, .flt, .qh, .hbmStacks, .counts] s (admitHead flow dur v x s) := by
  unfold admitHead
  repeat' first
    | with_reducible assumption
    | with_reducible apply OnlyIn.refl
    | (with_reducible apply OnlyIn.ite) <;> intro _
    | (extract_lets +onlyGivenNames s; fail_if_success (have : State := s); clear_value s)
    | (with_reducible apply OnlyIn.step (noteWalk_only _ _ _ _)); (case q => decide)
    | (with_reducible apply OnlyIn.step (endRunItem_only _ _ _ _ _)); (case q => decide)
    | (with_reducible apply OnlyIn.step (park_only _ _ _)); (case q => decide)
    | (with_reducible apply OnlyIn.step (admitPassed_only _ _ _ _)); (case q => decide)
    | split

theorem admitXfer_only (flow : Nat) (d : XferDesc) (src dst : Xlat) (s : State) :
    OnlyIn [.block, .xlt, .flt, .qh, .counts] s (admitXfer flow d src dst s) := by
  unfold admitXfer
  repeat' first
    | with_reducible assumption
    | with_reducible apply OnlyIn.refl
    | (with_reducible apply OnlyIn.ite) <;> intro _
    | (extract_lets +onlyGivenNames s; fail_if_success (have : State := s); clear_value s)
    | (with_reducible apply OnlyIn.step (settle_only _)); (case q => decide)
    | (with_reducible apply OnlyIn.step (countEv_only _ _ _ _)); (case q => decide)
    | (with_reducible apply OnlyIn.step (flowMod_only _ _ _)); (case q => decide)
    | (with_reducible apply OnlyIn.step (promise_only _ _)); (case q => decide)
    | (with_reducible apply OnlyIn.step (cacheLeaves_only _ _)); (case q => decide)
    | (with_reducible apply OnlyIn.step (dropHead_only _ _)); (case q => decide)
    | (with_reducible apply OnlyIn.lit); (case e => exact rfl); (case ev => first | exact (fun hp => absurd (by decide) hp) | exact (fun _ => ⟨rfl, rfl, rfl, rfl, rfl⟩)); (case po => first | exact (fun hp => absurd (by decide) hp) | exact (fun _ => ⟨rfl, rfl⟩)); (case k => intro p hp ne np; cases p <;> first | exact (absurd (by decide) hp) | exact (absurd rfl ne) | exact (absurd rfl np) | exact rfl)

theorem admitXferHead_only (flow dur : Nat) (v : ChipView) (x : SubItem) (s : State) :
    OnlyIn [.block, .clerk, .xlt, .flt, .qh, .hbmStacks, .counts] s (admitXferHead flow dur v x s) := by
  unfold admitXferHead
  repeat' first
    | with_reducible assumption
    | with_reducible apply OnlyIn.refl
    | (with_reducible apply OnlyIn.ite) <;> intro _
    | (extract_lets +onlyGivenNames s; fail_if_success (have : State := s); clear_value s)
    | (with_reducible apply OnlyIn.step (noteWalk_only _ _ _ _)); (case q => decide)
    | (with_reducible apply OnlyIn.step (endXferItem_only _ _ _ _ _ _)); (case q => decide)
    | (with_reducible apply OnlyIn.step (park_only _ _ _)); (case q => decide)
    | (with_reducible apply OnlyIn.step (admitXfer_only _ _ _ _ _)); (case q => decide)
    | split

theorem runMod_only (ord : Nat) (f : Run → Run) (s : State) :
    OnlyIn [.qh] s (runMod ord f s) := by
  unfold runMod
  repeat' first
    | with_reducible assumption
    | with_reducible apply OnlyIn.refl
    | (with_reducible apply OnlyIn.ite) <;> intro _
    | (with_reducible apply OnlyIn.lit); (case e => exact rfl); (case h => first | with_reducible assumption | with_reducible apply OnlyIn.refl); (case ev => first | exact (fun hp => absurd (by decide) hp) | exact (fun _ => ⟨rfl, rfl, rfl, rfl, rfl⟩)); (case po => first | exact (fun hp => absurd (by decide) hp) | exact (fun _ => ⟨rfl, rfl⟩)); (case k => intro p hp ne np; cases p <;> first | exact (absurd (by decide) hp) | exact (absurd rfl ne) | exact (absurd rfl np) | exact rfl)

theorem xferMod_only (ord : Nat) (f : Xfer → Xfer) (s : State) :
    OnlyIn [.qh] s (xferMod ord f s) := by
  unfold xferMod
  repeat' first
    | with_reducible assumption
    | with_reducible apply OnlyIn.refl
    | (with_reducible apply OnlyIn.ite) <;> intro _
    | (with_reducible apply OnlyIn.lit); (case e => exact rfl); (case h => first | with_reducible assumption | with_reducible apply OnlyIn.refl); (case ev => first | exact (fun hp => absurd (by decide) hp) | exact (fun _ => ⟨rfl, rfl, rfl, rfl, rfl⟩)); (case po => first | exact (fun hp => absurd (by decide) hp) | exact (fun _ => ⟨rfl, rfl⟩)); (case k => intro p hp ne np; cases p <;> first | exact (absurd (by decide) hp) | exact (absurd rfl ne) | exact (absurd rfl np) | exact rfl)

theorem bagMod_only (ord b : Nat) (f : BagInfo → BagInfo) (s : State) :
    OnlyIn [.qh] s (bagMod ord b f s) := by
  unfold bagMod
  repeat' first
    | with_reducible assumption
    | with_reducible apply OnlyIn.refl
    | (with_reducible apply OnlyIn.ite) <;> intro _
    | (with_reducible apply OnlyIn.step (runMod_only _ _ _)); (case q => decide)
    | (with_reducible apply OnlyIn.lit); (case e => exact rfl); (case h => first | with_reducible assumption | with_reducible apply OnlyIn.refl); (case ev => first | exact (fun hp => absurd (by decide) hp) | exact (fun _ => ⟨rfl, rfl, rfl, rfl, rfl⟩)); (case po => first | exact (fun hp => absurd (by decide) hp) | exact (fun _ => ⟨rfl, rfl⟩)); (case k => intro p hp ne np; cases p <;> first | exact (absurd (by decide) hp) | exact (absurd rfl ne) | exact (absurd rfl np) | exact rfl)

theorem closeSample_only (ord b : Nat) (s : State) :
    OnlyIn [.ctr] s (closeSample ord b s) := by
  unfold closeSample
  repeat' first
    | with_reducible assumption
    | with_reducible apply OnlyIn.refl
    | (with_reducible apply OnlyIn.ite) <;> intro _
    | (extract_lets +onlyGivenNames s; fail_if_success (have : State := s); clear_value s)
    | split
    | (with_reducible apply OnlyIn.lit); (case e => exact rfl); (case h => first | with_reducible assumption | with_reducible apply OnlyIn.refl); (case ev => first | exact (fun hp => absurd (by decide) hp) | exact (fun _ => ⟨rfl, rfl, rfl, rfl, rfl⟩)); (case po => first | exact (fun hp => absurd (by decide) hp) | exact (fun _ => ⟨rfl, rfl⟩)); (case k => intro p hp ne np; cases p <;> first | exact (absurd (by decide) hp) | exact (absurd rfl ne) | exact (absurd rfl np) | exact rfl)

theorem failBag_only (ord b : Nat) (st : Status) (s : State) :
    OnlyIn [.qh, .ctr] s (failBag ord b st s) := by
  unfold failBag
  repeat' first
    | with_reducible assumption
    | with_reducible apply OnlyIn.refl
    | (with_reducible apply OnlyIn.ite) <;> intro _
    | (with_reducible apply OnlyIn.step (bagMod_only _ _ _ _)); (case q => decide)
    | (with_reducible apply OnlyIn.step (closeSample_only _ _ _)); (case q => decide)
    | (with_reducible apply OnlyIn.lit); (case e => exact rfl); (case h => first | with_reducible assumption | with_reducible apply OnlyIn.refl); (case ev => first | exact (fun hp => absurd (by decide) hp) | exact (fun _ => ⟨rfl, rfl, rfl, rfl, rfl⟩)); (case po => first | exact (fun hp => absurd (by decide) hp) | exact (fun _ => ⟨rfl, rfl⟩)); (case k => intro p hp ne np; cases p <;> first | exact (absurd (by decide) hp) | exact (absurd rfl ne) | exact (absurd rfl np) | exact rfl)

theorem failFrom_only (ord b : Nat) (st : Status) (s : State) :
    OnlyIn [.qh, .ctr] s (failFrom ord b st s) := by
  unfold failFrom
  repeat' first
    | with_reducible assumption
    | with_reducible apply OnlyIn.refl
    | (with_reducible apply OnlyIn.ite) <;> intro _
    | (with_reducible apply OnlyIn.step (failBag_only _ _ _ _)); (case q => decide)
    | (with_reducible apply OnlyIn.thenFold_fst); rotate_left; intro _ _
    | (with_reducible apply OnlyIn.thenFold_snd); rotate_left; intro _ _
    | (with_reducible apply OnlyIn.thenFold); rotate_left; intro _ _
    | split

theorem streamMod_only (ord : Nat) (k : RangeKind) (f : Stream → Stream) (s : State) :
    OnlyIn [.qh] s (streamMod ord k f s) := by
  unfold streamMod
  repeat' first
    | with_reducible assumption
    | with_reducible apply OnlyIn.refl
    | (with_reducible apply OnlyIn.ite) <;> intro _
    | (with_reducible apply OnlyIn.step (runMod_only _ _ _)); (case q => decide)
    | (with_reducible apply OnlyIn.lit); (case e => exact rfl); (case h => first | with_reducible assumption | with_reducible apply OnlyIn.refl); (case ev => first | exact (fun hp => absurd (by decide) hp) | exact (fun _ => ⟨rfl, rfl, rfl, rfl, rfl⟩)); (case po => first | exact (fun hp => absurd (by decide) hp) | exact (fun _ => ⟨rfl, rfl⟩)); (case k => intro p hp ne np; cases p <;> first | exact (absurd (by decide) hp) | exact (absurd rfl ne) | exact (absurd rfl np) | exact rfl)

theorem streamAt_only (ord i : Nat) (f : Stream → Stream) (s : State) :
    OnlyIn [.qh] s (streamAt ord i f s) := by
  unfold streamAt
  repeat' first
    | with_reducible assumption
    | with_reducible apply OnlyIn.refl
    | (with_reducible apply OnlyIn.ite) <;> intro _
    | (with_reducible apply OnlyIn.step (runMod_only _ _ _)); (case q => decide)
    | (with_reducible apply OnlyIn.lit); (case e => exact rfl); (case h => first | with_reducible assumption | with_reducible apply OnlyIn.refl); (case ev => first | exact (fun hp => absurd (by decide) hp) | exact (fun _ => ⟨rfl, rfl, rfl, rfl, rfl⟩)); (case po => first | exact (fun hp => absurd (by decide) hp) | exact (fun _ => ⟨rfl, rfl⟩)); (case k => intro p hp ne np; cases p <;> first | exact (absurd (by decide) hp) | exact (absurd rfl ne) | exact (absurd rfl np) | exact rfl)

theorem leaveEntries_only (ord : Nat) (s : State) :
    OnlyIn [.flt] s (leaveEntries ord s) := by
  unfold leaveEntries
  repeat' first
    | with_reducible assumption
    | with_reducible apply OnlyIn.refl
    | (with_reducible apply OnlyIn.ite) <;> intro _
    | (extract_lets +onlyGivenNames s; fail_if_success (have : State := s); clear_value s)
    | (with_reducible apply OnlyIn.lit); (case e => exact rfl); (case h => first | with_reducible assumption | with_reducible apply OnlyIn.refl); (case ev => first | exact (fun hp => absurd (by decide) hp) | exact (fun _ => ⟨rfl, rfl, rfl, rfl, rfl⟩)); (case po => first | exact (fun hp => absurd (by decide) hp) | exact (fun _ => ⟨rfl, rfl⟩)); (case k => intro p hp ne np; cases p <;> first | exact (absurd (by decide) hp) | exact (absurd rfl ne) | exact (absurd rfl np) | exact rfl)

theorem dropReads_only (p : Nat → Nat → Bool) (s : State) :
    OnlyIn [.span] s (dropReads p s) := by
  unfold dropReads
  repeat' first
    | with_reducible assumption
    | with_reducible apply OnlyIn.refl
    | (with_reducible apply OnlyIn.ite) <;> intro _
    | (extract_lets +onlyGivenNames s; fail_if_success (have : State := s); clear_value s)
    | (with_reducible apply OnlyIn.thenFold_fst); rotate_left; intro _ _
    | (with_reducible apply OnlyIn.thenFold_snd); rotate_left; intro _ _
    | (with_reducible apply OnlyIn.thenFold); rotate_left; intro _ _
    | split
    | (with_reducible apply OnlyIn.lit); (case e => exact rfl); (case h => first | with_reducible assumption | with_reducible apply OnlyIn.refl); (case ev => first | exact (fun hp => absurd (by decide) hp) | exact (fun _ => ⟨rfl, rfl, rfl, rfl, rfl⟩)); (case po => first | exact (fun hp => absurd (by decide) hp) | exact (fun _ => ⟨rfl, rfl⟩)); (case k => intro p hp ne np; cases p <;> first | exact (absurd (by decide) hp) | exact (absurd rfl ne) | exact (absurd rfl np) | exact rfl)

theorem failSamples_only (ord : Nat) (st : Status) (s : State) :
    OnlyIn [.ctr] s (failSamples ord st s) := by
  unfold failSamples
  repeat' first
    | with_reducible assumption
    | with_reducible apply OnlyIn.refl
    | (with_reducible apply OnlyIn.ite) <;> intro _
    | (extract_lets +onlyGivenNames s; fail_if_success (have : State := s); clear_value s)
    | (with_reducible apply OnlyIn.lit); (case e => exact rfl); (case h => first | with_reducible assumption | with_reducible apply OnlyIn.refl); (case ev => first | exact (fun hp => absurd (by decide) hp) | exact (fun _ => ⟨rfl, rfl, rfl, rfl, rfl⟩)); (case po => first | exact (fun hp => absurd (by decide) hp) | exact (fun _ => ⟨rfl, rfl⟩)); (case k => intro p hp ne np; cases p <;> first | exact (absurd (by decide) hp) | exact (absurd rfl ne) | exact (absurd rfl np) | exact rfl)

theorem flushFor_only (ord : Nat) (s : State) :
    OnlyIn [.cols] s (flushFor ord s) := by
  unfold flushFor
  repeat' first
    | with_reducible assumption
    | with_reducible apply OnlyIn.refl
    | (with_reducible apply OnlyIn.ite) <;> intro _
    | (with_reducible apply OnlyIn.lit); (case e => exact rfl); (case h => first | with_reducible assumption | with_reducible apply OnlyIn.refl); (case ev => first | exact (fun hp => absurd (by decide) hp) | exact (fun _ => ⟨rfl, rfl, rfl, rfl, rfl⟩)); (case po => first | exact (fun hp => absurd (by decide) hp) | exact (fun _ => ⟨rfl, rfl⟩)); (case k => intro p hp ne np; cases p <;> first | exact (absurd (by decide) hp) | exact (absurd rfl ne) | exact (absurd rfl np) | exact rfl)

theorem endRun_only (ord : Nat) (st : Status) (s : State) :
    OnlyIn [.flt, .qh, .cols, .span, .ctr] s (endRun ord st s) := by
  unfold endRun
  repeat' first
    | with_reducible assumption
    | with_reducible apply OnlyIn.refl
    | (with_reducible apply OnlyIn.ite) <;> intro _
    | (extract_lets +onlyGivenNames s; fail_if_success (have : State := s); clear_value s)
    | (with_reducible apply OnlyIn.step (runMod_only _ _ _)); (case q => decide)
    | (with_reducible apply OnlyIn.step (leaveEntries_only _ _)); (case q => decide)
    | (with_reducible apply OnlyIn.step (dropReads_only _ _)); (case q => decide)
    | (with_reducible apply OnlyIn.step (failSamples_only _ _ _)); (case q => decide)
    | (with_reducible apply OnlyIn.step (flushFor_only _ _)); (case q => decide)
    | split
    | (with_reducible apply OnlyIn.lit); (case e => exact rfl); (case ev => first | exact (fun hp => absurd (by decide) hp) | exact (fun _ => ⟨rfl, rfl, rfl, rfl, rfl⟩)); (case po => first | exact (fun hp => absurd (by decide) hp) | exact (fun _ => ⟨rfl, rfl⟩)); (case k => intro p hp ne np; cases p <;> first | exact (absurd (by decide) hp) | exact (absurd rfl ne) | exact (absurd rfl np) | exact rfl)

theorem endXfer_only (ord : Nat) (st : Status) (s : State) :
    OnlyIn [.flt, .qh] s (endXfer ord st s) := by
  unfold endXfer
  repeat' first
    | with_reducible assumption
    | with_reducible apply OnlyIn.refl
    | (with_reducible apply OnlyIn.ite) <;> intro _
    | (extract_lets +onlyGivenNames s; fail_if_success (have : State := s); clear_value s)
    | (with_reducible apply OnlyIn.step (xferMod_only _ _ _)); (case q => decide)
    | (with_reducible apply OnlyIn.step (leaveEntries_only _ _)); (case q => decide)
    | with_reducible apply OnlyIn.getD
    | (with_reducible apply OnlyIn.lit); (case e => exact rfl); (case h => first | with_reducible assumption | with_reducible apply OnlyIn.refl); (case ev => first | exact (fun hp => absurd (by decide) hp) | exact (fun _ => ⟨rfl, rfl, rfl, rfl, rfl⟩)); (case po => first | exact (fun hp => absurd (by decide) hp) | exact (fun _ => ⟨rfl, rfl⟩)); (case k => intro p hp ne np; cases p <;> first | exact (absurd (by decide) hp) | exact (absurd rfl ne) | exact (absurd rfl np) | exact rfl)

theorem ctxMod_only (c : Nat) (f : Ctx → Ctx) (s : State) :
    OnlyIn [.xlt] s (ctxMod c f s) := by
  unfold ctxMod
  repeat' first
    | with_reducible assumption
    | with_reducible apply OnlyIn.refl
    | (with_reducible apply OnlyIn.ite) <;> intro _
    | (with_reducible apply OnlyIn.lit); (case e => exact rfl); (case h => first | with_reducible assumption | with_reducible apply OnlyIn.refl); (case ev => first | exact (fun hp => absurd (by decide) hp) | exact (fun _ => ⟨rfl, rfl, rfl, rfl, rfl⟩)); (case po => first | exact (fun hp => absurd (by decide) hp) | exact (fun _ => ⟨rfl, rfl⟩)); (case k => intro p hp ne np; cases p <;> first | exact (absurd (by decide) hp) | exact (absurd rfl ne) | exact (absurd rfl np) | exact rfl)

theorem writeInval_only (val : W64) (s : State) :
    OnlyIn [.xlt] s (writeInval val s) := by
  unfold writeInval
  repeat' first
    | with_reducible assumption
    | with_reducible apply OnlyIn.refl
    | (with_reducible apply OnlyIn.ite) <;> intro _
    | (with_reducible apply OnlyIn.lit); (case e => exact rfl); (case h => first | with_reducible assumption | with_reducible apply OnlyIn.refl); (case ev => first | exact (fun hp => absurd (by decide) hp) | exact (fun _ => ⟨rfl, rfl, rfl, rfl, rfl⟩)); (case po => first | exact (fun hp => absurd (by decide) hp) | exact (fun _ => ⟨rfl, rfl⟩)); (case k => intro p hp ne np; cases p <;> first | exact (absurd (by decide) hp) | exact (absurd rfl ne) | exact (absurd rfl np) | exact rfl)

theorem takeEffect_only (w : W64) (s : State) :
    OnlyIn [.xlt, .qh] s (takeEffect w s) := by
  unfold takeEffect
  repeat' first
    | with_reducible assumption
    | with_reducible apply OnlyIn.refl
    | (with_reducible apply OnlyIn.ite) <;> intro _
    | (with_reducible apply OnlyIn.lit); (case e => exact rfl); (case h => first | with_reducible assumption | with_reducible apply OnlyIn.refl); (case ev => first | exact (fun hp => absurd (by decide) hp) | exact (fun _ => ⟨rfl, rfl, rfl, rfl, rfl⟩)); (case po => first | exact (fun hp => absurd (by decide) hp) | exact (fun _ => ⟨rfl, rfl⟩)); (case k => intro p hp ne np; cases p <;> first | exact (absurd (by decide) hp) | exact (absurd rfl ne) | exact (absurd rfl np) | exact rfl)

theorem writeInvalAck_only (val : W64) (s : State) :
    OnlyIn [.xlt] s (writeInvalAck val s) := by
  unfold writeInvalAck
  repeat' first
    | with_reducible assumption
    | with_reducible apply OnlyIn.refl
    | (with_reducible apply OnlyIn.ite) <;> intro _
    | (with_reducible apply OnlyIn.lit); (case e => exact rfl); (case h => first | with_reducible assumption | with_reducible apply OnlyIn.refl); (case ev => first | exact (fun hp => absurd (by decide) hp) | exact (fun _ => ⟨rfl, rfl, rfl, rfl, rfl⟩)); (case po => first | exact (fun hp => absurd (by decide) hp) | exact (fun _ => ⟨rfl, rfl⟩)); (case k => intro p hp ne np; cases p <;> first | exact (absurd (by decide) hp) | exact (absurd rfl ne) | exact (absurd rfl np) | exact rfl)

theorem raiseFault_only (f : FaultReq) (s : State) :
    OnlyIn [.flt] s (raiseFault f s) := by
  unfold raiseFault
  repeat' first
    | with_reducible assumption
    | with_reducible apply OnlyIn.refl
    | (with_reducible apply OnlyIn.ite) <;> intro _
    | (with_reducible apply OnlyIn.lit); (case e => exact rfl); (case h => first | with_reducible assumption | with_reducible apply OnlyIn.refl); (case ev => first | exact (fun hp => absurd (by decide) hp) | exact (fun _ => ⟨rfl, rfl, rfl, rfl, rfl⟩)); (case po => first | exact (fun hp => absurd (by decide) hp) | exact (fun _ => ⟨rfl, rfl⟩)); (case k => intro p hp ne np; cases p <;> first | exact (absurd (by decide) hp) | exact (absurd rfl ne) | exact (absurd rfl np) | exact rfl)

theorem retranslateStream_only (ord i : Nat) (v : ChipView) (r : Run) (x : Stream) (s : State) :
    OnlyIn [.xlt, .flt, .qh, .hbmStacks] s (retranslateStream ord i v r x s) := by
  unfold retranslateStream
  repeat' first
    | with_reducible assumption
    | with_reducible apply OnlyIn.refl
    | (with_reducible apply OnlyIn.ite) <;> intro _
    | (extract_lets +onlyGivenNames s; fail_if_success (have : State := s); clear_value s)
    | (with_reducible apply OnlyIn.step (noteWalk_only _ _ _ _)); (case q => decide)
    | (with_reducible apply OnlyIn.step (cacheLeaves_only _ _)); (case q => decide)
    | (with_reducible apply OnlyIn.step (streamAt_only _ _ _ _)); (case q => decide)
    | (with_reducible apply OnlyIn.step (raiseFault_only _ _)); (case q => decide)
    | split
    | (with_reducible apply OnlyIn.lit); (case e => exact rfl); (case h => first | with_reducible assumption | with_reducible apply OnlyIn.refl); (case ev => first | exact (fun hp => absurd (by decide) hp) | exact (fun _ => ⟨rfl, rfl, rfl, rfl, rfl⟩)); (case po => first | exact (fun hp => absurd (by decide) hp) | exact (fun _ => ⟨rfl, rfl⟩)); (case k => intro p hp ne np; cases p <;> first | exact (absurd (by decide) hp) | exact (absurd rfl ne) | exact (absurd rfl np) | exact rfl)

theorem retranslateXfer_only (ord i : Nat) (v : ChipView) (x : Xfer) (s : State) :
    OnlyIn [.xlt, .flt, .qh, .hbmStacks] s (retranslateXfer ord i v x s) := by
  unfold retranslateXfer
  repeat' first
    | with_reducible assumption
    | with_reducible apply OnlyIn.refl
    | (with_reducible apply OnlyIn.ite) <;> intro _
    | (extract_lets +onlyGivenNames s; fail_if_success (have : State := s); clear_value s)
    | (with_reducible apply OnlyIn.step (noteWalk_only _ _ _ _)); (case q => decide)
    | (with_reducible apply OnlyIn.step (cacheLeaves_only _ _)); (case q => decide)
    | (with_reducible apply OnlyIn.step (xferMod_only _ _ _)); (case q => decide)
    | (with_reducible apply OnlyIn.step (raiseFault_only _ _)); (case q => decide)
    | split
    | (with_reducible apply OnlyIn.lit); (case e => exact rfl); (case h => first | with_reducible assumption | with_reducible apply OnlyIn.refl); (case ev => first | exact (fun hp => absurd (by decide) hp) | exact (fun _ => ⟨rfl, rfl, rfl, rfl, rfl⟩)); (case po => first | exact (fun hp => absurd (by decide) hp) | exact (fun _ => ⟨rfl, rfl⟩)); (case k => intro p hp ne np; cases p <;> first | exact (absurd (by decide) hp) | exact (absurd rfl ne) | exact (absurd rfl np) | exact rfl)

theorem enterFault_only (f : FaultReq) (s : State) :
    OptIn (fun b => b) [.flt] s (enterFault f s) := by
  unfold enterFault
  repeat' first
    | with_reducible assumption
    | with_reducible apply OnlyIn.refl
    | (with_reducible apply OnlyIn.ite) <;> intro _
    | with_reducible apply OptIn.none
    | (with_reducible apply OptIn.ite) <;> intro _
    | (with_reducible apply OptIn.some); try dsimp only
    | (with_reducible apply OptIn.map); intro _ _; try dsimp only
    | (extract_lets +onlyGivenNames s; fail_if_success (have : State := s); clear_value s)
    | split
    | (with_reducible apply OnlyIn.lit); (case e => exact rfl); (case h => first | with_reducible assumption | with_reducible apply OnlyIn.refl); (case ev => first | exact (fun hp => absurd (by decide) hp) | exact (fun _ => ⟨rfl, rfl, rfl, rfl, rfl⟩)); (case po => first | exact (fun hp => absurd (by decide) hp) | exact (fun _ => ⟨rfl, rfl⟩)); (case k => intro p hp ne np; cases p <;> first | exact (absurd (by decide) hp) | exact (absurd rfl ne) | exact (absurd rfl np) | exact rfl)

theorem placeFault_only (before rest : List FaultReq) (s : State) :
    OnlyIn [.flt] s (placeFault before rest s) := by
  induction rest generalizing before s with
  | nil => exact OnlyIn.refl _ _
  | cons f rest ih =>
    unfold placeFault
    split
    · refine OnlyIn.trans ((enterFault_only _ _).only _ (by assumption)) ⟨fun p hp => ?_⟩
      cases p <;> first | exact absurd (by decide) hp | exact rfl | exact ⟨rfl, rfl⟩ | exact ⟨rfl, rfl, rfl, rfl, rfl⟩
    · refine OnlyIn.step (ih _ _) (fun _ h => h) ⟨fun p hp => ?_⟩
      cases p <;> first | exact absurd (by decide) hp | exact rfl | exact ⟨rfl, rfl⟩ | exact ⟨rfl, rfl, rfl, rfl, rfl⟩

theorem writeFaultRecord_only (n : Nat) (rest : List Nat) (e : PendEntry) (s : State) :
    OnlyIn [.events, .flt, .ports] s (writeFaultRecord n rest e s) := by
  unfold writeFaultRecord
  repeat' first
    | with_reducible assumption
    | with_reducible apply OnlyIn.refl
    | (with_reducible apply OnlyIn.ite) <;> intro _
    | (extract_lets +onlyGivenNames s; fail_if_success (have : State := s); clear_value s)
    | (with_reducible apply OnlyIn.step (chipWrite_only _ _ _ _ _)); (case q => decide)
    | (with_reducible apply OnlyIn.step (raise_only _ _)); (case q => decide)
    | (with_reducible apply OnlyIn.lit); (case e => exact rfl); (case ev => first | exact (fun hp => absurd (by decide) hp) | exact (fun _ => ⟨rfl, rfl, rfl, rfl, rfl⟩)); (case po => first | exact (fun hp => absurd (by decide) hp) | exact (fun _ => ⟨rfl, rfl⟩)); (case k => intro p hp ne np; cases p <;> first | exact (absurd (by decide) hp) | exact (absurd rfl ne) | exact (absurd rfl np) | exact rfl)

theorem faultRingFull_only (n : Nat) (e : PendEntry) (s : State) :
    OnlyIn [.events, .flt, .ports] s (faultRingFull n e s) := by
  unfold faultRingFull
  repeat' first
    | with_reducible assumption
    | with_reducible apply OnlyIn.refl
    | (with_reducible apply OnlyIn.ite) <;> intro _
    | (with_reducible apply OnlyIn.step (raise_only _ _)); (case q => decide)
    | (with_reducible apply OnlyIn.lit); (case e => exact rfl); (case h => first | with_reducible assumption | with_reducible apply OnlyIn.refl); (case ev => first | exact (fun hp => absurd (by decide) hp) | exact (fun _ => ⟨rfl, rfl, rfl, rfl, rfl⟩)); (case po => first | exact (fun hp => absurd (by decide) hp) | exact (fun _ => ⟨rfl, rfl⟩)); (case k => intro p hp ne np; cases p <;> first | exact (absurd (by decide) hp) | exact (absurd rfl ne) | exact (absurd rfl np) | exact rfl)

theorem replaySource_only (x : FaultSource) (s : State) :
    OnlyIn [.qh] s (replaySource x s) := by
  unfold replaySource
  repeat' first
    | with_reducible assumption
    | with_reducible apply OnlyIn.refl
    | (with_reducible apply OnlyIn.ite) <;> intro _
    | (with_reducible apply OnlyIn.step (xferMod_only _ _ _)); (case q => decide)
    | (with_reducible apply OnlyIn.step (streamAt_only _ _ _ _)); (case q => decide)
    | split
    | (with_reducible apply OnlyIn.lit); (case e => exact rfl); (case h => first | with_reducible assumption | with_reducible apply OnlyIn.refl); (case ev => first | exact (fun hp => absurd (by decide) hp) | exact (fun _ => ⟨rfl, rfl, rfl, rfl, rfl⟩)); (case po => first | exact (fun hp => absurd (by decide) hp) | exact (fun _ => ⟨rfl, rfl⟩)); (case k => intro p hp ne np; cases p <;> first | exact (absurd (by decide) hp) | exact (absurd rfl ne) | exact (absurd rfl np) | exact rfl)

theorem abortSource_only (x : FaultSource) (s : State) :
    OnlyIn [.flt, .qh, .cols, .span, .ctr] s (abortSource x s) := by
  unfold abortSource
  repeat' first
    | with_reducible assumption
    | with_reducible apply OnlyIn.refl
    | (with_reducible apply OnlyIn.ite) <;> intro _
    | (with_reducible apply OnlyIn.step (endRun_only _ _ _)); (case q => decide)
    | (with_reducible apply OnlyIn.step (endXfer_only _ _ _)); (case q => decide)
    | split
    | (with_reducible apply OnlyIn.lit); (case e => exact rfl); (case h => first | with_reducible assumption | with_reducible apply OnlyIn.refl); (case ev => first | exact (fun hp => absurd (by decide) hp) | exact (fun _ => ⟨rfl, rfl, rfl, rfl, rfl⟩)); (case po => first | exact (fun hp => absurd (by decide) hp) | exact (fun _ => ⟨rfl, rfl⟩)); (case k => intro p hp ne np; cases p <;> first | exact (absurd (by decide) hp) | exact (absurd rfl ne) | exact (absurd rfl np) | exact rfl)

theorem writeReply_only (val : W64) (s : State) :
    OnlyIn [.flt, .qh, .cols, .span, .ctr] s (writeReply val s) := by
  unfold writeReply
  repeat' first
    | with_reducible assumption
    | with_reducible apply OnlyIn.refl
    | (with_reducible apply OnlyIn.ite) <;> intro _
    | (extract_lets +onlyGivenNames s; fail_if_success (have : State := s); clear_value s)
    | (with_reducible apply OnlyIn.step (replaySource_only _ _)); (case q => decide)
    | (with_reducible apply OnlyIn.step (abortSource_only _ _)); (case q => decide)
    | (with_reducible apply OnlyIn.thenFold_fst); rotate_left; intro _ _
    | (with_reducible apply OnlyIn.thenFold_snd); rotate_left; intro _ _
    | (with_reducible apply OnlyIn.thenFold); rotate_left; intro _ _
    | split
    | (with_reducible apply OnlyIn.lit); (case e => exact rfl); (case h => first | with_reducible assumption | with_reducible apply OnlyIn.refl); (case ev => first | exact (fun hp => absurd (by decide) hp) | exact (fun _ => ⟨rfl, rfl, rfl, rfl, rfl⟩)); (case po => first | exact (fun hp => absurd (by decide) hp) | exact (fun _ => ⟨rfl, rfl⟩)); (case k => intro p hp ne np; cases p <;> first | exact (absurd (by decide) hp) | exact (absurd rfl ne) | exact (absurd rfl np) | exact rfl)

theorem fltRefuse_only (s : State) :
    OnlyIn [.flt] s (fltRefuse s) := by
  unfold fltRefuse
  repeat' first
    | with_reducible assumption
    | with_reducible apply OnlyIn.refl
    | (with_reducible apply OnlyIn.ite) <;> intro _
    | (with_reducible apply OnlyIn.lit); (case e => exact rfl); (case h => first | with_reducible assumption | with_reducible apply OnlyIn.refl); (case ev => first | exact (fun hp => absurd (by decide) hp) | exact (fun _ => ⟨rfl, rfl, rfl, rfl, rfl⟩)); (case po => first | exact (fun hp => absurd (by decide) hp) | exact (fun _ => ⟨rfl, rfl⟩)); (case k => intro p hp ne np; cases p <;> first | exact (absurd (by decide) hp) | exact (absurd rfl ne) | exact (absurd rfl np) | exact rfl)

theorem writeFltHead_only (val : W64) (s : State) :
    OnlyIn [.flt] s (writeFltHead val s) := by
  unfold writeFltHead
  repeat' first
    | with_reducible assumption
    | with_reducible apply OnlyIn.refl
    | (with_reducible apply OnlyIn.ite) <;> intro _
    | (with_reducible apply OnlyIn.step (fltRefuse_only _)); (case q => decide)
    | (with_reducible apply OnlyIn.lit); (case e => exact rfl); (case h => first | with_reducible assumption | with_reducible apply OnlyIn.refl); (case ev => first | exact (fun hp => absurd (by decide) hp) | exact (fun _ => ⟨rfl, rfl, rfl, rfl, rfl⟩)); (case po => first | exact (fun hp => absurd (by decide) hp) | exact (fun _ => ⟨rfl, rfl⟩)); (case k => intro p hp ne np; cases p <;> first | exact (absurd (by decide) hp) | exact (absurd rfl ne) | exact (absurd rfl np) | exact rfl)

theorem writeFltBase_only (val : W64) (s : State) :
    OnlyIn [.flt] s (writeFltBase val s) := by
  unfold writeFltBase
  repeat' first
    | with_reducible assumption
    | with_reducible apply OnlyIn.refl
    | (with_reducible apply OnlyIn.ite) <;> intro _
    | (with_reducible apply OnlyIn.step (fltRefuse_only _)); (case q => decide)
    | (with_reducible apply OnlyIn.lit); (case e => exact rfl); (case h => first | with_reducible assumption | with_reducible apply OnlyIn.refl); (case ev => first | exact (fun hp => absurd (by decide) hp) | exact (fun _ => ⟨rfl, rfl, rfl, rfl, rfl⟩)); (case po => first | exact (fun hp => absurd (by decide) hp) | exact (fun _ => ⟨rfl, rfl⟩)); (case k => intro p hp ne np; cases p <;> first | exact (absurd (by decide) hp) | exact (absurd rfl ne) | exact (absurd rfl np) | exact rfl)

theorem writeFltSize_only (val : W64) (s : State) :
    OnlyIn [.flt] s (writeFltSize val s) := by
  unfold writeFltSize
  repeat' first
    | with_reducible assumption
    | with_reducible apply OnlyIn.refl
    | (with_reducible apply OnlyIn.ite) <;> intro _
    | (with_reducible apply OnlyIn.step (fltRefuse_only _)); (case q => decide)
    | (with_reducible apply OnlyIn.lit); (case e => exact rfl); (case h => first | with_reducible assumption | with_reducible apply OnlyIn.refl); (case ev => first | exact (fun hp => absurd (by decide) hp) | exact (fun _ => ⟨rfl, rfl, rfl, rfl, rfl⟩)); (case po => first | exact (fun hp => absurd (by decide) hp) | exact (fun _ => ⟨rfl, rfl⟩)); (case k => intro p hp ne np; cases p <;> first | exact (absurd (by decide) hp) | exact (absurd rfl ne) | exact (absurd rfl np) | exact rfl)

theorem writeFltStatus_only (val : W64) (s : State) :
    OnlyIn [.flt] s (writeFltStatus val s) := by
  unfold writeFltStatus
  repeat' first
    | with_reducible assumption
    | with_reducible apply OnlyIn.refl
    | (with_reducible apply OnlyIn.ite) <;> intro _
    | (with_reducible apply OnlyIn.lit); (case e => exact rfl); (case h => first | with_reducible assumption | with_reducible apply OnlyIn.refl); (case ev => first | exact (fun hp => absurd (by decide) hp) | exact (fun _ => ⟨rfl, rfl, rfl, rfl, rfl⟩)); (case po => first | exact (fun hp => absurd (by decide) hp) | exact (fun _ => ⟨rfl, rfl⟩)); (case k => intro p hp ne np; cases p <;> first | exact (absurd (by decide) hp) | exact (absurd rfl ne) | exact (absurd rfl np) | exact rfl)

theorem frontRead_only (hint : Nat) (last : Bool) (a n : Nat) (s : State) :
    OnlyIn [.hbmStacks] s (frontRead hint last a n s) := by
  unfold frontRead
  repeat' first
    | with_reducible assumption
    | with_reducible apply OnlyIn.refl
    | (with_reducible apply OnlyIn.ite) <;> intro _
    | (with_reducible apply OnlyIn.step (stackMod_only _ _ _)); (case q => decide)
    | (with_reducible apply OnlyIn.thenFold_fst); rotate_left; intro _ _
    | (with_reducible apply OnlyIn.thenFold_snd); rotate_left; intro _ _
    | (with_reducible apply OnlyIn.thenFold); rotate_left; intro _ _

theorem frontDrop_only (a : Nat) (s : State) :
    OnlyIn [.hbmStacks] s (frontDrop a s) := by
  unfold frontDrop
  repeat' first
    | with_reducible assumption
    | with_reducible apply OnlyIn.refl
    | (with_reducible apply OnlyIn.ite) <;> intro _
    | (with_reducible apply OnlyIn.step (stackMod_only _ _ _)); (case q => decide)
    | (with_reducible apply OnlyIn.lit); (case e => exact rfl); (case h => first | with_reducible assumption | with_reducible apply OnlyIn.refl); (case ev => first | exact (fun hp => absurd (by decide) hp) | exact (fun _ => ⟨rfl, rfl, rfl, rfl, rfl⟩)); (case po => first | exact (fun hp => absurd (by decide) hp) | exact (fun _ => ⟨rfl, rfl⟩)); (case k => intro p hp ne np; cases p <;> first | exact (absurd (by decide) hp) | exact (absurd rfl ne) | exact (absurd rfl np) | exact rfl)

theorem larderUe_only (block : Nat) (s : State) :
    OnlyIn [.events, .ports, .lrd] s (larderUe block s) := by
  unfold larderUe
  repeat' first
    | with_reducible assumption
    | with_reducible apply OnlyIn.refl
    | (with_reducible apply OnlyIn.ite) <;> intro _
    | (with_reducible apply OnlyIn.step (raise_only _ _)); (case q => decide)
    | (with_reducible apply OnlyIn.lit); (case e => exact rfl); (case h => first | with_reducible assumption | with_reducible apply OnlyIn.refl); (case ev => first | exact (fun hp => absurd (by decide) hp) | exact (fun _ => ⟨rfl, rfl, rfl, rfl, rfl⟩)); (case po => first | exact (fun hp => absurd (by decide) hp) | exact (fun _ => ⟨rfl, rfl⟩)); (case k => intro p hp ne np; cases p <;> first | exact (absurd (by decide) hp) | exact (absurd rfl ne) | exact (absurd rfl np) | exact rfl)

theorem countReplicaDropped_only (n : Nat) (s : State) :
    OnlyIn [.lrd] s (countReplicaDropped n s) := by
  unfold countReplicaDropped
  repeat' first
    | with_reducible assumption
    | with_reducible apply OnlyIn.refl
    | (with_reducible apply OnlyIn.ite) <;> intro _
    | (with_reducible apply OnlyIn.lit); (case e => exact rfl); (case h => first | with_reducible assumption | with_reducible apply OnlyIn.refl); (case ev => first | exact (fun hp => absurd (by decide) hp) | exact (fun _ => ⟨rfl, rfl, rfl, rfl, rfl⟩)); (case po => first | exact (fun hp => absurd (by decide) hp) | exact (fun _ => ⟨rfl, rfl⟩)); (case k => intro p hp ne np; cases p <;> first | exact (absurd (by decide) hp) | exact (absurd rfl ne) | exact (absurd rfl np) | exact rfl)

theorem cleanBlocks_only (b n : Nat) (s : State) :
    OnlyIn [.lrd] s (cleanBlocks b n s) := by
  unfold cleanBlocks
  repeat' first
    | with_reducible assumption
    | with_reducible apply OnlyIn.refl
    | (with_reducible apply OnlyIn.ite) <;> intro _
    | (with_reducible apply OnlyIn.lit); (case e => exact rfl); (case h => first | with_reducible assumption | with_reducible apply OnlyIn.refl); (case ev => first | exact (fun hp => absurd (by decide) hp) | exact (fun _ => ⟨rfl, rfl, rfl, rfl, rfl⟩)); (case po => first | exact (fun hp => absurd (by decide) hp) | exact (fun _ => ⟨rfl, rfl⟩)); (case k => intro p hp ne np; cases p <;> first | exact (absurd (by decide) hp) | exact (absurd rfl ne) | exact (absurd rfl np) | exact rfl)

theorem flipCw_only (cw : Nat) (wrong : List (Nat × Nat)) (s : State) :
    OnlyIn [.hbm, .poison] s (flipCw cw wrong s) := by
  unfold flipCw
  repeat' first
    | with_reducible assumption
    | with_reducible apply OnlyIn.refl
    | (with_reducible apply OnlyIn.ite) <;> intro _
    | (extract_lets +onlyGivenNames s; fail_if_success (have : State := s); clear_value s)
    | (with_reducible apply OnlyIn.step (hbmWrite_only _ _ _)); (case q => decide)
    | (with_reducible apply OnlyIn.thenFold_fst); rotate_left; intro _ _
    | (with_reducible apply OnlyIn.thenFold_snd); rotate_left; intro _ _
    | (with_reducible apply OnlyIn.thenFold); rotate_left; intro _ _

theorem correctedHbm_only (n : Nat) (s : State) :
    OnlyIn [.events, .ports, .hbmStacks] s (correctedHbm n s) := by
  unfold correctedHbm
  repeat' first
    | with_reducible assumption
    | with_reducible apply OnlyIn.refl
    | (with_reducible apply OnlyIn.ite) <;> intro _
    | (extract_lets +onlyGivenNames s; fail_if_success (have : State := s); clear_value s)
    | (with_reducible apply OnlyIn.step (raise_only _ _)); (case q => decide)
    | (with_reducible apply OnlyIn.step (stackMod_only _ _ _)); (case q => decide)
    | (with_reducible apply OnlyIn.lit); (case e => exact rfl); (case h => first | with_reducible assumption | with_reducible apply OnlyIn.refl); (case ev => first | exact (fun hp => absurd (by decide) hp) | exact (fun _ => ⟨rfl, rfl, rfl, rfl, rfl⟩)); (case po => first | exact (fun hp => absurd (by decide) hp) | exact (fun _ => ⟨rfl, rfl⟩)); (case k => intro p hp ne np; cases p <;> first | exact (absurd (by decide) hp) | exact (absurd rfl ne) | exact (absurd rfl np) | exact rfl)

theorem poisonHeader_only (cw a : Nat) (s : State) :
    OnlyIn [.hbm, .poison] s (poisonHeader cw a s) := by
  unfold poisonHeader
  repeat' first
    | with_reducible assumption
    | with_reducible apply OnlyIn.refl
    | (with_reducible apply OnlyIn.ite) <;> intro _
    | (with_reducible apply OnlyIn.step (hbmWrite_only _ _ _)); (case q => decide)
    | (with_reducible apply OnlyIn.lit); (case e => exact rfl); (case h => first | with_reducible assumption | with_reducible apply OnlyIn.refl); (case ev => first | exact (fun hp => absurd (by decide) hp) | exact (fun _ => ⟨rfl, rfl, rfl, rfl, rfl⟩)); (case po => first | exact (fun hp => absurd (by decide) hp) | exact (fun _ => ⟨rfl, rfl⟩)); (case k => intro p hp ne np; cases p <;> first | exact (absurd (by decide) hp) | exact (absurd rfl ne) | exact (absurd rfl np) | exact rfl)

theorem markRows_only (cw : Nat) (s : State) :
    OnlyIn [.hbm, .poison] s (markRows cw s) := by
  unfold markRows
  repeat' first
    | with_reducible assumption
    | with_reducible apply OnlyIn.refl
    | (with_reducible apply OnlyIn.ite) <;> intro _
    | (with_reducible apply OnlyIn.step (poisonHeader_only _ _ _)); (case q => decide)
    | (with_reducible apply OnlyIn.thenFold_fst); rotate_left; intro _ _
    | (with_reducible apply OnlyIn.thenFold_snd); rotate_left; intro _ _
    | (with_reducible apply OnlyIn.thenFold); rotate_left; intro _ _

theorem hbmUe_only (e : CwErr) (drop : Bool) (s : State) :
    OnlyIn [.events, .hbm, .poison, .ports, .hbmStacks] s (hbmUe e drop s) := by
  unfold hbmUe
  repeat' first
    | with_reducible assumption
    | with_reducible apply OnlyIn.refl
    | (with_reducible apply OnlyIn.ite) <;> intro _
    | (extract_lets +onlyGivenNames s; fail_if_success (have : State := s); clear_value s)
    | (with_reducible apply OnlyIn.step (raise_only _ _)); (case q => decide)
    | (with_reducible apply OnlyIn.step (stackMod_only _ _ _)); (case q => decide)
    | (with_reducible apply OnlyIn.step (frontDrop_only _ _)); (case q => decide)
    | (with_reducible apply OnlyIn.step (flipCw_only _ _ _)); (case q => decide)
    | (with_reducible apply OnlyIn.step (markRows_only _ _)); (case q => decide)
    | (with_reducible apply OnlyIn.lit); (case e => exact rfl); (case ev => first | exact (fun hp => absurd (by decide) hp) | exact (fun _ => ⟨rfl, rfl, rfl, rfl, rfl⟩)); (case po => first | exact (fun hp => absurd (by decide) hp) | exact (fun _ => ⟨rfl, rfl⟩)); (case k => intro p hp ne np; cases p <;> first | exact (absurd (by decide) hp) | exact (absurd rfl ne) | exact (absurd rfl np) | exact rfl)

theorem fixErrs_only (rs : List (Nat × Nat)) (errs : List CwErr) (s : State) :
    OnlyIn [.events, .hbm, .poison, .ports, .hbmStacks] s (fixErrs rs errs s) := by
  unfold fixErrs
  repeat' first
    | with_reducible assumption
    | with_reducible apply OnlyIn.refl
    | (with_reducible apply OnlyIn.ite) <;> intro _
    | (with_reducible apply OnlyIn.step (flipCw_only _ _ _)); (case q => decide)
    | (with_reducible apply OnlyIn.step (correctedHbm_only _ _)); (case q => decide)
    | (with_reducible apply OnlyIn.thenFold_fst); rotate_left; intro _ _
    | (with_reducible apply OnlyIn.thenFold_snd); rotate_left; intro _ _
    | (with_reducible apply OnlyIn.thenFold); rotate_left; intro _ _
    | split

theorem loseErrs_only (bad : List CwErr) (s : State) :
    OnlyIn [.events, .hbm, .poison, .ports, .hbmStacks] s (loseErrs bad s) := by
  unfold loseErrs
  repeat' first
    | with_reducible assumption
    | with_reducible apply OnlyIn.refl
    | (with_reducible apply OnlyIn.ite) <;> intro _
    | (with_reducible apply OnlyIn.step (hbmUe_only _ _ _)); (case q => decide)
    | (with_reducible apply OnlyIn.thenFold_fst); rotate_left; intro _ _
    | (with_reducible apply OnlyIn.thenFold_snd); rotate_left; intro _ _
    | (with_reducible apply OnlyIn.thenFold); rotate_left; intro _ _

theorem dropLines_only (rs : List (Nat × Nat)) (lines : List Nat) (s : State) :
    OnlyIn [.hbmStacks] s (dropLines rs lines s) := by
  unfold dropLines
  repeat' first
    | with_reducible assumption
    | with_reducible apply OnlyIn.refl
    | (with_reducible apply OnlyIn.ite) <;> intro _
    | (with_reducible apply OnlyIn.step (frontDrop_only _ _)); (case q => decide)
    | (with_reducible apply OnlyIn.thenFold_fst); rotate_left; intro _ _
    | (with_reducible apply OnlyIn.thenFold_snd); rotate_left; intro _ _
    | (with_reducible apply OnlyIn.thenFold); rotate_left; intro _ _

theorem correctedLarder_only (n : Nat) (s : State) :
    OnlyIn [.events, .ports, .lrd] s (correctedLarder n s) := by
  unfold correctedLarder
  repeat' first
    | with_reducible assumption
    | with_reducible apply OnlyIn.refl
    | (with_reducible apply OnlyIn.ite) <;> intro _
    | (extract_lets +onlyGivenNames s; fail_if_success (have : State := s); clear_value s)
    | (with_reducible apply OnlyIn.step (raise_only _ _)); (case q => decide)
    | (with_reducible apply OnlyIn.lit); (case e => exact rfl); (case h => first | with_reducible assumption | with_reducible apply OnlyIn.refl); (case ev => first | exact (fun hp => absurd (by decide) hp) | exact (fun _ => ⟨rfl, rfl, rfl, rfl, rfl⟩)); (case po => first | exact (fun hp => absurd (by decide) hp) | exact (fun _ => ⟨rfl, rfl⟩)); (case k => intro p hp ne np; cases p <;> first | exact (absurd (by decide) hp) | exact (absurd rfl ne) | exact (absurd rfl np) | exact rfl)

end Sys2Proof.Machine
end

