-- ==== Sys2Proof/Laws/FrameRun.lean ====
section
/-! SUPPORT. Which parts of the state each operation may change: Carter and Mill work, the Span packets, gathering, pooling and the backward pass. -/

set_option linter.all false

namespace Sys2Proof.Machine

open Sys2Proof

theorem countPoisons_only (cws : List Nat) (s : State) :
    OnlyIn [.hbmStacks] s (countPoisons cws s) := by
  unfold countPoisons
  repeat' first
    | with_reducible assumption
    | with_reducible apply OnlyIn.refl
    | (with_reducible apply OnlyIn.ite) <;> intro _
    | (with_reducible apply OnlyIn.step (countPoisonRead_only _ _)); (case q => decide)
    | (with_reducible apply OnlyIn.thenFold_fst); rotate_left; intro _ _
    | (with_reducible apply OnlyIn.thenFold_snd); rotate_left; intro _ _
    | (with_reducible apply OnlyIn.thenFold); rotate_left; intro _ _

theorem fromHbm_only (ord i ofs a n elem hint : Nat) (s : State) :
    OnlyIn [.qh, .hbmStacks] s (fromHbm ord i ofs a n elem hint s) := by
  unfold fromHbm
  repeat' first
    | with_reducible assumption
    | with_reducible apply OnlyIn.refl
    | (with_reducible apply OnlyIn.ite) <;> intro _
    | (extract_lets +onlyGivenNames s; fail_if_success (have : State := s); clear_value s)
    | (with_reducible apply OnlyIn.step (streamAt_only _ _ _ _)); (case q => decide)
    | (with_reducible apply OnlyIn.step (frontRead_only _ _ _ _ _)); (case q => decide)
    | (with_reducible apply OnlyIn.step (countPoisons_only _ _)); (case q => decide)
    | (with_reducible apply OnlyIn.lit); (case e => exact rfl); (case h => first | with_reducible assumption | with_reducible apply OnlyIn.refl); (case ev => first | exact (fun hp => absurd (by decide) hp) | exact (fun _ => ⟨rfl, rfl, rfl, rfl, rfl⟩)); (case po => first | exact (fun hp => absurd (by decide) hp) | exact (fun _ => ⟨rfl, rfl⟩)); (case k => intro p hp ne np; cases p <;> first | exact (absurd (by decide) hp) | exact (absurd rfl ne) | exact (absurd rfl np) | exact rfl)

theorem beyondHbm_only (ord i ofs n elem : Nat) (s : State) :
    OnlyIn [.qh] s (beyondHbm ord i ofs n elem s) := by
  unfold beyondHbm
  repeat' first
    | with_reducible assumption
    | with_reducible apply OnlyIn.refl
    | (with_reducible apply OnlyIn.ite) <;> intro _
    | (with_reducible apply OnlyIn.step (streamAt_only _ _ _ _)); (case q => decide)
    | (with_reducible apply OnlyIn.lit); (case e => exact rfl); (case h => first | with_reducible assumption | with_reducible apply OnlyIn.refl); (case ev => first | exact (fun hp => absurd (by decide) hp) | exact (fun _ => ⟨rfl, rfl, rfl, rfl, rfl⟩)); (case po => first | exact (fun hp => absurd (by decide) hp) | exact (fun _ => ⟨rfl, rfl⟩)); (case k => intro p hp ne np; cases p <;> first | exact (absurd (by decide) hp) | exact (absurd rfl ne) | exact (absurd rfl np) | exact rfl)

theorem chunkIn_only (carter ord i : Nat) (x : Stream) (s : State) :
    OnlyIn [.qh, .ports, .hbmStacks, .counts] s (chunkIn carter ord i x s) := by
  unfold chunkIn
  repeat' first
    | with_reducible assumption
    | with_reducible apply OnlyIn.refl
    | (with_reducible apply OnlyIn.ite) <;> intro _
    | (extract_lets +onlyGivenNames s; fail_if_success (have : State := s); clear_value s)
    | (with_reducible apply OnlyIn.step (chipRead_only _ _ _ _)); (case q => decide)
    | (with_reducible apply OnlyIn.step (countEv_only _ _ _ _)); (case q => decide)
    | (with_reducible apply OnlyIn.step (streamAt_only _ _ _ _)); (case q => decide)
    | (with_reducible apply OnlyIn.step (fromHbm_only _ _ _ _ _ _ _ _)); (case q => decide)
    | (with_reducible apply OnlyIn.step (beyondHbm_only _ _ _ _ _ _)); (case q => decide)
    | (with_reducible apply OnlyIn.thenFold_fst); rotate_left; intro _ _
    | (with_reducible apply OnlyIn.thenFold_snd); rotate_left; intro _ _
    | (with_reducible apply OnlyIn.thenFold); rotate_left; intro _ _
    | split
    | (with_reducible apply OnlyIn.lit); (case e => exact rfl); (case h => first | with_reducible assumption | with_reducible apply OnlyIn.refl); (case ev => first | exact (fun hp => absurd (by decide) hp) | exact (fun _ => ⟨rfl, rfl, rfl, rfl, rfl⟩)); (case po => first | exact (fun hp => absurd (by decide) hp) | exact (fun _ => ⟨rfl, rfl⟩)); (case k => intro p hp ne np; cases p <;> first | exact (absurd (by decide) hp) | exact (absurd rfl ne) | exact (absurd rfl np) | exact rfl)

theorem writeElem_only (ord i : Nat) (x : Stream) (e : OutElem) (s : State) :
    OnlyIn [.qh, .ports] s (writeElem ord i x e s) := by
  unfold writeElem
  repeat' first
    | with_reducible assumption
    | with_reducible apply OnlyIn.refl
    | (with_reducible apply OnlyIn.ite) <;> intro _
    | (extract_lets +onlyGivenNames s; fail_if_success (have : State := s); clear_value s)
    | (with_reducible apply OnlyIn.step (chipWrite_only _ _ _ _ _)); (case q => decide)
    | (with_reducible apply OnlyIn.step (bagMod_only _ _ _ _)); (case q => decide)
    | (with_reducible apply OnlyIn.thenFold_fst); rotate_left; intro _ _
    | (with_reducible apply OnlyIn.thenFold_snd); rotate_left; intro _ _
    | (with_reducible apply OnlyIn.thenFold); rotate_left; intro _ _
    | (with_reducible apply OnlyIn.lit); (case e => exact rfl); (case h => first | with_reducible assumption | with_reducible apply OnlyIn.refl); (case ev => first | exact (fun hp => absurd (by decide) hp) | exact (fun _ => ⟨rfl, rfl, rfl, rfl, rfl⟩)); (case po => first | exact (fun hp => absurd (by decide) hp) | exact (fun _ => ⟨rfl, rfl⟩)); (case k => intro p hp ne np; cases p <;> first | exact (absurd (by decide) hp) | exact (absurd rfl ne) | exact (absurd rfl np) | exact rfl)

theorem chunkOut_only (carter ord i : Nat) (x : Stream) (s : State) :
    OnlyIn [.qh, .ports, .counts] s (chunkOut carter ord i x s) := by
  unfold chunkOut
  repeat' first
    | with_reducible assumption
    | with_reducible apply OnlyIn.refl
    | (with_reducible apply OnlyIn.ite) <;> intro _
    | (extract_lets +onlyGivenNames s; fail_if_success (have : State := s); clear_value s)
    | (with_reducible apply OnlyIn.step (countEv_only _ _ _ _)); (case q => decide)
    | (with_reducible apply OnlyIn.step (streamAt_only _ _ _ _)); (case q => decide)
    | (with_reducible apply OnlyIn.step (writeElem_only _ _ _ _ _)); (case q => decide)
    | (with_reducible apply OnlyIn.thenFold_fst); rotate_left; intro _ _
    | (with_reducible apply OnlyIn.thenFold_snd); rotate_left; intro _ _
    | (with_reducible apply OnlyIn.thenFold); rotate_left; intro _ _
    | (with_reducible apply OnlyIn.lit); (case e => exact rfl); (case h => first | with_reducible assumption | with_reducible apply OnlyIn.refl); (case ev => first | exact (fun hp => absurd (by decide) hp) | exact (fun _ => ⟨rfl, rfl, rfl, rfl, rfl⟩)); (case po => first | exact (fun hp => absurd (by decide) hp) | exact (fun _ => ⟨rfl, rfl⟩)); (case k => intro p hp ne np; cases p <;> first | exact (absurd (by decide) hp) | exact (absurd rfl ne) | exact (absurd rfl np) | exact rfl)

theorem xferReadElem_only (ord k : Nat) (x : Xfer) (s : State) :
    OnlyIn [.qh, .ports, .hbmStacks] s (xferReadElem ord k x s) := by
  unfold xferReadElem
  repeat' first
    | with_reducible assumption
    | with_reducible apply OnlyIn.refl
    | (with_reducible apply OnlyIn.ite) <;> intro _
    | (extract_lets +onlyGivenNames s; fail_if_success (have : State := s); clear_value s)
    | (with_reducible apply OnlyIn.step (chipRead_only _ _ _ _)); (case q => decide)
    | (with_reducible apply OnlyIn.step (xferMod_only _ _ _)); (case q => decide)
    | (with_reducible apply OnlyIn.step (frontRead_only _ _ _ _ _)); (case q => decide)
    | (with_reducible apply OnlyIn.step (countPoisons_only _ _)); (case q => decide)
    | (with_reducible apply OnlyIn.thenFold_fst); rotate_left; intro _ _
    | (with_reducible apply OnlyIn.thenFold_snd); rotate_left; intro _ _
    | (with_reducible apply OnlyIn.thenFold); rotate_left; intro _ _
    | split
    | (with_reducible apply OnlyIn.lit); (case e => exact rfl); (case h => first | with_reducible assumption | with_reducible apply OnlyIn.refl); (case ev => first | exact (fun hp => absurd (by decide) hp) | exact (fun _ => ⟨rfl, rfl, rfl, rfl, rfl⟩)); (case po => first | exact (fun hp => absurd (by decide) hp) | exact (fun _ => ⟨rfl, rfl⟩)); (case k => intro p hp ne np; cases p <;> first | exact (absurd (by decide) hp) | exact (absurd rfl ne) | exact (absurd rfl np) | exact rfl)

theorem xferChunkIn_only (carter ord : Nat) (x : Xfer) (s : State) :
    OnlyIn [.qh, .ports, .hbmStacks, .counts] s (xferChunkIn carter ord x s) := by
  unfold xferChunkIn
  repeat' first
    | with_reducible assumption
    | with_reducible apply OnlyIn.refl
    | (with_reducible apply OnlyIn.ite) <;> intro _
    | (extract_lets +onlyGivenNames s; fail_if_success (have : State := s); clear_value s)
    | (with_reducible apply OnlyIn.step (countEv_only _ _ _ _)); (case q => decide)
    | (with_reducible apply OnlyIn.step (xferMod_only _ _ _)); (case q => decide)
    | (with_reducible apply OnlyIn.step (xferReadElem_only _ _ _ _)); (case q => decide)
    | (with_reducible apply OnlyIn.thenFold_fst); rotate_left; intro _ _
    | (with_reducible apply OnlyIn.thenFold_snd); rotate_left; intro _ _
    | (with_reducible apply OnlyIn.thenFold); rotate_left; intro _ _
    | (with_reducible apply OnlyIn.lit); (case e => exact rfl); (case h => first | with_reducible assumption | with_reducible apply OnlyIn.refl); (case ev => first | exact (fun hp => absurd (by decide) hp) | exact (fun _ => ⟨rfl, rfl, rfl, rfl, rfl⟩)); (case po => first | exact (fun hp => absurd (by decide) hp) | exact (fun _ => ⟨rfl, rfl⟩)); (case k => intro p hp ne np; cases p <;> first | exact (absurd (by decide) hp) | exact (absurd rfl ne) | exact (absurd rfl np) | exact rfl)

theorem xferChunkOut_only (carter ord : Nat) (x : Xfer) (bs : List Byte) (s : State) :
    OnlyIn [.qh, .ports, .counts] s (xferChunkOut carter ord x bs s) := by
  unfold xferChunkOut
  repeat' first
    | with_reducible assumption
    | with_reducible apply OnlyIn.refl
    | (with_reducible apply OnlyIn.ite) <;> intro _
    | (extract_lets +onlyGivenNames s; fail_if_success (have : State := s); clear_value s)
    | (with_reducible apply OnlyIn.step (chipWrite_only _ _ _ _ _)); (case q => decide)
    | (with_reducible apply OnlyIn.step (countEv_only _ _ _ _)); (case q => decide)
    | (with_reducible apply OnlyIn.step (xferMod_only _ _ _)); (case q => decide)
    | (with_reducible apply OnlyIn.thenFold_fst); rotate_left; intro _ _
    | (with_reducible apply OnlyIn.thenFold_snd); rotate_left; intro _ _
    | (with_reducible apply OnlyIn.thenFold); rotate_left; intro _ _
    | (with_reducible apply OnlyIn.lit); (case e => exact rfl); (case h => first | with_reducible assumption | with_reducible apply OnlyIn.refl); (case ev => first | exact (fun hp => absurd (by decide) hp) | exact (fun _ => ⟨rfl, rfl, rfl, rfl, rfl⟩)); (case po => first | exact (fun hp => absurd (by decide) hp) | exact (fun _ => ⟨rfl, rfl⟩)); (case k => intro p hp ne np; cases p <;> first | exact (absurd (by decide) hp) | exact (absurd rfl ne) | exact (absurd rfl np) | exact rfl)

theorem carterStep_only (carter ord stream : Nat) (s : State) :
    OnlyIn [.qh, .ports, .hbmStacks, .counts] s (carterStep carter ord stream s) := by
  unfold carterStep
  repeat' first
    | with_reducible assumption
    | with_reducible apply OnlyIn.refl
    | (with_reducible apply OnlyIn.ite) <;> intro _
    | (with_reducible apply OnlyIn.step (chunkIn_only _ _ _ _ _)); (case q => decide)
    | (with_reducible apply OnlyIn.step (chunkOut_only _ _ _ _ _)); (case q => decide)
    | (with_reducible apply OnlyIn.step (xferChunkIn_only _ _ _ _)); (case q => decide)
    | (with_reducible apply OnlyIn.step (xferChunkOut_only _ _ _ _ _)); (case q => decide)
    | split

theorem failElems_only (s : State) (ord stream : Nat) (bad : List CwErr) (t : State) :
    OnlyIn [.qh] t (failElems s ord stream bad t) := by
  unfold failElems
  repeat' first
    | with_reducible apply OnlyIn.refl
    | exact streamAt_only _ _ _ _
    | exact xferMod_only _ _ _
    | split

theorem carterErrs_only (carter ord stream : Nat) (errs : List CwErr) (s : State) :
    OnlyIn [.events, .hbm, .poison, .qh, .ports, .hbmStacks, .counts] s (carterErrs carter ord stream errs s) := by
  unfold carterErrs
  dsimp only
  refine OnlyIn.step (loseErrs_only _ _) (by decide) (OnlyIn.step (failElems_only _ _ _ _ _) (by decide)
    (OnlyIn.step (carterStep_only _ _ _ _) (by decide) ((fixErrs_only _ _ _).mono (by decide))))

theorem forwardGroup_only (ord g : Nat) (r : Run) (i : GroupInfo) (s : State) :
    OnlyIn [.qh] s (forwardGroup ord g r i s) := by
  unfold forwardGroup
  repeat' first
    | with_reducible assumption
    | with_reducible apply OnlyIn.refl
    | (with_reducible apply OnlyIn.ite) <;> intro _
    | (extract_lets +onlyGivenNames s; fail_if_success (have : State := s); clear_value s)
    | (with_reducible apply OnlyIn.step (runMod_only _ _ _)); (case q => decide)
    | with_reducible apply OnlyIn.getD
    | (with_reducible apply OnlyIn.lit); (case e => exact rfl); (case h => first | with_reducible assumption | with_reducible apply OnlyIn.refl); (case ev => first | exact (fun hp => absurd (by decide) hp) | exact (fun _ => ⟨rfl, rfl, rfl, rfl, rfl⟩)); (case po => first | exact (fun hp => absurd (by decide) hp) | exact (fun _ => ⟨rfl, rfl⟩)); (case k => intro p hp ne np; cases p <;> first | exact (absurd (by decide) hp) | exact (absurd rfl ne) | exact (absurd rfl np) | exact rfl)

theorem retire_only (port : Nat) (r : OutReq) (s : State) :
    OnlyIn [.ports] s (retire port r s) := by
  unfold retire
  repeat' first
    | with_reducible assumption
    | with_reducible apply OnlyIn.refl
    | (with_reducible apply OnlyIn.ite) <;> intro _
    | (extract_lets +onlyGivenNames s; fail_if_success (have : State := s); clear_value s)
    | (with_reducible apply OnlyIn.step (pumpPort_only _ _)); (case q => decide)
    | (with_reducible apply OnlyIn.lit); (case e => exact rfl); (case h => first | with_reducible assumption | with_reducible apply OnlyIn.refl); (case ev => first | exact (fun hp => absurd (by decide) hp) | exact (fun _ => ⟨rfl, rfl, rfl, rfl, rfl⟩)); (case po => first | exact (fun hp => absurd (by decide) hp) | exact (fun _ => ⟨rfl, rfl⟩)); (case k => intro p hp ne np; cases p <;> first | exact (absurd (by decide) hp) | exact (absurd rfl ne) | exact (absurd rfl np) | exact rfl)

theorem readDone_only (r : OutReq) (err : Bool) (bs : List Byte) (s : State) :
    OnlyIn [.qh] s (readDone r err bs s) := by
  unfold readDone
  repeat' first
    | with_reducible assumption
    | with_reducible apply OnlyIn.refl
    | (with_reducible apply OnlyIn.ite) <;> intro _
    | (extract_lets +onlyGivenNames s; fail_if_success (have : State := s); clear_value s)
    | (with_reducible apply OnlyIn.step (xferMod_only _ _ _)); (case q => decide)
    | (with_reducible apply OnlyIn.step (streamAt_only _ _ _ _)); (case q => decide)
    | split
    | (with_reducible apply OnlyIn.lit); (case e => exact rfl); (case h => first | with_reducible assumption | with_reducible apply OnlyIn.refl); (case ev => first | exact (fun hp => absurd (by decide) hp) | exact (fun _ => ⟨rfl, rfl, rfl, rfl, rfl⟩)); (case po => first | exact (fun hp => absurd (by decide) hp) | exact (fun _ => ⟨rfl, rfl⟩)); (case k => intro p hp ne np; cases p <;> first | exact (absurd (by decide) hp) | exact (absurd rfl ne) | exact (absurd rfl np) | exact rfl)

theorem tokenDone_only (ord b : Nat) (err : Bool) (s : State) :
    OnlyIn [.qh, .ctr] s (tokenDone ord b err s) := by
  unfold tokenDone
  repeat' first
    | with_reducible assumption
    | with_reducible apply OnlyIn.refl
    | (with_reducible apply OnlyIn.ite) <;> intro _
    | (extract_lets +onlyGivenNames s; fail_if_success (have : State := s); clear_value s)
    | (with_reducible apply OnlyIn.step (bagMod_only _ _ _ _)); (case q => decide)
    | (with_reducible apply OnlyIn.step (closeSample_only _ _ _)); (case q => decide)
    | split
    | (with_reducible apply OnlyIn.lit); (case e => exact rfl); (case h => first | with_reducible assumption | with_reducible apply OnlyIn.refl); (case ev => first | exact (fun hp => absurd (by decide) hp) | exact (fun _ => ⟨rfl, rfl, rfl, rfl, rfl⟩)); (case po => first | exact (fun hp => absurd (by decide) hp) | exact (fun _ => ⟨rfl, rfl⟩)); (case k => intro p hp ne np; cases p <;> first | exact (absurd (by decide) hp) | exact (absurd rfl ne) | exact (absurd rfl np) | exact rfl)

theorem xferDone_only (ord k : Nat) (err : Bool) (s : State) :
    OnlyIn [.qh] s (xferDone ord k err s) := by
  unfold xferDone
  repeat' first
    | with_reducible assumption
    | with_reducible apply OnlyIn.refl
    | (with_reducible apply OnlyIn.ite) <;> intro _
    | (extract_lets +onlyGivenNames s; fail_if_success (have : State := s); clear_value s)
    | (with_reducible apply OnlyIn.step (xferMod_only _ _ _)); (case q => decide)
    | with_reducible apply OnlyIn.getD
    | (with_reducible apply OnlyIn.lit); (case e => exact rfl); (case h => first | with_reducible assumption | with_reducible apply OnlyIn.refl); (case ev => first | exact (fun hp => absurd (by decide) hp) | exact (fun _ => ⟨rfl, rfl, rfl, rfl, rfl⟩)); (case po => first | exact (fun hp => absurd (by decide) hp) | exact (fun _ => ⟨rfl, rfl⟩)); (case k => intro p hp ne np; cases p <;> first | exact (absurd (by decide) hp) | exact (absurd rfl ne) | exact (absurd rfl np) | exact rfl)

theorem resultDone_only (slot : Nat) (err : Bool) (s : State) :
    OnlyIn [.mbx] s (resultDone slot err s) := by
  unfold resultDone
  repeat' first
    | with_reducible assumption
    | with_reducible apply OnlyIn.refl
    | (with_reducible apply OnlyIn.ite) <;> intro _
    | (extract_lets +onlyGivenNames s; fail_if_success (have : State := s); clear_value s)
    | (with_reducible apply OnlyIn.step (post_only _ _)); (case q => decide)
    | split
    | (with_reducible apply OnlyIn.lit); (case e => exact rfl); (case h => first | with_reducible assumption | with_reducible apply OnlyIn.refl); (case ev => first | exact (fun hp => absurd (by decide) hp) | exact (fun _ => ⟨rfl, rfl, rfl, rfl, rfl⟩)); (case po => first | exact (fun hp => absurd (by decide) hp) | exact (fun _ => ⟨rfl, rfl⟩)); (case k => intro p hp ne np; cases p <;> first | exact (absurd (by decide) hp) | exact (absurd rfl ne) | exact (absurd rfl np) | exact rfl)

theorem writeDone_only (r : OutReq) (err : Bool) (s : State) :
    OnlyIn [.mbx, .clerk, .qh, .ports, .hbmStacks, .ctr] s (writeDone r err s) := by
  unfold writeDone
  repeat' first
    | with_reducible assumption
    | with_reducible apply OnlyIn.refl
    | (with_reducible apply OnlyIn.ite) <;> intro _
    | (with_reducible apply OnlyIn.step (logOpen_only _ _ _)); (case q => decide)
    | (with_reducible apply OnlyIn.step (clerkResult_only _ _ _ _ _ _ _)); (case q => decide)
    | (with_reducible apply OnlyIn.step (tokenDone_only _ _ _ _)); (case q => decide)
    | (with_reducible apply OnlyIn.step (xferDone_only _ _ _ _)); (case q => decide)
    | (with_reducible apply OnlyIn.step (resultDone_only _ _ _)); (case q => decide)
    | split

theorem countCell_only (s : State) :
    OnlyIn [.events, .qh, .ports] s (countCell s) := by
  unfold countCell
  repeat' first
    | with_reducible assumption
    | with_reducible apply OnlyIn.refl
    | (with_reducible apply OnlyIn.ite) <;> intro _
    | (with_reducible apply OnlyIn.step (raise_only _ _)); (case q => decide)
    | (with_reducible apply OnlyIn.lit); (case e => exact rfl); (case h => first | with_reducible assumption | with_reducible apply OnlyIn.refl); (case ev => first | exact (fun hp => absurd (by decide) hp) | exact (fun _ => ⟨rfl, rfl, rfl, rfl, rfl⟩)); (case po => first | exact (fun hp => absurd (by decide) hp) | exact (fun _ => ⟨rfl, rfl⟩)); (case k => intro p hp ne np; cases p <;> first | exact (absurd (by decide) hp) | exact (absurd rfl ne) | exact (absurd rfl np) | exact rfl)

theorem finishRun_only (r : Run) (duration : Nat) (s : State) :
    OnlyIn [.block, .tables, .moves, .qh, .lrd] s (finishRun r duration s) := by
  unfold finishRun
  repeat' first
    | with_reducible assumption
    | with_reducible apply OnlyIn.refl
    | (with_reducible apply OnlyIn.ite) <;> intro _
    | (extract_lets +onlyGivenNames s; fail_if_success (have : State := s); clear_value s)
    | (with_reducible apply OnlyIn.step (settle_only _)); (case q => decide)
    | (with_reducible apply OnlyIn.step (dropRef_only _ _ _)); (case q => decide)
    | (with_reducible apply OnlyIn.step (putRecord_only _ _ _ _)); (case q => decide)
    | (with_reducible apply OnlyIn.lit); (case e => exact rfl); (case ev => first | exact (fun hp => absurd (by decide) hp) | exact (fun _ => ⟨rfl, rfl, rfl, rfl, rfl⟩)); (case po => first | exact (fun hp => absurd (by decide) hp) | exact (fun _ => ⟨rfl, rfl⟩)); (case k => intro p hp ne np; cases p <;> first | exact (absurd (by decide) hp) | exact (absurd rfl ne) | exact (absurd rfl np) | exact rfl)

theorem logDrop_only (key : RowKey) (step : Nat) (why : DropReason) (s : State) :
    OnlyIn [.ldg] s (logDrop key step why s) := by
  unfold logDrop
  repeat' first
    | with_reducible assumption
    | with_reducible apply OnlyIn.refl
    | (with_reducible apply OnlyIn.ite) <;> intro _
    | (with_reducible apply OnlyIn.lit); (case e => exact rfl); (case h => first | with_reducible assumption | with_reducible apply OnlyIn.refl); (case ev => first | exact (fun hp => absurd (by decide) hp) | exact (fun _ => ⟨rfl, rfl, rfl, rfl, rfl⟩)); (case po => first | exact (fun hp => absurd (by decide) hp) | exact (fun _ => ⟨rfl, rfl⟩)); (case k => intro p hp ne np; cases p <;> first | exact (absurd (by decide) hp) | exact (absurd rfl ne) | exact (absurd rfl np) | exact rfl)

theorem dropPartial_only (key : RowKey) (step : Nat) (why : DropReason) (s : State) :
    OnlyIn [.ldg] s (dropPartial key step why s) := by
  unfold dropPartial
  repeat' first
    | with_reducible assumption
    | with_reducible apply OnlyIn.refl
    | (with_reducible apply OnlyIn.ite) <;> intro _
    | (with_reducible apply OnlyIn.step (logDrop_only _ _ _ _)); (case q => decide)
    | (with_reducible apply OnlyIn.lit); (case e => exact rfl); (case h => first | with_reducible assumption | with_reducible apply OnlyIn.refl); (case ev => first | exact (fun hp => absurd (by decide) hp) | exact (fun _ => ⟨rfl, rfl, rfl, rfl, rfl⟩)); (case po => first | exact (fun hp => absurd (by decide) hp) | exact (fun _ => ⟨rfl, rfl⟩)); (case k => intro p hp ne np; cases p <;> first | exact (absurd (by decide) hp) | exact (absurd rfl ne) | exact (absurd rfl np) | exact rfl)

theorem refusePartial_only (key : RowKey) (step : Nat) (s : State) :
    OnlyIn [.ldg] s (refusePartial key step s) := by
  unfold refusePartial
  repeat' first
    | with_reducible assumption
    | with_reducible apply OnlyIn.refl
    | (with_reducible apply OnlyIn.ite) <;> intro _
    | (with_reducible apply OnlyIn.step (logDrop_only _ _ _ _)); (case q => decide)
    | (with_reducible apply OnlyIn.lit); (case e => exact rfl); (case h => first | with_reducible assumption | with_reducible apply OnlyIn.refl); (case ev => first | exact (fun hp => absurd (by decide) hp) | exact (fun _ => ⟨rfl, rfl, rfl, rfl, rfl⟩)); (case po => first | exact (fun hp => absurd (by decide) hp) | exact (fun _ => ⟨rfl, rfl⟩)); (case k => intro p hp ne np; cases p <;> first | exact (absurd (by decide) hp) | exact (absurd rfl ne) | exact (absurd rfl np) | exact rfl)

theorem portMod_only (p : Nat) (f : Port → Port) (s : State) :
    OnlyIn [.span] s (portMod p f s) := by
  unfold portMod
  repeat' first
    | with_reducible assumption
    | with_reducible apply OnlyIn.refl
    | (with_reducible apply OnlyIn.ite) <;> intro _
    | (with_reducible apply OnlyIn.lit); (case e => exact rfl); (case h => first | with_reducible assumption | with_reducible apply OnlyIn.refl); (case ev => first | exact (fun hp => absurd (by decide) hp) | exact (fun _ => ⟨rfl, rfl, rfl, rfl, rfl⟩)); (case po => first | exact (fun hp => absurd (by decide) hp) | exact (fun _ => ⟨rfl, rfl⟩)); (case k => intro p hp ne np; cases p <;> first | exact (absurd (by decide) hp) | exact (absurd rfl ne) | exact (absurd rfl np) | exact rfl)

theorem noteLocalMax_only (tid step : Nat) (shift : Int) (s : State) :
    OnlyIn [.ldg] s (noteLocalMax tid step shift s) := by
  unfold noteLocalMax
  repeat' first
    | with_reducible assumption
    | with_reducible apply OnlyIn.refl
    | (with_reducible apply OnlyIn.ite) <;> intro _
    | (extract_lets +onlyGivenNames s; fail_if_success (have : State := s); clear_value s)
    | with_reducible apply OnlyIn.getD
    | (with_reducible apply OnlyIn.lit); (case e => exact rfl); (case h => first | with_reducible assumption | with_reducible apply OnlyIn.refl); (case ev => first | exact (fun hp => absurd (by decide) hp) | exact (fun _ => ⟨rfl, rfl, rfl, rfl, rfl⟩)); (case po => first | exact (fun hp => absurd (by decide) hp) | exact (fun _ => ⟨rfl, rfl⟩)); (case k => intro p hp ne np; cases p <;> first | exact (absurd (by decide) hp) | exact (absurd rfl ne) | exact (absurd rfl np) | exact rfl)

theorem countClamps_only (tid n : Nat) (s : State) :
    OnlyIn [.events, .ports, .asy] s (countClamps tid n s) := by
  unfold countClamps
  repeat' first
    | with_reducible assumption
    | with_reducible apply OnlyIn.refl
    | (with_reducible apply OnlyIn.ite) <;> intro _
    | (with_reducible apply OnlyIn.step (asyMod_only _ _ _)); (case q => decide)
    | (with_reducible apply OnlyIn.step (satCheck_only _ _)); (case q => decide)
    | (with_reducible apply OnlyIn.lit); (case e => exact rfl); (case h => first | with_reducible assumption | with_reducible apply OnlyIn.refl); (case ev => first | exact (fun hp => absurd (by decide) hp) | exact (fun _ => ⟨rfl, rfl, rfl, rfl, rfl⟩)); (case po => first | exact (fun hp => absurd (by decide) hp) | exact (fun _ => ⟨rfl, rfl⟩)); (case k => intro p hp ne np; cases p <;> first | exact (absurd (by decide) hp) | exact (absurd rfl ne) | exact (absurd rfl np) | exact rfl)

theorem oweCells_only (l : List (Nat × Nat × Nat)) (s : State) :
    OnlyIn [.span] s (oweCells l s) := by
  unfold oweCells
  repeat' first
    | with_reducible assumption
    | with_reducible apply OnlyIn.refl
    | (with_reducible apply OnlyIn.ite) <;> intro _
    | (with_reducible apply OnlyIn.step (portMod_only _ _ _)); (case q => decide)
    | (with_reducible apply OnlyIn.thenFold_fst); rotate_left; intro _ _
    | (with_reducible apply OnlyIn.thenFold_snd); rotate_left; intro _ _
    | (with_reducible apply OnlyIn.thenFold); rotate_left; intro _ _
    | (with_reducible apply OnlyIn.lit); (case e => exact rfl); (case h => first | with_reducible assumption | with_reducible apply OnlyIn.refl); (case ev => first | exact (fun hp => absurd (by decide) hp) | exact (fun _ => ⟨rfl, rfl, rfl, rfl, rfl⟩)); (case po => first | exact (fun hp => absurd (by decide) hp) | exact (fun _ => ⟨rfl, rfl⟩)); (case k => intro p hp ne np; cases p <;> first | exact (absurd (by decide) hp) | exact (absurd rfl ne) | exact (absurd rfl np) | exact rfl)

theorem joinQueue_only (lent : List (Nat × Nat × Nat)) (port : Nat) (k : Packet) (s : State) :
    OnlyIn [.events, .ports, .ldg, .asy, .span, .counts] s (joinQueue lent port k s) := by
  unfold joinQueue
  repeat' first
    | with_reducible assumption
    | with_reducible apply OnlyIn.refl
    | (with_reducible apply OnlyIn.ite) <;> intro _
    | (extract_lets +onlyGivenNames s; fail_if_success (have : State := s); clear_value s)
    | (with_reducible apply OnlyIn.step (asyMod_only _ _ _)); (case q => decide)
    | (with_reducible apply OnlyIn.step (countEv_only _ _ _ _)); (case q => decide)
    | (with_reducible apply OnlyIn.step (portMod_only _ _ _)); (case q => decide)
    | (with_reducible apply OnlyIn.step (noteLocalMax_only _ _ _ _)); (case q => decide)
    | (with_reducible apply OnlyIn.step (countClamps_only _ _ _)); (case q => decide)
    | (with_reducible apply OnlyIn.step (oweCells_only _ _)); (case q => decide)
    | split
    | (with_reducible apply OnlyIn.lit); (case e => exact rfl); (case h => first | with_reducible assumption | with_reducible apply OnlyIn.refl); (case ev => first | exact (fun hp => absurd (by decide) hp) | exact (fun _ => ⟨rfl, rfl, rfl, rfl, rfl⟩)); (case po => first | exact (fun hp => absurd (by decide) hp) | exact (fun _ => ⟨rfl, rfl⟩)); (case k => intro p hp ne np; cases p <;> first | exact (absurd (by decide) hp) | exact (absurd rfl ne) | exact (absurd rfl np) | exact rfl)

theorem deliver_only (k : Packet) (s : State) :
    OnlyIn [.span] s (deliver k s) := by
  unfold deliver
  repeat' first
    | with_reducible assumption
    | with_reducible apply OnlyIn.refl
    | (with_reducible apply OnlyIn.ite) <;> intro _
    | (with_reducible apply OnlyIn.step (portMod_only _ _ _)); (case q => decide)
    | (with_reducible apply OnlyIn.lit); (case e => exact rfl); (case h => first | with_reducible assumption | with_reducible apply OnlyIn.refl); (case ev => first | exact (fun hp => absurd (by decide) hp) | exact (fun _ => ⟨rfl, rfl, rfl, rfl, rfl⟩)); (case po => first | exact (fun hp => absurd (by decide) hp) | exact (fun _ => ⟨rfl, rfl⟩)); (case k => intro p hp ne np; cases p <;> first | exact (absurd (by decide) hp) | exact (absurd rfl ne) | exact (absurd rfl np) | exact rfl)

theorem noteAbsent_only (d : Nat) (s : State) :
    OnlyIn [.events, .ports, .span] s (noteAbsent d s) := by
  unfold noteAbsent
  repeat' first
    | with_reducible assumption
    | with_reducible apply OnlyIn.refl
    | (with_reducible apply OnlyIn.ite) <;> intro _
    | (extract_lets +onlyGivenNames s; fail_if_success (have : State := s); clear_value s)
    | (with_reducible apply OnlyIn.step (raise_only _ _)); (case q => decide)
    | (with_reducible apply OnlyIn.lit); (case e => exact rfl); (case h => first | with_reducible assumption | with_reducible apply OnlyIn.refl); (case ev => first | exact (fun hp => absurd (by decide) hp) | exact (fun _ => ⟨rfl, rfl, rfl, rfl, rfl⟩)); (case po => first | exact (fun hp => absurd (by decide) hp) | exact (fun _ => ⟨rfl, rfl⟩)); (case k => intro p hp ne np; cases p <;> first | exact (absurd (by decide) hp) | exact (absurd rfl ne) | exact (absurd rfl np) | exact rfl)

theorem trySendFrom_only (lent : List (Nat × Nat × Nat)) (k : Packet) (s : State) :
    OptIn (fun b => b) [.events, .ports, .ldg, .asy, .span, .counts] s (trySendFrom lent k s) := by
  unfold trySendFrom
  repeat' first
    | with_reducible assumption
    | with_reducible apply OnlyIn.refl
    | (with_reducible apply OnlyIn.ite) <;> intro _
    | with_reducible apply OptIn.none
    | (with_reducible apply OptIn.ite) <;> intro _
    | (with_reducible apply OptIn.some); try dsimp only
    | (with_reducible apply OptIn.map); intro _ _; try dsimp only
    | (with_reducible apply OnlyIn.step (oweCells_only _ _)); (case q => decide)
    | (with_reducible apply OnlyIn.step (joinQueue_only _ _ _ _)); (case q => decide)
    | (with_reducible apply OnlyIn.step (deliver_only _ _)); (case q => decide)

theorem trySend_only (k : Packet) (s : State) :
    OptIn (fun b => b) [.events, .ports, .ldg, .asy, .span, .counts] s (trySend k s) := by
  unfold trySend
  repeat' first
    | with_reducible assumption
    | with_reducible apply OnlyIn.refl
    | (with_reducible apply OnlyIn.ite) <;> intro _
    | with_reducible apply OptIn.none
    | (with_reducible apply OptIn.ite) <;> intro _
    | (with_reducible apply OptIn.some); try dsimp only
    | (with_reducible apply OptIn.map); intro _ _; try dsimp only
    | (with_reducible apply OptIn.step (trySendFrom_only _ _ _)); (case q => decide)
    | ((with_reducible apply OnlyIn.step (((trySendFrom_only _ _ _)).only _ (by assumption)))); (case q => decide)

theorem unreachable_only (k : Packet) (s : State) :
    OnlyIn [.events, .ports, .ldg, .asy, .span, .counts] s (unreachable k s) := by
  unfold unreachable
  repeat' first
    | with_reducible assumption
    | with_reducible apply OnlyIn.refl
    | (with_reducible apply OnlyIn.ite) <;> intro _
    | (extract_lets +onlyGivenNames s; fail_if_success (have : State := s); clear_value s)
    | (with_reducible apply OnlyIn.step (refusePartial_only _ _ _)); (case q => decide)
    | (with_reducible apply OnlyIn.step (noteAbsent_only _ _)); (case q => decide)
    | (with_reducible apply OptIn.step (trySend_only _ _)); (case q => decide)
    | ((with_reducible apply OnlyIn.step (((trySend_only _ _)).only _ (by assumption)))); (case q => decide)
    | split
    | with_reducible apply OnlyIn.getD
    | (with_reducible apply OnlyIn.lit); (case e => exact rfl); (case ev => first | exact (fun hp => absurd (by decide) hp) | exact (fun _ => ⟨rfl, rfl, rfl, rfl, rfl⟩)); (case po => first | exact (fun hp => absurd (by decide) hp) | exact (fun _ => ⟨rfl, rfl⟩)); (case k => intro p hp ne np; cases p <;> first | exact (absurd (by decide) hp) | exact (absurd rfl ne) | exact (absurd rfl np) | exact rfl)

theorem relay_only (k : Packet) (s : State) :
    OnlyIn [.events, .ports, .ldg, .asy, .span, .counts] s (relay k s) := by
  unfold relay
  repeat' first
    | with_reducible assumption
    | with_reducible apply OnlyIn.refl
    | (with_reducible apply OnlyIn.ite) <;> intro _
    | (with_reducible apply OptIn.step (trySend_only _ _)); (case q => decide)
    | ((with_reducible apply OnlyIn.step (((trySend_only _ _)).only _ (by assumption)))); (case q => decide)
    | (with_reducible apply OnlyIn.step (unreachable_only _ _)); (case q => decide)
    | with_reducible apply OnlyIn.getD

theorem sendOwn_only (dest : Nat) (b : PktBody) (s : State) :
    OnlyIn [.events, .ports, .ldg, .asy, .span, .counts] s (sendOwn dest b s) := by
  unfold sendOwn
  repeat' first
    | with_reducible assumption
    | with_reducible apply OnlyIn.refl
    | (with_reducible apply OnlyIn.ite) <;> intro _
    | (with_reducible apply OnlyIn.step (relay_only _ _)); (case q => decide)

theorem millMod_only (c m : Nat) (f : Mill → Mill) (s : State) :
    OnlyIn [.cols] s (millMod c m f s) := by
  unfold millMod
  repeat' first
    | with_reducible assumption
    | with_reducible apply OnlyIn.refl
    | (with_reducible apply OnlyIn.ite) <;> intro _
    | (with_reducible apply OnlyIn.step (colMod_only _ _ _)); (case q => decide)
    | (with_reducible apply OnlyIn.lit); (case e => exact rfl); (case h => first | with_reducible assumption | with_reducible apply OnlyIn.refl); (case ev => first | exact (fun hp => absurd (by decide) hp) | exact (fun _ => ⟨rfl, rfl, rfl, rfl, rfl⟩)); (case po => first | exact (fun hp => absurd (by decide) hp) | exact (fun _ => ⟨rfl, rfl⟩)); (case k => intro p hp ne np; cases p <;> first | exact (absurd (by decide) hp) | exact (absurd rfl ne) | exact (absurd rfl np) | exact rfl)

theorem setWork_only (c m : Nat) (w : Option BagWork) (s : State) :
    OnlyIn [.cols] s (setWork c m w s) := by
  unfold setWork
  repeat' first
    | with_reducible assumption
    | with_reducible apply OnlyIn.refl
    | (with_reducible apply OnlyIn.ite) <;> intro _
    | (with_reducible apply OnlyIn.step (millMod_only _ _ _ _)); (case q => decide)
    | (with_reducible apply OnlyIn.lit); (case e => exact rfl); (case h => first | with_reducible assumption | with_reducible apply OnlyIn.refl); (case ev => first | exact (fun hp => absurd (by decide) hp) | exact (fun _ => ⟨rfl, rfl, rfl, rfl, rfl⟩)); (case po => first | exact (fun hp => absurd (by decide) hp) | exact (fun _ => ⟨rfl, rfl⟩)); (case k => intro p hp ne np; cases p <;> first | exact (absurd (by decide) hp) | exact (absurd rfl ne) | exact (absurd rfl np) | exact rfl)

theorem freeMill_only (c m : Nat) (s : State) :
    OnlyIn [.cols, .span] s (freeMill c m s) := by
  unfold freeMill
  repeat' first
    | with_reducible assumption
    | with_reducible apply OnlyIn.refl
    | (with_reducible apply OnlyIn.ite) <;> intro _
    | (with_reducible apply OnlyIn.step (dropReads_only _ _)); (case q => decide)
    | (with_reducible apply OnlyIn.step (millMod_only _ _ _ _)); (case q => decide)
    | (with_reducible apply OnlyIn.lit); (case e => exact rfl); (case h => first | with_reducible assumption | with_reducible apply OnlyIn.refl); (case ev => first | exact (fun hp => absurd (by decide) hp) | exact (fun _ => ⟨rfl, rfl, rfl, rfl, rfl⟩)); (case po => first | exact (fun hp => absurd (by decide) hp) | exact (fun _ => ⟨rfl, rfl⟩)); (case k => intro p hp ne np; cases p <;> first | exact (absurd (by decide) hp) | exact (absurd rfl ne) | exact (absurd rfl np) | exact rfl)

theorem failOn_only (c m : Nat) (w : BagWork) (st : Status) (s : State) :
    OnlyIn [.qh, .cols, .span, .ctr] s (failOn c m w st s) := by
  unfold failOn
  repeat' first
    | with_reducible assumption
    | with_reducible apply OnlyIn.refl
    | (with_reducible apply OnlyIn.ite) <;> intro _
    | (with_reducible apply OnlyIn.step (failBag_only _ _ _ _)); (case q => decide)
    | (with_reducible apply OnlyIn.step (freeMill_only _ _ _)); (case q => decide)

theorem afterBag_only (ord : Nat) (s : State) :
    OnlyIn [.cols] s (afterBag ord s) := by
  unfold afterBag
  repeat' first
    | with_reducible assumption
    | with_reducible apply OnlyIn.refl
    | (with_reducible apply OnlyIn.ite) <;> intro _
    | (with_reducible apply OnlyIn.step (flushFor_only _ _)); (case q => decide)
    | split

theorem tagBag_only (r : Run) (c b : Nat) (s : State) :
    OnlyIn [.ctr] s (tagBag r c b s) := by
  unfold tagBag
  repeat' first
    | with_reducible assumption
    | with_reducible apply OnlyIn.refl
    | (with_reducible apply OnlyIn.ite) <;> intro _
    | (extract_lets +onlyGivenNames s; fail_if_success (have : State := s); clear_value s)
    | (with_reducible apply OnlyIn.lit); (case e => exact rfl); (case ev => first | exact (fun hp => absurd (by decide) hp) | exact (fun _ => ⟨rfl, rfl, rfl, rfl, rfl⟩)); (case po => first | exact (fun hp => absurd (by decide) hp) | exact (fun _ => ⟨rfl, rfl⟩)); (case k => intro p hp ne np; cases p <;> first | exact (absurd (by decide) hp) | exact (absurd rfl ne) | exact (absurd rfl np) | exact rfl)

theorem setFilter_only (key : RowKey) (step : Nat) (s : State) :
    OnlyIn [.ldg] s (setFilter key step s) := by
  unfold setFilter
  repeat' first
    | with_reducible assumption
    | with_reducible apply OnlyIn.refl
    | (with_reducible apply OnlyIn.ite) <;> intro _
    | (extract_lets +onlyGivenNames s; fail_if_success (have : State := s); clear_value s)
    | (with_reducible apply OnlyIn.lit); (case e => exact rfl); (case h => first | with_reducible assumption | with_reducible apply OnlyIn.refl); (case ev => first | exact (fun hp => absurd (by decide) hp) | exact (fun _ => ⟨rfl, rfl, rfl, rfl, rfl⟩)); (case po => first | exact (fun hp => absurd (by decide) hp) | exact (fun _ => ⟨rfl, rfl⟩)); (case k => intro p hp ne np; cases p <;> first | exact (absurd (by decide) hp) | exact (absurd rfl ne) | exact (absurd rfl np) | exact rfl)

theorem meetFilter_only (key : RowKey) (step : Nat) (s : State) :
    OnlyIn [.events, .ports, .ldg, .lrd] s (meetFilter key step s) := by
  unfold meetFilter
  repeat' first
    | with_reducible assumption
    | with_reducible apply OnlyIn.refl
    | (with_reducible apply OnlyIn.ite) <;> intro _
    | (extract_lets +onlyGivenNames s; fail_if_success (have : State := s); clear_value s)
    | (with_reducible apply OnlyIn.step (larderUe_only _ _)); (case q => decide)
    | (with_reducible apply OnlyIn.step (setFilter_only _ _ _)); (case q => decide)
    | (with_reducible apply OnlyIn.lit); (case e => exact rfl); (case ev => first | exact (fun hp => absurd (by decide) hp) | exact (fun _ => ⟨rfl, rfl, rfl, rfl, rfl⟩)); (case po => first | exact (fun hp => absurd (by decide) hp) | exact (fun _ => ⟨rfl, rfl⟩)); (case k => intro p hp ne np; cases p <;> first | exact (absurd (by decide) hp) | exact (absurd rfl ne) | exact (absurd rfl np) | exact rfl)

theorem meetFilters_only (key : RowKey) (before : Option Nat) (s : State) :
    OnlyIn [.events, .ports, .ldg, .lrd] s (meetFilters key before s) := by
  unfold meetFilters
  repeat' first
    | with_reducible assumption
    | with_reducible apply OnlyIn.refl
    | (with_reducible apply OnlyIn.ite) <;> intro _
    | (extract_lets +onlyGivenNames s; fail_if_success (have : State := s); clear_value s)
    | (with_reducible apply OnlyIn.step (meetFilter_only _ _ _)); (case q => decide)
    | split

theorem fillSieve_only (c : Nat) (s : State) :
    OnlyIn [.cols] s (fillSieve c s) := by
  unfold fillSieve
  repeat' first
    | with_reducible assumption
    | with_reducible apply OnlyIn.refl
    | (with_reducible apply OnlyIn.ite) <;> intro _
    | (extract_lets +onlyGivenNames s; fail_if_success (have : State := s); clear_value s)
    | (with_reducible apply OnlyIn.step (colMod_only _ _ _)); (case q => decide)
    | with_reducible apply OnlyIn.getD
    | (with_reducible apply OnlyIn.lit); (case e => exact rfl); (case h => first | with_reducible assumption | with_reducible apply OnlyIn.refl); (case ev => first | exact (fun hp => absurd (by decide) hp) | exact (fun _ => ⟨rfl, rfl, rfl, rfl, rfl⟩)); (case po => first | exact (fun hp => absurd (by decide) hp) | exact (fun _ => ⟨rfl, rfl⟩)); (case k => intro p hp ne np; cases p <;> first | exact (absurd (by decide) hp) | exact (absurd rfl ne) | exact (absurd rfl np) | exact rfl)

theorem useWindow_only (c : Nat) (x : Option SieveKey) (s : State) :
    OnlyIn [.cols] s (useWindow c x s) := by
  unfold useWindow
  repeat' first
    | with_reducible assumption
    | with_reducible apply OnlyIn.refl
    | (with_reducible apply OnlyIn.ite) <;> intro _
    | (with_reducible apply OnlyIn.step (colMod_only _ _ _)); (case q => decide)
    | (with_reducible apply OnlyIn.lit); (case e => exact rfl); (case h => first | with_reducible assumption | with_reducible apply OnlyIn.refl); (case ev => first | exact (fun hp => absurd (by decide) hp) | exact (fun _ => ⟨rfl, rfl, rfl, rfl, rfl⟩)); (case po => first | exact (fun hp => absurd (by decide) hp) | exact (fun _ => ⟨rfl, rfl⟩)); (case k => intro p hp ne np; cases p <;> first | exact (absurd (by decide) hp) | exact (absurd rfl ne) | exact (absurd rfl np) | exact rfl)

theorem pinMod_only (col : Nat) (k : SieveKey) (f : Pin → Pin) (s : State) :
    OnlyIn [.cols] s (pinMod col k f s) := by
  unfold pinMod
  repeat' first
    | with_reducible assumption
    | with_reducible apply OnlyIn.refl
    | (with_reducible apply OnlyIn.ite) <;> intro _
    | (with_reducible apply OnlyIn.step (colMod_only _ _ _)); (case q => decide)
    | (with_reducible apply OnlyIn.lit); (case e => exact rfl); (case h => first | with_reducible assumption | with_reducible apply OnlyIn.refl); (case ev => first | exact (fun hp => absurd (by decide) hp) | exact (fun _ => ⟨rfl, rfl, rfl, rfl, rfl⟩)); (case po => first | exact (fun hp => absurd (by decide) hp) | exact (fun _ => ⟨rfl, rfl⟩)); (case k => intro p hp ne np; cases p <;> first | exact (absurd (by decide) hp) | exact (absurd rfl ne) | exact (absurd rfl np) | exact rfl)

theorem freePin_only (col : Nat) (k : SieveKey) (s : State) :
    OnlyIn [.cols] s (freePin col k s) := by
  unfold freePin
  repeat' first
    | with_reducible assumption
    | with_reducible apply OnlyIn.refl
    | (with_reducible apply OnlyIn.ite) <;> intro _
    | (with_reducible apply OnlyIn.step (colMod_only _ _ _)); (case q => decide)
    | (with_reducible apply OnlyIn.lit); (case e => exact rfl); (case h => first | with_reducible assumption | with_reducible apply OnlyIn.refl); (case ev => first | exact (fun hp => absurd (by decide) hp) | exact (fun _ => ⟨rfl, rfl, rfl, rfl, rfl⟩)); (case po => first | exact (fun hp => absurd (by decide) hp) | exact (fun _ => ⟨rfl, rfl⟩)); (case k => intro p hp ne np; cases p <;> first | exact (absurd (by decide) hp) | exact (absurd rfl ne) | exact (absurd rfl np) | exact rfl)

theorem colEvent_only (c code n : Nat) (spec : Bool) (w : BagWork) (s : State) :
    OnlyIn [.counts] s (colEvent c code n spec w s).2 := by
  unfold colEvent
  repeat' first
    | with_reducible assumption
    | with_reducible apply OnlyIn.refl
    | (with_reducible apply OnlyIn.ite) <;> intro _
    | (with_reducible apply OnlyIn.step (countEv_only _ _ _ _)); (case q => decide)
    | with_reducible apply OnlyIn.ite_snd
    | (with_reducible apply OnlyIn.lit); (case e => exact rfl); (case h => first | with_reducible assumption | with_reducible apply OnlyIn.refl); (case ev => first | exact (fun hp => absurd (by decide) hp) | exact (fun _ => ⟨rfl, rfl, rfl, rfl, rfl⟩)); (case po => first | exact (fun hp => absurd (by decide) hp) | exact (fun _ => ⟨rfl, rfl⟩)); (case k => intro p hp ne np; cases p <;> first | exact (absurd (by decide) hp) | exact (absurd rfl ne) | exact (absurd rfl np) | exact rfl)

theorem countLookup_only (col : Nat) (r : Run) (w : BagWork) (src : Option RowSource) (k : Option SieveKey) (s : State) :
    OnlyIn [.cols, .counts] s (countLookup col r w src k s).2 := by
  unfold countLookup
  repeat' first
    | with_reducible assumption
    | with_reducible apply OnlyIn.refl
    | (with_reducible apply OnlyIn.ite) <;> intro _
    | (extract_lets +onlyGivenNames s; fail_if_success (have : State := s); clear_value s)
    | (with_reducible apply OnlyIn.step (useWindow_only _ _ _)); (case q => decide)
    | (with_reducible apply OnlyIn.step (colEvent_only _ _ _ _ _ _)); (case q => decide)
    | (apply OnlyIn.step (OnlyIn.of_snd (by assumption) (colEvent_only _ _ _ _ _ _))); (case q => decide)
    | split
    | with_reducible apply OnlyIn.ite_snd
    | (with_reducible apply OnlyIn.lit); (case e => exact rfl); (case h => first | with_reducible assumption | with_reducible apply OnlyIn.refl); (case ev => first | exact (fun hp => absurd (by decide) hp) | exact (fun _ => ⟨rfl, rfl, rfl, rfl, rfl⟩)); (case po => first | exact (fun hp => absurd (by decide) hp) | exact (fun _ => ⟨rfl, rfl⟩)); (case k => intro p hp ne np; cases p <;> first | exact (absurd (by decide) hp) | exact (absurd rfl ne) | exact (absurd rfl np) | exact rfl)

theorem againPiece_only (ord i : Nat) (x : Stream) (v : ChipView) (p : Nat × Nat × Nat) (s : State) :
    OnlyIn [.qh, .hbmStacks] s (againPiece ord i x v p s) := by
  unfold againPiece
  repeat' first
    | with_reducible assumption
    | with_reducible apply OnlyIn.refl
    | (with_reducible apply OnlyIn.ite) <;> intro _
    | (with_reducible apply OnlyIn.step (streamAt_only _ _ _ _)); (case q => decide)
    | (with_reducible apply OnlyIn.step (fromHbm_only _ _ _ _ _ _ _ _)); (case q => decide)
    | (with_reducible apply OnlyIn.step (beyondHbm_only _ _ _ _ _ _)); (case q => decide)
    | split
    | (with_reducible apply OnlyIn.lit); (case e => exact rfl); (case h => first | with_reducible assumption | with_reducible apply OnlyIn.refl); (case ev => first | exact (fun hp => absurd (by decide) hp) | exact (fun _ => ⟨rfl, rfl, rfl, rfl, rfl⟩)); (case po => first | exact (fun hp => absurd (by decide) hp) | exact (fun _ => ⟨rfl, rfl⟩)); (case k => intro p hp ne np; cases p <;> first | exact (absurd (by decide) hp) | exact (absurd rfl ne) | exact (absurd rfl np) | exact rfl)

theorem againStream_only (ord i k n : Nat) (x : Stream) (v : ChipView) (s : State) :
    OnlyIn [.qh, .hbmStacks] s (againStream ord i k n x v s) := by
  unfold againStream
  repeat' first
    | with_reducible assumption
    | with_reducible apply OnlyIn.refl
    | (with_reducible apply OnlyIn.ite) <;> intro _
    | (extract_lets +onlyGivenNames s; fail_if_success (have : State := s); clear_value s)
    | (with_reducible apply OnlyIn.step (streamAt_only _ _ _ _)); (case q => decide)
    | (with_reducible apply OnlyIn.step (againPiece_only _ _ _ _ _ _)); (case q => decide)
    | (with_reducible apply OnlyIn.thenFold_fst); rotate_left; intro _ _
    | (with_reducible apply OnlyIn.thenFold_snd); rotate_left; intro _ _
    | (with_reducible apply OnlyIn.thenFold); rotate_left; intro _ _
    | (with_reducible apply OnlyIn.lit); (case e => exact rfl); (case h => first | with_reducible assumption | with_reducible apply OnlyIn.refl); (case ev => first | exact (fun hp => absurd (by decide) hp) | exact (fun _ => ⟨rfl, rfl, rfl, rfl, rfl⟩)); (case po => first | exact (fun hp => absurd (by decide) hp) | exact (fun _ => ⟨rfl, rfl⟩)); (case k => intro p hp ne np; cases p <;> first | exact (absurd (by decide) hp) | exact (absurd rfl ne) | exact (absurd rfl np) | exact rfl)

theorem readAgain_only (r : Run) (b lo hi : Nat) (v : ChipView) (s : State) :
    OnlyIn [.qh, .hbmStacks] s (readAgain r b lo hi v s) := by
  unfold readAgain
  repeat' first
    | with_reducible assumption
    | with_reducible apply OnlyIn.refl
    | (with_reducible apply OnlyIn.ite) <;> intro _
    | (with_reducible apply OnlyIn.step (againStream_only _ _ _ _ _ _ _)); (case q => decide)
    | (with_reducible apply OnlyIn.thenFold_fst); rotate_left; intro _ _
    | (with_reducible apply OnlyIn.thenFold_snd); rotate_left; intro _ _
    | (with_reducible apply OnlyIn.thenFold); rotate_left; intro _ _
    | split

theorem sampleStart_only (ord b col mill rows : Nat) (redo : Bool) (s : State) :
    OnlyIn [.ctr] s (sampleStart ord b col mill rows redo s) := by
  unfold sampleStart
  repeat' first
    | with_reducible assumption
    | with_reducible apply OnlyIn.refl
    | (with_reducible apply OnlyIn.ite) <;> intro _
    | (extract_lets +onlyGivenNames s; fail_if_success (have : State := s); clear_value s)
    | (with_reducible apply OnlyIn.lit); (case e => exact rfl); (case h => first | with_reducible assumption | with_reducible apply OnlyIn.refl); (case ev => first | exact (fun hp => absurd (by decide) hp) | exact (fun _ => ⟨rfl, rfl, rfl, rfl, rfl⟩)); (case po => first | exact (fun hp => absurd (by decide) hp) | exact (fun _ => ⟨rfl, rfl⟩)); (case k => intro p hp ne np; cases p <;> first | exact (absurd (by decide) hp) | exact (absurd rfl ne) | exact (absurd rfl np) | exact rfl)

theorem openBag_only (col mill b : Nat) (redo : Bool) (r : Run) (t : Table) (lo hi : Nat) (s : State) :
    OnlyIn [.qh, .cols, .ctr] s (openBag col mill b redo r t lo hi s) := by
  unfold openBag
  repeat' first
    | with_reducible assumption
    | with_reducible apply OnlyIn.refl
    | (with_reducible apply OnlyIn.ite) <;> intro _
    | (extract_lets +onlyGivenNames s; fail_if_success (have : State := s); clear_value s)
    | (with_reducible apply OnlyIn.step (colMod_only _ _ _)); (case q => decide)
    | (with_reducible apply OnlyIn.step (bagMod_only _ _ _ _)); (case q => decide)
    | (with_reducible apply OnlyIn.step (failBag_only _ _ _ _)); (case q => decide)
    | (with_reducible apply OnlyIn.step (setWork_only _ _ _ _)); (case q => decide)
    | (with_reducible apply OnlyIn.step (afterBag_only _ _)); (case q => decide)
    | (with_reducible apply OnlyIn.step (sampleStart_only _ _ _ _ _ _ _)); (case q => decide)
    | split
    | (with_reducible apply OnlyIn.lit); (case e => exact rfl); (case h => first | with_reducible assumption | with_reducible apply OnlyIn.refl); (case ev => first | exact (fun hp => absurd (by decide) hp) | exact (fun _ => ⟨rfl, rfl, rfl, rfl, rfl⟩)); (case po => first | exact (fun hp => absurd (by decide) hp) | exact (fun _ => ⟨rfl, rfl⟩)); (case k => intro p hp ne np; cases p <;> first | exact (absurd (by decide) hp) | exact (absurd rfl ne) | exact (absurd rfl np) | exact rfl)

theorem startBag_only (col mill b : Nat) (r : Run) (t : Table) (v : ChipView) (s : State) :
    OnlyIn [.qh, .cols, .hbmStacks, .ctr] s (startBag col mill b r t v s) := by
  unfold startBag
  repeat' first
    | with_reducible assumption
    | with_reducible apply OnlyIn.refl
    | (with_reducible apply OnlyIn.ite) <;> intro _
    | (extract_lets +onlyGivenNames s; fail_if_success (have : State := s); clear_value s)
    | (with_reducible apply OnlyIn.step (colMod_only _ _ _)); (case q => decide)
    | (with_reducible apply OnlyIn.step (failBag_only _ _ _ _)); (case q => decide)
    | (with_reducible apply OnlyIn.step (failFrom_only _ _ _ _)); (case q => decide)
    | (with_reducible apply OnlyIn.step (afterBag_only _ _)); (case q => decide)
    | (with_reducible apply OnlyIn.step (readAgain_only _ _ _ _ _ _)); (case q => decide)
    | (with_reducible apply OnlyIn.step (openBag_only _ _ _ _ _ _ _ _ _)); (case q => decide)
    | split
    | with_reducible apply OnlyIn.getD
    | (with_reducible apply OnlyIn.lit); (case e => exact rfl); (case h => first | with_reducible assumption | with_reducible apply OnlyIn.refl); (case ev => first | exact (fun hp => absurd (by decide) hp) | exact (fun _ => ⟨rfl, rfl, rfl, rfl, rfl⟩)); (case po => first | exact (fun hp => absurd (by decide) hp) | exact (fun _ => ⟨rfl, rfl⟩)); (case k => intro p hp ne np; cases p <;> first | exact (absurd (by decide) hp) | exact (absurd rfl ne) | exact (absurd rfl np) | exact rfl)

theorem lostKept_only (s : State) (r : Run) (w : BagWork) (key : RowKey) :
    OnlyIn [.events, .ports, .lrd] s (lostKept s r w key) := by
  unfold lostKept
  repeat' first
    | with_reducible assumption
    | with_reducible apply OnlyIn.refl
    | (with_reducible apply OnlyIn.ite) <;> intro _
    | (extract_lets +onlyGivenNames s; fail_if_success (have : State := s); clear_value s)
    | (with_reducible apply OnlyIn.step (larderUe_only _ _)); (case q => decide)
    | split
    | (with_reducible apply OnlyIn.lit); (case e => exact rfl); (case ev => first | exact (fun hp => absurd (by decide) hp) | exact (fun _ => ⟨rfl, rfl, rfl, rfl, rfl⟩)); (case po => first | exact (fun hp => absurd (by decide) hp) | exact (fun _ => ⟨rfl, rfl⟩)); (case k => intro p hp ne np; cases p <;> first | exact (absurd (by decide) hp) | exact (absurd rfl ne) | exact (absurd rfl np) | exact rfl)

theorem loseReplicas_only (p : Replica → Bool) (s : State) :
    OnlyIn [.lrd] s (loseReplicas p s) := by
  unfold loseReplicas
  repeat' first
    | with_reducible assumption
    | with_reducible apply OnlyIn.refl
    | (with_reducible apply OnlyIn.ite) <;> intro _
    | (extract_lets +onlyGivenNames s; fail_if_success (have : State := s); clear_value s)
    | (with_reducible apply OnlyIn.step (countReplicaDropped_only _ _)); (case q => decide)
    | (with_reducible apply OnlyIn.lit); (case e => exact rfl); (case h => first | with_reducible assumption | with_reducible apply OnlyIn.refl); (case ev => first | exact (fun hp => absurd (by decide) hp) | exact (fun _ => ⟨rfl, rfl, rfl, rfl, rfl⟩)); (case po => first | exact (fun hp => absurd (by decide) hp) | exact (fun _ => ⟨rfl, rfl⟩)); (case k => intro p hp ne np; cases p <;> first | exact (absurd (by decide) hp) | exact (absurd rfl ne) | exact (absurd rfl np) | exact rfl)

theorem lostReplica_only (s : State) (r : Run) (key : RowKey) :
    OnlyIn [.events, .ports, .lrd] s (lostReplica s r key) := by
  unfold lostReplica
  repeat' first
    | with_reducible assumption
    | with_reducible apply OnlyIn.refl
    | (with_reducible apply OnlyIn.ite) <;> intro _
    | (extract_lets +onlyGivenNames s; fail_if_success (have : State := s); clear_value s)
    | (with_reducible apply OnlyIn.step (larderUe_only _ _)); (case q => decide)
    | (with_reducible apply OnlyIn.step (loseReplicas_only _ _)); (case q => decide)
    | split

theorem readReplicas_only (col : Nat) (r : Run) (w : BagWork) (t : Table) (key : RowKey) (s : State) :
    OnlyIn [.events, .ports, .lrd] s (readReplicas col r w t key s) := by
  unfold readReplicas
  repeat' first
    | with_reducible assumption
    | with_reducible apply OnlyIn.refl
    | (with_reducible apply OnlyIn.ite) <;> intro _
    | (with_reducible apply OnlyIn.step (lostReplica_only _ _ _)); (case q => decide)
    | split

theorem loseMap_only (map : Nat) (s : State) :
    OnlyIn [.clerk, .maps] s (loseMap map s) := by
  unfold loseMap
  repeat' first
    | with_reducible assumption
    | with_reducible apply OnlyIn.refl
    | (with_reducible apply OnlyIn.ite) <;> intro _
    | (with_reducible apply OnlyIn.step (logOpen_only _ _ _)); (case q => decide)
    | split
    | (with_reducible apply OnlyIn.lit); (case e => exact rfl); (case h => first | with_reducible assumption | with_reducible apply OnlyIn.refl); (case ev => first | exact (fun hp => absurd (by decide) hp) | exact (fun _ => ⟨rfl, rfl, rfl, rfl, rfl⟩)); (case po => first | exact (fun hp => absurd (by decide) hp) | exact (fun _ => ⟨rfl, rfl⟩)); (case k => intro p hp ne np; cases p <;> first | exact (absurd (by decide) hp) | exact (absurd rfl ne) | exact (absurd rfl np) | exact rfl)

theorem readMap_only (t : Table) (key : RowKey) (home : Bool) (s : State) :
    OnlyIn [.clerk, .maps, .hbmStacks] s (readMap t key home s) := by
  unfold readMap
  repeat' first
    | with_reducible assumption
    | with_reducible apply OnlyIn.refl
    | (with_reducible apply OnlyIn.ite) <;> intro _
    | (extract_lets +onlyGivenNames s; fail_if_success (have : State := s); clear_value s)
    | (with_reducible apply OnlyIn.step (frontRead_only _ _ _ _ _)); (case q => decide)
    | (with_reducible apply OnlyIn.step (countPoisons_only _ _)); (case q => decide)
    | (with_reducible apply OnlyIn.step (loseMap_only _ _)); (case q => decide)
    | (with_reducible apply OnlyIn.thenFold_fst); rotate_left; intro _ _
    | (with_reducible apply OnlyIn.thenFold_snd); rotate_left; intro _ _
    | (with_reducible apply OnlyIn.thenFold); rotate_left; intro _ _
    | split

theorem readHomeMap_only (col : Nat) (r : Run) (w : BagWork) (t : Table) (key : RowKey) (s : State) :
    OnlyIn [.clerk, .maps, .hbmStacks] s (readHomeMap col r w t key s) := by
  unfold readHomeMap
  repeat' first
    | with_reducible assumption
    | with_reducible apply OnlyIn.refl
    | (with_reducible apply OnlyIn.ite) <;> intro _
    | (with_reducible apply OnlyIn.step (readMap_only _ _ _ _)); (case q => decide)
    | split

theorem readIndex_only (col : Nat) (r : Run) (w : BagWork) (t : Table) (key : RowKey) (s : State) :
    OnlyIn [.events, .clerk, .maps, .ports, .lrd, .hbmStacks] s (readIndex col r w t key s) := by
  unfold readIndex
  repeat' first
    | with_reducible assumption
    | with_reducible apply OnlyIn.refl
    | (with_reducible apply OnlyIn.ite) <;> intro _
    | (with_reducible apply OnlyIn.step (lostKept_only _ _ _ _)); (case q => decide)
    | (with_reducible apply OnlyIn.step (readReplicas_only _ _ _ _ _ _)); (case q => decide)
    | (with_reducible apply OnlyIn.step (readHomeMap_only _ _ _ _ _ _)); (case q => decide)
    | split

theorem sendRead_only (node : Nat) (p : ReadPkt) (purpose : ReqFor) (s : State) :
    OptIn (fun b => b) [.events, .ports, .ldg, .asy, .span, .counts] s (sendRead node p purpose s) := by
  unfold sendRead
  refine OptIn.map (fun t e => OnlyIn.trans ((trySend_only _ _).only _ e) ⟨fun p hp => ?_⟩)
  cases p <;> first | exact absurd (by decide) hp | exact rfl | exact ⟨rfl, rfl⟩ | exact ⟨rfl, rfl, rfl, rfl, rfl⟩

theorem issueRead_only (col mill : Nat) (r : Run) (w : BagWork) (t : Table) (key : RowKey) (s : State) :
    OnlyIn [.events, .ports, .cols, .ldg, .asy, .span, .counts] s (issueRead col mill r w t key s) := by
  unfold issueRead
  repeat' first
    | with_reducible assumption
    | with_reducible apply OnlyIn.refl
    | (with_reducible apply OnlyIn.ite) <;> intro _
    | (extract_lets +onlyGivenNames s; fail_if_success (have : State := s); clear_value s)
    | (with_reducible apply OnlyIn.step (noteAbsent_only _ _)); (case q => decide)
    | (with_reducible apply OnlyIn.step (setWork_only _ _ _ _)); (case q => decide)
    | (with_reducible apply OnlyIn.step (pinMod_only _ _ _ _)); (case q => decide)
    | (with_reducible apply OnlyIn.step (countLookup_only _ _ _ _ _ _)); (case q => decide)
    | (apply OnlyIn.step (OnlyIn.of_snd (by assumption) (countLookup_only _ _ _ _ _ _))); (case q => decide)
    | (with_reducible apply OptIn.step (sendRead_only _ _ _ _)); (case q => decide)
    | ((with_reducible apply OnlyIn.step (((sendRead_only _ _ _ _)).only _ (by assumption)))); (case q => decide)
    | split
    | with_reducible apply OnlyIn.ite_snd
    | with_reducible apply OnlyIn.getD
    | (with_reducible apply OnlyIn.lit); (case e => exact rfl); (case h => first | with_reducible assumption | with_reducible apply OnlyIn.refl); (case ev => first | exact (fun hp => absurd (by decide) hp) | exact (fun _ => ⟨rfl, rfl, rfl, rfl, rfl⟩)); (case po => first | exact (fun hp => absurd (by decide) hp) | exact (fun _ => ⟨rfl, rfl⟩)); (case k => intro p hp ne np; cases p <;> first | exact (absurd (by decide) hp) | exact (absurd rfl ne) | exact (absurd rfl np) | exact rfl)

theorem answerMill_only (col mill pos : Nat) (key : RowKey) (slice : Nat) (st : Status) (prov : Bool) (d : Option RowSlice) (s : State) :
    OnlyIn [.cols] s (answerMill col mill pos key slice st prov d s) := by
  unfold answerMill
  repeat' first
    | with_reducible assumption
    | with_reducible apply OnlyIn.refl
    | (with_reducible apply OnlyIn.ite) <;> intro _
    | (extract_lets +onlyGivenNames s; fail_if_success (have : State := s); clear_value s)
    | (with_reducible apply OnlyIn.step (setWork_only _ _ _ _)); (case q => decide)
    | (with_reducible apply OnlyIn.step (pinMod_only _ _ _ _)); (case q => decide)
    | split
    | with_reducible apply OnlyIn.getD
    | (with_reducible apply OnlyIn.lit); (case e => exact rfl); (case ev => first | exact (fun hp => absurd (by decide) hp) | exact (fun _ => ⟨rfl, rfl, rfl, rfl, rfl⟩)); (case po => first | exact (fun hp => absurd (by decide) hp) | exact (fun _ => ⟨rfl, rfl⟩)); (case k => intro p hp ne np; cases p <;> first | exact (absurd (by decide) hp) | exact (absurd rfl ne) | exact (absurd rfl np) | exact rfl)

theorem loseHotCopy_only (tid slot da : Nat) (s : State) :
    OnlyIn [.moves, .hbm, .poison, .lrd] s (loseHotCopy tid slot da s) := by
  unfold loseHotCopy
  repeat' first
    | with_reducible assumption
    | with_reducible apply OnlyIn.refl
    | (with_reducible apply OnlyIn.ite) <;> intro _
    | (extract_lets +onlyGivenNames s; fail_if_success (have : State := s); clear_value s)
    | (with_reducible apply OnlyIn.step (startMove_only _ _ _ _ _)); (case q => decide)
    | (with_reducible apply OnlyIn.step (dropCopy_only _ _ _ _)); (case q => decide)
    | (with_reducible apply OnlyIn.step (countReplicaDropped_only _ _)); (case q => decide)
    | (with_reducible apply OnlyIn.lit); (case e => exact rfl); (case h => first | with_reducible assumption | with_reducible apply OnlyIn.refl); (case ev => first | exact (fun hp => absurd (by decide) hp) | exact (fun _ => ⟨rfl, rfl, rfl, rfl, rfl⟩)); (case po => first | exact (fun hp => absurd (by decide) hp) | exact (fun _ => ⟨rfl, rfl⟩)); (case k => intro p hp ne np; cases p <;> first | exact (absurd (by decide) hp) | exact (absurd rfl ne) | exact (absurd rfl np) | exact rfl)

theorem lostHotCopy_only (t : Table) (slot : Nat) (key : RowKey) (s : State) :
    OnlyIn [.events, .moves, .hbm, .poison, .ports, .lrd] s (lostHotCopy t slot key s) := by
  unfold lostHotCopy
  repeat' first
    | with_reducible assumption
    | with_reducible apply OnlyIn.refl
    | (with_reducible apply OnlyIn.ite) <;> intro _
    | (with_reducible apply OnlyIn.step (larderUe_only _ _)); (case q => decide)
    | (with_reducible apply OnlyIn.step (loseHotCopy_only _ _ _ _)); (case q => decide)
    | split

theorem subscribe_only (node slot : Nat) (key : RowKey) (s : State) :
    OnlyIn [.span] s (subscribe node slot key s) := by
  unfold subscribe
  repeat' first
    | with_reducible assumption
    | with_reducible apply OnlyIn.refl
    | (with_reducible apply OnlyIn.ite) <;> intro _
    | (extract_lets +onlyGivenNames s; fail_if_success (have : State := s); clear_value s)
    | (with_reducible apply OnlyIn.lit); (case e => exact rfl); (case h => first | with_reducible assumption | with_reducible apply OnlyIn.refl); (case ev => first | exact (fun hp => absurd (by decide) hp) | exact (fun _ => ⟨rfl, rfl, rfl, rfl, rfl⟩)); (case po => first | exact (fun hp => absurd (by decide) hp) | exact (fun _ => ⟨rfl, rfl⟩)); (case k => intro p hp ne np; cases p <;> first | exact (absurd (by decide) hp) | exact (absurd rfl ne) | exact (absurd rfl np) | exact rfl)

theorem noteStatus_only (st : Status) (s : State) :
    OnlyIn [.events, .ports] s (noteStatus st s) := by
  unfold noteStatus
  repeat' first
    | with_reducible assumption
    | with_reducible apply OnlyIn.refl
    | (with_reducible apply OnlyIn.ite) <;> intro _
    | (with_reducible apply OnlyIn.step (raise_only _ _)); (case q => decide)

theorem countSubst_only (tid : Nat) (xs : List W32) (s : State) :
    OnlyIn [.events, .ports, .asy] s (countSubst tid xs s) := by
  unfold countSubst
  repeat' first
    | with_reducible assumption
    | with_reducible apply OnlyIn.refl
    | (with_reducible apply OnlyIn.ite) <;> intro _
    | (extract_lets +onlyGivenNames s; fail_if_success (have : State := s); clear_value s)
    | (with_reducible apply OnlyIn.step (asyMod_only _ _ _)); (case q => decide)
    | (with_reducible apply OnlyIn.step (satCheck_only _ _)); (case q => decide)
    | (with_reducible apply OnlyIn.lit); (case e => exact rfl); (case h => first | with_reducible assumption | with_reducible apply OnlyIn.refl); (case ev => first | exact (fun hp => absurd (by decide) hp) | exact (fun _ => ⟨rfl, rfl, rfl, rfl, rfl⟩)); (case po => first | exact (fun hp => absurd (by decide) hp) | exact (fun _ => ⟨rfl, rfl⟩)); (case k => intro p hp ne np; cases p <;> first | exact (absurd (by decide) hp) | exact (absurd rfl ne) | exact (absurd rfl np) | exact rfl)

theorem sendEntry_only (t : Table) (epoch gaining : Nat) (e : LEntry) (s : State) :
    OnlyIn [.events, .ports, .ldg, .asy, .span, .counts] s (sendEntry t epoch gaining e s) := by
  unfold sendEntry
  repeat' first
    | with_reducible assumption
    | with_reducible apply OnlyIn.refl
    | (with_reducible apply OnlyIn.ite) <;> intro _
    | (extract_lets +onlyGivenNames s; fail_if_success (have : State := s); clear_value s)
    | (with_reducible apply OnlyIn.step (noteLocalMax_only _ _ _ _)); (case q => decide)
    | (with_reducible apply OnlyIn.step (countClamps_only _ _ _)); (case q => decide)
    | (with_reducible apply OnlyIn.step (sendOwn_only _ _ _)); (case q => decide)
    | (with_reducible apply OnlyIn.step (countSubst_only _ _ _)); (case q => decide)
    | (with_reducible apply OnlyIn.thenFold_fst); rotate_left; intro _ _
    | (with_reducible apply OnlyIn.thenFold_snd); rotate_left; intro _ _
    | (with_reducible apply OnlyIn.thenFold); rotate_left; intro _ _

theorem fwdMod_only (map : Nat) (f : FwdCounts → FwdCounts) (s : State) :
    OnlyIn [.maps] s (fwdMod map f s) := by
  unfold fwdMod
  repeat' first
    | with_reducible assumption
    | with_reducible apply OnlyIn.refl
    | (with_reducible apply OnlyIn.ite) <;> intro _
    | split
    | (with_reducible apply OnlyIn.lit); (case e => exact rfl); (case h => first | with_reducible assumption | with_reducible apply OnlyIn.refl); (case ev => first | exact (fun hp => absurd (by decide) hp) | exact (fun _ => ⟨rfl, rfl, rfl, rfl, rfl⟩)); (case po => first | exact (fun hp => absurd (by decide) hp) | exact (fun _ => ⟨rfl, rfl⟩)); (case k => intro p hp ne np; cases p <;> first | exact (absurd (by decide) hp) | exact (absurd rfl ne) | exact (absurd rfl np) | exact rfl)

theorem handOver_only (t : Table) (h : HomeRead) (gaining : Nat) (s : State) :
    OnlyIn [.events, .maps, .ports, .ldg, .asy, .span, .counts] s (handOver t h gaining s) := by
  unfold handOver
  repeat' first
    | with_reducible assumption
    | with_reducible apply OnlyIn.refl
    | (with_reducible apply OnlyIn.ite) <;> intro _
    | (extract_lets +onlyGivenNames s; fail_if_success (have : State := s); clear_value s)
    | (with_reducible apply OnlyIn.step (sendEntry_only _ _ _ _ _)); (case q => decide)
    | (with_reducible apply OnlyIn.step (fwdMod_only _ _ _)); (case q => decide)
    | split
    | (with_reducible apply OnlyIn.lit); (case e => exact rfl); (case ev => first | exact (fun hp => absurd (by decide) hp) | exact (fun _ => ⟨rfl, rfl, rfl, rfl, rfl⟩)); (case po => first | exact (fun hp => absurd (by decide) hp) | exact (fun _ => ⟨rfl, rfl⟩)); (case k => intro p hp ne np; cases p <;> first | exact (absurd (by decide) hp) | exact (absurd rfl ne) | exact (absurd rfl np) | exact rfl)

theorem serveSlice_only (t : Table) (h : HomeRead) (gaining : Nat) (s : State) :
    OnlyIn [.events, .maps, .ports, .ldg, .asy, .span, .counts] s (serveSlice t h gaining s) := by
  unfold serveSlice
  repeat' first
    | with_reducible assumption
    | with_reducible apply OnlyIn.refl
    | (with_reducible apply OnlyIn.ite) <;> intro _
    | (extract_lets +onlyGivenNames s; fail_if_success (have : State := s); clear_value s)
    | (with_reducible apply OnlyIn.step (handOver_only _ _ _ _)); (case q => decide)
    | split
    | (with_reducible apply OnlyIn.lit); (case e => exact rfl); (case h => first | with_reducible assumption | with_reducible apply OnlyIn.refl); (case ev => first | exact (fun hp => absurd (by decide) hp) | exact (fun _ => ⟨rfl, rfl, rfl, rfl, rfl⟩)); (case po => first | exact (fun hp => absurd (by decide) hp) | exact (fun _ => ⟨rfl, rfl⟩)); (case k => intro p hp ne np; cases p <;> first | exact (absurd (by decide) hp) | exact (absurd rfl ne) | exact (absurd rfl np) | exact rfl)

theorem readCseq_only (expected : Bool) (node : Nat) (s : State) :
    OnlyIn [.hbmStacks] s (readCseq expected node s) := by
  unfold readCseq
  repeat' first
    | with_reducible assumption
    | with_reducible apply OnlyIn.refl
    | (with_reducible apply OnlyIn.ite) <;> intro _
    | (with_reducible apply OnlyIn.step (frontRead_only _ _ _ _ _)); (case q => decide)

theorem serveNode_only (src tag : Nat) (t : Table) (h : HomeRead) (st : Status) (prov : Bool) (d : Option RowSlice) (s : State) :
    OnlyIn [.events, .tables, .maps, .moves, .ports, .ldg, .asy, .lrd, .hbmStacks, .span, .counts] s (serveNode src tag t h st prov d s) := by
  unfold serveNode
  repeat' first
    | with_reducible assumption
    | with_reducible apply OnlyIn.refl
    | (with_reducible apply OnlyIn.ite) <;> intro _
    | (extract_lets +onlyGivenNames s; fail_if_success (have : State := s); clear_value s)
    | (with_reducible apply OnlyIn.step (dropRef_only _ _ _)); (case q => decide)
    | (with_reducible apply OnlyIn.step (sendOwn_only _ _ _)); (case q => decide)
    | (with_reducible apply OnlyIn.step (subscribe_only _ _ _ _)); (case q => decide)
    | (with_reducible apply OnlyIn.step (serveSlice_only _ _ _ _)); (case q => decide)
    | (with_reducible apply OnlyIn.step (readCseq_only _ _ _)); (case q => decide)

theorem frontHomeRead_only (t : Table) (h : HomeRead) (s : State) :
    OnlyIn [.hbmStacks] s (frontHomeRead t h s) := by
  unfold frontHomeRead
  repeat' first
    | with_reducible assumption
    | with_reducible apply OnlyIn.refl
    | (with_reducible apply OnlyIn.ite) <;> intro _
    | (with_reducible apply OnlyIn.step (frontRead_only _ _ _ _ _)); (case q => decide)
    | (with_reducible apply OnlyIn.thenFold_fst); rotate_left; intro _ _
    | (with_reducible apply OnlyIn.thenFold_snd); rotate_left; intro _ _
    | (with_reducible apply OnlyIn.thenFold); rotate_left; intro _ _

theorem serveHome_only (idx : Nat) (h : HomeRead) (t : Table) (st : Status) (d : Option RowSlice) (s : State) :
    OnlyIn [.events, .tables, .maps, .moves, .ports, .cols, .ldg, .asy, .lrd, .hbmStacks, .span, .counts] s (serveHome idx h t st d s) := by
  unfold serveHome
  repeat' first
    | with_reducible assumption
    | with_reducible apply OnlyIn.refl
    | (with_reducible apply OnlyIn.ite) <;> intro _
    | (extract_lets +onlyGivenNames s; fail_if_success (have : State := s); clear_value s)
    | (with_reducible apply OnlyIn.step (answerMill_only _ _ _ _ _ _ _ _ _)); (case q => decide)
    | (with_reducible apply OnlyIn.step (serveNode_only _ _ _ _ _ _ _ _)); (case q => decide)
    | split
    | (with_reducible apply OnlyIn.lit); (case e => exact rfl); (case h => first | with_reducible assumption | with_reducible apply OnlyIn.refl); (case ev => first | exact (fun hp => absurd (by decide) hp) | exact (fun _ => ⟨rfl, rfl, rfl, rfl, rfl⟩)); (case po => first | exact (fun hp => absurd (by decide) hp) | exact (fun _ => ⟨rfl, rfl⟩)); (case k => intro p hp ne np; cases p <;> first | exact (absurd (by decide) hp) | exact (absurd rfl ne) | exact (absurd rfl np) | exact rfl)

theorem readHere_only (t : Table) (h : HomeRead) (s : State) :
    OnlyIn [.events, .moves, .hbm, .poison, .ports, .lrd, .hbmStacks] s (readHere t h s).2 := by
  unfold readHere
  repeat' first
    | with_reducible assumption
    | with_reducible apply OnlyIn.refl
    | (with_reducible apply OnlyIn.ite) <;> intro _
    | (extract_lets +onlyGivenNames s; fail_if_success (have : State := s); clear_value s)
    | (with_reducible apply OnlyIn.step (noteRead_only _ _)); (case q => decide)
    | (with_reducible apply OnlyIn.step (lostHotCopy_only _ _ _ _)); (case q => decide)
    | (with_reducible apply OnlyIn.step (noteStatus_only _ _)); (case q => decide)
    | (with_reducible apply OnlyIn.step (frontHomeRead_only _ _ _)); (case q => decide)
    | with_reducible apply OnlyIn.ite_snd

theorem askEntry_only (idx : Nat) (h : HomeRead) (s : State) :
    OnlyIn [.ldg, .span] s (askEntry idx h s) := by
  unfold askEntry
  repeat' first
    | with_reducible assumption
    | with_reducible apply OnlyIn.refl
    | (with_reducible apply OnlyIn.ite) <;> intro _
    | (extract_lets +onlyGivenNames s; fail_if_success (have : State := s); clear_value s)
    | with_reducible apply OnlyIn.getD
    | (with_reducible apply OnlyIn.lit); (case e => exact rfl); (case ev => first | exact (fun hp => absurd (by decide) hp) | exact (fun _ => ⟨rfl, rfl, rfl, rfl, rfl⟩)); (case po => first | exact (fun hp => absurd (by decide) hp) | exact (fun _ => ⟨rfl, rfl⟩)); (case k => intro p hp ne np; cases p <;> first | exact (absurd (by decide) hp) | exact (absurd rfl ne) | exact (absurd rfl np) | exact rfl)

theorem serveRead_only (idx : Nat) (h : HomeRead) (t : Table) (errs : List CwErr) (lines : List Nat) (s : State) :
    OnlyIn [.events, .clerk, .tables, .maps, .moves, .hbm, .poison, .ports, .cols, .ldg, .asy, .lrd, .hbmStacks, .span, .counts] s (serveRead idx h t errs lines s) := by
  unfold serveRead
  repeat' first
    | with_reducible assumption
    | with_reducible apply OnlyIn.refl
    | (with_reducible apply OnlyIn.ite) <;> intro _
    | (extract_lets +onlyGivenNames s; fail_if_success (have : State := s); clear_value s)
    | (with_reducible apply OnlyIn.step (fixErrs_only _ _ _)); (case q => decide)
    | (with_reducible apply OnlyIn.step (loseErrs_only _ _)); (case q => decide)
    | (with_reducible apply OnlyIn.step (dropLines_only _ _ _)); (case q => decide)
    | (with_reducible apply OnlyIn.step (readMap_only _ _ _ _)); (case q => decide)
    | (with_reducible apply OnlyIn.step (frontHomeRead_only _ _ _)); (case q => decide)
    | (with_reducible apply OnlyIn.step (serveHome_only _ _ _ _ _ _)); (case q => decide)
    | (with_reducible apply OnlyIn.step (readHere_only _ _ _)); (case q => decide)
    | (apply OnlyIn.step (OnlyIn.of_snd (by assumption) (readHere_only _ _ _))); (case q => decide)
    | with_reducible apply OnlyIn.ite_snd

theorem keepRow_only (ord : Nat) (x : KeptRow) (s : State) :
    OnlyIn [.qh, .lrd] s (keepRow ord x s) := by
  unfold keepRow
  repeat' first
    | with_reducible assumption
    | with_reducible apply OnlyIn.refl
    | (with_reducible apply OnlyIn.ite) <;> intro _
    | (extract_lets +onlyGivenNames s; fail_if_success (have : State := s); clear_value s)
    | (with_reducible apply OnlyIn.step (runMod_only _ _ _)); (case q => decide)
    | split
    | (with_reducible apply OnlyIn.lit); (case e => exact rfl); (case h => first | with_reducible assumption | with_reducible apply OnlyIn.refl); (case ev => first | exact (fun hp => absurd (by decide) hp) | exact (fun _ => ⟨rfl, rfl, rfl, rfl, rfl⟩)); (case po => first | exact (fun hp => absurd (by decide) hp) | exact (fun _ => ⟨rfl, rfl⟩)); (case k => intro p hp ne np; cases p <;> first | exact (absurd (by decide) hp) | exact (absurd rfl ne) | exact (absurd rfl np) | exact rfl)

theorem sampleRow_only (ord b : Nat) (src : RowSource) (s : State) :
    OnlyIn [.ctr] s (sampleRow ord b src s) := by
  unfold sampleRow
  repeat' first
    | with_reducible assumption
    | with_reducible apply OnlyIn.refl
    | (with_reducible apply OnlyIn.ite) <;> intro _
    | (extract_lets +onlyGivenNames s; fail_if_success (have : State := s); clear_value s)
    | with_reducible apply OnlyIn.getD
    | (with_reducible apply OnlyIn.lit); (case e => exact rfl); (case h => first | with_reducible assumption | with_reducible apply OnlyIn.refl); (case ev => first | exact (fun hp => absurd (by decide) hp) | exact (fun _ => ⟨rfl, rfl, rfl, rfl, rfl⟩)); (case po => first | exact (fun hp => absurd (by decide) hp) | exact (fun _ => ⟨rfl, rfl⟩)); (case k => intro p hp ne np; cases p <;> first | exact (absurd (by decide) hp) | exact (absurd rfl ne) | exact (absurd rfl np) | exact rfl)

theorem consume_only (col mill : Nat) (r : Run) (w : BagWork) (x : MillRead) (s : State) :
    OnlyIn [.cols, .ctr] s (consume col mill r w x s) := by
  unfold consume
  repeat' first
    | with_reducible assumption
    | with_reducible apply OnlyIn.refl
    | (with_reducible apply OnlyIn.ite) <;> intro _
    | (extract_lets +onlyGivenNames s; fail_if_success (have : State := s); clear_value s)
    | (with_reducible apply OnlyIn.step (setWork_only _ _ _ _)); (case q => decide)
    | (with_reducible apply OnlyIn.step (freePin_only _ _ _)); (case q => decide)
    | (with_reducible apply OnlyIn.step (sampleRow_only _ _ _ _)); (case q => decide)
    | (with_reducible apply OnlyIn.lit); (case e => exact rfl); (case h => first | with_reducible assumption | with_reducible apply OnlyIn.refl); (case ev => first | exact (fun hp => absurd (by decide) hp) | exact (fun _ => ⟨rfl, rfl, rfl, rfl, rfl⟩)); (case po => first | exact (fun hp => absurd (by decide) hp) | exact (fun _ => ⟨rfl, rfl⟩)); (case k => intro p hp ne np; cases p <;> first | exact (absurd (by decide) hp) | exact (absurd rfl ne) | exact (absurd rfl np) | exact rfl)

theorem keepNow_only (r : Run) (w : BagWork) (x : MillRead) (s : State) :
    OnlyIn [.qh, .lrd] s (keepNow r w x s).2 := by
  unfold keepNow
  repeat' first
    | with_reducible assumption
    | with_reducible apply OnlyIn.refl
    | (with_reducible apply OnlyIn.ite) <;> intro _
    | (with_reducible apply OnlyIn.step (keepRow_only _ _ _)); (case q => decide)
    | split
    | with_reducible apply OnlyIn.ite_snd
    | (with_reducible apply OnlyIn.lit); (case e => exact rfl); (case h => first | with_reducible assumption | with_reducible apply OnlyIn.refl); (case ev => first | exact (fun hp => absurd (by decide) hp) | exact (fun _ => ⟨rfl, rfl, rfl, rfl, rfl⟩)); (case po => first | exact (fun hp => absurd (by decide) hp) | exact (fun _ => ⟨rfl, rfl⟩)); (case k => intro p hp ne np; cases p <;> first | exact (absurd (by decide) hp) | exact (absurd rfl ne) | exact (absurd rfl np) | exact rfl)

theorem replayBag_only (col mill : Nat) (r : Run) (t : Table) (w : BagWork) (v : ChipView) (s : State) :
    OnlyIn [.qh, .cols, .hbmStacks, .span, .ctr] s (replayBag col mill r t w v s) := by
  unfold replayBag
  repeat' first
    | with_reducible assumption
    | with_reducible apply OnlyIn.refl
    | (with_reducible apply OnlyIn.ite) <;> intro _
    | (extract_lets +onlyGivenNames s; fail_if_success (have : State := s); clear_value s)
    | (with_reducible apply OnlyIn.step (dropReads_only _ _)); (case q => decide)
    | (with_reducible apply OnlyIn.step (setWork_only _ _ _ _)); (case q => decide)
    | (with_reducible apply OnlyIn.step (failOn_only _ _ _ _ _)); (case q => decide)
    | (with_reducible apply OnlyIn.step (readAgain_only _ _ _ _ _ _)); (case q => decide)
    | split
    | with_reducible apply OnlyIn.getD
    | (with_reducible apply OnlyIn.lit); (case e => exact rfl); (case ev => first | exact (fun hp => absurd (by decide) hp) | exact (fun _ => ⟨rfl, rfl, rfl, rfl, rfl⟩)); (case po => first | exact (fun hp => absurd (by decide) hp) | exact (fun _ => ⟨rfl, rfl⟩)); (case k => intro p hp ne np; cases p <;> first | exact (absurd (by decide) hp) | exact (absurd rfl ne) | exact (absurd rfl np) | exact rfl)

theorem poolRow_only (col mill : Nat) (r : Run) (t : Table) (w : BagWork) (l : Lookup × W32) (x : MillRead) (v : ChipView) (s : State) :
    OnlyIn [.events, .qh, .ports, .cols, .lrd, .hbmStacks, .span, .counts, .ctr] s (poolRow col mill r t w l x v s) := by
  unfold poolRow
  repeat' first
    | with_reducible assumption
    | with_reducible apply OnlyIn.refl
    | (with_reducible apply OnlyIn.ite) <;> intro _
    | (extract_lets +onlyGivenNames s; fail_if_success (have : State := s); clear_value s)
    | (with_reducible apply OnlyIn.step (failOn_only _ _ _ _ _)); (case q => decide)
    | (with_reducible apply OnlyIn.step (colEvent_only _ _ _ _ _ _)); (case q => decide)
    | (apply OnlyIn.step (OnlyIn.of_snd (by assumption) (colEvent_only _ _ _ _ _ _))); (case q => decide)
    | (with_reducible apply OnlyIn.step (noteStatus_only _ _)); (case q => decide)
    | (with_reducible apply OnlyIn.step (consume_only _ _ _ _ _ _)); (case q => decide)
    | (with_reducible apply OnlyIn.step (keepNow_only _ _ _ _)); (case q => decide)
    | (apply OnlyIn.step (OnlyIn.of_snd (by assumption) (keepNow_only _ _ _ _))); (case q => decide)
    | (with_reducible apply OnlyIn.step (replayBag_only _ _ _ _ _ _ _)); (case q => decide)
    | split
    | with_reducible apply OnlyIn.ite_snd
    | (with_reducible apply OnlyIn.lit); (case e => exact rfl); (case h => first | with_reducible assumption | with_reducible apply OnlyIn.refl); (case ev => first | exact (fun hp => absurd (by decide) hp) | exact (fun _ => ⟨rfl, rfl, rfl, rfl, rfl⟩)); (case po => first | exact (fun hp => absurd (by decide) hp) | exact (fun _ => ⟨rfl, rfl⟩)); (case k => intro p hp ne np; cases p <;> first | exact (absurd (by decide) hp) | exact (absurd rfl ne) | exact (absurd rfl np) | exact rfl)

theorem arriveWords_only (col : Nat) (r : Run) (w : BagWork) (x : MillRead) (sram words : Nat) (s : State) :
    OnlyIn [.events, .ports, .lrd, .counts] s (arriveWords col r w x sram words s).2 := by
  unfold arriveWords
  repeat' first
    | with_reducible assumption
    | with_reducible apply OnlyIn.refl
    | (with_reducible apply OnlyIn.ite) <;> intro _
    | (with_reducible apply OnlyIn.step (correctedLarder_only _ _)); (case q => decide)
    | (with_reducible apply OnlyIn.step (colEvent_only _ _ _ _ _ _)); (case q => decide)
    | (apply OnlyIn.step (OnlyIn.of_snd (by assumption) (colEvent_only _ _ _ _ _ _))); (case q => decide)
    | with_reducible apply OnlyIn.ite_snd

theorem countReplays_only (tid n : Nat) (s : State) :
    OnlyIn [.asy] s (countReplays tid n s) := by
  unfold countReplays
  repeat' first
    | with_reducible assumption
    | with_reducible apply OnlyIn.refl
    | (with_reducible apply OnlyIn.ite) <;> intro _
    | (with_reducible apply OnlyIn.step (asyMod_only _ _ _)); (case q => decide)
    | (with_reducible apply OnlyIn.lit); (case e => exact rfl); (case h => first | with_reducible assumption | with_reducible apply OnlyIn.refl); (case ev => first | exact (fun hp => absurd (by decide) hp) | exact (fun _ => ⟨rfl, rfl, rfl, rfl, rfl⟩)); (case po => first | exact (fun hp => absurd (by decide) hp) | exact (fun _ => ⟨rfl, rfl⟩)); (case k => intro p hp ne np; cases p <;> first | exact (absurd (by decide) hp) | exact (absurd rfl ne) | exact (absurd rfl np) | exact rfl)

theorem leaveBag_only (col mill : Nat) (r : Run) (w : BagWork) (bytes : List Byte) (s : State) :
    OnlyIn [.qh, .cols, .asy, .lrd, .counts, .ctr] s (leaveBag col mill r w bytes s) := by
  unfold leaveBag
  repeat' first
    | with_reducible assumption
    | with_reducible apply OnlyIn.refl
    | (with_reducible apply OnlyIn.ite) <;> intro _
    | (extract_lets +onlyGivenNames s; fail_if_success (have : State := s); clear_value s)
    | (with_reducible apply OnlyIn.step (countEv_only _ _ _ _)); (case q => decide)
    | (with_reducible apply OnlyIn.step (bagMod_only _ _ _ _)); (case q => decide)
    | (with_reducible apply OnlyIn.step (closeSample_only _ _ _)); (case q => decide)
    | (with_reducible apply OnlyIn.step (millMod_only _ _ _ _)); (case q => decide)
    | (with_reducible apply OnlyIn.step (setWork_only _ _ _ _)); (case q => decide)
    | (with_reducible apply OnlyIn.step (keepRow_only _ _ _)); (case q => decide)
    | (with_reducible apply OnlyIn.step (countReplays_only _ _ _)); (case q => decide)
    | (with_reducible apply OnlyIn.thenFold_fst); rotate_left; intro _ _
    | (with_reducible apply OnlyIn.thenFold_snd); rotate_left; intro _ _
    | (with_reducible apply OnlyIn.thenFold); rotate_left; intro _ _
    | (with_reducible apply OnlyIn.lit); (case e => exact rfl); (case h => first | with_reducible assumption | with_reducible apply OnlyIn.refl); (case ev => first | exact (fun hp => absurd (by decide) hp) | exact (fun _ => ⟨rfl, rfl, rfl, rfl, rfl⟩)); (case po => first | exact (fun hp => absurd (by decide) hp) | exact (fun _ => ⟨rfl, rfl⟩)); (case k => intro p hp ne np; cases p <;> first | exact (absurd (by decide) hp) | exact (absurd rfl ne) | exact (absurd rfl np) | exact rfl)

theorem askPromotion_only (col step : Nat) (x : WaitRow) (s : State) :
    OnlyIn [.events, .ports, .ldg, .asy, .span, .counts] s (askPromotion col step x s).1 := by
  unfold askPromotion
  repeat' first
    | with_reducible assumption
    | with_reducible apply OnlyIn.refl
    | (with_reducible apply OnlyIn.ite) <;> intro _
    | (extract_lets +onlyGivenNames s; fail_if_success (have : State := s); clear_value s)
    | (with_reducible apply OnlyIn.step (noteAbsent_only _ _)); (case q => decide)
    | (with_reducible apply OptIn.step (trySend_only _ _)); (case q => decide)
    | ((with_reducible apply OnlyIn.step (((trySend_only _ _)).only _ (by assumption)))); (case q => decide)
    | split
    | with_reducible apply OnlyIn.ite_fst
    | (with_reducible apply OnlyIn.lit); (case e => exact rfl); (case h => first | with_reducible assumption | with_reducible apply OnlyIn.refl); (case ev => first | exact (fun hp => absurd (by decide) hp) | exact (fun _ => ⟨rfl, rfl, rfl, rfl, rfl⟩)); (case po => first | exact (fun hp => absurd (by decide) hp) | exact (fun _ => ⟨rfl, rfl⟩)); (case k => intro p hp ne np; cases p <;> first | exact (absurd (by decide) hp) | exact (absurd rfl ne) | exact (absurd rfl np) | exact rfl)

theorem askAll_only (col step : Nat) (rows : List WaitRow) (s : State) :
    OnlyIn [.events, .ports, .ldg, .asy, .span, .counts] s (askAll col step rows s).1 := by
  induction rows generalizing s with
  | nil => exact OnlyIn.refl _ _
  | cons x rest ih =>
    unfold askAll
    dsimp only
    refine OnlyIn.step (ih _) (fun _ h => h) ?_
    exact OnlyIn.ite_fst (OnlyIn.refl _ _) (askPromotion_only _ _ _ _)

theorem waitBag_only (col mill : Nat) (r : Run) (w : BagWork) (s : State) :
    OnlyIn [.events, .qh, .ports, .cols, .ldg, .asy, .span, .counts, .ctr] s (waitBag col mill r w s) := by
  unfold waitBag
  repeat' first
    | with_reducible assumption
    | with_reducible apply OnlyIn.refl
    | (with_reducible apply OnlyIn.ite) <;> intro _
    | (extract_lets +onlyGivenNames s; fail_if_success (have : State := s); clear_value s)
    | (with_reducible apply OnlyIn.step (colMod_only _ _ _)); (case q => decide)
    | (with_reducible apply OnlyIn.step (bagMod_only _ _ _ _)); (case q => decide)
    | (with_reducible apply OnlyIn.step (freeMill_only _ _ _)); (case q => decide)
    | (with_reducible apply OnlyIn.step (failOn_only _ _ _ _ _)); (case q => decide)
    | (with_reducible apply OnlyIn.step (askAll_only _ _ _ _)); (case q => decide)
    | (apply OnlyIn.step (OnlyIn.of_fst (by assumption) (askAll_only _ _ _ _))); (case q => decide)
    | with_reducible apply OnlyIn.ite_fst
    | (with_reducible apply OnlyIn.lit); (case e => exact rfl); (case h => first | with_reducible assumption | with_reducible apply OnlyIn.refl); (case ev => first | exact (fun hp => absurd (by decide) hp) | exact (fun _ => ⟨rfl, rfl, rfl, rfl, rfl⟩)); (case po => first | exact (fun hp => absurd (by decide) hp) | exact (fun _ => ⟨rfl, rfl⟩)); (case k => intro p hp ne np; cases p <;> first | exact (absurd (by decide) hp) | exact (absurd rfl ne) | exact (absurd rfl np) | exact rfl)

theorem absentWait_only (col : Nat) (key : RowKey) (s : State) :
    OnlyIn [.qh, .cols, .ctr] s (absentWait col key s) := by
  unfold absentWait
  repeat' first
    | with_reducible assumption
    | with_reducible apply OnlyIn.refl
    | (with_reducible apply OnlyIn.ite) <;> intro _
    | (extract_lets +onlyGivenNames s; fail_if_success (have : State := s); clear_value s)
    | (with_reducible apply OnlyIn.step (colMod_only _ _ _)); (case q => decide)
    | (with_reducible apply OnlyIn.step (failBag_only _ _ _ _)); (case q => decide)
    | (with_reducible apply OnlyIn.thenFold_fst); rotate_left; intro _ _
    | (with_reducible apply OnlyIn.thenFold_snd); rotate_left; intro _ _
    | (with_reducible apply OnlyIn.thenFold); rotate_left; intro _ _
    | (with_reducible apply OnlyIn.lit); (case e => exact rfl); (case h => first | with_reducible assumption | with_reducible apply OnlyIn.refl); (case ev => first | exact (fun hp => absurd (by decide) hp) | exact (fun _ => ⟨rfl, rfl, rfl, rfl, rfl⟩)); (case po => first | exact (fun hp => absurd (by decide) hp) | exact (fun _ => ⟨rfl, rfl⟩)); (case k => intro p hp ne np; cases p <;> first | exact (absurd (by decide) hp) | exact (absurd rfl ne) | exact (absurd rfl np) | exact rfl)

theorem endBackward_only (col mill : Nat) (r : Run) (t : Table) (w : BagWork) (s : State) :
    OnlyIn [.qh, .cols, .asy, .lrd, .span, .counts, .ctr] s (endBackward col mill r t w s) := by
  unfold endBackward
  repeat' first
    | with_reducible assumption
    | with_reducible apply OnlyIn.refl
    | (with_reducible apply OnlyIn.ite) <;> intro _
    | (with_reducible apply OnlyIn.step (failOn_only _ _ _ _ _)); (case q => decide)
    | (with_reducible apply OnlyIn.step (afterBag_only _ _)); (case q => decide)
    | (with_reducible apply OnlyIn.step (leaveBag_only _ _ _ _ _ _)); (case q => decide)
    | split

theorem endForward_only (col mill : Nat) (r : Run) (w : BagWork) (s : State) :
    OnlyIn [.events, .qh, .ports, .cols, .ldg, .asy, .lrd, .span, .counts, .ctr] s (endForward col mill r w s) := by
  unfold endForward
  repeat' first
    | with_reducible assumption
    | with_reducible apply OnlyIn.refl
    | (with_reducible apply OnlyIn.ite) <;> intro _
    | (extract_lets +onlyGivenNames s; fail_if_success (have : State := s); clear_value s)
    | (with_reducible apply OnlyIn.step (colEvent_only _ _ _ _ _ _)); (case q => decide)
    | (apply OnlyIn.step (OnlyIn.of_snd (by assumption) (colEvent_only _ _ _ _ _ _))); (case q => decide)
    | (with_reducible apply OnlyIn.step (leaveBag_only _ _ _ _ _ _)); (case q => decide)
    | (with_reducible apply OnlyIn.step (waitBag_only _ _ _ _ _)); (case q => decide)
    | with_reducible apply OnlyIn.ite_snd

theorem endSlice_only (col mill : Nat) (r : Run) (t : Table) (w : BagWork) (s : State) :
    OnlyIn [.events, .qh, .ports, .cols, .ldg, .asy, .lrd, .span, .counts, .ctr] s (endSlice col mill r t w s) := by
  unfold endSlice
  repeat' first
    | with_reducible assumption
    | with_reducible apply OnlyIn.refl
    | (with_reducible apply OnlyIn.ite) <;> intro _
    | (extract_lets +onlyGivenNames s; fail_if_success (have : State := s); clear_value s)
    | (with_reducible apply OnlyIn.step (millMod_only _ _ _ _)); (case q => decide)
    | (with_reducible apply OnlyIn.step (endBackward_only _ _ _ _ _ _)); (case q => decide)
    | (with_reducible apply OnlyIn.step (endForward_only _ _ _ _ _)); (case q => decide)
    | (with_reducible apply OnlyIn.lit); (case e => exact rfl); (case h => first | with_reducible assumption | with_reducible apply OnlyIn.refl); (case ev => first | exact (fun hp => absurd (by decide) hp) | exact (fun _ => ⟨rfl, rfl, rfl, rfl, rfl⟩)); (case po => first | exact (fun hp => absurd (by decide) hp) | exact (fun _ => ⟨rfl, rfl⟩)); (case k => intro p hp ne np; cases p <;> first | exact (absurd (by decide) hp) | exact (absurd rfl ne) | exact (absurd rfl np) | exact rfl)

theorem stepBackward_only (col mill : Nat) (r : Run) (w : BagWork) (wgt : W32) (zero : Bool) (x : Option MillRead) (s : State) :
    OnlyIn [.cols, .counts, .ctr] s (stepBackward col mill r w wgt zero x s) := by
  unfold stepBackward
  repeat' first
    | with_reducible assumption
    | with_reducible apply OnlyIn.refl
    | (with_reducible apply OnlyIn.ite) <;> intro _
    | (extract_lets +onlyGivenNames s; fail_if_success (have : State := s); clear_value s)
    | (with_reducible apply OnlyIn.step (countEv_only _ _ _ _)); (case q => decide)
    | (with_reducible apply OnlyIn.step (setWork_only _ _ _ _)); (case q => decide)
    | (with_reducible apply OnlyIn.step (useWindow_only _ _ _)); (case q => decide)
    | (with_reducible apply OnlyIn.step (consume_only _ _ _ _ _ _)); (case q => decide)
    | split
    | (with_reducible apply OnlyIn.lit); (case e => exact rfl); (case h => first | with_reducible assumption | with_reducible apply OnlyIn.refl); (case ev => first | exact (fun hp => absurd (by decide) hp) | exact (fun _ => ⟨rfl, rfl, rfl, rfl, rfl⟩)); (case po => first | exact (fun hp => absurd (by decide) hp) | exact (fun _ => ⟨rfl, rfl⟩)); (case k => intro p hp ne np; cases p <;> first | exact (absurd (by decide) hp) | exact (absurd rfl ne) | exact (absurd rfl np) | exact rfl)

theorem contribute_only (col mill : Nat) (r : Run) (t : Table) (w : BagWork) (l : Lookup × W32) (x : Option MillRead) (ue : Bool) (s : State) :
    OnlyIn [.cols, .counts, .ctr] s (contribute col mill r t w l x ue s) := by
  unfold contribute
  try dsimp only
  repeat' first
    | with_reducible assumption
    | with_reducible apply OnlyIn.refl
    | (with_reducible apply OnlyIn.ite) <;> intro _
    | (with_reducible apply OnlyIn.step (colMod_only _ _ _)); (case q => decide)
    | (with_reducible apply OnlyIn.step (stepBackward_only _ _ _ _ _ _ _ _)); (case q => decide)
    | split
    | with_reducible apply OnlyIn.getD
    | (with_reducible apply OnlyIn.lit); (case e => exact rfl); (case h => first | with_reducible assumption | with_reducible apply OnlyIn.refl); (case ev => first | exact (fun hp => absurd (by decide) hp) | exact (fun _ => ⟨rfl, rfl, rfl, rfl, rfl⟩)); (case po => first | exact (fun hp => absurd (by decide) hp) | exact (fun _ => ⟨rfl, rfl⟩)); (case k => intro p hp ne np; cases p <;> first | exact (absurd (by decide) hp) | exact (absurd rfl ne) | exact (absurd rfl np) | exact rfl)

theorem encodeRemote_only (t : Table) (k : MergeKey) (raw : List W32) (contrib tokens : Nat) (s : State) :
    OnlyIn [.events, .ports, .ldg, .asy] s (encodeRemote t k raw contrib tokens s).2 := by
  unfold encodeRemote
  repeat' first
    | with_reducible assumption
    | with_reducible apply OnlyIn.refl
    | (with_reducible apply OnlyIn.ite) <;> intro _
    | (extract_lets +onlyGivenNames s; fail_if_success (have : State := s); clear_value s)
    | (with_reducible apply OnlyIn.step (asyMod_only _ _ _)); (case q => decide)
    | (with_reducible apply OnlyIn.step (noteLocalMax_only _ _ _ _)); (case q => decide)
    | (with_reducible apply OnlyIn.step (countClamps_only _ _ _)); (case q => decide)
    | with_reducible apply OnlyIn.ite_snd
    | (with_reducible apply OnlyIn.lit); (case e => exact rfl); (case h => first | with_reducible assumption | with_reducible apply OnlyIn.refl); (case ev => first | exact (fun hp => absurd (by decide) hp) | exact (fun _ => ⟨rfl, rfl, rfl, rfl, rfl⟩)); (case po => first | exact (fun hp => absurd (by decide) hp) | exact (fun _ => ⟨rfl, rfl⟩)); (case k => intro p hp ne np; cases p <;> first | exact (absurd (by decide) hp) | exact (absurd rfl ne) | exact (absurd rfl np) | exact rfl)

theorem emitSlot_only (runs : List Nat) (x : MergeSlot) (s : State) :
    OnlyIn [.events, .ports, .ldg, .asy, .span] s (emitSlot runs x s) := by
  unfold emitSlot
  repeat' first
    | with_reducible assumption
    | with_reducible apply OnlyIn.refl
    | (with_reducible apply OnlyIn.ite) <;> intro _
    | (extract_lets +onlyGivenNames s; fail_if_success (have : State := s); clear_value s)
    | (with_reducible apply OnlyIn.step (countSubst_only _ _ _)); (case q => decide)
    | (with_reducible apply OnlyIn.step (encodeRemote_only _ _ _ _ _ _)); (case q => decide)
    | (apply OnlyIn.step (OnlyIn.of_snd (by assumption) (encodeRemote_only _ _ _ _ _ _))); (case q => decide)
    | split
    | with_reducible apply OnlyIn.ite_snd
    | (with_reducible apply OnlyIn.lit); (case e => exact rfl); (case ev => first | exact (fun hp => absurd (by decide) hp) | exact (fun _ => ⟨rfl, rfl, rfl, rfl, rfl⟩)); (case po => first | exact (fun hp => absurd (by decide) hp) | exact (fun _ => ⟨rfl, rfl⟩)); (case k => intro p hp ne np; cases p <;> first | exact (absurd (by decide) hp) | exact (absurd rfl ne) | exact (absurd rfl np) | exact rfl)

theorem dropSlot_only (s : State) :
    OnlyIn [.events, .ports, .ldg] s (dropSlot s) := by
  unfold dropSlot
  repeat' first
    | with_reducible assumption
    | with_reducible apply OnlyIn.refl
    | (with_reducible apply OnlyIn.ite) <;> intro _
    | (with_reducible apply OnlyIn.step (raise_only _ _)); (case q => decide)
    | (with_reducible apply OnlyIn.lit); (case e => exact rfl); (case h => first | with_reducible assumption | with_reducible apply OnlyIn.refl); (case ev => first | exact (fun hp => absurd (by decide) hp) | exact (fun _ => ⟨rfl, rfl, rfl, rfl, rfl⟩)); (case po => first | exact (fun hp => absurd (by decide) hp) | exact (fun _ => ⟨rfl, rfl⟩)); (case k => intro p hp ne np; cases p <;> first | exact (absurd (by decide) hp) | exact (absurd rfl ne) | exact (absurd rfl np) | exact rfl)

theorem flushColumn_only (col : Nat) (s : State) :
    OnlyIn [.events, .qh, .ports, .cols, .ldg, .asy, .span, .counts] s (flushColumn col s) := by
  unfold flushColumn
  repeat' first
    | with_reducible assumption
    | with_reducible apply OnlyIn.refl
    | (with_reducible apply OnlyIn.ite) <;> intro _
    | (extract_lets +onlyGivenNames s; fail_if_success (have : State := s); clear_value s)
    | (with_reducible apply OnlyIn.step (countEv_only _ _ _ _)); (case q => decide)
    | (with_reducible apply OnlyIn.step (colMod_only _ _ _)); (case q => decide)
    | (with_reducible apply OnlyIn.step (runMod_only _ _ _)); (case q => decide)
    | (with_reducible apply OnlyIn.step (emitSlot_only _ _ _)); (case q => decide)
    | (with_reducible apply OnlyIn.step (dropSlot_only _)); (case q => decide)
    | (with_reducible apply OnlyIn.thenFold_fst); rotate_left; intro _ _
    | (with_reducible apply OnlyIn.thenFold_snd); rotate_left; intro _ _
    | (with_reducible apply OnlyIn.thenFold); rotate_left; intro _ _
    | (with_reducible apply OnlyIn.lit); (case e => exact rfl); (case h => first | with_reducible assumption | with_reducible apply OnlyIn.refl); (case ev => first | exact (fun hp => absurd (by decide) hp) | exact (fun _ => ⟨rfl, rfl, rfl, rfl, rfl⟩)); (case po => first | exact (fun hp => absurd (by decide) hp) | exact (fun _ => ⟨rfl, rfl⟩)); (case k => intro p hp ne np; cases p <;> first | exact (absurd (by decide) hp) | exact (absurd rfl ne) | exact (absurd rfl np) | exact rfl)

theorem partialTaken_only (runs : List Nat) (s : State) :
    OnlyIn [.qh] s (partialTaken runs s) := by
  unfold partialTaken
  repeat' first
    | with_reducible assumption
    | with_reducible apply OnlyIn.refl
    | (with_reducible apply OnlyIn.ite) <;> intro _
    | (with_reducible apply OnlyIn.step (runMod_only _ _ _)); (case q => decide)
    | (with_reducible apply OnlyIn.thenFold_fst); rotate_left; intro _ _
    | (with_reducible apply OnlyIn.thenFold_snd); rotate_left; intro _ _
    | (with_reducible apply OnlyIn.thenFold); rotate_left; intro _ _
    | (with_reducible apply OnlyIn.lit); (case e => exact rfl); (case h => first | with_reducible assumption | with_reducible apply OnlyIn.refl); (case ev => first | exact (fun hp => absurd (by decide) hp) | exact (fun _ => ⟨rfl, rfl, rfl, rfl, rfl⟩)); (case po => first | exact (fun hp => absurd (by decide) hp) | exact (fun _ => ⟨rfl, rfl⟩)); (case k => intro p hp ne np; cases p <;> first | exact (absurd (by decide) hp) | exact (absurd rfl ne) | exact (absurd rfl np) | exact rfl)

end Sys2Proof.Machine
end

