-- ==== Sys2Proof/Laws/FrameStep.lean ====
section
/-! SUPPORT. Which parts of the state each operation may change: the Ledger, the optimizers, Commit and the shelves. -/

set_option linter.all false

namespace Sys2Proof.Machine

open Sys2Proof

theorem noteLate_only (f : Fate) (pre : Bool) (s : State) :
    OnlyIn [.events, .ports, .ldg] s (noteLate f pre s) := by
  unfold noteLate
  repeat' first
    | with_reducible assumption
    | with_reducible apply OnlyIn.refl
    | (with_reducible apply OnlyIn.ite) <;> intro _
    | (with_reducible apply OnlyIn.step (raise_only _ _)); (case q => decide)
    | (with_reducible apply OnlyIn.lit); (case e => exact rfl); (case h => first | with_reducible assumption | with_reducible apply OnlyIn.refl); (case ev => first | exact (fun hp => absurd (by decide) hp) | exact (fun _ => ⟨rfl, rfl, rfl, rfl, rfl⟩)); (case po => first | exact (fun hp => absurd (by decide) hp) | exact (fun _ => ⟨rfl, rfl⟩)); (case k => intro p hp ne np; cases p <;> first | exact (absurd (by decide) hp) | exact (absurd rfl ne) | exact (absurd rfl np) | exact rfl)

theorem markRuns_only (f : Fate) (runs : List Nat) (s : State) :
    OnlyIn [.qh] s (markRuns f runs s) := by
  unfold markRuns
  repeat' first
    | with_reducible assumption
    | with_reducible apply OnlyIn.refl
    | (with_reducible apply OnlyIn.ite) <;> intro _
    | (with_reducible apply OnlyIn.step (runMod_only _ _ _)); (case q => decide)
    | (with_reducible apply OnlyIn.thenFold_fst); rotate_left; intro _ _
    | (with_reducible apply OnlyIn.thenFold_snd); rotate_left; intro _ _
    | (with_reducible apply OnlyIn.thenFold); rotate_left; intro _ _
    | split
    | (with_reducible apply OnlyIn.lit); (case e => exact rfl); (case h => first | with_reducible assumption | with_reducible apply OnlyIn.refl); (case ev => first | exact (fun hp => absurd (by decide) hp) | exact (fun _ => ⟨rfl, rfl, rfl, rfl, rfl⟩)); (case po => first | exact (fun hp => absurd (by decide) hp) | exact (fun _ => ⟨rfl, rfl⟩)); (case k => intro p hp ne np; cases p <;> first | exact (absurd (by decide) hp) | exact (absurd rfl ne) | exact (absurd rfl np) | exact rfl)

theorem countDeferred_only (deferred : Bool) (s : State) :
    OnlyIn [.ldg] s (countDeferred deferred s) := by
  unfold countDeferred
  repeat' first
    | with_reducible assumption
    | with_reducible apply OnlyIn.refl
    | (with_reducible apply OnlyIn.ite) <;> intro _
    | (with_reducible apply OnlyIn.lit); (case e => exact rfl); (case h => first | with_reducible assumption | with_reducible apply OnlyIn.refl); (case ev => first | exact (fun hp => absurd (by decide) hp) | exact (fun _ => ⟨rfl, rfl, rfl, rfl, rfl⟩)); (case po => first | exact (fun hp => absurd (by decide) hp) | exact (fun _ => ⟨rfl, rfl⟩)); (case k => intro p hp ne np; cases p <;> first | exact (absurd (by decide) hp) | exact (absurd rfl ne) | exact (absurd rfl np) | exact rfl)

theorem meetRecord_only (key : RowKey) (step : Nat) (s : State) :
    OnlyIn [.events, .ports, .ldg, .lrd] s (meetRecord key step s) := by
  unfold meetRecord
  repeat' first
    | with_reducible assumption
    | with_reducible apply OnlyIn.refl
    | (with_reducible apply OnlyIn.ite) <;> intro _
    | (extract_lets +onlyGivenNames s; fail_if_success (have : State := s); clear_value s)
    | (with_reducible apply OnlyIn.step (larderUe_only _ _)); (case q => decide)
    | split
    | (with_reducible apply OnlyIn.lit); (case e => exact rfl); (case ev => first | exact (fun hp => absurd (by decide) hp) | exact (fun _ => ⟨rfl, rfl, rfl, rfl, rfl⟩)); (case po => first | exact (fun hp => absurd (by decide) hp) | exact (fun _ => ⟨rfl, rfl⟩)); (case k => intro p hp ne np; cases p <;> first | exact (absurd (by decide) hp) | exact (absurd rfl ne) | exact (absurd rfl np) | exact rfl)

theorem foldEntry_only (c : Contrib) (step : Nat) (deferred : Bool) (s : State) :
    OnlyIn [.ldg, .counts] s (foldEntry c step deferred s) := by
  unfold foldEntry
  repeat' first
    | with_reducible assumption
    | with_reducible apply OnlyIn.refl
    | (with_reducible apply OnlyIn.ite) <;> intro _
    | (extract_lets +onlyGivenNames s; fail_if_success (have : State := s); clear_value s)
    | (with_reducible apply OnlyIn.step (countEv_only _ _ _ _)); (case q => decide)
    | (with_reducible apply OnlyIn.step (countDeferred_only _ _)); (case q => decide)
    | (with_reducible apply OnlyIn.lit); (case e => exact rfl); (case h => first | with_reducible assumption | with_reducible apply OnlyIn.refl); (case ev => first | exact (fun hp => absurd (by decide) hp) | exact (fun _ => ⟨rfl, rfl, rfl, rfl, rfl⟩)); (case po => first | exact (fun hp => absurd (by decide) hp) | exact (fun _ => ⟨rfl, rfl⟩)); (case k => intro p hp ne np; cases p <;> first | exact (absurd (by decide) hp) | exact (absurd rfl ne) | exact (absurd rfl np) | exact rfl)

theorem newEntry_only (key : RowKey) (step pos dim acb : Nat) (s : State) :
    OnlyIn [.ldg, .lrd] s (newEntry key step pos dim acb s) := by
  unfold newEntry
  repeat' first
    | with_reducible assumption
    | with_reducible apply OnlyIn.refl
    | (with_reducible apply OnlyIn.ite) <;> intro _
    | (extract_lets +onlyGivenNames s; fail_if_success (have : State := s); clear_value s)
    | (with_reducible apply OnlyIn.step (cleanBlocks_only _ _ _)); (case q => decide)
    | (with_reducible apply OnlyIn.lit); (case e => exact rfl); (case h => first | with_reducible assumption | with_reducible apply OnlyIn.refl); (case ev => first | exact (fun hp => absurd (by decide) hp) | exact (fun _ => ⟨rfl, rfl, rfl, rfl, rfl⟩)); (case po => first | exact (fun hp => absurd (by decide) hp) | exact (fun _ => ⟨rfl, rfl⟩)); (case k => intro p hp ne np; cases p <;> first | exact (absurd (by decide) hp) | exact (absurd rfl ne) | exact (absurd rfl np) | exact rfl)

theorem createEntry_only (c : Contrib) (step pos dim : Nat) (s : State) :
    OnlyIn [.ldg, .lrd, .counts] s (createEntry c step pos dim s) := by
  unfold createEntry
  repeat' first
    | with_reducible assumption
    | with_reducible apply OnlyIn.refl
    | (with_reducible apply OnlyIn.ite) <;> intro _
    | (with_reducible apply OnlyIn.step (countEv_only _ _ _ _)); (case q => decide)
    | (with_reducible apply OnlyIn.step (newEntry_only _ _ _ _ _ _)); (case q => decide)
    | with_reducible apply OnlyIn.getD

theorem spillOut_only (c : Contrib) (step : Nat) (deferred : Bool) (s : State) :
    OnlyIn [.hbm, .poison, .ldg, .counts] s (spillOut c step deferred s) := by
  unfold spillOut
  repeat' first
    | with_reducible assumption
    | with_reducible apply OnlyIn.refl
    | (with_reducible apply OnlyIn.ite) <;> intro _
    | (extract_lets +onlyGivenNames s; fail_if_success (have : State := s); clear_value s)
    | (with_reducible apply OnlyIn.step (hbmWrite_only _ _ _)); (case q => decide)
    | (with_reducible apply OnlyIn.step (countEv_only _ _ _ _)); (case q => decide)
    | (with_reducible apply OnlyIn.step (setFilter_only _ _ _)); (case q => decide)
    | (with_reducible apply OnlyIn.step (countDeferred_only _ _)); (case q => decide)
    | (with_reducible apply OnlyIn.lit); (case e => exact rfl); (case h => first | with_reducible assumption | with_reducible apply OnlyIn.refl); (case ev => first | exact (fun hp => absurd (by decide) hp) | exact (fun _ => ⟨rfl, rfl, rfl, rfl, rfl⟩)); (case po => first | exact (fun hp => absurd (by decide) hp) | exact (fun _ => ⟨rfl, rfl⟩)); (case k => intro p hp ne np; cases p <;> first | exact (absurd (by decide) hp) | exact (absurd rfl ne) | exact (absurd rfl np) | exact rfl)

theorem loseEntry_only (pos : Nat) (s : State) :
    OnlyIn [.events, .ports, .ldg] s (loseEntry pos s) := by
  unfold loseEntry
  repeat' first
    | with_reducible assumption
    | with_reducible apply OnlyIn.refl
    | (with_reducible apply OnlyIn.ite) <;> intro _
    | (extract_lets +onlyGivenNames s; fail_if_success (have : State := s); clear_value s)
    | (with_reducible apply OnlyIn.step (raise_only _ _)); (case q => decide)
    | (with_reducible apply OnlyIn.lit); (case e => exact rfl); (case h => first | with_reducible assumption | with_reducible apply OnlyIn.refl); (case ev => first | exact (fun hp => absurd (by decide) hp) | exact (fun _ => ⟨rfl, rfl, rfl, rfl, rfl⟩)); (case po => first | exact (fun hp => absurd (by decide) hp) | exact (fun _ => ⟨rfl, rfl⟩)); (case k => intro p hp ne np; cases p <;> first | exact (absurd (by decide) hp) | exact (absurd rfl ne) | exact (absurd rfl np) | exact rfl)

theorem foldInto_only (c : Contrib) (step : Nat) (deferred pre : Bool) (pos : Nat) (s : State) :
    OptIn (fun b => b) [.events, .hbm, .poison, .ports, .ldg, .lrd, .counts] s (foldInto c step deferred pre pos s) := by
  unfold foldInto
  repeat' first
    | with_reducible assumption
    | with_reducible apply OnlyIn.refl
    | (with_reducible apply OnlyIn.ite) <;> intro _
    | with_reducible apply OptIn.none
    | (with_reducible apply OptIn.ite) <;> intro _
    | (with_reducible apply OptIn.some); try dsimp only
    | (with_reducible apply OptIn.map); intro _ _; try dsimp only
    | (extract_lets +onlyGivenNames s; fail_if_success (have : State := s); clear_value s)
    | (with_reducible apply OnlyIn.step (meetRecord_only _ _ _)); (case q => decide)
    | (with_reducible apply OnlyIn.step (foldEntry_only _ _ _ _)); (case q => decide)
    | (with_reducible apply OnlyIn.step (createEntry_only _ _ _ _ _)); (case q => decide)
    | (with_reducible apply OnlyIn.step (spillOut_only _ _ _ _)); (case q => decide)
    | with_reducible apply OnlyIn.getD

theorem forwardPartial_only (c : Contrib) (home : Nat) (s : State) :
    OnlyIn [.events, .maps, .ports, .ldg, .asy, .span, .counts] s (forwardPartial c home s) := by
  unfold forwardPartial
  repeat' first
    | with_reducible assumption
    | with_reducible apply OnlyIn.refl
    | (with_reducible apply OnlyIn.ite) <;> intro _
    | (extract_lets +onlyGivenNames s; fail_if_success (have : State := s); clear_value s)
    | (with_reducible apply OnlyIn.step (relay_only _ _)); (case q => decide)
    | (with_reducible apply OnlyIn.step (sendOwn_only _ _ _)); (case q => decide)
    | (with_reducible apply OnlyIn.step (fwdMod_only _ _ _)); (case q => decide)
    | (with_reducible apply OnlyIn.step (encodeRemote_only _ _ _ _ _ _)); (case q => decide)
    | (apply OnlyIn.step (OnlyIn.of_snd (by assumption) (encodeRemote_only _ _ _ _ _ _))); (case q => decide)
    | split
    | with_reducible apply OnlyIn.ite_snd
    | (with_reducible apply OnlyIn.lit); (case e => exact rfl); (case h => first | with_reducible assumption | with_reducible apply OnlyIn.refl); (case ev => first | exact (fun hp => absurd (by decide) hp) | exact (fun _ => ⟨rfl, rfl, rfl, rfl, rfl⟩)); (case po => first | exact (fun hp => absurd (by decide) hp) | exact (fun _ => ⟨rfl, rfl⟩)); (case k => intro p hp ne np; cases p <;> first | exact (absurd (by decide) hp) | exact (absurd rfl ne) | exact (absurd rfl np) | exact rfl)

theorem discard_only (c : Contrib) (why : DropReason) (s : State) :
    OnlyIn [.maps, .ldg] s (discard c why s) := by
  unfold discard
  repeat' first
    | with_reducible assumption
    | with_reducible apply OnlyIn.refl
    | (with_reducible apply OnlyIn.ite) <;> intro _
    | (extract_lets +onlyGivenNames s; fail_if_success (have : State := s); clear_value s)
    | (with_reducible apply OnlyIn.step (dropPartial_only _ _ _ _)); (case q => decide)
    | (with_reducible apply OnlyIn.step (fwdMod_only _ _ _)); (case q => decide)
    | split
    | (with_reducible apply OnlyIn.lit); (case e => exact rfl); (case h => first | with_reducible assumption | with_reducible apply OnlyIn.refl); (case ev => first | exact (fun hp => absurd (by decide) hp) | exact (fun _ => ⟨rfl, rfl, rfl, rfl, rfl⟩)); (case po => first | exact (fun hp => absurd (by decide) hp) | exact (fun _ => ⟨rfl, rfl⟩)); (case k => intro p hp ne np; cases p <;> first | exact (absurd (by decide) hp) | exact (absurd rfl ne) | exact (absurd rfl np) | exact rfl)

theorem settleFate_only (c : Contrib) (f : Fate) (pre : Bool) (pos : Nat) (s : State) :
    OptIn (fun b => b) [.events, .maps, .hbm, .poison, .ports, .ldg, .asy, .lrd, .span, .counts] s (settleFate c f pre pos s) := by
  unfold settleFate
  repeat' first
    | with_reducible assumption
    | with_reducible apply OnlyIn.refl
    | (with_reducible apply OnlyIn.ite) <;> intro _
    | with_reducible apply OptIn.none
    | (with_reducible apply OptIn.ite) <;> intro _
    | (with_reducible apply OptIn.some); try dsimp only
    | (with_reducible apply OptIn.map); intro _ _; try dsimp only
    | (extract_lets +onlyGivenNames s; fail_if_success (have : State := s); clear_value s)
    | (with_reducible apply OnlyIn.step (cleanBlocks_only _ _ _)); (case q => decide)
    | (with_reducible apply OptIn.step (foldInto_only _ _ _ _ _ _)); (case q => decide)
    | ((with_reducible apply OnlyIn.step (((foldInto_only _ _ _ _ _ _)).only _ (by assumption)))); (case q => decide)
    | (with_reducible apply OnlyIn.step (forwardPartial_only _ _ _)); (case q => decide)
    | (with_reducible apply OnlyIn.step (discard_only _ _ _)); (case q => decide)
    | split
    | (with_reducible apply OnlyIn.lit); (case e => exact rfl); (case h => first | with_reducible assumption | with_reducible apply OnlyIn.refl); (case ev => first | exact (fun hp => absurd (by decide) hp) | exact (fun _ => ⟨rfl, rfl, rfl, rfl, rfl⟩)); (case po => first | exact (fun hp => absurd (by decide) hp) | exact (fun _ => ⟨rfl, rfl⟩)); (case k => intro p hp ne np; cases p <;> first | exact (absurd (by decide) hp) | exact (absurd rfl ne) | exact (absurd rfl np) | exact rfl)

theorem losePen_only (b : Nat) (s : State) :
    OnlyIn [.events, .ports, .ldg, .lrd] s (losePen b s) := by
  unfold losePen
  repeat' first
    | with_reducible assumption
    | with_reducible apply OnlyIn.refl
    | (with_reducible apply OnlyIn.ite) <;> intro _
    | (with_reducible apply OnlyIn.step (larderUe_only _ _)); (case q => decide)
    | (with_reducible apply OnlyIn.lit); (case e => exact rfl); (case h => first | with_reducible assumption | with_reducible apply OnlyIn.refl); (case ev => first | exact (fun hp => absurd (by decide) hp) | exact (fun _ => ⟨rfl, rfl, rfl, rfl, rfl⟩)); (case po => first | exact (fun hp => absurd (by decide) hp) | exact (fun _ => ⟨rfl, rfl⟩)); (case k => intro p hp ne np; cases p <;> first | exact (absurd (by decide) hp) | exact (absurd rfl ne) | exact (absurd rfl np) | exact rfl)

theorem foldPen_only (i : Nat) (c : Contrib) (pos : Nat) (s : State) :
    OnlyIn [.events, .maps, .hbm, .poison, .ports, .ldg, .asy, .lrd, .span, .counts] s (foldPen i c pos s) := by
  unfold foldPen
  repeat' first
    | with_reducible assumption
    | with_reducible apply OnlyIn.refl
    | (with_reducible apply OnlyIn.ite) <;> intro _
    | (extract_lets +onlyGivenNames s; fail_if_success (have : State := s); clear_value s)
    | (with_reducible apply OnlyIn.step (noteLate_only _ _ _)); (case q => decide)
    | (with_reducible apply OptIn.step (settleFate_only _ _ _ _ _)); (case q => decide)
    | ((with_reducible apply OnlyIn.step (((settleFate_only _ _ _ _ _)).only _ (by assumption)))); (case q => decide)
    | (with_reducible apply OnlyIn.step (losePen_only _ _)); (case q => decide)
    | split
    | (with_reducible apply OnlyIn.lit); (case e => exact rfl); (case ev => first | exact (fun hp => absurd (by decide) hp) | exact (fun _ => ⟨rfl, rfl, rfl, rfl, rfl⟩)); (case po => first | exact (fun hp => absurd (by decide) hp) | exact (fun _ => ⟨rfl, rfl⟩)); (case k => intro p hp ne np; cases p <;> first | exact (absurd (by decide) hp) | exact (absurd rfl ne) | exact (absurd rfl np) | exact rfl)

theorem foldHead_only (c : Contrib) (rest : List Contrib) (pos : Nat) (s : State) :
    OnlyIn [.events, .maps, .hbm, .poison, .qh, .ports, .ldg, .asy, .lrd, .span, .counts] s (foldHead c rest pos s) := by
  unfold foldHead
  try dsimp only
  repeat' first
    | with_reducible assumption
    | with_reducible apply OnlyIn.refl
    | (with_reducible apply OnlyIn.ite) <;> intro _
    | (with_reducible apply OnlyIn.step (partialTaken_only _ _)); (case q => decide)
    | (with_reducible apply OnlyIn.step (noteLate_only _ _ _)); (case q => decide)
    | (with_reducible apply OnlyIn.step (markRuns_only _ _ _)); (case q => decide)
    | (with_reducible apply OptIn.step (settleFate_only _ _ _ _ _)); (case q => decide)
    | ((with_reducible apply OnlyIn.step (((settleFate_only _ _ _ _ _)).only _ (by assumption)))); (case q => decide)
    | split
    | (with_reducible apply OnlyIn.lit); (case e => exact rfl); (case h => first | with_reducible assumption | with_reducible apply OnlyIn.refl); (case ev => first | exact (fun hp => absurd (by decide) hp) | exact (fun _ => ⟨rfl, rfl, rfl, rfl, rfl⟩)); (case po => first | exact (fun hp => absurd (by decide) hp) | exact (fun _ => ⟨rfl, rfl⟩)); (case k => intro p hp ne np; cases p <;> first | exact (absurd (by decide) hp) | exact (absurd rfl ne) | exact (absurd rfl np) | exact rfl)

theorem foldNext_only (pos : Nat) (s : State) :
    OnlyIn [.events, .maps, .hbm, .poison, .qh, .ports, .ldg, .asy, .lrd, .span, .counts] s (foldNext pos s) := by
  unfold foldNext
  repeat' first
    | with_reducible assumption
    | with_reducible apply OnlyIn.refl
    | (with_reducible apply OnlyIn.ite) <;> intro _
    | (with_reducible apply OnlyIn.step (foldPen_only _ _ _ _)); (case q => decide)
    | (with_reducible apply OnlyIn.step (foldHead_only _ _ _ _)); (case q => decide)
    | split

theorem setAgreed_only (step : Nat) (l : List (Nat × Nat)) (s : State) :
    OnlyIn [.tables] s (setAgreed step l s) := by
  unfold setAgreed
  repeat' first
    | with_reducible assumption
    | with_reducible apply OnlyIn.refl
    | (with_reducible apply OnlyIn.ite) <;> intro _
    | (extract_lets +onlyGivenNames s; fail_if_success (have : State := s); clear_value s)
    | with_reducible apply OnlyIn.getD
    | (with_reducible apply OnlyIn.lit); (case e => exact rfl); (case h => first | with_reducible assumption | with_reducible apply OnlyIn.refl); (case ev => first | exact (fun hp => absurd (by decide) hp) | exact (fun _ => ⟨rfl, rfl, rfl, rfl, rfl⟩)); (case po => first | exact (fun hp => absurd (by decide) hp) | exact (fun _ => ⟨rfl, rfl⟩)); (case k => intro p hp ne np; cases p <;> first | exact (absurd (by decide) hp) | exact (absurd rfl ne) | exact (absurd rfl np) | exact rfl)

theorem resolveOne_only (c : Contrib) (s : State) :
    OnlyIn [.events, .maps, .qh, .ports, .ldg, .asy, .lrd, .span, .counts] s (resolveOne c s).1 := by
  unfold resolveOne
  try dsimp only
  repeat' first
    | with_reducible assumption
    | with_reducible apply OnlyIn.refl
    | (with_reducible apply OnlyIn.ite) <;> intro _
    | (with_reducible apply OnlyIn.step (markRuns_only _ _ _)); (case q => decide)
    | (with_reducible apply OnlyIn.step (forwardPartial_only _ _ _)); (case q => decide)
    | (with_reducible apply OnlyIn.step (discard_only _ _ _)); (case q => decide)
    | (with_reducible apply OnlyIn.step (losePen_only _ _)); (case q => decide)
    | split
    | with_reducible apply OnlyIn.ite_fst
    | (with_reducible apply OnlyIn.lit); (case e => exact rfl); (case ev => first | exact (fun hp => absurd (by decide) hp) | exact (fun _ => ⟨rfl, rfl, rfl, rfl, rfl⟩)); (case po => first | exact (fun hp => absurd (by decide) hp) | exact (fun _ => ⟨rfl, rfl⟩)); (case k => intro p hp ne np; cases p <;> first | exact (absurd (by decide) hp) | exact (absurd rfl ne) | exact (absurd rfl np) | exact rfl)

theorem resolvePen_only (s : State) :
    OnlyIn [.events, .maps, .qh, .ports, .ldg, .asy, .lrd, .span, .counts] s (resolvePen s) := by
  unfold resolvePen
  repeat' first
    | with_reducible assumption
    | with_reducible apply OnlyIn.refl
    | (with_reducible apply OnlyIn.ite) <;> intro _
    | (extract_lets +onlyGivenNames s; fail_if_success (have : State := s); clear_value s)
    | (with_reducible apply OnlyIn.step (raise_only _ _)); (case q => decide)
    | (with_reducible apply OnlyIn.step (resolveOne_only _ _)); (case q => decide)
    | (apply OnlyIn.step (OnlyIn.of_fst (by assumption) (resolveOne_only _ _))); (case q => decide)
    | (with_reducible apply OnlyIn.thenFold_fst); rotate_left; intro _ _
    | (with_reducible apply OnlyIn.thenFold_snd); rotate_left; intro _ _
    | (with_reducible apply OnlyIn.thenFold); rotate_left; intro _ _
    | with_reducible apply OnlyIn.ite_fst
    | (with_reducible apply OnlyIn.lit); (case e => exact rfl); (case h => first | with_reducible assumption | with_reducible apply OnlyIn.refl); (case ev => first | exact (fun hp => absurd (by decide) hp) | exact (fun _ => ⟨rfl, rfl, rfl, rfl, rfl⟩)); (case po => first | exact (fun hp => absurd (by decide) hp) | exact (fun _ => ⟨rfl, rfl⟩)); (case k => intro p hp ne np; cases p <;> first | exact (absurd (by decide) hp) | exact (absurd rfl ne) | exact (absurd rfl np) | exact rfl)

theorem strayPen_only (s : State) :
    OnlyIn [.ldg] s (strayPen s) := by
  unfold strayPen
  repeat' first
    | with_reducible assumption
    | with_reducible apply OnlyIn.refl
    | (with_reducible apply OnlyIn.ite) <;> intro _
    | (extract_lets +onlyGivenNames s; fail_if_success (have : State := s); clear_value s)
    | (with_reducible apply OnlyIn.step (dropPartial_only _ _ _ _)); (case q => decide)
    | (with_reducible apply OnlyIn.thenFold_fst); rotate_left; intro _ _
    | (with_reducible apply OnlyIn.thenFold_snd); rotate_left; intro _ _
    | (with_reducible apply OnlyIn.thenFold); rotate_left; intro _ _
    | split
    | (with_reducible apply OnlyIn.lit); (case e => exact rfl); (case h => first | with_reducible assumption | with_reducible apply OnlyIn.refl); (case ev => first | exact (fun hp => absurd (by decide) hp) | exact (fun _ => ⟨rfl, rfl, rfl, rfl, rfl⟩)); (case po => first | exact (fun hp => absurd (by decide) hp) | exact (fun _ => ⟨rfl, rfl⟩)); (case k => intro p hp ne np; cases p <;> first | exact (absurd (by decide) hp) | exact (absurd rfl ne) | exact (absurd rfl np) | exact rfl)

theorem openStepAt_only (step : Nat) (l : List (Nat × Nat)) (s : State) :
    OnlyIn [.events, .tables, .maps, .qh, .ports, .ldg, .asy, .lrd, .span, .counts] s (openStepAt step l s) := by
  unfold openStepAt
  repeat' first
    | with_reducible assumption
    | with_reducible apply OnlyIn.refl
    | (with_reducible apply OnlyIn.ite) <;> intro _
    | (extract_lets +onlyGivenNames s; fail_if_success (have : State := s); clear_value s)
    | (with_reducible apply OnlyIn.step (setAgreed_only _ _ _)); (case q => decide)
    | (with_reducible apply OnlyIn.step (resolvePen_only _)); (case q => decide)
    | (with_reducible apply OnlyIn.step (strayPen_only _)); (case q => decide)
    | split
    | (with_reducible apply OnlyIn.lit); (case e => exact rfl); (case ev => first | exact (fun hp => absurd (by decide) hp) | exact (fun _ => ⟨rfl, rfl, rfl, rfl, rfl⟩)); (case po => first | exact (fun hp => absurd (by decide) hp) | exact (fun _ => ⟨rfl, rfl⟩)); (case k => intro p hp ne np; cases p <;> first | exact (absurd (by decide) hp) | exact (absurd rfl ne) | exact (absurd rfl np) | exact rfl)

theorem sealFlush_only (step : Nat) (s : State) :
    OnlyIn [.cols] s (sealFlush step s) := by
  unfold sealFlush
  repeat' first
    | with_reducible assumption
    | with_reducible apply OnlyIn.refl
    | (with_reducible apply OnlyIn.ite) <;> intro _
    | (with_reducible apply OnlyIn.lit); (case e => exact rfl); (case h => first | with_reducible assumption | with_reducible apply OnlyIn.refl); (case ev => first | exact (fun hp => absurd (by decide) hp) | exact (fun _ => ⟨rfl, rfl, rfl, rfl, rfl⟩)); (case po => first | exact (fun hp => absurd (by decide) hp) | exact (fun _ => ⟨rfl, rfl⟩)); (case k => intro p hp ne np; cases p <;> first | exact (absurd (by decide) hp) | exact (absurd rfl ne) | exact (absurd rfl np) | exact rfl)

theorem sealStep_only (step : Nat) (s : State) :
    OnlyIn [.cols, .ldg] s (sealStep step s) := by
  unfold sealStep
  repeat' first
    | with_reducible assumption
    | with_reducible apply OnlyIn.refl
    | (with_reducible apply OnlyIn.ite) <;> intro _
    | (with_reducible apply OnlyIn.step (sealFlush_only _ _)); (case q => decide)
    | (with_reducible apply OnlyIn.lit); (case e => exact rfl); (case h => first | with_reducible assumption | with_reducible apply OnlyIn.refl); (case ev => first | exact (fun hp => absurd (by decide) hp) | exact (fun _ => ⟨rfl, rfl, rfl, rfl, rfl⟩)); (case po => first | exact (fun hp => absurd (by decide) hp) | exact (fun _ => ⟨rfl, rfl⟩)); (case k => intro p hp ne np; cases p <;> first | exact (absurd (by decide) hp) | exact (absurd rfl ne) | exact (absurd rfl np) | exact rfl)

theorem writeState_only (t : Table) (a : Nat) (x : OptState) (s : State) :
    OnlyIn [.hbm, .poison] s (writeState t a x s).1 := by
  unfold writeState
  repeat' first
    | with_reducible assumption
    | with_reducible apply OnlyIn.refl
    | (with_reducible apply OnlyIn.ite) <;> intro _
    | (extract_lets +onlyGivenNames s; fail_if_success (have : State := s); clear_value s)
    | (with_reducible apply OnlyIn.step (hbmWrite_only _ _ _)); (case q => decide)
    | with_reducible apply OnlyIn.ite_fst

theorem commitMod_only (f : Commit → Commit) (s : State) :
    OnlyIn [.ldg] s (commitMod f s) := by
  unfold commitMod
  repeat' first
    | with_reducible assumption
    | with_reducible apply OnlyIn.refl
    | (with_reducible apply OnlyIn.ite) <;> intro _
    | (with_reducible apply OnlyIn.lit); (case e => exact rfl); (case h => first | with_reducible assumption | with_reducible apply OnlyIn.refl); (case ev => first | exact (fun hp => absurd (by decide) hp) | exact (fun _ => ⟨rfl, rfl, rfl, rfl, rfl⟩)); (case po => first | exact (fun hp => absurd (by decide) hp) | exact (fun _ => ⟨rfl, rfl⟩)); (case k => intro p hp ne np; cases p <;> first | exact (absurd (by decide) hp) | exact (absurd rfl ne) | exact (absurd rfl np) | exact rfl)

theorem leaveShelf_only (tid slot shelf : Nat) (s : State) :
    OnlyIn [.tables] s (leaveShelf tid slot shelf s) := by
  unfold leaveShelf
  repeat' first
    | with_reducible assumption
    | with_reducible apply OnlyIn.refl
    | (with_reducible apply OnlyIn.ite) <;> intro _
    | (with_reducible apply OnlyIn.step (shelfMod_only _ _ _ _ _)); (case q => decide)
    | (with_reducible apply OnlyIn.lit); (case e => exact rfl); (case h => first | with_reducible assumption | with_reducible apply OnlyIn.refl); (case ev => first | exact (fun hp => absurd (by decide) hp) | exact (fun _ => ⟨rfl, rfl, rfl, rfl, rfl⟩)); (case po => first | exact (fun hp => absurd (by decide) hp) | exact (fun _ => ⟨rfl, rfl⟩)); (case k => intro p hp ne np; cases p <;> first | exact (absurd (by decide) hp) | exact (absurd rfl ne) | exact (absurd rfl np) | exact rfl)

theorem unhold_only (tid slot : Nat) (was now : DirEnt) (s : State) :
    OnlyIn [.hbm, .poison] s (unhold tid slot was now s) := by
  unfold unhold
  repeat' first
    | with_reducible assumption
    | with_reducible apply OnlyIn.refl
    | (with_reducible apply OnlyIn.ite) <;> intro _
    | (extract_lets +onlyGivenNames s; fail_if_success (have : State := s); clear_value s)
    | (with_reducible apply OnlyIn.step (writeShelf_only _ _ _ _)); (case q => decide)
    | split
    | (with_reducible apply OnlyIn.lit); (case e => exact rfl); (case h => first | with_reducible assumption | with_reducible apply OnlyIn.refl); (case ev => first | exact (fun hp => absurd (by decide) hp) | exact (fun _ => ⟨rfl, rfl, rfl, rfl, rfl⟩)); (case po => first | exact (fun hp => absurd (by decide) hp) | exact (fun _ => ⟨rfl, rfl⟩)); (case k => intro p hp ne np; cases p <;> first | exact (absurd (by decide) hp) | exact (absurd rfl ne) | exact (absurd rfl np) | exact rfl)

theorem finishMove_only (m : RowMove) (s : State) :
    OnlyIn [.tables, .hbm, .poison, .lrd] s (finishMove m s) := by
  unfold finishMove
  repeat' first
    | with_reducible assumption
    | with_reducible apply OnlyIn.refl
    | (with_reducible apply OnlyIn.ite) <;> intro _
    | (extract_lets +onlyGivenNames s; fail_if_success (have : State := s); clear_value s)
    | (with_reducible apply OnlyIn.step (writeDir_only _ _ _)); (case q => decide)
    | (with_reducible apply OnlyIn.step (settleRetired_only _ _)); (case q => decide)
    | (with_reducible apply OnlyIn.step (dropCopy_only _ _ _ _)); (case q => decide)
    | (with_reducible apply OnlyIn.step (cleanBlocks_only _ _ _)); (case q => decide)
    | (with_reducible apply OnlyIn.step (leaveShelf_only _ _ _ _)); (case q => decide)
    | (with_reducible apply OnlyIn.step (unhold_only _ _ _ _ _)); (case q => decide)
    | split
    | (with_reducible apply OnlyIn.lit); (case e => exact rfl); (case ev => first | exact (fun hp => absurd (by decide) hp) | exact (fun _ => ⟨rfl, rfl, rfl, rfl, rfl⟩)); (case po => first | exact (fun hp => absurd (by decide) hp) | exact (fun _ => ⟨rfl, rfl⟩)); (case k => intro p hp ne np; cases p <;> first | exact (absurd (by decide) hp) | exact (absurd rfl ne) | exact (absurd rfl np) | exact rfl)

theorem crierSend_only (node : Nat) (b : Nat → PktBody) (s : State) :
    OnlyIn [.events, .ports, .ldg, .asy, .hbmStacks, .span, .counts] s (crierSend node b s) := by
  unfold crierSend
  repeat' first
    | with_reducible assumption
    | with_reducible apply OnlyIn.refl
    | (with_reducible apply OnlyIn.ite) <;> intro _
    | (extract_lets +onlyGivenNames s; fail_if_success (have : State := s); clear_value s)
    | (with_reducible apply OnlyIn.step (sendOwn_only _ _ _)); (case q => decide)
    | (with_reducible apply OnlyIn.step (readCseq_only _ _ _)); (case q => decide)
    | (with_reducible apply OnlyIn.lit); (case e => exact rfl); (case ev => first | exact (fun hp => absurd (by decide) hp) | exact (fun _ => ⟨rfl, rfl, rfl, rfl, rfl⟩)); (case po => first | exact (fun hp => absurd (by decide) hp) | exact (fun _ => ⟨rfl, rfl⟩)); (case k => intro p hp ne np; cases p <;> first | exact (absurd (by decide) hp) | exact (absurd rfl ne) | exact (absurd rfl np) | exact rfl)

theorem crierRow_only (t : Table) (slot : Nat) (key : RowKey) (d : RowSlice) (s : State) :
    OnlyIn [.events, .ports, .ldg, .asy, .hbmStacks, .span, .counts] s (crierRow t slot key d s) := by
  unfold crierRow
  repeat' first
    | with_reducible assumption
    | with_reducible apply OnlyIn.refl
    | (with_reducible apply OnlyIn.ite) <;> intro _
    | (with_reducible apply OnlyIn.step (commitMod_only _ _)); (case q => decide)
    | (with_reducible apply OnlyIn.step (crierSend_only _ _ _)); (case q => decide)
    | (with_reducible apply OnlyIn.thenFold_fst); rotate_left; intro _ _
    | (with_reducible apply OnlyIn.thenFold_snd); rotate_left; intro _ _
    | (with_reducible apply OnlyIn.thenFold); rotate_left; intro _ _
    | (with_reducible apply OnlyIn.lit); (case e => exact rfl); (case h => first | with_reducible assumption | with_reducible apply OnlyIn.refl); (case ev => first | exact (fun hp => absurd (by decide) hp) | exact (fun _ => ⟨rfl, rfl, rfl, rfl, rfl⟩)); (case po => first | exact (fun hp => absurd (by decide) hp) | exact (fun _ => ⟨rfl, rfl⟩)); (case k => intro p hp ne np; cases p <;> first | exact (absurd (by decide) hp) | exact (absurd rfl ne) | exact (absurd rfl np) | exact rfl)

theorem sendMarks_only (s : State) :
    OnlyIn [.events, .ports, .ldg, .asy, .hbmStacks, .span, .counts] s (sendMarks s) := by
  unfold sendMarks
  repeat' first
    | with_reducible assumption
    | with_reducible apply OnlyIn.refl
    | (with_reducible apply OnlyIn.ite) <;> intro _
    | (extract_lets +onlyGivenNames s; fail_if_success (have : State := s); clear_value s)
    | (with_reducible apply OnlyIn.step (commitMod_only _ _)); (case q => decide)
    | (with_reducible apply OnlyIn.step (crierSend_only _ _ _)); (case q => decide)
    | (with_reducible apply OnlyIn.thenFold_fst); rotate_left; intro _ _
    | (with_reducible apply OnlyIn.thenFold_snd); rotate_left; intro _ _
    | (with_reducible apply OnlyIn.thenFold); rotate_left; intro _ _
    | (with_reducible apply OnlyIn.lit); (case e => exact rfl); (case h => first | with_reducible assumption | with_reducible apply OnlyIn.refl); (case ev => first | exact (fun hp => absurd (by decide) hp) | exact (fun _ => ⟨rfl, rfl, rfl, rfl, rfl⟩)); (case po => first | exact (fun hp => absurd (by decide) hp) | exact (fun _ => ⟨rfl, rfl⟩)); (case k => intro p hp ne np; cases p <;> first | exact (absurd (by decide) hp) | exact (absurd rfl ne) | exact (absurd rfl np) | exact rfl)

theorem sendNotice_only (q : PromoReq) (s : State) :
    OnlyIn [.events, .ports, .cols, .ldg, .asy, .span, .counts] s (sendNotice q s) := by
  unfold sendNotice
  repeat' first
    | with_reducible assumption
    | with_reducible apply OnlyIn.refl
    | (with_reducible apply OnlyIn.ite) <;> intro _
    | (with_reducible apply OnlyIn.step (colMod_only _ _ _)); (case q => decide)
    | (with_reducible apply OnlyIn.step (sendOwn_only _ _ _)); (case q => decide)
    | split
    | (with_reducible apply OnlyIn.lit); (case e => exact rfl); (case h => first | with_reducible assumption | with_reducible apply OnlyIn.refl); (case ev => first | exact (fun hp => absurd (by decide) hp) | exact (fun _ => ⟨rfl, rfl, rfl, rfl, rfl⟩)); (case po => first | exact (fun hp => absurd (by decide) hp) | exact (fun _ => ⟨rfl, rfl⟩)); (case k => intro p hp ne np; cases p <;> first | exact (absurd (by decide) hp) | exact (absurd rfl ne) | exact (absurd rfl np) | exact rfl)

theorem noticeKey_only (key : RowKey) (s : State) :
    OnlyIn [.events, .ports, .cols, .ldg, .asy, .span, .counts] s (noticeKey key s) := by
  unfold noticeKey
  repeat' first
    | with_reducible assumption
    | with_reducible apply OnlyIn.refl
    | (with_reducible apply OnlyIn.ite) <;> intro _
    | (extract_lets +onlyGivenNames s; fail_if_success (have : State := s); clear_value s)
    | (with_reducible apply OnlyIn.step (commitMod_only _ _)); (case q => decide)
    | (with_reducible apply OnlyIn.step (sendNotice_only _ _)); (case q => decide)
    | (with_reducible apply OnlyIn.thenFold_fst); rotate_left; intro _ _
    | (with_reducible apply OnlyIn.thenFold_snd); rotate_left; intro _ _
    | (with_reducible apply OnlyIn.thenFold); rotate_left; intro _ _
    | (with_reducible apply OnlyIn.lit); (case e => exact rfl); (case h => first | with_reducible assumption | with_reducible apply OnlyIn.refl); (case ev => first | exact (fun hp => absurd (by decide) hp) | exact (fun _ => ⟨rfl, rfl, rfl, rfl, rfl⟩)); (case po => first | exact (fun hp => absurd (by decide) hp) | exact (fun _ => ⟨rfl, rfl⟩)); (case k => intro p hp ne np; cases p <;> first | exact (absurd (by decide) hp) | exact (absurd rfl ne) | exact (absurd rfl np) | exact rfl)

theorem noticeAll_only (s : State) :
    OnlyIn [.events, .ports, .cols, .ldg, .asy, .span, .counts] s (noticeAll s) := by
  unfold noticeAll
  repeat' first
    | with_reducible assumption
    | with_reducible apply OnlyIn.refl
    | (with_reducible apply OnlyIn.ite) <;> intro _
    | (extract_lets +onlyGivenNames s; fail_if_success (have : State := s); clear_value s)
    | (with_reducible apply OnlyIn.step (commitMod_only _ _)); (case q => decide)
    | (with_reducible apply OnlyIn.step (sendNotice_only _ _)); (case q => decide)
    | (with_reducible apply OnlyIn.thenFold_fst); rotate_left; intro _ _
    | (with_reducible apply OnlyIn.thenFold_snd); rotate_left; intro _ _
    | (with_reducible apply OnlyIn.thenFold); rotate_left; intro _ _
    | (with_reducible apply OnlyIn.lit); (case e => exact rfl); (case h => first | with_reducible assumption | with_reducible apply OnlyIn.refl); (case ev => first | exact (fun hp => absurd (by decide) hp) | exact (fun _ => ⟨rfl, rfl, rfl, rfl, rfl⟩)); (case po => first | exact (fun hp => absurd (by decide) hp) | exact (fun _ => ⟨rfl, rfl⟩)); (case k => intro p hp ne np; cases p <;> first | exact (absurd (by decide) hp) | exact (absurd rfl ne) | exact (absurd rfl np) | exact rfl)

theorem queuePromoted_only (key : RowKey) (s : State) :
    OnlyIn [.ldg] s (queuePromoted key s) := by
  unfold queuePromoted
  repeat' first
    | with_reducible assumption
    | with_reducible apply OnlyIn.refl
    | (with_reducible apply OnlyIn.ite) <;> intro _
    | (extract_lets +onlyGivenNames s; fail_if_success (have : State := s); clear_value s)
    | (with_reducible apply OnlyIn.step (commitMod_only _ _)); (case q => decide)
    | (with_reducible apply OnlyIn.lit); (case e => exact rfl); (case h => first | with_reducible assumption | with_reducible apply OnlyIn.refl); (case ev => first | exact (fun hp => absurd (by decide) hp) | exact (fun _ => ⟨rfl, rfl, rfl, rfl, rfl⟩)); (case po => first | exact (fun hp => absurd (by decide) hp) | exact (fun _ => ⟨rfl, rfl⟩)); (case k => intro p hp ne np; cases p <;> first | exact (absurd (by decide) hp) | exact (absurd rfl ne) | exact (absurd rfl np) | exact rfl)

theorem takePromotion_only (q : PromoReq) (s : State) :
    OnlyIn [.events, .ports, .cols, .ldg, .asy, .lrd, .span, .counts] s (takePromotion q s) := by
  unfold takePromotion
  repeat' first
    | with_reducible assumption
    | with_reducible apply OnlyIn.refl
    | (with_reducible apply OnlyIn.ite) <;> intro _
    | (extract_lets +onlyGivenNames s; fail_if_success (have : State := s); clear_value s)
    | (with_reducible apply OnlyIn.step (meetFilter_only _ _ _)); (case q => decide)
    | (with_reducible apply OnlyIn.step (commitMod_only _ _)); (case q => decide)
    | (with_reducible apply OnlyIn.step (sendNotice_only _ _)); (case q => decide)
    | (with_reducible apply OnlyIn.step (queuePromoted_only _ _)); (case q => decide)
    | (with_reducible apply OnlyIn.lit); (case e => exact rfl); (case h => first | with_reducible assumption | with_reducible apply OnlyIn.refl); (case ev => first | exact (fun hp => absurd (by decide) hp) | exact (fun _ => ⟨rfl, rfl, rfl, rfl, rfl⟩)); (case po => first | exact (fun hp => absurd (by decide) hp) | exact (fun _ => ⟨rfl, rfl⟩)); (case k => intro p hp ne np; cases p <;> first | exact (absurd (by decide) hp) | exact (absurd rfl ne) | exact (absurd rfl np) | exact rfl)

theorem writeJournal_only (step : Nat) (es : List JEntry) (s : State) :
    OnlyIn [.hbm, .poison] s (writeJournal step es s) := by
  unfold writeJournal
  repeat' first
    | with_reducible assumption
    | with_reducible apply OnlyIn.refl
    | (with_reducible apply OnlyIn.ite) <;> intro _
    | (with_reducible apply OnlyIn.step (hbmWrite_only _ _ _)); (case q => decide)
    | (with_reducible apply OnlyIn.thenFold_fst); rotate_left; intro _ _
    | (with_reducible apply OnlyIn.thenFold_snd); rotate_left; intro _ _
    | (with_reducible apply OnlyIn.thenFold); rotate_left; intro _ _

theorem startJournal_only (step : Nat) (lambda : W32) (s : State) :
    OnlyIn [.tables, .ldg] s (startJournal step lambda s) := by
  unfold startJournal
  repeat' first
    | with_reducible assumption
    | with_reducible apply OnlyIn.refl
    | (with_reducible apply OnlyIn.ite) <;> intro _
    | (extract_lets +onlyGivenNames s; fail_if_success (have : State := s); clear_value s)
    | (with_reducible apply OnlyIn.step (commitMod_only _ _)); (case q => decide)
    | (with_reducible apply OnlyIn.lit); (case e => exact rfl); (case ev => first | exact (fun hp => absurd (by decide) hp) | exact (fun _ => ⟨rfl, rfl, rfl, rfl, rfl⟩)); (case po => first | exact (fun hp => absurd (by decide) hp) | exact (fun _ => ⟨rfl, rfl⟩)); (case k => intro p hp ne np; cases p <;> first | exact (absurd (by decide) hp) | exact (absurd rfl ne) | exact (absurd rfl np) | exact rfl)

theorem startRedo_only (j : Journal) (s : State) :
    OnlyIn [.tables, .ldg] s (startRedo j s) := by
  unfold startRedo
  repeat' first
    | with_reducible assumption
    | with_reducible apply OnlyIn.refl
    | (with_reducible apply OnlyIn.ite) <;> intro _
    | (extract_lets +onlyGivenNames s; fail_if_success (have : State := s); clear_value s)
    | (with_reducible apply OnlyIn.step (commitMod_only _ _)); (case q => decide)
    | (with_reducible apply OnlyIn.lit); (case e => exact rfl); (case h => first | with_reducible assumption | with_reducible apply OnlyIn.refl); (case ev => first | exact (fun hp => absurd (by decide) hp) | exact (fun _ => ⟨rfl, rfl, rfl, rfl, rfl⟩)); (case po => first | exact (fun hp => absurd (by decide) hp) | exact (fun _ => ⟨rfl, rfl⟩)); (case k => intro p hp ne np; cases p <;> first | exact (absurd (by decide) hp) | exact (absurd rfl ne) | exact (absurd rfl np) | exact rfl)

theorem advanceSpill_only (s : State) :
    OnlyIn [.events, .ports, .cols, .ldg, .asy, .span, .counts] s (advanceSpill s) := by
  unfold advanceSpill
  repeat' first
    | with_reducible assumption
    | with_reducible apply OnlyIn.refl
    | (with_reducible apply OnlyIn.ite) <;> intro _
    | (extract_lets +onlyGivenNames s; fail_if_success (have : State := s); clear_value s)
    | (with_reducible apply OnlyIn.step (commitMod_only _ _)); (case q => decide)
    | (with_reducible apply OnlyIn.step (noticeAll_only _)); (case q => decide)
    | with_reducible apply OnlyIn.getD
    | (with_reducible apply OnlyIn.lit); (case e => exact rfl); (case h => first | with_reducible assumption | with_reducible apply OnlyIn.refl); (case ev => first | exact (fun hp => absurd (by decide) hp) | exact (fun _ => ⟨rfl, rfl, rfl, rfl, rfl⟩)); (case po => first | exact (fun hp => absurd (by decide) hp) | exact (fun _ => ⟨rfl, rfl⟩)); (case k => intro p hp ne np; cases p <;> first | exact (absurd (by decide) hp) | exact (absurd rfl ne) | exact (absurd rfl np) | exact rfl)

theorem writeDefault_only (tid slot : Nat) (m : RowMeta) (xs : List W32) (s : State) :
    OnlyIn [.events, .hbm, .poison, .ports, .asy] s (writeDefault tid slot m xs s) := by
  unfold writeDefault
  repeat' first
    | with_reducible assumption
    | with_reducible apply OnlyIn.refl
    | (with_reducible apply OnlyIn.ite) <;> intro _
    | (extract_lets +onlyGivenNames s; fail_if_success (have : State := s); clear_value s)
    | (with_reducible apply OnlyIn.step (assay_only _ _ _)); (case q => decide)
    | (with_reducible apply OnlyIn.step (hbmWrite_only _ _ _)); (case q => decide)
    | split

theorem writeUpdate_only (t : Table) (p : RowPlace) (e : JEntry) (h : Hdr) (xs : List W32) (st : OptState) (s : State) :
    OnlyIn [.events, .tables, .hbm, .poison, .ports, .ldg, .asy, .lrd] s (writeUpdate t p e h xs st s) := by
  unfold writeUpdate
  repeat' first
    | with_reducible assumption
    | with_reducible apply OnlyIn.refl
    | (with_reducible apply OnlyIn.ite) <;> intro _
    | (extract_lets +onlyGivenNames s; fail_if_success (have : State := s); clear_value s)
    | (with_reducible apply OnlyIn.step (writeRowAt_only _ _ _ _ _ _ _)); (case q => decide)
    | (with_reducible apply OnlyIn.step (refreshCopy_only _ _ _ _)); (case q => decide)
    | (with_reducible apply OnlyIn.step (writeState_only _ _ _ _)); (case q => decide)
    | (apply OnlyIn.step (OnlyIn.of_fst (by assumption) (writeState_only _ _ _ _))); (case q => decide)
    | (with_reducible apply OnlyIn.step (commitMod_only _ _)); (case q => decide)
    | (with_reducible apply OnlyIn.step (writeDefault_only _ _ _ _ _)); (case q => decide)
    | with_reducible apply OnlyIn.ite_fst
    | (with_reducible apply OnlyIn.lit); (case e => exact rfl); (case h => first | with_reducible assumption | with_reducible apply OnlyIn.refl); (case ev => first | exact (fun hp => absurd (by decide) hp) | exact (fun _ => ⟨rfl, rfl, rfl, rfl, rfl⟩)); (case po => first | exact (fun hp => absurd (by decide) hp) | exact (fun _ => ⟨rfl, rfl⟩)); (case k => intro p hp ne np; cases p <;> first | exact (absurd (by decide) hp) | exact (absurd rfl ne) | exact (absurd rfl np) | exact rfl)

theorem crierKey_only (t : Table) (p : RowPlace) (key : RowKey) (s : State) :
    OnlyIn [.events, .ports, .ldg, .asy, .hbmStacks, .span, .counts] s (crierKey t p key s) := by
  unfold crierKey
  repeat' first
    | with_reducible assumption
    | with_reducible apply OnlyIn.refl
    | (with_reducible apply OnlyIn.ite) <;> intro _
    | (with_reducible apply OnlyIn.step (crierRow_only _ _ _ _ _)); (case q => decide)
    | split

theorem recordBad_only (e : JEntry) (bad : Option Nat) (s : State) :
    OnlyIn [.events, .ports, .ldg, .lrd, .hbmStacks] s (recordBad e bad s).2 := by
  unfold recordBad
  repeat' first
    | with_reducible assumption
    | with_reducible apply OnlyIn.refl
    | (with_reducible apply OnlyIn.ite) <;> intro _
    | (extract_lets +onlyGivenNames s; apply OnlyIn.via (s := s); unfold s; rotate_left; generalize s = x; clear s; intro _; rotate_right)
    | (extract_lets +onlyGivenNames s; fail_if_success (have : State := s))
    | (with_reducible apply OnlyIn.step (countPoisonRead_only _ _)); (case q => decide)
    | (with_reducible apply OnlyIn.step (larderUe_only _ _)); (case q => decide)
    | (with_reducible apply OnlyIn.step (meetRecord_only _ _ _)); (case q => decide)
    | split
    | with_reducible apply OnlyIn.ite_snd
    | with_reducible apply OnlyIn.getD

theorem applyGet_only (t : Table) (p : RowPlace) (e : JEntry) (bad : Option Nat) (errs : List CwErr) (s : State) :
    OnlyIn [.events, .hbm, .poison, .ports, .ldg, .lrd, .hbmStacks] s (applyGet t p e bad errs s).2 := by
  unfold applyGet
  dsimp only
  have h := ((fixErrs_only (rowRanges s t p e.key ++ stateRanges t p ++
    (if s.ldg.commit.redo then [(e.loc, jentrySize e)] else [])) errs s).mono (m := [.events, .hbm, .poison, .ports, .ldg, .lrd, .hbmStacks]) (by decide)).trans
    ((recordBad_only e bad _).mono (by decide))
  refine OnlyIn.step (loseErrs_only _ _) (by decide) ?_
  split
  · exact OnlyIn.step (countPoisonRead_only _ _) (by decide) (OnlyIn.step (noteRead_only _ _) (by decide) h)
  · exact OnlyIn.step (noteRead_only _ _) (by decide) h

theorem applyRow_only (t : Table) (p : RowPlace) (e : JEntry) (bad : Option Nat) (errs : List CwErr) (s : State) :
    OnlyIn [.events, .tables, .hbm, .poison, .ports, .ldg, .asy, .lrd, .hbmStacks, .span, .counts] s (applyRow t p e bad errs s).2 := by
  unfold applyRow
  have h := (applyGet_only t p e bad errs s).mono (m := [.events, .tables, .hbm, .poison, .ports, .ldg, .asy, .lrd, .hbmStacks, .span, .counts]) (by decide)
  split <;> rename_i q <;> rw [q] at h
  · exact OnlyIn.step (crierKey_only _ _ _ _) (by decide) (OnlyIn.step (raise_only _ _) (by decide) h)
  · dsimp only
    split
    · exact OnlyIn.step (crierKey_only _ _ _ _) (by decide) h
    · exact OnlyIn.step (crierKey_only _ _ _ _) (by decide) (OnlyIn.step (writeUpdate_only _ _ _ _ _ _ _) (by decide) h)

theorem markApplied_only (key : RowKey) (s : State) :
    OnlyIn [.events, .ports, .cols, .ldg, .asy, .span, .counts] s (markApplied key s) := by
  unfold markApplied
  repeat' first
    | with_reducible assumption
    | with_reducible apply OnlyIn.refl
    | (with_reducible apply OnlyIn.ite) <;> intro _
    | (extract_lets +onlyGivenNames s; fail_if_success (have : State := s); clear_value s)
    | (with_reducible apply OnlyIn.step (noticeKey_only _ _)); (case q => decide)
    | (with_reducible apply OnlyIn.lit); (case e => exact rfl); (case h => first | with_reducible assumption | with_reducible apply OnlyIn.refl); (case ev => first | exact (fun hp => absurd (by decide) hp) | exact (fun _ => ⟨rfl, rfl, rfl, rfl, rfl⟩)); (case po => first | exact (fun hp => absurd (by decide) hp) | exact (fun _ => ⟨rfl, rfl⟩)); (case k => intro p hp ne np; cases p <;> first | exact (absurd (by decide) hp) | exact (absurd rfl ne) | exact (absurd rfl np) | exact rfl)

theorem freeEntry_only (key : RowKey) (s : State) :
    OnlyIn [.ldg] s (freeEntry key s) := by
  unfold freeEntry
  repeat' first
    | with_reducible assumption
    | with_reducible apply OnlyIn.refl
    | (with_reducible apply OnlyIn.ite) <;> intro _
    | (extract_lets +onlyGivenNames s; fail_if_success (have : State := s); clear_value s)
    | (with_reducible apply OnlyIn.step (commitMod_only _ _)); (case q => decide)
    | (with_reducible apply OnlyIn.lit); (case e => exact rfl); (case h => first | with_reducible assumption | with_reducible apply OnlyIn.refl); (case ev => first | exact (fun hp => absurd (by decide) hp) | exact (fun _ => ⟨rfl, rfl, rfl, rfl, rfl⟩)); (case po => first | exact (fun hp => absurd (by decide) hp) | exact (fun _ => ⟨rfl, rfl⟩)); (case k => intro p hp ne np; cases p <;> first | exact (absurd (by decide) hp) | exact (absurd rfl ne) | exact (absurd rfl np) | exact rfl)

theorem applyEntry_only (e : JEntry) (bad : Option Nat) (errs : List CwErr) (s : State) :
    OnlyIn [.events, .tables, .hbm, .poison, .ports, .cols, .ldg, .asy, .lrd, .hbmStacks, .span, .counts] s (applyEntry e bad errs s) := by
  unfold applyEntry
  repeat' first
    | with_reducible assumption
    | with_reducible apply OnlyIn.refl
    | (with_reducible apply OnlyIn.ite) <;> intro _
    | (extract_lets +onlyGivenNames s; fail_if_success (have : State := s); clear_value s)
    | (with_reducible apply OnlyIn.step (countEv_only _ _ _ _)); (case q => decide)
    | (with_reducible apply OnlyIn.step (commitMod_only _ _)); (case q => decide)
    | (with_reducible apply OnlyIn.step (applyRow_only _ _ _ _ _ _)); (case q => decide)
    | (apply OnlyIn.step (OnlyIn.of_snd (by assumption) (applyRow_only _ _ _ _ _ _))); (case q => decide)
    | (with_reducible apply OnlyIn.step (markApplied_only _ _)); (case q => decide)
    | (with_reducible apply OnlyIn.step (freeEntry_only _ _)); (case q => decide)
    | split
    | with_reducible apply OnlyIn.ite_snd

theorem loseSpill_only (r : Spill) (s : State) :
    OnlyIn [.ldg] s (loseSpill r s) := by
  unfold loseSpill
  repeat' first
    | with_reducible assumption
    | with_reducible apply OnlyIn.refl
    | (with_reducible apply OnlyIn.ite) <;> intro _
    | (extract_lets +onlyGivenNames s; fail_if_success (have : State := s); clear_value s)
    | (with_reducible apply OnlyIn.step (commitMod_only _ _)); (case q => decide)
    | (with_reducible apply OnlyIn.lit); (case e => exact rfl); (case ev => first | exact (fun hp => absurd (by decide) hp) | exact (fun _ => ⟨rfl, rfl, rfl, rfl, rfl⟩)); (case po => first | exact (fun hp => absurd (by decide) hp) | exact (fun _ => ⟨rfl, rfl⟩)); (case k => intro p hp ne np; cases p <;> first | exact (absurd (by decide) hp) | exact (absurd rfl ne) | exact (absurd rfl np) | exact rfl)

theorem foldSpillRec_only (r : Spill) (x : Scan) (s : State) :
    OnlyIn [.ldg, .lrd] s (foldSpillRec r x s).2 := by
  unfold foldSpillRec
  repeat' first
    | with_reducible assumption
    | with_reducible apply OnlyIn.refl
    | (with_reducible apply OnlyIn.ite) <;> intro _
    | (with_reducible apply OnlyIn.step (newEntry_only _ _ _ _ _ _)); (case q => decide)
    | (with_reducible apply OnlyIn.step (commitMod_only _ _)); (case q => decide)
    | split
    | with_reducible apply OnlyIn.ite_snd
    | (with_reducible apply OnlyIn.lit); (case e => exact rfl); (case h => first | with_reducible assumption | with_reducible apply OnlyIn.refl); (case ev => first | exact (fun hp => absurd (by decide) hp) | exact (fun _ => ⟨rfl, rfl, rfl, rfl, rfl⟩)); (case po => first | exact (fun hp => absurd (by decide) hp) | exact (fun _ => ⟨rfl, rfl⟩)); (case k => intro p hp ne np; cases p <;> first | exact (absurd (by decide) hp) | exact (absurd rfl ne) | exact (absurd rfl np) | exact rfl)

theorem scanSpill_only (p : Scan × State) (r : Spill) : OnlyIn [.events, .ports, .ldg, .lrd, .hbmStacks] p.2 (scanSpill p r).2 := by
  unfold scanSpill
  split
  · exact OnlyIn.step (raise_only _ _) (by decide) (OnlyIn.step (countPoisonRead_only _ _) (by decide)
      ((loseSpill_only _ _).mono (by decide)))
  · exact (foldSpillRec_only _ _ _).mono (by decide)

theorem scanSpills_only (s : State) : OnlyIn [.events, .ports, .ldg, .lrd, .hbmStacks] s (scanSpills s) := by
  unfold scanSpills
  have h := OnlyIn.foldl_snd (f := scanSpill) scanSpill_only s.ldg.commit.spillLeft (⟨[], [], 0⟩, s)
  split
  rename_i q
  rw [q] at h
  exact OnlyIn.step (commitMod_only _ _) (by decide) h

theorem rebuildsMod_only (f : List Rebuild → List Rebuild) (s : State) :
    OnlyIn [.ldg] s (rebuildsMod f s) := by
  unfold rebuildsMod
  repeat' first
    | with_reducible assumption
    | with_reducible apply OnlyIn.refl
    | (with_reducible apply OnlyIn.ite) <;> intro _
    | (with_reducible apply OnlyIn.lit); (case e => exact rfl); (case h => first | with_reducible assumption | with_reducible apply OnlyIn.refl); (case ev => first | exact (fun hp => absurd (by decide) hp) | exact (fun _ => ⟨rfl, rfl, rfl, rfl, rfl⟩)); (case po => first | exact (fun hp => absurd (by decide) hp) | exact (fun _ => ⟨rfl, rfl⟩)); (case k => intro p hp ne np; cases p <;> first | exact (absurd (by decide) hp) | exact (absurd rfl ne) | exact (absurd rfl np) | exact rfl)

theorem settleRebuilds_only (s : State) :
    OnlyIn [.ldg] s (settleRebuilds s) := by
  unfold settleRebuilds
  repeat' first
    | with_reducible assumption
    | with_reducible apply OnlyIn.refl
    | (with_reducible apply OnlyIn.ite) <;> intro _
    | (with_reducible apply OnlyIn.step (rebuildsMod_only _ _)); (case q => decide)
    | (with_reducible apply OnlyIn.lit); (case e => exact rfl); (case h => first | with_reducible assumption | with_reducible apply OnlyIn.refl); (case ev => first | exact (fun hp => absurd (by decide) hp) | exact (fun _ => ⟨rfl, rfl, rfl, rfl, rfl⟩)); (case po => first | exact (fun hp => absurd (by decide) hp) | exact (fun _ => ⟨rfl, rfl⟩)); (case k => intro p hp ne np; cases p <;> first | exact (absurd (by decide) hp) | exact (absurd rfl ne) | exact (absurd rfl np) | exact rfl)

theorem advance_only (s : State) :
    OnlyIn [.events, .ports, .cols, .ldg, .asy, .hbmStacks, .span, .counts] s (advance s) := by
  unfold advance
  repeat' first
    | with_reducible assumption
    | with_reducible apply OnlyIn.refl
    | (with_reducible apply OnlyIn.ite) <;> intro _
    | (extract_lets +onlyGivenNames s; fail_if_success (have : State := s); clear_value s)
    | (with_reducible apply OnlyIn.step (commitMod_only _ _)); (case q => decide)
    | (with_reducible apply OnlyIn.step (sendMarks_only _)); (case q => decide)
    | (with_reducible apply OnlyIn.step (advanceSpill_only _)); (case q => decide)
    | (with_reducible apply OnlyIn.step (settleRebuilds_only _)); (case q => decide)
    | (with_reducible apply OnlyIn.lit); (case e => exact rfl); (case h => first | with_reducible assumption | with_reducible apply OnlyIn.refl); (case ev => first | exact (fun hp => absurd (by decide) hp) | exact (fun _ => ⟨rfl, rfl, rfl, rfl, rfl⟩)); (case po => first | exact (fun hp => absurd (by decide) hp) | exact (fun _ => ⟨rfl, rfl⟩)); (case k => intro p hp ne np; cases p <;> first | exact (absurd (by decide) hp) | exact (absurd rfl ne) | exact (absurd rfl np) | exact rfl)

theorem copyRow_only (tid slot shelf dst : Nat) (delta : Int) (p : Nat × DirEnt) (s : State) :
    OnlyIn [.events, .tables, .moves, .hbm, .poison, .ports, .asy, .hbmStacks] s (copyRow tid slot shelf dst delta p s).1 := by
  unfold copyRow
  repeat' first
    | with_reducible assumption
    | with_reducible apply OnlyIn.refl
    | (with_reducible apply OnlyIn.ite) <;> intro _
    | (extract_lets +onlyGivenNames s; fail_if_success (have : State := s); clear_value s)
    | (with_reducible apply OnlyIn.step (assay_only _ _ _)); (case q => decide)
    | (with_reducible apply OnlyIn.step (hbmWrite_only _ _ _)); (case q => decide)
    | (with_reducible apply OnlyIn.step (writeShelf_only _ _ _ _)); (case q => decide)
    | (with_reducible apply OnlyIn.step (shelfMod_only _ _ _ _ _)); (case q => decide)
    | (with_reducible apply OnlyIn.step (startMove_only _ _ _ _ _)); (case q => decide)
    | (with_reducible apply OnlyIn.step (countPoisons_only _ _)); (case q => decide)
    | split
    | with_reducible apply OnlyIn.ite_fst
    | with_reducible apply OnlyIn.getD
    | (with_reducible apply OnlyIn.lit); (case e => exact rfl); (case h => first | with_reducible assumption | with_reducible apply OnlyIn.refl); (case ev => first | exact (fun hp => absurd (by decide) hp) | exact (fun _ => ⟨rfl, rfl, rfl, rfl, rfl⟩)); (case po => first | exact (fun hp => absurd (by decide) hp) | exact (fun _ => ⟨rfl, rfl⟩)); (case k => intro p hp ne np; cases p <;> first | exact (absurd (by decide) hp) | exact (absurd rfl ne) | exact (absurd rfl np) | exact rfl)

theorem crierAt_only (tid slot row : Nat) (e : DirEnt) (s : State) :
    OnlyIn [.events, .ports, .ldg, .asy, .hbmStacks, .span, .counts] s (crierAt tid slot row e s) := by
  unfold crierAt
  repeat' first
    | with_reducible assumption
    | with_reducible apply OnlyIn.refl
    | (with_reducible apply OnlyIn.ite) <;> intro _
    | (with_reducible apply OnlyIn.step (crierRow_only _ _ _ _ _)); (case q => decide)
    | split

theorem copyRows_only (tid slot shelf dst : Nat) (delta : Int) (rows : List (Nat × DirEnt)) (s : State) :
    OnlyIn [.events, .tables, .moves, .hbm, .poison, .ports, .ldg, .asy, .hbmStacks, .span, .counts] s (copyRows tid slot shelf dst delta rows s) := by
  unfold copyRows
  repeat' first
    | with_reducible assumption
    | with_reducible apply OnlyIn.refl
    | (with_reducible apply OnlyIn.ite) <;> intro _
    | (extract_lets +onlyGivenNames s; fail_if_success (have : State := s); clear_value s)
    | (with_reducible apply OnlyIn.step (rebuildsMod_only _ _)); (case q => decide)
    | (with_reducible apply OnlyIn.step (copyRow_only _ _ _ _ _ _ _)); (case q => decide)
    | (apply OnlyIn.step (OnlyIn.of_fst (by assumption) (copyRow_only _ _ _ _ _ _ _))); (case q => decide)
    | (with_reducible apply OnlyIn.step (crierAt_only _ _ _ _ _)); (case q => decide)
    | (with_reducible apply OnlyIn.thenFold_fst); rotate_left; intro _ _
    | (with_reducible apply OnlyIn.thenFold_snd); rotate_left; intro _ _
    | (with_reducible apply OnlyIn.thenFold); rotate_left; intro _ _
    | split
    | with_reducible apply OnlyIn.ite_fst
    | (with_reducible apply OnlyIn.lit); (case e => exact rfl); (case h => first | with_reducible assumption | with_reducible apply OnlyIn.refl); (case ev => first | exact (fun hp => absurd (by decide) hp) | exact (fun _ => ⟨rfl, rfl, rfl, rfl, rfl⟩)); (case po => first | exact (fun hp => absurd (by decide) hp) | exact (fun _ => ⟨rfl, rfl⟩)); (case k => intro p hp ne np; cases p <;> first | exact (absurd (by decide) hp) | exact (absurd rfl ne) | exact (absurd rfl np) | exact rfl)

theorem rebuildShelf_only (t : Table) (d : Due) (i : ShelfInfo) (dst : Nat) (s : State) :
    OnlyIn [.events, .tables, .moves, .hbm, .poison, .ports, .ldg, .asy, .hbmStacks, .span, .counts] s (rebuildShelf t d i dst s) := by
  unfold rebuildShelf
  repeat' first
    | with_reducible assumption
    | with_reducible apply OnlyIn.refl
    | (with_reducible apply OnlyIn.ite) <;> intro _
    | (extract_lets +onlyGivenNames s; fail_if_success (have : State := s); clear_value s)
    | (with_reducible apply OnlyIn.step (writeShelf_only _ _ _ _)); (case q => decide)
    | (with_reducible apply OnlyIn.step (shelfMod_only _ _ _ _ _)); (case q => decide)
    | (with_reducible apply OnlyIn.step (newShelf_only _ _ _ _ _ _)); (case q => decide)
    | (with_reducible apply OnlyIn.step (commitMod_only _ _)); (case q => decide)
    | (with_reducible apply OnlyIn.step (rebuildsMod_only _ _)); (case q => decide)
    | (with_reducible apply OnlyIn.step (copyRows_only _ _ _ _ _ _ _)); (case q => decide)
    | with_reducible apply OnlyIn.getD
    | (with_reducible apply OnlyIn.lit); (case e => exact rfl); (case ev => first | exact (fun hp => absurd (by decide) hp) | exact (fun _ => ⟨rfl, rfl, rfl, rfl, rfl⟩)); (case po => first | exact (fun hp => absurd (by decide) hp) | exact (fun _ => ⟨rfl, rfl⟩)); (case k => intro p hp ne np; cases p <;> first | exact (absurd (by decide) hp) | exact (absurd rfl ne) | exact (absurd rfl np) | exact rfl)

theorem resendRecoded_only (j : Journal) (s : State) :
    OnlyIn [.events, .ports, .ldg, .asy, .hbmStacks, .span, .counts] s (resendRecoded j s) := by
  unfold resendRecoded
  repeat' first
    | with_reducible assumption
    | with_reducible apply OnlyIn.refl
    | (with_reducible apply OnlyIn.ite) <;> intro _
    | (with_reducible apply OnlyIn.step (crierAt_only _ _ _ _ _)); (case q => decide)
    | (with_reducible apply OnlyIn.thenFold_fst); rotate_left; intro _ _
    | (with_reducible apply OnlyIn.thenFold_snd); rotate_left; intro _ _
    | (with_reducible apply OnlyIn.thenFold); rotate_left; intro _ _
    | split

theorem meetEntries_only (q : Nat) (s : State) :
    OnlyIn [.events, .ports, .ldg, .lrd] s (meetEntries q s) := by
  unfold meetEntries
  repeat' first
    | with_reducible assumption
    | with_reducible apply OnlyIn.refl
    | (with_reducible apply OnlyIn.ite) <;> intro _
    | (with_reducible apply OnlyIn.step (meetFilter_only _ _ _)); (case q => decide)
    | (with_reducible apply OnlyIn.step (meetRecord_only _ _ _)); (case q => decide)
    | (with_reducible apply OnlyIn.thenFold_fst); rotate_left; intro _ _
    | (with_reducible apply OnlyIn.thenFold_snd); rotate_left; intro _ _
    | (with_reducible apply OnlyIn.thenFold); rotate_left; intro _ _

theorem flushJournal_only (j : Journal) (s : State) :
    OnlyIn [.events, .hbm, .poison, .ports, .ldg, .lrd] s (flushJournal j s) := by
  unfold flushJournal
  repeat' first
    | with_reducible assumption
    | with_reducible apply OnlyIn.refl
    | (with_reducible apply OnlyIn.ite) <;> intro _
    | (extract_lets +onlyGivenNames s; fail_if_success (have : State := s); clear_value s)
    | (with_reducible apply OnlyIn.step (commitMod_only _ _)); (case q => decide)
    | (with_reducible apply OnlyIn.step (writeJournal_only _ _ _)); (case q => decide)
    | (with_reducible apply OnlyIn.step (meetEntries_only _ _)); (case q => decide)
    | (with_reducible apply OnlyIn.thenFold_fst); rotate_left; intro _ _
    | (with_reducible apply OnlyIn.thenFold_snd); rotate_left; intro _ _
    | (with_reducible apply OnlyIn.thenFold); rotate_left; intro _ _
    | (with_reducible apply OnlyIn.lit); (case e => exact rfl); (case ev => first | exact (fun hp => absurd (by decide) hp) | exact (fun _ => ⟨rfl, rfl, rfl, rfl, rfl⟩)); (case po => first | exact (fun hp => absurd (by decide) hp) | exact (fun _ => ⟨rfl, rfl⟩)); (case k => intro p hp ne np; cases p <;> first | exact (absurd (by decide) hp) | exact (absurd rfl ne) | exact (absurd rfl np) | exact rfl)

theorem freeStep_only (q : Nat) (s : State) :
    OnlyIn [.ldg, .lrd] s (freeStep q s) := by
  unfold freeStep
  repeat' first
    | with_reducible assumption
    | with_reducible apply OnlyIn.refl
    | (with_reducible apply OnlyIn.ite) <;> intro _
    | (extract_lets +onlyGivenNames s; fail_if_success (have : State := s); clear_value s)
    | (with_reducible apply OnlyIn.step (cleanBlocks_only _ _ _)); (case q => decide)
    | (with_reducible apply OnlyIn.lit); (case e => exact rfl); (case ev => first | exact (fun hp => absurd (by decide) hp) | exact (fun _ => ⟨rfl, rfl, rfl, rfl, rfl⟩)); (case po => first | exact (fun hp => absurd (by decide) hp) | exact (fun _ => ⟨rfl, rfl⟩)); (case k => intro p hp ne np; cases p <;> first | exact (absurd (by decide) hp) | exact (absurd rfl ne) | exact (absurd rfl np) | exact rfl)

theorem finishCommit_only (duration : Nat) (s : State) :
    OnlyIn [.events, .block, .mbx, .clerk, .ports, .cols, .ldg, .asy, .lrd, .span, .counts] s (finishCommit duration s) := by
  unfold finishCommit
  repeat' first
    | with_reducible assumption
    | with_reducible apply OnlyIn.refl
    | (with_reducible apply OnlyIn.ite) <;> intro _
    | (extract_lets +onlyGivenNames s; fail_if_success (have : State := s); clear_value s)
    | (with_reducible apply OnlyIn.step (settle_only _)); (case q => decide)
    | (with_reducible apply OnlyIn.step (raise_only _ _)); (case q => decide)
    | (with_reducible apply OnlyIn.step (reportAll_only _ _ _ _)); (case q => decide)
    | (with_reducible apply OnlyIn.step (asyCommitEnd_only _)); (case q => decide)
    | (with_reducible apply OnlyIn.step (commitMod_only _ _)); (case q => decide)
    | (with_reducible apply OnlyIn.step (noticeAll_only _)); (case q => decide)
    | (with_reducible apply OnlyIn.step (freeStep_only _ _)); (case q => decide)
    | (with_reducible apply OnlyIn.lit); (case e => exact rfl); (case h => first | with_reducible assumption | with_reducible apply OnlyIn.refl); (case ev => first | exact (fun hp => absurd (by decide) hp) | exact (fun _ => ⟨rfl, rfl, rfl, rfl, rfl⟩)); (case po => first | exact (fun hp => absurd (by decide) hp) | exact (fun _ => ⟨rfl, rfl⟩)); (case k => intro p hp ne np; cases p <;> first | exact (absurd (by decide) hp) | exact (absurd rfl ne) | exact (absurd rfl np) | exact rfl)

theorem transmit_only (port : Nat) (f : Port → Port) (s : State) :
    OnlyIn [.span, .counts] s (transmit port f s) := by
  unfold transmit
  repeat' first
    | with_reducible assumption
    | with_reducible apply OnlyIn.refl
    | (with_reducible apply OnlyIn.ite) <;> intro _
    | (extract_lets +onlyGivenNames s; fail_if_success (have : State := s); clear_value s)
    | (with_reducible apply OnlyIn.step (countEv_only _ _ _ _)); (case q => decide)
    | (with_reducible apply OnlyIn.step (portMod_only _ _ _)); (case q => decide)

theorem grantNow_only (port : Nat) (s : State) :
    OnlyIn [.span, .counts] s (grantNow port s) := by
  unfold grantNow
  repeat' first
    | with_reducible assumption
    | with_reducible apply OnlyIn.refl
    | (with_reducible apply OnlyIn.ite) <;> intro _
    | (with_reducible apply OnlyIn.step (transmit_only _ _ _)); (case q => decide)

theorem returnCells_only (l : List (Nat × Nat × Nat)) (s : State) :
    OnlyIn [.span, .counts] s (returnCells l s) := by
  unfold returnCells
  repeat' first
    | with_reducible assumption
    | with_reducible apply OnlyIn.refl
    | (with_reducible apply OnlyIn.ite) <;> intro _
    | (with_reducible apply OnlyIn.step (oweCells_only _ _)); (case q => decide)
    | (with_reducible apply OnlyIn.step (grantNow_only _ _)); (case q => decide)
    | (with_reducible apply OnlyIn.thenFold_fst); rotate_left; intro _ _
    | (with_reducible apply OnlyIn.thenFold_snd); rotate_left; intro _ _
    | (with_reducible apply OnlyIn.thenFold); rotate_left; intro _ _

end Sys2Proof.Machine
end

