-- ==== Sys2Proof/Laws/FrameTables.lean ====
section
/-! SUPPORT. Which parts of the state each operation may change: tables, replicas, the Span and home maps. -/

set_option linter.all false

namespace Sys2Proof.Machine

open Sys2Proof

theorem openSlot_only (tid i rows shelves : Nat) (p : Placement) (s : State) :
    OnlyIn [.tables, .moves, .hbm, .poison, .asy, .lrd] s (openSlot tid i rows shelves p s) := by
  unfold openSlot
  repeat' first
    | with_reducible assumption
    | with_reducible apply OnlyIn.refl
    | (with_reducible apply OnlyIn.ite) <;> intro _
    | (extract_lets +onlyGivenNames s; fail_if_success (have : State := s); clear_value s)
    | (with_reducible apply OnlyIn.step (asySpanStart_only _ _ _)); (case q => decide)
    | (with_reducible apply OnlyIn.step (hbmClear_only _ _ _)); (case q => decide)
    | (with_reducible apply OnlyIn.step (forgetSlot_only _ _ _)); (case q => decide)
    | split
    | with_reducible apply OnlyIn.getD
    | (with_reducible apply OnlyIn.lit); (case e => exact rfl); (case ev => first | exact (fun hp => absurd (by decide) hp) | exact (fun _ => ⟨rfl, rfl, rfl, rfl, rfl⟩)); (case po => first | exact (fun hp => absurd (by decide) hp) | exact (fun _ => ⟨rfl, rfl⟩)); (case k => intro p hp ne np; cases p <;> first | exact (absurd (by decide) hp) | exact (absurd rfl ne) | exact (absurd rfl np) | exact rfl)

theorem createTable_only (bs : List Byte) (p : Placement) (s : State) :
    OnlyIn [.tables, .moves, .hbm, .poison, .asy, .lrd, .shutters] s (createTable bs p s) := by
  unfold createTable
  repeat' first
    | with_reducible assumption
    | with_reducible apply OnlyIn.refl
    | (with_reducible apply OnlyIn.ite) <;> intro _
    | (extract_lets +onlyGivenNames s; fail_if_success (have : State := s); clear_value s)
    | (with_reducible apply OnlyIn.step (asyMod_only _ _ _)); (case q => decide)
    | (with_reducible apply OnlyIn.step (openSlot_only _ _ _ _ _ _)); (case q => decide)
    | (with_reducible apply OnlyIn.lit); (case e => exact rfl); (case h => first | with_reducible assumption | with_reducible apply OnlyIn.refl); (case ev => first | exact (fun hp => absurd (by decide) hp) | exact (fun _ => ⟨rfl, rfl, rfl, rfl, rfl⟩)); (case po => first | exact (fun hp => absurd (by decide) hp) | exact (fun _ => ⟨rfl, rfl⟩)); (case k => intro p hp ne np; cases p <;> first | exact (absurd (by decide) hp) | exact (absurd rfl ne) | exact (absurd rfl np) | exact rfl)

theorem writeRecState_only (tid i ix : Nat) (r : LoadRec) (s : State) :
    OnlyIn [.hbm, .poison] s (writeRecState tid i ix r s) := by
  unfold writeRecState
  repeat' first
    | with_reducible assumption
    | with_reducible apply OnlyIn.refl
    | (with_reducible apply OnlyIn.ite) <;> intro _
    | (with_reducible apply OnlyIn.step (writeState_only _ _ _ _)); (case q => decide)
    | (apply OnlyIn.step (OnlyIn.of_fst (by assumption) (writeState_only _ _ _ _))); (case q => decide)
    | split
    | with_reducible apply OnlyIn.ite_fst

theorem loadRow_only (tid i : Nat) (m : RowMeta) (cls : RowClass) (r : LoadRec) (ix : Nat) (s : State) :
    OptIn (fun b => b) [.events, .tables, .hbm, .poison, .ports, .asy] s (loadRow tid i m cls r ix s) := by
  unfold loadRow
  repeat' first
    | with_reducible assumption
    | with_reducible apply OnlyIn.refl
    | (with_reducible apply OnlyIn.ite) <;> intro _
    | with_reducible apply OptIn.none
    | (with_reducible apply OptIn.ite) <;> intro _
    | (with_reducible apply OptIn.some); try dsimp only
    | (with_reducible apply OptIn.map); intro _ _; try dsimp only
    | (extract_lets +onlyGivenNames s; fail_if_success (have : State := s); clear_value s)
    | (with_reducible apply OnlyIn.step (writeDir_only _ _ _)); (case q => decide)
    | (with_reducible apply OnlyIn.step (writeRowAt_only _ _ _ _ _ _ _)); (case q => decide)
    | (with_reducible apply OptIn.step (placeRow_only _ _ _ _ _ _)); (case q => decide)
    | ((with_reducible apply OnlyIn.step (((placeRow_only _ _ _ _ _ _)).only _ (by assumption)))); (case q => decide)
    | (with_reducible apply OnlyIn.step (OnlyIn.of_some3 (by assumption) (placeRow_only _ _ _ _ _ _))); (case q => decide)
    | (with_reducible apply OnlyIn.step (unhold_only _ _ _ _ _)); (case q => decide)
    | split
    | with_reducible apply OnlyIn.ite_fst
    | with_reducible apply OnlyIn.ite_snd

theorem loadWrite_only (tid i stamp : Nat) (t : Table) (r : LoadRec) (s : State) :
    OptIn (fun b => b) [.events, .tables, .hbm, .poison, .ports, .asy] s (loadWrite tid i stamp t r s) := by
  unfold loadWrite
  repeat' first
    | with_reducible assumption
    | with_reducible apply OnlyIn.refl
    | (with_reducible apply OnlyIn.ite) <;> intro _
    | with_reducible apply OptIn.none
    | (with_reducible apply OptIn.ite) <;> intro _
    | (with_reducible apply OptIn.some); try dsimp only
    | (with_reducible apply OptIn.map); intro _ _; try dsimp only
    | (extract_lets +onlyGivenNames s; fail_if_success (have : State := s); clear_value s)
    | (with_reducible apply OnlyIn.step (writeDefault_only _ _ _ _ _)); (case q => decide)
    | (with_reducible apply OnlyIn.step (writeRecState_only _ _ _ _ _)); (case q => decide)
    | (with_reducible apply OptIn.step (loadRow_only _ _ _ _ _ _ _)); (case q => decide)
    | ((with_reducible apply OnlyIn.step (((loadRow_only _ _ _ _ _ _ _)).only _ (by assumption)))); (case q => decide)
    | split

theorem rewriteCodeword_only (v : VSlot) (entries da : Nat) (s : State) :
    OnlyIn [.hbm, .poison] s (rewriteCodeword v entries da s) := by
  unfold rewriteCodeword
  repeat' first
    | with_reducible assumption
    | with_reducible apply OnlyIn.refl
    | (with_reducible apply OnlyIn.ite) <;> intro _
    | (extract_lets +onlyGivenNames s; fail_if_success (have : State := s); clear_value s)
    | (with_reducible apply OnlyIn.step (hbmWrite_only _ _ _)); (case q => decide)
    | (with_reducible apply OnlyIn.lit); (case e => exact rfl); (case h => first | with_reducible assumption | with_reducible apply OnlyIn.refl); (case ev => first | exact (fun hp => absurd (by decide) hp) | exact (fun _ => ⟨rfl, rfl, rfl, rfl, rfl⟩)); (case po => first | exact (fun hp => absurd (by decide) hp) | exact (fun _ => ⟨rfl, rfl⟩)); (case k => intro p hp ne np; cases p <;> first | exact (absurd (by decide) hp) | exact (absurd rfl ne) | exact (absurd rfl np) | exact rfl)

theorem endMoves_only (da : Nat) (s : State) :
    OnlyIn [.tables, .moves, .hbm, .poison, .lrd] s (endMoves da s) := by
  unfold endMoves
  repeat' first
    | with_reducible assumption
    | with_reducible apply OnlyIn.refl
    | (with_reducible apply OnlyIn.ite) <;> intro _
    | (with_reducible apply OnlyIn.step (finishMove_only _ _)); (case q => decide)
    | (with_reducible apply OnlyIn.thenFold_fst); rotate_left; intro _ _
    | (with_reducible apply OnlyIn.thenFold_snd); rotate_left; intro _ _
    | (with_reducible apply OnlyIn.thenFold); rotate_left; intro _ _
    | (with_reducible apply OnlyIn.lit); (case e => exact rfl); (case h => first | with_reducible assumption | with_reducible apply OnlyIn.refl); (case ev => first | exact (fun hp => absurd (by decide) hp) | exact (fun _ => ⟨rfl, rfl, rfl, rfl, rfl⟩)); (case po => first | exact (fun hp => absurd (by decide) hp) | exact (fun _ => ⟨rfl, rfl⟩)); (case k => intro p hp ne np; cases p <;> first | exact (absurd (by decide) hp) | exact (absurd rfl ne) | exact (absurd rfl np) | exact rfl)

theorem restoreRow_only (tid i stamp : Nat) (t : Table) (r : LoadRec) (ix : Nat) (s : State) :
    OptIn (fun b => b) [.events, .tables, .moves, .hbm, .poison, .ports, .asy, .lrd] s (restoreRow tid i stamp t r ix s) := by
  unfold restoreRow
  repeat' first
    | with_reducible assumption
    | with_reducible apply OnlyIn.refl
    | (with_reducible apply OnlyIn.ite) <;> intro _
    | with_reducible apply OptIn.none
    | (with_reducible apply OptIn.ite) <;> intro _
    | (with_reducible apply OptIn.some); try dsimp only
    | (with_reducible apply OptIn.map); intro _ _; try dsimp only
    | (extract_lets +onlyGivenNames s; fail_if_success (have : State := s); clear_value s)
    | (with_reducible apply OnlyIn.step (writeDir_only _ _ _)); (case q => decide)
    | (with_reducible apply OptIn.step (placeRow_only _ _ _ _ _ _)); (case q => decide)
    | ((with_reducible apply OnlyIn.step (((placeRow_only _ _ _ _ _ _)).only _ (by assumption)))); (case q => decide)
    | (with_reducible apply OnlyIn.step (OnlyIn.of_some3 (by assumption) (placeRow_only _ _ _ _ _ _))); (case q => decide)
    | (with_reducible apply OnlyIn.step (startMove_only _ _ _ _ _)); (case q => decide)
    | (with_reducible apply OnlyIn.step (dropCopy_only _ _ _ _)); (case q => decide)
    | (with_reducible apply OnlyIn.step (writeRecState_only _ _ _ _ _)); (case q => decide)
    | (with_reducible apply OnlyIn.step (rewriteCodeword_only _ _ _ _)); (case q => decide)
    | (with_reducible apply OnlyIn.step (endMoves_only _ _)); (case q => decide)
    | with_reducible apply OnlyIn.ite_fst
    | with_reducible apply OnlyIn.ite_snd

theorem restoreCrier_only (tid i : Nat) (r : LoadRec) (s : State) :
    OnlyIn [.events, .ports, .ldg, .asy, .hbmStacks, .span, .counts] s (restoreCrier tid i r s) := by
  unfold restoreCrier
  repeat' first
    | with_reducible assumption
    | with_reducible apply OnlyIn.refl
    | (with_reducible apply OnlyIn.ite) <;> intro _
    | (with_reducible apply OnlyIn.step (crierKey_only _ _ _ _)); (case q => decide)
    | split

theorem ownSpan_only {l : List Part} (tid : Nat) (f : State → Option State) (s : State)
    (h : ∀ t, OptIn (fun b => b) l t (f t)) (q : ∀ p ∈ [Part.asy], p ∈ l) : OptIn (fun b => b) l s (ownSpan tid f s) := by
  unfold ownSpan
  refine OptIn.map (fun t e => ?_)
  exact OnlyIn.step (asySpanEnd_only _ _ _) q (OnlyIn.step ((h _).only _ e) (fun _ r => r) ((asySpanStart_only _ _ _).mono q))

theorem restoreWrite_only (tid i stamp : Nat) (t : Table) (r : LoadRec) (s : State) :
    OptIn (fun b => b) [.events, .tables, .moves, .hbm, .poison, .ports, .asy, .lrd] s (restoreWrite tid i stamp t r s) := by
  unfold restoreWrite
  refine ownSpan_only _ _ _ (fun u => ?_) (by decide)
  refine OptIn.ite (fun _ => ?_) (fun _ => ?_)
  · exact OptIn.some (OnlyIn.step (writeRecState_only _ _ _ _ _) (by decide) ((writeDefault_only _ _ _ _ _).mono (by decide)))
  · exact OptIn.after (fun _ => OptIn.step (restoreRow_only _ _ _ _ _ _ _) (by decide) (OnlyIn.refl _ _))

theorem retireReplicas_only (gone : Replica → Bool) (s : State) :
    OnlyIn [.lrd] s (retireReplicas gone s) := by
  unfold retireReplicas
  repeat' first
    | with_reducible assumption
    | with_reducible apply OnlyIn.refl
    | (with_reducible apply OnlyIn.ite) <;> intro _
    | (extract_lets +onlyGivenNames s; fail_if_success (have : State := s); clear_value s)
    | (with_reducible apply OnlyIn.step (larderRetire_only _ _ _ _)); (case q => decide)
    | (with_reducible apply OnlyIn.thenFold_fst); rotate_left; intro _ _
    | (with_reducible apply OnlyIn.thenFold_snd); rotate_left; intro _ _
    | (with_reducible apply OnlyIn.thenFold); rotate_left; intro _ _
    | (with_reducible apply OnlyIn.lit); (case e => exact rfl); (case ev => first | exact (fun hp => absurd (by decide) hp) | exact (fun _ => ⟨rfl, rfl, rfl, rfl, rfl⟩)); (case po => first | exact (fun hp => absurd (by decide) hp) | exact (fun _ => ⟨rfl, rfl⟩)); (case k => intro p hp ne np; cases p <;> first | exact (absurd (by decide) hp) | exact (absurd rfl ne) | exact (absurd rfl np) | exact rfl)

theorem refreshMod_only (f : Refresh → Refresh) (s : State) :
    OnlyIn [.lrd] s (refreshMod f s) := by
  unfold refreshMod
  repeat' first
    | with_reducible assumption
    | with_reducible apply OnlyIn.refl
    | (with_reducible apply OnlyIn.ite) <;> intro _
    | (with_reducible apply OnlyIn.lit); (case e => exact rfl); (case h => first | with_reducible assumption | with_reducible apply OnlyIn.refl); (case ev => first | exact (fun hp => absurd (by decide) hp) | exact (fun _ => ⟨rfl, rfl, rfl, rfl, rfl⟩)); (case po => first | exact (fun hp => absurd (by decide) hp) | exact (fun _ => ⟨rfl, rfl⟩)); (case k => intro p hp ne np; cases p <;> first | exact (absurd (by decide) hp) | exact (absurd rfl ne) | exact (absurd rfl np) | exact rfl)

theorem failPlacing_only (q : Req) (s : State) :
    OnlyIn [.lrd] s (failPlacing q s) := by
  unfold failPlacing
  repeat' first
    | with_reducible assumption
    | with_reducible apply OnlyIn.refl
    | (with_reducible apply OnlyIn.ite) <;> intro _
    | (extract_lets +onlyGivenNames s; fail_if_success (have : State := s); clear_value s)
    | (with_reducible apply OnlyIn.step (refreshMod_only _ _)); (case q => decide)
    | (with_reducible apply OnlyIn.lit); (case e => exact rfl); (case h => first | with_reducible assumption | with_reducible apply OnlyIn.refl); (case ev => first | exact (fun hp => absurd (by decide) hp) | exact (fun _ => ⟨rfl, rfl, rfl, rfl, rfl⟩)); (case po => first | exact (fun hp => absurd (by decide) hp) | exact (fun _ => ⟨rfl, rfl⟩)); (case k => intro p hp ne np; cases p <;> first | exact (absurd (by decide) hp) | exact (absurd rfl ne) | exact (absurd rfl np) | exact rfl)

theorem placeReplica_only (p : Placing) (s : State) :
    OnlyIn [.lrd] s (placeReplica p s) := by
  unfold placeReplica
  repeat' first
    | with_reducible assumption
    | with_reducible apply OnlyIn.refl
    | (with_reducible apply OnlyIn.ite) <;> intro _
    | (extract_lets +onlyGivenNames s; fail_if_success (have : State := s); clear_value s)
    | (with_reducible apply OnlyIn.step (cleanBlocks_only _ _ _)); (case q => decide)
    | (with_reducible apply OnlyIn.step (refreshMod_only _ _)); (case q => decide)
    | split
    | (with_reducible apply OnlyIn.lit); (case e => exact rfl); (case ev => first | exact (fun hp => absurd (by decide) hp) | exact (fun _ => ⟨rfl, rfl, rfl, rfl, rfl⟩)); (case po => first | exact (fun hp => absurd (by decide) hp) | exact (fun _ => ⟨rfl, rfl⟩)); (case k => intro p hp ne np; cases p <;> first | exact (absurd (by decide) hp) | exact (absurd rfl ne) | exact (absurd rfl np) | exact rfl)

theorem resynced_only (q : Req) (p : RowPkt) (s : State) :
    OnlyIn [.span] s (resynced q p s) := by
  unfold resynced
  repeat' first
    | with_reducible assumption
    | with_reducible apply OnlyIn.refl
    | (with_reducible apply OnlyIn.ite) <;> intro _
    | (with_reducible apply OnlyIn.lit); (case e => exact rfl); (case h => first | with_reducible assumption | with_reducible apply OnlyIn.refl); (case ev => first | exact (fun hp => absurd (by decide) hp) | exact (fun _ => ⟨rfl, rfl, rfl, rfl, rfl⟩)); (case po => first | exact (fun hp => absurd (by decide) hp) | exact (fun _ => ⟨rfl, rfl⟩)); (case k => intro p hp ne np; cases p <;> first | exact (absurd (by decide) hp) | exact (absurd rfl ne) | exact (absurd rfl np) | exact rfl)

theorem takePlaced_only (q : Req) (p : RowPkt) (s : State) :
    OnlyIn [.lrd, .span] s (takePlaced q p s) := by
  unfold takePlaced
  repeat' first
    | with_reducible assumption
    | with_reducible apply OnlyIn.refl
    | (with_reducible apply OnlyIn.ite) <;> intro _
    | (extract_lets +onlyGivenNames s; fail_if_success (have : State := s); clear_value s)
    | (with_reducible apply OnlyIn.step (refreshMod_only _ _)); (case q => decide)
    | (with_reducible apply OnlyIn.step (failPlacing_only _ _)); (case q => decide)
    | (with_reducible apply OnlyIn.step (placeReplica_only _ _)); (case q => decide)
    | (with_reducible apply OnlyIn.step (resynced_only _ _ _)); (case q => decide)
    | split
    | (with_reducible apply OnlyIn.lit); (case e => exact rfl); (case ev => first | exact (fun hp => absurd (by decide) hp) | exact (fun _ => ⟨rfl, rfl, rfl, rfl, rfl⟩)); (case po => first | exact (fun hp => absurd (by decide) hp) | exact (fun _ => ⟨rfl, rfl⟩)); (case k => intro p hp ne np; cases p <;> first | exact (absurd (by decide) hp) | exact (absurd rfl ne) | exact (absurd rfl np) | exact rfl)

theorem sendPlaces_only (home : Nat) (pkt : ReadPkt) (resync : Bool) (ks : List Nat) (s : State) :
    OptIn (fun b => b) [.events, .ports, .ldg, .asy, .span, .counts] s (sendPlaces home pkt resync ks s) := by
  induction ks generalizing s with
  | nil => exact OptIn.some (OnlyIn.refl _ _)
  | cons k rest ih =>
    unfold sendPlaces
    split
    · exact OptIn.none
    · split
      · exact OptIn.step (ih _) (fun _ h => h) ((sendRead_only _ _ _ _).only _ (by assumption))
      · exact OptIn.none

theorem askReplica_only (tid row : Nat) (r : Refresh) (s : State) :
    OptIn (fun b => b) [.events, .ports, .ldg, .asy, .lrd, .span, .counts] s (askReplica tid row r s) := by
  unfold askReplica
  repeat' first
    | with_reducible assumption
    | with_reducible apply OnlyIn.refl
    | (with_reducible apply OnlyIn.ite) <;> intro _
    | with_reducible apply OptIn.none
    | (with_reducible apply OptIn.ite) <;> intro _
    | (with_reducible apply OptIn.some); try dsimp only
    | (with_reducible apply OptIn.map); intro _ _; try dsimp only
    | (extract_lets +onlyGivenNames s; fail_if_success (have : State := s); clear_value s)
    | (with_reducible apply OnlyIn.step (noteAbsent_only _ _)); (case q => decide)
    | (with_reducible apply OnlyIn.step (refreshMod_only _ _)); (case q => decide)
    | (with_reducible apply OptIn.step (sendPlaces_only _ _ _ _ _)); (case q => decide)
    | ((with_reducible apply OnlyIn.step (((sendPlaces_only _ _ _ _ _)).only _ (by assumption)))); (case q => decide)
    | split
    | (with_reducible apply OnlyIn.lit); (case e => exact rfl); (case h => first | with_reducible assumption | with_reducible apply OnlyIn.refl); (case ev => first | exact (fun hp => absurd (by decide) hp) | exact (fun _ => ⟨rfl, rfl, rfl, rfl, rfl⟩)); (case po => first | exact (fun hp => absurd (by decide) hp) | exact (fun _ => ⟨rfl, rfl⟩)); (case k => intro p hp ne np; cases p <;> first | exact (absurd (by decide) hp) | exact (absurd rfl ne) | exact (absurd rfl np) | exact rfl)

theorem askReplicas_only (n : Nat) (s : State) : OnlyIn [.events, .ports, .ldg, .asy, .lrd, .span, .counts] s (askReplicas n s) := by
  induction n generalizing s with
  | zero => exact OnlyIn.refl _ _
  | succ n ih =>
    unfold askReplicas
    split
    · exact OnlyIn.refl _ _
    · split
      · exact OnlyIn.refl _ _
      · split
        · exact OnlyIn.step (ih _) (fun _ h => h) (OnlyIn.step ((askReplica_only _ _ _ _).only _ (by assumption)) (by decide)
            ((refreshMod_only _ _).mono (by decide)))
        · exact OnlyIn.refl _ _

theorem unsubscribe_only (tid node row : Nat) (s : State) :
    OnlyIn [.span] s (unsubscribe tid node row s) := by
  unfold unsubscribe
  repeat' first
    | with_reducible assumption
    | with_reducible apply OnlyIn.refl
    | (with_reducible apply OnlyIn.ite) <;> intro _
    | (extract_lets +onlyGivenNames s; fail_if_success (have : State := s); clear_value s)
    | (with_reducible apply OnlyIn.lit); (case e => exact rfl); (case h => first | with_reducible assumption | with_reducible apply OnlyIn.refl); (case ev => first | exact (fun hp => absurd (by decide) hp) | exact (fun _ => ⟨rfl, rfl, rfl, rfl, rfl⟩)); (case po => first | exact (fun hp => absurd (by decide) hp) | exact (fun _ => ⟨rfl, rfl⟩)); (case k => intro p hp ne np; cases p <;> first | exact (absurd (by decide) hp) | exact (absurd rfl ne) | exact (absurd rfl np) | exact rfl)

theorem endRefresh_only (r : Refresh) (s : State) :
    OnlyIn [.mbx, .lrd, .span] s (endRefresh r s) := by
  unfold endRefresh
  repeat' first
    | with_reducible assumption
    | with_reducible apply OnlyIn.refl
    | (with_reducible apply OnlyIn.ite) <;> intro _
    | (extract_lets +onlyGivenNames s; fail_if_success (have : State := s); clear_value s)
    | (with_reducible apply OnlyIn.step (postFinal_only _ _ _ _ _)); (case q => decide)
    | (with_reducible apply OnlyIn.step (untake_only _ _)); (case q => decide)
    | (with_reducible apply OnlyIn.step (unsubscribe_only _ _ _ _)); (case q => decide)
    | (with_reducible apply OnlyIn.thenFold_fst); rotate_left; intro _ _
    | (with_reducible apply OnlyIn.thenFold_snd); rotate_left; intro _ _
    | (with_reducible apply OnlyIn.thenFold); rotate_left; intro _ _
    | split
    | (with_reducible apply OnlyIn.lit); (case e => exact rfl); (case h => first | with_reducible assumption | with_reducible apply OnlyIn.refl); (case ev => first | exact (fun hp => absurd (by decide) hp) | exact (fun _ => ⟨rfl, rfl, rfl, rfl, rfl⟩)); (case po => first | exact (fun hp => absurd (by decide) hp) | exact (fun _ => ⟨rfl, rfl⟩)); (case k => intro p hp ne np; cases p <;> first | exact (absurd (by decide) hp) | exact (absurd rfl ne) | exact (absurd rfl np) | exact rfl)

theorem stepRefresh_only (s : State) :
    OnlyIn [.events, .mbx, .ports, .ldg, .asy, .lrd, .span, .counts] s (stepRefresh s) := by
  unfold stepRefresh
  repeat' first
    | with_reducible assumption
    | with_reducible apply OnlyIn.refl
    | (with_reducible apply OnlyIn.ite) <;> intro _
    | (extract_lets +onlyGivenNames s; fail_if_success (have : State := s); clear_value s)
    | (with_reducible apply OnlyIn.step (askReplicas_only _ _)); (case q => decide)
    | (with_reducible apply OnlyIn.step (endRefresh_only _ _)); (case q => decide)
    | split
    | (with_reducible apply OnlyIn.lit); (case e => exact rfl); (case ev => first | exact (fun hp => absurd (by decide) hp) | exact (fun _ => ⟨rfl, rfl, rfl, rfl, rfl⟩)); (case po => first | exact (fun hp => absurd (by decide) hp) | exact (fun _ => ⟨rfl, rfl⟩)); (case k => intro p hp ne np; cases p <;> first | exact (absurd (by decide) hp) | exact (absurd rfl ne) | exact (absurd rfl np) | exact rfl)

theorem mapMod_only (map : Nat) (f : HomeMap → HomeMap) (s : State) :
    OnlyIn [.maps] s (mapMod map f s) := by
  unfold mapMod
  repeat' first
    | with_reducible assumption
    | with_reducible apply OnlyIn.refl
    | (with_reducible apply OnlyIn.ite) <;> intro _
    | split
    | (with_reducible apply OnlyIn.lit); (case e => exact rfl); (case h => first | with_reducible assumption | with_reducible apply OnlyIn.refl); (case ev => first | exact (fun hp => absurd (by decide) hp) | exact (fun _ => ⟨rfl, rfl, rfl, rfl, rfl⟩)); (case po => first | exact (fun hp => absurd (by decide) hp) | exact (fun _ => ⟨rfl, rfl⟩)); (case k => intro p hp ne np; cases p <;> first | exact (absurd (by decide) hp) | exact (absurd rfl ne) | exact (absurd rfl np) | exact rfl)

theorem settleInbound_only (map : Nat) (s : State) :
    OnlyIn [.maps] s (settleInbound map s) := by
  unfold settleInbound
  repeat' first
    | with_reducible assumption
    | with_reducible apply OnlyIn.refl
    | (with_reducible apply OnlyIn.ite) <;> intro _
    | (extract_lets +onlyGivenNames s; fail_if_success (have : State := s); clear_value s)
    | (with_reducible apply OnlyIn.step (mapMod_only _ _ _)); (case q => decide)
    | with_reducible apply OnlyIn.getD
    | (with_reducible apply OnlyIn.lit); (case e => exact rfl); (case h => first | with_reducible assumption | with_reducible apply OnlyIn.refl); (case ev => first | exact (fun hp => absurd (by decide) hp) | exact (fun _ => ⟨rfl, rfl, rfl, rfl, rfl⟩)); (case po => first | exact (fun hp => absurd (by decide) hp) | exact (fun _ => ⟨rfl, rfl⟩)); (case k => intro p hp ne np; cases p <;> first | exact (absurd (by decide) hp) | exact (absurd rfl ne) | exact (absurd rfl np) | exact rfl)

theorem migMod_only (map tid row : Nat) (f : MigRow → MigRow) (s : State) :
    OnlyIn [.maps] s (migMod map tid row f s) := by
  unfold migMod
  repeat' first
    | with_reducible assumption
    | with_reducible apply OnlyIn.refl
    | (with_reducible apply OnlyIn.ite) <;> intro _
    | (extract_lets +onlyGivenNames s; fail_if_success (have : State := s); clear_value s)
    | (with_reducible apply OnlyIn.step (mapMod_only _ _ _)); (case q => decide)
    | (with_reducible apply OnlyIn.lit); (case e => exact rfl); (case h => first | with_reducible assumption | with_reducible apply OnlyIn.refl); (case ev => first | exact (fun hp => absurd (by decide) hp) | exact (fun _ => ⟨rfl, rfl, rfl, rfl, rfl⟩)); (case po => first | exact (fun hp => absurd (by decide) hp) | exact (fun _ => ⟨rfl, rfl⟩)); (case k => intro p hp ne np; cases p <;> first | exact (absurd (by decide) hp) | exact (absurd rfl ne) | exact (absurd rfl np) | exact rfl)

theorem failMigration_only (map tid row : Nat) (s : State) :
    OnlyIn [.maps] s (failMigration map tid row s) := by
  unfold failMigration
  repeat' first
    | with_reducible assumption
    | with_reducible apply OnlyIn.refl
    | (with_reducible apply OnlyIn.ite) <;> intro _
    | (extract_lets +onlyGivenNames s; fail_if_success (have : State := s); clear_value s)
    | (with_reducible apply OnlyIn.step (fwdMod_only _ _ _)); (case q => decide)
    | (with_reducible apply OnlyIn.step (settleInbound_only _ _)); (case q => decide)
    | (with_reducible apply OnlyIn.step (migMod_only _ _ _ _ _)); (case q => decide)
    | with_reducible apply OnlyIn.getD
    | (with_reducible apply OnlyIn.lit); (case e => exact rfl); (case h => first | with_reducible assumption | with_reducible apply OnlyIn.refl); (case ev => first | exact (fun hp => absurd (by decide) hp) | exact (fun _ => ⟨rfl, rfl, rfl, rfl, rfl⟩)); (case po => first | exact (fun hp => absurd (by decide) hp) | exact (fun _ => ⟨rfl, rfl⟩)); (case k => intro p hp ne np; cases p <;> first | exact (absurd (by decide) hp) | exact (absurd rfl ne) | exact (absurd rfl np) | exact rfl)

theorem writeMigrated_only (map : Nat) (t : Table) (tid slot ix row : Nat) (got : List RowPkt) (s₀ : State) :
    OnlyIn [.tables, .maps, .hbm, .poison] s₀ (writeMigrated map t tid slot ix row got s₀) := by
  unfold writeMigrated
  repeat' first
    | with_reducible assumption
    | with_reducible apply OnlyIn.refl
    | (with_reducible apply OnlyIn.ite) <;> intro _
    | (extract_lets +onlyGivenNames s; fail_if_success (have : State := s); clear_value s)
    | (with_reducible apply OnlyIn.step (hbmWrite_only _ _ _)); (case q => decide)
    | (with_reducible apply OnlyIn.step (writeDir_only _ _ _)); (case q => decide)
    | (with_reducible apply OnlyIn.step (writeShelf_only _ _ _ _)); (case q => decide)
    | (with_reducible apply OnlyIn.step (shelfMod_only _ _ _ _ _)); (case q => decide)
    | (with_reducible apply OnlyIn.step (newShelf_only _ _ _ _ _ _)); (case q => decide)
    | (with_reducible apply OnlyIn.step (reclaim_only _ _ _)); (case q => decide)
    | (with_reducible apply OnlyIn.step (fwdMod_only _ _ _)); (case q => decide)
    | (with_reducible apply OnlyIn.step (settleInbound_only _ _)); (case q => decide)
    | (with_reducible apply OnlyIn.step (migMod_only _ _ _ _ _)); (case q => decide)
    | (with_reducible apply OnlyIn.step (failMigration_only _ _ _ _)); (case q => decide)
    | split
    | with_reducible apply OnlyIn.getD
    | (with_reducible apply OnlyIn.lit); (case e => exact rfl); (case ev => first | exact (fun hp => absurd (by decide) hp) | exact (fun _ => ⟨rfl, rfl, rfl, rfl, rfl⟩)); (case po => first | exact (fun hp => absurd (by decide) hp) | exact (fun _ => ⟨rfl, rfl⟩)); (case k => intro p hp ne np; cases p <;> first | exact (absurd (by decide) hp) | exact (absurd rfl ne) | exact (absurd rfl np) | exact rfl)

theorem migSlice_only (map tid row slice : Nat) (p : RowPkt) (s : State) :
    OnlyIn [.tables, .maps, .hbm, .poison] s (migSlice map tid row slice p s) := by
  unfold migSlice
  repeat' first
    | with_reducible assumption
    | with_reducible apply OnlyIn.refl
    | (with_reducible apply OnlyIn.ite) <;> intro _
    | (extract_lets +onlyGivenNames s; fail_if_success (have : State := s); clear_value s)
    | (with_reducible apply OnlyIn.step (migMod_only _ _ _ _ _)); (case q => decide)
    | (with_reducible apply OnlyIn.step (writeMigrated_only _ _ _ _ _ _ _ _)); (case q => decide)
    | split
    | (with_reducible apply OnlyIn.lit); (case e => exact rfl); (case ev => first | exact (fun hp => absurd (by decide) hp) | exact (fun _ => ⟨rfl, rfl, rfl, rfl, rfl⟩)); (case po => first | exact (fun hp => absurd (by decide) hp) | exact (fun _ => ⟨rfl, rfl⟩)); (case k => intro p hp ne np; cases p <;> first | exact (absurd (by decide) hp) | exact (absurd rfl ne) | exact (absurd rfl np) | exact rfl)

theorem freeReq_only (q : Req) (s : State) :
    OnlyIn [.span] s (freeReq q s) := by
  unfold freeReq
  repeat' first
    | with_reducible assumption
    | with_reducible apply OnlyIn.refl
    | (with_reducible apply OnlyIn.ite) <;> intro _
    | (with_reducible apply OnlyIn.lit); (case e => exact rfl); (case h => first | with_reducible assumption | with_reducible apply OnlyIn.refl); (case ev => first | exact (fun hp => absurd (by decide) hp) | exact (fun _ => ⟨rfl, rfl, rfl, rfl, rfl⟩)); (case po => first | exact (fun hp => absurd (by decide) hp) | exact (fun _ => ⟨rfl, rfl⟩)); (case k => intro p hp ne np; cases p <;> first | exact (absurd (by decide) hp) | exact (absurd rfl ne) | exact (absurd rfl np) | exact rfl)

theorem failReq_only (q : Req) (st : Status) (s : State) :
    OnlyIn [.events, .mbx, .maps, .ports, .cols, .ldg, .asy, .lrd, .span, .counts] s (failReq q st s) := by
  unfold failReq
  repeat' first
    | with_reducible assumption
    | with_reducible apply OnlyIn.refl
    | (with_reducible apply OnlyIn.ite) <;> intro _
    | (extract_lets +onlyGivenNames s; fail_if_success (have : State := s); clear_value s)
    | (with_reducible apply OnlyIn.step (answerMill_only _ _ _ _ _ _ _ _ _)); (case q => decide)
    | (with_reducible apply OnlyIn.step (failPlacing_only _ _)); (case q => decide)
    | (with_reducible apply OnlyIn.step (stepRefresh_only _)); (case q => decide)
    | (with_reducible apply OnlyIn.step (failMigration_only _ _ _ _)); (case q => decide)
    | (with_reducible apply OnlyIn.step (freeReq_only _ _)); (case q => decide)
    | split

theorem takeRow_only (q : Req) (p : RowPkt) (s : State) :
    OnlyIn [.events, .mbx, .tables, .maps, .hbm, .poison, .ports, .cols, .ldg, .asy, .lrd, .span, .counts] s (takeRow q p s) := by
  unfold takeRow
  repeat' first
    | with_reducible assumption
    | with_reducible apply OnlyIn.refl
    | (with_reducible apply OnlyIn.ite) <;> intro _
    | (extract_lets +onlyGivenNames s; fail_if_success (have : State := s); clear_value s)
    | (with_reducible apply OnlyIn.step (answerMill_only _ _ _ _ _ _ _ _ _)); (case q => decide)
    | (with_reducible apply OnlyIn.step (takePlaced_only _ _ _)); (case q => decide)
    | (with_reducible apply OnlyIn.step (stepRefresh_only _)); (case q => decide)
    | (with_reducible apply OnlyIn.step (failMigration_only _ _ _ _)); (case q => decide)
    | (with_reducible apply OnlyIn.step (migSlice_only _ _ _ _ _ _)); (case q => decide)
    | (with_reducible apply OnlyIn.step (freeReq_only _ _)); (case q => decide)
    | split
    | (with_reducible apply OnlyIn.lit); (case e => exact rfl); (case ev => first | exact (fun hp => absurd (by decide) hp) | exact (fun _ => ⟨rfl, rfl, rfl, rfl, rfl⟩)); (case po => first | exact (fun hp => absurd (by decide) hp) | exact (fun _ => ⟨rfl, rfl⟩)); (case k => intro p hp ne np; cases p <;> first | exact (absurd (by decide) hp) | exact (absurd rfl ne) | exact (absurd rfl np) | exact rfl)

theorem lateAnswer_only (s : State) :
    OnlyIn [.span] s (lateAnswer s) := by
  unfold lateAnswer
  repeat' first
    | with_reducible assumption
    | with_reducible apply OnlyIn.refl
    | (with_reducible apply OnlyIn.ite) <;> intro _
    | (with_reducible apply OnlyIn.lit); (case e => exact rfl); (case h => first | with_reducible assumption | with_reducible apply OnlyIn.refl); (case ev => first | exact (fun hp => absurd (by decide) hp) | exact (fun _ => ⟨rfl, rfl, rfl, rfl, rfl⟩)); (case po => first | exact (fun hp => absurd (by decide) hp) | exact (fun _ => ⟨rfl, rfl⟩)); (case k => intro p hp ne np; cases p <;> first | exact (absurd (by decide) hp) | exact (absurd rfl ne) | exact (absurd rfl np) | exact rfl)

theorem takeAbsent_only (p : AbsentPkt) (s : State) :
    OnlyIn [.events, .mbx, .maps, .qh, .ports, .cols, .ldg, .asy, .lrd, .span, .counts, .ctr] s (takeAbsent p s) := by
  unfold takeAbsent
  repeat' first
    | with_reducible assumption
    | with_reducible apply OnlyIn.refl
    | (with_reducible apply OnlyIn.ite) <;> intro _
    | (with_reducible apply OnlyIn.step (absentWait_only _ _ _)); (case q => decide)
    | (with_reducible apply OnlyIn.step (failReq_only _ _ _)); (case q => decide)
    | (with_reducible apply OnlyIn.step (lateAnswer_only _)); (case q => decide)
    | (with_reducible apply OnlyIn.thenFold_fst); rotate_left; intro _ _
    | (with_reducible apply OnlyIn.thenFold_snd); rotate_left; intro _ _
    | (with_reducible apply OnlyIn.thenFold); rotate_left; intro _ _
    | split

theorem refusePacket_only (k : Packet) (s : State) :
    OnlyIn [.events, .mbx, .maps, .qh, .ports, .cols, .ldg, .asy, .lrd, .span, .counts, .ctr] s (refusePacket k s) := by
  unfold refusePacket
  repeat' first
    | with_reducible assumption
    | with_reducible apply OnlyIn.refl
    | (with_reducible apply OnlyIn.ite) <;> intro _
    | (extract_lets +onlyGivenNames s; fail_if_success (have : State := s); clear_value s)
    | (with_reducible apply OnlyIn.step (refusePartial_only _ _ _)); (case q => decide)
    | (with_reducible apply OnlyIn.step (noteAbsent_only _ _)); (case q => decide)
    | (with_reducible apply OnlyIn.step (unreachable_only _ _)); (case q => decide)
    | (with_reducible apply OnlyIn.step (absentWait_only _ _ _)); (case q => decide)
    | (with_reducible apply OnlyIn.step (failReq_only _ _ _)); (case q => decide)
    | (with_reducible apply OnlyIn.thenFold_fst); rotate_left; intro _ _
    | (with_reducible apply OnlyIn.thenFold_snd); rotate_left; intro _ _
    | (with_reducible apply OnlyIn.thenFold); rotate_left; intro _ _
    | split
    | (with_reducible apply OnlyIn.lit); (case e => exact rfl); (case ev => first | exact (fun hp => absurd (by decide) hp) | exact (fun _ => ⟨rfl, rfl, rfl, rfl, rfl⟩)); (case po => first | exact (fun hp => absurd (by decide) hp) | exact (fun _ => ⟨rfl, rfl⟩)); (case k => intro p hp ne np; cases p <;> first | exact (absurd (by decide) hp) | exact (absurd rfl ne) | exact (absurd rfl np) | exact rfl)

theorem reroute_only (k : Packet) (s : State) :
    OnlyIn [.events, .mbx, .maps, .qh, .ports, .cols, .ldg, .asy, .lrd, .span, .counts, .ctr] s (reroute k s) := by
  unfold reroute
  repeat' first
    | with_reducible assumption
    | with_reducible apply OnlyIn.refl
    | (with_reducible apply OnlyIn.ite) <;> intro _
    | (with_reducible apply OptIn.step (trySend_only _ _)); (case q => decide)
    | ((with_reducible apply OnlyIn.step (((trySend_only _ _)).only _ (by assumption)))); (case q => decide)
    | (with_reducible apply OnlyIn.step (refusePacket_only _ _)); (case q => decide)
    | with_reducible apply OnlyIn.getD

theorem misrouted_only (port : Nat) (k : Packet) (s : State) :
    OnlyIn [.events, .mbx, .maps, .qh, .ports, .cols, .ldg, .asy, .lrd, .span, .counts, .ctr] s (misrouted port k s) := by
  unfold misrouted
  repeat' first
    | with_reducible assumption
    | with_reducible apply OnlyIn.refl
    | (with_reducible apply OnlyIn.ite) <;> intro _
    | (with_reducible apply OnlyIn.step (portMod_only _ _ _)); (case q => decide)
    | (with_reducible apply OnlyIn.step (refusePacket_only _ _)); (case q => decide)
    | (with_reducible apply OnlyIn.lit); (case e => exact rfl); (case h => first | with_reducible assumption | with_reducible apply OnlyIn.refl); (case ev => first | exact (fun hp => absurd (by decide) hp) | exact (fun _ => ⟨rfl, rfl, rfl, rfl, rfl⟩)); (case po => first | exact (fun hp => absurd (by decide) hp) | exact (fun _ => ⟨rfl, rfl⟩)); (case k => intro p hp ne np; cases p <;> first | exact (absurd (by decide) hp) | exact (absurd rfl ne) | exact (absurd rfl np) | exact rfl)

theorem dropRx_only (port : Nat) (k : Packet) (s : State) :
    OnlyIn [.span] s (dropRx port k s) := by
  unfold dropRx
  repeat' first
    | with_reducible assumption
    | with_reducible apply OnlyIn.refl
    | (with_reducible apply OnlyIn.ite) <;> intro _
    | (with_reducible apply OnlyIn.step (portMod_only _ _ _)); (case q => decide)
    | (with_reducible apply OnlyIn.lit); (case e => exact rfl); (case h => first | with_reducible assumption | with_reducible apply OnlyIn.refl); (case ev => first | exact (fun hp => absurd (by decide) hp) | exact (fun _ => ⟨rfl, rfl, rfl, rfl, rfl⟩)); (case po => first | exact (fun hp => absurd (by decide) hp) | exact (fun _ => ⟨rfl, rfl⟩)); (case k => intro p hp ne np; cases p <;> first | exact (absurd (by decide) hp) | exact (absurd rfl ne) | exact (absurd rfl np) | exact rfl)

theorem takeRx_only (port : Nat) (k : Packet) (s : State) :
    OnlyIn [.span, .counts] s (takeRx port k s) := by
  unfold takeRx
  repeat' first
    | with_reducible assumption
    | with_reducible apply OnlyIn.refl
    | (with_reducible apply OnlyIn.ite) <;> intro _
    | (with_reducible apply OnlyIn.step (returnCells_only _ _)); (case q => decide)
    | (with_reducible apply OnlyIn.step (dropRx_only _ _ _)); (case q => decide)

theorem stay_only (port : Nat) (k : Packet) (s : State) :
    OnlyIn [.span] s (stay port k s) := by
  unfold stay
  repeat' first
    | with_reducible assumption
    | with_reducible apply OnlyIn.refl
    | (with_reducible apply OnlyIn.ite) <;> intro _
    | (with_reducible apply OnlyIn.step (portMod_only _ _ _)); (case q => decide)
    | (with_reducible apply OnlyIn.lit); (case e => exact rfl); (case h => first | with_reducible assumption | with_reducible apply OnlyIn.refl); (case ev => first | exact (fun hp => absurd (by decide) hp) | exact (fun _ => ⟨rfl, rfl, rfl, rfl, rfl⟩)); (case po => first | exact (fun hp => absurd (by decide) hp) | exact (fun _ => ⟨rfl, rfl⟩)); (case k => intro p hp ne np; cases p <;> first | exact (absurd (by decide) hp) | exact (absurd rfl ne) | exact (absurd rfl np) | exact rfl)

theorem transit_only (port : Nat) (k : Packet) (s : State) :
    OnlyIn [.events, .mbx, .maps, .qh, .ports, .cols, .ldg, .asy, .lrd, .span, .counts, .ctr] s (transit port k s) := by
  unfold transit
  repeat' first
    | with_reducible assumption
    | with_reducible apply OnlyIn.refl
    | (with_reducible apply OnlyIn.ite) <;> intro _
    | (extract_lets +onlyGivenNames s; fail_if_success (have : State := s); clear_value s)
    | (with_reducible apply OptIn.step (trySendFrom_only _ _ _)); (case q => decide)
    | ((with_reducible apply OnlyIn.step (((trySendFrom_only _ _ _)).only _ (by assumption)))); (case q => decide)
    | (with_reducible apply OnlyIn.step (grantNow_only _ _)); (case q => decide)
    | (with_reducible apply OnlyIn.step (returnCells_only _ _)); (case q => decide)
    | (with_reducible apply OnlyIn.step (refusePacket_only _ _)); (case q => decide)
    | (with_reducible apply OnlyIn.step (misrouted_only _ _ _)); (case q => decide)
    | (with_reducible apply OnlyIn.step (dropRx_only _ _ _)); (case q => decide)
    | (with_reducible apply OnlyIn.step (takeRx_only _ _ _)); (case q => decide)
    | split
    | (with_reducible apply OnlyIn.lit); (case e => exact rfl); (case ev => first | exact (fun hp => absurd (by decide) hp) | exact (fun _ => ⟨rfl, rfl, rfl, rfl, rfl⟩)); (case po => first | exact (fun hp => absurd (by decide) hp) | exact (fun _ => ⟨rfl, rfl⟩)); (case k => intro p hp ne np; cases p <;> first | exact (absurd (by decide) hp) | exact (absurd rfl ne) | exact (absurd rfl np) | exact rfl)

theorem answerRead_only (h : PktHdr) (p : ReadPkt) (st : Status) (s : State) :
    OnlyIn [.events, .ports, .ldg, .asy, .hbmStacks, .span, .counts] s (answerRead h p st s) := by
  unfold answerRead
  repeat' first
    | with_reducible assumption
    | with_reducible apply OnlyIn.refl
    | (with_reducible apply OnlyIn.ite) <;> intro _
    | (extract_lets +onlyGivenNames s; fail_if_success (have : State := s); clear_value s)
    | (with_reducible apply OnlyIn.step (sendOwn_only _ _ _)); (case q => decide)
    | (with_reducible apply OnlyIn.step (readCseq_only _ _ _)); (case q => decide)

theorem queueRead_only (t : Table) (h : PktHdr) (p : ReadPkt) (s : State) :
    OnlyIn [.tables, .ldg, .span] s (queueRead t h p s) := by
  unfold queueRead
  repeat' first
    | with_reducible assumption
    | with_reducible apply OnlyIn.refl
    | (with_reducible apply OnlyIn.ite) <;> intro _
    | (extract_lets +onlyGivenNames s; fail_if_success (have : State := s); clear_value s)
    | (with_reducible apply OnlyIn.step (addRef_only _ _ _)); (case q => decide)
    | (with_reducible apply OnlyIn.step (commitMod_only _ _)); (case q => decide)
    | (with_reducible apply OnlyIn.lit); (case e => exact rfl); (case ev => first | exact (fun hp => absurd (by decide) hp) | exact (fun _ => ⟨rfl, rfl, rfl, rfl, rfl⟩)); (case po => first | exact (fun hp => absurd (by decide) hp) | exact (fun _ => ⟨rfl, rfl⟩)); (case k => intro p hp ne np; cases p <;> first | exact (absurd (by decide) hp) | exact (absurd rfl ne) | exact (absurd rfl np) | exact rfl)

theorem forwardRead_only (t : Table) (h : PktHdr) (p : ReadPkt) (dst : Nat) (s : State) :
    OnlyIn [.events, .mbx, .maps, .qh, .ports, .cols, .ldg, .asy, .lrd, .span, .counts, .ctr] s (forwardRead t h p dst s) := by
  unfold forwardRead
  repeat' first
    | with_reducible assumption
    | with_reducible apply OnlyIn.refl
    | (with_reducible apply OnlyIn.ite) <;> intro _
    | (extract_lets +onlyGivenNames s; fail_if_success (have : State := s); clear_value s)
    | (with_reducible apply OnlyIn.step (fwdMod_only _ _ _)); (case q => decide)
    | (with_reducible apply OnlyIn.step (reroute_only _ _)); (case q => decide)
    | (with_reducible apply OnlyIn.lit); (case e => exact rfl); (case h => first | with_reducible assumption | with_reducible apply OnlyIn.refl); (case ev => first | exact (fun hp => absurd (by decide) hp) | exact (fun _ => ⟨rfl, rfl, rfl, rfl, rfl⟩)); (case po => first | exact (fun hp => absurd (by decide) hp) | exact (fun _ => ⟨rfl, rfl⟩)); (case k => intro p hp ne np; cases p <;> first | exact (absurd (by decide) hp) | exact (absurd rfl ne) | exact (absurd rfl np) | exact rfl)

theorem takeRead_only (h : PktHdr) (p : ReadPkt) (s : State) :
    OnlyIn [.events, .mbx, .tables, .maps, .qh, .ports, .cols, .ldg, .asy, .lrd, .hbmStacks, .span, .counts, .ctr] s (takeRead h p s) := by
  unfold takeRead
  repeat' first
    | with_reducible assumption
    | with_reducible apply OnlyIn.refl
    | (with_reducible apply OnlyIn.ite) <;> intro _
    | (extract_lets +onlyGivenNames s; fail_if_success (have : State := s); clear_value s)
    | (with_reducible apply OnlyIn.step (answerRead_only _ _ _ _)); (case q => decide)
    | (with_reducible apply OnlyIn.step (queueRead_only _ _ _ _)); (case q => decide)
    | (with_reducible apply OnlyIn.step (forwardRead_only _ _ _ _ _)); (case q => decide)
    | split
    | with_reducible apply OnlyIn.getD

theorem corruptPacket_only (port n partials : Nat) (s : State) :
    OnlyIn [.ldg, .span] s (corruptPacket port n partials s) := by
  unfold corruptPacket
  repeat' first
    | with_reducible assumption
    | with_reducible apply OnlyIn.refl
    | (with_reducible apply OnlyIn.ite) <;> intro _
    | (extract_lets +onlyGivenNames s; fail_if_success (have : State := s); clear_value s)
    | (with_reducible apply OnlyIn.step (portMod_only _ _ _)); (case q => decide)
    | (with_reducible apply OnlyIn.lit); (case e => exact rfl); (case ev => first | exact (fun hp => absurd (by decide) hp) | exact (fun _ => ⟨rfl, rfl, rfl, rfl, rfl⟩)); (case po => first | exact (fun hp => absurd (by decide) hp) | exact (fun _ => ⟨rfl, rfl⟩)); (case k => intro p hp ne np; cases p <;> first | exact (absurd (by decide) hp) | exact (absurd rfl ne) | exact (absurd rfl np) | exact rfl)

theorem crierTake_only (src cseq : Nat) (s : State) :
    OnlyIn [.hbmStacks, .span] s (crierTake src cseq s).2 := by
  unfold crierTake
  repeat' first
    | with_reducible assumption
    | with_reducible apply OnlyIn.refl
    | (with_reducible apply OnlyIn.ite) <;> intro _
    | (extract_lets +onlyGivenNames s; apply OnlyIn.via (s := s); unfold s; rotate_left; generalize s = x; clear s; intro _; rotate_right)
    | (extract_lets +onlyGivenNames s; fail_if_success (have : State := s))
    | (with_reducible apply OnlyIn.step (readCseq_only _ _ _)); (case q => decide)
    | split
    | with_reducible apply OnlyIn.ite_snd
    | (with_reducible apply OnlyIn.lit); (case e => exact rfl); (case ev => first | exact (fun hp => absurd (by decide) hp) | exact (fun _ => ⟨rfl, rfl, rfl, rfl, rfl⟩)); (case po => first | exact (fun hp => absurd (by decide) hp) | exact (fun _ => ⟨rfl, rfl⟩)); (case k => intro p hp ne np; cases p <;> first | exact (absurd (by decide) hp) | exact (absurd rfl ne) | exact (absurd rfl np) | exact rfl)

theorem replaceReplica_only (r : Replica) (us : List UpdatePkt) (s : State) :
    OnlyIn [.lrd] s (replaceReplica r us s) := by
  unfold replaceReplica
  repeat' first
    | with_reducible assumption
    | with_reducible apply OnlyIn.refl
    | (with_reducible apply OnlyIn.ite) <;> intro _
    | (extract_lets +onlyGivenNames s; fail_if_success (have : State := s); clear_value s)
    | (with_reducible apply OnlyIn.step (larderRetire_only _ _ _ _)); (case q => decide)
    | (with_reducible apply OnlyIn.step (cleanBlocks_only _ _ _)); (case q => decide)
    | split
    | (with_reducible apply OnlyIn.lit); (case e => exact rfl); (case ev => first | exact (fun hp => absurd (by decide) hp) | exact (fun _ => ⟨rfl, rfl, rfl, rfl, rfl⟩)); (case po => first | exact (fun hp => absurd (by decide) hp) | exact (fun _ => ⟨rfl, rfl⟩)); (case k => intro p hp ne np; cases p <;> first | exact (absurd (by decide) hp) | exact (absurd rfl ne) | exact (absurd rfl np) | exact rfl)

theorem takeUpdate_only (src : Nat) (p : UpdatePkt) (s : State) :
    OnlyIn [.lrd] s (takeUpdate src p s) := by
  unfold takeUpdate
  repeat' first
    | with_reducible assumption
    | with_reducible apply OnlyIn.refl
    | (with_reducible apply OnlyIn.ite) <;> intro _
    | (extract_lets +onlyGivenNames s; fail_if_success (have : State := s); clear_value s)
    | (with_reducible apply OnlyIn.step (replaceReplica_only _ _ _)); (case q => decide)
    | split
    | with_reducible apply OnlyIn.getD
    | (with_reducible apply OnlyIn.lit); (case e => exact rfl); (case h => first | with_reducible assumption | with_reducible apply OnlyIn.refl); (case ev => first | exact (fun hp => absurd (by decide) hp) | exact (fun _ => ⟨rfl, rfl, rfl, rfl, rfl⟩)); (case po => first | exact (fun hp => absurd (by decide) hp) | exact (fun _ => ⟨rfl, rfl⟩)); (case k => intro p hp ne np; cases p <;> first | exact (absurd (by decide) hp) | exact (absurd rfl ne) | exact (absurd rfl np) | exact rfl)

theorem sendSlices_only (map losing : Nat) (t : Table) (tid slot epoch row step : Nat) (ks : List Nat) (s : State) :
    OptIn (fun b => b) [.events, .ports, .ldg, .asy, .span, .counts] s (sendSlices map losing t tid slot epoch row step ks s) := by
  induction ks generalizing s with
  | nil => exact OptIn.some (OnlyIn.refl _ _)
  | cons k rest ih =>
    unfold sendSlices
    split
    · exact OptIn.none
    · dsimp only
      split
      · exact OptIn.step (ih _) (fun _ h => h) ((sendRead_only _ _ _ _).only _ (by assumption))
      · exact OptIn.none

theorem linkChanged_only (port : Nat) (s : State) :
    OnlyIn [.events, .ports, .span] s (linkChanged port s) := by
  unfold linkChanged
  repeat' first
    | with_reducible assumption
    | with_reducible apply OnlyIn.refl
    | (with_reducible apply OnlyIn.ite) <;> intro _
    | (extract_lets +onlyGivenNames s; fail_if_success (have : State := s); clear_value s)
    | (with_reducible apply OnlyIn.step (raise_only _ _)); (case q => decide)
    | (with_reducible apply OnlyIn.lit); (case e => exact rfl); (case h => first | with_reducible assumption | with_reducible apply OnlyIn.refl); (case ev => first | exact (fun hp => absurd (by decide) hp) | exact (fun _ => ⟨rfl, rfl, rfl, rfl, rfl⟩)); (case po => first | exact (fun hp => absurd (by decide) hp) | exact (fun _ => ⟨rfl, rfl⟩)); (case k => intro p hp ne np; cases p <;> first | exact (absurd (by decide) hp) | exact (absurd rfl ne) | exact (absurd rfl np) | exact rfl)

theorem notePartial_only (port : Nat) (k : Packet) (moved : Bool) (s : State) :
    OnlyIn [.shutters] s (notePartial port k moved s) := by
  unfold notePartial
  repeat' first
    | with_reducible assumption
    | with_reducible apply OnlyIn.refl
    | (with_reducible apply OnlyIn.ite) <;> intro _
    | (extract_lets +onlyGivenNames s; fail_if_success (have : State := s); clear_value s)
    | split
    | (with_reducible apply OnlyIn.lit); (case e => exact rfl); (case h => first | with_reducible assumption | with_reducible apply OnlyIn.refl); (case ev => first | exact (fun hp => absurd (by decide) hp) | exact (fun _ => ⟨rfl, rfl, rfl, rfl, rfl⟩)); (case po => first | exact (fun hp => absurd (by decide) hp) | exact (fun _ => ⟨rfl, rfl⟩)); (case k => intro p hp ne np; cases p <;> first | exact (absurd (by decide) hp) | exact (absurd rfl ne) | exact (absurd rfl np) | exact rfl)

theorem rerouteLent_only (port : Nat) (lent : List (Nat × Nat × Nat)) (k : Packet) (s : State) :
    OnlyIn [.events, .mbx, .maps, .qh, .ports, .cols, .ldg, .asy, .lrd, .span, .counts, .ctr, .shutters] s (rerouteLent port lent k s) := by
  unfold rerouteLent
  repeat' first
    | with_reducible assumption
    | with_reducible apply OnlyIn.refl
    | (with_reducible apply OnlyIn.ite) <;> intro _
    | (with_reducible apply OptIn.step (trySendFrom_only _ _ _)); (case q => decide)
    | ((with_reducible apply OnlyIn.step (((trySendFrom_only _ _ _)).only _ (by assumption)))); (case q => decide)
    | (with_reducible apply OnlyIn.step (returnCells_only _ _)); (case q => decide)
    | (with_reducible apply OnlyIn.step (refusePacket_only _ _)); (case q => decide)
    | (with_reducible apply OnlyIn.step (notePartial_only _ _ _ _)); (case q => decide)
    | split

theorem rerouteFrom_only (port : Nat) (s : State) (k : Packet) :
    OnlyIn [.events, .mbx, .maps, .qh, .ports, .cols, .ldg, .asy, .lrd, .span, .counts, .ctr, .shutters] s (rerouteFrom port s k) := by
  unfold rerouteFrom
  repeat' first
    | with_reducible assumption
    | with_reducible apply OnlyIn.refl
    | (with_reducible apply OnlyIn.ite) <;> intro _
    | (with_reducible apply OnlyIn.step (rerouteLent_only _ _ _ _)); (case q => decide)

theorem refuseFrom_only (port : Nat) (s : State) (k : Packet) :
    OnlyIn [.events, .mbx, .maps, .qh, .ports, .cols, .ldg, .asy, .lrd, .span, .counts, .ctr, .shutters] s (refuseFrom port s k) := by
  unfold refuseFrom
  repeat' first
    | with_reducible assumption
    | with_reducible apply OnlyIn.refl
    | (with_reducible apply OnlyIn.ite) <;> intro _
    | (with_reducible apply OnlyIn.step (refusePacket_only _ _)); (case q => decide)
    | (with_reducible apply OnlyIn.step (notePartial_only _ _ _ _)); (case q => decide)

theorem rerouteQueue_only (port : Nat) (s : State) :
    OnlyIn [.events, .mbx, .maps, .qh, .ports, .cols, .ldg, .asy, .lrd, .span, .counts, .ctr, .shutters] s (rerouteQueue port s) := by
  unfold rerouteQueue
  repeat' first
    | with_reducible assumption
    | with_reducible apply OnlyIn.refl
    | (with_reducible apply OnlyIn.ite) <;> intro _
    | (with_reducible apply OnlyIn.step (portMod_only _ _ _)); (case q => decide)
    | (with_reducible apply OnlyIn.step (rerouteLent_only _ _ _ _)); (case q => decide)
    | (with_reducible apply OnlyIn.thenFold_fst); rotate_left; intro _ _
    | (with_reducible apply OnlyIn.thenFold_snd); rotate_left; intro _ _
    | (with_reducible apply OnlyIn.thenFold); rotate_left; intro _ _
    | (with_reducible apply OnlyIn.lit); (case e => exact rfl); (case h => first | with_reducible assumption | with_reducible apply OnlyIn.refl); (case ev => first | exact (fun hp => absurd (by decide) hp) | exact (fun _ => ⟨rfl, rfl, rfl, rfl, rfl⟩)); (case po => first | exact (fun hp => absurd (by decide) hp) | exact (fun _ => ⟨rfl, rfl⟩)); (case k => intro p hp ne np; cases p <;> first | exact (absurd (by decide) hp) | exact (absurd rfl ne) | exact (absurd rfl np) | exact rfl)

theorem askPeer_only (port : Nat) (s : State) :
    OnlyIn [.events, .ports, .ldg, .asy, .span, .counts] s (askPeer port s) := by
  unfold askPeer
  repeat' first
    | with_reducible assumption
    | with_reducible apply OnlyIn.refl
    | (with_reducible apply OnlyIn.ite) <;> intro _
    | (extract_lets +onlyGivenNames s; fail_if_success (have : State := s); clear_value s)
    | (with_reducible apply OnlyIn.step (portMod_only _ _ _)); (case q => decide)
    | (with_reducible apply OnlyIn.step (sendOwn_only _ _ _)); (case q => decide)
    | (with_reducible apply OnlyIn.lit); (case e => exact rfl); (case h => first | with_reducible assumption | with_reducible apply OnlyIn.refl); (case ev => first | exact (fun hp => absurd (by decide) hp) | exact (fun _ => ⟨rfl, rfl, rfl, rfl, rfl⟩)); (case po => first | exact (fun hp => absurd (by decide) hp) | exact (fun _ => ⟨rfl, rfl⟩)); (case k => intro p hp ne np; cases p <;> first | exact (absurd (by decide) hp) | exact (absurd rfl ne) | exact (absurd rfl np) | exact rfl)

theorem enterRecover_only (port : Nat) (s : State) :
    OnlyIn [.events, .mbx, .maps, .qh, .ports, .cols, .ldg, .asy, .lrd, .span, .counts, .ctr, .shutters] s (enterRecover port s) := by
  unfold enterRecover
  repeat' first
    | with_reducible assumption
    | with_reducible apply OnlyIn.refl
    | (with_reducible apply OnlyIn.ite) <;> intro _
    | (extract_lets +onlyGivenNames s; fail_if_success (have : State := s); clear_value s)
    | (with_reducible apply OnlyIn.step (portMod_only _ _ _)); (case q => decide)
    | (with_reducible apply OnlyIn.step (transmit_only _ _ _)); (case q => decide)
    | (with_reducible apply OnlyIn.step (linkChanged_only _ _)); (case q => decide)
    | (with_reducible apply OnlyIn.step (rerouteQueue_only _ _)); (case q => decide)
    | (with_reducible apply OnlyIn.step (askPeer_only _ _)); (case q => decide)
    | (with_reducible apply OnlyIn.lit); (case e => exact rfl); (case h => first | with_reducible assumption | with_reducible apply OnlyIn.refl); (case ev => first | exact (fun hp => absurd (by decide) hp) | exact (fun _ => ⟨rfl, rfl, rfl, rfl, rfl⟩)); (case po => first | exact (fun hp => absurd (by decide) hp) | exact (fun _ => ⟨rfl, rfl⟩)); (case k => intro p hp ne np; cases p <;> first | exact (absurd (by decide) hp) | exact (absurd rfl ne) | exact (absurd rfl np) | exact rfl)

theorem takeNak_only (port ack : Nat) (s : State) :
    OnlyIn [.events, .mbx, .maps, .qh, .ports, .cols, .ldg, .asy, .lrd, .span, .counts, .ctr, .shutters] s (takeNak port ack s) := by
  unfold takeNak
  repeat' first
    | with_reducible assumption
    | with_reducible apply OnlyIn.refl
    | (with_reducible apply OnlyIn.ite) <;> intro _
    | (extract_lets +onlyGivenNames s; fail_if_success (have : State := s); clear_value s)
    | (with_reducible apply OnlyIn.step (transmit_only _ _ _)); (case q => decide)
    | (with_reducible apply OnlyIn.step (enterRecover_only _ _)); (case q => decide)
    | (with_reducible apply OnlyIn.lit); (case e => exact rfl); (case h => first | with_reducible assumption | with_reducible apply OnlyIn.refl); (case ev => first | exact (fun hp => absurd (by decide) hp) | exact (fun _ => ⟨rfl, rfl, rfl, rfl, rfl⟩)); (case po => first | exact (fun hp => absurd (by decide) hp) | exact (fun _ => ⟨rfl, rfl⟩)); (case k => intro p hp ne np; cases p <;> first | exact (absurd (by decide) hp) | exact (absurd rfl ne) | exact (absurd rfl np) | exact rfl)

theorem answerFlit_only (port : Nat) (idle : Bool) (s : State) :
    OnlyIn [.span, .counts] s (answerFlit port idle s) := by
  unfold answerFlit
  repeat' first
    | with_reducible assumption
    | with_reducible apply OnlyIn.refl
    | (with_reducible apply OnlyIn.ite) <;> intro _
    | (with_reducible apply OnlyIn.step (transmit_only _ _ _)); (case q => decide)

theorem takeFlit_only (port : Nat) (f : Flit) (s : State) :
    OnlyIn [.events, .mbx, .maps, .qh, .ports, .cols, .ldg, .asy, .lrd, .span, .counts, .ctr, .shutters] s (takeFlit port f s) := by
  unfold takeFlit
  repeat' first
    | with_reducible assumption
    | with_reducible apply OnlyIn.refl
    | (with_reducible apply OnlyIn.ite) <;> intro _
    | (extract_lets +onlyGivenNames s; fail_if_success (have : State := s); clear_value s)
    | (with_reducible apply OnlyIn.step (countEv_only _ _ _ _)); (case q => decide)
    | (with_reducible apply OnlyIn.step (portMod_only _ _ _)); (case q => decide)
    | (with_reducible apply OnlyIn.step (oweCells_only _ _)); (case q => decide)
    | (with_reducible apply OnlyIn.step (corruptPacket_only _ _ _ _)); (case q => decide)
    | (with_reducible apply OnlyIn.step (takeNak_only _ _ _)); (case q => decide)
    | (with_reducible apply OnlyIn.step (answerFlit_only _ _ _)); (case q => decide)

theorem failLink_only (port : Nat) (s : State) :
    OnlyIn [.events, .mbx, .maps, .qh, .ports, .cols, .ldg, .asy, .lrd, .span, .counts, .ctr, .shutters] s (failLink port s) := by
  unfold failLink
  repeat' first
    | with_reducible assumption
    | with_reducible apply OnlyIn.refl
    | (with_reducible apply OnlyIn.ite) <;> intro _
    | (extract_lets +onlyGivenNames s; fail_if_success (have : State := s); clear_value s)
    | (with_reducible apply OnlyIn.step (raise_only _ _)); (case q => decide)
    | (with_reducible apply OnlyIn.step (portMod_only _ _ _)); (case q => decide)
    | (with_reducible apply OnlyIn.step (transmit_only _ _ _)); (case q => decide)
    | (with_reducible apply OnlyIn.step (linkChanged_only _ _)); (case q => decide)
    | (with_reducible apply OnlyIn.step (rerouteQueue_only _ _)); (case q => decide)
    | (with_reducible apply OnlyIn.step (askPeer_only _ _)); (case q => decide)
    | (with_reducible apply OnlyIn.lit); (case e => exact rfl); (case h => first | with_reducible assumption | with_reducible apply OnlyIn.refl); (case ev => first | exact (fun hp => absurd (by decide) hp) | exact (fun _ => ⟨rfl, rfl, rfl, rfl, rfl⟩)); (case po => first | exact (fun hp => absurd (by decide) hp) | exact (fun _ => ⟨rfl, rfl⟩)); (case k => intro p hp ne np; cases p <;> first | exact (absurd (by decide) hp) | exact (absurd rfl ne) | exact (absurd rfl np) | exact rfl)

theorem unresolved_only (port : Nat) (s : State) :
    OnlyIn [.events, .mbx, .maps, .qh, .ports, .cols, .ldg, .asy, .lrd, .span, .counts, .ctr, .shutters] s (unresolved port s) := by
  unfold unresolved
  repeat' first
    | with_reducible assumption
    | with_reducible apply OnlyIn.refl
    | (with_reducible apply OnlyIn.ite) <;> intro _
    | (extract_lets +onlyGivenNames s; fail_if_success (have : State := s); clear_value s)
    | (with_reducible apply OnlyIn.step (portMod_only _ _ _)); (case q => decide)
    | (with_reducible apply OnlyIn.step (refuseFrom_only _ _ _)); (case q => decide)
    | (with_reducible apply OnlyIn.thenFold_fst); rotate_left; intro _ _
    | (with_reducible apply OnlyIn.thenFold_snd); rotate_left; intro _ _
    | (with_reducible apply OnlyIn.thenFold); rotate_left; intro _ _
    | (with_reducible apply OnlyIn.lit); (case e => exact rfl); (case h => first | with_reducible assumption | with_reducible apply OnlyIn.refl); (case ev => first | exact (fun hp => absurd (by decide) hp) | exact (fun _ => ⟨rfl, rfl, rfl, rfl, rfl⟩)); (case po => first | exact (fun hp => absurd (by decide) hp) | exact (fun _ => ⟨rfl, rfl⟩)); (case k => intro p hp ne np; cases p <;> first | exact (absurd (by decide) hp) | exact (absurd rfl ne) | exact (absurd rfl np) | exact rfl)

theorem settleLink_only (port lastRx : Nat) (s : State) :
    OnlyIn [.events, .mbx, .maps, .qh, .ports, .cols, .ldg, .asy, .lrd, .span, .counts, .ctr, .shutters] s (settleLink port lastRx s) := by
  unfold settleLink
  repeat' first
    | with_reducible assumption
    | with_reducible apply OnlyIn.refl
    | (with_reducible apply OnlyIn.ite) <;> intro _
    | (extract_lets +onlyGivenNames s; fail_if_success (have : State := s); clear_value s)
    | (with_reducible apply OnlyIn.step (portMod_only _ _ _)); (case q => decide)
    | (with_reducible apply OnlyIn.step (rerouteFrom_only _ _ _)); (case q => decide)
    | (with_reducible apply OnlyIn.thenFold_fst); rotate_left; intro _ _
    | (with_reducible apply OnlyIn.thenFold_snd); rotate_left; intro _ _
    | (with_reducible apply OnlyIn.thenFold); rotate_left; intro _ _
    | (with_reducible apply OnlyIn.lit); (case e => exact rfl); (case h => first | with_reducible assumption | with_reducible apply OnlyIn.refl); (case ev => first | exact (fun hp => absurd (by decide) hp) | exact (fun _ => ⟨rfl, rfl, rfl, rfl, rfl⟩)); (case po => first | exact (fun hp => absurd (by decide) hp) | exact (fun _ => ⟨rfl, rfl⟩)); (case k => intro p hp ne np; cases p <;> first | exact (absurd (by decide) hp) | exact (absurd rfl ne) | exact (absurd rfl np) | exact rfl)

theorem cellLost_only (spot : CellSpot) (s : State) :
    OptIn (fun b => b) [.events, .mbx, .maps, .qh, .ports, .cols, .ldg, .asy, .lrd, .span, .counts, .ctr, .shutters] s (cellLost spot s) := by
  unfold cellLost
  repeat' first
    | with_reducible assumption
    | with_reducible apply OnlyIn.refl
    | (with_reducible apply OnlyIn.ite) <;> intro _
    | with_reducible apply OptIn.none
    | (with_reducible apply OptIn.ite) <;> intro _
    | (with_reducible apply OptIn.some); try dsimp only
    | (with_reducible apply OptIn.map); intro _ _; try dsimp only
    | (extract_lets +onlyGivenNames s; fail_if_success (have : State := s); clear_value s)
    | (with_reducible apply OnlyIn.step (flowMod_only _ _ _)); (case q => decide)
    | (with_reducible apply OnlyIn.step (xferMod_only _ _ _)); (case q => decide)
    | (with_reducible apply OnlyIn.step (streamAt_only _ _ _ _)); (case q => decide)
    | (with_reducible apply OnlyIn.step (portMod_only _ _ _)); (case q => decide)
    | (with_reducible apply OnlyIn.step (returnCells_only _ _)); (case q => decide)
    | (with_reducible apply OnlyIn.step (refusePacket_only _ _)); (case q => decide)
    | (with_reducible apply OnlyIn.step (corruptPacket_only _ _ _ _)); (case q => decide)
    | (with_reducible apply OnlyIn.step (unresolved_only _ _)); (case q => decide)
    | (with_reducible apply OnlyIn.thenFold_fst); rotate_left; intro _ _
    | (with_reducible apply OnlyIn.thenFold_snd); rotate_left; intro _ _
    | (with_reducible apply OnlyIn.thenFold); rotate_left; intro _ _
    | split
    | (with_reducible apply OnlyIn.lit); (case e => exact rfl); (case h => first | with_reducible assumption | with_reducible apply OnlyIn.refl); (case ev => first | exact (fun hp => absurd (by decide) hp) | exact (fun _ => ⟨rfl, rfl, rfl, rfl, rfl⟩)); (case po => first | exact (fun hp => absurd (by decide) hp) | exact (fun _ => ⟨rfl, rfl⟩)); (case k => intro p hp ne np; cases p <;> first | exact (absurd (by decide) hp) | exact (absurd rfl ne) | exact (absurd rfl np) | exact rfl)

theorem holdTaken_only (slot : Nat) (s : State) :
    OnlyIn [.mbx] s (holdTaken slot s) := by
  unfold holdTaken
  repeat' first
    | with_reducible assumption
    | with_reducible apply OnlyIn.refl
    | (with_reducible apply OnlyIn.ite) <;> intro _
    | (with_reducible apply OnlyIn.lit); (case e => exact rfl); (case h => first | with_reducible assumption | with_reducible apply OnlyIn.refl); (case ev => first | exact (fun hp => absurd (by decide) hp) | exact (fun _ => ⟨rfl, rfl, rfl, rfl, rfl⟩)); (case po => first | exact (fun hp => absurd (by decide) hp) | exact (fun _ => ⟨rfl, rfl⟩)); (case k => intro p hp ne np; cases p <;> first | exact (absurd (by decide) hp) | exact (absurd rfl ne) | exact (absurd rfl np) | exact rfl)

theorem noteImage_only (v : ChipView) (ctx da : Nat) (s : State) :
    OnlyIn [.hbmStacks] s (noteImage v ctx da s) := by
  unfold noteImage
  repeat' first
    | with_reducible assumption
    | with_reducible apply OnlyIn.refl
    | (with_reducible apply OnlyIn.ite) <;> intro _
    | (with_reducible apply OnlyIn.step (noteClerk_only _ _ _ _ _)); (case q => decide)
    | split

theorem installRoutes_only (groups members : AMap Nat) (s : State) :
    OnlyIn [.span] s (installRoutes groups members s) := by
  unfold installRoutes
  repeat' first
    | with_reducible assumption
    | with_reducible apply OnlyIn.refl
    | (with_reducible apply OnlyIn.ite) <;> intro _
    | (extract_lets +onlyGivenNames s; fail_if_success (have : State := s); clear_value s)
    | (with_reducible apply OnlyIn.lit); (case e => exact rfl); (case ev => first | exact (fun hp => absurd (by decide) hp) | exact (fun _ => ⟨rfl, rfl, rfl, rfl, rfl⟩)); (case po => first | exact (fun hp => absurd (by decide) hp) | exact (fun _ => ⟨rfl, rfl⟩)); (case k => intro p hp ne np; cases p <;> first | exact (absurd (by decide) hp) | exact (absurd rfl ne) | exact (absurd rfl np) | exact rfl)

theorem moveRecs_only (base size n top : Nat) (dst : Nat → Option Nat) (s : State) :
    OnlyIn [.hbm, .poison] s (moveRecs base size n top dst s) := by
  unfold moveRecs
  repeat' first
    | with_reducible assumption
    | with_reducible apply OnlyIn.refl
    | (with_reducible apply OnlyIn.ite) <;> intro _
    | (extract_lets +onlyGivenNames s; fail_if_success (have : State := s); clear_value s)
    | (with_reducible apply OnlyIn.step (hbmWrite_only _ _ _)); (case q => decide)
    | (with_reducible apply OnlyIn.step (hbmClear_only _ _ _)); (case q => decide)
    | (with_reducible apply OnlyIn.thenFold_fst); rotate_left; intro _ _
    | (with_reducible apply OnlyIn.thenFold_snd); rotate_left; intro _ _
    | (with_reducible apply OnlyIn.thenFold); rotate_left; intro _ _
    | split
    | (with_reducible apply OnlyIn.lit); (case e => exact rfl); (case ev => first | exact (fun hp => absurd (by decide) hp) | exact (fun _ => ⟨rfl, rfl, rfl, rfl, rfl⟩)); (case po => first | exact (fun hp => absurd (by decide) hp) | exact (fun _ => ⟨rfl, rfl⟩)); (case k => intro p hp ne np; cases p <;> first | exact (absurd (by decide) hp) | exact (absurd rfl ne) | exact (absurd rfl np) | exact rfl)

theorem reorderSlot_only (was now : HomeMap) (tid i : Nat) (s : State) :
    OnlyIn [.moves, .hbm, .poison, .lrd] s (reorderSlot was now tid i s) := by
  unfold reorderSlot
  repeat' first
    | with_reducible assumption
    | with_reducible apply OnlyIn.refl
    | (with_reducible apply OnlyIn.ite) <;> intro _
    | (extract_lets +onlyGivenNames s; fail_if_success (have : State := s); clear_value s)
    | (with_reducible apply OnlyIn.step (moveRecs_only _ _ _ _ _ _)); (case q => decide)
    | split
    | (with_reducible apply OnlyIn.lit); (case e => exact rfl); (case ev => first | exact (fun hp => absurd (by decide) hp) | exact (fun _ => ⟨rfl, rfl, rfl, rfl, rfl⟩)); (case po => first | exact (fun hp => absurd (by decide) hp) | exact (fun _ => ⟨rfl, rfl⟩)); (case k => intro p hp ne np; cases p <;> first | exact (absurd (by decide) hp) | exact (absurd rfl ne) | exact (absurd rfl np) | exact rfl)

theorem reorderAll_only (map : Nat) (was now : HomeMap) (s : State) :
    OnlyIn [.moves, .hbm, .poison, .lrd] s (reorderAll map was now s) := by
  unfold reorderAll
  repeat' first
    | with_reducible assumption
    | with_reducible apply OnlyIn.refl
    | (with_reducible apply OnlyIn.ite) <;> intro _
    | (with_reducible apply OnlyIn.step (reorderSlot_only _ _ _ _ _)); (case q => decide)
    | (with_reducible apply OnlyIn.thenFold_fst); rotate_left; intro _ _
    | (with_reducible apply OnlyIn.thenFold_snd); rotate_left; intro _ _
    | (with_reducible apply OnlyIn.thenFold); rotate_left; intro _ _

theorem remap_only (map : Nat) (m : HomeMap) (entries : AMap Nat) (epoch : Nat) (s : State) :
    OnlyIn [.maps, .moves, .hbm, .poison, .lrd, .shutters] s (remap map m entries epoch s) := by
  unfold remap
  repeat' first
    | with_reducible assumption
    | with_reducible apply OnlyIn.refl
    | (with_reducible apply OnlyIn.ite) <;> intro _
    | (extract_lets +onlyGivenNames s; fail_if_success (have : State := s); clear_value s)
    | (with_reducible apply OnlyIn.step (retireReplicas_only _ _)); (case q => decide)
    | (with_reducible apply OnlyIn.step (reorderAll_only _ _ _ _)); (case q => decide)
    | (with_reducible apply OnlyIn.lit); (case e => exact rfl); (case ev => first | exact (fun hp => absurd (by decide) hp) | exact (fun _ => ⟨rfl, rfl, rfl, rfl, rfl⟩)); (case po => first | exact (fun hp => absurd (by decide) hp) | exact (fun _ => ⟨rfl, rfl⟩)); (case k => intro p hp ne np; cases p <;> first | exact (absurd (by decide) hp) | exact (absurd rfl ne) | exact (absurd rfl np) | exact rfl)

theorem doHomemap_only (v : ChipView) (other loc slot : Nat) (m : Msg) (s : State) :
    OnlyIn [.mbx, .maps, .moves, .hbm, .poison, .lrd, .hbmStacks, .shutters] s (doHomemap v other loc slot m s) := by
  unfold doHomemap
  repeat' first
    | with_reducible assumption
    | with_reducible apply OnlyIn.refl
    | (with_reducible apply OnlyIn.ite) <;> intro _
    | (extract_lets +onlyGivenNames s; fail_if_success (have : State := s); clear_value s)
    | (with_reducible apply OnlyIn.step (postFinal_only _ _ _ _ _)); (case q => decide)
    | (with_reducible apply OnlyIn.step (noteClerk_only _ _ _ _ _)); (case q => decide)
    | (with_reducible apply OnlyIn.step (remap_only _ _ _ _ _)); (case q => decide)
    | split
    | (with_reducible apply OnlyIn.lit); (case e => exact rfl); (case h => first | with_reducible assumption | with_reducible apply OnlyIn.refl); (case ev => first | exact (fun hp => absurd (by decide) hp) | exact (fun _ => ⟨rfl, rfl, rfl, rfl, rfl⟩)); (case po => first | exact (fun hp => absurd (by decide) hp) | exact (fun _ => ⟨rfl, rfl⟩)); (case k => intro p hp ne np; cases p <;> first | exact (absurd (by decide) hp) | exact (absurd rfl ne) | exact (absurd rfl np) | exact rfl)

theorem closeForwarding_only (map : Nat) (s : State) :
    OnlyIn [.maps, .moves, .hbm, .poison, .lrd] s (closeForwarding map s) := by
  unfold closeForwarding
  repeat' first
    | with_reducible assumption
    | with_reducible apply OnlyIn.refl
    | (with_reducible apply OnlyIn.ite) <;> intro _
    | (extract_lets +onlyGivenNames s; fail_if_success (have : State := s); clear_value s)
    | (with_reducible apply OnlyIn.step (reorderAll_only _ _ _ _)); (case q => decide)
    | split
    | (with_reducible apply OnlyIn.lit); (case e => exact rfl); (case h => first | with_reducible assumption | with_reducible apply OnlyIn.refl); (case ev => first | exact (fun hp => absurd (by decide) hp) | exact (fun _ => ⟨rfl, rfl, rfl, rfl, rfl⟩)); (case po => first | exact (fun hp => absurd (by decide) hp) | exact (fun _ => ⟨rfl, rfl⟩)); (case k => intro p hp ne np; cases p <;> first | exact (absurd (by decide) hp) | exact (absurd rfl ne) | exact (absurd rfl np) | exact rfl)

theorem retireCopy_only (c : LCopy) (s : State) :
    OnlyIn [.moves, .hbm, .poison, .lrd] s (retireCopy c s) := by
  unfold retireCopy
  repeat' first
    | with_reducible assumption
    | with_reducible apply OnlyIn.refl
    | (with_reducible apply OnlyIn.ite) <;> intro _
    | (extract_lets +onlyGivenNames s; fail_if_success (have : State := s); clear_value s)
    | (with_reducible apply OnlyIn.step (startMove_only _ _ _ _ _)); (case q => decide)
    | (with_reducible apply OnlyIn.step (dropCopy_only _ _ _ _)); (case q => decide)
    | (with_reducible apply OnlyIn.lit); (case e => exact rfl); (case h => first | with_reducible assumption | with_reducible apply OnlyIn.refl); (case ev => first | exact (fun hp => absurd (by decide) hp) | exact (fun _ => ⟨rfl, rfl, rfl, rfl, rfl⟩)); (case po => first | exact (fun hp => absurd (by decide) hp) | exact (fun _ => ⟨rfl, rfl⟩)); (case k => intro p hp ne np; cases p <;> first | exact (absurd (by decide) hp) | exact (absurd rfl ne) | exact (absurd rfl np) | exact rfl)

theorem endAllMoves_only (s : State) :
    OnlyIn [.tables, .moves, .hbm, .poison, .lrd] s (endAllMoves s) := by
  unfold endAllMoves
  repeat' first
    | with_reducible assumption
    | with_reducible apply OnlyIn.refl
    | (with_reducible apply OnlyIn.ite) <;> intro _
    | (with_reducible apply OnlyIn.step (finishMove_only _ _)); (case q => decide)
    | (with_reducible apply OnlyIn.thenFold_fst); rotate_left; intro _ _
    | (with_reducible apply OnlyIn.thenFold_snd); rotate_left; intro _ _
    | (with_reducible apply OnlyIn.thenFold); rotate_left; intro _ _
    | (with_reducible apply OnlyIn.lit); (case e => exact rfl); (case h => first | with_reducible assumption | with_reducible apply OnlyIn.refl); (case ev => first | exact (fun hp => absurd (by decide) hp) | exact (fun _ => ⟨rfl, rfl, rfl, rfl, rfl⟩)); (case po => first | exact (fun hp => absurd (by decide) hp) | exact (fun _ => ⟨rfl, rfl⟩)); (case k => intro p hp ne np; cases p <;> first | exact (absurd (by decide) hp) | exact (absurd rfl ne) | exact (absurd rfl np) | exact rfl)

theorem retireKept_only (s : State) : OnlyIn [.lrd] s (retireKept s) := by
  unfold retireKept
  have h := OnlyIn.foldl (f := fun t k => larderRetire k.block (blocksOf k.size) none t)
    (fun t k => larderRetire_only _ _ _ t) s.lrd.kept s
  exact h.trans ⟨fun p hp => by cases p <;> first | exact absurd (by decide) hp | exact rfl | exact ⟨rfl, rfl⟩ | exact ⟨rfl, rfl, rfl, rfl, rfl⟩⟩

theorem installPlan_only (p : W64) (s : State) : OnlyIn [.clerk, .tables, .moves, .hbm, .poison, .lrd] s (installPlan p s) := by
  unfold installPlan
  dsimp only
  have h := (endAllMoves_only s).mono (m := [.clerk, .tables, .moves, .hbm, .poison, .lrd]) (by decide)
  generalize endAllMoves s = u at h ⊢
  have k := OnlyIn.thenFold h (f := fun t c => retireCopy c t) (xs := u.lrd.copies) (fun t c => (retireCopy_only c t).mono (by decide))
  generalize u.lrd.copies.foldl (fun t c => retireCopy c t) u = v at k ⊢
  have m := OnlyIn.step (retireReplicas_only (fun _ => true) v) (by decide) k
  generalize retireReplicas (fun _ => true) v = w at m ⊢
  have n := OnlyIn.step (retireKept_only w) (by decide) m
  generalize retireKept w = x at n ⊢
  exact n.trans ⟨fun p hp => by cases p <;> first | exact absurd (by decide) hp | exact rfl | exact ⟨rfl, rfl⟩ | exact ⟨rfl, rfl, rfl, rfl, rfl⟩⟩

theorem doPlan_only (slot : Nat) (m : Msg) (s : State) :
    OnlyIn [.mbx, .clerk, .tables, .moves, .hbm, .poison, .lrd] s (doPlan slot m s) := by
  unfold doPlan
  repeat' first
    | with_reducible assumption
    | with_reducible apply OnlyIn.refl
    | (with_reducible apply OnlyIn.ite) <;> intro _
    | (extract_lets +onlyGivenNames s; fail_if_success (have : State := s); clear_value s)
    | (with_reducible apply OnlyIn.step (postFinal_only _ _ _ _ _)); (case q => decide)
    | (with_reducible apply OnlyIn.step (installPlan_only _ _)); (case q => decide)

theorem noteHotList_only (v : ChipView) (ctx da : Nat) (s : State) :
    OnlyIn [.hbmStacks] s (noteHotList v ctx da s) := by
  unfold noteHotList
  repeat' first
    | with_reducible assumption
    | with_reducible apply OnlyIn.refl
    | (with_reducible apply OnlyIn.ite) <;> intro _
    | (extract_lets +onlyGivenNames s; fail_if_success (have : State := s); clear_value s)
    | (with_reducible apply OnlyIn.step (noteClerk_only _ _ _ _ _)); (case q => decide)
    | split

theorem setPop_only (a pop : Nat) (s : State) :
    OnlyIn [.hbm, .poison] s (setPop a pop s) := by
  unfold setPop
  repeat' first
    | with_reducible assumption
    | with_reducible apply OnlyIn.refl
    | (with_reducible apply OnlyIn.ite) <;> intro _
    | (extract_lets +onlyGivenNames s; fail_if_success (have : State := s); clear_value s)
    | (with_reducible apply OnlyIn.step (hbmWrite_only _ _ _)); (case q => decide)
    | (with_reducible apply OnlyIn.lit); (case e => exact rfl); (case h => first | with_reducible assumption | with_reducible apply OnlyIn.refl); (case ev => first | exact (fun hp => absurd (by decide) hp) | exact (fun _ => ⟨rfl, rfl, rfl, rfl, rfl⟩)); (case po => first | exact (fun hp => absurd (by decide) hp) | exact (fun _ => ⟨rfl, rfl⟩)); (case k => intro p hp ne np; cases p <;> first | exact (absurd (by decide) hp) | exact (absurd rfl ne) | exact (absurd rfl np) | exact rfl)

theorem halveInPlace_only (tid i : Nat) (v : VSlot) (da : Nat) (e : DirEnt) (pop : Nat) (s : State) :
    OnlyIn [.hbm, .poison, .lrd] s (halveInPlace tid i v da e pop s) := by
  unfold halveInPlace
  repeat' first
    | with_reducible assumption
    | with_reducible apply OnlyIn.refl
    | (with_reducible apply OnlyIn.ite) <;> intro _
    | (extract_lets +onlyGivenNames s; fail_if_success (have : State := s); clear_value s)
    | (with_reducible apply OnlyIn.step (refreshCopy_only _ _ _ _)); (case q => decide)
    | (with_reducible apply OnlyIn.step (setPop_only _ _ _)); (case q => decide)

theorem refreshRow_only (tid i ix : Nat) (s : State) :
    OnlyIn [.events, .tables, .moves, .hbm, .poison, .ports, .asy, .lrd] s (refreshRow tid i ix s) := by
  unfold refreshRow
  repeat' first
    | with_reducible assumption
    | with_reducible apply OnlyIn.refl
    | (with_reducible apply OnlyIn.ite) <;> intro _
    | (extract_lets +onlyGivenNames s; fail_if_success (have : State := s); clear_value s)
    | (with_reducible apply OptIn.step (placeRowIn_only _ _ _ _ _ _ _)); (case q => decide)
    | ((with_reducible apply OnlyIn.step (((placeRowIn_only _ _ _ _ _ _ _)).only _ (by assumption)))); (case q => decide)
    | (with_reducible apply OnlyIn.step (OnlyIn.of_some3 (by assumption) (placeRowIn_only _ _ _ _ _ _ _))); (case q => decide)
    | (with_reducible apply OnlyIn.step (startMove_only _ _ _ _ _)); (case q => decide)
    | (with_reducible apply OnlyIn.step (dropCopy_only _ _ _ _)); (case q => decide)
    | (with_reducible apply OnlyIn.step (halveInPlace_only _ _ _ _ _ _ _)); (case q => decide)
    | split
    | with_reducible apply OnlyIn.ite_fst
    | with_reducible apply OnlyIn.ite_snd

theorem refreshSlot_only (tid i : Nat) (s : State) :
    OnlyIn [.events, .tables, .moves, .hbm, .poison, .ports, .asy, .lrd] s (refreshSlot tid i s) := by
  unfold refreshSlot
  repeat' first
    | with_reducible assumption
    | with_reducible apply OnlyIn.refl
    | (with_reducible apply OnlyIn.ite) <;> intro _
    | (extract_lets +onlyGivenNames s; fail_if_success (have : State := s); clear_value s)
    | (with_reducible apply OnlyIn.step (setPop_only _ _ _)); (case q => decide)
    | (with_reducible apply OnlyIn.step (refreshRow_only _ _ _ _)); (case q => decide)
    | (with_reducible apply OnlyIn.thenFold_fst); rotate_left; intro _ _
    | (with_reducible apply OnlyIn.thenFold_snd); rotate_left; intro _ _
    | (with_reducible apply OnlyIn.thenFold); rotate_left; intro _ _
    | split

theorem dropUnlisted_only (hot : List (Nat × Nat)) (s : State) :
    OnlyIn [.moves, .hbm, .poison, .lrd] s (dropUnlisted hot s) := by
  unfold dropUnlisted
  repeat' first
    | with_reducible assumption
    | with_reducible apply OnlyIn.refl
    | (with_reducible apply OnlyIn.ite) <;> intro _
    | (extract_lets +onlyGivenNames s; fail_if_success (have : State := s); clear_value s)
    | (with_reducible apply OnlyIn.step (retireCopy_only _ _)); (case q => decide)
    | (with_reducible apply OnlyIn.thenFold_fst); rotate_left; intro _ _
    | (with_reducible apply OnlyIn.thenFold_snd); rotate_left; intro _ _
    | (with_reducible apply OnlyIn.thenFold); rotate_left; intro _ _

theorem placeHot_only (k : HotCounts × State) (x : Nat × Nat) :
    OnlyIn [.tables, .moves, .hbm, .poison, .lrd] k.2 (placeHot k x).2 := by
  unfold placeHot
  dsimp only
  repeat' first
    | with_reducible assumption
    | with_reducible apply OnlyIn.refl
    | with_reducible apply OnlyIn.ite_snd
    | (with_reducible apply OnlyIn.step (startMove_only _ _ _ _ _)); (case q => decide)
    | (with_reducible apply OnlyIn.step (endMoves_only _ _)); (case q => decide)
    | split

theorem dropReplicas_only (reps : List (Nat × Nat)) (s : State) :
    OnlyIn [.lrd] s (dropReplicas reps s) := by
  unfold dropReplicas
  repeat' first
    | with_reducible assumption
    | with_reducible apply OnlyIn.refl
    | (with_reducible apply OnlyIn.ite) <;> intro _
    | (with_reducible apply OnlyIn.step (retireReplicas_only _ _)); (case q => decide)

theorem startRefresh_only (slot : Nat) (m : Msg) (l : HotList) (s : State) :
    OnlyIn [.events, .mbx, .tables, .moves, .hbm, .poison, .ports, .ldg, .asy, .lrd, .span, .counts] s (startRefresh slot m l s) := by
  unfold startRefresh
  repeat' first
    | with_reducible assumption
    | with_reducible apply OnlyIn.refl
    | (with_reducible apply OnlyIn.ite) <;> intro _
    | (extract_lets +onlyGivenNames s; fail_if_success (have : State := s); clear_value s)
    | (with_reducible apply OnlyIn.step (stepRefresh_only _)); (case q => decide)
    | (with_reducible apply OnlyIn.step (holdTaken_only _ _)); (case q => decide)
    | (with_reducible apply OnlyIn.step (endAllMoves_only _)); (case q => decide)
    | (with_reducible apply OnlyIn.step (refreshSlot_only _ _ _)); (case q => decide)
    | (with_reducible apply OnlyIn.step (dropUnlisted_only _ _)); (case q => decide)
    | (with_reducible apply OnlyIn.step (placeHot_only _ _)); (case q => decide)
    | (apply OnlyIn.step (OnlyIn.of_snd (by assumption) (placeHot_only _ _))); (case q => decide)
    | (with_reducible apply OnlyIn.step (dropReplicas_only _ _)); (case q => decide)
    | (with_reducible apply OnlyIn.thenFold_fst); rotate_left; intro _ _
    | (with_reducible apply OnlyIn.thenFold_snd); rotate_left; intro _ _
    | (with_reducible apply OnlyIn.thenFold); rotate_left; intro _ _
    | split
    | with_reducible apply OnlyIn.ite_snd
    | (with_reducible apply OnlyIn.lit); (case e => exact rfl); (case ev => first | exact (fun hp => absurd (by decide) hp) | exact (fun _ => ⟨rfl, rfl, rfl, rfl, rfl⟩)); (case po => first | exact (fun hp => absurd (by decide) hp) | exact (fun _ => ⟨rfl, rfl⟩)); (case k => intro p hp ne np; cases p <;> first | exact (absurd (by decide) hp) | exact (absurd rfl ne) | exact (absurd rfl np) | exact rfl)

theorem doRefresh_only (slot : Nat) (v : ChipView) (k : Taken) (s : State) :
    OnlyIn [.events, .mbx, .tables, .moves, .hbm, .poison, .ports, .ldg, .asy, .lrd, .hbmStacks, .span, .counts] s (doRefresh slot v k s) := by
  unfold doRefresh
  repeat' first
    | with_reducible assumption
    | with_reducible apply OnlyIn.refl
    | (with_reducible apply OnlyIn.ite) <;> intro _
    | (extract_lets +onlyGivenNames s; fail_if_success (have : State := s); clear_value s)
    | (with_reducible apply OnlyIn.step (postFinal_only _ _ _ _ _)); (case q => decide)
    | (with_reducible apply OnlyIn.step (untake_only _ _)); (case q => decide)
    | (with_reducible apply OnlyIn.step (noteHotList_only _ _ _ _)); (case q => decide)
    | (with_reducible apply OnlyIn.step (startRefresh_only _ _ _ _)); (case q => decide)
    | split

theorem loadOne_only (v : ChipView) (ctx da tid i stamp rows : Nat) (hasState : Bool) (t : Table) (k : LoadRun) (n : Nat) :
    OnlyIn [.events, .tables, .hbm, .poison, .ports, .asy, .hbmStacks] k.st (loadOne v ctx da tid i stamp rows hasState t k n).st := by
  unfold loadOne
  dsimp only
  repeat' first
    | split
    | with_reducible apply OnlyIn.refl
    | exact (noteClerk_only _ _ _ _ _).mono (by decide)
    | exact ((loadWrite_only _ _ _ _ _ _).only _ (by assumption)).mono (by decide)

theorem loadAll_only (v : ChipView) (ctx da tid i stamp rows : Nat) (hasState : Bool) (t : Table) (ns : List Nat)
    (k : LoadRun) :
    OnlyIn [.events, .tables, .hbm, .poison, .ports, .asy, .hbmStacks] k.st
      (ns.foldl (loadOne v ctx da tid i stamp rows hasState t) k).st := by
  induction ns generalizing k with
  | nil => exact OnlyIn.refl _ _
  | cons n rest ih => exact (loadOne_only v ctx da tid i stamp rows hasState t k n).trans (ih _)

end Sys2Proof.Machine
end

