-- ==== Sys2Proof/Laws/FrameBlock.lean ====
section
/-! SUPPORT. Which parts of the state each operation may change: registers, memory errors, Shutters, resets, power and the Clerk. -/

set_option linter.all false

namespace Sys2Proof.Machine

open Sys2Proof

theorem writeEvent_only (val : W64) (s : State) :
    OnlyIn [.events, .ports] s (writeEvent val s) := by
  unfold writeEvent
  repeat' first
    | with_reducible assumption
    | with_reducible apply OnlyIn.refl
    | (with_reducible apply OnlyIn.ite) <;> intro _
    | (with_reducible apply OnlyIn.step (evalLines_only _)); (case q => decide)
    | (with_reducible apply OnlyIn.lit); (case e => exact rfl); (case h => first | with_reducible assumption | with_reducible apply OnlyIn.refl); (case ev => first | exact (fun hp => absurd (by decide) hp) | exact (fun _ => ⟨rfl, rfl, rfl, rfl, rfl⟩)); (case po => first | exact (fun hp => absurd (by decide) hp) | exact (fun _ => ⟨rfl, rfl⟩)); (case k => intro p hp ne np; cases p <;> first | exact (absurd (by decide) hp) | exact (absurd rfl ne) | exact (absurd rfl np) | exact rfl)

theorem writeEventReg_only (off : Nat) (val : W64) (s : State) :
    OnlyIn [.events, .block, .ports] s (writeEventReg off val s) := by
  unfold writeEventReg
  repeat' first
    | with_reducible assumption
    | with_reducible apply OnlyIn.refl
    | (with_reducible apply OnlyIn.ite) <;> intro _
    | (with_reducible apply OnlyIn.step (evalLines_only _)); (case q => decide)
    | (with_reducible apply OnlyIn.lit); (case e => exact rfl); (case h => first | with_reducible assumption | with_reducible apply OnlyIn.refl); (case ev => first | exact (fun hp => absurd (by decide) hp) | exact (fun _ => ⟨rfl, rfl, rfl, rfl, rfl⟩)); (case po => first | exact (fun hp => absurd (by decide) hp) | exact (fun _ => ⟨rfl, rfl⟩)); (case k => intro p hp ne np; cases p <;> first | exact (absurd (by decide) hp) | exact (absurd rfl ne) | exact (absurd rfl np) | exact rfl)

theorem writeMsiAddr_only (val : W64) (s : State) :
    OnlyIn [.events, .block, .ports] s (writeMsiAddr val s) := by
  unfold writeMsiAddr
  repeat' first
    | with_reducible assumption
    | with_reducible apply OnlyIn.refl
    | (with_reducible apply OnlyIn.ite) <;> intro _
    | (extract_lets +onlyGivenNames s; fail_if_success (have : State := s); clear_value s)
    | (with_reducible apply OnlyIn.step (sendMsi_only _ _)); (case q => decide)
    | (with_reducible apply OnlyIn.thenFold_fst); rotate_left; intro _ _
    | (with_reducible apply OnlyIn.thenFold_snd); rotate_left; intro _ _
    | (with_reducible apply OnlyIn.thenFold); rotate_left; intro _ _
    | (with_reducible apply OnlyIn.lit); (case e => exact rfl); (case h => first | with_reducible assumption | with_reducible apply OnlyIn.refl); (case ev => first | exact (fun hp => absurd (by decide) hp) | exact (fun _ => ⟨rfl, rfl, rfl, rfl, rfl⟩)); (case po => first | exact (fun hp => absurd (by decide) hp) | exact (fun _ => ⟨rfl, rfl⟩)); (case k => intro p hp ne np; cases p <;> first | exact (absurd (by decide) hp) | exact (absurd rfl ne) | exact (absurd rfl np) | exact rfl)

theorem writeMsiMode_only (val : W64) (s : State) :
    OnlyIn [.events, .block, .ports] s (writeMsiMode val s) := by
  unfold writeMsiMode
  repeat' first
    | with_reducible assumption
    | with_reducible apply OnlyIn.refl
    | (with_reducible apply OnlyIn.ite) <;> intro _
    | (with_reducible apply OnlyIn.step (evalLines_only _)); (case q => decide)
    | (with_reducible apply OnlyIn.lit); (case e => exact rfl); (case h => first | with_reducible assumption | with_reducible apply OnlyIn.refl); (case ev => first | exact (fun hp => absurd (by decide) hp) | exact (fun _ => ⟨rfl, rfl, rfl, rfl, rfl⟩)); (case po => first | exact (fun hp => absurd (by decide) hp) | exact (fun _ => ⟨rfl, rfl⟩)); (case k => intro p hp ne np; cases p <;> first | exact (absurd (by decide) hp) | exact (absurd rfl ne) | exact (absurd rfl np) | exact rfl)

theorem writeAsySel_only (val : W64) (s : State) :
    OnlyIn [.asy] s (writeAsySel val s) := by
  unfold writeAsySel
  repeat' first
    | with_reducible assumption
    | with_reducible apply OnlyIn.refl
    | (with_reducible apply OnlyIn.ite) <;> intro _
    | (extract_lets +onlyGivenNames s; fail_if_success (have : State := s); clear_value s)
    | (with_reducible apply OnlyIn.step (asyMod_only _ _ _)); (case q => decide)
    | (with_reducible apply OnlyIn.lit); (case e => exact rfl); (case h => first | with_reducible assumption | with_reducible apply OnlyIn.refl); (case ev => first | exact (fun hp => absurd (by decide) hp) | exact (fun _ => ⟨rfl, rfl, rfl, rfl, rfl⟩)); (case po => first | exact (fun hp => absurd (by decide) hp) | exact (fun _ => ⟨rfl, rfl⟩)); (case k => intro p hp ne np; cases p <;> first | exact (absurd (by decide) hp) | exact (absurd rfl ne) | exact (absurd rfl np) | exact rfl)

theorem writeSatThresh_only (val : W64) (s : State) :
    OnlyIn [.asy] s (writeSatThresh val s) := by
  unfold writeSatThresh
  repeat' first
    | with_reducible assumption
    | with_reducible apply OnlyIn.refl
    | (with_reducible apply OnlyIn.ite) <;> intro _
    | (with_reducible apply OnlyIn.lit); (case e => exact rfl); (case h => first | with_reducible assumption | with_reducible apply OnlyIn.refl); (case ev => first | exact (fun hp => absurd (by decide) hp) | exact (fun _ => ⟨rfl, rfl, rfl, rfl, rfl⟩)); (case po => first | exact (fun hp => absurd (by decide) hp) | exact (fun _ => ⟨rfl, rfl⟩)); (case k => intro p hp ne np; cases p <;> first | exact (absurd (by decide) hp) | exact (absurd rfl ne) | exact (absurd rfl np) | exact rfl)

theorem writeLatePolicy_only (val : W64) (s : State) :
    OnlyIn [.ldg] s (writeLatePolicy val s) := by
  unfold writeLatePolicy
  repeat' first
    | with_reducible assumption
    | with_reducible apply OnlyIn.refl
    | (with_reducible apply OnlyIn.ite) <;> intro _
    | (extract_lets +onlyGivenNames s; fail_if_success (have : State := s); clear_value s)
    | (with_reducible apply OnlyIn.lit); (case e => exact rfl); (case ev => first | exact (fun hp => absurd (by decide) hp) | exact (fun _ => ⟨rfl, rfl, rfl, rfl, rfl⟩)); (case po => first | exact (fun hp => absurd (by decide) hp) | exact (fun _ => ⟨rfl, rfl⟩)); (case k => intro p hp ne np; cases p <;> first | exact (absurd (by decide) hp) | exact (absurd rfl ne) | exact (absurd rfl np) | exact rfl)

theorem writeLdgStatus_only (val : W64) (s : State) :
    OnlyIn [.ldg] s (writeLdgStatus val s) := by
  unfold writeLdgStatus
  repeat' first
    | with_reducible assumption
    | with_reducible apply OnlyIn.refl
    | (with_reducible apply OnlyIn.ite) <;> intro _
    | (with_reducible apply OnlyIn.lit); (case e => exact rfl); (case h => first | with_reducible assumption | with_reducible apply OnlyIn.refl); (case ev => first | exact (fun hp => absurd (by decide) hp) | exact (fun _ => ⟨rfl, rfl, rfl, rfl, rfl⟩)); (case po => first | exact (fun hp => absurd (by decide) hp) | exact (fun _ => ⟨rfl, rfl⟩)); (case k => intro p hp ne np; cases p <;> first | exact (absurd (by decide) hp) | exact (absurd rfl ne) | exact (absurd rfl np) | exact rfl)

theorem writeHbmTemp_only (n : Nat) (val : W64) (s : State) :
    OnlyIn [.hbmStacks] s (writeHbmTemp n val s) := by
  unfold writeHbmTemp
  repeat' first
    | with_reducible assumption
    | with_reducible apply OnlyIn.refl
    | (with_reducible apply OnlyIn.ite) <;> intro _
    | (extract_lets +onlyGivenNames s; fail_if_success (have : State := s); clear_value s)
    | (with_reducible apply OnlyIn.step (stackMod_only _ _ _)); (case q => decide)
    | (with_reducible apply OnlyIn.lit); (case e => exact rfl); (case h => first | with_reducible assumption | with_reducible apply OnlyIn.refl); (case ev => first | exact (fun hp => absurd (by decide) hp) | exact (fun _ => ⟨rfl, rfl, rfl, rfl, rfl⟩)); (case po => first | exact (fun hp => absurd (by decide) hp) | exact (fun _ => ⟨rfl, rfl⟩)); (case k => intro p hp ne np; cases p <;> first | exact (absurd (by decide) hp) | exact (absurd rfl ne) | exact (absurd rfl np) | exact rfl)

theorem writeHintCfg_only (n : Nat) (val : W64) (s : State) :
    OnlyIn [.hbmStacks] s (writeHintCfg n val s) := by
  unfold writeHintCfg
  repeat' first
    | with_reducible assumption
    | with_reducible apply OnlyIn.refl
    | (with_reducible apply OnlyIn.ite) <;> intro _
    | (extract_lets +onlyGivenNames s; fail_if_success (have : State := s); clear_value s)
    | (with_reducible apply OnlyIn.step (stackMod_only _ _ _)); (case q => decide)
    | (with_reducible apply OnlyIn.lit); (case e => exact rfl); (case h => first | with_reducible assumption | with_reducible apply OnlyIn.refl); (case ev => first | exact (fun hp => absurd (by decide) hp) | exact (fun _ => ⟨rfl, rfl, rfl, rfl, rfl⟩)); (case po => first | exact (fun hp => absurd (by decide) hp) | exact (fun _ => ⟨rfl, rfl⟩)); (case k => intro p hp ne np; cases p <;> first | exact (absurd (by decide) hp) | exact (absurd rfl ne) | exact (absurd rfl np) | exact rfl)

theorem writeThrottle_only (n : Nat) (val : W64) (s : State) :
    OnlyIn [.hbmStacks] s (writeThrottle n val s) := by
  unfold writeThrottle
  repeat' first
    | with_reducible assumption
    | with_reducible apply OnlyIn.refl
    | (with_reducible apply OnlyIn.ite) <;> intro _
    | (with_reducible apply OnlyIn.step (stackMod_only _ _ _)); (case q => decide)
    | (with_reducible apply OnlyIn.lit); (case e => exact rfl); (case h => first | with_reducible assumption | with_reducible apply OnlyIn.refl); (case ev => first | exact (fun hp => absurd (by decide) hp) | exact (fun _ => ⟨rfl, rfl, rfl, rfl, rfl⟩)); (case po => first | exact (fun hp => absurd (by decide) hp) | exact (fun _ => ⟨rfl, rfl⟩)); (case k => intro p hp ne np; cases p <;> first | exact (absurd (by decide) hp) | exact (absurd rfl ne) | exact (absurd rfl np) | exact rfl)

theorem writeEccCe_only (n : Nat) (val : W64) (s : State) :
    OnlyIn [.hbmStacks] s (writeEccCe n val s) := by
  unfold writeEccCe
  repeat' first
    | with_reducible assumption
    | with_reducible apply OnlyIn.refl
    | (with_reducible apply OnlyIn.ite) <;> intro _
    | (with_reducible apply OnlyIn.step (stackMod_only _ _ _)); (case q => decide)
    | (with_reducible apply OnlyIn.lit); (case e => exact rfl); (case h => first | with_reducible assumption | with_reducible apply OnlyIn.refl); (case ev => first | exact (fun hp => absurd (by decide) hp) | exact (fun _ => ⟨rfl, rfl, rfl, rfl, rfl⟩)); (case po => first | exact (fun hp => absurd (by decide) hp) | exact (fun _ => ⟨rfl, rfl⟩)); (case k => intro p hp ne np; cases p <;> first | exact (absurd (by decide) hp) | exact (absurd rfl ne) | exact (absurd rfl np) | exact rfl)

theorem writeTest1500_only (n : Nat) (val : W64) (hard : Bool) (captured : W32) (s : State) :
    OnlyIn [.hbmStacks] s (writeTest1500 n val hard captured s) := by
  unfold writeTest1500
  repeat' first
    | with_reducible assumption
    | with_reducible apply OnlyIn.refl
    | (with_reducible apply OnlyIn.ite) <;> intro _
    | (extract_lets +onlyGivenNames s; fail_if_success (have : State := s); clear_value s)
    | (with_reducible apply OnlyIn.step (stackMod_only _ _ _)); (case q => decide)
    | (with_reducible apply OnlyIn.lit); (case e => exact rfl); (case h => first | with_reducible assumption | with_reducible apply OnlyIn.refl); (case ev => first | exact (fun hp => absurd (by decide) hp) | exact (fun _ => ⟨rfl, rfl, rfl, rfl, rfl⟩)); (case po => first | exact (fun hp => absurd (by decide) hp) | exact (fun _ => ⟨rfl, rfl⟩)); (case k => intro p hp ne np; cases p <;> first | exact (absurd (by decide) hp) | exact (absurd rfl ne) | exact (absurd rfl np) | exact rfl)

theorem writeSpnNode_only (val : W64) (s : State) :
    OnlyIn [.span] s (writeSpnNode val s) := by
  unfold writeSpnNode
  repeat' first
    | with_reducible assumption
    | with_reducible apply OnlyIn.refl
    | (with_reducible apply OnlyIn.ite) <;> intro _
    | (extract_lets +onlyGivenNames s; fail_if_success (have : State := s); clear_value s)
    | (with_reducible apply OnlyIn.lit); (case e => exact rfl); (case h => first | with_reducible assumption | with_reducible apply OnlyIn.refl); (case ev => first | exact (fun hp => absurd (by decide) hp) | exact (fun _ => ⟨rfl, rfl, rfl, rfl, rfl⟩)); (case po => first | exact (fun hp => absurd (by decide) hp) | exact (fun _ => ⟨rfl, rfl⟩)); (case k => intro p hp ne np; cases p <;> first | exact (absurd (by decide) hp) | exact (absurd rfl ne) | exact (absurd rfl np) | exact rfl)

theorem writePwrMargin_only (val : W64) (s : State) :
    OnlyIn [.pwr] s (writePwrMargin val s) := by
  unfold writePwrMargin
  repeat' first
    | with_reducible assumption
    | with_reducible apply OnlyIn.refl
    | (with_reducible apply OnlyIn.ite) <;> intro _
    | (extract_lets +onlyGivenNames s; fail_if_success (have : State := s); clear_value s)
    | (with_reducible apply OnlyIn.lit); (case e => exact rfl); (case h => first | with_reducible assumption | with_reducible apply OnlyIn.refl); (case ev => first | exact (fun hp => absurd (by decide) hp) | exact (fun _ => ⟨rfl, rfl, rfl, rfl, rfl⟩)); (case po => first | exact (fun hp => absurd (by decide) hp) | exact (fun _ => ⟨rfl, rfl⟩)); (case k => intro p hp ne np; cases p <;> first | exact (absurd (by decide) hp) | exact (absurd rfl ne) | exact (absurd rfl np) | exact rfl)

theorem writeCtxSel_only (val : W64) (s : State) :
    OnlyIn [.xlt] s (writeCtxSel val s) := by
  unfold writeCtxSel
  repeat' first
    | with_reducible assumption
    | with_reducible apply OnlyIn.refl
    | (with_reducible apply OnlyIn.ite) <;> intro _
    | (with_reducible apply OnlyIn.lit); (case e => exact rfl); (case h => first | with_reducible assumption | with_reducible apply OnlyIn.refl); (case ev => first | exact (fun hp => absurd (by decide) hp) | exact (fun _ => ⟨rfl, rfl, rfl, rfl, rfl⟩)); (case po => first | exact (fun hp => absurd (by decide) hp) | exact (fun _ => ⟨rfl, rfl⟩)); (case k => intro p hp ne np; cases p <;> first | exact (absurd (by decide) hp) | exact (absurd rfl ne) | exact (absurd rfl np) | exact rfl)

theorem writeFlowSel_only (val : W64) (s : State) :
    OnlyIn [.qh] s (writeFlowSel val s) := by
  unfold writeFlowSel
  repeat' first
    | with_reducible assumption
    | with_reducible apply OnlyIn.refl
    | (with_reducible apply OnlyIn.ite) <;> intro _
    | (with_reducible apply OnlyIn.lit); (case e => exact rfl); (case h => first | with_reducible assumption | with_reducible apply OnlyIn.refl); (case ev => first | exact (fun hp => absurd (by decide) hp) | exact (fun _ => ⟨rfl, rfl, rfl, rfl, rfl⟩)); (case po => first | exact (fun hp => absurd (by decide) hp) | exact (fun _ => ⟨rfl, rfl⟩)); (case k => intro p hp ne np; cases p <;> first | exact (absurd (by decide) hp) | exact (absurd rfl ne) | exact (absurd rfl np) | exact rfl)

theorem writeCoCtr_only (rel : Nat) (val : W64) (s : State) :
    OptIn (fun b => b) [.counts] s (writeCoCtr rel val s) := by
  unfold writeCoCtr
  repeat' first
    | with_reducible assumption
    | with_reducible apply OnlyIn.refl
    | (with_reducible apply OnlyIn.ite) <;> intro _
    | with_reducible apply OptIn.none
    | (with_reducible apply OptIn.ite) <;> intro _
    | (with_reducible apply OptIn.some); try dsimp only
    | (with_reducible apply OptIn.map); intro _ _; try dsimp only
    | (with_reducible apply OnlyIn.step (islandMod_only _ _ _)); (case q => decide)
    | (with_reducible apply OnlyIn.lit); (case e => exact rfl); (case h => first | with_reducible assumption | with_reducible apply OnlyIn.refl); (case ev => first | exact (fun hp => absurd (by decide) hp) | exact (fun _ => ⟨rfl, rfl, rfl, rfl, rfl⟩)); (case po => first | exact (fun hp => absurd (by decide) hp) | exact (fun _ => ⟨rfl, rfl⟩)); (case k => intro p hp ne np; cases p <;> first | exact (absurd (by decide) hp) | exact (absurd rfl ne) | exact (absurd rfl np) | exact rfl)

theorem writeCoXlt_only (rel : Nat) (val : W64) (s : State) :
    OptIn (fun b => b) [.xlt] s (writeCoXlt rel val s) := by
  unfold writeCoXlt
  repeat' first
    | with_reducible assumption
    | with_reducible apply OnlyIn.refl
    | (with_reducible apply OnlyIn.ite) <;> intro _
    | with_reducible apply OptIn.none
    | (with_reducible apply OptIn.ite) <;> intro _
    | (with_reducible apply OptIn.some); try dsimp only
    | (with_reducible apply OptIn.map); intro _ _; try dsimp only
    | (extract_lets +onlyGivenNames s; fail_if_success (have : State := s); clear_value s)
    | (with_reducible apply OnlyIn.step (ctxMod_only _ _ _)); (case q => decide)
    | (with_reducible apply OnlyIn.thenFold_fst); rotate_left; intro _ _
    | (with_reducible apply OnlyIn.thenFold_snd); rotate_left; intro _ _
    | (with_reducible apply OnlyIn.thenFold); rotate_left; intro _ _
    | (with_reducible apply OnlyIn.lit); (case e => exact rfl); (case h => first | with_reducible assumption | with_reducible apply OnlyIn.refl); (case ev => first | exact (fun hp => absurd (by decide) hp) | exact (fun _ => ⟨rfl, rfl, rfl, rfl, rfl⟩)); (case po => first | exact (fun hp => absurd (by decide) hp) | exact (fun _ => ⟨rfl, rfl⟩)); (case k => intro p hp ne np; cases p <;> first | exact (absurd (by decide) hp) | exact (absurd rfl ne) | exact (absurd rfl np) | exact rfl)

theorem writeCoQh_only (rel : Nat) (val : W64) (s : State) :
    OptIn (fun b => b) [.qh] s (writeCoQh rel val s) := by
  unfold writeCoQh
  repeat' first
    | with_reducible assumption
    | with_reducible apply OnlyIn.refl
    | (with_reducible apply OnlyIn.ite) <;> intro _
    | with_reducible apply OptIn.none
    | (with_reducible apply OptIn.ite) <;> intro _
    | (with_reducible apply OptIn.some); try dsimp only
    | (with_reducible apply OptIn.map); intro _ _; try dsimp only
    | (with_reducible apply OnlyIn.step (flowMod_only _ _ _)); (case q => decide)
    | (with_reducible apply OnlyIn.lit); (case e => exact rfl); (case h => first | with_reducible assumption | with_reducible apply OnlyIn.refl); (case ev => first | exact (fun hp => absurd (by decide) hp) | exact (fun _ => ⟨rfl, rfl, rfl, rfl, rfl⟩)); (case po => first | exact (fun hp => absurd (by decide) hp) | exact (fun _ => ⟨rfl, rfl⟩)); (case k => intro p hp ne np; cases p <;> first | exact (absurd (by decide) hp) | exact (absurd rfl ne) | exact (absurd rfl np) | exact rfl)

theorem writeCoReg_only (off : Nat) (val : W64) (s : State) :
    OptIn (fun b => b) [.xlt, .qh, .lrd, .span, .counts] s (writeCoReg off val s) := by
  unfold writeCoReg
  repeat' first
    | with_reducible assumption
    | with_reducible apply OnlyIn.refl
    | (with_reducible apply OnlyIn.ite) <;> intro _
    | with_reducible apply OptIn.none
    | (with_reducible apply OptIn.ite) <;> intro _
    | (with_reducible apply OptIn.some); try dsimp only
    | (with_reducible apply OptIn.map); intro _ _; try dsimp only
    | (with_reducible apply OptIn.step (writeCoCtr_only _ _ _)); (case q => decide)
    | ((with_reducible apply OnlyIn.step (((writeCoCtr_only _ _ _)).only _ (by assumption)))); (case q => decide)
    | (with_reducible apply OptIn.step (writeCoXlt_only _ _ _)); (case q => decide)
    | ((with_reducible apply OnlyIn.step (((writeCoXlt_only _ _ _)).only _ (by assumption)))); (case q => decide)
    | (with_reducible apply OptIn.step (writeCoQh_only _ _ _)); (case q => decide)
    | ((with_reducible apply OnlyIn.step (((writeCoQh_only _ _ _)).only _ (by assumption)))); (case q => decide)
    | split
    | (with_reducible apply OnlyIn.lit); (case e => exact rfl); (case h => first | with_reducible assumption | with_reducible apply OnlyIn.refl); (case ev => first | exact (fun hp => absurd (by decide) hp) | exact (fun _ => ⟨rfl, rfl, rfl, rfl, rfl⟩)); (case po => first | exact (fun hp => absurd (by decide) hp) | exact (fun _ => ⟨rfl, rfl⟩)); (case k => intro p hp ne np; cases p <;> first | exact (absurd (by decide) hp) | exact (absurd rfl ne) | exact (absurd rfl np) | exact rfl)

theorem takeSample_only (n temp : Nat) (s : State) :
    OnlyIn [.events, .qh, .ports, .lrd, .hbmStacks] s (takeSample n temp s) := by
  unfold takeSample
  repeat' first
    | with_reducible assumption
    | with_reducible apply OnlyIn.refl
    | (with_reducible apply OnlyIn.ite) <;> intro _
    | (extract_lets +onlyGivenNames s; fail_if_success (have : State := s); clear_value s)
    | (with_reducible apply OnlyIn.step (raise_only _ _)); (case q => decide)
    | (with_reducible apply OnlyIn.step (stackMod_only _ _ _)); (case q => decide)
    | (with_reducible apply OnlyIn.lit); (case e => exact rfl); (case ev => first | exact (fun hp => absurd (by decide) hp) | exact (fun _ => ⟨rfl, rfl, rfl, rfl, rfl⟩)); (case po => first | exact (fun hp => absurd (by decide) hp) | exact (fun _ => ⟨rfl, rfl⟩)); (case k => intro p hp ne np; cases p <;> first | exact (absurd (by decide) hp) | exact (absurd rfl ne) | exact (absurd rfl np) | exact rfl)

theorem streamUe_only (e : CwErr) (carter ord stream : Nat) (s : State) :
    OnlyIn [.events, .hbm, .poison, .qh, .ports, .hbmStacks, .counts] s (streamUe e carter ord stream s) := by
  unfold streamUe
  try dsimp only
  repeat' first
    | with_reducible assumption
    | with_reducible apply OnlyIn.refl
    | (with_reducible apply OnlyIn.ite) <;> intro _
    | (with_reducible apply OnlyIn.step (carterErrs_only _ _ _ _ _)); (case q => decide)

theorem homeReadUe_only (e : CwErr) (idx : Nat) (s : State) :
    OnlyIn [.events, .clerk, .tables, .maps, .moves, .hbm, .poison, .ports, .cols, .ldg, .asy, .lrd, .hbmStacks, .span, .counts] s (homeReadUe e idx s) := by
  unfold homeReadUe
  repeat' first
    | with_reducible assumption
    | with_reducible apply OnlyIn.refl
    | (with_reducible apply OnlyIn.ite) <;> intro _
    | (with_reducible apply OnlyIn.step (serveRead_only _ _ _ _ _ _)); (case q => decide)
    | split

theorem meetOwn_only (e : CwErr) (s : State) :
    OptIn (fun b => b) [.events, .hbm, .poison, .ports, .hbmStacks] s (meetOwn e s) := by
  unfold meetOwn
  repeat' first
    | with_reducible assumption
    | with_reducible apply OnlyIn.refl
    | (with_reducible apply OnlyIn.ite) <;> intro _
    | with_reducible apply OptIn.none
    | (with_reducible apply OptIn.ite) <;> intro _
    | (with_reducible apply OptIn.some); try dsimp only
    | (with_reducible apply OptIn.map); intro _ _; try dsimp only
    | (with_reducible apply OnlyIn.step (countPoisonRead_only _ _)); (case q => decide)
    | (with_reducible apply OnlyIn.step (hbmUe_only _ _ _)); (case q => decide)

theorem spillUe_only (e : CwErr) (idx : Nat) (s : State) :
    OnlyIn [.events, .hbm, .poison, .ports, .cols, .ldg, .asy, .hbmStacks, .span, .counts] s (spillUe e idx s) := by
  unfold spillUe
  repeat' first
    | with_reducible assumption
    | with_reducible apply OnlyIn.refl
    | (with_reducible apply OnlyIn.ite) <;> intro _
    | (with_reducible apply OnlyIn.step (raise_only _ _)); (case q => decide)
    | (with_reducible apply OnlyIn.step (loseSpill_only _ _)); (case q => decide)
    | (with_reducible apply OnlyIn.step (advance_only _)); (case q => decide)
    | (with_reducible apply OptIn.step (meetOwn_only _ _)); (case q => decide)
    | ((with_reducible apply OnlyIn.step (((meetOwn_only _ _)).only _ (by assumption)))); (case q => decide)
    | split
    | (with_reducible apply OnlyIn.lit); (case e => exact rfl); (case ev => first | exact (fun hp => absurd (by decide) hp) | exact (fun _ => ⟨rfl, rfl, rfl, rfl, rfl⟩)); (case po => first | exact (fun hp => absurd (by decide) hp) | exact (fun _ => ⟨rfl, rfl⟩)); (case k => intro p hp ne np; cases p <;> first | exact (absurd (by decide) hp) | exact (absurd rfl ne) | exact (absurd rfl np) | exact rfl)

theorem mapUe_only (e : CwErr) (slot : Nat) (s : State) :
    OnlyIn [.events, .clerk, .maps, .hbm, .poison, .ports, .hbmStacks] s (mapUe e slot s) := by
  unfold mapUe
  repeat' first
    | with_reducible assumption
    | with_reducible apply OnlyIn.refl
    | (with_reducible apply OnlyIn.ite) <;> intro _
    | (with_reducible apply OnlyIn.step (loseMap_only _ _)); (case q => decide)
    | (with_reducible apply OptIn.step (meetOwn_only _ _)); (case q => decide)
    | ((with_reducible apply OnlyIn.step (((meetOwn_only _ _)).only _ (by assumption)))); (case q => decide)
    | split

theorem takeFilter_only (block : Nat) (key : RowKey) (s : State) :
    OptIn (fun b => b) [.ldg, .lrd] s (takeFilter block key s) := by
  unfold takeFilter
  repeat' first
    | with_reducible assumption
    | with_reducible apply OnlyIn.refl
    | (with_reducible apply OnlyIn.ite) <;> intro _
    | with_reducible apply OptIn.none
    | (with_reducible apply OptIn.ite) <;> intro _
    | (with_reducible apply OptIn.some); try dsimp only
    | (with_reducible apply OptIn.map); intro _ _; try dsimp only
    | (extract_lets +onlyGivenNames s; fail_if_success (have : State := s); clear_value s)
    | (with_reducible apply OnlyIn.step (setFilter_only _ _ _)); (case q => decide)
    | (with_reducible apply OnlyIn.lit); (case e => exact rfl); (case ev => first | exact (fun hp => absurd (by decide) hp) | exact (fun _ => ⟨rfl, rfl, rfl, rfl, rfl⟩)); (case po => first | exact (fun hp => absurd (by decide) hp) | exact (fun _ => ⟨rfl, rfl⟩)); (case k => intro p hp ne np; cases p <;> first | exact (absurd (by decide) hp) | exact (absurd rfl ne) | exact (absurd rfl np) | exact rfl)

theorem larderAct_only (block : Nat) (spot : LarderSpot) (s : State) :
    OptIn (fun b => b) [.moves, .hbm, .poison, .ldg, .lrd] s (larderAct block spot s) := by
  unfold larderAct
  repeat' first
    | with_reducible assumption
    | with_reducible apply OnlyIn.refl
    | (with_reducible apply OnlyIn.ite) <;> intro _
    | with_reducible apply OptIn.none
    | (with_reducible apply OptIn.ite) <;> intro _
    | (with_reducible apply OptIn.some); try dsimp only
    | (with_reducible apply OptIn.map); intro _ _; try dsimp only
    | (extract_lets +onlyGivenNames s; fail_if_success (have : State := s); clear_value s)
    | (with_reducible apply OnlyIn.step (loseReplicas_only _ _)); (case q => decide)
    | (with_reducible apply OnlyIn.step (loseHotCopy_only _ _ _ _)); (case q => decide)
    | (with_reducible apply OptIn.step (takeFilter_only _ _ _)); (case q => decide)
    | ((with_reducible apply OnlyIn.step (((takeFilter_only _ _ _)).only _ (by assumption)))); (case q => decide)
    | split
    | (with_reducible apply OnlyIn.lit); (case e => exact rfl); (case h => first | with_reducible assumption | with_reducible apply OnlyIn.refl); (case ev => first | exact (fun hp => absurd (by decide) hp) | exact (fun _ => ⟨rfl, rfl, rfl, rfl, rfl⟩)); (case po => first | exact (fun hp => absurd (by decide) hp) | exact (fun _ => ⟨rfl, rfl⟩)); (case k => intro p hp ne np; cases p <;> first | exact (absurd (by decide) hp) | exact (absurd rfl ne) | exact (absurd rfl np) | exact rfl)

theorem sampleMargins_only (ins : List MarginIn) (s : State) :
    OnlyIn [.events, .pwr, .ports] s (sampleMargins ins s) := by
  unfold sampleMargins
  repeat' first
    | with_reducible assumption
    | with_reducible apply OnlyIn.refl
    | (with_reducible apply OnlyIn.ite) <;> intro _
    | (extract_lets +onlyGivenNames s; fail_if_success (have : State := s); clear_value s)
    | (with_reducible apply OnlyIn.step (raise_only _ _)); (case q => decide)
    | (with_reducible apply OnlyIn.thenFold_fst); rotate_left; intro _ _
    | (with_reducible apply OnlyIn.thenFold_snd); rotate_left; intro _ _
    | (with_reducible apply OnlyIn.thenFold); rotate_left; intro _ _
    | split
    | (with_reducible apply OnlyIn.lit); (case e => exact rfl); (case h => first | with_reducible assumption | with_reducible apply OnlyIn.refl); (case ev => first | exact (fun hp => absurd (by decide) hp) | exact (fun _ => ⟨rfl, rfl, rfl, rfl, rfl⟩)); (case po => first | exact (fun hp => absurd (by decide) hp) | exact (fun _ => ⟨rfl, rfl⟩)); (case k => intro p hp ne np; cases p <;> first | exact (absurd (by decide) hp) | exact (absurd rfl ne) | exact (absurd rfl np) | exact rfl)

theorem shutterMod_only (kind num : Nat) (f : Shutter → Shutter) (s : State) :
    OnlyIn [.shutters] s (shutterMod kind num f s) := by
  unfold shutterMod
  repeat' first
    | with_reducible assumption
    | with_reducible apply OnlyIn.refl
    | (with_reducible apply OnlyIn.ite) <;> intro _
    | (with_reducible apply OnlyIn.lit); (case e => exact rfl); (case h => first | with_reducible assumption | with_reducible apply OnlyIn.refl); (case ev => first | exact (fun hp => absurd (by decide) hp) | exact (fun _ => ⟨rfl, rfl, rfl, rfl, rfl⟩)); (case po => first | exact (fun hp => absurd (by decide) hp) | exact (fun _ => ⟨rfl, rfl⟩)); (case k => intro p hp ne np; cases p <;> first | exact (absurd (by decide) hp) | exact (absurd rfl ne) | exact (absurd rfl np) | exact rfl)

theorem shutAdd_only (kind num i n : Nat) (s : State) :
    OnlyIn [.shutters] s (shutAdd kind num i n s) := by
  unfold shutAdd
  repeat' first
    | with_reducible assumption
    | with_reducible apply OnlyIn.refl
    | (with_reducible apply OnlyIn.ite) <;> intro _
    | (with_reducible apply OnlyIn.step (shutterMod_only _ _ _ _)); (case q => decide)
    | (with_reducible apply OnlyIn.lit); (case e => exact rfl); (case h => first | with_reducible assumption | with_reducible apply OnlyIn.refl); (case ev => first | exact (fun hp => absurd (by decide) hp) | exact (fun _ => ⟨rfl, rfl, rfl, rfl, rfl⟩)); (case po => first | exact (fun hp => absurd (by decide) hp) | exact (fun _ => ⟨rfl, rfl⟩)); (case k => intro p hp ne np; cases p <;> first | exact (absurd (by decide) hp) | exact (absurd rfl ne) | exact (absurd rfl np) | exact rfl)

theorem shutRun_only (kind num : Nat) (s : State) (r : Run) :
    OnlyIn [.flt, .qh, .cols, .span, .ctr, .shutters] s (shutRun kind num s r) := by
  unfold shutRun
  repeat' first
    | with_reducible assumption
    | with_reducible apply OnlyIn.refl
    | (with_reducible apply OnlyIn.ite) <;> intro _
    | (with_reducible apply OnlyIn.step (endRun_only _ _ _)); (case q => decide)
    | (with_reducible apply OnlyIn.step (shutAdd_only _ _ _ _ _)); (case q => decide)

theorem shutXfer_only (kind num : Nat) (s : State) (x : Xfer) :
    OnlyIn [.flt, .qh, .shutters] s (shutXfer kind num s x) := by
  unfold shutXfer
  repeat' first
    | with_reducible assumption
    | with_reducible apply OnlyIn.refl
    | (with_reducible apply OnlyIn.ite) <;> intro _
    | (with_reducible apply OnlyIn.step (endXfer_only _ _ _)); (case q => decide)
    | (with_reducible apply OnlyIn.step (shutAdd_only _ _ _ _ _)); (case q => decide)

theorem shutWork_only (kind num : Nat) (p : Run → Bool) (q : Xfer → Bool) (s : State) :
    OnlyIn [.flt, .qh, .cols, .span, .ctr, .shutters] s (shutWork kind num p q s) := by
  unfold shutWork
  repeat' first
    | with_reducible assumption
    | with_reducible apply OnlyIn.refl
    | (with_reducible apply OnlyIn.ite) <;> intro _
    | (with_reducible apply OnlyIn.step (shutRun_only _ _ _ _)); (case q => decide)
    | (with_reducible apply OnlyIn.step (shutXfer_only _ _ _ _)); (case q => decide)
    | (with_reducible apply OnlyIn.thenFold_fst); rotate_left; intro _ _
    | (with_reducible apply OnlyIn.thenFold_snd); rotate_left; intro _ _
    | (with_reducible apply OnlyIn.thenFold); rotate_left; intro _ _

theorem shutItems_only (n : Nat) (s : State) :
    OnlyIn [.flt, .qh, .shutters] s (shutItems n s) := by
  unfold shutItems
  repeat' first
    | with_reducible assumption
    | with_reducible apply OnlyIn.refl
    | (with_reducible apply OnlyIn.ite) <;> intro _
    | (extract_lets +onlyGivenNames s; fail_if_success (have : State := s); clear_value s)
    | (with_reducible apply OnlyIn.step (flowMod_only _ _ _)); (case q => decide)
    | (with_reducible apply OnlyIn.step (leaveAdmission_only _ _)); (case q => decide)
    | (with_reducible apply OnlyIn.step (shutAdd_only _ _ _ _ _)); (case q => decide)
    | (with_reducible apply OnlyIn.lit); (case e => exact rfl); (case ev => first | exact (fun hp => absurd (by decide) hp) | exact (fun _ => ⟨rfl, rfl, rfl, rfl, rfl⟩)); (case po => first | exact (fun hp => absurd (by decide) hp) | exact (fun _ => ⟨rfl, rfl⟩)); (case k => intro p hp ne np; cases p <;> first | exact (absurd (by decide) hp) | exact (absurd rfl ne) | exact (absurd rfl np) | exact rfl)

theorem discardEntry_only (s : State) (e : LEntry) :
    OnlyIn [.ldg, .shutters] s (discardEntry s e) := by
  unfold discardEntry
  repeat' first
    | with_reducible assumption
    | with_reducible apply OnlyIn.refl
    | (with_reducible apply OnlyIn.ite) <;> intro _
    | (with_reducible apply OnlyIn.step (dropPartial_only _ _ _ _)); (case q => decide)
    | (with_reducible apply OnlyIn.step (shutAdd_only _ _ _ _ _)); (case q => decide)
    | (with_reducible apply OnlyIn.thenFold_fst); rotate_left; intro _ _
    | (with_reducible apply OnlyIn.thenFold_snd); rotate_left; intro _ _
    | (with_reducible apply OnlyIn.thenFold); rotate_left; intro _ _

theorem discardEntries_only (tid : Nat) (s : State) :
    OnlyIn [.ldg, .shutters] s (discardEntries tid s) := by
  unfold discardEntries
  repeat' first
    | with_reducible assumption
    | with_reducible apply OnlyIn.refl
    | (with_reducible apply OnlyIn.ite) <;> intro _
    | (extract_lets +onlyGivenNames s; fail_if_success (have : State := s); clear_value s)
    | (with_reducible apply OnlyIn.step (discardEntry_only _ _)); (case q => decide)
    | (with_reducible apply OnlyIn.thenFold_fst); rotate_left; intro _ _
    | (with_reducible apply OnlyIn.thenFold_snd); rotate_left; intro _ _
    | (with_reducible apply OnlyIn.thenFold); rotate_left; intro _ _
    | (with_reducible apply OnlyIn.lit); (case e => exact rfl); (case ev => first | exact (fun hp => absurd (by decide) hp) | exact (fun _ => ⟨rfl, rfl, rfl, rfl, rfl⟩)); (case po => first | exact (fun hp => absurd (by decide) hp) | exact (fun _ => ⟨rfl, rfl⟩)); (case k => intro p hp ne np; cases p <;> first | exact (absurd (by decide) hp) | exact (absurd rfl ne) | exact (absurd rfl np) | exact rfl)

theorem handBack_only (c : Nat) (s : State) :
    OnlyIn [.qh, .ctr] s (handBack c s) := by
  unfold handBack
  repeat' first
    | with_reducible assumption
    | with_reducible apply OnlyIn.refl
    | (with_reducible apply OnlyIn.ite) <;> intro _
    | (extract_lets +onlyGivenNames s; fail_if_success (have : State := s); clear_value s)
    | split
    | (with_reducible apply OnlyIn.lit); (case e => exact rfl); (case h => first | with_reducible assumption | with_reducible apply OnlyIn.refl); (case ev => first | exact (fun hp => absurd (by decide) hp) | exact (fun _ => ⟨rfl, rfl, rfl, rfl, rfl⟩)); (case po => first | exact (fun hp => absurd (by decide) hp) | exact (fun _ => ⟨rfl, rfl⟩)); (case k => intro p hp ne np; cases p <;> first | exact (absurd (by decide) hp) | exact (absurd rfl ne) | exact (absurd rfl np) | exact rfl)

theorem flushSoon_only (c : Nat) (s : State) :
    OnlyIn [.events, .qh, .ports, .cols, .ldg, .asy, .span, .counts] s (flushSoon c s) := by
  unfold flushSoon
  repeat' first
    | with_reducible assumption
    | with_reducible apply OnlyIn.refl
    | (with_reducible apply OnlyIn.ite) <;> intro _
    | (with_reducible apply OnlyIn.step (colMod_only _ _ _)); (case q => decide)
    | (with_reducible apply OnlyIn.step (flushColumn_only _ _)); (case q => decide)
    | (with_reducible apply OnlyIn.lit); (case e => exact rfl); (case h => first | with_reducible assumption | with_reducible apply OnlyIn.refl); (case ev => first | exact (fun hp => absurd (by decide) hp) | exact (fun _ => ⟨rfl, rfl, rfl, rfl, rfl⟩)); (case po => first | exact (fun hp => absurd (by decide) hp) | exact (fun _ => ⟨rfl, rfl⟩)); (case k => intro p hp ne np; cases p <;> first | exact (absurd (by decide) hp) | exact (absurd rfl ne) | exact (absurd rfl np) | exact rfl)

theorem shutColumn_only (c : Nat) (s : State) :
    OnlyIn [.events, .qh, .ports, .cols, .ldg, .asy, .span, .counts, .ctr, .shutters] s (shutColumn c s) := by
  unfold shutColumn
  repeat' first
    | with_reducible assumption
    | with_reducible apply OnlyIn.refl
    | (with_reducible apply OnlyIn.ite) <;> intro _
    | (extract_lets +onlyGivenNames s; fail_if_success (have : State := s); clear_value s)
    | (with_reducible apply OnlyIn.step (colMod_only _ _ _)); (case q => decide)
    | (with_reducible apply OnlyIn.step (failBag_only _ _ _ _)); (case q => decide)
    | (with_reducible apply OnlyIn.step (dropReads_only _ _)); (case q => decide)
    | (with_reducible apply OnlyIn.step (afterBag_only _ _)); (case q => decide)
    | (with_reducible apply OnlyIn.step (shutAdd_only _ _ _ _ _)); (case q => decide)
    | (with_reducible apply OnlyIn.step (handBack_only _ _)); (case q => decide)
    | (with_reducible apply OnlyIn.step (flushSoon_only _ _)); (case q => decide)
    | (with_reducible apply OnlyIn.thenFold_fst); rotate_left; intro _ _
    | (with_reducible apply OnlyIn.thenFold_snd); rotate_left; intro _ _
    | (with_reducible apply OnlyIn.thenFold); rotate_left; intro _ _
    | (with_reducible apply OnlyIn.lit); (case e => exact rfl); (case h => first | with_reducible assumption | with_reducible apply OnlyIn.refl); (case ev => first | exact (fun hp => absurd (by decide) hp) | exact (fun _ => ⟨rfl, rfl, rfl, rfl, rfl⟩)); (case po => first | exact (fun hp => absurd (by decide) hp) | exact (fun _ => ⟨rfl, rfl⟩)); (case k => intro p hp ne np; cases p <;> first | exact (absurd (by decide) hp) | exact (absurd rfl ne) | exact (absurd rfl np) | exact rfl)

theorem flushAll_only (s : State) :
    OnlyIn [.events, .qh, .ports, .cols, .ldg, .asy, .span, .counts] s (flushAll s) := by
  unfold flushAll
  repeat' first
    | with_reducible assumption
    | with_reducible apply OnlyIn.refl
    | (with_reducible apply OnlyIn.ite) <;> intro _
    | (with_reducible apply OnlyIn.step (flushSoon_only _ _)); (case q => decide)
    | (with_reducible apply OnlyIn.thenFold_fst); rotate_left; intro _ _
    | (with_reducible apply OnlyIn.thenFold_snd); rotate_left; intro _ _
    | (with_reducible apply OnlyIn.thenFold); rotate_left; intro _ _

theorem failInbound_only (map : Nat) (s : State) :
    OnlyIn [.maps] s (failInbound map s) := by
  unfold failInbound
  repeat' first
    | with_reducible assumption
    | with_reducible apply OnlyIn.refl
    | (with_reducible apply OnlyIn.ite) <;> intro _
    | (extract_lets +onlyGivenNames s; fail_if_success (have : State := s); clear_value s)
    | (with_reducible apply OnlyIn.step (fwdMod_only _ _ _)); (case q => decide)
    | (with_reducible apply OnlyIn.step (mapMod_only _ _ _)); (case q => decide)
    | (with_reducible apply OnlyIn.thenFold_fst); rotate_left; intro _ _
    | (with_reducible apply OnlyIn.thenFold_snd); rotate_left; intro _ _
    | (with_reducible apply OnlyIn.thenFold); rotate_left; intro _ _
    | split
    | (with_reducible apply OnlyIn.lit); (case e => exact rfl); (case h => first | with_reducible assumption | with_reducible apply OnlyIn.refl); (case ev => first | exact (fun hp => absurd (by decide) hp) | exact (fun _ => ⟨rfl, rfl, rfl, rfl, rfl⟩)); (case po => first | exact (fun hp => absurd (by decide) hp) | exact (fun _ => ⟨rfl, rfl⟩)); (case k => intro p hp ne np; cases p <;> first | exact (absurd (by decide) hp) | exact (absurd rfl ne) | exact (absurd rfl np) | exact rfl)

theorem forceShut_only (kind num : Nat) (s : State) :
    OnlyIn [.events, .mbx, .tables, .maps, .flt, .qh, .ports, .cols, .ldg, .asy, .lrd, .span, .counts, .ctr, .shutters] s (forceShut kind num s) := by
  unfold forceShut
  repeat' first
    | with_reducible assumption
    | with_reducible apply OnlyIn.refl
    | (with_reducible apply OnlyIn.ite) <;> intro _
    | (extract_lets +onlyGivenNames s; fail_if_success (have : State := s); clear_value s)
    | (with_reducible apply OnlyIn.step (tableMod_only _ _ _)); (case q => decide)
    | (with_reducible apply OnlyIn.step (rerouteQueue_only _ _)); (case q => decide)
    | (with_reducible apply OnlyIn.step (askPeer_only _ _)); (case q => decide)
    | (with_reducible apply OnlyIn.step (shutWork_only _ _ _ _ _)); (case q => decide)
    | (with_reducible apply OnlyIn.step (shutItems_only _ _)); (case q => decide)
    | (with_reducible apply OnlyIn.step (discardEntries_only _ _)); (case q => decide)
    | (with_reducible apply OnlyIn.step (shutColumn_only _ _)); (case q => decide)
    | (with_reducible apply OnlyIn.step (flushAll_only _)); (case q => decide)
    | (with_reducible apply OnlyIn.step (failInbound_only _ _)); (case q => decide)
    | split
    | (with_reducible apply OnlyIn.lit); (case e => exact rfl); (case h => first | with_reducible assumption | with_reducible apply OnlyIn.refl); (case ev => first | exact (fun hp => absurd (by decide) hp) | exact (fun _ => ⟨rfl, rfl, rfl, rfl, rfl⟩)); (case po => first | exact (fun hp => absurd (by decide) hp) | exact (fun _ => ⟨rfl, rfl⟩)); (case k => intro p hp ne np; cases p <;> first | exact (absurd (by decide) hp) | exact (absurd rfl ne) | exact (absurd rfl np) | exact rfl)

theorem shutPort_only (p : Nat) (s : State) :
    OnlyIn [.events, .ports, .ldg, .asy, .span, .counts] s (shutPort p s) := by
  unfold shutPort
  repeat' first
    | with_reducible assumption
    | with_reducible apply OnlyIn.refl
    | (with_reducible apply OnlyIn.ite) <;> intro _
    | (extract_lets +onlyGivenNames s; fail_if_success (have : State := s); clear_value s)
    | (with_reducible apply OnlyIn.step (portMod_only _ _ _)); (case q => decide)
    | (with_reducible apply OnlyIn.step (linkChanged_only _ _)); (case q => decide)
    | (with_reducible apply OnlyIn.step (askPeer_only _ _)); (case q => decide)
    | (with_reducible apply OnlyIn.lit); (case e => exact rfl); (case h => first | with_reducible assumption | with_reducible apply OnlyIn.refl); (case ev => first | exact (fun hp => absurd (by decide) hp) | exact (fun _ => ⟨rfl, rfl, rfl, rfl, rfl⟩)); (case po => first | exact (fun hp => absurd (by decide) hp) | exact (fun _ => ⟨rfl, rfl⟩)); (case k => intro p hp ne np; cases p <;> first | exact (absurd (by decide) hp) | exact (absurd rfl ne) | exact (absurd rfl np) | exact rfl)

theorem stopTarget_only (kind num : Nat) (force : Bool) (s : State) :
    OnlyIn [.events, .tables, .qh, .ports, .cols, .ldg, .asy, .hbmStacks, .span, .counts] s (stopTarget kind num force s) := by
  unfold stopTarget
  repeat' first
    | with_reducible assumption
    | with_reducible apply OnlyIn.refl
    | (with_reducible apply OnlyIn.ite) <;> intro _
    | (with_reducible apply OnlyIn.step (stackMod_only _ _ _)); (case q => decide)
    | (with_reducible apply OnlyIn.step (tableMod_only _ _ _)); (case q => decide)
    | (with_reducible apply OnlyIn.step (colMod_only _ _ _)); (case q => decide)
    | (with_reducible apply OnlyIn.step (flowMod_only _ _ _)); (case q => decide)
    | (with_reducible apply OnlyIn.step (shutPort_only _ _)); (case q => decide)
    | split
    | (with_reducible apply OnlyIn.lit); (case e => exact rfl); (case h => first | with_reducible assumption | with_reducible apply OnlyIn.refl); (case ev => first | exact (fun hp => absurd (by decide) hp) | exact (fun _ => ⟨rfl, rfl, rfl, rfl, rfl⟩)); (case po => first | exact (fun hp => absurd (by decide) hp) | exact (fun _ => ⟨rfl, rfl⟩)); (case k => intro p hp ne np; cases p <;> first | exact (absurd (by decide) hp) | exact (absurd rfl ne) | exact (absurd rfl np) | exact rfl)

theorem beginShutter_only (kind num w1 : Nat) (force : Bool) (o : Owed) (s : State) :
    OnlyIn [.events, .mbx, .tables, .maps, .flt, .qh, .ports, .cols, .ldg, .asy, .lrd, .hbmStacks, .span, .counts, .ctr, .shutters] s (beginShutter kind num w1 force o s) := by
  unfold beginShutter
  repeat' first
    | with_reducible assumption
    | with_reducible apply OnlyIn.refl
    | (with_reducible apply OnlyIn.ite) <;> intro _
    | (extract_lets +onlyGivenNames s; fail_if_success (have : State := s); clear_value s)
    | (with_reducible apply OnlyIn.step (forceShut_only _ _ _)); (case q => decide)
    | (with_reducible apply OnlyIn.step (stopTarget_only _ _ _ _)); (case q => decide)
    | (with_reducible apply OnlyIn.lit); (case e => exact rfl); (case h => first | with_reducible assumption | with_reducible apply OnlyIn.refl); (case ev => first | exact (fun hp => absurd (by decide) hp) | exact (fun _ => ⟨rfl, rfl, rfl, rfl, rfl⟩)); (case po => first | exact (fun hp => absurd (by decide) hp) | exact (fun _ => ⟨rfl, rfl⟩)); (case k => intro p hp ne np; cases p <;> first | exact (absurd (by decide) hp) | exact (absurd rfl ne) | exact (absurd rfl np) | exact rfl)

theorem joinShutter_only (kind num : Nat) (force : Bool) (o : Owed) (x : Shutter) (s : State) :
    OnlyIn [.events, .mbx, .tables, .maps, .flt, .qh, .ports, .cols, .ldg, .asy, .lrd, .span, .counts, .ctr, .shutters] s (joinShutter kind num force o x s) := by
  unfold joinShutter
  repeat' first
    | with_reducible assumption
    | with_reducible apply OnlyIn.refl
    | (with_reducible apply OnlyIn.ite) <;> intro _
    | (extract_lets +onlyGivenNames s; fail_if_success (have : State := s); clear_value s)
    | (with_reducible apply OnlyIn.step (shutterMod_only _ _ _ _)); (case q => decide)
    | (with_reducible apply OnlyIn.step (forceShut_only _ _ _)); (case q => decide)
    | (with_reducible apply OnlyIn.lit); (case e => exact rfl); (case h => first | with_reducible assumption | with_reducible apply OnlyIn.refl); (case ev => first | exact (fun hp => absurd (by decide) hp) | exact (fun _ => ⟨rfl, rfl, rfl, rfl, rfl⟩)); (case po => first | exact (fun hp => absurd (by decide) hp) | exact (fun _ => ⟨rfl, rfl⟩)); (case k => intro p hp ne np; cases p <;> first | exact (absurd (by decide) hp) | exact (absurd rfl ne) | exact (absurd rfl np) | exact rfl)

theorem startShutter_only (kind num w1 : Nat) (force : Bool) (o : Owed) (s : State) :
    OnlyIn [.events, .mbx, .tables, .maps, .flt, .qh, .ports, .cols, .ldg, .asy, .lrd, .hbmStacks, .span, .counts, .ctr, .shutters] s (startShutter kind num w1 force o s) := by
  unfold startShutter
  repeat' first
    | with_reducible assumption
    | with_reducible apply OnlyIn.refl
    | (with_reducible apply OnlyIn.ite) <;> intro _
    | (with_reducible apply OnlyIn.step (beginShutter_only _ _ _ _ _ _)); (case q => decide)
    | (with_reducible apply OnlyIn.step (joinShutter_only _ _ _ _ _ _)); (case q => decide)
    | split

theorem reportShutters_only (s : State) :
    OnlyIn [.mbx, .clerk, .shutters] s (reportShutters s) := by
  unfold reportShutters
  repeat' first
    | with_reducible assumption
    | with_reducible apply OnlyIn.refl
    | (with_reducible apply OnlyIn.ite) <;> intro _
    | (extract_lets +onlyGivenNames s; fail_if_success (have : State := s); clear_value s)
    | (with_reducible apply OnlyIn.step (postReport_only _ _ _ _ _)); (case q => decide)
    | (with_reducible apply OnlyIn.thenFold_fst); rotate_left; intro _ _
    | (with_reducible apply OnlyIn.thenFold_snd); rotate_left; intro _ _
    | (with_reducible apply OnlyIn.thenFold); rotate_left; intro _ _
    | (with_reducible apply OnlyIn.lit); (case e => exact rfl); (case ev => first | exact (fun hp => absurd (by decide) hp) | exact (fun _ => ⟨rfl, rfl, rfl, rfl, rfl⟩)); (case po => first | exact (fun hp => absurd (by decide) hp) | exact (fun _ => ⟨rfl, rfl⟩)); (case k => intro p hp ne np; cases p <;> first | exact (absurd (by decide) hp) | exact (absurd rfl ne) | exact (absurd rfl np) | exact rfl)

theorem dropRetries_only (map : Nat) (s : State) :
    OnlyIn [.span] s (dropRetries map s) := by
  unfold dropRetries
  repeat' first
    | with_reducible assumption
    | with_reducible apply OnlyIn.refl
    | (with_reducible apply OnlyIn.ite) <;> intro _
    | (extract_lets +onlyGivenNames s; fail_if_success (have : State := s); clear_value s)
    | split
    | (with_reducible apply OnlyIn.lit); (case e => exact rfl); (case h => first | with_reducible assumption | with_reducible apply OnlyIn.refl); (case ev => first | exact (fun hp => absurd (by decide) hp) | exact (fun _ => ⟨rfl, rfl, rfl, rfl, rfl⟩)); (case po => first | exact (fun hp => absurd (by decide) hp) | exact (fun _ => ⟨rfl, rfl⟩)); (case k => intro p hp ne np; cases p <;> first | exact (absurd (by decide) hp) | exact (absurd rfl ne) | exact (absurd rfl np) | exact rfl)

theorem shutTo_only (kind num : Nat) (s : State) :
    OnlyIn [.events, .maps, .moves, .hbm, .poison, .qh, .ports, .cols, .ldg, .asy, .lrd, .hbmStacks, .span, .counts] s (shutTo kind num s) := by
  unfold shutTo
  repeat' first
    | with_reducible assumption
    | with_reducible apply OnlyIn.refl
    | (with_reducible apply OnlyIn.ite) <;> intro _
    | (extract_lets +onlyGivenNames s; fail_if_success (have : State := s); clear_value s)
    | (with_reducible apply OnlyIn.step (stackMod_only _ _ _)); (case q => decide)
    | (with_reducible apply OnlyIn.step (colMod_only _ _ _)); (case q => decide)
    | (with_reducible apply OnlyIn.step (portMod_only _ _ _)); (case q => decide)
    | (with_reducible apply OnlyIn.step (flushColumn_only _ _)); (case q => decide)
    | (with_reducible apply OnlyIn.step (linkChanged_only _ _)); (case q => decide)
    | (with_reducible apply OnlyIn.step (closeForwarding_only _ _)); (case q => decide)
    | (with_reducible apply OnlyIn.step (dropRetries_only _ _)); (case q => decide)
    | split
    | (with_reducible apply OnlyIn.lit); (case e => exact rfl); (case h => first | with_reducible assumption | with_reducible apply OnlyIn.refl); (case ev => first | exact (fun hp => absurd (by decide) hp) | exact (fun _ => ⟨rfl, rfl, rfl, rfl, rfl⟩)); (case po => first | exact (fun hp => absurd (by decide) hp) | exact (fun _ => ⟨rfl, rfl⟩)); (case k => intro p hp ne np; cases p <;> first | exact (absurd (by decide) hp) | exact (absurd rfl ne) | exact (absurd rfl np) | exact rfl)

theorem finishShutter_only (x : Shutter) (us : Nat) (s : State) :
    OnlyIn [.events, .mbx, .clerk, .maps, .moves, .hbm, .poison, .qh, .ports, .cols, .ldg, .asy, .lrd, .hbmStacks, .span, .counts, .shutters] s (finishShutter x us s) := by
  unfold finishShutter
  repeat' first
    | with_reducible assumption
    | with_reducible apply OnlyIn.refl
    | (with_reducible apply OnlyIn.ite) <;> intro _
    | (extract_lets +onlyGivenNames s; fail_if_success (have : State := s); clear_value s)
    | (with_reducible apply OnlyIn.step (raise_only _ _)); (case q => decide)
    | (with_reducible apply OnlyIn.step (shutterMod_only _ _ _ _)); (case q => decide)
    | (with_reducible apply OnlyIn.step (reportShutters_only _)); (case q => decide)
    | (with_reducible apply OnlyIn.step (shutTo_only _ _ _)); (case q => decide)
    | (with_reducible apply OnlyIn.lit); (case e => exact rfl); (case h => first | with_reducible assumption | with_reducible apply OnlyIn.refl); (case ev => first | exact (fun hp => absurd (by decide) hp) | exact (fun _ => ⟨rfl, rfl, rfl, rfl, rfl⟩)); (case po => first | exact (fun hp => absurd (by decide) hp) | exact (fun _ => ⟨rfl, rfl⟩)); (case k => intro p hp ne np; cases p <;> first | exact (absurd (by decide) hp) | exact (absurd rfl ne) | exact (absurd rfl np) | exact rfl)

theorem openTarget_only (kind num : Nat) (s : State) :
    OnlyIn [.tables, .qh, .cols, .hbmStacks, .span] s (openTarget kind num s) := by
  unfold openTarget
  repeat' first
    | with_reducible assumption
    | with_reducible apply OnlyIn.refl
    | (with_reducible apply OnlyIn.ite) <;> intro _
    | (with_reducible apply OnlyIn.step (stackMod_only _ _ _)); (case q => decide)
    | (with_reducible apply OnlyIn.step (tableMod_only _ _ _)); (case q => decide)
    | (with_reducible apply OnlyIn.step (colMod_only _ _ _)); (case q => decide)
    | (with_reducible apply OnlyIn.step (flowMod_only _ _ _)); (case q => decide)
    | (with_reducible apply OnlyIn.step (portMod_only _ _ _)); (case q => decide)
    | split
    | (with_reducible apply OnlyIn.lit); (case e => exact rfl); (case h => first | with_reducible assumption | with_reducible apply OnlyIn.refl); (case ev => first | exact (fun hp => absurd (by decide) hp) | exact (fun _ => ⟨rfl, rfl, rfl, rfl, rfl⟩)); (case po => first | exact (fun hp => absurd (by decide) hp) | exact (fun _ => ⟨rfl, rfl⟩)); (case k => intro p hp ne np; cases p <;> first | exact (absurd (by decide) hp) | exact (absurd rfl ne) | exact (absurd rfl np) | exact rfl)

theorem defaults_only (plan : W64) (s : State) :
    OnlyIn [.clerk, .qh, .lrd] s (defaults plan s) := by
  unfold defaults
  repeat' first
    | with_reducible assumption
    | with_reducible apply OnlyIn.refl
    | (with_reducible apply OnlyIn.ite) <;> intro _
    | (with_reducible apply OnlyIn.lit); (case e => exact rfl); (case h => first | with_reducible assumption | with_reducible apply OnlyIn.refl); (case ev => first | exact (fun hp => absurd (by decide) hp) | exact (fun _ => ⟨rfl, rfl, rfl, rfl, rfl⟩)); (case po => first | exact (fun hp => absurd (by decide) hp) | exact (fun _ => ⟨rfl, rfl⟩)); (case k => intro p hp ne np; cases p <;> first | exact (absurd (by decide) hp) | exact (absurd rfl ne) | exact (absurd rfl np) | exact rfl)

theorem spanIdle_only (s : State) :
    OnlyIn [.events, .mbx, .maps, .qh, .ports, .cols, .ldg, .asy, .lrd, .span, .counts, .ctr] s (spanIdle s) := by
  unfold spanIdle
  repeat' first
    | with_reducible assumption
    | with_reducible apply OnlyIn.refl
    | (with_reducible apply OnlyIn.ite) <;> intro _
    | (extract_lets +onlyGivenNames s; fail_if_success (have : State := s); clear_value s)
    | (with_reducible apply OnlyIn.step (portMod_only _ _ _)); (case q => decide)
    | (with_reducible apply OnlyIn.step (refusePacket_only _ _)); (case q => decide)
    | (with_reducible apply OnlyIn.step (linkChanged_only _ _)); (case q => decide)
    | (with_reducible apply OnlyIn.thenFold_fst); rotate_left; intro _ _
    | (with_reducible apply OnlyIn.thenFold_snd); rotate_left; intro _ _
    | (with_reducible apply OnlyIn.thenFold); rotate_left; intro _ _

theorem refuseReset_only (write : Bool) (s : State) :
    OnlyIn [.block] s (refuseReset write s) := by
  unfold refuseReset
  repeat' first
    | with_reducible assumption
    | with_reducible apply OnlyIn.refl
    | (with_reducible apply OnlyIn.ite) <;> intro _
    | (with_reducible apply OnlyIn.lit); (case e => exact rfl); (case h => first | with_reducible assumption | with_reducible apply OnlyIn.refl); (case ev => first | exact (fun hp => absurd (by decide) hp) | exact (fun _ => ⟨rfl, rfl, rfl, rfl, rfl⟩)); (case po => first | exact (fun hp => absurd (by decide) hp) | exact (fun _ => ⟨rfl, rfl⟩)); (case k => intro p hp ne np; cases p <;> first | exact (absurd (by decide) hp) | exact (absurd rfl ne) | exact (absurd rfl np) | exact rfl)

theorem coldHold_only (source : Nat) (s : State) :
    OnlyIn [.events, .block, .mbx, .clerk, .wch, .pwr, .tables, .templates, .maps, .moves, .hbm, .poison, .xlt, .flt, .qh, .ports, .cols, .ldg, .asy, .lrd, .hbmStacks, .span, .counts, .ctr, .shutters] s (coldHold source s) := by
  unfold coldHold
  repeat' first
    | with_reducible assumption
    | with_reducible apply OnlyIn.refl
    | (with_reducible apply OnlyIn.ite) <;> intro _
    | (extract_lets +onlyGivenNames s; fail_if_success (have : State := s); clear_value s)
    | (with_reducible apply OnlyIn.step (refreshReady_only _)); (case q => decide)
    | (with_reducible apply OnlyIn.step (evalLines_only _)); (case q => decide)
    | (with_reducible apply OnlyIn.lit); (case e => exact rfl); (case h => first | with_reducible assumption | with_reducible apply OnlyIn.refl); (case ev => first | exact (fun hp => absurd (by decide) hp) | exact (fun _ => ⟨rfl, rfl, rfl, rfl, rfl⟩)); (case po => first | exact (fun hp => absurd (by decide) hp) | exact (fun _ => ⟨rfl, rfl⟩)); (case k => intro p hp ne np; cases p <;> first | exact (absurd (by decide) hp) | exact (absurd rfl ne) | exact (absurd rfl np) | exact rfl)

theorem releaseTables_only (s : State) :
    OnlyIn [.tables, .moves, .lrd] s (releaseTables s) := by
  unfold releaseTables
  repeat' first
    | with_reducible assumption
    | with_reducible apply OnlyIn.refl
    | (with_reducible apply OnlyIn.ite) <;> intro _
    | (extract_lets +onlyGivenNames s; fail_if_success (have : State := s); clear_value s)
    | (with_reducible apply OnlyIn.step (settleSlot_only _ _ _)); (case q => decide)
    | (with_reducible apply OnlyIn.thenFold_fst); rotate_left; intro _ _
    | (with_reducible apply OnlyIn.thenFold_snd); rotate_left; intro _ _
    | (with_reducible apply OnlyIn.thenFold); rotate_left; intro _ _
    | (with_reducible apply OnlyIn.lit); (case e => exact rfl); (case h => first | with_reducible assumption | with_reducible apply OnlyIn.refl); (case ev => first | exact (fun hp => absurd (by decide) hp) | exact (fun _ => ⟨rfl, rfl, rfl, rfl, rfl⟩)); (case po => first | exact (fun hp => absurd (by decide) hp) | exact (fun _ => ⟨rfl, rfl⟩)); (case k => intro p hp ne np; cases p <;> first | exact (absurd (by decide) hp) | exact (absurd rfl ne) | exact (absurd rfl np) | exact rfl)

theorem groundEntry_only (s : State) (da : Nat) :
    OnlyIn [.hbm, .poison] s (groundEntry s da) := by
  unfold groundEntry
  repeat' first
    | with_reducible assumption
    | with_reducible apply OnlyIn.refl
    | (with_reducible apply OnlyIn.ite) <;> intro _
    | (with_reducible apply OnlyIn.step (writeDir_only _ _ _)); (case q => decide)
    | (with_reducible apply OnlyIn.lit); (case e => exact rfl); (case h => first | with_reducible assumption | with_reducible apply OnlyIn.refl); (case ev => first | exact (fun hp => absurd (by decide) hp) | exact (fun _ => ⟨rfl, rfl, rfl, rfl, rfl⟩)); (case po => first | exact (fun hp => absurd (by decide) hp) | exact (fun _ => ⟨rfl, rfl⟩)); (case k => intro p hp ne np; cases p <;> first | exact (absurd (by decide) hp) | exact (absurd rfl ne) | exact (absurd rfl np) | exact rfl)

theorem directoryPass_only (s : State) :
    OnlyIn [.tables, .moves, .hbm, .poison, .ldg, .lrd] s (directoryPass s) := by
  unfold directoryPass
  repeat' first
    | with_reducible assumption
    | with_reducible apply OnlyIn.refl
    | (with_reducible apply OnlyIn.ite) <;> intro _
    | (extract_lets +onlyGivenNames s; fail_if_success (have : State := s); clear_value s)
    | (with_reducible apply OnlyIn.step (finishMove_only _ _)); (case q => decide)
    | (with_reducible apply OnlyIn.step (settleRebuilds_only _)); (case q => decide)
    | (with_reducible apply OnlyIn.step (groundEntry_only _ _)); (case q => decide)
    | (with_reducible apply OnlyIn.thenFold_fst); rotate_left; intro _ _
    | (with_reducible apply OnlyIn.thenFold_snd); rotate_left; intro _ _
    | (with_reducible apply OnlyIn.thenFold); rotate_left; intro _ _
    | (with_reducible apply OnlyIn.lit); (case e => exact rfl); (case ev => first | exact (fun hp => absurd (by decide) hp) | exact (fun _ => ⟨rfl, rfl, rfl, rfl, rfl⟩)); (case po => first | exact (fun hp => absurd (by decide) hp) | exact (fun _ => ⟨rfl, rfl⟩)); (case k => intro p hp ne np; cases p <;> first | exact (absurd (by decide) hp) | exact (absurd rfl ne) | exact (absurd rfl np) | exact rfl)

theorem recoveryHold_only (source : Nat) (s : State) :
    OnlyIn [.events, .block, .mbx, .clerk, .wch, .pwr, .tables, .moves, .hbm, .poison, .xlt, .flt, .qh, .ports, .cols, .ldg, .asy, .lrd, .hbmStacks, .span, .counts, .ctr, .shutters] s (recoveryHold source s) := by
  unfold recoveryHold
  repeat' first
    | with_reducible assumption
    | with_reducible apply OnlyIn.refl
    | (with_reducible apply OnlyIn.ite) <;> intro _
    | (extract_lets +onlyGivenNames s; fail_if_success (have : State := s); clear_value s)
    | (with_reducible apply OnlyIn.step (refreshReady_only _)); (case q => decide)
    | (with_reducible apply OnlyIn.step (evalLines_only _)); (case q => decide)
    | (with_reducible apply OnlyIn.step (asyReopen_only _)); (case q => decide)
    | (with_reducible apply OnlyIn.step (releaseTables_only _)); (case q => decide)
    | (with_reducible apply OnlyIn.step (directoryPass_only _)); (case q => decide)
    | with_reducible apply OnlyIn.getD
    | (with_reducible apply OnlyIn.lit); (case e => exact rfl); (case ev => first | exact (fun hp => absurd (by decide) hp) | exact (fun _ => ⟨rfl, rfl, rfl, rfl, rfl⟩)); (case po => first | exact (fun hp => absurd (by decide) hp) | exact (fun _ => ⟨rfl, rfl⟩)); (case k => intro p hp ne np; cases p <;> first | exact (absurd (by decide) hp) | exact (absurd rfl ne) | exact (absurd rfl np) | exact rfl)

theorem clerkOnlyHold_only (source : Nat) (s : State) :
    OnlyIn [.block, .mbx, .clerk, .wch, .pwr, .lrd, .counts] s (clerkOnlyHold source s) := by
  unfold clerkOnlyHold
  repeat' first
    | with_reducible assumption
    | with_reducible apply OnlyIn.refl
    | (with_reducible apply OnlyIn.ite) <;> intro _
    | (extract_lets +onlyGivenNames s; fail_if_success (have : State := s); clear_value s)
    | (with_reducible apply OnlyIn.step (islandMod_only _ _ _)); (case q => decide)
    | (with_reducible apply OnlyIn.lit); (case e => exact rfl); (case h => first | with_reducible assumption | with_reducible apply OnlyIn.refl); (case ev => first | exact (fun hp => absurd (by decide) hp) | exact (fun _ => ⟨rfl, rfl, rfl, rfl, rfl⟩)); (case po => first | exact (fun hp => absurd (by decide) hp) | exact (fun _ => ⟨rfl, rfl⟩)); (case k => intro p hp ne np; cases p <;> first | exact (absurd (by decide) hp) | exact (absurd rfl ne) | exact (absurd rfl np) | exact rfl)

theorem takeHold_only (cls : ResetClass) (source : Nat) (s : State) :
    OnlyIn [.events, .block, .mbx, .clerk, .wch, .pwr, .tables, .templates, .maps, .moves, .hbm, .poison, .xlt, .flt, .qh, .ports, .cols, .ldg, .asy, .lrd, .hbmStacks, .span, .counts, .ctr, .shutters] s (takeHold cls source s) := by
  unfold takeHold
  repeat' first
    | with_reducible assumption
    | with_reducible apply OnlyIn.refl
    | (with_reducible apply OnlyIn.ite) <;> intro _
    | (with_reducible apply OnlyIn.step (coldHold_only _ _)); (case q => decide)
    | (with_reducible apply OnlyIn.step (recoveryHold_only _ _)); (case q => decide)
    | (with_reducible apply OnlyIn.step (clerkOnlyHold_only _ _)); (case q => decide)
    | split

theorem wakeMemories_only (s : State) :
    OnlyIn [.lrd, .hbmStacks] s (wakeMemories s) := by
  unfold wakeMemories
  repeat' first
    | with_reducible assumption
    | with_reducible apply OnlyIn.refl
    | (with_reducible apply OnlyIn.ite) <;> intro _
    | (with_reducible apply OnlyIn.lit); (case e => exact rfl); (case h => first | with_reducible assumption | with_reducible apply OnlyIn.refl); (case ev => first | exact (fun hp => absurd (by decide) hp) | exact (fun _ => ⟨rfl, rfl, rfl, rfl, rfl⟩)); (case po => first | exact (fun hp => absurd (by decide) hp) | exact (fun _ => ⟨rfl, rfl⟩)); (case k => intro p hp ne np; cases p <;> first | exact (absurd (by decide) hp) | exact (absurd rfl ne) | exact (absurd rfl np) | exact rfl)

theorem dropDrain_only (s : State) :
    OnlyIn [.wch] s (dropDrain s) := by
  unfold dropDrain
  repeat' first
    | with_reducible assumption
    | with_reducible apply OnlyIn.refl
    | (with_reducible apply OnlyIn.ite) <;> intro _
    | (with_reducible apply OnlyIn.lit); (case e => exact rfl); (case h => first | with_reducible assumption | with_reducible apply OnlyIn.refl); (case ev => first | exact (fun hp => absurd (by decide) hp) | exact (fun _ => ⟨rfl, rfl, rfl, rfl, rfl⟩)); (case po => first | exact (fun hp => absurd (by decide) hp) | exact (fun _ => ⟨rfl, rfl⟩)); (case k => intro p hp ne np; cases p <;> first | exact (absurd (by decide) hp) | exact (absurd rfl ne) | exact (absurd rfl np) | exact rfl)

theorem holdOffReset_only (cls : ResetClass) (source : Nat) (s : State) :
    OnlyIn [.block, .wch, .ports, .lrd, .hbmStacks] s (holdOffReset cls source s) := by
  unfold holdOffReset
  repeat' first
    | with_reducible assumption
    | with_reducible apply OnlyIn.refl
    | (with_reducible apply OnlyIn.ite) <;> intro _
    | (extract_lets +onlyGivenNames s; fail_if_success (have : State := s); clear_value s)
    | (with_reducible apply OnlyIn.step (refreshReady_only _)); (case q => decide)
    | (with_reducible apply OnlyIn.step (wakeMemories_only _)); (case q => decide)
    | (with_reducible apply OnlyIn.step (dropDrain_only _)); (case q => decide)
    | (with_reducible apply OnlyIn.lit); (case e => exact rfl); (case ev => first | exact (fun hp => absurd (by decide) hp) | exact (fun _ => ⟨rfl, rfl, rfl, rfl, rfl⟩)); (case po => first | exact (fun hp => absurd (by decide) hp) | exact (fun _ => ⟨rfl, rfl⟩)); (case k => intro p hp ne np; cases p <;> first | exact (absurd (by decide) hp) | exact (absurd rfl ne) | exact (absurd rfl np) | exact rfl)

theorem requestReset_only (cls : ResetClass) (source : Nat) (write : Bool) (s : State) :
    OnlyIn [.events, .block, .mbx, .clerk, .wch, .pwr, .tables, .templates, .maps, .moves, .hbm, .poison, .xlt, .flt, .qh, .ports, .cols, .ldg, .asy, .lrd, .hbmStacks, .span, .counts, .ctr, .shutters] s (requestReset cls source write s) := by
  unfold requestReset
  repeat' first
    | with_reducible assumption
    | with_reducible apply OnlyIn.refl
    | (with_reducible apply OnlyIn.ite) <;> intro _
    | (extract_lets +onlyGivenNames s; fail_if_success (have : State := s); clear_value s)
    | (with_reducible apply OnlyIn.step (refuseReset_only _ _)); (case q => decide)
    | (with_reducible apply OnlyIn.step (takeHold_only _ _ _)); (case q => decide)
    | (with_reducible apply OnlyIn.step (holdOffReset_only _ _ _)); (case q => decide)
    | (with_reducible apply OnlyIn.lit); (case e => exact rfl); (case h => first | with_reducible assumption | with_reducible apply OnlyIn.refl); (case ev => first | exact (fun hp => absurd (by decide) hp) | exact (fun _ => ⟨rfl, rfl, rfl, rfl, rfl⟩)); (case po => first | exact (fun hp => absurd (by decide) hp) | exact (fun _ => ⟨rfl, rfl⟩)); (case k => intro p hp ne np; cases p <;> first | exact (absurd (by decide) hp) | exact (absurd rfl ne) | exact (absurd rfl np) | exact rfl)

theorem writeGblReset_only (val : W64) (s : State) :
    OnlyIn [.events, .block, .mbx, .clerk, .wch, .pwr, .tables, .templates, .maps, .moves, .hbm, .poison, .xlt, .flt, .qh, .ports, .cols, .ldg, .asy, .lrd, .hbmStacks, .span, .counts, .ctr, .shutters] s (writeGblReset val s) := by
  unfold writeGblReset
  repeat' first
    | with_reducible assumption
    | with_reducible apply OnlyIn.refl
    | (with_reducible apply OnlyIn.ite) <;> intro _
    | (with_reducible apply OnlyIn.step (refuseReset_only _ _)); (case q => decide)
    | (with_reducible apply OnlyIn.step (requestReset_only _ _ _ _)); (case q => decide)
    | split

theorem enterHeld_only (s : State) :
    OnlyIn [.events, .block, .mbx, .wch, .maps, .qh, .ports, .cols, .ldg, .asy, .lrd, .span, .counts, .ctr] s (enterHeld s) := by
  unfold enterHeld
  repeat' first
    | with_reducible assumption
    | with_reducible apply OnlyIn.refl
    | (with_reducible apply OnlyIn.ite) <;> intro _
    | (with_reducible apply OnlyIn.step (refreshReady_only _)); (case q => decide)
    | (with_reducible apply OnlyIn.step (spanIdle_only _)); (case q => decide)
    | (with_reducible apply OnlyIn.lit); (case e => exact rfl); (case h => first | with_reducible assumption | with_reducible apply OnlyIn.refl); (case ev => first | exact (fun hp => absurd (by decide) hp) | exact (fun _ => ⟨rfl, rfl, rfl, rfl, rfl⟩)); (case po => first | exact (fun hp => absurd (by decide) hp) | exact (fun _ => ⟨rfl, rfl⟩)); (case k => intro p hp ne np; cases p <;> first | exact (absurd (by decide) hp) | exact (absurd rfl ne) | exact (absurd rfl np) | exact rfl)

theorem powerLost_only (porLow clockLost : Bool) (s : State) :
    OnlyIn [.events, .block, .mbx, .clerk, .wch, .pwr, .tables, .templates, .maps, .moves, .hbm, .poison, .xlt, .flt, .qh, .ports, .cols, .ldg, .asy, .lrd, .hbmStacks, .span, .counts, .ctr, .shutters] s (powerLost porLow clockLost s) := by
  unfold powerLost
  repeat' first
    | with_reducible assumption
    | with_reducible apply OnlyIn.refl
    | (with_reducible apply OnlyIn.ite) <;> intro _
    | (with_reducible apply OnlyIn.lit); (case e => exact rfl); (case h => first | with_reducible assumption | with_reducible apply OnlyIn.refl); (case ev => first | exact (fun hp => absurd (by decide) hp) | exact (fun _ => ⟨rfl, rfl, rfl, rfl, rfl⟩)); (case po => first | exact (fun hp => absurd (by decide) hp) | exact (fun _ => ⟨rfl, rfl⟩)); (case k => intro p hp ne np; cases p <;> first | exact (absurd (by decide) hp) | exact (absurd rfl ne) | exact (absurd rfl np) | exact rfl)

theorem answerLost_only (s : State) :
    OnlyIn [.mbx, .clerk] s (answerLost s) := by
  unfold answerLost
  repeat' first
    | with_reducible assumption
    | with_reducible apply OnlyIn.refl
    | (with_reducible apply OnlyIn.ite) <;> intro _
    | (with_reducible apply OnlyIn.lit); (case e => exact rfl); (case h => first | with_reducible assumption | with_reducible apply OnlyIn.refl); (case ev => first | exact (fun hp => absurd (by decide) hp) | exact (fun _ => ⟨rfl, rfl, rfl, rfl, rfl⟩)); (case po => first | exact (fun hp => absurd (by decide) hp) | exact (fun _ => ⟨rfl, rfl⟩)); (case k => intro p hp ne np; cases p <;> first | exact (absurd (by decide) hp) | exact (absurd rfl ne) | exact (absurd rfl np) | exact rfl)

theorem postFired_only (s : State) :
    OnlyIn [.mbx, .clerk, .shutters] s (postFired s) := by
  unfold postFired
  repeat' first
    | with_reducible assumption
    | with_reducible apply OnlyIn.refl
    | (with_reducible apply OnlyIn.ite) <;> intro _
    | (extract_lets +onlyGivenNames s; fail_if_success (have : State := s); clear_value s)
    | (with_reducible apply OnlyIn.step (reportAll_only _ _ _ _)); (case q => decide)
    | (with_reducible apply OnlyIn.step (reportShutters_only _)); (case q => decide)
    | (with_reducible apply OnlyIn.thenFold_fst); rotate_left; intro _ _
    | (with_reducible apply OnlyIn.thenFold_snd); rotate_left; intro _ _
    | (with_reducible apply OnlyIn.thenFold); rotate_left; intro _ _

theorem resumeMailbox_only (s : State) :
    OnlyIn [.mbx, .clerk, .shutters] s (resumeMailbox s) := by
  unfold resumeMailbox
  repeat' first
    | with_reducible assumption
    | with_reducible apply OnlyIn.refl
    | (with_reducible apply OnlyIn.ite) <;> intro _
    | (extract_lets +onlyGivenNames s; fail_if_success (have : State := s); clear_value s)
    | (with_reducible apply OnlyIn.step (postFired_only _)); (case q => decide)
    | (with_reducible apply OnlyIn.lit); (case e => exact rfl); (case h => first | with_reducible assumption | with_reducible apply OnlyIn.refl); (case ev => first | exact (fun hp => absurd (by decide) hp) | exact (fun _ => ⟨rfl, rfl, rfl, rfl, rfl⟩)); (case po => first | exact (fun hp => absurd (by decide) hp) | exact (fun _ => ⟨rfl, rfl⟩)); (case k => intro p hp ne np; cases p <;> first | exact (absurd (by decide) hp) | exact (absurd rfl ne) | exact (absurd rfl np) | exact rfl)

theorem testLarder_only (r : BistResult) (s : State) :
    OnlyIn [.lrd] s (testLarder r s) := by
  unfold testLarder
  repeat' first
    | with_reducible assumption
    | with_reducible apply OnlyIn.refl
    | (with_reducible apply OnlyIn.ite) <;> intro _
    | (extract_lets +onlyGivenNames s; fail_if_success (have : State := s); clear_value s)
    | (with_reducible apply OnlyIn.thenFold_fst); rotate_left; intro _ _
    | (with_reducible apply OnlyIn.thenFold_snd); rotate_left; intro _ _
    | (with_reducible apply OnlyIn.thenFold); rotate_left; intro _ _
    | (with_reducible apply OnlyIn.lit); (case e => exact rfl); (case h => first | with_reducible assumption | with_reducible apply OnlyIn.refl); (case ev => first | exact (fun hp => absurd (by decide) hp) | exact (fun _ => ⟨rfl, rfl, rfl, rfl, rfl⟩)); (case po => first | exact (fun hp => absurd (by decide) hp) | exact (fun _ => ⟨rfl, rfl⟩)); (case k => intro p hp ne np; cases p <;> first | exact (absurd (by decide) hp) | exact (absurd rfl ne) | exact (absurd rfl np) | exact rfl)

theorem testStacks_only (r : BistResult) (s : State) :
    OnlyIn [.hbmStacks] s (testStacks r s) := by
  unfold testStacks
  repeat' first
    | with_reducible assumption
    | with_reducible apply OnlyIn.refl
    | (with_reducible apply OnlyIn.ite) <;> intro _
    | (extract_lets +onlyGivenNames s; fail_if_success (have : State := s); clear_value s)
    | (with_reducible apply OnlyIn.step (stackMod_only _ _ _)); (case q => decide)
    | (with_reducible apply OnlyIn.thenFold_fst); rotate_left; intro _ _
    | (with_reducible apply OnlyIn.thenFold_snd); rotate_left; intro _ _
    | (with_reducible apply OnlyIn.thenFold); rotate_left; intro _ _
    | with_reducible apply OnlyIn.getD
    | (with_reducible apply OnlyIn.lit); (case e => exact rfl); (case h => first | with_reducible assumption | with_reducible apply OnlyIn.refl); (case ev => first | exact (fun hp => absurd (by decide) hp) | exact (fun _ => ⟨rfl, rfl, rfl, rfl, rfl⟩)); (case po => first | exact (fun hp => absurd (by decide) hp) | exact (fun _ => ⟨rfl, rfl⟩)); (case k => intro p hp ne np; cases p <;> first | exact (absurd (by decide) hp) | exact (absurd rfl ne) | exact (absurd rfl np) | exact rfl)

theorem startTraining_only (s : State) :
    OnlyIn [.hbmStacks] s (startTraining s) := by
  unfold startTraining
  repeat' first
    | with_reducible assumption
    | with_reducible apply OnlyIn.refl
    | (with_reducible apply OnlyIn.ite) <;> intro _
    | (with_reducible apply OnlyIn.step (stackMod_only _ _ _)); (case q => decide)
    | (with_reducible apply OnlyIn.thenFold_fst); rotate_left; intro _ _
    | (with_reducible apply OnlyIn.thenFold_snd); rotate_left; intro _ _
    | (with_reducible apply OnlyIn.thenFold); rotate_left; intro _ _
    | (with_reducible apply OnlyIn.lit); (case e => exact rfl); (case h => first | with_reducible assumption | with_reducible apply OnlyIn.refl); (case ev => first | exact (fun hp => absurd (by decide) hp) | exact (fun _ => ⟨rfl, rfl, rfl, rfl, rfl⟩)); (case po => first | exact (fun hp => absurd (by decide) hp) | exact (fun _ => ⟨rfl, rfl⟩)); (case k => intro p hp ne np; cases p <;> first | exact (absurd (by decide) hp) | exact (absurd rfl ne) | exact (absurd rfl np) | exact rfl)

theorem testMills_only (r : BistResult) (s : State) :
    OnlyIn [.cols] s (testMills r s) := by
  unfold testMills
  repeat' first
    | with_reducible assumption
    | with_reducible apply OnlyIn.refl
    | (with_reducible apply OnlyIn.ite) <;> intro _
    | (extract_lets +onlyGivenNames s; fail_if_success (have : State := s); clear_value s)
    | (with_reducible apply OnlyIn.step (colMod_only _ _ _)); (case q => decide)
    | (with_reducible apply OnlyIn.thenFold_fst); rotate_left; intro _ _
    | (with_reducible apply OnlyIn.thenFold_snd); rotate_left; intro _ _
    | (with_reducible apply OnlyIn.thenFold); rotate_left; intro _ _
    | with_reducible apply OnlyIn.getD
    | (with_reducible apply OnlyIn.lit); (case e => exact rfl); (case h => first | with_reducible assumption | with_reducible apply OnlyIn.refl); (case ev => first | exact (fun hp => absurd (by decide) hp) | exact (fun _ => ⟨rfl, rfl, rfl, rfl, rfl⟩)); (case po => first | exact (fun hp => absurd (by decide) hp) | exact (fun _ => ⟨rfl, rfl⟩)); (case k => intro p hp ne np; cases p <;> first | exact (absurd (by decide) hp) | exact (absurd rfl ne) | exact (absurd rfl np) | exact rfl)

theorem applyTest_only (parts : Nat) (r : BistResult) (s : State) :
    OnlyIn [.block, .cols, .lrd, .hbmStacks] s (applyTest parts r s) := by
  unfold applyTest
  repeat' first
    | with_reducible assumption
    | with_reducible apply OnlyIn.refl
    | (with_reducible apply OnlyIn.ite) <;> intro _
    | (extract_lets +onlyGivenNames s; fail_if_success (have : State := s); clear_value s)
    | (with_reducible apply OnlyIn.step (testLarder_only _ _)); (case q => decide)
    | (with_reducible apply OnlyIn.step (testStacks_only _ _)); (case q => decide)
    | (with_reducible apply OnlyIn.step (testMills_only _ _)); (case q => decide)
    | (with_reducible apply OnlyIn.lit); (case e => exact rfl); (case ev => first | exact (fun hp => absurd (by decide) hp) | exact (fun _ => ⟨rfl, rfl, rfl, rfl, rfl⟩)); (case po => first | exact (fun hp => absurd (by decide) hp) | exact (fun _ => ⟨rfl, rfl⟩)); (case k => intro p hp ne np; cases p <;> first | exact (absurd (by decide) hp) | exact (absurd rfl ne) | exact (absurd rfl np) | exact rfl)

theorem wipeAll_only (s : State) :
    OnlyIn [.clerk, .tables, .templates, .maps, .moves, .hbm, .poison, .xlt, .flt, .qh, .cols, .ldg, .asy, .lrd, .hbmStacks, .span, .ctr, .shutters] s (wipeAll s) := by
  unfold wipeAll
  repeat' first
    | with_reducible assumption
    | with_reducible apply OnlyIn.refl
    | (with_reducible apply OnlyIn.ite) <;> intro _
    | (extract_lets +onlyGivenNames s; fail_if_success (have : State := s); clear_value s)
    | (with_reducible apply OnlyIn.lit); (case e => exact rfl); (case h => first | with_reducible assumption | with_reducible apply OnlyIn.refl); (case ev => first | exact (fun hp => absurd (by decide) hp) | exact (fun _ => ⟨rfl, rfl, rfl, rfl, rfl⟩)); (case po => first | exact (fun hp => absurd (by decide) hp) | exact (fun _ => ⟨rfl, rfl⟩)); (case k => intro p hp ne np; cases p <;> first | exact (absurd (by decide) hp) | exact (absurd rfl ne) | exact (absurd rfl np) | exact rfl)

theorem loseTaken_only (s : State) :
    OnlyIn [.mbx] s (loseTaken s) := by
  unfold loseTaken
  repeat' first
    | with_reducible assumption
    | with_reducible apply OnlyIn.refl
    | (with_reducible apply OnlyIn.ite) <;> intro _
    | (extract_lets +onlyGivenNames s; fail_if_success (have : State := s); clear_value s)
    | (with_reducible apply OnlyIn.lit); (case e => exact rfl); (case h => first | with_reducible assumption | with_reducible apply OnlyIn.refl); (case ev => first | exact (fun hp => absurd (by decide) hp) | exact (fun _ => ⟨rfl, rfl, rfl, rfl, rfl⟩)); (case po => first | exact (fun hp => absurd (by decide) hp) | exact (fun _ => ⟨rfl, rfl⟩)); (case k => intro p hp ne np; cases p <;> first | exact (absurd (by decide) hp) | exact (absurd rfl ne) | exact (absurd rfl np) | exact rfl)

theorem bootWipe_only (s : State) :
    OnlyIn [.block, .clerk, .tables, .templates, .maps, .moves, .hbm, .poison, .xlt, .flt, .qh, .cols, .ldg, .asy, .lrd, .hbmStacks, .span, .ctr, .shutters] s (bootWipe s) := by
  unfold bootWipe
  repeat' first
    | with_reducible assumption
    | with_reducible apply OnlyIn.refl
    | (with_reducible apply OnlyIn.ite) <;> intro _
    | (extract_lets +onlyGivenNames s; fail_if_success (have : State := s); clear_value s)
    | (with_reducible apply OnlyIn.step (wipeAll_only _)); (case q => decide)
    | split
    | (with_reducible apply OnlyIn.lit); (case e => exact rfl); (case ev => first | exact (fun hp => absurd (by decide) hp) | exact (fun _ => ⟨rfl, rfl, rfl, rfl, rfl⟩)); (case po => first | exact (fun hp => absurd (by decide) hp) | exact (fun _ => ⟨rfl, rfl⟩)); (case k => intro p hp ne np; cases p <;> first | exact (absurd (by decide) hp) | exact (absurd rfl ne) | exact (absurd rfl np) | exact rfl)

theorem bootGood_only (i : ImageHdr) (s : State) :
    OnlyIn [.block, .mbx, .clerk, .ports, .shutters] s (bootGood i s) := by
  unfold bootGood
  repeat' first
    | with_reducible assumption
    | with_reducible apply OnlyIn.refl
    | (with_reducible apply OnlyIn.ite) <;> intro _
    | (extract_lets +onlyGivenNames s; fail_if_success (have : State := s); clear_value s)
    | (with_reducible apply OnlyIn.step (refreshReady_only _)); (case q => decide)
    | (with_reducible apply OnlyIn.step (logAdd_only _ _ _ _)); (case q => decide)
    | (with_reducible apply OnlyIn.step (logOpen_only _ _ _)); (case q => decide)
    | (with_reducible apply OnlyIn.step (answerLost_only _)); (case q => decide)
    | (with_reducible apply OnlyIn.step (resumeMailbox_only _)); (case q => decide)
    | split
    | (with_reducible apply OnlyIn.lit); (case e => exact rfl); (case ev => first | exact (fun hp => absurd (by decide) hp) | exact (fun _ => ⟨rfl, rfl, rfl, rfl, rfl⟩)); (case po => first | exact (fun hp => absurd (by decide) hp) | exact (fun _ => ⟨rfl, rfl⟩)); (case k => intro p hp ne np; cases p <;> first | exact (absurd (by decide) hp) | exact (absurd rfl ne) | exact (absurd rfl np) | exact rfl)

theorem afterBoot_only (s : State) :
    OnlyIn [.hbmStacks] s (afterBoot s) := by
  unfold afterBoot
  repeat' first
    | with_reducible assumption
    | with_reducible apply OnlyIn.refl
    | (with_reducible apply OnlyIn.ite) <;> intro _
    | (with_reducible apply OnlyIn.step (startTraining_only _)); (case q => decide)
    | split

theorem endSequence_only (s : State) :
    OnlyIn [.events, .block, .ports] s (endSequence s) := by
  unfold endSequence
  repeat' first
    | with_reducible assumption
    | with_reducible apply OnlyIn.refl
    | (with_reducible apply OnlyIn.ite) <;> intro _
    | (extract_lets +onlyGivenNames s; fail_if_success (have : State := s); clear_value s)
    | (with_reducible apply OnlyIn.step (refreshReady_only _)); (case q => decide)
    | (with_reducible apply OnlyIn.step (raise_only _ _)); (case q => decide)
    | (with_reducible apply OnlyIn.lit); (case e => exact rfl); (case h => first | with_reducible assumption | with_reducible apply OnlyIn.refl); (case ev => first | exact (fun hp => absurd (by decide) hp) | exact (fun _ => ⟨rfl, rfl, rfl, rfl, rfl⟩)); (case po => first | exact (fun hp => absurd (by decide) hp) | exact (fun _ => ⟨rfl, rfl⟩)); (case k => intro p hp ne np; cases p <;> first | exact (absurd (by decide) hp) | exact (absurd rfl ne) | exact (absurd rfl np) | exact rfl)

theorem stepFive_only (s : State) :
    OnlyIn [.mbx, .clerk, .tables, .templates, .maps, .moves, .hbm, .poison, .xlt, .flt, .qh, .cols, .ldg, .asy, .lrd, .hbmStacks, .span, .ctr, .shutters] s (stepFive s) := by
  unfold stepFive
  repeat' first
    | with_reducible assumption
    | with_reducible apply OnlyIn.refl
    | (with_reducible apply OnlyIn.ite) <;> intro _
    | (extract_lets +onlyGivenNames s; fail_if_success (have : State := s); clear_value s)
    | (with_reducible apply OnlyIn.step (wipeAll_only _)); (case q => decide)
    | (with_reducible apply OnlyIn.step (loseTaken_only _)); (case q => decide)
    | split
    | (with_reducible apply OnlyIn.lit); (case e => exact rfl); (case ev => first | exact (fun hp => absurd (by decide) hp) | exact (fun _ => ⟨rfl, rfl, rfl, rfl, rfl⟩)); (case po => first | exact (fun hp => absurd (by decide) hp) | exact (fun _ => ⟨rfl, rfl⟩)); (case k => intro p hp ne np; cases p <;> first | exact (absurd (by decide) hp) | exact (absurd rfl ne) | exact (absurd rfl np) | exact rfl)

theorem enterSelftest_only (q : Sequence) (s : State) :
    OnlyIn [.events, .block, .mbx, .maps, .qh, .ports, .cols, .ldg, .asy, .lrd, .span, .counts, .ctr] s (enterSelftest q s) := by
  unfold enterSelftest
  repeat' first
    | with_reducible assumption
    | with_reducible apply OnlyIn.refl
    | (with_reducible apply OnlyIn.ite) <;> intro _
    | (with_reducible apply OnlyIn.step (refreshReady_only _)); (case q => decide)
    | (with_reducible apply OnlyIn.step (spanIdle_only _)); (case q => decide)
    | (with_reducible apply OnlyIn.lit); (case e => exact rfl); (case h => first | with_reducible assumption | with_reducible apply OnlyIn.refl); (case ev => first | exact (fun hp => absurd (by decide) hp) | exact (fun _ => ⟨rfl, rfl, rfl, rfl, rfl⟩)); (case po => first | exact (fun hp => absurd (by decide) hp) | exact (fun _ => ⟨rfl, rfl⟩)); (case k => intro p hp ne np; cases p <;> first | exact (absurd (by decide) hp) | exact (absurd rfl ne) | exact (absurd rfl np) | exact rfl)

theorem trainTested_only (s : State) :
    OnlyIn [.hbmStacks] s (trainTested s) := by
  unfold trainTested
  repeat' first
    | with_reducible assumption
    | with_reducible apply OnlyIn.refl
    | (with_reducible apply OnlyIn.ite) <;> intro _
    | (with_reducible apply OnlyIn.step (startTraining_only _)); (case q => decide)

theorem startTransition_only (slot target : Nat) (s : State) :
    OnlyIn [.block, .mbx, .pwr, .ports] s (startTransition slot target s) := by
  unfold startTransition
  repeat' first
    | with_reducible assumption
    | with_reducible apply OnlyIn.refl
    | (with_reducible apply OnlyIn.ite) <;> intro _
    | (extract_lets +onlyGivenNames s; fail_if_success (have : State := s); clear_value s)
    | (with_reducible apply OnlyIn.step (refreshReady_only _)); (case q => decide)
    | (with_reducible apply OnlyIn.step (holdTaken_only _ _)); (case q => decide)
    | (with_reducible apply OnlyIn.lit); (case e => exact rfl); (case ev => first | exact (fun hp => absurd (by decide) hp) | exact (fun _ => ⟨rfl, rfl, rfl, rfl, rfl⟩)); (case po => first | exact (fun hp => absurd (by decide) hp) | exact (fun _ => ⟨rfl, rfl⟩)); (case k => intro p hp ne np; cases p <;> first | exact (absurd (by decide) hp) | exact (absurd rfl ne) | exact (absurd rfl np) | exact rfl)

theorem answerTaken_only (slot : Nat) (st : Status) (s : State) :
    OnlyIn [.mbx] s (answerTaken slot st s) := by
  unfold answerTaken
  repeat' first
    | with_reducible assumption
    | with_reducible apply OnlyIn.refl
    | (with_reducible apply OnlyIn.ite) <;> intro _
    | (with_reducible apply OnlyIn.step (postFinal_only _ _ _ _ _)); (case q => decide)
    | (with_reducible apply OnlyIn.step (untake_only _ _)); (case q => decide)
    | split

theorem endTransition_only (us : Nat) (s : State) :
    OnlyIn [.mbx, .pwr] s (endTransition us s) := by
  unfold endTransition
  try dsimp only
  repeat' first
    | with_reducible assumption
    | with_reducible apply OnlyIn.refl
    | (with_reducible apply OnlyIn.ite) <;> intro _
    | (with_reducible apply OnlyIn.step (answerTaken_only _ _ _)); (case q => decide)
    | split
    | (with_reducible apply OnlyIn.lit); (case e => exact rfl); (case h => first | with_reducible assumption | with_reducible apply OnlyIn.refl); (case ev => first | exact (fun hp => absurd (by decide) hp) | exact (fun _ => ⟨rfl, rfl, rfl, rfl, rfl⟩)); (case po => first | exact (fun hp => absurd (by decide) hp) | exact (fun _ => ⟨rfl, rfl⟩)); (case k => intro p hp ne np; cases p <;> first | exact (absurd (by decide) hp) | exact (absurd rfl ne) | exact (absurd rfl np) | exact rfl)

theorem enterRetention_only (us : Nat) (s : State) : OnlyIn [.events, .block, .mbx, .pwr, .maps, .qh, .ports, .cols, .ldg, .asy, .lrd, .hbmStacks, .span, .counts, .ctr] s (enterRetention us s) := by
  unfold enterRetention
  have h : OnlyIn [.events, .block, .mbx, .pwr, .maps, .qh, .ports, .cols, .ldg, .asy, .lrd, .hbmStacks, .span, .counts, .ctr] s (spanIdle (endTransition us s)) :=
    OnlyIn.step (spanIdle_only _) (by decide) ((endTransition_only _ _).mono (by decide))
  generalize spanIdle (endTransition us s) = x at h
  refine OnlyIn.step (refreshReady_only _) (by decide) (h.trans ⟨fun p hp => ?_⟩)
  cases p <;> first | exact absurd (by decide) hp | exact rfl | exact ⟨rfl, rfl⟩ | exact ⟨rfl, rfl, rfl, rfl, rfl⟩

theorem leaveRetention_only (us : Nat) (s : State) :
    OnlyIn [.block, .mbx, .pwr, .ports, .lrd, .hbmStacks] s (leaveRetention us s) := by
  unfold leaveRetention
  repeat' first
    | with_reducible assumption
    | with_reducible apply OnlyIn.refl
    | (with_reducible apply OnlyIn.ite) <;> intro _
    | (extract_lets +onlyGivenNames s; fail_if_success (have : State := s); clear_value s)
    | (with_reducible apply OnlyIn.step (settle_only _)); (case q => decide)
    | (with_reducible apply OnlyIn.step (refreshReady_only _)); (case q => decide)
    | (with_reducible apply OnlyIn.step (wakeMemories_only _)); (case q => decide)
    | (with_reducible apply OnlyIn.step (endTransition_only _ _)); (case q => decide)
    | (with_reducible apply OnlyIn.lit); (case e => exact rfl); (case ev => first | exact (fun hp => absurd (by decide) hp) | exact (fun _ => ⟨rfl, rfl, rfl, rfl, rfl⟩)); (case po => first | exact (fun hp => absurd (by decide) hp) | exact (fun _ => ⟨rfl, rfl⟩)); (case k => intro p hp ne np; cases p <;> first | exact (absurd (by decide) hp) | exact (absurd rfl ne) | exact (absurd rfl np) | exact rfl)

theorem haltClerk_only (c : ClerkState) (s : State) :
    OnlyIn [.block, .clerk, .wch, .lrd] s (haltClerk c s) := by
  unfold haltClerk
  repeat' first
    | with_reducible assumption
    | with_reducible apply OnlyIn.refl
    | (with_reducible apply OnlyIn.ite) <;> intro _
    | (with_reducible apply OnlyIn.lit); (case e => exact rfl); (case h => first | with_reducible assumption | with_reducible apply OnlyIn.refl); (case ev => first | exact (fun hp => absurd (by decide) hp) | exact (fun _ => ⟨rfl, rfl, rfl, rfl, rfl⟩)); (case po => first | exact (fun hp => absurd (by decide) hp) | exact (fun _ => ⟨rfl, rfl⟩)); (case k => intro p hp ne np; cases p <;> first | exact (absurd (by decide) hp) | exact (absurd rfl ne) | exact (absurd rfl np) | exact rfl)

theorem clerkLost_only (s : State) :
    OnlyIn [.events, .block, .clerk, .wch, .ports, .lrd] s (clerkLost s) := by
  unfold clerkLost
  repeat' first
    | with_reducible assumption
    | with_reducible apply OnlyIn.refl
    | (with_reducible apply OnlyIn.ite) <;> intro _
    | (extract_lets +onlyGivenNames s; fail_if_success (have : State := s); clear_value s)
    | (with_reducible apply OnlyIn.step (raise_only _ _)); (case q => decide)
    | (with_reducible apply OnlyIn.step (haltClerk_only _ _)); (case q => decide)
    | (with_reducible apply OnlyIn.lit); (case e => exact rfl); (case ev => first | exact (fun hp => absurd (by decide) hp) | exact (fun _ => ⟨rfl, rfl, rfl, rfl, rfl⟩)); (case po => first | exact (fun hp => absurd (by decide) hp) | exact (fun _ => ⟨rfl, rfl⟩)); (case k => intro p hp ne np; cases p <;> first | exact (absurd (by decide) hp) | exact (absurd rfl ne) | exact (absurd rfl np) | exact rfl)

theorem wchResult_only (code op data : Nat) (s : State) :
    OnlyIn [.wch] s (wchResult code op data s) := by
  unfold wchResult
  repeat' first
    | with_reducible assumption
    | with_reducible apply OnlyIn.refl
    | (with_reducible apply OnlyIn.ite) <;> intro _
    | (with_reducible apply OnlyIn.lit); (case e => exact rfl); (case h => first | with_reducible assumption | with_reducible apply OnlyIn.refl); (case ev => first | exact (fun hp => absurd (by decide) hp) | exact (fun _ => ⟨rfl, rfl, rfl, rfl, rfl⟩)); (case po => first | exact (fun hp => absurd (by decide) hp) | exact (fun _ => ⟨rfl, rfl⟩)); (case k => intro p hp ne np; cases p <;> first | exact (absurd (by decide) hp) | exact (absurd rfl ne) | exact (absurd rfl np) | exact rfl)

theorem wchDump_only (s : State) :
    OnlyIn [.wch] s (wchDump s) := by
  unfold wchDump
  repeat' first
    | with_reducible assumption
    | with_reducible apply OnlyIn.refl
    | (with_reducible apply OnlyIn.ite) <;> intro _
    | (extract_lets +onlyGivenNames s; fail_if_success (have : State := s); clear_value s)
    | (with_reducible apply OnlyIn.step (wchResult_only _ _ _ _)); (case q => decide)
    | (with_reducible apply OnlyIn.lit); (case e => exact rfl); (case h => first | with_reducible assumption | with_reducible apply OnlyIn.refl); (case ev => first | exact (fun hp => absurd (by decide) hp) | exact (fun _ => ⟨rfl, rfl, rfl, rfl, rfl⟩)); (case po => first | exact (fun hp => absurd (by decide) hp) | exact (fun _ => ⟨rfl, rfl⟩)); (case k => intro p hp ne np; cases p <;> first | exact (absurd (by decide) hp) | exact (absurd rfl ne) | exact (absurd rfl np) | exact rfl)

theorem wchWriteCo_only (ofs : Nat) (s : State) :
    OnlyIn [.wch, .xlt, .qh, .lrd, .span, .counts] s (wchWriteCo ofs s) := by
  unfold wchWriteCo
  repeat' first
    | with_reducible assumption
    | with_reducible apply OnlyIn.refl
    | (with_reducible apply OnlyIn.ite) <;> intro _
    | (with_reducible apply OptIn.step (writeCoReg_only _ _ _)); (case q => decide)
    | ((with_reducible apply OnlyIn.step (((writeCoReg_only _ _ _)).only _ (by assumption)))); (case q => decide)
    | (with_reducible apply OnlyIn.step (wchResult_only _ _ _ _)); (case q => decide)
    | split

theorem wchReset_only (op : Nat) (cls : ResetClass) (s : State) :
    OnlyIn [.events, .block, .mbx, .clerk, .wch, .pwr, .tables, .templates, .maps, .moves, .hbm, .poison, .xlt, .flt, .qh, .ports, .cols, .ldg, .asy, .lrd, .hbmStacks, .span, .counts, .ctr, .shutters] s (wchReset op cls s) := by
  unfold wchReset
  repeat' first
    | with_reducible assumption
    | with_reducible apply OnlyIn.refl
    | (with_reducible apply OnlyIn.ite) <;> intro _
    | (with_reducible apply OnlyIn.step (requestReset_only _ _ _ _)); (case q => decide)
    | (with_reducible apply OnlyIn.step (wchResult_only _ _ _ _)); (case q => decide)

theorem shutAll_only (s : State) :
    OnlyIn [.events, .mbx, .clerk, .tables, .maps, .flt, .qh, .ports, .cols, .ldg, .asy, .lrd, .hbmStacks, .span, .counts, .ctr, .shutters] s (shutAll s) := by
  unfold shutAll
  repeat' first
    | with_reducible assumption
    | with_reducible apply OnlyIn.refl
    | (with_reducible apply OnlyIn.ite) <;> intro _
    | (extract_lets +onlyGivenNames s; fail_if_success (have : State := s); clear_value s)
    | (with_reducible apply OnlyIn.step (startShutter_only _ _ _ _ _ _)); (case q => decide)
    | (with_reducible apply OnlyIn.lit); (case e => exact rfl); (case h => first | with_reducible assumption | with_reducible apply OnlyIn.refl); (case ev => first | exact (fun hp => absurd (by decide) hp) | exact (fun _ => ⟨rfl, rfl, rfl, rfl, rfl⟩)); (case po => first | exact (fun hp => absurd (by decide) hp) | exact (fun _ => ⟨rfl, rfl⟩)); (case k => intro p hp ne np; cases p <;> first | exact (absurd (by decide) hp) | exact (absurd rfl ne) | exact (absurd rfl np) | exact rfl)

theorem wchForceHeld_only (s : State) :
    OnlyIn [.events, .block, .mbx, .clerk, .wch, .pwr, .tables, .maps, .flt, .qh, .ports, .cols, .ldg, .asy, .lrd, .hbmStacks, .span, .counts, .ctr, .shutters] s (wchForceHeld s) := by
  unfold wchForceHeld
  repeat' first
    | with_reducible assumption
    | with_reducible apply OnlyIn.refl
    | (with_reducible apply OnlyIn.ite) <;> intro _
    | (extract_lets +onlyGivenNames s; fail_if_success (have : State := s); clear_value s)
    | (with_reducible apply OnlyIn.step (refreshReady_only _)); (case q => decide)
    | (with_reducible apply OnlyIn.step (wakeMemories_only _)); (case q => decide)
    | (with_reducible apply OnlyIn.step (wchResult_only _ _ _ _)); (case q => decide)
    | (with_reducible apply OnlyIn.step (shutAll_only _)); (case q => decide)
    | split
    | (with_reducible apply OnlyIn.lit); (case e => exact rfl); (case ev => first | exact (fun hp => absurd (by decide) hp) | exact (fun _ => ⟨rfl, rfl, rfl, rfl, rfl⟩)); (case po => first | exact (fun hp => absurd (by decide) hp) | exact (fun _ => ⟨rfl, rfl⟩)); (case k => intro p hp ne np; cases p <;> first | exact (absurd (by decide) hp) | exact (absurd rfl ne) | exact (absurd rfl np) | exact rfl)

theorem wchCommand_only (val : W64) (s : State) :
    OnlyIn [.events, .block, .mbx, .clerk, .wch, .pwr, .tables, .templates, .maps, .moves, .hbm, .poison, .xlt, .flt, .qh, .ports, .cols, .ldg, .asy, .lrd, .hbmStacks, .span, .counts, .ctr, .shutters] s (wchCommand val s) := by
  unfold wchCommand
  repeat' first
    | with_reducible assumption
    | with_reducible apply OnlyIn.refl
    | (with_reducible apply OnlyIn.ite) <;> intro _
    | (extract_lets +onlyGivenNames s; fail_if_success (have : State := s); clear_value s)
    | (with_reducible apply OnlyIn.step (haltClerk_only _ _)); (case q => decide)
    | (with_reducible apply OnlyIn.step (wchResult_only _ _ _ _)); (case q => decide)
    | (with_reducible apply OnlyIn.step (wchDump_only _)); (case q => decide)
    | (with_reducible apply OnlyIn.step (wchWriteCo_only _ _)); (case q => decide)
    | (with_reducible apply OnlyIn.step (wchReset_only _ _ _)); (case q => decide)
    | (with_reducible apply OnlyIn.step (wchForceHeld_only _)); (case q => decide)
    | split

theorem putMbx_only (r : Nat) (val : W64) (s : State) :
    OnlyIn [.mbx] s (putMbx r val s) := by
  unfold putMbx
  repeat' first
    | with_reducible assumption
    | with_reducible apply OnlyIn.refl
    | (with_reducible apply OnlyIn.ite) <;> intro _
    | (with_reducible apply OnlyIn.step (ringSlot_only _ _)); (case q => decide)
    | (with_reducible apply OnlyIn.step (writeSlotWord_only _ _ _ _)); (case q => decide)
    | (with_reducible apply OnlyIn.step (writeRespHead_only _ _)); (case q => decide)
    | (with_reducible apply OnlyIn.step (writeRespBase_only _ _)); (case q => decide)
    | (with_reducible apply OnlyIn.step (writeRespSize_only _ _)); (case q => decide)

theorem putWch_only (r : Nat) (val : W64) (s : State) :
    OnlyIn [.events, .block, .mbx, .clerk, .wch, .pwr, .tables, .templates, .maps, .moves, .hbm, .poison, .xlt, .flt, .qh, .ports, .cols, .ldg, .asy, .lrd, .hbmStacks, .span, .counts, .ctr, .shutters] s (putWch r val s) := by
  unfold putWch
  repeat' first
    | with_reducible assumption
    | with_reducible apply OnlyIn.refl
    | (with_reducible apply OnlyIn.ite) <;> intro _
    | (with_reducible apply OnlyIn.step (wchCommand_only _ _)); (case q => decide)
    | (with_reducible apply OnlyIn.lit); (case e => exact rfl); (case h => first | with_reducible assumption | with_reducible apply OnlyIn.refl); (case ev => first | exact (fun hp => absurd (by decide) hp) | exact (fun _ => ⟨rfl, rfl, rfl, rfl, rfl⟩)); (case po => first | exact (fun hp => absurd (by decide) hp) | exact (fun _ => ⟨rfl, rfl⟩)); (case k => intro p hp ne np; cases p <;> first | exact (absurd (by decide) hp) | exact (absurd rfl ne) | exact (absurd rfl np) | exact rfl)

theorem putGbl_only (r : Nat) (val : W64) (s : State) :
    OnlyIn [.events, .block, .mbx, .clerk, .wch, .pwr, .tables, .templates, .maps, .moves, .hbm, .poison, .xlt, .flt, .qh, .ports, .cols, .ldg, .asy, .lrd, .hbmStacks, .span, .counts, .ctr, .shutters] s (putGbl r val s) := by
  unfold putGbl
  repeat' first
    | with_reducible assumption
    | with_reducible apply OnlyIn.refl
    | (with_reducible apply OnlyIn.ite) <;> intro _
    | (with_reducible apply OnlyIn.step (writeEvent_only _ _)); (case q => decide)
    | (with_reducible apply OnlyIn.step (writeEventReg_only _ _ _)); (case q => decide)
    | (with_reducible apply OnlyIn.step (writeMsiAddr_only _ _)); (case q => decide)
    | (with_reducible apply OnlyIn.step (writeMsiMode_only _ _)); (case q => decide)
    | (with_reducible apply OnlyIn.step (writeGblReset_only _ _)); (case q => decide)

theorem putSub_only (r : Nat) (val : W64) (s : State) :
    OnlyIn [.events, .qh, .ports] s (putSub r val s) := by
  unfold putSub
  repeat' first
    | with_reducible assumption
    | with_reducible apply OnlyIn.refl
    | (with_reducible apply OnlyIn.ite) <;> intro _
    | (with_reducible apply OnlyIn.step (writeSubWord_only _ _ _)); (case q => decide)
    | (with_reducible apply OnlyIn.step (subSubmit_only _ _)); (case q => decide)

theorem putCtr_only (r : Nat) (val : W64) (s : State) :
    OnlyIn [.events, .ports, .cols, .counts, .ctr] s (putCtr r val s) := by
  unfold putCtr
  repeat' first
    | with_reducible assumption
    | with_reducible apply OnlyIn.refl
    | (with_reducible apply OnlyIn.ite) <;> intro _
    | (with_reducible apply OnlyIn.step (writeCtrMode_only _ _)); (case q => decide)
    | (with_reducible apply OnlyIn.step (writeCtrFreeze_only _ _ _)); (case q => decide)
    | (with_reducible apply OnlyIn.step (writeCtrPeriod_only _ _)); (case q => decide)
    | (with_reducible apply OnlyIn.step (writeCtrSample_only _ _)); (case q => decide)
    | (with_reducible apply OnlyIn.step (writeDumpBase_only _ _)); (case q => decide)
    | (with_reducible apply OnlyIn.step (writeIslSel_only _ _)); (case q => decide)
    | (with_reducible apply OnlyIn.step (clearSticky_only _ _ _)); (case q => decide)

theorem putFlt_only (r : Nat) (val : W64) (s : State) :
    OnlyIn [.flt, .qh, .cols, .span, .ctr] s (putFlt r val s) := by
  unfold putFlt
  repeat' first
    | with_reducible assumption
    | with_reducible apply OnlyIn.refl
    | (with_reducible apply OnlyIn.ite) <;> intro _
    | (with_reducible apply OnlyIn.step (writeReply_only _ _)); (case q => decide)
    | (with_reducible apply OnlyIn.step (writeFltHead_only _ _)); (case q => decide)
    | (with_reducible apply OnlyIn.step (writeFltBase_only _ _)); (case q => decide)
    | (with_reducible apply OnlyIn.step (writeFltSize_only _ _)); (case q => decide)
    | (with_reducible apply OnlyIn.step (writeFltStatus_only _ _)); (case q => decide)

theorem putXlt_only (r : Nat) (val : W64) (s : State) :
    OnlyIn [.xlt] s (putXlt r val s) := by
  unfold putXlt
  repeat' first
    | with_reducible assumption
    | with_reducible apply OnlyIn.refl
    | (with_reducible apply OnlyIn.ite) <;> intro _
    | (with_reducible apply OnlyIn.step (writeInval_only _ _)); (case q => decide)
    | (with_reducible apply OnlyIn.step (writeInvalAck_only _ _)); (case q => decide)
    | (with_reducible apply OnlyIn.step (writeCtxSel_only _ _)); (case q => decide)

theorem putQh_only (r : Nat) (val : W64) (s : State) :
    OnlyIn [.qh] s (putQh r val s) := by
  unfold putQh
  repeat' first
    | with_reducible assumption
    | with_reducible apply OnlyIn.refl
    | (with_reducible apply OnlyIn.ite) <;> intro _
    | (with_reducible apply OnlyIn.step (writeQhSplit_only _ _)); (case q => decide)
    | (with_reducible apply OnlyIn.step (writeQhTimeout_only _ _)); (case q => decide)
    | (with_reducible apply OnlyIn.step (writeFlowState_only _ _)); (case q => decide)
    | (with_reducible apply OnlyIn.step (writeFlowSel_only _ _)); (case q => decide)

theorem putTest_only (n : Nat) (val : W64) (s : State) :
    OnlyIn [.hbmStacks] s (putTest n val s) := by
  unfold putTest
  repeat' first
    | with_reducible assumption
    | with_reducible apply OnlyIn.refl
    | (with_reducible apply OnlyIn.ite) <;> intro _
    | (with_reducible apply OnlyIn.step (writeTest1500_only _ _ _ _ _)); (case q => decide)

theorem putHbm_only (n r : Nat) (val : W64) (s : State) :
    OnlyIn [.hbmStacks] s (putHbm n r val s) := by
  unfold putHbm
  repeat' first
    | with_reducible assumption
    | with_reducible apply OnlyIn.refl
    | (with_reducible apply OnlyIn.ite) <;> intro _
    | (with_reducible apply OnlyIn.step (writeHbmTemp_only _ _ _)); (case q => decide)
    | (with_reducible apply OnlyIn.step (writeHintCfg_only _ _ _)); (case q => decide)
    | (with_reducible apply OnlyIn.step (writeThrottle_only _ _ _)); (case q => decide)
    | (with_reducible apply OnlyIn.step (writeEccCe_only _ _ _)); (case q => decide)
    | (with_reducible apply OnlyIn.step (putTest_only _ _ _)); (case q => decide)

theorem regWrite_only (off : Nat) (val : W64) (s : State) :
    OnlyIn [.events, .block, .mbx, .clerk, .wch, .pwr, .tables, .templates, .maps, .moves, .hbm, .poison, .xlt, .flt, .qh, .ports, .cols, .ldg, .asy, .lrd, .hbmStacks, .span, .counts, .ctr, .shutters] s (regWrite off val s) := by
  unfold regWrite
  repeat' first
    | with_reducible assumption
    | with_reducible apply OnlyIn.refl
    | (with_reducible apply OnlyIn.ite) <;> intro _
    | (with_reducible apply OnlyIn.step (writeIdleCause_only _ _ _)); (case q => decide)
    | (with_reducible apply OnlyIn.step (writeAsySel_only _ _)); (case q => decide)
    | (with_reducible apply OnlyIn.step (writeSatThresh_only _ _)); (case q => decide)
    | (with_reducible apply OnlyIn.step (writeLatePolicy_only _ _)); (case q => decide)
    | (with_reducible apply OnlyIn.step (writeLdgStatus_only _ _)); (case q => decide)
    | (with_reducible apply OnlyIn.step (writeSpnNode_only _ _)); (case q => decide)
    | (with_reducible apply OnlyIn.step (writePwrMargin_only _ _)); (case q => decide)
    | (with_reducible apply OnlyIn.step (putMbx_only _ _ _)); (case q => decide)
    | (with_reducible apply OnlyIn.step (putWch_only _ _ _)); (case q => decide)
    | (with_reducible apply OnlyIn.step (putGbl_only _ _ _)); (case q => decide)
    | (with_reducible apply OnlyIn.step (putSub_only _ _ _)); (case q => decide)
    | (with_reducible apply OnlyIn.step (putCtr_only _ _ _)); (case q => decide)
    | (with_reducible apply OnlyIn.step (putFlt_only _ _ _)); (case q => decide)
    | (with_reducible apply OnlyIn.step (putXlt_only _ _ _)); (case q => decide)
    | (with_reducible apply OnlyIn.step (putQh_only _ _ _)); (case q => decide)
    | (with_reducible apply OnlyIn.step (putHbm_only _ _ _ _)); (case q => decide)
    | split

end Sys2Proof.Machine
end

