-- ==== Sys2Proof/Laws/Memory.lean ====
section
/-! SUPPORT. Keyed stores and byte memory: a read after a write gives what was written, a write leaves every other place
alone, and every memory operation keeps the canonical form. -/

namespace Sys2Proof.Machine

open Sys2Proof

/-! ## Keyed stores -/

theorem mget_mset_same {α : Type} (m : AMap α) (k : Nat) (v : α) : mget (mset m k v) k = some v := by
  induction m with
  | nil => simp [mset, mget]
  | cons c r ih =>
    obtain ⟨k', v'⟩ := c
    unfold mset
    split
    · simp [mget]
    · split
      · simp [mget]
      · simp [mget, *]

theorem mget_mset_other {α : Type} (m : AMap α) (k j : Nat) (v : α) (h : j ≠ k) : mget (mset m k v) j = mget m j := by
  induction m with
  | nil => simp [mset, mget, h]
  | cons c r ih =>
    obtain ⟨k', v'⟩ := c
    unfold mset
    split
    · simp [mget, h]
    · split
      · subst k; simp [mget, h]
      · simp [mget, ih]

theorem mget_mdel_other {α : Type} (m : AMap α) (k j : Nat) (h : j ≠ k) : mget (mdel m k) j = mget m j := by
  induction m with
  | nil => rfl
  | cons c r ih =>
    obtain ⟨k', v'⟩ := c
    unfold mdel
    split
    · subst k; simp [mget, h, ih]
    · simp [mget, ih]

theorem keysAbove_weaken {α : Type} {m : AMap α} {a b : Nat} (h : keysAbove b m = true) (k : a ≤ b) : keysAbove a m = true := by
  cases m with
  | nil => rfl
  | cons c r =>
    obtain ⟨x, v⟩ := c
    simp only [keysAbove, Bool.and_eq_true, decide_eq_true_eq] at h ⊢
    exact ⟨Nat.le_trans k h.1, h.2⟩

theorem mget_below {α : Type} {m : AMap α} {a k : Nat} (h : keysAbove a m = true) (hk : k < a) : mget m k = none := by
  induction m generalizing a with
  | nil => rfl
  | cons c r ih =>
    obtain ⟨x, v⟩ := c
    simp only [keysAbove, Bool.and_eq_true, decide_eq_true_eq] at h
    have : k ≠ x := by omega
    simp only [mget, this, if_false]
    exact ih h.2 (by omega)

theorem mget_mdel_same {α : Type} (m : AMap α) (k : Nat) : mget (mdel m k) k = none := by
  induction m with
  | nil => rfl
  | cons c r ih =>
    obtain ⟨x, v⟩ := c
    unfold mdel
    split
    · exact ih
    · rename_i ne; simp only [mget, ne, if_false]; exact ih

theorem keysAbove_mset {α : Type} {m : AMap α} {a : Nat} (h : keysAbove a m = true) (k : Nat) (v : α) (hk : a ≤ k) :
    keysAbove a (mset m k v) = true := by
  induction m generalizing a with
  | nil => simp [mset, keysAbove, hk]
  | cons c r ih =>
    obtain ⟨x, w⟩ := c
    simp only [keysAbove, Bool.and_eq_true, decide_eq_true_eq] at h
    unfold mset
    split
    · simp only [keysAbove, Bool.and_eq_true, decide_eq_true_eq]
      exact ⟨hk, by omega, h.2⟩
    · split
      · subst k; simp only [keysAbove, Bool.and_eq_true, decide_eq_true_eq]; exact h
      · simp only [keysAbove, Bool.and_eq_true, decide_eq_true_eq]
        exact ⟨h.1, ih h.2 (by omega)⟩

theorem keysAbove_mdel {α : Type} {m : AMap α} {a : Nat} (h : keysAbove a m = true) (k : Nat) :
    keysAbove a (mdel m k) = true := by
  induction m generalizing a with
  | nil => rfl
  | cons c r ih =>
    obtain ⟨x, w⟩ := c
    simp only [keysAbove, Bool.and_eq_true, decide_eq_true_eq] at h
    unfold mdel
    split
    · exact keysAbove_weaken (ih h.2) (by omega)
    · simp only [keysAbove, Bool.and_eq_true, decide_eq_true_eq]
      exact ⟨h.1, ih h.2⟩

theorem keysAbove_filter {α : Type} {m : AMap α} {a : Nat} (p : Nat × α → Bool) (h : keysAbove a m = true) :
    keysAbove a (m.filter p) = true := by
  induction m generalizing a with
  | nil => rfl
  | cons c r ih =>
    obtain ⟨x, w⟩ := c
    simp only [keysAbove, Bool.and_eq_true, decide_eq_true_eq] at h
    by_cases q : p (x, w) = true
    · rw [List.filter_cons_of_pos q]
      simp only [keysAbove, Bool.and_eq_true, decide_eq_true_eq]
      exact ⟨h.1, ih h.2⟩
    · rw [List.filter_cons_of_neg q]
      exact keysAbove_weaken (ih h.2) (by omega)

theorem mem_mset {α : Type} {m : AMap α} {k : Nat} {v : α} {c : Nat × α} (h : c ∈ mset m k v) : c = (k, v) ∨ c ∈ m := by
  induction m with
  | nil => simpa [mset] using h
  | cons x r ih =>
    obtain ⟨x, w⟩ := x
    unfold mset at h
    split at h
    · rcases List.mem_cons.mp h with h | h
      · exact .inl h
      · exact .inr h
    · split at h
      · rcases List.mem_cons.mp h with h | h
        · exact .inl h
        · exact .inr (List.mem_cons_of_mem _ h)
      · rcases List.mem_cons.mp h with h | h
        · exact .inr (h ▸ List.mem_cons_self)
        · exact (ih h).imp id (List.mem_cons_of_mem _)

theorem mem_mdel {α : Type} {m : AMap α} {k : Nat} {c : Nat × α} (h : c ∈ mdel m k) : c ∈ m := by
  induction m with
  | nil => simp [mdel] at h
  | cons x r ih =>
    obtain ⟨x, w⟩ := x
    unfold mdel at h
    split at h
    · exact List.mem_cons_of_mem _ (ih h)
    · rcases List.mem_cons.mp h with h | h
      · exact h ▸ List.mem_cons_self
      · exact List.mem_cons_of_mem _ (ih h)

/-! ## Byte memory -/

theorem Memory.wf_iff (m : List Host.Cell) : Memory.wf m = true ↔ keysAbove 0 m = true ∧ ∀ c ∈ m, c.2 ≠ 0 := by
  simp [Memory.wf]

theorem Memory.wf_memSet {m : List Host.Cell} (h : Memory.wf m = true) (a : Nat) (b : Byte) : Memory.wf (memSet m a b) = true := by
  rw [Memory.wf_iff] at h ⊢
  unfold memSet
  split
  · exact ⟨keysAbove_mdel h.1 a, fun c hc => h.2 c (mem_mdel hc)⟩
  · rename_i nz
    refine ⟨keysAbove_mset h.1 a b (Nat.zero_le _), fun c hc => ?_⟩
    rcases mem_mset hc with e | e
    · rw [e]; exact nz
    · exact h.2 c e

theorem Memory.wf_memWrite {m : List Host.Cell} (h : Memory.wf m = true) (a : Nat) (bs : List Byte) :
    Memory.wf (memWrite m a bs) = true := by
  induction bs generalizing m a with
  | nil => exact h
  | cons b r ih => exact ih (Memory.wf_memSet h a b) (a + 1)

theorem Memory.wf_filter {m : List Host.Cell} (h : Memory.wf m = true) (p : Host.Cell → Bool) : Memory.wf (m.filter p) = true := by
  rw [Memory.wf_iff] at h ⊢
  exact ⟨keysAbove_filter p h.1, fun c hc => h.2 c (List.mem_filter.mp hc).1⟩

theorem memGet_memSet_other (m : List Host.Cell) (a x : Nat) (b : Byte) (h : x ≠ a) : memGet (memSet m a b) x = memGet m x := by
  unfold memGet mgetD memSet
  split
  · rw [mget_mdel_other _ _ _ h]
  · rw [mget_mset_other _ _ _ _ h]

theorem memGet_memSet_same (m : List Host.Cell) (a : Nat) (b : Byte) : memGet (memSet m a b) a = b := by
  unfold memGet mgetD memSet
  split
  · rename_i e; rw [e, mget_mdel_same]; rfl
  · rw [mget_mset_same]; rfl

theorem memGet_memWrite_outside (bs : List Byte) (m : List Host.Cell) (a x : Nat) (h : x < a ∨ a + bs.length ≤ x) :
    memGet (memWrite m a bs) x = memGet m x := by
  induction bs generalizing m a with
  | nil => rfl
  | cons b r ih =>
    simp only [List.length_cons] at h
    unfold memWrite
    rw [ih _ _ (by omega), memGet_memSet_other _ _ _ _ (by omega)]

theorem memGet_memWrite_inside {m : List Host.Cell} (h : Memory.wf m = true) (bs : List Byte) (a i : Nat) (hi : i < bs.length) :
    memGet (memWrite m a bs) (a + i) = bs[i] := by
  induction bs generalizing m a i with
  | nil => simp at hi
  | cons b r ih =>
    unfold memWrite
    cases i with
    | zero =>
      rw [memGet_memWrite_outside _ _ _ _ (by omega)]
      exact memGet_memSet_same _ a b
    | succ n =>
      have := ih (Memory.wf_memSet h a b) (a + 1) n (by simpa using hi)
      rw [Nat.add_assoc, Nat.add_comm 1 n] at this
      simpa using this

/-- A read of what was written gives what was written. -/
theorem memRead_memWrite_same {m : List Host.Cell} (h : Memory.wf m = true) (a : Nat) (bs : List Byte) :
    memRead (memWrite m a bs) a bs.length = bs := by
  apply List.ext_getElem
  · simp [memRead]
  · intro i h1 h2
    simp only [memRead, List.getElem_map, List.getElem_range]
    exact memGet_memWrite_inside h bs a i h2

/-- A read elsewhere gives what it gave. -/
theorem memRead_memWrite_other (m : List Host.Cell) (a x n : Nat) (bs : List Byte) (h : x + n ≤ a ∨ a + bs.length ≤ x) :
    memRead (memWrite m a bs) x n = memRead m x n := by
  unfold memRead
  apply List.map_congr_left
  intro i hi
  have := List.mem_range.mp hi
  exact memGet_memWrite_outside _ _ _ _ (by omega)

/-! ## The HBM data space -/

theorem hbmWrite_wf {s : State} (h : Memory.wf s.hbm = true) (a : Nat) (bs : List Byte) : Memory.wf (hbmWrite a bs s).hbm = true :=
  Memory.wf_memWrite h a bs

theorem hbmClear_wf {s : State} (h : Memory.wf s.hbm = true) (a n : Nat) : Memory.wf (hbmClear a n s).hbm = true :=
  Memory.wf_filter h _

theorem hbmRead_hbmWrite_same {s : State} (h : Memory.wf s.hbm = true) (a : Nat) (bs : List Byte) :
    hbmRead (hbmWrite a bs s) a bs.length = bs := memRead_memWrite_same h a bs

theorem hbmRead_hbmWrite_other (s : State) (a x n : Nat) (bs : List Byte) (h : x + n ≤ a ∨ a + bs.length ≤ x) :
    hbmRead (hbmWrite a bs s) x n = hbmRead s x n := memRead_memWrite_other s.hbm a x n bs h

end Sys2Proof.Machine
end

