-- ==== Sys2Proof/WellFormed.lean ====
section
/-! DEFINITION. What a well-formed command is: every part of the K40 it names exists, and every list it carries has the length
that the manual gives it. The machine is total without it: a command that names a part the K40 lacks changes nothing or
meets an empty part (assumption log 3). -/

namespace Sys2Proof

/-- The numbered parts of the K40 that a command can name. -/
inductive PartKind where
  | mailbox | slotWord | template | table | version | homeMap | column | mill | carter | flow | chipPort | inTag
  | spanPort | packetSource | channel | requestSlot | faultEntry | register | stack | hbmChannel | larderBlock | island
  deriving DecidableEq, Repr

/-- How many of each there are: mailbox slots and words of one (R495, R501), template slots (R113), tables (R34), version
slots (R72), home maps (R59), columns and Mills (R154), Carters (spec/01_one_step.md), flows (R456), Chip Data Ports and inbound tags
(R617, R621), Span ports, the places packets come from (the ports and, as the ninth, this node itself, R364) and channels (R351,
R359), READ slots (R369), pending faults (R431), byte offsets up to the end
of the KCP window (R647), stacks and channels of one (R317), Larder blocks of 64 B (R296), islands (R563). -/
def PartKind.count : PartKind → Nat
  | .mailbox => 64
  | .slotWord => 8
  | .template => 512
  | .table => 4096
  | .version => 2
  | .homeMap => 16
  | .column => 40
  | .mill => 32
  | .carter => 48
  | .flow => 16384
  | .chipPort => 8
  | .inTag => 2048
  | .spanPort => 8
  | .packetSource => 9
  | .channel => 8
  | .requestSlot => 16384
  | .faultEntry => 256
  | .register => 16777600
  | .stack => 12
  | .hbmChannel => 32
  | .larderBlock => 402653184
  | .island => 66

/-- The parts a command names. -/
def Instr.parts : Instr → List (PartKind × Nat)
  | .identify slot => [(.mailbox, slot)]
  | .logRead slot _ => [(.mailbox, slot)]
  | .selftest slot => [(.mailbox, slot)]
  | .powerState slot => [(.mailbox, slot)]
  | .wipe slot => [(.mailbox, slot)]
  | .lifecycle slot _ _ => [(.mailbox, slot)]
  | .tableCreate slot _ _ => [(.mailbox, slot)]
  | .tableDescribe slot _ => [(.mailbox, slot)]
  | .tableDestroy slot => [(.mailbox, slot)]
  | .loadStart slot _ => [(.mailbox, slot)]
  | .loadRows slot _ => [(.mailbox, slot)]
  | .loadEnd slot => [(.mailbox, slot)]
  | .switch slot => [(.mailbox, slot)]
  | .rowRestore slot _ => [(.mailbox, slot)]
  | .templateInstall slot _ => [(.mailbox, slot)]
  | .templateInstallComplete tslot => [(.template, tslot)]
  | .ctxSet slot => [(.mailbox, slot)]
  | .segSet slot => [(.mailbox, slot)]
  | .flowConfig slot => [(.mailbox, slot)]
  | .nodeSet slot => [(.mailbox, slot)]
  | .homemapInstall slot _ _ => [(.mailbox, slot)]
  | .routeSet slot _ => [(.mailbox, slot)]
  | .larderPlan slot => [(.mailbox, slot)]
  | .hotsetRefresh slot _ => [(.mailbox, slot)]
  | .deferredConfigExecute slot _ => [(.mailbox, slot)]
  | .stepOpen slot _ => [(.mailbox, slot)]
  | .sealStep slot => [(.mailbox, slot)]
  | .sealDone => []
  | .commit slot => [(.mailbox, slot)]
  | .stepReport slot _ => [(.mailbox, slot)]
  | .ctrConfig slot => [(.mailbox, slot)]
  | .shutter slot => [(.mailbox, slot)]
  | .shutterDone _ _ => []
  | .unshutter slot => [(.mailbox, slot)]
  | .marginReport slot _ _ => [(.mailbox, slot)]
  | .replan slot => [(.mailbox, slot)]
  | .mbxDoorbell _ => []
  | .mbxSlotWrite slot word _ => [(.mailbox, slot), (.slotWord, word)]
  | .mbxRespHeadWrite _ => []
  | .mbxRingConfigWrite _ _ => []
  | .commandTake => []
  | .responseWrite => []
  | .clerkBeat => []
  | .heartbeatIntervalEnd => []
  | .clerkSramUncorrectable => []
  | .wchNop _ => []
  | .dumpLog _ => []
  | .haltClerk _ => []
  | .writeCo _ => []
  | .restartClerk _ => []
  | .wchRecoveryReset _ => []
  | .forceHeld _ => []
  | .gblResetCold _ => []
  | .gblResetRecovery _ => []
  | .gblResetClerkOnly _ => []
  | .cmbResetRequest => []
  | .resetTakeHold => []
  | .recoveryComplete => []
  | .porAssert => []
  | .porRelease => []
  | .rstNFall => []
  | .rstNRelease => []
  | .refclkLoss => []
  | .railFault => []
  | .clerkSecureBoot _ _ => []
  | .selftestSequenceDone _ => []
  | .powerTransitionDone _ => []
  | .tileSave col mill => [(.column, col), (.mill, mill)]
  | .tileRestore col mill => [(.column, col), (.mill, mill)]
  | .pedlarPush port ctag _ _ => [(.chipPort, port), (.inTag, ctag)]
  | .pedlarPop port ctag _ => [(.chipPort, port), (.inTag, ctag)]
  | .pedlarProbe port ctag _ => [(.chipPort, port), (.inTag, ctag)]
  | .subSubmit _ => []
  | .runAdmit flow _ _ => [(.flow, flow)]
  | .transferAdmit flow _ _ => [(.flow, flow)]
  | .replacedItemEnd flow _ => [(.flow, flow)]
  | .bagGroupDispatch _ col => [(.column, col)]
  | .distributorForward _ _ => []
  | .carterChunk carter _ _ => [(.carter, carter)]
  | .bagStart col mill _ _ => [(.column, col), (.mill, mill)]
  | .rowReadIssue col mill => [(.column, col), (.mill, mill)]
  | .homeRowRead _ => []
  | .rowArrive col mill _ => [(.column, col), (.mill, mill)]
  | .sieveWindowClose col => [(.column, col)]
  | .bagPoolEnd col mill _ => [(.column, col), (.mill, mill)]
  | .tileDrain col mill => [(.column, col), (.mill, mill)]
  | .runRecordWrite _ _ => []
  | .transferRecordWrite _ _ => []
  | .backwardContribution col mill _ => [(.column, col), (.mill, mill)]
  | .mergeFlush col => [(.column, col)]
  | .backwardStreamIdle col => [(.column, col)]
  | .partialEnqueue => []
  | .foldHoldExpire port _ => [(.spanPort, port)]
  | .ledgerFold _ _ => []
  | .journalFlushDone => []
  | .applyUnit _ => []
  | .promotionReceive => []
  | .spillScan => []
  | .shelfEvaluate tid _ => [(.table, tid)]
  | .shelfRebuild tid slot _ _ => [(.table, tid), (.version, slot)]
  | .commitDone _ => []
  | .rowMoveComplete _ => []
  | .commitNoticeReceive col => [(.column, col)]
  | .linkTraining port _ _ _ => [(.spanPort, port)]
  | .linkBringupExchange port _ => [(.spanPort, port)]
  | .flitReceive port _ => [(.spanPort, port)]
  | .nakReceive port _ => [(.spanPort, port)]
  | .linkRetrainDone port _ => [(.spanPort, port)]
  | .recoverRetrainTimeout port => [(.spanPort, port)]
  | .lquery port _ _ => [(.packetSource, port)]
  | .lstate port _ _ => [(.packetSource, port)]
  | .lqueryTimeout port => [(.spanPort, port)]
  | .packetSend port chan _ => [(.spanPort, port), (.channel, chan)]
  | .read port _ _ => [(.packetSource, port)]
  | .row port _ _ => [(.packetSource, port)]
  | .promote port _ _ => [(.packetSource, port)]
  | .notice port _ _ => [(.packetSource, port)]
  | .absent port _ _ => [(.packetSource, port)]
  | .part port _ _ => [(.packetSource, port)]
  | .update port _ _ => [(.packetSource, port)]
  | .mark port _ _ => [(.packetSource, port)]
  | .remoteReadTimeout tagSlot => [(.requestSlot, tagSlot)]
  | .promoteResend col _ => [(.column, col)]
  | .migrationReadIssue map => [(.homeMap, map)]
  | .migrationReadRetry _ => []
  | .xltInval _ => []
  | .invalTakeEffect => []
  | .rangeRetranslate _ _ _ => []
  | .invalAck => []
  | .faultRaise => []
  | .faultRecordWrite => []
  | .faultReplyReplay _ => []
  | .faultReplyAbort _ => []
  | .faultOverdue pend => [(.faultEntry, pend)]
  | .fltRingHeadWrite _ => []
  | .fltRingConfigWrite _ _ => []
  | .fltStatusClear _ => []
  | .streamTailTimeout flow => [(.flow, flow)]
  | .flowTimeout flow => [(.flow, flow)]
  | .qhSplitWrite _ => []
  | .qhTimeoutWrite _ => []
  | .qhCellUncorrectable _ => []
  | .rdData port _ _ => [(.chipPort, port)]
  | .wrAck port _ => [(.chipPort, port)]
  | .cdpHeaderDiscard port _ => [(.chipPort, port)]
  | .cdpReadyChange port _ _ => [(.chipPort, port)]
  | .cdpCreditReturn port _ _ => [(.chipPort, port)]
  | .hbmThermalSample stack _ => [(.stack, stack)]
  | .hbmRefresh stack chan _ => [(.stack, stack), (.hbmChannel, chan)]
  | .hbmPatrol _ _ _ => []
  | .hbmReadUncorrectable _ _ => []
  | .larderPatrol block _ => [(.larderBlock, block)]
  | .larderReadUncorrectable block _ => [(.larderBlock, block)]
  | .hbmTempWrite stack _ => [(.stack, stack)]
  | .hbmHintCfgWrite stack _ => [(.stack, stack)]
  | .test1500LoadInstr stack _ _ => [(.stack, stack)]
  | .test1500ShiftData stack _ _ => [(.stack, stack)]
  | .marginSample ins => ins.map (fun x => (.island, x.island))
  | .readerVisit incs => incs.map (fun x => (.island, x.island))
  | .dumpPeriodEnd incs => incs.map (fun x => (.island, x.island))
  | .ctrModeWrite _ => []
  | .ctrFreezeWrite _ incs => incs.map (fun x => (.island, x.island))
  | .ctrDumpPeriodWrite _ => []
  | .ctrSampleWrite _ => []
  | .sampleRecordWrite _ _ => []
  | .mclIdleCauseClear col _ => [(.column, col)]
  | .asyClear _ => []
  | .ldgLatePolicyWrite _ => []
  | .gblEventWrite _ => []
  | .gblEventEnWrite off _ => [(.register, off)]
  | .gblMsiAddrWrite _ => []
  | .registerWrite off _ => [(.register, off)]
  | .spanRxElectricalIdle port => [(.spanPort, port)]
  | .lastRxExpire port => [(.spanPort, port)]

/-- Every list of a reader visit's increases covers the eight counters of an island (R594) and at most the nine idle
causes of a column (R609). -/
def IslandInc.wellFormed (x : IslandInc) : Bool := x.adds.length == 8 && x.idle.length ≤ 9

/-- A symbol lies in one of the two bursts, on one of the 36 lanes, and is a byte (R318). -/
def SymErr.wellFormed (e : SymErr) : Bool := decide (e.burst < 2) && decide (e.lane < 36) && decide (e.bits < 256)

/-- The symbols of a codeword received wrong are symbols of it. -/
def CwErr.wellFormed (e : CwErr) : Bool := e.syms.all SymErr.wellFormed

/-- The lists that a command carries have the lengths the manual gives: 240 B of flit payload (R355), data of a Pedlar request
in whole cells of 64 B (R467), symbols of an HBM codeword (R318), sixteen monitors to an island (R565), eight counters (R594). -/
def Instr.shapeOk : Instr → Bool
  | .identify _ => true
  | .logRead _ _ => true
  | .selftest _ => true
  | .powerState _ => true
  | .wipe _ => true
  | .lifecycle _ _ _ => true
  | .tableCreate _ _ _ => true
  | .tableDescribe _ _ => true
  | .tableDestroy _ => true
  | .loadStart _ _ => true
  | .loadRows _ _ => true
  | .loadEnd _ => true
  | .switch _ => true
  | .rowRestore _ _ => true
  | .templateInstall _ _ => true
  | .templateInstallComplete _ => true
  | .ctxSet _ => true
  | .segSet _ => true
  | .flowConfig _ => true
  | .nodeSet _ => true
  | .homemapInstall _ _ _ => true
  | .routeSet _ _ => true
  | .larderPlan _ => true
  | .hotsetRefresh _ _ => true
  | .deferredConfigExecute _ _ => true
  | .stepOpen _ _ => true
  | .sealStep _ => true
  | .sealDone => true
  | .commit _ => true
  | .stepReport _ _ => true
  | .ctrConfig _ => true
  | .shutter _ => true
  | .shutterDone _ _ => true
  | .unshutter _ => true
  | .marginReport _ _ _ => true
  | .replan _ => true
  | .mbxDoorbell _ => true
  | .mbxSlotWrite _ _ _ => true
  | .mbxRespHeadWrite _ => true
  | .mbxRingConfigWrite _ _ => true
  | .commandTake => true
  | .responseWrite => true
  | .clerkBeat => true
  | .heartbeatIntervalEnd => true
  | .clerkSramUncorrectable => true
  | .wchNop _ => true
  | .dumpLog _ => true
  | .haltClerk _ => true
  | .writeCo _ => true
  | .restartClerk _ => true
  | .wchRecoveryReset _ => true
  | .forceHeld _ => true
  | .gblResetCold _ => true
  | .gblResetRecovery _ => true
  | .gblResetClerkOnly _ => true
  | .cmbResetRequest => true
  | .resetTakeHold => true
  | .recoveryComplete => true
  | .porAssert => true
  | .porRelease => true
  | .rstNFall => true
  | .rstNRelease => true
  | .refclkLoss => true
  | .railFault => true
  | .clerkSecureBoot _ _ => true
  | .selftestSequenceDone _ => true
  | .powerTransitionDone _ => true
  | .tileSave _ _ => true
  | .tileRestore _ _ => true
  | .pedlarPush _ _ _ data => data.length % 8 == 0
  | .pedlarPop _ _ _ => true
  | .pedlarProbe _ _ _ => true
  | .subSubmit _ => true
  | .runAdmit _ _ _ => true
  | .transferAdmit _ _ _ => true
  | .replacedItemEnd _ _ => true
  | .bagGroupDispatch _ _ => true
  | .distributorForward _ _ => true
  | .carterChunk _ _ chunk => chunk.errs.all CwErr.wellFormed
  | .bagStart _ _ _ _ => true
  | .rowReadIssue _ _ => true
  | .homeRowRead r => r.errs.all CwErr.wellFormed
  | .rowArrive _ _ _ => true
  | .sieveWindowClose _ => true
  | .bagPoolEnd _ _ _ => true
  | .tileDrain _ _ => true
  | .runRecordWrite _ _ => true
  | .transferRecordWrite _ _ => true
  | .backwardContribution _ _ _ => true
  | .mergeFlush _ => true
  | .backwardStreamIdle _ => true
  | .partialEnqueue => true
  | .foldHoldExpire _ _ => true
  | .ledgerFold _ _ => true
  | .journalFlushDone => true
  | .applyUnit u => u.errs.all CwErr.wellFormed
  | .promotionReceive => true
  | .spillScan => true
  | .shelfEvaluate _ _ => true
  | .shelfRebuild _ _ _ _ => true
  | .commitDone _ => true
  | .rowMoveComplete _ => true
  | .commitNoticeReceive _ => true
  | .linkTraining _ _ _ _ => true
  | .linkBringupExchange _ _ => true
  | .flitReceive _ f => f.payload.length == 240
  | .nakReceive _ _ => true
  | .linkRetrainDone _ _ => true
  | .recoverRetrainTimeout _ => true
  | .lquery _ _ _ => true
  | .lstate _ _ _ => true
  | .lqueryTimeout _ => true
  | .packetSend _ _ _ => true
  | .read _ _ _ => true
  | .row _ _ _ => true
  | .promote _ _ _ => true
  | .notice _ _ _ => true
  | .absent _ _ _ => true
  | .part _ _ _ => true
  | .update _ _ _ => true
  | .mark _ _ _ => true
  | .remoteReadTimeout _ => true
  | .promoteResend _ _ => true
  | .migrationReadIssue _ => true
  | .migrationReadRetry _ => true
  | .xltInval _ => true
  | .invalTakeEffect => true
  | .rangeRetranslate _ _ _ => true
  | .invalAck => true
  | .faultRaise => true
  | .faultRecordWrite => true
  | .faultReplyReplay _ => true
  | .faultReplyAbort _ => true
  | .faultOverdue _ => true
  | .fltRingHeadWrite _ => true
  | .fltRingConfigWrite _ _ => true
  | .fltStatusClear _ => true
  | .streamTailTimeout _ => true
  | .flowTimeout _ => true
  | .qhSplitWrite _ => true
  | .qhTimeoutWrite _ => true
  | .qhCellUncorrectable _ => true
  | .rdData _ _ _ => true
  | .wrAck _ _ => true
  | .cdpHeaderDiscard _ _ => true
  | .cdpReadyChange _ _ _ => true
  | .cdpCreditReturn _ _ _ => true
  | .hbmThermalSample _ _ => true
  | .hbmRefresh _ _ _ => true
  | .hbmPatrol _ syms _ => syms.all SymErr.wellFormed
  | .hbmReadUncorrectable e _ => e.wellFormed
  | .larderPatrol _ _ => true
  | .larderReadUncorrectable _ _ => true
  | .hbmTempWrite _ _ => true
  | .hbmHintCfgWrite _ _ => true
  | .test1500LoadInstr _ _ _ => true
  | .test1500ShiftData _ _ _ => true
  | .marginSample ins => ins.all (fun x => x.margins.length == 16)
  | .readerVisit incs => incs.all IslandInc.wellFormed
  | .dumpPeriodEnd incs => incs.all IslandInc.wellFormed
  | .ctrModeWrite _ => true
  | .ctrFreezeWrite _ incs => incs.all IslandInc.wellFormed
  | .ctrDumpPeriodWrite _ => true
  | .ctrSampleWrite _ => true
  | .sampleRecordWrite _ _ => true
  | .mclIdleCauseClear _ _ => true
  | .asyClear _ => true
  | .ldgLatePolicyWrite _ => true
  | .gblEventWrite _ => true
  | .gblEventEnWrite _ _ => true
  | .gblMsiAddrWrite _ => true
  | .registerWrite _ _ => true
  | .spanRxElectricalIdle _ => true
  | .lastRxExpire _ => true

/-- A well-formed command. -/
def Instr.wellFormed (i : Instr) : Bool := i.parts.all (fun p => p.2 < p.1.count) && i.shapeOk

end Sys2Proof
end

