-- ==== Sys2Proof/Laws/PerInstr.lean ====
section
/-! SUPPORT. What every command's syntax satisfies, constructor by constructor: a well-formed command names only parts that the
K40 has. -/

namespace Sys2Proof.Laws.Shape

open Sys2Proof

/-- A well-formed command names only parts that the K40 has. -/
def Statement (i : Instr) : Prop := i.wellFormed = true → ∀ p ∈ i.parts, p.2 < p.1.count

theorem of_wellFormed (i : Instr) : Statement i := by
  intro h p hp
  unfold Instr.wellFormed at h
  rw [Bool.and_eq_true, List.all_eq_true] at h
  simpa using h.1 p hp

theorem identify (slot : Nat) : Statement (.identify slot) := of_wellFormed _
theorem logRead (slot : Nat) (v : ChipView) : Statement (.logRead slot v) := of_wellFormed _
theorem selftest (slot : Nat) : Statement (.selftest slot) := of_wellFormed _
theorem powerState (slot : Nat) : Statement (.powerState slot) := of_wellFormed _
theorem wipe (slot : Nat) : Statement (.wipe slot) := of_wellFormed _
theorem lifecycle (slot : Nat) (v : ChipView) (sigOk : Bool) : Statement (.lifecycle slot v sigOk) := of_wellFormed _
theorem tableCreate (slot : Nat) (v : ChipView) (place : Placement) : Statement (.tableCreate slot v place) := of_wellFormed _
theorem tableDescribe (slot : Nat) (v : ChipView) : Statement (.tableDescribe slot v) := of_wellFormed _
theorem tableDestroy (slot : Nat) : Statement (.tableDestroy slot) := of_wellFormed _
theorem loadStart (slot : Nat) (place : Placement) : Statement (.loadStart slot place) := of_wellFormed _
theorem loadRows (slot : Nat) (v : ChipView) : Statement (.loadRows slot v) := of_wellFormed _
theorem loadEnd (slot : Nat) : Statement (.loadEnd slot) := of_wellFormed _
theorem switch (slot : Nat) : Statement (.switch slot) := of_wellFormed _
theorem rowRestore (slot : Nat) (v : ChipView) : Statement (.rowRestore slot v) := of_wellFormed _
theorem templateInstall (slot : Nat) (v : ChipView) : Statement (.templateInstall slot v) := of_wellFormed _
theorem templateInstallComplete (tslot : Nat) : Statement (.templateInstallComplete tslot) := of_wellFormed _
theorem ctxSet (slot : Nat) : Statement (.ctxSet slot) := of_wellFormed _
theorem segSet (slot : Nat) : Statement (.segSet slot) := of_wellFormed _
theorem flowConfig (slot : Nat) : Statement (.flowConfig slot) := of_wellFormed _
theorem nodeSet (slot : Nat) : Statement (.nodeSet slot) := of_wellFormed _
theorem homemapInstall (slot : Nat) (v : ChipView) (room : MapRoom) : Statement (.homemapInstall slot v room) := of_wellFormed _
theorem routeSet (slot : Nat) (v : ChipView) : Statement (.routeSet slot v) := of_wellFormed _
theorem larderPlan (slot : Nat) : Statement (.larderPlan slot) := of_wellFormed _
theorem hotsetRefresh (slot : Nat) (v : ChipView) : Statement (.hotsetRefresh slot v) := of_wellFormed _
theorem deferredConfigExecute (slot : Nat) (v : ChipView) : Statement (.deferredConfigExecute slot v) := of_wellFormed _
theorem stepOpen (slot : Nat) (v : ChipView) : Statement (.stepOpen slot v) := of_wellFormed _
theorem sealStep (slot : Nat) : Statement (.sealStep slot) := of_wellFormed _
theorem sealDone : Statement (.sealDone) := of_wellFormed _
theorem commit (slot : Nat) : Statement (.commit slot) := of_wellFormed _
theorem stepReport (slot : Nat) (v : ChipView) : Statement (.stepReport slot v) := of_wellFormed _
theorem ctrConfig (slot : Nat) : Statement (.ctrConfig slot) := of_wellFormed _
theorem shutter (slot : Nat) : Statement (.shutter slot) := of_wellFormed _
theorem shutterDone (idx : Nat) (us : Nat) : Statement (.shutterDone idx us) := of_wellFormed _
theorem unshutter (slot : Nat) : Statement (.unshutter slot) := of_wellFormed _
theorem marginReport (slot : Nat) (volts : List Nat) (mhz : Nat) : Statement (.marginReport slot volts mhz) := of_wellFormed _
theorem replan (slot : Nat) : Statement (.replan slot) := of_wellFormed _
theorem mbxDoorbell (val : W64) : Statement (.mbxDoorbell val) := of_wellFormed _
theorem mbxSlotWrite (slot : Nat) (word : Nat) (val : W64) : Statement (.mbxSlotWrite slot word val) := of_wellFormed _
theorem mbxRespHeadWrite (val : W64) : Statement (.mbxRespHeadWrite val) := of_wellFormed _
theorem mbxRingConfigWrite (size : Bool) (val : W64) : Statement (.mbxRingConfigWrite size val) := of_wellFormed _
theorem commandTake : Statement (.commandTake) := of_wellFormed _
theorem responseWrite : Statement (.responseWrite) := of_wellFormed _
theorem clerkBeat : Statement (.clerkBeat) := of_wellFormed _
theorem heartbeatIntervalEnd : Statement (.heartbeatIntervalEnd) := of_wellFormed _
theorem clerkSramUncorrectable : Statement (.clerkSramUncorrectable) := of_wellFormed _
theorem wchNop (val : W64) : Statement (.wchNop val) := of_wellFormed _
theorem dumpLog (val : W64) : Statement (.dumpLog val) := of_wellFormed _
theorem haltClerk (val : W64) : Statement (.haltClerk val) := of_wellFormed _
theorem writeCo (val : W64) : Statement (.writeCo val) := of_wellFormed _
theorem restartClerk (val : W64) : Statement (.restartClerk val) := of_wellFormed _
theorem wchRecoveryReset (val : W64) : Statement (.wchRecoveryReset val) := of_wellFormed _
theorem forceHeld (val : W64) : Statement (.forceHeld val) := of_wellFormed _
theorem gblResetCold (val : W64) : Statement (.gblResetCold val) := of_wellFormed _
theorem gblResetRecovery (val : W64) : Statement (.gblResetRecovery val) := of_wellFormed _
theorem gblResetClerkOnly (val : W64) : Statement (.gblResetClerkOnly val) := of_wellFormed _
theorem cmbResetRequest : Statement (.cmbResetRequest) := of_wellFormed _
theorem resetTakeHold : Statement (.resetTakeHold) := of_wellFormed _
theorem recoveryComplete : Statement (.recoveryComplete) := of_wellFormed _
theorem porAssert : Statement (.porAssert) := of_wellFormed _
theorem porRelease : Statement (.porRelease) := of_wellFormed _
theorem rstNFall : Statement (.rstNFall) := of_wellFormed _
theorem rstNRelease : Statement (.rstNRelease) := of_wellFormed _
theorem refclkLoss : Statement (.refclkLoss) := of_wellFormed _
theorem railFault : Statement (.railFault) := of_wellFormed _
theorem clerkSecureBoot (ok : Bool) (img : ImageHdr) : Statement (.clerkSecureBoot ok img) := of_wellFormed _
theorem selftestSequenceDone (res : BistResult) : Statement (.selftestSequenceDone res) := of_wellFormed _
theorem powerTransitionDone (us : Nat) : Statement (.powerTransitionDone us) := of_wellFormed _
theorem tileSave (col : Nat) (mill : Nat) : Statement (.tileSave col mill) := of_wellFormed _
theorem tileRestore (col : Nat) (mill : Nat) : Statement (.tileRestore col mill) := of_wellFormed _
theorem pedlarPush (port : Nat) (ctag : Nat) (hdr : W64) (data : List W64) : Statement (.pedlarPush port ctag hdr data) := of_wellFormed _
theorem pedlarPop (port : Nat) (ctag : Nat) (req : PopReq) : Statement (.pedlarPop port ctag req) := of_wellFormed _
theorem pedlarProbe (port : Nat) (ctag : Nat) (hdr : W64) : Statement (.pedlarProbe port ctag hdr) := of_wellFormed _
theorem subSubmit (val : W64) : Statement (.subSubmit val) := of_wellFormed _
theorem runAdmit (flow : Nat) (duration : Nat) (v : ChipView) : Statement (.runAdmit flow duration v) := of_wellFormed _
theorem transferAdmit (flow : Nat) (duration : Nat) (v : ChipView) : Statement (.transferAdmit flow duration v) := of_wellFormed _
theorem replacedItemEnd (flow : Nat) (duration : Nat) : Statement (.replacedItemEnd flow duration) := of_wellFormed _
theorem bagGroupDispatch (ord : Nat) (col : Nat) : Statement (.bagGroupDispatch ord col) := of_wellFormed _
theorem distributorForward (ord : Nat) (group : Nat) : Statement (.distributorForward ord group) := of_wellFormed _
theorem carterChunk (carter : Nat) (ord : Nat) (chunk : ChunkIn) : Statement (.carterChunk carter ord chunk) := of_wellFormed _
theorem bagStart (col : Nat) (mill : Nat) (ord : Nat) (b : BagIn) : Statement (.bagStart col mill ord b) := of_wellFormed _
theorem rowReadIssue (col : Nat) (mill : Nat) : Statement (.rowReadIssue col mill) := of_wellFormed _
theorem homeRowRead (r : HomeReadIn) : Statement (.homeRowRead r) := of_wellFormed _
theorem rowArrive (col : Nat) (mill : Nat) (a : ArriveIn) : Statement (.rowArrive col mill a) := of_wellFormed _
theorem sieveWindowClose (col : Nat) : Statement (.sieveWindowClose col) := of_wellFormed _
theorem bagPoolEnd (col : Nat) (mill : Nat) (tile : TileIn) : Statement (.bagPoolEnd col mill tile) := of_wellFormed _
theorem tileDrain (col : Nat) (mill : Nat) : Statement (.tileDrain col mill) := of_wellFormed _
theorem runRecordWrite (ord : Nat) (duration : Nat) : Statement (.runRecordWrite ord duration) := of_wellFormed _
theorem transferRecordWrite (ord : Nat) (duration : Nat) : Statement (.transferRecordWrite ord duration) := of_wellFormed _
theorem backwardContribution (col : Nat) (mill : Nat) (ue : Bool) : Statement (.backwardContribution col mill ue) := of_wellFormed _
theorem mergeFlush (col : Nat) : Statement (.mergeFlush col) := of_wellFormed _
theorem backwardStreamIdle (col : Nat) : Statement (.backwardStreamIdle col) := of_wellFormed _
theorem partialEnqueue : Statement (.partialEnqueue) := of_wellFormed _
theorem foldHoldExpire (port : Nat) (idx : Nat) : Statement (.foldHoldExpire port idx) := of_wellFormed _
theorem ledgerFold (pos : Nat) (ue : Bool) : Statement (.ledgerFold pos ue) := of_wellFormed _
theorem journalFlushDone : Statement .journalFlushDone := of_wellFormed _
theorem applyUnit (u : UnitIn) : Statement (.applyUnit u) := of_wellFormed _
theorem promotionReceive : Statement (.promotionReceive) := of_wellFormed _
theorem spillScan : Statement (.spillScan) := of_wellFormed _
theorem shelfEvaluate (tid : Nat) (shelf : Nat) : Statement (.shelfEvaluate tid shelf) := of_wellFormed _
theorem shelfRebuild (tid : Nat) (slot : Nat) (shelf : Nat) (newShelf : Nat) : Statement (.shelfRebuild tid slot shelf newShelf) := of_wellFormed _
theorem commitDone (duration : Nat) : Statement (.commitDone duration) := of_wellFormed _
theorem rowMoveComplete (idx : Nat) : Statement (.rowMoveComplete idx) := of_wellFormed _
theorem commitNoticeReceive (col : Nat) : Statement (.commitNoticeReceive col) := of_wellFormed _
theorem linkTraining (port : Nat) (txFail : Nat) (rxFail : Nat) (lane : Nat) : Statement (.linkTraining port txFail rxFail lane) := of_wellFormed _
theorem linkBringupExchange (port : Nat) (x : Option LinkExchange) : Statement (.linkBringupExchange port x) := of_wellFormed _
theorem flitReceive (port : Nat) (f : Flit) : Statement (.flitReceive port f) := of_wellFormed _
theorem nakReceive (port : Nat) (ack : Nat) : Statement (.nakReceive port ack) := of_wellFormed _
theorem linkRetrainDone (port : Nat) (r : RetrainIn) : Statement (.linkRetrainDone port r) := of_wellFormed _
theorem recoverRetrainTimeout (port : Nat) : Statement (.recoverRetrainTimeout port) := of_wellFormed _
theorem lquery (port : Nat) (h : PktHdr) (p : LinkPkt) : Statement (.lquery port h p) := of_wellFormed _
theorem lstate (port : Nat) (h : PktHdr) (p : LinkPkt) : Statement (.lstate port h p) := of_wellFormed _
theorem lqueryTimeout (port : Nat) : Statement (.lqueryTimeout port) := of_wellFormed _
theorem packetSend (port : Nat) (chan : Nat) (idx : Nat) : Statement (.packetSend port chan idx) := of_wellFormed _
theorem read (port : Nat) (h : PktHdr) (p : ReadPkt) : Statement (.read port h p) := of_wellFormed _
theorem row (port : Nat) (h : PktHdr) (p : RowPkt) : Statement (.row port h p) := of_wellFormed _
theorem promote (port : Nat) (h : PktHdr) (p : KeyPkt) : Statement (.promote port h p) := of_wellFormed _
theorem notice (port : Nat) (h : PktHdr) (p : KeyPkt) : Statement (.notice port h p) := of_wellFormed _
theorem absent (port : Nat) (h : PktHdr) (p : AbsentPkt) : Statement (.absent port h p) := of_wellFormed _
theorem part (port : Nat) (h : PktHdr) (p : PartialPkt) : Statement (.part port h p) := of_wellFormed _
theorem update (port : Nat) (h : PktHdr) (p : UpdatePkt) : Statement (.update port h p) := of_wellFormed _
theorem mark (port : Nat) (h : PktHdr) (p : MarkPkt) : Statement (.mark port h p) := of_wellFormed _
theorem remoteReadTimeout (tagSlot : Nat) : Statement (.remoteReadTimeout tagSlot) := of_wellFormed _
theorem promoteResend (col : Nat) (idx : Nat) : Statement (.promoteResend col idx) := of_wellFormed _
theorem migrationReadIssue (map : Nat) : Statement (.migrationReadIssue map) := of_wellFormed _
theorem migrationReadRetry (idx : Nat) : Statement (.migrationReadRetry idx) := of_wellFormed _
theorem xltInval (val : W64) : Statement (.xltInval val) := of_wellFormed _
theorem invalTakeEffect : Statement (.invalTakeEffect) := of_wellFormed _
theorem rangeRetranslate (ord : Nat) (stream : Nat) (v : ChipView) : Statement (.rangeRetranslate ord stream v) := of_wellFormed _
theorem invalAck : Statement (.invalAck) := of_wellFormed _
theorem faultRaise : Statement (.faultRaise) := of_wellFormed _
theorem faultRecordWrite : Statement (.faultRecordWrite) := of_wellFormed _
theorem faultReplyReplay (val : W64) : Statement (.faultReplyReplay val) := of_wellFormed _
theorem faultReplyAbort (val : W64) : Statement (.faultReplyAbort val) := of_wellFormed _
theorem faultOverdue (pend : Nat) : Statement (.faultOverdue pend) := of_wellFormed _
theorem fltRingHeadWrite (val : W64) : Statement (.fltRingHeadWrite val) := of_wellFormed _
theorem fltRingConfigWrite (size : Bool) (val : W64) : Statement (.fltRingConfigWrite size val) := of_wellFormed _
theorem fltStatusClear (val : W64) : Statement (.fltStatusClear val) := of_wellFormed _
theorem streamTailTimeout (flow : Nat) : Statement (.streamTailTimeout flow) := of_wellFormed _
theorem flowTimeout (flow : Nat) : Statement (.flowTimeout flow) := of_wellFormed _
theorem qhSplitWrite (val : W64) : Statement (.qhSplitWrite val) := of_wellFormed _
theorem qhTimeoutWrite (val : W64) : Statement (.qhTimeoutWrite val) := of_wellFormed _
theorem qhCellUncorrectable (spot : CellSpot) : Statement (.qhCellUncorrectable spot) := of_wellFormed _
theorem rdData (port : Nat) (hdr : W64) (data : List Byte) : Statement (.rdData port hdr data) := of_wellFormed _
theorem wrAck (port : Nat) (hdr : W64) : Statement (.wrAck port hdr) := of_wellFormed _
theorem cdpHeaderDiscard (port : Nat) (hdr : W64) : Statement (.cdpHeaderDiscard port hdr) := of_wellFormed _
theorem cdpReadyChange (port : Nat) (kRdy : Bool) (sRdy : Bool) : Statement (.cdpReadyChange port kRdy sRdy) := of_wellFormed _
theorem cdpCreditReturn (port : Nat) (header : Bool) (data : Bool) : Statement (.cdpCreditReturn port header data) := of_wellFormed _
theorem hbmThermalSample (stack : Nat) (temp : Nat) : Statement (.hbmThermalSample stack temp) := of_wellFormed _
theorem hbmRefresh (stack : Nat) (chan : Nat) (bank : Nat) : Statement (.hbmRefresh stack chan bank) := of_wellFormed _
theorem hbmPatrol (cw : Nat) (syms : List SymErr) (written : Bool) : Statement (.hbmPatrol cw syms written) := of_wellFormed _
theorem hbmReadUncorrectable (e : CwErr) (who : HbmReader) : Statement (.hbmReadUncorrectable e who) := of_wellFormed _
theorem larderPatrol (block : Nat) (wrong : Nat) : Statement (.larderPatrol block wrong) := of_wellFormed _
theorem larderReadUncorrectable (block : Nat) (spot : LarderSpot) : Statement (.larderReadUncorrectable block spot) := of_wellFormed _
theorem hbmTempWrite (stack : Nat) (val : W64) : Statement (.hbmTempWrite stack val) := of_wellFormed _
theorem hbmHintCfgWrite (stack : Nat) (val : W64) : Statement (.hbmHintCfgWrite stack val) := of_wellFormed _
theorem test1500LoadInstr (stack : Nat) (val : W64) (hard : Bool) : Statement (.test1500LoadInstr stack val hard) := of_wellFormed _
theorem test1500ShiftData (stack : Nat) (val : W64) (captured : W32) : Statement (.test1500ShiftData stack val captured) := of_wellFormed _
theorem marginSample (ins : List MarginIn) : Statement (.marginSample ins) := of_wellFormed _
theorem readerVisit (incs : List IslandInc) : Statement (.readerVisit incs) := of_wellFormed _
theorem dumpPeriodEnd (incs : List IslandInc) : Statement (.dumpPeriodEnd incs) := of_wellFormed _
theorem ctrModeWrite (val : W64) : Statement (.ctrModeWrite val) := of_wellFormed _
theorem ctrFreezeWrite (val : W64) (incs : List IslandInc) : Statement (.ctrFreezeWrite val incs) := of_wellFormed _
theorem ctrDumpPeriodWrite (val : W64) : Statement (.ctrDumpPeriodWrite val) := of_wellFormed _
theorem ctrSampleWrite (val : W64) : Statement (.ctrSampleWrite val) := of_wellFormed _
theorem sampleRecordWrite (idx : Nat) (times : List Nat) : Statement (.sampleRecordWrite idx times) := of_wellFormed _
theorem mclIdleCauseClear (col : Nat) (val : W64) : Statement (.mclIdleCauseClear col val) := of_wellFormed _
theorem asyClear (val : W64) : Statement (.asyClear val) := of_wellFormed _
theorem ldgLatePolicyWrite (val : W64) : Statement (.ldgLatePolicyWrite val) := of_wellFormed _
theorem gblEventWrite (val : W64) : Statement (.gblEventWrite val) := of_wellFormed _
theorem gblEventEnWrite (off : Nat) (val : W64) : Statement (.gblEventEnWrite off val) := of_wellFormed _
theorem gblMsiAddrWrite (val : W64) : Statement (.gblMsiAddrWrite val) := of_wellFormed _
theorem registerWrite (off : Nat) (val : W64) : Statement (.registerWrite off val) := of_wellFormed _
theorem spanRxElectricalIdle (port : Nat) : Statement (.spanRxElectricalIdle port) := of_wellFormed _
theorem lastRxExpire (port : Nat) : Statement (.lastRxExpire port) := of_wellFormed _

end Sys2Proof.Laws.Shape
end

