-- ==== Sys2Proof/Laws/State.lean ====
section
/-! SUPPORT. What each named update of one part of the state leaves as it was, field by field. -/

namespace Sys2Proof.Machine

open Sys2Proof

@[simp] theorem post_pending (r : Response) (s : State) : (post r s).pending = s.pending := rfl
@[simp] theorem post_gbl (r : Response) (s : State) : (post r s).gbl = s.gbl := rfl
@[simp] theorem post_clerk (r : Response) (s : State) : (post r s).clerk = s.clerk := rfl
@[simp] theorem post_wch (r : Response) (s : State) : (post r s).wch = s.wch := rfl
@[simp] theorem post_pwr (r : Response) (s : State) : (post r s).pwr = s.pwr := rfl
@[simp] theorem post_tables (r : Response) (s : State) : (post r s).tables = s.tables := rfl
@[simp] theorem post_templates (r : Response) (s : State) : (post r s).templates = s.templates := rfl
@[simp] theorem post_maps (r : Response) (s : State) : (post r s).maps = s.maps := rfl
@[simp] theorem post_moves (r : Response) (s : State) : (post r s).moves = s.moves := rfl
@[simp] theorem post_hbm (r : Response) (s : State) : (post r s).hbm = s.hbm := rfl
@[simp] theorem post_poison (r : Response) (s : State) : (post r s).poison = s.poison := rfl
@[simp] theorem post_xlt (r : Response) (s : State) : (post r s).xlt = s.xlt := rfl
@[simp] theorem post_flt (r : Response) (s : State) : (post r s).flt = s.flt := rfl
@[simp] theorem post_qh (r : Response) (s : State) : (post r s).qh = s.qh := rfl
@[simp] theorem post_cdp (r : Response) (s : State) : (post r s).cdp = s.cdp := rfl
@[simp] theorem post_wire (r : Response) (s : State) : (post r s).wire = s.wire := rfl
@[simp] theorem post_cols (r : Response) (s : State) : (post r s).cols = s.cols := rfl
@[simp] theorem post_ldg (r : Response) (s : State) : (post r s).ldg = s.ldg := rfl
@[simp] theorem post_asy (r : Response) (s : State) : (post r s).asy = s.asy := rfl
@[simp] theorem post_lrd (r : Response) (s : State) : (post r s).lrd = s.lrd := rfl
@[simp] theorem post_hbmStacks (r : Response) (s : State) : (post r s).hbmStacks = s.hbmStacks := rfl
@[simp] theorem post_span (r : Response) (s : State) : (post r s).span = s.span := rfl
@[simp] theorem post_spanWire (r : Response) (s : State) : (post r s).spanWire = s.spanWire := rfl
@[simp] theorem post_ctr (r : Response) (s : State) : (post r s).ctr = s.ctr := rfl
@[simp] theorem post_shutters (r : Response) (s : State) : (post r s).shutters = s.shutters := rfl

@[simp] theorem untake_pending (slot : Nat) (s : State) : (untake slot s).pending = s.pending := rfl
@[simp] theorem untake_gbl (slot : Nat) (s : State) : (untake slot s).gbl = s.gbl := rfl
@[simp] theorem untake_clerk (slot : Nat) (s : State) : (untake slot s).clerk = s.clerk := rfl
@[simp] theorem untake_wch (slot : Nat) (s : State) : (untake slot s).wch = s.wch := rfl
@[simp] theorem untake_pwr (slot : Nat) (s : State) : (untake slot s).pwr = s.pwr := rfl
@[simp] theorem untake_tables (slot : Nat) (s : State) : (untake slot s).tables = s.tables := rfl
@[simp] theorem untake_templates (slot : Nat) (s : State) : (untake slot s).templates = s.templates := rfl
@[simp] theorem untake_maps (slot : Nat) (s : State) : (untake slot s).maps = s.maps := rfl
@[simp] theorem untake_moves (slot : Nat) (s : State) : (untake slot s).moves = s.moves := rfl
@[simp] theorem untake_hbm (slot : Nat) (s : State) : (untake slot s).hbm = s.hbm := rfl
@[simp] theorem untake_poison (slot : Nat) (s : State) : (untake slot s).poison = s.poison := rfl
@[simp] theorem untake_xlt (slot : Nat) (s : State) : (untake slot s).xlt = s.xlt := rfl
@[simp] theorem untake_flt (slot : Nat) (s : State) : (untake slot s).flt = s.flt := rfl
@[simp] theorem untake_qh (slot : Nat) (s : State) : (untake slot s).qh = s.qh := rfl
@[simp] theorem untake_cdp (slot : Nat) (s : State) : (untake slot s).cdp = s.cdp := rfl
@[simp] theorem untake_wire (slot : Nat) (s : State) : (untake slot s).wire = s.wire := rfl
@[simp] theorem untake_cols (slot : Nat) (s : State) : (untake slot s).cols = s.cols := rfl
@[simp] theorem untake_ldg (slot : Nat) (s : State) : (untake slot s).ldg = s.ldg := rfl
@[simp] theorem untake_asy (slot : Nat) (s : State) : (untake slot s).asy = s.asy := rfl
@[simp] theorem untake_lrd (slot : Nat) (s : State) : (untake slot s).lrd = s.lrd := rfl
@[simp] theorem untake_hbmStacks (slot : Nat) (s : State) : (untake slot s).hbmStacks = s.hbmStacks := rfl
@[simp] theorem untake_span (slot : Nat) (s : State) : (untake slot s).span = s.span := rfl
@[simp] theorem untake_spanWire (slot : Nat) (s : State) : (untake slot s).spanWire = s.spanWire := rfl
@[simp] theorem untake_ctr (slot : Nat) (s : State) : (untake slot s).ctr = s.ctr := rfl
@[simp] theorem untake_shutters (slot : Nat) (s : State) : (untake slot s).shutters = s.shutters := rfl

@[simp] theorem holdTaken_pending (slot : Nat) (s : State) : (holdTaken slot s).pending = s.pending := rfl
@[simp] theorem holdTaken_gbl (slot : Nat) (s : State) : (holdTaken slot s).gbl = s.gbl := rfl
@[simp] theorem holdTaken_clerk (slot : Nat) (s : State) : (holdTaken slot s).clerk = s.clerk := rfl
@[simp] theorem holdTaken_wch (slot : Nat) (s : State) : (holdTaken slot s).wch = s.wch := rfl
@[simp] theorem holdTaken_pwr (slot : Nat) (s : State) : (holdTaken slot s).pwr = s.pwr := rfl
@[simp] theorem holdTaken_tables (slot : Nat) (s : State) : (holdTaken slot s).tables = s.tables := rfl
@[simp] theorem holdTaken_templates (slot : Nat) (s : State) : (holdTaken slot s).templates = s.templates := rfl
@[simp] theorem holdTaken_maps (slot : Nat) (s : State) : (holdTaken slot s).maps = s.maps := rfl
@[simp] theorem holdTaken_moves (slot : Nat) (s : State) : (holdTaken slot s).moves = s.moves := rfl
@[simp] theorem holdTaken_hbm (slot : Nat) (s : State) : (holdTaken slot s).hbm = s.hbm := rfl
@[simp] theorem holdTaken_poison (slot : Nat) (s : State) : (holdTaken slot s).poison = s.poison := rfl
@[simp] theorem holdTaken_xlt (slot : Nat) (s : State) : (holdTaken slot s).xlt = s.xlt := rfl
@[simp] theorem holdTaken_flt (slot : Nat) (s : State) : (holdTaken slot s).flt = s.flt := rfl
@[simp] theorem holdTaken_qh (slot : Nat) (s : State) : (holdTaken slot s).qh = s.qh := rfl
@[simp] theorem holdTaken_cdp (slot : Nat) (s : State) : (holdTaken slot s).cdp = s.cdp := rfl
@[simp] theorem holdTaken_wire (slot : Nat) (s : State) : (holdTaken slot s).wire = s.wire := rfl
@[simp] theorem holdTaken_cols (slot : Nat) (s : State) : (holdTaken slot s).cols = s.cols := rfl
@[simp] theorem holdTaken_ldg (slot : Nat) (s : State) : (holdTaken slot s).ldg = s.ldg := rfl
@[simp] theorem holdTaken_asy (slot : Nat) (s : State) : (holdTaken slot s).asy = s.asy := rfl
@[simp] theorem holdTaken_lrd (slot : Nat) (s : State) : (holdTaken slot s).lrd = s.lrd := rfl
@[simp] theorem holdTaken_hbmStacks (slot : Nat) (s : State) : (holdTaken slot s).hbmStacks = s.hbmStacks := rfl
@[simp] theorem holdTaken_span (slot : Nat) (s : State) : (holdTaken slot s).span = s.span := rfl
@[simp] theorem holdTaken_spanWire (slot : Nat) (s : State) : (holdTaken slot s).spanWire = s.spanWire := rfl
@[simp] theorem holdTaken_ctr (slot : Nat) (s : State) : (holdTaken slot s).ctr = s.ctr := rfl
@[simp] theorem holdTaken_shutters (slot : Nat) (s : State) : (holdTaken slot s).shutters = s.shutters := rfl

@[simp] theorem mbxRefuse_pending (s : State) : (mbxRefuse s).pending = s.pending := rfl
@[simp] theorem mbxRefuse_gbl (s : State) : (mbxRefuse s).gbl = s.gbl := rfl
@[simp] theorem mbxRefuse_clerk (s : State) : (mbxRefuse s).clerk = s.clerk := rfl
@[simp] theorem mbxRefuse_wch (s : State) : (mbxRefuse s).wch = s.wch := rfl
@[simp] theorem mbxRefuse_pwr (s : State) : (mbxRefuse s).pwr = s.pwr := rfl
@[simp] theorem mbxRefuse_tables (s : State) : (mbxRefuse s).tables = s.tables := rfl
@[simp] theorem mbxRefuse_templates (s : State) : (mbxRefuse s).templates = s.templates := rfl
@[simp] theorem mbxRefuse_maps (s : State) : (mbxRefuse s).maps = s.maps := rfl
@[simp] theorem mbxRefuse_moves (s : State) : (mbxRefuse s).moves = s.moves := rfl
@[simp] theorem mbxRefuse_hbm (s : State) : (mbxRefuse s).hbm = s.hbm := rfl
@[simp] theorem mbxRefuse_poison (s : State) : (mbxRefuse s).poison = s.poison := rfl
@[simp] theorem mbxRefuse_xlt (s : State) : (mbxRefuse s).xlt = s.xlt := rfl
@[simp] theorem mbxRefuse_flt (s : State) : (mbxRefuse s).flt = s.flt := rfl
@[simp] theorem mbxRefuse_qh (s : State) : (mbxRefuse s).qh = s.qh := rfl
@[simp] theorem mbxRefuse_cdp (s : State) : (mbxRefuse s).cdp = s.cdp := rfl
@[simp] theorem mbxRefuse_wire (s : State) : (mbxRefuse s).wire = s.wire := rfl
@[simp] theorem mbxRefuse_cols (s : State) : (mbxRefuse s).cols = s.cols := rfl
@[simp] theorem mbxRefuse_ldg (s : State) : (mbxRefuse s).ldg = s.ldg := rfl
@[simp] theorem mbxRefuse_asy (s : State) : (mbxRefuse s).asy = s.asy := rfl
@[simp] theorem mbxRefuse_lrd (s : State) : (mbxRefuse s).lrd = s.lrd := rfl
@[simp] theorem mbxRefuse_hbmStacks (s : State) : (mbxRefuse s).hbmStacks = s.hbmStacks := rfl
@[simp] theorem mbxRefuse_span (s : State) : (mbxRefuse s).span = s.span := rfl
@[simp] theorem mbxRefuse_spanWire (s : State) : (mbxRefuse s).spanWire = s.spanWire := rfl
@[simp] theorem mbxRefuse_ctr (s : State) : (mbxRefuse s).ctr = s.ctr := rfl
@[simp] theorem mbxRefuse_shutters (s : State) : (mbxRefuse s).shutters = s.shutters := rfl

@[simp] theorem tableMod_pending (n : Nat) (f : Table → Table) (s : State) : (tableMod n f s).pending = s.pending := by unfold tableMod; split <;> rfl
@[simp] theorem tableMod_gbl (n : Nat) (f : Table → Table) (s : State) : (tableMod n f s).gbl = s.gbl := by unfold tableMod; split <;> rfl
@[simp] theorem tableMod_mbx (n : Nat) (f : Table → Table) (s : State) : (tableMod n f s).mbx = s.mbx := by unfold tableMod; split <;> rfl
@[simp] theorem tableMod_clerk (n : Nat) (f : Table → Table) (s : State) : (tableMod n f s).clerk = s.clerk := by unfold tableMod; split <;> rfl
@[simp] theorem tableMod_wch (n : Nat) (f : Table → Table) (s : State) : (tableMod n f s).wch = s.wch := by unfold tableMod; split <;> rfl
@[simp] theorem tableMod_pwr (n : Nat) (f : Table → Table) (s : State) : (tableMod n f s).pwr = s.pwr := by unfold tableMod; split <;> rfl
@[simp] theorem tableMod_templates (n : Nat) (f : Table → Table) (s : State) : (tableMod n f s).templates = s.templates := by unfold tableMod; split <;> rfl
@[simp] theorem tableMod_maps (n : Nat) (f : Table → Table) (s : State) : (tableMod n f s).maps = s.maps := by unfold tableMod; split <;> rfl
@[simp] theorem tableMod_moves (n : Nat) (f : Table → Table) (s : State) : (tableMod n f s).moves = s.moves := by unfold tableMod; split <;> rfl
@[simp] theorem tableMod_hbm (n : Nat) (f : Table → Table) (s : State) : (tableMod n f s).hbm = s.hbm := by unfold tableMod; split <;> rfl
@[simp] theorem tableMod_poison (n : Nat) (f : Table → Table) (s : State) : (tableMod n f s).poison = s.poison := by unfold tableMod; split <;> rfl
@[simp] theorem tableMod_xlt (n : Nat) (f : Table → Table) (s : State) : (tableMod n f s).xlt = s.xlt := by unfold tableMod; split <;> rfl
@[simp] theorem tableMod_flt (n : Nat) (f : Table → Table) (s : State) : (tableMod n f s).flt = s.flt := by unfold tableMod; split <;> rfl
@[simp] theorem tableMod_qh (n : Nat) (f : Table → Table) (s : State) : (tableMod n f s).qh = s.qh := by unfold tableMod; split <;> rfl
@[simp] theorem tableMod_cdp (n : Nat) (f : Table → Table) (s : State) : (tableMod n f s).cdp = s.cdp := by unfold tableMod; split <;> rfl
@[simp] theorem tableMod_wire (n : Nat) (f : Table → Table) (s : State) : (tableMod n f s).wire = s.wire := by unfold tableMod; split <;> rfl
@[simp] theorem tableMod_cols (n : Nat) (f : Table → Table) (s : State) : (tableMod n f s).cols = s.cols := by unfold tableMod; split <;> rfl
@[simp] theorem tableMod_ldg (n : Nat) (f : Table → Table) (s : State) : (tableMod n f s).ldg = s.ldg := by unfold tableMod; split <;> rfl
@[simp] theorem tableMod_asy (n : Nat) (f : Table → Table) (s : State) : (tableMod n f s).asy = s.asy := by unfold tableMod; split <;> rfl
@[simp] theorem tableMod_lrd (n : Nat) (f : Table → Table) (s : State) : (tableMod n f s).lrd = s.lrd := by unfold tableMod; split <;> rfl
@[simp] theorem tableMod_hbmStacks (n : Nat) (f : Table → Table) (s : State) : (tableMod n f s).hbmStacks = s.hbmStacks := by unfold tableMod; split <;> rfl
@[simp] theorem tableMod_span (n : Nat) (f : Table → Table) (s : State) : (tableMod n f s).span = s.span := by unfold tableMod; split <;> rfl
@[simp] theorem tableMod_spanWire (n : Nat) (f : Table → Table) (s : State) : (tableMod n f s).spanWire = s.spanWire := by unfold tableMod; split <;> rfl
@[simp] theorem tableMod_ctr (n : Nat) (f : Table → Table) (s : State) : (tableMod n f s).ctr = s.ctr := by unfold tableMod; split <;> rfl
@[simp] theorem tableMod_shutters (n : Nat) (f : Table → Table) (s : State) : (tableMod n f s).shutters = s.shutters := by unfold tableMod; split <;> rfl

@[simp] theorem mapMod_pending (n : Nat) (f : HomeMap → HomeMap) (s : State) : (mapMod n f s).pending = s.pending := by unfold mapMod; split <;> rfl
@[simp] theorem mapMod_gbl (n : Nat) (f : HomeMap → HomeMap) (s : State) : (mapMod n f s).gbl = s.gbl := by unfold mapMod; split <;> rfl
@[simp] theorem mapMod_mbx (n : Nat) (f : HomeMap → HomeMap) (s : State) : (mapMod n f s).mbx = s.mbx := by unfold mapMod; split <;> rfl
@[simp] theorem mapMod_clerk (n : Nat) (f : HomeMap → HomeMap) (s : State) : (mapMod n f s).clerk = s.clerk := by unfold mapMod; split <;> rfl
@[simp] theorem mapMod_wch (n : Nat) (f : HomeMap → HomeMap) (s : State) : (mapMod n f s).wch = s.wch := by unfold mapMod; split <;> rfl
@[simp] theorem mapMod_pwr (n : Nat) (f : HomeMap → HomeMap) (s : State) : (mapMod n f s).pwr = s.pwr := by unfold mapMod; split <;> rfl
@[simp] theorem mapMod_tables (n : Nat) (f : HomeMap → HomeMap) (s : State) : (mapMod n f s).tables = s.tables := by unfold mapMod; split <;> rfl
@[simp] theorem mapMod_templates (n : Nat) (f : HomeMap → HomeMap) (s : State) : (mapMod n f s).templates = s.templates := by unfold mapMod; split <;> rfl
@[simp] theorem mapMod_moves (n : Nat) (f : HomeMap → HomeMap) (s : State) : (mapMod n f s).moves = s.moves := by unfold mapMod; split <;> rfl
@[simp] theorem mapMod_hbm (n : Nat) (f : HomeMap → HomeMap) (s : State) : (mapMod n f s).hbm = s.hbm := by unfold mapMod; split <;> rfl
@[simp] theorem mapMod_poison (n : Nat) (f : HomeMap → HomeMap) (s : State) : (mapMod n f s).poison = s.poison := by unfold mapMod; split <;> rfl
@[simp] theorem mapMod_xlt (n : Nat) (f : HomeMap → HomeMap) (s : State) : (mapMod n f s).xlt = s.xlt := by unfold mapMod; split <;> rfl
@[simp] theorem mapMod_flt (n : Nat) (f : HomeMap → HomeMap) (s : State) : (mapMod n f s).flt = s.flt := by unfold mapMod; split <;> rfl
@[simp] theorem mapMod_qh (n : Nat) (f : HomeMap → HomeMap) (s : State) : (mapMod n f s).qh = s.qh := by unfold mapMod; split <;> rfl
@[simp] theorem mapMod_cdp (n : Nat) (f : HomeMap → HomeMap) (s : State) : (mapMod n f s).cdp = s.cdp := by unfold mapMod; split <;> rfl
@[simp] theorem mapMod_wire (n : Nat) (f : HomeMap → HomeMap) (s : State) : (mapMod n f s).wire = s.wire := by unfold mapMod; split <;> rfl
@[simp] theorem mapMod_cols (n : Nat) (f : HomeMap → HomeMap) (s : State) : (mapMod n f s).cols = s.cols := by unfold mapMod; split <;> rfl
@[simp] theorem mapMod_ldg (n : Nat) (f : HomeMap → HomeMap) (s : State) : (mapMod n f s).ldg = s.ldg := by unfold mapMod; split <;> rfl
@[simp] theorem mapMod_asy (n : Nat) (f : HomeMap → HomeMap) (s : State) : (mapMod n f s).asy = s.asy := by unfold mapMod; split <;> rfl
@[simp] theorem mapMod_lrd (n : Nat) (f : HomeMap → HomeMap) (s : State) : (mapMod n f s).lrd = s.lrd := by unfold mapMod; split <;> rfl
@[simp] theorem mapMod_hbmStacks (n : Nat) (f : HomeMap → HomeMap) (s : State) : (mapMod n f s).hbmStacks = s.hbmStacks := by unfold mapMod; split <;> rfl
@[simp] theorem mapMod_span (n : Nat) (f : HomeMap → HomeMap) (s : State) : (mapMod n f s).span = s.span := by unfold mapMod; split <;> rfl
@[simp] theorem mapMod_spanWire (n : Nat) (f : HomeMap → HomeMap) (s : State) : (mapMod n f s).spanWire = s.spanWire := by unfold mapMod; split <;> rfl
@[simp] theorem mapMod_ctr (n : Nat) (f : HomeMap → HomeMap) (s : State) : (mapMod n f s).ctr = s.ctr := by unfold mapMod; split <;> rfl
@[simp] theorem mapMod_shutters (n : Nat) (f : HomeMap → HomeMap) (s : State) : (mapMod n f s).shutters = s.shutters := by unfold mapMod; split <;> rfl

@[simp] theorem ctxMod_pending (n : Nat) (f : Ctx → Ctx) (s : State) : (ctxMod n f s).pending = s.pending := rfl
@[simp] theorem ctxMod_gbl (n : Nat) (f : Ctx → Ctx) (s : State) : (ctxMod n f s).gbl = s.gbl := rfl
@[simp] theorem ctxMod_mbx (n : Nat) (f : Ctx → Ctx) (s : State) : (ctxMod n f s).mbx = s.mbx := rfl
@[simp] theorem ctxMod_clerk (n : Nat) (f : Ctx → Ctx) (s : State) : (ctxMod n f s).clerk = s.clerk := rfl
@[simp] theorem ctxMod_wch (n : Nat) (f : Ctx → Ctx) (s : State) : (ctxMod n f s).wch = s.wch := rfl
@[simp] theorem ctxMod_pwr (n : Nat) (f : Ctx → Ctx) (s : State) : (ctxMod n f s).pwr = s.pwr := rfl
@[simp] theorem ctxMod_tables (n : Nat) (f : Ctx → Ctx) (s : State) : (ctxMod n f s).tables = s.tables := rfl
@[simp] theorem ctxMod_templates (n : Nat) (f : Ctx → Ctx) (s : State) : (ctxMod n f s).templates = s.templates := rfl
@[simp] theorem ctxMod_maps (n : Nat) (f : Ctx → Ctx) (s : State) : (ctxMod n f s).maps = s.maps := rfl
@[simp] theorem ctxMod_moves (n : Nat) (f : Ctx → Ctx) (s : State) : (ctxMod n f s).moves = s.moves := rfl
@[simp] theorem ctxMod_hbm (n : Nat) (f : Ctx → Ctx) (s : State) : (ctxMod n f s).hbm = s.hbm := rfl
@[simp] theorem ctxMod_poison (n : Nat) (f : Ctx → Ctx) (s : State) : (ctxMod n f s).poison = s.poison := rfl
@[simp] theorem ctxMod_flt (n : Nat) (f : Ctx → Ctx) (s : State) : (ctxMod n f s).flt = s.flt := rfl
@[simp] theorem ctxMod_qh (n : Nat) (f : Ctx → Ctx) (s : State) : (ctxMod n f s).qh = s.qh := rfl
@[simp] theorem ctxMod_cdp (n : Nat) (f : Ctx → Ctx) (s : State) : (ctxMod n f s).cdp = s.cdp := rfl
@[simp] theorem ctxMod_wire (n : Nat) (f : Ctx → Ctx) (s : State) : (ctxMod n f s).wire = s.wire := rfl
@[simp] theorem ctxMod_cols (n : Nat) (f : Ctx → Ctx) (s : State) : (ctxMod n f s).cols = s.cols := rfl
@[simp] theorem ctxMod_ldg (n : Nat) (f : Ctx → Ctx) (s : State) : (ctxMod n f s).ldg = s.ldg := rfl
@[simp] theorem ctxMod_asy (n : Nat) (f : Ctx → Ctx) (s : State) : (ctxMod n f s).asy = s.asy := rfl
@[simp] theorem ctxMod_lrd (n : Nat) (f : Ctx → Ctx) (s : State) : (ctxMod n f s).lrd = s.lrd := rfl
@[simp] theorem ctxMod_hbmStacks (n : Nat) (f : Ctx → Ctx) (s : State) : (ctxMod n f s).hbmStacks = s.hbmStacks := rfl
@[simp] theorem ctxMod_span (n : Nat) (f : Ctx → Ctx) (s : State) : (ctxMod n f s).span = s.span := rfl
@[simp] theorem ctxMod_spanWire (n : Nat) (f : Ctx → Ctx) (s : State) : (ctxMod n f s).spanWire = s.spanWire := rfl
@[simp] theorem ctxMod_ctr (n : Nat) (f : Ctx → Ctx) (s : State) : (ctxMod n f s).ctr = s.ctr := rfl
@[simp] theorem ctxMod_shutters (n : Nat) (f : Ctx → Ctx) (s : State) : (ctxMod n f s).shutters = s.shutters := rfl

@[simp] theorem flowMod_pending (n : Nat) (f : Flow → Flow) (s : State) : (flowMod n f s).pending = s.pending := rfl
@[simp] theorem flowMod_gbl (n : Nat) (f : Flow → Flow) (s : State) : (flowMod n f s).gbl = s.gbl := rfl
@[simp] theorem flowMod_mbx (n : Nat) (f : Flow → Flow) (s : State) : (flowMod n f s).mbx = s.mbx := rfl
@[simp] theorem flowMod_clerk (n : Nat) (f : Flow → Flow) (s : State) : (flowMod n f s).clerk = s.clerk := rfl
@[simp] theorem flowMod_wch (n : Nat) (f : Flow → Flow) (s : State) : (flowMod n f s).wch = s.wch := rfl
@[simp] theorem flowMod_pwr (n : Nat) (f : Flow → Flow) (s : State) : (flowMod n f s).pwr = s.pwr := rfl
@[simp] theorem flowMod_tables (n : Nat) (f : Flow → Flow) (s : State) : (flowMod n f s).tables = s.tables := rfl
@[simp] theorem flowMod_templates (n : Nat) (f : Flow → Flow) (s : State) : (flowMod n f s).templates = s.templates := rfl
@[simp] theorem flowMod_maps (n : Nat) (f : Flow → Flow) (s : State) : (flowMod n f s).maps = s.maps := rfl
@[simp] theorem flowMod_moves (n : Nat) (f : Flow → Flow) (s : State) : (flowMod n f s).moves = s.moves := rfl
@[simp] theorem flowMod_hbm (n : Nat) (f : Flow → Flow) (s : State) : (flowMod n f s).hbm = s.hbm := rfl
@[simp] theorem flowMod_poison (n : Nat) (f : Flow → Flow) (s : State) : (flowMod n f s).poison = s.poison := rfl
@[simp] theorem flowMod_xlt (n : Nat) (f : Flow → Flow) (s : State) : (flowMod n f s).xlt = s.xlt := rfl
@[simp] theorem flowMod_flt (n : Nat) (f : Flow → Flow) (s : State) : (flowMod n f s).flt = s.flt := rfl
@[simp] theorem flowMod_cdp (n : Nat) (f : Flow → Flow) (s : State) : (flowMod n f s).cdp = s.cdp := rfl
@[simp] theorem flowMod_wire (n : Nat) (f : Flow → Flow) (s : State) : (flowMod n f s).wire = s.wire := rfl
@[simp] theorem flowMod_cols (n : Nat) (f : Flow → Flow) (s : State) : (flowMod n f s).cols = s.cols := rfl
@[simp] theorem flowMod_ldg (n : Nat) (f : Flow → Flow) (s : State) : (flowMod n f s).ldg = s.ldg := rfl
@[simp] theorem flowMod_asy (n : Nat) (f : Flow → Flow) (s : State) : (flowMod n f s).asy = s.asy := rfl
@[simp] theorem flowMod_lrd (n : Nat) (f : Flow → Flow) (s : State) : (flowMod n f s).lrd = s.lrd := rfl
@[simp] theorem flowMod_hbmStacks (n : Nat) (f : Flow → Flow) (s : State) : (flowMod n f s).hbmStacks = s.hbmStacks := rfl
@[simp] theorem flowMod_span (n : Nat) (f : Flow → Flow) (s : State) : (flowMod n f s).span = s.span := rfl
@[simp] theorem flowMod_spanWire (n : Nat) (f : Flow → Flow) (s : State) : (flowMod n f s).spanWire = s.spanWire := rfl
@[simp] theorem flowMod_ctr (n : Nat) (f : Flow → Flow) (s : State) : (flowMod n f s).ctr = s.ctr := rfl
@[simp] theorem flowMod_shutters (n : Nat) (f : Flow → Flow) (s : State) : (flowMod n f s).shutters = s.shutters := rfl

@[simp] theorem runMod_pending (n : Nat) (f : Run → Run) (s : State) : (runMod n f s).pending = s.pending := rfl
@[simp] theorem runMod_gbl (n : Nat) (f : Run → Run) (s : State) : (runMod n f s).gbl = s.gbl := rfl
@[simp] theorem runMod_mbx (n : Nat) (f : Run → Run) (s : State) : (runMod n f s).mbx = s.mbx := rfl
@[simp] theorem runMod_clerk (n : Nat) (f : Run → Run) (s : State) : (runMod n f s).clerk = s.clerk := rfl
@[simp] theorem runMod_wch (n : Nat) (f : Run → Run) (s : State) : (runMod n f s).wch = s.wch := rfl
@[simp] theorem runMod_pwr (n : Nat) (f : Run → Run) (s : State) : (runMod n f s).pwr = s.pwr := rfl
@[simp] theorem runMod_tables (n : Nat) (f : Run → Run) (s : State) : (runMod n f s).tables = s.tables := rfl
@[simp] theorem runMod_templates (n : Nat) (f : Run → Run) (s : State) : (runMod n f s).templates = s.templates := rfl
@[simp] theorem runMod_maps (n : Nat) (f : Run → Run) (s : State) : (runMod n f s).maps = s.maps := rfl
@[simp] theorem runMod_moves (n : Nat) (f : Run → Run) (s : State) : (runMod n f s).moves = s.moves := rfl
@[simp] theorem runMod_hbm (n : Nat) (f : Run → Run) (s : State) : (runMod n f s).hbm = s.hbm := rfl
@[simp] theorem runMod_poison (n : Nat) (f : Run → Run) (s : State) : (runMod n f s).poison = s.poison := rfl
@[simp] theorem runMod_xlt (n : Nat) (f : Run → Run) (s : State) : (runMod n f s).xlt = s.xlt := rfl
@[simp] theorem runMod_flt (n : Nat) (f : Run → Run) (s : State) : (runMod n f s).flt = s.flt := rfl
@[simp] theorem runMod_cdp (n : Nat) (f : Run → Run) (s : State) : (runMod n f s).cdp = s.cdp := rfl
@[simp] theorem runMod_wire (n : Nat) (f : Run → Run) (s : State) : (runMod n f s).wire = s.wire := rfl
@[simp] theorem runMod_cols (n : Nat) (f : Run → Run) (s : State) : (runMod n f s).cols = s.cols := rfl
@[simp] theorem runMod_ldg (n : Nat) (f : Run → Run) (s : State) : (runMod n f s).ldg = s.ldg := rfl
@[simp] theorem runMod_asy (n : Nat) (f : Run → Run) (s : State) : (runMod n f s).asy = s.asy := rfl
@[simp] theorem runMod_lrd (n : Nat) (f : Run → Run) (s : State) : (runMod n f s).lrd = s.lrd := rfl
@[simp] theorem runMod_hbmStacks (n : Nat) (f : Run → Run) (s : State) : (runMod n f s).hbmStacks = s.hbmStacks := rfl
@[simp] theorem runMod_span (n : Nat) (f : Run → Run) (s : State) : (runMod n f s).span = s.span := rfl
@[simp] theorem runMod_spanWire (n : Nat) (f : Run → Run) (s : State) : (runMod n f s).spanWire = s.spanWire := rfl
@[simp] theorem runMod_ctr (n : Nat) (f : Run → Run) (s : State) : (runMod n f s).ctr = s.ctr := rfl
@[simp] theorem runMod_shutters (n : Nat) (f : Run → Run) (s : State) : (runMod n f s).shutters = s.shutters := rfl

@[simp] theorem xferMod_pending (n : Nat) (f : Xfer → Xfer) (s : State) : (xferMod n f s).pending = s.pending := rfl
@[simp] theorem xferMod_gbl (n : Nat) (f : Xfer → Xfer) (s : State) : (xferMod n f s).gbl = s.gbl := rfl
@[simp] theorem xferMod_mbx (n : Nat) (f : Xfer → Xfer) (s : State) : (xferMod n f s).mbx = s.mbx := rfl
@[simp] theorem xferMod_clerk (n : Nat) (f : Xfer → Xfer) (s : State) : (xferMod n f s).clerk = s.clerk := rfl
@[simp] theorem xferMod_wch (n : Nat) (f : Xfer → Xfer) (s : State) : (xferMod n f s).wch = s.wch := rfl
@[simp] theorem xferMod_pwr (n : Nat) (f : Xfer → Xfer) (s : State) : (xferMod n f s).pwr = s.pwr := rfl
@[simp] theorem xferMod_tables (n : Nat) (f : Xfer → Xfer) (s : State) : (xferMod n f s).tables = s.tables := rfl
@[simp] theorem xferMod_templates (n : Nat) (f : Xfer → Xfer) (s : State) : (xferMod n f s).templates = s.templates := rfl
@[simp] theorem xferMod_maps (n : Nat) (f : Xfer → Xfer) (s : State) : (xferMod n f s).maps = s.maps := rfl
@[simp] theorem xferMod_moves (n : Nat) (f : Xfer → Xfer) (s : State) : (xferMod n f s).moves = s.moves := rfl
@[simp] theorem xferMod_hbm (n : Nat) (f : Xfer → Xfer) (s : State) : (xferMod n f s).hbm = s.hbm := rfl
@[simp] theorem xferMod_poison (n : Nat) (f : Xfer → Xfer) (s : State) : (xferMod n f s).poison = s.poison := rfl
@[simp] theorem xferMod_xlt (n : Nat) (f : Xfer → Xfer) (s : State) : (xferMod n f s).xlt = s.xlt := rfl
@[simp] theorem xferMod_flt (n : Nat) (f : Xfer → Xfer) (s : State) : (xferMod n f s).flt = s.flt := rfl
@[simp] theorem xferMod_cdp (n : Nat) (f : Xfer → Xfer) (s : State) : (xferMod n f s).cdp = s.cdp := rfl
@[simp] theorem xferMod_wire (n : Nat) (f : Xfer → Xfer) (s : State) : (xferMod n f s).wire = s.wire := rfl
@[simp] theorem xferMod_cols (n : Nat) (f : Xfer → Xfer) (s : State) : (xferMod n f s).cols = s.cols := rfl
@[simp] theorem xferMod_ldg (n : Nat) (f : Xfer → Xfer) (s : State) : (xferMod n f s).ldg = s.ldg := rfl
@[simp] theorem xferMod_asy (n : Nat) (f : Xfer → Xfer) (s : State) : (xferMod n f s).asy = s.asy := rfl
@[simp] theorem xferMod_lrd (n : Nat) (f : Xfer → Xfer) (s : State) : (xferMod n f s).lrd = s.lrd := rfl
@[simp] theorem xferMod_hbmStacks (n : Nat) (f : Xfer → Xfer) (s : State) : (xferMod n f s).hbmStacks = s.hbmStacks := rfl
@[simp] theorem xferMod_span (n : Nat) (f : Xfer → Xfer) (s : State) : (xferMod n f s).span = s.span := rfl
@[simp] theorem xferMod_spanWire (n : Nat) (f : Xfer → Xfer) (s : State) : (xferMod n f s).spanWire = s.spanWire := rfl
@[simp] theorem xferMod_ctr (n : Nat) (f : Xfer → Xfer) (s : State) : (xferMod n f s).ctr = s.ctr := rfl
@[simp] theorem xferMod_shutters (n : Nat) (f : Xfer → Xfer) (s : State) : (xferMod n f s).shutters = s.shutters := rfl

@[simp] theorem colMod_pending (n : Nat) (f : Column → Column) (s : State) : (colMod n f s).pending = s.pending := rfl
@[simp] theorem colMod_gbl (n : Nat) (f : Column → Column) (s : State) : (colMod n f s).gbl = s.gbl := rfl
@[simp] theorem colMod_mbx (n : Nat) (f : Column → Column) (s : State) : (colMod n f s).mbx = s.mbx := rfl
@[simp] theorem colMod_clerk (n : Nat) (f : Column → Column) (s : State) : (colMod n f s).clerk = s.clerk := rfl
@[simp] theorem colMod_wch (n : Nat) (f : Column → Column) (s : State) : (colMod n f s).wch = s.wch := rfl
@[simp] theorem colMod_pwr (n : Nat) (f : Column → Column) (s : State) : (colMod n f s).pwr = s.pwr := rfl
@[simp] theorem colMod_tables (n : Nat) (f : Column → Column) (s : State) : (colMod n f s).tables = s.tables := rfl
@[simp] theorem colMod_templates (n : Nat) (f : Column → Column) (s : State) : (colMod n f s).templates = s.templates := rfl
@[simp] theorem colMod_maps (n : Nat) (f : Column → Column) (s : State) : (colMod n f s).maps = s.maps := rfl
@[simp] theorem colMod_moves (n : Nat) (f : Column → Column) (s : State) : (colMod n f s).moves = s.moves := rfl
@[simp] theorem colMod_hbm (n : Nat) (f : Column → Column) (s : State) : (colMod n f s).hbm = s.hbm := rfl
@[simp] theorem colMod_poison (n : Nat) (f : Column → Column) (s : State) : (colMod n f s).poison = s.poison := rfl
@[simp] theorem colMod_xlt (n : Nat) (f : Column → Column) (s : State) : (colMod n f s).xlt = s.xlt := rfl
@[simp] theorem colMod_flt (n : Nat) (f : Column → Column) (s : State) : (colMod n f s).flt = s.flt := rfl
@[simp] theorem colMod_qh (n : Nat) (f : Column → Column) (s : State) : (colMod n f s).qh = s.qh := rfl
@[simp] theorem colMod_cdp (n : Nat) (f : Column → Column) (s : State) : (colMod n f s).cdp = s.cdp := rfl
@[simp] theorem colMod_wire (n : Nat) (f : Column → Column) (s : State) : (colMod n f s).wire = s.wire := rfl
@[simp] theorem colMod_ldg (n : Nat) (f : Column → Column) (s : State) : (colMod n f s).ldg = s.ldg := rfl
@[simp] theorem colMod_asy (n : Nat) (f : Column → Column) (s : State) : (colMod n f s).asy = s.asy := rfl
@[simp] theorem colMod_lrd (n : Nat) (f : Column → Column) (s : State) : (colMod n f s).lrd = s.lrd := rfl
@[simp] theorem colMod_hbmStacks (n : Nat) (f : Column → Column) (s : State) : (colMod n f s).hbmStacks = s.hbmStacks := rfl
@[simp] theorem colMod_span (n : Nat) (f : Column → Column) (s : State) : (colMod n f s).span = s.span := rfl
@[simp] theorem colMod_spanWire (n : Nat) (f : Column → Column) (s : State) : (colMod n f s).spanWire = s.spanWire := rfl
@[simp] theorem colMod_ctr (n : Nat) (f : Column → Column) (s : State) : (colMod n f s).ctr = s.ctr := rfl
@[simp] theorem colMod_shutters (n : Nat) (f : Column → Column) (s : State) : (colMod n f s).shutters = s.shutters := rfl

@[simp] theorem commitMod_pending (f : Commit → Commit) (s : State) : (commitMod f s).pending = s.pending := rfl
@[simp] theorem commitMod_gbl (f : Commit → Commit) (s : State) : (commitMod f s).gbl = s.gbl := rfl
@[simp] theorem commitMod_mbx (f : Commit → Commit) (s : State) : (commitMod f s).mbx = s.mbx := rfl
@[simp] theorem commitMod_clerk (f : Commit → Commit) (s : State) : (commitMod f s).clerk = s.clerk := rfl
@[simp] theorem commitMod_wch (f : Commit → Commit) (s : State) : (commitMod f s).wch = s.wch := rfl
@[simp] theorem commitMod_pwr (f : Commit → Commit) (s : State) : (commitMod f s).pwr = s.pwr := rfl
@[simp] theorem commitMod_tables (f : Commit → Commit) (s : State) : (commitMod f s).tables = s.tables := rfl
@[simp] theorem commitMod_templates (f : Commit → Commit) (s : State) : (commitMod f s).templates = s.templates := rfl
@[simp] theorem commitMod_maps (f : Commit → Commit) (s : State) : (commitMod f s).maps = s.maps := rfl
@[simp] theorem commitMod_moves (f : Commit → Commit) (s : State) : (commitMod f s).moves = s.moves := rfl
@[simp] theorem commitMod_hbm (f : Commit → Commit) (s : State) : (commitMod f s).hbm = s.hbm := rfl
@[simp] theorem commitMod_poison (f : Commit → Commit) (s : State) : (commitMod f s).poison = s.poison := rfl
@[simp] theorem commitMod_xlt (f : Commit → Commit) (s : State) : (commitMod f s).xlt = s.xlt := rfl
@[simp] theorem commitMod_flt (f : Commit → Commit) (s : State) : (commitMod f s).flt = s.flt := rfl
@[simp] theorem commitMod_qh (f : Commit → Commit) (s : State) : (commitMod f s).qh = s.qh := rfl
@[simp] theorem commitMod_cdp (f : Commit → Commit) (s : State) : (commitMod f s).cdp = s.cdp := rfl
@[simp] theorem commitMod_wire (f : Commit → Commit) (s : State) : (commitMod f s).wire = s.wire := rfl
@[simp] theorem commitMod_cols (f : Commit → Commit) (s : State) : (commitMod f s).cols = s.cols := rfl
@[simp] theorem commitMod_asy (f : Commit → Commit) (s : State) : (commitMod f s).asy = s.asy := rfl
@[simp] theorem commitMod_lrd (f : Commit → Commit) (s : State) : (commitMod f s).lrd = s.lrd := rfl
@[simp] theorem commitMod_hbmStacks (f : Commit → Commit) (s : State) : (commitMod f s).hbmStacks = s.hbmStacks := rfl
@[simp] theorem commitMod_span (f : Commit → Commit) (s : State) : (commitMod f s).span = s.span := rfl
@[simp] theorem commitMod_spanWire (f : Commit → Commit) (s : State) : (commitMod f s).spanWire = s.spanWire := rfl
@[simp] theorem commitMod_ctr (f : Commit → Commit) (s : State) : (commitMod f s).ctr = s.ctr := rfl
@[simp] theorem commitMod_shutters (f : Commit → Commit) (s : State) : (commitMod f s).shutters = s.shutters := rfl

@[simp] theorem asyMod_pending (n : Nat) (f : AsyCounts → AsyCounts) (s : State) : (asyMod n f s).pending = s.pending := rfl
@[simp] theorem asyMod_gbl (n : Nat) (f : AsyCounts → AsyCounts) (s : State) : (asyMod n f s).gbl = s.gbl := rfl
@[simp] theorem asyMod_mbx (n : Nat) (f : AsyCounts → AsyCounts) (s : State) : (asyMod n f s).mbx = s.mbx := rfl
@[simp] theorem asyMod_clerk (n : Nat) (f : AsyCounts → AsyCounts) (s : State) : (asyMod n f s).clerk = s.clerk := rfl
@[simp] theorem asyMod_wch (n : Nat) (f : AsyCounts → AsyCounts) (s : State) : (asyMod n f s).wch = s.wch := rfl
@[simp] theorem asyMod_pwr (n : Nat) (f : AsyCounts → AsyCounts) (s : State) : (asyMod n f s).pwr = s.pwr := rfl
@[simp] theorem asyMod_tables (n : Nat) (f : AsyCounts → AsyCounts) (s : State) : (asyMod n f s).tables = s.tables := rfl
@[simp] theorem asyMod_templates (n : Nat) (f : AsyCounts → AsyCounts) (s : State) : (asyMod n f s).templates = s.templates := rfl
@[simp] theorem asyMod_maps (n : Nat) (f : AsyCounts → AsyCounts) (s : State) : (asyMod n f s).maps = s.maps := rfl
@[simp] theorem asyMod_moves (n : Nat) (f : AsyCounts → AsyCounts) (s : State) : (asyMod n f s).moves = s.moves := rfl
@[simp] theorem asyMod_hbm (n : Nat) (f : AsyCounts → AsyCounts) (s : State) : (asyMod n f s).hbm = s.hbm := rfl
@[simp] theorem asyMod_poison (n : Nat) (f : AsyCounts → AsyCounts) (s : State) : (asyMod n f s).poison = s.poison := rfl
@[simp] theorem asyMod_xlt (n : Nat) (f : AsyCounts → AsyCounts) (s : State) : (asyMod n f s).xlt = s.xlt := rfl
@[simp] theorem asyMod_flt (n : Nat) (f : AsyCounts → AsyCounts) (s : State) : (asyMod n f s).flt = s.flt := rfl
@[simp] theorem asyMod_qh (n : Nat) (f : AsyCounts → AsyCounts) (s : State) : (asyMod n f s).qh = s.qh := rfl
@[simp] theorem asyMod_cdp (n : Nat) (f : AsyCounts → AsyCounts) (s : State) : (asyMod n f s).cdp = s.cdp := rfl
@[simp] theorem asyMod_wire (n : Nat) (f : AsyCounts → AsyCounts) (s : State) : (asyMod n f s).wire = s.wire := rfl
@[simp] theorem asyMod_cols (n : Nat) (f : AsyCounts → AsyCounts) (s : State) : (asyMod n f s).cols = s.cols := rfl
@[simp] theorem asyMod_ldg (n : Nat) (f : AsyCounts → AsyCounts) (s : State) : (asyMod n f s).ldg = s.ldg := rfl
@[simp] theorem asyMod_lrd (n : Nat) (f : AsyCounts → AsyCounts) (s : State) : (asyMod n f s).lrd = s.lrd := rfl
@[simp] theorem asyMod_hbmStacks (n : Nat) (f : AsyCounts → AsyCounts) (s : State) : (asyMod n f s).hbmStacks = s.hbmStacks := rfl
@[simp] theorem asyMod_span (n : Nat) (f : AsyCounts → AsyCounts) (s : State) : (asyMod n f s).span = s.span := rfl
@[simp] theorem asyMod_spanWire (n : Nat) (f : AsyCounts → AsyCounts) (s : State) : (asyMod n f s).spanWire = s.spanWire := rfl
@[simp] theorem asyMod_ctr (n : Nat) (f : AsyCounts → AsyCounts) (s : State) : (asyMod n f s).ctr = s.ctr := rfl
@[simp] theorem asyMod_shutters (n : Nat) (f : AsyCounts → AsyCounts) (s : State) : (asyMod n f s).shutters = s.shutters := rfl

@[simp] theorem stackMod_pending (n : Nat) (f : Stack → Stack) (s : State) : (stackMod n f s).pending = s.pending := rfl
@[simp] theorem stackMod_gbl (n : Nat) (f : Stack → Stack) (s : State) : (stackMod n f s).gbl = s.gbl := rfl
@[simp] theorem stackMod_mbx (n : Nat) (f : Stack → Stack) (s : State) : (stackMod n f s).mbx = s.mbx := rfl
@[simp] theorem stackMod_clerk (n : Nat) (f : Stack → Stack) (s : State) : (stackMod n f s).clerk = s.clerk := rfl
@[simp] theorem stackMod_wch (n : Nat) (f : Stack → Stack) (s : State) : (stackMod n f s).wch = s.wch := rfl
@[simp] theorem stackMod_pwr (n : Nat) (f : Stack → Stack) (s : State) : (stackMod n f s).pwr = s.pwr := rfl
@[simp] theorem stackMod_tables (n : Nat) (f : Stack → Stack) (s : State) : (stackMod n f s).tables = s.tables := rfl
@[simp] theorem stackMod_templates (n : Nat) (f : Stack → Stack) (s : State) : (stackMod n f s).templates = s.templates := rfl
@[simp] theorem stackMod_maps (n : Nat) (f : Stack → Stack) (s : State) : (stackMod n f s).maps = s.maps := rfl
@[simp] theorem stackMod_moves (n : Nat) (f : Stack → Stack) (s : State) : (stackMod n f s).moves = s.moves := rfl
@[simp] theorem stackMod_hbm (n : Nat) (f : Stack → Stack) (s : State) : (stackMod n f s).hbm = s.hbm := rfl
@[simp] theorem stackMod_poison (n : Nat) (f : Stack → Stack) (s : State) : (stackMod n f s).poison = s.poison := rfl
@[simp] theorem stackMod_xlt (n : Nat) (f : Stack → Stack) (s : State) : (stackMod n f s).xlt = s.xlt := rfl
@[simp] theorem stackMod_flt (n : Nat) (f : Stack → Stack) (s : State) : (stackMod n f s).flt = s.flt := rfl
@[simp] theorem stackMod_qh (n : Nat) (f : Stack → Stack) (s : State) : (stackMod n f s).qh = s.qh := rfl
@[simp] theorem stackMod_cdp (n : Nat) (f : Stack → Stack) (s : State) : (stackMod n f s).cdp = s.cdp := rfl
@[simp] theorem stackMod_wire (n : Nat) (f : Stack → Stack) (s : State) : (stackMod n f s).wire = s.wire := rfl
@[simp] theorem stackMod_cols (n : Nat) (f : Stack → Stack) (s : State) : (stackMod n f s).cols = s.cols := rfl
@[simp] theorem stackMod_ldg (n : Nat) (f : Stack → Stack) (s : State) : (stackMod n f s).ldg = s.ldg := rfl
@[simp] theorem stackMod_asy (n : Nat) (f : Stack → Stack) (s : State) : (stackMod n f s).asy = s.asy := rfl
@[simp] theorem stackMod_lrd (n : Nat) (f : Stack → Stack) (s : State) : (stackMod n f s).lrd = s.lrd := rfl
@[simp] theorem stackMod_span (n : Nat) (f : Stack → Stack) (s : State) : (stackMod n f s).span = s.span := rfl
@[simp] theorem stackMod_spanWire (n : Nat) (f : Stack → Stack) (s : State) : (stackMod n f s).spanWire = s.spanWire := rfl
@[simp] theorem stackMod_ctr (n : Nat) (f : Stack → Stack) (s : State) : (stackMod n f s).ctr = s.ctr := rfl
@[simp] theorem stackMod_shutters (n : Nat) (f : Stack → Stack) (s : State) : (stackMod n f s).shutters = s.shutters := rfl

@[simp] theorem portMod_pending (n : Nat) (f : Port → Port) (s : State) : (portMod n f s).pending = s.pending := rfl
@[simp] theorem portMod_gbl (n : Nat) (f : Port → Port) (s : State) : (portMod n f s).gbl = s.gbl := rfl
@[simp] theorem portMod_mbx (n : Nat) (f : Port → Port) (s : State) : (portMod n f s).mbx = s.mbx := rfl
@[simp] theorem portMod_clerk (n : Nat) (f : Port → Port) (s : State) : (portMod n f s).clerk = s.clerk := rfl
@[simp] theorem portMod_wch (n : Nat) (f : Port → Port) (s : State) : (portMod n f s).wch = s.wch := rfl
@[simp] theorem portMod_pwr (n : Nat) (f : Port → Port) (s : State) : (portMod n f s).pwr = s.pwr := rfl
@[simp] theorem portMod_tables (n : Nat) (f : Port → Port) (s : State) : (portMod n f s).tables = s.tables := rfl
@[simp] theorem portMod_templates (n : Nat) (f : Port → Port) (s : State) : (portMod n f s).templates = s.templates := rfl
@[simp] theorem portMod_maps (n : Nat) (f : Port → Port) (s : State) : (portMod n f s).maps = s.maps := rfl
@[simp] theorem portMod_moves (n : Nat) (f : Port → Port) (s : State) : (portMod n f s).moves = s.moves := rfl
@[simp] theorem portMod_hbm (n : Nat) (f : Port → Port) (s : State) : (portMod n f s).hbm = s.hbm := rfl
@[simp] theorem portMod_poison (n : Nat) (f : Port → Port) (s : State) : (portMod n f s).poison = s.poison := rfl
@[simp] theorem portMod_xlt (n : Nat) (f : Port → Port) (s : State) : (portMod n f s).xlt = s.xlt := rfl
@[simp] theorem portMod_flt (n : Nat) (f : Port → Port) (s : State) : (portMod n f s).flt = s.flt := rfl
@[simp] theorem portMod_qh (n : Nat) (f : Port → Port) (s : State) : (portMod n f s).qh = s.qh := rfl
@[simp] theorem portMod_cdp (n : Nat) (f : Port → Port) (s : State) : (portMod n f s).cdp = s.cdp := rfl
@[simp] theorem portMod_wire (n : Nat) (f : Port → Port) (s : State) : (portMod n f s).wire = s.wire := rfl
@[simp] theorem portMod_cols (n : Nat) (f : Port → Port) (s : State) : (portMod n f s).cols = s.cols := rfl
@[simp] theorem portMod_ldg (n : Nat) (f : Port → Port) (s : State) : (portMod n f s).ldg = s.ldg := rfl
@[simp] theorem portMod_asy (n : Nat) (f : Port → Port) (s : State) : (portMod n f s).asy = s.asy := rfl
@[simp] theorem portMod_lrd (n : Nat) (f : Port → Port) (s : State) : (portMod n f s).lrd = s.lrd := rfl
@[simp] theorem portMod_hbmStacks (n : Nat) (f : Port → Port) (s : State) : (portMod n f s).hbmStacks = s.hbmStacks := rfl
@[simp] theorem portMod_spanWire (n : Nat) (f : Port → Port) (s : State) : (portMod n f s).spanWire = s.spanWire := rfl
@[simp] theorem portMod_ctr (n : Nat) (f : Port → Port) (s : State) : (portMod n f s).ctr = s.ctr := rfl
@[simp] theorem portMod_shutters (n : Nat) (f : Port → Port) (s : State) : (portMod n f s).shutters = s.shutters := rfl

@[simp] theorem islandMod_pending (n : Nat) (f : Island → Island) (s : State) : (islandMod n f s).pending = s.pending := rfl
@[simp] theorem islandMod_gbl (n : Nat) (f : Island → Island) (s : State) : (islandMod n f s).gbl = s.gbl := rfl
@[simp] theorem islandMod_mbx (n : Nat) (f : Island → Island) (s : State) : (islandMod n f s).mbx = s.mbx := rfl
@[simp] theorem islandMod_clerk (n : Nat) (f : Island → Island) (s : State) : (islandMod n f s).clerk = s.clerk := rfl
@[simp] theorem islandMod_wch (n : Nat) (f : Island → Island) (s : State) : (islandMod n f s).wch = s.wch := rfl
@[simp] theorem islandMod_pwr (n : Nat) (f : Island → Island) (s : State) : (islandMod n f s).pwr = s.pwr := rfl
@[simp] theorem islandMod_tables (n : Nat) (f : Island → Island) (s : State) : (islandMod n f s).tables = s.tables := rfl
@[simp] theorem islandMod_templates (n : Nat) (f : Island → Island) (s : State) : (islandMod n f s).templates = s.templates := rfl
@[simp] theorem islandMod_maps (n : Nat) (f : Island → Island) (s : State) : (islandMod n f s).maps = s.maps := rfl
@[simp] theorem islandMod_moves (n : Nat) (f : Island → Island) (s : State) : (islandMod n f s).moves = s.moves := rfl
@[simp] theorem islandMod_hbm (n : Nat) (f : Island → Island) (s : State) : (islandMod n f s).hbm = s.hbm := rfl
@[simp] theorem islandMod_poison (n : Nat) (f : Island → Island) (s : State) : (islandMod n f s).poison = s.poison := rfl
@[simp] theorem islandMod_xlt (n : Nat) (f : Island → Island) (s : State) : (islandMod n f s).xlt = s.xlt := rfl
@[simp] theorem islandMod_flt (n : Nat) (f : Island → Island) (s : State) : (islandMod n f s).flt = s.flt := rfl
@[simp] theorem islandMod_qh (n : Nat) (f : Island → Island) (s : State) : (islandMod n f s).qh = s.qh := rfl
@[simp] theorem islandMod_cdp (n : Nat) (f : Island → Island) (s : State) : (islandMod n f s).cdp = s.cdp := rfl
@[simp] theorem islandMod_wire (n : Nat) (f : Island → Island) (s : State) : (islandMod n f s).wire = s.wire := rfl
@[simp] theorem islandMod_cols (n : Nat) (f : Island → Island) (s : State) : (islandMod n f s).cols = s.cols := rfl
@[simp] theorem islandMod_ldg (n : Nat) (f : Island → Island) (s : State) : (islandMod n f s).ldg = s.ldg := rfl
@[simp] theorem islandMod_asy (n : Nat) (f : Island → Island) (s : State) : (islandMod n f s).asy = s.asy := rfl
@[simp] theorem islandMod_lrd (n : Nat) (f : Island → Island) (s : State) : (islandMod n f s).lrd = s.lrd := rfl
@[simp] theorem islandMod_hbmStacks (n : Nat) (f : Island → Island) (s : State) : (islandMod n f s).hbmStacks = s.hbmStacks := rfl
@[simp] theorem islandMod_span (n : Nat) (f : Island → Island) (s : State) : (islandMod n f s).span = s.span := rfl
@[simp] theorem islandMod_spanWire (n : Nat) (f : Island → Island) (s : State) : (islandMod n f s).spanWire = s.spanWire := rfl
@[simp] theorem islandMod_shutters (n : Nat) (f : Island → Island) (s : State) : (islandMod n f s).shutters = s.shutters := rfl

@[simp] theorem refreshMod_pending (f : Refresh → Refresh) (s : State) : (refreshMod f s).pending = s.pending := rfl
@[simp] theorem refreshMod_gbl (f : Refresh → Refresh) (s : State) : (refreshMod f s).gbl = s.gbl := rfl
@[simp] theorem refreshMod_mbx (f : Refresh → Refresh) (s : State) : (refreshMod f s).mbx = s.mbx := rfl
@[simp] theorem refreshMod_clerk (f : Refresh → Refresh) (s : State) : (refreshMod f s).clerk = s.clerk := rfl
@[simp] theorem refreshMod_wch (f : Refresh → Refresh) (s : State) : (refreshMod f s).wch = s.wch := rfl
@[simp] theorem refreshMod_pwr (f : Refresh → Refresh) (s : State) : (refreshMod f s).pwr = s.pwr := rfl
@[simp] theorem refreshMod_tables (f : Refresh → Refresh) (s : State) : (refreshMod f s).tables = s.tables := rfl
@[simp] theorem refreshMod_templates (f : Refresh → Refresh) (s : State) : (refreshMod f s).templates = s.templates := rfl
@[simp] theorem refreshMod_maps (f : Refresh → Refresh) (s : State) : (refreshMod f s).maps = s.maps := rfl
@[simp] theorem refreshMod_moves (f : Refresh → Refresh) (s : State) : (refreshMod f s).moves = s.moves := rfl
@[simp] theorem refreshMod_hbm (f : Refresh → Refresh) (s : State) : (refreshMod f s).hbm = s.hbm := rfl
@[simp] theorem refreshMod_poison (f : Refresh → Refresh) (s : State) : (refreshMod f s).poison = s.poison := rfl
@[simp] theorem refreshMod_xlt (f : Refresh → Refresh) (s : State) : (refreshMod f s).xlt = s.xlt := rfl
@[simp] theorem refreshMod_flt (f : Refresh → Refresh) (s : State) : (refreshMod f s).flt = s.flt := rfl
@[simp] theorem refreshMod_qh (f : Refresh → Refresh) (s : State) : (refreshMod f s).qh = s.qh := rfl
@[simp] theorem refreshMod_cdp (f : Refresh → Refresh) (s : State) : (refreshMod f s).cdp = s.cdp := rfl
@[simp] theorem refreshMod_wire (f : Refresh → Refresh) (s : State) : (refreshMod f s).wire = s.wire := rfl
@[simp] theorem refreshMod_cols (f : Refresh → Refresh) (s : State) : (refreshMod f s).cols = s.cols := rfl
@[simp] theorem refreshMod_ldg (f : Refresh → Refresh) (s : State) : (refreshMod f s).ldg = s.ldg := rfl
@[simp] theorem refreshMod_asy (f : Refresh → Refresh) (s : State) : (refreshMod f s).asy = s.asy := rfl
@[simp] theorem refreshMod_hbmStacks (f : Refresh → Refresh) (s : State) : (refreshMod f s).hbmStacks = s.hbmStacks := rfl
@[simp] theorem refreshMod_span (f : Refresh → Refresh) (s : State) : (refreshMod f s).span = s.span := rfl
@[simp] theorem refreshMod_spanWire (f : Refresh → Refresh) (s : State) : (refreshMod f s).spanWire = s.spanWire := rfl
@[simp] theorem refreshMod_ctr (f : Refresh → Refresh) (s : State) : (refreshMod f s).ctr = s.ctr := rfl
@[simp] theorem refreshMod_shutters (f : Refresh → Refresh) (s : State) : (refreshMod f s).shutters = s.shutters := rfl

@[simp] theorem shutterMod_pending (k n : Nat) (f : Shutter → Shutter) (s : State) : (shutterMod k n f s).pending = s.pending := rfl
@[simp] theorem shutterMod_gbl (k n : Nat) (f : Shutter → Shutter) (s : State) : (shutterMod k n f s).gbl = s.gbl := rfl
@[simp] theorem shutterMod_mbx (k n : Nat) (f : Shutter → Shutter) (s : State) : (shutterMod k n f s).mbx = s.mbx := rfl
@[simp] theorem shutterMod_clerk (k n : Nat) (f : Shutter → Shutter) (s : State) : (shutterMod k n f s).clerk = s.clerk := rfl
@[simp] theorem shutterMod_wch (k n : Nat) (f : Shutter → Shutter) (s : State) : (shutterMod k n f s).wch = s.wch := rfl
@[simp] theorem shutterMod_pwr (k n : Nat) (f : Shutter → Shutter) (s : State) : (shutterMod k n f s).pwr = s.pwr := rfl
@[simp] theorem shutterMod_tables (k n : Nat) (f : Shutter → Shutter) (s : State) : (shutterMod k n f s).tables = s.tables := rfl
@[simp] theorem shutterMod_templates (k n : Nat) (f : Shutter → Shutter) (s : State) : (shutterMod k n f s).templates = s.templates := rfl
@[simp] theorem shutterMod_maps (k n : Nat) (f : Shutter → Shutter) (s : State) : (shutterMod k n f s).maps = s.maps := rfl
@[simp] theorem shutterMod_moves (k n : Nat) (f : Shutter → Shutter) (s : State) : (shutterMod k n f s).moves = s.moves := rfl
@[simp] theorem shutterMod_hbm (k n : Nat) (f : Shutter → Shutter) (s : State) : (shutterMod k n f s).hbm = s.hbm := rfl
@[simp] theorem shutterMod_poison (k n : Nat) (f : Shutter → Shutter) (s : State) : (shutterMod k n f s).poison = s.poison := rfl
@[simp] theorem shutterMod_xlt (k n : Nat) (f : Shutter → Shutter) (s : State) : (shutterMod k n f s).xlt = s.xlt := rfl
@[simp] theorem shutterMod_flt (k n : Nat) (f : Shutter → Shutter) (s : State) : (shutterMod k n f s).flt = s.flt := rfl
@[simp] theorem shutterMod_qh (k n : Nat) (f : Shutter → Shutter) (s : State) : (shutterMod k n f s).qh = s.qh := rfl
@[simp] theorem shutterMod_cdp (k n : Nat) (f : Shutter → Shutter) (s : State) : (shutterMod k n f s).cdp = s.cdp := rfl
@[simp] theorem shutterMod_wire (k n : Nat) (f : Shutter → Shutter) (s : State) : (shutterMod k n f s).wire = s.wire := rfl
@[simp] theorem shutterMod_cols (k n : Nat) (f : Shutter → Shutter) (s : State) : (shutterMod k n f s).cols = s.cols := rfl
@[simp] theorem shutterMod_ldg (k n : Nat) (f : Shutter → Shutter) (s : State) : (shutterMod k n f s).ldg = s.ldg := rfl
@[simp] theorem shutterMod_asy (k n : Nat) (f : Shutter → Shutter) (s : State) : (shutterMod k n f s).asy = s.asy := rfl
@[simp] theorem shutterMod_lrd (k n : Nat) (f : Shutter → Shutter) (s : State) : (shutterMod k n f s).lrd = s.lrd := rfl
@[simp] theorem shutterMod_hbmStacks (k n : Nat) (f : Shutter → Shutter) (s : State) : (shutterMod k n f s).hbmStacks = s.hbmStacks := rfl
@[simp] theorem shutterMod_span (k n : Nat) (f : Shutter → Shutter) (s : State) : (shutterMod k n f s).span = s.span := rfl
@[simp] theorem shutterMod_spanWire (k n : Nat) (f : Shutter → Shutter) (s : State) : (shutterMod k n f s).spanWire = s.spanWire := rfl
@[simp] theorem shutterMod_ctr (k n : Nat) (f : Shutter → Shutter) (s : State) : (shutterMod k n f s).ctr = s.ctr := rfl

/-! The block passes between READY and RUNNING on its own: nothing else changes. -/

theorem settle_eq (s : State) : settle s = { s with gbl := { s.gbl with state := (settle s).gbl.state } } := by
  unfold settle; split
  · split <;> rfl
  · split <;> rfl
  · rfl

@[simp] theorem settle_pending (s : State) : (settle s).pending = s.pending := by rw [settle_eq]
@[simp] theorem settle_mbx (s : State) : (settle s).mbx = s.mbx := by rw [settle_eq]
@[simp] theorem settle_clerk (s : State) : (settle s).clerk = s.clerk := by rw [settle_eq]
@[simp] theorem settle_wch (s : State) : (settle s).wch = s.wch := by rw [settle_eq]
@[simp] theorem settle_pwr (s : State) : (settle s).pwr = s.pwr := by rw [settle_eq]
@[simp] theorem settle_tables (s : State) : (settle s).tables = s.tables := by rw [settle_eq]
@[simp] theorem settle_templates (s : State) : (settle s).templates = s.templates := by rw [settle_eq]
@[simp] theorem settle_maps (s : State) : (settle s).maps = s.maps := by rw [settle_eq]
@[simp] theorem settle_moves (s : State) : (settle s).moves = s.moves := by rw [settle_eq]
@[simp] theorem settle_hbm (s : State) : (settle s).hbm = s.hbm := by rw [settle_eq]
@[simp] theorem settle_poison (s : State) : (settle s).poison = s.poison := by rw [settle_eq]
@[simp] theorem settle_xlt (s : State) : (settle s).xlt = s.xlt := by rw [settle_eq]
@[simp] theorem settle_flt (s : State) : (settle s).flt = s.flt := by rw [settle_eq]
@[simp] theorem settle_qh (s : State) : (settle s).qh = s.qh := by rw [settle_eq]
@[simp] theorem settle_cdp (s : State) : (settle s).cdp = s.cdp := by rw [settle_eq]
@[simp] theorem settle_wire (s : State) : (settle s).wire = s.wire := by rw [settle_eq]
@[simp] theorem settle_cols (s : State) : (settle s).cols = s.cols := by rw [settle_eq]
@[simp] theorem settle_ldg (s : State) : (settle s).ldg = s.ldg := by rw [settle_eq]
@[simp] theorem settle_asy (s : State) : (settle s).asy = s.asy := by rw [settle_eq]
@[simp] theorem settle_lrd (s : State) : (settle s).lrd = s.lrd := by rw [settle_eq]
@[simp] theorem settle_hbmStacks (s : State) : (settle s).hbmStacks = s.hbmStacks := by rw [settle_eq]
@[simp] theorem settle_span (s : State) : (settle s).span = s.span := by rw [settle_eq]
@[simp] theorem settle_spanWire (s : State) : (settle s).spanWire = s.spanWire := by rw [settle_eq]
@[simp] theorem settle_ctr (s : State) : (settle s).ctr = s.ctr := by rw [settle_eq]
@[simp] theorem settle_shutters (s : State) : (settle s).shutters = s.shutters := by rw [settle_eq]

@[simp] theorem settle_event (s : State) : (settle s).gbl.event = s.gbl.event := by rw [settle_eq]
@[simp] theorem settle_lifecycle (s : State) : (settle s).gbl.lifecycle = s.gbl.lifecycle := by rw [settle_eq]

/-- From a state that is neither READY nor RUNNING the block passes to neither on its own. -/
theorem settle_other (s : State) (h : s.gbl.state ≠ .ready) (k : s.gbl.state ≠ .running) : settle s = s := by
  unfold settle; split
  · exact absurd ‹_› h
  · exact absurd ‹_› k
  · rfl

end Sys2Proof.Machine
end

