-- ==== Sys2Proof/Laws/Translate.lean ====
section
/-! SUPPORT. Translation and the Clerk's reads do not depend on the mailboxes: what a command reads is the same after it has
left the taken list. -/

namespace Sys2Proof.Machine

open Sys2Proof

theorem walkFrom_mbx (s : State) (b : Mbx) (v : ChipView) (f : W64) (hva da : Nat) (write : Bool) :
    ∀ lvl table, walkFrom { s with mbx := b } v f hva da write lvl table = walkFrom s v f hva da write lvl table := by
  intro lvl
  induction lvl with
  | zero =>
    intro table
    unfold walkFrom
    have e : walkRead { s with mbx := b } v = walkRead s v := rfl
    have t : targetOf { s with mbx := b } = targetOf s := rfl
    simp only [e, t]
  | succ n ih =>
    intro table
    unfold walkFrom
    have e : walkRead { s with mbx := b } v = walkRead s v := rfl
    have t : targetOf { s with mbx := b } = targetOf s := rfl
    simp only [e, t, ih]

theorem walkPage_mbx (s : State) (b : Mbx) (v : ChipView) (ci da : Nat) (write : Bool) :
    walkPage { s with mbx := b } v ci da write = walkPage s v ci da write := by
  have c : ctxOf { s with mbx := b } = ctxOf s := rfl
  have t : targetOf { s with mbx := b } = targetOf s := rfl
  unfold walkPage
  simp only [c, t, walkFrom_mbx]

theorem walkRange_mbx (s : State) (b : Mbx) (v : ChipView) (ci : Nat) (write : Bool) (pre : List Leaf) :
    ∀ k da n acc, walkRange { s with mbx := b } v ci write pre k da n acc = walkRange s v ci write pre k da n acc := by
  intro k
  induction k with
  | zero => intro da n acc; rfl
  | succ k ih =>
    intro da n acc
    have c : ctxOf { s with mbx := b } = ctxOf s := rfl
    unfold walkRange
    simp only [c, walkPage_mbx, ih]

theorem translate_mbx (s : State) (b : Mbx) (v : ChipView) (ci da n : Nat) (write : Bool) :
    translate { s with mbx := b } v ci da n write = translate s v ci da n write := by
  have c : ctxOf { s with mbx := b } = ctxOf s := rfl
  have g : segTranslate { s with mbx := b } = segTranslate s := rfl
  unfold translate translateAfter
  simp only [c, g, walkRange_mbx]

theorem translate_untake (slot : Nat) (s : State) (v : ChipView) (ci da n : Nat) (write : Bool) :
    translate (untake slot s) v ci da n write = translate s v ci da n write := translate_mbx s _ v ci da n write

theorem clerkRead_mbx (s : State) (b : Mbx) (v : ChipView) (ci da n : Nat) :
    clerkRead { s with mbx := b } v ci da n = clerkRead s v ci da n := by
  have t : targetOf { s with mbx := b } = targetOf s := rfl
  have p : poisonedAt { s with mbx := b } = poisonedAt s := rfl
  have r : hbmRead { s with mbx := b } = hbmRead s := rfl
  unfold clerkRead
  simp only [t, p, r, translate_mbx]

theorem clerkRead_untake (slot : Nat) (s : State) (v : ChipView) (ci da n : Nat) :
    clerkRead (untake slot s) v ci da n = clerkRead s v ci da n := clerkRead_mbx s _ v ci da n

end Sys2Proof.Machine
end

