-- ==== Sys2Proof/Tests/Slice0.lean ====
section
/-! SUPPORT. Tests: the ill-formed commands that the well-formedness check refuses, and for every statement that has hypotheses a
state and operands that meet all of them together, with small checks of the models' functions against worked examples of the
manual. -/

set_option linter.all false
set_option Elab.async false

namespace Sys2Proof.Machine

open Sys2Proof

/-! ### Small states -/


/-- A K40 that is READY in Field; its Clerk runs and the KCP answers. -/
def tUp : State :=
  { State.reset with
    gbl := { State.reset.gbl with state := .ready, seq := .idle, lifecycle := 2 }
    clerk := { State.reset.clerk with state := .running } }

/-- A message. -/
def tMsg (op : Nat) (w : List W64) : Msg := { op := op, seq := 7, ctx := 0, w := w }

/-- The same K40 with a command taken in slot 0. -/
def tCmd (op : Nat) (w : List W64) : State :=
  { tUp with mbx := { tUp.mbx with busy := [0], taken := [{ slot := 0, msg := tMsg op w, held := false }] } }

/-- A context 0 whose segment 0 maps the DAs from 0 on to chip memory. -/
def tMap (s : State) : State :=
  { s with xlt := { s.xlt with ctxs := [(0, { Ctx.reset with
    valid := true, ptMode := false, segs := [(0, { base := 0, last := 0xFFFFF000, phys := 0, flags := 15 })] })] } }

/-- Chip memory that reads 0. -/
def tView : ChipView := { cells := [], err := false }

/-- A bag slice with nothing read yet. -/
def tWork : BagWork :=
  { ord := 0, bag := 0, slice := 0, floor := 0, passes := 0, lookups := [], issued := 0, cursor := 0, k := 0, acc := [], tally := [],
    second := [], tallyUsed := false, reads := [], prov := [], result := [], result2 := [], failed := none, opened := true,
    provNow := [], events := [], keep := [], counted := 0 }

/-- A Mill with this work. -/
def tMill (w : BagWork) : Mill := { work := some w, token := none, part := none, saved := none }


/-- A Run descriptor of one bag of one lookup with template 3, completion flow 9 and table 1. -/
def tRunDesc : RunDesc :=
  { template := 3, flow := 9, tid := 1, spec := false, keepRows := false, armGen := 0, step := 0, tag := 5, idxDa := 0, ctx := 0,
    idxCount := 1, idxW64 := false, idxSigned := false, fixedLen := true, bagLenM1 := 0, ofsDa := 0, nbags := 1, wgtDa := 0,
    wgtEn := false, wgtBf16 := false, outDa := 4096, outFmt := 0, fuseDa := 0, fuseOp := 0, fuseBf16 := false, preDa := 0,
    preEn := false, preBf16 := false, tallyFloor := 0, hintRows := 1, hintStreams := 1, gradDa := 0, gradBf16 := false, args := [] }

/-- A forward SUM template with no index program. -/
def tTmpl : Template :=
  { backward := false, red := .sum, weighted := false, wgrad := false, outFmts := 0, fuseOps := 0, preload := false, hintRows := 1,
    hintStreams := 1, ninstr := 0, nin := 1, colMask := 1, program := [] }

/-- The Run of that descriptor, ordinal 4. -/
def tRun : Run :=
  { ord := 4, desc := tRunDesc, tmpl := tTmpl, dim := 16, slot := 0, epoch := 0, subFlow := 0, backward := false, streams := [],
    nextGroup := 0, groups := [], bags := [], kept := false, lateDropped := false, lateDeferred := false, flushCols := [],
    partialsOut := 0, ended := none }

/-- A state with this Run admitted. -/
def tAdm (r : Run) (s : State) : State := { s with qh := { s.qh with runs := [r] } }

/-! ### Well-formedness: an ill-formed command for each check, which the check refuses -/

theorem test_wf_good : (Instr.mbxSlotWrite 63 7 0).wellFormed = true := by decide
theorem test_wf_mailbox : (Instr.identify 64).wellFormed = false := by decide
theorem test_wf_slotWord : (Instr.mbxSlotWrite 0 8 0).wellFormed = false := by decide
theorem test_wf_template : (Instr.templateInstallComplete 512).wellFormed = false := by decide
theorem test_wf_table : (Instr.shelfEvaluate 4096 0).wellFormed = false := by decide
theorem test_wf_version : (Instr.shelfRebuild 0 2 0 0).wellFormed = false := by decide
theorem test_wf_homeMap : (Instr.migrationReadIssue 16).wellFormed = false := by decide
theorem test_wf_column : (Instr.mergeFlush 40).wellFormed = false := by decide
theorem test_wf_mill : (Instr.tileDrain 0 32).wellFormed = false := by decide
theorem test_wf_carter : (Instr.carterChunk 48 0 ⟨0, [], [], 0⟩).wellFormed = false := by decide
theorem test_wf_flow : (Instr.flowTimeout 16384).wellFormed = false := by decide
theorem test_wf_chipPort : (Instr.wrAck 8 0).wellFormed = false := by decide
theorem test_wf_inTag : (Instr.pedlarPop 0 2048 ⟨0, 0⟩).wellFormed = false := by decide
theorem test_wf_spanPort : (Instr.lqueryTimeout 8).wellFormed = false := by decide
theorem test_wf_channel : (Instr.packetSend 0 8 0).wellFormed = false := by decide
theorem test_wf_requestSlot : (Instr.remoteReadTimeout 16384).wellFormed = false := by decide
theorem test_wf_faultEntry : (Instr.faultOverdue 256).wellFormed = false := by decide
theorem test_wf_register : (Instr.registerWrite 16777600 0).wellFormed = false := by decide
theorem test_wf_stack : (Instr.hbmThermalSample 12 0).wellFormed = false := by decide
theorem test_wf_hbmChannel : (Instr.hbmRefresh 0 32 0).wellFormed = false := by decide
theorem test_wf_larderBlock : (Instr.larderPatrol 402653184 0).wellFormed = false := by decide
theorem test_wf_island : (Instr.marginSample [{ island := 66, margins := List.replicate 16 0 }]).wellFormed = false := by decide
theorem test_wf_payload :
    (Instr.flitReceive 0 { fseq := 0, ack := 0, nak := false, grantCh := 0, grant := 0, idle := true, first := 0, payload := [], crc := 0, fecCorrected := 0, fecFailed := 0 }).wellFormed = false := by decide
theorem test_wf_cells : (Instr.pedlarPush 0 0 0 [0]).wellFormed = false := by decide
theorem test_wf_margins : (Instr.marginSample [{ island := 0, margins := [] }]).wellFormed = false := by decide
theorem test_wf_counters : (Instr.readerVisit [{ island := 0, cycles := 0, adds := [], idle := [] }]).wellFormed = false := by decide
theorem test_wf_burst : (Instr.hbmPatrol 0 [{ burst := 2, lane := 0, bits := 1 }] false).wellFormed = false := by decide
theorem test_wf_lane : (Instr.hbmPatrol 0 [{ burst := 0, lane := 36, bits := 1 }] false).wellFormed = false := by decide
theorem test_wf_symbol : (Instr.homeRowRead ⟨0, [{ cw := 0, syms := [{ burst := 0, lane := 0, bits := 256 }] }], []⟩).wellFormed = false := by decide

/-! ### EmptyQueueIdles -/

theorem wit_EmptyQueueIdles : State.reset.pending = [] := by decide

/-! ### ExecLeavesQueue -/

theorem wit_ExecLeavesQueue : exec .commandTake State.reset = .next State.reset := by rfl

/-! ### EveryStepKeepsInv -/

theorem wit_EveryStepKeepsInv : Inv State.reset ∧ step State.reset = .next State.reset := ⟨⟨by decide, by decide, by decide, by decide, by decide, by decide, by decide⟩, rfl⟩

/-! ### EventsStayUntilCleared -/

theorem wit_EventsStayUntilCleared : ¬ MayClear .clerkBeat ∧ exec .clerkBeat State.reset = .next State.reset ∧
    ({ State.reset with gbl := { State.reset.gbl with event := 1 } } : State).gbl.event.getLsbD 0 = true :=
  ⟨fun h => h, rfl, by decide⟩

/-! ### PlainRegistersReadBack -/

theorem wit_PlainRegistersReadBack : kcpAlive State.reset = true ∧ bit (0x123#64) 63 = false ∧
    kcpAlive { State.reset with gbl := { State.reset.gbl with state := .off } } = false := by decide

/-! ### EventRegisterWrites -/

theorem wit_EventRegisterWrites : kcpAlive State.reset = true ∧ bit (0x1#64) 0 = true ∧ bit (0x0#64) 0 = false := by decide

/-! ### BlockRegisterWrites -/

theorem wit_BlockRegisterWrites : kcpAlive State.reset = true ∧ bits (0x645A00#64) 8 8 < bits (0x645A00#64) 16 8 ∧
    bits (0#64) 16 8 ≤ bits (0#64) 8 8 ∧ State.reset.gbl.state ≠ .held ∧ (stackOf State.reset 0).state ≠ .shuttered ∧
    bit (0x8000000000000000#64) 63 = true ∧
    kcpAlive { State.reset with gbl := { State.reset.gbl with state := .held } } = true := by decide

/-! ### MailboxRegisterWrites -/

/-- Slot 0 is busy and taken: the witness of the refusals. -/
def tBusy : State := { tUp with mbx := { tUp.mbx with busy := [0], rung := [0], tail := 4 } }
theorem wit_MailboxRegisterWrites : kcpAlive tUp = true ∧ bits (5#64) 0 6 ∉ tUp.mbx.busy ∧ kcpAlive tBusy = true ∧
    bits (0#64) 0 6 ∈ tBusy.mbx.busy ∧ 63 ∉ tBusy.mbx.busy ∧ tBusy.mbx.head ≤ bits (4#64) 0 32 ∧
    bits (4#64) 0 32 ≤ tBusy.mbx.tail ∧ tBusy.mbx.tail < 2 ^ 32 ∧ tBusy.mbx.tail < bits (5#64) 0 32 ∧
    tUp.mbx.head = tUp.mbx.tail ∧ tUp.mbx.busy = [] ∧ bits (0x10000#64) 0 17 = 2 ^ 16 ∧ bits (64#64) 0 17 = 2 ^ 6 ∧
    tBusy.mbx.busy ≠ [] ∧ (1#64) &&& 0x0001FFFFFFFFFFC1#64 ≠ tBusy.mbx.respBase ∧ bits (64#64) 0 17 ≠ tBusy.mbx.respSize := by
  decide

/-! ### CommandsTakenAndAnswered -/

/-- A message in slot 0, rung, and a response that waits with room in the ring. -/
def tRung (op : W64) : State :=
  { tUp with mbx := { tUp.mbx with
    busy := [0], rung := [0], slots := [(0, op)], respBase := 1,
    respQ := [respOf 3 (tMsg 0x0101 []) 0 .ok []] } }
theorem wit_CommandsTakenAndAnswered : clerkRuns (tRung 0x101) = true ∧ owesNothing (tRung 0x101) = true ∧
    (tRung 0x101).mbx.rung = [0] ∧ msgOk (tRung 0x101) 0 (msgOf (tRung 0x101) 0) = true ∧
    clerkRuns (tRung 0x999) = true ∧ owesNothing (tRung 0x999) = true ∧
    msgOk (tRung 0x999) 0 (msgOf (tRung 0x999) 0) = false ∧
    ringRoom (bit (tRung 0x101).mbx.respBase 0) (tRung 0x101).mbx.head (tRung 0x101).mbx.tail (tRung 0x101).mbx.respSize 1 = true ∧
    (tRung 0x101).mbx.tail < 2 ^ 32 ∧ responseReady tUp = none := by decide

/-! ### HeartbeatAndItsLoss -/

theorem wit_HeartbeatAndItsLoss : clerkRuns tUp = true ∧ tUp.clerk.state = .running ∧ tUp.wch.beat = false ∧ tUp.mbx.missed < 3 ∧
    ({ tUp with wch := { tUp.wch with beat := true } } : State).wch.beat = true ∧
    3 ≤ ({ tUp with mbx := { tUp.mbx with missed := 3 } } : State).mbx.missed := by decide

/-! ### WatchmanCommands -/

/-- READY with the Clerk halted. -/
def tHalted : State := { tUp with clerk := { tUp.clerk with state := .haltedHost } }
theorem wit_WatchmanCommands : kcpAlive tUp = true ∧ tUp.wch.busy = false ∧ bits (0x5AFE000000000002#64) 48 16 = 0x5AFE ∧
    windowOpen tUp = false ∧ bits (2#64) 48 16 ≠ 0x5AFE ∧ kcpAlive tHalted = true ∧ tHalted.wch.busy = false ∧
    tHalted.clerk.state ≠ .running ∧ tHalted.clerk.state ≠ .booting ∧
    (writeCoReg (bits (0x30004800#64) 8 25) tHalted.wch.arg tHalted).isSome = true ∧ windowOpen tHalted = true ∧
    tHalted.gbl.lifecycle ≠ 5 ∧ rankActive tHalted = 0 ∧ tHalted.gbl.state ≠ .selftest ∧ tHalted.gbl.state = .ready ∧
    kcpAlive { tUp with wch := { tUp.wch with busy := true } } = true ∧
    ({ tUp with wch := { tUp.wch with busy := true } } : State).wch.busy = true := by decide

/-! ### QueriesAnswer -/

/-- One log entry held. -/
def tLogged (s : State) : State :=
  { s with clerk := { s.clerk with log := [{ seq := 0, code := 1, step := 0, a0 := 0, a1 := 0 }] } }
/-- Step 5 is sealed and its folds are done. -/
def tSealed (s : State) : State :=
  { s with ldg := { s.ldg with sealedStep := some 5, sealedWas := 5, sealDone := true, lastSealed := some (5, []) } }
theorem wit_QueriesAnswer1 : Ready (tCmd 0x0101 []) 0x0101 0 (tMsg 0x0101 []) := by unfold Ready; decide
theorem wit_QueriesAnswer2 : Ready (tCmd 0x0102 [0, 0x100000000]) 0x0102 0 (tMsg 0x0102 [0, 0x100000000]) ∧
    bits (arg (tMsg 0x0102 [0, 0x100000000]) 2) 32 12 = 1 ∧ logFrom (tCmd 0x0102 [0, 0x100000000]) 0 1 = [] ∧
    Ready (tMap (tLogged (tCmd 0x0102 [0, 0x100000000]))) 0x0102 0 (tMsg 0x0102 [0, 0x100000000]) ∧
    logFrom (tMap (tLogged (tCmd 0x0102 [0, 0x100000000]))) 0 1 ≠ [] ∧
    (translate (tMap (tLogged (tCmd 0x0102 [0, 0x100000000]))) tView 0 0 32 true).toBool = true ∧
    (translate (tLogged (tCmd 0x0102 [0, 0x100000000])) tView 0 0 32 true).toBool = false := by unfold Ready; decide
theorem wit_QueriesAnswer3 : Ready (tCmd 0x0102 [0, 0]) 0x0102 0 (tMsg 0x0102 [0, 0]) ∧
    bits (arg (tMsg 0x0102 [0, 0]) 2) 32 12 = 0 ∧ bits (arg (tMsg 0x0102 [0, 0x80100000000]) 2) 32 12 = 2049 ∧
    bits (arg (tMsg 0x0102 [0, 0x80000000000]) 2) 32 12 = 2048 := by unfold Ready; decide
theorem wit_QueriesAnswer4 : Ready (tMap (tSealed (tCmd 0x0A04 [0]))) 0x0A04 0 (tMsg 0x0A04 [0]) ∧
    (tMap (tSealed (tCmd 0x0A04 [0]))).ldg.lastSealed = some (5, []) ∧ (tMap (tSealed (tCmd 0x0A04 [0]))).ldg.sealing = false ∧
    (translate (tMap (tSealed (tCmd 0x0A04 [0]))) tView 0 0 8192 true).toBool = true ∧
    (translate (tSealed (tCmd 0x0A04 [0])) tView 0 0 8192 true).toBool = false ∧ (tCmd 0x0A04 [0]).ldg.lastSealed = none := by
  unfold Ready; decide
theorem wit_QueriesAnswer5 : Ready (tCmd 0x0D01 []) 0x0D01 0 (tMsg 0x0D01 []) ∧ 1600 ≤ (tCmd 0x0D01 []).pwr.millMhz ∧
    (∀ v ∈ [550, 850, 700, 705], 550 ≤ v ∧ v ≤ 850 ∧ v % 5 = 0) ∧
    Ready (tCmd 0x0D02 [0x02BC02BC02BC02BC, 1400]) 0x0D02 0 (tMsg 0x0D02 [0x02BC02BC02BC02BC, 1400]) ∧
    bits (0x02BC02BC02BC02BC#64) 48 16 = 700 ∧ bits (arg (tMsg 0x0D02 [0, 900]) 2) 0 16 < 1000 := by unfold Ready; decide

/-! ### SequenceCommandsStart -/

/-- The token of a change from Field to Field-Debug, of Field-Debug to Field and of Field to Scrapped on a K40 whose identifier
and boot count are 0. -/
def tToken (change : Byte) : ChipView := { cells := [(0, 0x43), (1, 0x4C), (2, change)], err := false }
def tLife (lc : Nat) (w : W64) : State :=
  let s := tMap (tCmd 0x0402 [w, 0])
  { s with gbl := { s.gbl with lifecycle := lc } }
theorem wit_SequenceCommandsStart1 : Ready (tCmd 0x0201 [5]) 0x0201 0 (tMsg 0x0201 [5]) ∧ Ready (tCmd 0x0401 []) 0x0401 0 (tMsg 0x0401 []) ∧
    Ready (tLife 2 3) 0x0402 0 (tMsg 0x0402 [3, 0]) ∧ Ready (tLife 2 0) 0x0402 0 (tMsg 0x0402 [0, 0]) ∧
    lifecycleChange 2 3 = some true ∧ lifecycleChange 3 2 = some false ∧ lifecycleChange 2 0 = none := by unfold Ready; decide
theorem wit_SequenceCommandsStart2 : (match clerkRead (tLife 2 3) (tToken 19) 0 0 176 with
    | .ok bs => tokenOk (tLife 2 3) 3 bs && fieldAt bs 80 96 == 0
    | .error _ => false) = true := by decide +kernel

/-! ### PowerStateChanges -/

/-- A transition to power state `p` under way for the command in slot 0. -/
def tTrans (p : Nat) (q : Sequence) : State :=
  let s := tCmd 0x0301 [w64 p]
  { s with pwr := { s.pwr with target := p, busy := true, slot := some 0 }, gbl := { s.gbl with seq := q } }
theorem wit_PowerStateChanges1 : Ready (tCmd 0x0301 [0]) 0x0301 0 (tMsg 0x0301 [0]) ∧ (tCmd 0x0301 [0]).pwr.busy = false ∧
    bits (arg (tMsg 0x0301 [0]) 1) 0 3 = (tCmd 0x0301 [0]).pwr.current ∧ Ready (tCmd 0x0301 [7]) 0x0301 0 (tMsg 0x0301 [7]) ∧
    powerAllowed (tCmd 0x0301 [7]) 7 = false ∧ Ready (tCmd 0x0301 [1]) 0x0301 0 (tMsg 0x0301 [1]) ∧
    powerAllowed (tCmd 0x0301 [1]) 1 = true ∧ Ready (tCmd 0x0301 [3]) 0x0301 0 (tMsg 0x0301 [3]) ∧
    powerAllowed (tCmd 0x0301 [3]) 3 = true := by unfold Ready; decide
theorem wit_PowerStateChanges2 : (tTrans 2 .idle).pwr.busy = true ∧ tilesSaved (tTrans 2 .idle) = true ∧
    (tTrans 2 .idle).pwr.slot = some 0 ∧ (tTrans 2 .idle).mbx.taken.find? (fun t => t.slot == 0) ≠ none ∧
    (tTrans 2 .idle).gbl.state ≠ .retention ∧ (tTrans 3 (.powerDrain 3)).gbl.seq = .powerDrain 3 ∧
    (tTrans 4 (.powerDrain 4)).gbl.seq = .powerDrain 4 ∧
    tilesSaved (colMod 0 (fun k => { k with mills := [(0, tMill { tWork with cursor := 1 })] }) (tTrans 2 .idle)) = false ∧
    tilesSaved (tTrans 3 (.powerDrain 3)) = true := by decide

/-! ### ResetRequests -/

theorem wit_ResetRequests : kcpAlive tUp = true ∧ bits (0x5AFE000000000000#64) 48 16 = 0x5AFE ∧ tUp.gbl.state ≠ .selftest ∧
    rankActive tUp < 1 ∧ tUp.gbl.rstLow = false ∧ bits (0#64) 48 16 ≠ 0x5AFE ∧ 3 ≤ rankActive State.reset ∧
    kcpAlive State.reset = true ∧ State.reset.gbl.state = .selftest := by decide
theorem wit_ResetRequests2 : kcpAlive { State.reset with gbl := { State.reset.gbl with seq := .start 2 } } = true ∧
    rankActive { State.reset with gbl := { State.reset.gbl with seq := .start 2 } } < 3 ∧
    kcpAlive { State.reset with gbl := { State.reset.gbl with porLow := true } } = false := by decide

/-! ### ResetsTakeHold -/

/-- A sequence in progress. -/
def tSeq (q : Sequence) : State := { tUp with gbl := { tUp.gbl with seq := q } }
/-- A sealed step whose journal is complete. -/
def tKept (s : State) : State :=
  { s with ldg := { s.ldg with sealedStep := some 3, journal := some { step := 3, lambda := 0, entries := [], flushDone := true, powers := [], spills := 0, rebuilds := [] } } }
theorem wit_ResetsTakeHold : (tSeq (.holdOff .cold 2)).gbl.seq = .holdOff .cold 2 ∧
    (tSeq (.holdOff .recovery 1)).gbl.seq = .holdOff .recovery 1 ∧ sealedKept (tSeq (.holdOff .recovery 1)) = false ∧
    sealedKept (tKept (tSeq (.holdOff .recovery 1))) = true ∧ (tSeq .heldDrain).gbl.seq = .heldDrain ∧ tUp.gbl.porLow = false ∧
    ({ tUp with gbl := { tUp.gbl with porLow := true } } : State).gbl.porLow = true := by decide

/-! ### SequencesEnd -/

/-- Good results of every part. -/
def tGood : BistResult :=
  { larderRows := [],
    hbm := List.replicate 12 { fail := false, height := 16, capacity := 48, rate := 80, repaired := 0, atLimit := 0 },
    millsGood := List.replicate 40 0xFFFFFFFF, sramFail := 0, durationMs := 1 }
/-- An image of security version 1. -/
def tImage (v : Nat) : ImageHdr := { build := 1, minor := 0, major := 1, secver := v }
/-- A start sequence of class `n` after its boot. -/
def tBooted (n : Nat) : State := { tUp with gbl := { tUp.gbl with state := .selftest, seq := .start n } }
theorem wit_SequencesEnd : bootDue State.reset = true ∧ State.reset.gbl.seq = .start 0 ∧
    State.reset.gbl.rollback ≤ (tImage 1).secver % 65536 ∧
    (tImage 0).secver % 65536 < ({ State.reset with gbl := { State.reset.gbl with rollback := 1 } } : State).gbl.rollback ∧
    bootOver (tBooted 0) = true ∧ clerkRuns (tBooted 0) = true ∧ (tBooted 2).gbl.seq = .start 2 ∧ bootOver (tBooted 2) = true ∧
    clerkRuns (tBooted 2) = true ∧ heldCauses (tBooted 2) = 0 ∧
    heldCauses ({ tBooted 2 with gbl := { (tBooted 2).gbl with testFailed := true } }) ≠ 0 := by decide

/-! ### TableCommands -/

/-- Home map 0 gives every shard to node 0, which is this K40, and a plan is installed. -/
def tPlan (s : State) : State :=
  { s with maps := [(0, { entries := [], epoch := 1, loc := 0x40000000, unusable := false, old := none, inbound := [], handed := [], served := [], counts := { rowsOut := 0, rowsIn := 0, entriesOut := 0, rowsFailed := 0, partials := 0, reads := 0, epochDropped := 0 } })],
           lrd := { s.lrd with plan := 0x00100084010040A0#64, planValid := true } }
/-- The descriptor of table 1: D = 64, HBITS 16, one shelf, 2 rows. -/
def tDesc : ChipView :=
  { cells := [(0, 1), (2, 1), (3, 16), (48, 2), (56, 1)], err := false }
def tPlace : Placement := { dir := 0, shelf := 1048576, state := 0, defRow := 0, defState := 0, other := 0 }
/-- The table that descriptor makes. -/
def tTable : Table := tableOf ((List.range 256).map (fun i => mgetD tDesc.cells i 0))
def tWith (t : Table) (s : State) : State := { s with tables := [(1, t)] }
theorem wit_TableCommands1 : Ready (tPlan (tMap (tCmd 0x0501 [0]))) 0x0501 0 (tMsg 0x0501 [0]) ∧ Ready (tPlan (tMap (tCmd 0x0502 [1]))) 0x0502 0 (tMsg 0x0502 [1]) ∧
    Ready (tWith tTable (tCmd 0x0503 [1])) 0x0503 0 (tMsg 0x0503 [1]) ∧ Ready (tPlan (tWith tTable (tCmd 0x0504 [1, 2, 1]))) 0x0504 0 (tMsg 0x0504 [1, 2, 1]) := by
  unfold Ready; decide
theorem wit_TableCommands2 : (match clerkRead (tPlan (tMap (tCmd 0x0501 [0]))) tDesc 0 0 256 with
    | .ok bs => createOk (tPlan (tMap (tCmd 0x0501 [0]))) bs 0 &&
        placementOk (tPlan (tMap (tCmd 0x0501 [0]))) (heldRegions (tPlan (tMap (tCmd 0x0501 [0]))) none)
          (regionsAt (placesOf tPlace) (slotSizes (tPlan (tMap (tCmd 0x0501 [0]))) (tableOf bs) (tableOf bs).slot0.shelves))
    | .error _ => false) = true := by decide +kernel
theorem wit_TableCommands3 : (match clerkRead (tPlan (tMap (tCmd 0x0501 [0]))) tView 0 0 256 with
    | .ok bs => !createOk (tPlan (tMap (tCmd 0x0501 [0]))) bs 0
    | .error _ => false) = true := by decide +kernel
theorem wit_TableCommands4 : (match translate (tWith tTable (tMap (tCmd 0x0502 [1]))) tView 0 0 (wordsToBytes (descWords 1 tTable)).length true with
    | .ok _ => true
    | .error _ => false) = true ∧ mget (tPlan (tMap (tCmd 0x0502 [1]))).tables 1 = none ∧ liveTable (tCmd 0x0503 [1]) 1 = none := by decide +kernel
theorem wit_TableCommands5 : liveTable (tWith tTable (tCmd 0x0503 [1])) 1 = some tTable ∧ holdsEntry (tWith tTable (tCmd 0x0503 [1])) 1 = false ∧
    tTable.slot0.state ≠ .draining ∧ holdsEntry ({ tWith tTable (tCmd 0x0503 [1]) with ldg := { Ledger.reset with openStep := some 0, entries := [{ pos := 0, acb := 0, applied := false, key := { tid := 1, defkey := false, row := 0 }, step := 0, deferred := false, promoted := false, issued := false, bad := false, contrib := 1, tokens := 1, defTokens := 0, acc := [] }] } }) 1 = true := by decide +kernel
theorem wit_TableCommands6 : loadStartOk (tPlan (tWith tTable (tCmd 0x0504 [1, 2, 1]))) 1 0 2 1 0 tTable = true ∧
    placementOk (tPlan (tWith tTable (tCmd 0x0504 [1, 2, 1]))) (heldRegions (tPlan (tWith tTable (tCmd 0x0504 [1, 2, 1]))) (some (1, 0)))
      (regionsAt (placesOf tPlace) (slotSizes (tPlan (tWith tTable (tCmd 0x0504 [1, 2, 1]))) tTable 1)) = true := by decide +kernel

/-! ### LoadSwitchRestore -/

/-- The table of the tests with its slot 0 in this state. -/
def tSlot (st : SlotState) : Table := { tTable with slot0 := { tTable.slot0 with state := st, rows := 2, shelves := 1, dirLoc := 0, shelfLoc := 2097152 } }
/-- Record of row 5 (not below ROWS), and of row 1. -/
def tRec (row : Byte) : ChipView := { cells := [(0, row), (6, 1)], err := false }
theorem wit_LoadSwitchRestore1 : Ready (tWith (tSlot .loading) (tMap (tCmd 0x0505 [1, 0, 1, 0]))) 0x0505 0 (tMsg 0x0505 [1, 0, 1, 0]) ∧
    liveTable (tWith (tSlot .loading) (tMap (tCmd 0x0505 [1, 0, 1, 0]))) 1 = some (tSlot .loading) ∧ (vslot (tSlot .loading) 0).state = .loading ∧
    (vslot tTable 0).state ≠ .loading ∧ Ready (tWith (tSlot .loading) (tCmd 0x0506 [1])) 0x0506 0 (tMsg 0x0506 [1]) ∧
    Ready (tWith (tSlot .standby) (tCmd 0x0507 [1])) 0x0507 0 (tMsg 0x0507 [1]) ∧ standbySlot (tSlot .standby) = some 0 ∧
    activeSlot { tSlot .standby with active := 1, slot1 := { VSlot.none with state := .active } } = some (1 - 0) ∧
    (tCmd 0x0507 [1]).ldg.committing = false ∧ standbySlot tTable = none := by unfold Ready; decide +kernel
theorem wit_LoadSwitchRestore2 : (match translate (tWith (tSlot .loading) (tMap (tCmd 0x0505 [1, 0, 1, 0]))) tView 0 0 (1 * loadBytes (tSlot .loading) false) false with
    | .ok _ => true
    | .error _ => false) = true := by decide +kernel
theorem wit_LoadSwitchRestore3 : allLoaded (tPlan (tWith { tSlot .loading with slot0 := { (tSlot .loading).slot0 with rows := 0 } } (tCmd 0x0506 [1]))) { tSlot .loading with slot0 := { (tSlot .loading).slot0 with rows := 0 } } 0 = true ∧
    allLoaded (tPlan (tWith (tSlot .loading) (tCmd 0x0506 [1]))) (tSlot .loading) 0 = false := by decide +kernel
theorem wit_LoadSwitchRestore4 : Ready (tPlan (tWith (tSlot .active) (tMap (tCmd 0x0508 [1, 0, 0])))) 0x0508 0 (tMsg 0x0508 [1, 0, 0]) ∧
    activeSlot (tSlot .active) = some 0 ∧ activeSlot tTable = none := by unfold Ready; decide +kernel
theorem wit_LoadSwitchRestore5 : (match clerkRead (tPlan (tWith (tSlot .active) (tMap (tCmd 0x0508 [1, 0, 0])))) (tRec 1) 0 0 (loadBytes (tSlot .active) true) with
    | .ok bs => (match loadRec (tSlot .active) true bs with
      | some r => loadFate (tPlan (tWith (tSlot .active) (tMap (tCmd 0x0508 [1, 0, 0])))) (tSlot .active) 2 r == .write &&
          (restoreWrite 1 0 0 (tSlot .active) r (untake 0 (tPlan (tWith (tSlot .active) (tMap (tCmd 0x0508 [1, 0, 0])))))).isSome
      | none => false)
    | .error _ => false) = true := by decide +kernel
theorem wit_LoadSwitchRestore6 : (match clerkRead (tPlan (tWith (tSlot .active) (tMap (tCmd 0x0508 [1, 0, 0])))) (tRec 5) 0 0 (loadBytes (tSlot .active) true) with
    | .ok bs => (match loadRec (tSlot .active) true bs with
      | some r => loadFate (tPlan (tWith (tSlot .active) (tMap (tCmd 0x0508 [1, 0, 0])))) (tSlot .active) 2 r != .write
      | none => false)
    | .error _ => false) = true := by decide +kernel

/-! ### InstallsByTheClerk -/

/-- A template image in chip memory: 64 B, no index program, SUM of one Column over one input. -/
def tRouteImg : ChipView :=
  let h : List Byte := [0x54, 0x4B, 0x28, 1, 64, 0, 0, 0, 0, 0, 0, 0, 0, 0, 0, 0, 0, 0xA0, 0x80, 0, 0, 0, 0, 0, 1]
  let img := h ++ List.replicate 39 0
  let c := crc32 img
  { cells := ((List.range 64).zip (img.take 8 ++ (List.range 4).map (fun i => BitVec.ofNat 8 (c / 256 ^ i)) ++ img.drop 12)), err := false }
theorem wit_InstallsByTheClerk1 : Ready (tMap (tCmd 0x0601 [3])) 0x0601 0 (tMsg 0x0601 [3]) ∧
    templateBusy (tMap (tCmd 0x0601 [3])) 3 = false ∧ Ready (tCmd 0x0801 [5]) 0x0801 0 (tMsg 0x0801 [5]) ∧
    (∀ p < 8, (portAt (tCmd 0x0801 [5]) p).state = .down) ∧
    (portAt (portMod 2 (fun p => { p with state := .up }) (tCmd 0x0801 [5])) 2).state ≠ .down ∧
    Ready (portMod 2 (fun p => { p with state := .up }) (tCmd 0x0801 [5])) 0x0801 0 (tMsg 0x0801 [5]) ∧
    Ready (tMap (tCmd 0x0803 [])) 0x0803 0 (tMsg 0x0803 []) ∧ Ready (tMap (tCmd 0x0802 [0x10000])) 0x0802 0 (tMsg 0x0802 [0x10000]) := by
  unfold Ready; decide +kernel
theorem wit_InstallsByTheClerk2 : (match readImage (tMap (tCmd 0x0601 [3])) tRouteImg 0 0 with
    | .ok (some _) => true
    | _ => false) = true ∧ (match readImage (tMap (tCmd 0x0601 [3])) tView 0 0 with
    | .ok none => true
    | _ => false) = true ∧ (match clerkRead (tMap (tCmd 0x0803 [])) tView 0 0 256 with
    | .ok _ => true
    | _ => false) = true := by decide +kernel
theorem wit_InstallsByTheClerk3 : templateBusy (tAdm tRun (tMap (tCmd 0x0601 [3]))) 3 = true ∧
    Ready (tAdm tRun (tMap (tCmd 0x0601 [3]))) 0x0601 0 (tMsg 0x0601 [3]) := by unfold Ready; decide +kernel
/-- A held install in slot 0 for template 3. -/
def tHeld : State :=
  let s := tCmd 0x0601 [3]
  { s with clerk := { s.clerk with waiting := some (3, 0, tTmpl) },
           mbx := { s.mbx with taken := [{ slot := 0, msg := tMsg 0x0601 [3], held := true }] } }
theorem wit_InstallsByTheClerk4 : tHeld.clerk.waiting = some (3, 0, tTmpl) ∧
    tHeld.mbx.taken.find? (fun k => k.slot == 0 && k.held) = some { slot := 0, msg := tMsg 0x0601 [3], held := true } ∧
    templateBusy tHeld 3 = false ∧ clerkRuns tHeld = true := by decide +kernel
/-- The K40 with a map of epoch 0 in map slot 0. -/
def tMapped (s : State) : State := { s with maps := [(0, firstMap 0 [] 0)] }
theorem tZeros (n : Nat) (bs : List Byte) (h : ∀ b ∈ bs, b = 0) : ∀ e ∈ groupLe 2 n bs, e = 0 := by
  induction n generalizing bs with
  | zero => simp [groupLe]
  | succ n ih =>
    intro e he
    rcases List.mem_cons.mp he with rfl | q
    · have : ∀ (l : List Byte), (∀ b ∈ l, b = 0) → leNat l = 0 := by
        intro l
        induction l with
        | nil => intro _; rfl
        | cons a r jh => intro q; unfold leNat; rw [jh (fun b hb => q b (List.mem_cons_of_mem _ hb)), q a (List.mem_cons_self)]; rfl
      exact this _ (fun b hb => h b (List.mem_of_mem_take hb))
    · exact ih (bs.drop 2) (fun b hb => h b (List.mem_of_mem_drop hb)) e q
theorem wit_InstallsByTheClerk5 : ∃ bs, clerkRead (tMap (tMapped (tCmd 0x0802 [0x10000]))) tView 0 0 131072 = .ok bs ∧ mapSound bs = true ∧
    mget (tMap (tMapped (tCmd 0x0802 [0x10000]))).maps 0 = some (firstMap 0 [] 0) ∧ epochLater (bits (arg (tMsg 0x0802 [0x10000]) 1) 16 16) 0 = true ∧
    remapOk (tMap (tMapped (tCmd 0x0802 [0x10000]))) 0 (firstMap 0 [] 0) 0 (mapEntries bs) 1 = true ∧
    Ready (tMap (tMapped (tCmd 0x0802 [0x10000]))) 0x0802 0 (tMsg 0x0802 [0x10000]) := by
  have t : translate (tMap (tMapped (tCmd 0x0802 [0x10000]))) tView 0 0 131072 false = .ok (.seg 0 0 0) := by decide +kernel
  have r : rangePieces (.seg 0 0 0) 0 131072 = [(0, 131072)] := by decide +kernel
  have this : targetOf (tMap (tMapped (tCmd 0x0802 [0x10000]))) 0 131072 = .chip := by decide +kernel
  refine ⟨viewBytes tView 0 131072, ?_, ?_, rfl, by decide, by decide +kernel, by unfold Ready; decide +kernel⟩
  · unfold clerkRead; rw [t]; dsimp only; rw [r]
    simp only [List.any_cons, List.any_nil, List.flatMap_cons, List.flatMap_nil, this, List.append_nil]
    rfl
  · unfold mapSound; rw [List.all_eq_true]
    intro e he
    have := tZeros 65536 (viewBytes tView 0 131072) (fun b hb => by
      unfold viewBytes at hb; obtain ⟨i, _, rfl⟩ := List.mem_map.mp hb; rfl) e he
    subst this; rfl
theorem wit_InstallsByTheClerk8 : mapPlaced (tMap (tMapped (tCmd 0x0802 [0x10000]))) 0 0 = true ∧
    mapPlaced { tPlan (tMap (tCmd 0x0802 [0x10000])) with maps := [] } 0 0x40000000 = true := by decide +kernel
theorem wit_InstallsByTheClerk6 : epochLater 0 0 = false ∧ mget (tMap (tCmd 0x0802 [0x10000])).maps 0 = none := by decide +kernel
/-- A map block whose first entry has its reserved bits set. -/
def tBadMap : ChipView := { cells := [(1, 0xC0)], err := false }
theorem wit_InstallsByTheClerk7 : ∃ bs, clerkRead (tMap (tCmd 0x0802 [0x10000])) tBadMap 0 0 131072 = .ok bs ∧ mapSound bs = false := by
  have t : translate (tMap (tCmd 0x0802 [0x10000])) tBadMap 0 0 131072 false = .ok (.seg 0 0 0) := by decide +kernel
  have r : rangePieces (.seg 0 0 0) 0 131072 = [(0, 131072)] := by decide +kernel
  have this : targetOf (tMap (tCmd 0x0802 [0x10000])) 0 131072 = .chip := by decide +kernel
  refine ⟨viewBytes tBadMap 0 131072, ?_, ?_⟩
  · unfold clerkRead; rw [t]; dsimp only; rw [r]
    simp only [List.any_cons, List.any_nil, List.flatMap_cons, List.flatMap_nil, this, List.append_nil]
    rfl
  · have x : (viewBytes tBadMap 0 131072).take 2 = [0, 0xC0] := by
      unfold viewBytes; rw [← List.map_take, List.take_range]; decide +kernel
    unfold mapSound; rw [show 65536 = 65535 + 1 from rfl]; unfold groupLe; rw [List.all_cons, x]; rfl

/-! ### ContextsFlowsPlans -/

/-- A segment of 4 KiB at DA 4096. -/
theorem wit_ContextsFlowsPlans1 : Ready (tCmd 0x0701 [0x41]) 0x0701 0 (tMsg 0x0701 [0x41]) ∧
    ctxSetOk (tCmd 0x0701 [0x41]) 1 true false 0 0 0 = true ∧
    ctxSetOk (tAdm { tRun with desc := { tRunDesc with ctx := 1 } } (tCmd 0x0701 [0x41])) 1 true false 4096 0 0 = false ∧
    Ready (tCmd 0x0702 [1, 4096, 4096, 0, 15]) 0x0702 0 (tMsg 0x0702 [1, 4096, 4096, 0, 15]) ∧
    segSetOk (tCmd 0x0702 [1, 4096, 4096, 0, 15]) 1 0 { base := 4096, last := 4096, phys := 0, flags := 15 } = true ∧
    segValid { base := 4096, last := 4096, phys := 0, flags := 0 } = false ∧
    segSetOk (tCmd 0x0702 [1, 4096, 0, 0, 15]) 1 0 { base := 4096, last := 0, phys := 0, flags := 15 } = false ∧
    segValid { base := 4096, last := 0, phys := 0, flags := 15 } = true := by unfold Ready; decide +kernel
theorem wit_ContextsFlowsPlans2 : Ready (tCmd 0x0703 [0x10005, 256]) 0x0703 0 (tMsg 0x0703 [0x10005, 256]) ∧
    kindCode 1 = some .runSubmit ∧ kindCode 7 = none ∧ flowConfigOk (tCmd 0x0703 [0x10005, 256]) 5 256 0 = true ∧
    flowConfigOk (tCmd 0x0703 [0x10005, 256]) 5 0 0 = false := by unfold Ready; decide +kernel
/-- The state of a command with a Commit under way, and one with its command held. -/
def tCommitting (s : State) : State := { s with ldg := { s.ldg with committing := true } }
def tHeldMsgs (s : State) : State := { s with mbx := { s.mbx with taken := s.mbx.taken.map (fun k => { k with held := true }) } }
theorem wit_ContextsFlowsPlans3 : Ready (tCommitting (tCmd 0x0901 [0])) 0x0901 0 (tMsg 0x0901 [0]) ∧
    Ready (tCommitting (tCmd 0x0902 [0])) 0x0902 0 (tMsg 0x0902 [0]) ∧ (tCommitting (tCmd 0x0902 [0])).ldg.committing = true ∧
    Ready (tCmd 0x0901 [0x00100084010040A0]) 0x0901 0 (tMsg 0x0901 [0x00100084010040A0]) ∧
    planOk (tCmd 0x0901 [0x00100084010040A0]) 0x00100084010040A0 = true ∧
    planHeld (tCmd 0x0901 [0x00100084010040A0]) 0x00100084010040A0 = false ∧ planOk (tCmd 0x0901 [0]) 0 = false ∧
    Ready (tCmd 0x0902 [0]) 0x0902 0 (tMsg 0x0902 [0]) ∧ (tCmd 0x0902 [0]).ldg.committing = false ∧
    deferredCmd (tHeldMsgs (tCmd 0x0901 [0])) 0 = some { slot := 0, msg := tMsg 0x0901 [0], held := true } ∧
    deferredCmd (tHeldMsgs (tCmd 0x0902 [0])) 0 = some { slot := 0, msg := tMsg 0x0902 [0], held := true } := by
  unfold Ready; decide +kernel
theorem wit_ContextsFlowsPlans4 : (match readHotList (tMap (tCmd 0x0902 [0])) tView 0 0 with
    | .ok l => (match l.hot, l.reps with
      | .ok _, .ok _ => true
      | _, _ => false)
    | .error _ => false) = true ∧ (match readHotList (tCmd 0x0902 [0]) tView 0 0 with
    | .ok _ => false
    | .error _ => true) = true := by decide +kernel

/-! ### StepSealCommit -/

/-- A Ledger with this step open, or sealed and done. -/
def tOpen (n : Nat) (s : State) : State := { s with ldg := { s.ldg with openStep := some n, penRef := .after n } }
def tSealAt (n : Nat) (s : State) : State := { s with ldg := { s.ldg with sealedStep := some n, sealDone := true, penRef := .after n } }
/-- A journal of step 3 that has been flushed. -/
def tJournal : Journal := { step := 3, lambda := 0, entries := [], spills := 0, flushDone := true, powers := [], rebuilds := [] }
theorem wit_StepSealCommit1 : Ready (tWith tTable (tSealAt 2 (tMap (tCmd 0x0A01 [0x100000003, 0])))) 0x0A01 0 (tMsg 0x0A01 [0x100000003, 0]) ∧
    openOk (tWith tTable (tSealAt 2 (tMap (tCmd 0x0A01 [0x100000003, 0])))) 3 = true ∧
    (tWith tTable (tSealAt 2 (tMap (tCmd 0x0A01 [0x100000003, 0])))).ldg.penRef ≠ .unset ∧
    bits (arg (tMsg 0x0A01 [0x100000003, 0]) 1) 32 13 = 1 ∧ openOk (tOpen 2 (tCmd 0x0A01 [3])) 3 = false ∧
    Ready (tOpen 2 (tCmd 0x0A01 [3])) 0x0A01 0 (tMsg 0x0A01 [3]) ∧ Ready (tOpen 3 (tCmd 0x0A02 [3])) 0x0A02 0 (tMsg 0x0A02 [3]) ∧
    (tOpen 3 (tCmd 0x0A02 [3])).ldg.openStep = some 3 ∧ (tOpen 3 (tCmd 0x0A02 [3])).ldg.sealedStep = none ∧
    Ready (tCmd 0x0A02 [3]) 0x0A02 0 (tMsg 0x0A02 [3]) ∧ (tCmd 0x0A02 [3]).ldg.openStep ≠ some 3 := by unfold Ready; decide +kernel
theorem wit_StepSealCommit2 : (match exponentList (tWith tTable (tSealAt 2 (tMap (tCmd 0x0A01 [0x100000003, 0])))) { cells := [(0, 1), (2, 5)], err := false } 0 1 0 with
    | .ok l => decide (l = [(1, 5)])
    | .error _ => false) = true := by decide +kernel
theorem wit_StepSealCommit3 : sealReady { tUp with ldg := { tUp.ldg with sealedStep := some 3, sealing := true } } = true ∧
    clerkRuns tUp = true ∧ Ready (tSealAt 3 (tCmd 0x0A03 [3])) 0x0A03 0 (tMsg 0x0A03 [3]) ∧ lambdaOk 0 = true ∧
    (tSealAt 3 (tCmd 0x0A03 [3])).ldg.committing = false ∧ redoJournal (tSealAt 3 (tCmd 0x0A03 [3])) 3 = none ∧
    redoJournal { tSealAt 3 (tCmd 0x0A03 [3]) with ldg := { (tSealAt 3 (tCmd 0x0A03 [3])).ldg with journal := some tJournal } } 3 = some tJournal ∧
    Ready (tCmd 0x0A03 [3]) 0x0A03 0 (tMsg 0x0A03 [3]) ∧ (tCmd 0x0A03 [3]).ldg.sealedStep ≠ some 3 ∧
    lambdaOk 0xBF800000 = false := by unfold Ready; decide +kernel
/-- A Commit of step 3 in this phase. -/
def tPhase (p : Phase) (s : State) : State :=
  let u := tSealAt 3 s
  { u with ldg := { u.ldg with committing := true, journal := some tJournal, commit := { u.ldg.commit with phase := p } } }
theorem wit_StepSealCommit4 : (tPhase .finish tUp).ldg.commit.phase = .finish ∧ ledgerRuns (tPhase .finish tUp) = true ∧
    (tPhase .finish tUp).ldg.sealedStep = some 3 := by decide

/-! ### CommitPhases -/

/-- An entry of the journal for row 1 of table 1, and the state that has it to do. -/
def tEntry : JEntry := JEntry.fresh { tid := 1, defkey := false, row := 1 } 64
def tDo (s : State) : State := { s with ldg := { s.ldg with commit := { s.ldg.commit with todo := [tEntry] } } }
theorem wit_CommitPhases1 : (tPhase .journal tUp).ldg.journal = some tJournal ∧ (tPhase .journal tUp).ldg.commit.phase = .journal ∧
    ledgerRuns (tPhase .journal tUp) = true ∧ nextEntry (tDo (tPhase .apply tUp)).ldg.commit = some tEntry ∧
    (tDo (tPhase .apply tUp)).ldg.commit.phase = .apply ∧ applyWaits (tDo (tPhase .apply tUp)) tEntry.key = false ∧
    issueHeld (tDo (tPhase .apply tUp)) = false ∧ applyPlace (tDo (tPhase .apply tUp)) tEntry.key = none := by decide +kernel
/-- The same with table 1, whose learned default row applies; the row reads FP32 zeros with STAMP 0. -/
def tDefault : Table := { tSlot .active with defMode := true, defHome := 0 }
def tDefEntry : JEntry := JEntry.fresh { tid := 1, defkey := true, row := 0 } 64
def tDefDo (n : Nat) (bad : Bool) : State :=
  let s := tPlan (tWith tDefault (tPhase .apply tUp))
  { s with ldg := { s.ldg with sealedStep := some n, commit := { s.ldg.commit with todo := [{ tDefEntry with bad := bad }] } } }
/-- What the unit reads: the learned default row with STAMP 0 in step 0 or 3; a bad record stops it. -/
theorem wit_CommitPhases2 : ∀ n b, ((n = 0 ∨ n = 3) ∧ b = false) ∨ (n = 3 ∧ b = true) →
    nextEntry (tDefDo n b).ldg.commit = some { tDefEntry with bad := b } ∧ applyWaits (tDefDo n b) tDefEntry.key = false ∧
    issueHeld (tDefDo n b) = false ∧ (match applyPlace (tDefDo n b) tDefEntry.key with
      | some (x, p) => (match applyGet x p { tDefEntry with bad := b } none [] (tDefDo n b) with
        | (some (d, _, _), u) => !b && decide ((hdrOf d.header).stamp = 0) && decide (sealedNo u = n)
        | (none, _) => b)
      | none => false) = true := by
  rintro n b (⟨rfl | rfl, rfl⟩ | ⟨rfl, rfl⟩) <;> decide +kernel
/-- A promotion of a key of the sealed step; of another step. -/
def tPromo (n : Nat) : PromoReq := { key := tEntry.key, step := n, who := .column 0 }
def tAsked (q : PromoReq) (s : State) : State := { s with ldg := { s.ldg with commit := { s.ldg.commit with promoIn := [q] } } }
theorem wit_CommitPhases3 : (tAsked (tPromo 4) (tPhase .apply tUp)).ldg.commit.promoIn.findIdx? (fun q => !promoWaits (tAsked (tPromo 4) (tPhase .apply tUp)) q) = some 0 ∧
    (tAsked (tPromo 3) (tDo (tPhase .apply tUp))).ldg.commit.promoIn.findIdx? (fun q => !promoWaits (tAsked (tPromo 3) (tDo (tPhase .apply tUp))) q) = some 0 ∧
    (tAsked (tPromo 3) (tPhase .apply tUp)).ldg.commit.promoIn.findIdx? (fun q => !promoWaits (tAsked (tPromo 3) (tPhase .apply tUp)) q) = some 0 ∧
    (tAsked (tPromo 4) (tPhase .apply tUp)).ldg.sealedStep ≠ some 4 ∧
    (tAsked (tPromo 3) (tDo (tPhase .apply tUp))).ldg.sealedStep = some 3 ∧
    spillKey (meetFilter tEntry.key 3 (tDo (tPhase .apply tUp))) tEntry.key = false ∧
    unapplied (meetFilter tEntry.key 3 (tDo (tPhase .apply tUp))) tEntry.key = true ∧
    unapplied (meetFilter tEntry.key 3 (tPhase .apply tUp)) tEntry.key = false ∧
    tEntry.key ∉ (tDo (tPhase .apply tUp)).ldg.commit.promoted ∧ (tDo (tPhase .apply tUp)).ldg.commit.promoted.length < 65536 ∧
    (tPhase .idle tUp).ldg.commit.phase = .idle ∧ (tPhase .apply tUp).ldg.commit.phase ≠ .idle := by
  decide +kernel
/-- Its queue full of promotions of another key. -/
def tFull (s : State) : State :=
  { s with ldg := { s.ldg with commit := { s.ldg.commit with promoted := List.replicate 65536 { tid := 2, defkey := false, row := 0 } } } }
theorem wit_CommitPhases4 : 65536 ≤ (tFull tUp).ldg.commit.promoted.length ∧ tEntry.key ∉ (tFull tUp).ldg.commit.promoted := by
  refine ⟨?_, fun h => ?_⟩
  · show 65536 ≤ (List.replicate 65536 _).length
    rw [List.length_replicate]
  · have := (List.mem_replicate.mp (show _ ∈ List.replicate 65536 _ from h)).2
    exact absurd this (by decide)
theorem wit_CommitPhases5 : (tPhase .spill tUp).ldg.commit.phase = .spill ∧ (tPhase .spill tUp).ldg.commit.todo = [] ∧
    issueHeld (tPhase .spill tUp) = false ∧
    (colOf (colMod 2 (fun c => { c with notices := [tEntry.key] }) tUp) 2).notices = tEntry.key :: [] := by decide +kernel
/-- A slot whose shelf 0 may be evaluated, or waits for its Pawn list. -/
def tShelf : ShelfInfo := { num := 0, cls := .w8, fill := 64, retired := none, signal := 0, mark := none }
def tShelved : Table :=
  { tSlot .active with opt := { (tSlot .active).opt with threshold := true, shelfUp := 0x3F800000, shelfDown := 0x3F800000 },
                       slot0 := { (tSlot .active).slot0 with shelves := 2, used := [tShelf] } }
/-- Shelf 0 in memory with this many Pawn entries used. -/
def tShelfIn (n : Nat) : State :=
  let s := tWith tShelved (tPhase .shelf tUp)
  writeShelf tShelved.slot0 0 { readShelf s tShelved.slot0 0 with cls := .w8, pawnUsed := n } s
theorem wit_CommitPhases6 : liveTable (tShelfIn 0) 1 = some tShelved ∧ activeSlot tShelved = some 0 ∧
    shelfInfo (vslot tShelved 0) 0 = some tShelf ∧ (tShelfIn 0).ldg.commit.phase = .shelf ∧
    evaluatesFlat (tShelfIn 0) tShelved (vslot tShelved 0) tShelf = true ∧
    issueHeld (tShelfIn 0) = false := by decide +kernel
theorem wit_CommitPhases7 : liveTable (reclaim 1 0 (tShelfIn 65535)) 1 = some tShelved ∧
    compactDue (reclaim 1 0 (tShelfIn 65535)) tShelved (vslot tShelved 0) tShelf = true ∧
    dueNow (reclaim 1 0 (tShelfIn 65535)) { tid := 1, slot := 0, shelf := 0, compact := true } = true ∧
    shelfFree (vslot tShelved 0) 1 = true ∧
    (rowsIn (reclaim 1 0 (tShelfIn 65535)) tShelved (vslot tShelved 0) 0).all (fun p => p.2.tier != 2) = true := by decide +kernel
/-- A row move that ends with this tier. -/
def tMoving (tier : Nat) : RowMove :=
  { tid := 1, slot := 0, dirAddr := 16, copied := true,
    entry := dirBits { cls := .w32, tier := tier, loaded := true, shelf := 0, ofs := 4, larder := 7 } }
theorem wit_CommitPhases8 : ({ tUp with moves := [tMoving 1] } : State).moves[0]? = some (tMoving 1) ∧ (dirOf (tMoving 1).entry).tier = 1 ∧
    (dirOf (tMoving 0).entry).tier ≠ 1 ∧ (readDir { tUp with moves := [tMoving 1] } (tMoving 1).dirAddr).tier ≠ 3 ∧ (mget (tWith tTable tUp).tables 1).isSome := by decide +kernel

/-! ### LedgerFolds -/

/-- A contribution of step 3 to row 1 of table 1, and an entry for it. -/
def tContrib : Contrib :=
  { key := { tid := 1, defkey := false, row := 1 }, slice := 0, step := 3, epoch := 1, vals := [0x3F800000], contrib := 1, tokens := 1,
    runs := [], bytes := 128, deferred := false, pkt := none, hold := .no, block := 0 }
def tLEntry : LEntry :=
  { pos := 0, acb := 327680, applied := false, key := tContrib.key, step := 3, deferred := false, promoted := false, issued := false, bad := false, contrib := 0,
    tokens := 0, defTokens := 0, acc := [0] }
/-- Step 3 open, with these contributions at the input and in the pen, and these entries. -/
def tFold (inp pen : List Contrib) (es : List LEntry) (s : State) : State :=
  let u := tOpen 3 (tPlan (tWith (tSlot .active) s))
  { u with ldg := { u.ldg with input := inp, pen := pen, entries := es } }
/-- The same without a plan: no room for an entry or a record. -/
def tTight (plan : W64) (s : State) : State := { s with lrd := { s.lrd with plan := plan } }
theorem wit_LedgerFolds1 : duePos (tFold [tContrib] [] [tLEntry] tUp) = none ∧ fateOf (tFold [tContrib] [] [tLEntry] tUp) tContrib false = .fold 3 false ∧
    (entryOf (tFold [tContrib] [] [tLEntry] tUp) tContrib.key 3).isSome = true ∧
    tLEntry ∈ (tFold [tContrib] [] [tLEntry] tUp).ldg.entries ∧ tLEntry.issued = false ∧
    (∀ e ∈ (tFold [tContrib] [] [tLEntry] tUp).ldg.entries, e.pos = 9 → e.issued = true) ∧
    (entryOf (tFold [tContrib] [] [] tUp) tContrib.key 3).isSome = false ∧ duePos (tFold [tContrib] [] [] tUp) = none ∧
    fateOf (tFold [tContrib] [] [] tUp) tContrib false = .fold 3 false ∧
    ((mget (tFold [tContrib] [] [] tUp).tables 1).map Table.dim).getD 0 = 64 ∧
    entryRoom (tFold [tContrib] [] [] tUp) 64 = true ∧ posFree (tFold [tContrib] [] [] tUp) 9 = true ∧
    entryRoom (tTight 0x0010000000000000 (tFold [tContrib] [] [] tUp)) 64 = false ∧
    spillRoom (tTight 0x0010000000000000 (tFold [tContrib] [] [] tUp)) false = true ∧
    spillRoom (tTight 0 (tFold [tContrib] [] [] tUp)) false = false ∧
    fateOf (tTight 0 (tFold [tContrib] [] [] tUp)) tContrib false = .fold 3 false := by decide +kernel
theorem wit_LedgerFolds2 : fateOf (tFold [{ tContrib with step := 9 }] [] [] tUp) { tContrib with step := 9 } false = .drop .stray ∧
    duePos (tFold [{ tContrib with step := 9 }] [] [] tUp) = none ∧
    fateOf (tFold [{ tContrib with step := 4 }] [] [] tUp) { tContrib with step := 4 } false = .pen (.step 4) false ∧
    penPlace (tFold [{ tContrib with step := 4 }] [] [] tUp) tContrib.bytes = some 0 ∧
    penPlace (tFold [{ tContrib with step := 4 }] [{ tContrib with hold := .step 4, bytes := 16777216 }] [] tUp) tContrib.bytes = none ∧
    duePos (tFold [{ tContrib with step := 4 }] [{ tContrib with hold := .step 4, bytes := 16777216 }] [] tUp) = none ∧
    fateOf (tFold [{ tContrib with step := 4 }] [{ tContrib with hold := .step 4, bytes := 16777216 }] [] tUp) { tContrib with step := 4 } false =
      .pen (.step 4) false := by decide +kernel
/-- The Ledger region of this plan, with its first block poisoned. -/
def tPenPoison (s : State) : State := { s with lrd := { s.lrd with poison := [ledgerBase s] } }
theorem wit_LedgerFolds3 : duePos (tFold [] [{ tContrib with hold := .step 3 }] [tLEntry] tUp) = some 0 ∧
    penPoison (tFold [] [{ tContrib with hold := .step 3 }] [tLEntry] tUp) { tContrib with hold := .step 3 } = none ∧
    placeFate (tFold [] [{ tContrib with hold := .step 3 }] [tLEntry] tUp) { tContrib with hold := .step 3 } = none ∧
    (entryOf (tFold [] [{ tContrib with hold := .step 3 }] [tLEntry] tUp) tContrib.key 3).isSome = true ∧
    (penPoison (tPenPoison (tFold [] [{ tContrib with hold := .step 3 }] [tLEntry] tUp)) { tContrib with hold := .step 3 }).isSome = true := by decide +kernel

/-! ### BackwardPath -/

/-- A backward SUM Run without weight gradients, its table with an optimiser, and its work on Mill 0.0. -/
def tBack : Run := { tRun with backward := true, tmpl := { tTmpl with backward := true } }
def tBackWork (l : Lookup) : BagWork := { tWork with ord := 4, lookups := [(l, 0x3F800000)] }
def tSgd (k : OptKind) : Table := { tSlot .active with opt := { (tSlot .active).opt with kind := k } }
def tBackState (l : Lookup) (k : OptKind) (c : Column → Column) : State :=
  colMod 0 (fun x => c { x with mills := [(0, tMill (tBackWork l))], backward := true, active := 1, window := [none] })
    (tAdm tBack (tWith (tSgd k) tUp))
/-- Five slots of Mill 0, for rows 100 to 104. -/
def tSlots : List MergeSlot := (List.range 5).map (fun i =>
  { mkey := { step := 0, key := { tid := 1, defkey := false, row := 100 + i }, slice := 0, epoch := 0 }, spread := false, owner := 0,
    copies := [], tokens := 0, bad := false })
theorem wit_BackwardPath1 : workOf (tBackState (.valid 1) .sgd id) 0 0 = some (tBackWork (.valid 1)) ∧
    runOf (tBackState (.valid 1) .sgd id) 4 = some tBack ∧ needsRows tBack = false ∧ millsRun (tBackState (.valid 1) .sgd id) = true ∧
    (colOf (tBackState (.valid 1) .sgd id) 0).window.length < 4096 ∧ (tSgd .sgd).opt.kind ≠ .none ∧
    ((Lookup.valid 1).key 1).isSome = true ∧
    ((colOf (tBackState (.valid 1) .sgd id) 0).merged 1 4 0 { step := 0, key := { tid := 1, defkey := false, row := 1 }, slice := 0, epoch := 0 } [] false).isSome = true ∧
    (colOf (tBackState (.valid 1) .sgd (fun c => { c with merge := tSlots })) 0).merged 1 4 0
      { step := 0, key := { tid := 1, defkey := false, row := 1 }, slice := 0, epoch := 0 } [] false = none := by decide +kernel
theorem wit_BackwardPath2 : (tSgd .none).opt.kind = .none ∧
    (colOf (tBackState (.valid 1) .sgd (fun c => { c with flushDue := true })) 0).flushDue = true ∧
    tUp.ldg.input.length + localPartials tUp (colOf (tBackState (.valid 1) .sgd (fun c => { c with flushDue := true })) 0) ≤ 4096 ∧
    (colOf (tBackState (.valid 1) .sgd (fun c => { c with merge := tSlots })) 0).merge ≠ [] ∧
    (∀ r ∈ (tBackState (.valid 1) .sgd id).qh.runs, r.groups = []) := by decide +kernel
/-- A full Ledger input. -/
theorem wit_BackwardPath3 : 4096 < (List.replicate 4097 tContrib).length + localPartials { tUp with ldg := { tUp.ldg with input := List.replicate 4097 tContrib } } Column.reset := by
  rw [List.length_replicate]; omega
/-- A partial packet, and a port with it queued on channel 4 or 5. -/
def tPart : PartialPkt :=
  { tid := 1, defkey := false, row := 1, slice := 0, w16 := false, ownExp := false, rescaled := false, step := 3, epoch := 1, exp := 0,
    contrib := 1, tokens := 1, codes := [] }
def tPkt (b : PktBody) : Packet := mkPkt tUp 5 b
def tQueued (b : PktBody) : Queued := { pkt := tPkt b, eligible := false, lent := [] }
theorem wit_BackwardPath4 : partialsIn (mgetD (portAt (portMod 0 (fun p => { p with queues := [(4, [tQueued (.part tPart)])] }) tUp) 0).queues 4 []) = 1 ∧
    (mget (portAt (portMod 0 (fun p => { p with queues := [(4, [tQueued (.part tPart)])] }) tUp) 0).queues 4).isSome ∧
    partialsIn (mgetD (portAt (portMod 0 (fun p => { p with queues := [(5, [tQueued (.part tPart)])] }) tUp) 0).queues 4 []) = 0 ∧
    (mget (portAt (portMod 0 (fun p => { p with queues := [(5, [tQueued (.part tPart)])] }) tUp) 0).queues 5).isSome ∧
    ({ tUp.span with partialQ := [(tPkt (.part tPart), [4])] } : Span).partialQ = (tPkt (.part tPart), [4]) :: [] := by decide +kernel

/-! ### CountersAndSamples -/

theorem wit_CountersAndSamples1 : Ready (tCmd 0x0B01 [0x010000, 0x4000]) 0x0B01 0 (tMsg 0x0B01 [0x010000, 0x4000]) ∧
    ctrConfigOk 0 0 1 0x4000 = true ∧ Nat.testBit 1 0 = true ∧ Nat.testBit 1 1 = false ∧ ctrConfigOk 0 66 1 0x4000 = false ∧
    bits (arg (tMsg 0x0B01 [0x010000, 0x4000]) 1) 16 8 = 1 ∧ bits (arg (tMsg 0x0B01 [0x010000, 0x4000]) 2) 0 15 = 0x4000 ∧
    Ready (tCmd 0x0B01 [0x4200, 0x4000]) 0x0B01 0 (tMsg 0x0B01 [0x4200, 0x4000]) ∧ kcpAlive tUp = true ∧ readerRuns tUp = true ∧
    bits (arg (tMsg 0x0B01 [0x4200, 0x4000]) 1) 16 8 = 0 ∧ ctrConfigOk 0 66 0 0x4000 = false := by unfold Ready; decide +kernel
/-- The counter block in this mode, with or without a record on its way. -/
def tCtr (m : CtrMode) (busy : Bool) : State :=
  let s := { tUp with ctr := { tUp.ctr with mode := m, dumpBase := 1 } }
  if busy then { s with cdp := [(0, { cdpPort s 0 with outQ := [{ kind := .pedWr, tag := 0, addr := 0, len := 8, data := [], owner := .dump }] })] } else s
theorem wit_CountersAndSamples2 : (tCtr .freeze false).ctr.mode = .freeze ∧ (tCtr .freeze false).ctr.frozen = false ∧
    kcpAlive (tCtr .freeze false) = true ∧ (tCtr .live false).ctr.mode ≠ .freeze ∧ readerRuns (tCtr .dump false) = true ∧
    bit (tCtr .dump false).ctr.dumpBase 0 = true ∧ dumpBusy (tCtr .dump false) = false ∧ dumpBusy (tCtr .dump true) = true ∧
    bit (1 : W64) 0 = true ∧ bit (0 : W64) 0 = false ∧
    isUpper (islandOf tUp 0) 0 = false ∧ isChained (islandOf tUp 0) 0 = false ∧ anySticky tUp = false ∧
    anySticky { tUp with ctr := { tUp.ctr with islands := [(0, { Island.zero with sticky := 1 })] } } = true ∧
    tUp.ctr.mode ≠ .dump := by decide +kernel
/-- A sample that is over. -/
def tSample : Sample :=
  { ord := 4, bag := 0, tag := 0, template := 3, tid := 1, spec := false, backward := false, col := 0, mill := 0, redone := false,
    failed := false, status := .ok, passes := 1, rows := 1, srcs := [], done := true }
theorem wit_CountersAndSamples3 : ({ tUp.ctr with samples := [tSample] } : Ctr).samples[0]? = some tSample ∧ tSample.done = true ∧
    pedlarWaiting tUp < 64 := by decide +kernel
/-- 64 writes wait on port 0. -/
def tFullPort : State :=
  { tUp with cdp := [(0, { cdpPort tUp 0 with outQ := List.replicate 64 { kind := .pedWr, tag := 0, addr := 0, len := 8, data := [], owner := .dump } })] }
theorem wit_CountersAndSamples4 : 64 ≤ pedlarWaiting tFullPort := by decide +kernel

/-! ### ShuttersAndTiles -/

/-- SHUTTER and UNSHUTTER of Column 2; Shutters of it that run or are done. -/
def tShut (done : Bool) (kind num : Nat) : Shutter :=
  { kind := kind, num := num, force := false, owners := [], w1 := 0, counts := [], done := done }
def tShuts (l : List Shutter) (s : State) : State := { s with shutters := l }
theorem wit_ShuttersAndTiles1 : Ready (tCmd 0x0C01 [0x202]) 0x0C01 0 (tMsg 0x0C01 [0x202]) ∧ shutTarget (tCmd 0x0C01 [0x202]) 2 2 = true ∧
    bit (arg (tMsg 0x0C01 [0x202]) 1) 3 = false ∧ (tCmd 0x0C01 [0x202]).shutters.find? (fun x => x.at 2 2 && !x.done) = none ∧
    (tShuts [tShut false 2 2] (tCmd 0x0C01 [0x202])).shutters.find? (fun x => x.at 2 2 && !x.done) = some (tShut false 2 2) ∧
    Ready (tShuts [tShut false 2 2] (tCmd 0x0C01 [0x202])) 0x0C01 0 (tMsg 0x0C01 [0x202]) ∧
    shutTarget (tShuts [tShut false 2 2] (tCmd 0x0C01 [0x202])) 2 2 = true ∧ shutTarget (tCmd 0x0C01 [0x2802]) 2 40 = false ∧
    Ready (tCmd 0x0C01 [0x2802]) 0x0C01 0 (tMsg 0x0C01 [0x2802]) ∧
    shutTarget (flowMod 2 (fun g => { g with kind := .runSubmit }) (tCmd 0x0C01 [0x200])) 0 2 = true ∧
    shutTarget (tWith tTable (tCmd 0x0C01 [0x101])) 1 1 = true ∧ shutTarget (tCmd 0x0C01 [0x204]) 4 2 = true ∧
    shutTarget (tCmd 0x0C01 [0x203]) 3 2 = true := by unfold Ready; decide +kernel
theorem wit_ShuttersAndTiles2 : (tShuts [tShut false 2 2] tUp).shutters[0]? = some (tShut false 2 2) ∧
    shutterReady (tShuts [tShut false 2 2] tUp) (tShut false 2 2) = true ∧ shutterReady (tShuts [tShut false 4 2] tUp) (tShut false 4 2) = true ∧
    shutterDone (tShuts [tShut true 2 2] (tCmd 0x0C02 [0x202])) 2 2 = true ∧
    Ready (tShuts [tShut true 2 2] (tCmd 0x0C02 [0x202])) 0x0C02 0 (tMsg 0x0C02 [0x202]) ∧
    (colOf (tShuts [tShut true 2 2] (tCmd 0x0C02 [0x202])) 2).state ≠ .failed ∧ shutterDone (tCmd 0x0C02 [0x202]) 2 2 = false ∧
    shutterDone (tShuts [tShut true 0 2, tShut true 1 2, tShut true 3 2, tShut true 4 2] tUp) 0 2 = true ∧
    shutterDone (tShuts [tShut true 0 2, tShut true 1 2, tShut true 3 2, tShut true 4 2] tUp) 1 2 = true ∧
    shutterDone (tShuts [tShut true 0 2, tShut true 1 2, tShut true 3 2, tShut true 4 2] tUp) 3 2 = true ∧
    shutterDone (tShuts [tShut true 0 2, tShut true 1 2, tShut true 3 2, tShut true 4 2] tUp) 4 2 = true := by unfold Ready; decide +kernel
/-- A Mill at work in a transition to P2, and one with its slice saved. -/
def tAtWork (m : Mill) (p : Pwr → Pwr) (s : State) : State := colMod 3 (fun c => { c with mills := [(1, m)] }) { s with pwr := p s.pwr }
theorem wit_ShuttersAndTiles3 : ∀ w, w = { tWork with cursor := 1 } ∨ w = { tWork with cursor := 1, provNow := [{ key := { tid := 1, defkey := false, row := 1 }, home := 0, isLocal := true, noticed := false }] } →
    workOf (tAdm tRun (tAtWork (tMill w) (fun p => { p with busy := true, target := 2 }) tUp)) 3 1 = some w ∧ w.partly = true ∧
    (runOf (tAdm { tRun with ord := 0 } (tAtWork (tMill w) (fun p => { p with busy := true, target := 2 }) tUp)) w.ord).isSome = true ∧
    savesTiles (tAtWork (tMill w) (fun p => { p with busy := true, target := 2 }) tUp) = true ∧
    (millOf (colOf (tAtWork (tMill w) (fun p => { p with busy := true, target := 2 }) tUp) 3) 1).saved = none ∧
    Memory.wf (tAtWork (tMill w) (fun p => { p with busy := true, target := 2 }) tUp).hbm = true := by
  rintro w (rfl | rfl) <;> decide +kernel
theorem wit_ShuttersAndTiles4 : BagWork.sawProv { tWork with cursor := 1 } = false ∧
    BagWork.sawProv { tWork with cursor := 1, provNow := [{ key := { tid := 1, defkey := false, row := 1 }, home := 0, isLocal := true, noticed := false }] } = true ∧
    (millOf (colOf (tAtWork { work := none, token := none, part := none, saved := some tWork } id tUp) 3) 1).saved = some tWork ∧
    millsRun (tAtWork { work := none, token := none, part := none, saved := some tWork } id tUp) = true ∧
    (tAtWork { work := none, token := none, part := none, saved := some tWork } id tUp).pwr.busy = false ∧
    workOf (tAtWork { work := none, token := none, part := none, saved := some tWork } id tUp) 3 1 = none := by decide +kernel

/-! ### PedlarPath -/

/-- Port 1 up with a Pedlar credit, and flow 2 of a kind with room. -/
def tPed (g : Flow) (s : State) : State :=
  { s with
    cdp := [(1, { CdpPort.down with kRdy := true, sRdy := true, pedCredit := 1 })]
    qh := { s.qh with flows := [(0, { Flow.unused with kind := .runSubmit, limit := 8, reserve := 8 }), (2, g)] } }
def tFl (k : FlowKind) (n : Nat) : Flow := { Flow.unused with kind := k, limit := n, reserve := n }
/-- PUSH of 1 to flow 2; POP of 2 from it; PROBE of it; headers R467 refuses. -/
theorem wit_PedlarPath1 : pedTaken (tPed (tFl .xferSubmit 4) tUp) 1 = true ∧ pedFlow 0x40020#64 = 2 ∧ pedCells 0x40020#64 = 1 ∧
    pedOp 0x40020#64 = 0 ∧ pedReserved 0x40020#64 = true ∧ pedCellsOk 0x40020#64 = true ∧ tUp.gbl.state ≠ .held ∧ tUp.gbl.state ≠ .selftest ∧
    pushSuits (kindOf (tPed (tFl .xferSubmit 4) tUp) 2) 1 = true ∧ (flowOf (tPed (tFl .xferSubmit 4) tUp) 2).shut = false ∧
    flowTakes (tPed (tFl .xferSubmit 4) tUp) (flowOf (tPed (tFl .xferSubmit 4) tUp) 2) 1 = true ∧
    flowTakes (tPed (tFl .xferSubmit 0) tUp) (flowOf (tPed (tFl .xferSubmit 0) tUp) 2) 1 = false ∧
    pushSuits (kindOf (tPed (tFl .complete 4) tUp) 2) 1 = false ∧ pedReserved 0x240020#64 = false ∧ pedOp 0x240020#64 = 0 ∧
    pedCellsOk 0x20#64 = false ∧ pedOp 0x20#64 = 0 := by decide +kernel
theorem wit_PedlarPath2 : pedOp 0x80021#64 = 1 ∧ pedReserved 0x80021#64 = true ∧ pedCellsOk 0x80021#64 = true ∧
    kindOf (tPed (tFl .complete 4) tUp) 2 = .complete ∧ (flowOf (tPed (tFl .complete 4) tUp) 2).records = [] ∧
    (flowOf (tPed { tFl .complete 4 with records := [[1, 2, 3, 4]] } tUp) 2).records ≠ [] ∧
    kindOf (tPed { tFl .complete 4 with records := [[1, 2, 3, 4]] } tUp) 2 = .complete ∧
    pedOp 0x22#64 = 2 ∧ pedReserved 0x22#64 = true ∧ pedCellsOk 0x22#64 = true := by decide +kernel
theorem wit_PedlarPath3 : kcpAlive (tPed (tFl .complete 4) tUp) = true ∧ subTaken (tPed (tFl .complete 4) tUp) = true ∧
    kcpAlive tUp = true ∧ subTaken tUp = false ∧
    itemGen .xferSubmit { words := [0, 0, 0, 0x0007000000000000], replaced := false, ended := false, bad := false } = 7 := by decide +kernel

/-! ### AdmissionOutcomes -/

/-- A Run descriptor of template 3, table 1, completion flow 9, in flow 0. -/
def tItem : SubItem :=
  { words := [0x0000000100090003, 0x0000000500000000, 0, 0x0000000400000001, 0, 1, 0, 0x1000, 0, 0, 0, 0, 0, 0, 0, 0], replaced := false, ended := false, bad := false }
/-- A transfer of one 4-byte element to completion flow 9. -/
def tMove : SubItem :=
  { words := [0x1000, 0x2000, 0x0000010000010004, 0x0000000001000001, 0, 0, 0, 9], replaced := false, ended := false, bad := false }
/-- One item at the head of flow 0 and room in flow 9; template 3, an active table 1, an open step and an enabled Column. -/
def tSubm (x : SubItem) (k : FlowKind) (s : State) : State :=
  { tMap s with
    qh := { s.qh with flows := [(0, { Flow.unused with kind := k, items := [x], limit := 8, reserve := 8 }), (9, tFl .complete 4)] }
    templates := [(3, { tTmpl with outFmts := 1, fuseOps := 1 })]
    tables := [(1, { tTable with slot0 := { tTable.slot0 with state := .active }, active := 0 })]
    ldg := { s.ldg with openStep := some 0 } }
theorem wit_AdmissionOutcomes1 : (flowOf (tSubm tItem .runSubmit tUp) 0).items = [tItem] ∧ admissionOpen (tSubm tItem .runSubmit tUp) = true ∧
    (flowOf (tSubm tItem .runSubmit tUp) 0).kind = .runSubmit ∧ mget (tSubm tItem .runSubmit tUp).qh.parked 0 = none ∧
    armWaits (tSubm tItem .runSubmit tUp) 0 = false ∧ (tSubm tItem .runSubmit tUp).clerk.waiting.map Prod.fst ≠ some (runDescOf tItem).template := by
  decide +kernel
theorem wit_AdmissionOutcomes2 : (match runVerdict (tSubm tItem .runSubmit tUp) tView 0 tItem (runDescOf tItem),
      mget (tSubm tItem .runSubmit tUp).templates (runDescOf tItem).template, liveTable (tSubm tItem .runSubmit tUp) (runDescOf tItem).tid with
    | .passes xs, some t, some tab => runFree (tSubm tItem .runSubmit tUp) (runDescOf tItem) t (rangesOf (runDescOf tItem) t tab.dim).length xs
    | _, _, _ => false) = true := by decide +kernel
theorem wit_AdmissionOutcomes3 : runVerdict (tSubm { tItem with words := [] } .runSubmit tUp) tView 0 { tItem with words := [] } (runDescOf { tItem with words := [] }) =
      .ends .badTemplate ∧ recordReady (tSubm { tItem with words := [] } .runSubmit tUp) (runDescOf { tItem with words := [] }).flow = true ∧
    recordReady (tSubm { tItem with bad := true } .runSubmit tUp) (runDescOf { tItem with bad := true }).flow = true := by decide +kernel
/-- Context 0 of the same machine in page-table mode, over tables that read 0. -/
def tBare (s : State) : State := { s with xlt := { s.xlt with ctxs := [(0, { Ctx.reset with valid := true, ptMode := true, ptfmt := 0x5A38204, root := 1 })] } }
theorem wit_AdmissionOutcomes4 : (match runVerdict (tBare (tSubm tItem .runSubmit tUp)) tView 0 tItem (runDescOf tItem),
      xferVerdict (tBare (tSubm tMove .xferSubmit tUp)) tView 0 tMove (xferDescOf tMove) with
    | .faults _, .faults _ => true
    | _, _ => false) = true := by decide +kernel
theorem wit_AdmissionOutcomes5 : (flowOf (tSubm tMove .xferSubmit tUp) 0).items = [tMove] ∧ admissionOpen (tSubm tMove .xferSubmit tUp) = true ∧
    (flowOf (tSubm tMove .xferSubmit tUp) 0).kind = .xferSubmit ∧ armWaits (tSubm tMove .xferSubmit tUp) 0 = false ∧
    (match xferVerdict (tSubm tMove .xferSubmit tUp) tView 0 tMove (xferDescOf tMove) with
      | .passes [a, b] => admitRoom (tSubm tMove .xferSubmit tUp) && recordRoom (tSubm tMove .xferSubmit tUp) (xferDescOf tMove).flow &&
          canPin (tSubm tMove .xferSubmit tUp) (leavesAll [a, b])
      | _ => false) = true ∧
    xferVerdict (tSubm { tMove with words := [] } .xferSubmit tUp) tView 0 { tMove with words := [] } (xferDescOf { tMove with words := [] }) = .ends .badDescriptor ∧
    recordReady (tSubm { tMove with words := [] } .xferSubmit tUp) 0 = true := by decide +kernel
theorem wit_AdmissionOutcomes6 : (flowOf (tSubm { tItem with replaced := true } .runSubmit tUp) 0).items = [{ tItem with replaced := true }] ∧
    isLive (tSubm { tItem with replaced := true } .runSubmit tUp) = true ∧
    recordReady (tSubm { tItem with replaced := true } .runSubmit tUp) (runDescOf { tItem with replaced := true }).flow = true ∧
    recordReady (tSubm { tMove with replaced := true } .xferSubmit tUp) (xferDescOf { tMove with replaced := true }).flow = true ∧
    (flowOf (tSubm tItem .runSubmit tUp) 9).kind = .complete := by decide +kernel

/-! ### QueueHallEvents -/

/-- A transfer of ordinal 7 that moves one element. -/
def tXfer : Xfer :=
  { ord := 7, desc := xferDescOf tMove, subFlow := 0, src := .seg 0 0 4, dst := .seg 0 0 4, cursor := 0, done := 0, got := [], writes := 0,
    bad := none, carter := 63, staleSrc := false, staleDst := false, stalled := false, replay := false, ended := none }
def tGoing (x : Xfer) (s : State) : State := { s with qh := { s.qh with xfers := [x] } }
theorem wit_QueueHallEvents1 : (flowOf (tSubm tItem .runSubmit tUp) 0).kind = .runSubmit ∧ (flowOf (tSubm tItem .runSubmit tUp) 0).held ≠ 0 ∧
    (flowOf (tSubm tItem .runSubmit tUp) 0).timeout = false ∧
    0 < (flowOf (tSubm tItem .runSubmit tUp) 0).items.length ∧
    (flowOf (tPed { tFl .complete 4 with records := [[1]], timeout := true } tUp) 2).held ≠ 0 ∧
    0 < (flowOf (tPed { tFl .complete 4 with records := [[1]], timeout := true } tUp) 2).records.length ∧
    xferOf (tGoing tXfer tUp) 7 = some tXfer := by decide +kernel
theorem wit_QueueHallEvents2 : kcpAlive tUp = true ∧ tUp.gbl.state = .ready ∧ bits 0x466#64 0 4 = 6 ∧ bits 0x466#64 4 4 = 6 ∧ bits 0x466#64 8 4 = 4 ∧
    ¬(bits 0x000#64 0 4 = tUp.qh.splitRead ∧ bits 0x000#64 4 4 = tUp.qh.splitWrite ∧ bits 0x000#64 8 4 = tUp.qh.splitRemote) ∧
    bits 0x404#64 0 5 = 4 ∧ bits 0x404#64 8 5 = 4 ∧ bits 0x403#64 0 5 < 4 ∧ bits 0x31F#64 8 5 < 4 := by decide +kernel
theorem wit_QueueHallEvents3 : (tAdm tRun tUp).qh.runs[0]? = some tRun := by decide +kernel

/-! ### FaultUnit -/

/-- A fault of stream 0 of Run 4, and one of the admission of flow 2. -/
def tFault (x : FaultSource) : FaultReq :=
  { src := x, ctx := 0, ptMode := true, kind := .notPresent, key := 1, seg := 0, level := 0, da := 4096, write := false, carter := 63, tag := 5 }
def tPend (x : FaultSource) (w : Bool) : PendEntry := { gen := 1, first := tFault x, srcs := [x], written := w, met := false }
def tFlt (f : Flt → Flt) (s : State) : State := { s with flt := f s.flt }
theorem wit_FaultUnit1 : (tFlt (fun f => { f with raised := [tFault (.admission 2)], pend := [(3, tPend (.admission 2) true)] }) tUp).flt.pend.find? (joins (tFault (.admission 2))) =
      some (3, tPend (.admission 2) true) ∧
    (tFlt (fun f => { f with raised := [tFault (.admission 2)] }) tUp).flt.pend.find? (joins (tFault (.admission 2))) = none ∧
    (tFlt (fun f => { f with raised := [tFault (.admission 2)] }) tUp).flt.pend.length < 256 ∧
    (tFlt (fun f => { f with recQ := [3], pend := [(3, tPend (.admission 2) false)], base := 1, size := 64 }) tUp).flt.recQ = [3] ∧
    mget (tFlt (fun f => { f with recQ := [3], pend := [(3, tPend (.admission 2) false)], base := 1, size := 64 }) tUp).flt.pend 3 = some (tPend (.admission 2) false) ∧
    (tPend (.admission 2) false).met = false ∧
    mget (tFlt (fun f => { f with recQ := [3], pend := [(3, { tPend (.admission 2) false with met := true })], base := 1, size := 64, tail := 64 }) tUp).flt.pend 3 =
      some { tPend (.admission 2) false with met := true } ∧
    ringRoom (bit 1#64 0) 0 0 64 1 = true ∧ ringRoom (bit 1#64 0) 0 64 64 1 = false := by decide +kernel
/-- A pending table with each of its 256 entries in use for another key. -/
def tFullPend : AMap PendEntry := (List.range 256).map (fun i => (i, { tPend (.admission i) true with first := { tFault (.admission i) with key := i + 2 } }))
theorem wit_FaultUnit2 : tFullPend.find? (joins (tFault (.admission 2))) = none ∧ 256 ≤ tFullPend.length := by decide +kernel
theorem wit_FaultUnit3 : kcpAlive tUp = true ∧ replyEntry tUp 0x103#64 = none ∧
    replyEntry (tFlt (fun f => { f with pend := [(3, tPend (.admission 2) true)] }) tUp) 0x103#64 = some (tPend (.admission 2) true) ∧
    replyEntry (tFlt (fun f => { f with pend := [(3, tPend (.stream 4 0) true)] }) (tAdm tRun tUp)) 0x103#64 = some (tPend (.stream 4 0) true) ∧
    runOf (tFlt (fun f => { f with pend := [(3, tPend (.stream 4 0) true)] }) (tAdm tRun tUp)) 4 = some tRun ∧ tRun.ended = none ∧
    runOf (tGoing tXfer tUp) 7 = none ∧ xferOf (tGoing tXfer tUp) 7 = some tXfer ∧ tXfer.ended = none ∧
    mget (tFlt (fun f => { f with pend := [(3, tPend (.admission 2) true)] }) tUp).flt.pend 3 = some (tPend (.admission 2) true) := by decide +kernel
theorem wit_FaultUnit4 : headPasses (bits 1#64 0 32) 0 1 = false ∧ headPasses (bits 2#64 0 32) 0 1 = true ∧ tUp.flt.tail = tUp.flt.head ∧
    tUp.flt.pend = [] ∧ ringSizeOk (bits 0x80#64 0 17) = true ∧ ringSizeOk (bits 0x81#64 0 17) = false ∧
    (tFlt (fun f => { f with tail := 1 }) tUp).flt.tail ≠ (tFlt (fun f => { f with tail := 1 }) tUp).flt.head ∧
    (tFlt (fun f => { f with pend := tFullPend }) tUp).flt.pend ≠ [] := by decide +kernel

/-! ### Invalidation -/

/-- An invalidation of every range of every context, and a stream that it made stale. -/
def tInval (a : Bool) (s : State) : State := { s with xlt := { s.xlt with inval := some 0xFC0#64, invalActive := a } }
def tStream (stale : Bool) : Stream :=
  { kind := .index, da := 0, len := 4, elem := 4, write := false, xlat := .seg 0 0 4, flow := 8192, cursor := 0, got := [], taken := 0,
    badElems := [], outQ := [], handed := 0, carter := 63, stale := stale, stalled := false, replay := false }
def tRunS (x : Stream) : Run := { tRun with streams := [x] }
theorem wit_Invalidation1 : kcpAlive tUp = true ∧ tUp.xlt.inval = none ∧ (tInval false tUp).xlt.inval ≠ none ∧ (tInval false tUp).xlt.inval = some 0xFC0#64 ∧
    (tInval false tUp).xlt.invalActive = false ∧ (tAdm (tRunS (tStream false)) (tInval false tUp)).qh.runs[0]? = some (tRunS (tStream false)) ∧
    (tRunS (tStream false)).ended = none ∧ (tRunS (tStream false)).streams[0]? = some (tStream false) ∧
    (tAdm { tRun with ended := some .ok } tUp).qh.runs[0]? = some { tRun with ended := some .ok } ∧
    (tGoing tXfer (tInval false tUp)).qh.xfers[0]? = some tXfer ∧ (tInval true tUp).xlt.invalActive = true ∧ overlapDone (tInval true tUp) = true := by decide +kernel
theorem wit_Invalidation2 : runOf (tAdm (tRunS (tStream true)) (tMap tUp)) 4 = some (tRunS (tStream true)) ∧ (tStream true).stale = true ∧
    (match translate (tAdm (tRunS (tStream true)) (tMap tUp)) tView 0 (restOf (ctxOf (tMap tUp) 0).ptMode (tStream true)).1 (restOf (ctxOf (tMap tUp) 0).ptMode (tStream true)).2 false,
       translate (tAdm (tRunS (tStream true)) tUp) tView 0 (restOf (ctxOf tUp 0).ptMode (tStream true)).1 (restOf (ctxOf tUp 0).ptMode (tStream true)).2 false with
     | .ok _, .error _ => true
     | _, _ => false) = true := by decide +kernel
theorem wit_Invalidation3 : runOf (tGoing { tXfer with staleSrc := true, staleDst := true } (tMap tUp)) 7 = none ∧
    xferOf (tGoing { tXfer with staleSrc := true, staleDst := true } (tMap tUp)) 7 = some { tXfer with staleSrc := true, staleDst := true } ∧
    (match translate (tMap tUp) tView tXfer.desc.srcCtx (srcFoot tXfer.desc).1.toNat (srcFoot tXfer.desc).2 false,
       translate (tMap tUp) tView tXfer.desc.dstCtx (dstFoot tXfer.desc).1.toNat (dstFoot tXfer.desc).2 true,
       translate tUp tView tXfer.desc.srcCtx (srcFoot tXfer.desc).1.toNat (srcFoot tXfer.desc).2 false,
       translate tUp tView tXfer.desc.dstCtx (dstFoot tXfer.desc).1.toNat (dstFoot tXfer.desc).2 true with
     | .ok _, .ok _, .error _, .error _ => true
     | _, _, _, _ => false) = true := by decide +kernel

/-! ### MemoryEvents -/

theorem wit_MemoryEvents1 : islandsRun tUp = true ∧ (stackOf tUp 3).thr2 ≤ 255 ∧ (stackOf tUp 3).temp < (stackOf tUp 3).thr2 ∧ (0 : Nat) < (stackOf tUp 3).thr2 ∧
    stackServes (stackOf (stackMod 3 (fun k => { k with state := .ready }) tUp) 3) = true := by decide +kernel
/-- Every stack serves, with a corrected-rate threshold. -/
def tStacks (s : State) : State :=
  (List.range 12).foldl (fun t n => stackMod n (fun k => { k with state := .ready, height := 12, rate := 64, capacity := 36, rateThresh := 1 }) t) { s with hbmStacks := [] }
/-- `n` lanes of the first burst, each with one wrong bit. -/
def tSyms (n : Nat) : List SymErr := (List.range n).map (fun i => { burst := 0, lane := 3 * i + 1, bits := i + 1 })
theorem wit_MemoryEvents2 : cwLive (tStacks tUp) 5 = true ∧ (stackOf (tStacks tUp) (hbmPlace (5 * 64)).1).rateThresh ≠ 0 ∧
    (stackOf (tStacks tUp) (hbmPlace (5 * 64)).1).rateThresh ≤ (stackOf (tStacks tUp) (hbmPlace (5 * 64)).1).ceWindow + 1 ∧
    (stackOf (tStacks tUp) (hbmPlace (5 * 64)).1).rateHit = false := by decide +kernel
theorem wit_MemoryEvents6 : cwVerdict [] = .read false [] ∧ cwVerdict (tSyms 1) = .read true [] ∧ cwVerdict (tSyms 4) = .read true [] ∧
    (wrongSymbols (tSyms 4)).length = 4 ∧ (wrongSymbols (tSyms 5)).length = 5 ∧ cwVerdict (tSyms 5) = .bad := by decide +kernel
def tLard (f : Larder → Larder) (s : State) : State := { s with lrd := f { s.lrd with state := .ready } }
theorem wit_MemoryEvents3 : (5 : Nat) < larderBlocks ∧ (tLard id tUp).lrd.state = .ready ∧ (tLard (fun l => { l with ceWindow := 65535 }) tUp).lrd.ceWindow = 65535 ∧
    (tLard id tUp).lrd.ceWindow ≠ 65535 ∧ (larderAct 5 .none (larderUe 5 (tLard id tUp))).isSome = true ∧
    lowestMargin ([{ island := 3, margins := [7, 4] }].foldl setMargins tUp.pwr.margins) = some (4, 3) ∧ tUp.pwr.current < 3 := by decide +kernel
/-- A spill record. -/
def tSpilled (s : State) : State :=
  { s with ldg := { s.ldg with spills := [{ place := 0, step := 3, key := tContrib.key, slice := 0, deferred := false, tokens := 1, contrib := 1, elems := [] }] } }
/-- A row read of the default row that waits at its home. -/
def tHome : HomeRead :=
  { origin := .node 0 1, key := { tid := 1, defkey := true, row := 0 }, slot := 0, slice := 0, spec := true, place := false, resync := false,
    epoch := 0, step := 0, migrate := false, hint := 0, last := false, asked := false }
def tAsks (s : State) : State := { s with span := { s.span with homeReads := [tHome] } }
theorem wit_MemoryEvents4 : (tLard id (tFold [] [tContrib] [tLEntry] tUp)).ldg.entries.any (fun e => e.pos == 0 &&
      blockIn (ledgerBase (tLard id (tFold [] [tContrib] [tLEntry] tUp)) + 327680)
        (ledgerBase (tLard id (tFold [] [tContrib] [tLEntry] tUp)) + e.acb) (blocksOf (recordBytes e.acc.length))) = true ∧
    ledgerBase (tLard id (tFold [] [tContrib] [tLEntry] tUp)) + 327680 < larderBlocks ∧
    (tLard id (tFold [] [tContrib] [tLEntry] tUp)).ldg.pen[0]? = some tContrib ∧
    blockIn (ledgerBase (tLard id (tFold [] [tContrib] [tLEntry] tUp)))
      (ledgerBase (tLard id (tFold [] [tContrib] [tLEntry] tUp)) + tContrib.block) (blocksOf tContrib.bytes) = true := by decide +kernel
def tSliceD : RowSlice := { header := 0, baseExp := 0, pawns := [], elems := [] }
/-- A kept row, a replica and a hot copy of row 1. -/
def tHolds (s : State) : State :=
  { s with lrd := { s.lrd with
      kept := [{ step := 3, tid := 1, slot := 0, row := 1, defkey := false, slice := 0, block := 5, size := 64, data := tSliceD }]
      replicas := [{ tid := 1, slot := 0, row := 1, defkey := false, home := 2, bucket := 5, block := 5, size := 64, data := tSliceD
                     placed := none, staging := [] }]
      copies := [{ tid := 1, slot := 0, dirAddr := dirAddr (tSlot .active).slot0 0, block := 5, bytes := List.replicate 80 0 }] } }
theorem wit_MemoryEvents5 : (tHolds tUp).lrd.kept[0]?.map KeptRow.block = some 5 ∧ blockIn 5 5 (blocksOf 64) = true ∧
    (tHolds tUp).lrd.replicas.any (fun x => x.tid == 1 && x.slot == 0 && x.row == 1 && blockIn 6 x.block (replicaBlocks x.size)) = true ∧
    5 < bucketCount (tPlan tUp) ∧ bucketBlock (tPlan tUp) 5 < larderBlocks ∧
    mget (tWith (tSlot .active) (tHolds tUp)).tables 1 = some (tSlot .active) ∧
    (copyAt (tWith (tSlot .active) (tHolds tUp)) 1 0 (dirAddr (vslot (tSlot .active) 0) 0)).map (fun c => (c.block, blocksOf c.bytes.length)) = some (5, 2) ∧
    blockIn 6 5 2 = true := by decide +kernel
theorem wit_MemoryEvents7 : ∃ block, block < larderBlocks ∧
    ((tFold [] [] [] tUp).ldg.sealedStep.toList ++ (tFold [] [] [] tUp).ldg.openStep.toList).find?
      (fun n => filterBlock (tFold [] [] [] tUp) n tContrib.key == block) = some 3 := by
  refine ⟨filterBlock (tFold [] [] [] tUp) 3 tContrib.key, ?_, ?_⟩
  · unfold filterBlock
    have h1 : ledgerBase (tFold [] [] [] tUp) + 262144 + 32768 + 32768 < larderBlocks := by decide +kernel
    generalize ledgerBase (tFold [] [] [] tUp) = b at h1 ⊢
    have h2 := Nat.mod_lt (Config.filterBit tContrib.key.tid tContrib.key.defkey tContrib.key.row) (show 0 < 16777216 by decide)
    omega
  · rw [show (tFold [] [] [] tUp).ldg.sealedStep.toList ++ (tFold [] [] [] tUp).ldg.openStep.toList = [3] from by decide +kernel]
    generalize tFold [] [] [] tUp = x
    exact List.find?_cons_of_pos (beq_self_eq_true _)
theorem wit_MemoryEvents8 : (tAsks (tWith (tSlot .active) (tMapped (tStacks tUp)))).span.homeReads[0]? = some tHome ∧
    mget (tWith (tSlot .active) (tMapped (tStacks tUp))).tables tHome.key.tid = some (tSlot .active) ∧
    homeWaits (tAsks (tWith (tSlot .active) (tMapped (tStacks tUp)))) (tSlot .active) tHome = false ∧
    badIn (tAsks (tWith (tSlot .active) (tMapped (tStacks tUp)))) ((homeRanges (tAsks (tWith (tSlot .active) (tMapped (tStacks tUp)))) (tSlot .active) tHome).map
      (fun r => (r.2.1, r.2.2))) [{ cw := (tSlot .active).slot0.defLoc / 64, syms := tSyms 5 }] = [{ cw := (tSlot .active).slot0.defLoc / 64, syms := tSyms 5 }] ∧
    badIn (readMap (tSlot .active) tHome.key true (tAsks (tWith (tSlot .active) (tMapped (tStacks tUp)))))
      ((homeRanges (readMap (tSlot .active) tHome.key true (tAsks (tWith (tSlot .active) (tMapped (tStacks tUp))))) (tSlot .active) tHome).map
      (fun r => (r.2.1, r.2.2))) [{ cw := (tSlot .active).slot0.defLoc / 64, syms := tSyms 5 }] = [{ cw := (tSlot .active).slot0.defLoc / 64, syms := tSyms 5 }] := by
  decide +kernel
/-- A Run's index stream in local HBM. -/
def tHbmStream : Stream := { tStream false with xlat := .seg 0 0 hbmLocal }
theorem wit_MemoryEvents9 : carterHeld (tAdm (tRunS tHbmStream) (tStacks tUp)) 0 = false ∧
    badIn (tAdm (tRunS tHbmStream) (tStacks tUp)) (chunkRanges (tAdm (tRunS tHbmStream) (tStacks tUp)) 4 0) [{ cw := 0, syms := tSyms 5 }] =
      [{ cw := 0, syms := tSyms 5 }] := by decide +kernel
theorem wit_MemoryEvents10 : (mget (tStacks (tMapped tUp)).maps 0).map (fun m => (m.unusable, meetsCw 5 m.loc mapBytes)) = some (false, true) ∧
    cwLive (tStacks (tMapped tUp)) 5 = true ∧ cwLive { tStacks (tMapped tUp) with poison := [5] } 5 = false ∧ 5 ∈ { tStacks (tMapped tUp) with poison := [5] }.poison ∧
    (tSpilled (tStacks tUp)).ldg.spills[0]?.isSome = true ∧
    cwLive (tSpilled (tStacks tUp)) (spillAddr (tSpilled (tStacks tUp)) 0 / 64) = true ∧
    ((tSpilled (tStacks tUp)).ldg.spills[0]?.map (fun r => meetsCw (spillAddr (tSpilled (tStacks tUp)) 0 / 64) (spillAddr (tSpilled (tStacks tUp)) r.place) (spillSize r))) = some true := by
  decide +kernel

/-! ### LinkLayer -/

/-- Port 2 in this state, on a valid node. -/
def tPort (p : Port) (s : State) : State := { s with span := { s.span with nodeValid := true, nodeId := 5, ports := [(2, p)] } }
def tMark : Packet := { hdr := { dest := 7, src := 5, hops := 0, vl := 0 }, body := .mark { cseq := 0, tid := 1, step := 3 } }
def tIdle (c : Bool) : Flit :=
  let f : Flit := { fseq := 0, ack := 0, nak := false, grantCh := 0, grant := 1, idle := true, first := 0, payload := List.replicate 240 0,
                    crc := 0, fecCorrected := 0, fecFailed := 0 }
  if c then { f with crc := w64 (crc64 (toLe 8 (flitWord f) ++ f.payload)) } else f
theorem wit_LinkLayer1 : (portAt (tPort Port.reset tUp) 2).state = .down ∧ (tPort Port.reset tUp).span.nodeValid = true ∧
    spanRuns (tPort Port.reset tUp) = true ∧ (portAt (tPort { Port.reset with state := .training } tUp) 2).state = .training ∧
    linkUp (tPort { Port.reset with state := .up } tUp) 2 = true ∧ (tIdle true).fseq = (portAt (tPort { Port.reset with state := .up } tUp) 2).rxSeq ∧
    recovering (tPort { Port.reset with state := .recover } tUp) 2 false = true ∧
    (portAt (tPort { Port.reset with state := .up } tUp) 2).state = .up ∧
    linkUp (tPort { Port.reset with state := .up, naks := (1, 15) } tUp) 2 = true ∧
    linkUp (tPort { Port.reset with state := .shuttering, naks := (1, 15) } tUp) 2 = true ∧
    16 ≤ (if (portAt (tPort { Port.reset with state := .up, naks := (1, 15) } tUp) 2).naks.1 = (0 + 1) % 4096 then
      (portAt (tPort { Port.reset with state := .up, naks := (1, 15) } tUp) 2).naks.2 + 1 else 1) ∧
    16 ≤ (if (portAt (tPort { Port.reset with state := .shuttering, naks := (1, 15) } tUp) 2).naks.1 = (0 + 1) % 4096 then
      (portAt (tPort { Port.reset with state := .shuttering, naks := (1, 15) } tUp) 2).naks.2 + 1 else 1) ∧
    0 < Port.reset.window := by decide +kernel
theorem crc_bit (r : Nat) (h : r < 2 ^ 64) : crcBit r < 2 ^ 64 := by
  unfold crcBit
  split
  · exact Nat.xor_lt_two_pow (Nat.mod_lt _ (by decide)) (by decide)
  · omega
theorem crc_lt (bs : List Byte) : crc64 bs < 2 ^ 64 := by
  have bits8 : ∀ (l : List Nat) (r : Nat), r < 2 ^ 64 → l.foldl (fun x _ => crcBit x) r < 2 ^ 64 := by
    intro l
    induction l with
    | nil => intro r h; exact h
    | cons a q ih => intro r h; rw [List.foldl_cons]; exact ih _ (crc_bit r h)
  have all : ∀ (l : List Byte) (r : Nat), r < 2 ^ 64 → l.foldl crcByte r < 2 ^ 64 := by
    intro l
    induction l with
    | nil => intro r h; exact h
    | cons a q ih =>
      intro r h; rw [List.foldl_cons]
      refine ih _ (bits8 _ _ (Nat.xor_lt_two_pow h ?_))
      have := a.isLt; omega
  exact all bs 0 (by decide)
theorem crc_made (f : Flit) (h : f.payload.length = 240) :
    crcGood { f with crc := w64 (crc64 (toLe 8 (flitWord f) ++ f.payload)) } = true := by
  have w : (w64 (crc64 (toLe 8 (flitWord f) ++ f.payload))).toNat = crc64 (toLe 8 (flitWord f) ++ f.payload) := by
    unfold w64; rw [BitVec.toNat_ofNat]; exact Nat.mod_eq_of_lt (crc_lt _)
  have e : flitWord { f with crc := w64 (crc64 (toLe 8 (flitWord f) ++ f.payload)) } = flitWord f := rfl
  unfold crcGood; dsimp only
  rw [e, w, h]; simp

theorem wit_LinkLayer2 : crcGood (tIdle true) = true ∧ (tIdle true).fecFailed = 0 ∧ (tIdle true).nak = false ∧
    crcGood { tIdle true with payload := [] } = false :=
  ⟨crc_made (tIdle false) (List.length_replicate ..), rfl, rfl, rfl⟩
theorem wit_LinkLayer4 : crcGood { tIdle false with nak := true, crc := w64 (crc64 (toLe 8 (flitWord { tIdle false with nak := true }) ++ List.replicate 240 0)) } = true ∧
    ((portAt (tPort { Port.reset with state := .up } tUp) 2).accept (tIdle true) (flitPackets [] (tIdle true))).rxCells ≤ 32768 :=
  ⟨crc_made { tIdle false with nak := true } (List.length_replicate ..), Nat.le_of_ble_eq_true rfl⟩
def tWaits : Queued := { pkt := tMark, eligible := true, lent := [] }
def tSends : State := tPort { Port.reset with state := .up, credit := [(6, 1)], queues := [(6, [tWaits])] } tUp
theorem wit_LinkLayer3 : linkUp tSends 2 = true ∧ (mgetD (portAt tSends 2).queues 6 [])[0]? = some tWaits ∧ tWaits.eligible = true ∧
    pktCells tMark.body ≤ mgetD (portAt tSends 2).credit 6 0 ∧
    (portAt tSends 2).flits.length + (portAt tSends 2).flitsFor (pktBytes tMark.body) ≤ 2048 ∧
    mayLeave (mgetD (portAt tSends 2).queues 6 []) 0 tMark = true := by decide +kernel

/-! ### LinkLoss -/

def tAsker : PktHdr := { dest := 5, src := 7, hops := 0, vl := 0 }
def tPeer (st : LinkState) (q : Bool) : Port := { Port.reset with state := st, peerValid := true, peerId := 7, lastRx := some 9, querying := q }
theorem wit_LinkLoss : recovering (tPort (tPeer .recover false) tUp) 2 false = true ∧ spanRuns (tPort (tPeer .recover false) tUp) = true ∧
    tAsker.hops < 15 ∧ tAsker.dest = self (tPort (tPeer .recover false) tUp) ∧ (portAt (tPort (tPeer .recover false) tUp) 2).lastRx = some 9 ∧
    (portAt (tPort (tPeer .recover false) tUp) 2).peerValid = true ∧ (portAt (tPort (tPeer .recover false) tUp) 2).peerId = tAsker.src ∧
    (portAt (tPort (tPeer .recover false) tUp) 2).state ≠ .up ∧ (portAt (tPort Port.reset tUp) 2).state ≠ .up ∧
    (portAt (tPort Port.reset tUp) 2).lastRx = none ∧ (portAt (tPort Port.reset tUp) 2).peerValid = false ∧
    (portAt (tPort Port.reset tUp) 2).peerId ≠ tAsker.src ∧ recovering (tPort (tPeer .recover true) tUp) 2 true = true ∧
    (portAt (tPort (tPeer .training false) tUp) 2).state = .training ∧ (portAt (tPort (tPeer .up false) tUp) 2).state = .up ∧
    (portAt (tPort (tPeer .shuttering false) tUp) 2).state = .shuttering := by decide +kernel

/-! ### PacketsTaken -/

/-- A K40 of node 5 that homes table 1, with node 7's CSEQ 3 expected and one READ of its own outstanding. -/
def tNode (t : Table) : State :=
  let s := tPort Port.reset (tWith { t with defHome := 5 } tUp)
  { s with span := { s.span with cseqIn := [(7, 3)],
                                 reqs := [{ tag := 4, node := 7, purpose := .place,
                                            pkt := { tag := 4, tid := 1, slot := 0, slice := 0, spec := false, place := true, resync := false,
                                                     defkey := false, epoch := 0, row := 0, step := 0 } }] } }
def tAskDef : ReadPkt := { tag := 9, tid := 1, slot := 0, slice := 0, spec := true, place := false, resync := false, defkey := true, epoch := 0, row := 0, step := 0 }
def tRowPkt (tag : Nat) : RowPkt := { tag := tag, status := .homeAbsent, prov := false, baseExp := 0, slice := 0, cseq := 0, header := 0, pawns := [], elems := [] }
theorem wit_PacketsTaken1 : comesFrom 2 { hdr := tAsker, body := .read tAskDef } (tNode (tSlot .active)) = true ∧
    waitsBehind (portAt (tNode (tSlot .active)) 2) { hdr := tAsker, body := .read tAskDef } = false ∧
    tAsker.hops < 15 ∧ tAsker.dest = self (tNode (tSlot .active)) ∧ spanRuns (tNode (tSlot .active)) = true ∧
    liveTable (tNode (tSlot .active)) 1 = some { tSlot .active with defHome := 5 } ∧
    (tSlot .active).shut = none ∧ stackShut (tNode (tSlot .active)) = false ∧
    ((mapOf (tNode (tSlot .active)) { tSlot .active with defHome := 5 }).map (fun m => epochLater 0 m.epoch)).getD false = false ∧
    homesKey (tNode (tSlot .active)) { tSlot .active with defHome := 5 } (readKeyOf tAskDef) = true ∧
    rowPhase (tNode (tSlot .active)) { tSlot .active with defHome := 5 } (readKeyOf tAskDef) = .here ∧
    (vslot { tSlot .active with defHome := 5 } 0).state = .active ∧
    liveTable (tNode (tSlot .active)) 2 = none ∧
    liveTable (tNode { tSlot .active with shut := some false }) 1 = some { tSlot .active with defHome := 5, shut := some false } := by decide +kernel
/-- An UPDATE of node 7 that is for this K40, and one that waits before it. -/
def tUpd (cseq : Nat) : Packet := { hdr := tAsker, body := .update { cseq := cseq, tid := 1, slot := 0, slice := 0, defkey := false, baseExp := 0, row := 0,
                                                                      header := 0, pawns := [], elems := [] } }
def tMarkOf (cseq : Nat) : Packet := { hdr := tAsker, body := .mark { cseq := cseq, tid := 1, step := 3 } }
def tWaiting2 (l : List Packet) (s : State) : State := portMod 2 (fun p => { p with rx := l }) s
theorem wit_PacketsTaken2 : reqOf (tNode (tSlot .active)) 5 = none ∧ (reqOf (tNode (tSlot .active)) 4).isSome = true ∧
    mget (tNode (tSlot .active)).tables 1 = some { tSlot .active with defHome := 5 } ∧
    homesKey (tNode (tSlot .active)) { tSlot .active with defHome := 5 } { tid := 1, defkey := true, row := 0 } = true ∧
    homesKey (tNode (tSlot .active)) { tSlot .active with defHome := 6 } { tid := 1, defkey := true, row := 0 } = false ∧
    codesOk false [1] = true ∧ codesOk false [-128] = false ∧ (tNode (tSlot .active)).ldg.input.length < 4096 ∧
    mget (tNode (tSlot .active)).span.cseqIn 7 = some 3 ∧ mget (tNode (tSlot .active)).span.cseqIn 7 ≠ some 4 ∧
    (tNode (tSlot .active)).lrd.replicas.find? (fun x => x.tid == 1) = none ∧
    waitsBehind (portAt (tNode (tSlot .active)) 2) (tUpd 3) = false ∧ waitsBehind (portAt (tNode (tSlot .active)) 2) (tMarkOf 3) = false ∧
    waitsBehind (portAt (tWaiting2 [tUpd 3, tUpd 4] (tNode (tSlot .active))) 2) (tUpd 4) = true ∧
    waitsBehind (portAt (tWaiting2 [tUpd 3, tMarkOf 4] (tNode (tSlot .active))) 2) (tMarkOf 4) = true ∧
    comesFrom 2 (tUpd 4) (tWaiting2 [tUpd 3, tUpd 4] (tNode (tSlot .active))) = true := by decide +kernel
theorem wit_PacketsTaken3 : ∃ s : State, 4096 ≤ s.ldg.input.length ∧ spanRuns s = true ∧ tAsker.dest = self s :=
  ⟨{ tNode (tSlot .active) with ldg := { (tNode (tSlot .active)).ldg with input := List.replicate 4096 tContrib } },
   by show 4096 ≤ (List.replicate 4096 tContrib).length; rw [List.length_replicate], by decide +kernel, by decide +kernel⟩

/-! ### RequestTimers -/

def tGain (i : Inbound) : HomeMap :=
  { entries := [], epoch := 0, loc := 0x40000000, unusable := false, old := some ([(0, 7)], 0), inbound := [i], handed := [], served := [],
    counts := { rowsOut := 0, rowsIn := 0, entriesOut := 0, rowsFailed := 0, partials := 0, reads := 0, epochDropped := 0 } }
def tOut (x : ReqFor) : Req := { tag := 4, node := 7, purpose := x, pkt := { tAskDef with tag := 4 } }
/-- That K40 with one request outstanding, one migration READ to repeat, a bag that waits on a row of node 7, and home map 1 gaining
a shard of table 1; `e` is its route to node 7. -/
def tLate (e : Nat) (x : ReqFor) : State :=
  let s := tPort { Port.reset with state := .up, peerValid := true, peerId := 7 } (tWith { tSlot .active with hbits := 16 } tUp)
  let y : WaitRow := { key := { tid := 1, defkey := false, row := 0 }, home := 7, isLocal := false, noticed := false }
  let i : Inbound := { shard := 0, tid := 1, next := 0, rows := [] }
  { s with span := { s.span with reqs := [tOut x], retry := [tOut x], memberRoute := [(7, e)], groupRoute := [(0, e)] },
           maps := [(1, tGain i)],
           cols := [(0, { (colOf s 0) with wait := [{ ord := 4, bag := 0, rows := [y] }] })],
           qh := { s.qh with runs := [tRun] } }
/-- That node is 7. -/
def tOwn (s : State) : State := { s with span := { s.span with nodeId := 7 } }
theorem wit_RequestTimers1 : (tLate 2 (.mill 0 0 0 0)).span.reqs.find? (fun q => q.tag % 16384 == 4) = some (tOut (.mill 0 0 0 0)) ∧
    (tLate 2 (.mill 0 0 0 0)).lrd.refresh = none ∧ (tOut (.migrate 1 1 0 0)).purpose = .migrate 1 1 0 0 ∧
    (tLate 2 (.migrate 1 1 0 0)).span.reqs.find? (fun q => q.tag % 16384 == 4) = some (tOut (.migrate 1 1 0 0)) ∧
    (((colOf (tLate 2 .place) 0).wait.flatMap (fun w => (w.rows.filter (fun x => !x.noticed && !x.isLocal)).map (fun x => (w, x))))[0]?).isSome = true ∧
    runOf (tLate 2 .place) 4 = some tRun ∧ routePort (tLate 0x82 .place) 7 = some 2 ∧ routePort (tLate 2 .place) 7 = none ∧
    spanRuns (tLate 2 .place) = true ∧ (tLate 2 .place).span.retry[0]? = some (tOut .place) ∧ (freeTag (tLate 2 .place)).isSome = true := by decide +kernel
theorem wit_RequestTimers2 : ((mget (tLate 2 .place).maps 1).bind (nextInbound (tLate 2 .place))).map (fun i => (i.shard, i.tid)) = some (0, 1) ∧
    mget (tLate 2 .place).tables 1 = some { tSlot .active with hbits := 16 } ∧ activeSlot { tSlot .active with hbits := 16 } = some 0 ∧
    activeSlot { tSlot .loading with hbits := 16 } = none ∧ unmixRow { tSlot .active with hbits := 16 } 0 < (vslot (tSlot .active) 0).rows ∧
    migInFlight (tLate 2 .place) + sliceCount (tSlot .active).dim ≤ 1024 ∧ inFlight (tLate 2 .place) + sliceCount (tSlot .active).dim ≤ 16384 ∧
    7 ≠ self (tLate 2 .place) ∧ inFlight (tLate 2 .place) < 16384 ∧ 7 = self (tOwn (tLate 2 .place)) ∧
    (sendSlices 1 7 { tSlot .active with hbits := 16 } 1 0 0 0 0 (List.range (sliceCount (tSlot .active).dim)) (tLate 0x82 .place)).isSome = true ∧
    (sendSlices 1 7 { tSlot .active with hbits := 16 } 1 0 0 0 0 (List.range (sliceCount (tSlot .active).dim)) (tLate 2 .place)).isNone = true := by decide +kernel

/-! ### ChipPortAnswers -/

/-- A port 1 that is up, with the request of `o` outstanding under tag 0, one read of no data or a write, and what waits for it. -/
def tChip (read : Bool) (o : Owner) : State :=
  let r : OutReq := { kind := if read then .rdReq else .wr, tag := 0, addr := 0, len := 4, data := [], owner := o }
  let c : CdpPort := { kRdy := true, sRdy := true, hdrCredit := 5, datCredit := 5, pedCredit := 8, outQ := [], outstanding := [r], sent := 0 }
  let q : Run := { (tRunS (tStream false)) with bags := [(0, { BagInfo.fresh with state := .draining, writes := 1 })] }
  let a : List Awaiting := [{ resp := respOf 3 (tMsg 0x0101 []) 1 .ok [], left := 1 }]
  { tUp with cdp := [(1, c)], qh := { tUp.qh with runs := [q], xfers := [{ tXfer with bad := none, done := 0 }] },
             mbx := { tUp.mbx with awaiting := a } }
theorem wit_ChipPortAnswers1 : ([Owner.runRead 4 0 0, .xferRead 7 0].all (fun o =>
      portSees (tChip true o) 1 && ([8#64, 0x200008#64].all (fun h => !headerBad (tChip true o) 1 h && (answered (tChip true o) 1 h).isSome && inKind h == 8)) &&
      !inErr 8#64 && inErr 0x200008#64)) = true ∧
    ([Owner.runWrite 4 0 0, .xferWrite 7 0, .clerkResult 3, .small].all (fun o =>
      portSees (tChip false o) 1 && ([9#64, 0x200009#64].all (fun h => !headerBad (tChip false o) 1 h && (answered (tChip false o) 1 h).isSome && inKind h == 9)) &&
      !inErr 9#64 && inErr 0x200009#64)) = true := by decide +kernel
theorem wit_ChipPortAnswers2 : (runOf (tChip true .small) 4).map (fun q => (q.streams[0]?).isSome) = some true ∧
    (runOf (tChip true .small) 4).map (fun q => (bagOf q 0).state) = some .draining ∧
    xferOf (tChip true .small) 7 = some { tXfer with bad := none, done := 0 } ∧
    ((tChip true .small).mbx.awaiting.find? (fun a => a.resp.slot == 3)).map Awaiting.left = some 1 ∧
    portSees (tChip true .small) 1 = true ∧ headerBad (tChip true .small) 1 0x400008#64 = true ∧
    kRdyOf tUp 1 = true ∧ tUp.gbl.state ≠ .retention ∧ ((cdpPort tUp 1).kRdy && (cdpPort tUp 1).sRdy) = false ∧
    (cdpPort (tChip true .small) 1).kRdy = true ∧ (cdpPort (tChip true .small) 1).sRdy = true ∧ (cdpPort (tChip true .small) 1).outQ = [] := by decide +kernel
theorem wit_ChipPortAnswers3 : ((lmod (tChip false (.clerkResult 3)).mbx.awaiting 0 (fun a => { a with left := 2 })).find?
    (fun a => a.resp.slot == 3)).map (fun a => decide (1 < a.left)) = some true := by decide +kernel

/-! ### StreamsAndRecords -/

def tOutS : Stream := { (tStream false) with kind := .output, write := true, outQ := [{ idx := 0, bag := 0, bytes := [1, 2, 3, 4] }], handed := 1 }
def tGrp (f : Bool) : Run := { tRun with groups := [(0, { col := 0, forwarded := f })] }
theorem wit_StreamsAndRecords1 : runOf (tAdm (tRunS (tStream false)) tUp) 4 = some (tRunS (tStream false)) ∧
    streamReady (tAdm (tRunS (tStream false)) tUp) (tRunS (tStream false)) (tStream false) = true ∧ carterHeld (tAdm (tRunS (tStream false)) tUp) 0 = false ∧
    (tStream false).write = false ∧ streamReady tUp (tRunS tOutS) tOutS = true ∧ tOutS.write = true ∧
    runOf (tGoing { tXfer with bad := none } tUp) 7 = none ∧ xferReads { tXfer with bad := none } = true ∧
    (xferNext { tXfer with bad := none, cursor := 1, got := putBytes [] 0 (List.replicate tXfer.desc.elem 0) }).isSome = true ∧
    xferWrites { tXfer with bad := none, cursor := 1 } = true ∧ carterHeld (tAdm (tRunS { (tStream false) with stalled := true, carter := 5 }) tUp) 5 = true ∧
    groupsBefore (tGrp false) 0 = true ∧ groupReady (tGrp false) 0 = true ∧ (tGrp false).ended = none ∧
    mget (tGrp false).groups 0 = some { col := 0, forwarded := false } ∧ mget (tGrp true).groups 0 = some { col := 0, forwarded := true } := by decide +kernel
theorem wit_StreamsAndRecords2 : runFinished tUp { tRun with bags := [(0, { BagInfo.fresh with state := .left })] } = true ∧ runFinished tUp tRun = false ∧
    xferStatus { tXfer with bad := none, done := tXfer.desc.count } = some .ok ∧ xferStatus { tXfer with bad := none, writes := 1 } = none := by decide +kernel

/-! ### BagStarts -/

/-- A Run of one bag handed to column 0 and forwarded, its table, and column 0 with Mill 0 active. -/
def tBag (f : Column → Column) (r : Run) : State :=
  let c : Column := { colOf tUp 0 with state := .enabled, active := 1 }
  { (tAdm r (tWith (tSlot .active) tUp)) with cols := [(0, f c)] }
def tIdx : Stream := { (tStream false) with got := [(0, 1), (1, 0), (2, 0), (3, 0)] }
def tSent (f : Bool) : Run := { tRunS tIdx with groups := [(0, { col := 0, forwarded := f })] }
theorem wit_BagStarts1 : leastLoaded (tBag id { (tSent true) with groups := [(0, { col := 40, forwarded := true })] }) { (tSent true) with groups := [(0, { col := 40, forwarded := true })] } 0 = true ∧
    runOf (tBag id (tRunS tIdx)) 4 = some (tRunS tIdx) ∧ (tRunS tIdx).groups.find? (fun g => g.2.col == 40) = none ∧ (tRunS tIdx).nextGroup < groupCount (tRunS tIdx) ∧
    (tRunS tIdx).ended = none ∧ leastLoaded (tBag id (tRunS tIdx)) (tRunS tIdx) 0 = true ∧ leastLoaded (tBag id (tRunS tIdx)) (tRunS tIdx) 1 = false := by decide +kernel
theorem wit_BagStarts2 : mget (tBag id (tSent true)).tables tRunDesc.tid = some (tSlot .active) ∧ millsRun (tBag id (tSent true)) = true ∧
    millFree (tBag id (tSent true)) (colOf (tBag id (tSent true)) 0) 0 = true ∧ bagWaits (tBag id (tSent true)) 0 (tSent true) 0 = true ∧
    (colOf (tBag id (tSent true)) 0).state = .enabled ∧ (tRunDesc.spec && waitFull (colOf (tBag id (tSent true)) 0)) = false ∧
    directionOk (tBag id (tSent true)) 0 (tSent true) = true ∧ streamBad (tSent true) .offsets [0, 1] = none ∧ firstBadOffset (tSent true) 0 = none ∧
    bagEntries (tSent true) 0 = some (0, 1) ∧ bagBad (tSent true) 0 0 1 = none ∧ (bagOf (tSent true) 0).isOver = false ∧
    bagBad { (tSent true) with streams := [{ tIdx with badElems := [(0, .poisoned)] }] } 0 0 1 = some .poisoned ∧
    directionOk (tBag (fun c => { c with backward := true, merge := tSlots }) (tSent true)) 0 (tSent true) = false ∧
    worksFor (tBag (fun c => { c with backward := true, merge := tSlots }) (tSent true)) 0 true = false := by decide +kernel
/-- The bag of `tSent` held at column 0 and released for recomputation. -/
def tAgain : Run := { (tSent true) with bags := [(0, { BagInfo.fresh with state := .held })] }
def tReleased : State := tBag (fun c => { c with redo := [(4, 0)] }) tAgain
theorem wit_BagStarts4 : runOf tReleased 4 = some tAgain ∧ bagWaits tReleased 0 tAgain 0 = true ∧ directionOk tReleased 0 tAgain = true ∧
    streamBad tAgain .offsets [0, 1] = none ∧ firstBadOffset tAgain 0 = none ∧ bagEntries tAgain 0 = some (0, 1) ∧ againWaits tAgain = false ∧
    ((runOf (readAgain tAgain 0 0 1 { cells := [], err := false } (colMod 0 (fun c => { c with redo := [] }) tReleased)) 4).map (fun q => bagBad q 0 0 1)) = some none ∧
    againWaits { tAgain with streams := [{ tIdx with stalled := true }] } = true := by decide +kernel
theorem wit_BagStarts3 : (millOf (colOf (tBag (fun c => { c with mills := [(0, tMill { tWork with ord := 4, opened := false })] }) (tSent true)) 0) 0).work =
      some { tWork with ord := 4, opened := false } ∧
    4096 ≤ (colOf (tBag (fun c => { c with window := List.replicate 4096 none }) (tSent true)) 0).window.length ∧
    (colOf (tBag (fun c => { c with window := [none] }) tRun) 0).window ≠ [] ∧ moreLookups (tBag (fun c => { c with window := [none] }) tRun) 0 = false ∧
    (colOf (tBag id tRun) 0).window = [] ∧ (millOf (colOf (tBag id tRun) 0) 0).token = none ∧
    (millOf (colOf (tBag (fun c => { c with mills := [(0, { Mill.idle with token := some (4, 0, [1, 2, 3, 4]) })] }) (tRunS tOutS)) 0) 0).token = some (4, 0, [1, 2, 3, 4]) ∧
    streamOf (tRunS tOutS) .output = some tOutS ∧ outRoom tUp { tOutS with outQ := [] } 4 = true ∧
    outRoom tUp { tOutS with outQ := [{ idx := 0, bag := 0, bytes := List.replicate 16384 0 }] } 4 = false := by decide +kernel

/-! ### RowsPooled -/

/-- The work of bag 0 with one lookup, and what has been read for it. -/
def tPool (l : Lookup) (rs : List MillRead) : BagWork :=
  { tWork with ord := 4, lookups := [(l, 0x3F800000)], acc := List.replicate 16 0, tally := List.replicate 16 0, reads := rs }
def tOnMill (f : Mill → Mill) (w : BagWork) (r : Run) : State := tBag (fun c => { c with mills := [(0, f (tMill w))] }) r
def tReadAns (st : Status) (d : Option RowSlice) : MillRead :=
  { pos := 0, key := { tid := 1, defkey := false, row := 1 }, source := .hbm, answered := true, status := st, prov := false, data := d }
/-- A W8 slice of sixteen ones, and a Pawn-coded one with no Pawn entry. -/
def tCoded (b : Byte) : RowSlice := { header := hdrBits { hdrOf 0 with cls := .w8 }, baseExp := 0, pawns := [], elems := List.replicate 16 b }
theorem wit_RowsPooled1 : workOf (tOnMill id (tPool .zeroRow []) tRun) 0 0 = some (tPool .zeroRow []) ∧ runOf (tOnMill id (tPool .zeroRow []) tRun) 4 = some tRun ∧
    (tPool .zeroRow []).lookups[0]? = some (.zeroRow, 0x3F800000) ∧ mget (tOnMill id (tPool .zeroRow []) tRun).tables tRunDesc.tid = some (tSlot .active) ∧
    millsRun (tOnMill id (tPool .zeroRow []) tRun) = true ∧ needsRows tRun = true ∧ (colOf (tOnMill id (tPool .zeroRow []) tRun) 0).window.length < 4096 ∧
    Lookup.key 1 .zeroRow = none ∧ tRunDesc.spec = false ∧ (Lookup.key 1 (.valid 1)).isSome = true ∧
    (match Lookup.key 1 (.valid 1) with
     | some key =>
       let x := readIndex 0 tRun (tPool (.valid 1) []) (tSlot .active) key (fillSieve 0 (tOnMill id (tPool (.valid 1) []) tRun))
       (match findRow x 0 tRun (tPool (.valid 1) []) (tSlot .active) key with
        | .localHome _ => true
        | _ => false) && decide (inFlight x < 16384)
     | none => false) = true ∧
    bufferUsed (tPool (.valid 1) []) (sliceLen tRun.dim 0) + up64 (16 + 4 * sliceLen tRun.dim 0) ≤ 28672 := by decide +kernel
theorem wit_RowsPooled2 : (tAsks (tWith (tSlot .active) tUp)).span.homeReads[0]? = some tHome ∧ mget (tWith (tSlot .active) tUp).tables tHome.key.tid = some (tSlot .active) ∧
    homeWaits (tAsks (tWith (tSlot .active) tUp)) (tSlot .active) tHome = false ∧
    homeWaits { tUp with ldg := { tUp.ldg with sealedStep := some tLEntry.step, entries := [tLEntry] } } (tSlot .active) { tHome with key := tLEntry.key, place := true } = true ∧
    homeWaits (tAsks (tWith (tSlot .active) tUp)) (tSlot .active) { tHome with origin := .mill 0 0 0 } = false := by decide +kernel
theorem wit_RowsPooled3 : (tPool (.valid 1) [tReadAns .ok none]).lookups[0]? = some (.valid 1, 0x3F800000) ∧
    (tPool (.valid 1) [tReadAns .ok none]).reads.find? (fun x => x.pos == 0) = some (tReadAns .ok none) ∧ (bagOf tRun 0).isOver = false ∧
    (tReadAns .poisoned none).status ≠ .ok ∧ readElems tRun (tPool (.valid 1) []) (some (tCoded 0x80)) = none ∧
    (match readElems tRun (tPool (.valid 1) []) (some (tCoded 1)) with
     | some (cls, sh, es) =>
       (match addRow tRun (tPool (.valid 1) []) 0x3F800000 cls sh es false with
        | .done _ _ => true
        | .overflow => false) &&
       (match addRow tRun { tPool (.valid 1) [] with tally := List.replicate 16 (2 ^ 63) } 0x3F800000 cls sh es false with
        | .done _ _ => false
        | .overflow => true)
     | none => false) = true := by decide +kernel
theorem wit_RowsPooled4 : workOf (tOnMill id { tWork with ord := 4 } tRun) 0 0 = some { tWork with ord := 4 } ∧ tWork.opened = true ∧ tWork.lookups.length ≤ tWork.cursor ∧
    sliceCount tRun.dim ≤ 0 + 1 ∧ 0 + 1 < sliceCount { tRun with dim := 2048 }.dim ∧ (millOf (colOf (tOnMill id { tWork with ord := 4 } tRun) 0) 0).token = none ∧
    (finishSlice tRun (tSlot .active) { tWork with ord := 4, prov := [{ key := tHome.key, home := 0, isLocal := true, noticed := false }] }).closePass.prov ≠ [] ∧
    (finishSlice tRun (tSlot .active) { tWork with ord := 4 }).closePass.prov = [] ∧ (finishSlice tRun (tSlot .active) { tWork with ord := 4 }).closePass.keep = [] ∧
    (tokenOf tRun (finishSlice tRun (tSlot .active) { tPool .zeroRow [] with cursor := 1 }).closePass).1 ≠ [] ∧ tBack.backward = true ∧
    (millOf (colOf (tOnMill id { tWork with ord := 4 } tRun) 0) 0).part = none ∧
    (millOf (colOf (tOnMill (fun m => { m with token := some (4, 0, [1]) }) { tWork with ord := 4 } tRun) 0) 0).token ≠ none := by decide +kernel

/-! ### RegisterFrame -/

theorem wit_RegisterFrame : ∃ t, exec (.ctrDumpPeriodWrite 5) tUp = .next t := ⟨_, rfl⟩

/-! ### ClerkCommandFrame -/

theorem wit_ClerkCommandFrame : ∃ t, exec (.identify 0) tUp = .next t := ⟨_, rfl⟩

/-! ### QueueHallFrame -/

theorem wit_QueueHallFrame : ∃ t, exec (.cdpCreditReturn 9 true true) tUp = .next t := ⟨_, rfl⟩

/-! ### FaultFrame -/

theorem wit_FaultFrame : ∃ t, exec (.xltInval 0xFC0) tUp = .next t := ⟨_, rfl⟩

/-! ### ColumnFrame -/

theorem wit_ColumnFrame : workOf (tOnMill id (tPool .zeroRow []) tRun) 0 0 = some (tPool .zeroRow []) ∧
    (∃ t, exec (.tileSave 0 0) (tOnMill id (tPool .zeroRow []) tRun) = .next t) ∧
    (savesTiles (tOnMill id (tPool .zeroRow []) tRun) && (tPool .zeroRow []).partly &&
      (millOf (colOf (tOnMill id (tPool .zeroRow []) tRun) 0) 0).saved.isNone) = false ∧
    ({ (tPool .zeroRow []) with provNow := [{ key := tHome.key, home := 0, isLocal := true, noticed := false }] } : BagWork).sawProv = true :=
  ⟨by decide +kernel, ⟨_, rfl⟩, by decide +kernel, by decide +kernel⟩

/-! ### LedgerFrame -/

theorem wit_LedgerFrame : ∃ t, exec (.foldHoldExpire 0 0) tUp = .next t := ⟨_, rfl⟩

/-! ### SpanFrame -/

theorem wit_SpanFrame : ∃ t, exec (.lastRxExpire 0) tUp = .next t := ⟨_, rfl⟩

/-! ### MemoryFrame -/

theorem wit_MemoryFrame : ∃ t, exec (.hbmRefresh 0 0 0) tUp = .next t := ⟨_, rfl⟩

/-! ### PopReturnsTheFewer -/

theorem wit_PopReturnsTheFewer : pedTaken (tPed { tFl .complete 4 with records := [[1, 2, 3, 4]] } tUp) 1 = true ∧ pedOp 0x80021#64 = 1 ∧
    pedReserved 0x80021#64 = true ∧ pedCellsOk 0x80021#64 = true ∧
    kindOf (tPed { tFl .complete 4 with records := [[1, 2, 3, 4]] } tUp) (pedFlow 0x80021#64) = .complete ∧
    1 ≤ (flowOf (tPed { tFl .complete 4 with records := [[1, 2, 3, 4]] } tUp) (pedFlow 0x80021#64)).records.length := by decide +kernel

/-! ### ShutFlowAnswers -/

theorem wit_ShutFlowAnswers : (flowOf (tPed { tFl .xferSubmit 4 with shut := true } tUp) 2).shut = true ∧
    pedTaken (tPed { tFl .xferSubmit 4 with shut := true } tUp) 1 = true ∧ pushSuits (kindOf (tPed { tFl .xferSubmit 4 with shut := true } tUp) 2) 1 = true ∧
    kindOf (tPed { tFl .complete 4 with shut := true } tUp) 2 = .complete ∧ (flowOf (tPed { tFl .complete 4 with shut := true } tUp) 2).records = [] ∧
    (flowOf (tPed { tFl .complete 4 with shut := true, records := [[1]] } tUp) 2).records ≠ [] := by decide +kernel

/-! ### HeadWithinTail -/

theorem wit_HeadWithinTail : kcpAlive tUp = true ∧ tUp.flt.head < 2 ^ 32 ∧ tUp.flt.tail < 2 ^ 32 ∧ bits 0#64 0 32 = tUp.flt.tail ∧
    ((tUp.flt.tail : Int) - tUp.flt.head) % 2 ^ 32 < ((bits 5#64 0 32 : Int) - tUp.flt.head) % 2 ^ 32 := by decide +kernel

/-! ### BusySlotRefuses -/

theorem wit_BusySlotRefuses : kcpAlive (tCmd 0x0101 []) = true ∧ (0 : Nat) ∈ (tCmd 0x0101 []).mbx.busy ∧ bits 0x40#64 0 6 = 0 := by decide

/-! ### CommitNeedsSealDone -/

theorem wit_CommitNeedsSealDone : Ready (tCmd 0x0A03 [3]) 0x0A03 0 (tMsg 0x0A03 [3]) ∧ (tCmd 0x0A03 [3]).ldg.sealedStep ≠ some (bits (arg (tMsg 0x0A03 [3]) 1) 0 32) ∧
    Ready (tSealAt 3 (tCmd 0x0A03 [3])) 0x0A03 0 (tMsg 0x0A03 [3]) ∧
    (match exec (.commit 0) (tSealAt 3 (tCmd 0x0A03 [3])) with
     | .next t => decide (t.mbx = acceptedMbx (tSealAt 3 (tCmd 0x0A03 [3])) 0 (tMsg 0x0A03 [3]))
     | _ => false) = true := by unfold Ready; decide +kernel

/-! ### SealSetsStatus -/

theorem wit_SealSetsStatus : Ready { tCmd 0x0A02 [3] with ldg := { (tCmd 0x0A02 [3]).ldg with openStep := some 3 } } 0x0A02 0 (tMsg 0x0A02 [3]) ∧
    bits (arg (tMsg 0x0A02 [3]) 1) 0 32 = 3 ∧ tUp.ldg.sealedStep = none ∧
    sealReady { tUp with ldg := { tUp.ldg with sealing := true, sealedStep := some 3 } } = true := by unfold Ready; decide +kernel

/-! ### WaitingBagsEnd -/

def tAwaited : WaitRow := { key := { tid := 1, defkey := false, row := 0 }, home := 7, isLocal := false, noticed := false }
theorem wit_WaitingBagsEnd : { ord := 4, bag := 0, rows := [tAwaited] } ∈ (colOf (tLate 2 .place) 0).wait ∧ tAwaited ∈ [tAwaited] ∧ tAwaited.noticed = false ∧
    tAwaited.isLocal = false ∧ runOf (tLate 2 .place) 4 = some tRun ∧ (bagOf tRun 0).isOver = false ∧ spanRuns (tLate 2 .place) = true ∧
    tAsker.hops < 15 ∧ tAsker.dest = self (tLate 2 .place) ∧ keyOfWord 1#64 = tAwaited.key ∧ tAwaited.home ≠ self (tLate 2 .place) ∧ routePort (tLate 2 .place) tAwaited.home = none ∧
    ((colOf (tLate 2 .place) 0).wait.flatMap (fun w => (w.rows.filter (fun x => !x.noticed && !x.isLocal)).map (fun x => (w, x))))[0]? =
      some ({ ord := 4, bag := 0, rows := [tAwaited] }, tAwaited) := by decide +kernel

end Sys2Proof.Machine
end

/-! SUPPORT. Outcomes that stay within a frame: the next state exists and differs from the state before it in the parts named only. The
lemmas say once what the shared shapes of the commands (a KCP write, a Clerk command, a packet that arrives) keep. -/

namespace Sys2Proof.Machine

open Sys2Proof

/-- The outcome is a next state that differs from `s` in the parts named only. -/
def Within (l : List Part) (s : State) (o : Host.Outcome State Fault Refusal) : Prop := Leads o (OnlyIn l s)

/-- Every part of the state but the queue of the commands that wait. -/
def Part.outsideQueue : List Part :=
  [.events, .block, .mbx, .clerk, .wch, .pwr, .tables, .templates, .maps, .moves, .hbm, .poison, .xlt, .flt, .qh, .ports, .cols,
    .ldg, .asy, .lrd, .hbmStacks, .span, .spanWire, .counts, .ctr, .shutters]

/-! ## What a framed outcome gives -/

theorem Within.only {l : List Part} {s t : State} {o : Host.Outcome State Fault Refusal} (h : Within l s o) (e : o = .next t) :
    OnlyIn l s t := by
  obtain ⟨u, hu, only⟩ := h
  cases hu.symm.trans e
  exact only

theorem Within.keepsQueue {l : List Part} {s : State} {o : Host.Outcome State Fault Refusal} (h : Within l s o)
    (q : Part.pending ∉ l) : Leads o (fun t => t.pending = s.pending) := by
  obtain ⟨t, ht, only⟩ := h
  exact ⟨t, ht, only.same .pending q⟩

/-! ## Framed outcomes by shape -/

theorem Within.next {l : List Part} {s t : State} (h : OnlyIn l s t) : Within l s (.next t) := ⟨t, rfl, h⟩

/-- A command that is ignored. -/
theorem Within.ignored {l : List Part} {s : State} : Within l s (.next s) := .next (.refl l s)

theorem Within.ite {l : List Part} {s : State} {a b : Host.Outcome State Fault Refusal} {c : Prop} [Decidable c]
    (h : c → Within l s a) (k : ¬ c → Within l s b) : Within l s (if c then a else b) := by
  split
  · exact h ‹_›
  · exact k ‹_›

/-- A step taken where its condition holds. -/
theorem OnlyIn.when {l : List Part} {s t : State} {c : Prop} [Decidable c] (h : OnlyIn l s t) :
    OnlyIn l s (if c then t else s) := .ite (fun _ => h) (fun _ => .refl l s)

/-- A step taken where its condition fails. -/
theorem OnlyIn.unless {l : List Part} {s t : State} {c : Prop} [Decidable c] (h : OnlyIn l s t) :
    OnlyIn l s (if c then s else t) := .ite (fun _ => .refl l s) (fun _ => h)

/-- A step taken, where its condition holds, after what led from `a` to `s`. -/
theorem OnlyIn.thenWhen {l : List Part} {a s t : State} {c : Prop} [Decidable c] (h : OnlyIn l a s) (k : OnlyIn l s t) :
    OnlyIn l a (if c then t else s) := h.trans (.when k)

theorem Within.kcpWrite {l : List Part} {s : State} {f : State → State} (h : OnlyIn l s (f s)) : Within l s (kcpWrite s f) :=
  .next (.when h)

/-- A Clerk command: the message leaves the taken list, and the block may pass between READY and RUNNING. -/
theorem Within.cmdStep {l : List Part} {op slot : Nat} {s : State} {f : Msg → State → State}
    (q : ∀ p ∈ [Part.block, .mbx], p ∈ l) (h : ∀ m t, OnlyIn l t (f m t)) : Within l s (cmdStep op slot s f) := by
  unfold Machine.cmdStep
  split
  · exact .ignored
  next t _ =>
    have taken : OnlyIn l s (untake slot s) := (untake_only slot s).mono (by simpa using q .mbx (by decide))
    exact .next ((settle_only _).step (by simpa using q .block (by decide)) (taken.trans (h t.msg _)))

/-- A table that a Clerk command names: it is LIVE, or the command is answered at once. -/
theorem OnlyIn.withTable {l : List Part} {slot tid : Nat} {m : Msg} {s : State} {f : Table → State} (q : Part.mbx ∈ l)
    (h : ∀ t, OnlyIn l s (f t)) : OnlyIn l s (withTable slot m tid s f) := by
  unfold Machine.withTable
  split
  · exact h _
  · exact (postFinal_only _ _ _ _ _).mono (by simpa using q)

/-- What a packet that is relayed or turned away may change. -/
def Part.onTheWay : List Part :=
  [.events, .mbx, .maps, .qh, .ports, .cols, .ldg, .asy, .lrd, .span, .counts, .ctr]

/-- A packet that a port has received: it waits, goes on, is turned away, or is taken here. -/
theorem Within.arrive {l : List Part} {port : Nat} {h : PktHdr} {b : PktBody} {s : State} {f : State → State}
    (q : ∀ p ∈ Part.onTheWay, p ∈ l) (k : ∀ t, OnlyIn l t (f t)) : Within l s (arrive port h b s f) := by
  have taken : OnlyIn l s (takeRx port { hdr := h, body := b } s) :=
    (takeRx_only port _ s).mono fun p hp => q p (by revert p; decide)
  refine .next (.unless (.ite (fun _ => ?stays) fun _ => .ite (fun _ => ?turned) fun _ => .ite (fun _ => ?here) fun _ => ?onward))
  case stays => exact (stay_only port _ s).mono fun p hp => q p (by revert p; decide)
  case turned => exact (misrouted_only port _ _).step q taken
  case here => exact taken.trans (k _)
  case onward => exact (transit_only port _ s).mono q

/-! ## Updates of one part -/

theorem setGbl_only (s : State) (g : Gbl) (h : g.event = s.gbl.event ∧ g.lineCond = s.gbl.lineCond ∧ g.irq = s.gbl.irq ∧
    g.msiPending = s.gbl.msiPending ∧ g.msiSeq = s.gbl.msiSeq := by exact ⟨rfl, rfl, rfl, rfl, rfl⟩) :
    OnlyIn [.block] s { s with gbl := g } :=
  ⟨fun p hp => by cases p <;> simp_all [Part.Same]⟩

theorem setMbx_only (s : State) (b : Mbx) : OnlyIn [.mbx] s { s with mbx := b } :=
  ⟨fun p hp => by cases p <;> simp_all [Part.Same]⟩

theorem setClerk_only (s : State) (c : Clerk) : OnlyIn [.clerk] s { s with clerk := c } :=
  ⟨fun p hp => by cases p <;> simp_all [Part.Same]⟩

theorem setWch_only (s : State) (w : Wch) : OnlyIn [.wch] s { s with wch := w } :=
  ⟨fun p hp => by cases p <;> simp_all [Part.Same]⟩

theorem setPwr_only (s : State) (w : Pwr) : OnlyIn [.pwr] s { s with pwr := w } :=
  ⟨fun p hp => by cases p <;> simp_all [Part.Same]⟩

theorem setTemplates_only (s : State) (m : AMap Template) : OnlyIn [.templates] s { s with templates := m } :=
  ⟨fun p hp => by cases p <;> simp_all [Part.Same]⟩

theorem setMoves_only (s : State) (m : List RowMove) : OnlyIn [.moves] s { s with moves := m } :=
  ⟨fun p hp => by cases p <;> simp_all [Part.Same]⟩

theorem setXlt_only (s : State) (x : Xlt) : OnlyIn [.xlt] s { s with xlt := x } :=
  ⟨fun p hp => by cases p <;> simp_all [Part.Same]⟩

theorem setFlt_only (s : State) (x : Flt) : OnlyIn [.flt] s { s with flt := x } :=
  ⟨fun p hp => by cases p <;> simp_all [Part.Same]⟩

theorem setQh_only (s : State) (q : Qh) : OnlyIn [.qh] s { s with qh := q } :=
  ⟨fun p hp => by cases p <;> simp_all [Part.Same]⟩

theorem setCdp_only (s : State) (m : AMap CdpPort) : OnlyIn [.ports] s { s with cdp := m } :=
  ⟨fun p hp => by cases p <;> simp_all [Part.Same]⟩

theorem setCols_only (s : State) (m : AMap Column) : OnlyIn [.cols] s { s with cols := m } :=
  ⟨fun p hp => by cases p <;> simp_all [Part.Same]⟩

theorem setLdg_only (s : State) (x : Ledger) : OnlyIn [.ldg] s { s with ldg := x } :=
  ⟨fun p hp => by cases p <;> simp_all [Part.Same]⟩

theorem setLrd_only (s : State) (x : Larder) : OnlyIn [.lrd] s { s with lrd := x } :=
  ⟨fun p hp => by cases p <;> simp_all [Part.Same]⟩

theorem setSpan_only (s : State) (x : Span) : OnlyIn [.span] s { s with span := x } :=
  ⟨fun p hp => by cases p <;> simp_all [Part.Same]⟩

theorem setSpanWire_only (s : State) (x : List (Nat × Packet)) : OnlyIn [.spanWire] s { s with spanWire := x } :=
  ⟨fun p hp => by cases p <;> simp_all [Part.Same]⟩

theorem setCtr_only (s : State) (c : Ctr) (h : c.islands = s.ctr.islands := by rfl) : OnlyIn [.ctr] s { s with ctr := c } :=
  ⟨fun p hp => by cases p <;> simp_all [Part.Same]⟩

theorem setShutters_only (s : State) (x : List Shutter) : OnlyIn [.shutters] s { s with shutters := x } :=
  ⟨fun p hp => by cases p <;> simp_all [Part.Same]⟩

/-! ## Updates of several parts together -/

theorem setClerkTemplates_only (s : State) (c : Clerk) (m : AMap Template) :
    OnlyIn [.clerk, .templates] s { s with clerk := c, templates := m } :=
  .step (setTemplates_only _ m) (by decide) ((setClerk_only s c).mono (by decide))

theorem setClerkSpan_only (s : State) (c : Clerk) (x : Span) : OnlyIn [.clerk, .span] s { s with span := x, clerk := c } :=
  .step (setClerk_only _ c) (by decide) ((setSpan_only s x).mono (by decide))

theorem setClerkLrd_only (s : State) (c : Clerk) (x : Larder) : OnlyIn [.clerk, .lrd] s { s with clerk := c, lrd := x } :=
  .step (setLrd_only _ x) (by decide) ((setClerk_only s c).mono (by decide))

theorem setPwrClerk_only (s : State) (w : Pwr) (c : Clerk) : OnlyIn [.clerk, .pwr] s { s with pwr := w, clerk := c } :=
  .step (setClerk_only _ c) (by decide) ((setPwr_only s w).mono (by decide))

theorem setGblClerk_only (s : State) (g : Gbl) (c : Clerk) (h : g.event = s.gbl.event ∧ g.lineCond = s.gbl.lineCond ∧
    g.irq = s.gbl.irq ∧ g.msiPending = s.gbl.msiPending ∧ g.msiSeq = s.gbl.msiSeq := by exact ⟨rfl, rfl, rfl, rfl, rfl⟩) :
    OnlyIn [.block, .clerk] s { s with gbl := g, clerk := c } :=
  .step (setClerk_only _ c) (by decide) ((setGbl_only s g h).mono (by decide))

theorem setMbxWchGbl_only (s : State) (b : Mbx) (w : Wch) (g : Gbl) (h : g.event = s.gbl.event ∧ g.lineCond = s.gbl.lineCond ∧
    g.irq = s.gbl.irq ∧ g.msiPending = s.gbl.msiPending ∧ g.msiSeq = s.gbl.msiSeq := by exact ⟨rfl, rfl, rfl, rfl, rfl⟩) :
    OnlyIn [.block, .mbx, .wch] s { s with mbx := b, wch := w, gbl := g } :=
  .step (setWch_only { s with mbx := b, gbl := g } w) (by decide)
    (.step (setMbx_only { s with gbl := g } b) (by decide) ((setGbl_only s g h).mono (by decide)))

end Sys2Proof.Machine

/-! SUPPORT. Frames of the commands of the register map, the mailboxes, the Watchman, the counters and the resets: each goes on, and what
it may change. -/

namespace Sys2Proof.Machine

open Sys2Proof

/-! ## The mailboxes -/

theorem execMbxDoorbell_within (val : W64) (s : State) : Within [.mbx] s (execMbxDoorbell val s) := .kcpWrite (ringSlot_only _ s)

theorem execMbxSlotWrite_within (n w : Nat) (val : W64) (s : State) : Within [.mbx] s (execMbxSlotWrite n w val s) :=
  .ite (fun _ => .kcpWrite (writeSlotWord_only n w val s)) fun _ => .ignored

theorem execMbxRespHeadWrite_within (val : W64) (s : State) : Within [.mbx] s (execMbxRespHeadWrite val s) :=
  .kcpWrite (writeRespHead_only val s)

theorem execMbxRingConfigWrite_within (size : Bool) (val : W64) (s : State) :
    Within [.mbx] s (execMbxRingConfigWrite size val s) := by
  cases size
  · exact .kcpWrite (writeRespBase_only val s)
  · exact .kcpWrite (writeRespSize_only val s)

theorem execCommandTake_within (s : State) : Within [.mbx] s (execCommandTake s) := by
  unfold execCommandTake
  split
  · exact .ignored
  · exact .ite (fun _ => .next (takeFirst_only _ _ s)) fun _ => .ignored

theorem execResponseWrite_within (s : State) : Within [.mbx, .ports] s (execResponseWrite s) := by
  unfold execResponseWrite
  split
  · exact .ignored
  · exact .next (writeResponse_only _ _ s)

/-! ## The counters -/

theorem execReaderVisit_within (incs : List IslandInc) (s : State) :
    Within [.events, .ports, .cols, .counts] s (execReaderVisit incs s) := .next (.when (visitAll_only incs s))

theorem execDumpPeriodEnd_within (incs : List IslandInc) (s : State) :
    Within [.events, .ports, .cols, .counts, .ctr] s (execDumpPeriodEnd incs s) := by
  refine .next (.unless (.ite (fun _ => ?_) fun _ => dumpNow_only incs s))
  exact (setCtr_only s _).mono (by decide)

theorem execCtrModeWrite_within (val : W64) (s : State) : Within [.ctr] s (execCtrModeWrite val s) := .kcpWrite (writeCtrMode_only val s)

theorem execCtrFreezeWrite_within (val : W64) (incs : List IslandInc) (s : State) :
    Within [.events, .ports, .cols, .counts, .ctr] s (execCtrFreezeWrite val incs s) := .kcpWrite (writeCtrFreeze_only incs val s)

theorem execCtrDumpPeriodWrite_within (val : W64) (s : State) : Within [.ctr] s (execCtrDumpPeriodWrite val s) :=
  .kcpWrite (writeCtrPeriod_only val s)

theorem execCtrSampleWrite_within (val : W64) (s : State) : Within [.ctr] s (execCtrSampleWrite val s) :=
  .kcpWrite (writeCtrSample_only val s)

theorem execMclIdleCauseClear_within (c : Nat) (val : W64) (s : State) : Within [.cols] s (execMclIdleCauseClear c val s) :=
  .ite (fun _ => .kcpWrite (writeIdleCause_only c _ s)) fun _ => .ignored

theorem execSampleRecordWrite_within (idx : Nat) (times : List Nat) (s : State) :
    Within [.ports, .ctr] s (execSampleRecordWrite idx times s) := by
  unfold execSampleRecordWrite
  split
  · exact .ignored
  next x _ =>
    refine .ite (fun _ => .ignored) fun _ => ?_
    have taken : OnlyIn [.ports, .ctr] s { s with ctr := { s.ctr with samples := s.ctr.samples.eraseIdx idx } } :=
      (setCtr_only s _).mono (by decide)
    refine .ite (fun _ => .next ((setCtr_only _ _).step (by decide) taken)) fun _ => .next ?_
    exact (setCtr_only (chipWrite _ _ _ _ _) _).step (by decide) ((chipWrite_only _ _ _ _ _).step (by decide) taken)

/-! ## The Watchman -/

theorem execWchNop_within (val : W64) (s : State) : Within Part.outsideQueue s (execWchNop val s) :=
  .kcpWrite ((wchCommand_only _ s).mono (by decide))

theorem execDumpLog_within (val : W64) (s : State) : Within Part.outsideQueue s (execDumpLog val s) :=
  .kcpWrite ((wchCommand_only _ s).mono (by decide))

theorem execHaltClerk_within (val : W64) (s : State) : Within Part.outsideQueue s (execHaltClerk val s) :=
  .kcpWrite ((wchCommand_only _ s).mono (by decide))

theorem execWriteCo_within (val : W64) (s : State) : Within Part.outsideQueue s (execWriteCo val s) :=
  .kcpWrite ((wchCommand_only _ s).mono (by decide))

theorem execRestartClerk_within (val : W64) (s : State) : Within Part.outsideQueue s (execRestartClerk val s) :=
  .kcpWrite ((wchCommand_only _ s).mono (by decide))

theorem execWchRecoveryReset_within (val : W64) (s : State) : Within Part.outsideQueue s (execWchRecoveryReset val s) :=
  .kcpWrite ((wchCommand_only _ s).mono (by decide))

theorem execForceHeld_within (val : W64) (s : State) : Within Part.outsideQueue s (execForceHeld val s) :=
  .kcpWrite ((wchCommand_only _ s).mono (by decide))

/-! ## Resets and power -/

theorem execGblResetCold_within (val : W64) (s : State) : Within Part.outsideQueue s (execGblResetCold val s) :=
  .kcpWrite ((writeGblReset_only _ s).mono (by decide))

theorem execGblResetRecovery_within (val : W64) (s : State) : Within Part.outsideQueue s (execGblResetRecovery val s) :=
  .kcpWrite ((writeGblReset_only _ s).mono (by decide))

theorem execGblResetClerkOnly_within (val : W64) (s : State) : Within Part.outsideQueue s (execGblResetClerkOnly val s) :=
  .kcpWrite ((writeGblReset_only _ s).mono (by decide))

theorem execCmbResetRequest_within (s : State) : Within Part.outsideQueue s (execCmbResetRequest s) :=
  .kcpWrite ((requestReset_only _ _ _ s).mono (by decide))

theorem execResetTakeHold_within (s : State) : Within Part.outsideQueue s (execResetTakeHold s) := by
  unfold execResetTakeHold
  split
  · exact .next ((takeHold_only _ _ s).mono (by decide))
  · exact .next ((enterHeld_only s).mono (by decide))
  · exact .ignored

theorem execPorAssert_within (s : State) : Within Part.outsideQueue s (execPorAssert s) :=
  .next ((powerLost_only _ _ s).mono (by decide))

theorem execPorRelease_within (s : State) : Within [.block] s (execPorRelease s) :=
  .next (.when (setGbl_only s _))

theorem execRefclkLoss_within (s : State) : Within Part.outsideQueue s (execRefclkLoss s) :=
  .next (.unless ((powerLost_only _ _ s).mono (by decide)))

theorem execRailFault_within (s : State) : Within Part.outsideQueue s (execRailFault s) :=
  .next (.unless ((powerLost_only _ _ s).mono (by decide)))

theorem execRstNFall_within (s : State) : Within Part.outsideQueue s (execRstNFall s) := by
  refine .next (.unless ?_)
  have low : OnlyIn Part.outsideQueue s { s with gbl := { s.gbl with rstLow := true } } :=
    (setGbl_only s _).mono (by decide)
  exact low.thenWhen ((requestReset_only _ _ _ _).mono (by decide))

theorem execRstNRelease_within (s : State) : Within [.block] s (execRstNRelease s) :=
  .next (setGbl_only s _)

theorem execPowerTransitionDone_within (us : Nat) (s : State) : Within Part.outsideQueue s (execPowerTransitionDone us s) :=
  .next (.unless (.ite (fun _ => (powerLost_only _ _ s).mono (by decide)) fun _ =>
    .ite (fun _ => (enterRetention_only us s).mono (by decide)) fun _ =>
    .ite (fun _ => (leaveRetention_only us s).mono (by decide)) fun _ => (endTransition_only us s).mono (by decide)))

/-! ## Registers of the blocks -/

theorem execGblEventWrite_within (val : W64) (s : State) : Within [.events, .ports] s (execGblEventWrite val s) :=
  .kcpWrite (writeEvent_only val s)

theorem execGblEventEnWrite_within (off : Nat) (val : W64) (s : State) :
    Within [.events, .block, .ports] s (execGblEventEnWrite off val s) := .kcpWrite (writeEventReg_only _ val s)

theorem execGblMsiAddrWrite_within (val : W64) (s : State) : Within [.events, .block, .ports] s (execGblMsiAddrWrite val s) :=
  .kcpWrite (writeMsiAddr_only val s)

theorem execAsyClear_within (val : W64) (s : State) : Within [.asy] s (execAsyClear val s) := .kcpWrite (writeAsySel_only _ s)

theorem execLdgLatePolicyWrite_within (val : W64) (s : State) : Within [.ldg] s (execLdgLatePolicyWrite val s) :=
  .kcpWrite (writeLatePolicy_only val s)

theorem execQhSplitWrite_within (val : W64) (s : State) : Within [.qh] s (execQhSplitWrite val s) := .kcpWrite (writeQhSplit_only val s)

theorem execQhTimeoutWrite_within (val : W64) (s : State) : Within [.qh] s (execQhTimeoutWrite val s) :=
  .kcpWrite (writeQhTimeout_only val s)

theorem execFltRingHeadWrite_within (val : W64) (s : State) : Within [.flt] s (execFltRingHeadWrite val s) :=
  .kcpWrite (writeFltHead_only val s)

theorem execFltRingConfigWrite_within (size : Bool) (val : W64) (s : State) :
    Within [.flt] s (execFltRingConfigWrite size val s) := by
  cases size
  · exact .kcpWrite (writeFltBase_only val s)
  · exact .kcpWrite (writeFltSize_only val s)

theorem execFltStatusClear_within (val : W64) (s : State) : Within [.flt] s (execFltStatusClear val s) :=
  .kcpWrite (writeFltStatus_only _ s)

theorem execHbmTempWrite_within (stack : Nat) (val : W64) (s : State) : Within [.hbmStacks] s (execHbmTempWrite stack val s) :=
  .ite (fun _ => .kcpWrite (writeHbmTemp_only stack val s)) fun _ => .ignored

theorem execHbmHintCfgWrite_within (stack : Nat) (val : W64) (s : State) : Within [.hbmStacks] s (execHbmHintCfgWrite stack val s) :=
  .ite (fun _ => .kcpWrite (writeHintCfg_only stack val s)) fun _ => .ignored

theorem execTest1500LoadInstr_within (stack : Nat) (val : W64) (hard : Bool) (s : State) :
    Within [.hbmStacks] s (execTest1500LoadInstr stack val hard s) :=
  .ite (fun _ => .kcpWrite (writeTest1500_only stack _ hard _ s)) fun _ => .ignored

theorem execTest1500ShiftData_within (stack : Nat) (val : W64) (captured : W32) (s : State) :
    Within [.hbmStacks] s (execTest1500ShiftData stack val captured s) :=
  .ite (fun _ => .kcpWrite (writeTest1500_only stack _ _ captured s)) fun _ => .ignored

theorem execRegisterWrite_within (off : Nat) (val : W64) (s : State) : Within Part.outsideQueue s (execRegisterWrite off val s) :=
  .kcpWrite ((regWrite_only off val s).mono (by decide))

end Sys2Proof.Machine

/-! SUPPORT. Frames of the commands of the Queue Hall, the Carters, the Chip Data Ports, invalidations and faults. -/

namespace Sys2Proof.Machine

open Sys2Proof

/-! ## The Pedlar and the flows -/

theorem execPedlarPush_within (port ctag : Nat) (hdr : W64) (data : List W64) (s : State) :
    Within [.events, .qh, .ports, .counts] s (execPedlarPush port ctag hdr data s) :=
  .next (.when ((pedPush_only _ _ _ _ _).step (by decide) ((countEv_only _ _ _ s).mono (by decide))))

theorem execPedlarPop_within (port ctag : Nat) (req : PopReq) (s : State) :
    Within [.events, .qh, .ports, .counts] s (execPedlarPop port ctag req s) :=
  .next (.when ((pedPop_only _ _ _ _ _).step (by decide) ((countEv_only _ _ _ s).mono (by decide))))

theorem execPedlarProbe_within (port ctag : Nat) (hdr : W64) (s : State) :
    Within [.ports, .counts] s (execPedlarProbe port ctag hdr s) :=
  .next (.when ((pedProbe_only _ _ _ _).step (by decide) ((countEv_only _ _ _ s).mono (by decide))))

theorem execSubSubmit_within (val : W64) (s : State) : Within [.events, .qh, .ports] s (execSubSubmit val s) :=
  .kcpWrite (subSubmit_only val s)

theorem execStreamTailTimeout_within (flow : Nat) (s : State) : Within [.qh] s (execStreamTailTimeout flow s) :=
  .next (.unless (setQh_only s _))

theorem execFlowTimeout_within (flow : Nat) (s : State) : Within [.events, .qh, .ports] s (execFlowTimeout flow s) := by
  have marked : OnlyIn [.events, .qh, .ports] s (flowMod flow (fun g => { g with timeout := true }) s) :=
    (flowMod_only flow _ s).mono (by decide)
  exact .next (.when (.ite (fun _ => marked) fun _ => (raise_only _ _).step (by decide) marked))

theorem execRunAdmit_within (flow duration : Nat) (v : ChipView) (s : State) :
    Within [.block, .clerk, .tables, .xlt, .flt, .qh, .hbmStacks, .counts] s (execRunAdmit flow duration v s) := by
  unfold execRunAdmit
  dsimp only
  split
  · exact .ignored
  · exact .next (.unless (admitHead_only flow duration v _ s))

theorem execTransferAdmit_within (flow duration : Nat) (v : ChipView) (s : State) :
    Within [.block, .clerk, .xlt, .flt, .qh, .hbmStacks, .counts] s (execTransferAdmit flow duration v s) := by
  unfold execTransferAdmit
  dsimp only
  split
  · exact .ignored
  · exact .next (.unless (admitXferHead_only flow duration v _ s))

theorem execReplacedItemEnd_within (flow duration : Nat) (s : State) :
    Within [.clerk, .flt, .qh] s (execReplacedItemEnd flow duration s) := by
  unfold execReplacedItemEnd
  dsimp only
  split
  · exact .ignored
  · exact .next (.unless (.ite (fun _ => endRunItem_only flow duration _ _ s) fun _ => .when (endXferItem_only flow duration _ _ _ s)))

/-! ## Carters, groups and records -/

theorem execCarterChunk_within (carter ord : Nat) (chunk : ChunkIn) (s : State) :
    Within [.events, .hbm, .poison, .qh, .ports, .hbmStacks, .counts] s (execCarterChunk carter ord chunk s) := by
  refine .next (.unless ?_)
  have dropped := (dropLines_only (chunkRanges s ord chunk.stream) chunk.lines s).mono
    (m := [.events, .hbm, .poison, .qh, .ports, .hbmStacks, .counts]) (by decide)
  exact (correctedCells_only _ _).step (by decide) ((carterErrs_only _ _ _ _ _).step (by decide) dropped)

theorem execDistributorForward_within (ord group : Nat) (s : State) : Within [.qh] s (execDistributorForward ord group s) := by
  unfold execDistributorForward
  split
  · exact .ignored
  · split
    · exact .ignored
    · exact .next (.when (forwardGroup_only _ _ _ _ s))

theorem execRunRecordWrite_within (ord duration : Nat) (s : State) :
    Within [.block, .tables, .moves, .qh, .lrd] s (execRunRecordWrite ord duration s) := by
  unfold execRunRecordWrite
  split
  · exact .ignored
  · exact .next (.when (finishRun_only _ duration s))

theorem execTransferRecordWrite_within (ord duration : Nat) (s : State) :
    Within [.block, .qh] s (execTransferRecordWrite ord duration s) := by
  unfold execTransferRecordWrite
  split
  · exact .ignored
  · split
    · exact .ignored
    · exact .next ((settle_only _).step (by decide) ((setQh_only (putRecord _ _ _ s) _).step (by decide)
        ((putRecord_only _ _ _ s).mono (by decide))))

theorem execBagGroupDispatch_within (ord col : Nat) (s : State) : Within [.qh, .ctr] s (execBagGroupDispatch ord col s) := by
  unfold execBagGroupDispatch
  split
  · exact .ignored
  · split
    · exact .ignored
    · exact .next (.when (((runMod_only ord _ s).mono (by decide)).thenFold fun t b => (tagBag_only _ col b t).mono (by decide)))

/-! ## Chip Data Ports -/

/-- What comes back on a port ends with an event where it came with an error. -/
theorem raiseOnError_only {l : List Part} {a t : State} {c : Prop} [Decidable c] (q : ∀ p ∈ [Part.events, .ports], p ∈ l)
    (h : OnlyIn l a t) : OnlyIn l a (if c then raise evEccUncorrectable t else t) :=
  h.thenWhen ((raise_only _ t).mono q)

theorem execRdData_within (port : Nat) (hdr : W64) (data : List Byte) (s : State) :
    Within [.events, .qh, .ports] s (execRdData port hdr data s) := by
  unfold execRdData
  split
  · exact .ignored
  next r _ =>
    refine .next (.unless (raiseOnError_only (by decide) ?_))
    exact (readDone_only r _ _ _).step (by decide) ((retire_only port r s).mono (by decide))

theorem execWrAck_within (port : Nat) (hdr : W64) (s : State) :
    Within [.events, .mbx, .clerk, .qh, .ports, .hbmStacks, .ctr] s (execWrAck port hdr s) := by
  unfold execWrAck
  split
  · exact .ignored
  next r _ =>
    refine .next (.unless (raiseOnError_only (by decide) ?_))
    exact (writeDone_only r _ _).step (by decide) ((retire_only port r s).mono (by decide))

theorem execCdpHeaderDiscard_within (port : Nat) (hdr : W64) (s : State) : Within [.clerk] s (execCdpHeaderDiscard port hdr s) :=
  .next (.when (logAdd_only _ _ _ s))

theorem execCdpReadyChange_within (port : Nat) (kRdy sRdy : Bool) (s : State) :
    Within [.ports] s (execCdpReadyChange port kRdy sRdy s) :=
  .next (.unless ((pumpPort_only port _).step (by decide) (setCdp_only s _)))

theorem execCdpCreditReturn_within (port : Nat) (header data : Bool) (s : State) :
    Within [.ports] s (execCdpCreditReturn port header data s) :=
  .next (.unless ((pumpPort_only port _).step (by decide) (setCdp_only s _)))

/-! ## Invalidations and faults -/

theorem execXltInval_within (val : W64) (s : State) : Within [.xlt] s (execXltInval val s) := .kcpWrite (writeInval_only val s)

theorem execInvalTakeEffect_within (s : State) : Within [.xlt, .qh] s (execInvalTakeEffect s) := by
  unfold execInvalTakeEffect
  split
  · exact .ignored
  · exact .next (.unless (takeEffect_only _ s))

theorem execInvalAck_within (s : State) : Within [.events, .xlt, .ports] s (execInvalAck s) := by
  unfold execInvalAck
  split
  · exact .ignored
  · exact .next (.when ((raise_only _ _).step (by decide) ((setXlt_only s _).mono (by decide))))

theorem execRangeRetranslate_within (ord stream : Nat) (v : ChipView) (s : State) :
    Within [.xlt, .flt, .qh, .hbmStacks] s (execRangeRetranslate ord stream v s) := by
  unfold execRangeRetranslate
  split
  · split
    · exact .next (.when (retranslateStream_only ord stream v _ _ s))
    · exact .ignored
  · exact .next (.when (retranslateXfer_only ord _ v _ s))
  · exact .ignored

theorem execFaultRaise_within (s : State) : Within [.flt] s (execFaultRaise s) := .next (placeFault_only [] _ s)

theorem execFaultRecordWrite_within (s : State) : Within [.events, .flt, .ports] s (execFaultRecordWrite s) := by
  unfold execFaultRecordWrite
  split
  · exact .ignored
  · split
    · exact .next ((setFlt_only s _).mono (by decide))
    · exact .next (.ite (fun _ => writeFaultRecord_only _ _ _ s) fun _ => faultRingFull_only _ _ s)

theorem execFaultReplyReplay_within (val : W64) (s : State) :
    Within [.flt, .qh, .cols, .span, .ctr] s (execFaultReplyReplay val s) := .kcpWrite (writeReply_only _ s)

theorem execFaultReplyAbort_within (val : W64) (s : State) :
    Within [.flt, .qh, .cols, .span, .ctr] s (execFaultReplyAbort val s) := .kcpWrite (writeReply_only _ s)

theorem execFaultOverdue_within (pend : Nat) (s : State) : Within [.flt] s (execFaultOverdue pend s) := by
  unfold execFaultOverdue
  split
  · exact .next (.when (setFlt_only s _))
  · exact .ignored

end Sys2Proof.Machine

/-! SUPPORT. Frames of the commands that the Clerk carries out: each goes on, and what it may change. -/

namespace Sys2Proof.Machine

open Sys2Proof

/-! ## Answers -/

/-- A command that is answered at once. -/
theorem answered_only {l : List Part} {s : State} (slot : Nat) (m : Msg) (st : Status) (payload : List W64)
    (q : ∀ p ∈ [Part.mbx], p ∈ l) : OnlyIn l s (postFinal slot m st payload s) := (postFinal_only slot m st payload s).mono q

/-- A command that is answered after what led to `t`. -/
theorem OnlyIn.answered {l : List Part} {s t : State} (h : OnlyIn l s t) (slot : Nat) (m : Msg) (st : Status)
    (payload : List W64) (q : ∀ p ∈ [Part.mbx], p ∈ l) : OnlyIn l s (postFinal slot m st payload t) :=
  h.trans (answered_only slot m st payload q)

/-- A command that is answered at once with an error, after the page walk of its failed read has left its trace. -/
theorem answeredNoted_only {l : List Part} {s : State} (slot : Nat) (m : Msg) (st : Status) (payload : List W64) (v : ChipView)
    (ci da n : Nat) (q : ∀ p ∈ [Part.mbx, .hbmStacks], p ∈ l) :
    OnlyIn l s (postFinal slot m st payload (noteClerk v ci da n s)) :=
  .answered ((noteClerk_only v ci da n s).mono (by simpa using q .hbmStacks (by decide))) slot m st payload
    (by simpa using q .mbx (by decide))

/-! ## Counters, flows, contexts and segments -/

theorem execCtrConfig_within (slot : Nat) (s : State) : Within [.block, .mbx, .counts] s (execCtrConfig slot s) :=
  .cmdStep (by decide) fun m t => .ite
    (fun _ => .answered ((ctrConfigure_only _ _ _ _ _ t).mono (by decide)) slot m _ _ (by decide))
    fun _ => answered_only slot m _ _ (by decide)

theorem execFlowConfig_within (slot : Nat) (s : State) : Within [.block, .mbx, .qh] s (execFlowConfig slot s) := by
  refine .cmdStep (by decide) fun m t => ?_
  dsimp only
  split
  · exact answered_only slot m _ _ (by decide)
  · exact .ite (fun _ => .answered ((flowMod_only _ _ t).mono (by decide)) slot m _ _ (by decide))
      fun _ => answered_only slot m _ _ (by decide)

theorem execCtxSet_within (slot : Nat) (s : State) : Within [.block, .mbx, .xlt] s (execCtxSet slot s) :=
  .cmdStep (by decide) fun m t => .ite (fun _ => .answered ((ctxMod_only _ _ t).mono (by decide)) slot m _ _ (by decide))
    fun _ => answered_only slot m _ _ (by decide)

theorem execSegSet_within (slot : Nat) (s : State) : Within [.block, .mbx, .xlt] s (execSegSet slot s) :=
  .cmdStep (by decide) fun m t => .ite (fun _ => .answered ((ctxMod_only _ _ t).mono (by decide)) slot m _ _ (by decide))
    fun _ => answered_only slot m _ _ (by decide)

/-! ## Tables -/

theorem execTableCreate_within (slot : Nat) (v : ChipView) (place : Placement) (s : State) :
    Within [.block, .mbx, .tables, .moves, .hbm, .poison, .asy, .lrd, .hbmStacks, .shutters] s (execTableCreate slot v place s) := by
  unfold execTableCreate
  split
  · exact .ignored
  · split
    · exact .cmdStep (by decide) fun m t => answeredNoted_only slot m _ _ v _ _ _ (by decide)
    next bs _ =>
      exact .ite (fun _ => .cmdStep (by decide) fun m t => answered_only slot m _ _ (by decide)) fun _ =>
        .ite (fun _ => .cmdStep (by decide) fun m t =>
          .answered ((createTable_only bs place t).mono (by decide)) slot m _ _ (by decide)) fun _ => .ignored

theorem execTableDescribe_within (slot : Nat) (v : ChipView) (s : State) :
    Within [.block, .mbx, .ports, .hbmStacks] s (execTableDescribe slot v s) := by
  refine .cmdStep (by decide) fun m t => ?_
  dsimp only
  split
  · exact answered_only slot m _ _ (by decide)
  · exact (clerkResult_only t v slot m _ _ _).mono (by decide)

theorem execTableDestroy_within (slot : Nat) (s : State) :
    Within [.events, .block, .mbx, .tables, .moves, .ports, .cols, .ldg, .asy, .lrd, .hbmStacks, .span, .counts] s
      (execTableDestroy slot s) := by
  refine .cmdStep (by decide) fun m t => .withTable (by decide) fun _ => .ite
    (fun _ => answered_only slot m _ _ (by decide)) fun _ => .answered ?_ slot m _ _ (by decide)
  exact (advance_only _).step (by decide) <| (settleSlot_only _ _ _).step (by decide) <| (asySpanEnd_only _ _ _).step (by decide) <|
    (asySpanEnd_only _ _ _).step (by decide) <| (tableMod_only _ _ t).mono (by decide)

theorem execLoadStart_within (slot : Nat) (place : Placement) (s : State) :
    Within [.block, .mbx, .tables, .moves, .hbm, .poison, .asy, .lrd] s (execLoadStart slot place s) := by
  unfold execLoadStart
  split
  · exact .ignored
  · dsimp only
    split
    · exact .cmdStep (by decide) fun m t => answered_only slot m _ _ (by decide)
    · exact .ite (fun _ => .cmdStep (by decide) fun m t => answered_only slot m _ _ (by decide)) fun _ =>
        .ite (fun _ => .cmdStep (by decide) fun m t =>
          .answered ((openSlot_only _ _ _ _ place t).mono (by decide)) slot m _ _ (by decide)) fun _ => .ignored

theorem execLoadRows_within (slot : Nat) (v : ChipView) (s : State) :
    Within [.events, .block, .mbx, .tables, .hbm, .poison, .hbmStacks, .ports, .asy] s (execLoadRows slot v s) := by
  refine .cmdStep (by decide) fun m t => .withTable (by decide) fun _ => .ite
    (fun _ => answered_only slot m _ _ (by decide)) fun _ => ?_
  split
  · exact answeredNoted_only slot m _ _ v _ _ _ (by decide)
  · exact .answered ((loadAll_only v _ _ _ _ _ _ _ _ _ ⟨t, _, _, _, _⟩).mono (by decide)) slot m _ _ (by decide)

theorem execLoadEnd_within (slot : Nat) (s : State) : Within [.block, .mbx, .tables, .asy] s (execLoadEnd slot s) :=
  .cmdStep (by decide) fun m t => .withTable (by decide) fun _ => .ite
    (fun _ => .answered ((asySpanEnd_only _ _ _).step (by decide) ((tableMod_only _ _ t).mono (by decide))) slot m _ _ (by decide))
    fun _ => answered_only slot m _ _ (by decide)

theorem execSwitch_within (slot : Nat) (s : State) : Within [.block, .mbx, .tables, .moves, .lrd] s (execSwitch slot s) := by
  refine .cmdStep (by decide) fun m t => .withTable (by decide) fun _ => ?_
  split
  · exact answered_only slot m _ _ (by decide)
  · exact .ite (fun _ => answered_only slot m _ _ (by decide)) fun _ =>
      .answered ((settleSlot_only _ _ _).step (by decide) ((tableMod_only _ _ t).mono (by decide))) slot m _ _ (by decide)

theorem execRowRestore_within (slot : Nat) (v : ChipView) (s : State) :
    Within [.events, .block, .mbx, .tables, .moves, .hbm, .poison, .ports, .cols, .ldg, .asy, .lrd, .hbmStacks, .span, .counts] s
      (execRowRestore slot v s) := by
  refine .cmdStep (by decide) fun m t => .withTable (by decide) fun tbl => ?_
  split
  · exact answered_only slot m _ _ (by decide)
  next i _ =>
    split
    · exact answeredNoted_only slot m _ _ v _ _ _ (by decide)
    · split
      · exact answered_only slot m _ _ (by decide)
      next r _ =>
        refine .ite (fun _ => answered_only slot m _ _ (by decide)) fun _ => ?_
        split
        · exact answered_only slot m _ _ (by decide)
        next u written =>
          have row : OnlyIn _ t u := (restoreWrite_only _ i _ tbl r t).only u written
          exact .answered ((advance_only _).step (by decide) ((restoreCrier_only _ i r u).step (by decide) (row.mono (by decide))))
            slot m _ _ (by decide)

/-! ## Templates, nodes, routes, home maps and plans -/

theorem execTemplateInstall_within (slot : Nat) (v : ChipView) (s : State) :
    Within [.block, .mbx, .clerk, .templates, .hbmStacks] s (execTemplateInstall slot v s) := by
  unfold execTemplateInstall
  split
  · exact .ignored
  · dsimp only
    split
    · exact .cmdStep (by decide) fun m t => .answered ((noteImage_only v _ _ t).mono (by decide)) slot m _ _ (by decide)
    · exact .cmdStep (by decide) fun m t => answered_only slot m _ _ (by decide)
    · refine .ite (fun _ => .next ?_) fun _ => .cmdStep (by decide) fun m t =>
        .answered ((setTemplates_only t _).mono (by decide)) slot m _ _ (by decide)
      exact (holdTaken_only slot _).step (by decide) ((setClerk_only s _).mono (by decide))

theorem execTemplateInstallComplete_within (tslot : Nat) (s : State) :
    Within [.mbx, .clerk, .templates] s (execTemplateInstallComplete tslot s) := by
  unfold execTemplateInstallComplete
  split
  · exact .ignored
  next n slot tpl _ =>
    split
    · exact .ignored
    next k _ =>
      refine .next (.unless (.answered ((untake_only slot _).step (by decide) ?_) slot k.msg _ _ (by decide)))
      exact (setClerkTemplates_only s _ _).mono (by decide)

theorem execNodeSet_within (slot : Nat) (s : State) : Within [.block, .mbx, .clerk, .span] s (execNodeSet slot s) := by
  refine .cmdStep (by decide) fun m t => .ite (fun _ => .answered ?_ slot m _ _ (by decide))
    fun _ => answered_only slot m _ _ (by decide)
  exact (setClerkSpan_only t _ _).mono (by decide)

theorem execRouteSet_within (slot : Nat) (v : ChipView) (s : State) :
    Within [.block, .mbx, .hbmStacks, .span] s (execRouteSet slot v s) := by
  refine .cmdStep (by decide) fun m t => ?_
  split
  · exact answeredNoted_only slot m _ _ v _ _ _ (by decide)
  · exact .answered ((installRoutes_only _ _ t).mono (by decide)) slot m _ _ (by decide)

theorem execHomemapInstall_within (slot : Nat) (v : ChipView) (room : MapRoom) (s : State) :
    Within [.block, .mbx, .maps, .moves, .hbm, .poison, .lrd, .hbmStacks, .shutters] s (execHomemapInstall slot v room s) := by
  unfold execHomemapInstall
  split
  · exact .ignored
  · exact .ite (fun _ => .cmdStep (by decide) fun m t => (doHomemap_only v _ _ slot m t).mono (by decide)) fun _ => .ignored

theorem execLarderPlan_within (slot : Nat) (s : State) :
    Within [.block, .mbx, .clerk, .tables, .moves, .hbm, .poison, .lrd] s (execLarderPlan slot s) := by
  unfold execLarderPlan
  split
  · exact .ignored
  · exact .ite (fun _ => .next ((holdTaken_only slot s).mono (by decide))) fun _ =>
      .cmdStep (by decide) fun m t => (doPlan_only slot m t).mono (by decide)

theorem execHotsetRefresh_within (slot : Nat) (v : ChipView) (s : State) :
    Within [.events, .mbx, .tables, .moves, .hbm, .poison, .ports, .ldg, .asy, .lrd, .hbmStacks, .span, .counts] s
      (execHotsetRefresh slot v s) := by
  unfold execHotsetRefresh
  split
  · exact .ignored
  · exact .ite (fun _ => .next ((holdTaken_only slot s).mono (by decide))) fun _ => .next (doRefresh_only slot v _ s)

theorem execDeferredConfigExecute_within (slot : Nat) (v : ChipView) (s : State) :
    Within [.events, .mbx, .clerk, .tables, .moves, .hbm, .poison, .ports, .ldg, .asy, .lrd, .hbmStacks, .span, .counts] s
      (execDeferredConfigExecute slot v s) := by
  unfold execDeferredConfigExecute
  split
  · exact .ignored
  · exact .next (.ite (fun _ => (doPlan_only slot _ _).step (by decide) ((untake_only slot s).mono (by decide)))
      fun _ => (doRefresh_only slot v _ s).mono (by decide))

/-! ## Queries, power and the operating point -/

theorem execIdentify_within (slot : Nat) (s : State) : Within [.block, .mbx] s (execIdentify slot s) :=
  .cmdStep (by decide) fun m _ => answered_only slot m _ _ (by decide)

theorem execLogRead_within (slot : Nat) (v : ChipView) (s : State) :
    Within [.block, .mbx, .ports, .hbmStacks] s (execLogRead slot v s) := by
  refine .cmdStep (by decide) fun m t => .ite (fun _ => answered_only slot m _ _ (by decide)) fun _ => ?_
  split
  · exact answered_only slot m _ _ (by decide)
  · exact (clerkResult_only t v slot m _ _ _).mono (by decide)

theorem execStepReport_within (slot : Nat) (v : ChipView) (s : State) :
    Within [.block, .mbx, .ports, .hbmStacks] s (execStepReport slot v s) := by
  refine .cmdStep (by decide) fun m t => ?_
  split
  · exact .ite (fun _ => answered_only slot m _ _ (by decide)) fun _ => (clerkResult_only t v slot m _ _ _).mono (by decide)
  · exact answered_only slot m _ _ (by decide)

theorem execMarginReport_within (slot : Nat) (volts : List Nat) (mhz : Nat) (s : State) :
    Within [.block, .mbx] s (execMarginReport slot volts mhz s) :=
  .ite (fun _ => .cmdStep (by decide) fun m _ => answered_only slot m _ _ (by decide)) fun _ => .ignored

theorem execReplan_within (slot : Nat) (s : State) : Within [.block, .mbx, .pwr] s (execReplan slot s) :=
  .cmdStep (by decide) fun m t => .ite (fun _ => .answered ((setPwr_only t _).mono (by decide)) slot m _ _ (by decide))
    fun _ => answered_only slot m _ _ (by decide)

theorem execPowerState_within (slot : Nat) (s : State) : Within [.block, .mbx, .pwr, .ports] s (execPowerState slot s) := by
  unfold execPowerState
  split
  · exact .ignored
  · exact .next (.unless (.ite (fun _ => (answerTaken_only slot _ s).mono (by decide)) fun _ =>
      .ite (fun _ => (answerTaken_only slot _ s).mono (by decide)) fun _ => startTransition_only slot _ s))

/-! ## Self-test, wipe and life cycle -/

theorem execSelftest_within (slot : Nat) (s : State) :
    Within [.events, .block, .mbx, .clerk, .maps, .qh, .ports, .cols, .ldg, .asy, .lrd, .hbmStacks, .span, .counts, .ctr] s
      (execSelftest slot s) :=
  .cmdStep (by decide) fun m t => (trainTested_only _).step (by decide) <| (enterSelftest_only _ _).step (by decide) <|
    (accept_only slot m t).mono (by decide)

theorem execWipe_within (slot : Nat) (s : State) :
    Within [.events, .block, .mbx, .clerk, .maps, .qh, .ports, .cols, .ldg, .asy, .lrd, .span, .counts, .ctr] s (execWipe slot s) :=
  .cmdStep (by decide) fun m t => (enterSelftest_only _ _).step (by decide) ((accept_only slot m t).mono (by decide))

theorem execLifecycle_within (slot : Nat) (v : ChipView) (sigOk : Bool) (s : State) :
    Within [.events, .block, .mbx, .clerk, .maps, .qh, .ports, .cols, .ldg, .asy, .lrd, .hbmStacks, .span, .counts, .ctr] s
      (execLifecycle slot v sigOk s) := by
  refine .cmdStep (by decide) fun m t => ?_
  dsimp only
  split
  · exact answered_only slot m _ _ (by decide)
  · split
    · exact answeredNoted_only slot m _ _ v _ _ _ (by decide)
    · refine .ite (fun _ => answered_only slot m _ _ (by decide)) fun _ =>
        .ite (fun _ => answered_only slot m _ _ (by decide)) fun _ => ?_
      exact (enterSelftest_only _ _).step (by decide) <| (accept_only slot m _).step (by decide) <|
        (setGbl_only t _).mono (by decide)

/-! ## Shutters -/

theorem execShutter_within (slot : Nat) (s : State) :
    Within [.events, .block, .mbx, .clerk, .tables, .maps, .flt, .qh, .ports, .cols, .ldg, .asy, .lrd, .hbmStacks, .span, .counts,
      .ctr, .shutters] s (execShutter slot s) :=
  .cmdStep (by decide) fun m t => .ite
    (fun _ => (startShutter_only _ _ _ _ _ _).step (by decide) ((accept_only slot m t).mono (by decide)))
    fun _ => answered_only slot m _ _ (by decide)

theorem execUnshutter_within (slot : Nat) (s : State) :
    Within [.block, .mbx, .tables, .qh, .cols, .hbmStacks, .span, .shutters] s (execUnshutter slot s) :=
  .cmdStep (by decide) fun m t => .ite (fun _ => answered_only slot m _ _ (by decide)) fun _ =>
    .answered ((openTarget_only _ _ _).step (by decide) ((setShutters_only t _).mono (by decide))) slot m _ _ (by decide)

end Sys2Proof.Machine

/-! SUPPORT. Frames of the columns and their Mills, of the Ledger and of the phases of Commit. -/

namespace Sys2Proof.Machine

open Sys2Proof

/-! ## Bags and rows -/

theorem execSieveWindowClose_within (col : Nat) (s : State) : Within [.cols] s (execSieveWindowClose col s) :=
  .next (.when (colMod_only col _ s))

theorem execBagStart_within (col mill ord : Nat) (b : BagIn) (s : State) :
    Within [.qh, .cols, .hbmStacks, .ctr] s (execBagStart col mill ord b s) := by
  unfold execBagStart
  dsimp only
  split
  · exact .next (.when ((setWork_only col mill _ s).mono (by decide)))
  · split
    · exact .ignored
    · exact .next (.unless (.ite (fun _ => startBag_only col mill _ _ _ _ s) fun _ => .when ((colMod_only col _ s).mono (by decide))))
  · exact .ignored

theorem execRowReadIssue_within (col mill : Nat) (s : State) :
    Within [.events, .clerk, .maps, .ports, .cols, .ldg, .asy, .lrd, .hbmStacks, .span, .counts] s (execRowReadIssue col mill s) := by
  have filled : OnlyIn [.events, .clerk, .maps, .ports, .cols, .ldg, .asy, .lrd, .hbmStacks, .span, .counts] s (fillSieve col s) :=
    (fillSieve_only col s).mono (by decide)
  unfold execRowReadIssue
  split
  · exact .ignored
  · split
    · split
      · exact .ignored
      · refine .ite (fun _ => .ignored) fun _ => ?_
        dsimp only
        split
        · exact .next ((issueRead_only col mill _ _ _ _ _).step (by decide) ((readIndex_only col _ _ _ _ _).step (by decide) filled))
        · exact .next ((setWork_only col mill _ _).step (by decide) ((countLookup_only col _ _ _ _ _).step (by decide) filled))
    · exact .ignored

theorem execHomeRowRead_within (r : HomeReadIn) (s : State) :
    Within [.events, .clerk, .tables, .maps, .moves, .hbm, .poison, .ports, .cols, .ldg, .asy, .lrd, .hbmStacks, .span, .counts] s
      (execHomeRowRead r s) := by
  unfold execHomeRowRead
  split
  · exact .ignored
  next h _ =>
    split
    · exact .ignored
    next t _ =>
      have met : OnlyIn [.events, .clerk, .tables, .maps, .moves, .hbm, .poison, .ports, .cols, .ldg, .asy, .lrd, .hbmStacks,
          .span, .counts] s (meetFilters h.key (if h.spec then some (stepBefore h.step) else none) s) :=
        (meetFilters_only _ _ s).mono (by decide)
      exact .next (.ite (fun _ => (askEntry_only _ h _).step (by decide) met) fun _ => met.trans (serveRead_only _ h t _ _ _))

theorem execRowArrive_within (col mill : Nat) (a : ArriveIn) (s : State) :
    Within [.events, .mbx, .maps, .qh, .ports, .cols, .ldg, .asy, .lrd, .hbmStacks, .span, .counts, .ctr] s
      (execRowArrive col mill a s) := by
  unfold execRowArrive
  split
  · exact .ignored
  next w _ =>
    split
    next r l x _ _ _ =>
      split
      · exact .ignored
      · have arrived : OnlyIn [.events, .mbx, .maps, .qh, .ports, .cols, .ldg, .asy, .lrd, .hbmStacks, .span, .counts, .ctr] s
            (arriveWords col r w x a.sram a.words s).2 := (arriveWords_only col r w x _ _ s).mono (by decide)
        refine .next (.unless (.ite (fun _ => ?_) fun _ => .ite (fun _ => ?_) fun _ => ?_))
        · exact (noteStatus_only _ _).step (by decide) ((failOn_only col mill _ _ _).step (by decide) arrived)
        · exact (failOn_only col mill _ _ _).step (by decide) arrived
        · exact (poolRow_only col mill _ _ _ _ _ _ _).step (by decide) arrived
    · exact .ignored

theorem execCommitNoticeReceive_within (col : Nat) (s : State) : Within [.cols] s (execCommitNoticeReceive col s) := by
  unfold execCommitNoticeReceive
  split
  · exact .ignored
  · exact .next (colMod_only col _ s)

theorem execPromoteResend_within (col idx : Nat) (s : State) :
    Within [.events, .qh, .ports, .cols, .ldg, .asy, .span, .counts, .ctr] s (execPromoteResend col idx s) := by
  unfold execPromoteResend
  dsimp only
  split
  · exact .ignored
  · split
    · exact .ignored
    next w x _ _ r _ =>
      have asked : OnlyIn [.events, .qh, .ports, .cols, .ldg, .asy, .span, .counts, .ctr] s (askPromotion col r.desc.step x s).1 :=
        (askPromotion_only col _ x s).mono (by decide)
      exact .next (.ite (fun _ => asked) fun _ => (absentWait_only col _ _).step (by decide) asked)

/-! ## Pooling, tiles and the backward pass -/

theorem execBagPoolEnd_within (col mill : Nat) (tile : TileIn) (s : State) :
    Within [.events, .qh, .ports, .cols, .ldg, .asy, .lrd, .span, .counts, .ctr] s (execBagPoolEnd col mill tile s) := by
  unfold execBagPoolEnd
  dsimp only
  split
  · exact .ignored
  next w _ =>
    split
    · exact .ignored
    next r _ =>
      split
      · exact .ignored
      · have counted : OnlyIn [.events, .qh, .ports, .cols, .ldg, .asy, .lrd, .span, .counts, .ctr] s
            (colEvent col 0x104 tile.sram r.desc.spec w s).2 := (colEvent_only col _ _ _ w s).mono (by decide)
        refine .next (.unless (.ite (fun _ => ?_) fun _ => ?_))
        · exact (afterBag_only _ _).step (by decide) <| (noteStatus_only _ _).step (by decide) <|
            (failOn_only col mill _ _ _).step (by decide) counted
        · exact counted.trans (endSlice_only col mill _ _ _ _)

theorem execTileDrain_within (col mill : Nat) (s : State) : Within [.qh, .cols] s (execTileDrain col mill s) := by
  unfold execTileDrain
  split
  · exact .next (.when ((millMod_only col mill _ s).mono (by decide)))
  · split
    · exact .ignored
    · exact .next (.unless ((millMod_only col mill _ _).step (by decide) <| (bagMod_only _ _ _ _).step (by decide) <|
        (streamMod_only _ _ _ s).mono (by decide)))

theorem execTileSave_within (col mill : Nat) (s : State) :
    Within [.events, .hbm, .poison, .qh, .ports, .cols, .ldg, .asy, .span, .counts, .ctr] s (execTileSave col mill s) := by
  unfold execTileSave
  split
  · exact .ignored
  · split
    · exact .ignored
    · exact .next (.unless (.ite (fun _ => (waitBag_only col mill _ _ s).mono (by decide)) fun _ =>
        (millMod_only col mill _ _).step (by decide) <| (hbmWrite_only _ _ _).step (by decide) <|
          (dropReads_only _ s).mono (by decide)))

theorem execTileRestore_within (col mill : Nat) (s : State) : Within [.cols] s (execTileRestore col mill s) := by
  unfold execTileRestore
  dsimp only
  split
  · exact .ignored
  · exact .next (.when (millMod_only col mill _ s))

theorem execBackwardContribution_within (col mill : Nat) (ue : Bool) (s : State) :
    Within [.cols, .counts, .ctr] s (execBackwardContribution col mill ue s) := by
  unfold execBackwardContribution
  split
  · exact .ignored
  · split
    · split
      · exact .next (.unless (contribute_only col mill _ _ _ _ _ ue s))
      · exact .ignored
    · exact .ignored

theorem execMergeFlush_within (col : Nat) (s : State) :
    Within [.events, .qh, .ports, .cols, .ldg, .asy, .span, .counts] s (execMergeFlush col s) := .next (.when (flushColumn_only col s))

theorem execBackwardStreamIdle_within (col : Nat) (s : State) : Within [.cols] s (execBackwardStreamIdle col s) :=
  .next (.when (colMod_only col _ s))

/-! ## Partials and the Ledger -/

theorem execPartialEnqueue_within (s : State) :
    Within [.events, .qh, .ports, .ldg, .asy, .span, .counts] s (execPartialEnqueue s) := by
  unfold execPartialEnqueue
  split
  · exact .ignored
  · exact .next ((partialTaken_only _ _).step (by decide) ((relay_only _ _).step (by decide) ((setSpan_only s _).mono (by decide))))

theorem execFoldHoldExpire_within (port idx : Nat) (s : State) : Within [.span] s (execFoldHoldExpire port idx s) :=
  .ite (fun _ => .ignored) fun _ => .next (.when (portMod_only port _ s))

theorem execLedgerFold_within (pos : Nat) (ue : Bool) (s : State) :
    Within [.events, .maps, .hbm, .poison, .qh, .ports, .ldg, .asy, .lrd, .span, .counts] s (execLedgerFold pos ue s) :=
  .next (.ite (fun _ => (loseEntry_only pos s).mono (by decide)) fun _ => foldNext_only pos s)

/-! ## Step, seal and Commit -/

theorem execStepOpen_within (slot : Nat) (v : ChipView) (s : State) :
    Within [.events, .block, .mbx, .tables, .maps, .qh, .ports, .ldg, .asy, .lrd, .hbmStacks, .span, .counts] s
      (execStepOpen slot v s) := by
  refine .cmdStep (by decide) fun m t => .ite (fun _ => answered_only slot m _ _ (by decide)) fun _ => ?_
  split
  · exact answeredNoted_only slot m _ _ v _ _ _ (by decide)
  · exact .answered ((openStepAt_only _ _ t).mono (by decide)) slot m _ _ (by decide)

theorem execSeal_within (slot : Nat) (s : State) : Within [.block, .mbx, .clerk, .cols, .ldg] s (execSeal slot s) :=
  .cmdStep (by decide) fun m t => .ite
    (fun _ => (accept_only slot m _).step (by decide) ((sealStep_only _ t).mono (by decide)))
    fun _ => answered_only slot m _ _ (by decide)

theorem execSealDone_within (s : State) : Within [.events, .mbx, .clerk, .ports, .ldg] s (execSealDone s) := by
  have raised : OnlyIn [.events, .mbx, .clerk, .ports, .ldg] s
      (raise evSealDone { s with ldg := { s.ldg with sealing := false, sealDone := true } }) :=
    (raise_only _ _).step (by decide) ((setLdg_only s _).mono (by decide))
  exact .next (.when (raised.thenWhen ((reportAll_only _ _ _ _).mono (by decide))))

theorem execCommit_within (slot : Nat) (s : State) :
    Within [.events, .block, .mbx, .clerk, .tables, .ports, .cols, .ldg, .asy, .hbmStacks, .span, .counts] s (execCommit slot s) := by
  refine .cmdStep (by decide) fun m t => .ite (fun _ => answered_only slot m _ _ (by decide)) fun _ => ?_
  have begun : ∀ (f : Commit → Commit) (x : Ledger) (ts : AMap Table),
      OnlyIn [.events, .block, .mbx, .clerk, .tables, .ports, .cols, .ldg, .asy, .hbmStacks, .span, .counts] t
        (ts.foldl (fun u p => asySpanStart p.1 spanCommit u) (commitMod f { accept slot m t with ldg := x })) := fun f x ts => by
    refine .thenFold (.step (commitMod_only f _) (by decide) (.step (setLdg_only _ x) (by decide) ?_))
      fun u p => (asySpanStart_only p.1 _ u).mono (by decide)
    exact (accept_only slot m t).mono (by decide)
  dsimp only
  split
  · exact (advance_only _).step (by decide) ((resendRecoded_only _ _).step (by decide) ((startRedo_only _ _).step (by decide)
      (begun _ _ _)))
  · exact (startJournal_only _ _ _).step (by decide) (begun _ _ _)

theorem execJournalFlushDone_within (s : State) :
    Within [.events, .hbm, .poison, .ports, .cols, .ldg, .asy, .lrd, .hbmStacks, .span, .counts] s (execJournalFlushDone s) := by
  unfold execJournalFlushDone
  split
  · exact .ignored
  · exact .next (.when ((advance_only _).step (by decide) ((flushJournal_only _ s).mono (by decide))))

theorem execApplyUnit_within (u : UnitIn) (s : State) :
    Within [.events, .tables, .hbm, .poison, .ports, .cols, .ldg, .asy, .lrd, .hbmStacks, .span, .counts] s (execApplyUnit u s) := by
  unfold execApplyUnit
  split
  · exact .ignored
  · exact .next (.when ((advance_only _).step (by decide) (applyEntry_only _ _ _ s)))

theorem execPromotionReceive_within (s : State) :
    Within [.events, .ports, .cols, .ldg, .asy, .lrd, .span, .counts] s (execPromotionReceive s) := by
  unfold execPromotionReceive
  split
  · exact .ignored
  · split
    · exact .ignored
    · exact .next ((takePromotion_only _ _).step (by decide) ((commitMod_only _ s).mono (by decide)))

theorem execSpillScan_within (s : State) :
    Within [.events, .ports, .cols, .ldg, .asy, .lrd, .hbmStacks, .span, .counts] s (execSpillScan s) :=
  .next (.when ((advance_only _).step (by decide) ((scanSpills_only s).mono (by decide))))

theorem execRowMoveComplete_within (idx : Nat) (s : State) :
    Within [.events, .tables, .moves, .hbm, .poison, .ports, .cols, .ldg, .asy, .lrd, .hbmStacks, .span, .counts] s
      (execRowMoveComplete idx s) := by
  refine .next ?_
  split
  · exact .refl _ s
  · exact (advance_only _).step (by decide) ((finishMove_only _ _).step (by decide) ((setMoves_only s _).mono (by decide)))

theorem execShelfEvaluate_within (tid shelf : Nat) (s : State) :
    Within [.events, .tables, .ports, .cols, .ldg, .asy, .hbmStacks, .span, .counts] s (execShelfEvaluate tid shelf s) := by
  unfold execShelfEvaluate
  split
  · exact .ignored
  · split
    · exact .ignored
    · split
      · exact .ignored
      · exact .next (.when ((advance_only _).step (by decide) ((shelfMod_only tid _ shelf _ s).mono (by decide))))

theorem execShelfRebuild_within (tid slot shelf newShelf : Nat) (s : State) :
    Within [.events, .tables, .moves, .hbm, .poison, .ports, .cols, .ldg, .asy, .hbmStacks, .span, .counts] s
      (execShelfRebuild tid slot shelf newShelf s) := by
  unfold execShelfRebuild
  dsimp only
  split
  · exact .ignored
  · split
    · exact .ignored
    · exact .next (.when ((advance_only _).step (by decide) ((rebuildShelf_only _ _ _ newShelf _).step (by decide)
        ((reclaim_only tid slot s).mono (by decide)))))

theorem execCommitDone_within (duration : Nat) (s : State) :
    Within [.events, .block, .mbx, .clerk, .ports, .cols, .ldg, .asy, .lrd, .hbmStacks, .span, .counts] s
      (execCommitDone duration s) :=
  .next (.when ((finishCommit_only duration _).step (by decide) ((advance_only s).mono (by decide))))

end Sys2Proof.Machine

/-! SUPPORT. Frames of the packets, the links and the requests between nodes. -/

namespace Sys2Proof.Machine

open Sys2Proof

/-! ## Packets -/

theorem execRead_within (port : Nat) (h : PktHdr) (p : ReadPkt) (s : State) :
    Within [.events, .mbx, .tables, .maps, .qh, .ports, .cols, .ldg, .asy, .lrd, .hbmStacks, .span, .counts, .ctr] s
      (execRead port h p s) := .arrive (by decide) fun t => takeRead_only h p t

theorem execRow_within (port : Nat) (h : PktHdr) (p : RowPkt) (s : State) :
    Within [.events, .mbx, .tables, .maps, .hbm, .poison, .qh, .ports, .cols, .ldg, .asy, .lrd, .span, .counts, .ctr] s
      (execRow port h p s) := by
  refine .arrive (by decide) fun t => ?_
  split
  · exact (takeRow_only _ p t).mono (by decide)
  · exact (lateAnswer_only t).mono (by decide)

theorem execPromote_within (port : Nat) (h : PktHdr) (p : KeyPkt) (s : State) :
    Within [.events, .mbx, .maps, .qh, .ports, .cols, .ldg, .asy, .lrd, .span, .counts, .ctr] s (execPromote port h p s) :=
  .arrive (by decide) fun t => .ite (fun _ => (commitMod_only _ t).mono (by decide)) fun _ => (sendNotice_only _ t).mono (by decide)

theorem execNotice_within (port : Nat) (h : PktHdr) (p : KeyPkt) (s : State) :
    Within [.events, .mbx, .maps, .qh, .ports, .cols, .ldg, .asy, .lrd, .span, .counts, .ctr] s (execNotice port h p s) :=
  .arrive (by decide) fun t => (setCols_only t _).mono (by decide)

theorem execAbsent_within (port : Nat) (h : PktHdr) (p : AbsentPkt) (s : State) :
    Within [.events, .mbx, .maps, .qh, .ports, .cols, .ldg, .asy, .lrd, .span, .counts, .ctr] s (execAbsent port h p s) :=
  .arrive (by decide) fun t => takeAbsent_only p t

theorem execPart_within (port : Nat) (h : PktHdr) (p : PartialPkt) (s : State) :
    Within [.events, .mbx, .maps, .qh, .ports, .cols, .ldg, .asy, .lrd, .span, .counts, .ctr] s (execPart port h p s) :=
  .ite (fun _ => .next ((corruptPacket_only _ _ _ _).step (by decide) ((takeRx_only port _ s).mono (by decide)))) fun _ =>
    .ite (fun _ => .next ((stay_only port _ s).mono (by decide))) fun _ =>
    .arrive (by decide) fun t => (setLdg_only t _).mono (by decide)

/-- What a Crier packet that is taken may change: its place in the sequence, and what its taking changes. -/
theorem crierTaken_only {l : List Part} {t : State} (src cseq : Nat) (f : State → State)
    (q : ∀ p ∈ [Part.hbmStacks, .span], p ∈ l) (h : ∀ u, OnlyIn l u (f u)) :
    OnlyIn l t (if (crierTake src cseq t).1 then f (crierTake src cseq t).2 else (crierTake src cseq t).2) :=
  ((crierTake_only src cseq t).mono q).thenWhen (h _)

theorem execUpdate_within (port : Nat) (h : PktHdr) (p : UpdatePkt) (s : State) :
    Within [.events, .mbx, .maps, .qh, .ports, .cols, .ldg, .asy, .lrd, .hbmStacks, .span, .counts, .ctr] s
      (execUpdate port h p s) :=
  .arrive (by decide) fun t => crierTaken_only h.src p.cseq (takeUpdate h.src p) (by decide) fun u =>
    (takeUpdate_only h.src p u).mono (by decide)

theorem execMark_within (port : Nat) (h : PktHdr) (p : MarkPkt) (s : State) :
    Within [.events, .mbx, .maps, .qh, .ports, .cols, .ldg, .asy, .lrd, .hbmStacks, .span, .counts, .ctr] s
      (execMark port h p s) :=
  .arrive (by decide) fun _ => crierTaken_only h.src p.cseq
    (fun u => { u with span := { u.span with marks := mset u.span.marks (h.src * 4096 + p.tid) p.step } }) (by decide)
    fun u => (setSpan_only u _).mono (by decide)

theorem execLquery_within (port : Nat) (h : PktHdr) (p : LinkPkt) (s : State) :
    Within [.events, .mbx, .maps, .qh, .ports, .cols, .ldg, .asy, .lrd, .span, .counts, .ctr] s (execLquery port h p s) :=
  .arrive (by decide) fun t => (sendOwn_only _ _ _).step (by decide) (.when ((portMod_only _ _ t).mono (by decide)))

theorem execLstate_within (port : Nat) (h : PktHdr) (p : LinkPkt) (s : State) :
    Within [.events, .mbx, .maps, .qh, .ports, .cols, .ldg, .asy, .lrd, .span, .counts, .ctr, .shutters] s (execLstate port h p s) :=
  .arrive (by decide) fun t => .when (.ite (fun _ => settleLink_only _ _ t) fun _ => unresolved_only _ t)

/-! ## Requests -/

theorem execRemoteReadTimeout_within (tagSlot : Nat) (s : State) :
    Within [.events, .mbx, .maps, .ports, .cols, .ldg, .asy, .lrd, .span, .counts] s (execRemoteReadTimeout tagSlot s) := by
  unfold execRemoteReadTimeout
  split
  · exact .ignored
  · exact .next (failReq_only _ _ s)

theorem execMigrationReadIssue_within (map : Nat) (s : State) :
    Within [.events, .maps, .ports, .ldg, .asy, .span, .counts] s (execMigrationReadIssue map s) := by
  unfold execMigrationReadIssue
  split
  · exact .ignored
  · split
    · exact .ignored
    · split
      · exact .ignored
      · dsimp only
        split
        · exact .next ((settleInbound_only map _).step (by decide) ((mapMod_only map _ s).mono (by decide)))
        · refine .ite (fun _ => .next ?_) fun _ => .ite (fun _ => .ignored) fun _ => ?_
          · exact (settleInbound_only map _).step (by decide) ((mapMod_only map _ s).mono (by decide))
          · split
            next u sent =>
              have slices := ((sendSlices_only _ _ _ _ _ _ _ _ _ s).only u sent).mono
                (m := [.events, .maps, .ports, .ldg, .asy, .span, .counts]) (by decide)
              exact .next ((mapMod_only map _ u).step (by decide) slices)
            · refine .ite (fun _ => .next ?_) fun _ => .ignored
              exact (failMigration_only map _ _ _).step (by decide) <| (mapMod_only map _ _).step (by decide) <|
                (noteAbsent_only _ s).mono (by decide)

theorem execMigrationReadRetry_within (idx : Nat) (s : State) :
    Within [.events, .mbx, .maps, .ports, .cols, .ldg, .asy, .lrd, .span, .counts] s (execMigrationReadRetry idx s) := by
  unfold execMigrationReadRetry
  split
  · have taken : OnlyIn [.events, .mbx, .maps, .ports, .cols, .ldg, .asy, .lrd, .span, .counts] s
        { s with span := { s.span with retry := s.span.retry.eraseIdx idx } } := (setSpan_only s _).mono (by decide)
    refine .ite (fun _ => .ignored) fun _ => ?_
    split
    next u sent => exact .next (((sendRead_only _ _ _ _).only u sent).step (by decide) taken)
    · exact .next ((failReq_only _ _ _).step (by decide) ((noteAbsent_only _ _).step (by decide) taken))
  · exact .ignored

/-! ## Links -/

theorem execLinkTraining_within (port txFail rxFail lane : Nat) (s : State) :
    Within [.events, .ports, .span] s (execLinkTraining port txFail rxFail lane s) :=
  .next (.unless (.ite (fun _ => (raise_only _ _).step (by decide) ((portMod_only port _ s).mono (by decide)))
    fun _ => (portMod_only port _ s).mono (by decide)))

theorem execLinkBringupExchange_within (port : Nat) (x : Option LinkExchange) (s : State) :
    Within [.events, .ports, .span, .counts] s (execLinkBringupExchange port x s) := by
  refine .next (.unless ?_)
  cases x with
  | none => exact (raise_only _ _).step (by decide) ((portMod_only port _ s).mono (by decide))
  | some x =>
    have met : ∀ f, OnlyIn [.events, .ports, .span, .counts] s (portMod port f s) := fun f =>
      (portMod_only port f s).mono (by decide)
    exact .ite (fun _ => (raise_only _ _).step (by decide) (met _)) fun _ =>
      (grantNow_only port _).step (by decide) ((linkChanged_only port _).step (by decide) (met _))

theorem execNakReceive_within (port ack : Nat) (s : State) :
    Within [.events, .mbx, .maps, .qh, .ports, .cols, .ldg, .asy, .lrd, .span, .counts, .ctr, .shutters] s
      (execNakReceive port ack s) := .next (.when (takeNak_only port ack s))

theorem execFlitReceive_within (port : Nat) (f : Flit) (s : State) :
    Within [.events, .mbx, .maps, .qh, .ports, .cols, .ldg, .asy, .lrd, .span, .counts, .ctr, .shutters] s
      (execFlitReceive port f s) := by
  have counted : ∀ g, OnlyIn [.events, .mbx, .maps, .qh, .ports, .cols, .ldg, .asy, .lrd, .span, .counts, .ctr, .shutters] s
      (portMod port g s) := fun g => (portMod_only port g s).mono (by decide)
  exact .next (.unless (.ite (fun _ => (takeFlit_only port f _).step (by decide) (counted _))
    fun _ => (transmit_only port _ _).step (by decide) (counted _)))

theorem execPacketSend_within (port chan idx : Nat) (s : State) :
    Within [.span, .spanWire, .counts] s (execPacketSend port chan idx s) := by
  unfold execPacketSend
  dsimp only
  split
  · exact .ignored
  next e _ =>
    exact .next (.unless ((returnCells_only _ _).step (by decide) ((setSpanWire_only (transmit port _ s) _).step (by decide)
      ((transmit_only port _ s).mono (by decide)))))

theorem execLinkRetrainDone_within (port : Nat) (r : RetrainIn) (s : State) :
    Within [.events, .mbx, .maps, .qh, .ports, .cols, .ldg, .asy, .lrd, .span, .counts, .ctr, .shutters] s
      (execLinkRetrainDone port r s) := by
  have resumed : ∀ f, OnlyIn [.events, .mbx, .maps, .qh, .ports, .cols, .ldg, .asy, .lrd, .span, .counts, .ctr, .shutters] s
      (transmit port f s) := fun f => (transmit_only port f s).mono (by decide)
  exact .next (.unless (.ite (fun _ => failLink_only port s) fun _ => .ite (fun _ => resumed _) fun _ =>
    (linkChanged_only port _).step (by decide) ((portMod_only port _ _).step (by decide) (resumed _))))

theorem execRecoverRetrainTimeout_within (port : Nat) (s : State) :
    Within [.events, .ports, .ldg, .asy, .span, .counts] s (execRecoverRetrainTimeout port s) := .next (.when (askPeer_only port s))

theorem execLqueryTimeout_within (port : Nat) (s : State) :
    Within [.events, .mbx, .maps, .qh, .ports, .cols, .ldg, .asy, .lrd, .span, .counts, .ctr, .shutters] s
      (execLqueryTimeout port s) := .next (.when (unresolved_only port s))

theorem execSpanRxElectricalIdle_within (port : Nat) (s : State) :
    Within [.events, .mbx, .maps, .qh, .ports, .cols, .ldg, .asy, .lrd, .span, .counts, .ctr, .shutters] s
      (execSpanRxElectricalIdle port s) := by
  have quiet : ∀ f, OnlyIn [.events, .mbx, .maps, .qh, .ports, .cols, .ldg, .asy, .lrd, .span, .counts, .ctr, .shutters] s
      (portMod port f s) := fun f => (portMod_only port f s).mono (by decide)
  refine .next (.unless (.ite (fun _ => quiet _) fun _ => .when (.thenFold ?_ (refuseFrom_only port))))
  exact (rerouteQueue_only port _).step (by decide) ((quiet _).thenWhen ((linkChanged_only port _).mono (by decide)))

theorem execLastRxExpire_within (port : Nat) (s : State) : Within [.span] s (execLastRxExpire port s) :=
  .next (.when (portMod_only port _ s))

theorem execQhCellUncorrectable_within (spot : CellSpot) (s : State) :
    Within [.events, .mbx, .maps, .qh, .ports, .cols, .ldg, .asy, .lrd, .span, .counts, .ctr, .shutters] s
      (execQhCellUncorrectable spot s) := by
  unfold execQhCellUncorrectable
  split
  next t lost => exact .next ((countCell_only t).step (by decide) ((cellLost_only spot s).only t lost))
  · exact .ignored

end Sys2Proof.Machine

/-! SUPPORT. Frames of the memory events, the Shutters that finish, the sequences of reset and the Clerk's heartbeat. -/

namespace Sys2Proof.Machine

open Sys2Proof

/-! ## Stacks and the Larder -/

theorem execHbmThermalSample_within (stack temp : Nat) (s : State) :
    Within [.events, .qh, .ports, .lrd, .hbmStacks] s (execHbmThermalSample stack temp s) := .next (.when (takeSample_only stack temp s))

theorem execHbmRefresh_within (stack chan bank : Nat) (s : State) : Within [.hbmStacks] s (execHbmRefresh stack chan bank s) :=
  .next (.when (stackMod_only stack _ s))

theorem execHbmPatrol_within (cw : Nat) (syms : List SymErr) (written : Bool) (s : State) :
    Within [.events, .hbm, .poison, .ports, .hbmStacks] s (execHbmPatrol cw syms written s) := by
  refine .next (.unless ?_)
  split
  · exact hbmUe_only _ written s
  next c wrong _ =>
    have counted : ∀ n, OnlyIn [.events, .hbm, .poison, .ports, .hbmStacks] s (if c then correctedHbm n s else s) := fun n =>
      .when ((correctedHbm_only n s).mono (by decide))
    exact .ite (fun _ => counted _) fun _ => (flipCw_only cw wrong _).step (by decide) (counted _)

theorem execHbmReadUncorrectable_within (e : CwErr) (who : HbmReader) (s : State) :
    Within [.events, .clerk, .tables, .maps, .moves, .hbm, .poison, .qh, .ports, .cols, .ldg, .asy, .lrd, .hbmStacks, .span,
      .counts] s (execHbmReadUncorrectable e who s) := by
  refine .next ?_
  cases who with
  | homeRead idx => exact (homeReadUe_only e idx s).mono (by decide)
  | stream carter ord stream => exact .unless ((streamUe_only e carter ord stream s).mono (by decide))
  | homeMap slot => exact (mapUe_only e slot s).mono (by decide)
  | spillRecord idx => exact (spillUe_only e idx s).mono (by decide)
  | none => exact .when ((hbmUe_only e false s).mono (by decide))

theorem execLarderPatrol_within (block wrong : Nat) (s : State) :
    Within [.events, .ports, .lrd] s (execLarderPatrol block wrong s) := by
  refine .next (.unless ?_)
  split
  · exact .refl _ s
  · exact correctedLarder_only 1 s
  · exact (setLrd_only s _).mono (by decide)

theorem execLarderReadUncorrectable_within (block : Nat) (spot : LarderSpot) (s : State) :
    Within [.events, .moves, .hbm, .poison, .ports, .ldg, .lrd] s (execLarderReadUncorrectable block spot s) := by
  have lost : OnlyIn [.events, .moves, .hbm, .poison, .ports, .ldg, .lrd] s (larderUe block s) :=
    (larderUe_only block s).mono (by decide)
  exact .next (.unless (.getD (.step (larderAct_only block spot _) (by decide) lost) (.refl _ s)))

theorem execMarginSample_within (ins : List MarginIn) (s : State) : Within [.events, .pwr, .ports] s (execMarginSample ins s) :=
  .next (.when (sampleMargins_only ins s))

theorem execShutterDone_within (idx us : Nat) (s : State) :
    Within [.events, .mbx, .clerk, .maps, .moves, .hbm, .poison, .qh, .ports, .cols, .ldg, .asy, .lrd, .hbmStacks, .span, .counts,
      .shutters] s (execShutterDone idx us s) := by
  unfold execShutterDone
  split
  · exact .ignored
  · exact .next (.when (finishShutter_only _ us s))

/-! ## The sequences of reset -/

theorem execRecoveryComplete_within (s : State) :
    Within [.events, .block, .mbx, .clerk, .qh, .ports, .lrd] s (execRecoveryComplete s) := by
  have ended : OnlyIn [.events, .block, .mbx, .clerk, .qh, .ports, .lrd] s
      (endSequence (if clerkRuns s then defaults (if s.clerk.cfgPlan = 0 then defaultPlan else s.clerk.cfgPlan) s else s)) :=
    (endSequence_only _).step (by decide) (.when ((defaults_only _ s).mono (by decide)))
  exact .next (.when ((settle_only _).step (by decide) (ended.thenWhen ((answerLost_only _).mono (by decide)))))

theorem execClerkSecureBoot_within (ok : Bool) (img : ImageHdr) (s : State) :
    Within [.block, .mbx, .clerk, .tables, .templates, .maps, .moves, .hbm, .poison, .xlt, .flt, .qh, .ports, .cols, .ldg, .asy,
      .lrd, .hbmStacks, .span, .ctr, .shutters] s (execClerkSecureBoot ok img s) := by
  refine .next (.unless ?_)
  have booted : OnlyIn [.block, .mbx, .clerk, .tables, .templates, .maps, .moves, .hbm, .poison, .xlt, .flt, .qh, .ports, .cols,
      .ldg, .asy, .lrd, .hbmStacks, .span, .ctr, .shutters] s { bootWipe s with gbl := { (bootWipe s).gbl with
        bootCount := min ((bootWipe s).gbl.bootCount + 1) (pow32 - 1) } } :=
    (setGbl_only _ _).step (by decide) ((bootWipe_only s).mono (by decide))
  refine .ite (fun _ => (afterBoot_only _).step (by decide) ((bootGood_only img _).step (by decide) booted)) fun _ => ?_
  refine (afterBoot_only _).step (by decide) ((refreshReady_only _).step (by decide) ?_)
  exact .step (setGblClerk_only _ _ _) (by decide) booted

theorem execSelftestSequenceDone_within (res : BistResult) (s : State) :
    Within [.events, .block, .mbx, .clerk, .pwr, .tables, .templates, .maps, .moves, .hbm, .poison, .xlt, .flt, .qh, .ports, .cols,
      .ldg, .asy, .lrd, .hbmStacks, .span, .ctr, .shutters] s (execSelftestSequenceDone res s) := by
  refine .next (.unless ?_)
  refine .thenWhen ?_ (.thenFold (.refl _ _) fun t op => (reportAll_only op _ _ t).mono (by decide))
  refine .step (endSequence_only _) (by decide) (.step (setPwrClerk_only _ _ _) (by decide) (.thenWhen ?_ ?_))
  · exact .step (setGbl_only _ _) (by decide) (.step (applyTest_only _ _ _) (by decide) ((stepFive_only s).mono (by decide)))
  · exact (defaults_only _ _).mono (by decide)

/-! ## The Clerk's heartbeat -/

theorem execClerkBeat_within (s : State) : Within [.block, .mbx, .wch] s (execClerkBeat s) :=
  .next (.when (setMbxWchGbl_only s _ _ _))

theorem execHeartbeatIntervalEnd_within (s : State) :
    Within [.events, .block, .mbx, .clerk, .wch, .ports, .lrd] s (execHeartbeatIntervalEnd s) := by
  have missed : ∀ b, OnlyIn [.events, .block, .mbx, .clerk, .wch, .ports, .lrd] s { s with mbx := b } := fun b =>
    (setMbx_only s b).mono (by decide)
  exact .next (.unless (.ite (fun _ => (setWch_only s _).mono (by decide)) fun _ =>
    (missed _).thenWhen ((clerkLost_only _).mono (by decide))))

theorem execClerkSramUncorrectable_within (s : State) : Within [.clerk, .lrd] s (execClerkSramUncorrectable s) :=
  .next (.when (setClerkLrd_only s _ _))

end Sys2Proof.Machine

/-! SUPPORT. Every command goes on, and leaves the queue of the commands that wait as it was; so does every step. -/

namespace Sys2Proof.Machine

open Sys2Proof

/-- Every command answers a next state with the same queue: each command's frame leaves `pending` out. -/
theorem exec_keepsQueue (c : Instr) (s : State) : Leads (exec c s) (fun t => t.pending = s.pending) := by
  cases c with
  | identify slot => exact (execIdentify_within slot s).keepsQueue (by decide)
  | logRead slot v => exact (execLogRead_within slot v s).keepsQueue (by decide)
  | selftest slot => exact (execSelftest_within slot s).keepsQueue (by decide)
  | powerState slot => exact (execPowerState_within slot s).keepsQueue (by decide)
  | wipe slot => exact (execWipe_within slot s).keepsQueue (by decide)
  | lifecycle slot v sigOk => exact (execLifecycle_within slot v sigOk s).keepsQueue (by decide)
  | tableCreate slot v place => exact (execTableCreate_within slot v place s).keepsQueue (by decide)
  | tableDescribe slot v => exact (execTableDescribe_within slot v s).keepsQueue (by decide)
  | tableDestroy slot => exact (execTableDestroy_within slot s).keepsQueue (by decide)
  | loadStart slot place => exact (execLoadStart_within slot place s).keepsQueue (by decide)
  | loadRows slot v => exact (execLoadRows_within slot v s).keepsQueue (by decide)
  | loadEnd slot => exact (execLoadEnd_within slot s).keepsQueue (by decide)
  | switch slot => exact (execSwitch_within slot s).keepsQueue (by decide)
  | rowRestore slot v => exact (execRowRestore_within slot v s).keepsQueue (by decide)
  | templateInstall slot v => exact (execTemplateInstall_within slot v s).keepsQueue (by decide)
  | templateInstallComplete tslot => exact (execTemplateInstallComplete_within tslot s).keepsQueue (by decide)
  | ctxSet slot => exact (execCtxSet_within slot s).keepsQueue (by decide)
  | segSet slot => exact (execSegSet_within slot s).keepsQueue (by decide)
  | flowConfig slot => exact (execFlowConfig_within slot s).keepsQueue (by decide)
  | nodeSet slot => exact (execNodeSet_within slot s).keepsQueue (by decide)
  | homemapInstall slot v room => exact (execHomemapInstall_within slot v room s).keepsQueue (by decide)
  | routeSet slot v => exact (execRouteSet_within slot v s).keepsQueue (by decide)
  | larderPlan slot => exact (execLarderPlan_within slot s).keepsQueue (by decide)
  | hotsetRefresh slot v => exact (execHotsetRefresh_within slot v s).keepsQueue (by decide)
  | deferredConfigExecute slot v => exact (execDeferredConfigExecute_within slot v s).keepsQueue (by decide)
  | stepOpen slot v => exact (execStepOpen_within slot v s).keepsQueue (by decide)
  | sealStep slot => exact (execSeal_within slot s).keepsQueue (by decide)
  | sealDone => exact (execSealDone_within s).keepsQueue (by decide)
  | commit slot => exact (execCommit_within slot s).keepsQueue (by decide)
  | stepReport slot v => exact (execStepReport_within slot v s).keepsQueue (by decide)
  | ctrConfig slot => exact (execCtrConfig_within slot s).keepsQueue (by decide)
  | shutter slot => exact (execShutter_within slot s).keepsQueue (by decide)
  | shutterDone idx us => exact (execShutterDone_within idx us s).keepsQueue (by decide)
  | unshutter slot => exact (execUnshutter_within slot s).keepsQueue (by decide)
  | marginReport slot volts mhz => exact (execMarginReport_within slot volts mhz s).keepsQueue (by decide)
  | replan slot => exact (execReplan_within slot s).keepsQueue (by decide)
  | mbxDoorbell val => exact (execMbxDoorbell_within val s).keepsQueue (by decide)
  | mbxSlotWrite slot word val => exact (execMbxSlotWrite_within slot word val s).keepsQueue (by decide)
  | mbxRespHeadWrite val => exact (execMbxRespHeadWrite_within val s).keepsQueue (by decide)
  | mbxRingConfigWrite size val => exact (execMbxRingConfigWrite_within size val s).keepsQueue (by decide)
  | commandTake => exact (execCommandTake_within s).keepsQueue (by decide)
  | responseWrite => exact (execResponseWrite_within s).keepsQueue (by decide)
  | clerkBeat => exact (execClerkBeat_within s).keepsQueue (by decide)
  | heartbeatIntervalEnd => exact (execHeartbeatIntervalEnd_within s).keepsQueue (by decide)
  | clerkSramUncorrectable => exact (execClerkSramUncorrectable_within s).keepsQueue (by decide)
  | wchNop val => exact (execWchNop_within val s).keepsQueue (by decide)
  | dumpLog val => exact (execDumpLog_within val s).keepsQueue (by decide)
  | haltClerk val => exact (execHaltClerk_within val s).keepsQueue (by decide)
  | writeCo val => exact (execWriteCo_within val s).keepsQueue (by decide)
  | restartClerk val => exact (execRestartClerk_within val s).keepsQueue (by decide)
  | wchRecoveryReset val => exact (execWchRecoveryReset_within val s).keepsQueue (by decide)
  | forceHeld val => exact (execForceHeld_within val s).keepsQueue (by decide)
  | gblResetCold val => exact (execGblResetCold_within val s).keepsQueue (by decide)
  | gblResetRecovery val => exact (execGblResetRecovery_within val s).keepsQueue (by decide)
  | gblResetClerkOnly val => exact (execGblResetClerkOnly_within val s).keepsQueue (by decide)
  | cmbResetRequest => exact (execCmbResetRequest_within s).keepsQueue (by decide)
  | resetTakeHold => exact (execResetTakeHold_within s).keepsQueue (by decide)
  | recoveryComplete => exact (execRecoveryComplete_within s).keepsQueue (by decide)
  | porAssert => exact (execPorAssert_within s).keepsQueue (by decide)
  | porRelease => exact (execPorRelease_within s).keepsQueue (by decide)
  | rstNFall => exact (execRstNFall_within s).keepsQueue (by decide)
  | rstNRelease => exact (execRstNRelease_within s).keepsQueue (by decide)
  | refclkLoss => exact (execRefclkLoss_within s).keepsQueue (by decide)
  | railFault => exact (execRailFault_within s).keepsQueue (by decide)
  | clerkSecureBoot ok img => exact (execClerkSecureBoot_within ok img s).keepsQueue (by decide)
  | selftestSequenceDone res => exact (execSelftestSequenceDone_within res s).keepsQueue (by decide)
  | powerTransitionDone us => exact (execPowerTransitionDone_within us s).keepsQueue (by decide)
  | tileSave col mill => exact (execTileSave_within col mill s).keepsQueue (by decide)
  | tileRestore col mill => exact (execTileRestore_within col mill s).keepsQueue (by decide)
  | pedlarPush port ctag hdr data => exact (execPedlarPush_within port ctag hdr data s).keepsQueue (by decide)
  | pedlarPop port ctag req => exact (execPedlarPop_within port ctag req s).keepsQueue (by decide)
  | pedlarProbe port ctag hdr => exact (execPedlarProbe_within port ctag hdr s).keepsQueue (by decide)
  | subSubmit val => exact (execSubSubmit_within val s).keepsQueue (by decide)
  | runAdmit flow duration v => exact (execRunAdmit_within flow duration v s).keepsQueue (by decide)
  | transferAdmit flow duration v => exact (execTransferAdmit_within flow duration v s).keepsQueue (by decide)
  | replacedItemEnd flow duration => exact (execReplacedItemEnd_within flow duration s).keepsQueue (by decide)
  | bagGroupDispatch ord col => exact (execBagGroupDispatch_within ord col s).keepsQueue (by decide)
  | distributorForward ord group => exact (execDistributorForward_within ord group s).keepsQueue (by decide)
  | carterChunk carter ord chunk => exact (execCarterChunk_within carter ord chunk s).keepsQueue (by decide)
  | bagStart col mill ord b => exact (execBagStart_within col mill ord b s).keepsQueue (by decide)
  | rowReadIssue col mill => exact (execRowReadIssue_within col mill s).keepsQueue (by decide)
  | homeRowRead r => exact (execHomeRowRead_within r s).keepsQueue (by decide)
  | rowArrive col mill a => exact (execRowArrive_within col mill a s).keepsQueue (by decide)
  | sieveWindowClose col => exact (execSieveWindowClose_within col s).keepsQueue (by decide)
  | bagPoolEnd col mill tile => exact (execBagPoolEnd_within col mill tile s).keepsQueue (by decide)
  | tileDrain col mill => exact (execTileDrain_within col mill s).keepsQueue (by decide)
  | runRecordWrite ord duration => exact (execRunRecordWrite_within ord duration s).keepsQueue (by decide)
  | transferRecordWrite ord duration => exact (execTransferRecordWrite_within ord duration s).keepsQueue (by decide)
  | backwardContribution col mill ue => exact (execBackwardContribution_within col mill ue s).keepsQueue (by decide)
  | mergeFlush col => exact (execMergeFlush_within col s).keepsQueue (by decide)
  | backwardStreamIdle col => exact (execBackwardStreamIdle_within col s).keepsQueue (by decide)
  | partialEnqueue => exact (execPartialEnqueue_within s).keepsQueue (by decide)
  | foldHoldExpire port idx => exact (execFoldHoldExpire_within port idx s).keepsQueue (by decide)
  | ledgerFold pos ue => exact (execLedgerFold_within pos ue s).keepsQueue (by decide)
  | journalFlushDone => exact (execJournalFlushDone_within s).keepsQueue (by decide)
  | applyUnit u => exact (execApplyUnit_within u s).keepsQueue (by decide)
  | promotionReceive => exact (execPromotionReceive_within s).keepsQueue (by decide)
  | spillScan => exact (execSpillScan_within s).keepsQueue (by decide)
  | shelfEvaluate tid shelf => exact (execShelfEvaluate_within tid shelf s).keepsQueue (by decide)
  | shelfRebuild tid slot shelf newShelf => exact (execShelfRebuild_within tid slot shelf newShelf s).keepsQueue (by decide)
  | commitDone duration => exact (execCommitDone_within duration s).keepsQueue (by decide)
  | rowMoveComplete idx => exact (execRowMoveComplete_within idx s).keepsQueue (by decide)
  | commitNoticeReceive col => exact (execCommitNoticeReceive_within col s).keepsQueue (by decide)
  | linkTraining port txFail rxFail lane => exact (execLinkTraining_within port txFail rxFail lane s).keepsQueue (by decide)
  | linkBringupExchange port x => exact (execLinkBringupExchange_within port x s).keepsQueue (by decide)
  | flitReceive port f => exact (execFlitReceive_within port f s).keepsQueue (by decide)
  | nakReceive port ack => exact (execNakReceive_within port ack s).keepsQueue (by decide)
  | linkRetrainDone port r => exact (execLinkRetrainDone_within port r s).keepsQueue (by decide)
  | recoverRetrainTimeout port => exact (execRecoverRetrainTimeout_within port s).keepsQueue (by decide)
  | lquery port h p => exact (execLquery_within port h p s).keepsQueue (by decide)
  | lstate port h p => exact (execLstate_within port h p s).keepsQueue (by decide)
  | lqueryTimeout port => exact (execLqueryTimeout_within port s).keepsQueue (by decide)
  | packetSend port chan idx => exact (execPacketSend_within port chan idx s).keepsQueue (by decide)
  | read port h p => exact (execRead_within port h p s).keepsQueue (by decide)
  | row port h p => exact (execRow_within port h p s).keepsQueue (by decide)
  | promote port h p => exact (execPromote_within port h p s).keepsQueue (by decide)
  | notice port h p => exact (execNotice_within port h p s).keepsQueue (by decide)
  | absent port h p => exact (execAbsent_within port h p s).keepsQueue (by decide)
  | part port h p => exact (execPart_within port h p s).keepsQueue (by decide)
  | update port h p => exact (execUpdate_within port h p s).keepsQueue (by decide)
  | mark port h p => exact (execMark_within port h p s).keepsQueue (by decide)
  | remoteReadTimeout tagSlot => exact (execRemoteReadTimeout_within tagSlot s).keepsQueue (by decide)
  | promoteResend col idx => exact (execPromoteResend_within col idx s).keepsQueue (by decide)
  | migrationReadIssue map => exact (execMigrationReadIssue_within map s).keepsQueue (by decide)
  | migrationReadRetry idx => exact (execMigrationReadRetry_within idx s).keepsQueue (by decide)
  | xltInval val => exact (execXltInval_within val s).keepsQueue (by decide)
  | invalTakeEffect => exact (execInvalTakeEffect_within s).keepsQueue (by decide)
  | rangeRetranslate ord stream v => exact (execRangeRetranslate_within ord stream v s).keepsQueue (by decide)
  | invalAck => exact (execInvalAck_within s).keepsQueue (by decide)
  | faultRaise => exact (execFaultRaise_within s).keepsQueue (by decide)
  | faultRecordWrite => exact (execFaultRecordWrite_within s).keepsQueue (by decide)
  | faultReplyReplay val => exact (execFaultReplyReplay_within val s).keepsQueue (by decide)
  | faultReplyAbort val => exact (execFaultReplyAbort_within val s).keepsQueue (by decide)
  | faultOverdue pend => exact (execFaultOverdue_within pend s).keepsQueue (by decide)
  | fltRingHeadWrite val => exact (execFltRingHeadWrite_within val s).keepsQueue (by decide)
  | fltRingConfigWrite size val => exact (execFltRingConfigWrite_within size val s).keepsQueue (by decide)
  | fltStatusClear val => exact (execFltStatusClear_within val s).keepsQueue (by decide)
  | streamTailTimeout flow => exact (execStreamTailTimeout_within flow s).keepsQueue (by decide)
  | flowTimeout flow => exact (execFlowTimeout_within flow s).keepsQueue (by decide)
  | qhSplitWrite val => exact (execQhSplitWrite_within val s).keepsQueue (by decide)
  | qhTimeoutWrite val => exact (execQhTimeoutWrite_within val s).keepsQueue (by decide)
  | qhCellUncorrectable spot => exact (execQhCellUncorrectable_within spot s).keepsQueue (by decide)
  | rdData port hdr data => exact (execRdData_within port hdr data s).keepsQueue (by decide)
  | wrAck port hdr => exact (execWrAck_within port hdr s).keepsQueue (by decide)
  | cdpHeaderDiscard port hdr => exact (execCdpHeaderDiscard_within port hdr s).keepsQueue (by decide)
  | cdpReadyChange port kRdy sRdy => exact (execCdpReadyChange_within port kRdy sRdy s).keepsQueue (by decide)
  | cdpCreditReturn port header data => exact (execCdpCreditReturn_within port header data s).keepsQueue (by decide)
  | hbmThermalSample stack temp => exact (execHbmThermalSample_within stack temp s).keepsQueue (by decide)
  | hbmRefresh stack chan bank => exact (execHbmRefresh_within stack chan bank s).keepsQueue (by decide)
  | hbmPatrol cw syms written => exact (execHbmPatrol_within cw syms written s).keepsQueue (by decide)
  | hbmReadUncorrectable e who => exact (execHbmReadUncorrectable_within e who s).keepsQueue (by decide)
  | larderPatrol block wrong => exact (execLarderPatrol_within block wrong s).keepsQueue (by decide)
  | larderReadUncorrectable block spot => exact (execLarderReadUncorrectable_within block spot s).keepsQueue (by decide)
  | hbmTempWrite stack val => exact (execHbmTempWrite_within stack val s).keepsQueue (by decide)
  | hbmHintCfgWrite stack val => exact (execHbmHintCfgWrite_within stack val s).keepsQueue (by decide)
  | test1500LoadInstr stack val hard => exact (execTest1500LoadInstr_within stack val hard s).keepsQueue (by decide)
  | test1500ShiftData stack val captured => exact (execTest1500ShiftData_within stack val captured s).keepsQueue (by decide)
  | marginSample ins => exact (execMarginSample_within ins s).keepsQueue (by decide)
  | readerVisit incs => exact (execReaderVisit_within incs s).keepsQueue (by decide)
  | dumpPeriodEnd incs => exact (execDumpPeriodEnd_within incs s).keepsQueue (by decide)
  | ctrModeWrite val => exact (execCtrModeWrite_within val s).keepsQueue (by decide)
  | ctrFreezeWrite val incs => exact (execCtrFreezeWrite_within val incs s).keepsQueue (by decide)
  | ctrDumpPeriodWrite val => exact (execCtrDumpPeriodWrite_within val s).keepsQueue (by decide)
  | ctrSampleWrite val => exact (execCtrSampleWrite_within val s).keepsQueue (by decide)
  | sampleRecordWrite idx times => exact (execSampleRecordWrite_within idx times s).keepsQueue (by decide)
  | mclIdleCauseClear col val => exact (execMclIdleCauseClear_within col val s).keepsQueue (by decide)
  | asyClear val => exact (execAsyClear_within val s).keepsQueue (by decide)
  | ldgLatePolicyWrite val => exact (execLdgLatePolicyWrite_within val s).keepsQueue (by decide)
  | gblEventWrite val => exact (execGblEventWrite_within val s).keepsQueue (by decide)
  | gblEventEnWrite off val => exact (execGblEventEnWrite_within off val s).keepsQueue (by decide)
  | gblMsiAddrWrite val => exact (execGblMsiAddrWrite_within val s).keepsQueue (by decide)
  | registerWrite off val => exact (execRegisterWrite_within off val s).keepsQueue (by decide)
  | spanRxElectricalIdle port => exact (execSpanRxElectricalIdle_within port s).keepsQueue (by decide)
  | lastRxExpire port => exact (execLastRxExpire_within port s).keepsQueue (by decide)

/-- A step goes on where the command at the front of the queue does, and idles on an empty queue. -/
theorem step_goes (s : State) : Goes (step s) := by
  unfold step
  split
  · exact ⟨s, rfl⟩
  next c rest _ =>
    obtain ⟨t, ht, _⟩ := exec_keepsQueue c { s with pending := rest }
    exact ⟨t, ht⟩

/-- Settles O3: every command's frame leaves the queue out. -/
theorem execLeavesQueue : Obligations.ExecLeavesQueue := by
  unfold Obligations.ExecLeavesQueue
  intro c s t h
  obtain ⟨u, hu, queue⟩ := exec_keepsQueue c s
  cases hu.symm.trans h
  exact queue

/-- Settles O4: every command has a frame, so each answers a next state. -/
theorem everyStepGoesOn : Obligations.EveryStepGoesOn := by
  unfold Obligations.EveryStepGoesOn SafeStep
  exact step_goes

end Sys2Proof.Machine

/-! SUPPORT. The plain RW registers: what a write of each leaves in its field, and what the register then reads. -/

namespace Sys2Proof.Machine

open Sys2Proof

/-! ## Words -/

/-- The low `n` bits of a word, as a word: the word under the mask of `n` ones. -/
theorem w64_bits_low (val : W64) (n : Nat) : w64 (bits val 0 n) = val &&& w64 (2 ^ n - 1) := by
  apply BitVec.eq_of_toNat_eq
  have fits : val.toNat % 2 ^ n < 2 ^ 64 := (Nat.mod_le _ _).trans_lt val.isLt
  have whole : val.toNat % 2 ^ 64 = val.toNat := Nat.mod_eq_of_lt val.isLt
  rw [BitVec.toNat_and, w64, w64, BitVec.toNat_ofNat, BitVec.toNat_ofNat, bits, Nat.shiftRight_zero, Nat.mod_eq_of_lt fits,
    ← Nat.and_two_pow_sub_one_eq_mod, ← Nat.and_two_pow_sub_one_eq_mod (2 ^ n - 1) 64, Nat.and_comm (2 ^ n - 1), ← Nat.and_assoc,
    Nat.and_two_pow_sub_one_eq_mod val.toNat 64, whole]

/-- A field of the low 6 bits reads back beside a count that stands from bit 16. -/
theorem bits_low_beside (a k : Nat) (h : a < 64) : bits (w64 (a + k * 2 ^ 16)) 0 6 = a := by
  simp only [bits, w64, BitVec.toNat_ofNat, Nat.shiftRight_zero]
  omega

/-! ## REGISTER_WRITE -/

theorem exec_registerWrite_alive {s : State} (off : Nat) (val : W64) (h : kcpAlive s = true) :
    exec (.registerWrite off val) s = .next (regWrite off val s) := by
  change kcpWrite s (regWrite off val) = _
  simp [kcpWrite, h]

theorem exec_registerWrite_dead {s : State} (off : Nat) (val : W64) (h : kcpAlive s = false) :
    exec (.registerWrite off val) s = .next s := by
  change kcpWrite s (regWrite off val) = _
  simp [kcpWrite, h]

/-- An offset of no block takes nothing (R12). -/
theorem exec_registerWrite_unmapped {off : Nat} (s : State) (val : W64) (h : (blockOf off).1 = .none) :
    exec (.registerWrite off val) s = .next s := by
  have kept : regWrite off val s = s := by
    unfold regWrite
    split <;> simp_all
  change kcpWrite s (regWrite off val) = _
  simp [kcpWrite, kept]

/-- While the KCP answers, what holds of the state written holds after the command. -/
theorem registerWrite_leads {s : State} {off : Nat} {val : W64} {p : State → Prop} (h : kcpAlive s = true)
    (k : p (regWrite off val s)) : Leads (exec (.registerWrite off val) s) p :=
  ⟨_, exec_registerWrite_alive off val h, k⟩

/-! ## The lines leave the fields of the GBL block -/

theorem evalLines_still (s : State) : (evalLines s).gbl.still = s.gbl.still := (evalLines_only s).same .block (by decide)

/-- A field of the GBL block that GBL_EVENT and what it drives are no part of. -/
theorem evalLines_field {α : Type} (f : Gbl → α) (apart : ∀ g, f g.still = f g) (s : State) :
    f (evalLines s).gbl = f s.gbl := by
  rw [← apart, evalLines_still, apart]

/-- The messages that a write of GBL_MSI_ADDR sends leave the register itself. -/
theorem writeMsiAddr_msiAddr (val : W64) (s : State) : (writeMsiAddr val s).gbl.msiAddr = val &&& baseMask := by
  unfold writeMsiAddr
  dsimp only
  split
  · have sent := (OnlyIn.foldl (fun t n => sendMsi_only n t) s.gbl.msiPending
      { s with gbl := { s.gbl with msiAddr := val &&& baseMask, msiSeq := [] } }).same .block (by decide)
    exact congrArg Gbl.msiAddr sent
  · rfl

/-! ## Read after write -/

theorem wchArg_readsBack (val : W64) (s : State) : regRead (regWrite 0x10010 val s) 0x10010 = val := rfl

theorem eventEn_readsBack (val : W64) (s : State) : regRead (regWrite 0x20048 val s) 0x20048 = val &&& eventMask :=
  evalLines_field Gbl.eventEn (fun _ => rfl) { s with gbl := { s.gbl with eventEn := val &&& eventMask } }

theorem route_readsBack (val : W64) (s : State) : regRead (regWrite 0x20050 val s) 0x20050 = val :=
  evalLines_field Gbl.route (fun _ => rfl) { s with gbl := { s.gbl with route := val } }

theorem routeHi_readsBack (val : W64) (s : State) : regRead (regWrite 0x20058 val s) 0x20058 = val &&& 0xFFFFF#64 :=
  evalLines_field Gbl.routeHi (fun _ => rfl) { s with gbl := { s.gbl with routeHi := val &&& 0xFFFFF#64 } }

theorem msiMode_readsBack (val : W64) (s : State) : regRead (regWrite 0x20060 val s) 0x20060 = val &&& 0xFFFF#64 :=
  evalLines_field Gbl.msiMode (fun _ => rfl) { s with gbl := { s.gbl with msiMode := val &&& 0xFFFF#64 } }

theorem msiAddr_readsBack (val : W64) (s : State) : regRead (regWrite 0x20068 val s) 0x20068 = val &&& baseMask :=
  writeMsiAddr_msiAddr val s

theorem flowSel_readsBack (val : W64) (s : State) : regRead (regWrite 0x400008 val s) 0x400008 = val &&& 0x3FFF#64 :=
  w64_bits_low val 14

theorem ctxSel_readsBack (val : W64) (s : State) : bits (regRead (regWrite 0x300008 val s) 0x300008) 0 6 = bits val 0 6 :=
  bits_low_beside (bits val 0 6) (ctxRuns (writeCtxSel val s) (bits val 0 6)) (Nat.mod_lt _ (by decide))

theorem asySel_readsBack (val : W64) (s : State) : regRead (regWrite 0x500000 val s) 0x500000 = val &&& 0xFFF#64 := by
  have kept : (writeAsySel val s).asy.sel = bits val 0 12 := by
    unfold writeAsySel
    split <;> rfl
  calc regRead (regWrite 0x500000 val s) 0x500000
    _ = w64 (writeAsySel val s).asy.sel := rfl
    _ = w64 (bits val 0 12) := by rw [kept]
    _ = val &&& 0xFFF#64 := w64_bits_low val 12

/-! ## The statement -/

/-- Settles O9: register by register, the field that a write leaves is the field that a read returns. -/
theorem plainRegistersReadBack : Obligations.PlainRegistersReadBack := by
  unfold Obligations.PlainRegistersReadBack
  refine ⟨fun s val alive p hp => registerWrite_leads alive ?_, fun s val alive => registerWrite_leads alive (ctxSel_readsBack val s),
    fun s val alive _ => registerWrite_leads alive (asySel_readsBack val s), fun s off val dead => exec_registerWrite_dead off val dead,
    fun s val => exec_registerWrite_unmapped s val (by decide)⟩
  have whole : val &&& 0xFFFFFFFFFFFFFFFF#64 = val := BitVec.and_allOnes
  simp only [List.mem_cons, List.not_mem_nil, or_false] at hp
  obtain rfl | rfl | rfl | rfl | rfl | rfl | rfl := hp
  · exact (wchArg_readsBack val s).trans whole.symm
  · exact eventEn_readsBack val s
  · exact (route_readsBack val s).trans whole.symm
  · exact routeHi_readsBack val s
  · exact msiMode_readsBack val s
  · exact msiAddr_readsBack val s
  · exact flowSel_readsBack val s

end Sys2Proof.Machine

/-! SUPPORT. A Clerk command that is ready, and what its answer leaves in the mailbox block; the bit that an event sets; the REPORTs
that end what is owed. -/

namespace Sys2Proof.Machine

open Sys2Proof

/-! ## A command that is ready -/

/-- A command that is ready is carried out on the state in which its message is no longer taken. -/
theorem cmdStep_ready {s : State} {op slot : Nat} {m : Msg} (h : Ready s op slot m) (f : Msg → State → State) :
    cmdStep op slot s f = .next (settle (f m (untake slot s))) := by
  unfold Ready at h
  unfold cmdStep
  rw [h]

/-! ## Answers -/

@[simp] theorem postFinal_ldg (slot : Nat) (m : Msg) (st : Status) (p : List W64) (s : State) :
    (postFinal slot m st p s).ldg = s.ldg := rfl

/-- A FINAL response posted where the mailbox block is as the command found it, but for the message taken. -/
theorem postFinal_mbx {s t : State} {slot : Nat} (h : t.mbx = (untake slot s).mbx) (m : Msg) (st : Status) (p : List W64) :
    (postFinal slot m st p t).mbx = finalMbx s slot m st p := by
  change { t.mbx with respQ := t.mbx.respQ ++ [respOf slot m 0 st p] } = _
  rw [h]
  rfl

theorem accept_mbx {s t : State} {slot : Nat} (h : t.mbx = (untake slot s).mbx) (m : Msg) :
    (accept slot m t).mbx = acceptedMbx s slot m := by
  change { t.mbx with respQ := t.mbx.respQ ++ [respOf slot m 1 .ok []] } = _
  rw [h]
  rfl

/-- The first response of a command is FINAL or ACCEPTED, never both: their kinds differ. -/
theorem finalMbx_ne_acceptedMbx (s : State) (slot : Nat) (m : Msg) (st : Status) (p : List W64) :
    finalMbx s slot m st p ≠ acceptedMbx s slot m := by
  intro h
  have queues : s.mbx.respQ ++ [respOf slot m 0 st p] = s.mbx.respQ ++ [respOf slot m 1 .ok []] := congrArg Mbx.respQ h
  have kinds : 0 = 1 := congrArg Response.kind (List.head_eq_of_cons_eq (List.append_cancel_left queues))
  exact absurd kinds (by decide)

/-! ## Events -/

@[simp] theorem chipWrite_event (k : OutKind) (o : Owner) (a : Nat) (bs : List Byte) (s : State) :
    (chipWrite k o a bs s).gbl.event = s.gbl.event := ((chipWrite_only k o a bs s).same .events (by decide)).1

theorem riseMsi_event (n : Nat) (s : State) : (riseMsi n s).gbl.event = s.gbl.event := by
  unfold riseMsi
  split
  · simp [sendMsi]
  · rfl

/-- The lines follow the events and leave GBL_EVENT as it is. -/
@[simp] theorem evalLines_event (s : State) : (evalLines s).gbl.event = s.gbl.event := by
  unfold evalLines
  refine List.foldlRecOn (motive := fun t : State => t.gbl.event = s.gbl.event) _ _ rfl fun t ht n _ => ?_
  split
  · exact (riseMsi_event n t).trans ht
  · exact ht

theorem bit_raise {e : Nat} (h : e < 64) (s : State) : bit (raise e s).gbl.event e = true := by
  simp [raise, bit, h]

@[simp] theorem raise_clerk (e : Nat) (s : State) : (raise e s).clerk = s.clerk := (raise_only e s).same .clerk (by decide)
@[simp] theorem raise_ldg (e : Nat) (s : State) : (raise e s).ldg = s.ldg := (raise_only e s).same .ldg (by decide)
@[simp] theorem raise_lrd (e : Nat) (s : State) : (raise e s).lrd = s.lrd := (raise_only e s).same .lrd (by decide)

/-! ## REPORTs -/

/-- The REPORTs of some owed commands leave the others owed. -/
theorem postReports_owed (n : Nat) (p : List W64) (os : List Owed) (s : State) :
    (os.foldl (fun t o => postReport o .ok n p t) s).clerk.owed = s.clerk.owed.filter (fun o => o ∉ os) := by
  induction os generalizing s with
  | nil => simp
  | cons o os ih =>
    have first : (postReport o .ok n p s).clerk.owed = s.clerk.owed.filter (· ≠ o) := rfl
    rw [List.foldl_cons, ih, first, List.filter_filter]
    refine List.filter_congr fun x _ => ?_
    simp [Bool.and_comm]

theorem reportAll_owed_op {op n : Nat} {p : List W64} {s : State} {o : Owed} (h : o ∈ (reportAll op n p s).clerk.owed) :
    o.op ≠ op := by
  unfold reportAll at h
  rw [postReports_owed] at h
  intro same
  obtain ⟨mem, left⟩ := List.mem_filter.mp h
  exact of_decide_eq_true left (List.mem_filter.mpr ⟨mem, beq_iff_eq.mpr same⟩)

end Sys2Proof.Machine

/-! SUPPORT. COMMIT: what it refuses, and the state it begins a first Commit or a redo in. -/

namespace Sys2Proof.Machine

open Sys2Proof

/-! ## What is refused -/

/-- COMMIT of a step that is not sealed, or before its SEAL_DONE, or beside another Commit, or with a λ out of range (R20, R249). -/
theorem commit_refused {s : State} {slot : Nat} {m : Msg} (h : Ready s 0x0A03 slot m)
    (k : s.ldg.sealedStep ≠ some (bits (arg m 1) 0 32) ∨ s.ldg.sealDone = false ∨ s.ldg.committing = true ∨
      lambdaOk (BitVec.ofNat 32 (bits (arg m 1) 32 32)) = false) :
    exec (.commit slot) s = .next (settle (postFinal slot m .badDescriptor [] (untake slot s))) := by
  change execCommit slot s = _
  unfold execCommit
  rw [cmdStep_ready h, if_pos (by simpa using k)]

/-- Settles O58: a COMMIT whose step is not the sealed one with SEAL_DONE fired is refused, and a refused one posts a FINAL. -/
theorem commitNeedsSealDone : Obligations.CommitNeedsSealDone := by
  unfold Obligations.CommitNeedsSealDone
  intro s slot m ready
  refine ⟨fun early => ⟨_, commit_refused ready (early.imp_right .inl), ?_⟩, fun t next accepted => ?_⟩
  · exact ⟨(settle_mbx _).trans (postFinal_mbx rfl m .badDescriptor []), settle_ldg _, settle_tables _, settle_hbm _⟩
  · by_contra missing
    have early : s.ldg.sealedStep ≠ some (bits (arg m 1) 0 32) ∨ s.ldg.sealDone = false := by
      simpa [or_iff_not_imp_left] using missing
    cases (commit_refused ready (early.imp_right .inl)).symm.trans next
    exact finalMbx_ne_acceptedMbx s slot m .badDescriptor []
      ((postFinal_mbx rfl m .badDescriptor []).symm.trans ((settle_mbx _).symm.trans accepted))

/-! ## What an accepted COMMIT begins in -/

/-- The state in which an accepted COMMIT starts its journal or its redo: ACCEPTED is posted and the counts restart (R250, R294). -/
def commitBegun (slot : Nat) (m : Msg) (s : State) : State :=
  let t := commitMod (freshCounts (bits (arg m 1) 0 32))
    { accept slot m (untake slot s) with ldg := { s.ldg with committing := true } }
  s.tables.foldl (fun u p => asySpanStart p.1 spanCommit u) t

theorem commitBegun_only (slot : Nat) (m : Msg) (s : State) :
    OnlyIn [.asy] (commitMod (freshCounts (bits (arg m 1) 0 32))
      { accept slot m (untake slot s) with ldg := { s.ldg with committing := true } }) (commitBegun slot m s) :=
  OnlyIn.foldl (fun t (p : Nat × Table) => asySpanStart_only p.1 spanCommit t) _ _

theorem commitBegun_mbx (slot : Nat) (m : Msg) (s : State) : (commitBegun slot m s).mbx = acceptedMbx s slot m :=
  by
  have kept : (commitBegun slot m s).mbx = (accept slot m (untake slot s)).mbx := (commitBegun_only slot m s).same .mbx (by decide)
  exact kept.trans (accept_mbx rfl m)

theorem commitBegun_tables (slot : Nat) (m : Msg) (s : State) : (commitBegun slot m s).tables = s.tables :=
  (commitBegun_only slot m s).same .tables (by decide)

theorem commitBegun_ldg (slot : Nat) (m : Msg) (s : State) : (commitBegun slot m s).ldg =
    { s.ldg with committing := true, commit := freshCounts (bits (arg m 1) 0 32) s.ldg.commit } :=
  (commitBegun_only slot m s).same .ldg (by decide)

/-- The journal that a redo takes up is the one there was before the COMMIT. -/
theorem commitBegun_redoJournal (slot : Nat) (m : Msg) (s : State) (step : Nat) :
    redoJournal (commitBegun slot m s) step = redoJournal s step := by
  simp only [redoJournal, commitBegun_ldg]

/-- The journal header of a first Commit, or the redo that a complete journal allows (R253, R291). -/
def commitStart (step : Nat) (lambda : W32) (s : State) : State :=
  match redoJournal s step with
  | some j => advance (resendRecoded j (startRedo j s))
  | none => startJournal step lambda s

theorem commitStart_first {s : State} {step : Nat} (h : redoJournal s step = none) (lambda : W32) :
    commitStart step lambda s = startJournal step lambda s := by
  simp [commitStart, h]

theorem commitStart_redo {s : State} {step : Nat} {j : Journal} (h : redoJournal s step = some j) (lambda : W32) :
    commitStart step lambda s = advance (resendRecoded j (startRedo j s)) := by
  simp [commitStart, h]

theorem commit_accepted {s : State} {slot : Nat} {m : Msg} (h : Ready s 0x0A03 slot m)
    (sealed : s.ldg.sealedStep = some (bits (arg m 1) 0 32)) (done : s.ldg.sealDone = true) (alone : s.ldg.committing = false)
    (lambda : lambdaOk (BitVec.ofNat 32 (bits (arg m 1) 32 32)) = true) : exec (.commit slot) s = .next (settle
      (commitStart (bits (arg m 1) 0 32) (BitVec.ofNat 32 (bits (arg m 1) 32 32)) (commitBegun slot m s))) := by
  change execCommit slot s = _
  unfold execCommit
  rw [cmdStep_ready h, if_neg (by simp [sealed, done, alone, lambda])]
  rfl

end Sys2Proof.Machine

/-! SUPPORT. STEP_OPEN, SEAL, SEAL_DONE and COMMIT_DONE: the state each leaves. -/

namespace Sys2Proof.Machine

open Sys2Proof

/-! ## Opening a step -/

/-- A store changed value by value, its keys kept. -/
theorem mget_map {α β : Type} {g : Nat × α → Nat × β} (keys : ∀ p, (g p).1 = p.1) (m : AMap α) (k : Nat) :
    mget (m.map g) k = (mget m k).map (fun v => (g (k, v)).2) := by
  induction m with
  | nil => rfl
  | cons p m ih =>
    obtain ⟨j, v⟩ := p
    have split : g (j, v) = (j, (g (j, v)).2) := Prod.ext (keys (j, v)) rfl
    rw [List.map_cons, split]
    by_cases here : k = j
    · subst here; simp [mget]
    · simp [mget, here, ih]

/-- A discarded partial is counted in DROPPED; beside that only the drop log changes. -/
theorem dropPartial_ldg (key : RowKey) (step : Nat) (why : DropReason) (s : State) : ∃ log,
    (dropPartial key step why s).ldg = { s.ldg with dropped := satAdd 24 s.ldg.dropped 1, dropLog := log } := by
  unfold dropPartial logDrop
  split
  · exact ⟨_, rfl⟩
  · exact ⟨_, rfl⟩

theorem dropPartials_ldg (why : DropReason) (cs : List Contrib) (s : State) : ∃ n log,
    (cs.foldl (fun t c => dropPartial c.key c.step why t) s).ldg = { s.ldg with dropped := n, dropLog := log } := by
  induction cs generalizing s with
  | nil => exact ⟨_, _, rfl⟩
  | cons c cs ih =>
    obtain ⟨n, log, rest⟩ := ih (dropPartial c.key c.step why s)
    obtain ⟨_, first⟩ := dropPartial_ldg c.key c.step why s
    exact ⟨n, log, rest.trans (by rw [first])⟩

theorem strayPen_ldg (s : State) : ∃ pen n log,
    (strayPen s).ldg = { s.ldg with pen := pen, dropped := n, dropLog := log } := by
  obtain ⟨n, log, dropped⟩ := dropPartials_ldg .stray _ _
  exact ⟨_, n, log, dropped⟩

@[simp] theorem strayPen_tables (s : State) : (strayPen s).tables = s.tables := (strayPen_only s).same .tables (by decide)
@[simp] theorem resolvePen_tables (s : State) : (resolvePen s).tables = s.tables := (resolvePen_only s).same .tables (by decide)

/-- AGREED of a table that the exponent list names is the byte of the list (R210). -/
theorem setAgreed_named {s : State} {tid : Nat} {x : Table} {l : List (Nat × Nat)} {e : Nat × Nat} (step : Nat)
    (hx : mget s.tables tid = some x) (he : l.find? (fun e => e.1 == tid) = some e) :
    mget (setAgreed step l s).tables tid = some { x with agreed := some e.2 } := by
  refine (mget_map ?keys s.tables tid).trans ?_
  case keys => exact fun _ => rfl
  simp [hx, he]

theorem openStepAt_named {s : State} {tid : Nat} {x : Table} {l : List (Nat × Nat)} {e : Nat × Nat} (step : Nat)
    (hx : mget s.tables tid = some x) (he : l.find? (fun e => e.1 == tid) = some e) :
    mget (openStepAt step l s).tables tid = some { x with agreed := some e.2 } := by
  have agreed (u : State) (kept : u.tables = s.tables) :
      mget (setAgreed step l u).tables tid = some { x with agreed := some e.2 } :=
    setAgreed_named step (by rw [kept]; exact hx) he
  unfold openStepAt
  extract_lets was wrong u v w
  have kept : u.tables = s.tables := by
    simp only [u]
    split <;> simp
  split
  · rw [resolvePen_tables]; exact agreed u kept
  · exact agreed u kept

/-- A step opened where a pen step was known: only partials of another pen step go (R18, R231). -/
theorem openStepAt_ldg {s : State} (h : s.ldg.penRef ≠ .unset) (step : Nat) (l : List (Nat × Nat)) : ∃ pen n log,
    (openStepAt step l s).ldg = { s.ldg with
      pen := pen, dropped := n, dropLog := log, openStep := some step, openWas := step, penRef := .after step, localMax := [],
      spillRecords := 0, filterOpen := [] } := by
  unfold openStepAt
  extract_lets was wrong u v w
  have strayed : ∃ pen n log, u.ldg = { s.ldg with pen := pen, dropped := n, dropLog := log } := by
    simp only [u]
    split
    · exact strayPen_ldg s
    · exact ⟨_, _, _, rfl⟩
  obtain ⟨pen, n, log, hu⟩ := strayed
  refine ⟨pen, n, log, ?_⟩
  rw [if_neg (show was ≠ .unset from h)]
  change { u.ldg with openStep := some step, openWas := step, penRef := .after step, localMax := [],
                      spillRecords := 0, filterOpen := [] } = _
  rw [hu]

theorem openStepAt_mbx (step : Nat) (l : List (Nat × Nat)) (s : State) : (openStepAt step l s).mbx = s.mbx :=
  (openStepAt_only step l s).same .mbx (by decide)

theorem exponentList_untake (slot : Nat) (s : State) (v : ChipView) (ctx n da : Nat) :
    exponentList (untake slot s) v ctx n da = exponentList s v ctx n da := by
  unfold exponentList
  simp only [clerkRead_untake]

@[simp] theorem openOk_untake (slot : Nat) (s : State) (step : Nat) : openOk (untake slot s) step = openOk s step := rfl

theorem stepOpen_refused {s : State} {slot : Nat} {m : Msg} (v : ChipView) (h : Ready s 0x0A01 slot m)
    (k : 4096 < bits (arg m 1) 32 13 ∨ openOk s (bits (arg m 1) 0 32) = false) :
    exec (.stepOpen slot v) s = .next (settle (postFinal slot m .badDescriptor [] (untake slot s))) := by
  change execStepOpen slot v s = _
  unfold execStepOpen
  rw [cmdStep_ready h]
  have refused : 4096 < bits (arg m 1) 32 13 ∨ !openOk (untake slot s) (bits (arg m 1) 0 32) := by
    simpa using k
  simp only [refused, if_true]

theorem stepOpen_opened {s : State} {slot : Nat} {m : Msg} {v : ChipView} {l : List (Nat × Nat)} (h : Ready s 0x0A01 slot m)
    (count : bits (arg m 1) 32 13 ≤ 4096) (next : openOk s (bits (arg m 1) 0 32) = true)
    (read : exponentList s v m.ctx (bits (arg m 1) 32 13) (bits (arg m 2) 0 56) = .ok l) :
    exec (.stepOpen slot v) s =
      .next (settle (postFinal slot m .ok [] (openStepAt (bits (arg m 1) 0 32) l (untake slot s)))) := by
  change execStepOpen slot v s = _
  unfold execStepOpen
  rw [cmdStep_ready h]
  have taken : ¬ (bits (arg m 1) 32 13 > 4096 ∨ !openOk (untake slot s) (bits (arg m 1) 0 32)) := by
    simp [next, count]
  simp only [taken, if_false, exponentList_untake, read]

/-! ## Sealing it -/

theorem seal_accepted {s : State} {slot : Nat} {m : Msg} (h : Ready s 0x0A02 slot m)
    (opened : s.ldg.openStep = some (bits (arg m 1) 0 32)) (unsealed : s.ldg.sealedStep = none) :
    exec (.sealStep slot) s = .next (settle (accept slot m (sealStep (bits (arg m 1) 0 32) (untake slot s)))) := by
  change execSeal slot s = _
  unfold execSeal
  rw [cmdStep_ready h]
  simp only [untake_ldg, opened, unsealed, and_self, if_true]

theorem seal_refused {s : State} {slot : Nat} {m : Msg} (h : Ready s 0x0A02 slot m)
    (k : s.ldg.openStep ≠ some (bits (arg m 1) 0 32) ∨ s.ldg.sealedStep ≠ none) :
    exec (.sealStep slot) s = .next (settle (postFinal slot m .badDescriptor [] (untake slot s))) := by
  change execSeal slot s = _
  unfold execSeal
  rw [cmdStep_ready h]
  have refused : ¬ (s.ldg.openStep = some (bits (arg m 1) 0 32) ∧ s.ldg.sealedStep = none) := by
    rwa [not_and_or]
  simp only [untake_ldg, refused, if_false]

/-- The Clerk runs or not whatever the rest of the state is. -/
theorem clerkRuns_of_clerk {s t : State} (h : t.clerk = s.clerk) : clerkRuns t = clerkRuns s := by
  simp only [clerkRuns, h]

/-- Where the Clerk runs no REPORT stays owed for the commands that have ended (R504). -/
theorem reported_owed {s t : State} (op n : Nat) (p : List W64) (h : t.clerk = s.clerk) (runs : clerkRuns s = true) :
    ∀ o ∈ (if clerkRuns t = true then reportAll op n p t else t).clerk.owed, o.op ≠ op := by
  intro o ho
  rw [if_pos ((clerkRuns_of_clerk h).trans runs)] at ho
  exact reportAll_owed_op ho

theorem reported_only (op n : Nat) (p : List W64) (t : State) :
    OnlyIn [.mbx, .clerk] t (if clerkRuns t = true then reportAll op n p t else t) := .when (reportAll_only op n p t)

theorem reported_ldg (op n : Nat) (p : List W64) (t : State) :
    (if clerkRuns t = true then reportAll op n p t else t).ldg = t.ldg := (reported_only op n p t).same .ldg (by decide)

theorem reported_lrd (op n : Nat) (p : List W64) (t : State) :
    (if clerkRuns t = true then reportAll op n p t else t).lrd = t.lrd := (reported_only op n p t).same .lrd (by decide)

theorem reported_event (op n : Nat) (p : List W64) (t : State) :
    (if clerkRuns t = true then reportAll op n p t else t).gbl.event = t.gbl.event :=
  ((reported_only op n p t).same .events (by decide)).1

/-- The state in which the folds of the sealed step have ended and SEAL_DONE has fired. -/
def sealEnded (s : State) : State := raise evSealDone { s with ldg := { s.ldg with sealing := false, sealDone := true } }

theorem sealDone_fires {s : State} (h : sealReady s = true) : exec .sealDone s =
    .next (if clerkRuns (sealEnded s) = true then reportAll 0x0A02 1 [] (sealEnded s) else sealEnded s) := by
  change execSealDone s = _
  unfold execSealDone
  rw [if_pos h]
  rfl

/-! ## The end of a Commit -/

/-- In FINISH nothing is left to move on to: only the DONE bits of the rebuild list follow the moves (R281). -/
theorem advance_finish {s : State} (h : s.ldg.commit.phase = .finish) : advance s = settleRebuilds s := by
  have phase : (settleRebuilds s).ldg.commit.phase = .finish := h
  simp [advance, advanceSpill, h, phase]

/-- The state in which a Commit has ended and its notices are out, before what its step held is freed. -/
def commitEnded (duration : Nat) (s : State) : State :=
  noticeAll (commitMod (fun c => { c with phase := .idle, flushDone := false, duration := min duration (pow32 - 1) }) s)

theorem commitEnded_clerk (duration : Nat) (s : State) : (commitEnded duration s).clerk = s.clerk :=
  (noticeAll_only _).same .clerk (by decide)

/-- The same with the step freed and COMMIT_DONE fired. -/
def commitFreed (duration : Nat) (s : State) : State :=
  raise evCommitDone (asyCommitEnd (freeStep (sealedNo s) (commitEnded duration s)))

theorem commitFreed_ldg (duration : Nat) (s : State) :
    (commitFreed duration s).ldg = (freeStep (sealedNo s) (commitEnded duration s)).ldg := raise_ldg _ _

theorem commitFreed_lrd (duration : Nat) (s : State) :
    (commitFreed duration s).lrd = (freeStep (sealedNo s) (commitEnded duration s)).lrd := raise_lrd _ _

theorem commitFreed_clerk (duration : Nat) (s : State) : (commitFreed duration s).clerk = s.clerk :=
  (raise_clerk _ _).trans (commitEnded_clerk duration s)

theorem commitDone_ends {s : State} (duration : Nat) (h : s.ldg.commit.phase = .finish) (runs : ledgerRuns s = true) :
    exec (.commitDone duration) s = .next (settle
      (if clerkRuns (commitFreed duration (settleRebuilds s)) = true then
        reportAll 0x0A03 2 (commitReport (commitFreed duration (settleRebuilds s)).ldg.commit)
          (commitFreed duration (settleRebuilds s))
      else commitFreed duration (settleRebuilds s))) := by
  change execCommitDone duration s = _
  unfold execCommitDone
  dsimp only
  rw [advance_finish h]
  have ends : (settleRebuilds s).ldg.commit.phase = .finish ∧ ledgerRuns (settleRebuilds s) = true := ⟨h, runs⟩
  rw [if_pos ends]
  rfl

/-! ## The statement -/

theorem commitDone_frees (s : State) (q duration : Nat) (finish : s.ldg.commit.phase = .finish) (runs : ledgerRuns s = true)
    (sealed : s.ldg.sealedStep = some q) : Leads (exec (.commitDone duration) s) (fun t =>
      t.ldg.sealedStep = none ∧ t.ldg.sealDone = false ∧ t.ldg.committing = false ∧ t.ldg.journal = none ∧
      t.ldg.filterSealed = [] ∧ (∀ e ∈ t.ldg.entries, e.step ≠ q) ∧ (∀ r ∈ t.ldg.spills, r.step ≠ q) ∧
      (∀ k ∈ t.lrd.kept, k.step ≠ q) ∧ bit t.gbl.event 4 = true ∧
      (clerkRuns s = true → ∀ o ∈ t.clerk.owed, o.op ≠ 0x0A03)) := by
  refine ⟨_, commitDone_ends duration finish runs, ?_⟩
  have step : sealedNo (settleRebuilds s) = q := by
    change s.ldg.sealedStep.getD 0 = q
    rw [sealed]
    rfl
  beta_reduce
  rw [settle_ldg, settle_lrd, settle_event, settle_clerk, reported_ldg, reported_lrd, reported_event, commitFreed_ldg,
    commitFreed_lrd, step]
  refine ⟨rfl, rfl, rfl, rfl, rfl, fun e he => ?_, fun r hr => ?_, fun k hk => ?_, bit_raise (by decide) _, ?_⟩
  · simpa using (List.mem_filter.mp he).2
  · simpa using (List.mem_filter.mp hr).2
  · simpa using (List.mem_filter.mp hk).2
  · exact reported_owed _ _ _ (commitFreed_clerk duration (settleRebuilds s))

/-- Settles O26: each command of a step's life, as it is refused and as it is accepted. -/
theorem stepSealCommit : Obligations.StepSealCommit := by
  unfold Obligations.StepSealCommit
  refine ⟨fun s slot m v ready => ⟨fun l count next read => ?opened, fun refused => ?unopened⟩,
    fun s slot m ready => ⟨fun opened unsealed => ?sealed, fun refused => ?unsealed⟩,
    fun s ready => ?done,
    fun s slot m ready sealed done alone lambda => ⟨fun first => ?first, fun j redo => ?redo⟩,
    fun s slot m ready refused => ⟨_, commit_refused ready refused, (settle_mbx _).trans (postFinal_mbx rfl m _ _), settle_ldg _⟩,
    fun s q duration finish runs sealed => commitDone_frees s q duration finish runs sealed⟩
  case opened =>
    refine ⟨_, stepOpen_opened ready count next read, ?_⟩
    beta_reduce
    rw [settle_mbx, settle_tables, settle_ldg]
    refine ⟨postFinal_mbx (openStepAt_mbx _ l _) m _ _, fun tid x e hx he => openStepAt_named _ hx he, fun known => ?_⟩
    obtain ⟨pen, n, log, ledger⟩ := openStepAt_ldg (s := untake slot s) known (bits (arg m 1) 0 32) l
    rw [postFinal_ldg, ledger]
    exact ⟨rfl, rfl, rfl, rfl, rfl, rfl, rfl⟩
  case unopened =>
    exact ⟨_, stepOpen_refused v ready refused, (settle_mbx _).trans (postFinal_mbx rfl m _ _), settle_ldg _, settle_tables _⟩
  case sealed =>
    refine ⟨_, seal_accepted ready opened unsealed, ?_⟩
    beta_reduce
    rw [settle_mbx, settle_clerk, settle_ldg]
    exact ⟨accept_mbx rfl m, rfl, rfl⟩
  case unsealed =>
    exact ⟨_, seal_refused ready refused, (settle_mbx _).trans (postFinal_mbx rfl m _ _), settle_ldg _⟩
  case done =>
    refine ⟨_, sealDone_fires ready, (reported_ldg _ _ _ _).trans (raise_ldg _ _), ?_, reported_owed _ _ _ (raise_clerk _ _)⟩
    rw [reported_event]
    exact bit_raise (by decide) _
  case first =>
    refine ⟨_, commit_accepted ready sealed done alone lambda, ?_⟩
    beta_reduce
    rw [settle_mbx, settle_ldg, settle_tables, commitStart_first ((commitBegun_redoJournal slot m s _).trans first)]
    refine ⟨commitBegun_mbx slot m s, ?_, rfl, rfl, rfl, ?_, ?_, _, rfl, rfl, rfl, rfl, rfl⟩
    · exact congrArg Ledger.committing (commitBegun_ldg slot m s)
    · exact congrArg (fun l => l.commit.applied) (commitBegun_ldg slot m s)
    · exact congrArg (List.map _) (commitBegun_tables slot m s)
  case redo =>
    refine ⟨_, commit_accepted ready sealed done alone lambda, ?_⟩
    beta_reduce
    rw [settle_mbx, settle_tables, commitStart_redo ((commitBegun_redoJournal slot m s _).trans redo)]
    have sent : OnlyIn [.events, .ports, .cols, .ldg, .asy, .hbmStacks, .span, .counts] (startRedo j (commitBegun slot m s))
        (advance (resendRecoded j (startRedo j (commitBegun slot m s)))) :=
      (advance_only _).step (by decide) ((resendRecoded_only j _).mono (by decide))
    have answered : (startRedo j (commitBegun slot m s)).mbx = acceptedMbx s slot m := commitBegun_mbx slot m s
    refine ⟨Eq.trans (sent.same .mbx (by decide)) answered, ?_⟩
    rw [sent.same .tables (by decide)]
    exact congrArg (List.map _) (commitBegun_tables slot m s)

end Sys2Proof.Machine

/-! SUPPORT. The fold unit: what each operation of a fold leaves in the Ledger, and the statement about LEDGER_FOLD. -/

namespace Sys2Proof.Machine

open Sys2Proof

/-! ## What leaves the Ledger as it is -/

@[simp] theorem countEv_ldg (i code x : Nat) (s : State) : (countEv i code x s).ldg = s.ldg := rfl
@[simp] theorem countEv_hbm (i code x : Nat) (s : State) : (countEv i code x s).hbm = s.hbm := rfl
@[simp] theorem cleanBlocks_ldg (b n : Nat) (s : State) : (cleanBlocks b n s).ldg = s.ldg := rfl
@[simp] theorem larderUe_ldg (b : Nat) (s : State) : (larderUe b s).ldg = s.ldg := raise_ldg _ _
@[simp] theorem fwdMod_ldg (map : Nat) (f : FwdCounts → FwdCounts) (s : State) : (fwdMod map f s).ldg = s.ldg :=
  (fwdMod_only map f s).same .ldg (by decide)
@[simp] theorem partialTaken_ldg (runs : List Nat) (s : State) : (partialTaken runs s).ldg = s.ldg :=
  (partialTaken_only runs s).same .ldg (by decide)
@[simp] theorem partialTaken_hbm (runs : List Nat) (s : State) : (partialTaken runs s).hbm = s.hbm :=
  (partialTaken_only runs s).same .hbm (by decide)
@[simp] theorem markRuns_ldg (f : Fate) (runs : List Nat) (s : State) : (markRuns f runs s).ldg = s.ldg :=
  (markRuns_only f runs s).same .ldg (by decide)
@[simp] theorem markRuns_hbm (f : Fate) (runs : List Nat) (s : State) : (markRuns f runs s).hbm = s.hbm :=
  (markRuns_only f runs s).same .hbm (by decide)
@[simp] theorem countDeferred_hbm (d : Bool) (s : State) : (countDeferred d s).hbm = s.hbm :=
  (countDeferred_only d s).same .hbm (by decide)
@[simp] theorem setFilter_hbm (key : RowKey) (step : Nat) (s : State) : (setFilter key step s).hbm = s.hbm :=
  (setFilter_only key step s).same .hbm (by decide)
@[simp] theorem noteLate_hbm (f : Fate) (pre : Bool) (s : State) : (noteLate f pre s).hbm = s.hbm :=
  (noteLate_only f pre s).same .hbm (by decide)

/-! ## What changes in it -/

/-- LATE_ARRIVAL is armed or not; nothing else of the Ledger follows from a late contribution (R233). -/
theorem noteLate_ldg (f : Fate) (pre : Bool) (s : State) : ∃ prior armed,
    (noteLate f pre s).ldg = { s.ldg with latePrior := prior, lateArmed := armed } := by
  unfold noteLate
  split
  · exact ⟨_, _, rfl⟩
  · split
    · split
      · exact ⟨_, _, raise_ldg _ _⟩
      · exact ⟨_, _, rfl⟩
    · split
      · exact ⟨_, _, raise_ldg _ _⟩
      · exact ⟨_, _, rfl⟩

theorem countDeferred_ldg (d : Bool) (s : State) : ∃ n, (countDeferred d s).ldg = { s.ldg with deferred := n } := by
  unfold countDeferred
  split
  · exact ⟨_, rfl⟩
  · exact ⟨_, rfl⟩

theorem setFilter_ldg (key : RowKey) (step : Nat) (s : State) : ∃ opened sealed,
    (setFilter key step s).ldg = { s.ldg with filterOpen := opened, filterSealed := sealed } := by
  unfold setFilter
  dsimp only
  split
  · exact ⟨_, _, rfl⟩
  · exact ⟨_, _, rfl⟩

/-- An uncorrectable record changes its entry only (R299). -/
theorem meetRecord_ldg (key : RowKey) (step : Nat) (s : State) :
    (meetRecord key step s).ldg = { s.ldg with entries := (meetRecord key step s).ldg.entries } := by
  unfold meetRecord
  split
  · rfl
  · split
    · rfl
    · dsimp only
      rw [larderUe_ldg]

/-- What the record of a key reads as depends on the entries and the Larder, and on nothing else of the Ledger. -/
theorem meetRecord_entries {s t : State} (entries : t.ldg.entries = s.ldg.entries) (larder : t.lrd = s.lrd) (key : RowKey)
    (step : Nat) : (meetRecord key step t).ldg.entries = (meetRecord key step s).ldg.entries := by
  have entry : entryOf t key step = entryOf s key step := by simp only [entryOf, entries]
  have poison : poisonIn t = poisonIn s := by unfold poisonIn; rw [larder]
  have base : ledgerBase t = ledgerBase s := by simp only [ledgerBase, keptBase, replicaBase, larder]
  unfold meetRecord
  rw [entry, poison, base]
  split
  · exact entries
  · split
    · exact entries
    · dsimp only
      rw [larderUe_ldg, larderUe_ldg, entries]

/-! ### Entries -/

@[simp] theorem LEntry.fold_pos (e : LEntry) (c : Contrib) (d : Bool) : (e.fold c d).pos = e.pos := by
  unfold LEntry.fold; dsimp only; split <;> rfl
@[simp] theorem LEntry.fold_key (e : LEntry) (c : Contrib) (d : Bool) : (e.fold c d).key = e.key := by
  unfold LEntry.fold; dsimp only; split <;> rfl
@[simp] theorem LEntry.fold_step (e : LEntry) (c : Contrib) (d : Bool) : (e.fold c d).step = e.step := by
  unfold LEntry.fold; dsimp only; split <;> rfl
theorem LEntry.fold_acc {e : LEntry} (h : e.bad = false) (c : Contrib) (d : Bool) :
    (e.fold c d).acc = addAt (1024 * c.slice) e.acc c.vals := by
  simp [LEntry.fold, h]

/-- A fold changes the entries of its key and step, and DEFERRED. -/
theorem foldEntry_ldg (c : Contrib) (step : Nat) (d : Bool) (s : State) : ∃ n, (foldEntry c step d s).ldg =
    { s.ldg with entries := s.ldg.entries.map (fun e => if e.key == c.key && e.step == step then e.fold c d else e), deferred := n } := by
  obtain ⟨n, counted⟩ := countDeferred_ldg d { s with ldg := { s.ldg with
    entries := lmap s.ldg.entries (fun e => e.key == c.key && e.step == step) (fun e => e.fold c d) } }
  exact ⟨n, counted⟩

theorem createEntry_ldg (c : Contrib) (step pos dim : Nat) (s : State) : ∃ e : LEntry,
    (createEntry c step pos dim s).ldg = { s.ldg with entries := s.ldg.entries ++ [e] } ∧
      e.pos = pos ∧ e.key = c.key ∧ e.step = step ∧ e.bad = false ∧ e.acc = List.replicate dim 0 :=
  ⟨_, rfl, rfl, rfl, rfl, rfl, rfl⟩

/-- Where a key has no entry for a step, no entry answers to both. -/
theorem entryOf_none {s : State} {key : RowKey} {step : Nat} (h : (entryOf s key step).isSome = false) :
    ∀ e ∈ s.ldg.entries, (e.key == key && e.step == step) = false := by
  have absent : s.ldg.entries.find? (fun e => e.key == key && e.step == step) = none := by simpa [entryOf] using h
  intro e he
  simpa using List.find?_eq_none.mp absent e he

/-- The first contribution of a key is added to a fresh entry of zeros and to no other (R217, R220). -/
theorem foldEntry_createEntry {s : State} {c : Contrib} {step : Nat} (h : (entryOf s c.key step).isSome = false) (pos dim : Nat)
    (d : Bool) : ∃ n, ∃ e : LEntry, (foldEntry c step d (createEntry c step pos dim s)).ldg =
      { s.ldg with entries := s.ldg.entries ++ [e], deferred := n } ∧
      e.pos = pos ∧ e.key = c.key ∧ e.step = step ∧ e.acc = addAt (1024 * c.slice) (List.replicate dim 0) c.vals := by
  obtain ⟨e, created, hpos, hkey, hstep, sound, zeros⟩ := createEntry_ldg c step pos dim s
  obtain ⟨n, folded⟩ := foldEntry_ldg c step d (createEntry c step pos dim s)
  refine ⟨n, e.fold c d, ?_, by simp [hpos], by simp [hkey], by simp [hstep], by rw [LEntry.fold_acc sound, zeros]⟩
  have others : s.ldg.entries.map (fun x => if x.key == c.key && x.step == step then x.fold c d else x) = s.ldg.entries := by
    refine (List.map_congr_left fun x hx => ?_).trans (List.map_id _)
    simp [entryOf_none h x hx]
  rw [folded, created]
  simp only [List.map_append, others]
  simp [hkey, hstep]

/-! ### Spill records -/

/-- The spill record of a contribution, at the free slot of the spill area (R225). -/
def spillOf (s : State) (c : Contrib) (step : Nat) (d : Bool) : Spill :=
  { place := spillPlace s, step := step, key := c.key, slice := c.slice, deferred := d, tokens := c.tokens, contrib := c.contrib,
    elems := c.vals.map (fun x => (toBf16 x).1) }

/-- The state in which the record is written, before the filter and the counts follow. -/
def spillWritten (c : Contrib) (step : Nat) (d : Bool) (s : State) : State :=
  hbmWrite (spillAddr s (spillPlace s)) (spillBytes (spillOf s c step d)) { s with ldg := { s.ldg with
    spills := s.ldg.spills ++ [spillOf s c step d], spilled := true,
    spillRecords := if s.ldg.openStep.isNone || s.ldg.openStep == some step then satAdd 32 s.ldg.spillRecords 1
      else s.ldg.spillRecords } }

theorem spillOut_eq (c : Contrib) (step : Nat) (d : Bool) (s : State) : spillOut c step d s =
    countEv islLedger 0x402 1 (countDeferred d (setFilter c.key step (spillWritten c step d s))) := rfl

theorem spillOut_ldg (c : Contrib) (step : Nat) (d : Bool) (s : State) : ∃ k opened sealed n, (spillOut c step d s).ldg =
    { s.ldg with spills := s.ldg.spills ++ [spillOf s c step d], spilled := true, spillRecords := k, filterOpen := opened,
                 filterSealed := sealed, deferred := n } := by
  obtain ⟨n, counted⟩ := countDeferred_ldg d (setFilter c.key step (spillWritten c step d s))
  obtain ⟨opened, sealed, filtered⟩ := setFilter_ldg c.key step (spillWritten c step d s)
  refine ⟨(spillWritten c step d s).ldg.spillRecords, opened, sealed, n, ?_⟩
  rw [spillOut_eq, countEv_ldg, counted, filtered]
  rfl

theorem spillOut_hbm (c : Contrib) (step : Nat) (d : Bool) (s : State) : (spillOut c step d s).hbm =
    (hbmWrite (spillAddr s (spillPlace s)) (spillBytes (spillOf s c step d)) s).hbm := by
  rw [spillOut_eq, countEv_hbm, countDeferred_hbm, setFilter_hbm]
  rfl

/-! ### Discards -/

theorem discard_ldg (c : Contrib) (why : DropReason) (s : State) : ∃ log,
    (discard c why s).ldg = { s.ldg with dropped := satAdd 24 s.ldg.dropped 1, dropLog := log } := by
  unfold discard
  dsimp only
  split
  · obtain ⟨log, dropped⟩ := dropPartial_ldg c.key c.step _ (fwdMod _ _ s)
    exact ⟨log, dropped.trans (by rw [fwdMod_ldg])⟩
  · exact dropPartial_ldg c.key c.step _ s

theorem losePen_ldg (b : Nat) (s : State) : (losePen b s).ldg = { s.ldg with dropped := satAdd 24 s.ldg.dropped 1 } :=
  larderUe_ldg _ _

/-! ## Where a contribution folds -/

theorem foldInto_entry {s : State} {c : Contrib} {step : Nat} (h : (entryOf s c.key step).isSome = true) (d pre : Bool) (pos : Nat) :
    foldInto c step d pre pos s = some (foldEntry c step d (meetRecord c.key step s)) := if_pos h

section NoEntry

variable {s : State} {c : Contrib} {step : Nat} {pre : Bool} (h : (entryOf s c.key step).isSome = false)

include h

theorem foldInto_created (room : entryRoom s (((mget s.tables c.key.tid).map Table.dim).getD 0) = true) {pos : Nat}
    (free : posFree s pos = true) (d : Bool) : foldInto c step d pre pos s =
      some (foldEntry c step d (createEntry c step pos (((mget s.tables c.key.tid).map Table.dim).getD 0) s)) := by
  simp [foldInto, h, room, free]

theorem foldInto_spilled (full : entryRoom s (((mget s.tables c.key.tid).map Table.dim).getD 0) = false)
    (room : spillRoom s pre = true) (d : Bool) (pos : Nat) :
    foldInto c step d pre pos s = some (spillOut c step d s) := by
  simp [foldInto, h, full, room]

theorem foldInto_waits (full : entryRoom s (((mget s.tables c.key.tid).map Table.dim).getD 0) = false)
    (spilled : spillRoom s pre = false) (d : Bool) (pos : Nat) : foldInto c step d pre pos s = none := by
  simp [foldInto, h, full, spilled]

end NoEntry

/-! ## The head of the input -/

/-- The state in which the head of the input is taken. -/
def headTaken (rest : List Contrib) (s : State) : State :=
  { s with ldg := { s.ldg with input := rest, beforeSeal := s.ldg.beforeSeal - 1 } }

theorem ledgerFold_head {s : State} {c : Contrib} {rest : List Contrib} (idle : duePos s = none) (first : s.ldg.input = c :: rest)
    (pos : Nat) : exec (.ledgerFold pos false) s = .next (foldHead c rest pos s) := by
  change Host.Outcome.next (foldNext pos s) = _
  simp [foldNext, idle, first]

/-- A head that need not wait is taken: its fate is carried out, and at most LATE_ARRIVAL's arming changes beside it. -/
theorem foldHead_taken {s u : State} {c : Contrib} {rest : List Contrib} {pos : Nat} {f : Fate}
    (fate : fateOf s c (decide (0 < s.ldg.beforeSeal)) = f)
    (settled : settleFate c f (decide (0 < s.ldg.beforeSeal)) pos (headTaken rest s) = some u) : ∃ prior armed,
      (foldHead c rest pos s).ldg = { u.ldg with latePrior := prior, lateArmed := armed } ∧ (foldHead c rest pos s).hbm = u.hbm := by
  subst fate
  have taken : foldHead c rest pos s = noteLate (fateOf s c (decide (0 < s.ldg.beforeSeal))) (decide (0 < s.ldg.beforeSeal))
      (markRuns (fateOf s c (decide (0 < s.ldg.beforeSeal))) c.runs (partialTaken c.runs u)) := by
    unfold foldHead
    dsimp only
    unfold headTaken at settled
    rw [settled]
  obtain ⟨prior, armed, noted⟩ := noteLate_ldg (fateOf s c (decide (0 < s.ldg.beforeSeal))) (decide (0 < s.ldg.beforeSeal))
    (markRuns (fateOf s c (decide (0 < s.ldg.beforeSeal))) c.runs (partialTaken c.runs u))
  refine ⟨prior, armed, ?_, ?_⟩
  · rw [taken, noted, markRuns_ldg, partialTaken_ldg]
  · rw [taken, noteLate_hbm, markRuns_hbm, partialTaken_hbm]

theorem foldHead_foldWaits {s : State} {c : Contrib} {rest : List Contrib} {pos n : Nat} {d : Bool}
    (fate : fateOf s c (decide (0 < s.ldg.beforeSeal)) = .fold n d)
    (waits : settleFate c (.fold n d) (decide (0 < s.ldg.beforeSeal)) pos (headTaken rest s) = none) :
    foldHead c rest pos s = s := by
  unfold foldHead
  dsimp only
  unfold headTaken at waits
  rw [fate, waits]

theorem foldHead_penWaits {s : State} {c : Contrib} {rest : List Contrib} {pos : Nat} {h : PenHold} {d : Bool}
    (fate : fateOf s c (decide (0 < s.ldg.beforeSeal)) = .pen h d)
    (waits : settleFate c (.pen h d) (decide (0 < s.ldg.beforeSeal)) pos (headTaken rest s) = none) :
    foldHead c rest pos s = { s with ldg := { s.ldg with penFull := true } } := by
  unfold foldHead
  dsimp only
  unfold headTaken at waits
  rw [fate, waits]

/-! ## The holding pen -/

/-- The state in which a contribution has left the pen. -/
def penTaken (i : Nat) (s : State) : State := { s with ldg := { s.ldg with pen := s.ldg.pen.eraseIdx i } }

theorem ledgerFold_pen {s : State} {c : Contrib} {i : Nat} (due : duePos s = some i) (held : s.ldg.pen[i]? = some c) (pos : Nat) :
    exec (.ledgerFold pos false) s = .next (foldPen i c pos s) := by
  change Host.Outcome.next (foldNext pos s) = _
  simp [foldNext, due, held]

theorem foldPen_poisoned {s : State} {c : Contrib} {b : Nat} (h : penPoison s c = some b) (i pos : Nat) :
    foldPen i c pos s = losePen b (penTaken i s) := by
  unfold foldPen
  dsimp only
  rw [h]
  rfl

/-- A due contribution of a step whose place and entry are there folds into the entry (R232). -/
theorem foldPen_entry {s : State} {c : Contrib} {n : Nat} (sound : penPoison s c = none) (held : c.hold = .step n)
    (placed : placeFate s c = none) (entry : (entryOf s c.key n).isSome = true) (i pos : Nat) :
    foldPen i c pos s = foldEntry c n c.deferred (meetRecord c.key n (penTaken i s)) := by
  have fate : penFate s c = .fold n c.deferred := by simp [penFate, held, placed]
  have folds : settleFate c (.fold n c.deferred) (penPre s c) pos (penTaken i s) =
      some (foldEntry c n c.deferred (meetRecord c.key n (penTaken i s))) := foldInto_entry (s := penTaken i s) entry _ _ _
  unfold penTaken at folds ⊢
  unfold foldPen
  dsimp only
  rw [sound, fate, folds]
  simp [held]

/-! ## Index words -/

theorem loseEntry_lost {s : State} {e : LEntry} (mem : e ∈ s.ldg.entries) (free : e.issued = false) :
    loseEntry e.pos s = raise evEccUncorrectable { s with ldg := { s.ldg with
      entries := s.ldg.entries.filter (fun x => !(x.pos == e.pos && !x.issued)), dropped := satAdd 24 s.ldg.dropped 1 } } := by
  refine if_pos (List.any_eq_true.mpr ⟨e, mem, ?_⟩)
  simp [free]

/-- An entry that the Day Book holds stays (R570; assumption log 46). -/
theorem loseEntry_kept {s : State} {pos : Nat} (h : ∀ e ∈ s.ldg.entries, e.pos = pos → e.issued = true) : loseEntry pos s = s := by
  refine if_neg fun lost => ?_
  obtain ⟨e, mem, mine⟩ := List.any_eq_true.mp lost
  simp only [Bool.and_eq_true, beq_iff_eq, Bool.not_eq_true'] at mine
  exact absurd (h e mem mine.1) (by simp [mine.2])

/-! ## The statement -/

section Head

variable {s : State} {c : Contrib} {rest : List Contrib} {pos : Nat} (idle : duePos s = none) (first : s.ldg.input = c :: rest)

include idle first

/-- The head of the input is taken: the Ledger and the HBM are then as its fate leaves them. -/
theorem ledgerFold_taken {f : Fate} {u : State} (fate : fateOf s c (decide (0 < s.ldg.beforeSeal)) = f)
    (settled : settleFate c f (decide (0 < s.ldg.beforeSeal)) pos (headTaken rest s) = some u) : ∃ t prior armed,
      exec (.ledgerFold pos false) s = .next t ∧ t.ldg = { u.ldg with latePrior := prior, lateArmed := armed } ∧ t.hbm = u.hbm := by
  obtain ⟨prior, armed, ledger, hbm⟩ := foldHead_taken fate settled
  exact ⟨_, prior, armed, ledgerFold_head idle first pos, ledger, hbm⟩

section Fold

variable {n : Nat} {d : Bool} (fate : fateOf s c (decide (0 < s.ldg.beforeSeal)) = .fold n d)

include fate

theorem ledgerFold_entry (entry : (entryOf s c.key n).isSome = true) : Leads (exec (.ledgerFold pos false) s) (fun t =>
    t.ldg.input = rest ∧ t.ldg.beforeSeal = s.ldg.beforeSeal - 1 ∧ t.ldg.spills = s.ldg.spills ∧ t.ldg.pen = s.ldg.pen ∧
    t.ldg.entries = (meetRecord c.key n s).ldg.entries.map
      (fun e => if e.key == c.key && e.step == n then e.fold c d else e)) := by
  obtain ⟨t, prior, armed, next, ledger, -⟩ := ledgerFold_taken (pos := pos) idle first fate
    (foldInto_entry (s := headTaken rest s) entry d _ pos)
  obtain ⟨k, folded⟩ := foldEntry_ldg c n d (meetRecord c.key n (headTaken rest s))
  have entries : (meetRecord c.key n (headTaken rest s)).ldg.entries = (meetRecord c.key n s).ldg.entries :=
    meetRecord_entries (s := s) (t := headTaken rest s) rfl rfl c.key n
  refine ⟨t, next, ?_⟩
  beta_reduce
  rw [ledger, folded, meetRecord_ldg, entries]
  exact ⟨rfl, rfl, rfl, rfl, rfl⟩

theorem ledgerFold_created (fresh : (entryOf s c.key n).isSome = false)
    (room : entryRoom s (((mget s.tables c.key.tid).map Table.dim).getD 0) = true) (free : posFree s pos = true) :
    Leads (exec (.ledgerFold pos false) s) (fun t => t.ldg.input = rest ∧ t.ldg.spills = s.ldg.spills ∧
      ∃ e, t.ldg.entries = s.ldg.entries ++ [e] ∧ e.pos = pos ∧ e.key = c.key ∧ e.step = n ∧
        e.acc = addAt (1024 * c.slice) (List.replicate (((mget s.tables c.key.tid).map Table.dim).getD 0) 0) c.vals) := by
  obtain ⟨t, prior, armed, next, ledger, -⟩ := ledgerFold_taken (pos := pos) idle first fate
    (foldInto_created (s := headTaken rest s) fresh room free d)
  obtain ⟨k, e, created, at_pos, of_key, of_step, acc⟩ := foldEntry_createEntry (s := headTaken rest s) fresh pos
    (((mget (headTaken rest s).tables c.key.tid).map Table.dim).getD 0) d
  refine ⟨t, next, ?_⟩
  beta_reduce
  rw [ledger, created]
  exact ⟨rfl, rfl, e, rfl, at_pos, of_key, of_step, acc⟩

theorem ledgerFold_spilled (fresh : (entryOf s c.key n).isSome = false)
    (full : entryRoom s (((mget s.tables c.key.tid).map Table.dim).getD 0) = false)
    (room : spillRoom s (decide (0 < s.ldg.beforeSeal)) = true) :
    Leads (exec (.ledgerFold pos false) s) (fun t => t.ldg.input = rest ∧ t.ldg.entries = s.ldg.entries ∧
      t.ldg.spilled = true ∧ t.ldg.spills = s.ldg.spills ++ [spillOf s c n d] ∧
      t.hbm = (hbmWrite (spillAddr s (spillPlace s)) (spillBytes (spillOf s c n d)) s).hbm) := by
  obtain ⟨t, prior, armed, next, ledger, hbm⟩ := ledgerFold_taken (pos := pos) idle first fate
    (foldInto_spilled (s := headTaken rest s) fresh full room d pos)
  obtain ⟨k, opened, sealed, count, spilled⟩ := spillOut_ldg c n d (headTaken rest s)
  refine ⟨t, next, ?_⟩
  beta_reduce
  rw [ledger, hbm, spilled]
  exact ⟨rfl, rfl, rfl, rfl, spillOut_hbm c n d (headTaken rest s)⟩

theorem ledgerFold_waits (fresh : (entryOf s c.key n).isSome = false)
    (full : entryRoom s (((mget s.tables c.key.tid).map Table.dim).getD 0) = false)
    (spilled : spillRoom s (decide (0 < s.ldg.beforeSeal)) = false) : exec (.ledgerFold pos false) s = .next s := by
  rw [ledgerFold_head idle first pos, foldHead_foldWaits fate (foldInto_waits (s := headTaken rest s) fresh full spilled d pos)]

end Fold

theorem ledgerFold_dropped {why : DropReason} (fate : fateOf s c (decide (0 < s.ldg.beforeSeal)) = .drop why) :
    Leads (exec (.ledgerFold pos false) s) (fun t => t.ldg.input = rest ∧ t.ldg.entries = s.ldg.entries ∧
      t.ldg.pen = s.ldg.pen ∧ t.ldg.dropped = satAdd 24 s.ldg.dropped 1) := by
  obtain ⟨t, prior, armed, next, ledger, -⟩ := ledgerFold_taken (pos := pos) idle first fate rfl
  obtain ⟨log, dropped⟩ := discard_ldg c why (headTaken rest s)
  refine ⟨t, next, ?_⟩
  beta_reduce
  rw [ledger, dropped]
  exact ⟨rfl, rfl, rfl, rfl⟩

section Pen

variable {h : PenHold} {d : Bool} (fate : fateOf s c (decide (0 < s.ldg.beforeSeal)) = .pen h d)

include fate

theorem ledgerFold_penned {b : Nat} (room : penPlace s c.bytes = some b) :
    Leads (exec (.ledgerFold pos false) s) (fun t => t.ldg.input = rest ∧ t.ldg.entries = s.ldg.entries ∧
      t.ldg.pen = s.ldg.pen ++ [{ c with hold := h, deferred := d, runs := if h.keepsRuns then c.runs else [], block := b }]) := by
  obtain ⟨t, prior, armed, next, ledger, -⟩ := ledgerFold_taken (pos := pos) idle first fate (congrArg (Option.map _) room)
  refine ⟨t, next, ?_⟩
  beta_reduce
  rw [ledger]
  exact ⟨rfl, rfl, rfl⟩

theorem ledgerFold_penFull (full : penPlace s c.bytes = none) : Leads (exec (.ledgerFold pos false) s) (fun t =>
    t.ldg = { s.ldg with penFull := true } ∧ t.qh = s.qh) := by
  refine ⟨_, ledgerFold_head idle first pos, ?_⟩
  beta_reduce
  rw [foldHead_penWaits fate (congrArg (Option.map _) full)]
  exact ⟨rfl, rfl⟩

end Pen

end Head

theorem ledgerFold_due {s : State} {c : Contrib} {i pos n : Nat} (due : duePos s = some i) (held : s.ldg.pen[i]? = some c)
    (sound : penPoison s c = none) (ofStep : c.hold = .step n) (placed : placeFate s c = none)
    (entry : (entryOf s c.key n).isSome = true) :
    Leads (exec (.ledgerFold pos false) s) (fun t => t.ldg.pen = s.ldg.pen.eraseIdx i ∧ t.ldg.input = s.ldg.input ∧
      t.ldg.entries = (meetRecord c.key n s).ldg.entries.map
        (fun e => if e.key == c.key && e.step == n then e.fold c c.deferred else e)) := by
  obtain ⟨k, folded⟩ := foldEntry_ldg c n c.deferred (meetRecord c.key n (penTaken i s))
  have entries : (meetRecord c.key n (penTaken i s)).ldg.entries = (meetRecord c.key n s).ldg.entries :=
    meetRecord_entries (s := s) (t := penTaken i s) rfl rfl c.key n
  refine ⟨_, ledgerFold_pen due held pos, ?_⟩
  beta_reduce
  rw [foldPen_entry sound ofStep placed entry, folded, meetRecord_ldg, entries]
  exact ⟨rfl, rfl, rfl⟩

theorem ledgerFold_poisoned {s : State} {c : Contrib} {i pos b : Nat} (due : duePos s = some i) (held : s.ldg.pen[i]? = some c)
    (poison : penPoison s c = some b) :
    Leads (exec (.ledgerFold pos false) s) (fun t => t.ldg.pen = s.ldg.pen.eraseIdx i ∧ t.ldg.input = s.ldg.input ∧
      t.ldg.entries = s.ldg.entries ∧ t.ldg.dropped = satAdd 24 s.ldg.dropped 1 ∧ t.ldg.dropLog = s.ldg.dropLog) := by
  refine ⟨_, ledgerFold_pen due held pos, ?_⟩
  beta_reduce
  rw [foldPen_poisoned poison, losePen_ldg]
  exact ⟨rfl, rfl, rfl, rfl, rfl⟩

theorem ledgerFold_lost {s : State} {e : LEntry} (mem : e ∈ s.ldg.entries) (free : e.issued = false) :
    Leads (exec (.ledgerFold e.pos true) s) (fun t =>
      t.ldg.entries = s.ldg.entries.filter (fun x => !(x.pos == e.pos && !x.issued)) ∧
      t.ldg.dropped = satAdd 24 s.ldg.dropped 1 ∧ t.ldg.dropLog = s.ldg.dropLog ∧ t.ldg.input = s.ldg.input ∧
      t.ldg.pen = s.ldg.pen ∧ bit t.gbl.event evEccUncorrectable = true) := by
  refine ⟨loseEntry e.pos s, rfl, ?_⟩
  beta_reduce
  rw [loseEntry_lost mem free, raise_ldg]
  exact ⟨rfl, rfl, rfl, rfl, rfl, bit_raise (by decide) _⟩

/-- Settles O28: the head of the input by its fate and the room there is, a due contribution of the pen, an index word lost. Where
a spill record goes and that an issued entry stays are the model's choices (assumption logs 36 and 46). -/
theorem ledgerFolds : Obligations.LedgerFolds := by
  unfold Obligations.LedgerFolds
  refine ⟨fun s c rest pos n d idle first fate => ⟨ledgerFold_entry idle first fate, ?created, ?spilled, ?waits⟩,
    fun s c rest pos why idle first fate => ledgerFold_dropped idle first fate,
    fun s c rest pos h d idle first fate => ⟨fun b room => ledgerFold_penned idle first fate room, ledgerFold_penFull idle first fate⟩,
    fun s c i pos due held => ⟨fun n sound ofStep placed entry => ledgerFold_due due held sound ofStep placed entry,
      fun b poison => ledgerFold_poisoned due held poison⟩,
    fun s e mem free => ledgerFold_lost mem free,
    fun s pos issued => congrArg Host.Outcome.next (loseEntry_kept issued)⟩
  case created =>
    rintro dim fresh rfl room free
    exact ledgerFold_created idle first fate fresh room free
  case spilled =>
    rintro dim r fresh rfl full room rfl
    exact ledgerFold_spilled idle first fate fresh full room
  case waits =>
    rintro dim fresh rfl full spilled
    exact ledgerFold_waits idle first fate fresh full spilled

end Sys2Proof.Machine

/-! SUPPORT. This K40's own requests: how a packet leaves, how a request ends, and the statement about their timers. -/

namespace Sys2Proof.Machine

open Sys2Proof

/-! ## Sending a packet -/

theorem trySend_here {s : State} {d : Nat} (h : d = self s) (b : PktBody) :
    trySend (mkPkt s d b) s = some (deliver (mkPkt s d b) s) := if_pos h

theorem trySend_away {s : State} {d : Nat} (h : d ≠ self s) (b : PktBody) :
    trySend (mkPkt s d b) s = (routePort s d).map (fun p => joinQueue [] p (mkPkt s d b) s) := if_neg h

/-- A READ that leaves is delivered here or joins its port's queue; the requests stay as they are. -/
theorem trySend_read {s : State} {node : Nat} (reach : node = self s ∨ (routePort s node).isSome = true) (p : ReadPkt) :
    ∃ u, trySend (mkPkt s node (.read p)) s = some u ∧ u.span.retry = s.span.retry ∧ u.span.reqs = s.span.reqs := by
  by_cases here : node = self s
  · exact ⟨_, trySend_here here _, rfl, rfl⟩
  · obtain ⟨port, route⟩ := Option.isSome_iff_exists.mp (reach.resolve_left here)
    exact ⟨joinQueue [] port (mkPkt s node (.read p)) s, by rw [trySend_away here, route]; rfl, rfl, rfl⟩

theorem sendRead_sent {s : State} {node : Nat} (reach : node = self s ∨ (routePort s node).isSome = true) (p : ReadPkt)
    (purpose : ReqFor) : ∃ t, sendRead node p purpose s = some t ∧ t.span.retry = s.span.retry ∧
      t.span.reqs = s.span.reqs ++ [{ tag := p.tag, node := node, pkt := p, purpose := purpose }] := by
  obtain ⟨u, sent, retry, reqs⟩ := trySend_read reach p
  exact ⟨_, congrArg (Option.map _) sent, retry, congrArg (· ++ _) reqs⟩

theorem sendRead_unsent {s : State} {node : Nat} (away : node ≠ self s) (unrouted : routePort s node = none) (p : ReadPkt)
    (purpose : ReqFor) : sendRead node p purpose s = none := by
  unfold sendRead
  rw [trySend_away away, unrouted]
  rfl

/-! ## A request that ends -/

/-- Where no refresh runs, a request that has ended moves none on (R512). -/
theorem stepRefresh_none {s : State} (h : s.lrd.refresh = none) : stepRefresh s = s := by
  unfold stepRefresh
  rw [h]

theorem answerMill_lrd (c m pos : Nat) (key : RowKey) (slice : Nat) (st : Status) (prov : Bool) (d : Option RowSlice) (s : State) :
    (answerMill c m pos key slice st prov d s).lrd = s.lrd := (answerMill_only c m pos key slice st prov d s).same .lrd (by decide)

theorem failMigration_lrd (map tid row : Nat) (s : State) : (failMigration map tid row s).lrd = s.lrd :=
  (failMigration_only map tid row s).same .lrd (by decide)

theorem failReq_mill {s : State} {q : Req} {c m pos slice : Nat} (h : q.purpose = .mill c m pos slice)
    (idle : s.lrd.refresh = none) (st : Status) :
    failReq q st s = answerMill c m pos (readKeyOf q.pkt) slice st false none (freeReq q s) := by
  unfold failReq
  rw [h]
  exact stepRefresh_none ((congrArg Larder.refresh (answerMill_lrd _ _ _ _ _ _ _ _ _)).trans idle)

theorem failReq_migrate {s : State} {q : Req} {map tid row slice : Nat} (h : q.purpose = .migrate map tid row slice)
    (idle : s.lrd.refresh = none) (st : Status) : failReq q st s = failMigration map tid row (freeReq q s) := by
  unfold failReq
  rw [h]
  exact stepRefresh_none ((congrArg Larder.refresh (failMigration_lrd _ _ _ _)).trans idle)

theorem remoteReadTimeout_fails {s : State} {k : Nat} {q : Req} (h : s.span.reqs.find? (fun q => q.tag % 16384 == k) = some q) :
    exec (.remoteReadTimeout k) s = .next (failReq q .remoteTimeout s) := by
  change execRemoteReadTimeout k s = _
  unfold execRemoteReadTimeout
  rw [h]

/-! ## A promotion asked for again -/

/-- The remote rows of a column's wait list that have no notice yet, each with its bag (R381). -/
def unnoticed (s : State) (col : Nat) : List (WaitBag × WaitRow) :=
  (colOf s col).wait.flatMap (fun w => (w.rows.filter (fun x => !x.noticed && !x.isLocal)).map (fun x => (w, x)))

theorem unnoticed_remote {s : State} {col idx : Nat} {w : WaitBag} {x : WaitRow} (h : (unnoticed s col)[idx]? = some (w, x)) :
    x.isLocal = false := by
  have mem := List.mem_of_getElem? h
  simp only [unnoticed, List.mem_flatMap, List.mem_map, List.mem_filter] at mem
  obtain ⟨_, _, y, ⟨_, waits⟩, same⟩ := mem
  cases same
  simpa using (Bool.and_eq_true_iff.mp waits).2

theorem promoteResend_asks {s : State} {col idx : Nat} {w : WaitBag} {x : WaitRow} {r : Run}
    (h : (unnoticed s col)[idx]? = some (w, x)) (run : runOf s w.ord = some r) : exec (.promoteResend col idx) s =
      .next (if (askPromotion col r.desc.step x s).2 = true then (askPromotion col r.desc.step x s).1
        else absentWait col x.key (askPromotion col r.desc.step x s).1) := by
  unfold unnoticed at h
  change execPromoteResend col idx s = _
  unfold execPromoteResend
  simp only [h, run]

theorem askPromotion_sent {s t : State} {x : WaitRow} {step : Nat} (remote : x.isLocal = false)
    (sent : trySend (mkPkt s x.home (.promote (keyPkt x.key (stepBefore step)))) s = some t) (col : Nat) :
    askPromotion col step x s = (t, true) := by
  simp [askPromotion, remote, sent]

theorem askPromotion_absent {s : State} {x : WaitRow} {step : Nat} (remote : x.isLocal = false)
    (lost : trySend (mkPkt s x.home (.promote (keyPkt x.key (stepBefore step)))) s = none) (col : Nat) :
    askPromotion col step x s = (noteAbsent x.home s, false) := by
  simp [askPromotion, remote, lost]

/-- A promotion that leaves: the packet to the row's home names the step before the Run's (R143, R381). -/
theorem promoteResend_sent {s t : State} {col idx : Nat} {w : WaitBag} {x : WaitRow} {r : Run}
    (h : (unnoticed s col)[idx]? = some (w, x)) (run : runOf s w.ord = some r)
    (sent : trySend (mkPkt s x.home (.promote (keyPkt x.key (stepBefore r.desc.step)))) s = some t) :
    exec (.promoteResend col idx) s = .next t := by
  rw [promoteResend_asks h run, askPromotion_sent (unnoticed_remote h) sent]
  rfl

theorem promoteResend_absent {s : State} {col idx : Nat} {w : WaitBag} {x : WaitRow} {r : Run}
    (h : (unnoticed s col)[idx]? = some (w, x)) (run : runOf s w.ord = some r)
    (lost : trySend (mkPkt s x.home (.promote (keyPkt x.key (stepBefore r.desc.step)))) s = none) :
    exec (.promoteResend col idx) s = .next (absentWait col x.key (noteAbsent x.home s)) := by
  rw [promoteResend_asks h run, askPromotion_absent (unnoticed_remote h) lost]
  rfl

/-! ## Migration reads -/

/-- A shard moves on by one position, with the rows that are on their way from it. -/
def positionTaken (l : List MigRow) (x : Inbound) : Inbound := { x with next := x.next + 1, rows := x.rows ++ l }

/-- The home map with a shard moved on. -/
def inboundMoved (map : Nat) (i : Inbound) (l : List MigRow) (s : State) : State :=
  mapMod map (fun m => { m with inbound := lmap m.inbound (fun x => x.shard == i.shard && x.tid == i.tid) (positionTaken l) }) s

/-- The identifier of the row at the position read next. -/
def inboundRow (t : Table) (i : Inbound) : Nat := unmixRow t (i.shard * 2 ^ (t.hbits - 16) + i.next)

/-- The home that loses a shard. -/
def losingHome (m : HomeMap) (i : Inbound) : Nat := (m.old.map (fun o => nodeOfShard o.1 i.shard)).getD 0

/-- A row that is on its way. -/
def rowOnItsWay (t : Table) (i : Inbound) : MigRow :=
  { tid := i.tid, row := inboundRow t i, pos := i.next, got := [], written := false, failed := false }

/-- The READs of the row at the next position, sent or not. -/
def rowReads (map : Nat) (m : HomeMap) (i : Inbound) (t : Table) (k : Nat) (s : State) : Option State :=
  sendSlices map (losingHome m i) t i.tid k m.epoch (inboundRow t i) (openStepNo s) (List.range (sliceCount t.dim)) s

section Issue

variable {s : State} {map : Nat} {m : HomeMap} {i : Inbound} {t : Table} (runs : spanRuns s = true)
  (installed : mget s.maps map = some m) (next : nextInbound s m = some i) (there : mget s.tables i.tid = some t)

include runs installed next there

theorem migrationReadIssue_idle (inactive : activeSlot t = none) :
    exec (.migrationReadIssue map) s = .next (settleInbound map (inboundMoved map i [] s)) := by
  change execMigrationReadIssue map s = _
  unfold execMigrationReadIssue
  simp only [runs, if_true, installed, next, there, inactive]
  rfl

variable {k : Nat} (active : activeSlot t = some k)

include active

theorem migrationReadIssue_passed (beyond : (vslot t k).rows ≤ inboundRow t i) :
    exec (.migrationReadIssue map) s = .next (settleInbound map (inboundMoved map i [] s)) := by
  unfold inboundRow at beyond
  change execMigrationReadIssue map s = _
  unfold execMigrationReadIssue
  simp only [runs, if_true, installed, next, there, active, beyond]
  rfl

variable (within : inboundRow t i < (vslot t k).rows) (few : migInFlight s + sliceCount t.dim ≤ 1024)
  (free : inFlight s + sliceCount t.dim ≤ 16384)

include within few free

theorem migrationReadIssue_sent {u : State} (sent : rowReads map m i t k s = some u) :
    exec (.migrationReadIssue map) s = .next (inboundMoved map i [rowOnItsWay t i] u) := by
  unfold rowReads inboundRow losingHome at sent
  unfold inboundRow at within
  change execMigrationReadIssue map s = _
  unfold execMigrationReadIssue
  simp only [runs, if_true, installed, next, there, active, Nat.not_le.mpr within, Nat.not_lt.mpr few, Nat.not_lt.mpr free, or_self,
    if_false, sent]
  rfl

theorem migrationReadIssue_absent (lost : rowReads map m i t k s = none) (unreached : routePort s (losingHome m i) = none) :
    exec (.migrationReadIssue map) s = .next (failMigration map i.tid (inboundRow t i)
      (inboundMoved map i [rowOnItsWay t i] (noteAbsent (losingHome m i) s))) := by
  unfold rowReads inboundRow losingHome at lost
  unfold inboundRow at within
  unfold losingHome at unreached
  change execMigrationReadIssue map s = _
  unfold execMigrationReadIssue
  simp only [runs, if_true, installed, next, there, active, Nat.not_le.mpr within, Nat.not_lt.mpr few, Nat.not_lt.mpr free, or_self,
    if_false, lost, unreached, Option.isNone_none]
  rfl

end Issue

/-- The state in which a refused migration READ is taken up again. -/
def retryTaken (idx : Nat) (s : State) : State := { s with span := { s.span with retry := s.span.retry.eraseIdx idx } }

section Retry

variable {s : State} {idx tag : Nat} {q : Req} (runs : spanRuns s = true) (refused : s.span.retry[idx]? = some q)
  (slot : freeTag s = some tag) (few : inFlight s < 16384)

include runs refused slot few

theorem migrationReadRetry_sent {u : State} (sent : sendRead q.node { q.pkt with tag := tag } q.purpose (retryTaken idx s) = some u) :
    exec (.migrationReadRetry idx) s = .next u := by
  unfold retryTaken at sent
  change execMigrationReadRetry idx s = _
  unfold execMigrationReadRetry
  simp only [runs, if_true, refused, slot, Nat.not_le.mpr few, if_false, sent]

theorem migrationReadRetry_absent (lost : sendRead q.node { q.pkt with tag := tag } q.purpose (retryTaken idx s) = none) :
    exec (.migrationReadRetry idx) s = .next (failReq q .homeAbsent (noteAbsent q.node (retryTaken idx s))) := by
  unfold retryTaken at lost ⊢
  change execMigrationReadRetry idx s = _
  unfold execMigrationReadRetry
  simp only [runs, if_true, refused, slot, Nat.not_le.mpr few, if_false, lost]

end Retry

/-! ## The statement -/

/-- Settles O41: each timer, by where the packet it sends can go. -/
theorem requestTimers : Obligations.RequestTimers := by
  unfold Obligations.RequestTimers
  refine ⟨fun s f k q late freed => ?timeout, fun s col idx w x r row run => ⟨?here, ?away, ?absent⟩,
    fun s map losing row m i t moved runs installed next there hlosing hrow hmoved => ?issue,
    fun s u idx tag q runs refused slot few hu => ⟨fun reach => ?again, fun away unrouted => ?unreached⟩⟩
  case timeout =>
    have tagOf : q.tag % 16384 = k := by simpa using List.find?_some late
    have fEq : f = freeReq q s := by
      rw [freed, freeReq, tagOf]
      rfl
    rw [fEq, remoteReadTimeout_fails late]
    exact ⟨rfl, fun c m pos slice mill idle => congrArg _ (failReq_mill mill idle _),
      fun map tid row slice migrate idle => congrArg _ (failReq_migrate migrate idle _)⟩
  case here => exact fun here => promoteResend_sent row run (trySend_here here _)
  case away =>
    intro p away route
    exact promoteResend_sent row run ((trySend_away away _).trans (by rw [route]; rfl))
  case absent =>
    intro away route
    exact promoteResend_absent row run ((trySend_away away _).trans (by rw [route]; rfl))
  case issue =>
    subst hlosing hrow hmoved
    exact ⟨fun inactive => migrationReadIssue_idle runs installed next there inactive,
      fun k active beyond => migrationReadIssue_passed runs installed next there active beyond,
      fun k active within few free => ⟨fun u sent => migrationReadIssue_sent runs installed next there active within few free sent,
        fun lost route => migrationReadIssue_absent runs installed next there active within few free lost route⟩⟩
  case again =>
    obtain ⟨t, sent, retry, reqs⟩ := sendRead_sent (s := retryTaken idx s) reach { q.pkt with tag := tag } q.purpose
    exact ⟨t, migrationReadRetry_sent runs refused slot few sent, retry, reqs⟩
  case unreached =>
    subst hu
    exact migrationReadRetry_absent runs refused slot few (sendRead_unsent (s := retryTaken idx s) away unrouted _ _)

end Sys2Proof.Machine

/-! SUPPORT. The tables and their version slots: what each operation on a descriptor leaves at its TID and at every other. -/

namespace Sys2Proof.Machine

open Sys2Proof

@[simp] theorem postFinal_tables (slot : Nat) (m : Msg) (st : Status) (p : List W64) (s : State) :
    (postFinal slot m st p s).tables = s.tables := rfl

/-- A command that is ready leaves the state that it reaches from the one in which its message is no longer taken. -/
theorem cmdStep_does {s u : State} {op slot : Nat} {m : Msg} {f : Msg → State → State} (h : Ready s op slot m)
    (does : f m (untake slot s) = u) : cmdStep op slot s f = .next (settle u) := by
  rw [cmdStep_ready h, does]

/-! ## Version slots -/

@[simp] theorem vslot_setVslot_same (t : Table) (i : Nat) (v : VSlot) : vslot (setVslot t i v) i = v := by
  unfold vslot setVslot
  split <;> rfl

/-- The two slots of a table are apart: a change of one leaves the other. -/
theorem vslot_setVslot_other {i j : Nat} (h : i = 0 ↔ j ≠ 0) (t : Table) (v : VSlot) : vslot (setVslot t i v) j = vslot t j := by
  unfold vslot setVslot
  by_cases first : i = 0
  · simp [first, h.mp first]
  · have second : j = 0 := not_not.mp (mt h.mpr first)
    simp [first, second]

@[simp] theorem setVslot_active (t : Table) (i : Nat) (v : VSlot) : (setVslot t i v).active = t.active := by
  unfold setVslot
  split <;> rfl

@[simp] theorem setVslot_destroying (t : Table) (i : Nat) (v : VSlot) : (setVslot t i v).destroying = t.destroying := by
  unfold setVslot
  split <;> rfl

/-! ## Descriptors -/

theorem liveTable_iff {s : State} {tid : Nat} {x : Table} :
    liveTable s tid = some x ↔ mget s.tables tid = some x ∧ x.destroying = false := by
  unfold liveTable
  split
  next t there =>
    rw [there]
    by_cases gone : t.destroying = true
    · rw [if_pos gone]
      refine ⟨fun h => (nomatch h), fun ⟨h, lives⟩ => ?_⟩
      cases h
      exact absurd (gone.symm.trans lives) (by decide)
    · rw [if_neg gone]
      refine ⟨fun h => ?_, fun ⟨h, _⟩ => h⟩
      cases h
      exact ⟨rfl, by simpa using gone⟩
  next absent => simp [absent]

theorem tableMod_tables {s : State} {tid : Nat} {t : Table} (h : mget s.tables tid = some t) (f : Table → Table) :
    (tableMod tid f s).tables = mset s.tables tid (f t) := by
  unfold tableMod
  rw [h]

theorem withTable_live {s : State} {tid : Nat} {t : Table} (h : liveTable s tid = some t) (slot : Nat) (m : Msg)
    (f : Table → State) : withTable slot m tid s f = f t := by
  unfold withTable
  rw [h]

theorem withTable_absent {s : State} {tid : Nat} (h : liveTable s tid = none) (slot : Nat) (m : Msg) (f : Table → State) :
    withTable slot m tid s f = postFinal slot m .tableAbsent [] s := by
  unfold withTable
  rw [h]

/-! ## A slot that takes its storage (R73, R74, R668) -/

theorem openSlot_tables {s : State} {tid : Nat} {t : Table} (h : mget s.tables tid = some t) (i rows shelves : Nat)
    (p : Placement) : ∃ v : VSlot, (openSlot tid i rows shelves p s).tables = mset s.tables tid (setVslot t i v) ∧
      v.state = .loading ∧ v.rows = rows ∧ v.shelves = shelves ∧ v.dirLoc = p.dir ∧ v.refs = 0 ∧ v.used = [] := by
  have there : mget (forgetSlot tid i s).tables tid = some t := h
  unfold openSlot
  dsimp only
  rw [there]
  exact ⟨_, (asySpanStart_only _ _ _).same .tables (by decide), rfl, rfl, rfl, rfl, rfl, rfl⟩

/-- A new table stands at its TID, slot 0 LOADING; the others are as they were. -/
theorem createTable_tables (bs : List Byte) (p : Placement) (s : State) : ∃ v : VSlot,
    (createTable bs p s).tables =
      mset (mset s.tables (fieldOf bs 0 0 12) (tableOf bs)) (fieldOf bs 0 0 12) (setVslot (tableOf bs) 0 v) ∧
      v.state = .loading ∧ v.rows = fieldOf bs 6 0 41 ∧ v.dirLoc = p.dir ∧ v.refs = 0 ∧ v.used = [] := by
  obtain ⟨v, tables, state, rows, -, dir, refs, used⟩ :=
    openSlot_tables (s := asyMod (fieldOf bs 0 0 12)
      (fun _ => { AsyCounts.zero with spans := if s.ldg.committing then [(spanCommit, (0, false))] else [] })
      { s with tables := mset s.tables (fieldOf bs 0 0 12) (tableOf bs),
               shutters := s.shutters.filter (fun x => !(x.kind == 1 && x.num == fieldOf bs 0 0 12)) })
      (mget_mset_same s.tables (fieldOf bs 0 0 12) (tableOf bs)) 0 (fieldOf bs 6 0 41) (fieldOf bs 7 0 24) p
  exact ⟨v, tables, state, rows, dir, refs, used⟩

/-! ## A slot or a table that goes (R39, R76) -/

/-- A table as the end of a slot's last reference leaves it: a slot that was DRAINING is EMPTY (R76). -/
def settledTable (t : Table) (slot : Nat) : Table :=
  if (vslot t slot).state = .draining ∧ (vslot t slot).refs = 0 then freeSlot t slot else t

theorem settleSlot_tables {s : State} {tid : Nat} {t : Table} (h : mget s.tables tid = some t) (slot : Nat) :
    (settleSlot tid slot s).tables = if (settledTable t slot).destroying ∧ (settledTable t slot).slot0.refs = 0 ∧
      (settledTable t slot).slot1.refs = 0 then mdel s.tables tid else mset s.tables tid (settledTable t slot) := by
  obtain ⟨u, reached, kept⟩ : ∃ u, (if (vslot t slot).state = .draining ∧ (vslot t slot).refs = 0 then forgetSlot tid slot s
      else s) = u ∧ u.tables = s.tables := ⟨_, rfl, by split <;> rfl⟩
  unfold settleSlot
  rw [h]
  dsimp only
  rw [reached, ← settledTable, ← kept]
  split <;> rfl

theorem settleSlot_others {tid k : Nat} (h : k ≠ tid) (slot : Nat) (s : State) :
    mget (settleSlot tid slot s).tables k = mget s.tables k := by
  cases there : mget s.tables tid with
  | none => simp only [settleSlot, there]
  | some t =>
    rw [settleSlot_tables there]
    split
    · exact mget_mdel_other _ _ _ h
    · exact mget_mset_other _ _ _ _ h

/-- A table that is DESTROYING goes with its last reference (R39). -/
theorem settleSlot_destroying {s : State} {tid slot : Nat} {t : Table} (h : mget s.tables tid = some t)
    (undrained : (vslot t slot).state ≠ .draining) (gone : t.destroying = true) : mget (settleSlot tid slot s).tables tid =
      if t.slot0.refs = 0 ∧ t.slot1.refs = 0 then none else some t := by
  have same : settledTable t slot = t := if_neg fun drains => undrained drains.1
  rw [settleSlot_tables h, same]
  simp only [gone, true_and]
  split
  · exact mget_mdel_same _ _
  · exact mget_mset_same _ _ _

end Sys2Proof.Machine

/-! SUPPORT. TABLE_CREATE, TABLE_DESCRIBE, TABLE_DESTROY and LOAD_START: the state each leaves. -/

namespace Sys2Proof.Machine

open Sys2Proof

/-! ## TABLE_CREATE -/

section Create

variable {s : State} {slot : Nat} {m : Msg} {v : ChipView} {p : Placement} {bs : List Byte} (ready : Ready s 0x0501 slot m)
  (read : clerkRead s v m.ctx (bits (arg m 1) 0 56) 256 = .ok bs)

include ready read

theorem tableCreate_refused (h : createOk s bs p.other = false) :
    exec (.tableCreate slot v p) s = .next (settle (postFinal slot m .badDescriptor [] (untake slot s))) := by
  change execTableCreate slot v p s = _
  unfold execTableCreate
  rw [show takenCmd s 0x0501 slot isSlow = _ from ready]
  simp only [read, h, Bool.not_false, if_true]
  exact cmdStep_ready ready _

theorem tableCreate_accepted (h : createOk s bs p.other = true) (placed : placementOk s (heldRegions s none)
    (regionsAt (placesOf p) (slotSizes s (tableOf bs) (tableOf bs).slot0.shelves)) = true) :
    exec (.tableCreate slot v p) s = .next (settle (postFinal slot m .ok [] (createTable bs p (untake slot s)))) := by
  change execTableCreate slot v p s = _
  unfold execTableCreate
  rw [show takenCmd s 0x0501 slot isSlow = _ from ready]
  simp only [read, h, placed, Bool.not_true, if_true, if_false, Bool.false_eq_true]
  exact cmdStep_ready ready _

end Create

theorem createTable_mbx (bs : List Byte) (p : Placement) (s : State) : (createTable bs p s).mbx = s.mbx :=
  (createTable_only bs p s).same .mbx (by decide)

/-! ## TABLE_DESCRIBE -/

theorem tableDescribe_there {s : State} {slot : Nat} {m : Msg} {x : Table} (ready : Ready s 0x0502 slot m)
    (there : mget s.tables (bits (arg m 1) 0 12) = some x) (v : ChipView) :
    exec (.tableDescribe slot v) s = .next (settle (clerkResult (untake slot s) v slot m (bits (arg m 2) 0 56)
      (wordsToBytes (descWords (bits (arg m 1) 0 12) x)) [])) := by
  change execTableDescribe slot v s = _
  refine cmdStep_does ready ?_
  simp only [untake_tables, there]

theorem tableDescribe_absent {s : State} {slot : Nat} {m : Msg} (ready : Ready s 0x0502 slot m)
    (absent : mget s.tables (bits (arg m 1) 0 12) = none) (v : ChipView) :
    exec (.tableDescribe slot v) s = .next (settle (postFinal slot m .tableAbsent [] (untake slot s))) := by
  change execTableDescribe slot v s = _
  refine cmdStep_does ready ?_
  simp only [untake_tables, absent]

/-- A result block whose DA is translated: its writes go out and the FINAL waits for them (R507). -/
theorem clerkResult_translated {s : State} {v : ChipView} {slot : Nat} {m : Msg} {da : Nat} {bs : List Byte} {x : Xlat}
    (h : translate s v m.ctx da bs.length true = .ok x) (payload : List W64) :
    (clerkResult (untake slot s) v slot m da bs payload).mbx = awaitingMbx s slot m payload (resultWrites x da bs) := by
  unfold clerkResult
  rw [translate_untake, h]
  have sent (t : State) : (sendResult slot x da bs t).mbx = t.mbx := by
    unfold sendResult
    exact (OnlyIn.foldl (l := [.ports]) (fun t p => chipWrite_only _ _ _ _ t) _ t).same .mbx (by decide)
  exact sent _

theorem clerkResult_tables (s : State) (v : ChipView) (slot : Nat) (m : Msg) (da : Nat) (bs : List Byte) (payload : List W64) :
    (clerkResult s v slot m da bs payload).tables = s.tables := (clerkResult_only s v slot m da bs payload).same .tables (by decide)

/-! ## TABLE_DESTROY -/

/-- The state in which a table has begun to go: DESTROYING, its load spans ended. -/
def destroyBegun (tid : Nat) (s : State) : State :=
  asySpanEnd tid (spanLoad 0) (asySpanEnd tid (spanLoad 1) (tableMod tid (fun t => { t with destroying := true }) s))

theorem destroyBegun_tables {s : State} {tid : Nat} {t : Table} (h : mget s.tables tid = some t) :
    (destroyBegun tid s).tables = mset s.tables tid { t with destroying := true } := tableMod_tables h _

section Destroy

variable {s : State} {slot : Nat} {m : Msg} (ready : Ready s 0x0503 slot m)

include ready

theorem tableDestroy_absent (h : liveTable s (bits (arg m 1) 0 12) = none) :
    exec (.tableDestroy slot) s = .next (settle (postFinal slot m .tableAbsent [] (untake slot s))) := by
  change execTableDestroy slot s = _
  exact cmdStep_does ready (withTable_absent (s := untake slot s) h slot m _)

theorem tableDestroy_held {x : Table} (h : liveTable s (bits (arg m 1) 0 12) = some x)
    (held : holdsEntry s (bits (arg m 1) 0 12) = true) :
    exec (.tableDestroy slot) s = .next (settle (postFinal slot m .badDescriptor [] (untake slot s))) := by
  change execTableDestroy slot s = _
  exact cmdStep_does ready ((withTable_live (s := untake slot s) h slot m _).trans (if_pos held))

theorem tableDestroy_begins {x : Table} (h : liveTable s (bits (arg m 1) 0 12) = some x)
    (free : holdsEntry s (bits (arg m 1) 0 12) = false) :
    exec (.tableDestroy slot) s = .next (settle (postFinal slot m .ok []
      (advance (settleSlot (bits (arg m 1) 0 12) 0 (destroyBegun (bits (arg m 1) 0 12) (untake slot s)))))) := by
  change execTableDestroy slot s = _
  exact cmdStep_does ready ((withTable_live (s := untake slot s) h slot m _).trans (if_neg (Bool.eq_false_iff.mp free)))

end Destroy

theorem advance_mbx (s : State) : (advance s).mbx = s.mbx := (advance_only s).same .mbx (by decide)
theorem advance_tables (s : State) : (advance s).tables = s.tables := (advance_only s).same .tables (by decide)
theorem settleSlot_mbx (tid slot : Nat) (s : State) : (settleSlot tid slot s).mbx = s.mbx :=
  (settleSlot_only tid slot s).same .mbx (by decide)

theorem destroyBegun_mbx (tid : Nat) (s : State) : (destroyBegun tid s).mbx = s.mbx :=
  (tableMod_only tid _ s).same .mbx (by decide)

/-! ## LOAD_START -/

theorem loadStart_accepted {s : State} {slot : Nat} {m : Msg} {p : Placement} {x : Table} (ready : Ready s 0x0504 slot m)
    (live : liveTable s (bits (arg m 1) 0 12) = some x)
    (h : loadStartOk s (bits (arg m 1) 0 12) (bits (arg m 1) 12 1) (bits (arg m 2) 0 41) (bits (arg m 3) 0 24) p.other x = true)
    (placed : placementOk s (heldRegions s (some (bits (arg m 1) 0 12, bits (arg m 1) 12 1)))
      (regionsAt (placesOf p) (slotSizes s x (bits (arg m 3) 0 24))) = true) :
    exec (.loadStart slot p) s = .next (settle (postFinal slot m .ok []
      (openSlot (bits (arg m 1) 0 12) (bits (arg m 1) 12 1) (bits (arg m 2) 0 41) (bits (arg m 3) 0 24) p (untake slot s)))) := by
  change execLoadStart slot p s = _
  unfold execLoadStart
  rw [show takenCmd s 0x0504 slot isSlow = _ from ready]
  simp only [live, h, placed, Bool.not_true, if_true, if_false, Bool.false_eq_true]
  exact cmdStep_ready ready _

theorem openSlot_mbx (tid i rows shelves : Nat) (p : Placement) (s : State) : (openSlot tid i rows shelves p s).mbx = s.mbx :=
  (openSlot_only tid i rows shelves p s).same .mbx (by decide)

/-! ## The statement -/

/-- Settles O22: each command by what it finds. That a DESTROYING table is described still and is absent to TABLE_DESTROY, and that
placements are operands, are the model's choices (assumption logs 17 and 8). -/
theorem tableCommands : Obligations.TableCommands := by
  unfold Obligations.TableCommands
  refine ⟨fun s slot m v p bs ready read => ⟨fun ok placed => ?created, fun refused => ?refused⟩,
    fun s slot m v ready => ⟨fun x y there translated => ?described, fun absent => ?undescribed⟩,
    fun s slot m ready => ⟨fun x live free undrained => ?destroyed, fun x live held => ?held, fun absent => ?absent⟩,
    fun s slot m p x ready live ok placed => ?started⟩
  case created =>
    obtain ⟨w, tables, state, rows, dir, refs, used⟩ := createTable_tables bs p (untake slot s)
    refine ⟨_, tableCreate_accepted ready read ok placed, ?_⟩
    beta_reduce
    rw [settle_mbx, settle_tables]
    rw [postFinal_tables, tables]
    refine ⟨postFinal_mbx (createTable_mbx bs p _) m _ _, ⟨_, mget_mset_same _ _ _, ?_⟩, fun k other => ?_⟩
    · exact ⟨rfl, rfl, rfl, rfl, state, rows, dir, used, refs, rfl⟩
    · rw [mget_mset_other _ _ _ _ other, mget_mset_other _ _ _ _ other]
      rfl
  case refused =>
    exact ⟨_, tableCreate_refused ready read refused, (settle_mbx _).trans (postFinal_mbx rfl m _ _), settle_tables _⟩
  case described =>
    refine ⟨_, tableDescribe_there ready there v, ?_⟩
    beta_reduce
    rw [settle_mbx, settle_tables]
    exact ⟨clerkResult_translated translated [], clerkResult_tables _ v slot m _ _ []⟩
  case undescribed =>
    exact ⟨_, tableDescribe_absent ready absent v, (settle_mbx _).trans (postFinal_mbx rfl m _ _), settle_tables _⟩
  case destroyed =>
    have there : mget (untake slot s).tables (bits (arg m 1) 0 12) = some x := (liveTable_iff.mp live).1
    refine ⟨_, tableDestroy_begins ready live free, ?_⟩
    beta_reduce
    rw [settle_mbx, settle_tables, postFinal_tables, advance_tables]
    refine ⟨postFinal_mbx ((advance_mbx _).trans ((settleSlot_mbx _ _ _).trans (destroyBegun_mbx _ _))) m _ _, ?_, fun k other => ?_⟩
    · have begun : mget (destroyBegun (bits (arg m 1) 0 12) (untake slot s)).tables (bits (arg m 1) 0 12) =
          some { x with destroying := true } := by rw [destroyBegun_tables there, mget_mset_same]
      exact settleSlot_destroying (slot := 0) begun undrained rfl
    · rw [settleSlot_others other, destroyBegun_tables there, mget_mset_other _ _ _ _ other]
      rfl
  case held => exact ⟨_, tableDestroy_held ready live held, (settle_mbx _).trans (postFinal_mbx rfl m _ _), settle_tables _⟩
  case absent => exact ⟨_, tableDestroy_absent ready absent, (settle_mbx _).trans (postFinal_mbx rfl m _ _), settle_tables _⟩
  case started =>
    obtain ⟨w, tables, state, rows, shelves, -, -, used⟩ := openSlot_tables (s := untake slot s) (liveTable_iff.mp live).1
      (bits (arg m 1) 12 1) (bits (arg m 2) 0 41) (bits (arg m 3) 0 24) p
    refine ⟨_, loadStart_accepted ready live ok placed, ?_⟩
    beta_reduce
    rw [settle_mbx, settle_tables]
    rw [postFinal_tables, tables]
    refine ⟨postFinal_mbx (openSlot_mbx _ _ _ _ p _) m _ _, ⟨_, mget_mset_same _ _ _, ?_⟩, fun k other => mget_mset_other _ _ _ _ other⟩
    rw [vslot_setVslot_same]
    exact ⟨state, rows, shelves, used⟩

end Sys2Proof.Machine

/-! SUPPORT. LOAD_ROWS: each record of a run counts once, and a run that ends early ends with an error. -/

namespace Sys2Proof.Machine

open Sys2Proof

/-! ## What ends a run -/

theorem failStatus_ne_ok (e : XlatFail) : failStatus e ≠ .ok := by
  cases e <;> simp [failStatus]

theorem clerkRead_error {s : State} {v : ChipView} {ci da n : Nat} {e : Status} (h : clerkRead s v ci da n = .error e) : e ≠ .ok := by
  unfold clerkRead at h
  split at h
  next fail _ =>
    cases h
    exact failStatus_ne_ok fail
  · dsimp only at h
    split at h
    · cases h
      decide
    · cases h

/-! ## The counts -/

/-- Records that a run has counted, as written, as another node's or as out of range (R511). -/
def LoadRun.counted (k : LoadRun) : Nat := k.written + k.notHome + k.outOfRange

/-- After `n` records a run has counted all of them, or it has ended with an error before it counted them all. -/
def LoadRun.Tallies (n : Nat) (k : LoadRun) : Prop :=
  (k.ended = none ∧ k.counted = n) ∨ ∃ st, k.ended = some st ∧ st ≠ .ok ∧ k.counted < n

theorem LoadRun.Tallies.ended {n : Nat} {k : LoadRun} (h : k.Tallies n) {st : Status} (early : k.ended = some st) :
    k.Tallies (n + 1) := by
  obtain ⟨whole, _⟩ | ⟨st, ended, error, counted⟩ := h
  · exact absurd (early.symm.trans whole) (by simp)
  · exact .inr ⟨st, ended, error, by omega⟩

theorem LoadRun.Tallies.lost {n : Nat} {k l : LoadRun} {st : Status} (whole : k.ended = none) (h : k.Tallies n) (error : st ≠ .ok)
    (ended : l.ended = some st) (same : l.counted = k.counted) : l.Tallies (n + 1) := by
  obtain ⟨_, counted⟩ | ⟨_, early, _⟩ := h
  · exact .inr ⟨st, ended, error, by omega⟩
  · exact absurd (early.symm.trans whole) (by simp)

theorem LoadRun.Tallies.counts {n : Nat} {k l : LoadRun} (whole : k.ended = none) (h : k.Tallies n) (goes : l.ended = none)
    (one : l.counted = k.counted + 1) : l.Tallies (n + 1) := by
  obtain ⟨_, counted⟩ | ⟨_, early, _⟩ := h
  · exact .inl ⟨goes, by omega⟩
  · exact absurd (early.symm.trans whole) (by simp)

theorem loadOne_tallies {n : Nat} {k : LoadRun} (h : k.Tallies n) (v : ChipView) (ctx da tid i stamp rows : Nat) (hasState : Bool)
    (t : Table) (j : Nat) : (loadOne v ctx da tid i stamp rows hasState t k j).Tallies (n + 1) := by
  cases early : k.ended with
  | some st =>
    have stays : loadOne v ctx da tid i stamp rows hasState t k j = k := if_pos (by simp [early])
    rw [stays]
    exact h.ended early
  | none =>
    unfold loadOne
    rw [if_neg (by simp [early])]
    dsimp only
    split
    next e unread => exact h.lost early (clerkRead_error unread) rfl rfl
    · split
      · exact h.lost early (st := .badDescriptor) (by decide) rfl rfl
      · split
        · exact h.counts early early (by simp only [LoadRun.counted]; omega)
        · exact h.counts early early (by simp only [LoadRun.counted]; omega)
        · split
          · exact h.lost early (st := .badDescriptor) (by decide) rfl rfl
          · exact h.counts early early (by simp only [LoadRun.counted]; omega)

theorem loadAll_tallies (v : ChipView) (ctx da tid i stamp rows : Nat) (hasState : Bool) (t : Table) (js : List Nat) {n : Nat}
    {k : LoadRun} (h : k.Tallies n) : (js.foldl (loadOne v ctx da tid i stamp rows hasState t) k).Tallies (n + js.length) := by
  induction js generalizing n k with
  | nil => exact h
  | cons j js ih =>
    rw [List.length_cons, Nat.add_comm js.length 1, ← Nat.add_assoc]
    exact ih (loadOne_tallies h v ctx da tid i stamp rows hasState t j)

/-- The records of a LOAD_ROWS, from the state that the command finds. -/
def loadAll (v : ChipView) (m : Msg) (t : Table) (s : State) : LoadRun :=
  (List.range (bits (arg m 3) 0 17)).foldl (loadOne v m.ctx (bits (arg m 2) 0 56) (bits (arg m 1) 0 12) (bits (arg m 1) 12 1)
      (bits (arg m 4) 0 32) (vslot t (bits (arg m 1) 12 1)).rows (bit (arg m 1) 13) t)
    { st := s, written := 0, notHome := 0, outOfRange := 0, ended := none }

theorem loadAll_counted (v : ChipView) (m : Msg) (t : Table) (s : State) : (loadAll v m t s).Tallies (bits (arg m 3) 0 17) := by
  have all := loadAll_tallies v m.ctx (bits (arg m 2) 0 56) (bits (arg m 1) 0 12) (bits (arg m 1) 12 1) (bits (arg m 4) 0 32)
    (vslot t (bits (arg m 1) 12 1)).rows (bit (arg m 1) 13) t (List.range (bits (arg m 3) 0 17)) (n := 0)
    (k := { st := s, written := 0, notHome := 0, outOfRange := 0, ended := none }) (.inl ⟨rfl, rfl⟩)
  rwa [List.length_range, Nat.zero_add] at all

theorem loadAll_within (v : ChipView) (m : Msg) (t : Table) (s : State) :
    OnlyIn [.events, .tables, .hbm, .poison, .ports, .asy, .hbmStacks] s (loadAll v m t s).st :=
  loadAll_only v _ _ _ _ _ _ _ t _ { st := s, written := 0, notHome := 0, outOfRange := 0, ended := none }

section LoadRows

variable {s : State} {slot : Nat} {m : Msg} {x : Table} (ready : Ready s 0x0505 slot m)
  (live : liveTable s (bits (arg m 1) 0 12) = some x)

include ready live

theorem loadRows_runs {v : ChipView} {y : Xlat} (least : 1 ≤ bits (arg m 3) 0 17) (most : bits (arg m 3) 0 17 ≤ 65536)
    (loading : (vslot x (bits (arg m 1) 12 1)).state = .loading) (translated : translate s v m.ctx (bits (arg m 2) 0 56)
      (bits (arg m 3) 0 17 * loadBytes x (bit (arg m 1) 13)) false = .ok y) :
    exec (.loadRows slot v) s = .next (settle (postFinal slot m ((loadAll v m x (untake slot s)).ended.getD .ok)
      (words32 [(loadAll v m x (untake slot s)).written, (loadAll v m x (untake slot s)).notHome,
        (loadAll v m x (untake slot s)).outOfRange]) (loadAll v m x (untake slot s)).st)) := by
  change execLoadRows slot v s = _
  refine cmdStep_does ready ((withTable_live (s := untake slot s) live slot m _).trans ?_)
  rw [if_neg (by simp [loading]; omega), translate_untake, translated]
  rfl

theorem loadRows_refused (v : ChipView) (h : (vslot x (bits (arg m 1) 12 1)).state ≠ .loading ∨ bits (arg m 3) 0 17 < 1 ∨
    65536 < bits (arg m 3) 0 17) :
    exec (.loadRows slot v) s = .next (settle (postFinal slot m .badDescriptor [0, 0] (untake slot s))) := by
  change execLoadRows slot v s = _
  refine cmdStep_does ready ((withTable_live (s := untake slot s) live slot m _).trans (if_pos ?_))
  exact (or_assoc.mp h.symm)

end LoadRows

end Sys2Proof.Machine

/-! SUPPORT. LOAD_END, SWITCH and ROW_RESTORE: the slots and the row that each leaves. -/

namespace Sys2Proof.Machine

open Sys2Proof

@[simp] theorem postFinal_hbm (slot : Nat) (m : Msg) (st : Status) (p : List W64) (s : State) :
    (postFinal slot m st p s).hbm = s.hbm := rfl
@[simp] theorem postFinal_moves (slot : Nat) (m : Msg) (st : Status) (p : List W64) (s : State) :
    (postFinal slot m st p s).moves = s.moves := rfl

/-! ## LOAD_END -/

section LoadEnd

variable {s : State} {slot : Nat} {m : Msg} {x : Table} (ready : Ready s 0x0506 slot m)
  (live : liveTable s (bits (arg m 1) 0 12) = some x)

include ready live

theorem loadEnd_loaded (loading : (vslot x (bits (arg m 1) 12 1)).state = .loading)
    (loaded : allLoaded s x (bits (arg m 1) 12 1) = true) :
    exec (.loadEnd slot) s = .next (settle (postFinal slot m .ok [] (asySpanEnd (bits (arg m 1) 0 12)
      (spanLoad (bits (arg m 1) 12 1)) (tableMod (bits (arg m 1) 0 12) (fun t => setVslot t (bits (arg m 1) 12 1)
        { vslot t (bits (arg m 1) 12 1) with state := .standby }) (untake slot s))))) := by
  change execLoadEnd slot s = _
  exact cmdStep_does ready ((withTable_live (s := untake slot s) live slot m _).trans (if_pos ⟨loading, loaded⟩))

theorem loadEnd_refused (h : (vslot x (bits (arg m 1) 12 1)).state ≠ .loading ∨ allLoaded s x (bits (arg m 1) 12 1) = false) :
    exec (.loadEnd slot) s = .next (settle (postFinal slot m .badDescriptor [] (untake slot s))) := by
  change execLoadEnd slot s = _
  refine cmdStep_does ready ((withTable_live (s := untake slot s) live slot m _).trans (if_neg fun ⟨loading, loaded⟩ => ?_))
  exact h.elim (· loading) fun part => Bool.eq_false_iff.mp part loaded

end LoadEnd

/-! ## SWITCH -/

theorem standbySlot_lt {x : Table} {n : Nat} (h : standbySlot x = some n) : n < 2 := by
  unfold standbySlot at h
  split at h
  · cases h
    decide
  · split at h
    · cases h
      decide
    · cases h

/-- The new ACTIVE slot of a switch. -/
theorem vslot_switchTo_new (x : Table) (n : Nat) : (vslot (switchTo n x) n).state = .active :=
  congrArg VSlot.state (vslot_setVslot_same _ n _)

/-- The former ACTIVE slot of a switch drains. -/
theorem vslot_switchTo_old {x : Table} {n : Nat} (small : n < 2) (active : activeSlot x = some (1 - n)) :
    vslot (switchTo n x) (1 - n) = { vslot x (1 - n) with state := .draining } := by
  have apart : n = 0 ↔ 1 - n ≠ 0 := by omega
  unfold switchTo
  rw [active]
  exact (vslot_setVslot_other apart _ _).trans (vslot_setVslot_same x (1 - n) _)

theorem switchTo_destroying (x : Table) (n : Nat) : (switchTo n x).destroying = x.destroying := by
  unfold switchTo
  dsimp only
  rw [setVslot_destroying]
  split
  · exact setVslot_destroying _ _ _
  · rfl

@[simp] theorem settledTable_active (t : Table) (slot : Nat) : (settledTable t slot).active = t.active := by
  unfold settledTable
  split
  · exact setVslot_active _ _ _
  · rfl

@[simp] theorem settledTable_destroying (t : Table) (slot : Nat) : (settledTable t slot).destroying = t.destroying := by
  unfold settledTable
  split
  · exact setVslot_destroying _ _ _
  · rfl

theorem vslot_settledTable_other {i j : Nat} (h : i = 0 ↔ j ≠ 0) (t : Table) : vslot (settledTable t i) j = vslot t j := by
  unfold settledTable
  split
  · exact vslot_setVslot_other h _ _
  · rfl

/-- A DRAINING slot that nothing holds is EMPTY; one that something holds drains on (R76). -/
theorem vslot_settledTable_draining {t : Table} {i : Nat} (h : (vslot t i).state = .draining) :
    (vslot (settledTable t i) i).state = if (vslot t i).refs = 0 then .empty else .draining := by
  unfold settledTable
  simp only [h, true_and]
  split
  · exact congrArg VSlot.state (vslot_setVslot_same _ _ _)
  · exact h

/-- A LIVE table stays where a slot's last reference goes. -/
theorem settleSlot_live {s : State} {tid : Nat} {t : Table} (h : mget s.tables tid = some t) (lives : t.destroying = false)
    (slot : Nat) : mget (settleSlot tid slot s).tables tid = some (settledTable t slot) := by
  rw [settleSlot_tables h, if_neg (by simp [lives])]
  exact mget_mset_same _ _ _

section Switch

variable {s : State} {slot : Nat} {m : Msg} {x : Table} (ready : Ready s 0x0507 slot m)
  (live : liveTable s (bits (arg m 1) 0 12) = some x)

include ready live

theorem switch_accepted {n : Nat} (standby : standbySlot x = some n) (alone : s.ldg.committing = false) :
    exec (.switch slot) s = .next (settle (postFinal slot m .ok [] (settleSlot (bits (arg m 1) 0 12) (1 - n)
      (tableMod (bits (arg m 1) 0 12) (switchTo n) (untake slot s))))) := by
  change execSwitch slot s = _
  refine cmdStep_does ready ((withTable_live (s := untake slot s) live slot m _).trans ?_)
  rw [standby]
  exact if_neg (Bool.eq_false_iff.mp alone)

theorem switch_refused (h : standbySlot x = none ∨ s.ldg.committing = true) :
    exec (.switch slot) s = .next (settle (postFinal slot m .badDescriptor [] (untake slot s))) := by
  change execSwitch slot s = _
  refine cmdStep_does ready ((withTable_live (s := untake slot s) live slot m _).trans ?_)
  split
  · rfl
  next n standby => exact if_pos (h.resolve_left (by simp [standby]))

end Switch

/-! ## ROW_RESTORE -/

section Restore

variable {s : State} {slot : Nat} {m : Msg} {v : ChipView} {x : Table} (ready : Ready s 0x0508 slot m)
  (live : liveTable s (bits (arg m 1) 0 12) = some x)

include ready live

theorem rowRestore_inactive (h : activeSlot x = none) :
    exec (.rowRestore slot v) s = .next (settle (postFinal slot m .badDescriptor [] (untake slot s))) := by
  change execRowRestore slot v s = _
  refine cmdStep_does ready ((withTable_live (s := untake slot s) live slot m _).trans ?_)
  rw [h]

variable {i : Nat} {bs : List Byte} {r : LoadRec} (active : activeSlot x = some i)
  (read : clerkRead s v m.ctx (bits (arg m 2) 0 56) (loadBytes x true) = .ok bs) (record : loadRec x true bs = some r)

include active read record

theorem rowRestore_misplaced (h : loadFate s x (vslot x i).rows r ≠ .write) :
    exec (.rowRestore slot v) s = .next (settle (postFinal slot m .badDescriptor [] (untake slot s))) := by
  change execRowRestore slot v s = _
  refine cmdStep_does ready ((withTable_live (s := untake slot s) live slot m _).trans ?_)
  simp only [active, clerkRead_untake, read, record]
  exact if_pos h

theorem rowRestore_written {u : State} (h : loadFate s x (vslot x i).rows r = .write)
    (written : restoreWrite (bits (arg m 1) 0 12) i (bits (arg m 3) 0 32) x r (untake slot s) = some u) :
    exec (.rowRestore slot v) s = .next (settle (postFinal slot m .ok []
      (advance (restoreCrier (bits (arg m 1) 0 12) i r u)))) := by
  change execRowRestore slot v s = _
  refine cmdStep_does ready ((withTable_live (s := untake slot s) live slot m _).trans ?_)
  simp only [active, clerkRead_untake, read, record, written]
  exact if_neg (not_not.mpr h)

end Restore

/-- The Crier and the phases of a Commit leave the rows and the mailboxes as a restored row finds them. -/
theorem restoredRow_sent (tid i : Nat) (r : LoadRec) (u : State) :
    OnlyIn [.events, .ports, .cols, .ldg, .asy, .hbmStacks, .span, .counts] u (advance (restoreCrier tid i r u)) :=
  (advance_only _).step (by decide) ((restoreCrier_only tid i r u).mono (by decide))

/-! ## The statement -/

/-- Settles O23: LOAD_ROWS by the count of its records, LOAD_END and SWITCH by the states of the slots, ROW_RESTORE by the row's home.
That LOAD_END of a slot that is not LOADING is refused and which of two STANDBY slots a SWITCH takes are the model's choices
(assumption logs 17 and 28). -/
theorem loadSwitchRestore : Obligations.LoadSwitchRestore := by
  unfold Obligations.LoadSwitchRestore
  refine ⟨fun s slot m v x ready live => ⟨fun y least most loading translated => ?loads, fun refused => ?unloadable⟩,
    fun s slot m x ready live => ⟨fun loading loaded => ?loaded, fun refused => ?unloaded⟩,
    fun s slot m x ready live => ⟨fun n standby alone => ?switched, fun refused => ?unswitched⟩,
    fun s slot m v x ready live => ⟨fun i bs r u active read record fate written => ?restored,
      fun i bs r active read record fate => ?misplaced, fun inactive => ?inactive⟩⟩
  case loads =>
    have frame := loadAll_within v m x (untake slot s)
    refine ⟨_, loadRows_runs ready live least most loading translated, _, _, _, _,
      (settle_mbx _).trans (postFinal_mbx (frame.same .mbx (by decide)) m _ _), ?_, ?_, ?_⟩
    · intro ok
      obtain ⟨_, counted⟩ | ⟨st, ended, error, _⟩ := loadAll_counted v m x (untake slot s)
      · exact counted
      · exact absurd (by simpa [ended] using ok) error
    · intro error
      obtain ⟨whole, _⟩ | ⟨st, ended, _, counted⟩ := loadAll_counted v m x (untake slot s)
      · exact absurd (by simp [whole]) error
      · exact counted
    · rw [settle_maps, settle_templates, settle_ldg, settle_qh]
      exact ⟨frame.same .maps (by decide), frame.same .templates (by decide), frame.same .ldg (by decide), frame.same .qh (by decide)⟩
  case unloadable =>
    exact ⟨_, loadRows_refused ready live v refused, (settle_mbx _).trans (postFinal_mbx rfl m _ _), settle_tables _, settle_hbm _⟩
  case loaded =>
    refine ⟨_, loadEnd_loaded ready live loading loaded, (settle_mbx _).trans (postFinal_mbx ?_ m _ _), (settle_tables _).trans ?_⟩
    · exact (tableMod_only _ _ _).same .mbx (by decide)
    · exact tableMod_tables (s := untake slot s) (liveTable_iff.mp live).1 _
  case unloaded =>
    exact ⟨_, loadEnd_refused ready live refused, (settle_mbx _).trans (postFinal_mbx rfl m _ _), settle_tables _⟩
  case switched =>
    obtain ⟨there, lives⟩ := liveTable_iff.mp live
    have small := standbySlot_lt standby
    have switched : mget (tableMod (bits (arg m 1) 0 12) (switchTo n) (untake slot s)).tables (bits (arg m 1) 0 12) =
        some (switchTo n x) := by rw [tableMod_tables (s := untake slot s) there, mget_mset_same]
    refine ⟨_, switch_accepted ready live standby alone, (settle_mbx _).trans (postFinal_mbx ?_ m _ _),
      settledTable (switchTo n x) (1 - n), ?_, settledTable_active _ _, ?_, fun active => ?_⟩
    · exact (settleSlot_mbx _ _ _).trans ((tableMod_only _ _ _).same .mbx (by decide))
    · rw [settle_tables]
      exact settleSlot_live switched ((switchTo_destroying x n).trans lives) (1 - n)
    · rw [vslot_settledTable_other (by omega)]
      exact vslot_switchTo_new x n
    · have old := vslot_switchTo_old small active
      rw [vslot_settledTable_draining (by rw [old]), old]
  case unswitched =>
    exact ⟨_, switch_refused ready live refused, (settle_mbx _).trans (postFinal_mbx rfl m _ _), settle_tables _⟩
  case restored =>
    have sent := restoredRow_sent (bits (arg m 1) 0 12) i r u
    have row := (restoreWrite_only _ i _ x r (untake slot s)).only u written
    refine ⟨_, rowRestore_written ready live active read record fate written, ?_⟩
    beta_reduce
    rw [settle_hbm, settle_tables, settle_moves, settle_mbx, postFinal_hbm, postFinal_tables, postFinal_moves]
    exact ⟨sent.same .hbm (by decide), sent.same .tables (by decide), sent.same .moves (by decide),
      postFinal_mbx (Eq.trans (sent.same .mbx (by decide)) (row.same .mbx (by decide))) m _ _⟩
  case misplaced =>
    exact ⟨_, rowRestore_misplaced ready live active read record fate, (settle_mbx _).trans (postFinal_mbx rfl m _ _), settle_hbm _⟩
  case inactive =>
    exact ⟨_, rowRestore_inactive ready live inactive, (settle_mbx _).trans (postFinal_mbx rfl m _ _), settle_hbm _⟩

end Sys2Proof.Machine

/-! SUPPORT. What the Clerk installs: run templates, the node number, routes and home maps, as each command is refused and accepted. -/

namespace Sys2Proof.Machine

open Sys2Proof

@[simp] theorem postFinal_maps (slot : Nat) (m : Msg) (st : Status) (p : List W64) (s : State) :
    (postFinal slot m st p s).maps = s.maps := rfl

/-! ## Run templates (R114, R516, R517) -/

section Template

variable {s : State} {slot : Nat} {m : Msg} {v : ChipView} (ready : Ready s 0x0601 slot m)

include ready

theorem templateInstall_refused (image : readImage s v m.ctx (bits (arg m 2) 0 56) = .ok none) :
    exec (.templateInstall slot v) s = .next (settle (postFinal slot m .badTemplate [] (untake slot s))) := by
  change execTemplateInstall slot v s = _
  unfold execTemplateInstall
  rw [show takenCmd s 0x0601 slot isSlow = _ from ready]
  simp only [image]
  exact cmdStep_ready ready _

variable {x : Template} (image : readImage s v m.ctx (bits (arg m 2) 0 56) = .ok (some x))

include image

theorem templateInstall_installed (free : templateBusy s (bits (arg m 1) 0 9) = false) :
    exec (.templateInstall slot v) s = .next (settle (postFinal slot m .ok []
      { untake slot s with templates := mset s.templates (bits (arg m 1) 0 9) x })) := by
  change execTemplateInstall slot v s = _
  unfold execTemplateInstall
  rw [show takenCmd s 0x0601 slot isSlow = _ from ready]
  simp only [image, free, if_false, Bool.false_eq_true]
  exact cmdStep_ready ready _

/-- Into a slot whose Runs have not finished the install waits, its message held among the taken ones. -/
theorem templateInstall_waits (busy : templateBusy s (bits (arg m 1) 0 9) = true) :
    exec (.templateInstall slot v) s = .next (holdTaken slot
      { s with clerk := { s.clerk with waiting := some (bits (arg m 1) 0 9, slot, x) } }) := by
  change execTemplateInstall slot v s = _
  unfold execTemplateInstall
  rw [show takenCmd s 0x0601 slot isSlow = _ from ready]
  simp only [image, busy, if_true]

end Template

/-- The waiting template goes into its slot once the slot's Runs have finished. -/
theorem templateInstallComplete_installs {s : State} {n slot : Nat} {x : Template} {k : Taken}
    (waiting : s.clerk.waiting = some (n, slot, x)) (held : s.mbx.taken.find? (fun k => k.slot == slot && k.held) = some k)
    (free : templateBusy s n = false) (runs : clerkRuns s = true) :
    exec (.templateInstallComplete n) s = .next (postFinal slot k.msg .ok [] (untake slot
      { s with clerk := { s.clerk with waiting := none }, templates := mset s.templates n x })) := by
  change execTemplateInstallComplete n s = _
  unfold execTemplateInstallComplete
  rw [waiting]
  dsimp only
  rw [held]
  dsimp only
  rw [if_neg (by simp [free, runs])]

/-! ## NODE_SET and ROUTE_SET (R362, R364, R392) -/

/-- Every Span port is DOWN. -/
theorem portsDown_iff (s : State) :
    (List.range 8).all (fun p => (portAt s p).state == .down) = true ↔ ∀ p < 8, (portAt s p).state = .down := by
  simp only [List.all_eq_true, List.mem_range, beq_iff_eq]

theorem nodeSet_accepted {s : State} {slot : Nat} {m : Msg} (ready : Ready s 0x0801 slot m)
    (down : ∀ p < 8, (portAt s p).state = .down) : exec (.nodeSet slot) s = .next (settle (postFinal slot m .ok []
      { untake slot s with
        span := { s.span with nodeId := bits (arg m 1) 0 14, nodeValid := bit (arg m 1) 14 },
        clerk := { s.clerk with cfgNode := (bits (arg m 1) 0 14, bit (arg m 1) 14) } })) := by
  change execNodeSet slot s = _
  exact cmdStep_does ready (if_pos ((portsDown_iff (untake slot s)).mpr down))

theorem nodeSet_refused {s : State} {slot : Nat} {m : Msg} (ready : Ready s 0x0801 slot m)
    (up : ∃ p < 8, (portAt s p).state ≠ .down) :
    exec (.nodeSet slot) s = .next (settle (postFinal slot m .badDescriptor [] (untake slot s))) := by
  obtain ⟨p, small, notDown⟩ := up
  change execNodeSet slot s = _
  exact cmdStep_does ready (if_neg fun down => notDown ((portsDown_iff (untake slot s)).mp down p small))

/-- A store that lists, among some keys, those with a value other than 0: what it lists a key with, or 0, is the key's value. -/
theorem mgetD_listed (value : Nat → Nat) (keys : List Nat) (i : Nat) :
    mgetD (keys.filterMap (fun k => if value k = 0 then none else some (k, value k))) i 0 = if i ∈ keys then value i else 0 := by
  induction keys with
  | nil => rfl
  | cons k keys ih =>
    by_cases zero : value k = 0
    · rw [List.filterMap_cons, if_pos zero, ih]
      by_cases here : i = k
      · simp [here, zero]
      · simp [here]
    · rw [List.filterMap_cons, if_neg zero]
      by_cases here : i = k
      · simp [mgetD, mget, here]
      · simpa [mgetD, mget, here] using ih

theorem mgetD_routesOf (bs : List Byte) {i : Nat} (h : i < 128) : mgetD (routesOf bs) i 0 = fieldAt bs i 1 :=
  (mgetD_listed (fun k => fieldAt bs k 1) (List.range 128) i).trans (if_pos (List.mem_range.mpr h))

theorem routeSet_installs {s : State} {slot : Nat} {m : Msg} {v : ChipView} {bs : List Byte} (ready : Ready s 0x0803 slot m)
    (read : clerkRead s v m.ctx (bits (arg m 1) 0 56) 256 = .ok bs) : exec (.routeSet slot v) s =
      .next (settle (postFinal slot m .ok [] (installRoutes (routesOf bs) (routesOf (bs.drop 128)) (untake slot s)))) := by
  change execRouteSet slot v s = _
  refine cmdStep_does ready ?_
  rw [clerkRead_untake, read]

/-! ## HOMEMAP_INSTALL (R59, R60, R582, R583) -/

section HomeMap

variable {s : State} {slot other loc : Nat} {m : Msg} {v : ChipView} {bs : List Byte} (ready : Ready s 0x0802 slot m)
  (placed : mapPlaced s (bits (arg m 1) 0 4) loc = true) (read : clerkRead s v m.ctx (bits (arg m 2) 0 56) 131072 = .ok bs)

include ready placed

/-- With a place that the K40 gives it, the command is carried out. -/
theorem homemapInstall_does {u : State} (does : doHomemap v other loc slot m (untake slot s) = u) :
    exec (.homemapInstall slot v ⟨other, loc⟩) s = .next (settle u) := by
  change execHomemapInstall slot v ⟨other, loc⟩ s = _
  unfold execHomemapInstall
  rw [show takenCmd s 0x0802 slot isSlow = _ from ready]
  dsimp only
  rw [if_pos placed]
  exact cmdStep_does ready does

include read

theorem homemapInstall_unsound (unsound : mapSound bs = false) : exec (.homemapInstall slot v ⟨other, loc⟩) s =
    .next (settle (postFinal slot m .badDescriptor [] (untake slot s))) := by
  refine homemapInstall_does ready placed ?_
  unfold doHomemap
  rw [clerkRead_untake, read]
  simp only [unsound, Bool.not_false, if_true]

variable (sound : mapSound bs = true)

include sound

theorem homemapInstall_first (absent : mget s.maps (bits (arg m 1) 0 4) = none) :
    exec (.homemapInstall slot v ⟨other, loc⟩) s = .next (settle (postFinal slot m .ok [] { untake slot s with
      maps := mset s.maps (bits (arg m 1) 0 4) (firstMap loc (mapEntries bs) (bits (arg m 1) 16 16)) })) := by
  refine homemapInstall_does ready placed ?_
  unfold doHomemap
  rw [clerkRead_untake, read]
  simp only [sound, Bool.not_true, if_false, Bool.false_eq_true, untake_maps, absent]

variable {h : HomeMap} (installed : mget s.maps (bits (arg m 1) 0 4) = some h)

include installed

theorem homemapInstall_later (later : epochLater (bits (arg m 1) 16 16) h.epoch = true)
    (accepted : remapOk s (bits (arg m 1) 0 4) h other (mapEntries bs) (bits (arg m 1) 16 16) = true) :
    exec (.homemapInstall slot v ⟨other, loc⟩) s = .next (settle (postFinal slot m .ok []
      (remap (bits (arg m 1) 0 4) h (mapEntries bs) (bits (arg m 1) 16 16) (untake slot s)))) := by
  have free : remapOk (untake slot s) (bits (arg m 1) 0 4) h other (mapEntries bs) (bits (arg m 1) 16 16) = true := accepted
  refine homemapInstall_does ready placed ?_
  unfold doHomemap
  rw [clerkRead_untake, read]
  simp only [sound, Bool.not_true, if_false, Bool.false_eq_true, untake_maps, installed, later, free, or_self]

theorem homemapInstall_refused (refused : epochLater (bits (arg m 1) 16 16) h.epoch = false ∨
    remapOk s (bits (arg m 1) 0 4) h other (mapEntries bs) (bits (arg m 1) 16 16) = false) :
    exec (.homemapInstall slot v ⟨other, loc⟩) s = .next (settle (postFinal slot m .badDescriptor [] (untake slot s))) := by
  have same : remapOk (untake slot s) (bits (arg m 1) 0 4) h other (mapEntries bs) (bits (arg m 1) 16 16) =
      remapOk s (bits (arg m 1) 0 4) h other (mapEntries bs) (bits (arg m 1) 16 16) := rfl
  refine homemapInstall_does ready placed ?_
  unfold doHomemap
  rw [clerkRead_untake, read]
  simp only [sound, Bool.not_true, if_false, Bool.false_eq_true, untake_maps, installed]
  exact if_pos (by simpa [same] using refused)

end HomeMap

/-- A later epoch stands in its map slot, the map before it as the old one; the other map slots are as they were (R583). -/
theorem remap_maps (map : Nat) (h : HomeMap) (entries : AMap Nat) (epoch : Nat) (s : State) : ∃ x : HomeMap,
    (remap map h entries epoch s).maps = mset (mset s.maps map (nextMap h entries epoch)) map x ∧
      x.entries = entries ∧ x.epoch = epoch ∧ x.old = some (h.entries, h.epoch) ∧ x.counts.rowsOut = 0 ∧ x.counts.rowsIn = 0 := by
  have kept (gone : State → Replica → Bool) :
      (retireReplicas (gone (reorderAll map h (nextMap h entries epoch) { s with maps := mset s.maps map (nextMap h entries epoch) }))
        (reorderAll map h (nextMap h entries epoch) { s with maps := mset s.maps map (nextMap h entries epoch) })).maps =
      mset s.maps map (nextMap h entries epoch) :=
    Eq.trans ((retireReplicas_only _ _).same .maps (by decide)) ((reorderAll_only _ _ _ _).same .maps (by decide))
  exact ⟨_, congrArg (fun l => mset l map _) (kept fun s r => !replicaStays s map h.entries entries r), rfl, rfl, rfl, rfl, rfl⟩

/-! ## The statement -/

/-- Settles O24: each install as it is refused, accepted or held. The place of a first map, and what a later epoch is checked against
and opens, are the model's choices (assumption logs 8 and 29). -/
theorem installsByTheClerk : Obligations.InstallsByTheClerk := by
  unfold Obligations.InstallsByTheClerk
  refine ⟨fun s slot m v ready => ⟨fun x image free => ?installed, fun x image busy => ?held, fun image => ?badImage⟩,
    fun s n slot x k waiting held free runs => ?completed,
    fun s slot m ready => ⟨fun down => ?numbered, fun up => ?unnumbered⟩,
    fun s slot m v bs ready read => ?routed,
    fun s slot other loc m v bs ready placed read => ⟨fun unsound => ?unsound, fun sound absent => ?first,
      fun h sound installed later accepted => ?later, fun h sound installed refused => ?refused⟩⟩
  case installed =>
    exact ⟨_, templateInstall_installed ready image free, (settle_mbx _).trans (postFinal_mbx rfl m _ _), settle_templates _⟩
  case held => exact ⟨_, templateInstall_waits ready image busy, rfl, rfl, rfl, rfl⟩
  case badImage =>
    exact ⟨_, templateInstall_refused ready image, (settle_mbx _).trans (postFinal_mbx rfl m _ _), settle_templates _⟩
  case completed =>
    exact ⟨_, templateInstallComplete_installs waiting held free runs, postFinal_mbx rfl k.msg _ _, rfl, rfl⟩
  case numbered => exact ⟨_, nodeSet_accepted ready down, (settle_mbx _).trans (postFinal_mbx rfl m _ _), settle_span _⟩
  case unnumbered => exact ⟨_, nodeSet_refused ready up, (settle_mbx _).trans (postFinal_mbx rfl m _ _), settle_span _⟩
  case routed =>
    refine ⟨_, routeSet_installs ready read, (settle_mbx _).trans (postFinal_mbx rfl m _ _), fun i small => ?_⟩
    rw [settle_span]
    exact ⟨mgetD_routesOf bs small, mgetD_routesOf (bs.drop 128) small⟩
  case unsound =>
    exact ⟨_, homemapInstall_unsound ready placed read unsound, (settle_mbx _).trans (postFinal_mbx rfl m _ _), settle_maps _⟩
  case first =>
    exact ⟨_, homemapInstall_first ready placed read sound absent, (settle_mbx _).trans (postFinal_mbx rfl m _ _), settle_maps _⟩
  case later =>
    obtain ⟨x, maps, installs⟩ := remap_maps (bits (arg m 1) 0 4) h (mapEntries bs) (bits (arg m 1) 16 16) (untake slot s)
    refine ⟨_, homemapInstall_later ready placed read sound installed later accepted, ?_⟩
    beta_reduce
    rw [settle_mbx, settle_maps, postFinal_maps, maps]
    refine ⟨postFinal_mbx ((remap_only _ _ _ _ _).same .mbx (by decide)) m _ _,
      ⟨x, mget_mset_same _ _ _, installs⟩, fun k apart => ?_⟩
    rw [mget_mset_other _ _ _ _ apart, mget_mset_other _ _ _ _ apart]
    rfl
  case refused =>
    exact ⟨_, homemapInstall_refused ready placed read sound installed refused, (settle_mbx _).trans (postFinal_mbx rfl m _ _),
      settle_maps _⟩

end Sys2Proof.Machine

/-! SUPPORT. What sends packets clears no event and leaves the journal of the Day Book: packets that join a queue or turn out to have
no way, notices, the Crier's UPDATEs and marks, and the phases of a Commit that follow. -/

namespace Sys2Proof.Machine

open Sys2Proof

/-- From `s` to `t` no bit of GBL_EVENT is cleared, and the journal stays as it is. -/
structure Quiet (s t : State) : Prop where
  events : ∀ e, bit s.gbl.event e = true → bit t.gbl.event e = true
  journal : t.ldg.journal = s.ldg.journal

/-! ## Steps that are quiet -/

theorem Quiet.refl (s : State) : Quiet s s := ⟨fun _ h => h, rfl⟩

theorem Quiet.trans {a b c : State} (h : Quiet a b) (k : Quiet b c) : Quiet a c :=
  ⟨fun e set => k.events e (h.events e set), k.journal.trans h.journal⟩

theorem Quiet.of_only {l : List Part} {s t : State} (h : OnlyIn l s t) (ev : Part.events ∉ l) (ldg : Part.ldg ∉ l) : Quiet s t := by
  have event : t.gbl.event = s.gbl.event := (h.same .events ev).1
  have ledger : t.ldg = s.ldg := h.same .ldg ldg
  exact ⟨fun e set => by rw [event]; exact set, by rw [ledger]⟩

/-- The Ledger changes, its journal aside, and GBL_EVENT does not. -/
theorem Quiet.of_ldg {s t : State} (events : t.gbl.event = s.gbl.event) (journal : t.ldg.journal = s.ldg.journal) : Quiet s t :=
  ⟨fun e set => by rw [events]; exact set, journal⟩

theorem Quiet.ite {s a b : State} {c : Prop} [Decidable c] (h : Quiet s a) (k : Quiet s b) : Quiet s (if c then a else b) := by
  split
  · exact h
  · exact k

theorem Quiet.foldl {α : Type} {f : State → α → State} (h : ∀ t a, Quiet t (f t a)) : ∀ (xs : List α) (s : State), Quiet s (xs.foldl f s)
  | [], s => .refl s
  | x :: xs, s => (h s x).trans (.foldl h xs (f s x))

/-- An event raised leaves the others as they are, and stays set itself (R655). -/
theorem raise_quiet (e : Nat) (s : State) : Quiet s (raise e s) := by
  refine ⟨fun n set => ?_, congrArg Ledger.journal (raise_ldg e s)⟩
  unfold raise
  rw [evalLines_event]
  simp only [bit, BitVec.getLsbD_or, Bool.or_eq_true] at set ⊢
  exact .inl set

/-! ## The Assayer and the Ledger's counts -/

theorem asyMod_quiet (tid : Nat) (f : AsyCounts → AsyCounts) (s : State) : Quiet s (asyMod tid f s) :=
  .of_only (asyMod_only tid f s) (by decide) (by decide)

theorem satCheck_quiet (tid : Nat) (s : State) : Quiet s (satCheck tid s) := by
  refine .ite (.trans ?_ (raise_quiet _ _)) (.refl s)
  exact .of_ldg rfl rfl

theorem countClamps_quiet (tid n : Nat) (s : State) : Quiet s (countClamps tid n s) :=
  .ite (.refl s) ((asyMod_quiet _ _ s).trans (satCheck_quiet tid _))

theorem noteLocalMax_quiet (tid step : Nat) (shift : Int) (s : State) : Quiet s (noteLocalMax tid step shift s) :=
  .ite (.of_ldg rfl rfl) (.refl s)

theorem commitMod_quiet (f : Commit → Commit) (s : State) : Quiet s (commitMod f s) := .of_ldg rfl rfl

theorem refusePartial_quiet (key : RowKey) (step : Nat) (s : State) : Quiet s (refusePartial key step s) :=
  .ite (.of_ldg rfl rfl) (.of_ldg rfl rfl)

/-! ## Packets -/

theorem portMod_quiet (p : Nat) (f : Port → Port) (s : State) : Quiet s (portMod p f s) := .of_ldg rfl rfl

theorem oweCells_quiet (l : List (Nat × Nat × Nat)) (s : State) : Quiet s (oweCells l s) :=
  .of_only (oweCells_only l s) (by decide) (by decide)

theorem countEv_quiet (i code x : Nat) (s : State) : Quiet s (countEv i code x s) :=
  .of_only (countEv_only i code x s) (by decide) (by decide)

/-- A packet joins a port's queue; a PARTIAL that folds counts what it clamps and rescales. -/
theorem joinQueue_quiet (lent : List (Nat × Nat × Nat)) (port : Nat) (k : Packet) (s : State) :
    Quiet s (joinQueue lent port k s) := by
  unfold joinQueue
  dsimp only
  split
  · split
    · refine .trans ?folded (countClamps_quiet _ _ _)
      refine .trans ?counted (countEv_quiet _ _ _ _)
      refine .trans ?owed (oweCells_quiet _ _)
      refine .trans ?rescaled (.ite (.refl _) (noteLocalMax_quiet _ _ _ _))
      exact .trans (portMod_quiet _ _ s) (.ite (asyMod_quiet _ _ _) (.refl _))
    · exact portMod_quiet _ _ s
  · exact portMod_quiet _ _ s

theorem noteAbsent_quiet (d : Nat) (s : State) : Quiet s (noteAbsent d s) := by
  refine .ite (.refl s) (.trans ?_ (raise_quiet _ _))
  exact .of_ldg rfl rfl

theorem trySend_quiet {k : Packet} {s t : State} (h : trySend k s = some t) : Quiet s t := by
  unfold trySend trySendFrom at h
  split at h
  · cases h
    exact .trans (oweCells_quiet _ s) (portMod_quiet _ _ _)
  · obtain ⟨p, _, rfl⟩ := Option.map_eq_some_iff.mp h
    exact joinQueue_quiet _ _ _ s

theorem trySend_getD_quiet {k : Packet} {s d : State} (h : Quiet s d) : Quiet s ((trySend k s).getD d) := by
  cases sent : trySend k s with
  | none => exact h
  | some t => exact trySend_quiet sent

theorem unreachable_quiet (k : Packet) (s : State) : Quiet s (unreachable k s) := by
  unfold unreachable
  refine (noteAbsent_quiet k.hdr.dest s).trans ?_
  dsimp only
  split
  · exact refusePartial_quiet _ _ _
  · split
    · exact trySend_getD_quiet (noteAbsent_quiet _ _)
    · exact .refl _

theorem sendOwn_quiet (dest : Nat) (b : PktBody) (s : State) : Quiet s (sendOwn dest b s) :=
  trySend_getD_quiet (unreachable_quiet _ s)

/-! ## The Crier -/

theorem crierSend_quiet (node : Nat) (b : Nat → PktBody) (s : State) : Quiet s (crierSend node b s) := by
  have read : Quiet s (readCseq false node s) := .of_only (readCseq_only false node s) (by decide) (by decide)
  refine read.trans (.trans ?_ (sendOwn_quiet node _ _))
  exact .of_ldg rfl rfl

theorem crierRow_quiet (t : Table) (slot : Nat) (key : RowKey) (d : RowSlice) (s : State) : Quiet s (crierRow t slot key d s) :=
  .foldl (fun _ _ => .foldl (fun u _ => .trans (crierSend_quiet _ _ u) (commitMod_quiet _ _)) _ _) _ s

theorem crierKey_quiet (t : Table) (p : RowPlace) (key : RowKey) (s : State) : Quiet s (crierKey t p key s) := by
  unfold crierKey
  split
  · exact crierRow_quiet _ _ _ _ s
  · exact .refl s

theorem crierAt_quiet (tid slot row : Nat) (e : DirEnt) (s : State) : Quiet s (crierAt tid slot row e s) := by
  unfold crierAt
  split
  · exact .refl s
  · refine .ite (.refl s) ?_
    split
    · exact crierRow_quiet _ _ _ _ s
    · exact .refl s

theorem sendMarks_quiet (s : State) : Quiet s (sendMarks s) :=
  .foldl (fun _ _ => .foldl (fun u _ => .trans (crierSend_quiet _ _ u) (commitMod_quiet _ _)) _ _) _ s

/-! ## Notices -/

theorem sendNotice_quiet (q : PromoReq) (s : State) : Quiet s (sendNotice q s) := by
  unfold sendNotice
  split
  · exact .of_ldg rfl rfl
  · exact sendOwn_quiet _ _ s
  · exact .refl s

theorem noticeKey_quiet (key : RowKey) (s : State) : Quiet s (noticeKey key s) :=
  .trans (commitMod_quiet _ s) (.foldl (fun t q => sendNotice_quiet q t) _ _)

theorem noticeAll_quiet (s : State) : Quiet s (noticeAll s) :=
  .trans (commitMod_quiet _ s) (.foldl (fun t q => sendNotice_quiet q t) _ _)

/-! ## The phases of a Commit -/

theorem advanceSpill_quiet (s : State) : Quiet s (advanceSpill s) :=
  .trans (.ite (commitMod_quiet _ s) (.refl s)) (.ite (.trans (commitMod_quiet _ _) (noticeAll_quiet _)) (.refl _))

/-- The phases that move on clear no event. -/
theorem advance_events {s : State} {e : Nat} (h : bit s.gbl.event e = true) : bit (advance s).gbl.event e = true := by
  have settled : bit (settleRebuilds (advanceSpill s)).gbl.event e = true := (advanceSpill_quiet s).events e h
  unfold advance
  dsimp only
  split
  · exact ((commitMod_quiet _ _).trans (sendMarks_quiet _)).events e settled
  · exact settled

end Sys2Proof.Machine

/-! SUPPORT. The units of a Commit: the journal flush, the apply unit by what it reads, promotions and the scans of the spill area. -/

namespace Sys2Proof.Machine

open Sys2Proof

/-! ## JOURNAL_FLUSH_DONE -/

theorem journalFlushDone_flushes {s : State} {j : Journal} (header : s.ldg.journal = some j) (phase : s.ldg.commit.phase = .journal)
    (runs : ledgerRuns s = true) : exec .journalFlushDone s = .next (advance (flushJournal j s)) := by
  change execJournalFlushDone s = _
  unfold execJournalFlushDone
  rw [header]
  exact congrArg Host.Outcome.next (if_pos ⟨phase, runs⟩)

theorem flushJournal_tables (j : Journal) (s : State) : (flushJournal j s).tables = s.tables := by
  have met : (meetEntries (sealedNo s) s).tables = s.tables := (meetEntries_only _ s).same .tables (by decide)
  exact Eq.trans ((writeJournal_only _ _ _).same .tables (by decide)) met

/-! ## APPLY_UNIT -/

theorem applyUnit_applies {s : State} {e : JEntry} (next : nextEntry s.ldg.commit = some e)
    (phase : s.ldg.commit.phase = .apply ∨ s.ldg.commit.phase = .spill) (ready : applyWaits s e.key = false)
    (issues : issueHeld s = false) (bad : Option Nat) (errs : List CwErr) :
    exec (.applyUnit ⟨bad, errs⟩) s = .next (advance (applyEntry e bad errs s)) := by
  change execApplyUnit ⟨bad, errs⟩ s = _
  unfold execApplyUnit
  rw [next]
  exact congrArg Host.Outcome.next (if_pos (by simp [phase, ready, issues]))

/-- What ends a unit (steps 8 and 10 of R261): its entry is marked APPLIED and freed, and the Commit moves on. -/
def unitEnd (key : RowKey) (s : State) : State := advance (freeEntry key (markApplied key s))

theorem unitEnd_only (key : RowKey) (s : State) :
    OnlyIn [.events, .ports, .cols, .ldg, .asy, .hbmStacks, .span, .counts] s (unitEnd key s) :=
  (advance_only _).step (by decide) <| (freeEntry_only _ _).step (by decide) <| (markApplied_only key s).mono (by decide)

theorem unitEnd_events {key : RowKey} {s : State} {e : Nat} (h : bit s.gbl.event e = true) :
    bit (unitEnd key s).gbl.event e = true := advance_events ((noticeKey_quiet key _).events e h)

/-- A unit that has an outcome counts it before it ends. -/
def unitCounted (a : Applied) (s : State) : State := countEv islLedger 0x403 1 (commitMod (countApplied a) s)

theorem unitCounted_only (a : Applied) (s : State) : OnlyIn [.ldg, .counts] s (unitCounted a s) :=
  (countEv_only _ _ _ _).step (by decide) ((commitMod_only _ s).mono (by decide))

/-- Once a unit has its row, what follows leaves the HBM, the tables and the Larder: the Crier, the counts and the end of the unit. -/
theorem unitTold_only (t : Table) (p : RowPlace) (key : RowKey) (a : Applied) (s : State) :
    OnlyIn [.events, .ports, .cols, .ldg, .asy, .hbmStacks, .span, .counts] s
      (unitEnd key (unitCounted a (crierKey t p key s))) :=
  (unitEnd_only key _).step (by decide) <| (unitCounted_only a _).step (by decide) <| (crierKey_only t p key s).mono (by decide)

section Unit

variable {s : State} {e : JEntry} {bad : Option Nat} {errs : List CwErr}

theorem applyEntry_orphan (h : applyPlace s e.key = none) :
    advance (applyEntry e bad errs s) = unitEnd e.key (commitMod (countApplied .orphan) s) := by
  unfold applyEntry
  rw [h]
  rfl

variable {x : Table} {p : RowPlace} (placed : applyPlace s e.key = some (x, p))

include placed

theorem applyEntry_placed {a : Applied} {u : State} (row : applyRow x p e bad errs s = (a, u)) :
    advance (applyEntry e bad errs s) = unitEnd e.key (unitCounted a u) := by
  unfold applyEntry
  rw [placed]
  dsimp only
  rw [row]
  rfl

theorem applyEntry_stopped {u : State} (got : applyGet x p e bad errs s = (none, u)) : advance (applyEntry e bad errs s) =
    unitEnd e.key (unitCounted .poison (crierKey x p e.key (raise evEccUncorrectable u))) := by
  refine applyEntry_placed placed ?_
  unfold applyRow
  rw [got]

variable {d : RowSlice} {xs : List W32} {st : OptState} {u : State} (got : applyGet x p e bad errs s = (some (d, xs, st), u))

include got

/-- A row that bears the step's STAMP already is not updated again (R262). -/
theorem applyEntry_skipped (stamped : (hdrOf d.header).stamp = sealedNo u) : advance (applyEntry e bad errs s) =
    unitEnd e.key (unitCounted .skipped (crierKey x p e.key u)) := by
  refine applyEntry_placed placed ?_
  unfold applyRow
  rw [got]
  exact if_pos stamped

theorem applyEntry_written (fresh : (hdrOf d.header).stamp ≠ sealedNo u) : advance (applyEntry e bad errs s) =
    unitEnd e.key (unitCounted .applied (crierKey x p e.key (writeUpdate x p e (hdrOf d.header) xs st u))) := by
  refine applyEntry_placed placed ?_
  unfold applyRow
  rw [got]
  exact if_neg fresh

end Unit

/-! ## PROMOTION_RECEIVE -/

/-- A filter that is read changes the filters of the Ledger and nothing else of it. -/
theorem meetFilter_ldg (key : RowKey) (step : Nat) (s : State) : ∃ opened sealed,
    (meetFilter key step s).ldg = { s.ldg with filterOpen := opened, filterSealed := sealed } := by
  unfold meetFilter
  dsimp only
  split
  · obtain ⟨opened, sealed, set⟩ := setFilter_ldg key step (larderUe (filterBlock s step key) s)
    exact ⟨opened, sealed, set.trans (by rw [larderUe_ldg])⟩
  · exact ⟨_, _, rfl⟩

theorem meetFilter_commit (key : RowKey) (step : Nat) (s : State) : (meetFilter key step s).ldg.commit = s.ldg.commit := by
  obtain ⟨opened, sealed, met⟩ := meetFilter_ldg key step s
  rw [met]

theorem losePromotion_queues (c : Commit) : (losePromotion c).promoIn = c.promoIn ∧ (losePromotion c).notices = c.notices ∧
    (losePromotion c).promoted = c.promoted := by
  unfold losePromotion
  split
  · exact ⟨rfl, rfl, rfl⟩
  · exact ⟨rfl, rfl, rfl⟩

theorem queuePromoted_queued {s : State} {key : RowKey} (h : key ∈ s.ldg.commit.promoted) : queuePromoted key s = s := if_pos h

theorem queuePromoted_full {s : State} {key : RowKey} (h : key ∉ s.ldg.commit.promoted) (full : 65536 ≤ s.ldg.commit.promoted.length) :
    queuePromoted key s = commitMod losePromotion s := (if_neg h).trans (if_pos full)

theorem queuePromoted_commit {s : State} {key : RowKey} (h : key ∉ s.ldg.commit.promoted)
    (room : s.ldg.commit.promoted.length < 65536) :
    (queuePromoted key s).ldg.commit = { s.ldg.commit with promoted := s.ldg.commit.promoted ++ [key] } := by
  unfold queuePromoted
  rw [if_neg h, if_neg (Nat.not_le.mpr room)]
  rfl

/-- Promotions and notices that wait stay as they are where an entry is queued or lost. -/
theorem queuePromoted_waiting (key : RowKey) (s : State) : (queuePromoted key s).ldg.commit.promoIn = s.ldg.commit.promoIn ∧
    (queuePromoted key s).ldg.commit.notices = s.ldg.commit.notices := by
  by_cases queued : key ∈ s.ldg.commit.promoted
  · rw [queuePromoted_queued queued]
    exact ⟨rfl, rfl⟩
  by_cases room : s.ldg.commit.promoted.length < 65536
  · rw [queuePromoted_commit queued room]
    exact ⟨rfl, rfl⟩
  · rw [queuePromoted_full queued (Nat.not_lt.mp room)]
    obtain ⟨promoIn, notices, -⟩ := losePromotion_queues s.ldg.commit
    exact ⟨promoIn, notices⟩

/-- The notice of a promotion waits for its key (R259). -/
def keepNotice (q : PromoReq) (s : State) : State := commitMod (fun c => { c with notices := c.notices ++ [q] }) s

section Take

variable {q : PromoReq} {s : State}

theorem takePromotion_other (h : s.ldg.sealedStep ≠ some q.step) : takePromotion q s = sendNotice q s := by
  simp [takePromotion, h]

variable (sealed : s.ldg.sealedStep = some q.step)

include sealed

theorem sealedStep_met : (meetFilter q.key q.step s).ldg.sealedStep = some q.step := by
  obtain ⟨opened, bits, met⟩ := meetFilter_ldg q.key q.step s
  rw [met]
  exact sealed

theorem takePromotion_spill (h : spillKey (meetFilter q.key q.step s) q.key = true) :
    takePromotion q s = keepNotice q (meetFilter q.key q.step s) := by
  simp [takePromotion, sealed, sealedStep_met sealed, h, keepNotice]

theorem takePromotion_queued (noSpill : spillKey (meetFilter q.key q.step s) q.key = false)
    (h : unapplied (meetFilter q.key q.step s) q.key = true) :
    takePromotion q s = keepNotice q (queuePromoted q.key (meetFilter q.key q.step s)) := by
  simp [takePromotion, sealed, sealedStep_met sealed, noSpill, h, keepNotice]

theorem takePromotion_applied (noSpill : spillKey (meetFilter q.key q.step s) q.key = false)
    (h : unapplied (meetFilter q.key q.step s) q.key = false) :
    takePromotion q s = sendNotice q (meetFilter q.key q.step s) := by
  simp [takePromotion, sealed, sealedStep_met sealed, noSpill, h]

end Take

/-- The state in which the oldest promotion that need not wait is taken. -/
def promotionTaken (i : Nat) (s : State) : State := commitMod (fun c => { c with promoIn := c.promoIn.eraseIdx i }) s

theorem promotionReceive_takes {s : State} {i : Nat} {q : PromoReq}
    (oldest : s.ldg.commit.promoIn.findIdx? (fun q => !promoWaits s q) = some i) (asked : s.ldg.commit.promoIn[i]? = some q) :
    exec .promotionReceive s = .next (takePromotion q (promotionTaken i s)) := by
  change execPromotionReceive s = _
  unfold execPromotionReceive
  rw [oldest]
  dsimp only
  rw [asked]
  rfl

/-- A promotion whose key waits: its notice is kept, and an entry that APPLY has yet to issue is queued or lost (R259, R260). -/
theorem promotionReceive_waits {s w : State} {i : Nat} {q : PromoReq}
    (oldest : s.ldg.commit.promoIn.findIdx? (fun q => !promoWaits s q) = some i) (asked : s.ldg.commit.promoIn[i]? = some q)
    (sealed : s.ldg.sealedStep = some q.step) (met : w = meetFilter q.key q.step (promotionTaken i s))
    (waits : spillKey w q.key = true ∨ unapplied w q.key = true) :
    Leads (exec .promotionReceive s) (fun t => t.ldg.commit.promoIn = s.ldg.commit.promoIn.eraseIdx i ∧
      t.ldg.commit.notices = s.ldg.commit.notices ++ [q] ∧
      (spillKey w q.key = false → q.key ∉ s.ldg.commit.promoted → s.ldg.commit.promoted.length < 65536 →
        t.ldg.commit.promoted = s.ldg.commit.promoted ++ [q.key]) ∧
      (spillKey w q.key = false → q.key ∉ s.ldg.commit.promoted → 65536 ≤ s.ldg.commit.promoted.length →
        t.ldg.commit.promoted = s.ldg.commit.promoted ∧
        (s.ldg.commit.phase ≠ .idle → t.ldg.commit.promoteLost = satAdd 32 s.ldg.commit.promoteLost 1) ∧
        (s.ldg.commit.phase = .idle → t.ldg.commit.lostEarly = satAdd 32 s.ldg.commit.lostEarly 1))) := by
  have commit : w.ldg.commit = { s.ldg.commit with promoIn := s.ldg.commit.promoIn.eraseIdx i } := by
    rw [met, meetFilter_commit]
    rfl
  have promos : w.ldg.commit.promoIn = s.ldg.commit.promoIn.eraseIdx i := by rw [commit]
  have kept : w.ldg.commit.notices = s.ldg.commit.notices := by rw [commit]
  refine ⟨_, promotionReceive_takes oldest asked, ?_⟩
  cases spill : spillKey w q.key with
  | true =>
    rw [takePromotion_spill (s := promotionTaken i s) sealed (by rw [← met]; exact spill), ← met]
    exact ⟨promos, congrArg (· ++ [q]) kept, fun no => (nomatch no), fun no => (nomatch no)⟩
  | false =>
    have waiting := waits.resolve_left (by simp [spill])
    rw [takePromotion_queued (s := promotionTaken i s) sealed (by rw [← met]; exact spill) (by rw [← met]; exact waiting), ← met]
    obtain ⟨promoIn, notices⟩ := queuePromoted_waiting q.key w
    refine ⟨promoIn.trans promos, congrArg (· ++ [q]) (notices.trans kept), fun _ fresh room => ?_, fun _ fresh full => ?_⟩
    · have queued := queuePromoted_commit (s := w) (key := q.key) (by rw [commit]; exact fresh) (by rw [commit]; exact room)
      exact (congrArg Commit.promoted queued).trans (by rw [commit])
    · have lost := queuePromoted_full (s := w) (key := q.key) (by rw [commit]; exact fresh) (by rw [commit]; exact full)
      have counted : (keepNotice q (queuePromoted q.key w)).ldg.commit =
          { losePromotion { s.ldg.commit with promoIn := s.ldg.commit.promoIn.eraseIdx i } with
            notices := (losePromotion { s.ldg.commit with promoIn := s.ldg.commit.promoIn.eraseIdx i }).notices ++ [q] } := by
        rw [lost, ← commit]
        rfl
      rw [counted]
      unfold losePromotion
      by_cases idle : s.ldg.commit.phase = .idle
      · simp [idle]
      · simp [idle]

/-! ## SPILL_SCAN -/

theorem spillScan_scans {s : State} (phase : s.ldg.commit.phase = .spill) (done : s.ldg.commit.todo = []) (issues : issueHeld s = false) :
    exec .spillScan s = .next (advance (scanSpills s)) :=
  congrArg Host.Outcome.next (if_pos ⟨phase, done, by simp [issues]⟩)

/-- What a scan leaves: the batch goes to the apply units, and what did not fit is left for the next scan (R276). -/
theorem scanSpills_ldg {s w : State} {x : Scan}
    (scanned : s.ldg.commit.spillLeft.foldl scanSpill ({ keys := [], left := [], folded := 0 }, s) = (x, w)) :
    (scanSpills s).ldg = { w.ldg with commit := { w.ldg.commit with
      todo := w.ldg.commit.batch, batch := [], spillLeft := x.left,
      spillRecords := satAdd 32 w.ldg.commit.spillRecords x.folded, spillKeys := satAdd 32 w.ldg.commit.spillKeys x.keys.length,
      spillScans := satAdd 32 w.ldg.commit.spillScans 1 } } := by
  unfold scanSpills
  rw [scanned]
  rfl

end Sys2Proof.Machine

/-! SUPPORT. The shelf phase, row moves and commit notices: the shelf that is evaluated, the record of a rebuild, the Larder copy that a
row move leaves; and the statement about the phases of a Commit. -/

namespace Sys2Proof.Machine

open Sys2Proof

/-! ## SHELF_EVALUATE -/

theorem shelfEvaluate_evaluates {s : State} {tid shelf k : Nat} {x : Table} {i : ShelfInfo} (live : liveTable s tid = some x)
    (active : activeSlot x = some k) (info : shelfInfo (vslot x k) shelf = some i) (phase : s.ldg.commit.phase = .shelf)
    (flat : evaluatesFlat s x (vslot x k) i = true) (issues : issueHeld s = false) :
    exec (.shelfEvaluate tid shelf) s = .next (advance (shelfMod tid k shelf
      (fun y => { y with signal := fMul y.signal x.opt.shelfDecay, mark := some (sealedNo s) }) s)) := by
  change execShelfEvaluate tid shelf s = _
  unfold execShelfEvaluate
  simp only [live, active, info]
  exact congrArg Host.Outcome.next (if_pos ⟨phase, flat, by simp [issues]⟩)

theorem shelfMod_tables {s : State} {tid : Nat} {t : Table} (h : mget s.tables tid = some t) (k n : Nat) (f : ShelfInfo → ShelfInfo) :
    (shelfMod tid k n f s).tables =
      mset s.tables tid (setVslot t k { vslot t k with used := lmap (vslot t k).used (fun i => i.num == n) f }) :=
  tableMod_tables h _

/-! ## SHELF_REBUILD -/

/-- The rebuild list of the journal, where there is one, ends with the record of this rebuild, not DONE (R281). -/
def LastRebuild (tid slot old new : Nat) (s : State) : Prop :=
  ∀ j ∈ s.ldg.journal, ∃ delta rows, j.rebuilds.getLast? =
    some { tid := tid, slot := slot, oldShelf := old, newShelf := new, delta := delta, done := false, recoded := rows }

section LastRebuild

variable {tid slot old new : Nat} {s t : State}

theorem LastRebuild.of_journal (h : LastRebuild tid slot old new s) (same : t.ldg.journal = s.ldg.journal) :
    LastRebuild tid slot old new t := by
  unfold LastRebuild
  rw [same]
  exact h

theorem LastRebuild.of_only {l : List Part} (h : LastRebuild tid slot old new s) (frame : OnlyIn l s t) (ldg : Part.ldg ∉ l) :
    LastRebuild tid slot old new t := by
  have ledger : t.ldg = s.ldg := frame.same .ldg ldg
  exact h.of_journal (by rw [ledger])

theorem lastRebuild_entered (s : State) (delta : Int) : LastRebuild tid slot old new (rebuildsMod (fun l => l ++
    [{ tid := tid, slot := slot, oldShelf := old, newShelf := new, delta := delta, done := false, recoded := [] }]) s) := by
  intro j mem
  obtain ⟨k, _, rfl⟩ := Option.map_eq_some_iff.mp mem
  exact ⟨delta, [], List.getLast?_concat⟩

/-- A row that was re-coded enters the record of its rebuild, and no record's place. -/
theorem LastRebuild.recoded (h : LastRebuild tid slot old new s) (mine : Rebuild → Bool) (row : Nat) :
    LastRebuild tid slot old new (rebuildsMod (fun l => lmap l mine (fun r => { r with recoded := r.recoded ++ [row] })) s) := by
  intro j mem
  obtain ⟨k, there, rfl⟩ := Option.map_eq_some_iff.mp mem
  obtain ⟨delta, rows, last⟩ := h k there
  simp only [lmap, List.getLast?_map, last, Option.map_some]
  split
  · exact ⟨delta, rows ++ [row], rfl⟩
  · exact ⟨delta, rows, rfl⟩

theorem LastRebuild.copyRows (h : LastRebuild tid slot old new s) (tid' slot' shelf dst : Nat) (delta : Int)
    (rows : List (Nat × DirEnt)) : LastRebuild tid slot old new (copyRows tid' slot' shelf dst delta rows s) := by
  refine List.foldlRecOn rows _ h fun t kept p _ => ?_
  have copied : LastRebuild tid slot old new (copyRow tid' slot' shelf dst delta p t).1 :=
    kept.of_only (copyRow_only tid' slot' shelf dst delta p t) (by decide)
  dsimp only
  split
  · split
    · exact (copied.recoded _ _).of_journal (crierAt_quiet _ _ _ _ _).journal
    · exact copied
  · exact copied

theorem LastRebuild.commitMod (h : LastRebuild tid slot old new s) (f : Commit → Commit) :
    LastRebuild tid slot old new (commitMod f s) := h

end LastRebuild

/-- A rebuild enters its record before it copies a row. -/
theorem rebuildShelf_lastRebuild (t : Table) (d : Due) (i : ShelfInfo) (dst : Nat) (s : State) :
    LastRebuild d.tid d.slot d.shelf dst (rebuildShelf t d i dst s) := by
  unfold rebuildShelf
  dsimp only
  refine LastRebuild.commitMod ?_ _
  refine LastRebuild.of_only ?_ (shelfMod_only _ _ _ _ _) (by decide)
  refine LastRebuild.of_only ?_ (shelfMod_only _ _ _ _ _) (by decide)
  refine LastRebuild.copyRows ?_ _ _ _ _ _ _
  refine LastRebuild.of_only ?_ (writeShelf_only _ _ _ _) (by decide)
  refine LastRebuild.of_only ?_ (newShelf_only _ _ _ _ _ _) (by decide)
  exact lastRebuild_entered s _

theorem shelfRebuild_rebuilds {s : State} {tid slot shelf new : Nat} {x : Table} {i : ShelfInfo} {d : Due}
    (live : liveTable (reclaim tid slot s) tid = some x) (info : shelfInfo (vslot x slot) shelf = some i)
    (due : d = { tid := tid, slot := slot, shelf := shelf, compact := compactDue (reclaim tid slot s) x (vslot x slot) i })
    (phase : s.ldg.commit.phase = .shelf) (small : slot < 2) (now : dueNow (reclaim tid slot s) d = true)
    (free : shelfFree (vslot x slot) new = true) (still : ∀ p ∈ rowsIn (reclaim tid slot s) x (vslot x slot) shelf, p.2.tier ≠ 2)
    (issues : issueHeld s = false) :
    exec (.shelfRebuild tid slot shelf new) s = .next (advance (rebuildShelf x d i new (reclaim tid slot s))) := by
  subst due
  change execShelfRebuild tid slot shelf new s = _
  unfold execShelfRebuild
  simp only [live, info]
  exact congrArg Host.Outcome.next (if_pos ⟨phase, small, now, free, by simpa using still, by simp [issues]⟩)

/-! ## ROW_MOVE_COMPLETE -/

theorem rowMoveComplete_ends {s : State} {idx : Nat} {m : RowMove} (h : s.moves[idx]? = some m) :
    exec (.rowMoveComplete idx) s = .next (advance (finishMove m { s with moves := s.moves.eraseIdx idx })) := by
  change execRowMoveComplete idx s = _
  unfold execRowMoveComplete
  rw [h]

/-- The copy of a directory address is dropped, and only it. -/
theorem dropCopy_copies (tid slot da : Nat) (s : State) : (dropCopy tid slot da s).lrd.copies =
    s.lrd.copies.filter (fun c => !(c.tid == tid && c.slot == slot && c.dirAddr == da)) := by
  have retired (move : Option Nat) (l : List LCopy) :
      (l.foldl (fun t c => larderRetire c.block (blocksOf c.bytes.length) move t) s).lrd.copies = s.lrd.copies :=
    List.foldlRecOn (motive := fun t : State => t.lrd.copies = s.lrd.copies) l _ rfl fun _ kept _ _ => kept
  exact congrArg (List.filter _) (retired _ _)

theorem dropCopy_none {tid slot da : Nat} {s : State} {c : LCopy} (h : c ∈ (dropCopy tid slot da s).lrd.copies) :
    ¬ (c.tid = tid ∧ c.slot = slot ∧ c.dirAddr = da) := by
  rw [dropCopy_copies] at h
  have other := (List.mem_filter.mp h).2
  rintro ⟨rfl, rfl, rfl⟩
  simp at other

theorem isSome_mget_tableMod (tid k : Nat) (f : Table → Table) (s : State) :
    (mget (tableMod tid f s).tables k).isSome = (mget s.tables k).isSome := by
  cases there : mget s.tables tid with
  | none => simp only [tableMod, there]
  | some t =>
    rw [tableMod_tables there]
    by_cases here : k = tid
    · rw [here, mget_mset_same, there]
      rfl
    · rw [mget_mset_other _ _ _ _ here]

/-- The state in which a move's entry stands at its new place, the old copy dropped and the old shelf left (R55, R57). -/
def moveWritten (m : RowMove) (s : State) : State :=
  leaveShelf m.tid m.slot (readDir s m.dirAddr).shelf (unhold m.tid m.slot (readDir s m.dirAddr) (dirOf m.entry)
    (dropCopy m.tid m.slot m.dirAddr (writeDir m.dirAddr (dirOf m.entry) (settleRetired m.dirAddr s))))

theorem moveWritten_dropped {m : RowMove} {s : State} {c : LCopy} (h : c ∈ (moveWritten m s).lrd.copies) :
    ¬ (c.tid = m.tid ∧ c.slot = m.slot ∧ c.dirAddr = m.dirAddr) := by
  have left (t : State) (n : Nat) (was now : DirEnt) : (leaveShelf m.tid m.slot n (unhold m.tid m.slot was now t)).lrd = t.lrd :=
    ((leaveShelf_only m.tid m.slot n _).step (l := [.tables, .hbm, .poison]) (by decide)
      ((unhold_only m.tid m.slot was now t).mono (by decide))).same .lrd (by decide)
  unfold moveWritten at h
  rw [left] at h
  exact dropCopy_none h

theorem moveWritten_tables (m : RowMove) (s : State) (k : Nat) :
    (mget (moveWritten m s).tables k).isSome = (mget s.tables k).isSome := by
  have dropped : OnlyIn [.hbm, .poison, .lrd] s (unhold m.tid m.slot (readDir s m.dirAddr) (dirOf m.entry)
      (dropCopy m.tid m.slot m.dirAddr (writeDir m.dirAddr (dirOf m.entry) (settleRetired m.dirAddr s)))) :=
    (unhold_only _ _ _ _ _).step (by decide) <| (dropCopy_only _ _ _ _).step (by decide) <|
      (writeDir_only _ _ _).step (by decide) <| (settleRetired_only _ s).mono (by decide)
  have kept : _ = s.tables := dropped.same .tables (by decide)
  exact (isSome_mget_tableMod _ k _ _).trans (by rw [kept])

section FinishMove

variable {m : RowMove} {s : State}

theorem finishMove_lost (h : (readDir s m.dirAddr).tier = 3) :
    finishMove m s = dropCopy m.tid m.slot m.dirAddr (settleRetired m.dirAddr s) := if_pos h

variable (kept : (readDir s m.dirAddr).tier ≠ 3)

include kept

theorem finishMove_uncopied (h : (dirOf m.entry).tier ≠ 1) : finishMove m s = moveWritten m s := (if_neg kept).trans (if_pos h)

/-- A row that moves to TIER 1 ends with a Larder copy at the place its entry names (R56). -/
theorem finishMove_copied (h : (dirOf m.entry).tier = 1) (there : (mget s.tables m.tid).isSome = true) :
    ∃ c ∈ (finishMove m s).lrd.copies, c.tid = m.tid ∧ c.slot = m.slot ∧ c.dirAddr = m.dirAddr ∧ c.block = (dirOf m.entry).larder := by
  obtain ⟨t, present⟩ := Option.isSome_iff_exists.mp ((moveWritten_tables m s m.tid).trans there)
  unfold moveWritten at present
  unfold finishMove
  dsimp only
  rw [if_neg kept, if_neg (not_not.mpr h), present]
  exact ⟨_, List.mem_append_right _ List.mem_cons_self, rfl, rfl, rfl, rfl⟩

end FinishMove

/-- A row that does not end in TIER 1 has no Larder copy when its move has ended. -/
theorem finishMove_dropped {m : RowMove} {s : State} (h : (dirOf m.entry).tier ≠ 1 ∨ (readDir s m.dirAddr).tier = 3) {c : LCopy}
    (mem : c ∈ (finishMove m s).lrd.copies) : ¬ (c.tid = m.tid ∧ c.slot = m.slot ∧ c.dirAddr = m.dirAddr) := by
  by_cases lost : (readDir s m.dirAddr).tier = 3
  · rw [finishMove_lost lost] at mem
    exact dropCopy_none mem
  · rw [finishMove_uncopied lost (h.resolve_right lost)] at mem
    exact moveWritten_dropped mem

/-! ## Columns -/

theorem mgetD_mmod_same {α : Type} (m : AMap α) (k : Nat) (d : α) (f : α → α) : mgetD (mmod m k d f) k d = f (mgetD m k d) := by
  unfold mgetD mmod
  rw [mget_mset_same]
  rfl

theorem mgetD_mmod_other {α : Type} (m : AMap α) {k j : Nat} (h : j ≠ k) (d : α) (f : α → α) :
    mgetD (mmod m k d f) j d = mgetD m j d := by
  unfold mgetD mmod
  rw [mget_mset_other _ _ _ _ h]

@[simp] theorem colOf_colMod_same (c : Nat) (f : Column → Column) (s : State) : colOf (colMod c f s) c = f (colOf s c) :=
  mgetD_mmod_same _ _ _ _

theorem colOf_colMod_other {c d : Nat} (h : d ≠ c) (f : Column → Column) (s : State) : colOf (colMod c f s) d = colOf s d :=
  mgetD_mmod_other _ h _ _

theorem commitNoticeReceive_takes {s : State} {col : Nat} {k : RowKey} {rest : List RowKey} (h : (colOf s col).notices = k :: rest) :
    exec (.commitNoticeReceive col) s = .next (colMod col (fun c => { c with notices := rest }.notice k) s) := by
  change execCommitNoticeReceive col s = _
  unfold execCommitNoticeReceive
  rw [h]

/-! ## The statement -/

/-- Settles O27: each phase by the state it leaves. Where the journal's entries lie and that a key's row is looked for when it is applied
are the model's choices (assumption logs 36 and 22). -/
theorem commitPhases : Obligations.CommitPhases := by
  unfold Obligations.CommitPhases
  refine ⟨fun s w j es header phase runs hw hes => ?flushed,
    fun s e bad errs next phase ready issues => ⟨fun nowhere => ?orphan, fun x p placed => ⟨fun u got => ?stopped,
      fun d xs st u got => ⟨fun stamped => ?skipped, fun fresh => ?written⟩⟩⟩,
    fun s u w i q oldest asked hu hw => ⟨fun other => ?other, fun sealed noSpill applied => ?applied,
      fun sealed waits => ?waits⟩,
    fun s w x phase done issues scanned => ?scanned,
    fun s tid shelf k x i live active info phase flat issues => ?evaluated,
    fun s tid slot shelf new x i d live info due phase small now free still issues => ?rebuilt,
    fun s idx m moving => ?moved,
    fun s col k rest waiting => ?noticed⟩
  case flushed =>
    subst hes hw
    exact ⟨_, journalFlushDone_flushes header phase runs, rfl, rfl, rfl, rfl, rfl, flushJournal_tables j s⟩
  case orphan =>
    have ended : OnlyIn [.events, .ports, .cols, .ldg, .asy, .hbmStacks, .span, .counts] s
        (unitEnd e.key (commitMod (countApplied .orphan) s)) :=
      (unitEnd_only e.key _).step (by decide) ((commitMod_only _ s).mono (by decide))
    refine ⟨_, applyUnit_applies next phase ready issues bad errs, ?_⟩
    rw [applyEntry_orphan nowhere]
    exact ⟨ended.same .hbm (by decide), ended.same .tables (by decide), ended.same .lrd (by decide)⟩
  case stopped =>
    have met : OnlyIn [.events, .hbm, .poison, .ports, .ldg, .lrd, .hbmStacks] s u := by
      simpa only [got] using applyGet_only x p e bad errs s
    have told := unitTold_only x p e.key .poison (raise evEccUncorrectable u)
    have raised := raise_only evEccUncorrectable u
    refine ⟨_, applyUnit_applies next phase ready issues bad errs, ?_⟩
    rw [applyEntry_stopped placed got]
    refine ⟨Eq.trans (told.same .hbm (by decide)) (raised.same .hbm (by decide)),
      Eq.trans (told.same .tables (by decide)) (Eq.trans (raised.same .tables (by decide)) (met.same .tables (by decide))),
      Eq.trans (told.same .lrd (by decide)) (raised.same .lrd (by decide)), unitEnd_events ?_⟩
    exact (crierKey_quiet x p e.key _).events _ (bit_raise (by decide) u)
  case skipped =>
    have met : OnlyIn [.events, .hbm, .poison, .ports, .ldg, .lrd, .hbmStacks] s u := by
      simpa only [got] using applyGet_only x p e bad errs s
    have told := unitTold_only x p e.key .skipped u
    refine ⟨_, applyUnit_applies next phase ready issues bad errs, ?_⟩
    rw [applyEntry_skipped placed got stamped]
    exact ⟨told.same .hbm (by decide), Eq.trans (told.same .tables (by decide)) (met.same .tables (by decide)),
      told.same .lrd (by decide)⟩
  case written =>
    have told := unitTold_only x p e.key .applied (writeUpdate x p e (hdrOf d.header) xs st u)
    refine ⟨_, applyUnit_applies next phase ready issues bad errs, ?_⟩
    rw [applyEntry_written placed got fresh]
    exact ⟨told.same .hbm (by decide), told.same .tables (by decide), told.same .lrd (by decide)⟩
  case other =>
    subst hu
    rw [promotionReceive_takes oldest asked, takePromotion_other (s := promotionTaken i s) other]
    rfl
  case applied =>
    subst hw hu
    rw [promotionReceive_takes oldest asked, takePromotion_applied (s := promotionTaken i s) sealed noSpill applied]
    rfl
  case waits =>
    subst hu
    exact promotionReceive_waits oldest asked sealed hw waits
  case scanned =>
    refine ⟨_, spillScan_scans phase done issues, ?_⟩
    rw [scanSpills_ldg scanned]
    exact ⟨rfl, rfl, rfl, rfl, rfl, rfl, rfl⟩
  case evaluated =>
    refine ⟨_, shelfEvaluate_evaluates live active info phase flat issues, ?_⟩
    beta_reduce
    rw [advance_tables, shelfMod_tables (liveTable_iff.mp live).1]
    exact ⟨mget_mset_same _ _ _, fun o other => mget_mset_other _ _ _ _ other⟩
  case rebuilt =>
    refine ⟨_, shelfRebuild_rebuilds live info due phase small now free still issues, ?_⟩
    subst due
    exact rebuildShelf_lastRebuild x _ i new (reclaim tid slot s)
  case moved =>
    refine ⟨_, rowMoveComplete_ends moving, (finishMove_only m _).same .moves (by decide),
      fun gone c mem => finishMove_dropped (s := { s with moves := s.moves.eraseIdx idx }) gone mem,
      fun copied kept there => finishMove_copied (s := { s with moves := s.moves.eraseIdx idx }) kept copied there⟩
  case noticed =>
    refine ⟨_, commitNoticeReceive_takes waiting, colOf_colMod_same _ _ s, fun o other => colOf_colMod_other other _ s⟩

end Sys2Proof.Machine

/-! SUPPORT. The Mills of a column and the bags of a Run: what stands there after each operation that changes one of them, and what a
column event, a lookup and a consumed read do to a bag's work. -/

namespace Sys2Proof.Machine

open Sys2Proof

/-! ## Mills -/

theorem colOf_of_only {l : List Part} {s t : State} (h : OnlyIn l s t) (cols : Part.cols ∉ l) (c : Nat) : colOf t c = colOf s c := by
  have same : t.cols = s.cols := h.same .cols cols
  unfold colOf
  rw [same]

theorem workOf_of_only {l : List Part} {s t : State} (h : OnlyIn l s t) (cols : Part.cols ∉ l) (c m : Nat) :
    workOf t c m = workOf s c m :=
  congrArg (fun k => (millOf k m).work) (colOf_of_only h cols c)

@[simp] theorem millOf_millMod_same (c m : Nat) (f : Mill → Mill) (s : State) :
    millOf (colOf (millMod c m f s) c) m = f (millOf (colOf s c) m) := by
  unfold millMod
  rw [colOf_colMod_same]
  exact mgetD_mmod_same _ _ _ _

@[simp] theorem workOf_setWork_same (c m : Nat) (w : Option BagWork) (s : State) : workOf (setWork c m w s) c m = w :=
  congrArg Mill.work (millOf_millMod_same c m (fun k => { k with work := w }) s)

@[simp] theorem workOf_freeMill_same (c m : Nat) (s : State) : workOf (freeMill c m s) c m = none :=
  congrArg Mill.work (millOf_millMod_same c m (fun k => { k with work := none, part := none }) _)

/-- A change of a Mill leaves the column's window. -/
theorem window_setWork (c m : Nat) (w : Option BagWork) (s : State) : (colOf (setWork c m w s) c).window = (colOf s c).window := by
  unfold setWork millMod
  rw [colOf_colMod_same]

theorem workOf_freePin (c m : Nat) (k : SieveKey) (s : State) : workOf (freePin c k s) c m = workOf s c m := by
  unfold freePin
  split
  · rfl
  · unfold workOf
    rw [colOf_colMod_same]
    rfl

theorem window_fillSieve (c : Nat) (s : State) : (colOf (fillSieve c s) c).window = (colOf s c).window := by
  unfold fillSieve
  rw [colOf_colMod_same]

/-! ## Runs and their bags -/

theorem runOf_of_only {l : List Part} {s t : State} (h : OnlyIn l s t) (qh : Part.qh ∉ l) (ord : Nat) : runOf t ord = runOf s ord := by
  have same : t.qh = s.qh := h.same .qh qh
  unfold runOf
  rw [same]

theorem runOf_ord {s : State} {ord : Nat} {r : Run} (h : runOf s ord = some r) : r.ord = ord := by
  simpa using List.find?_some h

theorem runOf_runMod_same {s : State} {ord : Nat} {r : Run} {f : Run → Run} (h : runOf s ord = some r) (keeps : ∀ x, (f x).ord = x.ord) :
    runOf (runMod ord f s) ord = some (f r) := by
  have named : ((fun x : Run => x.ord == ord) ∘ fun x => if x.ord == ord then f x else x) = fun x => x.ord == ord := by
    funext x
    dsimp only [Function.comp]
    split
    · rw [keeps]
    · rfl
  unfold runOf at h
  unfold runOf runMod lmap
  rw [List.find?_map, named, h, Option.map_some, if_pos (List.find?_some h)]

/-- The bag changed is the Run's bag afterwards. -/
theorem bagMod_bag {s : State} {ord b : Nat} {r : Run} (h : runOf s ord = some r) (f : BagInfo → BagInfo) :
    ∃ q, runOf (bagMod ord b f s) ord = some q ∧ bagOf q b = f (bagOf r b) :=
  ⟨_, runOf_runMod_same h fun _ => rfl, mgetD_mmod_same _ _ _ _⟩

/-- A bag that is not over fails on its Mill, which gives it up. -/
theorem failOn_fails {s : State} {col mill : Nat} {w : BagWork} {r : Run} (st : Status) (run : runOf s w.ord = some r)
    (going : (bagOf r w.bag).isOver = false) : workOf (failOn col mill w st s) col mill = none ∧
      ∃ q, runOf (failOn col mill w st s) w.ord = some q ∧ bagOf q w.bag = { bagOf r w.bag with state := .failed st } := by
  refine ⟨workOf_freeMill_same _ _ _, ?_⟩
  obtain ⟨q, found, bag⟩ := bagMod_bag (b := w.bag) run (fun i => if i.isOver then i else { i with state := .failed st })
  refine ⟨q, ?_, by rw [bag, going]; rfl⟩
  calc runOf (failOn col mill w st s) w.ord
      = runOf (dropReads (fun x y => x == col && y == mill) (failBag w.ord w.bag st s)) w.ord :=
        runOf_of_only (millMod_only _ _ _ _) (by decide) _
    _ = runOf (failBag w.ord w.bag st s) w.ord := runOf_of_only (dropReads_only _ _) (by decide) _
    _ = some q := (runOf_of_only (closeSample_only _ _ _) (by decide) _).trans found

theorem noteStatus_failOn_fails {s : State} {col mill : Nat} {w : BagWork} {r : Run} (st : Status) (run : runOf s w.ord = some r)
    (going : (bagOf r w.bag).isOver = false) : workOf (noteStatus st (failOn col mill w st s)) col mill = none ∧
      ∃ q, runOf (noteStatus st (failOn col mill w st s)) w.ord = some q ∧ bagOf q w.bag = { bagOf r w.bag with state := .failed st } := by
  rw [workOf_of_only (noteStatus_only _ _) (by decide), runOf_of_only (noteStatus_only _ _) (by decide)]
  exact failOn_fails st run going

/-! ## Events and lookups of a bag -/

/-- A bag that is not speculative holds no event back (R597). -/
@[simp] theorem colEvent_counted (c code n : Nat) (w : BagWork) (s : State) : colEvent c code n false w s = (w, countEv c code n s) := rfl

/-- An event enters at most the events the bag holds. -/
theorem colEvent_work (c code n : Nat) (spec : Bool) (w : BagWork) (s : State) :
    ∃ events, (colEvent c code n spec w s).1 = { w with events := events } := by
  cases spec
  · exact ⟨w.events, rfl⟩
  · exact ⟨_, rfl⟩

theorem countLookup_again {col : Nat} {r : Run} {w : BagWork} (src : Option RowSource) (k : Option SieveKey) {s : State}
    (h : w.issued < w.counted) : countLookup col r w src k s = (w, s) := if_pos h

/-- A lookup made for the first time joins the window, when its events have been counted (R131). -/
theorem countLookup_first {col : Nat} {r : Run} {w : BagWork} (src : Option RowSource) (k : Option SieveKey) {s : State}
    (h : ¬ w.issued < w.counted) (live : r.desc.spec = false) :
    ∃ t, OnlyIn [.counts] s t ∧ countLookup col r w src k s = ({ w with counted := w.issued + 1 }, useWindow col k t) := by
  unfold countLookup
  rw [if_neg h, live]
  cases src with
  | none => exact ⟨_, countEv_only _ _ _ _, rfl⟩
  | some src => exact ⟨_, (countEv_only _ _ _ _).trans (countEv_only _ _ _ _), rfl⟩

theorem countLookup_work {col : Nat} {r : Run} (w : BagWork) (src : Option RowSource) (k : Option SieveKey) (s : State)
    (live : r.desc.spec = false) : (countLookup col r w src k s).1 = { w with counted := max w.counted (w.issued + 1) } := by
  by_cases again : w.issued < w.counted
  · rw [countLookup_again src k again, Nat.max_eq_left (by omega : w.issued + 1 ≤ w.counted)]
  · obtain ⟨t, _, made⟩ := countLookup_first (s := s) (col := col) src k again live
    rw [made, Nat.max_eq_right (by omega : w.counted ≤ w.issued + 1)]

theorem countLookup_window {col : Nat} {r : Run} (w : BagWork) (src : Option RowSource) (k : Option SieveKey) (s : State)
    (live : r.desc.spec = false) : (colOf (countLookup col r w src k s).2 col).window =
      if w.issued < w.counted then (colOf s col).window else (colOf s col).window ++ [k] := by
  by_cases again : w.issued < w.counted
  · rw [countLookup_again src k again, if_pos again]
  · obtain ⟨t, frame, made⟩ := countLookup_first (s := s) (col := col) src k again live
    rw [made, if_neg again, ← colOf_of_only frame (by decide)]
    unfold useWindow
    rw [colOf_colMod_same]

/-- A read consumed moves the cursor past it (R134). -/
theorem workOf_consume (col mill : Nat) (r : Run) (w : BagWork) (x : MillRead) (s : State) : workOf (consume col mill r w x s) col mill =
    some { w with cursor := w.cursor + 1, reads := w.reads.filter (fun z => z.pos != x.pos) } := by
  unfold consume
  dsimp only
  split
  · rw [workOf_freePin, workOf_of_only (sampleRow_only _ _ _ _) (by decide), workOf_setWork_same]
  · exact workOf_setWork_same _ _ _ _

end Sys2Proof.Machine

/-! SUPPORT. Row reads: the lookup that a Mill issues next, and a read served at its home. -/

namespace Sys2Proof.Machine

open Sys2Proof

/-! ## ROW_READ_ISSUE -/

/-- What ROW_READ_ISSUE asks for: the next lookup of an opened bag whose Run reads rows, with room in the Sieve window. -/
structure LookupDue (s : State) (col mill : Nat) (w : BagWork) (r : Run) (l : Lookup × W32) (t : Table) : Prop where
  work : workOf s col mill = some w
  run : runOf s w.ord = some r
  next : w.lookups[w.issued]? = some l
  table : mget s.tables r.desc.tid = some t
  opened : w.opened = true
  power : millsRun s = true
  rows : needsRows r = true
  room : (colOf s col).window.length < 4096

section Issue

variable {s : State} {col mill : Nat} {w : BagWork} {r : Run} {l : Lookup × W32} {t : Table}

theorem rowReadIssue_reads {key : RowKey} (h : LookupDue s col mill w r l t) (named : l.1.key r.desc.tid = some key) :
    exec (.rowReadIssue col mill) s = .next (issueRead col mill r w t key (readIndex col r w t key (fillSieve col s))) := by
  change execRowReadIssue col mill s = _
  unfold execRowReadIssue
  simp only [h.work, h.run, h.next, h.table, h.opened, h.power, h.rows, h.room, named]
  rfl

/-- The read of a zero default row, which stands answered (R68). -/
def zeroRead (w : BagWork) (r : Run) : MillRead :=
  { pos := w.issued, key := { tid := r.desc.tid, defkey := true, row := 0 }, source := .sieve, answered := true, status := .ok,
    prov := false, data := none }

theorem rowReadIssue_zero (h : LookupDue s col mill w r l t) (unnamed : l.1.key r.desc.tid = none) (live : r.desc.spec = false) :
    exec (.rowReadIssue col mill) s = .next (setWork col mill
      (some ({ w with counted := max w.counted (w.issued + 1) }.addRead (zeroRead w r))) (countLookup col r w none none (fillSieve col s)).2) := by
  rw [← countLookup_work (col := col) w none none (fillSieve col s) live]
  change execRowReadIssue col mill s = _
  unfold execRowReadIssue
  simp only [h.work, h.run, h.next, h.table, h.opened, h.power, h.rows, h.room, unnamed]
  rw [countLookup_work w none none (fillSieve col s) live]
  rfl

end Issue

/-- The read of a row that waits at this K40, its home. -/
def waitingRead (w : BagWork) (key : RowKey) (src : RowSource) : MillRead :=
  { pos := w.issued, key := key, source := src, answered := false, status := .ok, prov := false, data := none }

/-- The read joins those that wait at this K40. -/
def joinHome (h : HomeRead) (s : State) : State := { s with span := { s.span with homeReads := s.span.homeReads ++ [h] } }

theorem issueRead_localHome {s : State} {col mill : Nat} {w : BagWork} {r : Run} {t : Table} {key : RowKey} {src : RowSource}
    (live : r.desc.spec = false) (found : findRow s col r w t key = .localHome src) (slots : inFlight s < 16384)
    (buffers : bufferUsed w (sliceLen r.dim w.slice) + up64 (16 + 4 * sliceLen r.dim w.slice) ≤ 28672) :
    issueRead col mill r w t key s =
      setWork col mill (some ({ w with counted := max w.counted (w.issued + 1) }.addRead (waitingRead w key src)))
        (countLookup col r w (some src) (some (windowKey r w.slice key)) (joinHome (homeReadOf s r w col mill key) s)).2 := by
  rw [← countLookup_work w (some src) (some (windowKey r w.slice key)) (joinHome (homeReadOf s r w col mill key) s) live]
  unfold issueRead
  rw [found]
  simp only [slots, buffers, decide_true, Bool.and_self, if_true]
  rfl

theorem issueRead_localHome_leaves {s : State} {col mill : Nat} {w : BagWork} {r : Run} {t : Table} {key : RowKey} {src : RowSource}
    (live : r.desc.spec = false) (found : findRow s col r w t key = .localHome src) (slots : inFlight s < 16384)
    (buffers : bufferUsed w (sliceLen r.dim w.slice) + up64 (16 + 4 * sliceLen r.dim w.slice) ≤ 28672) :
    (issueRead col mill r w t key s).span.homeReads = s.span.homeReads ++ [homeReadOf s r w col mill key] ∧
      workOf (issueRead col mill r w t key s) col mill =
        some ({ w with counted := max w.counted (w.issued + 1) }.addRead (waitingRead w key src)) := by
  rw [issueRead_localHome live found slots buffers]
  refine ⟨?_, workOf_setWork_same _ _ _ _⟩
  have counted : (countLookup col r w (some src) (some (windowKey r w.slice key)) (joinHome (homeReadOf s r w col mill key) s)).2.span =
      (joinHome (homeReadOf s r w col mill key) s).span := (countLookup_only _ _ _ _ _ _).same .span (by decide)
  exact congrArg Span.homeReads counted

/-! ## HOME_ROW_READ -/

/-- The filters a read at its home looks in: the sealed step's, and for a speculative read that of the step before (R139, R274). -/
def readFilters (h : HomeRead) (s : State) : State := meetFilters h.key (if h.spec then some (stepBefore h.step) else none) s

theorem readFilters_only (h : HomeRead) (s : State) : OnlyIn [.events, .ports, .ldg, .lrd] s (readFilters h s) :=
  meetFilters_only _ _ _

/-- From `s` to `t` the `i`-th of the reads that wait is gone, and the Runs, the tables and the other reads stay as they are. -/
structure Answered (i : Nat) (s t : State) : Prop where
  reads : t.span.homeReads = s.span.homeReads.eraseIdx i
  runs : t.qh = s.qh
  tables : t.tables = s.tables

/-- A frame that names none of the parts a read answered leaves. -/
abbrev Apart (l : List Part) : Prop := Part.span ∉ l ∧ Part.qh ∉ l ∧ Part.tables ∉ l

theorem Answered.before {i : Nat} {l : List Part} {s t u : State} (h : Answered i t u) (frame : OnlyIn l s t) (apart : Apart l) :
    Answered i s u := by
  obtain ⟨span, qh, tables⟩ := apart
  have spans : t.span = s.span := frame.same .span span
  exact ⟨by rw [h.reads, spans], h.runs.trans (frame.same .qh qh), h.tables.trans (frame.same .tables tables)⟩

theorem Answered.after {i : Nat} {l : List Part} {s t u : State} (h : Answered i s t) (frame : OnlyIn l t u) (apart : Apart l) :
    Answered i s u := by
  obtain ⟨span, qh, tables⟩ := apart
  have spans : u.span = t.span := frame.same .span span
  exact ⟨by rw [spans, h.reads], Eq.trans (frame.same .qh qh) h.runs, Eq.trans (frame.same .tables tables) h.tables⟩

section Home

variable {s : State} {i : Nat} {h : HomeRead} {t : Table}

theorem homeRowRead_waits (errs : List CwErr) (lines : List Nat) (here : s.span.homeReads[i]? = some h)
    (table : mget s.tables h.key.tid = some t) (waits : homeWaits (readFilters h s) t h = true) :
    exec (.homeRowRead ⟨i, errs, lines⟩) s = .next (askEntry i h (readFilters h s)) := by
  change execHomeRowRead ⟨i, errs, lines⟩ s = _
  unfold execHomeRowRead
  simp only [here, table]
  exact congrArg Host.Outcome.next (if_pos waits)

theorem homeRowRead_serves (errs : List CwErr) (lines : List Nat) (here : s.span.homeReads[i]? = some h)
    (table : mget s.tables h.key.tid = some t) (free : homeWaits (readFilters h s) t h = false) :
    exec (.homeRowRead ⟨i, errs, lines⟩) s = .next (serveRead i h t errs lines (readFilters h s)) := by
  change execHomeRowRead ⟨i, errs, lines⟩ s = _
  unfold execHomeRowRead
  simp only [here, table]
  exact congrArg Host.Outcome.next (if_neg (Bool.eq_false_iff.mp free))

/-- A read asks for its entry once. -/
theorem askEntry_asked (i : Nat) (s : State) (asked : h.asked = true) : askEntry i h s = s := if_pos (by simp [asked])

/-- What a read at its home touches, as it finds the row's map entry. -/
def readRanges (t : Table) (h : HomeRead) (s : State) : List (Nat × Nat) :=
  (homeRanges (readMap t h.key true s) t h).map (fun r => (r.2.1, r.2.2))

/-- The state in which a read at its home finds the row: the codewords it touches corrected, damaged front-cache lines dropped. -/
def readyHome (t : Table) (h : HomeRead) (errs : List CwErr) (lines : List Nat) (s : State) : State :=
  fixErrs (readRanges t h s) errs (dropLines (readRanges t h s) lines (readMap t h.key true s))

theorem serveRead_sound {errs : List CwErr} {lines : List Nat} {u : State}
    (sound : badIn (readMap t h.key true u) (readRanges t h u) errs = []) : serveRead i h t errs lines u =
      serveHome i h t (readHere t h (readyHome t h errs lines u)).1.1 (readHere t h (readyHome t h errs lines u)).1.2
        (readHere t h (readyHome t h errs lines u)).2 := by
  unfold readRanges at sound
  unfold serveRead
  dsimp only
  rw [sound]
  rfl

theorem serveRead_bad {errs bad : List CwErr} {lines : List Nat} {u : State}
    (found : badIn (readMap t h.key true u) (readRanges t h u) errs = bad) (damaged : bad ≠ []) : serveRead i h t errs lines u =
      loseErrs bad (serveHome i h t .uncorrectable none (frontHomeRead t h (readyHome t h errs lines u))) := by
  subst found
  unfold readRanges at damaged
  exact if_neg (by simpa using damaged)

theorem serveHome_answered {c m pos : Nat} (origin : h.origin = .mill c m pos) (st : Status) (d : Option RowSlice) (u : State) :
    Answered i u (serveHome i h t st d u) := by
  unfold serveHome
  rw [origin]
  have frame := answerMill_only c m pos h.key h.slice st (provMark u h) d
    { u with span := { u.span with homeReads := u.span.homeReads.eraseIdx i } }
  exact ⟨congrArg Span.homeReads (frame.same .span (by decide)), frame.same .qh (by decide), frame.same .tables (by decide)⟩

/-- What a read at its home finds and corrects leaves the Runs, the tables and the reads that wait. -/
theorem readyHome_only (t : Table) (h : HomeRead) (errs : List CwErr) (lines : List Nat) (u : State) :
    OnlyIn [.events, .clerk, .maps, .hbm, .poison, .ports, .hbmStacks] u (readyHome t h errs lines u) :=
  (((readMap_only _ _ _ _).mono (by decide)).trans ((dropLines_only _ _ _).mono (by decide))).trans
    ((fixErrs_only _ _ _).mono (by decide))

theorem serveRead_answered {c m pos : Nat} (origin : h.origin = .mill c m pos) (errs : List CwErr) (lines : List Nat) (u : State) :
    Answered i u (serveRead i h t errs lines u) := by
  have ready := readyHome_only t h errs lines u
  by_cases damaged : badIn (readMap t h.key true u) (readRanges t h u) errs = []
  · rw [serveRead_sound damaged]
    exact ((serveHome_answered origin _ _ _).before (readHere_only t h (readyHome t h errs lines u)) (by decide)).before ready
      (by decide)
  · rw [serveRead_bad rfl damaged]
    exact (((serveHome_answered origin _ _ _).before (frontHomeRead_only t h (readyHome t h errs lines u)) (by decide)).before ready
      (by decide)).after (loseErrs_only _ _) (by decide)

end Home

end Sys2Proof.Machine

/-! SUPPORT. Pooling: a row that arrives at a forward bag's cursor, and the end of a slice. -/

namespace Sys2Proof.Machine

open Sys2Proof

/-! ## ROW_ARRIVE -/

/-- What ROW_ARRIVE asks for: an answered read at the cursor of an opened forward bag. -/
structure RowDue (s : State) (col mill : Nat) (w : BagWork) (r : Run) (l : Lookup × W32) (x : MillRead) (t : Table) : Prop where
  work : workOf s col mill = some w
  run : runOf s w.ord = some r
  next : w.lookups[w.cursor]? = some l
  read : w.reads.find? (fun x => x.pos == w.cursor) = some x
  table : mget s.tables r.desc.tid = some t
  opened : w.opened = true
  answered : x.answered = true
  power : millsRun s = true
  forward : r.backward = false

section Arrive

variable {s : State} {col mill : Nat} {w : BagWork} {r : Run} {l : Lookup × W32} {x : MillRead} {t : Table}

theorem rowArrive_due (h : RowDue s col mill w r l x t) (ue : Bool) (sram words : Nat) (cv : ChipView) :
    exec (.rowArrive col mill ⟨ue, sram, words, cv⟩) s = .next
      (if ue then noteStatus .uncorrectable (failOn col mill (arriveWords col r w x sram words s).1 .uncorrectable
        (arriveWords col r w x sram words s).2)
      else if x.status ≠ .ok then failOn col mill (arriveWords col r w x sram words s).1 x.status (arriveWords col r w x sram words s).2
      else poolRow col mill r t (arriveWords col r w x sram words s).1 l x cv (arriveWords col r w x sram words s).2) := by
  change execRowArrive col mill ⟨ue, sram, words, cv⟩ s = _
  unfold execRowArrive
  simp only [h.work, h.run, h.next, h.read, h.table]
  exact congrArg Host.Outcome.next (if_neg (by simp [h.opened, h.answered, h.power, h.forward]))

/-- The corrected words a row brings leave the Run, and of the bag's work all but the events it holds. -/
theorem arriveWords_keeps (run : runOf s w.ord = some r) (x : MillRead) (sram words : Nat) :
    runOf (arriveWords col r w x sram words s).2 (arriveWords col r w x sram words s).1.ord = some r ∧
      ∃ events, (arriveWords col r w x sram words s).1 = { w with events := events } := by
  have held : ∃ events, (arriveWords col r w x sram words s).1 = { w with events := events } := colEvent_work _ _ _ _ _ _
  refine ⟨?_, held⟩
  obtain ⟨events, same⟩ := held
  rw [same, runOf_of_only (arriveWords_only _ _ _ _ _ _ _) (by decide)]
  exact run

/-- A bag that fails as its row arrives fails as it would have before. -/
theorem arrived_fails {o : Host.Outcome State Fault Refusal} {st : Status} {sram words : Nat} {u : State}
    (h : RowDue s col mill w r l x t) (going : (bagOf r w.bag).isOver = false)
    (ends : o = .next u) (fails : u = failOn col mill (arriveWords col r w x sram words s).1 st (arriveWords col r w x sram words s).2 ∨
      u = noteStatus st (failOn col mill (arriveWords col r w x sram words s).1 st (arriveWords col r w x sram words s).2)) :
    Leads o (fun v => workOf v col mill = none ∧
      ∃ q, runOf v w.ord = some q ∧ bagOf q w.bag = { bagOf r w.bag with state := .failed st }) := by
  obtain ⟨run, events, same⟩ := arriveWords_keeps (col := col) h.run x sram words
  rw [same] at run fails
  refine ⟨u, ends, ?_⟩
  obtain rfl | rfl := fails
  · exact failOn_fails st run going
  · exact noteStatus_failOn_fails st run going

/-- A Run that is not speculative holds no event back as a row arrives. -/
theorem arriveWords_live (live : r.desc.spec = false) (sram words : Nat) :
    arriveWords col r w x sram words s = (w, (arriveWords col r w x sram words s).2) := by
  unfold arriveWords
  rw [live]
  rfl

theorem rowArrive_pools (h : RowDue s col mill w r l x t) (ok : x.status = .ok) (live : r.desc.spec = false) (sram words : Nat)
    (cv : ChipView) : exec (.rowArrive col mill ⟨false, sram, words, cv⟩) s =
      .next (poolRow col mill r t w l x cv (arriveWords col r w x sram words s).2) := by
  refine (rowArrive_due h false sram words cv).trans (congrArg _ ((if_neg (not_not.mpr ok)).trans ?_))
  rw [arriveWords_live live]

theorem poolRow_unreadable {cv : ChipView} {u : State} (bad : readElems r w x.data = none) :
    poolRow col mill r t w l x cv u = noteStatus .uncorrectable (failOn col mill w .uncorrectable u) := by
  unfold poolRow
  rw [bad]

theorem poolRow_overflow {cv : ChipView} {u : State} {cls : RowClass} {sh : Int} {es : List Elem}
    (read : readElems r w x.data = some (cls, sh, es)) (burst : addRow r w l.2 cls sh es (l.1.defaulted && t.defMean) = .overflow) :
    poolRow col mill r t w l x cv u = replayBag col mill r t w cv u := by
  unfold poolRow
  simp only [read, burst]

theorem keepNow_kept_not {y : BagWork} (keeps : r.desc.keepRows = false) (x : MillRead) (u : State) : keepNow r y x u = (y, u) := by
  unfold keepNow
  split
  · rfl
  · exact if_pos (by simp [keeps])

theorem poolRow_done {cv : ChipView} {u : State} {cls : RowClass} {sh : Int} {es : List Elem} {y : BagWork} {n : Nat}
    (read : readElems r w x.data = some (cls, sh, es)) (live : r.desc.spec = false) (keeps : r.desc.keepRows = false)
    (clean : x.prov = false) (added : addRow r w l.2 cls sh es (l.1.defaulted && t.defMean) = .done y n) :
    poolRow col mill r t w l x cv u = consume col mill r y x (countEv col 0x103 n u) := by
  unfold poolRow
  simp only [read, added, keepNow_kept_not keeps, clean, live, colEvent_counted]
  rfl

theorem replayBag_waits {cv : ChipView} {u : State} (waits : againWaits r = true) : replayBag col mill r t w cv u = u := if_pos waits

theorem replayBag_again {cv : ChipView} {u : State} {lo hi : Nat} {q : Run} (stands : againWaits r = false)
    (entries : bagEntries r w.bag = some (lo, hi)) (run : runOf (readAgain r w.bag lo hi cv u) w.ord = some q)
    (good : bagBad q w.bag lo hi = none) : workOf (replayBag col mill r t w cv u) col mill =
      some (({ w with lookups := lookupsOf q t (vslot t q.slot).rows lo hi } : BagWork).replay q) := by
  unfold replayBag
  rw [if_neg (Bool.eq_false_iff.mp stands), entries]
  dsimp only
  rw [run, Option.getD_some, good]
  exact workOf_setWork_same _ _ _ _

end Arrive

/-! ## BAG_POOL_END -/

/-- What BAG_POOL_END asks for: an opened slice whose lookups have all been pooled. -/
structure SliceDone (s : State) (col mill : Nat) (w : BagWork) (r : Run) (t : Table) : Prop where
  work : workOf s col mill = some w
  run : runOf s w.ord = some r
  table : mget s.tables r.desc.tid = some t
  opened : w.opened = true
  pooled : w.lookups.length ≤ w.cursor
  power : millsRun s = true

section PoolEnd

variable {s : State} {col mill : Nat} {w x : BagWork} {r : Run} {t : Table} {u : State}

/-- The event of the tile's corrected words leaves the slice and the bag of the work, and changes counters only. -/
theorem tileEvent_keeps {code n : Nat} {spec : Bool} (event : (x, u) = colEvent col code n spec w s) :
    x.slice = w.slice ∧ x.bag = w.bag ∧ OnlyIn [.counts] s u := by
  obtain ⟨events, same⟩ := colEvent_work col code n spec w s
  have frame := colEvent_only col code n spec w s
  rw [← event] at same frame
  dsimp only at same
  subst same
  exact ⟨rfl, rfl, frame⟩

theorem bagPoolEnd_waits {sram : Nat} (h : SliceDone s col mill w r t)
    (full : (millOf (colOf s col) mill).token ≠ none ∨ (millOf (colOf s col) mill).part ≠ none) :
    exec (.bagPoolEnd col mill ⟨false, sram⟩) s = .next s := by
  change execBagPoolEnd col mill ⟨false, sram⟩ s = _
  unfold execBagPoolEnd
  simp only [show (millOf (colOf s col) mill).work = some w from h.work, h.run, h.table]
  refine congrArg Host.Outcome.next (if_pos ?_)
  simp only [Option.ne_none_iff_isSome] at full
  simp [full]

theorem bagPoolEnd_lost {sram : Nat} (h : SliceDone s col mill w r t) (event : (x, u) = colEvent col 0x104 sram r.desc.spec w s) :
    exec (.bagPoolEnd col mill ⟨true, sram⟩) s =
      .next (afterBag r.ord (noteStatus .uncorrectable (failOn col mill x .uncorrectable u))) := by
  change execBagPoolEnd col mill ⟨true, sram⟩ s = _
  unfold execBagPoolEnd
  simp only [show (millOf (colOf s col) mill).work = some w from h.work, h.run, h.table, ← event]
  exact congrArg Host.Outcome.next (if_neg (by simp [h.opened, h.pooled, h.power]))

theorem bagPoolEnd_ends {sram : Nat} (h : SliceDone s col mill w r t) (event : (x, u) = colEvent col 0x104 sram r.desc.spec w s)
    (token : (millOf (colOf s col) mill).token = none) (part : (millOf (colOf s col) mill).part = none) :
    exec (.bagPoolEnd col mill ⟨false, sram⟩) s = .next (endSlice col mill r t x u) := by
  change execBagPoolEnd col mill ⟨false, sram⟩ s = _
  unfold execBagPoolEnd
  simp only [show (millOf (colOf s col) mill).work = some w from h.work, h.run, h.table, ← event]
  exact congrArg Host.Outcome.next (if_neg (by simp [h.opened, h.pooled, h.power, token, part]))

theorem endSlice_next (more : w.slice + 1 < sliceCount r.dim) : endSlice col mill r t w u = millMod col mill (fun k => { k with
    work := some { (finishSlice r t w).closePass with opened := false, slice := w.slice + 1 },
    part := if r.backward then none else some (r.ord, w.bag) }) u := if_pos more

theorem endSlice_backward (last : sliceCount r.dim ≤ w.slice + 1) (back : r.backward = true) :
    endSlice col mill r t w u = endBackward col mill r t (finishSlice r t w).closePass u :=
  (if_neg (by omega)).trans (if_pos back)

theorem endSlice_forward (last : sliceCount r.dim ≤ w.slice + 1) (forward : r.backward = false) :
    endSlice col mill r t w u = endForward col mill r (finishSlice r t w).closePass u :=
  (if_neg (by omega)).trans (if_neg (Bool.eq_false_iff.mp forward))

theorem endForward_waits {y : BagWork} (prov : y.prov ≠ []) : endForward col mill r y u = waitBag col mill r y u :=
  if_pos (by simpa using prov)

theorem endForward_leaves {y : BagWork} (live : r.desc.spec = false) (clean : y.prov = []) : endForward col mill r y u =
    leaveBag col mill r y (tokenOf r y).1 (countEv col 0x105 (tokenOf r y).2 u) := by
  unfold endForward
  rw [clean, live]
  rfl

/-- What a bag that leaves counts: its replays and the events it held. -/
def countLeft (col : Nat) (r : Run) (y : BagWork) (s : State) : State :=
  y.events.foldl (fun t e => countEv col e.1 e.2 t) (countReplays r.desc.tid y.passes s)

theorem countLeft_only (col : Nat) (r : Run) (y : BagWork) (s : State) : OnlyIn [.asy, .counts] s (countLeft col r y s) := by
  unfold countLeft
  exact ((countReplays_only _ _ _).mono (by decide)).thenFold fun t e => (countEv_only col e.1 e.2 t).mono (by decide)

/-- A bag that has drained into its tile, as its Run has it (R26). -/
def drainedBag (y : BagWork) (i : BagInfo) : BagInfo := { i with state := .draining, defaulted := defaultedOf y, replays := y.passes }

theorem leaveBag_token {y : BagWork} {bytes : List Byte} (kept : y.keep = []) (full : bytes ≠ []) :
    leaveBag col mill r y bytes u = millMod col mill (fun m => { m with token := some (r.ord, y.bag, bytes) })
      (setWork col mill none (countLeft col r y (bagMod r.ord y.bag (drainedBag y) u))) := by
  have holds : bytes.isEmpty = false := by simpa using full
  unfold leaveBag
  simp only [kept, holds, List.foldl_nil]
  rfl

/-- A bag with a token and no row to keep leaves it in the tile and drains. -/
theorem leaveBag_drains {y : BagWork} {bytes : List Byte} (run : runOf u r.ord = some r) (kept : y.keep = []) (full : bytes ≠ []) :
    millOf (colOf (leaveBag col mill r y bytes u) col) mill =
        { millOf (colOf u col) mill with work := none, token := some (r.ord, y.bag, bytes) } ∧
      ∃ q, runOf (leaveBag col mill r y bytes u) r.ord = some q ∧ bagOf q y.bag = drainedBag y (bagOf r y.bag) := by
  rw [leaveBag_token kept full]
  obtain ⟨q, found, bag⟩ := bagMod_bag (b := y.bag) run (drainedBag y)
  refine ⟨?_, q, ?_, bag⟩
  · unfold setWork
    rw [millOf_millMod_same, millOf_millMod_same, colOf_of_only (countLeft_only _ _ _ _) (by decide),
      colOf_of_only (bagMod_only _ _ _ _) (by decide)]
  · rw [runOf_of_only (millMod_only _ _ _ _) (by decide), runOf_of_only (setWork_only _ _ _ _) (by decide),
      runOf_of_only (countLeft_only _ _ _ _) (by decide), found]

/-- A forward bag that saw no provisional row leaves its token in the tile at the end of its last slice, and drains. -/
theorem endForward_drains {y : BagWork} (run : runOf u r.ord = some r) (live : r.desc.spec = false) (clean : y.prov = [])
    (kept : y.keep = []) (full : (tokenOf r y).1 ≠ []) :
    millOf (colOf (endForward col mill r y u) col) mill =
        { millOf (colOf u col) mill with work := none, token := some (r.ord, y.bag, (tokenOf r y).1) } ∧
      ∃ q, runOf (endForward col mill r y u) r.ord = some q ∧ bagOf q y.bag = drainedBag y (bagOf r y.bag) := by
  rw [endForward_leaves live clean]
  have counts := countEv_only col 0x105 (tokenOf r y).2 u
  rw [← colOf_of_only counts (by decide)]
  exact leaveBag_drains ((runOf_of_only counts (by decide) _).trans run) kept full

end PoolEnd

/-! ## The obligation -/

/-- Settles O45: a lookup counts once and goes to its source (R126 to R128), a read at its home answers the Mill or node that sent
it (R139), the row at a forward bag's cursor is pooled or ends or restarts the pass (R129, R154, R170, R172), and a slice that ends
hands its tile on (R182, R183). -/
theorem rowsPooled : Obligations.RowsPooled := by
  unfold Obligations.RowsPooled
  refine ⟨?_, ?_, ?_, ?_⟩
  · intro s u col mill w r l t work run next table opened power rows room hu
    subst hu
    have due : LookupDue s col mill w r l t := ⟨work, run, next, table, opened, power, rows, room⟩
    refine ⟨fun unnamed live => ⟨_, rowReadIssue_zero due unnamed live, ?_, workOf_setWork_same _ _ _ _⟩, ?_⟩
    · rw [window_setWork, countLookup_window w none none _ live, window_fillSieve]
    · rintro key x named rfl
      have reads := rowReadIssue_reads due named
      exact ⟨reads, fun src live found slots buffers => ⟨_, reads, issueRead_localHome_leaves live found slots buffers⟩⟩
  · intro s u v i errs bad lines h t rs here table hu
    change u = readFilters h s at hu
    subst hu
    refine ⟨fun waits => ?_, ?_⟩
    · have asks := homeRowRead_waits errs lines here table waits
      exact ⟨asks, fun asked => asks.trans (congrArg _ (askEntry_asked i _ asked))⟩
    · rintro free rfl rfl rfl
      have serves := homeRowRead_serves errs lines here table free
      refine ⟨fun st d x sound found => ?_, fun damaged => serves.trans (congrArg _ (serveRead_bad rfl damaged)),
        fun c m pos origin => ⟨_, serves, ?_⟩⟩
      · refine serves.trans (congrArg _ ((serveRead_sound sound).trans ?_))
        unfold readyHome readRanges
        rw [← found]
      · obtain ⟨reads, runs, tables⟩ := (serveRead_answered (i := i) (t := t) origin errs lines _).before (readFilters_only h s) (by decide)
        exact ⟨reads, runs, tables⟩
  · intro s u col mill sram words cv w r l x t work run next read table opened answered power forward hu
    subst hu
    have due : RowDue s col mill w r l x t := ⟨work, run, next, read, table, opened, answered, power, forward⟩
    have arrives := rowArrive_due due false sram words cv
    refine ⟨fun going => arrived_fails due going (rowArrive_due due true sram words cv) (.inr rfl),
      fun bad going => arrived_fails due going (arrives.trans (congrArg _ (if_pos bad))) (.inl rfl), fun ok unread going => ?_,
      fun cls sh es ok readable live => ?_⟩
    · obtain ⟨_, events, same⟩ := arriveWords_keeps (col := col) run x sram words
      refine arrived_fails due going (arrives.trans (congrArg _ ((if_neg (not_not.mpr ok)).trans (poolRow_unreadable ?_)))) (.inr rfl)
      rw [same]
      exact unread
    · have pools := rowArrive_pools due ok live sram words cv
      refine ⟨fun y n keeps clean added => ⟨_, pools, ?_⟩, fun burst => ?_⟩
      · rw [poolRow_done readable live keeps clean added]
        exact workOf_consume _ _ _ _ _ _
      · rw [poolRow_overflow readable burst] at pools
        refine ⟨fun waits => pools.trans (congrArg _ (replayBag_waits waits)), ?_⟩
        rintro lo hi z q stands entries rfl again good
        exact ⟨_, pools, replayBag_again stands entries again good⟩
  · intro s u col mill sram w x y r t work run table opened pooled power event hy
    subst hy
    have done : SliceDone s col mill w r t := ⟨work, run, table, opened, pooled, power⟩
    obtain ⟨slice, bag, counts⟩ := tileEvent_keeps event
    refine ⟨bagPoolEnd_lost done event, fun token part => ?_, bagPoolEnd_waits done⟩
    have ends := bagPoolEnd_ends done event token part
    rw [← slice, ← bag]
    refine ⟨fun more => ⟨_, ends.trans (congrArg _ (endSlice_next more)), ?_, ?_⟩, fun last => ⟨fun back => ?_, ?_, ?_⟩⟩
    · rw [millOf_millMod_same, colOf_of_only counts (by decide)]
    · exact Eq.trans ((millMod_only _ _ _ _).same .qh (by decide)) (counts.same .qh (by decide))
    · exact ends.trans (congrArg _ (endSlice_backward last back))
    · intro forward prov
      exact ends.trans (congrArg _ ((endSlice_forward last forward).trans (endForward_waits prov)))
    · intro forward clean live kept full
      refine ⟨_, ends.trans (congrArg _ (endSlice_forward last forward)), ?_⟩
      have found : runOf u r.ord = some r := by
        rw [runOf_of_only counts (by decide), runOf_ord run, run]
      rw [← colOf_of_only counts (by decide), ← runOf_ord run]
      exact endForward_drains found live clean kept full

end Sys2Proof.Machine

/-! SUPPORT. The small registers of the ASY, LDG and HBM blocks: what a write of each leaves there while the KCP answers. -/

namespace Sys2Proof.Machine

open Sys2Proof

/-! ## Writes over the KCP -/

/-- While the KCP answers, what holds of the state written holds after the write. -/
theorem kcpWrite_leads {s : State} {f : State → State} {p : State → Prop} (alive : kcpAlive s = true) (k : p (f s)) :
    Leads (kcpWrite s f) p := ⟨f s, congrArg Host.Outcome.next (if_pos alive), k⟩

/-- A write that leaves the state as it is, whether the KCP answers or not. -/
theorem kcpWrite_kept {s : State} {f : State → State} (kept : f s = s) : kcpWrite s f = .next s := by
  unfold kcpWrite
  rw [kept, ite_self]

/-! ## Stacks -/

@[simp] theorem stackOf_stackMod_same (n : Nat) (f : Stack → Stack) (s : State) : stackOf (stackMod n f s) n = f (stackOf s n) :=
  mgetD_mmod_same _ _ _ _

theorem stackOf_stackMod_other {n m : Nat} (h : m ≠ n) (f : Stack → Stack) (s : State) :
    stackOf (stackMod n f s) m = stackOf s m := mgetD_mmod_other _ h _ _

/-- A write of a stack's register changes that stack by `g` and no other. -/
theorem stackWrite_leads {s : State} {n : Nat} {f : State → State} {g : Stack → Stack} {p : Stack → Prop}
    (alive : kcpAlive s = true) (stack : n < 12) (writes : f s = stackMod n g s) (k : p (g (stackOf s n))) :
    Leads (if n < 12 then kcpWrite s f else .next s) (fun t => p (stackOf t n) ∧ ∀ m, m ≠ n → stackOf t m = stackOf s m) := by
  rw [if_pos stack]
  refine kcpWrite_leads alive ?_
  rw [writes, stackOf_stackMod_same]
  exact ⟨k, fun m other => stackOf_stackMod_other other g s⟩

/-! ## ASY_TABLE_SEL -/

/-- ASY_CLEAR writes ASY_TABLE_SEL with CLEAR set and the TID as given. -/
theorem clearBit_set (val : W64) : bit (val ||| 0x8000000000000000#64) 63 = true := by
  unfold bit
  rw [BitVec.getLsbD_or]
  exact Bool.or_true _

theorem clearBit_tid (val : W64) : bits (val ||| 0x8000000000000000#64) 0 12 = bits val 0 12 := by
  unfold bits
  rw [Nat.shiftRight_zero, Nat.shiftRight_zero, BitVec.toNat_or, Nat.or_mod_two_pow]
  exact Nat.or_zero _

theorem asyCounts_asyMod_same (tid : Nat) (f : AsyCounts → AsyCounts) (s : State) :
    mgetD (asyMod tid f s).asy.counts tid AsyCounts.zero = f (mgetD s.asy.counts tid AsyCounts.zero) := mgetD_mmod_same _ _ _ _

theorem asyCounts_asyMod_other {tid other : Nat} (h : other ≠ tid) (f : AsyCounts → AsyCounts) (s : State) :
    mgetD (asyMod tid f s).asy.counts other AsyCounts.zero = mgetD s.asy.counts other AsyCounts.zero := mgetD_mmod_other _ h _ _

/-- A write with CLEAR selects the TID and leaves nothing of its counters but the saturations of R112. -/
theorem writeAsySel_clear {val : W64} (clear : bit val 63 = true) (s : State) : writeAsySel val s =
    asyMod (bits val 0 12) (fun a => { AsyCounts.zero with spans := a.spans })
      { s with asy := { s.asy with sel := bits val 0 12 } } := if_pos clear

/-! ## LDG_LATE_POLICY -/

theorem writeLatePolicy_clear {val : W64} (clear : bit val 63 = true) (s : State) : writeLatePolicy val s =
    { s with ldg := { s.ldg with
      horizon := if bits val 0 8 = 0 then s.ldg.horizon else bits val 0 8, deferred := 0, dropped := 0, refused := 0, dropLog := [] } } :=
  if_pos clear

theorem writeLatePolicy_plain {val : W64} (plain : bit val 63 = false) (s : State) : writeLatePolicy val s =
    { s with ldg := { s.ldg with horizon := if bits val 0 8 = 0 then s.ldg.horizon else bits val 0 8 } } :=
  if_neg (Bool.eq_false_iff.mp plain)

/-! ## The test port -/

theorem bits_lt (val : W64) (lo n : Nat) : bits val lo n < 2 ^ n := Nat.mod_lt _ (Nat.two_pow_pos n)

/-- A field below bit `m` is one of the low `m` bits. -/
theorem mod_shiftRight_mod {lo n m : Nat} (h : lo + n ≤ m) (x : Nat) : (x % 2 ^ m) >>> lo % 2 ^ n = x >>> lo % 2 ^ n := by
  refine Nat.eq_of_testBit_eq fun i => ?_
  rw [Nat.testBit_mod_two_pow, Nat.testBit_mod_two_pow, Nat.testBit_shiftRight, Nat.testBit_shiftRight, Nat.testBit_mod_two_pow]
  by_cases inside : i < n
  · have under : lo + i < m := by omega
    simp [under]
  · simp [inside]

/-- The word that TEST1500_LOAD_INSTR and TEST1500_SHIFT_DATA write fits: no field of it spills into the next. -/
theorem testValue_toNat {op : Nat} (h : op < 4) (val : W64) :
    (testValue op val).toNat = bits val 0 45 + op * 2 ^ 45 + 2 ^ 47 + b2n (bit val 49) * 2 ^ 49 := by
  have low := bits_lt val 0 45
  have flag : b2n (bit val 49) ≤ 1 := by unfold b2n; split <;> decide
  rw [testValue, w64, BitVec.toNat_ofNat]
  exact Nat.mod_eq_of_lt (by omega)

theorem testValue_op {op : Nat} (h : op < 4) (val : W64) : bits (testValue op val) 45 2 = op := by
  have low := bits_lt val 0 45
  rw [bits, testValue_toNat h, Nat.shiftRight_eq_div_pow]
  omega

theorem testValue_go {op : Nat} (h : op < 4) (val : W64) : bit (testValue op val) 47 = true := by
  have low := bits_lt val 0 45
  rw [bit, BitVec.getLsbD, testValue_toNat h, Nat.testBit_eq_decide_div_mod_eq, decide_eq_true_eq]
  omega

/-- DATA, LEN_M1 and INSTR lie below OP and stand as given. -/
theorem testValue_field {op lo n : Nat} (h : op < 4) (below : lo + n ≤ 45) (val : W64) :
    bits (testValue op val) lo n = bits val lo n := by
  have low : (testValue op val).toNat % 2 ^ 45 = val.toNat % 2 ^ 45 := by
    rw [testValue_toNat h, bits, Nat.shiftRight_zero]
    omega
  unfold bits
  rw [← mod_shiftRight_mod below, low, mod_shiftRight_mod below]

/-- The port takes any command but a hard repair while the block is Held (R335). -/
theorem testTakes_held {s : State} (held : s.gbl.state = .held) (n : Nat) : testTakes s n false = true := by
  simp [testTakes, held]

/-- The port takes nothing outside the block's HELD and the stack's SHUTTERED (R335). -/
theorem testTakes_closed {s : State} {n : Nat} (block : s.gbl.state ≠ .held) (stack : (stackOf s n).state ≠ .shuttered)
    (hard : Bool) : testTakes s n hard = false := by
  simp [testTakes, block, stack]

/-- A command that the port does not take sets REFUSED and nothing else. -/
theorem writeTest1500_refused {s : State} {n op : Nat} {hard : Bool} (runs : op = 1 ∨ op = 2) (closed : testTakes s n hard = false)
    (val : W64) (captured : W32) : writeTest1500 n (testValue op val) hard captured s =
      stackMod n (fun h => { h with tRefused := true }) s := by
  have small : op < 4 := by omega
  have known : (op == 1 || op == 2) = true := by simpa using runs
  unfold writeTest1500
  simp [testValue_op small, testValue_go small, known, closed]

/-- LOAD_INSTR that the port takes leaves INSTR in the wrapper. -/
theorem writeTest1500_loads {s : State} {n : Nat} {hard : Bool} (takes : testTakes s n hard = true) (val : W64) (captured : W32) :
    writeTest1500 n (testValue 1 val) hard captured s =
      stackMod n (fun h => { setTestFields (testValue 1 val) h with wrapper := bits val 37 8 }) s := by
  have small : (1 : Nat) < 4 := by decide
  unfold writeTest1500
  simp [testValue_op small, testValue_go small, testValue_field (lo := 37) (n := 8) small (by decide), takes]

/-- SHIFT_DATA that the port takes leaves in DATA as many captured bits as it shifts. -/
theorem writeTest1500_shifts {s : State} {n : Nat} {hard : Bool} (takes : testTakes s n hard = true) (val : W64) (captured : W32) :
    writeTest1500 n (testValue 2 val) hard captured s = stackMod n (fun h => { setTestFields (testValue 2 val) h with
      tData := BitVec.ofNat 32 (captured.toNat % 2 ^ (bits val 32 5 + 1)) }) s := by
  have small : (2 : Nat) < 4 := by decide
  unfold writeTest1500
  simp [testValue_op small, testValue_go small, testValue_field (lo := 32) (n := 5) small (by decide), takes]

/-! ## The statement -/

/-- Settles O11: register by register, the fields that a write leaves. KEEP lines above the new KEEP_WAYS lose their mark (R326). -/
theorem blockRegisterWrites : Obligations.BlockRegisterWrites := by
  unfold Obligations.BlockRegisterWrites
  refine ⟨?asyClear, ?latePolicy, ?temp, ?tempCrossed, ?hintCfg, ?loadInstr, ?shiftData, ?refused⟩
  case asyClear =>
    intro s val alive
    refine kcpWrite_leads alive ?_
    rw [writeAsySel_clear (clearBit_set val), clearBit_tid]
    exact ⟨rfl, ⟨_, asyCounts_asyMod_same _ _ _⟩, fun tid other => asyCounts_asyMod_other other _ _⟩
  case latePolicy =>
    intro s val alive
    refine kcpWrite_leads alive ?_
    cases clear : bit val 63 with
    | true =>
      rw [writeLatePolicy_clear clear]
      exact ⟨rfl, fun _ => ⟨rfl, rfl, rfl, rfl⟩, nofun⟩
    | false =>
      rw [writeLatePolicy_plain clear]
      exact ⟨rfl, nofun, fun _ => rfl⟩
  case temp =>
    intro s n val alive stack ordered
    exact stackWrite_leads (p := (· = _)) alive stack (if_neg (Nat.not_le.mpr ordered)) rfl
  case tempCrossed =>
    intro s n val crossed
    have kept : kcpWrite s (writeHbmTemp n val) = .next s := kcpWrite_kept (if_pos crossed)
    change (if n < 12 then kcpWrite s (writeHbmTemp n val) else .next s) = .next s
    rw [kept, ite_self]
  case hintCfg =>
    intro s n val alive stack
    obtain ⟨t, goes, ⟨ways, disable, cache⟩, others⟩ := stackWrite_leads (f := writeHintCfg n val)
      (p := fun h => h.keepWays = (if 16 < bits val 0 5 then (stackOf s n).keepWays else bits val 0 5) ∧ h.disable = bit val 5 ∧
        h.cache = if bit val 8 then [] else limitKeep h.keepWays (stackOf s n).cache)
      alive stack rfl ⟨rfl, rfl, rfl⟩
    exact ⟨t, goes, ways, disable, cache, others⟩
  case loadInstr =>
    intro s n val alive stack held
    exact stackWrite_leads (p := fun h => h.wrapper = bits val 37 8) alive stack
      (writeTest1500_loads (testTakes_held held n) val 0) rfl
  case shiftData =>
    intro s n val captured alive stack held
    exact stackWrite_leads (p := fun h => h.tData = BitVec.ofNat 32 (captured.toNat % 2 ^ (bits val 32 5 + 1))) alive stack
      (writeTest1500_shifts (testTakes_held held n) val captured) rfl
  case refused =>
    intro s n val hard captured alive stack block shuttered
    have load := writeTest1500_refused (.inl rfl) (testTakes_closed block shuttered hard) val 0
    have shift := writeTest1500_refused (.inr rfl) (testTakes_closed block shuttered false) val captured
    obtain ⟨t, loads, refused, _⟩ := stackWrite_leads (p := (· = { stackOf s n with tRefused := true })) alive stack load rfl
    obtain ⟨u, shifts, ignored, _⟩ := stackWrite_leads (p := (· = { stackOf s n with tRefused := true })) alive stack shift rfl
    exact ⟨⟨t, loads, refused⟩, ⟨u, shifts, ignored⟩⟩

end Sys2Proof.Machine

/-! SUPPORT. The frames of the Queue Hall's commands and of the columns' commands, and the bytes that a saved tile writes. -/

namespace Sys2Proof.Machine

open Sys2Proof

/-- Settles O48: each command's frame. -/
theorem queueHallFrame : Obligations.QueueHallFrame := by
  unfold Obligations.QueueHallFrame
  intro s t
  exact ⟨fun port ctag hdr data => (execPedlarPush_within port ctag hdr data s).only,
    fun port ctag req => (execPedlarPop_within port ctag req s).only,
    fun port ctag hdr => (execPedlarProbe_within port ctag hdr s).only,
    fun val => (execSubSubmit_within val s).only,
    fun flow => (execStreamTailTimeout_within flow s).only,
    fun flow => (execFlowTimeout_within flow s).only,
    fun flow duration v => (execRunAdmit_within flow duration v s).only,
    fun flow duration v => (execTransferAdmit_within flow duration v s).only,
    fun flow duration => (execReplacedItemEnd_within flow duration s).only,
    fun carter ord chunk => (execCarterChunk_within carter ord chunk s).only,
    fun ord group => (execDistributorForward_within ord group s).only,
    fun port hdr data => (execRdData_within port hdr data s).only,
    fun port hdr => (execWrAck_within port hdr s).only,
    fun port hdr => (execCdpHeaderDiscard_within port hdr s).only,
    fun port kRdy sRdy => (execCdpReadyChange_within port kRdy sRdy s).only,
    fun port header data => (execCdpCreditReturn_within port header data s).only,
    fun ord duration => (execRunRecordWrite_within ord duration s).only,
    fun ord duration => (execTransferRecordWrite_within ord duration s).only,
    fun ord col => (execBagGroupDispatch_within ord col s).only⟩

/-! ## TILE_SAVE -/

/-- A Mill's tile leaves it for the save area (R188, R189, R191). -/
def tileSaved (col mill : Nat) (w : BagWork) (s : State) : State :=
  millMod col mill (fun k => { k with work := none, saved := some w.saved })
    (hbmWrite (saveAddr s col mill) (tileImage w.saved) (dropReads (fun c m => c == col && m == mill) s))

section Save

variable {s t : State} {col mill : Nat} {w : BagWork} (work : workOf s col mill = some w) (saved : exec (.tileSave col mill) s = .next t)

include work saved

/-- What TILE_SAVE of a Mill that holds work can do: nothing, or it discards a bag that saw a provisional row, or it saves the tile. -/
theorem tileSave_cases : t = s ∨ (savesTiles s && w.partly && (millOf (colOf s col) mill).saved.isNone) = true ∧
    (w.sawProv = true ∧ (∃ r, t = waitBag col mill r w.closePass s) ∨ w.sawProv = false ∧ t = tileSaved col mill w s) := by
  change execTileSave col mill s = _ at saved
  unfold execTileSave at saved
  rw [work] at saved
  dsimp only at saved
  split at saved
  · exact .inl (Host.Outcome.next.inj saved).symm
  next r _ =>
    have eq := (Host.Outcome.next.inj saved).symm
    split at eq
    · exact .inl eq
    · next saves =>
      refine .inr ⟨by simpa using saves, ?_⟩
      split at eq
      next provisional => exact .inl ⟨provisional, r, eq⟩
      next certain => exact .inr ⟨Bool.eq_false_iff.mpr certain, eq⟩

theorem tileSave_keepsBytesOutside {a : Nat} (outside : a < saveAddr s col mill ∨ saveAddr s col mill + (tileImage w.saved).length ≤ a) :
    hbmRead t a 1 = hbmRead s a 1 := by
  rcases tileSave_cases work saved with rfl | ⟨-, ⟨-, r, rfl⟩ | ⟨-, rfl⟩⟩
  · rfl
  · exact congrArg (memRead · a 1) ((waitBag_only col mill r _ s).same .hbm (by decide))
  · have dropped := (dropReads_only (fun c m => c == col && m == mill) s).same .hbm (by decide)
    exact (hbmRead_hbmWrite_other _ _ a 1 _ (by omega)).trans (congrArg (memRead · a 1) dropped)

theorem tileSave_keepsMemory (provisional : w.sawProv = true) : t.hbm = s.hbm := by
  rcases tileSave_cases work saved with rfl | ⟨-, ⟨-, r, rfl⟩ | ⟨certain, -⟩⟩
  · rfl
  · exact (waitBag_only col mill r _ s).same .hbm (by decide)
  · simp [provisional] at certain

theorem tileSave_idle (idle : (savesTiles s && w.partly && (millOf (colOf s col) mill).saved.isNone) = false) : t = s := by
  rcases tileSave_cases work saved with rfl | ⟨saves, -⟩
  · rfl
  · simp [idle] at saves

end Save

/-- Settles O50: each command's frame, and what TILE_SAVE can do to the bytes of the save area. -/
theorem columnFrame : Obligations.ColumnFrame := by
  unfold Obligations.ColumnFrame
  intro s t
  refine ⟨fun col => (execSieveWindowClose_within col s).only,
    fun col mill ord b => (execBagStart_within col mill ord b s).only,
    fun col mill => (execRowReadIssue_within col mill s).only,
    fun r => (execHomeRowRead_within r s).only,
    fun col mill a => (execRowArrive_within col mill a s).only,
    fun col => (execCommitNoticeReceive_within col s).only,
    fun col idx => (execPromoteResend_within col idx s).only,
    fun col mill tile => (execBagPoolEnd_within col mill tile s).only,
    fun col mill => (execTileDrain_within col mill s).only,
    fun col mill => (execTileSave_within col mill s).only,
    fun col mill => (execTileRestore_within col mill s).only,
    fun col mill ue => (execBackwardContribution_within col mill ue s).only,
    fun col => (execMergeFlush_within col s).only,
    fun col => (execBackwardStreamIdle_within col s).only,
    fun col mill w img work image saved => ?saves⟩
  subst image
  exact ⟨fun a => tileSave_keepsBytesOutside work saved,
    fun provisional a => congrArg (memRead · a 1) (tileSave_keepsMemory work saved provisional), tileSave_idle work saved⟩

end Sys2Proof.Machine

/-! SUPPORT. What a change of one Run or of one bag leaves of the others, and the bags that end when the home of a row they wait for is
reported absent. -/

namespace Sys2Proof.Machine

open Sys2Proof

/-! ## Other Runs and other bags -/

theorem runOf_runMod_other {o ord : Nat} (h : o ≠ ord) {f : Run → Run} (keeps : ∀ x, (f x).ord = x.ord) (s : State) :
    runOf (runMod o f s) ord = runOf s ord := by
  unfold runOf runMod lmap
  dsimp only
  induction s.qh.runs with
  | nil => rfl
  | cons x xs ih =>
    rw [List.map_cons, List.find?_cons, List.find?_cons, ih]
    by_cases mine : x.ord = o
    · rw [if_pos (by simpa using mine), keeps]
      have apart : (x.ord == ord) = false := by simpa [mine] using h
      rw [apart]
    · rw [if_neg (by simpa using mine)]

/-- A change of bag `c` of Run `o`, seen at bag `b` of Run `ord`. -/
theorem bagMod_seen {s : State} {o c ord b : Nat} {r : Run} (run : runOf s ord = some r) (f : BagInfo → BagInfo) :
    ∃ q, runOf (bagMod o c f s) ord = some q ∧ bagOf q b = if o = ord ∧ c = b then f (bagOf r b) else bagOf r b := by
  by_cases here : o = ord
  · subst here
    refine ⟨_, runOf_runMod_same run fun _ => rfl, ?_⟩
    by_cases same : c = b
    · subst same
      rw [if_pos ⟨rfl, rfl⟩]
      exact mgetD_mmod_same _ _ _ _
    · rw [if_neg fun h => same h.2]
      exact mgetD_mmod_other _ (Ne.symm same) _ _
  · refine ⟨r, Eq.trans ?_ run, (if_neg fun h => here h.1).symm⟩
    exact runOf_runMod_other here (f := fun r => { r with bags := mmod r.bags c BagInfo.fresh f }) (fun _ => rfl) s

theorem failBag_seen {s : State} {o c ord b : Nat} {r : Run} (run : runOf s ord = some r) (st : Status) :
    ∃ q, runOf (failBag o c st s) ord = some q ∧ bagOf q b =
      if o = ord ∧ c = b then (if (bagOf r b).isOver then bagOf r b else { bagOf r b with state := .failed st }) else bagOf r b := by
  obtain ⟨q, found, bag⟩ := bagMod_seen (o := o) (c := c) (b := b) run (fun i => if i.isOver then i else { i with state := .failed st })
  exact ⟨q, (runOf_of_only (closeSample_only o c _) (by decide) ord).trans found, bag⟩

/-! ## Bags that end -/

/-- A bag of an admitted Run has failed with CS_HOME_ABSENT. -/
def BagGone (ord b : Nat) (s : State) : Prop := ∃ q, runOf s ord = some q ∧ (bagOf q b).state = .failed .homeAbsent

/-- A bag of an admitted Run has failed with CS_HOME_ABSENT, or still can. -/
def BagEnds (ord b : Nat) (s : State) : Prop :=
  ∃ q, runOf s ord = some q ∧ ((bagOf q b).isOver = false ∨ (bagOf q b).state = .failed .homeAbsent)

section Fails

variable {s : State} {ord b : Nat}

theorem BagGone.of_qh {t : State} (h : BagGone ord b s) (qh : t.qh = s.qh) : BagGone ord b t := by
  unfold BagGone runOf at h ⊢
  rwa [qh]

theorem BagEnds.of_qh {t : State} (h : BagEnds ord b s) (qh : t.qh = s.qh) : BagEnds ord b t := by
  unfold BagEnds runOf at h ⊢
  rwa [qh]

theorem isOver_of_failed {i : BagInfo} {st : Status} (h : i.state = .failed st) : i.isOver = true := by
  unfold BagInfo.isOver
  rw [h]

theorem BagGone.failBag (h : BagGone ord b s) (o c : Nat) : BagGone ord b (failBag o c .homeAbsent s) := by
  obtain ⟨r, run, gone⟩ := h
  obtain ⟨q, found, bag⟩ := failBag_seen (o := o) (c := c) (b := b) run .homeAbsent
  rw [isOver_of_failed gone, if_pos rfl, ite_self] at bag
  exact ⟨q, found, bag ▸ gone⟩

theorem BagEnds.failBag (h : BagEnds ord b s) (o c : Nat) : BagEnds ord b (failBag o c .homeAbsent s) := by
  obtain ⟨r, run, ends⟩ := h
  obtain ⟨q, found, bag⟩ := failBag_seen (o := o) (c := c) (b := b) run .homeAbsent
  refine ⟨q, found, ?_⟩
  rw [bag]
  split
  · split
    · exact ends
    · exact .inr rfl
  · exact ends

theorem BagEnds.failed (h : BagEnds ord b s) : BagGone ord b (Machine.failBag ord b .homeAbsent s) := by
  obtain ⟨r, run, ends⟩ := h
  obtain ⟨q, found, bag⟩ := failBag_seen (o := ord) (c := b) (b := b) run .homeAbsent
  rw [if_pos ⟨rfl, rfl⟩] at bag
  refine ⟨q, found, ?_⟩
  rw [bag]
  split
  next gone => exact ends.resolve_left (by simp [gone])
  next => rfl

/-- The bags of some entries of a wait list fail. -/
def failAll (l : List WaitBag) (s : State) : State := l.foldl (fun t w => Machine.failBag w.ord w.bag .homeAbsent t) s

theorem failAll_only (l : List WaitBag) (s : State) : OnlyIn [.qh, .ctr] s (failAll l s) :=
  OnlyIn.foldl (fun t (w : WaitBag) => (failBag_only w.ord w.bag .homeAbsent t).mono (by decide)) l s

theorem BagGone.failAll (h : BagGone ord b s) (l : List WaitBag) : BagGone ord b (failAll l s) := by
  induction l generalizing s with
  | nil => exact h
  | cons w l ih => exact ih (h.failBag w.ord w.bag)

theorem BagEnds.failAll (h : BagEnds ord b s) (l : List WaitBag) : BagEnds ord b (Machine.failAll l s) := by
  induction l generalizing s with
  | nil => exact h
  | cons w l ih => exact ih (h.failBag w.ord w.bag)

theorem failAll_fails {w : WaitBag} {l : List WaitBag} (mem : w ∈ l) (h : BagEnds w.ord w.bag s) :
    BagGone w.ord w.bag (failAll l s) := by
  induction l generalizing s with
  | nil => cases mem
  | cons x l ih =>
    rcases List.mem_cons.mp mem with rfl | mem
    · exact h.failed.failAll l
    · exact ih mem (h.failBag x.ord x.bag)

end Fails

/-! ## A column's wait list -/

/-- A waiting bag waits for a notice of a remote row of this key. -/
def WaitBag.awaits (key : RowKey) (w : WaitBag) : Bool := w.rows.any (fun y => y.key == key && !y.noticed && !y.isLocal)

theorem WaitBag.awaits_of_mem {w : WaitBag} {x : WaitRow} (mem : x ∈ w.rows) (waits : x.noticed = false) (remote : x.isLocal = false) :
    w.awaits x.key = true := List.any_eq_true.mpr ⟨x, mem, by simp [waits, remote]⟩

section Absent

variable {s : State} {ord b : Nat}

theorem absentWait_eq (col : Nat) (key : RowKey) (s : State) :
    absentWait col key s = if ((colOf s col).wait.filter (WaitBag.awaits key)).isEmpty then s
      else colMod col (fun c => { c with wait := c.wait.filter (fun w => !w.awaits key) })
        (failAll ((colOf s col).wait.filter (WaitBag.awaits key)) s) := rfl

theorem colOf_absentWait_other {c col : Nat} (h : col ≠ c) (key : RowKey) : colOf (absentWait c key s) col = colOf s col := by
  rw [absentWait_eq]
  split
  · rfl
  · rw [colOf_colMod_other h, colOf_of_only (failAll_only _ s) (by decide)]

theorem BagGone.absentWait (h : BagGone ord b s) (c : Nat) (key : RowKey) : BagGone ord b (absentWait c key s) := by
  rw [absentWait_eq]
  split
  · exact h
  · exact (h.failAll _).of_qh rfl

theorem BagEnds.absentWait (h : BagEnds ord b s) (c : Nat) (key : RowKey) : BagEnds ord b (Machine.absentWait c key s) := by
  rw [absentWait_eq]
  split
  · exact h
  · exact (h.failAll _).of_qh rfl

/-- No bag of the wait list awaits the key any more. -/
theorem absentWait_drops (col : Nat) {key : RowKey} {w : WaitBag} (waits : w.awaits key = true) : w ∉ (colOf (absentWait col key s) col).wait := by
  rw [absentWait_eq]
  split
  next none =>
    intro mem
    rw [List.isEmpty_iff, List.filter_eq_nil_iff] at none
    exact none w mem waits
  next =>
    rw [colOf_colMod_same]
    intro mem
    simpa [waits] using (List.mem_filter.mp mem).2

/-- A bag that awaits the key has failed. -/
theorem absentWait_fails {col : Nat} {key : RowKey} {w : WaitBag} (mem : w ∈ (colOf s col).wait) (waits : w.awaits key = true)
    (ends : BagEnds w.ord w.bag s) : BagGone w.ord w.bag (absentWait col key s) := by
  have listed : w ∈ (colOf s col).wait.filter (WaitBag.awaits key) := List.mem_filter.mpr ⟨mem, waits⟩
  rw [absentWait_eq, if_neg (by rw [List.isEmpty_iff]; exact List.ne_nil_of_mem listed)]
  exact (failAll_fails listed ends).of_qh rfl

/-- The columns of a list give up the bags that await a key, one after the other. -/
def absentIn (l : List Nat) (key : RowKey) (s : State) : State := l.foldl (fun t c => absentWait c key t) s

theorem BagGone.absentIn (h : BagGone ord b s) (l : List Nat) (key : RowKey) : BagGone ord b (absentIn l key s) := by
  induction l generalizing s with
  | nil => exact h
  | cons c l ih => exact ih (h.absentWait c key)

theorem colOf_absentIn_other {col : Nat} {l : List Nat} (h : col ∉ l) (key : RowKey) : colOf (absentIn l key s) col = colOf s col := by
  induction l generalizing s with
  | nil => rfl
  | cons c l ih =>
    obtain ⟨apart, rest⟩ := List.ne_and_not_mem_of_not_mem_cons h
    exact (ih rest).trans (colOf_absentWait_other apart key)

theorem absentIn_ends {col : Nat} {key : RowKey} {w : WaitBag} {l : List Nat} (once : l.Nodup) (named : col ∈ l)
    (mem : w ∈ (colOf s col).wait) (waits : w.awaits key = true) (ends : BagEnds w.ord w.bag s) :
    BagGone w.ord w.bag (absentIn l key s) ∧ w ∉ (colOf (absentIn l key s) col).wait := by
  induction l generalizing s with
  | nil => cases named
  | cons c l ih =>
    obtain ⟨fresh, once⟩ := List.nodup_cons.mp once
    by_cases here : col = c
    · subst here
      refine ⟨(absentWait_fails mem waits ends).absentIn l key, ?_⟩
      exact (colOf_absentIn_other (s := absentWait col key s) fresh key).symm ▸ absentWait_drops col waits
    · refine ih once ((List.mem_cons.mp named).resolve_left here) ?_ (ends.absentWait c key)
      rwa [colOf_absentWait_other here]

end Absent

/-! ## A packet that has arrived -/

section Arrive

variable {s : State} {port : Nat} {h : PktHdr} {b : PktBody} (comes : comesFrom port { hdr := h, body := b } s = true)

include comes

theorem arrive_behind (behind : waitsBehind (portAt s port) { hdr := h, body := b } = true) (f : State → State) :
    arrive port h b s f = .next (stay port { hdr := h, body := b } s) := by
  unfold arrive
  simp only [comes, behind, Bool.not_true, Bool.false_eq_true, if_false, if_true]

/-- A packet of this K40 leaves its cells and takes effect. -/
theorem arrive_here (first : waitsBehind (portAt s port) { hdr := h, body := b } = false) (hops : h.hops < 15) (here : h.dest = self s)
    (f : State → State) : arrive port h b s f = .next (f (takeRx port { hdr := h, body := b } s)) := by
  unfold arrive
  simp only [comes, first, Bool.not_true, Bool.false_eq_true, if_false, Nat.not_le.mpr hops, here, if_true]

end Arrive

/-- UPDATE and MARK alone wait behind others (R375). -/
theorem waitsBehind_of_class {k : Packet} (h : (classNo k.body == 3) = false) (p : Port) : waitsBehind p k = false := by
  unfold waitsBehind
  rw [h, Bool.false_and]

theorem comesFrom_link {port : Nat} {s : State} (link : port < 8) (runs : spanRuns s = true) (k : Packet) : comesFrom port k s = true := by
  simp [comesFrom, link, runs]

/-- An ABSENT for a promotion: in every column the bags that wait on the row end (R147). -/
theorem takeAbsent_promote {p : AbsentPkt} (promote : p.kind = 3) (s : State) :
    takeAbsent p s = absentIn (List.range 40) (keyOfWord p.w8) s := by
  unfold takeAbsent
  rw [if_neg (by omega), if_pos promote]
  rfl

/-! ## The statement -/

/-- Settles O60: the bags of the wait lists that await the key fail in each column's turn, and no later turn changes that. -/
theorem waitingBagsEnd : Obligations.WaitingBagsEnd := by
  unfold Obligations.WaitingBagsEnd
  intro s col w x r mem row waits remote run going
  have awaits := WaitBag.awaits_of_mem row waits remote
  have ends : BagEnds w.ord w.bag s := ⟨r, run, .inl going⟩
  refine ⟨fun port h p column link runs hops here promote key => ?absent, fun idx listed away route => ?resend⟩
  case absent =>
    refine ⟨_, arrive_here (comesFrom_link link runs _) (waitsBehind_of_class rfl _) hops here _, ?_⟩
    have taken := takeRx_only port { hdr := h, body := .absent p } s
    rw [takeAbsent_promote promote, key]
    refine absentIn_ends List.nodup_range (List.mem_range.mpr column) ?_ awaits (ends.of_qh (taken.same .qh (by decide)))
    rwa [colOf_of_only taken (by decide)]
  case resend =>
    have told := noteAbsent_only x.home s
    refine ⟨_, promoteResend_absent listed run ((trySend_away away _).trans (by rw [route]; rfl)),
      absentWait_fails ?_ awaits (ends.of_qh (told.same .qh (by decide))), absentWait_drops col awaits⟩
    rwa [colOf_of_only told (by decide)]

end Sys2Proof.Machine

/-! SUPPORT. What a packet that this K40 takes leaves: the cells that it lay in are given back, and each kind takes its effect. -/

namespace Sys2Proof.Machine

open Sys2Proof

/-! ## Cells given back -/

/-- From `s` to `t` the ports give cells back: nothing else of Span changes, and no port counts a corrupt packet. -/
structure CellsFreed (s t : State) : Prop where
  span : t.span = { s.span with ports := t.span.ports }
  corrupt : ∀ p, (portAt t p).corrupt = (portAt s p).corrupt

theorem CellsFreed.refl (s : State) : CellsFreed s s := ⟨rfl, fun _ => rfl⟩

theorem CellsFreed.trans {a b c : State} (h : CellsFreed a b) (k : CellsFreed b c) : CellsFreed a c :=
  ⟨k.span.trans (by rw [h.span]), fun p => (k.corrupt p).trans (h.corrupt p)⟩

theorem CellsFreed.foldl {α : Type} {f : State → α → State} (h : ∀ t a, CellsFreed t (f t a)) (xs : List α) (s : State) :
    CellsFreed s (xs.foldl f s) := by
  induction xs generalizing s with
  | nil => exact .refl s
  | cons a xs ih => exact (h s a).trans (ih _)

/-- Any other field of Span is what it was. -/
theorem CellsFreed.keeps {α : Type} {s t : State} (h : CellsFreed s t) (f : Span → α) (apart : ∀ x ps, f { x with ports := ps } = f x) :
    f t.span = f s.span := by rw [h.span, apart]

theorem portMod_freed (p : Nat) {f : Port → Port} (s : State) (h : ∀ x, (f x).corrupt = x.corrupt := by exact fun _ => rfl) :
    CellsFreed s (portMod p f s) := by
  refine ⟨rfl, fun q => ?_⟩
  by_cases same : q = p
  · subst same
    exact (congrArg Port.corrupt (mgetD_mmod_same s.span.ports q Port.reset f)).trans (h _)
  · exact congrArg Port.corrupt (mgetD_mmod_other s.span.ports same Port.reset f)

theorem emitIdle_corrupt (p : Port) : p.emitIdle.corrupt = p.corrupt := by
  unfold Port.emitIdle
  split <;> rfl

theorem giveCredit_corrupt (n : Nat) (p : Port) : (Port.giveCredit n p).corrupt = p.corrupt := by
  induction n generalizing p with
  | zero => rfl
  | succ n ih =>
    unfold Port.giveCredit
    split
    · exact (ih _).trans (emitIdle_corrupt p)
    · rfl

theorem grantNow_freed (p : Nat) (s : State) : CellsFreed s (grantNow p s) := by
  unfold grantNow
  split
  · have moved := portMod_freed p s (giveCredit_corrupt 16)
    exact ⟨moved.span, moved.corrupt⟩
  · exact .refl s

theorem oweCells_freed (l : List (Nat × Nat × Nat)) (s : State) : CellsFreed s (oweCells l s) := by
  refine .foldl (fun t x => ?_) l s
  exact portMod_freed x.1 t

theorem returnCells_freed (l : List (Nat × Nat × Nat)) (s : State) : CellsFreed s (returnCells l s) :=
  (oweCells_freed l s).trans (.foldl (fun t p => grantNow_freed p t) _ _)

theorem takeRx_freed (port : Nat) (k : Packet) (s : State) : CellsFreed s (takeRx port k s) := by
  refine .trans ?_ (returnCells_freed (rxLent s port k) _)
  unfold dropRx
  split
  · exact portMod_freed port s
  · exact .refl s

/-! ## What a packet's place among those received does not decide -/

section Taken

variable (s : State) (port : Nat) (k : Packet)

theorem takeRx_ldg : (takeRx port k s).ldg = s.ldg := (takeRx_only port k s).same .ldg (by decide)
theorem takeRx_tables : (takeRx port k s).tables = s.tables := (takeRx_only port k s).same .tables (by decide)
theorem takeRx_maps : (takeRx port k s).maps = s.maps := (takeRx_only port k s).same .maps (by decide)
theorem takeRx_cols : (takeRx port k s).cols = s.cols := (takeRx_only port k s).same .cols (by decide)
theorem takeRx_lrd : (takeRx port k s).lrd = s.lrd := (takeRx_only port k s).same .lrd (by decide)
theorem takeRx_self : self (takeRx port k s) = self s := (takeRx_freed port k s).keeps Span.nodeId fun _ _ => rfl

theorem takeRx_reqOf (tag : Nat) : reqOf (takeRx port k s) tag = reqOf s tag :=
  (takeRx_freed port k s).keeps (fun x : Span => x.reqs.find? (fun q : Req => q.tag == tag)) fun _ _ => rfl

theorem takeRx_reqs : (takeRx port k s).span.reqs = s.span.reqs := (takeRx_freed port k s).keeps Span.reqs fun _ _ => rfl
theorem takeRx_cseqOut : (takeRx port k s).span.cseqOut = s.span.cseqOut := (takeRx_freed port k s).keeps Span.cseqOut fun _ _ => rfl
theorem takeRx_marks : (takeRx port k s).span.marks = s.span.marks := (takeRx_freed port k s).keeps Span.marks fun _ _ => rfl

theorem takeRx_homeReads : (takeRx port k s).span.homeReads = s.span.homeReads :=
  (takeRx_freed port k s).keeps Span.homeReads fun _ _ => rfl

theorem takeRx_lateAnswers : (takeRx port k s).span.lateAnswers = s.span.lateAnswers :=
  (takeRx_freed port k s).keeps Span.lateAnswers fun _ _ => rfl

theorem takeRx_crierGaps : (takeRx port k s).span.crierGaps = s.span.crierGaps :=
  (takeRx_freed port k s).keeps Span.crierGaps fun _ _ => rfl

theorem takeRx_cseqIn : (takeRx port k s).span.cseqIn = s.span.cseqIn := (takeRx_freed port k s).keeps Span.cseqIn fun _ _ => rfl

theorem takeRx_liveTable (tid : Nat) : liveTable (takeRx port k s) tid = liveTable s tid := by
  unfold liveTable
  rw [takeRx_tables]

theorem takeRx_stackShut : stackShut (takeRx port k s) = stackShut s := by
  unfold stackShut
  rw [(takeRx_only port k s).same .hbmStacks (by decide)]

theorem takeRx_mapOf (t : Table) : mapOf (takeRx port k s) t = mapOf s t := by
  unfold mapOf
  rw [takeRx_maps]

theorem takeRx_homesKey (t : Table) (key : RowKey) : homesKey (takeRx port k s) t key = homesKey s t key := by
  unfold homesKey
  rw [takeRx_mapOf, takeRx_self]

theorem takeRx_rowPhase (t : Table) (key : RowKey) : rowPhase (takeRx port k s) t key = rowPhase s t key := by
  unfold rowPhase
  rw [takeRx_mapOf]

end Taken

/-! ## READ -/

theorem addRef_tables {s t : State} (h : t.tables = s.tables) (tid slot : Nat) : (addRef tid slot t).tables = (addRef tid slot s).tables := by
  unfold addRef tableMod
  rw [h]
  split
  · rfl
  · exact h

section Read

variable {s : State} {h : PktHdr} {p : ReadPkt}

theorem takeRead_absent (absent : liveTable s p.tid = none) : takeRead h p s = answerRead h p .tableAbsent s := by
  unfold takeRead
  rw [absent]

variable {t : Table} (live : liveTable s p.tid = some t)

include live

theorem takeRead_shut (shut : t.shut ≠ none ∨ stackShut s = true) : takeRead h p s = answerRead h p .shuttered s := by
  unfold takeRead
  rw [live]
  exact if_pos (by rwa [Option.isSome_iff_ne_none])

theorem takeRead_waits (openTable : t.shut = none) (openStack : stackShut s = false)
    (epoch : ((mapOf s t).map (fun m => epochLater p.epoch m.epoch)).getD false = false) (homed : homesKey s t (readKeyOf p) = true)
    (phase : rowPhase s t (readKeyOf p) = .here ∨ rowPhase s t (readKeyOf p) = .waiting)
    (slot : (vslot t p.slot).state = .active ∨ (vslot t p.slot).state = .draining ∧ p.place = false) :
    takeRead h p s = queueRead t h p s := by
  have serves : (vslot t p.slot).state = .active ∨ (vslot t p.slot).state = .draining ∧ (!p.place) = true := by simpa using slot
  unfold takeRead
  simp only [live, openTable, openStack, epoch, homed, Option.isSome_none, Bool.false_eq_true, or_self, Bool.not_true, if_false]
  rcases phase with here | waiting
  · rw [here]
    exact if_pos serves
  · rw [waiting]
    exact if_pos serves

omit live

theorem queueRead_queues (t : Table) (h : PktHdr) (p : ReadPkt) (s : State) : (queueRead t h p s).tables = (addRef p.tid p.slot s).tables ∧
    ∃ r : HomeRead, (queueRead t h p s).span.homeReads = s.span.homeReads ++ [r] ∧ r.origin = .node h.src p.tag ∧
      r.key = readKeyOf p ∧ r.slot = p.slot ∧ r.slice = p.slice ∧ r.step = p.step := by
  have refs : (addRef p.tid p.slot s).span = s.span := (addRef_only p.tid p.slot s).same .span (by decide)
  unfold queueRead
  dsimp only
  split
  · exact ⟨rfl, _, congrArg (·.homeReads ++ _) refs, rfl, rfl, rfl, rfl, rfl⟩
  · exact ⟨rfl, _, congrArg (·.homeReads ++ _) refs, rfl, rfl, rfl, rfl, rfl⟩

end Read

/-! ## UPDATE and MARK -/

theorem readCseq_span (expected : Bool) (src : Nat) (s : State) : (readCseq expected src s).span = s.span :=
  (readCseq_only expected src s).same .span (by decide)

theorem readCseq_lrd (expected : Bool) (src : Nat) (s : State) : (readCseq expected src s).lrd = s.lrd :=
  (readCseq_only expected src s).same .lrd (by decide)

/-- An UPDATE or MARK with the CSEQ expected: the next one is expected (R389). -/
theorem crierTake_expected {s : State} {src cseq : Nat} (h : mget s.span.cseqIn src = some cseq) : crierTake src cseq s =
    (true, { readCseq true src s with
      span := { (readCseq true src s).span with cseqIn := mset s.span.cseqIn src ((cseq + 1) % 65536) } }) := by
  unfold crierTake
  simp only [readCseq_span, h, if_true]

/-- Any other: the CSEQ of its source is forgotten and a gap counted (R389). -/
theorem crierTake_gap {s : State} {src cseq : Nat} (h : mget s.span.cseqIn src ≠ some cseq) : (crierTake src cseq s).1 = false ∧
    (crierTake src cseq s).2.lrd = s.lrd ∧ (crierTake src cseq s).2.span.marks = s.span.marks ∧
    mget (crierTake src cseq s).2.span.cseqIn src = none ∧
    (crierTake src cseq s).2.span.crierGaps = satAdd 16 s.span.crierGaps 1 := by
  have lrd := readCseq_lrd true src s
  unfold crierTake
  simp only [readCseq_span]
  split
  next unknown => exact ⟨rfl, lrd, rfl, unknown, rfl⟩
  next e known =>
    rw [if_neg fun same : e = cseq => h (same ▸ known)]
    exact ⟨rfl, lrd, rfl, mget_mdel_same _ _, rfl⟩

theorem takeUpdate_discards {s : State} {src : Nat} {p : UpdatePkt} (h : s.lrd.replicas.find? (fun x => x.tid == p.tid && x.slot == p.slot &&
    x.row == p.row && x.defkey == p.defkey && x.home == src) = none) :
    takeUpdate src p s = { s with lrd := { s.lrd with crierDiscarded := satAdd 16 s.lrd.crierDiscarded 1 } } := by
  unfold takeUpdate
  rw [h]

/-! ## PARTIAL -/

theorem corruptPacket_ldg (port n partials : Nat) (s : State) :
    (corruptPacket port n partials s).ldg = { s.ldg with dropped := satAdd 24 s.ldg.dropped partials } := rfl

theorem corruptPacket_corrupt (port n partials : Nat) (s : State) :
    (portAt (corruptPacket port n partials s) port).corrupt = satAdd 8 (portAt s port).corrupt n :=
  congrArg Port.corrupt (mgetD_mmod_same s.span.ports port Port.reset fun p => { p with corrupt := satAdd 8 p.corrupt n })

theorem part_unsound {s : State} {port : Nat} {p : PartialPkt} (link : port < 8) (runs : spanRuns s = true)
    (bad : codesOk p.w16 p.codes = false) (h : PktHdr) :
    exec (.part port h p) s = .next (corruptPacket port 1 1 (takeRx port { hdr := h, body := .part p } s)) :=
  if_pos ⟨link, runs, by rw [bad]; rfl⟩

section Part

variable {s : State} {port : Nat} {h : PktHdr} {p : PartialPkt} (sound : codesOk p.w16 p.codes = true)
  (comes : comesFrom port { hdr := h, body := .part p } s = true) (here : h.dest = self s)

include sound comes here

theorem part_stays (full : 4096 ≤ s.ldg.input.length) : exec (.part port h p) s = .next (stay port { hdr := h, body := .part p } s) := by
  change execPart port h p s = _
  unfold execPart
  simp only [sound, comes, here, full, Bool.not_true, Bool.false_eq_true, and_false, and_self, if_false, if_true]

theorem part_joins (room : s.ldg.input.length < 4096) (hops : h.hops < 15) : Leads (exec (.part port h p) s) (fun t => ∃ c : Contrib,
    t.ldg = { s.ldg with input := s.ldg.input ++ [c] } ∧ c.key = partKey p ∧ c.slice = p.slice ∧ c.step = p.step ∧ c.epoch = p.epoch ∧
    c.vals = partValues p ∧ c.contrib = p.contrib ∧ c.tokens = p.tokens) := by
  change Leads (execPart port h p s) _
  unfold execPart
  simp only [sound, Bool.not_true, Bool.false_eq_true, and_false, if_false, Nat.not_le.mpr room]
  rw [arrive_here comes (waitsBehind_of_class rfl _) hops here]
  refine ⟨_, rfl, ?_⟩
  rw [takeRx_ldg]
  exact ⟨_, rfl, rfl, rfl, rfl, rfl, rfl, rfl, rfl⟩

end Part

/-! ## Each kind where it is taken -/

section Here

variable {s u : State} {port : Nat} {h : PktHdr} {b : PktBody} (comes : comesFrom port { hdr := h, body := b } s = true)
  (first : waitsBehind (portAt s port) { hdr := h, body := b } = false) (hops : h.hops < 15) (here : h.dest = self s)
  (freed : u = takeRx port { hdr := h, body := b } s)

include comes first hops here freed

theorem read_taken {p : ReadPkt} (kind : b = .read p) : exec (.read port h p) s = .next (takeRead h p u) := by
  subst kind freed
  exact arrive_here comes first hops here _

theorem row_late {p : RowPkt} (kind : b = .row p) (late : reqOf s p.tag = none) : exec (.row port h p) s = .next (lateAnswer u) := by
  subst kind freed
  refine (arrive_here comes first hops here _ : execRow port h p s = _).trans ?_
  rw [takeRx_reqOf, late]

theorem row_known {p : RowPkt} (kind : b = .row p) {q : Req} (known : reqOf s p.tag = some q) :
    exec (.row port h p) s = .next (takeRow q p u) := by
  subst kind freed
  refine (arrive_here comes first hops here _ : execRow port h p s = _).trans ?_
  rw [takeRx_reqOf, known]

theorem promote_homed {p : KeyPkt} (kind : b = .promote p) {t : Table} (there : mget s.tables p.tid = some t)
    (homed : homesKey s t { tid := p.tid, defkey := p.defkey, row := p.row } = true) : exec (.promote port h p) s =
      .next (commitMod (fun c => { c with promoIn := c.promoIn ++
        [{ key := { tid := p.tid, defkey := p.defkey, row := p.row }, step := p.step, who := .node h.src }] }) u) := by
  subst kind freed
  refine (arrive_here comes first hops here _ : execPromote port h p s = _).trans ?_
  dsimp only
  rw [takeRx_tables, there, Option.map_some, takeRx_homesKey, homed, if_pos rfl]

theorem promote_away {p : KeyPkt} (kind : b = .promote p)
    (away : ∀ t, mget s.tables p.tid = some t → homesKey s t { tid := p.tid, defkey := p.defkey, row := p.row } = false) :
    exec (.promote port h p) s =
      .next (sendOwn h.src (.notice (keyPkt { tid := p.tid, defkey := p.defkey, row := p.row } p.step)) u) := by
  subst kind freed
  refine (arrive_here comes first hops here _ : execPromote port h p s = _).trans ?_
  dsimp only
  rw [takeRx_tables]
  cases there : mget s.tables p.tid with
  | none => rfl
  | some t =>
    rw [Option.map_some, takeRx_homesKey, away t there]
    rfl

theorem notice_taken {p : KeyPkt} (kind : b = .notice p) : exec (.notice port h p) s =
    .next { u with cols := u.cols.map (fun c => (c.1, c.2.notice { tid := p.tid, defkey := p.defkey, row := p.row })) } := by
  subst kind freed
  exact (arrive_here comes first hops here _ : execNotice port h p s = _)

theorem absent_late {p : AbsentPkt} (kind : b = .absent p) (read : p.kind = 1) (late : reqOf s p.tag = none) :
    exec (.absent port h p) s = .next (lateAnswer u) := by
  subst kind freed
  refine (arrive_here comes first hops here _ : execAbsent port h p s = _).trans ?_
  unfold takeAbsent
  rw [if_pos read, takeRx_reqOf, late]

theorem absent_known {p : AbsentPkt} (kind : b = .absent p) (read : p.kind = 1) {q : Req} (known : reqOf s p.tag = some q) :
    exec (.absent port h p) s = .next (failReq q .homeAbsent u) := by
  subst kind freed
  refine (arrive_here comes first hops here _ : execAbsent port h p s = _).trans ?_
  unfold takeAbsent
  rw [if_pos read, takeRx_reqOf, known]

theorem absent_promote {p : AbsentPkt} (kind : b = .absent p) (promote : p.kind = 3) :
    exec (.absent port h p) s = .next (absentIn (List.range 40) (keyOfWord p.w8) u) := by
  subst kind freed
  exact (arrive_here comes first hops here _ : execAbsent port h p s = _).trans (congrArg _ (takeAbsent_promote promote _))

/-- An UPDATE in its place (R389). -/
theorem update_expected {p : UpdatePkt} (kind : b = .update p) (expected : mget s.span.cseqIn h.src = some p.cseq) :
    exec (.update port h p) s = .next (takeUpdate h.src p { readCseq true h.src u with
      span := { (readCseq true h.src u).span with cseqIn := mset s.span.cseqIn h.src ((p.cseq + 1) % 65536) } }) := by
  subst kind freed
  have known := takeRx_cseqIn s port { hdr := h, body := .update p }
  refine (arrive_here comes first hops here _ : execUpdate port h p s = _).trans ?_
  rw [crierTake_expected (by rw [known]; exact expected), known]
  rfl

theorem update_gap {p : UpdatePkt} (kind : b = .update p) (other : mget s.span.cseqIn h.src ≠ some p.cseq) :
    exec (.update port h p) s = .next (crierTake h.src p.cseq u).2 := by
  subst kind freed
  refine (arrive_here comes first hops here _ : execUpdate port h p s = _).trans ?_
  have gap := (crierTake_gap (s := takeRx port { hdr := h, body := .update p } s) (by rw [takeRx_cseqIn]; exact other)).1
  dsimp only
  rw [gap]
  rfl

theorem mark_expected {p : MarkPkt} (kind : b = .mark p) (expected : mget s.span.cseqIn h.src = some p.cseq) :
    exec (.mark port h p) s = .next { readCseq true h.src u with
      span := { (readCseq true h.src u).span with
        cseqIn := mset s.span.cseqIn h.src ((p.cseq + 1) % 65536),
        marks := mset (readCseq true h.src u).span.marks (h.src * 4096 + p.tid) p.step } } := by
  subst kind freed
  have known := takeRx_cseqIn s port { hdr := h, body := .mark p }
  refine (arrive_here comes first hops here _ : execMark port h p s = _).trans ?_
  rw [crierTake_expected (by rw [known]; exact expected), known]
  rfl

theorem mark_gap {p : MarkPkt} (kind : b = .mark p) (other : mget s.span.cseqIn h.src ≠ some p.cseq) :
    exec (.mark port h p) s = .next (crierTake h.src p.cseq u).2 := by
  subst kind freed
  refine (arrive_here comes first hops here _ : execMark port h p s = _).trans ?_
  have gap := (crierTake_gap (s := takeRx port { hdr := h, body := .mark p } s) (by rw [takeRx_cseqIn]; exact other)).1
  dsimp only
  rw [gap]
  rfl

end Here

/-- An answer to no request is counted, and no request ends (R376). -/
theorem lateAnswer_counts (s : State) (port : Nat) (k : Packet) :
    (lateAnswer (takeRx port k s)).span.lateAnswers = satAdd 16 s.span.lateAnswers 1 ∧
      (lateAnswer (takeRx port k s)).span.reqs = s.span.reqs :=
  ⟨congrArg (satAdd 16 · 1) (takeRx_lateAnswers s port k), takeRx_reqs s port k⟩

/-- What a gap in a source's sequence leaves, after its packet has left the cells (R389). -/
theorem crierTake_gap_taken {s : State} {src cseq : Nat} (other : mget s.span.cseqIn src ≠ some cseq) (port : Nat) (k : Packet) :
    (crierTake src cseq (takeRx port k s)).2.lrd = s.lrd ∧ (crierTake src cseq (takeRx port k s)).2.span.marks = s.span.marks ∧
    mget (crierTake src cseq (takeRx port k s)).2.span.cseqIn src = none ∧
    (crierTake src cseq (takeRx port k s)).2.span.crierGaps = satAdd 16 s.span.crierGaps 1 := by
  obtain ⟨-, lrd, marks, forgotten, gaps⟩ := crierTake_gap (s := takeRx port k s) (by rw [takeRx_cseqIn]; exact other)
  exact ⟨lrd.trans (takeRx_lrd s port k), marks.trans (takeRx_marks s port k), forgotten, gaps.trans (by rw [takeRx_crierGaps])⟩

/-- The answer to a READ, from the state in which its cells are free (R370, R390). -/
theorem answerRead_taken (s : State) (port : Nat) (k : Packet) (h : PktHdr) (p : ReadPkt) (st : Status) :
    answerRead h p st (takeRx port k s) =
      if p.resync then sendOwn h.src (.row (rowPktOf p.tag p.slice st false none (mgetD s.span.cseqOut h.src 0)))
        (readCseq false h.src (takeRx port k s))
      else sendOwn h.src (.row (rowPktOf p.tag p.slice st false none 0)) (takeRx port k s) := by
  unfold answerRead nextCseq
  rw [takeRx_cseqOut]
  dsimp only
  split <;> rfl

/-! ## The statement -/

/-- Settles O40: by kind, the effect of a packet once its cells are free. -/
theorem packetsTaken : Obligations.PacketsTaken := by
  unfold Obligations.PacketsTaken
  refine ⟨fun s port h b comes behind => ⟨fun p kind => ?updateBehind, fun p kind => ?markBehind⟩,
    fun s port p link runs bad h => ⟨_, part_unsound link runs bad h, ?dropped, ?corrupt⟩,
    fun s port h b u comes first hops here freed => ⟨fun p a kind answer => ?read, fun p kind => ?row, fun p key kind hkey => ?promote,
      fun p kind => ?notice, fun p kind => ?absent, fun p kind sound => ?part, fun p w kind => ?update, fun p kind => ?mark⟩⟩
  case updateBehind =>
    subst kind
    exact (arrive_behind comes behind _ : execUpdate port h p s = _)
  case markBehind =>
    subst kind
    exact (arrive_behind comes behind _ : execMark port h p s = _)
  case dropped => rw [corruptPacket_ldg, takeRx_ldg]
  case corrupt => rw [corruptPacket_corrupt, (takeRx_freed port _ s).corrupt]
  case read =>
    have taken := read_taken comes first hops here freed kind
    have answers (st : Status) : answerRead h p st u = a st := by rw [freed, answerRead_taken, answer, freed]
    refine ⟨fun absent => ?_, fun t live shut => ?_, fun t live openTable openStack epoch homed phase slot => ?_⟩
    · rw [taken, takeRead_absent (by rw [freed, takeRx_liveTable, absent]), answers]
    · rw [taken, takeRead_shut (by rw [freed, takeRx_liveTable, live]) (by rwa [freed, takeRx_stackShut]), answers]
    · have waits := takeRead_waits (s := u) (h := h) (p := p) (by rw [freed, takeRx_liveTable, live]) openTable
        (by rw [freed, takeRx_stackShut, openStack]) (by rw [freed, takeRx_mapOf, epoch]) (by rw [freed, takeRx_homesKey, homed])
        (by rwa [freed, takeRx_rowPhase]) slot
      obtain ⟨refs, r, reads, fields⟩ := queueRead_queues t h p u
      obtain ⟨origin, key, slot, slice, step⟩ := fields
      refine ⟨_, by rw [taken, waits], r, ?_, origin, key, slot, slice, step, ?_⟩
      · rw [reads, freed, takeRx_homeReads]
      · exact refs.trans (addRef_tables (by rw [freed, takeRx_tables]) _ _)
  case row =>
    refine ⟨fun late => ⟨_, row_late comes first hops here freed kind late, ?_⟩, fun q known => row_known comes first hops here freed kind known⟩
    rw [freed]
    exact lateAnswer_counts s port _
  case promote =>
    subst hkey
    refine ⟨fun t there homed => ⟨_, promote_homed comes first hops here freed kind there homed, ?_⟩,
      fun away => promote_away comes first hops here freed kind away⟩
    have ldg : u.ldg = s.ldg := by rw [freed, takeRx_ldg]
    unfold commitMod
    rw [ldg]
  case notice =>
    refine ⟨_, notice_taken comes first hops here freed kind, ?_⟩
    rw [freed, takeRx_cols]
  case absent =>
    refine ⟨fun read late => ⟨_, absent_late comes first hops here freed kind read late, ?_⟩,
      fun q read known => absent_known comes first hops here freed kind read known,
      fun promote => absent_promote comes first hops here freed kind promote⟩
    rw [freed]
    exact lateAnswer_counts s port _
  case part =>
    subst kind
    exact ⟨fun room => part_joins sound comes here room hops, fun full => part_stays sound comes here full⟩
  case update =>
    refine ⟨fun expected place => ?_, fun expected unknown => ⟨_, update_expected comes first hops here freed kind expected, ?_⟩,
      fun other => ⟨_, update_gap comes first hops here freed kind other, ?_⟩⟩
    · rw [update_expected comes first hops here freed kind expected, place, readCseq_span, freed, takeRx_cseqIn]
    · have lrd : (readCseq true h.src u).lrd = s.lrd := by rw [readCseq_lrd, freed, takeRx_lrd]
      rw [takeUpdate_discards (by rw [← lrd] at unknown; exact unknown)]
      exact ⟨by rw [lrd], mget_mset_same _ _ _⟩
    · obtain ⟨lrd, -, forgotten, gaps⟩ := crierTake_gap_taken other port { hdr := h, body := b }
      rw [freed]
      exact ⟨lrd, forgotten, gaps⟩
  case mark =>
    refine ⟨fun expected => ⟨_, mark_expected comes first hops here freed kind expected, mget_mset_same _ _ _, mget_mset_same _ _ _⟩,
      fun other => ⟨_, mark_gap comes first hops here freed kind other, ?_⟩⟩
    obtain ⟨-, marks, forgotten, gaps⟩ := crierTake_gap_taken other port { hdr := h, body := b }
    rw [freed]
    exact ⟨marks, forgotten, gaps⟩

end Sys2Proof.Machine

/-! SUPPORT. The Chip Data Ports: what an answer does for the request it names, and what a port's levels and credits become. -/

namespace Sys2Proof.Machine

open Sys2Proof

/-! ## Streams and transfers changed in place -/

theorem lmod_getElem?_same {α : Type} (l : List α) (i : Nat) (f : α → α) : (lmod l i f)[i]? = l[i]?.map f := by
  induction l generalizing i with
  | nil => simp [lmod]
  | cons x r ih =>
    cases i with
    | zero => rfl
    | succ i => exact ih i

theorem streamAt_stream {s : State} {ord i : Nat} {r : Run} {x : Stream} (run : runOf s ord = some r) (stream : r.streams[i]? = some x)
    (f : Stream → Stream) : ∃ q, runOf (streamAt ord i f s) ord = some q ∧ q.streams[i]? = some (f x) ∧
      q = { r with streams := lmod r.streams i f } :=
  ⟨_, runOf_runMod_same run fun _ => rfl, (lmod_getElem?_same _ _ _).trans (by rw [stream, Option.map_some]), rfl⟩

theorem xferOf_of_only {l : List Part} {s t : State} (h : OnlyIn l s t) (qh : Part.qh ∉ l) (ord : Nat) : xferOf t ord = xferOf s ord := by
  have same : t.qh = s.qh := h.same .qh qh
  unfold xferOf
  rw [same]

/-- The first element that passes a test is changed where it stands, when the change keeps what the test says. -/
theorem find?_lmap_same {α : Type} {l : List α} {p : α → Bool} {f : α → α} {x : α} (h : l.find? p = some x) (keeps : ∀ y, p (f y) = p y) :
    (lmap l p f).find? p = some (f x) := by
  have tested : (p ∘ fun y => if p y then f y else y) = p := by
    funext y
    dsimp only [Function.comp]
    split
    · exact keeps y
    · rfl
  unfold lmap
  rw [List.find?_map, tested, h, Option.map_some, if_pos (List.find?_some h)]

theorem xferOf_xferMod_same {s : State} {ord : Nat} {x : Xfer} {f : Xfer → Xfer} (h : xferOf s ord = some x) (keeps : ∀ y, (f y).ord = y.ord) :
    xferOf (xferMod ord f s) ord = some (f x) :=
  find?_lmap_same h fun y => congrArg (· == ord) (keeps y)

/-! ## What each owner is told -/

theorem readBytes_length (r : OutReq) (d : List Byte) : (readBytes r d).length = r.len := by simp [readBytes]

section Owners

variable {s : State} {r : OutReq}

theorem readDone_run {ord i ofs : Nat} {q : Run} {x : Stream} (owner : r.owner = .runRead ord i ofs) (run : runOf s ord = some q)
    (stream : q.streams[i]? = some x) (err : Bool) (bs : List Byte) : ∃ q', runOf (readDone r err bs s) ord = some q' ∧
      q'.streams[i]? = some { x with
        got := putBytes x.got ofs bs,
        badElems := x.badElems ++ if err then (elemsIn x.elem ofs bs.length).map (fun e => (e, Status.uncorrectable)) else [] } := by
  unfold readDone
  simp only [owner, run, Option.bind_some, stream]
  obtain ⟨q', found, changed, -⟩ := streamAt_stream run stream _
  exact ⟨q', found, changed⟩

theorem readDone_xfer {ord ofs : Nat} {x : Xfer} (owner : r.owner = .xferRead ord ofs) (xfer : xferOf s ord = some x) (err : Bool)
    (bs : List Byte) : xferOf (readDone r err bs s) ord = some { x with
      got := putBytes x.got ofs bs, bad := if err then firstBad x.bad (ofs / x.desc.elem, .uncorrectable) else x.bad } := by
  unfold readDone
  simp only [owner]
  exact xferOf_xferMod_same xfer fun _ => rfl

/-- A bag whose token is on its way into memory: a write less, and it has left after the last one (R149). -/
theorem tokenDone_accepts {ord b : Nat} {q : Run} (run : runOf s ord = some q) (draining : (bagOf q b).state = .draining) :
    ∃ q', runOf (tokenDone ord b false s) ord = some q' ∧ bagOf q' b = { bagOf q b with
      writes := (bagOf q b).writes - 1, state := if (bagOf q b).writes - 1 = 0 then .left else .draining } := by
  obtain ⟨q', found, bag⟩ := bagMod_bag (b := b) run _
  refine ⟨q', (runOf_of_only (closeSample_only ord b _) (by decide) ord).trans found, bag.trans ?_⟩
  by_cases last : (bagOf q b).writes - 1 = 0
  · simp [draining, last]
  · simp [last, ← draining]

theorem tokenDone_fails {ord b : Nat} {q : Run} (run : runOf s ord = some q) (draining : (bagOf q b).state = .draining) :
    ∃ q', runOf (tokenDone ord b true s) ord = some q' ∧
      bagOf q' b = { bagOf q b with writes := (bagOf q b).writes - 1, state := .failed .uncorrectable } := by
  obtain ⟨q', found, bag⟩ := bagMod_bag (b := b) run _
  exact ⟨q', (runOf_of_only (closeSample_only ord b _) (by decide) ord).trans found, bag.trans (by simp [draining])⟩

/-- A transfer's element: a write less, and DONE advances after the last one (R481). -/
theorem xferDone_accepts {ord k : Nat} {x : Xfer} (xfer : xferOf s ord = some x) (current : x.done = k) (clean : x.bad = none) :
    xferOf (xferDone ord k false s) ord = some { x with writes := x.writes - 1, done := if x.writes - 1 = 0 then k + 1 else k } := by
  refine (xferOf_xferMod_same xfer fun y => by grind).trans (congrArg some ?_)
  by_cases last : x.writes - 1 = 0
  · simp [current, clean, last]
  · simp [current, clean, last]

theorem xferDone_fails {ord k : Nat} {x : Xfer} (xfer : xferOf s ord = some x) (current : x.done = k) :
    xferOf (xferDone ord k true s) ord = some { x with writes := x.writes - 1, bad := some (k, .uncorrectable) } := by
  refine (xferOf_xferMod_same xfer fun y => by grind).trans (congrArg some ?_)
  simp [current]

/-- A part of a result block: the response follows the last one, or the first that fails (R507). -/
theorem resultDone_waiting {slot : Nat} {a : Awaiting} (waits : s.mbx.awaiting.find? (fun a => a.resp.slot == slot) = some a) (err : Bool) :
    resultDone slot err s =
      if err then post { a.resp with status := .uncorrectable, payload := [] }
        { s with mbx := { s.mbx with awaiting := s.mbx.awaiting.filter (fun b => b.resp.slot != slot) } }
      else if a.left ≤ 1 then post a.resp { s with mbx := { s.mbx with awaiting := s.mbx.awaiting.filter (fun b => b.resp.slot != slot) } }
      else { s with mbx := { s.mbx with
        awaiting := lmap s.mbx.awaiting (fun b => b.resp.slot == slot) (fun b => { b with left := b.left - 1 }) } } := by
  unfold resultDone
  rw [waits]

end Owners

/-! ## An answer to an outstanding request -/

section Answer

variable {s : State} {p : Nat} {h : W64} {r : OutReq} (sees : portSees s p = true) (sound : headerBad s p h = false)
  (known : answered s p h = some r)

include sees sound known

theorem rdData_answers (read : inKind h = 8) (d : List Byte) : exec (.rdData p h d) s = .next
    (if inErr h then raise evEccUncorrectable (readDone r (inErr h) (readBytes r d) (retire p r s))
      else readDone r (inErr h) (readBytes r d) (retire p r s)) := by
  change execRdData p h d s = _
  unfold execRdData
  simp only [known, sees, sound, read, bne_self_eq_false, Bool.not_true, Bool.or_self, Bool.false_eq_true, if_false]

theorem wrAck_answers (write : inKind h = 9) : exec (.wrAck p h) s = .next
    (if inErr h then raise evEccUncorrectable (writeDone r (inErr h) (retire p r s)) else writeDone r (inErr h) (retire p r s)) := by
  change execWrAck p h s = _
  unfold execWrAck
  simp only [known, sees, sound, write, bne_self_eq_false, Bool.not_true, Bool.or_self, Bool.false_eq_true, if_false]

end Answer

/-! ## Ports without credit -/

theorem drain_idle {wheel : List WheelClass} {c : CdpPort} (idle : ∀ k, c.pick k = none) (n pos : Nat) :
    CdpPort.drain wheel n pos c = (c, []) := by
  cases n with
  | zero => rfl
  | succ n =>
    unfold CdpPort.drain
    rw [idle]

theorem pick_none {c : CdpPort} (h : ∀ r, c.canSend r = false) (k : WheelClass) : c.pick k = none := by
  have none (j : WheelClass) : c.ready j = none := by
    unfold CdpPort.ready
    rw [Option.filter_eq_none_iff]
    exact fun r _ => by simp [h]
  unfold CdpPort.pick
  rw [none, none]

theorem canSend_noCredit {c : CdpPort} (h : c.hdrCredit = 0) (r : OutReq) : c.canSend r = false := by simp [CdpPort.canSend, h]

@[simp] theorem cdpPort_set (s : State) (p : Nat) (c : CdpPort) : cdpPort { s with cdp := mset s.cdp p c } p = c := by
  unfold cdpPort mgetD
  rw [mget_mset_same]
  rfl

/-- Nothing leaves a port from which nothing can be sent. -/
theorem pumpPort_idle {s : State} {p : Nat} {wheel : List WheelClass} (wheelIs : wheel = wheelOf s.qh.splitRead s.qh.splitWrite s.qh.splitRemote)
    (idle : CdpPort.drain wheel (cdpPort s p).outQ.length (Config.wheelAt p (cdpPort s p).sent) (cdpPort s p) = (cdpPort s p, [])) :
    (pumpPort p s).wire = s.wire ∧ cdpPort (pumpPort p s) p = cdpPort s p := by
  subst wheelIs
  unfold pumpPort
  dsimp only
  rw [idle]
  refine ⟨List.append_nil _, ?_⟩
  unfold cdpPort mgetD
  rw [mget_mset_same]
  rfl

theorem pumpPort_noCredit {s : State} {p : Nat} {c : CdpPort} (h : c.hdrCredit = 0) :
    (pumpPort p { s with cdp := mset s.cdp p c }).wire = s.wire ∧ cdpPort (pumpPort p { s with cdp := mset s.cdp p c }) p = c := by
  obtain ⟨wire, port⟩ := pumpPort_idle (s := { s with cdp := mset s.cdp p c }) (p := p) rfl
    (drain_idle (pick_none (canSend_noCredit (by rw [cdpPort_set, h]))) _ _)
  exact ⟨wire, port.trans (cdpPort_set s p c)⟩

theorem cdpReadyChange_sets {p : Nat} (link : p < 8) (k r : Bool) (s : State) : exec (.cdpReadyChange p k r) s =
    .next (pumpPort p { s with cdp := mset s.cdp p ((cdpPort s p).setReady (s.gbl.state == .retention) (kRdyOf s p) r) }) :=
  congrArg _ (if_neg (Nat.not_le.mpr link))

theorem setReady_down (c : CdpPort) (retention k : Bool) : c.setReady retention k false =
    { c with kRdy := k, sRdy := false, hdrCredit := 0, datCredit := 0, pedCredit := 0 } := by simp [CdpPort.setReady]

theorem setReady_up {c : CdpPort} (down : (c.kRdy && c.sRdy) = false) : c.setReady false true true =
    { c with kRdy := true, sRdy := true, hdrCredit := 0, datCredit := 0, pedCredit := 8 - c.pedHeld } := by
  unfold CdpPort.setReady
  simp [down]

/-- The port after a credit return (R619). -/
def creditReturned (a b : Bool) (c : CdpPort) : CdpPort :=
  { c with hdrCredit := min 1024 (c.hdrCredit + b2n a), datCredit := min 1024 (c.datCredit + b2n b) }

theorem cdpCreditReturn_adds {s : State} {p : Nat} (link : p < 8) (ready : (cdpPort s p).kRdy = true) (theirs : (cdpPort s p).sRdy = true)
    (a b : Bool) : exec (.cdpCreditReturn p a b) s = .next (pumpPort p { s with cdp := mset s.cdp p (creditReturned a b (cdpPort s p)) }) :=
  congrArg _ (if_neg (by simp [ready, theirs, link]))

theorem pumpPort_empty {s : State} {p : Nat} {c : CdpPort} (h : c.outQ = []) :
    (pumpPort p { s with cdp := mset s.cdp p c }).wire = s.wire ∧ cdpPort (pumpPort p { s with cdp := mset s.cdp p c }) p = c := by
  obtain ⟨wire, port⟩ := pumpPort_idle (s := { s with cdp := mset s.cdp p c }) (p := p) rfl (by rw [cdpPort_set, h]; rfl)
  exact ⟨wire, port.trans (cdpPort_set s p c)⟩

/-! ## Frames of the answers -/

theorem runOf_raise (e ord : Nat) (s : State) : runOf (raise e s) ord = runOf s ord := runOf_of_only (raise_only e s) (by decide) ord
theorem xferOf_raise (e ord : Nat) (s : State) : xferOf (raise e s) ord = xferOf s ord := xferOf_of_only (raise_only e s) (by decide) ord
theorem raise_mbx (e : Nat) (s : State) : (raise e s).mbx = s.mbx := (raise_only e s).same .mbx (by decide)

/-- The log takes an entry more, of at most 2,048 (R515). -/
theorem logOpen_length {s t : State} (h : t.clerk = s.clerk) (cause what : Nat) :
    (logOpen cause what t).clerk.log.length = (logOpen cause what s).clerk.log.length := by
  simp [logOpen, logAdd, h]

theorem retire_qh (p : Nat) (r : OutReq) (s : State) : (retire p r s).qh = s.qh := (retire_only p r s).same .qh (by decide)
theorem retire_mbx (p : Nat) (r : OutReq) (s : State) : (retire p r s).mbx = s.mbx := (retire_only p r s).same .mbx (by decide)
theorem retire_clerk (p : Nat) (r : OutReq) (s : State) : (retire p r s).clerk = s.clerk := (retire_only p r s).same .clerk (by decide)

theorem runOf_retire (p ord : Nat) (r : OutReq) (s : State) : runOf (retire p r s) ord = runOf s ord :=
  runOf_of_only (retire_only p r s) (by decide) ord

theorem xferOf_retire (p ord : Nat) (r : OutReq) (s : State) : xferOf (retire p r s) ord = xferOf s ord :=
  xferOf_of_only (retire_only p r s) (by decide) ord

/-! ## Answers by owner -/

section Owned

variable {s : State} {p : Nat} {h : W64} {r : OutReq} (sees : portSees s p = true) (sound : headerBad s p h = false)
  (known : answered s p h = some r)

include sees sound known

theorem rdData_run {ord i ofs : Nat} {q : Run} {x : Stream} (d : List Byte) (read : inKind h = 8) (owner : r.owner = .runRead ord i ofs)
    (run : runOf s ord = some q) (stream : q.streams[i]? = some x) :
    (inErr h = false → Leads (exec (.rdData p h d) s) (fun t => t.cdp = (retire p r s).cdp ∧ t.wire = (retire p r s).wire ∧
      ∃ q', runOf t ord = some q' ∧ q'.streams[i]? = some { x with got := putBytes x.got ofs (readBytes r d) })) ∧
    (inErr h = true → Leads (exec (.rdData p h d) s) (fun t => bit t.gbl.event evEccUncorrectable = true ∧ ∃ q', runOf t ord = some q' ∧
      q'.streams[i]? = some { x with
        got := putBytes x.got ofs (readBytes r d),
        badElems := x.badElems ++ (elemsIn x.elem ofs r.len).map (fun e => (e, Status.uncorrectable)) })) := by
  have done := readDone_run (s := retire p r s) owner ((runOf_retire p ord r s).trans run) stream (inErr h) (readBytes r d)
  rw [rdData_answers sees sound known read]
  refine ⟨fun ok => ?_, fun err => ?_⟩
  · rw [ok] at done ⊢
    obtain ⟨q', found, changed⟩ := done
    obtain ⟨cdp, wire⟩ := (readDone_only r false (readBytes r d) (retire p r s)).same .ports (by decide)
    exact ⟨_, rfl, cdp, wire, q', found, by simpa using changed⟩
  · rw [err] at done ⊢
    obtain ⟨q', found, changed⟩ := done
    exact ⟨_, rfl, bit_raise (by decide) _, q', (runOf_raise _ _ _).trans found, by simpa [readBytes_length] using changed⟩

theorem rdData_xfer {ord ofs : Nat} {x : Xfer} (d : List Byte) (read : inKind h = 8) (owner : r.owner = .xferRead ord ofs)
    (xfer : xferOf s ord = some x) :
    (inErr h = false → Leads (exec (.rdData p h d) s) (fun t => t.cdp = (retire p r s).cdp ∧ t.wire = (retire p r s).wire ∧
      xferOf t ord = some { x with got := putBytes x.got ofs (readBytes r d) })) ∧
    (inErr h = true → Leads (exec (.rdData p h d) s) (fun t => bit t.gbl.event evEccUncorrectable = true ∧
      xferOf t ord = some { x with got := putBytes x.got ofs (readBytes r d), bad := firstBad x.bad (ofs / x.desc.elem, .uncorrectable) })) := by
  have done := readDone_xfer (s := retire p r s) owner ((xferOf_retire p ord r s).trans xfer) (inErr h) (readBytes r d)
  rw [rdData_answers sees sound known read]
  refine ⟨fun ok => ?_, fun err => ?_⟩
  · rw [ok] at done ⊢
    obtain ⟨cdp, wire⟩ := (readDone_only r false (readBytes r d) (retire p r s)).same .ports (by decide)
    exact ⟨_, rfl, cdp, wire, done⟩
  · rw [err] at done ⊢
    exact ⟨_, rfl, bit_raise (by decide) _, (xferOf_raise _ _ _).trans done⟩

theorem wrAck_run {ord k b : Nat} {q : Run} (write : inKind h = 9) (owner : r.owner = .runWrite ord k b) (run : runOf s ord = some q)
    (draining : (bagOf q b).state = .draining) :
    (inErr h = false → Leads (exec (.wrAck p h) s) (fun t => t.cdp = (retire p r s).cdp ∧ t.wire = (retire p r s).wire ∧
      ∃ q', runOf t ord = some q' ∧ bagOf q' b = { bagOf q b with
        writes := (bagOf q b).writes - 1, state := if (bagOf q b).writes - 1 = 0 then .left else .draining })) ∧
    (inErr h = true → Leads (exec (.wrAck p h) s) (fun t => bit t.gbl.event evEccUncorrectable = true ∧ ∃ q', runOf t ord = some q' ∧
      bagOf q' b = { bagOf q b with writes := (bagOf q b).writes - 1, state := .failed .uncorrectable })) := by
  have told (err : Bool) : writeDone r err (retire p r s) = tokenDone ord b err (retire p r s) := by rw [writeDone, owner]
  have run := (runOf_retire p ord r s).trans run
  rw [wrAck_answers sees sound known write, told]
  refine ⟨fun ok => ?_, fun err => ?_⟩
  · obtain ⟨q', found, bag⟩ := tokenDone_accepts run draining
    obtain ⟨cdp, wire⟩ := (tokenDone_only ord b false (retire p r s)).same .ports (by decide)
    rw [ok]
    exact ⟨_, rfl, cdp, wire, q', found, bag⟩
  · obtain ⟨q', found, bag⟩ := tokenDone_fails run draining
    rw [err]
    exact ⟨_, rfl, bit_raise (by decide) _, q', (runOf_raise _ _ _).trans found, bag⟩

theorem wrAck_xfer {ord k : Nat} {x : Xfer} (write : inKind h = 9) (owner : r.owner = .xferWrite ord k) (xfer : xferOf s ord = some x)
    (current : x.done = k) (clean : x.bad = none) :
    (inErr h = false → Leads (exec (.wrAck p h) s) (fun t => t.cdp = (retire p r s).cdp ∧ t.wire = (retire p r s).wire ∧
      xferOf t ord = some { x with writes := x.writes - 1, done := if x.writes - 1 = 0 then k + 1 else k })) ∧
    (inErr h = true → Leads (exec (.wrAck p h) s) (fun t => bit t.gbl.event evEccUncorrectable = true ∧
      xferOf t ord = some { x with writes := x.writes - 1, bad := some (k, .uncorrectable) })) := by
  have told (err : Bool) : writeDone r err (retire p r s) = xferDone ord k err (retire p r s) := by rw [writeDone, owner]
  have xfer := (xferOf_retire p ord r s).trans xfer
  rw [wrAck_answers sees sound known write, told]
  refine ⟨fun ok => ?_, fun err => ?_⟩
  · obtain ⟨cdp, wire⟩ := (xferDone_only ord k false (retire p r s)).same .ports (by decide)
    rw [ok]
    exact ⟨_, rfl, cdp, wire, xferDone_accepts xfer current clean⟩
  · rw [err]
    exact ⟨_, rfl, bit_raise (by decide) _, (xferOf_raise _ _ _).trans (xferDone_fails xfer current)⟩

theorem wrAck_result {slot : Nat} {a : Awaiting} (write : inKind h = 9) (owner : r.owner = .clerkResult slot)
    (waits : s.mbx.awaiting.find? (fun a => a.resp.slot == slot) = some a) :
    (inErr h = false → a.left ≤ 1 → Leads (exec (.wrAck p h) s) (fun t =>
      t.mbx = { s.mbx with awaiting := s.mbx.awaiting.filter (fun b => b.resp.slot != slot), respQ := s.mbx.respQ ++ [a.resp] })) ∧
    (inErr h = false → 1 < a.left → Leads (exec (.wrAck p h) s) (fun t =>
      t.mbx = { s.mbx with awaiting := lmap s.mbx.awaiting (fun b => b.resp.slot == slot) (fun b => { b with left := b.left - 1 }) })) ∧
    (inErr h = true → Leads (exec (.wrAck p h) s) (fun t => bit t.gbl.event evEccUncorrectable = true ∧
      t.mbx = { s.mbx with awaiting := s.mbx.awaiting.filter (fun b => b.resp.slot != slot),
                           respQ := s.mbx.respQ ++ [{ a.resp with status := .uncorrectable, payload := [] }] })) := by
  have told (err : Bool) : writeDone r err (retire p r s) = resultDone slot err (retire p r s) := by rw [writeDone, owner]
  rw [wrAck_answers sees sound known write, told, resultDone_waiting (s := retire p r s) (by rw [retire_mbx, waits]), retire_mbx]
  refine ⟨fun ok last => ?_, fun ok more => ?_, fun err => ?_⟩
  · rw [ok, if_pos last]
    exact ⟨_, rfl, rfl⟩
  · rw [ok, if_neg (Nat.not_le.mpr more)]
    exact ⟨_, rfl, rfl⟩
  · rw [err]
    exact ⟨_, rfl, bit_raise (by decide) _, raise_mbx _ _⟩

theorem wrAck_other (write : inKind h = 9) (owner : r.owner = .small ∨ r.owner = .dump) :
    (inErr h = false → exec (.wrAck p h) s = .next (retire p r s)) ∧
    (inErr h = true → Leads (exec (.wrAck p h) s) (fun t => bit t.gbl.event evEccUncorrectable = true ∧
      t.clerk.log.length = ((logOpen 1 r.addr s).clerk.log).length)) := by
  have told (err : Bool) : writeDone r err (retire p r s) = if err then logOpen 1 r.addr (retire p r s) else retire p r s := by
    rcases owner with small | dump
    · rw [writeDone, small]
    · rw [writeDone, dump]
  rw [wrAck_answers sees sound known write, told]
  refine ⟨fun ok => by rw [ok]; rfl, fun err => ?_⟩
  rw [err]
  exact ⟨_, rfl, bit_raise (by decide) _, (congrArg (·.log.length) (raise_clerk _ _)).trans (logOpen_length (retire_clerk p r s) 1 r.addr)⟩

end Owned

theorem cdpHeaderDiscard_logs {s : State} {p : Nat} {h : W64} (sees : portSees s p = true) (bad : headerBad s p h = true) :
    exec (.cdpHeaderDiscard p h) s =
      .next (logAdd 0x0C10 (Config.logPack 0x0C10 [p, h.toNat]).1 (Config.logPack 0x0C10 [p, h.toNat]).2 s) :=
  congrArg _ (if_pos (by rw [sees, bad]; rfl))

/-! ## The statement -/

/-- Settles O42: the owner of each request is told, and a port sends only with credit. -/
theorem chipPortAnswers : Obligations.ChipPortAnswers := by
  unfold Obligations.ChipPortAnswers
  refine ⟨fun s u p h d r sees sound known hu => ?answer,
    fun s p h sees bad => ⟨_, cdpHeaderDiscard_logs sees bad, _, rfl, rfl, rfl, rfl⟩,
    fun s p k link => ⟨⟨_, cdpReadyChange_sets link k false s, ?down⟩, fun rises awake was => ⟨_, cdpReadyChange_sets link k true s, ?up⟩⟩,
    fun s p a b link ready theirs => ⟨cdpCreditReturn_adds link ready theirs a b,
      fun none => ⟨_, cdpCreditReturn_adds link ready theirs a b, pumpPort_empty none⟩⟩⟩
  case answer =>
    have retired : u = retire p r s := hu
    subst retired
    exact ⟨fun ord i ofs q x read owner run stream => rdData_run sees sound known d read owner run stream,
      fun ord ofs x read owner xfer => rdData_xfer sees sound known d read owner xfer,
      fun ord k b q write owner run draining => wrAck_run sees sound known write owner run draining,
      fun ord k x write owner xfer current clean => wrAck_xfer sees sound known write owner xfer current clean,
      fun slot a write owner waits => wrAck_result sees sound known write owner waits,
      fun write owner => wrAck_other sees sound known write owner⟩
  case down =>
    rw [setReady_down]
    exact pumpPort_noCredit rfl
  case up =>
    have live : (s.gbl.state == .retention) = false := by simpa using awake
    rw [live, rises, setReady_up was]
    exact pumpPort_noCredit rfl

end Sys2Proof.Machine

/-! SUPPORT. The flows of the Queue Hall: one that is changed and the others, and what each request of the Pedlar leaves. -/

namespace Sys2Proof.Machine

open Sys2Proof

/-! ## One flow changed -/

@[simp] theorem flowOf_flowMod_same (f : Nat) (g : Flow → Flow) (s : State) : flowOf (flowMod f g s) f = g (flowOf s f) :=
  mgetD_mmod_same _ _ _ _

theorem flowOf_flowMod_other {f k : Nat} (h : k ≠ f) (g : Flow → Flow) (s : State) : flowOf (flowMod f g s) k = flowOf s k :=
  mgetD_mmod_other _ h _ _

theorem flowOf_of_only {l : List Part} {s t : State} (h : OnlyIn l s t) (qh : Part.qh ∉ l) (f : Nat) : flowOf t f = flowOf s f := by
  have same : t.qh = s.qh := h.same .qh qh
  unfold flowOf
  rw [same]

theorem raise_qh (e : Nat) (s : State) : (raise e s).qh = s.qh := (raise_only e s).same .qh (by decide)

theorem sendAnswer_qh (port ctag : Nat) (hdr : W64) (cells : List W64) (s : State) : (sendAnswer port ctag hdr cells s).qh = s.qh :=
  (sendAnswer_only port ctag hdr cells s).same .qh (by decide)

theorem flowOf_sendAnswer (port ctag : Nat) (hdr : W64) (cells : List W64) (s : State) (f : Nat) :
    flowOf (sendAnswer port ctag hdr cells s) f = flowOf s f := flowOf_of_only (sendAnswer_only port ctag hdr cells s) (by decide) f

/-! ## Overrun and underrun -/

theorem flowOverrun_qh (f : Nat) (s : State) : (flowOverrun f s).qh = (flowMod f (fun g => { g with overrun := true }) s).qh := by
  unfold flowOverrun
  dsimp only
  split
  · rfl
  · exact raise_qh _ _

theorem flowUnderrun_qh (f : Nat) (s : State) : (flowUnderrun f s).qh = (flowMod f (fun g => { g with underrun := true }) s).qh := by
  unfold flowUnderrun
  dsimp only
  split
  · rfl
  · exact raise_qh _ _

theorem flowOf_flowOverrun_same (f : Nat) (s : State) : flowOf (flowOverrun f s) f = { flowOf s f with overrun := true } :=
  (congrArg (fun q : Qh => mgetD q.flows f Flow.unused) (flowOverrun_qh f s)).trans (flowOf_flowMod_same f _ s)

theorem flowOf_flowOverrun_other {f k : Nat} (h : k ≠ f) (s : State) : flowOf (flowOverrun f s) k = flowOf s k :=
  (congrArg (fun q : Qh => mgetD q.flows k Flow.unused) (flowOverrun_qh f s)).trans (flowOf_flowMod_other h _ s)

theorem flowOf_flowUnderrun_same (f : Nat) (s : State) : flowOf (flowUnderrun f s) f = { flowOf s f with underrun := true } :=
  (congrArg (fun q : Qh => mgetD q.flows f Flow.unused) (flowUnderrun_qh f s)).trans (flowOf_flowMod_same f _ s)

/-- The event fires where the bit was clear (R463). -/
theorem flowOverrun_event {f : Nat} {s : State} (clear : (flowOf s f).overrun = false) :
    bit (flowOverrun f s).gbl.event evFlowOverrun = true := by
  unfold flowOverrun
  rw [clear]
  exact bit_raise (by decide) _

/-! ## Items that enter -/

theorem flowOf_enterItem_other {f k : Nat} (h : k ≠ f) (ws : List W64) (s : State) : flowOf (enterItem f ws s) k = flowOf s k :=
  flowOf_flowMod_other h _ s

theorem flowOf_enterAll_other {f k : Nat} (h : k ≠ f) (l : List (List W64)) (s : State) :
    flowOf (l.foldl (fun t ws => enterItem f ws t) s) k = flowOf s k := by
  induction l generalizing s with
  | nil => rfl
  | cons ws l ih => exact (ih _).trans (flowOf_enterItem_other h ws s)

/-- An item that enters stands last; one of another generation replaces those of other generations (R483, R485). -/
theorem flowOf_enterItem_same (f : Nat) (ws : List W64) (s : State) {x : SubItem}
    (item : x = { words := ws, replaced := false, ended := false, bad := false }) :
    (flowOf (enterItem f ws s) f).gen = itemGen (flowOf s f).kind x ∧ (flowOf (enterItem f ws s) f).items =
      (if itemGen (flowOf s f).kind x = (flowOf s f).gen then (flowOf s f).items
        else (flowOf s f).items.map (fun y => if itemGen (flowOf s f).kind y = itemGen (flowOf s f).kind x then y
          else { y with replaced := true })) ++ [x] := by
  subst item
  unfold enterItem
  dsimp only
  rw [flowOf_flowMod_same]
  exact ⟨rfl, rfl⟩

/-! ## The requests of the Pedlar -/

section Pedlar

variable {s : State} {port ctag f n words : Nat} {hdr : W64} {data : List W64} (taken : pedTaken s port = true)

include taken

theorem pedlarPush_serves (push : pedOp hdr = 0) : exec (.pedlarPush port ctag hdr data) s =
    .next (pedPush port ctag hdr data (countEv islQh 0x502 1 s)) := congrArg _ (if_pos (by simp [taken, pedIs, push]))

theorem pedlarPop_serves (pop : pedOp hdr = 1) : exec (.pedlarPop port ctag ⟨hdr, words⟩) s =
    .next (pedPop port ctag hdr words (countEv islQh 0x502 1 s)) := congrArg _ (if_pos (by simp [taken, pedIs, pop]))

theorem pedlarProbe_serves (probe : pedOp hdr = 2) : exec (.pedlarProbe port ctag hdr) s =
    .next (pedProbe port ctag hdr (countEv islQh 0x502 1 s)) := congrArg _ (if_pos (by simp [taken, pedIs, probe]))

end Pedlar

/-- A request that is refused is answered, and the Queue Hall stays as it was (R469). -/
theorem pedRefuse_keeps (port ctag : Nat) (hdr : W64) (st : Status) (s : State) :
    (pedRefuse port ctag hdr st (countEv islQh 0x502 1 s)).qh = s.qh ∧ pedRefuse port ctag hdr st (countEv islQh 0x502 1 s) =
      sendAnswer port ctag (pedAnswer s hdr st 0 false false) [] (countEv islQh 0x502 1 s) := ⟨sendAnswer_qh _ _ _ _ _, rfl⟩

section Push

variable {s : State} {hdr : W64} (push : pedOp hdr = 0) (port ctag : Nat) (data : List W64)

include push

theorem pedPush_malformed (bad : pedReserved hdr = false ∨ pedCellsOk hdr = false) :
    pedPush port ctag hdr data s = pedRefuse port ctag hdr .badDescriptor s := by
  unfold pedPush
  exact if_pos (by rcases bad with reserved | cells <;> simp [*])

variable (awake : s.gbl.state ≠ .held) (tested : s.gbl.state ≠ .selftest)

include awake tested

omit push in
theorem pedPush_unsuited (unsuited : pushSuits (kindOf s (pedFlow hdr)) (pedCells hdr) = false) :
    pedPush port ctag hdr data s = pedRefuse port ctag hdr .badDescriptor s := by
  unfold pedPush
  simp only [awake, tested, unsuited, or_self, if_false, Bool.not_false, if_true, ite_self]

variable (reserved : pedReserved hdr = true) (cells : pedCellsOk hdr = true)
  (suits : pushSuits (kindOf s (pedFlow hdr)) (pedCells hdr) = true) (unshut : (flowOf s (pedFlow hdr)).shut = false)

include reserved cells suits unshut

theorem pedPush_full (full : flowTakes s (flowOf s (pedFlow hdr)) (pedCells hdr) = false) : pedPush port ctag hdr data s =
    sendAnswer port ctag (pedAnswer (flowOverrun (pedFlow hdr) s) hdr .ok 0 false true) [] (flowOverrun (pedFlow hdr) s) := by
  unfold pedPush
  simp [push, reserved, cells, awake, tested, suits, unshut, full]

theorem pedPush_enters (takes : flowTakes s (flowOf s (pedFlow hdr)) (pedCells hdr) = true) {k : Nat} {u : State}
    (perItem : k = if kindOf s (pedFlow hdr) = .runSubmit then 2 else 1)
    (entered : u = (itemsOf (pedCells hdr / k) (8 * k) data).foldl (fun t ws => enterItem (pedFlow hdr) ws t) s) :
    pedPush port ctag hdr data s = sendAnswer port ctag (pedAnswer u hdr .ok 0 false false) [] u := by
  subst entered perItem
  unfold pedPush
  simp [push, reserved, cells, awake, tested, suits, unshut, takes]

end Push

/-- The oldest `k` records of a flow are popped in `n` cells (R461). -/
def recordsPopped (f n k : Nat) (s : State) : State :=
  flowMod f (fun g => { g with
    records := g.records.drop k,
    badRecords := (g.badRecords.filter (fun i => decide (k ≤ i))).map (fun i => i - k),
    lastPopped := (popCells (flowOf s f) n).getD (k - 1) [] }) s

section Pop

variable {s : State} {hdr : W64} (pop : pedOp hdr = 1) (reserved : pedReserved hdr = true) (cells : pedCellsOk hdr = true)
  (complete : kindOf s (pedFlow hdr) = .complete) (port ctag words : Nat)

include pop reserved cells complete

theorem pedPop_empty (empty : (flowOf s (pedFlow hdr)).records = []) : pedPop port ctag hdr words s =
    sendAnswer port ctag (pedAnswer (flowUnderrun (pedFlow hdr) s) hdr .ok 0 true false)
      ((List.range 8).map (fun i => (flowOf s (pedFlow hdr)).lastPopped.getD i 0)) (flowUnderrun (pedFlow hdr) s) := by
  unfold pedPop
  simp [pop, reserved, cells, complete, empty]

theorem pedPop_pops {k : Nat} (some : (flowOf s (pedFlow hdr)).records ≠ [])
    (number : k = min (pedCells hdr) (flowOf s (pedFlow hdr)).records.length) :
    pedPop port ctag hdr words s = correctedCells words (sendAnswer port ctag
      (pedAnswer (recordsPopped (pedFlow hdr) (pedCells hdr) k s) hdr
        (if (flowOf s (pedFlow hdr)).badRecords.any (fun i => decide (i < k)) then .uncorrectable else .ok) k false false)
      (popCells (flowOf s (pedFlow hdr)) (pedCells hdr)).flatten (recordsPopped (pedFlow hdr) (pedCells hdr) k s)) := by
  subst number
  unfold pedPop
  rw [if_neg (by simp [pop, reserved, cells, complete]), if_neg (by rwa [List.isEmpty_iff])]
  rfl

end Pop

theorem pedProbe_answers {hdr : W64} (probe : pedOp hdr = 2) (reserved : pedReserved hdr = true) (cells : pedCellsOk hdr = true)
    (port ctag : Nat) (s : State) : pedProbe port ctag hdr s = sendAnswer port ctag (pedAnswer s hdr .ok 0 false false) [] s := by
  unfold pedProbe
  simp [probe, reserved, cells]

/-- Corrected words count in CORRECTED; no flow changes (R452). -/
theorem correctedCells_qh (n : Nat) (s : State) : (correctedCells n s).qh = { s.qh with
    eccCorrected := satAdd 32 s.qh.eccCorrected n, eccWindow := s.qh.eccWindow + n } := by
  unfold correctedCells
  dsimp only
  split
  · exact raise_qh _ _
  · rfl

theorem flowOf_correctedCells (n : Nat) (s : State) (f : Nat) : flowOf (correctedCells n s) f = flowOf s f := by
  unfold flowOf
  rw [correctedCells_qh]

/-! ## The SUB window -/

theorem subSubmit_alive {s : State} (alive : kcpAlive s = true) (val : W64) : exec (.subSubmit val) s = .next (subSubmit val s) :=
  congrArg _ (if_pos alive)

theorem writeSubWord_reads (i : Nat) (val : W64) (s : State) : mgetD (writeSubWord i val s).qh.sub i 0 = val := by
  unfold writeSubWord mgetD
  dsimp only
  rw [mget_mset_same]
  rfl

/-- The sixteen words of the window, the last one just written (R117). -/
theorem writeSubWord_words (val : W64) (s : State) : (List.range 16).map (fun i => mgetD (writeSubWord 15 val s).qh.sub i 0) =
    (List.range 16).map (fun i => if i = 15 then val else mgetD s.qh.sub i 0) := by
  refine List.map_congr_left fun i _ => ?_
  split
  next last =>
    subst last
    exact writeSubWord_reads 15 val s
  next other =>
    unfold writeSubWord mgetD
    dsimp only
    rw [mget_mset_other _ _ _ _ other]

theorem subSubmit_enters {s : State} (takes : subTaken s = true) (val : W64) : subSubmit val s =
    enterItem 0 ((List.range 16).map (fun i => if i = 15 then val else mgetD s.qh.sub i 0)) (writeSubWord 15 val s) :=
  (if_pos takes).trans (congrArg (enterItem 0 · _) (writeSubWord_words val s))

theorem subSubmit_refused {s : State} (refuses : subTaken s = false) (val : W64) : subSubmit val s = flowOverrun 0 (writeSubWord 15 val s) :=
  if_neg (by
    change ¬ subTaken s = true
    rw [refuses]
    decide)

/-! ## The statement -/

/-- Settles O32: each request by what it finds of its flow. -/
theorem pedlarPath : Obligations.PedlarPath := by
  unfold Obligations.PedlarPath
  refine ⟨fun s port ctag f n words hdr data taken flow number => ?requests, fun s f gen ws x item hgen => ?enters,
    fun s val alive => ⟨fun takes => ⟨_, subSubmit_alive alive val, ?submits, subSubmit_enters takes val⟩,
      fun refuses => ⟨_, subSubmit_alive alive val, ?ignored⟩⟩⟩
  case requests =>
    subst flow number
    refine ⟨fun push reserved cells awake tested suits openFlow takes => ?push, fun push reserved cells awake tested suits openFlow full => ?full,
      fun push bad => ?refused, fun pop reserved cells complete some => ?pop, fun pop reserved cells complete empty => ?empty,
      fun probe reserved cells => ?probe⟩
    case push =>
      have kind : kindOf (countEv islQh 0x502 1 s) (pedFlow hdr) = kindOf s (pedFlow hdr) := rfl
      have answered := pedPush_enters (s := countEv islQh 0x502 1 s) push port ctag data awake tested reserved cells suits openFlow takes
        (by rw [kind]) rfl
      refine ⟨_, (pedlarPush_serves taken push).trans (congrArg _ answered), _, rfl, rfl, fun g other => ?_⟩
      rw [flowOf_sendAnswer, flowOf_enterAll_other other]
      rfl
    case full =>
      have answered := pedPush_full (s := countEv islQh 0x502 1 s) push port ctag data awake tested reserved cells suits openFlow full
      refine ⟨_, pedlarPush_serves taken push, ?_, fun clear => ?_, _, answered⟩
      · rw [answered, flowOf_sendAnswer, flowOf_flowOverrun_same]
        rfl
      · rw [answered, ((sendAnswer_only _ _ _ _ _).same .events (by decide)).1]
        exact flowOverrun_event clear
    case refused =>
      have answered : pedPush port ctag hdr data (countEv islQh 0x502 1 s) = pedRefuse port ctag hdr .badDescriptor (countEv islQh 0x502 1 s) := by
        rcases bad with reserved | cells | ⟨awake, tested, unsuited⟩
        · exact pedPush_malformed push port ctag data (.inl reserved)
        · exact pedPush_malformed push port ctag data (.inr cells)
        · exact pedPush_unsuited port ctag data awake tested unsuited
      exact ⟨_, (pedlarPush_serves taken push).trans (congrArg _ answered), pedRefuse_keeps port ctag hdr .badDescriptor s⟩
    case pop =>
      have answered := pedPop_pops (s := countEv islQh 0x502 1 s) pop reserved cells complete port ctag words some rfl
      have flowIs : flowOf (countEv islQh 0x502 1 s) (pedFlow hdr) = flowOf s (pedFlow hdr) := rfl
      rw [flowIs] at answered
      refine ⟨_, (pedlarPop_serves taken pop).trans (congrArg _ answered), ?_, ?_, ?_, _, _, rfl, ?_, ?_⟩
      · rw [flowOf_correctedCells, flowOf_sendAnswer, recordsPopped, flowOf_flowMod_same]
        rfl
      · rw [flowOf_correctedCells, flowOf_sendAnswer, recordsPopped, flowOf_flowMod_same]
        rfl
      · rw [correctedCells_qh, sendAnswer_qh]
        rfl
      · split
        next bad => simpa using bad
        next sound => simpa using sound
      · split
        · exact .inl rfl
        · exact .inr rfl
    case empty =>
      have answered := pedPop_empty (s := countEv islQh 0x502 1 s) pop reserved cells complete port ctag words empty
      refine ⟨_, (pedlarPop_serves taken pop).trans (congrArg _ answered), ?_, _, rfl⟩
      rw [flowOf_sendAnswer, flowOf_flowUnderrun_same]
      rfl
    case probe =>
      refine ⟨_, (pedlarProbe_serves taken probe).trans (congrArg _ (pedProbe_answers probe reserved cells port ctag _)), sendAnswer_qh _ _ _ _ _, rfl⟩
  case enters =>
    obtain ⟨genIs, items⟩ := flowOf_enterItem_same f ws s item
    subst hgen
    exact ⟨genIs, fun same => by rw [items, if_pos same], fun other => by rw [items, if_neg other]⟩
  case submits =>
    rw [subSubmit_enters takes]
    exact writeSubWord_reads 15 val s
  case ignored =>
    rw [subSubmit_refused refuses]
    refine ⟨?_, flowOf_flowOverrun_same 0 _, fun g other => flowOf_flowOverrun_other other _⟩
    exact (congrArg (fun q : Qh => mgetD q.sub 15 0) (flowOverrun_qh 0 _)).trans (writeSubWord_reads 15 val s)

end Sys2Proof.Machine

/-! SUPPORT. Admission: the head of a submission flow that is admitted, ends with a record, or is parked. -/

namespace Sys2Proof.Machine

open Sys2Proof

/-! ## The head leaves its flow -/

theorem flowMod_qh {s t : State} (h : t.qh = s.qh) (f : Nat) (g : Flow → Flow) : (flowMod f g t).qh = (flowMod f g s).qh := by
  unfold flowMod
  rw [h]

theorem flowOf_dropHead_same (flow : Nat) (s : State) :
    flowOf (dropHead flow s) flow = { flowOf s flow with items := (flowOf s flow).items.drop 1 } :=
  flowOf_flowMod_same flow (fun g => { g with items := g.items.drop 1 }) (leaveAdmission flow s)

theorem flowOf_dropHead_other {flow k : Nat} (h : k ≠ flow) (s : State) : flowOf (dropHead flow s) k = flowOf s k :=
  flowOf_flowMod_other h (fun g => { g with items := g.items.drop 1 }) (leaveAdmission flow s)

theorem flowOf_promise_same (f : Nat) (s : State) : flowOf (promise f s) f = { flowOf s f with promised := (flowOf s f).promised + 1 } :=
  flowOf_flowMod_same f _ s

theorem flowOf_promise_other {f k : Nat} (h : k ≠ f) (s : State) : flowOf (promise f s) k = flowOf s k := flowOf_flowMod_other h _ s

/-- The flows once the head has been admitted: it has left, no item holds the flow back any more, and its completion flow has promised a
cell (R119, R484). -/
def headAdmitted (flow named : Nat) (s : State) : State :=
  flowMod flow (fun g => { g with barrier := [] }) (promise named (dropHead flow s))

section Admitted

variable (flow named : Nat) (s : State)

theorem headAdmitted_head : (flowOf (headAdmitted flow named s) flow).items = (flowOf s flow).items.drop 1 ∧
    (flowOf (headAdmitted flow named s) flow).barrier = [] := by
  unfold headAdmitted
  rw [flowOf_flowMod_same]
  refine ⟨?_, rfl⟩
  by_cases own : flow = named
  · subst own
    rw [flowOf_promise_same, flowOf_dropHead_same]
  · rw [flowOf_promise_other own, flowOf_dropHead_same]

theorem headAdmitted_promised : (flowOf (headAdmitted flow named s) named).promised = (flowOf s named).promised + 1 := by
  unfold headAdmitted
  by_cases own : named = flow
  · subst own
    rw [flowOf_flowMod_same, flowOf_promise_same, flowOf_dropHead_same]
  · rw [flowOf_flowMod_other own, flowOf_promise_same, flowOf_dropHead_other own]

theorem headAdmitted_other {k : Nat} (notHead : k ≠ flow) (notNamed : k ≠ named) : flowOf (headAdmitted flow named s) k = flowOf s k := by
  unfold headAdmitted
  rw [flowOf_flowMod_other notHead, flowOf_promise_other notNamed, flowOf_dropHead_other notHead]

end Admitted

theorem flowOf_of_flows {s t : State} (h : t.qh.flows = s.qh.flows) (k : Nat) : flowOf t k = flowOf s k := by
  unfold flowOf
  rw [h]

/-- A Run that is admitted joins the others (R119). -/
theorem admitRun_admits (flow : Nat) (r : Run) (xs : List Xlat) (s : State) : (admitRun flow r xs s).qh.runs = s.qh.runs ++ [r] ∧
    ∀ k, flowOf (admitRun flow r xs s) k = flowOf (headAdmitted flow r.desc.flow s) k := by
  have flows : (flowMod flow (fun g => { g with barrier := [] }) (addRef r.desc.tid r.slot (promise r.desc.flow
      (cacheLeaves (leavesAll xs) (dropHead flow s))))).qh = (headAdmitted flow r.desc.flow s).qh :=
    flowMod_qh ((addRef_only _ _ _).same .qh (by decide)) _ _
  have admitted : (admitRun flow r xs s).qh =
      { (headAdmitted flow r.desc.flow s).qh with runs := (headAdmitted flow r.desc.flow s).qh.runs ++ [r] } := by
    unfold admitRun
    rw [settle_qh]
    exact congrArg (fun q : Qh => { q with runs := q.runs ++ [r] }) flows
  exact ⟨by rw [admitted]; rfl, flowOf_of_flows (by rw [admitted])⟩

/-- A transfer that is admitted joins the others (R119, R479). -/
theorem admitXfer_admits (flow : Nat) (d : XferDesc) (src dst : Xlat) (s : State) :
    (∃ y : Xfer, (admitXfer flow d src dst s).qh.xfers = s.qh.xfers ++ [y] ∧ y.ord = freeOrd s ∧ y.desc = d ∧ y.subFlow = flow ∧
      y.src = src ∧ y.dst = dst ∧ y.cursor = 0 ∧ y.done = 0 ∧ y.got = [] ∧ y.ended = none) ∧
    ∀ k, flowOf (admitXfer flow d src dst s) k = flowOf (headAdmitted flow d.flow s) k := by
  unfold admitXfer
  exact ⟨⟨_, congrArg Qh.xfers (settle_qh _), rfl, rfl, rfl, rfl, rfl, rfl, rfl, rfl, rfl⟩,
    flowOf_of_flows (by rw [settle_qh]; rfl)⟩

/-! ## Records -/

theorem flowOf_recordAtAdmission {s : State} {flow : Nat} (complete : (flowOf s flow).kind = .complete) (sub tag : Nat) (ws : List W64) :
    flowOf (recordAtAdmission sub flow tag ws s) flow = { flowOf s flow with records := (flowOf s flow).records ++ [ws] } := by
  unfold recordAtAdmission
  rw [if_pos (by rw [isComplete, complete]; rfl)]
  exact flowOf_flowMod_same _ _ _

theorem endRunItem_ends {s : State} {d : RunDesc} (ready : recordReady s d.flow = true) (flow dur : Nat) (st : Status) :
    endRunItem flow dur d st s = recordAtAdmission flow d.flow d.tag (runRecordAtAdmission d st dur) (dropHead flow s) := if_pos ready

theorem endXferItem_ends {s : State} {d : XferDesc} (ready : recordReady s d.flow = true) (flow dur : Nat) (st : Status) (replaced : Bool) :
    endXferItem flow dur d st replaced s = recordAtAdmission flow d.flow d.tag (xferRecord d 63 st replaced 0 dur) (dropHead flow s) :=
  if_pos ready

/-! ## RUN_ADMIT -/

section Head

variable {s : State} {flow : Nat} {x : SubItem} {r : List SubItem} (items : (flowOf s flow).items = x :: r)

include items

section Meets

variable (whole : x.replaced = false) (going : x.ended = false) (admits : admissionOpen s = true)

include whole going admits

theorem runAdmit_meets (kind : (flowOf s flow).kind = .runSubmit) (dur : Nat) (v : ChipView) :
    exec (.runAdmit flow dur v) s = .next (admitHead flow dur v x s) := by
  change execRunAdmit flow dur v s = _
  unfold execRunAdmit
  simp only [items, admits, kind, whole, going, Bool.not_true, Bool.false_eq_true, ne_eq, not_true_eq_false, or_self, if_false]

theorem transferAdmit_meets (kind : (flowOf s flow).kind = .xferSubmit) (dur : Nat) (v : ChipView) :
    exec (.transferAdmit flow dur v) s = .next (admitXferHead flow dur v x s) := by
  change execTransferAdmit flow dur v s = _
  unfold execTransferAdmit
  simp only [items, admits, kind, whole, going, Bool.not_true, Bool.false_eq_true, ne_eq, not_true_eq_false, or_self, if_false]

end Meets

/-- An item that another has replaced, or that a Shutter has ended, ends with CS_SHUTTERED (R483, R577). -/
theorem replacedItemEnd_ends (live : isLive s = true) (marked : x.replaced = true ∨ x.ended = true) (dur : Nat) :
    exec (.replacedItemEnd flow dur) s = .next
      (if (flowOf s flow).kind = .runSubmit then endRunItem flow dur (runDescOf x) .shuttered s
        else if (flowOf s flow).kind = .xferSubmit then endXferItem flow dur (xferDescOf x) .shuttered x.replaced s else s) := by
  have marked : (x.replaced || x.ended) = true := Bool.or_eq_true_iff.mpr marked
  change execReplacedItemEnd flow dur s = _
  unfold execReplacedItemEnd
  simp only [items, live, marked, Bool.not_true, Bool.false_eq_true, or_self, if_false]

end Head

section RunHead

variable {s : State} {flow : Nat} {x : SubItem} {d : RunDesc} (desc : d = runDescOf x) (unparked : mget s.qh.parked flow = none)
  (unarmed : armWaits s flow = false) (apart : s.clerk.waiting.map Prod.fst ≠ some d.template) (dur : Nat) (v : ChipView)

include desc unparked unarmed apart

theorem admitHead_passes {t : Template} {tab : Table} {xs : List Xlat} (sound : x.bad = false) (passes : runVerdict s v flow x d = .passes xs)
    (template : mget s.templates d.template = some t) (live : liveTable s d.tid = some tab)
    (free : runFree s d t (rangesOf d t tab.dim).length xs = true) :
    admitHead flow dur v x s = admitRun flow (bindRun s flow d t tab tab.active (rangesOf d t tab.dim) xs) xs s := by
  subst desc
  unfold admitHead
  simp only [unparked, unarmed, apart, sound, passes, Bool.false_eq_true, or_self, if_false]
  unfold admitPassed
  simp only [template, live, free, if_true]

theorem admitHead_ends {st : Status} (ends : (x.bad = true ∧ st = .uncorrectable) ∨ (x.bad = false ∧ runVerdict s v flow x d = .ends st)) :
    admitHead flow dur v x s = endRunItem flow dur d st s := by
  subst desc
  unfold admitHead
  rcases ends with ⟨bad, rfl⟩ | ⟨sound, verdict⟩
  · simp only [unparked, unarmed, apart, bad, Bool.false_eq_true, or_self, if_false, if_true]
  · simp only [unparked, unarmed, apart, sound, verdict, Bool.false_eq_true, or_self, if_false]

theorem admitHead_parks {f : FaultReq} (sound : x.bad = false) (faults : runVerdict s v flow x d = .faults f) :
    admitHead flow dur v x s = park flow f (noteWalk v f.ctx (.fault f.kind f.level f.da) s) := by
  subst desc
  unfold admitHead
  simp only [unparked, unarmed, apart, sound, faults, Bool.false_eq_true, or_self, if_false]

end RunHead

section XferHead

variable {s : State} {flow : Nat} {x : SubItem} {d : XferDesc} (desc : d = xferDescOf x) (unparked : mget s.qh.parked flow = none)
  (unarmed : armWaits s flow = false) (dur : Nat) (v : ChipView)

include desc unparked unarmed

theorem admitXferHead_passes {src dst : Xlat} (sound : x.bad = false) (passes : xferVerdict s v flow x d = .passes [src, dst])
    (room : admitRoom s = true) (record : recordRoom s d.flow = true) (pins : canPin s (leavesAll [src, dst]) = true) :
    admitXferHead flow dur v x s = admitXfer flow d src dst s := by
  subst desc
  unfold admitXferHead
  simp only [unparked, unarmed, sound, passes, room, record, pins, Bool.and_self, Bool.false_eq_true, if_false, if_true]

theorem admitXferHead_ends {st : Status} (ends : (x.bad = true ∧ st = .uncorrectable) ∨ (x.bad = false ∧ xferVerdict s v flow x d = .ends st)) :
    admitXferHead flow dur v x s = endXferItem flow dur d st false s := by
  subst desc
  unfold admitXferHead
  rcases ends with ⟨bad, rfl⟩ | ⟨sound, verdict⟩
  · simp only [unparked, unarmed, bad, Bool.false_eq_true, if_false, if_true]
  · simp only [unparked, unarmed, sound, verdict, Bool.false_eq_true, if_false]

theorem admitXferHead_parks {f : FaultReq} (sound : x.bad = false) (faults : xferVerdict s v flow x d = .faults f) :
    admitXferHead flow dur v x s = park flow f (noteWalk v f.ctx (.fault f.kind f.level f.da) s) := by
  subst desc
  unfold admitXferHead
  simp only [unparked, unarmed, sound, faults, Bool.false_eq_true, if_false]

end XferHead

/-! ## The statement -/

/-- Settles O33: the head of a flow by its verdict. -/
theorem admissionOutcomes : Obligations.AdmissionOutcomes := by
  unfold Obligations.AdmissionOutcomes
  refine ⟨fun s flow dur v x r d items admits kind whole going unparked unarmed apart desc => ?run,
    fun s flow dur v x r d items admits kind whole going unparked unarmed desc => ?xfer,
    fun s flow dur x r items live marked => ⟨fun kind ready => ?endsRun, fun kind ready => ?endsXfer⟩,
    fun s sub flow tag ws complete => flowOf_recordAtAdmission complete sub tag ws,
    fun s flow => congrArg Flow.items (flowOf_dropHead_same flow s)⟩
  case run =>
    rw [runAdmit_meets items whole going admits kind]
    refine ⟨fun t tab xs sound passes template table free => ⟨_, rfl, ?_⟩, fun st ends ready => ?_, fun f w sound faults walked => ?_⟩
    · rw [admitHead_passes desc unparked unarmed apart dur v sound passes template table free]
      obtain ⟨runs, flows⟩ := admitRun_admits flow (bindRun s flow d t tab tab.active (rangesOf d t tab.dim) xs) xs s
      obtain ⟨left, barrier⟩ := headAdmitted_head flow d.flow s
      refine ⟨runs, (congrArg Flow.items (flows flow)).trans (left.trans (by rw [items]; rfl)), (congrArg Flow.barrier (flows flow)).trans barrier,
        (congrArg Flow.promised (flows d.flow)).trans (headAdmitted_promised flow d.flow s), fun f notHead notNamed => ?_⟩
      exact (flows f).trans (headAdmitted_other flow d.flow s notHead notNamed)
    · rw [admitHead_ends desc unparked unarmed apart dur v ends, endRunItem_ends ready]
      rfl
    · rw [admitHead_parks desc unparked unarmed apart dur v sound faults, walked]
      rfl
  case xfer =>
    rw [transferAdmit_meets items whole going admits kind]
    refine ⟨fun src dst sound passes room record pins => ⟨_, rfl, ?_⟩, fun st ends ready => ?_, fun f w sound faults walked => ?_⟩
    · rw [admitXferHead_passes desc unparked unarmed dur v sound passes room record pins]
      obtain ⟨joins, flows⟩ := admitXfer_admits flow d src dst s
      obtain ⟨left, -⟩ := headAdmitted_head flow d.flow s
      exact ⟨joins, (congrArg Flow.items (flows flow)).trans (left.trans (by rw [items]; rfl)),
        (congrArg Flow.promised (flows d.flow)).trans (headAdmitted_promised flow d.flow s)⟩
    · rw [admitXferHead_ends desc unparked unarmed dur v ends, endXferItem_ends ready]
    · rw [admitXferHead_parks desc unparked unarmed dur v sound faults, walked]
      rfl
  case endsRun => rw [replacedItemEnd_ends items live marked, if_pos kind, endRunItem_ends ready]
  case endsXfer => rw [replacedItemEnd_ends items live marked, if_neg (by rw [kind]; decide), if_pos kind, endXferItem_ends ready]

end Sys2Proof.Machine

/-! SUPPORT. The Carters' chunks, the distributor and the completion records: what a chunk leaves in its stream or transfer. -/

namespace Sys2Proof.Machine

open Sys2Proof

/-! ## A stream and a transfer through the steps of a chunk -/

/-- Stream `i` of the Run is there and meets `P`. -/
def HasStream (ord i : Nat) (P : Stream → Prop) (s : State) : Prop :=
  ∃ q y, runOf s ord = some q ∧ q.streams[i]? = some y ∧ P y

/-- The transfer is there and meets `P`. -/
def HasXfer (ord : Nat) (P : Xfer → Prop) (s : State) : Prop := ∃ y, xferOf s ord = some y ∧ P y

section Held

variable {s : State} {ord i : Nat} {P Q : Stream → Prop} {X Y : Xfer → Prop}

theorem HasStream.of_only {l : List Part} {t : State} (h : HasStream ord i P s) (only : OnlyIn l s t) (qh : Part.qh ∉ l) :
    HasStream ord i P t := by
  obtain ⟨q, y, run, stream, holds⟩ := h
  exact ⟨q, y, (runOf_of_only only qh ord).trans run, stream, holds⟩

theorem HasStream.streamAt (h : HasStream ord i P s) {f : Stream → Stream} (next : ∀ y, P y → Q (f y)) :
    HasStream ord i Q (streamAt ord i f s) := by
  obtain ⟨q, y, run, stream, holds⟩ := h
  obtain ⟨q', run', stream', -⟩ := streamAt_stream run stream f
  exact ⟨q', f y, run', stream', next y holds⟩

theorem HasStream.bagMod (h : HasStream ord i P s) (b : Nat) (f : BagInfo → BagInfo) : HasStream ord i P (bagMod ord b f s) := by
  obtain ⟨q, y, run, stream, holds⟩ := h
  exact ⟨_, y, runOf_runMod_same run fun _ => rfl, stream, holds⟩

theorem HasStream.correctedCells (h : HasStream ord i P s) (n : Nat) : HasStream ord i P (correctedCells n s) := by
  obtain ⟨q, y, run, stream, holds⟩ := h
  exact ⟨q, y, by unfold runOf at run ⊢; rwa [correctedCells_qh], stream, holds⟩

theorem HasXfer.of_only {l : List Part} {t : State} (h : HasXfer ord X s) (only : OnlyIn l s t) (qh : Part.qh ∉ l) : HasXfer ord X t := by
  obtain ⟨y, xfer, holds⟩ := h
  exact ⟨y, (xferOf_of_only only qh ord).trans xfer, holds⟩

theorem HasXfer.xferMod (h : HasXfer ord X s) {f : Xfer → Xfer} (keeps : ∀ y, (f y).ord = y.ord) (next : ∀ y, X y → Y (f y)) :
    HasXfer ord Y (xferMod ord f s) := by
  obtain ⟨y, xfer, holds⟩ := h
  exact ⟨f y, xferOf_xferMod_same xfer keeps, next y holds⟩

theorem HasXfer.correctedCells (h : HasXfer ord X s) (n : Nat) : HasXfer ord X (correctedCells n s) := by
  obtain ⟨y, xfer, holds⟩ := h
  exact ⟨y, by unfold xferOf at xfer ⊢; rwa [correctedCells_qh], holds⟩

end Held

/-! ## Chunks of a Run's stream -/

section StreamChunk

variable {s : State} {ord i : Nat} {x : Stream}

/-- The requests of an inbound chunk deliver bytes and failures; the cursor is theirs to leave. -/
theorem fromHbm_cursor {c : Nat} (h : HasStream ord i (fun y => y.cursor = c) s) (ofs a n elem hint : Nat) :
    HasStream ord i (fun y => y.cursor = c) (fromHbm ord i ofs a n elem hint s) :=
  ((h.of_only (frontRead_only _ _ _ _ _) (by decide)).streamAt fun _ same => same).of_only (countPoisons_only _ _) (by decide)

theorem chunkIn_moves (h : HasStream ord i (fun y => y.cursor = x.cursor) s) (carter : Nat) :
    HasStream ord i (fun y => y.cursor = x.cursor + chunkElems x.elem (x.count - x.cursor) ∧ y.carter = carter) (chunkIn carter ord i x s) := by
  refine (HasStream.streamAt (P := fun y => y.cursor = x.cursor) ?_ fun y same => ⟨by rw [same], rfl⟩).of_only (countEv_only _ _ _ _) (by decide)
  refine List.foldlRecOn _ _ h fun t held p _ => ?_
  split
  · exact fromHbm_cursor held _ _ _ _ _
  · exact held.streamAt fun _ same => same
  · exact held.of_only (chipRead_only _ _ _ _) (by decide)

theorem writeElem_stream {P : Stream → Prop} (h : HasStream ord i P s) (e : OutElem) : HasStream ord i P (writeElem ord i x e s) :=
  List.foldlRecOn _ _ (h.bagMod _ _) fun _ held _ _ => held.of_only (chipWrite_only _ _ _ _ _) (by decide)

theorem chunkOut_moves (h : HasStream ord i (· = x) s) (carter : Nat) :
    HasStream ord i (fun y => y.cursor = x.cursor + (outChunk x.outQ).length ∧ y.carter = carter ∧
      y.outQ = x.outQ.drop (outChunk x.outQ).length ∧ y.handed = x.handed - (outChunk x.outQ).length) (chunkOut carter ord i x s) := by
  refine HasStream.of_only ?_ (countEv_only _ _ _ _) (by decide)
  refine List.foldlRecOn _ _ (h.streamAt ?_) fun _ held e _ => writeElem_stream held e
  rintro y rfl
  exact ⟨rfl, rfl, rfl, rfl⟩

theorem failElems_run {t v : State} {r : Run} {P : Stream → Prop} (run : runOf v ord = some r) (stream : r.streams[i]? = some x)
    (bad : List CwErr) (h : HasStream ord i P t) (keeps : ∀ y l, P y → P { y with badElems := l }) :
    HasStream ord i (fun y => P y ∧ ∀ e k, e ∈ bad → k ∈ chunkHits v e.cw x.elem (runPieces x) → (k, .uncorrectable) ∈ y.badElems)
      (failElems v ord i bad t) := by
  unfold failElems
  simp only [run, stream]
  refine h.streamAt fun y holds => ⟨keeps y _ holds, fun e k mem hit => ?_⟩
  exact List.mem_append_right _ (List.mem_map_of_mem (List.mem_flatMap.mpr ⟨e, mem, hit⟩))

end StreamChunk

/-! ## Chunks of a transfer -/

section XferChunk

variable {s : State} {ord : Nat} {x : Xfer}

theorem xferReadElem_keeps {c d : Nat} (h : HasXfer ord (fun y => y.cursor = c ∧ y.done = d) s) (k : Nat) :
    HasXfer ord (fun y => y.cursor = c ∧ y.done = d) (xferReadElem ord k x s) := by
  refine List.foldlRecOn _ _ h fun t held p _ => ?_
  dsimp only
  split
  · refine HasXfer.of_only ?_ (countPoisons_only _ _) (by decide)
    exact (held.of_only (frontRead_only _ _ _ _ _) (by decide)).xferMod (fun _ => rfl) fun _ same => same
  · exact held.xferMod (fun _ => rfl) fun _ same => same
  · exact held.of_only (chipRead_only _ _ _ _) (by decide)

theorem xferChunkIn_moves (h : HasXfer ord (fun y => y.cursor = x.cursor ∧ y.done = x.done) s) (carter : Nat) :
    HasXfer ord (fun y => y.cursor = x.cursor + chunkElems x.desc.elem (x.desc.count - x.cursor) ∧ y.carter = carter ∧ y.done = x.done)
      (xferChunkIn carter ord x s) := by
  refine HasXfer.of_only ?_ (countEv_only _ _ _ _) (by decide)
  refine (List.foldlRecOn _ _ h fun t held k _ => xferReadElem_keeps held _ : HasXfer ord _ _).xferMod (fun _ => rfl) ?_
  rintro y ⟨cursor, done⟩
  exact ⟨by rw [cursor], rfl, done⟩

theorem xferChunkOut_writes (h : HasXfer ord (fun y => y.done = x.done) s) (carter : Nat) (bs : List Byte) :
    HasXfer ord (fun y => y.carter = carter ∧ y.done = x.done ∧
      y.writes = requestCount (cutPieces (rangePieces x.dst (xferAddr x.desc x.done).2 bs.length) bs)) (xferChunkOut carter ord x bs s) := by
  refine HasXfer.of_only ?_ (countEv_only _ _ _ _) (by decide)
  exact List.foldlRecOn _ _ (h.xferMod (fun _ => rfl) fun y done => ⟨rfl, done, rfl⟩)
    fun _ held _ _ => held.of_only (chipWrite_only _ _ _ _ _) (by decide)

theorem firstBad_isSome (a : Option (Nat × Status)) (b : Nat × Status) : (firstBad a b).isSome = true := by
  unfold firstBad
  split
  · rfl
  · split <;> rfl

theorem failElems_xfer {t v : State} {i : Nat} {X : Xfer → Prop} (noRun : runOf v ord = none) (xfer : xferOf v ord = some x)
    (bad : List CwErr) (h : HasXfer ord X t) (keeps : ∀ y b, X y → X { y with bad := b }) :
    HasXfer ord (fun y => X y ∧ ∀ e k, e ∈ bad → k ∈ xferElems x → chunkHits v e.cw x.desc.elem (elemPieces x k) ≠ [] → y.bad.isSome = true)
      (failElems v ord i bad t) := by
  unfold failElems
  simp only [noRun, xfer]
  split
  case h_1 k found => exact h.xferMod (fun _ => rfl) fun y holds => ⟨keeps y _ holds, fun _ _ _ _ _ => firstBad_isSome _ _⟩
  case h_2 clean =>
    obtain ⟨y, there, holds⟩ := h
    refine ⟨y, there, holds, fun e k mem elem hit => absurd ?_ (List.find?_eq_none.mp clean k elem)⟩
    exact List.any_eq_true.mpr ⟨e, mem, by simpa using hit⟩

end XferChunk

/-! ## What a Carter does -/

theorem commonFree_of_qh {s t : State} (h : t.qh = s.qh) : commonFree t = commonFree s := by
  unfold commonFree commonUsed streamsDraw reservedSum poolUp flowOf
  rw [h]

theorem streamReady_of_qh {s t : State} (h : t.qh = s.qh) (r : Run) (x : Stream) : streamReady t r x = streamReady s r x := by
  unfold streamReady streamFull
  rw [commonFree_of_qh h]

section Carter

variable {s u v : State} {carter ord i : Nat} {errs bad : List CwErr} {lines : List Nat}
  (low : carter < 48) (free : carterHeld s carter = false) (uIs : u = dropLines (chunkRanges s ord i) lines s)
  (badIs : bad = badIn u (chunkRanges u ord i) errs) (vIs : v = fixErrs (chunkRanges u ord i) errs u)
include low free uIs badIs vIs

theorem carterChunk_moves (moves : carterMoves s ord i = true) (words : Nat) : exec (.carterChunk carter ord ⟨i, errs, lines, words⟩) s =
    .next (correctedCells words (loseErrs bad (failElems v ord i bad (carterStep carter ord i v)))) := by
  subst uIs badIs vIs
  change execCarterChunk _ _ _ _ = _
  unfold execCarterChunk carterErrs
  simp only [low, free, moves, Nat.not_le.mpr, decide_false, Bool.or_false, Bool.false_eq_true, if_false, if_true]

omit low free badIs in
theorem chunkState_qh : v.qh = s.qh := by
  rw [vIs, (fixErrs_only _ _ _).same .qh (by decide), uIs, (dropLines_only _ _ _).same .qh (by decide)]

end Carter

theorem carterStep_run {s : State} {ord i : Nat} {r : Run} {x : Stream} (run : runOf s ord = some r) (stream : r.streams[i]? = some x)
    (ready : streamReady s r x = true) (carter : Nat) :
    carterStep carter ord i s = if x.write then chunkOut carter ord i x s else chunkIn carter ord i x s := by
  unfold carterStep
  simp only [run, stream, ready, if_true]

theorem carterStep_xferIn {s : State} {ord : Nat} {x : Xfer} (noRun : runOf s ord = none) (xfer : xferOf s ord = some x)
    (reads : xferReads x = true) (carter : Nat) : carterStep carter ord 0 s = xferChunkIn carter ord x s := by
  unfold carterStep
  simp only [noRun, xfer, reads, if_true]

theorem carterStep_xferOut {s : State} {ord i : Nat} {x : Xfer} {bs : List Byte} (noRun : runOf s ord = none) (xfer : xferOf s ord = some x)
    (write : i ≠ 0) (next : xferNext x = some bs) (writes : xferWrites x = true) (carter : Nat) :
    carterStep carter ord i s = xferChunkOut carter ord x bs s := by
  unfold carterStep
  simp only [noRun, xfer, write, next, writes, if_true, if_false]

theorem carterChunk_stays {s : State} {carter : Nat} (h : 48 ≤ carter ∨ carterHeld s carter = true) (ord : Nat) (chunk : ChunkIn) :
    exec (.carterChunk carter ord chunk) s = .next s := by
  change execCarterChunk _ _ _ _ = _
  unfold execCarterChunk
  rw [if_pos (by simpa using h)]

/-! ## The distributor and the records -/

theorem distributorForward_names {s : State} {ord g : Nat} {r : Run} {i : GroupInfo} (run : runOf s ord = some r)
    (group : mget r.groups g = some i) : exec (.distributorForward ord g) s =
    .next (if !i.forwarded && r.ended.isNone && groupsBefore r g && groupReady r g then forwardGroup ord g r i s else s) := by
  change execDistributorForward _ _ _ = _
  unfold execDistributorForward
  simp only [run, group]

theorem runRecordWrite_names {s : State} {ord : Nat} {r : Run} (run : runOf s ord = some r) (duration : Nat) :
    exec (.runRecordWrite ord duration) s = .next (if runFinished s r then finishRun r duration s else s) := by
  change execRunRecordWrite _ _ _ = _
  unfold execRunRecordWrite
  simp only [run]

theorem transferRecordWrite_ends {s : State} {ord : Nat} {x : Xfer} {st : Status} (xfer : xferOf s ord = some x) (ends : xferStatus x = some st)
    (duration : Nat) : ∃ u, u = putRecord x.desc.flow true (xferRecord x.desc x.carter st false x.done duration) s ∧
    exec (.transferRecordWrite ord duration) s =
      .next (settle { u with qh := { u.qh with xfers := u.qh.xfers.filter (fun y => y.ord != ord) } }) := by
  refine ⟨_, rfl, ?_⟩
  change execTransferRecordWrite _ _ _ = _
  unfold execTransferRecordWrite
  simp only [xfer, ends]

theorem transferRecordWrite_stays {s : State} {ord : Nat} {x : Xfer} (xfer : xferOf s ord = some x) (goes : xferStatus x = none)
    (duration : Nat) : exec (.transferRecordWrite ord duration) s = .next s := by
  change execTransferRecordWrite _ _ _ = _
  unfold execTransferRecordWrite
  simp only [xfer, goes]

/-- Settles O43, chunk by chunk: the stream or transfer a Carter names keeps its cursor through the requests of the chunk, moves it
once, and the elements on uncorrectable codewords are marked last; the distributor and the records are one equation each. -/
theorem streamsAndRecords : Obligations.StreamsAndRecords := by
  unfold Obligations.StreamsAndRecords
  refine ⟨?_, ?_, ?_, ?_, ?_, ?_⟩
  · intro s u v carter ord i n words errs bad lines r x low free run stream ready uIs badIs vIs
    have qh : v.qh = s.qh := chunkState_qh uIs vIs
    have vRun : runOf v ord = some r := by rw [← run]; unfold runOf; rw [qh]
    have step := carterStep_run vRun stream ((streamReady_of_qh qh r x).trans ready) carter
    have moves : carterMoves s ord i = true := by unfold carterMoves; simp only [run, stream, ready, Option.map_some, Option.getD_some]
    have outcome := carterChunk_moves low free uIs badIs vIs moves words
    rw [step] at outcome
    refine ⟨fun write nIs => ?_, fun write nIs => ?_⟩
    · rw [if_neg (by simp [write])] at outcome
      refine ⟨outcome, _, outcome, ?_⟩
      obtain ⟨q, y, there, found, ⟨cursor, noted⟩, fails⟩ := ((failElems_run vRun stream bad
        (chunkIn_moves ⟨r, x, vRun, stream, rfl⟩ carter) fun _ _ h => h).of_only (loseErrs_only bad _) (by decide)).correctedCells words
      exact ⟨q, y, there, found, by rw [cursor, nIs]; rfl, noted, fails⟩
    · rw [if_pos write] at outcome
      refine ⟨outcome, _, outcome, ?_⟩
      obtain ⟨q, y, there, found, ⟨cursor, noted, queued, handed⟩, -⟩ := ((failElems_run vRun stream bad
        (chunkOut_moves ⟨r, x, vRun, stream, rfl⟩ carter) fun _ _ h => h).of_only (loseErrs_only bad _) (by decide)).correctedCells words
      exact ⟨q, y, there, found, by rw [cursor, nIs], noted, by rw [queued, nIs], by rw [handed, nIs]⟩
  · intro s u v carter ord i n words errs bad lines x low free noRun xfer uIs badIs vIs
    have qh : v.qh = s.qh := chunkState_qh uIs vIs
    have vNoRun : runOf v ord = none := by rw [← noRun]; unfold runOf; rw [qh]
    have vXfer : xferOf v ord = some x := by rw [← xfer]; unfold xferOf; rw [qh]
    refine ⟨fun read reads nIs => ?_, fun bs write next writes => ?_⟩
    · have moves : carterMoves s ord i = true := by unfold carterMoves; simp only [noRun, xfer, read, if_true, reads]
      have outcome := carterChunk_moves low free uIs badIs vIs moves words
      rw [show carterStep carter ord i v = xferChunkIn carter ord x v by rw [read]; exact carterStep_xferIn vNoRun vXfer reads carter] at outcome
      refine ⟨outcome, _, outcome, ?_⟩
      obtain ⟨y, there, ⟨cursor, noted, done⟩, fails⟩ := ((failElems_xfer vNoRun vXfer bad
        (xferChunkIn_moves ⟨x, vXfer, rfl, rfl⟩ carter) fun _ _ h => h).of_only (loseErrs_only bad _) (by decide)).correctedCells words
      exact ⟨y, there, by rw [cursor, nIs]; rfl, noted, done, fails⟩
    · have moves : carterMoves s ord i = true := by
        unfold carterMoves
        simp only [noRun, xfer, write, if_false, next, Option.isSome_some, writes, Bool.and_self]
      have outcome := carterChunk_moves low free uIs badIs vIs moves words
      rw [carterStep_xferOut vNoRun vXfer write next writes carter] at outcome
      refine ⟨outcome, _, outcome, ?_⟩
      obtain ⟨y, there, holds, -⟩ := ((failElems_xfer vNoRun vXfer bad
        (xferChunkOut_writes ⟨x, vXfer, rfl⟩ carter bs) fun _ _ h => h).of_only (loseErrs_only bad _) (by decide)).correctedCells words
      exact ⟨y, there, holds⟩
  · exact fun s carter ord i words errs lines held => carterChunk_stays held ord _
  · intro s ord g r i run group
    refine ⟨fun fresh goes before ready => ?_, fun stays => ?_⟩
    · refine ⟨_, (distributorForward_names run group).trans (congrArg _ (if_pos (by simp [fresh, goes, before, ready]))), ?_⟩
      exact ⟨_, runOf_runMod_same run fun _ => rfl, mget_mset_same _ _ _, rfl, rfl⟩
    · rw [distributorForward_names run group, if_neg]
      rcases stays with h | h | h | h <;> simp [h]
  · intro s u ord duration r run uIs
    refine ⟨fun whole => ?_, fun waits => ?_⟩
    · rw [runRecordWrite_names run, if_pos whole, uIs]
      rfl
    · rw [runRecordWrite_names run, waits, if_neg Bool.false_ne_true]
  · intro s ord duration x xfer
    refine ⟨fun st ends => ?_, fun goes => transferRecordWrite_stays xfer goes duration⟩
    obtain ⟨u, uIs, outcome⟩ := transferRecordWrite_ends xfer ends duration
    refine ⟨_, outcome, ?_, ?_⟩
    · rw [flowOf_of_only (settle_only _) (by decide)]
      refine (flowOf_of_flows (s := u) ?_ _).trans ?_
      · rfl
      · rw [uIs]
        exact flowOf_flowMod_same _ _ _
    · rw [(settle_only _).same .qh (by decide), uIs]
      rfl

end Sys2Proof.Machine

/-! SUPPORT. Bag groups, bags and Sieve windows of a column, and the tiles its Mills drain. -/

namespace Sys2Proof.Machine

open Sys2Proof

/-! ## Bag groups -/

section Groups

variable {s : State} {ord col : Nat} {r : Run}

theorem groupToHand_givenBack {g : Nat} {i : GroupInfo} (back : r.groups.find? (fun g => g.2.col == 40) = some (g, i)) :
    groupToHand r = some (g, i.forwarded) := by
  unfold groupToHand
  rw [back]

theorem groupToHand_next (noneBack : r.groups.find? (fun g => g.2.col == 40) = none) (more : r.nextGroup < groupCount r) :
    groupToHand r = some (r.nextGroup, false) := by
  unfold groupToHand
  rw [noneBack]
  exact if_pos more

/-- A group of a Run handed to a column; the column's bags of it that have not begun are tagged. -/
def groupHanded (ord col g : Nat) (fwd : Bool) (r : Run) (s : State) : State :=
  ((groupBags r g).filter (fun b => (bagOf r b).state == .pending)).foldl (fun t b => tagBag r col b t)
    (runMod ord (fun r => { r with groups := mset r.groups g { col := col, forwarded := fwd }, nextGroup := max r.nextGroup (g + 1) }) s)

theorem bagGroupDispatch_hands {g : Nat} {fwd : Bool} (run : runOf s ord = some r) (hand : groupToHand r = some (g, fwd))
    (goes : r.ended = none) (least : leastLoaded s r col = true) :
    exec (.bagGroupDispatch ord col) s = .next (groupHanded ord col g fwd r s) := by
  change execBagGroupDispatch ord col s = _
  unfold execBagGroupDispatch
  simp only [run, hand, goes, Option.isNone_none, least, Bool.and_self, if_true]
  rfl

/-- Tagging the bags changes no Run. -/
theorem runOf_groupHanded (run : runOf s ord = some r) (g : Nat) (fwd : Bool) :
    ∃ q, runOf (groupHanded ord col g fwd r s) ord = some q ∧ q.bags = r.bags ∧
      q.groups = mset r.groups g { col := col, forwarded := fwd } ∧ q.nextGroup = max r.nextGroup (g + 1) := by
  refine ⟨{ r with groups := mset r.groups g { col := col, forwarded := fwd }, nextGroup := max r.nextGroup (g + 1) }, ?_, rfl, rfl, rfl⟩
  unfold groupHanded
  exact List.foldlRecOn (motive := fun t => runOf t ord = some _) _ _ (runOf_runMod_same run fun _ => rfl)
    fun _ held _ _ => (runOf_of_only (tagBag_only _ _ _ _) (by decide) ord).trans held

theorem bagGroupDispatch_stays (run : runOf s ord = some r) (no : r.ended ≠ none ∨ leastLoaded s r col = false) :
    exec (.bagGroupDispatch ord col) s = .next s := by
  change execBagGroupDispatch ord col s = _
  unfold execBagGroupDispatch
  simp only [run]
  split
  · rfl
  · rw [if_neg]
    rcases no with h | h <;> simp [h]

end Groups

/-! ## Bags that start -/

section Starts

variable {s : State} {col mill ord b : Nat} {v : ChipView} {r : Run} {t : Table}

theorem afterBag_failBag (run : runOf s ord = some r) (going : (bagOf r b).isOver = false) (st : Status) :
    ∃ q, runOf (afterBag r.ord (failBag r.ord b st s)) ord = some q ∧ bagOf q b = { bagOf r b with state := .failed st } := by
  obtain ⟨q, found, bag⟩ := failBag_seen (o := ord) (c := b) (b := b) run st
  rw [if_pos ⟨rfl, rfl⟩, going] at bag
  rw [runOf_ord run]
  exact ⟨q, (runOf_of_only (afterBag_only _ _) (by decide) _).trans found, bag⟩

/-- A bag with sound data starts: its work on the Mill, the column's direction, and what no step of the start touches. -/
theorem openBag_starts {lo hi : Nat} (run : runOf s ord = some r) (sound : bagBad r b lo hi = none) (redo : Bool) {u : State}
    (uIs : u = openBag col mill b redo r t lo hi s) :
    workOf u col mill = some (BagWork.start r b (lookupsOf r t (vslot t r.slot).rows lo hi)) ∧ (colOf u col).backward = r.backward ∧
      (colOf u col).redo = (colOf s col).redo ∧
      ∃ q, runOf u ord = some q ∧ (bagOf q b).state = .started ∧ (bagOf q b).redone = ((bagOf r b).redone || redo) := by
  unfold openBag at uIs
  simp only [sound] at uIs
  have column : colOf u col = { colOf s col with
      backward := r.backward
      mills := mmod (colOf s col).mills mill Mill.idle (fun k => { k with
        work := some (BagWork.start r b (lookupsOf r t (vslot t r.slot).rows lo hi)) }) } := by
    rw [uIs]
    unfold setWork millMod
    rw [colOf_colMod_same, colOf_of_only (sampleStart_only _ _ _ _ _ _ _) (by decide), colOf_colMod_same,
      colOf_of_only (bagMod_only _ _ _ _) (by decide)]
  refine ⟨by rw [uIs, workOf_setWork_same], by rw [column], by rw [column], ?_⟩
  obtain ⟨q, found, bag⟩ := bagMod_bag (b := b) run (fun i => { i with state := .started, redone := i.redone || redo })
  refine ⟨q, ?_, by rw [bag], by rw [bag]⟩
  rw [uIs, runOf_of_only (setWork_only _ _ _ _) (by decide), runOf_of_only (sampleStart_only _ _ _ _ _ _ _) (by decide),
    runOf_of_only (colMod_only _ _ _) (by decide), runOf_ord run, found]

theorem openBag_fails {lo hi : Nat} {st : Status} (bad : bagBad r b lo hi = some st) (redo : Bool) :
    openBag col mill b redo r t lo hi s = afterBag r.ord (failBag r.ord b st s) := by
  unfold openBag
  rw [bad]

theorem startBag_badOffset {st : Status} (bad : streamBad r .offsets [b, b + 1] = some st) :
    startBag col mill b r t v s = afterBag r.ord (failBag r.ord b st s) := by
  unfold startBag
  simp only [bad]

section Sound

variable {lo hi : Nat} (run : runOf s ord = some r) (read : streamBad r .offsets [b, b + 1] = none) (sound : firstBadOffset r b = none)
  (entries : bagEntries r b = some (lo, hi))
include run read sound entries

theorem startBag_fresh (fresh : (ord, b) ∉ (colOf s col).redo) : startBag col mill b r t v s = openBag col mill b false r t lo hi s := by
  unfold startBag
  simp only [read, sound, entries, runOf_ord run, fresh, decide_false, Bool.not_false, if_true]

theorem startBag_waits (again : (ord, b) ∈ (colOf s col).redo) (waits : againWaits r = true) : startBag col mill b r t v s = s := by
  unfold startBag
  simp only [read, sound, entries, runOf_ord run, again, waits, decide_true, Bool.not_true, Bool.false_eq_true, if_false, if_true]

theorem startBag_again {q : Run} {w : State} (again : (ord, b) ∈ (colOf s col).redo) (ready : againWaits r = false)
    (wIs : w = readAgain r b lo hi v (colMod col (fun c => { c with redo := c.redo.filter (fun p => p != (ord, b)) }) s))
    (reread : runOf w ord = some q) : startBag col mill b r t v s = openBag col mill b true q t lo hi w := by
  unfold startBag
  simp only [read, sound, entries, runOf_ord run, again, ready, decide_true, Bool.not_true, Bool.false_eq_true, if_false]
  rw [← wIs, reread, Option.getD_some]

end Sound

section Admitted

variable (run : runOf s ord = some r) (table : mget s.tables r.desc.tid = some t) (goes : r.ended = none) (mills : millsRun s = true)
  (free : millFree s (colOf s col) mill = true) (waits : bagWaits s col r b = true) (enabled : (colOf s col).state = .enabled)
  (room : (r.desc.spec && waitFull (colOf s col)) = false)
include run table goes mills free waits enabled room

/-- A bag that may start on a free Mill: its Run's direction decides whether it does. -/
theorem bagStart_admitted : exec (.bagStart col mill ord ⟨b, v⟩) s = .next (if directionOk s col r then startBag col mill b r t v s
    else if !r.backward && !worksFor s col true then colMod col (fun k => { k with flushDue := true }) s else s) := by
  have idle : (millOf (colOf s col) mill).work = none := by
    unfold millFree at free
    simp only [Bool.and_eq_true, Option.isNone_iff_eq_none] at free
    obtain ⟨⟨⟨-, idle⟩, -⟩, -⟩ := free
    exact idle
  change execBagStart _ _ _ _ _ = _
  unfold execBagStart
  simp only [run, idle, table, goes, mills, free, waits, enabled, room, Option.isNone_none, beq_self_eq_true, Bool.true_or, Bool.and_true,
    Bool.not_true, Bool.not_false, Bool.false_eq_true, if_false]

theorem bagStart_starts (direction : directionOk s col r = true) :
    exec (.bagStart col mill ord ⟨b, v⟩) s = .next (startBag col mill b r t v s) := by
  rw [bagStart_admitted run table goes mills free waits enabled room, if_pos direction]

theorem bagStart_asksFlush (direction : directionOk s col r = false) (forward : r.backward = false) (noneBack : worksFor s col true = false) :
    exec (.bagStart col mill ord ⟨b, v⟩) s = .next (colMod col (fun k => { k with flushDue := true }) s) := by
  rw [bagStart_admitted run table goes mills free waits enabled room, if_neg (by simp [direction]), if_pos (by simp [forward, noneBack])]

end Admitted

theorem bagStart_opensSlice {w : BagWork} (run : runOf s ord = some r) (work : (millOf (colOf s col) mill).work = some w)
    (mine : w.ord = ord) (bag : w.bag = b) (closed : w.opened = false) (mills : millsRun s = true) :
    exec (.bagStart col mill ord ⟨b, v⟩) s = .next (setWork col mill (some (w.openSlice r w.slice)) s) := by
  change execBagStart _ _ _ _ _ = _
  unfold execBagStart
  simp only [run, work, mine, bag, closed, mills, beq_self_eq_true, Bool.not_false, Bool.and_self, if_true]

end Starts

/-! ## Sieve windows -/

section Windows

variable {s : State} {col : Nat}

theorem sieveWindowClose_closes (column : col < 40)
    (full : 4096 ≤ (colOf s col).window.length ∨ (colOf s col).window ≠ [] ∧ moreLookups s col = false) :
    exec (.sieveWindowClose col) s = .next (colMod col (fun k => { k with window := [], pins := [] }) s) := by
  change execSieveWindowClose _ _ = _
  unfold execSieveWindowClose
  refine congrArg _ (if_pos ?_)
  simpa [column] using full

theorem sieveWindowClose_stays (no : 40 ≤ col ∨
    (colOf s col).window.length < 4096 ∧ ((colOf s col).window = [] ∨ moreLookups s col = true)) :
    exec (.sieveWindowClose col) s = .next s := by
  change execSieveWindowClose _ _ = _
  unfold execSieveWindowClose
  refine congrArg _ (if_neg ?_)
  rcases no with out | ⟨short, empty | more⟩
  · simp [Nat.not_lt.mpr out]
  · simp [empty]
  · simp [Nat.not_le.mpr short, more]

end Windows

/-! ## Tiles that drain -/

section Drains

variable {s : State} {col mill : Nat}

theorem tileDrain_slice (noToken : (millOf (colOf s col) mill).token = none) (mills : millsRun s = true) :
    exec (.tileDrain col mill) s = .next (millMod col mill (fun k => { k with part := none }) s) := by
  change execTileDrain _ _ _ = _
  unfold execTileDrain
  simp only [noToken, mills, if_true]

variable {ord b : Nat} {bytes : List Byte} {r : Run} {x : Stream} (token : (millOf (colOf s col) mill).token = some (ord, b, bytes))
  (run : runOf s ord = some r) (output : streamOf r .output = some x)
include token run output

theorem tileDrain_token : exec (.tileDrain col mill) s = .next (if !(millsRun s && r.ended.isNone && outRoom s x bytes.length) then s
    else millMod col mill (fun k => { k with token := none })
      (bagMod ord b (fun i => { i with writes := i.writes + (tokenElems r b bytes).length })
        (streamMod ord .output (fun y => { y with outQ := y.outQ ++ tokenElems r b bytes }) s))) := by
  change execTileDrain _ _ _ = _
  unfold execTileDrain
  simp only [token, run, output, Option.bind_some, Option.map_some]

theorem tileDrain_drains (mills : millsRun s = true) (goes : r.ended = none) (room : outRoom s x bytes.length = true) :
    Leads (exec (.tileDrain col mill) s) (fun u =>
      millOf (colOf u col) mill = { millOf (colOf s col) mill with token := none } ∧ ∃ q, runOf u ord = some q ∧
      streamOf q .output = some { x with outQ := x.outQ ++ tokenElems r b bytes } ∧
      bagOf q b = { bagOf r b with writes := (bagOf r b).writes + (tokenElems r b bytes).length }) := by
  refine ⟨_, (tileDrain_token token run output).trans (congrArg _ (if_neg (by simp [mills, goes, room]))), ?_, ?_⟩
  · rw [millOf_millMod_same, colOf_of_only (bagMod_only _ _ _ _) (by decide), colOf_of_only (streamMod_only _ _ _ _) (by decide)]
  · have filled : runOf (streamMod ord .output (fun y => { y with outQ := y.outQ ++ tokenElems r b bytes }) s) ord =
      some { r with streams := lmap r.streams (·.kind == .output) (fun y => { y with outQ := y.outQ ++ tokenElems r b bytes }) } :=
      runOf_runMod_same run fun _ => rfl
    rw [runOf_of_only (millMod_only _ _ _ _) (by decide)]
    exact ⟨_, runOf_runMod_same filled fun _ => rfl, find?_lmap_same output fun _ => rfl,
      mgetD_mmod_same r.bags b BagInfo.fresh (fun i => { i with writes := i.writes + (tokenElems r b bytes).length })⟩

theorem tileDrain_noRoom (full : outRoom s x bytes.length = false) : exec (.tileDrain col mill) s = .next s := by
  rw [tileDrain_token token run output, if_pos (by simp [full])]

end Drains

/-- Settles O44, operation by operation: which group, bag, window or tile is in hand decides the one branch taken, and the parts
each step does not touch carry over by their frames. -/
theorem bagStarts : Obligations.BagStarts := by
  unfold Obligations.BagStarts
  refine ⟨?_, ?_, ?_, ?_, ?_, ?_⟩
  · intro s ord col r run
    refine ⟨fun g i back goes least => ?_, fun noneBack more goes least => ?_, bagGroupDispatch_stays run⟩
    · exact ⟨_, bagGroupDispatch_hands run (groupToHand_givenBack back) goes least, runOf_groupHanded run _ _⟩
    · refine ⟨_, bagGroupDispatch_hands run (groupToHand_next noneBack more) goes least, ?_⟩
      obtain ⟨q, found, bags, groups, next⟩ := runOf_groupHanded (col := col) run r.nextGroup false
      exact ⟨q, found, bags, groups, next.trans (max_eq_right (Nat.le_succ _))⟩
  · intro s col mill ord b v r t run table goes mills free waits enabled room
    have starts := bagStart_starts (v := v) run table goes mills free waits enabled room
    refine ⟨fun st direction bad going => ?_, fun lo hi direction read sound entries => ⟨?_, ?_, ?_, ?_⟩,
      fun direction forward noneBack => ?_⟩
    · exact ⟨_, starts direction, startBag_badOffset (t := t) bad ▸ afterBag_failBag run going st⟩
    · intro fresh good
      obtain ⟨work, backward, -, q, found, state, -⟩ := openBag_starts (col := col) (mill := mill) (t := t) run good false rfl
      exact ⟨_, (starts direction).trans (by rw [startBag_fresh run read sound entries fresh]), work, backward, q, found, state⟩
    · intro st fresh bad going
      refine ⟨_, (starts direction).trans (by rw [startBag_fresh run read sound entries fresh, openBag_fails bad]), ?_⟩
      exact afterBag_failBag run going st
    · intro q w again ready wIs reread good
      obtain ⟨work, -, redo, q', found, state, redone⟩ := openBag_starts (col := col) (mill := mill) (t := t) reread good true rfl
      refine ⟨_, (starts direction).trans (by rw [startBag_again run read sound entries again ready wIs reread]), work, ?_, q', found, state,
        redone.trans (Bool.or_true _)⟩
      rw [redo, wIs, colOf_of_only (readAgain_only _ _ _ _ _ _) (by decide), colOf_colMod_same]
      simp
    · exact fun again waits' => (starts direction).trans (by rw [startBag_waits run read sound entries again waits'])
    · exact ⟨_, bagStart_asksFlush run table goes mills free waits enabled room direction forward noneBack, colOf_colMod_same _ _ _,
        fun k other => colOf_colMod_other other _ _⟩
  · intro s col mill ord b v r w run work mine bag closed mills
    exact ⟨_, bagStart_opensSlice run work mine bag closed mills, workOf_setWork_same _ _ _ _, rfl⟩
  · intro s col
    refine ⟨fun column full => ?_, sieveWindowClose_stays⟩
    exact ⟨_, sieveWindowClose_closes column full, colOf_colMod_same _ _ _, fun k other => colOf_colMod_other other _ _⟩
  · intro s col mill noToken mills
    exact ⟨_, tileDrain_slice noToken mills, millOf_millMod_same _ _ _ _, rfl⟩
  · intro s col mill ord b bytes r x token run output
    exact ⟨tileDrain_drains token run output, tileDrain_noRoom token run output⟩

end Sys2Proof.Machine

/-! SUPPORT. The frames of the Ledger and of the phases of Commit. -/

namespace Sys2Proof.Machine

open Sys2Proof

/-- Settles O51: each command's frame. -/
theorem ledgerFrame : Obligations.LedgerFrame := by
  unfold Obligations.LedgerFrame
  intro s t
  exact ⟨(execPartialEnqueue_within s).only,
    fun port idx => (execFoldHoldExpire_within port idx s).only,
    fun pos ue => (execLedgerFold_within pos ue s).only,
    fun slot v => (execStepOpen_within slot v s).only,
    fun slot => (execSeal_within slot s).only,
    (execSealDone_within s).only,
    fun idx => (execRowMoveComplete_within idx s).only,
    (execPromotionReceive_within s).only,
    (execSpillScan_within s).only,
    fun slot => (execCommit_within slot s).only,
    (execJournalFlushDone_within s).only,
    fun u => (execApplyUnit_within u s).only,
    fun tid shelf => (execShelfEvaluate_within tid shelf s).only,
    fun tid slot shelf newShelf => (execShelfRebuild_within tid slot shelf newShelf s).only,
    fun duration => (execCommitDone_within duration s).only⟩

end Sys2Proof.Machine

/-! SUPPORT. The backward path: a lookup's contribution meets the merge table of its column, the table is flushed, and the partials that
leave it go on their way. -/

namespace Sys2Proof.Machine

open Sys2Proof

/-! ## Contributions -/

section Contributions

variable {s : State} {col mill : Nat} {r : Run} {w : BagWork} {x : Table} {l : Lookup × W32} {ue : Bool}

/-- The Sieve key of the lookup at hand, as it joins the window. -/
def cursorKey (r : Run) (w : BagWork) : Option SieveKey :=
  ((w.lookups[w.cursor]?).bind (fun l => l.1.key r.desc.tid)).map (windowKey r w.slice)

/-- A lookup that reads no row forms no weight gradients and cannot fail: the work moves on by one. -/
theorem stepBackward_unread (wgt : W32) (zero : Bool) (s : State) : stepBackward col mill r w wgt zero none s =
    setWork col mill (some { w with cursor := w.cursor + 1 }) (countEv col 0x100 1 (useWindow col (cursorKey r w) s)) := by
  have failed : (w.failed.orElse fun _ => none) = w.failed := by cases w.failed <;> rfl
  unfold stepBackward
  simp only [backElems, backFail, failed]
  rfl

theorem colOf_stepBackward_unread (wgt : W32) (zero : Bool) (s : State) : colOf (stepBackward col mill r w wgt zero none s) col =
    { colOf s col with
      window := (colOf s col).window ++ [cursorKey r w]
      mills := mmod (colOf s col).mills mill Mill.idle (fun k => { k with work := some { w with cursor := w.cursor + 1 } }) } := by
  rw [stepBackward_unread]
  unfold setWork millMod useWindow
  rw [colOf_colMod_same, colOf_of_only (countEv_only _ _ _ _) (by decide), colOf_colMod_same]

theorem workOf_stepBackward_unread (wgt : W32) (zero : Bool) (s : State) :
    workOf (stepBackward col mill r w wgt zero none s) col mill = some { w with cursor := w.cursor + 1 } := by
  rw [stepBackward_unread, workOf_setWork_same]

/-- The column with the contribution of a lookup of weight `wgt` that reads no row put into its merge table. -/
def mergedLookup (s : State) (col mill : Nat) (r : Run) (x : Table) (w : BagWork) (wgt : W32) (key : RowKey) (ue : Bool) : Option Column :=
  let k : MergeKey := { step := r.desc.step, key := key, slice := w.slice, epoch := r.epoch }
  (colOf s col).merged (usesIn (windowOf s col) k) r.ord mill k
    (contribution r (divisorOf x w) wgt (gradSlice r w) (unreadElems r w key)) ue

theorem backwardContribution_ready (work : workOf s col mill = some w) (run : runOf s w.ord = some r)
    (lookup : w.lookups[w.cursor]? = some l) (table : mget s.tables r.desc.tid = some x) (noRows : needsRows r = false)
    (opened : w.opened = true) (backward : r.backward = true) (mills : millsRun s = true) (room : (colOf s col).window.length < 4096) :
    exec (.backwardContribution col mill ue) s = .next (contribute col mill r x w l none ue s) := by
  have ready : readyLookup r w = some none := by
    unfold readyLookup
    rw [noRows]
    rfl
  change execBackwardContribution col mill ue s = _
  unfold execBackwardContribution
  simp only [work, run, lookup, table, ready]
  rw [if_neg (by simp [opened, backward, mills, room])]

/-- A lookup without key or values contributes nothing. -/
theorem contribute_nothing (h : l.1.key r.desc.tid = none ∨ x.opt.kind = .none) (s : State) :
    ∃ zero, contribute col mill r x w l none ue s = stepBackward col mill r w l.2 zero none s := by
  unfold contribute
  split
  · exact ⟨true, rfl⟩
  next key named =>
    have noValues : x.opt.kind = .none := h.resolve_left (by simp [named])
    exact ⟨false, if_pos noValues⟩

variable {key : RowKey} (named : l.1.key r.desc.tid = some key) (values : x.opt.kind ≠ .none)
include named values

/-- The merge table takes the contribution, and the work moves on. -/
theorem contribute_merges {c : Column} (merges : mergedLookup s col mill r x w l.2 key ue = some c) :
    contribute col mill r x w l none ue s = stepBackward col mill r w l.2 false none { s with cols := mset s.cols col c } := by
  unfold mergedLookup at merges
  unfold contribute
  simp only [named, values, if_false, backElems, Option.getD_none, merges]

/-- The merge table has no free slot: a flush falls due. -/
theorem contribute_asksFlush (full : mergedLookup s col mill r x w l.2 key ue = none) :
    contribute col mill r x w l none ue s = colMod col (fun c => { c with flushDue := true }) s := by
  unfold mergedLookup at full
  unfold contribute
  simp only [named, values, if_false, backElems, Option.getD_none, full]

end Contributions

theorem colOf_setCol (s : State) (col : Nat) (c : Column) : colOf { s with cols := mset s.cols col c } col = c := by
  unfold colOf mgetD
  rw [mget_mset_same]
  rfl

/-- A flush that falls due leaves the work of the column's Mills. -/
theorem workOf_flushDue (col mill : Nat) (s : State) :
    workOf (colMod col (fun c => { c with flushDue := true }) s) col mill = workOf s col mill := by
  unfold workOf
  rw [colOf_colMod_same]
  rfl

/-! ## Flushes -/

/-- What a flush emits and counts touches no column: its own is emptied last. -/
theorem flushColumn_empties (col : Nat) (s : State) : ∃ u, OnlyIn [.events, .qh, .ports, .ldg, .asy, .span, .counts] s u ∧
    flushColumn col s = colMod col (fun k => { k with merge := [], runSet := [], flushDue := false }) u := by
  refine ⟨_, ?_, rfl⟩
  refine (countEv_only _ _ _ _).step (by decide) <| (countEv_only _ _ _ _).step (by decide) ?_
  refine OnlyIn.thenFold (OnlyIn.foldl (fun t x => ?_) _ s) fun t o => (runMod_only o _ t).mono (by decide)
  exact .ite (fun _ => (dropSlot_only t).mono (by decide)) fun _ => (emitSlot_only _ x t).mono (by decide)

theorem mergeFlush_flushes {s : State} {col : Nat} (due : (colOf s col).flushDue = true)
    (room : s.ldg.input.length + localPartials s (colOf s col) ≤ 4096) : exec (.mergeFlush col) s = .next (flushColumn col s) :=
  congrArg _ (if_pos (by simp [due, room]))

theorem mergeFlush_waits {s : State} {col : Nat} (full : 4096 < s.ldg.input.length + localPartials s (colOf s col)) :
    exec (.mergeFlush col) s = .next s :=
  congrArg _ (if_neg (by simp [Nat.not_le.mpr full]))

theorem backwardStreamIdle_asksFlush {s : State} {col : Nat} (column : col < 40) (backward : (colOf s col).backward = true)
    (merged : (colOf s col).merge ≠ [] ∨ (colOf s col).runSet ≠ [])
    (idle : ∀ r ∈ s.qh.runs, r.backward = true → ∀ g ∈ r.groups, g.2.col = col → g.2.forwarded = true →
      ∀ b ∈ groupBags r g.1, (bagOf r b).state ≠ .pending) :
    exec (.backwardStreamIdle col) s = .next (colMod col (fun k => { k with flushDue := true }) s) := by
  refine congrArg _ (if_pos ?_)
  have quiet : s.qh.runs.any (fun r => r.backward && r.groups.any (fun g => g.2.col == col && g.2.forwarded &&
      (groupBags r g.1).any (fun b => (bagOf r b).state == .pending))) = false := by
    simpa only [List.any_eq_false, Bool.and_eq_true, beq_iff_eq, not_and, and_imp, List.any_eq_true, not_exists, ne_eq] using idle
  have something : ((colOf s col).merge.isEmpty && (colOf s col).runSet.isEmpty) = false := by
    simpa [imp_iff_not_or] using merged
  simp only [column, backward, quiet, something, decide_true, Bool.not_false, Bool.and_self]

/-! ## Partials on their way -/

theorem partialEnqueue_takes {s : State} {k : Packet} {runs : List Nat} {rest : List (Packet × List Nat)}
    (oldest : s.span.partialQ = (k, runs) :: rest) :
    exec .partialEnqueue s = .next (partialTaken runs (relay k { s with span := { s.span with partialQ := rest } })) := by
  change execPartialEnqueue s = _
  unfold execPartialEnqueue
  rw [oldest]

theorem portAt_portMod_same (p : Nat) (f : Port → Port) (s : State) : portAt (portMod p f s) p = f (portAt s p) :=
  mgetD_mmod_same _ _ _ _

theorem portAt_portMod_other {o p : Nat} (h : o ≠ p) (f : Port → Port) (s : State) : portAt (portMod p f s) o = portAt s o :=
  mgetD_mmod_other _ h _ _

/-- A queue of a port changes: that queue holds what `f` makes of it, and the other queues and ports are as before. -/
theorem queueMod_frame {s : State} {port ch : Nat} {q : List Queued} (f : List Queued → List Queued)
    (queue : mget (portAt s port).queues ch = some q) {t : State}
    (tIs : t = portMod port (fun p => { p with queues := mmod p.queues ch [] f }) s) :
    mget (portAt t port).queues ch = some (f q) ∧
      (∀ c, c ≠ ch → mget (portAt t port).queues c = mget (portAt s port).queues c) ∧ ∀ o, o ≠ port → portAt t o = portAt s o := by
  subst tIs
  refine ⟨?_, fun c other => ?_, fun o other => portAt_portMod_other other _ s⟩
  · rw [portAt_portMod_same]
    unfold mmod mgetD
    rw [mget_mset_same, queue]
    rfl
  · rw [portAt_portMod_same]
    exact mget_mset_other _ _ _ _ other

section Hold

variable {s : State} {port idx : Nat} {q : List Queued} (link : port < 8)
include link

/-- The partials of virtual lane 0 are counted before those of lane 1. -/
theorem foldHoldExpire_lane0 (first : idx < partialsIn (mgetD (portAt s port).queues 4 []))
    (queue : mget (portAt s port).queues 4 = some q) : exec (.foldHoldExpire port idx) s =
      .next (portMod port (fun p => { p with queues := mmod p.queues 4 [] (makeEligible idx) }) s) := by
  change execFoldHoldExpire port idx s = _
  unfold execFoldHoldExpire
  simp only [Nat.not_le.mpr link, if_false, first, queue, if_true, Option.isSome_some]

theorem foldHoldExpire_lane1 (beyond : partialsIn (mgetD (portAt s port).queues 4 []) ≤ idx)
    (queue : mget (portAt s port).queues 5 = some q) : exec (.foldHoldExpire port idx) s =
      .next (portMod port (fun p => { p with
        queues := mmod p.queues 5 [] (makeEligible (idx - partialsIn (mgetD (portAt s port).queues 4 []))) }) s) := by
  change execFoldHoldExpire port idx s = _
  unfold execFoldHoldExpire
  simp only [Nat.not_le.mpr link, if_false, Nat.not_lt.mpr beyond, queue, if_true, Option.isSome_some]

end Hold

/-! ## The statement -/

/-- Settles O29: a lookup by what the merge table makes of it, a flush by the room at the Ledger's input, a held partial by its
queue. That a forced flush without room waits is deduced from R247 (assumption log 45). -/
theorem backwardPath : Obligations.BackwardPath := by
  unfold Obligations.BackwardPath
  refine ⟨?contribution, ?flush, ?idle, ?enqueue, ?hold⟩
  case contribution =>
    intro s col mill ue w r x l work run lookup table noRows opened backward mills room
    have ready := backwardContribution_ready (ue := ue) work run lookup table noRows opened backward mills room
    refine ⟨fun key vs c named values vsIs merges => ?merges, fun key vs named values vsIs full => ?full, fun nothing => ?nothing⟩
    case merges =>
      subst vsIs
      refine ⟨_, ready.trans (congrArg _ (contribute_merges named values merges)), ?_, ?_, _, workOf_stepBackward_unread _ _ _, rfl⟩ <;>
        rw [colOf_stepBackward_unread, colOf_setCol]
    case full =>
      subst vsIs
      exact ⟨_, ready.trans (congrArg _ (contribute_asksFlush named values full)), colOf_colMod_same _ _ _,
        (workOf_flushDue col mill s).trans work⟩
    case nothing =>
      obtain ⟨zero, moves⟩ := contribute_nothing (col := col) (mill := mill) (w := w) (ue := ue) nothing s
      exact ⟨_, ready.trans (congrArg _ moves), by rw [colOf_stepBackward_unread], _, workOf_stepBackward_unread _ _ _, rfl⟩
  case flush =>
    intro s col due
    refine ⟨fun room => ?_, mergeFlush_waits⟩
    obtain ⟨u, only, flushed⟩ := flushColumn_empties col s
    have columns := colOf_of_only only (by decide)
    refine ⟨_, (mergeFlush_flushes due room).trans (congrArg _ flushed), ?_, fun o other => ?_, only.same .tables (by decide),
      only.same .hbm (by decide)⟩
    · rw [colOf_colMod_same, columns]
    · rw [colOf_colMod_other other, columns]
  case idle =>
    intro s col column backward merged idle
    exact ⟨_, backwardStreamIdle_asksFlush column backward merged idle, colOf_colMod_same _ _ _,
      fun o other => colOf_colMod_other other _ _⟩
  case enqueue => exact fun s k runs rest oldest => ⟨_, partialEnqueue_takes oldest, rfl⟩
  case hold =>
    intro s port idx q link
    exact ⟨fun first queue => ⟨_, foldHoldExpire_lane0 link first queue, queueMod_frame _ queue rfl⟩,
      fun beyond queue => ⟨_, foldHoldExpire_lane1 link beyond queue, queueMod_frame _ queue rfl⟩⟩

end Sys2Proof.Machine

/-! SUPPORT. What LDG_STATUS and LDG_STEP read of the open step and the sealed one (R239, R240, R246). -/

namespace Sys2Proof.Machine

open Sys2Proof

theorem bit_w64 {i : Nat} (h : i < 64) (n : Nat) : bit (w64 n) i = n.testBit i := by
  rw [bit, w64, BitVec.getLsbD_ofNat, decide_eq_true h, Bool.true_and]

/-- LDG_STATUS from its low three bits up. -/
theorem ldgStatus_word (s : State) : ∃ rest, regRead s 0x600000 =
    w64 (b2n s.ldg.openStep.isSome + b2n s.ldg.sealedStep.isSome * 2 + b2n s.ldg.sealing * 4 + rest * 8) := by
  refine ⟨b2n s.ldg.committing + b2n (decide (indexSize ≤ s.ldg.entries.length)) * 2 + b2n (regionFull s) * 4 +
    b2n s.ldg.penFull * 8 + b2n s.ldg.spilled * 16 + s.ldg.spillRecords * 536870912, ?_⟩
  change w64 _ = _
  refine congrArg w64 ?_
  simp only [pow32]
  omega

theorem b2n_le_one (b : Bool) : b2n b ≤ 1 := by cases b <;> decide

/-- A bit whose digit is a flag's number reads that flag. -/
theorem testBit_of_digit {n i : Nat} {b : Bool} (h : n / 2 ^ i % 2 = b2n b) : n.testBit i = b := by
  rw [Nat.testBit_eq_decide_div_mod_eq, h]
  cases b <;> rfl

/-- Three flags below the rest of a word, each at its bit. -/
theorem testBit_flags (a b c : Bool) (rest : Nat) :
    (b2n a + b2n b * 2 + b2n c * 4 + rest * 8).testBit 0 = a ∧
    (b2n a + b2n b * 2 + b2n c * 4 + rest * 8).testBit 1 = b ∧
    (b2n a + b2n b * 2 + b2n c * 4 + rest * 8).testBit 2 = c := by
  have ha := b2n_le_one a
  have hb := b2n_le_one b
  have hc := b2n_le_one c
  exact ⟨testBit_of_digit (by omega), testBit_of_digit (by omega), testBit_of_digit (by omega)⟩

/-- OPEN, SEALED and SEALING of LDG_STATUS are the Ledger's own (R246). -/
theorem ldgStatus_reads (s : State) : bit (regRead s 0x600000) 0 = s.ldg.openStep.isSome ∧
    bit (regRead s 0x600000) 1 = s.ldg.sealedStep.isSome ∧ bit (regRead s 0x600000) 2 = s.ldg.sealing := by
  obtain ⟨rest, word⟩ := ldgStatus_word s
  rw [word, bit_w64 (by decide), bit_w64 (by decide), bit_w64 (by decide)]
  exact testBit_flags _ _ _ _

theorem bits_pair32_high (lo : Nat) {hi : Nat} (h : hi < 2 ^ 32) : bits (pair32 lo hi) 32 32 = hi := by
  simp only [bits, pair32, w64, BitVec.toNat_ofNat, Nat.shiftRight_eq_div_pow, pow32]
  omega

/-- SEALED_STEP of LDG_STEP is the step that was sealed last (R240). -/
theorem ldgStep_sealed {s : State} (h : s.ldg.sealedWas < 2 ^ 32) : bits (regRead s 0x600008) 32 32 = s.ldg.sealedWas :=
  bits_pair32_high s.ldg.openWas h

/-- Settles O59: an accepted SEAL leaves the step sealed and its folds awaited, and SEAL_DONE ends the wait. -/
theorem sealSetsStatus : Obligations.SealSetsStatus := by
  unfold Obligations.SealSetsStatus
  refine ⟨fun s slot m ready opened unsealed => ⟨_, seal_accepted ready opened unsealed, ?_⟩,
    fun s ready => ⟨_, sealDone_fires ready, ?_, ?_⟩⟩
  · obtain ⟨isOpen, isSealed, isSealing⟩ :=
      ldgStatus_reads (settle (accept slot m (sealStep (bits (arg m 1) 0 32) (untake slot s))))
    rw [isOpen, isSealed, isSealing, ldgStep_sealed, settle_ldg, settle_mbx]
    · exact ⟨accept_mbx rfl m, rfl, rfl, rfl, rfl⟩
    · rw [settle_ldg]
      exact bits_lt _ _ _
  · rw [reported_event]
    exact bit_raise (by decide) _
  · obtain ⟨-, -, isSealing⟩ := ldgStatus_reads
      (if clerkRuns (sealEnded s) = true then reportAll 0x0A02 1 [] (sealEnded s) else sealEnded s)
    rw [isSealing, reported_ldg]
    exact congrArg Ledger.sealing (raise_ldg _ _)

end Sys2Proof.Machine

/-! SUPPORT. CTX_SET, SEG_SET and FLOW_CONFIG: the one context or flow each sets, and what each refuses (R408, R412, R417, R458). -/

namespace Sys2Proof.Machine

open Sys2Proof

@[simp] theorem ctxOf_ctxMod_same (c : Nat) (f : Ctx → Ctx) (s : State) : ctxOf (ctxMod c f s) c = f (ctxOf s c) :=
  mgetD_mmod_same _ _ _ _

theorem ctxOf_ctxMod_other {c d : Nat} (h : d ≠ c) (f : Ctx → Ctx) (s : State) : ctxOf (ctxMod c f s) d = ctxOf s d :=
  mgetD_mmod_other _ h _ _

/-- The contexts are those of the XLT block. -/
theorem ctxOf_of_xlt {s t : State} (h : t.xlt = s.xlt) (c : Nat) : ctxOf t c = ctxOf s c := by
  unfold ctxOf
  rw [h]

/-- A refused Clerk command answers its status from the state it found. -/
theorem refused_leads {o : Host.Outcome State Fault Refusal} {s : State} {slot : Nat} {m : Msg} {st : Status} {p : State → Prop}
    (h : o = .next (settle (postFinal slot m st [] (untake slot s)))) (k : p (settle (postFinal slot m st [] (untake slot s)))) :
    Leads o (fun t => t.mbx = finalMbx s slot m st [] ∧ p t) :=
  ⟨_, h, (settle_mbx _).trans (postFinal_mbx rfl m st []), k⟩

section Commands

variable {s : State} {slot : Nat} {m : Msg}

theorem ctxSet_sets (ready : Ready s 0x0701 slot m)
    (ok : ctxSetOk s (bits (arg m 1) 0 6) (bit (arg m 1) 6) (bit (arg m 1) 7) (arg m 2) (arg m 3) (arg m 4) = true) :
    exec (.ctxSet slot) s = .next (settle (postFinal slot m .ok [] (ctxMod (bits (arg m 1) 0 6)
      (fun k => { k with
        valid := bit (arg m 1) 6, ptMode := bit (arg m 1) 7, winOfs := arg m 2, root := arg m 3, ptfmt := arg m 4 })
      (untake slot s)))) := by
  change execCtxSet slot s = _
  exact cmdStep_does ready (if_pos ok)

theorem ctxSet_refused (ready : Ready s 0x0701 slot m)
    (no : ctxSetOk s (bits (arg m 1) 0 6) (bit (arg m 1) 6) (bit (arg m 1) 7) (arg m 2) (arg m 3) (arg m 4) = false) :
    exec (.ctxSet slot) s = .next (settle (postFinal slot m .badDescriptor [] (untake slot s))) := by
  change execCtxSet slot s = _
  exact cmdStep_does ready (if_neg (Bool.eq_false_iff.mp no))

/-- The segment that SEG_SET names in W2 to W5. -/
def segArg (m : Msg) : Seg := { base := arg m 2, last := arg m 3, phys := arg m 4, flags := arg m 5 }

theorem segSet_sets (ready : Ready s 0x0702 slot m)
    (ok : segValid (segArg m) = false ∨ segSetOk s (bits (arg m 1) 0 6) (bits (arg m 1) 8 4) (segArg m) = true) :
    exec (.segSet slot) s = .next (settle (postFinal slot m .ok [] (ctxMod (bits (arg m 1) 0 6)
      (fun k => { k with segs := mset k.segs (bits (arg m 1) 8 4) (segArg m) }) (untake slot s)))) := by
  change execSegSet slot s = _
  refine cmdStep_does ready (if_pos ?_)
  rw [Bool.or_eq_true, Bool.not_eq_true']
  exact ok

theorem segSet_refused (ready : Ready s 0x0702 slot m) (valid : segValid (segArg m) = true)
    (no : segSetOk s (bits (arg m 1) 0 6) (bits (arg m 1) 8 4) (segArg m) = false) :
    exec (.segSet slot) s = .next (settle (postFinal slot m .badDescriptor [] (untake slot s))) := by
  change execSegSet slot s = _
  refine cmdStep_does ready (if_neg ?_)
  rw [Bool.or_eq_true, Bool.not_eq_true', not_or]
  exact ⟨ne_false_of_eq_true valid, Bool.eq_false_iff.mp no⟩

theorem flowConfig_sets (ready : Ready s 0x0703 slot m) {k : FlowKind} (kind : kindCode (bits (arg m 1) 16 3) = some k)
    (ok : flowConfigOk s (bits (arg m 1) 0 14) (bits (arg m 2) 0 21) (bits (arg m 2) 24 21) = true) :
    exec (.flowConfig slot) s = .next (settle (postFinal slot m .ok [] (flowMod (bits (arg m 1) 0 14)
      (fun g => { g with kind := k, limit := bits (arg m 2) 0 21, reserve := bits (arg m 2) 24 21 }) (untake slot s)))) := by
  change execFlowConfig slot s = _
  refine cmdStep_does ready ?_
  simp only [kind]
  exact if_pos ok

theorem flowConfig_refused (ready : Ready s 0x0703 slot m) (no : kindCode (bits (arg m 1) 16 3) = none ∨
      flowConfigOk s (bits (arg m 1) 0 14) (bits (arg m 2) 0 21) (bits (arg m 2) 24 21) = false) :
    exec (.flowConfig slot) s = .next (settle (postFinal slot m .badDescriptor [] (untake slot s))) := by
  change execFlowConfig slot s = _
  refine cmdStep_does ready ?_
  dsimp only
  split
  · rfl
  · next kind => exact if_neg (Bool.eq_false_iff.mp (no.resolve_left (by simp [kind])))

end Commands

end Sys2Proof.Machine

/-! SUPPORT. LARDER_PLAN: an installed plan leaves no Larder copy, replica or kept row (R306). -/

namespace Sys2Proof.Machine

open Sys2Proof

@[simp] theorem startMove_lrd (tid slot da : Nat) (e : DirEnt) (s : State) : (startMove tid slot da e s).lrd = s.lrd :=
  (startMove_only tid slot da e s).same .lrd (by decide)

/-- A retired copy is dropped, whether its entry moves or stays (R58). -/
theorem retireCopy_copies (c : LCopy) (s : State) : (retireCopy c s).lrd.copies =
    s.lrd.copies.filter (fun x => !(x.tid == c.tid && x.slot == c.slot && x.dirAddr == c.dirAddr)) := by
  unfold retireCopy
  split
  · exact dropCopy_copies _ _ _ _
  · rw [dropCopy_copies, startMove_lrd]

theorem mem_retireCopies {cs : List LCopy} {s : State} {x : LCopy}
    (h : x ∈ (cs.foldl (fun t c => retireCopy c t) s).lrd.copies) : x ∈ s.lrd.copies ∧ x ∉ cs := by
  induction cs generalizing s with
  | nil => exact ⟨h, List.not_mem_nil⟩
  | cons c cs ih =>
    obtain ⟨left, others⟩ := ih h
    rw [retireCopy_copies] at left
    obtain ⟨held, apart⟩ := List.mem_filter.mp left
    refine ⟨held, fun mem => (List.mem_cons.mp mem).elim (fun same => ?_) others⟩
    subst same
    simp at apart

/-- With each copy retired in its turn none is left. -/
theorem retireCopies_none (s : State) : (s.lrd.copies.foldl (fun t c => retireCopy c t) s).lrd.copies = [] :=
  List.eq_nil_iff_forall_not_mem.mpr fun _ h => (mem_retireCopies h).2 (mem_retireCopies h).1

/-- The Larder apart from the storage given up (R57). -/
def Larder.holding (l : Larder) : Larder := { l with retired := [] }

/-- Giving up Larder storage leaves what the Larder holds. -/
theorem larderRetires_holding {α : Type} (block n : α → Nat) (xs : List α) (s : State) :
    (xs.foldl (fun t x => larderRetire (block x) (n x) none t) s).lrd.holding = s.lrd.holding :=
  List.foldlRecOn (motive := fun t : State => t.lrd.holding = s.lrd.holding) xs _ rfl fun _ kept _ _ => kept

theorem retireReplicas_holding (gone : Replica → Bool) (s : State) : (retireReplicas gone s).lrd.holding =
    { s.lrd.holding with replicas := s.lrd.replicas.filter (fun r => !gone r) } :=
  congrArg (fun l : Larder => { l with replicas := l.replicas.filter (fun r => !gone r) })
    (larderRetires_holding Replica.block (fun r => replicaBlocks r.size) (s.lrd.replicas.filter gone) s)

theorem retireReplicas_replicas (gone : Replica → Bool) (s : State) :
    (retireReplicas gone s).lrd.replicas = s.lrd.replicas.filter (fun r => !gone r) :=
  congrArg Larder.replicas (retireReplicas_holding gone s)

theorem retireKept_holding (s : State) : (retireKept s).lrd.holding = { s.lrd.holding with kept := [] } :=
  congrArg (fun l : Larder => { l with kept := [] })
    (larderRetires_holding KeptRow.block (fun k => blocksOf k.size) s.lrd.kept s)

/-- An installed plan is the plan in force, and nothing that stood under the one before is left (R306). -/
theorem installPlan_lrd (p : W64) (s : State) : (installPlan p s).lrd.plan = p ∧ (installPlan p s).lrd.planValid = true ∧
    (installPlan p s).lrd.copies = [] ∧ (installPlan p s).lrd.replicas = [] ∧ (installPlan p s).lrd.kept = [] := by
  have retired := retireCopies_none (endAllMoves s)
  generalize applied : (endAllMoves s).lrd.copies.foldl (fun t c => retireCopy c t) (endAllMoves s) = u at retired
  have emptied : (retireKept (retireReplicas (fun _ => true) u)).lrd.holding = { u.lrd.holding with replicas := [], kept := [] } := by
    rw [retireKept_holding, retireReplicas_holding]
    simp
  have installed : (installPlan p s).lrd = { (retireKept (retireReplicas (fun _ => true) u)).lrd with plan := p, planValid := true } := by
    rw [← applied]
    rfl
  rw [installed]
  exact ⟨rfl, rfl, (congrArg Larder.copies emptied).trans retired, congrArg Larder.replicas emptied, congrArg Larder.kept emptied⟩

theorem doPlan_installs {s : State} {m : Msg} (ok : planOk s (arg m 1) = true) (free : planHeld s (arg m 1) = false) (slot : Nat) :
    doPlan slot m s = postFinal slot m .ok [] (installPlan (arg m 1) s) :=
  if_pos (by simp [ok, free])

theorem doPlan_refuses {s : State} {m : Msg} (no : planOk s (arg m 1) = false ∨ planHeld s (arg m 1) = true) (slot : Nat) :
    doPlan slot m s = postFinal slot m .badDescriptor [] s :=
  if_neg (by simpa [or_iff_not_imp_left] using no)

end Sys2Proof.Machine

/-! SUPPORT. HOTSET_REFRESH: which replicas its first steps leave, and how its placement reads go on or end (R309 to R312, R390). -/

namespace Sys2Proof.Machine

open Sys2Proof

/-! ## The placement reads -/

/-- The command that the refresh in progress answers: slot and message. -/
def refreshCmd (s : State) : Option (Nat × Msg) := s.lrd.refresh.map (fun r => (r.slot, r.msg))

theorem refreshCmd_some {s : State} {slot : Nat} {m : Msg} (h : refreshCmd s = some (slot, m)) :
    ∃ r, s.lrd.refresh = some r ∧ r.slot = slot ∧ r.msg = m := by
  obtain ⟨r, there, same⟩ := Option.map_eq_some_iff.mp h
  obtain ⟨rfl, rfl⟩ := Prod.mk.inj same
  exact ⟨r, there, rfl, rfl⟩

/-- From `s` to `t` no replica came or went, and the refresh in progress answers the same command. -/
structure RefreshKept (s t : State) : Prop where
  replicas : t.lrd.replicas = s.lrd.replicas
  cmd : refreshCmd t = refreshCmd s

theorem RefreshKept.refl (s : State) : RefreshKept s s := ⟨rfl, rfl⟩

theorem RefreshKept.trans {a b c : State} (h : RefreshKept a b) (k : RefreshKept b c) : RefreshKept a c :=
  ⟨k.replicas.trans h.replicas, k.cmd.trans h.cmd⟩

theorem RefreshKept.of_lrd {s t : State} (h : t.lrd = s.lrd) : RefreshKept s t :=
  ⟨congrArg Larder.replicas h, by unfold refreshCmd; rw [h]⟩

/-- A change of the counts and lists of a refresh. -/
theorem refreshMod_kept (f : Refresh → Refresh) (s : State) (slot : ∀ r, (f r).slot = r.slot := by exact fun _ => rfl)
    (msg : ∀ r, (f r).msg = r.msg := by exact fun _ => rfl) : RefreshKept s (refreshMod f s) := by
  refine ⟨rfl, ?_⟩
  change (s.lrd.refresh.map f).map _ = s.lrd.refresh.map _
  rw [Option.map_map]
  exact congrArg (s.lrd.refresh.map ·) (funext fun r => Prod.ext (slot r) (msg r))

theorem noteAbsent_kept (d : Nat) (s : State) : RefreshKept s (noteAbsent d s) :=
  .of_lrd ((noteAbsent_only d s).same .lrd (by decide))

theorem sendPlaces_kept {home : Nat} {pkt : ReadPkt} {resync : Bool} {ks : List Nat} {s t : State}
    (h : sendPlaces home pkt resync ks s = some t) : RefreshKept s t :=
  .of_lrd (((sendPlaces_only home pkt resync ks s).only t h).same .lrd (by decide))

/-- Asking for a listed replica sends reads or counts why not; the replica itself comes with the answers. -/
theorem askReplica_kept {tid row : Nat} {r : Refresh} {s t : State} (h : askReplica tid row r s = some t) : RefreshKept s t := by
  have refused : RefreshKept s (refreshMod (fun r => { r with readFailed := r.readFailed + 1 }) s) :=
    refreshMod_kept _ s
  unfold askReplica at h
  dsimp only at h
  split at h
  · cases h; exact refused
  · split at h
    · split at h
      · cases h; exact refused
      · split at h
        · cases h; exact .refl s
        · split at h
          · cases h; exact refreshMod_kept _ s
          · split at h
            · cases h
            · split at h
              · cases h; exact refused.trans (noteAbsent_kept _ _)
              · next sent => cases h; exact (sendPlaces_kept sent).trans (refreshMod_kept _ _)
    · cases h; exact refused

theorem askReplicas_kept (n : Nat) (s : State) : RefreshKept s (askReplicas n s) := by
  induction n generalizing s with
  | zero => exact .refl s
  | succ n ih =>
    unfold askReplicas
    split
    · exact .refl s
    · split
      · exact .refl s
      · split
        · next asked =>
          exact ((refreshMod_kept _ s).trans (askReplica_kept asked)).trans (ih _)
        · exact .refl s

/-! ## The end of a refresh -/

theorem unsubscribes_only (gone : List (Nat × Nat × Nat)) (s : State) :
    OnlyIn [.span] s (gone.foldl (fun s x => unsubscribe x.1 x.2.1 x.2.2 s) s) :=
  OnlyIn.foldl (fun t (x : Nat × Nat × Nat) => unsubscribe_only x.1 x.2.1 x.2.2 t) _ _

/-- A refresh that ends is no longer in progress and answers its command; the replicas stay. -/
theorem endRefresh_answers (r : Refresh) (s : State) : (endRefresh r s).lrd = { s.lrd with refresh := none } ∧
    ∃ st p, (endRefresh r s).mbx = finalMbx s r.slot r.msg st p := by
  unfold endRefresh
  dsimp only
  cases r.ends with
  | some st => exact ⟨rfl, st, [], postFinal_mbx (s := s) rfl r.msg st []⟩
  | none =>
    have only := unsubscribes_only r.removals (untake r.slot { s with lrd := { s.lrd with refresh := none } })
    have mbx : _ = (untake r.slot s).mbx := only.same .mbx (by decide)
    exact ⟨only.same .lrd (by decide), .ok, refreshReport r, postFinal_mbx (s := s) mbx r.msg .ok _⟩

/-- A refresh that goes on leaves the replicas, and is still in progress or has answered its command (R512). -/
theorem stepRefresh_goes {s : State} {slot : Nat} {m : Msg} (h : refreshCmd s = some (slot, m)) :
    (stepRefresh s).lrd.replicas = s.lrd.replicas ∧
      ((∃ r, (stepRefresh s).lrd.refresh = some r ∧ r.slot = slot ∧ r.msg = m) ∨
        ((stepRefresh s).lrd.refresh = none ∧ ∃ st p, (stepRefresh s).mbx = finalMbx s slot m st p)) := by
  obtain ⟨r₀, before, -, -⟩ := refreshCmd_some h
  obtain ⟨replicas, cmd⟩ := askReplicas_kept (r₀.todo.length + 1) s
  obtain ⟨r, after, rfl, rfl⟩ := refreshCmd_some (cmd.trans h)
  have mbx : (askReplicas (r₀.todo.length + 1) s).mbx = s.mbx := (askReplicas_only _ s).same .mbx (by decide)
  unfold stepRefresh
  simp only [before, after]
  split
  · obtain ⟨larder, st, p, answered⟩ := endRefresh_answers r (askReplicas (r₀.todo.length + 1) s)
    have left : finalMbx (askReplicas (r₀.todo.length + 1) s) r.slot r.msg st p = finalMbx s r.slot r.msg st p := by
      unfold finalMbx
      rw [mbx]
    rw [larder]
    exact ⟨replicas, .inr ⟨rfl, st, p, answered.trans left⟩⟩
  · exact ⟨replicas, .inl ⟨r, after, rfl, rfl⟩⟩

/-! ## The steps before the placement reads -/

/-- The state in which a refresh asks for its first replicas: its command keeps its place among the taken ones. -/
def refreshBegun (slot : Nat) (r : Refresh) (s : State) : State :=
  holdTaken slot { s with lrd := { s.lrd with refresh := some r } }

/-- A held message leaves the taken list with its answer as any other does. -/
theorem finalMbx_refreshBegun {s t : State} (h : t.mbx = s.mbx) (slot : Nat) (r : Refresh) (m : Msg) (st : Status) (p : List W64) :
    finalMbx (refreshBegun slot r t) slot m st p = finalMbx s slot m st p := by
  have taken : (refreshBegun slot r t).mbx.taken.filter (fun k => k.slot != slot) = s.mbx.taken.filter (fun k => k.slot != slot) := by
    change (lmap t.mbx.taken _ _).filter _ = _
    rw [h, lmap, List.filter_map]
    have same : ∀ k : Taken, ((fun k : Taken => k.slot != slot) ∘
        fun k => if (k.slot == slot) = true then { k with held := true } else k) k = (k.slot != slot) := by
      intro k
      by_cases here : k.slot = slot <;> simp [here]
    rw [funext same]
    refine (List.map_congr_left fun k mem => ?_).trans (List.map_id _)
    have other : k.slot ≠ slot := by simpa using (List.mem_filter.mp mem).2
    simp [other]
  unfold finalMbx
  rw [taken]
  exact congrArg (fun b : Mbx => { b with
    taken := s.mbx.taken.filter (fun k => k.slot != slot), respQ := b.respQ ++ [respOf slot m 0 st p] }) h

/-- Step 4 leaves replicas of listed rows only, and none of a learned default row (R309). -/
theorem dropReplicas_listed {reps : List (Nat × Nat)} {s : State} {r : Replica} (mem : r ∈ (dropReplicas reps s).lrd.replicas) :
    (r.tid, r.row) ∈ reps ∧ r.defkey = false := by
  rw [dropReplicas, retireReplicas_replicas] at mem
  have stays := (List.mem_filter.mp mem).2
  simp only [Bool.not_or, Bool.and_eq_true, Bool.not_not, decide_eq_true_eq, Bool.not_eq_true'] at stays
  obtain ⟨⟨-, own⟩, listed⟩ := stays
  exact ⟨listed, own⟩

/-- Steps 1 to 3 of R309 for a list whose hot rows have been read. -/
def hotRowsPlaced (l : HotList) (hot : List (Nat × Nat)) (s : State) : HotCounts × State :=
  hot.foldl placeHot ({ placed := 0, notHomed := 0, noRoom := 0 },
    dropUnlisted hot (endAllMoves (l.tables.foldl (fun s tid => refreshSlot tid 1 (refreshSlot tid 0 s)) (endAllMoves s))))

theorem hotRowsPlaced_mbx (l : HotList) (hot : List (Nat × Nat)) (s : State) : (hotRowsPlaced l hot s).2.mbx = s.mbx := by
  have slots (t : State) (tid : Nat) :
      OnlyIn [.events, .tables, .moves, .hbm, .poison, .ports, .asy, .lrd] t (refreshSlot tid 1 (refreshSlot tid 0 t)) :=
    (refreshSlot_only tid 0 t).trans (refreshSlot_only tid 1 _)
  have halved := OnlyIn.thenFold (xs := l.tables) ((endAllMoves_only s).mono (by decide)) slots
  have dropped := ((dropUnlisted_only hot _).step (by decide) ((endAllMoves_only _).step (by decide) halved))
  have placed := OnlyIn.thenFold_snd (xs := hot) (p := ({ placed := 0, notHomed := 0, noRoom := 0 }, _)) dropped
    fun k x => (placeHot_only k x).mono (by decide)
  exact placed.same .mbx (by decide)

/-- A refresh whose lists have been read goes on from its step 4 with its placement reads. -/
theorem startRefresh_reads {l : HotList} {hot reps : List (Nat × Nat)} (hotRead : l.hot = .ok hot) (repsRead : l.reps = .ok reps)
    (slot : Nat) (m : Msg) (s : State) : ∃ r, r.slot = slot ∧ r.msg = m ∧
      startRefresh slot m l s = stepRefresh (refreshBegun slot r (dropReplicas reps (hotRowsPlaced l hot s).2)) := by
  unfold startRefresh
  simp only [hotRead, repsRead]
  cases l.removals with
  | error e => exact ⟨_, rfl, rfl, rfl⟩
  | ok gone => exact ⟨_, rfl, rfl, rfl⟩

/-- What a refresh with its lists read has come to: only listed replicas, and the refresh in progress or its command answered. -/
theorem startRefresh_goes {l : HotList} {hot reps : List (Nat × Nat)} (hotRead : l.hot = .ok hot) (repsRead : l.reps = .ok reps)
    (slot : Nat) (m : Msg) (s : State) :
    (∀ r ∈ (startRefresh slot m l s).lrd.replicas, (r.tid, r.row) ∈ reps ∧ r.defkey = false) ∧
      ((∃ r, (startRefresh slot m l s).lrd.refresh = some r ∧ r.slot = slot ∧ r.msg = m) ∨
        ((startRefresh slot m l s).lrd.refresh = none ∧ ∃ st p, (startRefresh slot m l s).mbx = finalMbx s slot m st p)) := by
  obtain ⟨r, rfl, rfl, begins⟩ := startRefresh_reads hotRead repsRead slot m s
  rw [begins]
  obtain ⟨replicas, goes⟩ := stepRefresh_goes (s := refreshBegun r.slot r (dropReplicas reps (hotRowsPlaced l hot s).2)) rfl
  have dropped : (dropReplicas reps (hotRowsPlaced l hot s).2).mbx = _ := (dropReplicas_only reps _).same .mbx (by decide)
  have mbx := dropped.trans (hotRowsPlaced_mbx l hot s)
  refine ⟨fun _ mem => dropReplicas_listed (replicas ▸ mem), goes.imp_right fun ⟨ended, st, p, answered⟩ => ⟨ended, st, p, ?_⟩⟩
  exact answered.trans (finalMbx_refreshBegun mbx r.slot r r.msg st p)

/-! ## The command -/

@[simp] theorem noteHotList_mbx (v : ChipView) (ctx da : Nat) (s : State) : (noteHotList v ctx da s).mbx = s.mbx :=
  (noteHotList_only v ctx da s).same .mbx (by decide)

@[simp] theorem noteHotList_lrd (v : ChipView) (ctx da : Nat) (s : State) : (noteHotList v ctx da s).lrd = s.lrd :=
  (noteHotList_only v ctx da s).same .lrd (by decide)

/-- What the reads of the list leave behind does not matter to the refresh. -/
theorem doRefresh_starts {s : State} {v : ChipView} {k : Taken} {l : HotList}
    (read : readHotList s v k.msg.ctx (bits (arg k.msg 1) 0 56) = .ok l) (slot : Nat) :
    ∃ u, u.mbx = s.mbx ∧ doRefresh slot v k s = startRefresh slot k.msg l u := by
  unfold doRefresh
  simp only [read]
  refine ⟨_, ?_, rfl⟩
  split
  · rfl
  · exact noteHotList_mbx _ _ _ _

theorem doRefresh_refuses {s : State} {v : ChipView} {k : Taken} {e : Status}
    (read : readHotList s v k.msg.ctx (bits (arg k.msg 1) 0 56) = .error e) (slot : Nat) : doRefresh slot v k s =
      postFinal slot k.msg e [] (untake slot (noteHotList v k.msg.ctx (bits (arg k.msg 1) 0 56) s)) := by
  unfold doRefresh
  simp only [read]

end Sys2Proof.Machine

/-! SUPPORT. LARDER_PLAN, HOTSET_REFRESH and DEFERRED_CONFIG_EXECUTE: held while a Commit runs, carried out by one of the two ways (R251). -/

namespace Sys2Proof.Machine

open Sys2Proof

section Carried

variable {s : State} {slot : Nat} {m : Msg} {v : ChipView} {c : Instr}

theorem larderPlan_held (committing : s.ldg.committing = true) (ready : Ready s 0x0901 slot m) :
    exec (.larderPlan slot) s = .next (holdTaken slot s) := by
  change execLarderPlan slot s = _
  unfold Ready at ready
  unfold execLarderPlan
  rw [ready]
  exact if_pos committing

theorem hotsetRefresh_held (committing : s.ldg.committing = true) (ready : Ready s 0x0902 slot m) :
    exec (.hotsetRefresh slot v) s = .next (holdTaken slot s) := by
  change execHotsetRefresh slot v s = _
  unfold Ready at ready
  unfold execHotsetRefresh
  rw [ready]
  exact if_pos committing

/-- A plan is carried out at once or after the Commit that held it; only the block's state tells the two apart. -/
theorem plan_carriedOut (idle : s.ldg.committing = false) (h : (Ready s 0x0901 slot m ∧ c = .larderPlan slot) ∨
      (deferredCmd s slot = some { slot := slot, msg := m, held := true } ∧ m.op = 0x0901 ∧ c = .deferredConfigExecute slot v)) :
    ∃ t, exec c s = .next t ∧ OnlyIn [.block] (doPlan slot m (untake slot s)) t := by
  obtain ⟨ready, rfl⟩ | ⟨deferred, op, rfl⟩ := h
  · refine ⟨_, ?_, settle_only _⟩
    change execLarderPlan slot s = _
    have taken := ready
    unfold Ready at taken
    unfold execLarderPlan
    rw [taken]
    exact (if_neg (Bool.eq_false_iff.mp idle)).trans (cmdStep_ready ready _)
  · refine ⟨_, ?_, .refl _ _⟩
    change execDeferredConfigExecute slot v s = _
    unfold execDeferredConfigExecute
    rw [deferred]
    exact congrArg Host.Outcome.next (if_pos op)

theorem refresh_carriedOut (idle : s.ldg.committing = false) (h : (Ready s 0x0902 slot m ∧ c = .hotsetRefresh slot v) ∨
      (deferredCmd s slot = some { slot := slot, msg := m, held := true } ∧ m.op = 0x0902 ∧ c = .deferredConfigExecute slot v)) :
    ∃ held, exec c s = .next (doRefresh slot v { slot := slot, msg := m, held := held } s) := by
  obtain ⟨ready, rfl⟩ | ⟨deferred, op, rfl⟩ := h
  · refine ⟨false, ?_⟩
    change execHotsetRefresh slot v s = _
    unfold Ready at ready
    unfold execHotsetRefresh
    rw [ready]
    exact if_neg (Bool.eq_false_iff.mp idle)
  · refine ⟨true, ?_⟩
    change execDeferredConfigExecute slot v s = _
    unfold execDeferredConfigExecute
    rw [deferred]
    exact congrArg Host.Outcome.next (if_neg (by simp [op]))

end Carried

/-! ## The statement -/

/-- Settles O25: the three set commands by what they refuse, a plan and a refresh by the one way each is carried out, at once or after
the Commit that held it. -/
theorem contextsFlowsPlans : Obligations.ContextsFlowsPlans := by
  unfold Obligations.ContextsFlowsPlans
  refine ⟨fun s slot m ready => ⟨fun ok => ?ctx, fun no => ?ctxRefused⟩,
    fun s slot m g ready seg => ⟨fun ok => ?seg, fun valid no => ?segRefused⟩,
    fun s slot m ready => ⟨fun k kind ok => ?flow, fun no => ?flowRefused⟩,
    fun s slot m v c committing h => ?held,
    fun s slot m v c idle h => ⟨fun ok free => ?plan, fun no => ?planRefused⟩,
    fun s slot m v c idle h => ⟨fun l hot reps read hotRead repsRead => ?refresh, fun e read => ?refreshRefused⟩⟩
  case ctx =>
    refine ⟨_, ctxSet_sets ready ok, (settle_mbx _).trans (postFinal_mbx rfl m _ _), ?_, fun c other => ?_⟩ <;>
      rw [ctxOf_of_xlt (settle_xlt _)]
    · exact ctxOf_ctxMod_same _ _ _
    · exact ctxOf_ctxMod_other other _ _
  case ctxRefused => exact refused_leads (ctxSet_refused ready no) (settle_xlt _)
  case seg =>
    subst seg
    refine ⟨_, segSet_sets ready ok, (settle_mbx _).trans (postFinal_mbx rfl m _ _), ?_⟩
    have settled (c : Nat) := ctxOf_of_xlt (settle_xlt (postFinal slot m .ok [] (ctxMod (bits (arg m 1) 0 6)
      (fun k => { k with segs := mset k.segs (bits (arg m 1) 8 4) (segArg m) }) (untake slot s)))) c
    have set := (settled (bits (arg m 1) 0 6)).trans (ctxOf_ctxMod_same _ _ _)
    rw [set]
    exact ⟨mget_mset_same _ _ _, fun n other => mget_mset_other _ _ _ _ other,
      fun c other => (settled c).trans (ctxOf_ctxMod_other other _ _)⟩
  case segRefused =>
    subst seg
    exact refused_leads (segSet_refused ready valid no) (settle_xlt _)
  case flow =>
    refine ⟨_, flowConfig_sets ready kind ok, (settle_mbx _).trans (postFinal_mbx rfl m _ _), ?_, fun f other => ?_⟩ <;>
      rw [flowOf_of_flows (congrArg Qh.flows (settle_qh _))]
    · exact flowOf_flowMod_same _ _ _
    · exact flowOf_flowMod_other other _ _
  case flowRefused => exact refused_leads (flowConfig_refused ready no) (settle_qh _)
  case held =>
    obtain ⟨ready, rfl⟩ | ⟨ready, rfl⟩ := h
    · exact larderPlan_held committing ready
    · exact hotsetRefresh_held committing ready
  case plan =>
    obtain ⟨t, carried, only⟩ := plan_carriedOut idle h
    rw [doPlan_installs (s := untake slot s) ok free] at only
    have frame := installPlan_only (arg m 1) (untake slot s)
    have mbx : t.mbx = _ := only.same .mbx (by decide)
    have lrd : t.lrd = (installPlan (arg m 1) (untake slot s)).lrd := only.same .lrd (by decide)
    have ldg : t.ldg = _ := only.same .ldg (by decide)
    obtain ⟨plan, valid, copies, replicas, kept⟩ := installPlan_lrd (arg m 1) (untake slot s)
    refine ⟨t, carried, mbx.trans (postFinal_mbx (frame.same .mbx (by decide)) m _ _), ?_⟩
    rw [lrd]
    exact ⟨plan, valid, copies, replicas, kept, ldg.trans (frame.same .ldg (by decide))⟩
  case planRefused =>
    obtain ⟨t, carried, only⟩ := plan_carriedOut idle h
    rw [doPlan_refuses (s := untake slot s) no] at only
    have mbx : t.mbx = _ := only.same .mbx (by decide)
    exact ⟨t, carried, mbx.trans (postFinal_mbx rfl m _ _), only.same .lrd (by decide)⟩
  case refresh =>
    obtain ⟨held, carried⟩ := refresh_carriedOut idle h
    obtain ⟨u, mbx, starts⟩ := doRefresh_starts (k := { slot := slot, msg := m, held := held }) read slot
    refine ⟨_, carried, ?_⟩
    have goes := startRefresh_goes hotRead repsRead slot m u
    have same (st : Status) (p : List W64) : finalMbx u slot m st p = finalMbx s slot m st p := by
      unfold finalMbx
      rw [mbx]
    simp only [same] at goes
    rw [starts]
    exact goes
  case refreshRefused =>
    obtain ⟨held, carried⟩ := refresh_carriedOut idle h
    rw [doRefresh_refuses (k := { slot := slot, msg := m, held := held }) read] at carried
    refine ⟨_, carried, postFinal_mbx ?_ m e [], noteHotList_lrd _ _ _ _⟩
    exact congrArg (fun b : Mbx => { b with taken := b.taken.filter (fun k => k.slot != slot) }) (noteHotList_mbx v _ _ s)

end Sys2Proof.Machine

/-! SUPPORT. The frames of the memory events, the Shutters, the sequences of reset and the heartbeat. -/

namespace Sys2Proof.Machine

open Sys2Proof

/-- Settles O53: each command's frame. -/
theorem memoryFrame : Obligations.MemoryFrame := by
  unfold Obligations.MemoryFrame
  intro s t
  exact ⟨fun stack temp => (execHbmThermalSample_within stack temp s).only,
    fun stack chan bank => (execHbmRefresh_within stack chan bank s).only,
    fun cw syms written => (execHbmPatrol_within cw syms written s).only,
    fun e who => (execHbmReadUncorrectable_within e who s).only,
    fun block wrong => (execLarderPatrol_within block wrong s).only,
    fun block spot => (execLarderReadUncorrectable_within block spot s).only,
    fun ins => (execMarginSample_within ins s).only,
    fun slot => (execShutter_within slot s).only,
    fun idx us => (execShutterDone_within idx us s).only,
    fun slot => (execUnshutter_within slot s).only,
    (execPorRelease_within s).only,
    (execRstNRelease_within s).only,
    (execRecoveryComplete_within s).only,
    (execClerkBeat_within s).only,
    (execHeartbeatIntervalEnd_within s).only,
    (execClerkSramUncorrectable_within s).only,
    fun slot => (execSelftest_within slot s).only,
    fun slot => (execWipe_within slot s).only,
    fun slot v sigOk => (execLifecycle_within slot v sigOk s).only,
    fun ok img => (execClerkSecureBoot_within ok img s).only,
    fun res => (execSelftestSequenceDone_within res s).only⟩

end Sys2Proof.Machine

/-! SUPPORT. The HBM stacks: a thermal sample, a corrected codeword, and one found uncorrectable. -/

namespace Sys2Proof.Machine

open Sys2Proof

/-! ## What a step leaves of the stacks and the events -/

theorem stackOf_of_only {l : List Part} {s t : State} (h : OnlyIn l s t) (apart : Part.hbmStacks ∉ l) (n : Nat) :
    stackOf t n = stackOf s n := by
  have same : t.hbmStacks = s.hbmStacks := h.same .hbmStacks apart
  unfold stackOf
  rw [same]

theorem bit_of_only {l : List Part} {s t : State} (h : OnlyIn l s t) (events : Part.events ∉ l) {e : Nat}
    (set : bit s.gbl.event e = true) : bit t.gbl.event e = true := by
  rw [(h.same .events events).1]
  exact set

theorem mem_insAsc_self (x : Nat) (l : List Nat) : x ∈ insAsc x l := by
  induction l with
  | nil => exact List.mem_singleton_self x
  | cons y r ih =>
    unfold insAsc
    split
    · exact List.mem_cons_self
    · split
      next same => exact same ▸ List.mem_cons_self
      next => exact List.mem_cons_of_mem _ ih

/-! ## Thermal samples (R336, R339, R340) -/

/-- Beside the stack, a sample changes the windows that close with stack 0's and the event. -/
theorem takeSample_sampled (n temp : Nat) (s : State) :
    OnlyIn [.events, .qh, .ports, .lrd] (stackMod n (fun k => k.sample temp) s) (takeSample n temp s) := by
  refine .thenWhen (.when ?windows) ((raise_only evHbmThermal _).mono (by decide))
  exact ⟨fun p hp => by cases p <;> simp_all [Part.Same]⟩

theorem takeSample_fires {n temp : Nat} {s : State} (hot : (stackOf s n).thr2 ≤ temp) (was : (stackOf s n).temp < (stackOf s n).thr2) :
    bit (takeSample n temp s).gbl.event evHbmThermal = true := by
  unfold takeSample
  dsimp only
  rw [if_pos (⟨hot, was⟩ : _ ∧ _)]
  exact bit_raise (by decide) _

theorem takeSample_cool {n temp : Nat} {s : State} (cool : temp < (stackOf s n).thr2) : (takeSample n temp s).gbl = s.gbl := by
  unfold takeSample
  dsimp only
  rw [if_neg (fun h : _ ∧ _ => absurd h.1 (Nat.not_le.mpr cool))]
  split <;> rfl

/-! ## Corrected codewords (R333, R341) -/

theorem correctedHbm_counts (n : Nat) (s : State) :
    (stackOf (correctedHbm n s) n).ceCount = satAdd 32 (stackOf s n).ceCount 1 ∧
      (stackOf (correctedHbm n s) n).ceWindow = (stackOf s n).ceWindow + 1 := by
  have counted : stackOf (correctedHbm n s) n = _ :=
    (stackOf_of_only (.when ((raise_only evEccCorrectedRate _).mono (by decide : _ ⊆ [Part.events, .ports]))) (by decide) n).trans
      (stackOf_stackMod_same n _ s)
  rw [counted]
  exact ⟨rfl, rfl⟩

theorem correctedHbm_fires {n : Nat} {s : State} (on : (stackOf s n).rateThresh ≠ 0)
    (reached : (stackOf s n).rateThresh ≤ (stackOf s n).ceWindow + 1) (clear : (stackOf s n).rateHit = false) :
    bit (correctedHbm n s).gbl.event evEccCorrectedRate = true := by
  unfold correctedHbm
  dsimp only
  rw [if_pos (by simp [on, reached, clear])]
  exact bit_raise (by decide) _

/-! ## Uncorrectable codewords (R329, R342) -/

/-- A codeword found uncorrectable is counted in its stack and shown there, and the event has fired. -/
structure UeCounted (cw : Nat) (s t : State) : Prop where
  count : (stackOf t (hbmPlace (cw * 64)).1).ueCount = satAdd 16 (stackOf s (hbmPlace (cw * 64)).1).ueCount 1
  addr : (stackOf t (hbmPlace (cw * 64)).1).lastAddr = cw % 2 ^ 33
  event : bit t.gbl.event evEccUncorrectable = true

/-- The codeword is poisoned, and its stack shows that one is. -/
structure PoisonLeft (cw : Nat) (t : State) : Prop where
  poison : cw ∈ t.poison
  seen : (stackOf t (hbmPlace (cw * 64)).1).poisonSeen = true

/-- A stack that counts an uncorrectable codeword and shows it. -/
def Stack.countUe (cw : Nat) (k : Stack) : Stack := { k with ueCount := satAdd 16 k.ueCount 1, lastAddr := cw % 2 ^ 33 }

/-- What a codeword found uncorrectable leaves before it is written back. -/
def ueMet (cw : Nat) (s : State) : State :=
  raise evEccUncorrectable (frontDrop (cw * 64) (stackMod (hbmPlace (cw * 64)).1 (Stack.countUe cw) s))

theorem ueMet_counted (cw : Nat) (s : State) : UeCounted cw s (ueMet cw s) := by
  have dropped : stackOf (ueMet cw s) (hbmPlace (cw * 64)).1 = _ :=
    (stackOf_of_only (raise_only _ _) (by decide) _).trans (stackOf_stackMod_same _ _ _)
  have counted := stackOf_stackMod_same (hbmPlace (cw * 64)).1 (Stack.countUe cw) s
  exact ⟨(congrArg Stack.ueCount dropped).trans (congrArg Stack.ueCount counted),
    (congrArg Stack.lastAddr dropped).trans (congrArg Stack.lastAddr counted), bit_raise (by decide) _⟩

theorem hbmUe_poisons (e : CwErr) (s : State) : PoisonLeft e.cw (hbmUe e false s) :=
  ⟨mem_insAsc_self _ _, (congrArg Stack.poisonSeen (stackOf_stackMod_same _ _ _)).trans rfl⟩

theorem UeCounted.of_only {cw : Nat} {l : List Part} {s t u : State} (h : UeCounted cw s t) (k : OnlyIn l t u)
    (apart : Part.hbmStacks ∉ l) (events : Part.events ∉ l) : UeCounted cw s u := by
  have stack : stackOf u (hbmPlace (cw * 64)).1 = stackOf t (hbmPlace (cw * 64)).1 := stackOf_of_only k apart _
  exact ⟨by rw [stack]; exact h.count, by rw [stack]; exact h.addr, bit_of_only k events h.event⟩

/-- The write-back leaves the counts and the event as they are. -/
theorem hbmUe_counted (e : CwErr) (drop : Bool) (s : State) : UeCounted e.cw s (hbmUe e drop s) := by
  cases drop with
  | true => exact ueMet_counted e.cw s
  | false =>
    have written : OnlyIn [.hbm, .poison] (ueMet e.cw s) (markRows e.cw (flipCw e.cw (wrongSymbols e.syms) (ueMet e.cw s))) :=
      (flipCw_only _ _ _).trans (markRows_only _ _)
    have counted := (ueMet_counted e.cw s).of_only written (by decide) (by decide)
    have stack := stackOf_stackMod_same (hbmPlace (e.cw * 64)).1 (fun k => { k with poisonSeen := true })
      { markRows e.cw (flipCw e.cw (wrongSymbols e.syms) (ueMet e.cw s)) with
        poison := insAsc e.cw (markRows e.cw (flipCw e.cw (wrongSymbols e.syms) (ueMet e.cw s))).poison }
    exact ⟨(congrArg Stack.ueCount stack).trans counted.count, (congrArg Stack.lastAddr stack).trans counted.addr, counted.event⟩

/-! ## Patrols (R332) -/

/-- A codeword that the patrol finds at a stack that serves comes to what its verdict says. -/
theorem hbmPatrol_live {s : State} {cw : Nat} (live : cwLive s cw = true) (syms : List SymErr) (written : Bool) :
    exec (.hbmPatrol cw syms written) s = .next (match cwVerdict syms with
      | .bad => hbmUe { cw := cw, syms := syms } written s
      | .read c wrong =>
        if written then (if c then correctedHbm (hbmPlace (cw * 64)).1 s else s)
        else flipCw cw wrong (if c then correctedHbm (hbmPlace (cw * 64)).1 s else s)) :=
  congrArg Host.Outcome.next (if_neg (by rw [live]; decide))

theorem hbmPatrol_read {s : State} {cw : Nat} {syms : List SymErr} {c : Bool} (live : cwLive s cw = true)
    (read : cwVerdict syms = .read c []) (written : Bool) :
    exec (.hbmPatrol cw syms written) s = .next (if c then correctedHbm (hbmPlace (cw * 64)).1 s else s) := by
  rw [hbmPatrol_live live, read]
  exact congrArg Host.Outcome.next (ite_self _)

theorem hbmPatrol_bad {s : State} {cw : Nat} {syms : List SymErr} (live : cwLive s cw = true)
    (bad : cwVerdict syms = .bad) (written : Bool) :
    exec (.hbmPatrol cw syms written) s = .next (hbmUe { cw := cw, syms := syms } written s) := by
  rw [hbmPatrol_live live, bad]

theorem hbmUe_untouched (e : CwErr) (s : State) : (hbmUe e true s).hbm = s.hbm ∧ (hbmUe e true s).poison = s.poison := by
  have kept : OnlyIn [.events, .ports, .hbmStacks] s (ueMet e.cw s) :=
    (raise_only _ _).step (by decide) (((stackMod_only _ _ s).trans (frontDrop_only _ _)).mono (by decide))
  exact ⟨kept.same .hbm (by decide), kept.same .poison (by decide)⟩

/-! ## Reads that meet an uncorrectable codeword (R329, R331) -/

/-- A read by no one in particular counts and poisons the codeword where it is found bad. -/
theorem readUe_none (s : State) (e : CwErr) : exec (.hbmReadUncorrectable e .none) s =
    .next (if cwLive s e.cw ∧ cwVerdict e.syms = .bad then hbmUe e false s else s) := rfl

/-- The codewords a read found bad, where it found one, are lost as a read by no one loses it. -/
theorem loseErrs_one {e : CwErr} (bad : cwVerdict e.syms = .bad) (s : State) :
    .next (loseErrs [e] s) = exec (.hbmReadUncorrectable e .none) s := by
  rw [readUe_none]
  simp only [loseErrs, List.foldl_cons, List.foldl_nil, bad, and_true]

/-- A codeword that is not read is not fixed. -/
theorem fixErrs_bad {e : CwErr} (bad : cwVerdict e.syms = .bad) (rs : List (Nat × Nat)) (s : State) : fixErrs rs [e] s = s := by
  simp only [fixErrs, List.foldl_cons, List.foldl_nil, bad, ite_self]

theorem readUe_homeRead {s : State} {e : CwErr} {idx : Nat} {h : HomeRead} {t : Table} (bad : cwVerdict e.syms = .bad)
    (read : s.span.homeReads[idx]? = some h) (table : mget s.tables h.key.tid = some t) (goes : homeWaits s t h = false)
    (here : badIn s ((homeRanges s t h).map (fun r => (r.2.1, r.2.2))) [e] = [e])
    (mapped : badIn (readMap t h.key true s) ((homeRanges (readMap t h.key true s) t h).map (fun r => (r.2.1, r.2.2))) [e] = [e]) :
    exec (.hbmReadUncorrectable e (.homeRead idx)) s =
      exec (.hbmReadUncorrectable e .none) (serveHome idx h t .uncorrectable none (frontHomeRead t h (readMap t h.key true s))) := by
  have served : homeReadUe e idx s = serveRead idx h t [e] [] s := by
    simp [homeReadUe, read, table, goes, here]
  rw [← loseErrs_one bad]
  refine congrArg Host.Outcome.next (served.trans ?_)
  have unlined : ∀ rs u, dropLines rs [] u = u := fun _ _ => rfl
  simp [serveRead, mapped, unlined, fixErrs_bad bad]

theorem readUe_stream {s : State} {e : CwErr} {c ord i : Nat} (bad : cwVerdict e.syms = .bad) (there : c < 48)
    (free : carterHeld s c = false) (meets : badIn s (chunkRanges s ord i) [e] = [e]) :
    exec (.hbmReadUncorrectable e (.stream c ord i)) s =
      exec (.hbmReadUncorrectable e .none) (failElems s ord i [e] (carterStep c ord i s)) := by
  rw [← loseErrs_one bad]
  refine congrArg Host.Outcome.next ?_
  have turned : (decide (48 ≤ c) || carterHeld s c) = false := by simp [there, free]
  simp [turned, streamUe, carterErrs, meets, fixErrs_bad bad]

/-- What a read of this K40's own structures finds: a codeword bad now, or poisoned before. -/
theorem meetOwn_live {s : State} {e : CwErr} (live : cwLive s e.cw = true) (bad : cwVerdict e.syms = .bad) :
    meetOwn e s = some (hbmUe e false s) := (if_pos live).trans (if_pos bad)

theorem meetOwn_poisoned {s : State} {e : CwErr} (dead : cwLive s e.cw = false) (poison : e.cw ∈ s.poison) :
    meetOwn e s = some (countPoisonRead e.cw s) :=
  (if_neg (by rw [dead]; decide)).trans (if_pos poison)

theorem countPoisonRead_count (cw : Nat) (s : State) : (stackOf (countPoisonRead cw s) (hbmPlace (cw * 64)).1).poisonReads =
    satAdd 15 (stackOf s (hbmPlace (cw * 64)).1).poisonReads 1 := congrArg Stack.poisonReads (stackOf_stackMod_same _ _ s)

/-! ### Home maps -/

theorem loseMap_unusable {s : State} {slot : Nat} {m : HomeMap} (map : mget s.maps slot = some m) (usable : m.unusable = false) :
    mget (loseMap slot s).maps slot = some { m with unusable := true } := by
  simp only [loseMap, map, usable]
  exact mget_mset_same _ _ _

theorem readUe_homeMap {s t : State} {e : CwErr} {slot : Nat} {m : HomeMap} (map : mget s.maps slot = some m)
    (meets : meetsCw e.cw m.loc mapBytes = true) (met : meetOwn e s = some t) :
    exec (.hbmReadUncorrectable e (.homeMap slot)) s = .next (loseMap slot t) := by
  refine congrArg Host.Outcome.next ?_
  simp [mapUe, map, meets, met]

/-! ### Spill records -/

theorem readUe_spill {s t : State} {e : CwErr} {idx : Nat} {r : Spill} (record : s.ldg.spills[idx]? = some r)
    (meets : meetsCw e.cw (spillAddr s r.place) (spillSize r) = true) (met : meetOwn e s = some t) :
    exec (.hbmReadUncorrectable e (.spillRecord idx)) s = .next (advance (raise evEccUncorrectable (loseSpill r t))) := by
  refine congrArg Host.Outcome.next ?_
  simp [spillUe, record, meets, met]

/-- A spill record discarded: it goes from the Ledger and counts as dropped (R235). -/
theorem loseSpill_discards (r : Spill) (s : State) :
    (loseSpill r s).ldg.spills = s.ldg.spills.erase r ∧ (loseSpill r s).ldg.dropped = satAdd 24 s.ldg.dropped 1 := ⟨rfl, rfl⟩

end Sys2Proof.Machine

/-! SUPPORT. The Larder's words: what a patrol and a read that meets an uncorrectable one leave, by the region it lies in. -/

namespace Sys2Proof.Machine

open Sys2Proof

/-! ## Patrols (R298, R300, R314) -/

section Patrol
variable {s : State} {block : Nat} (inside : block < larderBlocks) (ready : s.lrd.state = .ready)
include inside ready

/-- A block of the Larder that serves is not turned away. -/
theorem larder_serves : ¬ (larderBlocks ≤ block ∨ !larderServes s) := by
  have serves : larderServes s = true := by unfold larderServes; rw [ready]; rfl
  simp [serves, inside]

theorem larderPatrol_finds (wrong : Nat) : exec (.larderPatrol block wrong) s = .next (match larderCheck block wrong with
    | 0 => s
    | 1 => correctedLarder 1 s
    | _ => { s with lrd := { s.lrd with poison := insAsc block s.lrd.poison } }) :=
  congrArg Host.Outcome.next (if_neg (larder_serves inside ready))

/-- A read that meets an uncorrectable word does to what it read what the table of R299 says. -/
theorem larderRead_acts {spot : LarderSpot} {u : State} (acts : larderAct block spot (larderUe block s) = some u) :
    exec (.larderReadUncorrectable block spot) s = .next u := by
  refine congrArg Host.Outcome.next ((if_neg (larder_serves inside ready)).trans ?_)
  rw [acts]
  rfl

end Patrol

theorem correctedLarder_lrd (s : State) : (correctedLarder 1 s).lrd = { s.lrd with
    ceCount := satAdd 24 s.lrd.ceCount 1, ceWindow := s.lrd.ceWindow + 1 } := by
  unfold correctedLarder
  dsimp only
  split
  · exact raise_lrd _ _
  · rfl

/-- The 65,536th correction of the window fires ECC_CORRECTED_RATE; no other does. -/
theorem correctedLarder_fires {s : State} (last : s.lrd.ceWindow = 65535) :
    bit (correctedLarder 1 s).gbl.event evEccCorrectedRate = true := by
  unfold correctedLarder
  dsimp only
  rw [if_pos (by omega)]
  exact bit_raise (by decide) _

theorem correctedLarder_silent {s : State} (other : s.lrd.ceWindow ≠ 65535) : (correctedLarder 1 s).gbl = s.gbl := by
  unfold correctedLarder
  dsimp only
  rw [if_neg (by omega)]

/-! ## A word found uncorrectable (R299, R314) -/

@[simp] theorem larderUe_lrd (block : Nat) (s : State) : (larderUe block s).lrd = { s.lrd with
    ueCount := satAdd 11 s.lrd.ueCount 1, lastUe := block % 2 ^ 29, poison := s.lrd.poison.filter (· ≠ block) } := raise_lrd _ _

theorem larderUe_fires (block : Nat) (s : State) : bit (larderUe block s).gbl.event evEccUncorrectable = true :=
  bit_raise (by decide) _

@[simp] theorem larderUe_tables (block : Nat) (s : State) : (larderUe block s).tables = s.tables :=
  (larderUe_only block s).same .tables (by decide)

@[simp] theorem larderUe_moves (block : Nat) (s : State) : (larderUe block s).moves = s.moves :=
  (larderUe_only block s).same .moves (by decide)

@[simp] theorem larderUe_hbm (block : Nat) (s : State) : (larderUe block s).hbm = s.hbm :=
  (larderUe_only block s).same .hbm (by decide)

@[simp] theorem ledgerBase_larderUe (block : Nat) (s : State) : ledgerBase (larderUe block s) = ledgerBase s := by
  simp only [ledgerBase, keptBase, replicaBase, larderUe_lrd]

@[simp] theorem filterBlock_larderUe (block : Nat) (s : State) (step : Nat) (key : RowKey) :
    filterBlock (larderUe block s) step key = filterBlock s step key := by
  simp only [filterBlock, ledgerBase_larderUe]

/-! ## What it does to what was read, by region (table of R299) -/

section Acts
variable {u : State} {block : Nat}

theorem larderAct_record {pos : Nat} (there : u.ldg.entries.any (fun e =>
    e.pos == pos && blockIn block (ledgerBase u + e.acb) (blocksOf (recordBytes e.acc.length))) = true) :
    larderAct block (.record pos) u = some { u with ldg := { u.ldg with entries := u.ldg.entries.map (fun e =>
      if e.pos == pos && blockIn block (ledgerBase u + e.acb) (blocksOf (recordBytes e.acc.length)) then { e with bad := true }
      else e) } } := if_pos there

theorem larderAct_kept {idx : Nat} {x : KeptRow} (row : u.lrd.kept[idx]? = some x)
    (lies : blockIn block x.block (blocksOf x.size) = true) : larderAct block (.kept idx) u =
      some { u with lrd := { u.lrd with kept := u.lrd.kept.filter (fun y => y.block != x.block) } } := by
  simp only [larderAct, row, lies, if_true]

theorem larderAct_pen {idx : Nat} {c : Contrib} (held : u.ldg.pen[idx]? = some c)
    (lies : blockIn block (ledgerBase u + c.block) (blocksOf c.bytes) = true) : larderAct block (.pen idx) u =
      some { u with ldg := { u.ldg with pen := u.ldg.pen.eraseIdx idx, dropped := satAdd 24 u.ldg.dropped 1 } } := by
  simp only [larderAct, held, lies, if_true]

theorem larderAct_replica {tid slot row : Nat} (there : u.lrd.replicas.any (fun x =>
    x.tid == tid && x.slot == slot && x.row == row && blockIn block x.block (replicaBlocks x.size)) = true) :
    larderAct block (.replica tid slot row) u = some (loseReplicas (fun x =>
      x.tid == tid && x.slot == slot && x.row == row && blockIn block x.block (replicaBlocks x.size)) u) := if_pos there

theorem larderAct_indexBucket {b : Nat} (bucket : b < bucketCount u) (lies : block = bucketBlock u b) :
    larderAct block (.indexBucket b) u = some (loseReplicas (fun x => x.bucket == b) u) := if_pos ⟨bucket, lies⟩

theorem larderAct_hotCopy {tid slot ix : Nat} {t : Table} {c : LCopy} (table : mget u.tables tid = some t)
    (copy : copyAt u tid slot (dirAddr (vslot t slot) ix) = some c)
    (lies : blockIn block c.block (blocksOf c.bytes.length) = true) :
    larderAct block (.hotCopy tid slot ix) u = some (loseHotCopy tid slot (dirAddr (vslot t slot) ix) u) := by
  simp only [larderAct, table, copy, lies, if_true]

theorem larderAct_filter {key : RowKey} {n : Nat}
    (found : (u.ldg.sealedStep.toList ++ u.ldg.openStep.toList).find? (fun n => filterBlock u n key == block) = some n) :
    larderAct block (.filter key.tid key.defkey key.row) u = some { setFilter key n u with
      lrd := { (setFilter key n u).lrd with poison := insAsc block (setFilter key n u).lrd.poison } } := by
  simp only [larderAct, takeFilter, found]
  rfl

end Acts

/-- A filter that takes a key's bit as set does so for the step it names, the open one or the sealed one. -/
theorem setFilter_mem (key : RowKey) (step : Nat) (s : State) : if s.ldg.openStep = some step then
    key ∈ (setFilter key step s).ldg.filterOpen else key ∈ (setFilter key step s).ldg.filterSealed := by
  have added : ∀ l : List RowKey, key ∈ (if key ∈ l then l else l ++ [key]) := fun l => by
    split
    · assumption
    · exact List.mem_append_right _ (List.mem_singleton_self key)
  unfold setFilter
  split <;> exact added _

theorem setFilter_lrd (key : RowKey) (step : Nat) (s : State) : (setFilter key step s).lrd = s.lrd :=
  (setFilter_only key step s).same .lrd (by decide)

/-- Replicas lost with the word, counted in REPLICA_DROPPED. -/
theorem loseReplicas_larderUe (p : Replica → Bool) (block : Nat) (s : State) :
    (loseReplicas p (larderUe block s)).lrd = { (larderUe block s).lrd with
      replicas := s.lrd.replicas.filter (fun x => !p x)
      replicaDropped := satAdd 16 s.lrd.replicaDropped (s.lrd.replicas.filter p).length } := by
  simp only [loseReplicas, countReplicaDropped, larderUe_lrd]

/-- A copy given up leaves the counts of lost words and lost replicas as they were. -/
theorem dropCopy_counts (tid slot da : Nat) (s : State) : (dropCopy tid slot da s).lrd.ueCount = s.lrd.ueCount ∧
    (dropCopy tid slot da s).lrd.replicaDropped = s.lrd.replicaDropped := by
  have retired (move : Option Nat) (l : List LCopy) :
      (l.foldl (fun t c => larderRetire c.block (blocksOf c.bytes.length) move t) s).lrd.ueCount = s.lrd.ueCount ∧
        (l.foldl (fun t c => larderRetire c.block (blocksOf c.bytes.length) move t) s).lrd.replicaDropped = s.lrd.replicaDropped :=
    List.foldlRecOn (motive := fun t : State => t.lrd.ueCount = s.lrd.ueCount ∧ t.lrd.replicaDropped = s.lrd.replicaDropped)
      l _ ⟨rfl, rfl⟩ fun _ kept _ _ => kept
  exact retired _ _

/-- A hot copy lost goes, is counted, and its row moves to TIER 0. -/
theorem loseHotCopy_moves (tid slot da : Nat) (s : State) : (loseHotCopy tid slot da s).moves = s.moves ++
    [{ tid := tid, slot := slot, dirAddr := da, entry := dirBits { readDir s da with tier := 0, larder := 0 }, copied := true }] := by
  have moves : (dropCopy tid slot da s).moves = s.moves := (dropCopy_only tid slot da s).same .moves (by decide)
  exact congrArg (· ++ _) moves

theorem loseHotCopy_lrd (tid slot da : Nat) (s : State) :
    (loseHotCopy tid slot da s).lrd.copies = s.lrd.copies.filter (fun c => !(c.tid == tid && c.slot == slot && c.dirAddr == da)) ∧
      (loseHotCopy tid slot da s).lrd.replicaDropped = satAdd 16 s.lrd.replicaDropped 1 ∧
      (loseHotCopy tid slot da s).lrd.ueCount = s.lrd.ueCount := by
  obtain ⟨ue, dropped⟩ := dropCopy_counts tid slot da s
  have counted : (loseHotCopy tid slot da s).lrd = { (dropCopy tid slot da s).lrd with
      replicaDropped := satAdd 16 (dropCopy tid slot da s).lrd.replicaDropped 1 } := by
    simp only [loseHotCopy, countReplicaDropped, startMove_lrd]
  rw [counted]
  exact ⟨dropCopy_copies tid slot da s, congrArg (satAdd 16 · 1) dropped, ue⟩

section Regions
variable {s : State} {block : Nat} (inside : block < larderBlocks) (ready : s.lrd.state = .ready)
include inside ready

theorem larderRead_record {pos : Nat} {mine : LEntry → Bool}
    (lies : mine = fun e => e.pos == pos && blockIn block (ledgerBase s + e.acb) (blocksOf (recordBytes e.acc.length)))
    (there : s.ldg.entries.any mine = true) : Leads (exec (.larderReadUncorrectable block (.record pos)) s) (fun t =>
      t.ldg = { s.ldg with entries := s.ldg.entries.map (fun e => if mine e then { e with bad := true } else e) } ∧
      t.lrd = (larderUe block s).lrd ∧ bit t.gbl.event evEccUncorrectable = true) := by
  rw [← ledgerBase_larderUe block s] at lies
  subst lies
  rw [← larderUe_ldg block s] at there
  refine ⟨_, larderRead_acts inside ready (larderAct_record there), ?_, rfl, larderUe_fires block s⟩
  rw [larderUe_ldg]

theorem larderRead_kept {idx : Nat} {x : KeptRow} (row : s.lrd.kept[idx]? = some x)
    (lies : blockIn block x.block (blocksOf x.size) = true) :
    Leads (exec (.larderReadUncorrectable block (.kept idx)) s) (fun t =>
      t.lrd = { (larderUe block s).lrd with kept := s.lrd.kept.filter (fun y => y.block != x.block) } ∧
      bit t.gbl.event evEccUncorrectable = true) := by
  have kept : (larderUe block s).lrd.kept = s.lrd.kept := by rw [larderUe_lrd]
  rw [← kept] at row
  refine ⟨_, larderRead_acts inside ready (larderAct_kept row lies), ?_, larderUe_fires block s⟩
  rw [kept]

theorem larderRead_pen {idx : Nat} {c : Contrib} (held : s.ldg.pen[idx]? = some c)
    (lies : blockIn block (ledgerBase s + c.block) (blocksOf c.bytes) = true) :
    Leads (exec (.larderReadUncorrectable block (.pen idx)) s) (fun t => t.ldg = { s.ldg with
        pen := s.ldg.pen.eraseIdx idx, dropped := satAdd 24 s.ldg.dropped 1 } ∧ t.lrd = (larderUe block s).lrd ∧
      bit t.gbl.event evEccUncorrectable = true) := by
  rw [← larderUe_ldg block s] at held
  rw [← ledgerBase_larderUe block s] at lies
  refine ⟨_, larderRead_acts inside ready (larderAct_pen held lies), ?_, rfl, larderUe_fires block s⟩
  rw [larderUe_ldg]

theorem larderRead_replica {tid slot row : Nat} {mine : Replica → Bool}
    (lies : mine = fun x => x.tid == tid && x.slot == slot && x.row == row && blockIn block x.block (replicaBlocks x.size))
    (there : s.lrd.replicas.any mine = true) :
    Leads (exec (.larderReadUncorrectable block (.replica tid slot row)) s) (fun t => t.lrd = { (larderUe block s).lrd with
        replicas := s.lrd.replicas.filter (fun x => !mine x)
        replicaDropped := satAdd 16 s.lrd.replicaDropped (s.lrd.replicas.filter mine).length } ∧
      bit t.gbl.event evEccUncorrectable = true) := by
  subst lies
  have replicas : (larderUe block s).lrd.replicas = s.lrd.replicas := by rw [larderUe_lrd]
  rw [← replicas] at there
  exact ⟨_, larderRead_acts inside ready (larderAct_replica there), loseReplicas_larderUe _ block s, larderUe_fires block s⟩

theorem larderRead_indexBucket {b : Nat} (bucket : b < bucketCount s) (lies : block = bucketBlock s b) :
    Leads (exec (.larderReadUncorrectable block (.indexBucket b)) s) (fun t => t.lrd = { (larderUe block s).lrd with
        replicas := s.lrd.replicas.filter (fun x => !(x.bucket == b))
        replicaDropped := satAdd 16 s.lrd.replicaDropped (s.lrd.replicas.filter (fun x => x.bucket == b)).length } ∧
      bit t.gbl.event evEccUncorrectable = true) := by
  have plan : (larderUe block s).lrd.plan = s.lrd.plan := by rw [larderUe_lrd]
  refine ⟨_, larderRead_acts inside ready (larderAct_indexBucket ?_ ?_), loseReplicas_larderUe _ block s, larderUe_fires block s⟩
  · unfold bucketCount at bucket ⊢
    rwa [plan]
  · unfold bucketBlock replicaBase at lies ⊢
    rwa [plan]

theorem larderRead_hotCopy {tid slot ix da : Nat} {tb : Table} {c : LCopy} (table : mget s.tables tid = some tb)
    (entry : da = dirAddr (vslot tb slot) ix) (copy : copyAt s tid slot da = some c)
    (lies : blockIn block c.block (blocksOf c.bytes.length) = true) :
    Leads (exec (.larderReadUncorrectable block (.hotCopy tid slot ix)) s) (fun t =>
      t.lrd.copies = s.lrd.copies.filter (fun c => !(c.tid == tid && c.slot == slot && c.dirAddr == da)) ∧
      t.lrd.replicaDropped = satAdd 16 s.lrd.replicaDropped 1 ∧ t.lrd.ueCount = satAdd 11 s.lrd.ueCount 1 ∧
      bit t.gbl.event evEccUncorrectable = true ∧
      t.moves = s.moves ++ [{ tid := tid, slot := slot, dirAddr := da
                              entry := dirBits { readDir s da with tier := 0, larder := 0 }, copied := true }]) := by
  subst entry
  have copies : copyAt (larderUe block s) tid slot (dirAddr (vslot tb slot) ix) = some c := by
    unfold copyAt at copy ⊢
    rwa [larderUe_lrd]
  rw [← larderUe_tables block s] at table
  obtain ⟨left, dropped, ue⟩ := loseHotCopy_lrd tid slot (dirAddr (vslot tb slot) ix) (larderUe block s)
  have moved := loseHotCopy_moves tid slot (dirAddr (vslot tb slot) ix) (larderUe block s)
  have entry : readDir (larderUe block s) (dirAddr (vslot tb slot) ix) = readDir s (dirAddr (vslot tb slot) ix) := by
    simp only [readDir, hbmRead, larderUe_hbm]
  rw [larderUe_lrd] at left dropped ue
  rw [larderUe_moves, entry] at moved
  refine ⟨_, larderRead_acts inside ready (larderAct_hotCopy table copies lies), left, dropped, ue, ?_, moved⟩
  exact bit_of_only (loseHotCopy_only _ _ _ _) (by decide) (larderUe_fires block s)

theorem larderRead_filter {key : RowKey} {n : Nat}
    (found : (s.ldg.sealedStep.toList ++ s.ldg.openStep.toList).find? (fun n => filterBlock s n key == block) = some n) :
    Leads (exec (.larderReadUncorrectable block (.filter key.tid key.defkey key.row)) s) (fun t =>
      (if s.ldg.openStep = some n then key ∈ t.ldg.filterOpen else key ∈ t.ldg.filterSealed) ∧ block ∈ t.lrd.poison ∧
      t.lrd.ueCount = satAdd 11 s.lrd.ueCount 1 ∧ bit t.gbl.event evEccUncorrectable = true) := by
  have word : ((larderUe block s).ldg.sealedStep.toList ++ (larderUe block s).ldg.openStep.toList).find?
      (fun n => filterBlock (larderUe block s) n key == block) = some n := by
    simpa only [larderUe_ldg, filterBlock_larderUe] using found
  have set := setFilter_mem key n (larderUe block s)
  rw [larderUe_ldg] at set
  refine ⟨_, larderRead_acts inside ready (larderAct_filter word), set, mem_insAsc_self _ _, ?_, ?_⟩
  · dsimp only
    rw [setFilter_lrd, larderUe_lrd]
  · exact bit_of_only (setFilter_only key n _) (by decide) (larderUe_fires block s)

end Regions

/-! ## Margin samples (R565) -/

/-- The monitors are sampled: the lowest margin is shown with its island, and MARGIN_LOW fires where it has just gone below the
threshold. -/
theorem sampleMargins_lowest {ins : List MarginIn} {s : State} {v i : Nat}
    (lowest : lowestMargin (ins.foldl setMargins s.pwr.margins) = some (v, i)) :
    (sampleMargins ins s).pwr = { s.pwr with
        margins := ins.foldl setMargins s.pwr.margins, minMargin := v, minIsland := i, valid := true,
        low := s.pwr.low || decide (v < s.pwr.lowThresh) } ∧
      (v < s.pwr.lowThresh → s.pwr.low = false → bit (sampleMargins ins s).gbl.event evMarginLow = true) ∧
      (s.pwr.lowThresh ≤ v → (sampleMargins ins s).gbl = s.gbl) := by
  have low : (s.pwr.low || (decide (v < s.pwr.lowThresh) && !s.pwr.low)) = (s.pwr.low || decide (v < s.pwr.lowThresh)) := by
    cases s.pwr.low <;> simp
  have sampled : ∀ t : State, t.pwr = { s.pwr with
      margins := ins.foldl setMargins s.pwr.margins, minMargin := v, minIsland := i, valid := true,
      low := s.pwr.low || (decide (v < s.pwr.lowThresh) && !s.pwr.low) } → t.pwr = { s.pwr with
        margins := ins.foldl setMargins s.pwr.margins, minMargin := v, minIsland := i, valid := true,
        low := s.pwr.low || decide (v < s.pwr.lowThresh) } := fun t h => by rw [h, low]
  unfold sampleMargins
  dsimp only
  rw [lowest]
  dsimp only
  refine ⟨sampled _ ?_, fun below clear => ?_, fun above => ?_⟩
  · split
    · exact (raise_only _ _).same .pwr (by decide)
    · rfl
  · rw [if_pos (by simp [below, clear])]
    exact bit_raise (by decide) _
  · rw [if_neg (by simp [Nat.not_lt.mpr above])]

end Sys2Proof.Machine

/-! SUPPORT. The statement about the events of the two memories and the margin samples. -/

namespace Sys2Proof.Machine

open Sys2Proof

/-- A codeword of at most 4 wrong symbols is corrected (R319). -/
theorem cwVerdict_corrects {syms : List SymErr} (one : 0 < (wrongSymbols syms).length) (few : (wrongSymbols syms).length ≤ 4) :
    cwVerdict syms = .read true [] := by
  have wrong : ¬ (wrongSymbols syms).isEmpty = true := by
    rw [List.isEmpty_iff_length_eq_zero]
    omega
  exact (if_neg wrong).trans (if_pos few)

section Structures
variable {s : State} {e : CwErr}

/-- A home map that meets a codeword bad now is unusable, and the codeword is counted and poisoned. -/
theorem readUe_homeMap_live {slot : Nat} {m : HomeMap} (map : mget s.maps slot = some m) (usable : m.unusable = false)
    (meets : meetsCw e.cw m.loc mapBytes = true) (live : cwLive s e.cw = true) (bad : cwVerdict e.syms = .bad) :
    Leads (exec (.hbmReadUncorrectable e (.homeMap slot)) s) (fun t =>
      mget t.maps slot = some { m with unusable := true } ∧ UeCounted e.cw s t ∧ e.cw ∈ t.poison) := by
  have lost := loseMap_only slot (hbmUe e false s)
  have maps : (hbmUe e false s).maps = s.maps := (hbmUe_only e false s).same .maps (by decide)
  refine ⟨_, readUe_homeMap map meets (meetOwn_live live bad), loseMap_unusable (maps.symm ▸ map) usable,
    (hbmUe_counted e false s).of_only lost (by decide) (by decide), ?_⟩
  rw [lost.same .poison (by decide)]
  exact (hbmUe_poisons e s).poison

theorem readUe_homeMap_poisoned {slot : Nat} {m : HomeMap} (map : mget s.maps slot = some m) (usable : m.unusable = false)
    (meets : meetsCw e.cw m.loc mapBytes = true) (dead : cwLive s e.cw = false) (poison : e.cw ∈ s.poison) :
    Leads (exec (.hbmReadUncorrectable e (.homeMap slot)) s) (fun t => mget t.maps slot = some { m with unusable := true } ∧
      (stackOf t (hbmPlace (e.cw * 64)).1).poisonReads = satAdd 15 (stackOf s (hbmPlace (e.cw * 64)).1).poisonReads 1) := by
  have maps : (countPoisonRead e.cw s).maps = s.maps := (countPoisonRead_only e.cw s).same .maps (by decide)
  refine ⟨_, readUe_homeMap map meets (meetOwn_poisoned dead poison), loseMap_unusable (maps.symm ▸ map) usable, ?_⟩
  rw [stackOf_of_only (loseMap_only slot _) (by decide)]
  exact countPoisonRead_count e.cw s

/-- The state in which a spill record that met a bad codeword is gone, before the Commit goes on. -/
def spillGone (r : Spill) (t : State) : State := raise evEccUncorrectable (loseSpill r t)

theorem spillGone_only (r : Spill) (t : State) : OnlyIn [.events, .ports, .ldg] t (spillGone r t) :=
  .step (raise_only _ _) (by decide) ((loseSpill_only r t).mono (by decide))

theorem spillGone_ldg {r : Spill} {t : State} (met : meetOwn e s = some t) : (spillGone r t).ldg.spills = s.ldg.spills.erase r ∧
    (spillGone r t).ldg.dropped = satAdd 24 s.ldg.dropped 1 := by
  have ledger : t.ldg = s.ldg := (OnlyIn.of_some (π := fun b => b) met (meetOwn_only e s)).same .ldg (by decide)
  unfold spillGone
  rw [raise_ldg, ← ledger]
  exact loseSpill_discards r t

/-- A spill record that meets a codeword bad now is discarded; the codeword is counted and poisoned. -/
theorem readUe_spill_live {idx : Nat} {r : Spill} (record : s.ldg.spills[idx]? = some r)
    (meets : meetsCw e.cw (spillAddr s r.place) (spillSize r) = true) (live : cwLive s e.cw = true)
    (bad : cwVerdict e.syms = .bad) : ∃ w, exec (.hbmReadUncorrectable e (.spillRecord idx)) s = .next (advance w) ∧
      w.ldg.spills = s.ldg.spills.erase r ∧ w.ldg.dropped = satAdd 24 s.ldg.dropped 1 ∧
      bit w.gbl.event evEccUncorrectable = true ∧ e.cw ∈ w.poison ∧
      (stackOf w (hbmPlace (e.cw * 64)).1).ueCount = satAdd 16 (stackOf s (hbmPlace (e.cw * 64)).1).ueCount 1 := by
  have met := meetOwn_live live bad
  have gone := spillGone_only r (hbmUe e false s)
  obtain ⟨spills, dropped⟩ := spillGone_ldg (r := r) met
  refine ⟨spillGone r (hbmUe e false s), readUe_spill record meets met, spills, dropped, bit_raise (by decide) _, ?_, ?_⟩
  · rw [gone.same .poison (by decide)]
    exact (hbmUe_poisons e s).poison
  · rw [stackOf_of_only gone (by decide)]
    exact (hbmUe_counted e false s).count

theorem readUe_spill_poisoned {idx : Nat} {r : Spill} (record : s.ldg.spills[idx]? = some r)
    (meets : meetsCw e.cw (spillAddr s r.place) (spillSize r) = true) (dead : cwLive s e.cw = false)
    (poison : e.cw ∈ s.poison) : ∃ w, exec (.hbmReadUncorrectable e (.spillRecord idx)) s = .next (advance w) ∧
      w.ldg.spills = s.ldg.spills.erase r ∧ w.ldg.dropped = satAdd 24 s.ldg.dropped 1 ∧
      bit w.gbl.event evEccUncorrectable = true ∧ e.cw ∈ w.poison ∧
      (stackOf w (hbmPlace (e.cw * 64)).1).poisonReads = satAdd 15 (stackOf s (hbmPlace (e.cw * 64)).1).poisonReads 1 := by
  have met := meetOwn_poisoned dead poison
  have gone := spillGone_only r (countPoisonRead e.cw s)
  obtain ⟨spills, dropped⟩ := spillGone_ldg (r := r) met
  refine ⟨spillGone r (countPoisonRead e.cw s), readUe_spill record meets met, spills, dropped, bit_raise (by decide) _, ?_, ?_⟩
  · rw [gone.same .poison (by decide), (countPoisonRead_only e.cw s).same .poison (by decide)]
    exact poison
  · rw [stackOf_of_only gone (by decide)]
    exact countPoisonRead_count e.cw s

end Structures

/-- Settles O37: each event by the lemma about what it leaves. A Larder patrol that finds an uncorrectable word poisons it and
counts no UE (assumption log 44), and a thermal sample closes its stack's window of corrections (log 33). -/
theorem memoryEvents : Obligations.MemoryEvents := by
  unfold Obligations.MemoryEvents
  refine ⟨?thermal, ?refresh, fun syms => cwVerdict_corrects, ?patrol, ?read, ?homeMap, ?spill, ?larder, ?margins⟩
  case thermal =>
    intro s n temp l stack small runs level
    subst level
    have sampled := takeSample_sampled n temp s
    refine ⟨takeSample n temp s, congrArg Host.Outcome.next (if_pos ⟨stack, small, runs⟩), ?_, fun k other => ?_,
      takeSample_fires, takeSample_cool⟩
    · exact (stackOf_of_only sampled (by decide) n).trans (stackOf_stackMod_same n (fun k => k.sample temp) s)
    · exact (stackOf_of_only sampled (by decide) k).trans (stackOf_stackMod_other other _ s)
  case refresh =>
    intro s n chan bank hn hc hb serves
    exact congrArg Host.Outcome.next (if_pos ⟨hn, hc, hb, serves⟩)
  case patrol =>
    rintro s cw n w syms live rfl
    refine ⟨fun clean => hbmPatrol_read live clean w, fun corrected => ⟨_, hbmPatrol_read live corrected w, ?_⟩,
      fun bad => ⟨_, hbmPatrol_bad live bad w, ?_⟩⟩
    · obtain ⟨count, window⟩ := correctedHbm_counts (hbmPlace (cw * 64)).1 s
      exact ⟨count, window, (correctedHbm_only _ s).same .hbm (by decide), correctedHbm_fires⟩
    · obtain ⟨count, addr, event⟩ := hbmUe_counted ⟨cw, syms⟩ w s
      refine ⟨count, addr, event, ?_, ?_⟩
      · rintro rfl
        exact hbmUe_untouched _ s
      · rintro rfl
        exact ⟨(hbmUe_poisons ⟨cw, syms⟩ s).poison, (hbmUe_poisons ⟨cw, syms⟩ s).seen⟩
  case read =>
    rintro s cw n syms bad rfl
    refine ⟨fun live => ⟨hbmUe ⟨cw, syms⟩ false s, (readUe_none _ _).trans (congrArg Host.Outcome.next (if_pos ⟨live, bad⟩)), ?_⟩,
      ?_, fun c ord i there free meets => readUe_stream bad there free meets⟩
    · obtain ⟨count, addr, event⟩ := hbmUe_counted ⟨cw, syms⟩ false s
      exact ⟨count, addr, event, (hbmUe_poisons ⟨cw, syms⟩ s).poison, (hbmUe_poisons ⟨cw, syms⟩ s).seen⟩
    · rintro idx h t u read table goes rfl here mapped
      exact readUe_homeRead bad read table goes here mapped
  case homeMap =>
    rintro s cw n slot m syms rfl map usable meets
    refine ⟨fun live bad => ?_, fun dead poison => readUe_homeMap_poisoned (e := ⟨cw, syms⟩) map usable meets dead poison⟩
    obtain ⟨t, goes, lost, counted, poison⟩ := readUe_homeMap_live (e := ⟨cw, syms⟩) map usable meets live bad
    exact ⟨t, goes, lost, counted.count, counted.event, poison⟩
  case spill =>
    rintro s cw n idx r syms rfl record meets (⟨live, bad⟩ | ⟨dead, poison⟩)
    · obtain ⟨w, goes, spills, dropped, event, poisoned, count⟩ := readUe_spill_live (e := ⟨cw, syms⟩) record meets live bad
      exact ⟨w, goes, spills, dropped, event, poisoned, fun _ => count, fun dead => absurd (live.symm.trans dead) (by decide)⟩
    · obtain ⟨w, goes, spills, dropped, event, poisoned, count⟩ :=
        readUe_spill_poisoned (e := ⟨cw, syms⟩) record meets dead poison
      exact ⟨w, goes, spills, dropped, event, poisoned, fun live => absurd (live.symm.trans dead) (by decide), fun _ => count⟩
  case larder =>
    intro s block inside ready
    refine ⟨larderPatrol_finds inside ready 0, ⟨_, larderPatrol_finds inside ready 1, correctedLarder_lrd s,
      correctedLarder_fires, correctedLarder_silent⟩, larderPatrol_finds inside ready 2,
      fun spot u acts => larderRead_acts inside ready acts,
      ⟨larderUe block s, larderRead_acts inside ready rfl, larderUe_lrd block s, larderUe_fires block s, larderUe_ldg block s,
        larderUe_hbm block s⟩,
      fun pos mine lies there => larderRead_record inside ready lies there,
      fun idx x row lies => larderRead_kept inside ready row lies,
      fun idx c held lies => larderRead_pen inside ready held lies,
      fun tid slot row mine lies there => larderRead_replica inside ready lies there,
      fun b bucket lies => larderRead_indexBucket inside ready bucket lies,
      fun tid slot ix tb da c table entry copy lies => larderRead_hotCopy inside ready table entry copy lies,
      fun key n found => larderRead_filter inside ready found⟩
  case margins =>
    intro s ins v i runs power lowest
    exact ⟨sampleMargins ins s, congrArg Host.Outcome.next (if_pos ⟨runs, power⟩), sampleMargins_lowest lowest⟩

end Sys2Proof.Machine

/-! SUPPORT. The Queue Hall's own events: timeouts, QH_SPLIT and QH_TIMEOUT, and cells with an uncorrectable word. -/

namespace Sys2Proof.Machine

open Sys2Proof

/-! ## Timeouts (R463 to R465) -/

/-- A stream of the flow whose tail has timed out hands over all it holds; another stream stays as it is. -/
def Stream.handTail (flow : Nat) (x : Stream) : Stream :=
  if x.flow = flow then { x with handed := if x.write then x.outQ.length else x.got.length } else x

theorem streamTailTimeout_hands {flow : Nat} (pool : 8192 ≤ flow) (s : State) : exec (.streamTailTimeout flow) s =
    .next { s with qh := { s.qh with
      runs := s.qh.runs.map (fun r => { r with streams := r.streams.map (Stream.handTail flow) }) } } :=
  congrArg Host.Outcome.next (if_neg (Nat.not_lt.mpr pool))

/-- The state a flow's timeout leaves. -/
def flowTimedOut (flow : Nat) (s : State) : State :=
  if (flowOf s flow).timeout then flowMod flow (fun g => { g with timeout := true }) s
  else raise evFlowTimeout (flowMod flow (fun g => { g with timeout := true }) s)

theorem flowTimeout_marks {s : State} {flow : Nat} (kind : (flowOf s flow).kind = .complete ∨ (flowOf s flow).kind = .runSubmit ∨
    (flowOf s flow).kind = .xferSubmit) (held : (flowOf s flow).held ≠ 0) :
    exec (.flowTimeout flow) s = .next (flowTimedOut flow s) := by
  have external : timed (flowOf s flow).kind = true := by
    rcases kind with k | k | k <;> rw [k] <;> rfl
  exact congrArg Host.Outcome.next (if_pos ⟨external, held⟩)

theorem flowOf_flowTimedOut (flow k : Nat) (s : State) :
    flowOf (flowTimedOut flow s) k = flowOf (flowMod flow (fun g => { g with timeout := true }) s) k :=
  flowOf_of_only (l := [.events, .ports]) (.ite (fun _ => .refl _ _) fun _ => raise_only _ _) (by decide) k

/-! ## QH_SPLIT and QH_TIMEOUT (R350, R493, R494, R666) -/

/-- The counts a write of QH_SPLIT would set are taken: the block is READY, none is 0, and they sum to 16. -/
def SplitOk (val : W64) (s : State) : Prop :=
  s.gbl.state = .ready ∧ bits val 0 4 ≠ 0 ∧ bits val 4 4 ≠ 0 ∧ bits val 8 4 ≠ 0 ∧ bits val 0 4 + bits val 4 4 + bits val 8 4 = 16

theorem writeQhSplit_takes {val : W64} {s : State} (ok : SplitOk val s) : writeQhSplit val s = { s with qh := { s.qh with
    splitRead := bits val 0 4, splitWrite := bits val 4 4, splitRemote := bits val 8 4,
    splitRefused := s.qh.splitRefused && !bit val 63 } } := by
  obtain ⟨ready, read, write, remote, sum⟩ := ok
  by_cases present : bits val 0 4 = s.qh.splitRead ∧ bits val 4 4 = s.qh.splitWrite ∧ bits val 8 4 = s.qh.splitRemote
  · obtain ⟨r, w, m⟩ := present
    exact (if_pos ⟨r, w, m⟩).trans (by rw [r, w, m])
  · exact (if_neg present).trans (if_neg (by simp [ready, read, write, remote, sum]))

theorem writeQhSplit_refuses {val : W64} {s : State}
    (other : ¬(bits val 0 4 = s.qh.splitRead ∧ bits val 4 4 = s.qh.splitWrite ∧ bits val 8 4 = s.qh.splitRemote))
    (bad : s.gbl.state ≠ .ready ∨ bits val 0 4 = 0 ∨ bits val 4 4 = 0 ∨ bits val 8 4 = 0 ∨
      bits val 0 4 + bits val 4 4 + bits val 8 4 ≠ 16) :
    writeQhSplit val s = { s with qh := { s.qh with splitRefused := true } } := (if_neg other).trans (if_pos bad)

theorem writeQhTimeout_takes {val : W64} {s : State} (stream : 4 ≤ bits val 0 5) (ext : 4 ≤ bits val 8 5) :
    writeQhTimeout val s = { s with qh := { s.qh with
      streamK := bits val 0 5, extK := bits val 8 5, timeoutRefused := s.qh.timeoutRefused && !bit val 63 } } :=
  if_neg (by omega)

theorem writeQhTimeout_refuses {val : W64} {s : State} (bad : bits val 0 5 < 4 ∨ bits val 8 5 < 4) :
    writeQhTimeout val s = { s with qh := { s.qh with timeoutRefused := true } } := if_pos bad

/-- While the KCP answers, a write is what it makes of the state. -/
theorem kcpWrite_alive {s t : State} {f : State → State} (alive : kcpAlive s = true) (writes : f s = t) :
    kcpWrite s f = .next t := congrArg Host.Outcome.next ((if_pos alive).trans writes)

/-! ## Uncorrectable cells (R453) -/

theorem cellLost_submission {s : State} {f i : Nat} (item : i < (flowOf s f).items.length) : cellLost (.submission f i) s =
    some (flowMod f (fun g => { g with items := lmod g.items i (fun x => { x with bad := true }) }) s) := if_pos item

theorem cellLost_completion {s : State} {f i : Nat} (record : i < (flowOf s f).records.length) : cellLost (.completion f i) s =
    some (flowMod f (fun g => { g with badRecords := insAsc i g.badRecords }) s) := if_pos record

theorem cellLost_transferData {s : State} {ord : Nat} {x : Xfer} (xfer : xferOf s ord = some x) : cellLost (.transferData ord) s =
    some (xferMod ord (fun x => { x with bad := firstBad x.bad (x.done, .uncorrectable) }) s) := by
  simp only [cellLost, xfer]

theorem cellUncorrectable_counts {spot : CellSpot} {s t : State} (lost : cellLost spot s = some t) :
    exec (.qhCellUncorrectable spot) s = .next (countCell t) := by
  change execQhCellUncorrectable spot s = _
  unfold execQhCellUncorrectable
  rw [lost]

theorem countCell_qh (s : State) : (countCell s).qh = { s.qh with eccUncorrectable := satAdd 16 s.qh.eccUncorrectable 1 } :=
  raise_qh _ _

theorem flowOf_countCell (f : Nat) (s : State) : flowOf (countCell s) f = flowOf s f :=
  (congrArg (fun q : Qh => mgetD q.flows f Flow.unused) (countCell_qh s)).trans rfl

/-- A cell of a flow is lost: the flow is marked, the word counts, and the event fires. -/
theorem cellUncorrectable_flow {spot : CellSpot} {s : State} {f : Nat} {g : Flow → Flow} (lost : cellLost spot s = some (flowMod f g s)) :
    Leads (exec (.qhCellUncorrectable spot) s) (fun t => flowOf t f = g (flowOf s f) ∧
      t.qh.eccUncorrectable = satAdd 16 s.qh.eccUncorrectable 1 ∧ bit t.gbl.event evEccUncorrectable = true) :=
  ⟨_, cellUncorrectable_counts lost, (flowOf_countCell f _).trans (flowOf_flowMod_same f g s),
    congrArg Qh.eccUncorrectable (countCell_qh _), bit_raise (by decide) _⟩

/-- Settles O34: each event by the lemma about what it leaves. -/
theorem queueHallEvents : Obligations.QueueHallEvents := by
  unfold Obligations.QueueHallEvents
  refine ⟨?tail, ?timeout, ?registers, ?cells⟩
  case tail =>
    intro s flow pool
    refine ⟨_, streamTailTimeout_hands pool s, rfl, List.length_map _, fun i r run => ?_⟩
    refine ⟨{ r with streams := r.streams.map (Stream.handTail flow) }, ?_, rfl, fun j x stream => ?_⟩
    · rw [List.getElem?_map, run]
      rfl
    · rw [List.getElem?_map, stream]
      rfl
  case timeout =>
    intro s flow kind held
    refine ⟨_, flowTimeout_marks kind held, ?_, fun g other => ?_, fun clear => ?_, fun set => ?_⟩
    · rw [flowOf_flowTimedOut, flowOf_flowMod_same]
    · rw [flowOf_flowTimedOut, flowOf_flowMod_other other]
    · rw [flowTimedOut, clear]
      exact bit_raise (by decide) _
    · rw [flowTimedOut, set]
      rfl
  case registers =>
    intro s val alive
    exact ⟨fun ready read write remote sum => kcpWrite_alive alive (writeQhSplit_takes ⟨ready, read, write, remote, sum⟩),
      fun other bad => kcpWrite_alive alive (writeQhSplit_refuses other bad),
      fun stream ext => kcpWrite_alive alive (writeQhTimeout_takes stream ext),
      fun bad => kcpWrite_alive alive (writeQhTimeout_refuses bad)⟩
  case cells =>
    intro s f i
    refine ⟨fun item => cellUncorrectable_flow (cellLost_submission item),
      fun record => cellUncorrectable_flow (cellLost_completion record), fun x xfer => ?_⟩
    exact ⟨_, cellUncorrectable_counts (cellLost_transferData xfer), (congrArg Qh.xfers (countCell_qh _)).trans rfl,
      congrArg Qh.eccUncorrectable (countCell_qh _), bit_raise (by decide) _⟩

end Sys2Proof.Machine

/-! SUPPORT. Secure boot, and the ends of the start and recovery sequences. -/

namespace Sys2Proof.Machine

open Sys2Proof

/-! ## What a step leaves of the GBL block -/

/-- A field of the GBL block that GBL_EVENT and what it drives are no part of, after a step outside the block. -/
theorem gblField_of_only {α : Type} {l : List Part} {s t : State} (f : Gbl → α) (h : OnlyIn l s t) (block : Part.block ∉ l)
    (apart : ∀ g, f g.still = f g := by exact fun _ => rfl) : f t.gbl = f s.gbl := by
  have still : t.gbl.still = s.gbl.still := h.same .block block
  rw [← apart, still, apart]

theorem heldCauses_congr {s t : State} (failed : t.gbl.testFailed = s.gbl.testFailed) (clerk : t.clerk.state = s.clerk.state)
    (cycle : t.gbl.lifecycle = s.gbl.lifecycle) : heldCauses t = heldCauses s := by
  unfold heldCauses
  rw [failed, clerk, cycle]

/-! ## CLERK_SECURE_BOOT in a start sequence (R532 to R534, R651) -/

/-- The state in which a boot has been counted. -/
def bootCounted (s : State) : State :=
  { s with gbl := { s.gbl with bootCount := min (s.gbl.bootCount + 1) (2 ^ 32 - 1) } }

/-- The state that an image turned down leaves, before the stacks' training starts. -/
def bootRefused (s : State) : State :=
  refreshReady { bootCounted s with
    gbl := { (bootCounted s).gbl with active := if s.gbl.active = 3 then 0 else s.gbl.active }
    clerk := { s.clerk with state := .bootFailed } }

theorem bootRefused_leaves (s : State) : (bootRefused s).clerk.state = .bootFailed ∧ (bootRefused s).gbl.idFw = s.gbl.idFw ∧
    (bootRefused s).gbl.bootCount = min (s.gbl.bootCount + 1) (2 ^ 32 - 1) := ⟨rfl, rfl, rfl⟩

theorem afterBoot_clerk (s : State) : (afterBoot s).clerk = s.clerk := (afterBoot_only s).same .clerk (by decide)

section Boot
variable {s : State} {n : Nat} (seq : s.gbl.seq = .start n)
include seq

theorem bootWipe_start : bootWipe s = s := by
  unfold bootWipe
  rw [seq]

/-- An image that is accepted starts the Clerk and shows in ID_FW. The word it shows is a variable here: the kernel would compute
with it when it compares the block before and after. -/
theorem bootGood_start {img : ImageHdr} {fw : W64} (shown : idFwOf img = fw) : (bootGood img s).clerk.state = .running ∧
    (bootGood img s).clerk.stopped = false ∧ (bootGood img s).gbl = { s.gbl with idFw := fw } := by
  unfold bootGood
  rw [shown]
  dsimp only
  split
  next => split <;> exact ⟨rfl, rfl, rfl⟩
  next other =>
    refine absurd ?_ (other n)
    split <;> exact seq

variable (due : bootDue s = true)
include due

theorem secureBoot_accepts {img : ImageHdr} (fresh : s.gbl.rollback ≤ img.secver % 65536) :
    exec (.clerkSecureBoot true img) s = .next (afterBoot (bootGood img (bootCounted s))) := by
  change execClerkSecureBoot true img s = _
  unfold execClerkSecureBoot
  rw [due, bootWipe_start seq]
  simp only [fresh, decide_true, Bool.and_self, if_true]
  rfl

theorem secureBoot_refuses {ok : Bool} {img : ImageHdr} (bad : (ok && decide (s.gbl.rollback ≤ img.secver % 65536)) = false) :
    exec (.clerkSecureBoot ok img) s = .next (afterBoot (bootRefused s)) := by
  change execClerkSecureBoot ok img s = _
  unfold execClerkSecureBoot
  rw [due, bootWipe_start seq]
  simp only [bad]
  rfl

/-- The image is verified and not below the rollback counter: the Clerk runs. -/
theorem secureBoot_runs {img : ImageHdr} (fresh : s.gbl.rollback ≤ img.secver % 65536) :
    Leads (exec (.clerkSecureBoot true img) s) (fun t =>
      t.clerk.state = .running ∧ t.clerk.stopped = false ∧ t.gbl.idFw = idFwOf img ∧
      t.gbl.bootCount = min (s.gbl.bootCount + 1) (2 ^ 32 - 1) ∧ t.gbl.state = s.gbl.state ∧ t.gbl.seq = .start n) := by
  have trained := afterBoot_only (bootGood img (bootCounted s))
  obtain ⟨running, going, block⟩ := bootGood_start (s := bootCounted s) seq (img := img) rfl
  refine ⟨_, secureBoot_accepts seq due fresh, ?_, ?_, ?_, ?_, ?_, ?_⟩
  · rw [afterBoot_clerk, running]
  · rw [afterBoot_clerk, going]
  · rw [gblField_of_only Gbl.idFw trained (by decide), block]
  · rw [gblField_of_only Gbl.bootCount trained (by decide), block, bootCounted]
  · rw [gblField_of_only Gbl.state trained (by decide), block, bootCounted]
  · rw [gblField_of_only Gbl.seq trained (by decide), block]
    exact seq

/-- The image is not verified, or it is below the rollback counter: the Clerk does not run. -/
theorem secureBoot_fails {ok : Bool} {img : ImageHdr} (bad : (ok && decide (s.gbl.rollback ≤ img.secver % 65536)) = false) :
    Leads (exec (.clerkSecureBoot ok img) s) (fun t =>
      t.clerk.state = .bootFailed ∧ t.gbl.idFw = s.gbl.idFw ∧ t.gbl.bootCount = min (s.gbl.bootCount + 1) (2 ^ 32 - 1)) := by
  have trained := afterBoot_only (bootRefused s)
  obtain ⟨failed, shown, count⟩ := bootRefused_leaves s
  refine ⟨_, secureBoot_refuses seq due bad, ?_, ?_, ?_⟩
  · rw [afterBoot_clerk, failed]
  · rw [gblField_of_only Gbl.idFw trained (by decide), shown]
  · rw [gblField_of_only Gbl.bootCount trained (by decide), count]

end Boot

/-! ## The end of a sequence (R533, R545, R652) -/

/-- The GBL block in which a sequence has ended, READY or HELD. -/
def endedGbl (s : State) : Gbl :=
  { s.gbl with
    state := if heldCauses s = 0 then .ready else .held, heldCause := heldCauses s, quiesce := 0, seq := .idle, active := 0 }

theorem endSequence_field {α : Type} (f : Gbl → α) (s : State) (apart : ∀ g, f g.still = f g := by exact fun _ => rfl) :
    f (endSequence s).gbl = f (endedGbl s) := by
  have raised : OnlyIn [.events, .ports] { s with gbl := endedGbl s } (endSequence s) :=
    .step (raise_only _ _) (by decide) ((refreshReady_only _).mono (by decide))
  exact gblField_of_only f raised (by decide) apart

theorem endSequence_ends (s : State) : SequenceEnded (heldCauses s) (endSequence s) :=
  ⟨endSequence_field Gbl.seq s, endSequence_field Gbl.active s, endSequence_field Gbl.quiesce s, endSequence_field Gbl.heldCause s,
    bit_raise (by decide) _⟩

theorem endSequence_state (s : State) : (endSequence s).gbl.state = if heldCauses s = 0 then .ready else .held :=
  endSequence_field Gbl.state s

theorem endSequence_clerk (s : State) : (endSequence s).clerk = s.clerk := (endSequence_only s).same .clerk (by decide)

theorem endSequence_testFailed (s : State) : (endSequence s).gbl.testFailed = s.gbl.testFailed := endSequence_field Gbl.testFailed s

theorem endSequence_sramFailed (s : State) : (endSequence s).gbl.sramFailed = s.gbl.sramFailed := endSequence_field Gbl.sramFailed s

theorem heldCauses_endSequence (s : State) : heldCauses (endSequence s) = heldCauses s :=
  heldCauses_congr (endSequence_testFailed s) (congrArg Clerk.state (endSequence_clerk s)) (endSequence_field Gbl.lifecycle s)

/-- What follows the end of a sequence outside the GBL block leaves it ended. -/
theorem sequenceEnded_of_only {causes : Nat} {l : List Part} {s t : State} (h : SequenceEnded causes s) (k : OnlyIn l s t)
    (block : Part.block ∉ l) (events : Part.events ∉ l) : SequenceEnded causes t := by
  obtain ⟨seq, active, quiesce, cause, done⟩ := h
  exact ⟨(gblField_of_only Gbl.seq k block).trans seq, (gblField_of_only Gbl.active k block).trans active,
    (gblField_of_only Gbl.quiesce k block).trans quiesce, (gblField_of_only Gbl.heldCause k block).trans cause,
    bit_of_only k events done⟩

/-- The block may pass between READY and RUNNING: the sequence stays ended. -/
theorem sequenceEnded_settle {causes : Nat} {s : State} (h : SequenceEnded causes s) : SequenceEnded causes (settle s) := by
  unfold SequenceEnded
  rw [settle_eq]
  exact h

/-- From READY the block passes to RUNNING or stays. -/
theorem settle_ready {s : State} (ready : s.gbl.state = .ready) :
    (settle s).gbl.state = .ready ∨ (settle s).gbl.state = .running := by
  unfold settle
  rw [ready]
  dsimp only
  split
  · exact .inr rfl
  · exact .inl ready

theorem settle_held {s : State} (held : s.gbl.state = .held) : (settle s).gbl.state = .held := by
  rw [settle_other s (by rw [held]; decide) (by rw [held]; decide), held]

/-! ## The defaults (R301, R307, R457, R532) -/

theorem defaults_defaulted (plan : W64) (s : State) : Defaulted plan (defaults plan s) :=
  ⟨congrArg (·.getD Flow.unused) (mget_mset_same s.qh.flows 0 defaultFlow), rfl, rfl⟩

theorem defaulted_of_only {plan : W64} {l : List Part} {s t : State} (h : Defaulted plan s) (k : OnlyIn l s t)
    (qh : Part.qh ∉ l) (lrd : Part.lrd ∉ l) : Defaulted plan t := by
  have queues : t.qh = s.qh := k.same .qh qh
  have larder : t.lrd = s.lrd := k.same .lrd lrd
  unfold Defaulted
  rw [queues, larder]
  exact h

end Sys2Proof.Machine

/-! SUPPORT. The tests of a start sequence, what is lost in a recovery, and the statement about the ends of the sequences. -/

namespace Sys2Proof.Machine

open Sys2Proof

/-! ## The tests at the end of a start sequence (R301, R532, R536) -/

section Start
variable {s : State} {n : Nat} (seq : s.gbl.seq = .start n)
include seq

theorem testParts_start : testParts s = 15 := by
  unfold testParts
  rw [seq]

theorem stepFive_start : stepFive s = s := by
  unfold stepFive
  rw [seq]

theorem testsDue_start (cold : n ≠ 2) (booted : bootOver s = true) : testsDue s = true := by
  unfold testsDue
  rw [seq]
  split
  next again => exact absurd (Sequence.start.inj again) cold
  next => exact booted
  all_goals simp_all

end Start

/-- All parts are tested. -/
theorem applyTest_all (res : BistResult) (s : State) : applyTest 15 res s =
    { testMills res (testStacks res (testLarder res s)) with
      gbl := { (testMills res (testStacks res (testLarder res s))).gbl with sramFailed := res.sramFail % 32 } } := by
  have all : Nat.testBit 15 0 = true ∧ Nat.testBit 15 1 = true ∧ Nat.testBit 15 2 = true ∧ Nat.testBit 15 3 = true := by decide
  obtain ⟨larder, hbm, mills, srams⟩ := all
  simp only [applyTest, larder, hbm, mills, srams, if_true]

theorem applyTest_lrd (res : BistResult) (s : State) : (applyTest 15 res s).lrd = (testLarder res s).lrd := by
  have tested : OnlyIn [.cols, .hbmStacks] (testLarder res s) (testMills res (testStacks res (testLarder res s))) :=
    (testMills_only _ _).step (by decide) ((testStacks_only _ _).mono (by decide))
  rw [applyTest_all]
  exact tested.same .lrd (by decide)

theorem applyTest_srams (res : BistResult) (s : State) : (applyTest 15 res s).gbl.sramFailed = res.sramFail % 32 := by
  rw [applyTest_all]

/-- A Larder that fails shows in the result of the tests. -/
theorem testResult_larder {s : State} (failed : s.lrd.state = .failed) : testResult s % 4 ≠ 0 := by
  have larder : b2n (s.lrd.state == .failed) = 1 := by
    rw [failed]
    rfl
  have others : b2n (stacksFailed s != 0) ≤ 1 := by cases stacksFailed s != 0 <;> decide
  unfold testResult
  omega

/-- Whether a part has failed its test. -/
def withTestFailed (failed : Bool) (s : State) : State := { s with gbl := { s.gbl with testFailed := failed } }

theorem withTestFailed_lrd (failed : Bool) (s : State) : (withTestFailed failed s).lrd = s.lrd := rfl

theorem withTestFailed_testFailed (failed : Bool) (s : State) : (withTestFailed failed s).gbl.testFailed = failed := rfl

theorem withTestFailed_sramFailed (failed : Bool) (s : State) : (withTestFailed failed s).gbl.sramFailed = s.gbl.sramFailed := rfl

/-- The state after the tests: a part that failed holds the block. -/
def startTested (res : BistResult) (s : State) : State :=
  withTestFailed (testResult (applyTest 15 res s) % 4 != 0 || (applyTest 15 res s).gbl.sramFailed != 0) (applyTest 15 res s)

/-- The defaults stand where the Clerk runs (R301, R457). -/
def installed (s : State) : State := if clerkRuns s then defaults defaultPlan s else s

/-- The block is in P0, and the tests' REPORT is kept. -/
def inP0 (report : List W64) (s : State) : State :=
  { s with
    pwr := { s.pwr with current := 0, target := 0, busy := false, slot := none }
    clerk := { s.clerk with testReport := report } }

theorem inP0_lrd (report : List W64) (s : State) : (inP0 report s).lrd = s.lrd := rfl

/-- The state in which a start sequence ends. -/
def startOver (res : BistResult) (s : State) : State :=
  inP0 (testPayload 15 res.durationMs (installed (startTested res s))) (installed (startTested res s))

theorem startTested_only (res : BistResult) (s : State) : OnlyIn [.block, .cols, .lrd, .hbmStacks] s (startTested res s) :=
  .step (setGbl_only _ _) (by decide) (applyTest_only 15 res s)

theorem installed_only (s : State) : OnlyIn [.clerk, .qh, .lrd] s (installed s) := .when (defaults_only _ s)

theorem inP0_only (report : List W64) (s : State) : OnlyIn [.clerk, .pwr] s (inP0 report s) := setPwrClerk_only _ _ _

theorem startTested_clerkRuns (res : BistResult) (s : State) : clerkRuns (startTested res s) = clerkRuns s := by
  unfold clerkRuns
  rw [(startTested_only res s).same .clerk (by decide)]

/-- The REPORTs of SELFTEST, WIPE and LIFECYCLE, where one is owed and the Clerk runs. -/
def testsReported (s : State) : State :=
  if clerkRuns s then [0x0201, 0x0401, 0x0402].foldl (fun t op => reportAll op 1 s.clerk.testReport t) s else s

theorem testsReported_only (s : State) : OnlyIn [.mbx, .clerk] s (testsReported s) :=
  .when (.foldl (fun t op => reportAll_only op _ _ t) _ _)

theorem reportAll_clerkState (op n : Nat) (p : List W64) (s : State) : (reportAll op n p s).clerk.state = s.clerk.state :=
  List.foldlRecOn (motive := fun t : State => t.clerk.state = s.clerk.state) _ _ rfl fun _ kept _ _ => kept

theorem testsReported_clerkState (s : State) : (testsReported s).clerk.state = s.clerk.state := by
  unfold testsReported
  split
  · exact List.foldlRecOn (motive := fun t : State => t.clerk.state = s.clerk.state) _ _ rfl
      fun t kept op _ => (reportAll_clerkState op _ _ t).trans kept
  · rfl

theorem selftestSequenceDone_start {s : State} {n : Nat} (res : BistResult) (seq : s.gbl.seq = .start n) (cold : n ≠ 2)
    (booted : bootOver s = true) : exec (.selftestSequenceDone res) s = .next (testsReported (endSequence (startOver res s))) := by
  have due := testsDue_start seq cold booted
  change execSelftestSequenceDone res s = _
  unfold execSelftestSequenceDone
  rw [due, testParts_start seq, stepFive_start seq]
  rfl

/-! ## What a start sequence ends in -/

theorem installed_larder (s : State) : (installed s).lrd.state = s.lrd.state ∧ (installed s).lrd.bistFail = s.lrd.bistFail := by
  unfold installed
  split <;> exact ⟨rfl, rfl⟩

theorem testLarder_result (res : BistResult) (s : State) :
    (testLarder res s).lrd.state = (if larderFails res then .failed else .ready) ∧ (testLarder res s).lrd.bistFail = larderFails res := by
  simp only [testLarder, and_self]

/-- The Larder shows what its test found (R301). -/
theorem startOver_larder (res : BistResult) (s : State) :
    (startOver res s).lrd.state = (if larderFails res then .failed else .ready) ∧ (startOver res s).lrd.bistFail = larderFails res := by
  have larder : (startTested res s).lrd = (testLarder res s).lrd := (withTestFailed_lrd _ _).trans (applyTest_lrd res s)
  obtain ⟨state, bist⟩ := installed_larder (startTested res s)
  obtain ⟨tested, failed⟩ := testLarder_result res s
  rw [startOver, inP0_lrd, state, bist, larder]
  exact ⟨tested, failed⟩

theorem startOver_only (res : BistResult) (s : State) : OnlyIn [.clerk, .pwr, .qh, .lrd] (startTested res s) (startOver res s) :=
  .step (inP0_only _ _) (by decide) ((installed_only _).mono (by decide))

theorem startOver_testFailed {res : BistResult} (fails : larderFails res = true) (s : State) :
    (startOver res s).gbl.testFailed = true := by
  have larder : (applyTest 15 res s).lrd.state = .failed := by
    rw [applyTest_lrd, (testLarder_result res s).1, if_pos fails]
  refine (gblField_of_only Gbl.testFailed (startOver_only res s) (by decide)).trans ?_
  rw [startTested, withTestFailed_testFailed, bne_iff_ne.mpr (testResult_larder larder), Bool.true_or]

theorem startOver_srams (res : BistResult) (s : State) : (startOver res s).gbl.sramFailed = res.sramFail % 32 :=
  (gblField_of_only Gbl.sramFailed (startOver_only res s) (by decide)).trans
    ((withTestFailed_sramFailed _ _).trans (applyTest_srams res s))

theorem startOver_defaulted {s : State} (runs : clerkRuns s = true) (res : BistResult) :
    Defaulted defaultPlan (startOver res s) := by
  have default : Defaulted defaultPlan (installed (startTested res s)) := by
    rw [installed, startTested_clerkRuns, if_pos runs]
    exact defaults_defaulted _ _
  exact defaulted_of_only default (inP0_only _ _) (by decide) (by decide)

/-! ## Recovery (R545, R548) -/

/-- The state in which a recovery ends, before what it lost is answered. -/
def recoveryOver (s : State) : State :=
  endSequence (defaults (if s.clerk.cfgPlan = 0 then defaultPlan else s.clerk.cfgPlan) s)

theorem recoveryOver_clerkRuns (s : State) : clerkRuns (recoveryOver s) = clerkRuns s := by
  unfold recoveryOver clerkRuns
  rw [endSequence_clerk]
  rfl

theorem recoveryComplete_answers {s : State} (seq : s.gbl.seq = .start 2) (booted : bootOver s = true) (runs : clerkRuns s = true) :
    exec .recoveryComplete s = .next (settle (answerLost (recoveryOver s))) := by
  refine congrArg Host.Outcome.next ((if_pos ⟨seq, booted⟩).trans (congrArg settle ?_))
  rw [if_pos runs]
  exact if_pos ((recoveryOver_clerkRuns s).trans runs)

theorem recoveryOver_lost (s : State) : (recoveryOver s).clerk.lost = s.clerk.lost ∧
    (recoveryOver s).clerk.lostOwed = s.clerk.lostOwed := by
  unfold recoveryOver
  rw [endSequence_clerk]
  exact ⟨rfl, rfl⟩

theorem recoveryOver_ends (s : State) : SequenceEnded (heldCauses s) (recoveryOver s) := endSequence_ends (defaults _ s)

theorem recoveryOver_state (s : State) : (recoveryOver s).gbl.state = if heldCauses s = 0 then .ready else .held :=
  endSequence_state (defaults _ s)

theorem recoveryOver_defaulted (s : State) :
    Defaulted (if s.clerk.cfgPlan = 0 then defaultPlan else s.clerk.cfgPlan) (recoveryOver s) :=
  defaulted_of_only (defaults_defaulted _ s) (endSequence_only _) (by decide) (by decide)

theorem answerLost_respQ (s : State) : (answerLost s).mbx.respQ = s.mbx.respQ ++ s.clerk.lost.map lostFinal ++
    s.clerk.lostOwed.map lostReport ++ (s.clerk.report.map recResponse).toList := rfl

/-- Every command that the reset lost is answered, and every REPORT that it lost. -/
theorem answerLost_answers (s : State) : (∀ o ∈ s.clerk.lost, lostFinal o ∈ (answerLost s).mbx.respQ) ∧
    (∀ o ∈ s.clerk.lostOwed, lostReport o ∈ (answerLost s).mbx.respQ) := by
  rw [answerLost_respQ]
  refine ⟨fun o lost => ?_, fun o lost => ?_⟩
  · exact List.mem_append_left _ (List.mem_append_left _ (List.mem_append_right _ (List.mem_map_of_mem lost)))
  · exact List.mem_append_left _ (List.mem_append_right _ (List.mem_map_of_mem lost))

/-! ## The statement -/

/-- Settles O21: secure boot by what it decides of the image, each sequence by the state it ends in. With no plan before it, a
recovery installs the default plan (assumption log 27). -/
theorem sequencesEnd : Obligations.SequencesEnd := by
  unfold Obligations.SequencesEnd
  refine ⟨?boot, ?tests, ?recovery⟩
  case boot =>
    intro s img n due seq
    refine ⟨fun fresh => ?_, fun stale => ?_, ?_⟩
    · exact secureBoot_runs seq due fresh
    · obtain ⟨t, goes, failed, shown, -⟩ := secureBoot_fails seq due (ok := true) (img := img) (by simp [Nat.not_le.mpr stale])
      exact ⟨t, goes, failed, shown⟩
    · exact secureBoot_fails seq due (Bool.false_and _)
  case tests =>
    intro s res n seq cold booted
    have ended := endSequence_only (startOver res s)
    have reported := testsReported_only (endSequence (startOver res s))
    have causes : heldCauses (testsReported (endSequence (startOver res s))) = heldCauses (startOver res s) :=
      (heldCauses_congr (gblField_of_only Gbl.testFailed reported (by decide)) (testsReported_clerkState _)
        (gblField_of_only Gbl.lifecycle reported (by decide))).trans (heldCauses_endSequence _)
    have larder : (testsReported (endSequence (startOver res s))).lrd = (startOver res s).lrd :=
      Eq.trans (reported.same .lrd (by decide)) (ended.same .lrd (by decide))
    have power : (testsReported (endSequence (startOver res s))).pwr = (startOver res s).pwr :=
      Eq.trans (reported.same .pwr (by decide)) (ended.same .pwr (by decide))
    obtain ⟨state, bist⟩ := startOver_larder res s
    refine ⟨_, selftestSequenceDone_start res seq cold booted, ?_, ?_, ?_, ?_, ?_, ?_, ?_, ?_, ?_⟩
    · rw [causes]
      exact sequenceEnded_of_only (endSequence_ends _) reported (by decide) (by decide)
    · rw [causes, gblField_of_only Gbl.state reported (by decide), endSequence_state]
    · rw [larder, state]
    · rw [larder, bist]
    · intro fails
      rw [gblField_of_only Gbl.testFailed reported (by decide), endSequence_testFailed, startOver_testFailed fails]
    · rw [gblField_of_only Gbl.sramFailed reported (by decide), endSequence_sramFailed, startOver_srams]
    · rw [power]
      rfl
    · rw [power]
      rfl
    · intro runs
      have atEnd := defaulted_of_only (startOver_defaulted runs res) ended (by decide) (by decide)
      exact defaulted_of_only atEnd reported (by decide) (by decide)
  case recovery =>
    intro s seq booted runs
    have ended := recoveryOver_ends s
    obtain ⟨final, report⟩ := answerLost_answers (recoveryOver s)
    rw [(recoveryOver_lost s).1] at final
    rw [(recoveryOver_lost s).2] at report
    have answered := answerLost_only (recoveryOver s)
    have state := gblField_of_only Gbl.state answered (by decide)
    refine ⟨_, recoveryComplete_answers seq booted runs, ?_, fun free => ?_, fun held => ?_, ?_, ?_, ?_, ?_, ?_, ?_⟩
    · exact sequenceEnded_settle (sequenceEnded_of_only ended answered (by decide) (by decide))
    · exact settle_ready (state.trans ((recoveryOver_state s).trans (if_pos free)))
    · exact settle_held (state.trans ((recoveryOver_state s).trans (if_neg held)))
    · rw [settle_mbx]
      exact final
    · rw [settle_mbx]
      exact report
    · rw [settle_clerk]
      rfl
    · rw [settle_clerk]
      rfl
    · rw [settle_clerk]
      rfl
    · exact defaulted_of_only (recoveryOver_defaulted s) ((settle_only _).step (by decide) (answered.mono (by decide)))
        (l := [.block, .mbx, .clerk]) (by decide) (by decide)

end Sys2Proof.Machine

/-! SUPPORT. The frames of the packets, the requests between nodes and the links. -/

namespace Sys2Proof.Machine

open Sys2Proof

/-- Settles O52: each command's frame. -/
theorem spanFrame : Obligations.SpanFrame := by
  unfold Obligations.SpanFrame
  intro s t
  exact ⟨fun port h p => (execRead_within port h p s).only,
    fun port h p => (execRow_within port h p s).only,
    fun port h p => (execPromote_within port h p s).only,
    fun port h p => (execNotice_within port h p s).only,
    fun port h p => (execAbsent_within port h p s).only,
    fun port h p => (execPart_within port h p s).only,
    fun port h p => (execUpdate_within port h p s).only,
    fun port h p => (execMark_within port h p s).only,
    fun tagSlot => (execRemoteReadTimeout_within tagSlot s).only,
    fun map => (execMigrationReadIssue_within map s).only,
    fun idx => (execMigrationReadRetry_within idx s).only,
    fun port txFail rxFail lane => (execLinkTraining_within port txFail rxFail lane s).only,
    fun port x => (execLinkBringupExchange_within port x s).only,
    fun port ack => (execNakReceive_within port ack s).only,
    fun port f => (execFlitReceive_within port f s).only,
    fun port chan idx => (execPacketSend_within port chan idx s).only,
    fun port r => (execLinkRetrainDone_within port r s).only,
    fun port => (execRecoverRetrainTimeout_within port s).only,
    fun port h p => (execLquery_within port h p s).only,
    fun port h p => (execLstate_within port h p s).only,
    fun port => (execLqueryTimeout_within port s).only,
    fun port => (execSpanRxElectricalIdle_within port s).only,
    fun port => (execLastRxExpire_within port s).only,
    fun spot => (execQhCellUncorrectable_within spot s).only⟩

end Sys2Proof.Machine

/-! SUPPORT. The Span ports: what a step at one of them leaves of every port, and what the flits it sends leave of it. -/

namespace Sys2Proof.Machine

open Sys2Proof

/-! ## Steps at one port -/

theorem portAt_of_only {l : List Part} {s t : State} (h : OnlyIn l s t) (span : Part.span ∉ l) (p : Nat) : portAt t p = portAt s p := by
  unfold portAt
  rw [h.same .span span]

/-- From `s` to `t` one port becomes `q`, and every other port is as before. -/
structure PortBecomes (port : Nat) (q : Port) (s t : State) : Prop where
  here : portAt t port = q
  others : ∀ p, p ≠ port → portAt t p = portAt s p

theorem PortBecomes.refl (port : Nat) (s : State) : PortBecomes port (portAt s port) s s := ⟨rfl, fun _ _ => rfl⟩

theorem PortBecomes.trans {port : Nat} {q r : Port} {s t u : State} (h : PortBecomes port q s t) (k : PortBecomes port r t u) :
    PortBecomes port r s u := ⟨k.here, fun p other => (k.others p other).trans (h.others p other)⟩

/-- A step that leaves the ports as they are. -/
theorem PortBecomes.step {port : Nat} {q : Port} {s t u : State} (h : PortBecomes port q s t) (k : ∀ p, portAt u p = portAt t p) :
    PortBecomes port q s u := ⟨(k port).trans h.here, fun p other => (k p).trans (h.others p other)⟩

theorem PortBecomes.portMod {port : Nat} {q : Port} {s t : State} (h : PortBecomes port q s t) (f : Port → Port) :
    PortBecomes port (f q) s (portMod port f t) :=
  h.trans ⟨by rw [portAt_portMod_same, h.here], fun _ other => portAt_portMod_other other f t⟩

theorem portMod_becomes (port : Nat) (f : Port → Port) (s : State) : PortBecomes port (f (portAt s port)) s (portMod port f s) :=
  (PortBecomes.refl port s).portMod f

/-- What is done at a port depends on that port only. -/
theorem portMod_congr {port : Nat} {f g : Port → Port} {s : State} (h : f (portAt s port) = g (portAt s port)) :
    portMod port f s = portMod port g s :=
  congrArg (fun q => { s with span := { s.span with ports := mset s.span.ports port q } }) h

theorem portAt_raise (e : Nat) (s : State) (p : Nat) : portAt (raise e s) p = portAt s p := portAt_of_only (raise_only e s) (by decide) p

theorem portAt_linkChanged (port : Nat) (s : State) (p : Nat) : portAt (linkChanged port s) p = portAt s p := portAt_raise _ _ p

theorem portAt_countEv (i code x : Nat) (s : State) (p : Nat) : portAt (countEv i code x s) p = portAt s p :=
  portAt_of_only (countEv_only i code x s) (by decide) p

/-- The flits a port sends are counted, which changes no port. -/
theorem PortBecomes.transmit {port : Nat} {q : Port} {s t : State} (h : PortBecomes port q s t) (f : Port → Port) :
    PortBecomes port (f q) s (transmit port f t) :=
  (h.portMod f).step fun p => (portAt_countEv _ _ _ _ p).trans (portAt_countEv _ _ _ _ p)

theorem transmit_becomes (port : Nat) (f : Port → Port) (s : State) : PortBecomes port (f (portAt s port)) s (transmit port f s) :=
  (PortBecomes.refl port s).transmit f

/-- Cells that a port owes, by channel and number. -/
def oweAll (l : List (Nat × Nat)) (m : AMap Nat) : AMap Nat := l.foldl (fun m x => mmod m x.1 0 (fun n => n + x.2)) m

theorem PortBecomes.oweCells {port : Nat} {q : Port} {s t : State} (h : PortBecomes port q s t) (l : List (Nat × Nat)) :
    PortBecomes port { q with owed := oweAll l q.owed } s (oweCells (l.map fun x => (port, x.1, x.2)) t) := by
  induction l generalizing q t with
  | nil => exact h
  | cons x l ih => exact ih (h.portMod fun p => { p with owed := mmod p.owed x.1 0 (fun n => n + x.2) })

theorem linkUp_of_state {s t : State} {port : Nat} (up : linkUp s port = true) (same : (portAt t port).state = (portAt s port).state) :
    linkUp t port = true := by
  unfold linkUp at up ⊢
  rwa [same]

theorem linkUp_of_up {s : State} {port : Nat} (link : port < 8) (up : (portAt s port).state = .up) : linkUp s port = true := by
  simp [linkUp, link, up]

theorem linkChanged_fires (port : Nat) (s : State) : bit (linkChanged port s).gbl.event evSpanLink = true := bit_raise (by decide) _

/-! ## The flits a port sends -/

/-- A port apart from the flits it sends, the cells it owes and the packets it has received. -/
def Port.still (p : Port) : Port :=
  { p with flits := [], wire := [], txSeq := 0, txBytes := [], txFirst := 15, nakOut := false, owed := [], rx := [] }

/-- A field that no flit and no packet received changes. -/
theorem kept_of_still {α : Type} {p q : Port} (h : q.still = p.still) (field : Port → α)
    (apart : ∀ x, field x.still = field x := by exact fun _ => rfl) : field q = field p := by
  rw [← apart q, h, apart p]

/-- From `p` to `q` these flits leave, and are held until an ACK covers them. -/
structure Sent (l : List Flit) (p q : Port) : Prop where
  wire : q.wire = p.wire ++ l
  flits : q.flits = p.flits ++ l
  still : q.still = p.still

theorem Sent.none (p : Port) : Sent [] p p := ⟨(List.append_nil _).symm, (List.append_nil _).symm, rfl⟩

theorem Sent.append {l m : List Flit} {p q r : Port} (h : Sent l p q) (k : Sent m q r) : Sent (l ++ m) p r :=
  ⟨by rw [k.wire, h.wire, List.append_assoc], by rw [k.flits, h.flits, List.append_assoc], k.still.trans h.still⟩

/-- The flit that leaves (R356, R357). -/
theorem emit_sent (idle : Bool) (first : Nat) (payload : List Byte) (p : Port) : ∃ g, Sent [g] p (p.emit idle first payload) ∧
    g.idle = idle ∧ g.payload = payload ∧ g.nak = p.nakOut ∧ g.ack = (p.rxSeq + 4095) % 4096 :=
  ⟨_, ⟨rfl, rfl, rfl⟩, rfl, rfl, rfl, rfl⟩

/-- An IDLE flit answers what was received, where the window has room (R356). -/
theorem emitIdle_answers {p : Port} (room : 0 < p.window) : ∃ g, p.emitIdle.wire = p.wire ++ [g] ∧ g.nak = p.nakOut ∧
    g.ack = (p.rxSeq + 4095) % 4096 := by
  obtain ⟨g, sent, -, -, nak, ack⟩ := emit_sent true 15 (List.replicate 240 0) p
  unfold Port.emitIdle
  rw [if_pos room]
  exact ⟨g, sent.wire, nak, ack⟩

theorem emitIdle_sent (p : Port) : ∃ l, Sent l p p.emitIdle := by
  unfold Port.emitIdle
  split
  · obtain ⟨g, sent, -⟩ := emit_sent true 15 (List.replicate 240 0) p
    exact ⟨_, sent⟩
  · exact ⟨_, .none p⟩

theorem giveCredit_sent (n : Nat) (p : Port) : ∃ l, Sent l p (Port.giveCredit n p) := by
  induction n generalizing p with
  | zero => exact ⟨_, .none p⟩
  | succ n ih =>
    unfold Port.giveCredit
    split
    · obtain ⟨_, first⟩ := emitIdle_sent p
      obtain ⟨_, rest⟩ := ih p.emitIdle
      exact ⟨_, first.append rest⟩
    · exact ⟨_, .none p⟩

/-- From `p` to `q` flits of packets leave: their payloads and the bytes that wait after them are `bs` (R355). -/
structure Carried (l : List Flit) (bs : List Byte) (p q : Port) : Prop where
  sent : Sent l p q
  bytes : l.flatMap Flit.payload ++ q.txBytes = bs
  full : ∀ g, g ∈ l → g.idle = false

theorem Carried.append {l m : List Flit} {bs more : List Byte} {p q r : Port} (h : Carried l bs p q)
    (k : Carried m (q.txBytes ++ more) q r) : Carried (l ++ m) (bs ++ more) p r := by
  refine ⟨h.sent.append k.sent, ?_, fun g mem => (List.mem_append.mp mem).elim (h.full g) (k.full g)⟩
  rw [List.flatMap_append, List.append_assoc, k.bytes, ← List.append_assoc, h.bytes]

theorem bytesWait_carried (bs : List Byte) (first : Nat) (p : Port) : Carried [] bs p { p with txBytes := bs, txFirst := first } :=
  ⟨⟨(List.append_nil _).symm, (List.append_nil _).symm, rfl⟩, rfl, fun _ => nofun⟩

theorem emitFull_carried (n : Nat) (bs : List Byte) (first : Nat) (p : Port) : ∃ l, Carried l bs p (Port.emitFull n bs first p) := by
  induction n generalizing bs first p with
  | zero => exact ⟨_, bytesWait_carried bs first p⟩
  | succ n ih =>
    unfold Port.emitFull
    split
    · exact ⟨_, bytesWait_carried bs _ p⟩
    · obtain ⟨g, sent, idle, payload, -⟩ := emit_sent false first (bs.take 240) p
      obtain ⟨l, rest⟩ := ih (bs.drop 240) 15 (p.emit false first (bs.take 240))
      refine ⟨g :: l, sent.append rest.sent, ?_, fun x mem => (List.mem_cons.mp mem).elim (fun same => same ▸ idle) (rest.full x)⟩
      rw [List.flatMap_cons, List.append_assoc, rest.bytes, payload, List.take_append_drop]

theorem flush_carried (p : Port) : ∃ l z, Carried l (p.txBytes ++ List.replicate z 0) p p.flush := by
  unfold Port.flush
  split
  · exact ⟨[], 0, .none p, (List.append_nil _).symm, fun _ => nofun⟩
  · obtain ⟨g, ⟨wire, flits, still⟩, idle, payload, -⟩ :=
      emit_sent false p.txFirst (p.txBytes ++ List.replicate (240 - p.txBytes.length) 0) p
    exact ⟨[g], 240 - p.txBytes.length, ⟨wire, flits, still⟩, by simp [payload], by simpa using idle⟩

/-- The bytes that wait after a packet leave with it, or wait for the packet that follows (R355). -/
theorem Carried.thenFlush {l : List Flit} {bs : List Byte} {p q : Port} (h : Carried l bs p q) (c : Prop) [Decidable c] :
    ∃ m z, Carried m (bs ++ List.replicate z 0) p (if c then q else q.flush) := by
  split
  · exact ⟨l, 0, by rwa [List.replicate_zero, List.append_nil]⟩
  · obtain ⟨m, z, rest⟩ := flush_carried q
    exact ⟨l ++ m, z, h.append rest⟩

theorem flush_still (p : Port) : p.flush.still = p.still := by
  obtain ⟨_, _, leaves⟩ := flush_carried p
  exact leaves.sent.still

/-! ## What a packet taken leaves of the ports -/

theorem portMod_still {f : Port → Port} (port : Nat) (s : State) (n : Nat) (h : ∀ x, (f x).still = x.still := by exact fun _ => rfl) :
    (portAt (portMod port f s) n).still = (portAt s n).still := by
  by_cases same : n = port
  · subst same
    rw [portAt_portMod_same, h]
  · rw [portAt_portMod_other same]

theorem grantNow_still (port : Nat) (s : State) (n : Nat) : (portAt (grantNow port s) n).still = (portAt s n).still := by
  unfold grantNow
  split
  · refine Eq.trans ?_ (portMod_still (f := Port.giveCredit 16) port s n fun x => ?_)
    · exact congrArg Port.still ((portAt_countEv _ _ _ _ n).trans (portAt_countEv _ _ _ _ n))
    · obtain ⟨_, sent⟩ := giveCredit_sent 16 x
      exact sent.still
  · rfl

theorem returnCells_still (l : List (Nat × Nat × Nat)) (s : State) (n : Nat) :
    (portAt (returnCells l s) n).still = (portAt s n).still := by
  have owed : (portAt (oweCells l s) n).still = (portAt s n).still :=
    List.foldlRecOn (motive := fun t => (portAt t n).still = (portAt s n).still) l _ rfl fun t ht x _ =>
      (portMod_still x.1 t n).trans ht
  exact List.foldlRecOn (motive := fun t => (portAt t n).still = (portAt s n).still) (l.map Prod.fst) _ owed fun t ht p _ =>
    (grantNow_still p t n).trans ht

theorem takeRx_still (port : Nat) (k : Packet) (s : State) (n : Nat) : (portAt (takeRx port k s) n).still = (portAt s n).still := by
  refine (returnCells_still _ _ n).trans ?_
  unfold dropRx
  split
  · exact portMod_still port s n
  · rfl

end Sys2Proof.Machine

/-! SUPPORT. The link layer: training and bring-up, flits received and sent, NAKs, packets that leave, and a retrained link. -/

namespace Sys2Proof.Machine

open Sys2Proof

/-! ## Training and bring-up (R354, R363) -/

theorem lanesLost_iff (a b : Nat) : lanesLost a b = true ↔ 2 ≤ a ∨ 2 ≤ b := by simp [lanesLost]

section Training

variable {s : State} {port : Nat} (link : port < 8) (down : (portAt s port).state = .down) (valid : s.span.nodeValid = true)
  (runs : spanRuns s = true)

include link down valid runs

theorem linkTraining_fails {a b : Nat} (lost : 2 ≤ a ∨ 2 ≤ b) (lane : Nat) : exec (.linkTraining port a b lane) s =
    .next (raise evSpanLink (portMod port (fun p => { p with state := .failed }) s)) :=
  congrArg _ ((if_neg (by simp [link, down, valid, runs])).trans (if_pos ((lanesLost_iff a b).mpr lost)))

theorem linkTraining_trains {a b : Nat} (tx : a < 2) (rx : b < 2) (lane : Nat) : exec (.linkTraining port a b lane) s =
    .next (portMod port (fun p => { p.trained a b lane with state := .training }) s) :=
  congrArg _ ((if_neg (by simp [link, down, valid, runs])).trans (if_neg (by rw [lanesLost_iff]; omega)))

end Training

/-- The peer cannot be this port's: no K40, or this K40 itself (R363). -/
def peerWrong (s : State) (x : LinkExchange) : Bool := decide (x.member % 256 ≠ 0x28) || decide (x.node % 16384 = self s)

/-- A port that cannot read its peer (R363). -/
def Port.unread (p : Port) : Port :=
  { p with state := .down, wrongPeer := true, peerValid := false, peerId := 0, peerPort := 0, peerMember := 0 }

/-- A port that has met its peer. -/
def Port.met (w : Bool) (x : LinkExchange) (p : Port) : Port :=
  { p.fresh with state := if w then .down else .up, wrongPeer := w, peerValid := true, peerId := x.node % 16384,
                 peerPort := x.port % 8, peerMember := x.member % 256 }

section Bringup

variable {s : State} {port : Nat} (link : port < 8) (training : (portAt s port).state = .training)

include link training

theorem linkBringup_unread : exec (.linkBringupExchange port none) s =
    .next (raise evSpanLink (portMod port Port.unread s)) :=
  congrArg _ (if_neg (by simp [link, training]))

theorem linkBringup_wrong {x : LinkExchange} (wrong : peerWrong s x = true) : exec (.linkBringupExchange port (some x)) s =
    .next (raise evSpanLink (portMod port (Port.met true x) s)) := by
  have named : x.member % 256 ≠ 0x28 ∨ x.node % 16384 = self s := by simpa [peerWrong] using wrong
  refine congrArg _ ((if_neg (by simp [link, training])).trans ?_)
  simp only [named, if_true, decide_true]
  rfl

theorem linkBringup_meets {x : LinkExchange} (right : peerWrong s x = false) : exec (.linkBringupExchange port (some x)) s =
    .next (grantNow port (linkChanged port (portMod port (Port.met false x) s))) := by
  have named : ¬ (x.member % 256 ≠ 0x28 ∨ x.node % 16384 = self s) := by simpa [peerWrong] using right
  refine congrArg _ ((if_neg (by simp [link, training])).trans ?_)
  simp only [named, if_false, decide_false]
  rfl

end Bringup

theorem PortBecomes.grantNow {port : Nat} {q : Port} {s t : State} (h : PortBecomes port q s t) (up : linkUp t port = true) :
    PortBecomes port (Port.giveCredit 16 q) s (grantNow port t) := by
  unfold Machine.grantNow
  rw [if_pos up]
  exact h.transmit _

theorem grantNow_gbl (port : Nat) (s : State) : (grantNow port s).gbl = s.gbl := by
  unfold grantNow
  split <;> rfl

/-! ## Flits received (R356, R357, R359, R360, R374) -/

/-- The port with the codewords of a flit counted (R353). -/
def Port.decoded (f : Flit) (p : Port) : Port :=
  { p with corrected := satAdd 32 p.corrected f.fecCorrected, uncorrectable := satAdd 16 p.uncorrectable f.fecFailed }

/-- What a decoded flit does at its port. -/
theorem flitReceive_decodes {s : State} {port : Nat} (up : linkUp s port = true) (f : Flit) : exec (.flitReceive port f) s =
    .next (if accepts (portAt s port) f then takeFlit port f (portMod port (Port.decoded f) s)
      else transmit port (fun p => Port.emitIdle { p with nakOut := true }) (portMod port (Port.decoded f) s)) := by
  refine congrArg _ ((if_neg (by simp [up])).trans ?_)
  have same : accepts (portAt (portMod port (Port.decoded f) s) port) f = accepts (portAt s port) f := by
    rw [portAt_portMod_same]
    unfold accepts Port.accept
    cases f.nak <;> rfl
  rw [← same]
  rfl

/-- The state in which an accepted flit has been taken, and not yet answered. -/
def flitTaken (port : Nat) (f : Flit) (c : Cut) (s : State) : State :=
  countEv (islSpan port) 0x601 1 (corruptPacket port c.corrupt c.partials
    (oweCells (c.freed.map fun x => (port, x.1, x.2)) (portMod port (fun p => p.accept f c) s)))

theorem takeFlit_answers {port : Nat} {f : Flit} {s : State} {c : Cut} (cut : c = flitPackets (portAt s port).rxBytes f) :
    takeFlit port f s = answerFlit port f.idle
      (if f.nak then takeNak port (f.ack % 4096) (flitTaken port f c s) else flitTaken port f c s) := by
  subst cut
  rfl

/-- The port that has taken a flit. -/
def Port.took (f : Flit) (c : Cut) (p : Port) : Port :=
  { p.accept f c with owed := oweAll c.freed (p.accept f c).owed, corrupt := satAdd 8 (p.accept f c).corrupt c.corrupt }

theorem PortBecomes.flitTaken {port : Nat} {q : Port} {s t : State} (h : PortBecomes port q s t) (f : Flit) (c : Cut) :
    PortBecomes port (q.took f c) s (flitTaken port f c t) := by
  have owed := (h.portMod fun p => p.accept f c).oweCells c.freed
  exact (owed.portMod fun p => { p with corrupt := satAdd 8 p.corrupt c.corrupt }).step fun p => portAt_countEv _ _ _ _ p

theorem PortBecomes.answerFlit {port : Nat} {q : Port} {s t : State} (h : PortBecomes port q s t) (up : linkUp t port = true)
    (idle : Bool) : PortBecomes port (Port.giveCredit 16 (if idle then q else q.emitIdle)) s (answerFlit port idle t) := by
  unfold Machine.answerFlit
  rw [if_pos up]
  exact h.transmit fun p => Port.giveCredit 16 (if idle then p else p.emitIdle)

/-- A flit that is next, sound and within the cells is accepted (R356). -/
theorem accepts_of {p : Port} {f : Flit} {c : Cut} (cut : c = flitPackets p.rxBytes f) (crc : crcGood f = true) (fec : f.fecFailed = 0)
    (next : f.fseq = p.rxSeq) (room : (p.accept f c).rxCells ≤ 32768) : accepts p f = true := by
  subst cut
  simp [accepts, crc, fec, next, room]

theorem accepts_not {p : Port} {f : Flit} (h : crcGood f = false ∨ f.fecFailed ≠ 0 ∨ f.fseq ≠ p.rxSeq ∨
    32768 < (p.accept f (flitPackets p.rxBytes f)).rxCells) : accepts p f = false := by
  rcases h with h | h | h | h <;> simp [accepts, h]

theorem flitTaken_up {s : State} {port : Nat} (up : linkUp s port = true) (f : Flit) (c : Cut) :
    linkUp (flitTaken port f c (portMod port (Port.decoded f) s)) port = true := by
  have state := congrArg Port.state ((portMod_becomes port (Port.decoded f) s).flitTaken f c).here
  refine linkUp_of_state up (state.trans ?_)
  unfold Port.took Port.accept
  split <;> rfl

section Accepted

variable {s : State} {port : Nat} {f : Flit} {c : Cut} (up : linkUp s port = true) (cut : c = flitPackets (portAt s port).rxBytes f)
  (taken : accepts (portAt s port) f = true)

include up cut taken

theorem flitReceive_takes : exec (.flitReceive port f) s = .next (answerFlit port f.idle
    (if f.nak then takeNak port (f.ack % 4096) (flitTaken port f c (portMod port (Port.decoded f) s))
      else flitTaken port f c (portMod port (Port.decoded f) s))) := by
  rw [flitReceive_decodes up, if_pos taken, takeFlit_answers (c := c) (by rw [portAt_portMod_same, cut]; rfl)]

/-- A flit with NAK: the NAK is taken after what the flit brings (R357). -/
theorem flitReceive_nak (nak : f.nak = true) : ∃ u w, portAt u port = ((portAt s port).decoded f).took f c ∧
    exec (.nakReceive port (f.ack % 4096)) u = .next w ∧ exec (.flitReceive port f) s = .next (answerFlit port f.idle w) := by
  refine ⟨_, _, ((portMod_becomes port (Port.decoded f) s).flitTaken f c).here,
    congrArg Host.Outcome.next (if_pos (flitTaken_up up f c)), ?_⟩
  rw [flitReceive_takes up cut taken, nak]
  rfl

theorem flitReceive_answers (ack : f.nak = false) : Leads (exec (.flitReceive port f) s) (PortBecomes port
    (Port.giveCredit 16 (if f.idle then ((portAt s port).decoded f).took f c else (((portAt s port).decoded f).took f c).emitIdle)) s) := by
  refine ⟨_, flitReceive_takes up cut taken, ?_⟩
  simp only [ack, Bool.false_eq_true, if_false]
  exact ((portMod_becomes port (Port.decoded f) s).flitTaken f c).answerFlit (flitTaken_up up f c) f.idle

end Accepted

/-- The IDLE flit that answers is on the link, whatever credit follows it. -/
theorem answer_onWire {p : Port} (room : 0 < p.window) : ∃ g, g ∈ (Port.giveCredit 16 p.emitIdle).wire ∧ g.nak = p.nakOut ∧
    g.ack = (p.rxSeq + 4095) % 4096 := by
  obtain ⟨g, wire, nak, ack⟩ := emitIdle_answers room
  obtain ⟨l, after⟩ := giveCredit_sent 16 p.emitIdle
  exact ⟨g, by simp [after.wire, wire], nak, ack⟩

/-- A flit that is not accepted is answered with a NAK of the one expected (R356). -/
theorem flitReceive_refuses {s : State} {port : Nat} {f : Flit} (up : linkUp s port = true) (refused : accepts (portAt s port) f = false) :
    Leads (exec (.flitReceive port f) s)
      (PortBecomes port (Port.emitIdle { (portAt s port).decoded f with nakOut := true }) s) := by
  refine ⟨_, flitReceive_decodes up f, ?_⟩
  rw [if_neg (by simp [refused])]
  exact (portMod_becomes port (Port.decoded f) s).transmit fun p => Port.emitIdle { p with nakOut := true }

/-! ## NAKs (R357, R358) -/

/-- The port that has taken a NAK: what it covers is delivered, the rest sent again, and the NAKs for one FSEQ are counted. -/
def Port.nak (ack : Nat) (p : Port) : Port :=
  Port.replay { ackTo (ack % 4096) p with
    naks := if p.naks.1 = (ack + 1) % 4096 then ((ack + 1) % 4096, p.naks.2 + 1) else ((ack + 1) % 4096, 1) }

theorem nak_port {p : Port} {ack n : Nat} {kept : List Flit} (count : n = if p.naks.1 = (ack + 1) % 4096 then p.naks.2 + 1 else 1)
    (held : kept = (p.flits.filter (fun g => !covered (ack % 4096) g.fseq)).map (fun g => p.stamp { g with nak := false })) :
    p.nak ack = { p with
      unacked := p.unacked.filter (fun u => !covered (ack % 4096) u.last), flits := kept, wire := p.wire ++ kept
      replays := satAdd 24 p.replays 1, naks := ((ack + 1) % 4096, n) } := by
  subst count held
  unfold Port.nak
  split <;> rfl

theorem nakReceive_takes {s : State} {port : Nat} (up : linkUp s port = true) (ack : Nat) : exec (.nakReceive port ack) s =
    .next (if 16 ≤ ((portAt s port).nak ack).naks.2 then enterRecover port (transmit port (Port.nak ack) s)
      else transmit port (Port.nak ack) s) := by
  refine congrArg _ ((if_pos up).trans ?_)
  rw [← (transmit_becomes port (Port.nak ack) s).here]
  rfl

/-- A port that loses its link: LAST_RX is recorded and the loss counted (R358, R384). -/
def Port.lost (st : LinkState) (p : Port) : Port :=
  { p.record with state := st, linkDowns := satAdd 8 p.linkDowns 1, naks := (0, 0), querying := false }

/-- The packet bytes that wait leave, and the link is lost. -/
def linkLost (port : Nat) (st : LinkState) (s : State) : State := portMod port (Port.lost st) (transmit port Port.flush s)

/-- LAST_RX does not follow from what was sent. -/
theorem flush_record (p : Port) : p.flush.record = { p.flush with lastRx := some ((p.rxSeq + 4095) % 4096) } := by
  rw [← kept_of_still (flush_still p) Port.rxSeq]
  rfl

theorem flush_lost (st : LinkState) (p : Port) : p.flush.lost st = { p.flush with
    state := st, lastRx := some ((p.rxSeq + 4095) % 4096), linkDowns := satAdd 8 p.linkDowns 1, naks := (0, 0), querying := false } := by
  rw [← kept_of_still (flush_still p) Port.linkDowns, Port.lost, flush_record]

theorem PortBecomes.linkLost {port : Nat} {q : Port} {s t : State} (h : PortBecomes port q s t) (st : LinkState) :
    PortBecomes port (q.flush.lost st) s (linkLost port st t) := (h.transmit Port.flush).portMod (Port.lost st)

theorem enterRecover_recovers {s : State} {port : Nat} (up : (portAt s port).state = .up) :
    enterRecover port s = rerouteQueue port (linkChanged port (linkLost port .recover s)) := by
  unfold enterRecover
  simp only [up, reduceCtorEq, if_false]
  rfl

/-- A port under a Shutter settles its flits with the peer at once (R386). -/
theorem enterRecover_asks {s : State} {port : Nat} (shut : (portAt s port).state = .shuttering) :
    enterRecover port s = askPeer port (rerouteQueue port (linkLost port .shuttering s)) := by
  unfold enterRecover
  simp only [shut, if_true]
  rfl

section Nak

variable {s : State} {port ack : Nat} {q : Port} (up : linkUp s port = true) (taken : (portAt s port).nak ack = q)

include taken

theorem nak_becomes : PortBecomes port q s (transmit port (Port.nak ack) s) := taken ▸ transmit_becomes port (Port.nak ack) s

include up

theorem nakReceive_replays (few : q.naks.2 < 16) : Leads (exec (.nakReceive port ack) s) (PortBecomes port q s) := by
  refine ⟨_, nakReceive_takes up ack, ?_⟩
  rw [taken, if_neg (Nat.not_le.mpr few)]
  exact nak_becomes taken

variable (many : 16 ≤ q.naks.2)

include many

theorem nakReceive_recovers (state : q.state = .up) : ∃ w,
    exec (.nakReceive port ack) s = .next (rerouteQueue port (linkChanged port w)) ∧ portAt w port = q.flush.lost .recover := by
  have made := nak_becomes taken
  refine ⟨_, ?_, (made.linkLost .recover).here⟩
  rw [nakReceive_takes up, taken, if_pos many, enterRecover_recovers (by rw [made.here, state])]

theorem nakReceive_asks (state : q.state = .shuttering) : ∃ w,
    exec (.nakReceive port ack) s = .next (askPeer port (rerouteQueue port w)) ∧ portAt w port = q.flush.lost .shuttering := by
  have made := nak_becomes taken
  refine ⟨_, ?_, (made.linkLost .shuttering).here⟩
  rw [nakReceive_takes up, taken, if_pos many, enterRecover_asks (by rw [made.here, state])]

end Nak

/-! ## Packets that leave (R355, R359, R375, R378) -/

/-- A packet that has left its queue: its cells are spent and it awaits ACK. -/
def Port.leaving (chan idx : Nat) (e : Queued) (k : Packet) (p : Port) : Port :=
  { p with
    queues := mset p.queues chan ((mgetD p.queues chan []).eraseIdx idx)
    credit := mmod p.credit chan 0 (fun c => c - pktCells e.pkt.body)
    unacked := p.unacked ++ [{ first := p.txSeq, last := (p.txSeq + p.flitsFor (packetBytes k).length + 4095) % 4096, chan := chan,
                               pkt := e.pkt }] }

theorem send_carries (chan idx : Nat) {e : Queued} {k : Packet} (lane : k = { e.pkt with hdr := { e.pkt.hdr with vl := chan % 2 } })
    (p : Port) : ∃ l z, Carried l (p.txBytes ++ packetBytes k ++ List.replicate z 0) (p.leaving chan idx e k) (p.send chan idx e) := by
  subst lane
  obtain ⟨l, full⟩ := emitFull_carried _ _ _ _
  exact full.thenFlush _

theorem leaving_queue (chan idx : Nat) (e : Queued) (k : Packet) (p : Port) :
    mgetD (p.leaving chan idx e k).queues chan [] = (mgetD p.queues chan []).eraseIdx idx :=
  congrArg (Option.getD · []) (mget_mset_same _ _ _)

theorem leaving_credit (chan idx : Nat) (e : Queued) (k : Packet) (p : Port) :
    mgetD (p.leaving chan idx e k).credit chan 0 = mgetD p.credit chan 0 - pktCells e.pkt.body :=
  mgetD_mmod_same p.credit chan 0 fun c => c - pktCells e.pkt.body

/-- The state in which a packet has left and is on the link. -/
def packetSent (port chan idx : Nat) (e : Queued) (k : Packet) (s : State) : State :=
  { transmit port (Port.send chan idx e) s with spanWire := s.spanWire ++ [(port, k)] }

theorem packetSent_becomes (port chan idx : Nat) (e : Queued) (k : Packet) (s : State) :
    PortBecomes port ((portAt s port).send chan idx e) s (packetSent port chan idx e k s) :=
  (transmit_becomes port (Port.send chan idx e) s).step (portAt_of_only (setSpanWire_only _ _) (by decide))

section Leaves

variable {s : State} {port chan idx : Nat} {e : Queued} {k : Packet} (up : linkUp s port = true) (channel : chan < 8)
  (queued : (mgetD (portAt s port).queues chan [])[idx]? = some e) (go : (portAt s port).mayGo chan idx e = true)
  (lane : k = { e.pkt with hdr := { e.pkt.hdr with vl := chan % 2 } })

include up channel queued go lane

theorem packetSend_sends : exec (.packetSend port chan idx) s = .next (returnCells e.lent (packetSent port chan idx e k s)) := by
  subst lane
  change execPacketSend port chan idx s = _
  unfold execPacketSend
  simp only [queued, up, go, Nat.not_le.mpr channel, Bool.not_true, Bool.false_eq_true, or_self, if_false]
  rfl

end Leaves

/-! ## A link retrained (R354, R384 to R386) -/

theorem recovering_iff (s : State) (port : Nat) : recovering s port false = true ↔
    port < 8 ∧ (portAt s port).state = .recover ∧ (portAt s port).querying = false := by
  simp [recovering, and_assoc]

theorem resume_recovered (p : Port) (rx : Nat) : (p.resume rx).recovered = p.recovered := by
  unfold Port.resume
  dsimp only
  split
  · obtain ⟨_, idle⟩ := emitIdle_sent (ackTo (rx % 4096) { p.record with state := .up, nakOut := false })
    exact kept_of_still idle.still Port.recovered
  · rfl

/-- The state in which the link of a port is UP again. -/
def linkResumed (port : Nat) (r : RetrainIn) (s : State) : State :=
  transmit port (fun p => Port.resume (p.trained r.txFail r.rxFail r.lane) r.peerLastRx) s

/-- The same where the port has counted its recovery. -/
def linkRecovered (port : Nat) (r : RetrainIn) (s : State) : State :=
  linkChanged port (portMod port (fun p => { p with recovered := satAdd 8 p.recovered 1 }) (linkResumed port r s))

theorem linkResumed_becomes (port : Nat) (r : RetrainIn) (s : State) :
    PortBecomes port (Port.resume ((portAt s port).trained r.txFail r.rxFail r.lane) r.peerLastRx) s (linkResumed port r s) :=
  transmit_becomes port (fun p => Port.resume (p.trained r.txFail r.rxFail r.lane) r.peerLastRx) s

theorem linkResumed_gbl (port : Nat) (r : RetrainIn) (s : State) : (linkResumed port r s).gbl = s.gbl := rfl

theorem linkRecovered_becomes (port : Nat) (r : RetrainIn) (s : State) :
    PortBecomes port { Port.resume ((portAt s port).trained r.txFail r.rxFail r.lane) r.peerLastRx with
      recovered := satAdd 8 (portAt s port).recovered 1 } s (linkRecovered port r s) := by
  have made := ((linkResumed_becomes port r s).portMod fun p => { p with recovered := satAdd 8 p.recovered 1 }).step
    (portAt_linkChanged port _)
  rw [resume_recovered] at made
  exact made

/-- A port whose link was UP, with its lanes lost. -/
def linkFailed (port : Nat) (s : State) : State :=
  portMod port (fun p => { p.record with state := .failed, naks := (0, 0) }) (transmit port Port.flush s)

theorem linkFailed_here (port : Nat) (s : State) : portAt (linkFailed port s) port = { (portAt s port).flush with
    state := .failed, lastRx := some (((portAt s port).rxSeq + 4095) % 4096), naks := (0, 0) } := by
  refine ((transmit_becomes port Port.flush s).portMod fun p => { p.record with state := .failed, naks := (0, 0) }).here.trans ?_
  rw [flush_record]

theorem failLink_up {s : State} {port : Nat} (up : (portAt s port).state = .up) :
    failLink port s = askPeer port (rerouteQueue port (linkChanged port (linkFailed port s))) := if_pos up

theorem failLink_down {s : State} {port : Nat} (down : (portAt s port).state ≠ .up) :
    failLink port s = askPeer port (raise evSpanLink (portMod port (fun p => { p with state := .failed }) s)) := if_neg down

section Retrain

variable {s : State} {port : Nat} {r : RetrainIn}

theorem linkRetrainDone_fails (retrains : recovering s port false = true ∨ port < 8 ∧ (portAt s port).state = .up)
    (lost : lanesLost r.txFail r.rxFail = true) : exec (.linkRetrainDone port r) s = .next (failLink port s) :=
  congrArg _ ((if_neg (by rcases retrains with h | h <;> simp [h])).trans (if_pos lost))

variable (sound : lanesLost r.txFail r.rxFail = false)

include sound

theorem linkRetrainDone_recovers (recovers : recovering s port false = true) :
    exec (.linkRetrainDone port r) s = .next (linkRecovered port r s) := by
  obtain ⟨-, state, -⟩ := (recovering_iff s port).mp recovers
  exact congrArg _ ((if_neg (by simp [recovers])).trans ((if_neg (by simp [sound])).trans (if_neg (by simp [state]))))

theorem linkRetrainDone_resumes (link : port < 8) (up : (portAt s port).state = .up) :
    exec (.linkRetrainDone port r) s = .next (linkResumed port r s) :=
  congrArg _ ((if_neg (by simp [link, up])).trans ((if_neg (by simp [sound])).trans (if_pos up)))

end Retrain

theorem lastRxExpire_forgets {port : Nat} (link : port < 8) (s : State) : exec (.lastRxExpire port) s =
    .next (portMod port (fun p => { p with lastRx := none }) s) := congrArg _ (if_pos link)

/-! ## The statement -/

/-- Settles O38: each command of the link layer, by what its port becomes. -/
theorem linkLayer : Obligations.LinkLayer := by
  unfold Obligations.LinkLayer
  refine ⟨fun s port a b lane link down valid runs => ⟨fun lost => ?fails, fun tx rx => ?trains⟩,
    fun s port link training => ⟨?unread, fun x w q hw hq => ?meets⟩,
    fun s port f c q up cut crc fec next room hq => ⟨fun nak => ?nakFlit, fun ack r hr => ?flit⟩,
    fun s port f q up refused hq => ?refused,
    fun s port ack n kept q up count held hq => ⟨fun few => ?nak, fun many state => ?recover, fun many state => ?asks⟩,
    fun s port chan idx e k up channel queued lane eligible credit window order => ?send,
    fun s port rx a b lane q tx rx' hq => ⟨fun recovers => ?resumes, fun link up => ?retrains⟩,
    fun s port rx a b lane lost => ⟨fun recovers => ?lostAgain, fun link up => ?lostNow⟩,
    fun s port link => ?expires⟩
  case fails =>
    have made := (portMod_becomes port (fun p => { p with state := .failed }) s).step (portAt_raise evSpanLink _)
    exact ⟨_, linkTraining_fails link down valid runs lost lane, made.here, bit_raise (by decide) _, made.others⟩
  case trains =>
    have made := portMod_becomes port (fun p => { p.trained a b lane with state := .training }) s
    exact ⟨_, linkTraining_trains link down valid runs tx rx lane, made.here, made.others⟩
  case unread =>
    have made := (portMod_becomes port Port.unread s).step (portAt_raise evSpanLink _)
    exact ⟨_, linkBringup_unread link training, made.here, bit_raise (by decide) _⟩
  case meets =>
    have met : q = Port.met w x (portAt s port) := hq
    change w = peerWrong s x at hw
    cases w with
    | true =>
      have made := (portMod_becomes port (Port.met true x) s).step (portAt_raise evSpanLink _)
      exact ⟨_, linkBringup_wrong link training hw.symm, made.here.trans met.symm, bit_raise (by decide) _⟩
    | false =>
      have made := (portMod_becomes port (Port.met false x) s).step (portAt_linkChanged port _)
      refine ⟨_, linkBringup_meets link training hw.symm, ?_, ?_⟩
      · rw [met]
        exact (made.grantNow (linkUp_of_up link (congrArg Port.state made.here))).here
      · rw [grantNow_gbl]
        exact linkChanged_fires port _
  case nakFlit =>
    have took : q = ((portAt s port).decoded f).took f c := by
      rw [hq, Port.took, Port.accept, nak]
      rfl
    rw [took]
    exact flitReceive_nak up cut (accepts_of cut crc fec next room) nak
  case flit =>
    have took : r = ((portAt s port).decoded f).took f c := by
      rw [hr, hq, Port.took, Port.accept, ack]
      rfl
    have rxSeq : r.rxSeq = ((portAt s port).rxSeq + 1) % 4096 := by rw [hr, hq]
    have nakOut : r.nakOut = false := by rw [hr, hq]
    obtain ⟨t, leads, made⟩ := flitReceive_answers up cut (accepts_of cut crc fec next room) ack
    rw [← took] at made
    refine ⟨t, leads, made.here, fun busy room => ?_, made.others⟩
    obtain ⟨g, sent, gnak, gack⟩ := answer_onWire room
    refine ⟨g, ?_, ?_, gnak.trans nakOut⟩
    · rw [made.here, busy]
      exact sent
    · rw [gack, rxSeq, next]
      omega
  case refused =>
    obtain ⟨t, leads, made⟩ := flitReceive_refuses up (accepts_not refused)
    have same : q = { (portAt s port).decoded f with nakOut := true } := hq
    rw [← same] at made
    refine ⟨t, leads, made.here, fun room => ?_, made.others⟩
    obtain ⟨g, wire, nak, ack⟩ := emitIdle_answers room
    exact ⟨g, by rw [made.here, wire, hq], by rw [nak, hq], by rw [ack, hq]⟩
  case nak =>
    obtain ⟨t, leads, made⟩ := nakReceive_replays up ((nak_port count held).trans hq.symm) (by rw [hq]; exact few)
    exact ⟨t, leads, made.here, made.others⟩
  case recover =>
    rw [← flush_lost]
    exact nakReceive_recovers up ((nak_port count held).trans hq.symm) (by rw [hq]; exact many) (by rw [hq, state])
  case asks =>
    rw [← flush_lost]
    exact nakReceive_asks up ((nak_port count held).trans hq.symm) (by rw [hq]; exact many) (by rw [hq, state])
  case send =>
    have go : (portAt s port).mayGo chan idx e = true := by simp [Port.mayGo, eligible, credit, window, order]
    have made := packetSent_becomes port chan idx e k s
    obtain ⟨l, z, leaves⟩ := send_carries chan idx lane (portAt s port)
    have still := leaves.sent.still
    refine ⟨_, packetSend_sends up channel queued go lane, rfl, ?_, ?_, ?_, ⟨l, z, ?_⟩, made.others⟩
    · rw [made.here, kept_of_still still Port.queues, leaving_queue]
    · rw [made.here, kept_of_still still Port.credit, leaving_credit]
    · rw [made.here, kept_of_still still Port.unacked]
      rfl
    · rw [made.here]
      exact ⟨leaves.sent.wire, leaves.sent.flits, leaves.bytes, leaves.full⟩
  case resumes =>
    refine ⟨_, linkRetrainDone_recovers (by simp [lanesLost, tx, rx']) recovers, ?_, linkChanged_fires port _⟩
    rw [hq]
    exact (linkRecovered_becomes port ⟨rx, a, b, lane⟩ s).here
  case retrains =>
    refine ⟨_, linkRetrainDone_resumes (by simp [lanesLost, tx, rx']) link up, ?_, linkResumed_gbl port _ s⟩
    rw [hq]
    exact (linkResumed_becomes port ⟨rx, a, b, lane⟩ s).here
  case lostAgain =>
    obtain ⟨-, state, -⟩ := (recovering_iff s port).mp recovers
    have made := (portMod_becomes port (fun p => { p with state := .failed }) s).step (portAt_raise evSpanLink _)
    refine ⟨_, ?_, made.here, bit_raise (by decide) _⟩
    rw [linkRetrainDone_fails (.inl recovers) ((lanesLost_iff a b).mpr lost), failLink_down (by simp [state])]
  case lostNow =>
    refine ⟨_, ?_, linkFailed_here port s⟩
    rw [linkRetrainDone_fails (.inr ⟨link, up⟩) ((lanesLost_iff a b).mpr lost), failLink_up up]
  case expires =>
    have made := portMod_becomes port (fun p => { p with lastRx := none }) s
    exact ⟨_, lastRxExpire_forgets link s, made.here, made.others⟩

end Sys2Proof.Machine

/-! SUPPORT. Losing a link: the peer asked by other routes what it accepted, its answer, and the packets held till then. -/

namespace Sys2Proof.Machine

open Sys2Proof

/-! ## What the settling of a link reads of a port -/

theorem recovering_of_still {s t : State} {n : Nat} (h : (portAt t n).still = (portAt s n).still) (querying : Bool) :
    recovering t n querying = recovering s n querying := by
  unfold recovering
  dsimp only
  rw [kept_of_still h Port.state, kept_of_still h Port.querying]

/-! ## The peer is asked (R373, R386) -/

/-- The state in which an LQUERY of a port waits for its answer. -/
def peerAsked (port : Nat) (s : State) : State := portMod port (fun p => { p with querying := true }) s

theorem peerAsked_becomes (port : Nat) (s : State) : PortBecomes port { portAt s port with querying := true } s (peerAsked port s) :=
  portMod_becomes port (fun p => { p with querying := true }) s

theorem recoverRetrainTimeout_asks {s : State} {port : Nat} (recovers : recovering s port false = true) :
    exec (.recoverRetrainTimeout port) s = .next (sendOwn (portAt s port).peerId
      (.lquery { peerPort := (portAt s port).peerPort, lastRx := 0, known := false }) (peerAsked port s)) := by
  refine congrArg Host.Outcome.next ((if_pos recovers).trans ?_)
  change sendOwn (portAt (peerAsked port s) port).peerId
    (.lquery { peerPort := (portAt (peerAsked port s) port).peerPort, lastRx := 0, known := false }) (peerAsked port s) = _
  rw [(peerAsked_becomes port s).here]

/-! ## LQUERY and LSTATE at their destination (R373, R384, R386) -/

/-- The LSTATE that answers an LQUERY of a node, from the port it asks for. -/
def lstateOf (src : Nat) (p : Port) : PktBody :=
  let known := p.lastRx.isSome && p.peerValid && p.peerId == src
  .lstate { peerPort := p.peerPort, lastRx := if known then p.lastRx.getD 0 else 0, known := known }

theorem lstateOf_still {p q : Port} (h : q.still = p.still) (src : Nat) : lstateOf src q = lstateOf src p :=
  kept_of_still h (lstateOf src)

theorem lstateOf_known {src r : Nat} {p : Port} (kept : p.lastRx = some r) (valid : p.peerValid = true) (asker : p.peerId = src) :
    lstateOf src p = .lstate { peerPort := p.peerPort, lastRx := r, known := true } := by simp [lstateOf, kept, valid, asker]

theorem lstateOf_unknown {src : Nat} {p : Port} (h : p.lastRx = none ∨ p.peerValid = false ∨ p.peerId ≠ src) :
    lstateOf src p = .lstate { peerPort := p.peerPort, lastRx := 0, known := false } := by
  rcases h with h | h | h <;> simp [lstateOf, h]

/-- The LAST_RX that a port records is that of its last flit, whatever has left it since (R384). -/
theorem portMod_record {s t : State} {n : Nat} (h : (portAt t n).still = (portAt s n).still) : portMod n Port.record t =
    portMod n (fun k => { k with lastRx := some (((portAt s n).rxSeq + 4095) % 4096) }) t := by
  rw [← kept_of_still h Port.rxSeq]
  exact portMod_congr rfl

section Taken

variable {s : State} {port n : Nat} {h : PktHdr} {p : LinkPkt} (link : port < 8) (runs : spanRuns s = true) (hops : h.hops < 15)
  (here : h.dest = self s) (named : n = p.peerPort % 8)

include link runs hops here named

/-- A port that is still UP records its LAST_RX as it is asked. -/
theorem lquery_up (up : (portAt s n).state = .up) : exec (.lquery port h p) s =
    .next (sendOwn h.src (lstateOf h.src (portAt s n).record) (portMod n Port.record (takeRx port { hdr := h, body := .lquery p } s))) := by
  subst named
  have still := takeRx_still port { hdr := h, body := .lquery p } s (p.peerPort % 8)
  have same : (portAt (takeRx port { hdr := h, body := .lquery p } s) (p.peerPort % 8)).record.still =
      (portAt s (p.peerPort % 8)).record.still := kept_of_still still fun q => q.record.still
  refine (arrive_here (comesFrom_link link runs _) (waitsBehind_of_class rfl _) hops here _ : execLquery port h p s = _).trans ?_
  simp only [kept_of_still still Port.state, up, if_true]
  rw [← lstateOf_still same, ← portAt_portMod_same _ Port.record]
  rfl

theorem lquery_else (down : (portAt s n).state ≠ .up) : exec (.lquery port h p) s =
    .next (sendOwn h.src (lstateOf h.src (portAt s n)) (takeRx port { hdr := h, body := .lquery p } s)) := by
  subst named
  have still := takeRx_still port { hdr := h, body := .lquery p } s (p.peerPort % 8)
  refine (arrive_here (comesFrom_link link runs _) (waitsBehind_of_class rfl _) hops here _ : execLquery port h p s = _).trans ?_
  simp only [kept_of_still still Port.state, down, if_false]
  rw [← lstateOf_still still]
  rfl

theorem lstate_settles (asked : recovering s n true = true) (peer : (portAt s n).peerId = h.src) : exec (.lstate port h p) s =
    .next (if p.known then settleLink n p.lastRx (takeRx port { hdr := h, body := .lstate p } s)
      else unresolved n (takeRx port { hdr := h, body := .lstate p } s)) := by
  subst named
  have still := takeRx_still port { hdr := h, body := .lstate p } s (p.peerPort % 8)
  refine (arrive_here (comesFrom_link link runs _) (waitsBehind_of_class rfl _) hops here _ : execLstate port h p s = _).trans ?_
  refine congrArg _ (if_pos ?_)
  rw [recovering_of_still still, asked, kept_of_still still Port.peerId, peer]
  simp

end Taken

/-! ## The packets held (R382, R386) -/

/-- A port whose flits are settled, in the state it takes then. -/
def Port.settles (p : Port) : Port := { p.drained with state := p.settled }

/-- What the peer took is delivered and the rest goes another way. -/
theorem settleLink_reroutes (n rx : Nat) {s t : State} (h : (portAt t n).still = (portAt s n).still) : settleLink n rx t =
    (((portAt s n).unacked.filter (fun u => !covered (rx % 4096) u.last)).map SentPkt.pkt).foldl (rerouteFrom n)
      (portMod n (fun k => { k.settles with recovered := satAdd 8 k.recovered 1 }) t) := by
  rw [← kept_of_still h Port.unacked]
  rfl

theorem unresolved_refuses (n : Nat) {s t : State} (h : (portAt t n).still = (portAt s n).still) : unresolved n t =
    ((portAt s n).unacked.map SentPkt.pkt).foldl (refuseFrom n)
      (portMod n (fun k => { k.settles with unresolved := satAdd 8 k.unresolved 1 }) t) := by
  rw [← kept_of_still h Port.unacked]
  rfl

theorem lqueryTimeout_refuses {s : State} {n : Nat} (asked : recovering s n true = true) :
    exec (.lqueryTimeout n) s = .next (unresolved n s) := congrArg _ (if_pos asked)

/-! ## Idle lanes (R383, R387) -/

/-- The port whose peer's lanes are idle: nothing sent is held, and a settlement that ran is unresolved. -/
def Port.idled (p : Port) : Port := { p.settles with unresolved := satAdd 8 p.unresolved (b2n p.querying) }

theorem settled_up {p : Port} (up : p.state = .up) : p.settled = .down := by simp [Port.settled, up]

theorem settled_shuttering {p : Port} (shut : p.state = .shuttering) : p.settled = .shuttering := if_pos shut

theorem portMod_idled {s : State} {n : Nat} {st : LinkState} (h : (portAt s n).settled = st) : portMod n Port.idled s =
    portMod n (fun k => { k.drained with state := st, unresolved := satAdd 8 k.unresolved (b2n k.querying) }) s := by
  subst h
  exact portMod_congr rfl

section Idle

variable {s : State} {n : Nat} (link : n < 8)

include link

theorem electricalIdle_trains (training : (portAt s n).state = .training) :
    exec (.spanRxElectricalIdle n) s = .next (portMod n (fun p => { p with state := .down }) s) :=
  congrArg _ ((if_neg (Nat.not_le.mpr link)).trans (if_pos training))

theorem electricalIdle_settles (carries : (portAt s n).state = .up ∨ (portAt s n).state = .shuttering) :
    exec (.spanRxElectricalIdle n) s = .next (((portAt s n).unacked.map SentPkt.pkt).foldl (refuseFrom n)
      (rerouteQueue n (if (portAt s n).state = .up then linkChanged n (portMod n Port.idled s) else portMod n Port.idled s))) :=
  congrArg _ ((if_neg (Nat.not_le.mpr link)).trans ((if_neg (by rcases carries with h | h <;> simp [h])).trans (if_pos carries)))

end Idle

/-! ## The statement -/

/-- Settles O39: the question to the peer, its answer or the lack of one, and lanes that go idle, each by what its port becomes. -/
theorem linkLoss : Obligations.LinkLoss := by
  unfold Obligations.LinkLoss
  refine ⟨fun s port recovers => ?ask,
    fun s port n h p link runs hops here named => ⟨fun up valid asker => ?up, fun r down kept valid asker => ?kept,
      fun down unknown => ?unknown, fun asked peer known => ?known, fun asked peer lost => ?lost⟩,
    fun s n asked => ?timeout, fun s n link => ⟨fun training => ?training, fun up => ?idle, fun shut => ?shuttering⟩⟩
  case ask =>
    have made := peerAsked_becomes port s
    exact ⟨_, recoverRetrainTimeout_asks recovers, _, made.here, made.others, rfl⟩
  case up =>
    have known : lstateOf h.src (portAt s n).record = _ := lstateOf_known rfl valid asker
    rw [lquery_up link runs hops here named up, known, portMod_record (takeRx_still port _ s n)]
    rfl
  case kept => rw [lquery_else link runs hops here named down, lstateOf_known kept valid asker]
  case unknown => rw [lquery_else link runs hops here named down, lstateOf_unknown unknown]
  case known =>
    rw [lstate_settles link runs hops here named asked peer, if_pos known, settleLink_reroutes n _ (takeRx_still port _ s n)]
    rfl
  case lost =>
    rw [lstate_settles link runs hops here named asked peer, if_neg (by simp [lost]), unresolved_refuses n (takeRx_still port _ s n)]
    rfl
  case timeout =>
    rw [lqueryTimeout_refuses asked, unresolved_refuses n rfl]
    rfl
  case training =>
    have made := portMod_becomes n (fun p => { p with state := .down }) s
    exact ⟨_, electricalIdle_trains link training, made.here, made.others⟩
  case idle =>
    rw [electricalIdle_settles link (.inl up), if_pos up, portMod_idled (settled_up up)]
    rfl
  case shuttering =>
    rw [electricalIdle_settles link (.inr shut), if_neg (by simp [shut]), portMod_idled (settled_shuttering shut)]
    rfl

end Sys2Proof.Machine

/-! SUPPORT. The frames of invalidations and faults, and the HEAD rule of the fault ring. -/

namespace Sys2Proof.Machine

open Sys2Proof

/-- Settles O49: each command's frame. -/
theorem faultFrame : Obligations.FaultFrame := by
  unfold Obligations.FaultFrame
  intro s t
  exact ⟨fun val => (execXltInval_within val s).only,
    (execInvalTakeEffect_within s).only,
    (execInvalAck_within s).only,
    fun ord stream v => (execRangeRetranslate_within ord stream v s).only,
    (execFaultRaise_within s).only,
    (execFaultRecordWrite_within s).only,
    fun val => (execFaultReplyReplay_within val s).only,
    fun val => (execFaultReplyAbort_within val s).only,
    fun pend => (execFaultOverdue_within pend s).only⟩

/-! ## FLT_RING_HEAD (R446) -/

section Head

variable {s : State} {val : W64}

theorem fltRingHead_refuses (alive : kcpAlive s = true) (passes : headPasses (bits val 0 32) s.flt.head s.flt.tail = true) :
    exec (.fltRingHeadWrite val) s = .next { s with flt := { s.flt with refused := true } } :=
  kcpWrite_alive (f := writeFltHead val) alive (if_pos passes)

theorem fltRingHead_takes (alive : kcpAlive s = true) (within : headPasses (bits val 0 32) s.flt.head s.flt.tail = false) :
    exec (.fltRingHeadWrite val) s = .next { s with flt := { s.flt with head := bits val 0 32 } } :=
  kcpWrite_alive (f := writeFltHead val) alive (if_neg (Bool.eq_false_iff.mp within))

end Head

/-- The model's difference of two counters, which adds 2^32 before it subtracts, is the difference modulo 2^32. -/
theorem headPasses_iff {head : Nat} (fits : head < 2 ^ 32) (new tail : Nat) : headPasses new head tail = true ↔
    ((tail : Int) - head) % 2 ^ 32 < ((new : Int) - head) % 2 ^ 32 := by
  rw [headPasses, decide_eq_true_iff, pow32]
  omega

/-- Settles O56: a HEAD past TAIL is refused, any other taken; HEAD = TAIL is the last one taken. -/
theorem headWithinTail : Obligations.HeadWithinTail := by
  unfold Obligations.HeadWithinTail
  intro s val alive fits _
  have takes (le : ((bits val 0 32 : Int) - s.flt.head) % 2 ^ 32 ≤ ((s.flt.tail : Int) - s.flt.head) % 2 ^ 32) :=
    fltRingHead_takes alive (Bool.eq_false_iff.mpr fun passes => Int.not_lt.mpr le ((headPasses_iff fits _ _).mp passes))
  refine ⟨fun lt => fltRingHead_refuses alive ((headPasses_iff fits _ _).mpr lt), takes, fun last => ?_⟩
  rw [takes (by rw [last]), last]

end Sys2Proof.Machine

/-! SUPPORT. Invalidation: what its effect leaves of every stream and footprint, a range translated again, and its acknowledgement. -/

namespace Sys2Proof.Machine

open Sys2Proof

/-! ## XLT_INVAL and its effect (R424 to R427) -/

section Effect

variable {s : State} {w : W64}

theorem xltInval_starts {val : W64} (alive : kcpAlive s = true) (idle : s.xlt.inval = none) :
    exec (.xltInval val) s = .next { s with xlt := { s.xlt with inval := some val, invalActive := false } } :=
  kcpWrite_alive (f := writeInval val) alive (if_neg (by simp [idle]))

theorem xltInval_refuses {val : W64} (alive : kcpAlive s = true) (running : s.xlt.inval ≠ none) :
    exec (.xltInval val) s = .next { s with xlt := { s.xlt with refused := true } } :=
  kcpWrite_alive (f := writeInval val) alive (if_pos (Option.isSome_iff_ne_none.mpr running))

theorem invalTakeEffect_takes (inval : s.xlt.inval = some w) (fresh : s.xlt.invalActive = false) :
    exec .invalTakeEffect s = .next (takeEffect w s) := by
  change execInvalTakeEffect s = _
  unfold execInvalTakeEffect
  rw [inval, fresh]
  rfl

theorem markStream_eq (w : W64) (ctx : Nat) (x : Stream) :
    markStream w ctx x = { x with stale := x.stale || (invalMeets w ctx x.da x.len && !x.stalled) } := by
  unfold markStream
  cases invalMeets w ctx x.da x.len && !x.stalled <;> simp

theorem takeEffect_run_ended {i : Nat} {r : Run} (run : s.qh.runs[i]? = some r) (ended : r.ended ≠ none) :
    (takeEffect w s).qh.runs[i]? = some r := by
  rw [takeEffect, List.getElem?_map, run, Option.map_some, if_pos (Option.isSome_iff_ne_none.mpr ended)]

theorem takeEffect_run {i : Nat} {r : Run} (run : s.qh.runs[i]? = some r) (going : r.ended = none) :
    (takeEffect w s).qh.runs[i]? = some { r with streams := r.streams.map (markStream w r.desc.ctx) } := by
  rw [takeEffect, List.getElem?_map, run, Option.map_some, if_neg (by simp [going])]

theorem takeEffect_xfer {i : Nat} {x : Xfer} (xfer : s.qh.xfers[i]? = some x) (going : x.ended = none) :
    (takeEffect w s).qh.xfers[i]? = some (markXfer w x) := by
  rw [takeEffect, List.getElem?_map, xfer, Option.map_some, if_neg (by simp [going])]

end Effect

/-! ## A range translated again (R427 to R429, R439) -/

/-- A failed translation raises one fault and counts the poison its walk met. -/
def walkFailed (v : ChipView) (ctx : Nat) (e : XlatFail) (f : FaultReq) (s : State) : State := noteWalk v ctx e (raiseFault f s)

theorem walkFailed_flt (v : ChipView) (ctx : Nat) (e : XlatFail) (f : FaultReq) (s : State) :
    (walkFailed v ctx e f s).flt = { s.flt with raised := s.flt.raised ++ [f] } :=
  (noteWalk_only v ctx e (raiseFault f s)).same .flt (by decide)

theorem runOf_walkFailed (v : ChipView) (ctx : Nat) (e : XlatFail) (f : FaultReq) (s : State) (ord : Nat) :
    runOf (walkFailed v ctx e f s) ord = runOf s ord := runOf_of_only (noteWalk_only v ctx e (raiseFault f s)) (by decide) ord

theorem xferOf_walkFailed (v : ChipView) (ctx : Nat) (e : XlatFail) (f : FaultReq) (s : State) (ord : Nat) :
    xferOf (walkFailed v ctx e f s) ord = xferOf s ord := xferOf_of_only (noteWalk_only v ctx e (raiseFault f s)) (by decide) ord

section StreamRange

variable {s : State} {ord i : Nat} {v : ChipView} {r : Run} {x : Stream} (run : runOf s ord = some r) (stream : r.streams[i]? = some x)
  (needs : x.stale = true ∨ x.replay = true)

include run stream needs

theorem rangeRetranslate_stream : exec (.rangeRetranslate ord i v) s = .next (retranslateStream ord i v r x s) := by
  change execRangeRetranslate ord i v s = _
  unfold execRangeRetranslate
  simp only [run, stream, if_pos (show needsXlat x = true by simpa [needsXlat] using needs)]

theorem rangeRetranslate_goesOn {y : Xlat} (ok : translate s v r.desc.ctx (restOf (ctxOf s r.desc.ctx).ptMode x).1
    (restOf (ctxOf s r.desc.ctx).ptMode x).2 x.write = .ok y) : exec (.rangeRetranslate ord i v) s = .next (cacheLeaves (leavesOf y)
      (streamAt ord i (fun x => { x with xlat := y, stale := false, stalled := false, replay := false }) s)) := by
  rw [rangeRetranslate_stream run stream needs]
  unfold retranslateStream
  simp only [ok]

theorem rangeRetranslate_stalls {e : XlatFail} (fails : translate s v r.desc.ctx (restOf (ctxOf s r.desc.ctx).ptMode x).1
    (restOf (ctxOf s r.desc.ctx).ptMode x).2 x.write = .error e) : ∃ f : FaultReq, f.src = .stream ord i ∧ f.ctx = r.desc.ctx ∧
      exec (.rangeRetranslate ord i v) s = .next (walkFailed v r.desc.ctx e f
        (streamAt ord i (fun x => { x with stale := false, stalled := true, replay := false }) s)) := by
  rw [rangeRetranslate_stream run stream needs]
  unfold retranslateStream
  simp only [fails]
  exact ⟨_, rfl, rfl, rfl⟩

end StreamRange

/-- The translation of a transfer's footprint: 0 the source, to read, 1 the destination, to write. -/
def footTranslate (s : State) (v : ChipView) (x : Xfer) (i : Nat) : Except XlatFail Xlat :=
  let foot := if i != 0 then dstFoot x.desc else srcFoot x.desc
  translate s v (if i != 0 then x.desc.dstCtx else x.desc.srcCtx) foot.1.toNat foot.2 (i != 0)

/-- A footprint that goes on under a new translation. -/
def Xfer.goesOn (i : Nat) (y : Xlat) (x : Xfer) : Xfer :=
  if i != 0 then { x with dst := y, staleDst := false, stalled := false, replay := false }
  else { x with src := y, staleSrc := false, stalled := false, replay := false }

/-- A footprint that stalls. -/
def Xfer.stalls (i : Nat) (x : Xfer) : Xfer :=
  if i != 0 then { x with staleDst := false, stalled := true, replay := false }
  else { x with staleSrc := false, stalled := true, replay := false }

section XferRange

variable {s : State} {ord i : Nat} {v : ChipView} {x : Xfer} (apart : runOf s ord = none) (xfer : xferOf s ord = some x) (foot : i ≤ 1)
  (needs : (if i = 0 then x.staleSrc else x.staleDst) = true ∨ x.replay = true)

include apart xfer foot needs

theorem rangeRetranslate_xfer : exec (.rangeRetranslate ord i v) s = .next (retranslateXfer ord i v x s) := by
  change execRangeRetranslate ord i v s = _
  unfold execRangeRetranslate
  have due : (if i = 0 then x.staleSrc || x.replay else x.staleDst || x.replay) = true := by
    by_cases source : i = 0 <;> simpa [source] using needs
  simp only [apart, xfer, if_pos due, Nat.min_eq_left foot]

theorem rangeRetranslate_footGoesOn {y : Xlat} (ok : footTranslate s v x i = .ok y) :
    Leads (exec (.rangeRetranslate ord i v) s) (fun t => t.flt = s.flt ∧ xferOf t ord = some (x.goesOn i y)) := by
  refine ⟨cacheLeaves (leavesOf y) (xferMod ord (Xfer.goesOn i y) s), ?_, rfl,
    xferOf_xferMod_same xfer fun z => by unfold Xfer.goesOn; split <;> rfl⟩
  rw [rangeRetranslate_xfer apart xfer foot needs]
  unfold footTranslate at ok
  unfold retranslateXfer
  simp only [ok]
  rfl

theorem rangeRetranslate_footStalls {e : XlatFail} (fails : footTranslate s v x i = .error e) :
    Leads (exec (.rangeRetranslate ord i v) s) (fun t => t.flt.raised.length = s.flt.raised.length + 1 ∧
      xferOf t ord = some (x.stalls i)) := by
  have stalled : ∃ ctx f, exec (.rangeRetranslate ord i v) s = .next (walkFailed v ctx e f (xferMod ord (Xfer.stalls i) s)) := by
    rw [rangeRetranslate_xfer apart xfer foot needs]
    unfold footTranslate at fails
    unfold retranslateXfer
    simp only [fails]
    exact ⟨_, _, rfl⟩
  obtain ⟨ctx, f, goes⟩ := stalled
  refine ⟨_, goes, ?_, ?_⟩
  · rw [walkFailed_flt, List.length_append, xferMod_flt, List.length_singleton]
  · rw [xferOf_walkFailed]
    exact xferOf_xferMod_same xfer fun z => by unfold Xfer.stalls; split <;> rfl

end XferRange

/-! ## The acknowledgement (R425, R428) -/

theorem invalAck_ends {s : State} {w : W64} (inval : s.xlt.inval = some w) (active : s.xlt.invalActive = true) (done : overlapDone s = true) :
    exec .invalAck s = .next (raise evInvalAck
      { s with xlt := { s.xlt with inval := none, invalActive := false, ackSeq := bits w 56 4 } }) := by
  change execInvalAck s = _
  unfold execInvalAck
  simp only [inval, if_pos (show (s.xlt.invalActive && overlapDone s) = true by rw [active, done]; rfl)]

/-- Settles O36: each command by the state it leaves; a stream and a footprint by whether the range translates. -/
theorem invalidation : Obligations.Invalidation := by
  unfold Obligations.Invalidation
  refine ⟨?write, ?effect, ?stream, ?xfer, ?ack⟩
  case write => exact fun s val alive => ⟨xltInval_starts alive, xltInval_refuses alive⟩
  case effect =>
    intro s w inval fresh
    refine ⟨_, invalTakeEffect_takes inval fresh, rfl, rfl, fun i r run ended => takeEffect_run_ended run ended, fun i r run going => ?_,
      fun i x xfer going => takeEffect_xfer xfer going⟩
    refine ⟨_, takeEffect_run run going, rfl, fun j x stream => ?_⟩
    rw [List.getElem?_map, stream, Option.map_some, markStream_eq]
  case stream =>
    intro s ord i v r x run stream needs
    refine ⟨fun y ok => ?_, fun e fails => ?_⟩
    · refine ⟨_, rangeRetranslate_goesOn run stream needs ok, rfl, ?_⟩
      obtain ⟨q, found, changed, -⟩ := streamAt_stream run stream _
      exact ⟨q, found, changed⟩
    · obtain ⟨f, src, ctx, goes⟩ := rangeRetranslate_stalls run stream needs fails
      refine ⟨_, goes, ⟨f, walkFailed_flt _ _ _ _ _, src, ctx⟩, ?_⟩
      obtain ⟨q, found, changed, -⟩ := streamAt_stream run stream _
      exact ⟨q, (runOf_walkFailed _ _ _ _ _ _).trans found, changed⟩
  case xfer =>
    intro s ord v x apart xfer
    exact ⟨fun needs y ok => rangeRetranslate_footGoesOn apart xfer (Nat.zero_le 1) needs ok,
      fun needs y ok => rangeRetranslate_footGoesOn apart xfer le_rfl needs ok,
      fun needs e fails => rangeRetranslate_footStalls apart xfer (Nat.zero_le 1) needs fails,
      fun needs e fails => rangeRetranslate_footStalls apart xfer le_rfl needs fails⟩
  case ack =>
    intro s w inval active done
    exact ⟨_, invalAck_ends inval active done, (raise_only _ _).same .xlt (by decide), bit_raise (by decide) _, raise_qh _ _⟩

end Sys2Proof.Machine

/-! SUPPORT. The fault unit: what each step leaves of the pending table and the ring, and what a reply does to every source of its entry. -/

namespace Sys2Proof.Machine

open Sys2Proof

/-! ## FAULT_RAISE (R431, R432) -/

section Raise

variable {s : State} {f : FaultReq} {rest : List FaultReq} (raised : s.flt.raised = f :: rest)

include raised

theorem faultRaise_head : exec .faultRaise s = .next ((enterFault f s).elim
    (placeFault [f] rest { s with flt := { s.flt with pendFull := true } }) (fun t => { t with flt := { t.flt with raised := rest } })) := by
  change Host.Outcome.next (placeFault [] s.flt.raised s) = _
  rw [raised, placeFault]
  cases enterFault f s with
  | none => rfl
  | some t => rfl

theorem faultRaise_joins {n : Nat} {e : PendEntry} (found : s.flt.pend.find? (joins f) = some (n, e)) :
    exec .faultRaise s = .next { s with flt := { s.flt with
      pend := mset s.flt.pend n { e with srcs := e.srcs ++ [f.src] }, raised := rest } } := by
  rw [faultRaise_head raised]
  simp only [enterFault, found, Option.elim_some]

theorem faultRaise_takes {n g : Nat} (unmet : s.flt.pend.find? (joins f) = none) (room : s.flt.pend.length < 256)
    (lowest : n = firstFree (s.flt.pend.map Prod.fst) 256 0) (next : g = (mgetD s.flt.gens n 0 + 1) % 256) :
    exec .faultRaise s = .next { s with flt := { s.flt with
      pend := mset s.flt.pend n { gen := g, first := f, srcs := [f.src], written := false, met := false }, gens := mset s.flt.gens n g,
      recQ := s.flt.recQ ++ [n], raised := rest } } := by
  subst next lowest
  rw [faultRaise_head raised]
  simp only [enterFault, unmet, if_neg (Nat.not_le.mpr room), Option.elim_some]

theorem faultRaise_waits (unmet : s.flt.pend.find? (joins f) = none) (full : 256 ≤ s.flt.pend.length) (last : rest = []) :
    exec .faultRaise s = .next { s with flt := { s.flt with pendFull := true } } := by
  rw [faultRaise_head raised]
  simp only [enterFault, unmet, if_pos full, Option.elim_none]
  rw [last, placeFault]

end Raise

/-! ## FAULT_RECORD_WRITE (R433, R435, R436) -/

section Record

variable {s : State} {n : Nat} {rest : List Nat} {e : PendEntry} (first : s.flt.recQ = n :: rest) (entry : mget s.flt.pend n = some e)

include first entry

theorem faultRecordWrite_writes (room : ringRoom (bit s.flt.base 0) s.flt.head s.flt.tail s.flt.size 1 = true) :
    exec .faultRecordWrite s = .next (writeFaultRecord n rest e s) := by
  change execFaultRecordWrite s = _
  unfold execFaultRecordWrite
  simp only [first, entry, if_pos room]

theorem faultRecordWrite_full (full : ringRoom (bit s.flt.base 0) s.flt.head s.flt.tail s.flt.size 1 = false) :
    exec .faultRecordWrite s = .next (faultRingFull n e s) := by
  change execFaultRecordWrite s = _
  unfold execFaultRecordWrite
  simp only [first, entry, if_neg (Bool.eq_false_iff.mp full)]

end Record

@[simp] theorem raise_flt (e : Nat) (s : State) : (raise e s).flt = s.flt := (raise_only e s).same .flt (by decide)

@[simp] theorem chipWrite_flt (k : OutKind) (o : Owner) (a : Nat) (bs : List Byte) (s : State) : (chipWrite k o a bs s).flt = s.flt :=
  (chipWrite_only k o a bs s).same .flt (by decide)

theorem writeFaultRecord_flt (n : Nat) (rest : List Nat) (e : PendEntry) (s : State) : (writeFaultRecord n rest e s).flt =
    { s.flt with
      tail := (s.flt.tail + 1) % pow32, records := satAdd 32 s.flt.records 1, recQ := rest,
      pend := mset s.flt.pend n { e with written := true } } := by
  simp only [writeFaultRecord, raise_flt, chipWrite_flt]

/-! ## The entry a reply names (R438) -/

theorem bits_of_low {a b : W64} {m lo n : Nat} (low : a.toNat % 2 ^ m = b.toNat % 2 ^ m) (inside : lo + n ≤ m) : bits a lo n = bits b lo n := by
  rw [bits, bits, ← mod_shiftRight_mod inside a.toNat, low, mod_shiftRight_mod inside]

/-- ABORT (bit 16) of FLT_REPLY stands above the entry and its generation: clearing it leaves them. -/
theorem clearAbort_low (val : W64) : (val &&& ~~~(0x10000#64)).toNat % 2 ^ 16 = val.toNat % 2 ^ 16 := by
  rw [BitVec.toNat_and, Nat.and_mod_two_pow]
  exact (Nat.and_two_pow_sub_one_eq_mod _ 16).trans (Nat.mod_mod _ _)

/-- So does setting it. -/
theorem setAbort_low (val : W64) : (val ||| 0x10000#64).toNat % 2 ^ 16 = val.toNat % 2 ^ 16 := by
  rw [BitVec.toNat_or, Nat.or_mod_two_pow]
  exact Nat.or_zero _

theorem replyEntry_of_low {a b : W64} (low : a.toNat % 2 ^ 16 = b.toNat % 2 ^ 16) (s : State) : replyEntry s a = replyEntry s b := by
  rw [replyEntry, replyEntry, bits_of_low low (by decide : 0 + 8 ≤ 16), bits_of_low low (by decide : 8 + 8 ≤ 16)]

/-- Entry `n` leaves the pending table, and the queue of the records that wait. -/
def entryFreed (n : Nat) (s : State) : State :=
  { s with flt := { s.flt with pend := mdel s.flt.pend n, recQ := s.flt.recQ.filter (fun k => k != n) } }

theorem writeReply_stray {s : State} {val : W64} (stray : replyEntry s val = none) :
    writeReply val s = { s with flt := { s.flt with badReply := true } } := by
  rw [writeReply, stray]

theorem writeReply_answers {s : State} {val : W64} {e : PendEntry} (named : replyEntry s val = some e) : writeReply val s =
    e.srcs.foldl (fun t x => if bit val 16 then abortSource x t else replaySource x t) (entryFreed (bits val 0 8) s) := by
  rw [writeReply, named]
  rfl

section Reply

variable {s : State} {val : W64} (alive : kcpAlive s = true)

include alive

theorem faultReply_stray (stray : replyEntry s val = none) :
    exec (.faultReplyReplay val) s = .next { s with flt := { s.flt with badReply := true } } ∧
      exec (.faultReplyAbort val) s = .next { s with flt := { s.flt with badReply := true } } :=
  ⟨kcpWrite_alive alive (writeReply_stray ((replyEntry_of_low (clearAbort_low val) s).trans stray)),
    kcpWrite_alive alive (writeReply_stray ((replyEntry_of_low (setAbort_low val) s).trans stray))⟩

theorem faultReplyReplay_answers {e : PendEntry} (named : replyEntry s val = some e) : exec (.faultReplyReplay val) s =
    .next (e.srcs.foldl (fun t x => replaySource x t) (entryFreed (bits val 0 8) s)) := by
  have replay : bit (val &&& ~~~(0x10000#64)) 16 = false := by
    rw [bit, BitVec.getLsbD_and]
    exact Bool.and_false _
  refine kcpWrite_alive alive ((writeReply_answers ((replyEntry_of_low (clearAbort_low val) s).trans named)).trans ?_)
  rw [bits_of_low (clearAbort_low val) (by decide : 0 + 8 ≤ 16), replay]
  rfl

theorem faultReplyAbort_answers {e : PendEntry} (named : replyEntry s val = some e) : exec (.faultReplyAbort val) s =
    .next (e.srcs.foldl (fun t x => abortSource x t) (entryFreed (bits val 0 8) s)) := by
  have aborts : bit (val ||| 0x10000#64) 16 = true := by
    rw [bit, BitVec.getLsbD_or]
    exact Bool.or_true _
  refine kcpWrite_alive alive ((writeReply_answers ((replyEntry_of_low (setAbort_low val) s).trans named)).trans ?_)
  rw [bits_of_low (setAbort_low val) (by decide : 0 + 8 ≤ 16), aborts]
  rfl

end Reply

/-! ## A source replayed (R439) -/

/-- A change of the elements of one key, which keeps keys, seen at the first element of a key. -/
theorem find?_lmap_keyed {α : Type} {key : α → Nat} {f : α → α} (keeps : ∀ x, key (f x) = key x) (l : List α) (o k : Nat) :
    (lmap l (key · == o) f).find? (key · == k) = (l.find? (key · == k)).map (fun x => if key x == o then f x else x) := by
  have tested : ((key · == k) ∘ fun x => if key x == o then f x else x) = (key · == k) := by
    funext x
    dsimp only [Function.comp]
    split
    · rw [keeps]
    · rfl
  unfold lmap
  rw [List.find?_map, tested]

theorem runOf_runMod (o ord : Nat) {f : Run → Run} (keeps : ∀ x, (f x).ord = x.ord) (s : State) :
    runOf (runMod o f s) ord = (runOf s ord).map (fun r => if r.ord == o then f r else r) := find?_lmap_keyed keeps s.qh.runs o ord

theorem xferOf_xferMod (o ord : Nat) {f : Xfer → Xfer} (keeps : ∀ x, (f x).ord = x.ord) (s : State) :
    xferOf (xferMod o f s) ord = (xferOf s ord).map (fun x => if x.ord == o then f x else x) := find?_lmap_keyed keeps s.qh.xfers o ord

/-- A property that the change gives every element, and that the element at `i` had, is kept at `i` by a change at any place `j`. -/
theorem lmod_getElem?_holds {α : Type} {P : α → Prop} {f : α → α} (gives : ∀ x, P (f x)) {l : List α} {i : Nat} (j : Nat)
    (holds : ∀ x, l[i]? = some x → P x) : ∀ x, (lmod l j f)[i]? = some x → P x := by
  induction l generalizing i j with
  | nil => exact fun x at_i => holds x at_i
  | cons y r ih =>
    cases j with
    | zero =>
      cases i with
      | zero => exact fun x at_i => Option.some.inj at_i ▸ gives y
      | succ i => exact fun x at_i => holds x at_i
    | succ j =>
      cases i with
      | zero => exact fun x at_i => holds x at_i
      | succ i => exact ih j holds

/-- A stream goes back to translate its range again. -/
def Stream.again (y : Stream) : Stream := { y with stalled := false, replay := true }

/-- A Run whose stream `j` goes back. -/
def Run.again (j : Nat) (r : Run) : Run := { r with streams := lmod r.streams j Stream.again }

/-- A transfer goes back to translate its footprints again. -/
def Xfer.again (y : Xfer) : Xfer := { y with stalled := false, replay := true }

/-- What a replay makes of a source: a parked admission waits no more, a stream or transfer translates again. -/
def Replayed (t : State) : FaultSource → Prop
  | .admission f => mget t.qh.parked f = none
  | .stream ord i => (∀ r x, runOf t ord = some r → r.streams[i]? = some x → x.replay = true ∧ x.stalled = false) ∧
      (∀ x, xferOf t ord = some x → x.replay = true ∧ x.stalled = false)

theorem runOf_replaySource (o j ord : Nat) (s : State) : runOf (replaySource (.stream o j) s) ord =
    (runOf s ord).map (fun r => if r.ord == o then r.again j else r) := runOf_runMod o ord (f := Run.again j) (fun _ => rfl) s

theorem xferOf_replaySource (o j ord : Nat) (s : State) : xferOf (replaySource (.stream o j) s) ord =
    (xferOf s ord).map (fun x => if x.ord == o then x.again else x) :=
  xferOf_xferMod o ord (f := Xfer.again) (fun _ => rfl) (streamAt o j Stream.again s)

theorem replaySource_replayed (x : FaultSource) (s : State) : Replayed (replaySource x s) x := by
  cases x with
  | admission f => exact mget_mdel_same _ _
  | stream ord i =>
    refine ⟨fun r y run stream => ?_, fun y xfer => ?_⟩
    · rw [runOf_replaySource] at run
      obtain ⟨q, found, rfl⟩ := Option.map_eq_some_iff.mp run
      rw [if_pos (List.find?_some found), Run.again, lmod_getElem?_same] at stream
      obtain ⟨z, -, rfl⟩ := Option.map_eq_some_iff.mp stream
      exact ⟨rfl, rfl⟩
    · rw [xferOf_replaySource] at xfer
      obtain ⟨z, found, rfl⟩ := Option.map_eq_some_iff.mp xfer
      rw [if_pos (List.find?_some found)]
      exact ⟨rfl, rfl⟩

theorem replaySource_keeps {x : FaultSource} {s : State} (held : Replayed s x) (y : FaultSource) : Replayed (replaySource y s) x := by
  cases y with
  | admission g =>
    cases x with
    | admission f =>
      by_cases same : f = g
      · subst same
        exact mget_mdel_same _ _
      · exact (mget_mdel_other _ _ _ same).trans held
    | stream ord i => exact held
  | stream o j =>
    cases x with
    | admission f => exact held
    | stream ord i =>
      obtain ⟨runs, xfers⟩ := held
      refine ⟨fun r z run stream => ?_, fun z xfer => ?_⟩
      · rw [runOf_replaySource] at run
        obtain ⟨q, found, rfl⟩ := Option.map_eq_some_iff.mp run
        split at stream
        · exact lmod_getElem?_holds (P := fun x : Stream => x.replay = true ∧ x.stalled = false) (fun _ => ⟨rfl, rfl⟩) j
            (fun x at_i => runs q x found at_i) z stream
        · exact runs q z found stream
      · rw [xferOf_replaySource] at xfer
        obtain ⟨q, found, rfl⟩ := Option.map_eq_some_iff.mp xfer
        split
        · exact ⟨rfl, rfl⟩
        · exact xfers q found

/-- Every source of a list is replayed, and no later turn changes that. -/
theorem replayAll_replayed {x : FaultSource} {xs : List FaultSource} (mem : x ∈ xs) (s : State) :
    Replayed (xs.foldl (fun t x => replaySource x t) s) x := by
  induction xs generalizing s with
  | nil => exact absurd mem List.not_mem_nil
  | cons y ys ih =>
    rcases List.mem_cons.mp mem with rfl | later
    · exact List.foldlRecOn (motive := (Replayed · x)) ys _ (replaySource_replayed x s) fun t held y _ => replaySource_keeps held y
    · exact ih later _

theorem replayAll_flt (xs : List FaultSource) (s : State) : (xs.foldl (fun t x => replaySource x t) s).flt = s.flt :=
  (OnlyIn.foldl (fun t x => replaySource_only x t) xs s).same .flt (by decide)

/-! ## A source aborted (R440, R442) -/

theorem mget_filter_none {α : Type} {m : AMap α} {k : Nat} (absent : mget m k = none) (p : Nat × α → Bool) :
    mget (m.filter p) k = none := by
  induction m with
  | nil => rfl
  | cons c r ih =>
    obtain ⟨j, v⟩ := c
    by_cases here : k = j
    · simp [mget, here] at absent
    · have rest : mget (r.filter p) k = none := ih (by simpa [mget, here] using absent)
      rw [List.filter_cons]
      split
      · simpa [mget, here] using rest
      · exact rest

/-- Sources that leave bring no entry back. -/
theorem leaveEntries_absent {s : State} {n : Nat} (absent : mget s.flt.pend n = none) (ord : Nat) :
    mget (leaveEntries ord s).flt.pend n = none := by
  refine mget_filter_none (Eq.trans (mget_map ?_ s.flt.pend n) ?_) _
  · exact fun _ => rfl
  · rw [absent]
    rfl

/-- What a Run becomes that ends early. -/
def Run.cut (st : Status) (r : Run) : Run :=
  { r with
    ended := some st,
    bags := r.bags.map (fun p => (p.1, p.2.cut st (queuedOf r p.1))),
    streams := r.streams.map (fun x => { x with outQ := [], stale := false, stalled := false, replay := false }) }

/-- A Run cut, given up by its Mills and columns, with the contributions it leaves there due to be flushed. -/
def runGivenUp (ord : Nat) (st : Status) (s : State) : State :=
  let s := runMod ord (Run.cut st) s
  let s := dropReads (millOfRun s ord) s
  flushFor ord { s with cols := s.cols.map (fun p => (p.1, p.2.purge ord)) }

theorem runGivenUp_only (ord : Nat) (st : Status) (s : State) : OnlyIn [.cols, .span] (runMod ord (Run.cut st) s) (runGivenUp ord st s) :=
  .step (flushFor_only ord _) (by decide) (.step (setCols_only _ _) (by decide) ((dropReads_only _ _).mono (by decide)))

theorem runGivenUp_run {s : State} {ord : Nat} {r : Run} (run : runOf s ord = some r) (st : Status) :
    runOf (runGivenUp ord st s) ord = some (r.cut st) :=
  (runOf_of_only (runGivenUp_only ord st s) (by decide) ord).trans (runOf_runMod_same run fun _ => rfl)

theorem runGivenUp_flt (ord : Nat) (st : Status) (s : State) : (runGivenUp ord st s).flt = s.flt :=
  (runGivenUp_only ord st s).same .flt (by decide)

section EndRun

variable {s : State} {ord : Nat} {r : Run} (run : runOf s ord = some r) (st : Status)

include run

theorem endRun_ends (going : r.ended = none) : endRun ord st s = failSamples ord st (leaveEntries ord (runGivenUp ord st s)) := by
  rw [endRun, run]
  exact if_neg (by simp [going])

theorem endRun_ended (ended : r.ended ≠ none) : endRun ord st s = s := by
  rw [endRun, run]
  exact if_pos (Option.isSome_iff_ne_none.mpr ended)

theorem endRun_run (going : r.ended = none) : runOf (endRun ord st s) ord = some (r.cut st) := by
  rw [endRun_ends run st going, runOf_of_only (failSamples_only ord st _) (by decide), runOf_of_only (leaveEntries_only ord _) (by decide)]
  exact runGivenUp_run run st

theorem endRun_absent {n : Nat} (absent : mget s.flt.pend n = none) : mget (endRun ord st s).flt.pend n = none := by
  by_cases going : r.ended = none
  · rw [endRun_ends run st going]
    exact leaveEntries_absent (by rw [runGivenUp_flt, absent]) ord
  · rwa [endRun_ended run st going]

end EndRun

theorem endXfer_xfer {s : State} {ord : Nat} {x : Xfer} (xfer : xferOf s ord = some x) (going : x.ended = none) (st : Status) :
    ∃ q, xferOf (endXfer ord st s) ord = some q ∧ q.ended = some st := by
  refine ⟨_, (xferOf_of_only (leaveEntries_only ord _) (by decide) ord).trans (xferOf_xferMod_same xfer fun _ => rfl), ?_⟩
  rw [going]
  rfl

section Abort

variable {s : State} {ord : Nat} (i : Nat)

theorem abortSource_run {r : Run} (run : runOf s ord = some r) : abortSource (.stream ord i) s = endRun ord .faultAbort s :=
  if_pos (by rw [run]; rfl)

theorem abortSource_xfer (apart : runOf s ord = none) : abortSource (.stream ord i) s = endXfer ord .faultAbort s :=
  if_neg (by simp [apart])

theorem abortSource_endsRun {r : Run} (run : runOf s ord = some r) (going : r.ended = none) :
    ∃ q, runOf (abortSource (.stream ord i) s) ord = some q ∧ q.ended = some .faultAbort :=
  ⟨_, abortSource_run i run ▸ endRun_run run _ going, rfl⟩

theorem abortSource_endsXfer {x : Xfer} (apart : runOf s ord = none) (xfer : xferOf s ord = some x) (going : x.ended = none) :
    ∃ q, xferOf (abortSource (.stream ord i) s) ord = some q ∧ q.ended = some .faultAbort :=
  abortSource_xfer i apart ▸ endXfer_xfer xfer going _

theorem abortSource_absent {n : Nat} (absent : mget s.flt.pend n = none) : mget (abortSource (.stream ord i) s).flt.pend n = none := by
  cases run : runOf s ord with
  | none =>
    rw [abortSource_xfer i run]
    exact leaveEntries_absent absent ord
  | some r =>
    rw [abortSource_run i run]
    exact endRun_absent run _ absent

end Abort

/-! ## FAULT_OVERDUE and the ring's registers (R441, R444, R445, R447) -/

theorem faultOverdue_marks {s : State} {n : Nat} {e : PendEntry} (entry : mget s.flt.pend n = some e) (written : e.written = true) :
    exec (.faultOverdue n) s = .next { s with flt := { s.flt with overdue := true } } := by
  change execFaultOverdue n s = _
  unfold execFaultOverdue
  simp only [entry, if_pos written]

theorem fltIdle_iff (s : State) : fltIdle s = true ↔ s.flt.tail = s.flt.head ∧ s.flt.pend = [] := by simp [fltIdle]

section Ring

variable {s : State} {val : W64} (alive : kcpAlive s = true)

include alive

theorem fltRingBase_takes (idle : fltIdle s = true) : exec (.fltRingConfigWrite false val) s =
    .next { s with flt := { s.flt with base := val &&& 0x0001FFFFFFFFFFE1#64 } } :=
  kcpWrite_alive (f := writeFltBase val) alive (if_pos idle)

theorem fltRingSize_takes (idle : fltIdle s = true) (size : ringSizeOk (bits val 0 17) = true) :
    exec (.fltRingConfigWrite true val) s = .next { s with flt := { s.flt with size := bits val 0 17 } } :=
  kcpWrite_alive (f := writeFltSize val) alive (if_pos (by rw [idle, size]; rfl))

theorem fltRingSize_refuses (size : ringSizeOk (bits val 0 17) = false) :
    exec (.fltRingConfigWrite true val) s = .next { s with flt := { s.flt with refused := true } } :=
  kcpWrite_alive (f := writeFltSize val) alive (if_neg (by simp [size]))

theorem fltRingConfig_refuses (busy : fltIdle s ≠ true) (b : Bool) :
    exec (.fltRingConfigWrite b val) s = .next { s with flt := { s.flt with refused := true } } := by
  cases b with
  | false => exact kcpWrite_alive (f := writeFltBase val) alive (if_neg busy)
  | true => exact kcpWrite_alive (f := writeFltSize val) alive (if_neg (by simp [busy]))

theorem fltStatus_clears : exec (.fltStatusClear val) s = .next { s with flt := { s.flt with
    full := false, pendFull := false, badReply := false, overdue := false, refused := false } } :=
  kcpWrite_alive alive (if_pos (clearBit_set val))

end Ring

/-- Settles O35: each step of a fault by the case it falls in, from its raising to its reply. -/
theorem faultUnit : Obligations.FaultUnit := by
  unfold Obligations.FaultUnit
  refine ⟨?raise, ?record, ?reply, fun s n e => faultOverdue_marks, ?registers⟩
  case raise =>
    exact fun s f rest raised => ⟨fun n e => faultRaise_joins raised, fun n g => faultRaise_takes raised, faultRaise_waits raised⟩
  case record =>
    intro s n rest e first entry
    refine ⟨fun room => ⟨_, faultRecordWrite_writes first entry room, writeFaultRecord_flt n rest e s, bit_raise (by decide) _,
      _, rfl, rfl⟩, fun full => ?_⟩
    rw [faultRecordWrite_full first entry full]
    exact ⟨fun met => congrArg _ (if_pos met), fun unmet => ⟨_, congrArg _ (if_neg (Bool.eq_false_iff.mp unmet)), raise_flt _ _,
      bit_raise (by decide) _⟩⟩
  case reply =>
    intro s val alive
    refine ⟨faultReply_stray alive, fun e named => ?replays, fun e f named parked => ?abortsAdmission, fun e ord i named stalled => ?abortsStream⟩
    case replays =>
      exact ⟨_, faultReplyReplay_answers alive named, replayAll_flt _ _, fun f mem => replayAll_replayed mem _,
        fun ord i mem => replayAll_replayed mem _⟩
    case abortsAdmission =>
      rw [faultReplyAbort_answers alive named, parked]
      rfl
    case abortsStream =>
      have aborts : exec (.faultReplyAbort val) s = .next (abortSource (.stream ord i) (entryFreed (bits val 0 8) s)) := by
        rw [faultReplyAbort_answers alive named, stalled]
        rfl
      exact ⟨_, aborts, abortSource_absent i (mget_mdel_same _ _), fun r run => abortSource_endsRun i run,
        fun x apart xfer => abortSource_endsXfer i apart xfer⟩
  case registers =>
    intro s val alive
    refine ⟨fltRingHead_takes alive, fltRingHead_refuses alive, fun met empty => ?_, fun b busy => ?_, fltStatus_clears alive⟩
    · have idle := (fltIdle_iff s).mpr ⟨met, empty⟩
      exact ⟨fltRingBase_takes alive idle, fltRingSize_takes alive idle, fltRingSize_refuses alive⟩
    · exact fltRingConfig_refuses alive (fun idle => not_and_or.mpr busy ((fltIdle_iff s).mp idle)) b

end Sys2Proof.Machine

/-! SUPPORT. The answers of the Pedlar: what its header says of a POP, the words its cells carry, and a PUSH to a flow that is shut. -/

namespace Sys2Proof.Machine

open Sys2Proof

/-! ## The header of an answer (R468) -/

theorem statusCode_lt (st : Status) : statusCode st < 2 ^ 8 := by cases st <;> decide

theorem pedTag_lt (hdr : W64) : pedTag hdr < 2 ^ 8 := bits_lt hdr 24 8

theorem pedCells_lt (hdr : W64) : pedCells hdr < 2 ^ 3 := bits_lt hdr 18 3

section Header

variable (s : State) (hdr : W64) (st : Status) {popped : Nat} (fits : popped < 2 ^ 3) (under excess : Bool)

include fits

theorem pedAnswer_cells : bits (pedAnswer s hdr st popped under excess) 16 3 = popped := by
  have tag := pedTag_lt hdr
  have status := statusCode_lt st
  simp only [pedAnswer, bits, w64, BitVec.toNat_ofNat, Nat.shiftRight_eq_div_pow]
  omega

theorem pedAnswer_underrun : bit (pedAnswer s hdr st popped under excess) 22 = under := by
  have tag := pedTag_lt hdr
  have status := statusCode_lt st
  have empty := b2n_le_one (cellsOf s (pedFlow hdr) == 0)
  have full := b2n_le_one (fullOf s (pedFlow hdr))
  have underLe := b2n_le_one under
  rw [pedAnswer, bit_w64 (by decide)]
  exact testBit_of_digit (by omega)

end Header

/-! ## The cells of a POP (R453, R456, R471) -/

theorem recordCell_length (ws : List W64) : (recordCell ws).length = 8 := rfl

theorem popCells_length (g : Flow) (n : Nat) : (popCells g n).length = min n g.records.length := by simp [popCells]

/-- A cell is eight words, one that reads as zeros too. -/
theorem length_of_mem_popCells {g : Flow} {n : Nat} {cell : List W64} (mem : cell ∈ popCells g n) : cell.length = 8 := by
  obtain ⟨i, -, rfl⟩ := List.mem_map.mp mem
  split
  next bad => exact List.length_replicate
  next sound => exact recordCell_length _

theorem popCells_flatten_length (g : Flow) (n : Nat) : (popCells g n).flatten.length = 8 * min n g.records.length := by
  have eight : ∀ len ∈ (popCells g n).map List.length, len = 8 := List.forall_mem_map.mpr fun _ => length_of_mem_popCells
  rw [List.length_flatten, List.sum_eq_card_nsmul _ 8 eight, List.length_map, popCells_length, smul_eq_mul, Nat.mul_comm]

/-! ## A POP that is served -/

/-- The answer leaves and the corrected words count; the flow is as the pop left it. -/
theorem flowOf_popAnswered (words port ctag : Nat) (hdr : W64) (cells : List W64) (f n k : Nat) (s : State) :
    flowOf (correctedCells words (sendAnswer port ctag hdr cells (recordsPopped f n k s))) f = { flowOf s f with
      records := (flowOf s f).records.drop k
      badRecords := ((flowOf s f).badRecords.filter (fun i => decide (k ≤ i))).map (fun i => i - k)
      lastPopped := (popCells (flowOf s f) n).getD (k - 1) [] } := by
  rw [flowOf_correctedCells, flowOf_sendAnswer, recordsPopped, flowOf_flowMod_same]

/-- Settles O54: the header and the cells are those of the records popped, and the pop changes no UNDERRUN. -/
theorem popReturnsTheFewer : Obligations.PopReturnsTheFewer := by
  unfold Obligations.PopReturnsTheFewer
  intro s port ctag n k words hdr taken pop reserved cells complete number holds some
  subst number holds
  have fits : min (pedCells hdr) (flowOf s (pedFlow hdr)).records.length < 2 ^ 3 := (Nat.min_le_left _ _).trans_lt (pedCells_lt hdr)
  have answered := pedPop_pops (s := countEv islQh 0x502 1 s) pop reserved cells complete port ctag words (List.ne_nil_of_length_pos some) rfl
  have left := flowOf_popAnswered words port ctag
  refine ⟨_, (pedlarPop_serves taken pop).trans (congrArg _ answered), _, _, _, rfl, pedAnswer_cells _ _ _ fits _ _,
    pedAnswer_underrun _ _ _ fits _ _, popCells_flatten_length _ _, ?underrun, ?records⟩
  case underrun =>
    rw [left]
    rfl
  case records =>
    rw [left]
    exact List.length_drop

/-! ## A flow that is shut (R470) -/

theorem pedPush_shut {s : State} {hdr : W64} (push : pedOp hdr = 0) (port ctag : Nat) (data : List W64)
    (awake : s.gbl.state ≠ .held) (tested : s.gbl.state ≠ .selftest) (reserved : pedReserved hdr = true) (cells : pedCellsOk hdr = true)
    (suits : pushSuits (kindOf s (pedFlow hdr)) (pedCells hdr) = true) (shut : (flowOf s (pedFlow hdr)).shut = true) :
    pedPush port ctag hdr data s = pedRefuse port ctag hdr .shuttered s := by
  unfold pedPush
  simp [push, reserved, cells, awake, tested, suits, shut]

/-- Settles O55: a PUSH is refused for the Shutter alone; POP and PROBE do not look at it, and are served as of any flow. -/
theorem shutFlowAnswers : Obligations.ShutFlowAnswers := by
  unfold Obligations.ShutFlowAnswers
  intro s port ctag f n words hdr data taken flow number reserved cells shut
  obtain ⟨-, -, -, pops, meetsEmpty, probes⟩ := pedlarPath.1 s port ctag f n words hdr data taken flow number
  refine ⟨fun push awake tested suits => ?push, fun pop complete some => ?pop, fun pop complete empty => ?empty,
    fun probe => probes probe reserved cells⟩
  case push =>
    subst flow number
    have refused := pedPush_shut (s := countEv islQh 0x502 1 s) push port ctag data awake tested reserved cells suits shut
    exact ⟨_, (pedlarPush_serves taken push).trans (congrArg _ refused), pedRefuse_keeps port ctag hdr .shuttered s⟩
  case pop =>
    obtain ⟨t, next, records, -, -, u, st, answered, -⟩ := pops pop reserved cells complete some
    exact ⟨t, next, records, u, _, answered⟩
  case empty =>
    obtain ⟨t, next, underrun, answered⟩ := meetsEmpty pop reserved cells complete empty
    exact ⟨t, next, by rw [underrun], answered⟩

end Sys2Proof.Machine

namespace Sys2Proof.Machine

open Sys2Proof

/-- Settles O1: `step` takes the front of the queue, by its definition. -/
theorem stepRunsCommand : Obligations.StepRunsCommand := by
  unfold Obligations.StepRunsCommand
  intro c rest s
  rfl

/-- Settles O2, by the definition of `step`. -/
theorem emptyQueueIdles : Obligations.EmptyQueueIdles := by
  unfold Obligations.EmptyQueueIdles
  intro s empty
  unfold step
  rw [empty]

/-- Settles O5: each bound of the invariant, at reset. -/
theorem invAtReset : Obligations.InvAtReset := by
  unfold Obligations.InvAtReset
  exact ⟨rfl, by decide, by decide, by decide, by decide, by decide, by decide⟩

/-- Settles O8: each register of the list, read. -/
theorem resetRegisterValues : Obligations.ResetRegisterValues := by
  unfold Obligations.ResetRegisterValues
  decide

end Sys2Proof.Machine

/-! SUPPORT. What every command but a reset keeps: no bit of GBL_EVENT is cleared, and the invariant stays. The relation, its laws, and the
few operations that write what the invariant speaks of. -/

namespace Sys2Proof.Machine

open Sys2Proof

/-- From `s` to `t` no bit of GBL_EVENT is cleared (R655), and the invariant stays. -/
structure Steady (s t : State) : Prop where
  events : ∀ i, s.gbl.event.getLsbD i = true → t.gbl.event.getLsbD i = true
  inv : Inv s → Inv t

/-- The parts of the state that GBL_EVENT and the invariant lie in. -/
def Part.watched : List Part := [.events, .hbm, .clerk, .mbx, .block, .wch]

/-! ## The laws -/

theorem Steady.refl (s : State) : Steady s s := ⟨fun _ h => h, fun h => h⟩

theorem Steady.trans {a b c : State} (h : Steady a b) (k : Steady b c) : Steady a c :=
  ⟨fun i set => k.events i (h.events i set), fun inv => k.inv (h.inv inv)⟩

/-- A step that leaves GBL_EVENT and what the invariant speaks of as they are. -/
theorem Steady.set {a s t : State} (h : Steady a s)
    (same : (t.gbl.event, t.hbm, t.clerk.log, t.mbx.missed, t.gbl.resets, t.gbl.refusals, t.wch.lostCount) =
      (s.gbl.event, s.hbm, s.clerk.log, s.mbx.missed, s.gbl.resets, s.gbl.refusals, s.wch.lostCount)) : Steady a t := by
  simp only [Prod.mk.injEq] at same
  obtain ⟨event, hbm, log, missed, resets, refusals, lost⟩ := same
  refine h.trans ⟨fun i set => by rw [event]; exact set, fun inv => ⟨?_, ?_, ?_, ?_, ?_, ?_, ?_⟩⟩
  · rw [hbm]; exact inv.hbm
  · rw [event]; exact inv.event
  · rw [log]; exact inv.log
  · rw [missed]; exact inv.missed
  · rw [resets]; exact inv.resets
  · rw [refusals]; exact inv.refusals
  · rw [lost]; exact inv.lost

/-- The parts of a frame lie outside the watched ones. -/
def Part.unwatched (l : List Part) : Bool := Part.watched.all fun p => !l.contains p

theorem Part.notMem_of_unwatched {l : List Part} (q : Part.unwatched l = true) {p : Part} (hp : p ∈ Part.watched) : p ∉ l := by
  simpa using List.all_eq_true.1 q p hp

/-- A step whose frame lies outside the watched parts. -/
theorem Steady.only {a s t : State} {l : List Part} (h : Steady a s) (k : OnlyIn l s t) (q : Part.unwatched l = true) : Steady a t := by
  have still : t.gbl.still = s.gbl.still := k.same .block (Part.notMem_of_unwatched q (by decide))
  have resets : t.gbl.still.resets = s.gbl.still.resets := by rw [still]
  have refusals : t.gbl.still.refusals = s.gbl.still.refusals := by rw [still]
  have event : t.gbl.event = s.gbl.event := (k.same .events (Part.notMem_of_unwatched q (by decide))).1
  have hbm : t.hbm = s.hbm := k.same .hbm (Part.notMem_of_unwatched q (by decide))
  have clerk : t.clerk = s.clerk := k.same .clerk (Part.notMem_of_unwatched q (by decide))
  have mbx : t.mbx = s.mbx := k.same .mbx (Part.notMem_of_unwatched q (by decide))
  have wch : t.wch = s.wch := k.same .wch (Part.notMem_of_unwatched q (by decide))
  rw [Gbl.still, Gbl.still] at resets refusals
  exact h.set (by rw [event, hbm, clerk, mbx, resets, refusals, wch])

theorem Steady.ite {a s t : State} {c : Prop} [Decidable c] (h : Steady a s) (k : Steady a t) : Steady a (if c then s else t) := by
  split
  · exact h
  · exact k

theorem Steady.foldl {α : Type} {a : State} {f : State → α → State} {xs : List α} {s : State} (h : Steady a s)
    (k : ∀ t x, Steady a t → Steady a (f t x)) : Steady a (xs.foldl f s) := by
  induction xs generalizing s with
  | nil => exact h
  | cons x xs ih => exact ih (k s x h)

/-- The same where the fold carries something before the state. -/
theorem Steady.foldl_snd {α β : Type} {a : State} {f : β × State → α → β × State} {xs : List α} {p : β × State} (h : Steady a p.2)
    (k : ∀ t x, Steady a t.2 → Steady a (f t x).2) : Steady a (xs.foldl f p).2 := by
  induction xs generalizing p with
  | nil => exact h
  | cons x xs ih => exact ih (k p x h)

theorem Steady.foldl_fst {α β : Type} {a : State} {f : State × β → α → State × β} {xs : List α} {p : State × β} (h : Steady a p.1)
    (k : ∀ t x, Steady a t.1 → Steady a (f t x).1) : Steady a (xs.foldl f p).1 := by
  induction xs generalizing p with
  | nil => exact h
  | cons x xs ih => exact ih (k p x h)

/-- The state of a pair taken apart. -/
theorem Steady.of_fst {β : Type} {a t : State} {b : β} {p : State × β} (e : p = (t, b)) (h : Steady a p.1) : Steady a t := by
  subst e
  exact h

theorem Steady.of_snd {β : Type} {a t : State} {b : β} {p : β × State} (e : p = (b, t)) (h : Steady a p.2) : Steady a t := by
  subst e
  exact h

theorem Steady.getD {a d : State} {o : Option State} (h : ∀ t, o = some t → Steady a t) (k : Steady a d) : Steady a (o.getD d) := by
  cases o with
  | none => exact k
  | some t => exact h t rfl

/-! ## The writers -/

/-- A change of the event lines. -/
theorem evalLines_steady {a s : State} (h : Steady a s) : Steady a (evalLines s) := by
  have only := evalLines_only s
  have hbm : (evalLines s).hbm = s.hbm := only.same .hbm (by decide)
  have clerk : (evalLines s).clerk = s.clerk := only.same .clerk (by decide)
  have mbx : (evalLines s).mbx = s.mbx := only.same .mbx (by decide)
  have wch : (evalLines s).wch = s.wch := only.same .wch (by decide)
  exact h.set (by rw [evalLines_event, hbm, clerk, mbx, evalLines_field Gbl.resets (fun _ => rfl), evalLines_field Gbl.refusals (fun _ => rfl),
    wch])

/-- An event of R654 is raised. -/
theorem raise_steady {a s : State} {e : Nat} (h : Steady a s) (he : e < 21) : Steady a (raise e s) := by
  refine evalLines_steady (h.trans ⟨fun i set => ?_, fun inv => { inv with event := ?_ }⟩)
  · simp [set]
  · have small : (1#64 <<< e).toNat ≤ 2 ^ e := by
      rw [BitVec.toNat_shiftLeft]
      exact (Nat.mod_le _ _).trans (Nat.one_shiftLeft e).le
    rw [BitVec.toNat_or]
    exact Nat.or_lt_two_pow inv.event (small.trans_lt (Nat.pow_lt_pow_right Nat.one_lt_two he))

/-- The Clerk's log changes to one that it has room for (R515). -/
theorem Steady.setLog {a s : State} {c : Clerk} (h : Steady a s) (short : c.log.length ≤ 2048) : Steady a { s with clerk := c } :=
  h.trans ⟨fun _ set => set, fun inv => { inv with log := short }⟩

theorem logAdd_steady {a s : State} {code : Nat} {a0 a1 : W64} (h : Steady a s) : Steady a (logAdd code a0 a1 s) := by
  refine h.setLog ?_
  simp only [List.length_drop]
  omega

theorem hbmWrite_steady {a s : State} {ad : Nat} {bs : List Byte} (h : Steady a s) : Steady a (hbmWrite ad bs s) :=
  h.trans ⟨fun _ set => set, fun inv => { inv with hbm := hbmWrite_wf inv.hbm ad bs }⟩

theorem hbmClear_steady {a s : State} {ad n : Nat} (h : Steady a s) : Steady a (hbmClear ad n s) :=
  h.trans ⟨fun _ set => set, fun inv => { inv with hbm := hbmClear_wf inv.hbm ad n }⟩

end Sys2Proof.Machine

/-! SUPPORT. The model's operations, in the order of their definitions: none but a reset clears an event, and each keeps the invariant. -/

namespace Sys2Proof.Machine

open Sys2Proof

theorem settle_steady {a s : State} (h : Steady a s) : Steady a (settle s) := by
  unfold settle
  split
  · exact .ite (h.set rfl) h
  · exact .ite h (h.set rfl)
  · exact h

theorem logOpen_steady {a s : State} {cause what : Nat} (h : Steady a s) : Steady a (logOpen cause what s) := logAdd_steady h

theorem post_steady {a s : State} {r : Response} (h : Steady a s) : Steady a (post r s) := h.set rfl

theorem postFinal_steady {a s : State} {slot : Nat} {m : Msg} {st : Status} {payload : List W64} (h : Steady a s) :
    Steady a (postFinal slot m st payload s) :=
  post_steady h

theorem postReport_steady {a s : State} {o : Owed} {st : Status} {entries : Nat} {payload : List W64} (h : Steady a s) :
    Steady a (postReport o st entries payload s) :=
  (post_steady h).set rfl

theorem reportAll_steady {a s : State} {op entries : Nat} {payload : List W64} (h : Steady a s) :
    Steady a (reportAll op entries payload s) :=
  .foldl h fun _ _ k => postReport_steady k

theorem satCheck_steady {a s : State} {tid : Nat} (h : Steady a s) : Steady a (satCheck tid s) := by
  unfold satCheck
  extract_lets counts hit marked
  have hmarked : Steady a marked := h.only (asyMod_only _ _ _) rfl
  exact .ite (raise_steady (hmarked.set rfl) (by decide)) h

theorem assay_steady {a s : State} {tid : Nat} {c : RowCounts} (h : Steady a s) : Steady a (assay tid c s) :=
  satCheck_steady (h.only (asyMod_only _ _ _) rfl)

theorem writeDir_steady {o s : State} {a : Nat} {e : DirEnt} (h : Steady o s) : Steady o (writeDir a e s) := hbmWrite_steady h

theorem writeShelf_steady {a s : State} {v : VSlot} {n : Nat} {h : ShelfHdr} (hs : Steady a s) : Steady a (writeShelf v n h s) :=
  hbmWrite_steady hs

theorem newShelf_steady {a s : State} {tid slot n : Nat} {c : RowClass} {baseExp : Nat} (h : Steady a s) :
    Steady a (newShelf tid slot n c baseExp s) := by
  unfold newShelf
  split
  · exact h
  · exact writeShelf_steady (hbmWrite_steady (h.set rfl))

theorem storeRowAt_steady {a s : State} {count : Bool} {tid slot shelf ofs : Nat} {m : RowMeta} {xs : List W32} (h : Steady a s) :
    Steady a (storeRowAt count tid slot shelf ofs m xs s) := by
  unfold storeRowAt
  split
  · exact h
  · dsimp only
    refine .ite ?_ ?_
    · exact hbmWrite_steady (.ite (hbmWrite_steady h) (writeShelf_steady (hbmWrite_steady h)))
    · refine assay_steady ?_
      refine .ite ?_ ?_
      · exact (hbmWrite_steady (.ite (hbmWrite_steady h) (writeShelf_steady (hbmWrite_steady h)))).only (shelfMod_only _ _ _ _ _) rfl
      · exact hbmWrite_steady (.ite (hbmWrite_steady h) (writeShelf_steady (hbmWrite_steady h)))

theorem writeRowAt_steady {a s : State} {tid slot shelf ofs : Nat} {m : RowMeta} {xs : List W32} (h : Steady a s) :
    Steady a (writeRowAt tid slot shelf ofs m xs s) :=
  storeRowAt_steady h

/-- A row that finds room. -/
theorem placeRowIn_steady {a s : State} {count : Bool} {tid slot : Nat} {c : RowClass} {m : RowMeta} {xs : List W32} {n ofs : Nat}
    {t : State} (h : Steady a s) (e : placeRowIn count tid slot c m xs s = some (n, ofs, t)) : Steady a t := by
  have reclaimed : Steady a (reclaim tid slot s) := h.only (reclaim_only _ _ _) rfl
  unfold placeRowIn at e
  dsimp only at e
  split at e
  · cases e
  · split at e
    · cases e
    · split at e
      · cases e
      · cases e
        refine .only (writeShelf_steady (storeRowAt_steady ?_)) (shelfMod_only _ _ _ _ _) rfl
        exact .ite (newShelf_steady reclaimed) reclaimed

theorem placeRow_steady {a s : State} {tid slot : Nat} {c : RowClass} {m : RowMeta} {xs : List W32} {n ofs : Nat} {t : State}
    (h : Steady a s) (e : placeRow tid slot c m xs s = some (n, ofs, t)) : Steady a t := placeRowIn_steady h e

theorem startMove_steady {a s : State} {tid slot da : Nat} {target : DirEnt} (h : Steady a s) :
    Steady a (startMove tid slot da target s) := by
  have marked : Steady a (writeDir da { readDir s da with tier := 2 } s) := writeDir_steady h
  exact marked.only (setMoves_only _ _) rfl

theorem sendResult_steady {a s : State} {slot : Nat} {x : Xlat} {da : Nat} {bs : List Byte} (h : Steady a s) :
    Steady a (sendResult slot x da bs s) :=
  .foldl h fun _ _ k => k.only (chipWrite_only _ _ _ _ _) rfl

theorem clerkResult_steady {a s : State} {v : ChipView} {slot : Nat} {m : Msg} {da : Nat} {bs : List Byte}
    {payload : List W64} (h : Steady a s) :
    Steady a (clerkResult s v slot m da bs payload) := by
  unfold clerkResult
  split
  · exact postFinal_steady (h.only (noteWalk_only _ _ _ _) rfl)
  · exact sendResult_steady (h.set rfl)

theorem untake_steady {a s : State} {slot : Nat} (h : Steady a s) : Steady a (untake slot s) := h.set rfl

theorem accept_steady {a s : State} {slot : Nat} {m : Msg} (h : Steady a s) : Steady a (accept slot m s) := (post_steady h).set rfl

theorem mbxRefuse_steady {a s : State} (h : Steady a s) : Steady a (mbxRefuse s) := h.set rfl

theorem ringSlot_steady {a s : State} {n : Nat} (h : Steady a s) : Steady a (ringSlot n s) := .ite (mbxRefuse_steady h) (h.set rfl)

theorem writeSlotWord_steady {a s : State} {n w : Nat} {val : W64} (h : Steady a s) : Steady a (writeSlotWord n w val s) :=
  .ite (mbxRefuse_steady h) (h.set rfl)

theorem writeRespHead_steady {a s : State} {val : W64} (h : Steady a s) : Steady a (writeRespHead val s) :=
  .ite (mbxRefuse_steady h) (h.set rfl)

theorem writeRespBase_steady {a s : State} {val : W64} (h : Steady a s) : Steady a (writeRespBase val s) :=
  .ite h (.ite (h.set rfl) (mbxRefuse_steady h))

theorem writeRespSize_steady {a s : State} {val : W64} (h : Steady a s) : Steady a (writeRespSize val s) :=
  .ite (h.set rfl) (.ite (h.set rfl) (mbxRefuse_steady h))

theorem takeFirst_steady {a s : State} {n : Nat} {rest : List Nat} (h : Steady a s) : Steady a (takeFirst n rest s) :=
  .ite ((h.set rfl).set rfl) (postFinal_steady (h.set rfl))

theorem writeResponse_steady {a s : State} {r : Response} {rest : List Response} (h : Steady a s) :
    Steady a (writeResponse r rest s) := by
  have written : Steady a ((List.range r.entries).reverse.foldl (fun t i => writeEntry r i t)
      { s with mbx := { s.mbx with respQ := rest } }) := .foldl (h.set rfl) fun _ _ k => k.only (writeEntry_only _ _ _) rfl
  exact written.set rfl

theorem visitAll_steady {a s : State} {incs : List IslandInc} (h : Steady a s) : Steady a (visitAll incs s) :=
  .ite (raise_steady ((Steady.foldl h fun _ _ k => k.only (passTime_only _ _) rfl).set rfl) (by decide))
    ((Steady.foldl h fun _ _ k => k.only (passTime_only _ _) rfl).set rfl)

theorem snapshot_steady {a s : State} {incs : List IslandInc} (h : Steady a s) : Steady a (snapshot incs s) :=
  (visitAll_steady h).set rfl

theorem dumpNow_steady {a s : State} {incs : List IslandInc} (h : Steady a s) : Steady a (dumpNow incs s) :=
  raise_steady (.foldl (snapshot_steady h) fun _ _ k => k.only (chipWrite_only _ _ _ _ _) rfl) (by decide)

theorem writeCtrFreeze_steady {a s : State} {incs : List IslandInc} {val : W64} (h : Steady a s) :
    Steady a (writeCtrFreeze incs val s) :=
  .ite (.ite (h.only (ctrRefuse_only _) rfl) ((snapshot_steady h).set rfl)) (h.set rfl)

theorem clearSticky_steady {a s : State} {i : Nat} {val : W64} (h : Steady a s) : Steady a (clearSticky i val s) := (h.set rfl).set rfl

theorem recordAtAdmission_steady {a s : State} {sub named tag : Nat} {ws : List W64} (h : Steady a s) :
    Steady a (recordAtAdmission sub named tag ws s) :=
  .ite (h.only (putRecord_only _ _ _ _) rfl) (logAdd_steady h)

theorem flowOverrun_steady {a s : State} {f : Nat} (h : Steady a s) : Steady a (flowOverrun f s) :=
  .ite (h.only (flowMod_only _ _ _) rfl) (raise_steady (h.only (flowMod_only _ _ _) rfl) (by decide))

theorem flowUnderrun_steady {a s : State} {f : Nat} (h : Steady a s) : Steady a (flowUnderrun f s) :=
  .ite (h.only (flowMod_only _ _ _) rfl) (raise_steady (h.only (flowMod_only _ _ _) rfl) (by decide))

theorem pedPush_steady {a s : State} {port ctag : Nat} {h : W64} {data : List W64} (hs : Steady a s) :
    Steady a (pedPush port ctag h data s) := by
  unfold pedPush
  dsimp only
  refine .ite ?_ ?_
  · exact hs.only (pedRefuse_only _ _ _ _ _) rfl
  · refine .ite ?_ ?_
    · exact hs.only (pedRefuse_only _ _ _ _ _) rfl
    · refine .ite ?_ ?_
      · exact hs.only (pedRefuse_only _ _ _ _ _) rfl
      · refine .ite ?_ ?_
        · exact hs.only (pedRefuse_only _ _ _ _ _) rfl
        · exact .ite ((flowOverrun_steady hs).only (sendAnswer_only _ _ _ _ _) rfl)
            ((Steady.foldl hs fun _ _ k => k.only (enterItem_only _ _ _) rfl).only (sendAnswer_only _ _ _ _ _) rfl)

theorem correctedCells_steady {a s : State} {n : Nat} (h : Steady a s) : Steady a (correctedCells n s) :=
  .ite (raise_steady (h.set rfl) (by decide)) (h.set rfl)

theorem pedPop_steady {a s : State} {port ctag : Nat} {h : W64} {words : Nat} (hs : Steady a s) :
    Steady a (pedPop port ctag h words s) := by
  unfold pedPop
  dsimp only
  refine .ite ?_ ?_
  · exact hs.only (pedRefuse_only _ _ _ _ _) rfl
  · exact .ite ((flowUnderrun_steady hs).only (sendAnswer_only _ _ _ _ _) rfl)
      (correctedCells_steady ((hs.only (flowMod_only _ _ _) rfl).only (sendAnswer_only _ _ _ _ _) rfl))

theorem subSubmit_steady {a s : State} {val : W64} (h : Steady a s) : Steady a (subSubmit val s) :=
  .ite ((h.only (writeSubWord_only _ _ _) rfl).only (enterItem_only _ _ _) rfl) (flowOverrun_steady (h.only (writeSubWord_only _ _ _) rfl))

theorem endRunItem_steady {a s : State} {flow dur : Nat} {d : RunDesc} {st : Status} (h : Steady a s) :
    Steady a (endRunItem flow dur d st s) :=
  .ite (recordAtAdmission_steady (h.only (dropHead_only _ _) rfl)) h

theorem endXferItem_steady {a s : State} {flow dur : Nat} {d : XferDesc} {st : Status} {replaced : Bool} (h : Steady a s) :
    Steady a (endXferItem flow dur d st replaced s) :=
  .ite (recordAtAdmission_steady (h.only (dropHead_only _ _) rfl)) h

theorem admitRun_steady {a s : State} {flow : Nat} {r : Run} {xs : List Xlat} (h : Steady a s) :
    Steady a (admitRun flow r xs s) := by
  unfold admitRun
  extract_lets +onlyGivenNames s
  have h : Steady a s := (h.only (dropHead_only _ _) rfl).only (cacheLeaves_only _ _) rfl
  clear_value s
  extract_lets +onlyGivenNames s
  have h : Steady a s := (h.only (promise_only _ _) rfl).only (addRef_only _ _ _) rfl
  clear_value s
  extract_lets +onlyGivenNames s
  have h : Steady a s := h.only (flowMod_only _ _ _) rfl
  clear_value s
  exact settle_steady ((h.set (by rfl)).only (countEv_only _ _ _ _) rfl)

theorem admitPassed_steady {a s : State} {flow : Nat} {d : RunDesc} {xs : List Xlat} (h : Steady a s) :
    Steady a (admitPassed flow d xs s) := by
  unfold admitPassed
  split
  · exact .ite (admitRun_steady h) h
  · exact h

theorem admitHead_steady {a s : State} {flow dur : Nat} {v : ChipView} {x : SubItem} (h : Steady a s) :
    Steady a (admitHead flow dur v x s) := by
  unfold admitHead
  dsimp only
  split
  · exact h
  · exact endRunItem_steady h
  · refine .ite h ?_
    refine .ite (endRunItem_steady h) ?_
    split
    · exact endRunItem_steady h
    · exact (h.only (noteWalk_only _ _ _ _) rfl).only (park_only _ _ _) rfl
    · exact admitPassed_steady h

theorem admitXfer_steady {a s : State} {flow : Nat} {d : XferDesc} {src dst : Xlat} (h : Steady a s) :
    Steady a (admitXfer flow d src dst s) := by
  have bound : Steady a (flowMod flow (fun g => { g with barrier := [] }) (promise d.flow
      (cacheLeaves (leavesAll [src, dst]) (dropHead flow s)))) :=
    (((h.only (dropHead_only _ _) rfl).only (cacheLeaves_only _ _) rfl).only (promise_only _ _) rfl).only (flowMod_only _ _ _) rfl
  exact settle_steady ((bound.set (by rfl)).only (countEv_only _ _ _ _) rfl)

theorem admitXferHead_steady {a s : State} {flow dur : Nat} {v : ChipView} {x : SubItem} (h : Steady a s) :
    Steady a (admitXferHead flow dur v x s) := by
  unfold admitXferHead
  dsimp only
  split
  · exact h
  · exact endXferItem_steady h
  · refine .ite h ?_
    refine .ite (endXferItem_steady h) ?_
    split
    · exact endXferItem_steady h
    · exact (h.only (noteWalk_only _ _ _ _) rfl).only (park_only _ _ _) rfl
    · exact .ite (admitXfer_steady h) h
    · exact h

theorem writeFaultRecord_steady {a s : State} {n : Nat} {rest : List Nat} {e : PendEntry} (h : Steady a s) :
    Steady a (writeFaultRecord n rest e s) :=
  raise_steady ((h.only (chipWrite_only _ _ _ _ _) rfl).set rfl) (by decide)

theorem faultRingFull_steady {a s : State} {n : Nat} {e : PendEntry} (h : Steady a s) : Steady a (faultRingFull n e s) :=
  .ite h (raise_steady (h.set rfl) (by decide))

theorem larderUe_steady {a s : State} {block : Nat} (h : Steady a s) : Steady a (larderUe block s) := raise_steady (h.set rfl) (by decide)

theorem flipCw_steady {a s : State} {cw : Nat} {wrong : List (Nat × Nat)} (h : Steady a s) : Steady a (flipCw cw wrong s) :=
  .ite h (hbmWrite_steady h)

theorem correctedHbm_steady {a s : State} {n : Nat} (h : Steady a s) : Steady a (correctedHbm n s) :=
  .ite (raise_steady (h.only (stackMod_only _ _ _) rfl) (by decide)) (h.only (stackMod_only _ _ _) rfl)

theorem poisonHeader_steady {o s : State} {cw a : Nat} (h : Steady o s) : Steady o (poisonHeader cw a s) :=
  .ite h (hbmWrite_steady h)

theorem markRows_steady {a s : State} {cw : Nat} (h : Steady a s) : Steady a (markRows cw s) :=
  .foldl h fun _ _ k => .foldl k fun _ _ k1 => .ite k1 (.foldl k1 fun _ _ k2 => poisonHeader_steady k2)

theorem hbmUe_steady {a s : State} {e : CwErr} {drop : Bool} (h : Steady a s) : Steady a (hbmUe e drop s) := by
  unfold hbmUe
  dsimp only
  refine .ite ?_ ?_
  · exact raise_steady ((h.only (stackMod_only _ _ _) rfl).only (frontDrop_only _ _) rfl) (by decide)
  · refine .only ?_ (stackMod_only _ _ _) rfl
    refine .set (s := markRows _ _) ?_ rfl
    exact markRows_steady (flipCw_steady (raise_steady ((h.only (stackMod_only _ _ _) rfl).only (frontDrop_only _ _) rfl) (by decide)))

theorem fixErrs_steady {a s : State} {rs : List (Nat × Nat)} {errs : List CwErr} (h : Steady a s) :
    Steady a (fixErrs rs errs s) := by
  unfold fixErrs
  refine .foldl h fun _ _ k => ?_
  refine .ite k ?_
  split
  · exact flipCw_steady (.ite (correctedHbm_steady k) k)
  · exact k

theorem loseErrs_steady {a s : State} {bad : List CwErr} (h : Steady a s) : Steady a (loseErrs bad s) :=
  .foldl h fun _ _ k => .ite (hbmUe_steady k) k

theorem correctedLarder_steady {a s : State} {n : Nat} (h : Steady a s) : Steady a (correctedLarder n s) :=
  .ite (raise_steady (h.set rfl) (by decide)) (h.set rfl)

theorem carterErrs_steady {a s : State} {carter ord stream : Nat} {errs : List CwErr} (h : Steady a s) :
    Steady a (carterErrs carter ord stream errs s) :=
  loseErrs_steady (((fixErrs_steady h).only (carterStep_only _ _ _ _) rfl).only (failElems_only _ _ _ _ _) rfl)

theorem resultDone_steady {a s : State} {slot : Nat} {err : Bool} (h : Steady a s) : Steady a (resultDone slot err s) := by
  unfold resultDone
  split
  · exact h
  · exact .ite (post_steady (h.set rfl)) (.ite (post_steady (h.set rfl)) (h.set rfl))

theorem writeDone_steady {a s : State} {r : OutReq} {err : Bool} (h : Steady a s) : Steady a (writeDone r err s) := by
  unfold writeDone
  split
  · exact h.only (tokenDone_only _ _ _ _) rfl
  · exact h.only (xferDone_only _ _ _ _) rfl
  · exact resultDone_steady h
  · exact .ite (logOpen_steady h) h

theorem countCell_steady {a s : State} (h : Steady a s) : Steady a (countCell s) := raise_steady (h.set rfl) (by decide)

theorem finishRun_steady {a s : State} {r : Run} {duration : Nat} (h : Steady a s) : Steady a (finishRun r duration s) := by
  unfold finishRun
  extract_lets +onlyGivenNames s
  have h : Steady a s := h.only (putRecord_only _ _ _ _) rfl
  clear_value s
  exact settle_steady ((h.set (by rfl)).only (dropRef_only _ _ _) rfl)

theorem countClamps_steady {a s : State} {tid n : Nat} (h : Steady a s) : Steady a (countClamps tid n s) :=
  .ite h (satCheck_steady (h.only (asyMod_only _ _ _) rfl))

theorem joinQueue_steady {a s : State} {lent : List (Nat × Nat × Nat)} {port : Nat} {k : Packet} (h : Steady a s) :
    Steady a (joinQueue lent port k s) := by
  unfold joinQueue
  dsimp only
  split
  · split
    · refine countClamps_steady ?_
      refine .only ?_ (countEv_only _ _ _ _) rfl
      refine .only ?_ (oweCells_only _ _) rfl
      refine .ite ?_ ?_
      · exact .ite ((h.only (portMod_only _ _ _) rfl).only (asyMod_only _ _ _) rfl) (h.only (portMod_only _ _ _) rfl)
      · exact (Steady.ite ((h.only (portMod_only _ _ _) rfl).only (asyMod_only _ _ _) rfl) (h.only (portMod_only _ _ _) rfl)).only
          (noteLocalMax_only _ _ _ _) rfl
    · exact h.only (portMod_only _ _ _) rfl
  · exact h.only (portMod_only _ _ _) rfl

theorem noteAbsent_steady {a s : State} {d : Nat} (h : Steady a s) : Steady a (noteAbsent d s) := .ite h
  (raise_steady (h.set rfl) (by decide))

theorem trySendFrom_steady {a s t : State} {lent : List (Nat × Nat × Nat)} {k : Packet} (h : Steady a s)
    (e : trySendFrom lent k s = some t) : Steady a t := by
  unfold trySendFrom at e
  split at e
  · cases e
    exact (h.only (oweCells_only _ _) rfl).only (deliver_only _ _) rfl
  · obtain ⟨p, _, rfl⟩ := Option.map_eq_some_iff.mp e
    exact joinQueue_steady h

theorem trySend_steady {a s t : State} {k : Packet} (h : Steady a s) (e : trySend k s = some t) : Steady a t := trySendFrom_steady h e

theorem unreachable_steady {a s : State} {k : Packet} (h : Steady a s) : Steady a (unreachable k s) := by
  have noted : Steady a (noteAbsent k.hdr.dest s) := noteAbsent_steady h
  unfold unreachable
  dsimp only
  split
  · exact noted.only (refusePartial_only _ _ _) rfl
  · split
    · exact .getD (fun _ e => trySend_steady noted e) (noteAbsent_steady noted)
    · exact noted

theorem relay_steady {a s : State} {k : Packet} (h : Steady a s) : Steady a (relay k s) :=
  .getD (fun _ e => trySend_steady h e) (unreachable_steady h)

theorem sendOwn_steady {a s : State} {dest : Nat} {b : PktBody} (h : Steady a s) : Steady a (sendOwn dest b s) := relay_steady h

theorem meetFilter_steady {a s : State} {key : RowKey} {step : Nat} (h : Steady a s) : Steady a (meetFilter key step s) :=
  .ite (((larderUe_steady h).only (setFilter_only _ _ _) rfl).set rfl) h

theorem meetFilters_steady {a s : State} {key : RowKey} {before : Option Nat} (h : Steady a s) :
    Steady a (meetFilters key before s) := by
  have met : Steady a (match s.ldg.sealedStep with | some q => meetFilter key q s | none => s) := by
    split
    · exact meetFilter_steady h
    · exact h
  unfold meetFilters
  dsimp only
  split
  · exact .ite (meetFilter_steady met) met
  · exact met

theorem lostKept_steady {a s : State} {r : Run} {w : BagWork} {key : RowKey} (h : Steady a s) :
    Steady a (lostKept s r w key) := by
  unfold lostKept
  split
  · exact h
  · split
    · exact h
    · exact (larderUe_steady h).set rfl

theorem lostReplica_steady {a s : State} {r : Run} {key : RowKey} (h : Steady a s) : Steady a (lostReplica s r key) := by
  unfold lostReplica
  dsimp only
  refine .ite ((larderUe_steady h).only (loseReplicas_only _ _) rfl) ?_
  split
  · exact h
  · split
    · exact h
    · exact (larderUe_steady h).only (loseReplicas_only _ _) rfl

theorem readReplicas_steady {a s : State} {col : Nat} {r : Run} {w : BagWork} {t : Table} {key : RowKey} (h : Steady a s) :
    Steady a (readReplicas col r w t key s) := by
  unfold readReplicas
  split
  · exact lostReplica_steady h
  · exact lostReplica_steady h
  · exact h

theorem loseMap_steady {a s : State} {map : Nat} (h : Steady a s) : Steady a (loseMap map s) := by
  unfold loseMap
  split
  · exact h
  · exact .ite h (logOpen_steady (h.set rfl))

theorem readMap_steady {a s : State} {t : Table} {key : RowKey} {home : Bool} (h : Steady a s) :
    Steady a (readMap t key home s) := by
  unfold readMap
  split
  · exact h
  · exact .foldl h fun _ _ k => .ite (loseMap_steady (k.only (countPoisons_only _ _) rfl)) (k.only (frontRead_only _ _ _ _ _) rfl)

theorem readHomeMap_steady {a s : State} {col : Nat} {r : Run} {w : BagWork} {t : Table} {key : RowKey} (h : Steady a s) :
    Steady a (readHomeMap col r w t key s) := by
  unfold readHomeMap
  split
  · exact h
  · exact h
  · exact h
  · exact readMap_steady h

theorem readIndex_steady {a s : State} {col : Nat} {r : Run} {w : BagWork} {t : Table} {key : RowKey} (h : Steady a s) :
    Steady a (readIndex col r w t key s) := by
  unfold readIndex
  refine readReplicas_steady ?_
  refine readHomeMap_steady ?_
  split
  · exact lostKept_steady h
  · exact h

theorem sendRead_steady {a s t : State} {node : Nat} {p : ReadPkt} {purpose : ReqFor} (h : Steady a s)
    (e : sendRead node p purpose s = some t) : Steady a t := by
  obtain ⟨u, sent, rfl⟩ := Option.map_eq_some_iff.mp e
  exact (trySend_steady h sent).set rfl

theorem issueRead_steady {a s : State} {col mill : Nat} {r : Run} {w : BagWork} {t : Table} {key : RowKey} (h : Steady a s) :
    Steady a (issueRead col mill r w t key s) := by
  unfold issueRead
  dsimp only
  split
  · exact (h.only (countLookup_only _ _ _ _ _ _) rfl).only (setWork_only _ _ _ _) rfl
  · exact h
  · refine .ite ?_ ?_
    · exact (Steady.ite ((h.only (countLookup_only _ _ _ _ _ _) rfl).only (setWork_only _ _ _ _) rfl) h).only (pinMod_only _ _ _ _) rfl
    · exact .ite ((h.only (countLookup_only _ _ _ _ _ _) rfl).only (setWork_only _ _ _ _) rfl) h
  · exact .ite (((h.set (by rfl)).only (countLookup_only _ _ _ _ _ _) rfl).only (setWork_only _ _ _ _) rfl) h
  · refine .ite h ?_
    split
    · exact h
    · split
      next e => exact ((sendRead_steady h e).only (countLookup_only _ _ _ _ _ _) rfl).only (setWork_only _ _ _ _) rfl
      · exact ((noteAbsent_steady h).only (countLookup_only _ _ _ _ _ _) rfl).only (setWork_only _ _ _ _) rfl

theorem loseHotCopy_steady {a s : State} {tid slot da : Nat} (h : Steady a s) : Steady a (loseHotCopy tid slot da s) :=
  (startMove_steady (h.only (dropCopy_only _ _ _ _) rfl)).only (countReplicaDropped_only _ _) rfl

theorem lostHotCopy_steady {a s : State} {t : Table} {slot : Nat} {key : RowKey} (h : Steady a s) :
    Steady a (lostHotCopy t slot key s) := by
  unfold lostHotCopy
  split
  · exact h
  · split
    · exact h
    · exact loseHotCopy_steady (larderUe_steady h)

theorem noteStatus_steady {a s : State} {st : Status} (h : Steady a s) : Steady a (noteStatus st s) := .ite (raise_steady h (by decide)) h

theorem countSubst_steady {a s : State} {tid : Nat} {xs : List W32} (h : Steady a s) : Steady a (countSubst tid xs s) :=
  .ite h (satCheck_steady (h.only (asyMod_only _ _ _) rfl))

theorem sendEntry_steady {a s : State} {t : Table} {epoch gaining : Nat} {e : LEntry} (h : Steady a s) :
    Steady a (sendEntry t epoch gaining e s) := by
  unfold sendEntry
  refine .foldl h fun _ _ k => ?_
  dsimp only
  exact countClamps_steady (countSubst_steady (sendOwn_steady (.ite k (k.only (noteLocalMax_only _ _ _ _) rfl))))

theorem handOver_steady {a s : State} {t : Table} {h : HomeRead} {gaining : Nat} (hs : Steady a s) :
    Steady a (handOver t h gaining s) := by
  unfold handOver
  split
  · exact hs
  · extract_lets +onlyGivenNames s
    have h : Steady a s := hs.set rfl
    clear_value s
    extract_lets +onlyGivenNames s
    have h : Steady a s := h.only (fwdMod_only _ _ _) rfl
    clear_value s
    dsimp only
    split
    · exact h
    · exact sendEntry_steady ((h.set (by rfl)).only (fwdMod_only _ _ _) rfl)

theorem serveSlice_steady {a s : State} {t : Table} {h : HomeRead} {gaining : Nat} (hs : Steady a s) :
    Steady a (serveSlice t h gaining s) := by
  unfold serveSlice
  split
  · exact hs
  · exact .ite (hs.set rfl) (handOver_steady (hs.set rfl))

theorem serveNode_steady {a s : State} {src tag : Nat} {t : Table} {h : HomeRead} {st : Status} {prov : Bool}
    {d : Option RowSlice} (hs : Steady a s) :
    Steady a (serveNode src tag t h st prov d s) := by
  unfold serveNode
  extract_lets +onlyGivenNames s
  have h : Steady a s := .ite (hs.only (subscribe_only _ _ _ _) rfl) hs
  clear_value s
  dsimp only
  refine .ite ?_ ?_
  · exact serveSlice_steady ((sendOwn_steady (.ite (h.only (readCseq_only _ _ _) rfl) h)).only (dropRef_only _ _ _) rfl)
  · exact (sendOwn_steady (.ite (h.only (readCseq_only _ _ _) rfl) h)).only (dropRef_only _ _ _) rfl

theorem serveHome_steady {a s : State} {idx : Nat} {h : HomeRead} {t : Table} {st : Status}
    {d : Option RowSlice} (hs : Steady a s) :
    Steady a (serveHome idx h t st d s) := by
  unfold serveHome
  dsimp only
  split
  · exact (hs.set (by rfl)).only (answerMill_only _ _ _ _ _ _ _ _ _) rfl
  · exact serveNode_steady (hs.set rfl)

theorem readHere_steady {a s : State} {t : Table} {h : HomeRead} (hs : Steady a s) : Steady a (readHere t h s).2 := by
  unfold readHere
  dsimp only
  exact lostHotCopy_steady ((noteStatus_steady (hs.only (noteRead_only _ _) rfl)).only (frontHomeRead_only _ _ _) rfl)

theorem serveRead_steady {a s : State} {idx : Nat} {h : HomeRead} {t : Table} {errs : List CwErr}
    {lines : List Nat} (hs : Steady a s) :
    Steady a (serveRead idx h t errs lines s) := by
  unfold serveRead
  extract_lets +onlyGivenNames s
  have h : Steady a s := readMap_steady hs
  clear_value s
  dsimp only
  refine .ite ?_ ?_
  · exact serveHome_steady (readHere_steady (fixErrs_steady (h.only (dropLines_only _ _ _) rfl)))
  · exact loseErrs_steady (serveHome_steady ((fixErrs_steady (h.only (dropLines_only _ _ _) rfl)).only (frontHomeRead_only _ _ _) rfl))

theorem poolRow_steady {a s : State} {col mill : Nat} {r : Run} {t : Table} {w : BagWork} {l : Lookup × W32} {x : MillRead}
    {v : ChipView} (h : Steady a s) :
    Steady a (poolRow col mill r t w l x v s) := by
  unfold poolRow
  split
  · exact noteStatus_steady (h.only (failOn_only _ _ _ _ _) rfl)
  · split
    · exact h.only (replayBag_only _ _ _ _ _ _ _) rfl
    · split
      next e =>
        dsimp only
        exact ((Steady.of_snd e (h.only (keepNow_only _ _ _ _) rfl)).only (colEvent_only _ _ _ _ _ _) rfl).only
          (consume_only _ _ _ _ _ _) rfl

theorem arriveWords_steady {a s : State} {col : Nat} {r : Run} {w : BagWork} {x : MillRead} {sram words : Nat} (h : Steady a s) :
    Steady a (arriveWords col r w x sram words s).2 := by
  unfold arriveWords
  exact (Steady.ite (correctedLarder_steady h) h).only (colEvent_only _ _ _ _ _ _) rfl

theorem askPromotion_steady {a s : State} {col step : Nat} {x : WaitRow} (h : Steady a s) :
    Steady a (askPromotion col step x s).1 := by
  unfold askPromotion
  dsimp only
  split
  · exact h.set rfl
  · split
    next e => exact trySend_steady h e
    · exact noteAbsent_steady h

theorem askAll_steady {a s : State} {col step : Nat} {rows : List WaitRow} (h : Steady a s) :
    Steady a (askAll col step rows s).1 := by
  induction rows generalizing s with
  | nil => exact h
  | cons x rows ih =>
    have first : Steady a (if awaitsKey (colOf s col) x.key then (s, true) else askPromotion col step x s).1 := by
      split
      · exact h
      · exact askPromotion_steady h
    exact ih first

theorem waitBag_steady {a s : State} {col mill : Nat} {r : Run} {w : BagWork} (h : Steady a s) :
    Steady a (waitBag col mill r w s) := by
  unfold waitBag
  dsimp only
  refine .ite ?_ ?_
  · exact h
  · exact .ite ((askAll_steady h).only (failOn_only _ _ _ _ _) rfl) ((((askAll_steady h).only (bagMod_only _ _ _ _) rfl).only
      (freeMill_only _ _ _) rfl).only (colMod_only _ _ _) rfl)

theorem endForward_steady {a s : State} {col mill : Nat} {r : Run} {w : BagWork} (h : Steady a s) :
    Steady a (endForward col mill r w s) := by
  unfold endForward
  refine .ite (waitBag_steady h) ?_
  split
  · split
    next e => exact (Steady.of_snd e (h.only (colEvent_only _ _ _ _ _ _) rfl)).only (leaveBag_only _ _ _ _ _ _) rfl

theorem endSlice_steady {a s : State} {col mill : Nat} {r : Run} {t : Table} {w : BagWork} (h : Steady a s) :
    Steady a (endSlice col mill r t w s) :=
  .ite (h.only (millMod_only _ _ _ _) rfl) (.ite (h.only (endBackward_only _ _ _ _ _ _) rfl) (endForward_steady h))

theorem encodeRemote_steady {a s : State} {t : Table} {k : MergeKey} {raw : List W32} {contrib tokens : Nat} (h : Steady a s) :
    Steady a (encodeRemote t k raw contrib tokens s).2 := by
  unfold encodeRemote
  split
  · exact countClamps_steady (.ite ((Steady.ite h (h.only (noteLocalMax_only _ _ _ _) rfl)).only (asyMod_only _ _ _) rfl)
      (.ite h (h.only (noteLocalMax_only _ _ _ _) rfl)))

theorem emitSlot_steady {a s : State} {runs : List Nat} {x : MergeSlot} (h : Steady a s) : Steady a (emitSlot runs x s) := by
  unfold emitSlot
  split
  · exact h
  · dsimp only
    exact .ite ((countSubst_steady h).set rfl) ((encodeRemote_steady (countSubst_steady h)).set rfl)

theorem dropSlot_steady {a s : State} (h : Steady a s) : Steady a (dropSlot s) := raise_steady (h.set rfl) (by decide)

theorem flushColumn_steady {a s : State} {col : Nat} (h : Steady a s) : Steady a (flushColumn col s) := by
  unfold flushColumn
  dsimp only
  refine .only ?_ (colMod_only _ _ _) rfl
  refine .only ?_ (countEv_only _ _ _ _) rfl
  exact (Steady.foldl (.foldl h fun _ _ k => .ite (dropSlot_steady k) (emitSlot_steady k)) fun _ _ k => k.only
    (runMod_only _ _ _) rfl).only (countEv_only _ _ _ _) rfl

theorem noteLate_steady {a s : State} {f : Fate} {pre : Bool} (h : Steady a s) : Steady a (noteLate f pre s) :=
  .ite h (.ite (.ite (raise_steady (h.set rfl) (by decide)) h) (.ite (raise_steady (h.set rfl) (by decide)) h))

theorem meetRecord_steady {a s : State} {key : RowKey} {step : Nat} (h : Steady a s) : Steady a (meetRecord key step s) := by
  unfold meetRecord
  split
  · exact h
  · split
    · exact h
    · exact (larderUe_steady h).set rfl

theorem spillOut_steady {a s : State} {c : Contrib} {step : Nat} {deferred : Bool} (h : Steady a s) :
    Steady a (spillOut c step deferred s) :=
  (((hbmWrite_steady (h.set (by rfl))).only (setFilter_only _ _ _) rfl).only (countDeferred_only _ _) rfl).only (countEv_only _ _ _ _) rfl

theorem loseEntry_steady {a s : State} {pos : Nat} (h : Steady a s) : Steady a (loseEntry pos s) := .ite
  (raise_steady (h.set rfl) (by decide)) h

theorem foldInto_steady {a s t : State} {c : Contrib} {step : Nat} {deferred pre : Bool} {pos : Nat} (h : Steady a s)
    (e : foldInto c step deferred pre pos s = some t) : Steady a t := by
  unfold foldInto at e
  dsimp only at e
  split at e
  · cases e
    exact (meetRecord_steady h).only (foldEntry_only _ _ _ _) rfl
  · split at e
    · split at e
      · cases e
        exact (h.only (createEntry_only _ _ _ _ _) rfl).only (foldEntry_only _ _ _ _) rfl
      · cases e
    · split at e
      · cases e
        exact spillOut_steady h
      · cases e

theorem forwardPartial_steady {a s : State} {c : Contrib} {home : Nat} (h : Steady a s) : Steady a (forwardPartial c home s) := by
  unfold forwardPartial
  split
  · exact h
  · extract_lets +onlyGivenNames s
    have h : Steady a s := h.only (fwdMod_only _ _ _) rfl
    clear_value s
    split
    · exact relay_steady h
    · split
      next e => exact sendOwn_steady (Steady.of_snd e (encodeRemote_steady h))

theorem settleFate_steady {a s t : State} {c : Contrib} {f : Fate} {pre : Bool} {pos : Nat} (h : Steady a s)
    (e : settleFate c f pre pos s = some t) : Steady a t := by
  unfold settleFate at e
  split at e
  · exact foldInto_steady h e
  · obtain ⟨b, _, rfl⟩ := Option.map_eq_some_iff.mp e
    exact (h.set (by rfl)).only (cleanBlocks_only _ _ _) rfl
  · cases e
    exact h.only (discard_only _ _ _) rfl
  · cases e
    exact forwardPartial_steady h

theorem losePen_steady {a s : State} {b : Nat} (h : Steady a s) : Steady a (losePen b s) := larderUe_steady (h.set rfl)

theorem foldPen_steady {a s : State} {i : Nat} {c : Contrib} {pos : Nat} (h : Steady a s) : Steady a (foldPen i c pos s) := by
  unfold foldPen
  dsimp only
  split
  · exact losePen_steady (h.set rfl)
  · split
    next e => exact .ite (noteLate_steady (settleFate_steady (h.set (by rfl)) e)) (settleFate_steady (h.set (by rfl)) e)
    · exact h

theorem foldHead_steady {a s : State} {c : Contrib} {rest : List Contrib} {pos : Nat} (h : Steady a s) :
    Steady a (foldHead c rest pos s) := by
  unfold foldHead
  dsimp only
  split
  next e => exact noteLate_steady (((settleFate_steady (h.set (by rfl)) e).only (partialTaken_only _ _) rfl).only (markRuns_only _ _ _) rfl)
  · split
    · exact h.set rfl
    · exact h

theorem foldNext_steady {a s : State} {pos : Nat} (h : Steady a s) : Steady a (foldNext pos s) := by
  unfold foldNext
  split
  · exact foldPen_steady h
  · split
    · exact foldHead_steady h
    · exact h

theorem resolveOne_steady {a s : State} {c : Contrib} (h : Steady a s) : Steady a (resolveOne c s).1 := by
  unfold resolveOne
  split
  · exact losePen_steady h
  · dsimp only
    split
    · exact (h.only (markRuns_only _ _ _) rfl).only (discard_only _ _ _) rfl
    · exact forwardPartial_steady (h.only (markRuns_only _ _ _) rfl)
    · exact (h.only (markRuns_only _ _ _) rfl).set rfl
    · exact (h.only (markRuns_only _ _ _) rfl).set rfl

theorem resolvePen_steady {a s : State} (h : Steady a s) : Steady a (resolvePen s) := by
  have resolved := Steady.foldl_fst (f := fun (p : State × Bool) c => ((resolveOne c p.1).1, p.2 || (resolveOne c p.1).2))
    (xs := s.ldg.pen) (p := ({ s with ldg := { s.ldg with pen := [] } }, false)) (h.set rfl) fun _ _ k => resolveOne_steady k
  exact .ite (raise_steady resolved (by decide)) resolved

theorem openStepAt_steady {a s : State} {step : Nat} {l : List (Nat × Nat)} (h : Steady a s) :
    Steady a (openStepAt step l s) := by
  unfold openStepAt
  dsimp only
  refine .ite ?_ ?_
  · refine resolvePen_steady ?_
    refine .set (s := setAgreed step l _) ?_ rfl
    exact ((Steady.ite (h.only (strayPen_only _) rfl) h).only (setAgreed_only _ _ _) rfl).only (setAgreed_only _ _ _) rfl
  · refine .set (s := setAgreed step l _) ?_ rfl
    exact ((Steady.ite (h.only (strayPen_only _) rfl) h).only (setAgreed_only _ _ _) rfl).only (setAgreed_only _ _ _) rfl

theorem writeState_steady {o s : State} {t : Table} {a : Nat} {x : OptState} (h : Steady o s) :
    Steady o (writeState t a x s).1 := by
  unfold writeState
  split
  · exact hbmWrite_steady h

theorem unhold_steady {a s : State} {tid slot : Nat} {was now : DirEnt} (h : Steady a s) :
    Steady a (unhold tid slot was now s) := by
  unfold unhold
  split
  · exact h
  · exact .ite h (writeShelf_steady h)

theorem finishMove_steady {a s : State} {m : RowMove} (h : Steady a s) : Steady a (finishMove m s) := by
  unfold finishMove
  dsimp only
  refine .ite ((h.only (settleRetired_only _ _) rfl).only (dropCopy_only _ _ _ _) rfl) ?_
  refine .ite ((unhold_steady ((writeDir_steady (h.only (settleRetired_only _ _) rfl)).only (dropCopy_only _ _ _ _) rfl)).only
    (leaveShelf_only _ _ _ _) rfl) ?_
  split
  · exact (unhold_steady ((writeDir_steady (h.only (settleRetired_only _ _) rfl)).only (dropCopy_only _ _ _ _) rfl)).only
      (leaveShelf_only _ _ _ _) rfl
  · refine .only ?_ (cleanBlocks_only _ _ _) rfl
    exact ((unhold_steady ((writeDir_steady (h.only (settleRetired_only _ _) rfl)).only (dropCopy_only _ _ _ _) rfl)).only
      (leaveShelf_only _ _ _ _) rfl).set rfl

theorem crierSend_steady {a s : State} {node : Nat} {b : Nat → PktBody} (h : Steady a s) : Steady a (crierSend node b s) :=
  sendOwn_steady ((h.only (readCseq_only _ _ _) rfl).set rfl)

theorem crierRow_steady {a s : State} {t : Table} {slot : Nat} {key : RowKey} {d : RowSlice} (h : Steady a s) :
    Steady a (crierRow t slot key d s) :=
  .foldl h fun _ _ k => .foldl k fun _ _ k1 => (crierSend_steady k1).only (commitMod_only _ _) rfl

theorem sendMarks_steady {a s : State} (h : Steady a s) : Steady a (sendMarks s) :=
  .foldl h fun _ _ k => .foldl k fun _ _ k1 => (crierSend_steady k1).only (commitMod_only _ _) rfl

theorem sendNotice_steady {a s : State} {q : PromoReq} (h : Steady a s) : Steady a (sendNotice q s) := by
  unfold sendNotice
  split
  · exact h.only (colMod_only _ _ _) rfl
  · exact sendOwn_steady h
  · exact h

theorem noticeKey_steady {a s : State} {key : RowKey} (h : Steady a s) : Steady a (noticeKey key s) :=
  .foldl (h.only (commitMod_only _ _) rfl) fun _ _ k => sendNotice_steady k

theorem noticeAll_steady {a s : State} (h : Steady a s) : Steady a (noticeAll s) :=
  .foldl (h.only (commitMod_only _ _) rfl) fun _ _ k => sendNotice_steady k

theorem takePromotion_steady {a s : State} {q : PromoReq} (h : Steady a s) : Steady a (takePromotion q s) := by
  unfold takePromotion
  extract_lets +onlyGivenNames s
  have h : Steady a s := .ite (meetFilter_steady h) h
  clear_value s
  exact .ite (sendNotice_steady h) (.ite (h.only (commitMod_only _ _) rfl) (.ite
    ((h.only (queuePromoted_only _ _) rfl).only (commitMod_only _ _) rfl) (sendNotice_steady h)))

theorem writeJournal_steady {a s : State} {step : Nat} {es : List JEntry} (h : Steady a s) : Steady a (writeJournal step es s) :=
  .foldl h fun _ _ k => hbmWrite_steady k

theorem advanceSpill_steady {a s : State} (h : Steady a s) : Steady a (advanceSpill s) :=
  .ite (noticeAll_steady ((Steady.ite (h.only (commitMod_only _ _) rfl) h).only (commitMod_only _ _) rfl))
    (.ite (h.only (commitMod_only _ _) rfl) h)

theorem writeDefault_steady {a s : State} {tid slot : Nat} {m : RowMeta} {xs : List W32} (h : Steady a s) :
    Steady a (writeDefault tid slot m xs s) := by
  unfold writeDefault
  split
  · exact h
  · exact assay_steady (hbmWrite_steady h)

theorem writeUpdate_steady {a s : State} {t : Table} {p : RowPlace} {e : JEntry} {h : Hdr} {xs : List W32} {st : OptState}
    (hs : Steady a s) : Steady a (writeUpdate t p e h xs st s) := by
  have state (ys : OptState) : Steady a (if stateBytes t.opt t.dim = 0 then (s, 0) else writeState t p.stateA ys s).1 := by
    split
    · exact hs
    · exact writeState_steady hs
  unfold writeUpdate
  dsimp only
  refine .ite (writeDefault_steady ((state _).only (commitMod_only _ _) rfl)) (.ite ?copied ?plain)
  case copied => exact (writeRowAt_steady ((state _).only (commitMod_only _ _) rfl)).only (refreshCopy_only _ _ _ _) rfl
  case plain => exact writeRowAt_steady ((state _).only (commitMod_only _ _) rfl)

theorem crierKey_steady {a s : State} {t : Table} {p : RowPlace} {key : RowKey} (h : Steady a s) :
    Steady a (crierKey t p key s) := by
  unfold crierKey
  split
  · exact crierRow_steady h
  · exact h

theorem recordBad_steady {a s : State} {e : JEntry} {bad : Option Nat} (h : Steady a s) : Steady a (recordBad e bad s).2 := by
  unfold recordBad
  split
  · split
    · exact h.only (countPoisonRead_only _ _) rfl
    · exact h
  · dsimp only
    split
    · exact larderUe_steady (meetRecord_steady h)
    · exact meetRecord_steady h

theorem applyGet_steady {a s : State} {t : Table} {p : RowPlace} {e : JEntry} {bad : Option Nat}
    {errs : List CwErr} (h : Steady a s) :
    Steady a (applyGet t p e bad errs s).2 := by
  unfold applyGet
  dsimp only
  refine loseErrs_steady ?_
  split
  · exact ((recordBad_steady (fixErrs_steady h)).only (noteRead_only _ _) rfl).only (countPoisonRead_only _ _) rfl
  · exact (recordBad_steady (fixErrs_steady h)).only (noteRead_only _ _) rfl

theorem applyRow_steady {a s : State} {t : Table} {p : RowPlace} {e : JEntry} {bad : Option Nat}
    {errs : List CwErr} (h : Steady a s) :
    Steady a (applyRow t p e bad errs s).2 := by
  unfold applyRow
  split
  next e => exact crierKey_steady (raise_steady (Steady.of_snd e (applyGet_steady h)) (by decide))
  · dsimp only
    split
    next e _ => exact crierKey_steady (Steady.of_snd e (applyGet_steady h))
    next e _ => exact crierKey_steady (writeUpdate_steady (Steady.of_snd e (applyGet_steady h)))

theorem markApplied_steady {a s : State} {key : RowKey} (h : Steady a s) : Steady a (markApplied key s) := noticeKey_steady (h.set rfl)

theorem applyEntry_steady {a s : State} {e : JEntry} {bad : Option Nat} {errs : List CwErr} (h : Steady a s) :
    Steady a (applyEntry e bad errs s) := by
  unfold applyEntry
  split
  · exact (markApplied_steady (h.only (commitMod_only _ _) rfl)).only (freeEntry_only _ _) rfl
  · split
    next e => exact (markApplied_steady (((Steady.of_snd e (applyRow_steady h)).only (commitMod_only _ _) rfl).only
      (countEv_only _ _ _ _) rfl)).only (freeEntry_only _ _) rfl

theorem scanSpill_steady {a : State} {p : Scan × State} {r : Spill} (h : Steady a p.2) : Steady a (scanSpill p r).2 := by
  unfold scanSpill
  split
  · exact raise_steady ((h.only (loseSpill_only _ _) rfl).only (countPoisonRead_only _ _) rfl) (by decide)
  · exact h.only (foldSpillRec_only _ _ _) rfl

theorem scanSpills_steady {a s : State} (h : Steady a s) : Steady a (scanSpills s) := by
  have scanned := Steady.foldl_snd (f := scanSpill) (xs := s.ldg.commit.spillLeft) (p := (⟨[], [], 0⟩, s)) h
    fun _ _ k => scanSpill_steady k
  unfold scanSpills
  split
  next e =>
    rw [e] at scanned
    exact scanned.only (commitMod_only _ _) rfl

theorem advance_steady {a s : State} (h : Steady a s) : Steady a (advance s) := by
  unfold advance
  extract_lets +onlyGivenNames s
  have h : Steady a s := (advanceSpill_steady h).only (settleRebuilds_only _) rfl
  clear_value s
  exact .ite (sendMarks_steady (h.only (commitMod_only _ _) rfl)) h

theorem copyRow_steady {a s : State} {tid slot shelf dst : Nat} {delta : Int} {p : Nat × DirEnt} (h : Steady a s) :
    Steady a (copyRow tid slot shelf dst delta p s).1 := by
  unfold copyRow
  split
  · exact h
  · dsimp only
    exact startMove_steady (assay_steady ((writeShelf_steady (hbmWrite_steady
      (hbmWrite_steady (h.only (countPoisons_only _ _) rfl)))).only (shelfMod_only _ _ _ _ _) rfl))

theorem crierAt_steady {a s : State} {tid slot row : Nat} {e : DirEnt} (h : Steady a s) :
    Steady a (crierAt tid slot row e s) := by
  unfold crierAt
  split
  · exact h
  · refine .ite h ?_
    split
    · exact crierRow_steady h
    · exact h

theorem copyRows_steady {a s : State} {tid slot shelf dst : Nat} {delta : Int} {rows : List (Nat × DirEnt)} (h : Steady a s) :
    Steady a (copyRows tid slot shelf dst delta rows s) := by
  unfold copyRows
  refine .foldl h fun _ _ k => ?_
  split
  · split
    · split
      next e _ _ _ _ _ _ => exact crierAt_steady ((Steady.of_fst e (copyRow_steady k)).only (rebuildsMod_only _ _) rfl)
      next e _ _ _ => exact Steady.of_fst e (copyRow_steady k)
    next e _ => exact Steady.of_fst e (copyRow_steady k)

theorem rebuildShelf_steady {a s : State} {t : Table} {d : Due} {i : ShelfInfo} {dst : Nat} (h : Steady a s) :
    Steady a (rebuildShelf t d i dst s) := by
  unfold rebuildShelf
  dsimp only
  refine .only ?_ (commitMod_only _ _) rfl
  exact ((copyRows_steady (writeShelf_steady (newShelf_steady (h.only (rebuildsMod_only _ _) rfl)))).only
    (shelfMod_only _ _ _ _ _) rfl).only (shelfMod_only _ _ _ _ _) rfl

theorem resendRecoded_steady {a s : State} {j : Journal} (h : Steady a s) : Steady a (resendRecoded j s) := by
  unfold resendRecoded
  refine .foldl h fun _ _ k => ?_
  split
  · exact k
  · refine .foldl k fun _ _ k1 => ?_
    split
    · exact crierAt_steady k1
    · exact k1

theorem meetEntries_steady {a s : State} {q : Nat} (h : Steady a s) : Steady a (meetEntries q s) :=
  .foldl h fun _ _ k => meetFilter_steady (meetRecord_steady k)

theorem flushJournal_steady {a s : State} {j : Journal} (h : Steady a s) : Steady a (flushJournal j s) := by
  unfold flushJournal
  exact ((writeJournal_steady (meetEntries_steady h)).set (by rfl)).only (commitMod_only _ _) rfl

theorem finishCommit_steady {a s : State} {duration : Nat} (h : Steady a s) : Steady a (finishCommit duration s) := by
  unfold finishCommit
  dsimp only
  refine settle_steady ?_
  refine .ite ?_ ?_
  · exact reportAll_steady (raise_steady (((noticeAll_steady (h.only (commitMod_only _ _) rfl)).only (freeStep_only _ _) rfl).only
      (asyCommitEnd_only _) rfl) (by decide))
  · exact raise_steady (((noticeAll_steady (h.only (commitMod_only _ _) rfl)).only (freeStep_only _ _) rfl).only (asyCommitEnd_only _)
      rfl) (by decide)

theorem openSlot_steady {a s : State} {tid i rows shelves : Nat} {p : Placement} (h : Steady a s) :
    Steady a (openSlot tid i rows shelves p s) := by
  unfold openSlot
  extract_lets +onlyGivenNames s
  have h : Steady a s := h.only (forgetSlot_only _ _ _) rfl
  clear_value s
  split
  · exact h
  · exact (hbmClear_steady (h.set (by rfl))).only (asySpanStart_only _ _ _) rfl

theorem createTable_steady {a s : State} {bs : List Byte} {p : Placement} (h : Steady a s) : Steady a (createTable bs p s) :=
  openSlot_steady ((h.set (by rfl)).only (asyMod_only _ _ _) rfl)

theorem writeRecState_steady {a s : State} {tid i ix : Nat} {r : LoadRec} (h : Steady a s) :
    Steady a (writeRecState tid i ix r s) := by
  unfold writeRecState
  split
  · exact h
  · exact .ite h (writeState_steady h)

theorem loadRow_steady {a s u : State} {tid i : Nat} {m : RowMeta} {cls : RowClass} {r : LoadRec} {ix : Nat} (h : Steady a s)
    (e : loadRow tid i m cls r ix s = some u) : Steady a u := by
  unfold loadRow at e
  split at e
  · cases e
  · dsimp only at e
    split at e
    · cases e
      exact writeRowAt_steady h
    · obtain ⟨p, placed, rfl⟩ := Option.map_eq_some_iff.mp e
      have row : Steady a p.2.2 := placeRow_steady h placed
      exact writeDir_steady (.ite (unhold_steady row) row)

theorem loadWrite_steady {a s u : State} {tid i stamp : Nat} {t : Table} {r : LoadRec} (h : Steady a s)
    (e : loadWrite tid i stamp t r s = some u) : Steady a u := by
  unfold loadWrite at e
  dsimp only at e
  split at e
  · cases e
    exact writeRecState_steady (writeDefault_steady h)
  · split at e
    · cases e
    · obtain ⟨v, loaded, rfl⟩ := Option.map_eq_some_iff.mp e
      exact writeRecState_steady (loadRow_steady h loaded)

theorem rewriteCodeword_steady {a s : State} {v : VSlot} {entries da : Nat} (h : Steady a s) :
    Steady a (rewriteCodeword v entries da s) :=
  hbmWrite_steady h

theorem endMoves_steady {a s : State} {da : Nat} (h : Steady a s) : Steady a (endMoves da s) :=
  .foldl (h.set rfl) fun _ _ k => finishMove_steady k

theorem restoreRow_steady {a s u : State} {tid i stamp : Nat} {t : Table} {r : LoadRec} {ix : Nat} (h : Steady a s)
    (e : restoreRow tid i stamp t r ix s = some u) : Steady a u := by
  unfold restoreRow at e
  obtain ⟨p, placed, rfl⟩ := Option.map_eq_some_iff.mp e
  have row : Steady a (writeRecState tid i ix r p.2.2) := writeRecState_steady (placeRow_steady (endMoves_steady h) placed)
  refine .ite ((startMove_steady row).only (dropCopy_only _ _ _ _) rfl) (writeDir_steady (.only (.ite ?_ row) (dropCopy_only _ _ _ _) rfl))
  exact rewriteCodeword_steady row

theorem restoreCrier_steady {a s : State} {tid i : Nat} {r : LoadRec} (h : Steady a s) : Steady a (restoreCrier tid i r s) := by
  unfold restoreCrier
  split
  · exact h
  · exact crierKey_steady h

theorem restoreWrite_steady {a s u : State} {tid i stamp : Nat} {t : Table} {r : LoadRec} (h : Steady a s)
    (e : restoreWrite tid i stamp t r s = some u) : Steady a u := by
  have started : Steady a (asySpanStart tid spanRestore s) := h.only (asySpanStart_only _ _ _) rfl
  obtain ⟨v, written, rfl⟩ := Option.map_eq_some_iff.mp e
  refine .only ?_ (asySpanEnd_only _ _ _) rfl
  split at written
  · cases written
    exact writeRecState_steady (writeDefault_steady started)
  · obtain ⟨ix, _, restored⟩ := Option.bind_eq_some_iff.mp written
    exact restoreRow_steady started restored

theorem sendPlaces_steady {a s u : State} {home : Nat} {pkt : ReadPkt} {resync : Bool} {ks : List Nat} (h : Steady a s)
    (e : sendPlaces home pkt resync ks s = some u) : Steady a u := by
  induction ks generalizing s with
  | nil =>
    cases e
    exact h
  | cons k ks ih =>
    unfold sendPlaces at e
    split at e
    · cases e
    · split at e
      next sent => exact ih (sendRead_steady h sent) e
      · cases e

theorem askReplica_steady {a s u : State} {tid row : Nat} {r : Refresh} (h : Steady a s)
    (e : askReplica tid row r s = some u) : Steady a u := by
  have refused : Steady a (refreshMod (fun r => { r with readFailed := r.readFailed + 1 }) s) := h.only (refreshMod_only _ _) rfl
  unfold askReplica at e
  dsimp only at e
  split at e
  · cases e
    exact refused
  · split at e
    · split at e
      · cases e
        exact refused
      · split at e
        · cases e
          exact h
        · split at e
          · cases e
            exact h.only (refreshMod_only _ _) rfl
          · split at e
            · cases e
            · split at e
              · cases e
                exact noteAbsent_steady refused
              next sent =>
                cases e
                exact (sendPlaces_steady h sent).only (refreshMod_only _ _) rfl
    · cases e
      exact refused

theorem askReplicas_steady {a s : State} {n : Nat} (h : Steady a s) : Steady a (askReplicas n s) := by
  induction n generalizing s with
  | zero => exact h
  | succ n ih =>
    unfold askReplicas
    split
    · exact h
    · split
      · exact h
      · split
        next e => exact ih (askReplica_steady (h.only (refreshMod_only _ _) rfl) e)
        · exact h

theorem endRefresh_steady {a s : State} {r : Refresh} (h : Steady a s) : Steady a (endRefresh r s) := by
  have ended : Steady a (untake r.slot { s with lrd := { s.lrd with refresh := none } }) := untake_steady (h.set rfl)
  unfold endRefresh
  dsimp only
  split
  · exact postFinal_steady ended
  · exact postFinal_steady (.foldl ended fun _ _ k => k.only (unsubscribe_only _ _ _ _) rfl)

theorem stepRefresh_steady {a s : State} (h : Steady a s) : Steady a (stepRefresh s) := by
  unfold stepRefresh
  split
  · exact h
  · extract_lets +onlyGivenNames s
    have h : Steady a s := askReplicas_steady h
    clear_value s
    split
    · exact h
    · exact .ite (endRefresh_steady h) h

theorem writeMigrated_steady {a s : State} {map : Nat} {t : Table} {tid slot ix row : Nat} {got : List RowPkt} (h : Steady a s) :
    Steady a (writeMigrated map t tid slot ix row got s) := by
  have reclaimed : Steady a (reclaim tid slot s) := h.only (reclaim_only _ _ _) rfl
  unfold writeMigrated
  dsimp only
  split
  · exact h
  · split
    · exact reclaimed.only (failMigration_only _ _ _ _) rfl
    · refine .only (.only (.only (writeDir_steady (hbmWrite_steady ?_)) (migMod_only _ _ _ _ _) rfl) (fwdMod_only _ _ _) rfl)
        (settleInbound_only _ _) rfl
      refine .only (writeShelf_steady (hbmWrite_steady (hbmWrite_steady ?_))) (shelfMod_only _ _ _ _ _) rfl
      exact .ite (newShelf_steady reclaimed) reclaimed

theorem migSlice_steady {a s : State} {map tid row slice : Nat} {p : RowPkt} (h : Steady a s) :
    Steady a (migSlice map tid row slice p s) := by
  unfold migSlice
  split
  · exact h
  · extract_lets +onlyGivenNames s
    have h : Steady a s := h.only (migMod_only _ _ _ _ _) rfl
    clear_value s
    dsimp only
    split
    · exact .ite (writeMigrated_steady h) h
    · exact h

theorem failReq_steady {a s : State} {q : Req} {st : Status} (h : Steady a s) : Steady a (failReq q st s) := by
  unfold failReq
  extract_lets +onlyGivenNames s
  have h : Steady a s := h.only (freeReq_only _ _) rfl
  clear_value s
  refine stepRefresh_steady ?_
  split
  · exact h.only (answerMill_only _ _ _ _ _ _ _ _ _) rfl
  · exact h.only (failMigration_only _ _ _ _) rfl
  · exact h.only (failPlacing_only _ _) rfl

theorem takeRow_steady {a s : State} {q : Req} {p : RowPkt} (h : Steady a s) : Steady a (takeRow q p s) := by
  unfold takeRow
  extract_lets +onlyGivenNames s
  have h : Steady a s := h.only (freeReq_only _ _) rfl
  clear_value s
  refine stepRefresh_steady ?_
  split
  · exact h.only (answerMill_only _ _ _ _ _ _ _ _ _) rfl
  · exact .ite (migSlice_steady h) (.ite (h.set rfl) (h.only (failMigration_only _ _ _ _) rfl))
  · exact h.only (takePlaced_only _ _ _) rfl

theorem takeAbsent_steady {a s : State} {p : AbsentPkt} (h : Steady a s) : Steady a (takeAbsent p s) := by
  unfold takeAbsent
  refine .ite ?_ (.ite (.foldl h fun _ _ k => k.only (absentWait_only _ _ _) rfl) h)
  split
  · exact failReq_steady h
  · exact h.only (lateAnswer_only _) rfl

theorem refusePacket_steady {a s : State} {k : Packet} (h : Steady a s) : Steady a (refusePacket k s) := by
  unfold refusePacket
  refine .ite (unreachable_steady h) ?_
  extract_lets +onlyGivenNames s
  have h : Steady a s := noteAbsent_steady h
  clear_value s
  split
  · exact h.only (refusePartial_only _ _ _) rfl
  · split
    · exact failReq_steady h
    · exact h
  · exact .foldl h fun _ _ k1 => k1.only (absentWait_only _ _ _) rfl
  · exact h

theorem reroute_steady {a s : State} {k : Packet} (h : Steady a s) : Steady a (reroute k s) :=
  .getD (fun _ e => trySend_steady h e) (refusePacket_steady h)

theorem misrouted_steady {a s : State} {port : Nat} {k : Packet} (h : Steady a s) : Steady a (misrouted port k s) :=
  refusePacket_steady (h.only (portMod_only _ _ _) rfl)

theorem transit_steady {a s : State} {port : Nat} {k : Packet} (h : Steady a s) : Steady a (transit port k s) := by
  unfold transit
  refine .ite (misrouted_steady (h.only (takeRx_only _ _ _) rfl)) ?_
  dsimp only
  split
  next e => exact (trySendFrom_steady (h.only (dropRx_only _ _ _) rfl) e).only (grantNow_only _ _) rfl
  · exact refusePacket_steady ((h.only (dropRx_only _ _ _) rfl).only (returnCells_only _ _) rfl)

theorem answerRead_steady {a s : State} {h : PktHdr} {p : ReadPkt} {st : Status} (hs : Steady a s) :
    Steady a (answerRead h p st s) :=
  sendOwn_steady (.ite (hs.only (readCseq_only _ _ _) rfl) hs)

theorem forwardRead_steady {a s : State} {t : Table} {h : PktHdr} {p : ReadPkt} {dst : Nat} (hs : Steady a s) :
    Steady a (forwardRead t h p dst s) :=
  reroute_steady (hs.only (fwdMod_only _ _ _) rfl)

theorem takeRead_steady {a s : State} {h : PktHdr} {p : ReadPkt} (hs : Steady a s) : Steady a (takeRead h p s) := by
  unfold takeRead
  split
  · exact answerRead_steady hs
  · dsimp only
    refine .ite (answerRead_steady hs) ?_
    refine .ite (answerRead_steady hs) ?_
    refine .ite (answerRead_steady hs) ?_
    split
    · exact forwardRead_steady hs
    · exact forwardRead_steady hs
    · exact .ite (hs.only (queueRead_only _ _ _ _) rfl) (answerRead_steady hs)

theorem sendSlices_steady {a s u : State} {map losing : Nat} {t : Table} {tid slot epoch row step : Nat} {ks : List Nat}
    (h : Steady a s) (e : sendSlices map losing t tid slot epoch row step ks s = some u) : Steady a u := by
  induction ks generalizing s with
  | nil =>
    cases e
    exact h
  | cons k ks ih =>
    unfold sendSlices at e
    split at e
    · cases e
    · dsimp only at e
      split at e
      next sent => exact ih (sendRead_steady h sent) e
      · cases e

theorem linkChanged_steady {a s : State} {port : Nat} (h : Steady a s) : Steady a (linkChanged port s) := raise_steady (h.set rfl)
  (by decide)

theorem rerouteLent_steady {a s : State} {port : Nat} {lent : List (Nat × Nat × Nat)} {k : Packet} (h : Steady a s) :
    Steady a (rerouteLent port lent k s) := by
  unfold rerouteLent
  split
  next e => exact (trySendFrom_steady h e).only (notePartial_only _ _ _ _) rfl
  · exact (refusePacket_steady (h.only (returnCells_only _ _) rfl)).only (notePartial_only _ _ _ _) rfl

theorem rerouteFrom_steady {a s : State} {port : Nat} {k : Packet} (h : Steady a s) : Steady a (rerouteFrom port s k) :=
  rerouteLent_steady h

theorem refuseFrom_steady {a s : State} {port : Nat} {k : Packet} (h : Steady a s) : Steady a (refuseFrom port s k) :=
  (refusePacket_steady h).only (notePartial_only _ _ _ _) rfl

theorem rerouteQueue_steady {a s : State} {port : Nat} (h : Steady a s) : Steady a (rerouteQueue port s) :=
  .foldl (h.only (portMod_only _ _ _) rfl) fun _ _ k => rerouteLent_steady k

theorem askPeer_steady {a s : State} {port : Nat} (h : Steady a s) : Steady a (askPeer port s) :=
  sendOwn_steady (h.only (portMod_only _ _ _) rfl)

theorem enterRecover_steady {a s : State} {port : Nat} (h : Steady a s) : Steady a (enterRecover port s) := by
  unfold enterRecover
  dsimp only
  refine .ite ?_ ?_
  · refine askPeer_steady ?_
    refine rerouteQueue_steady ?_
    exact .ite ((h.only (transmit_only _ _ _) rfl).only (portMod_only _ _ _) rfl)
      (linkChanged_steady ((h.only (transmit_only _ _ _) rfl).only (portMod_only _ _ _) rfl))
  · refine rerouteQueue_steady ?_
    exact .ite ((h.only (transmit_only _ _ _) rfl).only (portMod_only _ _ _) rfl)
      (linkChanged_steady ((h.only (transmit_only _ _ _) rfl).only (portMod_only _ _ _) rfl))

theorem takeNak_steady {a s : State} {port ack : Nat} (h : Steady a s) : Steady a (takeNak port ack s) :=
  .ite (enterRecover_steady (h.only (transmit_only _ _ _) rfl)) (h.only (transmit_only _ _ _) rfl)

theorem takeFlit_steady {a s : State} {port : Nat} {f : Flit} (h : Steady a s) : Steady a (takeFlit port f s) := by
  unfold takeFlit
  dsimp only
  refine .only ?_ (answerFlit_only _ _ _) rfl
  refine .ite ?_ ?_
  · exact takeNak_steady ((((h.only (portMod_only _ _ _) rfl).only (oweCells_only _ _) rfl).only (corruptPacket_only _ _ _ _) rfl).only
      (countEv_only _ _ _ _) rfl)
  · exact (((h.only (portMod_only _ _ _) rfl).only (oweCells_only _ _) rfl).only (corruptPacket_only _ _ _ _) rfl).only
      (countEv_only _ _ _ _) rfl

theorem failLink_steady {a s : State} {port : Nat} (h : Steady a s) : Steady a (failLink port s) := by
  unfold failLink
  refine .ite ?_ ?_
  · exact askPeer_steady (rerouteQueue_steady (linkChanged_steady ((h.only (transmit_only _ _ _) rfl).only (portMod_only _ _ _) rfl)))
  · exact askPeer_steady (raise_steady (h.only (portMod_only _ _ _) rfl) (by decide))

theorem unresolved_steady {a s : State} {port : Nat} (h : Steady a s) : Steady a (unresolved port s) :=
  .foldl (h.only (portMod_only _ _ _) rfl) fun _ _ k => refuseFrom_steady k

theorem settleLink_steady {a s : State} {port lastRx : Nat} (h : Steady a s) : Steady a (settleLink port lastRx s) :=
  .foldl (h.only (portMod_only _ _ _) rfl) fun _ _ k => rerouteFrom_steady k

theorem cellLost_steady {a s u : State} {spot : CellSpot} (h : Steady a s) (e : cellLost spot s = some u) : Steady a u := by
  unfold cellLost at e
  split at e
  · split at e
    · cases e
      exact h.only (flowMod_only _ _ _) rfl
    · cases e
  · split at e
    · split at e
      · cases e
        exact h.only (streamAt_only _ _ _ _) rfl
      · cases e
    · cases e
  · split at e
    · cases e
      exact h.only (xferMod_only _ _ _) rfl
    · cases e
  · split at e
    · cases e
      exact h.only (flowMod_only _ _ _) rfl
    · cases e
  · split at e
    · split at e
      · cases e
      · cases e
        exact ((h.only (portMod_only _ _ _) rfl).only (returnCells_only _ _) rfl).only (corruptPacket_only _ _ _ _) rfl
    · cases e
  · dsimp only at e
    split at e
    · cases e
    · cases e
      exact .foldl (h.only (portMod_only _ _ _) rfl) fun _ _ k => refusePacket_steady k

theorem holdTaken_steady {a s : State} {slot : Nat} (h : Steady a s) : Steady a (holdTaken slot s) := h.set rfl

theorem moveRecs_steady {a s : State} {base size n top : Nat} {dst : Nat → Option Nat} (h : Steady a s) :
    Steady a (moveRecs base size n top dst s) := by
  unfold moveRecs
  refine .ite h ?_
  dsimp only
  refine .set (s := List.foldl _ _ _) ?_ rfl
  refine .foldl (hbmClear_steady h) fun _ _ k => ?_
  split
  · exact hbmWrite_steady k
  · exact k

theorem reorderSlot_steady {a s : State} {was now : HomeMap} {tid i : Nat} (h : Steady a s) :
    Steady a (reorderSlot was now tid i s) := by
  unfold reorderSlot
  split
  · exact h
  · refine .ite h ?_
    extract_lets per order dst n top dir state
    have hstate : Steady a state := moveRecs_steady (moveRecs_steady h)
    exact hstate.set rfl

theorem reorderAll_steady {a s : State} {map : Nat} {was now : HomeMap} (h : Steady a s) : Steady a (reorderAll map was now s) :=
  .foldl h fun _ _ k => reorderSlot_steady (reorderSlot_steady k)

theorem remap_steady {a s : State} {map : Nat} {m : HomeMap} {entries : AMap Nat} {epoch : Nat} (h : Steady a s) :
    Steady a (remap map m entries epoch s) := by
  unfold remap
  dsimp only
  refine .set (s := retireReplicas _ _) ?_ rfl
  exact (reorderAll_steady (h.set (by rfl))).only (retireReplicas_only _ _) rfl

theorem doHomemap_steady {a s : State} {v : ChipView} {other loc slot : Nat} {m : Msg} (h : Steady a s) :
    Steady a (doHomemap v other loc slot m s) := by
  unfold doHomemap
  dsimp only
  split
  · exact postFinal_steady (h.only (noteClerk_only _ _ _ _ _) rfl)
  · refine .ite (postFinal_steady h) ?_
    split
    · exact postFinal_steady (h.set rfl)
    · exact .ite (postFinal_steady h) (postFinal_steady (remap_steady h))

theorem closeForwarding_steady {a s : State} {map : Nat} (h : Steady a s) : Steady a (closeForwarding map s) := by
  unfold closeForwarding
  split
  · exact h
  · exact reorderAll_steady (h.set rfl)

theorem retireCopy_steady {a s : State} {c : LCopy} (h : Steady a s) : Steady a (retireCopy c s) :=
  .ite (h.only (dropCopy_only _ _ _ _) rfl) ((startMove_steady h).only (dropCopy_only _ _ _ _) rfl)

theorem endAllMoves_steady {a s : State} (h : Steady a s) : Steady a (endAllMoves s) :=
  .foldl (h.set rfl) fun _ _ k => finishMove_steady k

theorem installPlan_steady {a s : State} {p : W64} (h : Steady a s) : Steady a (installPlan p s) :=
  (((Steady.foldl (endAllMoves_steady h) fun _ _ k => retireCopy_steady k).only (retireReplicas_only _ _) rfl).only
    (retireKept_only _) rfl).set rfl

theorem doPlan_steady {a s : State} {slot : Nat} {m : Msg} (h : Steady a s) : Steady a (doPlan slot m s) :=
  .ite (postFinal_steady (installPlan_steady h)) (postFinal_steady h)

theorem setPop_steady {o s : State} {a pop : Nat} (h : Steady o s) : Steady o (setPop a pop s) := hbmWrite_steady h

theorem halveInPlace_steady {a s : State} {tid i : Nat} {v : VSlot} {da : Nat} {e : DirEnt} {pop : Nat} (h : Steady a s) :
    Steady a (halveInPlace tid i v da e pop s) :=
  .ite ((setPop_steady h).only (refreshCopy_only _ _ _ _) rfl) (setPop_steady h)

theorem refreshRow_steady {a s : State} {tid i ix : Nat} (h : Steady a s) : Steady a (refreshRow tid i ix s) := by
  unfold refreshRow
  split
  · exact h
  · dsimp only
    refine .ite h ?_
    refine .ite (halveInPlace_steady h) ?_
    split
    · exact halveInPlace_steady h
    · split
      · exact halveInPlace_steady h
      · split
        · exact halveInPlace_steady h
        next e => exact (startMove_steady (placeRowIn_steady h e)).only (dropCopy_only _ _ _ _) rfl

theorem refreshSlot_steady {a s : State} {tid i : Nat} (h : Steady a s) : Steady a (refreshSlot tid i s) := by
  unfold refreshSlot
  split
  · exact h
  · exact .ite h (.ite (setPop_steady (.foldl h fun _ _ k => refreshRow_steady k)) (.foldl h fun _ _ k => refreshRow_steady k))

theorem dropUnlisted_steady {a s : State} {hot : List (Nat × Nat)} (h : Steady a s) : Steady a (dropUnlisted hot s) :=
  .foldl h fun _ _ k => .ite k (retireCopy_steady k)

theorem placeHot_steady {a : State} {k : HotCounts × State} {x : Nat × Nat} (h : Steady a k.2) : Steady a (placeHot k x).2 := by
  unfold placeHot
  split
  · split
    · exact h
    · split
      · exact h
      · dsimp only
        split
        · exact endMoves_steady h
        · split
          · exact endMoves_steady h
          · exact startMove_steady (endMoves_steady h)

/-- The refresh goes on with its placement reads. -/
theorem beginRefresh_steady {a s : State} {slot : Nat} {r : Refresh} (h : Steady a s) :
    Steady a (stepRefresh (holdTaken slot { s with lrd := { s.lrd with refresh := some r } })) :=
  stepRefresh_steady (holdTaken_steady (h.set rfl))

theorem startRefresh_steady {a s : State} {slot : Nat} {m : Msg} {l : HotList} (h : Steady a s) :
    Steady a (startRefresh slot m l s) := by
  have halved : Steady a (l.tables.foldl (fun s tid => refreshSlot tid 1 (refreshSlot tid 0 s)) (endAllMoves s)) :=
    .foldl (endAllMoves_steady h) fun _ _ k => refreshSlot_steady (refreshSlot_steady k)
  unfold startRefresh
  dsimp only
  split
  · exact beginRefresh_steady halved
  next hot _ =>
    have placed := Steady.foldl_snd (f := placeHot) (xs := hot) (p := (⟨0, 0, 0⟩, dropUnlisted hot (endAllMoves _)))
      (dropUnlisted_steady (endAllMoves_steady halved)) fun _ _ k => placeHot_steady k
    split
    · exact beginRefresh_steady placed
    · split
      · exact beginRefresh_steady (placed.only (dropReplicas_only _ _) rfl)
      · exact beginRefresh_steady (placed.only (dropReplicas_only _ _) rfl)

theorem doRefresh_steady {a s : State} {slot : Nat} {v : ChipView} {k : Taken} (h : Steady a s) :
    Steady a (doRefresh slot v k s) := by
  unfold doRefresh
  split
  · exact postFinal_steady (untake_steady (h.only (noteHotList_only _ _ _ _) rfl))
  · exact startRefresh_steady (.ite h (h.only (noteHotList_only _ _ _ _) rfl))

theorem loadOne_steady {a : State} {v : ChipView} {ctx da tid i stamp rows : Nat} {hasState : Bool} {t : Table} {k : LoadRun} {n : Nat}
    (h : Steady a k.st) : Steady a (loadOne v ctx da tid i stamp rows hasState t k n).st := by
  unfold loadOne
  split
  · exact h
  · dsimp only
    split
    · exact h.only (noteClerk_only _ _ _ _ _) rfl
    · split
      · exact h
      · split
        · exact h
        · exact h
        · split
          · exact h
          next e => exact loadWrite_steady h e

theorem loadAll_steady {a : State} {v : ChipView} {ctx da tid i stamp rows : Nat} {hasState : Bool} {t : Table} {ns : List Nat}
    {k : LoadRun} (h : Steady a k.st) : Steady a (ns.foldl (loadOne v ctx da tid i stamp rows hasState t) k).st := by
  induction ns generalizing k with
  | nil => exact h
  | cons n ns ih => exact ih (loadOne_steady h)

theorem writeEventReg_steady {a s : State} {off : Nat} {val : W64} (h : Steady a s) : Steady a (writeEventReg off val s) :=
  .ite (evalLines_steady (h.set rfl)) (.ite (evalLines_steady (h.set rfl)) (.ite (evalLines_steady (h.set rfl)) h))

theorem writeMsiAddr_steady {a s : State} {val : W64} (h : Steady a s) : Steady a (writeMsiAddr val s) :=
  .ite (.foldl (h.set rfl) fun _ _ k => (k.set (by rfl)).only (chipWrite_only _ _ _ _ _) rfl) (h.set rfl)

theorem writeMsiMode_steady {a s : State} {val : W64} (h : Steady a s) : Steady a (writeMsiMode val s) := evalLines_steady (h.set rfl)

theorem takeSample_steady {a s : State} {n temp : Nat} (h : Steady a s) : Steady a (takeSample n temp s) := by
  have sampled : Steady a (stackMod n (fun k => k.sample temp) s) := h.only (stackMod_only _ _ _) rfl
  exact .ite (raise_steady (.ite (sampled.set rfl) sampled) (by decide)) (.ite (sampled.set rfl) sampled)

theorem streamUe_steady {a s : State} {e : CwErr} {carter ord stream : Nat} (h : Steady a s) :
    Steady a (streamUe e carter ord stream s) :=
  .ite h (carterErrs_steady h)

theorem homeReadUe_steady {a s : State} {e : CwErr} {idx : Nat} (h : Steady a s) : Steady a (homeReadUe e idx s) := by
  unfold homeReadUe
  split
  · exact h
  · split
    · exact h
    · exact .ite h (serveRead_steady h)

theorem meetOwn_steady {a s t : State} {x : CwErr} (h : Steady a s) (e : meetOwn x s = some t) : Steady a t := by
  unfold meetOwn at e
  split at e
  · split at e
    · cases e
      exact hbmUe_steady h
    · cases e
  · split at e
    · cases e
      exact h.only (countPoisonRead_only _ _) rfl
    · cases e

theorem spillUe_steady {a s : State} {e : CwErr} {idx : Nat} (h : Steady a s) : Steady a (spillUe e idx s) := by
  unfold spillUe
  split
  · exact h
  · refine .ite h ?_
    split
    · exact h
    next e => exact advance_steady (raise_steady ((meetOwn_steady h e).only (loseSpill_only _ _) rfl) (by decide))

theorem mapUe_steady {a s : State} {e : CwErr} {slot : Nat} (h : Steady a s) : Steady a (mapUe e slot s) := by
  unfold mapUe
  split
  · exact h
  · refine .ite h ?_
    split
    · exact h
    next e => exact loseMap_steady (meetOwn_steady h e)

theorem larderAct_steady {a s t : State} {block : Nat} {spot : LarderSpot} (h : Steady a s)
    (e : larderAct block spot s = some t) : Steady a t := by
  unfold larderAct at e
  split at e
  · split at e
    · cases e
    · dsimp only at e
      split at e
      · split at e
        · cases e
          exact loseHotCopy_steady h
        · cases e
      · cases e
  · dsimp only at e
    split at e
    · cases e
      exact h.only (loseReplicas_only _ _) rfl
    · cases e
  · split at e
    · cases e
      exact h.only (loseReplicas_only _ _) rfl
    · cases e
  · split at e
    · split at e
      · cases e
        exact h.set rfl
      · cases e
    · cases e
  · dsimp only at e
    split at e
    · cases e
      exact h.set rfl
    · cases e
  · split at e
    · split at e
      · cases e
        exact h.set rfl
      · cases e
    · cases e
  · exact h.only ((takeFilter_only _ _ _).only _ e) rfl
  · cases e
    exact h

theorem sampleMargins_steady {a s : State} {ins : List MarginIn} (h : Steady a s) : Steady a (sampleMargins ins s) := by
  unfold sampleMargins
  dsimp only
  split
  · exact h
  · exact .ite (raise_steady (h.set rfl) (by decide)) (h.set rfl)

theorem flushSoon_steady {a s : State} {c : Nat} (h : Steady a s) : Steady a (flushSoon c s) :=
  .ite (flushColumn_steady h) (h.only (colMod_only _ _ _) rfl)

theorem shutColumn_steady {a s : State} {c : Nat} (h : Steady a s) : Steady a (shutColumn c s) := by
  unfold shutColumn
  extract_lets +onlyGivenNames s
  have h : Steady a s := flushSoon_steady h
  clear_value s
  dsimp only
  refine .only ?_ (handBack_only _ _) rfl
  refine .only ?_ (colMod_only _ _ _) rfl
  exact (Steady.foldl (h.only (shutAdd_only _ _ _ _ _) rfl) fun _ _ k => (k.only (failBag_only _ _ _ _) rfl).only
    (afterBag_only _ _) rfl).only (dropReads_only _ _) rfl

theorem flushAll_steady {a s : State} (h : Steady a s) : Steady a (flushAll s) :=
  .foldl h fun _ _ k => .ite k (flushSoon_steady k)

theorem forceShut_steady {a s : State} {kind num : Nat} (h : Steady a s) : Steady a (forceShut kind num s) := by
  unfold forceShut
  split
  · exact (h.only (shutItems_only _ _) rfl).only (shutWork_only _ _ _ _ _) rfl
  · exact ((h.only (tableMod_only _ _ _) rfl).only (shutWork_only _ _ _ _ _) rfl).only (discardEntries_only _ _) rfl
  · exact shutColumn_steady h
  · exact .ite (rerouteQueue_steady h) (askPeer_steady (rerouteQueue_steady h))
  · exact (h.only (shutWork_only _ _ _ _ _) rfl).only (failInbound_only _ _) rfl
  · exact (flushAll_steady h).only (shutWork_only _ _ _ _ _) rfl

theorem shutPort_steady {a s : State} {p : Nat} (h : Steady a s) : Steady a (shutPort p s) :=
  .ite (linkChanged_steady (h.only (portMod_only _ _ _) rfl)) (.ite (askPeer_steady (h.only (portMod_only _ _ _) rfl))
    (h.only (portMod_only _ _ _) rfl))

theorem stopTarget_steady {a s : State} {kind num : Nat} {force : Bool} (h : Steady a s) :
    Steady a (stopTarget kind num force s) := by
  unfold stopTarget
  split
  · exact h.only (flowMod_only _ _ _) rfl
  · exact h.only (tableMod_only _ _ _) rfl
  · exact h.only (colMod_only _ _ _) rfl
  · exact shutPort_steady h
  · exact h.only (stackMod_only _ _ _) rfl
  · exact h

theorem beginShutter_steady {a s : State} {kind num w1 : Nat} {force : Bool} {o : Owed} (h : Steady a s) :
    Steady a (beginShutter kind num w1 force o s) :=
  .ite (forceShut_steady (stopTarget_steady (h.set rfl))) (stopTarget_steady (h.set rfl))

theorem joinShutter_steady {a s : State} {kind num : Nat} {force : Bool} {o : Owed} {x : Shutter} (h : Steady a s) :
    Steady a (joinShutter kind num force o x s) :=
  .ite (forceShut_steady (h.only (shutterMod_only _ _ _ _) rfl)) (h.only (shutterMod_only _ _ _ _) rfl)

theorem startShutter_steady {a s : State} {kind num w1 : Nat} {force : Bool} {o : Owed} (h : Steady a s) :
    Steady a (startShutter kind num w1 force o s) := by
  unfold startShutter
  split
  · exact joinShutter_steady h
  · exact beginShutter_steady h

theorem reportShutters_steady {a s : State} (h : Steady a s) : Steady a (reportShutters s) :=
  (Steady.foldl h fun _ _ k => .foldl k fun _ _ k1 => postReport_steady k1).set rfl

theorem shutTo_steady {a s : State} {kind num : Nat} (h : Steady a s) : Steady a (shutTo kind num s) := by
  unfold shutTo
  split
  · exact (Steady.ite h (flushColumn_steady h)).only (colMod_only _ _ _) rfl
  · exact linkChanged_steady (h.only (portMod_only _ _ _) rfl)
  · exact h.only (stackMod_only _ _ _) rfl
  · exact (closeForwarding_steady h).only (dropRetries_only _ _) rfl
  · exact h

theorem finishShutter_steady {a s : State} {x : Shutter} {us : Nat} (h : Steady a s) : Steady a (finishShutter x us s) := by
  unfold finishShutter
  dsimp only
  refine .ite ?_ ?_
  · exact reportShutters_steady (raise_steady (shutTo_steady (h.only (shutterMod_only _ _ _ _) rfl)) (by decide))
  · exact raise_steady (shutTo_steady (h.only (shutterMod_only _ _ _ _) rfl)) (by decide)

theorem defaults_steady {a s : State} {plan : W64} (h : Steady a s) : Steady a (defaults plan s) := h.set rfl

theorem spanIdle_steady {a s : State} (h : Steady a s) : Steady a (spanIdle s) :=
  .foldl h fun _ _ k => .foldl (.ite (linkChanged_steady (k.only (portMod_only _ _ _) rfl)) (k.only (portMod_only _ _ _) rfl)) fun _ _
    k1 => refusePacket_steady k1

theorem refuseReset_steady {a s : State} {write : Bool} (h : Steady a s) : Steady a (refuseReset write s) := by
  refine h.trans ⟨fun _ set => set, fun inv => { inv with refusals := ?_ }⟩
  dsimp only [refuseReset]
  split
  · exact Nat.min_le_right _ _
  · exact inv.refusals

theorem groundEntry_steady {a s : State} {da : Nat} (h : Steady a s) : Steady a (groundEntry s da) := .ite h (writeDir_steady h)

theorem directoryPass_steady {a s : State} (h : Steady a s) : Steady a (directoryPass s) := by
  unfold directoryPass
  extract_lets +onlyGivenNames s
  have h : Steady a s := .foldl (h.set rfl) fun _ _ k => .ite (finishMove_steady k) (groundEntry_steady k)
  clear_value s
  exact ((Steady.foldl h fun _ _ k => groundEntry_steady k).set (by rfl)).only (settleRebuilds_only _) rfl

theorem clerkOnlyHold_steady {a s : State} {source : Nat} (h : Steady a s) : Steady a (clerkOnlyHold source s) := by
  unfold clerkOnlyHold
  dsimp only
  refine .only ?_ (islandMod_only _ _ _) rfl
  refine h.trans ⟨fun _ set => set, fun inv => ?_⟩
  exact { inv with missed := Nat.zero_le _, resets := Nat.min_le_right _ _ }

theorem dropDrain_steady {a s : State} (h : Steady a s) : Steady a (dropDrain s) := .ite (h.set rfl) h

theorem holdOffReset_steady {a s : State} {cls : ResetClass} {source : Nat} (h : Steady a s) :
    Steady a (holdOffReset cls source s) :=
  (((dropDrain_steady h).only (wakeMemories_only _) rfl).set (by rfl)).only (refreshReady_only _) rfl

/-- A Clerk-only request, accepted or refused, is no reset of the block (R540). -/
theorem requestReset_steady {a s : State} {source : Nat} {write : Bool} (h : Steady a s) :
    Steady a (requestReset .clerkOnly source write s) := by
  have accepted : Steady a { s with gbl := { s.gbl with refused := false, refusals := 0, active := ResetClass.clerkOnly.code } } :=
    h.trans ⟨fun _ set => set, fun inv => { inv with refusals := Nat.zero_le _ }⟩
  unfold requestReset
  dsimp only
  refine .ite (refuseReset_steady h) ?_
  rw [if_pos (.inl rfl)]
  exact clerkOnlyHold_steady accepted

theorem enterHeld_steady {a s : State} (h : Steady a s) : Steady a (enterHeld s) :=
  spanIdle_steady ((h.set (by rfl)).only (refreshReady_only _) rfl)

theorem answerLost_steady {a s : State} (h : Steady a s) : Steady a (answerLost s) := h.set rfl

theorem postFired_steady {a s : State} (h : Steady a s) : Steady a (postFired s) := by
  unfold postFired
  extract_lets +onlyGivenNames s
  have h : Steady a s := .ite h (reportAll_steady h)
  clear_value s
  exact reportShutters_steady (.ite (.ite h (reportAll_steady h)) (.foldl (.ite h (reportAll_steady h)) fun _ _ k =>
    reportAll_steady k))

theorem resumeMailbox_steady {a s : State} (h : Steady a s) : Steady a (resumeMailbox s) := postFired_steady (h.set rfl)

theorem applyTest_steady {a s : State} {parts : Nat} {r : BistResult} (h : Steady a s) : Steady a (applyTest parts r s) := by
  unfold applyTest
  extract_lets +onlyGivenNames s
  have h : Steady a s := .ite (h.only (testLarder_only _ _) rfl) h
  clear_value s
  extract_lets +onlyGivenNames s
  have h : Steady a s := .ite (h.only (testStacks_only _ _) rfl) h
  clear_value s
  exact .ite ((Steady.ite (h.only (testMills_only _ _) rfl) h).set rfl) (.ite (h.only (testMills_only _ _) rfl) h)

theorem wipeAll_steady {a s : State} (h : Steady a s) : Steady a (wipeAll s) :=
  h.trans ⟨fun _ set => set, fun inv => { inv with hbm := rfl, log := Nat.zero_le _ }⟩

theorem loseTaken_steady {a s : State} (h : Steady a s) : Steady a (loseTaken s) := h.set rfl

theorem bootWipe_steady {a s : State} (h : Steady a s) : Steady a (bootWipe s) := by
  unfold bootWipe
  split
  · exact (wipeAll_steady h).set rfl
  · exact (wipeAll_steady h).set rfl
  · exact h

/-- The Clerk runs an accepted image, whatever its ID_FW. -/
theorem bootRunning_steady {a s : State} {fw : W64} (h : Steady a s) : Steady a { s with
    gbl := { s.gbl with idFw := fw }, clerk := { s.clerk with state := .running, stopped := false } } := h.set rfl

theorem bootGood_steady {a s : State} {i : ImageHdr} (h : Steady a s) : Steady a (bootGood i s) := by
  unfold bootGood
  extract_lets stopped gbl clerk running code logged told
  have hrunning : Steady a running := bootRunning_steady h
  have hlogged : Steady a logged := logAdd_steady hrunning
  have htold : Steady a told := .ite (logOpen_steady hlogged) hlogged
  split
  · exact htold.only (refreshReady_only _) rfl
  · exact resumeMailbox_steady (answerLost_steady htold)

theorem endSequence_steady {a s : State} (h : Steady a s) : Steady a (endSequence s) :=
  raise_steady ((h.set (by rfl)).only (refreshReady_only _) rfl) (by decide)

theorem stepFive_steady {a s : State} (h : Steady a s) : Steady a (stepFive s) := by
  unfold stepFive
  split
  · exact wipeAll_steady (loseTaken_steady h)
  · exact (wipeAll_steady (loseTaken_steady h)).set rfl
  · exact h

theorem enterSelftest_steady {a s : State} {q : Sequence} (h : Steady a s) : Steady a (enterSelftest q s) :=
  spanIdle_steady ((h.set (by rfl)).only (refreshReady_only _) rfl)

theorem startTransition_steady {a s : State} {slot target : Nat} (h : Steady a s) : Steady a (startTransition slot target s) :=
  .ite (holdTaken_steady (h.set rfl)) (((holdTaken_steady (h.set (by rfl))).set (by rfl)).only (refreshReady_only _) rfl)

theorem answerTaken_steady {a s : State} {slot : Nat} {st : Status} (h : Steady a s) : Steady a (answerTaken slot st s) := by
  unfold answerTaken
  split
  · exact postFinal_steady (untake_steady h)
  · exact h

theorem endTransition_steady {a s : State} {us : Nat} (h : Steady a s) : Steady a (endTransition us s) := by
  unfold endTransition
  dsimp only
  split
  · exact answerTaken_steady (h.set rfl)
  · exact h.set rfl

theorem enterRetention_steady {a s : State} {us : Nat} (h : Steady a s) : Steady a (enterRetention us s) := by
  unfold enterRetention
  extract_lets +onlyGivenNames idle
  have hidle : Steady a idle := spanIdle_steady (endTransition_steady h)
  clear_value idle
  exact (hidle.set (by rfl)).only (refreshReady_only _) rfl

theorem leaveRetention_steady {a s : State} {us : Nat} (h : Steady a s) : Steady a (leaveRetention us s) := by
  unfold leaveRetention
  exact settle_steady ((((endTransition_steady h).only (wakeMemories_only _) rfl).set (by rfl)).only (refreshReady_only _) rfl)

theorem haltClerk_steady {a s : State} {c : ClerkState} (h : Steady a s) : Steady a (haltClerk c s) := h.set rfl

theorem clerkLost_steady {a s : State} (h : Steady a s) : Steady a (clerkLost s) := by
  have halted : Steady a (haltClerk .haltedLost s) := haltClerk_steady h
  exact raise_steady (halted.trans ⟨fun _ set => set, fun inv => { inv with lost := Nat.min_le_right _ _ }⟩) (by decide)

theorem wchResult_steady {a s : State} {code op data : Nat} (h : Steady a s) : Steady a (wchResult code op data s) := h.set rfl

theorem wchDump_steady {a s : State} (h : Steady a s) : Steady a (wchDump s) := wchResult_steady (h.set rfl)

theorem wchWriteCo_steady {a s : State} {ofs : Nat} (h : Steady a s) : Steady a (wchWriteCo ofs s) := by
  unfold wchWriteCo
  refine .ite (wchResult_steady h) ?_
  split
  next e => exact wchResult_steady (h.only ((writeCoReg_only _ _ _).only _ e) rfl)
  · exact wchResult_steady h

theorem shutAll_steady {a s : State} (h : Steady a s) : Steady a (shutAll s) := startShutter_steady (h.set rfl)

theorem wchForceHeld_steady {a s : State} (h : Steady a s) : Steady a (wchForceHeld s) := by
  unfold wchForceHeld
  split
  · exact wchResult_steady (((shutAll_steady (h.only (wakeMemories_only _) rfl)).set (by rfl)).only (refreshReady_only _) rfl)
  · exact wchResult_steady (((shutAll_steady (h.only (wakeMemories_only _) rfl)).set (by rfl)).only (refreshReady_only _) rfl)
  · exact wchResult_steady (((shutAll_steady (h.only (wakeMemories_only _) rfl)).set (by rfl)).only (refreshReady_only _) rfl)
  · exact wchResult_steady (shutAll_steady (h.set rfl))
  · exact wchResult_steady h

theorem putMbx_steady {a s : State} {r : Nat} {val : W64} (h : Steady a s) : Steady a (putMbx r val s) :=
  .ite (writeSlotWord_steady h) (.ite (ringSlot_steady h) (.ite (writeRespBase_steady h)
    (.ite (writeRespSize_steady h) (.ite (writeRespHead_steady h) h))))

theorem putSub_steady {a s : State} {r : Nat} {val : W64} (h : Steady a s) : Steady a (putSub r val s) :=
  .ite (h.only (writeSubWord_only _ _ _) rfl) (.ite (subSubmit_steady h) h)

theorem putCtr_steady {a s : State} {r : Nat} {val : W64} (h : Steady a s) : Steady a (putCtr r val s) := by
  unfold putCtr
  refine .ite ?_ ?_
  · exact h.only (writeCtrMode_only _ _) rfl
  · refine .ite ?_ ?_
    · exact h.only (writeDumpBase_only _ _) rfl
    · refine .ite ?_ ?_
      · exact h.only (writeCtrPeriod_only _ _) rfl
      · exact .ite (writeCtrFreeze_steady h) (.ite (h.only (writeCtrSample_only _ _) rfl)
          (.ite (h.only (writeIslSel_only _ _) rfl) (.ite (clearSticky_steady h) h)))

end Sys2Proof.Machine

/-! SUPPORT. The commands that are no reset: each goes on, clears no event and keeps the invariant. -/

namespace Sys2Proof.Machine

open Sys2Proof

/-- The outcome is a next state to which no event is lost and the invariant kept. -/
def SteadyStep (s : State) (o : Host.Outcome State Fault Refusal) : Prop := Leads o (Steady s)

theorem SteadyStep.next {s t : State} (k : Steady s s → Steady s t) : SteadyStep s (.next t) := ⟨t, rfl, k (.refl s)⟩

/-- A command that is ignored. -/
theorem SteadyStep.ignored {s : State} : SteadyStep s (.next s) := .next fun h => h

/-- A command whose frame lies outside the watched parts. -/
theorem Within.steady {l : List Part} {s : State} {o : Host.Outcome State Fault Refusal} (h : Within l s o)
    (q : Part.unwatched l = true) : SteadyStep s o := by
  obtain ⟨t, ht, only⟩ := h
  exact ⟨t, ht, .only (.refl s) only q⟩

theorem SteadyStep.ite {s : State} {x y : Host.Outcome State Fault Refusal} {c : Prop} [Decidable c] (h : SteadyStep s x)
    (k : SteadyStep s y) : SteadyStep s (if c then x else y) := by
  split
  · exact h
  · exact k

theorem SteadyStep.kcpWrite {s : State} {f : State → State} (k : Steady s s → Steady s (f s)) : SteadyStep s (kcpWrite s f) :=
  .next fun h => .ite (k h) h

/-- A Clerk command: the message leaves the taken list, and the block may pass between READY and RUNNING. -/
theorem SteadyStep.cmdStep {op slot : Nat} {s : State} {f : Msg → State → State} (k : ∀ m t, Steady s t → Steady s (f m t)) :
    SteadyStep s (cmdStep op slot s f) := by
  unfold Machine.cmdStep
  split
  · exact .ignored
  · exact .next fun h => settle_steady (k _ _ (untake_steady h))

/-- A table that a Clerk command names: it is LIVE, or the command is answered at once. -/
theorem withTable_steady {a s : State} {slot tid : Nat} {m : Msg} {f : Table → State} (h : Steady a s) (k : ∀ t, Steady a (f t)) :
    Steady a (withTable slot m tid s f) := by
  unfold withTable
  split
  · exact k _
  · exact postFinal_steady h

/-- A packet that a port has received: it waits, goes on, is turned away, or is taken here. -/
theorem SteadyStep.arrive {port : Nat} {h : PktHdr} {b : PktBody} {s : State} {f : State → State}
    (k : ∀ t, Steady s t → Steady s (f t)) : SteadyStep s (arrive port h b s f) := by
  refine .next fun hs => .ite hs (.ite ?stays (.ite ?turned (.ite ?here ?onward)))
  case stays => exact hs.only (stay_only _ _ _) rfl
  case turned => exact misrouted_steady (hs.only (takeRx_only _ _ _) rfl)
  case here => exact k _ (hs.only (takeRx_only _ _ _) rfl)
  case onward => exact transit_steady hs

end Sys2Proof.Machine

/-! SUPPORT. The Watchman's commands and the resets: the Watchman's commands but RECOVERY_RESET clear no event (R654), and each reset, a write
of GBL_EVENT and a loss of power keep the invariant. -/

namespace Sys2Proof.Machine

open Sys2Proof

theorem bits_w64 (v n : Nat) (small : n ≤ 64) : bits (w64 v) 0 n = v % 2 ^ n := by
  unfold bits w64
  rw [BitVec.toNat_ofNat, Nat.shiftRight_zero, Nat.mod_mod_of_dvd _ (Nat.pow_dvd_pow 2 small)]

/-- The OP field of a Watchman command. -/
theorem withOp_op {op : Nat} (small : op < 256) (val : W64) : bits (withOp op val) 0 8 = op := by
  unfold withOp
  rw [bits_w64 _ 8 (by decide)]
  omega

theorem withClass_class {n : Nat} (small : n < 4) (val : W64) : bits (withClass n val) 0 2 = n := by
  unfold withClass
  rw [bits_w64 _ 2 (by decide)]
  omega

theorem wchCommand_steady {a s : State} {val : W64} (h : Steady a s) (op : bits val 0 8 ≠ 5) : Steady a (wchCommand val s) := by
  unfold wchCommand
  dsimp only
  refine .ite (wchResult_steady h) (.ite (wchResult_steady h) (.ite (wchResult_steady h) ?_))
  split
  next => exact wchResult_steady h
  next => exact wchDump_steady h
  next => exact wchResult_steady (haltClerk_steady h)
  next => exact wchWriteCo_steady h
  next => exact wchResult_steady (requestReset_steady h)
  next recovery => exact absurd recovery op
  next => exact wchForceHeld_steady h
  next => exact wchResult_steady h

theorem writeGblReset_steady {a s : State} {val : W64} (h : Steady a s) (cls : bits val 0 2 = 3) : Steady a (writeGblReset val s) := by
  unfold writeGblReset
  rw [cls]
  exact .ite (refuseReset_steady h) (requestReset_steady h)

theorem execWchNop_steady (val : W64) (s : State) : SteadyStep s (execWchNop val s) :=
  .kcpWrite fun h => wchCommand_steady h (by rw [withOp_op (by decide)]; decide)

theorem execDumpLog_steady (val : W64) (s : State) : SteadyStep s (execDumpLog val s) :=
  .kcpWrite fun h => wchCommand_steady h (by rw [withOp_op (by decide)]; decide)

theorem execHaltClerk_steady (val : W64) (s : State) : SteadyStep s (execHaltClerk val s) :=
  .kcpWrite fun h => wchCommand_steady h (by rw [withOp_op (by decide)]; decide)

theorem execWriteCo_steady (val : W64) (s : State) : SteadyStep s (execWriteCo val s) :=
  .kcpWrite fun h => wchCommand_steady h (by rw [withOp_op (by decide)]; decide)

theorem execRestartClerk_steady (val : W64) (s : State) : SteadyStep s (execRestartClerk val s) :=
  .kcpWrite fun h => wchCommand_steady h (by rw [withOp_op (by decide)]; decide)

theorem execForceHeld_steady (val : W64) (s : State) : SteadyStep s (execForceHeld val s) :=
  .kcpWrite fun h => wchCommand_steady h (by rw [withOp_op (by decide)]; decide)

theorem execGblResetClerkOnly_steady (val : W64) (s : State) : SteadyStep s (execGblResetClerkOnly val s) :=
  .kcpWrite fun h => writeGblReset_steady h (withClass_class (by decide) val)

/-! ## The invariant through a reset -/

theorem evalLines_inv {s : State} (inv : Inv s) : Inv (evalLines s) := (evalLines_steady (.refl s)).inv inv

/-- A step whose frame lies outside the watched parts keeps the invariant. -/
theorem OnlyIn.inv {l : List Part} {s t : State} (h : OnlyIn l s t) (inv : Inv s) (q : Part.unwatched l = true) : Inv t :=
  (Steady.only (.refl s) h q).inv inv

theorem satAdd_le (w a n : Nat) : satAdd w a n ≤ 2 ^ w - 1 := Nat.min_le_right _ _

theorem coldHold_inv {source : Nat} {s : State} (inv : Inv s) : Inv (coldHold source s) :=
  evalLines_inv ((refreshReady_only _).inv
    ⟨rfl, Nat.two_pow_pos 21, Nat.zero_le _, Nat.zero_le _, satAdd_le 16 _ _, inv.refusals, Nat.zero_le _⟩ rfl)

theorem recoveryHold_inv {source : Nat} {s : State} (inv : Inv s) : Inv (recoveryHold source s) := by
  have passed : Inv (directoryPass s) := (directoryPass_steady (.refl s)).inv inv
  unfold recoveryHold
  extract_lets report t m _ _ _ _ cleared
  have emptied : Inv cleared :=
    ⟨passed.hbm, Nat.two_pow_pos 21, passed.log, Nat.zero_le _, satAdd_le 16 _ _, passed.refusals, passed.lost⟩
  exact evalLines_inv ((refreshReady_only _).inv ((asyReopen_only _).inv ((releaseTables_only _).inv emptied rfl) rfl) rfl)

theorem takeHold_inv {cls : ResetClass} {source : Nat} {s : State} (inv : Inv s) : Inv (takeHold cls source s) := by
  cases cls with
  | cold => exact coldHold_inv inv
  | recovery => exact recoveryHold_inv inv
  | clerkOnly => exact (clerkOnlyHold_steady (.refl s)).inv inv

theorem powerLost_inv {porLow clockLost : Bool} {s : State} : Inv (powerLost porLow clockLost s) :=
  ⟨rfl, Nat.two_pow_pos 21, Nat.zero_le _, Nat.zero_le _, Nat.zero_le _, Nat.zero_le _, Nat.zero_le _⟩

theorem refuseReset_inv {write : Bool} {s : State} (inv : Inv s) : Inv (refuseReset write s) := (refuseReset_steady (.refl s)).inv inv

theorem requestReset_inv {cls : ResetClass} {source : Nat} {write : Bool} {s : State} (inv : Inv s) :
    Inv (requestReset cls source write s) := by
  have accepted : Inv { s with gbl := { s.gbl with refused := false, refusals := 0, active := cls.code } } :=
    { inv with refusals := Nat.zero_le _ }
  unfold requestReset
  dsimp only
  split
  · exact refuseReset_inv inv
  split
  · exact takeHold_inv accepted
  · exact (holdOffReset_steady (.refl _)).inv accepted

theorem writeGblReset_inv {val : W64} {s : State} (inv : Inv s) : Inv (writeGblReset val s) := by
  unfold writeGblReset
  split
  · exact refuseReset_inv inv
  split
  · exact requestReset_inv inv
  · exact requestReset_inv inv
  · exact requestReset_inv inv
  · exact refuseReset_inv inv

/-- Bits written 1 are cleared, and none is set. -/
theorem writeEvent_inv {val : W64} {s : State} (inv : Inv s) : Inv (writeEvent val s) := by
  have fewer : (s.gbl.event &&& ~~~val).toNat < 2 ^ 21 := by
    rw [BitVec.toNat_and]
    exact Nat.and_le_left.trans_lt inv.event
  exact evalLines_inv { inv with event := fewer }

theorem wchCommand_inv {val : W64} {s : State} (inv : Inv s) : Inv (wchCommand val s) := by
  by_cases op : bits val 0 8 = 5
  · unfold wchCommand
    rw [op]
    have answered {code : Nat} {t : State} (k : Inv t) : Inv (wchResult code 5 0 t) := (wchResult_steady (.refl t)).inv k
    dsimp only
    split
    · exact answered inv
    split
    · exact answered inv
    split
    · exact answered inv
    · exact answered (requestReset_inv inv)
  · exact (wchCommand_steady (.refl s) op).inv inv

theorem putGbl_inv {r : Nat} {val : W64} {s : State} (inv : Inv s) : Inv (putGbl r val s) := by
  unfold putGbl
  split
  · exact writeEvent_inv inv
  split
  · exact (writeEventReg_steady (.refl s)).inv inv
  split
  · exact (writeMsiMode_steady (.refl s)).inv inv
  split
  · exact (writeMsiAddr_steady (.refl s)).inv inv
  split
  · exact writeGblReset_inv inv
  · exact inv

theorem putWch_inv {r : Nat} {val : W64} {s : State} (inv : Inv s) : Inv (putWch r val s) := by
  unfold putWch
  split
  · exact wchCommand_inv inv
  split
  · exact (Steady.set (.refl s) (by rfl)).inv inv
  · exact inv

theorem regWrite_inv {off : Nat} {val : W64} {s : State} (inv : Inv s) : Inv (regWrite off val s) := by
  unfold regWrite
  split
  · exact (putMbx_steady (.refl s)).inv inv
  · exact putWch_inv inv
  · exact putGbl_inv inv
  · exact (putSub_steady (.refl s)).inv inv
  · exact (putCtr_steady (.refl s)).inv inv
  · exact (putFlt_only _ _ _).inv inv rfl
  · exact (putXlt_only _ _ _).inv inv rfl
  · exact (putQh_only _ _ _).inv inv rfl
  · split
    · exact (writeAsySel_only _ _).inv inv rfl
    split
    · exact (writeSatThresh_only _ _).inv inv rfl
    · exact inv
  · split
    · exact (writeLdgStatus_only _ _).inv inv rfl
    split
    · exact (writeLatePolicy_only _ _).inv inv rfl
    · exact inv
  · exact inv
  · exact (putHbm_only _ _ _ _).inv inv rfl
  · split
    · exact (writeSpnNode_only _ _).inv inv rfl
    · exact inv
  · split
    · exact (writeIdleCause_only _ _ _).inv inv rfl
    · exact inv
  · split
    · exact (writePwrMargin_only _ _).inv inv rfl
    · exact inv
  · exact inv

/-- The outcome is a next state in which the invariant holds where it held before. -/
def KeepsInv (s : State) (o : Host.Outcome State Fault Refusal) : Prop := Leads o fun t => Inv s → Inv t

theorem SteadyStep.keepsInv {s : State} {o : Host.Outcome State Fault Refusal} (h : SteadyStep s o) : KeepsInv s o := by
  obtain ⟨t, next, steady⟩ := h
  exact ⟨t, next, steady.inv⟩

theorem KeepsInv.next {s t : State} (k : Inv s → Inv t) : KeepsInv s (.next t) := ⟨t, rfl, k⟩

theorem KeepsInv.kcpWrite {s : State} {f : State → State} (k : Inv s → Inv (f s)) : KeepsInv s (kcpWrite s f) := by
  refine .next fun inv => ?_
  split
  · exact k inv
  · exact inv

theorem execResetTakeHold_keepsInv (s : State) : KeepsInv s (execResetTakeHold s) := by
  unfold execResetTakeHold
  split
  · exact .next takeHold_inv
  · exact .next (enterHeld_steady (.refl s)).inv
  · exact .next id

theorem execRefclkLoss_keepsInv (s : State) : KeepsInv s (execRefclkLoss s) := by
  refine .next fun inv => ?_
  split
  · exact inv
  · exact powerLost_inv

theorem execRailFault_keepsInv (s : State) : KeepsInv s (execRailFault s) := execRefclkLoss_keepsInv s

theorem execRstNFall_keepsInv (s : State) : KeepsInv s (execRstNFall s) := by
  refine .next fun inv => ?_
  dsimp only
  split
  · exact inv
  have low : Inv { s with gbl := { s.gbl with rstLow := true } } := (Steady.set (.refl s) (by rfl)).inv inv
  split
  · exact requestReset_inv low
  · exact low

theorem execPowerTransitionDone_keepsInv (us : Nat) (s : State) : KeepsInv s (execPowerTransitionDone us s) := by
  refine .next fun inv => ?_
  split
  · exact inv
  split
  · exact powerLost_inv
  split
  · exact (enterRetention_steady (.refl s)).inv inv
  split
  · exact (leaveRetention_steady (.refl s)).inv inv
  · exact (endTransition_steady (.refl s)).inv inv

end Sys2Proof.Machine

/-! SUPPORT. The commands that write a watched part: each is steady. -/

namespace Sys2Proof.Machine

open Sys2Proof

theorem execMbxDoorbell_steady (val : W64) (s : State) : SteadyStep s (execMbxDoorbell val s) :=
  .kcpWrite fun h => ringSlot_steady h

theorem execMbxSlotWrite_steady (n w : Nat) (val : W64) (s : State) : SteadyStep s (execMbxSlotWrite n w val s) := by
  unfold execMbxSlotWrite
  exact .ite (.kcpWrite fun h => writeSlotWord_steady h) .ignored

theorem execMbxRespHeadWrite_steady (val : W64) (s : State) : SteadyStep s (execMbxRespHeadWrite val s) :=
  .kcpWrite fun h => writeRespHead_steady h

theorem execMbxRingConfigWrite_steady (size : Bool) (val : W64) (s : State) :
    SteadyStep s (execMbxRingConfigWrite size val s) := by
  unfold execMbxRingConfigWrite
  refine .kcpWrite fun h => ?_
  split
  · exact writeRespSize_steady h
  · exact writeRespBase_steady h

theorem execCommandTake_steady (s : State) : SteadyStep s (execCommandTake s) := by
  unfold execCommandTake
  split
  · exact .ignored
  · exact .ite (.next fun h => takeFirst_steady h) .ignored

theorem execResponseWrite_steady (s : State) : SteadyStep s (execResponseWrite s) := by
  unfold execResponseWrite
  split
  · exact .ignored
  · exact .next fun h => writeResponse_steady h

theorem execReaderVisit_steady (incs : List IslandInc) (s : State) : SteadyStep s (execReaderVisit incs s) :=
  .next fun h => .ite (visitAll_steady h) h

theorem execDumpPeriodEnd_steady (incs : List IslandInc) (s : State) : SteadyStep s (execDumpPeriodEnd incs s) :=
  .next fun h => .ite h (.ite (h.set rfl) (dumpNow_steady h))

theorem execCtrFreezeWrite_steady (val : W64) (incs : List IslandInc) (s : State) :
    SteadyStep s (execCtrFreezeWrite val incs s) :=
  .kcpWrite fun h => writeCtrFreeze_steady h

theorem execPorRelease_steady (s : State) : SteadyStep s (execPorRelease s) := .next fun h => .ite (h.set rfl) h

theorem execRstNRelease_steady (s : State) : SteadyStep s (execRstNRelease s) := .next fun h => h.set rfl

theorem execGblEventEnWrite_steady (off : Nat) (val : W64) (s : State) : SteadyStep s (execGblEventEnWrite off val s) :=
  .kcpWrite fun h => writeEventReg_steady h

theorem execGblMsiAddrWrite_steady (val : W64) (s : State) : SteadyStep s (execGblMsiAddrWrite val s) :=
  .kcpWrite fun h => writeMsiAddr_steady h

theorem execPedlarPush_steady (port ctag : Nat) (hdr : W64) (data : List W64) (s : State) :
    SteadyStep s (execPedlarPush port ctag hdr data s) :=
  .next fun h => .ite (pedPush_steady (h.only (countEv_only _ _ _ _) rfl)) h

theorem execPedlarPop_steady (port ctag : Nat) (req : PopReq) (s : State) : SteadyStep s (execPedlarPop port ctag req s) :=
  .next fun h => .ite (pedPop_steady (h.only (countEv_only _ _ _ _) rfl)) h

theorem execSubSubmit_steady (val : W64) (s : State) : SteadyStep s (execSubSubmit val s) := .kcpWrite fun h => subSubmit_steady h

theorem execFlowTimeout_steady (flow : Nat) (s : State) : SteadyStep s (execFlowTimeout flow s) := by
  unfold execFlowTimeout
  dsimp only
  exact .next fun h => .ite (.ite (h.only (flowMod_only _ _ _) rfl) (raise_steady (h.only (flowMod_only _ _ _) rfl) (by decide))) h

theorem execRunAdmit_steady (flow duration : Nat) (v : ChipView) (s : State) : SteadyStep s (execRunAdmit flow duration v s) := by
  unfold execRunAdmit
  dsimp only
  split
  · exact .ignored
  · exact .next fun h => .ite h (admitHead_steady h)

theorem execTransferAdmit_steady (flow duration : Nat) (v : ChipView) (s : State) :
    SteadyStep s (execTransferAdmit flow duration v s) := by
  unfold execTransferAdmit
  dsimp only
  split
  · exact .ignored
  · exact .next fun h => .ite h (admitXferHead_steady h)

theorem execReplacedItemEnd_steady (flow duration : Nat) (s : State) : SteadyStep s (execReplacedItemEnd flow duration s) := by
  unfold execReplacedItemEnd
  dsimp only
  split
  · exact .ignored
  · exact .next fun h => .ite h (.ite (endRunItem_steady h) (.ite (endXferItem_steady h) h))

theorem execCarterChunk_steady (carter ord : Nat) (chunk : ChunkIn) (s : State) :
    SteadyStep s (execCarterChunk carter ord chunk s) :=
  .next fun h => .ite h (correctedCells_steady (carterErrs_steady (h.only (dropLines_only _ _ _) rfl)))

theorem execRunRecordWrite_steady (ord duration : Nat) (s : State) : SteadyStep s (execRunRecordWrite ord duration s) := by
  unfold execRunRecordWrite
  split
  · exact .ignored
  · exact .next fun h => .ite (finishRun_steady h) h

theorem execTransferRecordWrite_steady (ord duration : Nat) (s : State) : SteadyStep s (execTransferRecordWrite ord duration s) := by
  unfold execTransferRecordWrite
  split
  · exact .ignored
  next x _ =>
    split
    · exact .ignored
    next st _ =>
      exact .next fun h =>
        settle_steady ((h.only (putRecord_only x.desc.flow true (xferRecord x.desc x.carter st false x.done duration) s) rfl).set rfl)

theorem execRdData_steady (port : Nat) (hdr : W64) (data : List Byte) (s : State) :
    SteadyStep s (execRdData port hdr data s) := by
  unfold execRdData
  split
  · exact .ignored
  · refine .next fun h => ?_
    exact .ite h (.ite (raise_steady ((h.only (retire_only _ _ _) rfl).only (readDone_only _ _ _ _) rfl) (by decide))
      ((h.only (retire_only _ _ _) rfl).only (readDone_only _ _ _ _) rfl))

theorem execWrAck_steady (port : Nat) (hdr : W64) (s : State) : SteadyStep s (execWrAck port hdr s) := by
  unfold execWrAck
  split
  · exact .ignored
  · refine .next fun h => ?_
    exact .ite h (.ite (raise_steady (writeDone_steady (h.only (retire_only _ _ _) rfl)) (by decide))
      (writeDone_steady (h.only (retire_only _ _ _) rfl)))

theorem execCdpHeaderDiscard_steady (port : Nat) (hdr : W64) (s : State) : SteadyStep s (execCdpHeaderDiscard port hdr s) := by
  unfold execCdpHeaderDiscard
  dsimp only
  exact .next fun h => .ite (logAdd_steady h) h

theorem execInvalAck_steady (s : State) : SteadyStep s (execInvalAck s) := by
  unfold execInvalAck
  split
  · exact .ignored
  · exact .next fun h => .ite (raise_steady (h.set rfl) (by decide)) h

theorem execFaultRecordWrite_steady (s : State) : SteadyStep s (execFaultRecordWrite s) := by
  unfold execFaultRecordWrite
  split
  · exact .ignored
  · split
    · exact .next fun h => h.set rfl
    · exact .next fun h => .ite (writeFaultRecord_steady h) (faultRingFull_steady h)

theorem execCtrConfig_steady (slot : Nat) (s : State) : SteadyStep s (execCtrConfig slot s) :=
  .cmdStep fun _ _ h => .ite (postFinal_steady (h.only (ctrConfigure_only _ _ _ _ _ _) rfl)) (postFinal_steady h)

theorem execFlowConfig_steady (slot : Nat) (s : State) : SteadyStep s (execFlowConfig slot s) := by
  unfold execFlowConfig
  refine .cmdStep fun _ _ h => ?_
  dsimp only
  split
  · exact postFinal_steady h
  · exact .ite (postFinal_steady (h.only (flowMod_only _ _ _) rfl)) (postFinal_steady h)

theorem execCtxSet_steady (slot : Nat) (s : State) : SteadyStep s (execCtxSet slot s) :=
  .cmdStep fun _ _ h => .ite (postFinal_steady (h.only (ctxMod_only _ _ _) rfl)) (postFinal_steady h)

theorem execSegSet_steady (slot : Nat) (s : State) : SteadyStep s (execSegSet slot s) :=
  .cmdStep fun _ _ h => .ite (postFinal_steady (h.only (ctxMod_only _ _ _) rfl)) (postFinal_steady h)

theorem execTableCreate_steady (slot : Nat) (v : ChipView) (place : Placement) (s : State) :
    SteadyStep s (execTableCreate slot v place s) := by
  unfold execTableCreate
  split
  · exact .ignored
  · split
    · exact .cmdStep fun _ _ h => postFinal_steady (h.only (noteClerk_only _ _ _ _ _) rfl)
    · refine .ite ?_ ?_
      · exact .cmdStep fun _ _ h => postFinal_steady h
      · dsimp only
        exact .ite (.cmdStep fun _ _ h => postFinal_steady (createTable_steady h)) .ignored

theorem execTableDescribe_steady (slot : Nat) (v : ChipView) (s : State) : SteadyStep s (execTableDescribe slot v s) := by
  unfold execTableDescribe
  refine .cmdStep fun _ _ h => ?_
  dsimp only
  split
  · exact postFinal_steady h
  · exact clerkResult_steady h

theorem execTableDestroy_steady (slot : Nat) (s : State) : SteadyStep s (execTableDestroy slot s) := by
  unfold execTableDestroy
  refine .cmdStep fun _ _ h => ?_
  dsimp only
  refine withTable_steady h fun _ => ?_
  refine .ite ?_ ?_
  · exact postFinal_steady h
  · exact postFinal_steady (advance_steady ((((h.only (tableMod_only _ _ _) rfl).only (asySpanEnd_only _ _ _) rfl).only
      (asySpanEnd_only _ _ _) rfl).only (settleSlot_only _ _ _) rfl))

theorem execLoadStart_steady (slot : Nat) (place : Placement) (s : State) : SteadyStep s (execLoadStart slot place s) := by
  unfold execLoadStart
  split
  · exact .ignored
  · dsimp only
    split
    · exact .cmdStep fun _ _ h => postFinal_steady h
    · refine .ite ?_ ?_
      · exact .cmdStep fun _ _ h => postFinal_steady h
      · exact .ite (.cmdStep fun _ _ h => postFinal_steady (openSlot_steady h)) .ignored

theorem execLoadRows_steady (slot : Nat) (v : ChipView) (s : State) : SteadyStep s (execLoadRows slot v s) := by
  unfold execLoadRows
  refine .cmdStep fun _ _ h => ?_
  dsimp only
  refine withTable_steady h fun _ => ?_
  refine .ite (postFinal_steady h) ?_
  split
  · exact postFinal_steady (h.only (noteClerk_only _ _ _ _ _) rfl)
  · exact postFinal_steady (loadAll_steady h)

theorem execLoadEnd_steady (slot : Nat) (s : State) : SteadyStep s (execLoadEnd slot s) := by
  unfold execLoadEnd
  refine .cmdStep fun _ _ h => ?_
  exact withTable_steady h (fun _ => .ite (postFinal_steady ((h.only (tableMod_only _ _ _) rfl).only (asySpanEnd_only _ _ _) rfl))
    (postFinal_steady h))

theorem execSwitch_steady (slot : Nat) (s : State) : SteadyStep s (execSwitch slot s) := by
  unfold execSwitch
  refine .cmdStep fun _ _ h => ?_
  dsimp only
  refine withTable_steady h fun _ => ?_
  split
  · exact postFinal_steady h
  · exact .ite (postFinal_steady h) (postFinal_steady ((h.only (tableMod_only _ _ _) rfl).only (settleSlot_only _ _ _) rfl))

theorem execRowRestore_steady (slot : Nat) (v : ChipView) (s : State) : SteadyStep s (execRowRestore slot v s) := by
  unfold execRowRestore
  refine .cmdStep fun _ _ h => ?_
  dsimp only
  refine withTable_steady h fun _ => ?_
  split
  · exact postFinal_steady h
  · split
    · exact postFinal_steady (h.only (noteClerk_only _ _ _ _ _) rfl)
    · split
      · exact postFinal_steady h
      · refine .ite (postFinal_steady h) ?_
        split
        · exact postFinal_steady h
        next e => exact postFinal_steady (advance_steady (restoreCrier_steady (restoreWrite_steady h e)))

theorem execTemplateInstall_steady (slot : Nat) (v : ChipView) (s : State) : SteadyStep s (execTemplateInstall slot v s) := by
  unfold execTemplateInstall
  split
  · exact .ignored
  · dsimp only
    split
    · exact .cmdStep fun _ _ h => postFinal_steady (h.only (noteImage_only _ _ _ _) rfl)
    · exact .cmdStep fun _ _ h => postFinal_steady h
    · exact .ite (.next fun h => holdTaken_steady (h.set rfl)) (.cmdStep fun _ _ h => postFinal_steady (h.set rfl))

theorem execTemplateInstallComplete_steady (tslot : Nat) (s : State) : SteadyStep s (execTemplateInstallComplete tslot s) := by
  unfold execTemplateInstallComplete
  split
  · exact .ignored
  · split
    · exact .ignored
    · exact .next fun h => .ite h (postFinal_steady (untake_steady (h.set rfl)))

theorem execNodeSet_steady (slot : Nat) (s : State) : SteadyStep s (execNodeSet slot s) :=
  .cmdStep fun _ _ h => .ite (postFinal_steady (h.set rfl)) (postFinal_steady h)

theorem execRouteSet_steady (slot : Nat) (v : ChipView) (s : State) : SteadyStep s (execRouteSet slot v s) := by
  unfold execRouteSet
  refine .cmdStep fun _ _ h => ?_
  split
  · exact postFinal_steady (h.only (noteClerk_only _ _ _ _ _) rfl)
  · exact postFinal_steady (h.only (installRoutes_only _ _ _) rfl)

theorem execHomemapInstall_steady (slot : Nat) (v : ChipView) (room : MapRoom) (s : State) :
    SteadyStep s (execHomemapInstall slot v room s) := by
  unfold execHomemapInstall
  split
  · exact .ignored
  · exact .ite (.cmdStep fun _ _ h => doHomemap_steady h) .ignored

theorem execLarderPlan_steady (slot : Nat) (s : State) : SteadyStep s (execLarderPlan slot s) := by
  unfold execLarderPlan
  split
  · exact .ignored
  · exact .ite (.next fun h => holdTaken_steady h) (.cmdStep fun _ _ h => doPlan_steady h)

theorem execHotsetRefresh_steady (slot : Nat) (v : ChipView) (s : State) : SteadyStep s (execHotsetRefresh slot v s) := by
  unfold execHotsetRefresh
  split
  · exact .ignored
  · exact .ite (.next fun h => holdTaken_steady h) (.next fun h => doRefresh_steady h)

theorem execDeferredConfigExecute_steady (slot : Nat) (v : ChipView) (s : State) :
    SteadyStep s (execDeferredConfigExecute slot v s) := by
  unfold execDeferredConfigExecute
  split
  · exact .ignored
  · exact .next fun h => .ite (doPlan_steady (untake_steady h)) (doRefresh_steady h)

theorem execIdentify_steady (slot : Nat) (s : State) : SteadyStep s (execIdentify slot s) :=
  .cmdStep fun _ _ h => postFinal_steady h

theorem execLogRead_steady (slot : Nat) (v : ChipView) (s : State) : SteadyStep s (execLogRead slot v s) := by
  unfold execLogRead
  refine .cmdStep fun _ _ h => ?_
  dsimp only
  refine .ite (postFinal_steady h) ?_
  split
  · exact postFinal_steady h
  · exact clerkResult_steady h

theorem execStepReport_steady (slot : Nat) (v : ChipView) (s : State) : SteadyStep s (execStepReport slot v s) := by
  unfold execStepReport
  refine .cmdStep fun _ _ h => ?_
  split
  · exact .ite (postFinal_steady h) (clerkResult_steady h)
  · exact postFinal_steady h

theorem execMarginReport_steady (slot : Nat) (volts : List Nat) (mhz : Nat) (s : State) :
    SteadyStep s (execMarginReport slot volts mhz s) := by
  unfold execMarginReport
  exact .ite (.cmdStep fun _ _ h => postFinal_steady h) .ignored

theorem execReplan_steady (slot : Nat) (s : State) : SteadyStep s (execReplan slot s) :=
  .cmdStep fun _ _ h => .ite (postFinal_steady (h.set rfl)) (postFinal_steady h)

theorem execPowerState_steady (slot : Nat) (s : State) : SteadyStep s (execPowerState slot s) := by
  unfold execPowerState
  split
  · exact .ignored
  · dsimp only
    exact .next fun h => .ite h (.ite (answerTaken_steady h) (.ite (answerTaken_steady h) (startTransition_steady h)))

theorem execSelftest_steady (slot : Nat) (s : State) : SteadyStep s (execSelftest slot s) :=
  .cmdStep fun _ _ h => (enterSelftest_steady (accept_steady h)).only (trainTested_only _) rfl

theorem execWipe_steady (slot : Nat) (s : State) : SteadyStep s (execWipe slot s) :=
  .cmdStep fun _ _ h => enterSelftest_steady (accept_steady h)

theorem execLifecycle_steady (slot : Nat) (v : ChipView) (sigOk : Bool) (s : State) :
    SteadyStep s (execLifecycle slot v sigOk s) := by
  unfold execLifecycle
  refine .cmdStep fun _ _ h => ?_
  dsimp only
  split
  · exact postFinal_steady h
  · split
    · exact postFinal_steady (h.only (noteClerk_only _ _ _ _ _) rfl)
    · exact .ite (postFinal_steady h) (.ite (postFinal_steady h) (enterSelftest_steady (accept_steady (h.set rfl))))

theorem execShutter_steady (slot : Nat) (s : State) : SteadyStep s (execShutter slot s) :=
  .cmdStep fun _ _ h => .ite (startShutter_steady (accept_steady h)) (postFinal_steady h)

theorem execUnshutter_steady (slot : Nat) (s : State) : SteadyStep s (execUnshutter slot s) :=
  .cmdStep fun _ _ h => .ite (postFinal_steady h) (postFinal_steady ((h.set (by rfl)).only (openTarget_only _ _ _) rfl))

theorem execRowReadIssue_steady (col mill : Nat) (s : State) : SteadyStep s (execRowReadIssue col mill s) := by
  unfold execRowReadIssue
  split
  · exact .ignored
  · split
    · split
      · exact .ignored
      · refine .ite ?_ ?_
        · exact .ignored
        · dsimp only
          split
          · exact .next fun h => issueRead_steady (readIndex_steady (h.only (fillSieve_only _ _) rfl))
          · exact .next fun h => ((h.only (fillSieve_only _ _) rfl).only (countLookup_only _ _ _ _ _ _) rfl).only (setWork_only _ _ _ _) rfl
    · exact .ignored

theorem execHomeRowRead_steady (r : HomeReadIn) (s : State) : SteadyStep s (execHomeRowRead r s) := by
  unfold execHomeRowRead
  split
  · exact .ignored
  · split
    · exact .ignored
    · dsimp only
      exact .next fun h => .ite ((meetFilters_steady h).only (askEntry_only _ _ _) rfl) (serveRead_steady (meetFilters_steady h))

theorem execRowArrive_steady (col mill : Nat) (a : ArriveIn) (s : State) : SteadyStep s (execRowArrive col mill a s) := by
  unfold execRowArrive
  split
  · exact .ignored
  · split
    · split
      · exact .ignored
      · refine .next fun h => ?_
        refine .ite h ?_
        split
        next e =>
          refine .ite ?_ ?_
          · exact noteStatus_steady ((Steady.of_snd e (arriveWords_steady h)).only (failOn_only _ _ _ _ _) rfl)
          · exact .ite ((Steady.of_snd e (arriveWords_steady h)).only (failOn_only _ _ _ _ _) rfl)
              (poolRow_steady (Steady.of_snd e (arriveWords_steady h)))
    · exact .ignored

theorem execPromoteResend_steady (col idx : Nat) (s : State) : SteadyStep s (execPromoteResend col idx s) := by
  unfold execPromoteResend
  dsimp only
  split
  · exact .ignored
  · split
    · exact .ignored
    · exact .next fun h => .ite (askPromotion_steady h) ((askPromotion_steady h).only (absentWait_only _ _ _) rfl)

theorem execBagPoolEnd_steady (col mill : Nat) (tile : TileIn) (s : State) : SteadyStep s (execBagPoolEnd col mill tile s) := by
  unfold execBagPoolEnd
  dsimp only
  split
  · exact .ignored
  · split
    · exact .ignored
    · split
      · exact .ignored
      · refine .next fun h => ?_
        refine .ite ?_ ?_
        · exact h
        · refine .ite ?_ ?_
          · exact (noteStatus_steady ((h.only (colEvent_only _ _ _ _ _ _) rfl).only (failOn_only _ _ _ _ _) rfl)).only
              (afterBag_only _ _) rfl
          · exact endSlice_steady (h.only (colEvent_only _ _ _ _ _ _) rfl)

theorem execTileSave_steady (col mill : Nat) (s : State) : SteadyStep s (execTileSave col mill s) := by
  unfold execTileSave
  split
  · exact .ignored
  · split
    · exact .ignored
    · refine .next fun h => ?_
      exact .ite h (.ite (waitBag_steady h) ((hbmWrite_steady (h.only (dropReads_only _ _) rfl)).only (millMod_only _ _ _ _) rfl))

theorem execMergeFlush_steady (col : Nat) (s : State) : SteadyStep s (execMergeFlush col s) := by
  unfold execMergeFlush
  dsimp only
  exact .next fun h => .ite (flushColumn_steady h) h

theorem execPartialEnqueue_steady (s : State) : SteadyStep s (execPartialEnqueue s) := by
  unfold execPartialEnqueue
  split
  · exact .ignored
  · dsimp only
    exact .next fun h => (relay_steady (h.set (by rfl))).only (partialTaken_only _ _) rfl

theorem execLedgerFold_steady (pos : Nat) (ue : Bool) (s : State) : SteadyStep s (execLedgerFold pos ue s) :=
  .next fun h => .ite (loseEntry_steady h) (foldNext_steady h)

theorem execStepOpen_steady (slot : Nat) (v : ChipView) (s : State) : SteadyStep s (execStepOpen slot v s) := by
  unfold execStepOpen
  refine .cmdStep fun _ _ h => ?_
  dsimp only
  refine .ite (postFinal_steady h) ?_
  split
  · exact postFinal_steady (h.only (noteClerk_only _ _ _ _ _) rfl)
  · exact postFinal_steady (openStepAt_steady h)

theorem execSeal_steady (slot : Nat) (s : State) : SteadyStep s (execSeal slot s) :=
  .cmdStep fun _ _ h => .ite (accept_steady (h.only (sealStep_only _ _) rfl)) (postFinal_steady h)

theorem execSealDone_steady (s : State) : SteadyStep s (execSealDone s) :=
  .next fun h => .ite (.ite (reportAll_steady (raise_steady (h.set rfl) (by decide))) (raise_steady (h.set rfl) (by decide))) h

theorem execCommit_steady (slot : Nat) (s : State) : SteadyStep s (execCommit slot s) := by
  unfold execCommit
  refine .cmdStep fun _ _ h => ?_
  dsimp only
  refine .ite (postFinal_steady h) ?_
  split
  · refine advance_steady ?_
    refine resendRecoded_steady ?_
    exact (Steady.foldl (((accept_steady h).set (by rfl)).only (commitMod_only _ _) rfl) fun _ _ k => k.only (asySpanStart_only _ _ _)
      rfl).only
      (startRedo_only _ _) rfl
  · exact (Steady.foldl (((accept_steady h).set (by rfl)).only (commitMod_only _ _) rfl) fun _ _ k => k.only (asySpanStart_only _ _ _)
      rfl).only
      (startJournal_only _ _ _) rfl

theorem execJournalFlushDone_steady (s : State) : SteadyStep s (execJournalFlushDone s) := by
  unfold execJournalFlushDone
  split
  · exact .ignored
  · exact .next fun h => .ite (advance_steady (flushJournal_steady h)) h

theorem execApplyUnit_steady (u : UnitIn) (s : State) : SteadyStep s (execApplyUnit u s) := by
  unfold execApplyUnit
  split
  · exact .ignored
  · exact .next fun h => .ite (advance_steady (applyEntry_steady h)) h

theorem execPromotionReceive_steady (s : State) : SteadyStep s (execPromotionReceive s) := by
  unfold execPromotionReceive
  split
  · exact .ignored
  · split
    · exact .ignored
    · exact .next fun h => takePromotion_steady (h.only (commitMod_only _ _) rfl)

theorem execSpillScan_steady (s : State) : SteadyStep s (execSpillScan s) :=
  .next fun h => .ite (advance_steady (scanSpills_steady h)) h

theorem execRowMoveComplete_steady (idx : Nat) (s : State) : SteadyStep s (execRowMoveComplete idx s) := by
  unfold execRowMoveComplete
  refine .next fun h => ?_
  split
  · exact h
  · exact advance_steady (finishMove_steady (h.set rfl))

theorem execShelfEvaluate_steady (tid shelf : Nat) (s : State) : SteadyStep s (execShelfEvaluate tid shelf s) := by
  unfold execShelfEvaluate
  split
  · exact .ignored
  · split
    · exact .ignored
    · split
      · exact .ignored
      · exact .next fun h => .ite (advance_steady (h.only (shelfMod_only _ _ _ _ _) rfl)) h

theorem execShelfRebuild_steady (tid slot shelf newShelf : Nat) (s : State) :
    SteadyStep s (execShelfRebuild tid slot shelf newShelf s) := by
  unfold execShelfRebuild
  dsimp only
  split
  · exact .ignored
  · split
    · exact .ignored
    · exact .next fun h => .ite (advance_steady (rebuildShelf_steady (h.only (reclaim_only _ _ _) rfl))) h

theorem execCommitDone_steady (duration : Nat) (s : State) : SteadyStep s (execCommitDone duration s) := by
  unfold execCommitDone
  dsimp only
  exact .next fun h => .ite (finishCommit_steady (advance_steady h)) h

theorem execRead_steady (port : Nat) (h : PktHdr) (p : ReadPkt) (s : State) : SteadyStep s (execRead port h p s) :=
  .arrive fun _ h => takeRead_steady h

theorem execRow_steady (port : Nat) (h : PktHdr) (p : RowPkt) (s : State) : SteadyStep s (execRow port h p s) := by
  unfold execRow
  refine .arrive fun _ h => ?_
  split
  · exact takeRow_steady h
  · exact h.only (lateAnswer_only _) rfl

theorem execPromote_steady (port : Nat) (h : PktHdr) (p : KeyPkt) (s : State) : SteadyStep s (execPromote port h p s) :=
  .arrive fun _ h => .ite (h.only (commitMod_only _ _) rfl) (sendNotice_steady h)

theorem execNotice_steady (port : Nat) (h : PktHdr) (p : KeyPkt) (s : State) : SteadyStep s (execNotice port h p s) :=
  .arrive fun _ h => h.set rfl

theorem execAbsent_steady (port : Nat) (h : PktHdr) (p : AbsentPkt) (s : State) : SteadyStep s (execAbsent port h p s) :=
  .arrive fun _ h => takeAbsent_steady h

theorem execPart_steady (port : Nat) (h : PktHdr) (p : PartialPkt) (s : State) : SteadyStep s (execPart port h p s) := by
  unfold execPart
  dsimp only
  refine .ite ?_ ?_
  · exact .next fun h => (h.only (takeRx_only _ _ _) rfl).only (corruptPacket_only _ _ _ _) rfl
  · exact .ite (.next fun h => h.only (stay_only _ _ _) rfl) (.arrive fun _ h => (h.set rfl))

theorem execUpdate_steady (port : Nat) (h : PktHdr) (p : UpdatePkt) (s : State) : SteadyStep s (execUpdate port h p s) := by
  unfold execUpdate
  refine .arrive fun _ h => ?_
  split
  next e =>
    have taken := Steady.of_snd e (h.only (crierTake_only _ _ _) rfl)
    exact .ite (taken.only (takeUpdate_only _ _ _) rfl) taken

theorem execMark_steady (port : Nat) (h : PktHdr) (p : MarkPkt) (s : State) : SteadyStep s (execMark port h p s) := by
  unfold execMark
  refine .arrive fun _ h => ?_
  split
  next e => exact .ite ((Steady.of_snd e (h.only (crierTake_only _ _ _) rfl)).set rfl) (Steady.of_snd e (h.only (crierTake_only _ _ _) rfl))

theorem execLquery_steady (port : Nat) (h : PktHdr) (p : LinkPkt) (s : State) : SteadyStep s (execLquery port h p s) :=
  .arrive fun _ h => sendOwn_steady (.ite (h.only (portMod_only _ _ _) rfl) h)

theorem execLstate_steady (port : Nat) (h : PktHdr) (p : LinkPkt) (s : State) : SteadyStep s (execLstate port h p s) :=
  .arrive fun _ h => .ite (.ite (settleLink_steady h) (unresolved_steady h)) h

theorem execRemoteReadTimeout_steady (tagSlot : Nat) (s : State) : SteadyStep s (execRemoteReadTimeout tagSlot s) := by
  unfold execRemoteReadTimeout
  split
  · exact .ignored
  · exact .next fun h => failReq_steady h

theorem execMigrationReadIssue_steady (map : Nat) (s : State) : SteadyStep s (execMigrationReadIssue map s) := by
  unfold execMigrationReadIssue
  split
  · exact .ignored
  · split
    · exact .ignored
    · split
      · exact .ignored
      · dsimp only
        split
        · exact .next fun h => (h.only (mapMod_only _ _ _) rfl).only (settleInbound_only _ _) rfl
        · refine .ite ?_ ?_
          · exact .next fun h => (h.only (mapMod_only _ _ _) rfl).only (settleInbound_only _ _) rfl
          · refine .ite ?_ ?_
            · exact .ignored
            · split
              next e => exact .next fun h => (sendSlices_steady h e).only (mapMod_only _ _ _) rfl
              · exact .ite (.next fun h => ((noteAbsent_steady h).only (mapMod_only _ _ _) rfl).only (failMigration_only _ _ _ _) rfl)
                  .ignored

theorem execMigrationReadRetry_steady (idx : Nat) (s : State) : SteadyStep s (execMigrationReadRetry idx s) := by
  unfold execMigrationReadRetry
  split
  · dsimp only
    refine .ite ?_ ?_
    · exact .ignored
    · split
      next e => exact .next fun h => sendRead_steady (h.set (by rfl)) e
      · exact .next fun h => failReq_steady (noteAbsent_steady (h.set rfl))
  · exact .ignored

theorem execLinkTraining_steady (port txFail rxFail lane : Nat) (s : State) :
    SteadyStep s (execLinkTraining port txFail rxFail lane s) :=
  .next fun h => .ite h (.ite (raise_steady (h.only (portMod_only _ _ _) rfl) (by decide)) (h.only (portMod_only _ _ _) rfl))

theorem execLinkBringupExchange_steady (port : Nat) (x : Option LinkExchange) (s : State) :
    SteadyStep s (execLinkBringupExchange port x s) := by
  unfold execLinkBringupExchange
  refine .next fun h => ?_
  refine .ite h ?_
  split
  · exact raise_steady (h.only (portMod_only _ _ _) rfl) (by decide)
  · exact .ite (raise_steady (h.only (portMod_only _ _ _) rfl) (by decide)) ((linkChanged_steady (h.only (portMod_only _ _ _) rfl)).only
      (grantNow_only _ _) rfl)

theorem execNakReceive_steady (port ack : Nat) (s : State) : SteadyStep s (execNakReceive port ack s) :=
  .next fun h => .ite (takeNak_steady h) h

theorem execFlitReceive_steady (port : Nat) (f : Flit) (s : State) : SteadyStep s (execFlitReceive port f s) := by
  unfold execFlitReceive
  refine .next fun h => ?_
  exact .ite h (.ite (takeFlit_steady (h.only (portMod_only _ _ _) rfl)) ((h.only (portMod_only _ _ _) rfl).only (transmit_only _ _ _) rfl))

theorem execLinkRetrainDone_steady (port : Nat) (r : RetrainIn) (s : State) : SteadyStep s (execLinkRetrainDone port r s) := by
  unfold execLinkRetrainDone
  dsimp only
  refine .next fun h => ?_
  exact .ite h (.ite (failLink_steady h) (.ite (h.only (transmit_only _ _ _) rfl)
    (linkChanged_steady ((h.only (transmit_only _ _ _) rfl).only (portMod_only _ _ _) rfl))))

theorem execRecoverRetrainTimeout_steady (port : Nat) (s : State) : SteadyStep s (execRecoverRetrainTimeout port s) :=
  .next fun h => .ite (askPeer_steady h) h

theorem execLqueryTimeout_steady (port : Nat) (s : State) : SteadyStep s (execLqueryTimeout port s) :=
  .next fun h => .ite (unresolved_steady h) h

theorem execSpanRxElectricalIdle_steady (port : Nat) (s : State) : SteadyStep s (execSpanRxElectricalIdle port s) := by
  unfold execSpanRxElectricalIdle
  dsimp only
  refine .next fun h => ?_
  refine .ite ?_ ?_
  · exact h
  · refine .ite ?_ ?_
    · exact h.only (portMod_only _ _ _) rfl
    · exact .ite (.foldl (rerouteQueue_steady (.ite (linkChanged_steady (h.only (portMod_only _ _ _) rfl))
        (h.only (portMod_only _ _ _) rfl))) fun _ _ k => refuseFrom_steady k) h

theorem execQhCellUncorrectable_steady (spot : CellSpot) (s : State) : SteadyStep s (execQhCellUncorrectable spot s) := by
  unfold execQhCellUncorrectable
  split
  next e => exact .next fun h => countCell_steady (cellLost_steady h e)
  · exact .ignored

theorem execHbmThermalSample_steady (stack temp : Nat) (s : State) : SteadyStep s (execHbmThermalSample stack temp s) :=
  .next fun h => .ite (takeSample_steady h) h

theorem execHbmPatrol_steady (cw : Nat) (syms : List SymErr) (written : Bool) (s : State) :
    SteadyStep s (execHbmPatrol cw syms written s) := by
  unfold execHbmPatrol
  refine .next fun h => ?_
  refine .ite h ?_
  split
  · exact hbmUe_steady h
  · exact .ite (.ite (correctedHbm_steady h) h) (flipCw_steady (.ite (correctedHbm_steady h) h))

theorem execHbmReadUncorrectable_steady (e : CwErr) (who : HbmReader) (s : State) :
    SteadyStep s (execHbmReadUncorrectable e who s) := by
  unfold execHbmReadUncorrectable
  refine .next fun h => ?_
  split
  · exact homeReadUe_steady h
  · exact .ite h (streamUe_steady h)
  · exact mapUe_steady h
  · exact spillUe_steady h
  · exact .ite (hbmUe_steady h) h

theorem execLarderPatrol_steady (block wrong : Nat) (s : State) : SteadyStep s (execLarderPatrol block wrong s) := by
  unfold execLarderPatrol
  refine .next fun h => ?_
  refine .ite h ?_
  split
  · exact h
  · exact correctedLarder_steady h
  · exact h.set rfl

theorem execLarderReadUncorrectable_steady (block : Nat) (spot : LarderSpot) (s : State) :
    SteadyStep s (execLarderReadUncorrectable block spot s) :=
  .next fun h => .ite h (.getD (fun _ e => larderAct_steady (larderUe_steady h) e) h)

theorem execMarginSample_steady (ins : List MarginIn) (s : State) : SteadyStep s (execMarginSample ins s) :=
  .next fun h => .ite (sampleMargins_steady h) h

theorem execShutterDone_steady (idx us : Nat) (s : State) : SteadyStep s (execShutterDone idx us s) := by
  unfold execShutterDone
  split
  · exact .ignored
  · exact .next fun h => .ite (finishShutter_steady h) h

theorem execRecoveryComplete_steady (s : State) : SteadyStep s (execRecoveryComplete s) := by
  unfold execRecoveryComplete
  refine .next fun h => ?_
  exact .ite (settle_steady (.ite (answerLost_steady (endSequence_steady (.ite (defaults_steady h) h)))
    (endSequence_steady (.ite (defaults_steady h) h)))) h

theorem execClerkSecureBoot_steady (ok : Bool) (img : ImageHdr) (s : State) : SteadyStep s (execClerkSecureBoot ok img s) := by
  refine .next fun h => .ite h ?_
  have wiped : Steady s (bootWipe s) := bootWipe_steady h
  generalize bootWipe s = empty at wiped
  refine .ite (.only (bootGood_steady ?_) (afterBoot_only _) rfl) (.only (.only ?_ (refreshReady_only _) rfl) (afterBoot_only _) rfl)
  · exact wiped.set rfl
  · exact wiped.set rfl

theorem execSelftestSequenceDone_steady (res : BistResult) (s : State) : SteadyStep s (execSelftestSequenceDone res s) := by
  refine .next fun h => .ite h ?_
  extract_lets parts tested failed _ noted planned _ _ idle ended
  have hnoted : Steady s noted := (applyTest_steady (stepFive_steady h)).set rfl
  have hplanned : Steady s planned := .ite (defaults_steady hnoted) hnoted
  have hended : Steady s ended := endSequence_steady (hplanned.set rfl)
  exact .ite (.foldl hended fun _ _ k => reportAll_steady k) hended

theorem execClerkBeat_steady (s : State) : SteadyStep s (execClerkBeat s) :=
  .next fun h => .ite (h.trans ⟨fun _ set => set, fun inv => { inv with missed := Nat.zero_le 4 }⟩) h

theorem missInterval_steady {a s : State} (h : Steady a s) :
    Steady a { s with mbx := { s.mbx with missed := min (s.mbx.missed + 1) 4 } } :=
  h.trans ⟨fun _ set => set, fun inv => { inv with missed := Nat.min_le_right _ _ }⟩

theorem execHeartbeatIntervalEnd_steady (s : State) : SteadyStep s (execHeartbeatIntervalEnd s) :=
  .next fun h => .ite h (.ite (h.set rfl) (.ite (clerkLost_steady (missInterval_steady h)) (missInterval_steady h)))

theorem execClerkSramUncorrectable_steady (s : State) : SteadyStep s (execClerkSramUncorrectable s) := .next fun h => .ite (h.set rfl) h

end Sys2Proof.Machine

/-! SUPPORT. The commands together: the invariant and the events. -/

namespace Sys2Proof.Machine

open Sys2Proof

/-- Every command but those of `MayClear` clears no event and keeps the invariant. -/
theorem exec_steady {c : Instr} (stays : ¬ MayClear c) (s : State) : SteadyStep s (exec c s) := by
  cases c with
  | identify slot => exact execIdentify_steady slot s
  | logRead slot v => exact execLogRead_steady slot v s
  | selftest slot => exact execSelftest_steady slot s
  | powerState slot => exact execPowerState_steady slot s
  | wipe slot => exact execWipe_steady slot s
  | lifecycle slot v sigOk => exact execLifecycle_steady slot v sigOk s
  | tableCreate slot v place => exact execTableCreate_steady slot v place s
  | tableDescribe slot v => exact execTableDescribe_steady slot v s
  | tableDestroy slot => exact execTableDestroy_steady slot s
  | loadStart slot place => exact execLoadStart_steady slot place s
  | loadRows slot v => exact execLoadRows_steady slot v s
  | loadEnd slot => exact execLoadEnd_steady slot s
  | switch slot => exact execSwitch_steady slot s
  | rowRestore slot v => exact execRowRestore_steady slot v s
  | templateInstall slot v => exact execTemplateInstall_steady slot v s
  | templateInstallComplete tslot => exact execTemplateInstallComplete_steady tslot s
  | ctxSet slot => exact execCtxSet_steady slot s
  | segSet slot => exact execSegSet_steady slot s
  | flowConfig slot => exact execFlowConfig_steady slot s
  | nodeSet slot => exact execNodeSet_steady slot s
  | homemapInstall slot v room => exact execHomemapInstall_steady slot v room s
  | routeSet slot v => exact execRouteSet_steady slot v s
  | larderPlan slot => exact execLarderPlan_steady slot s
  | hotsetRefresh slot v => exact execHotsetRefresh_steady slot v s
  | deferredConfigExecute slot v => exact execDeferredConfigExecute_steady slot v s
  | stepOpen slot v => exact execStepOpen_steady slot v s
  | sealStep slot => exact execSeal_steady slot s
  | sealDone => exact execSealDone_steady s
  | commit slot => exact execCommit_steady slot s
  | stepReport slot v => exact execStepReport_steady slot v s
  | ctrConfig slot => exact execCtrConfig_steady slot s
  | shutter slot => exact execShutter_steady slot s
  | shutterDone idx us => exact execShutterDone_steady idx us s
  | unshutter slot => exact execUnshutter_steady slot s
  | marginReport slot volts mhz => exact execMarginReport_steady slot volts mhz s
  | replan slot => exact execReplan_steady slot s
  | mbxDoorbell val => exact execMbxDoorbell_steady val s
  | mbxSlotWrite slot word val => exact execMbxSlotWrite_steady slot word val s
  | mbxRespHeadWrite val => exact execMbxRespHeadWrite_steady val s
  | mbxRingConfigWrite size val => exact execMbxRingConfigWrite_steady size val s
  | commandTake => exact execCommandTake_steady s
  | responseWrite => exact execResponseWrite_steady s
  | clerkBeat => exact execClerkBeat_steady s
  | heartbeatIntervalEnd => exact execHeartbeatIntervalEnd_steady s
  | clerkSramUncorrectable => exact execClerkSramUncorrectable_steady s
  | wchNop val => exact execWchNop_steady val s
  | dumpLog val => exact execDumpLog_steady val s
  | haltClerk val => exact execHaltClerk_steady val s
  | writeCo val => exact execWriteCo_steady val s
  | restartClerk val => exact execRestartClerk_steady val s
  | wchRecoveryReset _ => exact absurd trivial stays
  | forceHeld val => exact execForceHeld_steady val s
  | gblResetCold _ => exact absurd trivial stays
  | gblResetRecovery _ => exact absurd trivial stays
  | gblResetClerkOnly val => exact execGblResetClerkOnly_steady val s
  | cmbResetRequest => exact absurd trivial stays
  | resetTakeHold => exact absurd trivial stays
  | recoveryComplete => exact execRecoveryComplete_steady s
  | porAssert => exact absurd trivial stays
  | porRelease => exact execPorRelease_steady s
  | rstNFall => exact absurd trivial stays
  | rstNRelease => exact execRstNRelease_steady s
  | refclkLoss => exact absurd trivial stays
  | railFault => exact absurd trivial stays
  | clerkSecureBoot ok img => exact execClerkSecureBoot_steady ok img s
  | selftestSequenceDone res => exact execSelftestSequenceDone_steady res s
  | powerTransitionDone _ => exact absurd trivial stays
  | tileSave col mill => exact execTileSave_steady col mill s
  | tileRestore col mill => exact (execTileRestore_within col mill s).steady rfl
  | pedlarPush port ctag hdr data => exact execPedlarPush_steady port ctag hdr data s
  | pedlarPop port ctag req => exact execPedlarPop_steady port ctag req s
  | pedlarProbe port ctag hdr => exact (execPedlarProbe_within port ctag hdr s).steady rfl
  | subSubmit val => exact execSubSubmit_steady val s
  | runAdmit flow duration v => exact execRunAdmit_steady flow duration v s
  | transferAdmit flow duration v => exact execTransferAdmit_steady flow duration v s
  | replacedItemEnd flow duration => exact execReplacedItemEnd_steady flow duration s
  | bagGroupDispatch ord col => exact (execBagGroupDispatch_within ord col s).steady rfl
  | distributorForward ord group => exact (execDistributorForward_within ord group s).steady rfl
  | carterChunk carter ord chunk => exact execCarterChunk_steady carter ord chunk s
  | bagStart col mill ord b => exact (execBagStart_within col mill ord b s).steady rfl
  | rowReadIssue col mill => exact execRowReadIssue_steady col mill s
  | homeRowRead r => exact execHomeRowRead_steady r s
  | rowArrive col mill a => exact execRowArrive_steady col mill a s
  | sieveWindowClose col => exact (execSieveWindowClose_within col s).steady rfl
  | bagPoolEnd col mill tile => exact execBagPoolEnd_steady col mill tile s
  | tileDrain col mill => exact (execTileDrain_within col mill s).steady rfl
  | runRecordWrite ord duration => exact execRunRecordWrite_steady ord duration s
  | transferRecordWrite ord duration => exact execTransferRecordWrite_steady ord duration s
  | backwardContribution col mill ue => exact (execBackwardContribution_within col mill ue s).steady rfl
  | mergeFlush col => exact execMergeFlush_steady col s
  | backwardStreamIdle col => exact (execBackwardStreamIdle_within col s).steady rfl
  | partialEnqueue => exact execPartialEnqueue_steady s
  | foldHoldExpire port idx => exact (execFoldHoldExpire_within port idx s).steady rfl
  | ledgerFold pos ue => exact execLedgerFold_steady pos ue s
  | journalFlushDone => exact execJournalFlushDone_steady s
  | applyUnit u => exact execApplyUnit_steady u s
  | promotionReceive => exact execPromotionReceive_steady s
  | spillScan => exact execSpillScan_steady s
  | shelfEvaluate tid shelf => exact execShelfEvaluate_steady tid shelf s
  | shelfRebuild tid slot shelf newShelf => exact execShelfRebuild_steady tid slot shelf newShelf s
  | commitDone duration => exact execCommitDone_steady duration s
  | rowMoveComplete idx => exact execRowMoveComplete_steady idx s
  | commitNoticeReceive col => exact (execCommitNoticeReceive_within col s).steady rfl
  | linkTraining port txFail rxFail lane => exact execLinkTraining_steady port txFail rxFail lane s
  | linkBringupExchange port x => exact execLinkBringupExchange_steady port x s
  | flitReceive port f => exact execFlitReceive_steady port f s
  | nakReceive port ack => exact execNakReceive_steady port ack s
  | linkRetrainDone port r => exact execLinkRetrainDone_steady port r s
  | recoverRetrainTimeout port => exact execRecoverRetrainTimeout_steady port s
  | lquery port h p => exact execLquery_steady port h p s
  | lstate port h p => exact execLstate_steady port h p s
  | lqueryTimeout port => exact execLqueryTimeout_steady port s
  | packetSend port chan idx => exact (execPacketSend_within port chan idx s).steady rfl
  | read port h p => exact execRead_steady port h p s
  | row port h p => exact execRow_steady port h p s
  | promote port h p => exact execPromote_steady port h p s
  | notice port h p => exact execNotice_steady port h p s
  | absent port h p => exact execAbsent_steady port h p s
  | part port h p => exact execPart_steady port h p s
  | update port h p => exact execUpdate_steady port h p s
  | mark port h p => exact execMark_steady port h p s
  | remoteReadTimeout tagSlot => exact execRemoteReadTimeout_steady tagSlot s
  | promoteResend col idx => exact execPromoteResend_steady col idx s
  | migrationReadIssue map => exact execMigrationReadIssue_steady map s
  | migrationReadRetry idx => exact execMigrationReadRetry_steady idx s
  | xltInval val => exact (execXltInval_within val s).steady rfl
  | invalTakeEffect => exact (execInvalTakeEffect_within s).steady rfl
  | rangeRetranslate ord stream v => exact (execRangeRetranslate_within ord stream v s).steady rfl
  | invalAck => exact execInvalAck_steady s
  | faultRaise => exact (execFaultRaise_within s).steady rfl
  | faultRecordWrite => exact execFaultRecordWrite_steady s
  | faultReplyReplay val => exact (execFaultReplyReplay_within val s).steady rfl
  | faultReplyAbort val => exact (execFaultReplyAbort_within val s).steady rfl
  | faultOverdue pend => exact (execFaultOverdue_within pend s).steady rfl
  | fltRingHeadWrite val => exact (execFltRingHeadWrite_within val s).steady rfl
  | fltRingConfigWrite size val => exact (execFltRingConfigWrite_within size val s).steady rfl
  | fltStatusClear val => exact (execFltStatusClear_within val s).steady rfl
  | streamTailTimeout flow => exact (execStreamTailTimeout_within flow s).steady rfl
  | flowTimeout flow => exact execFlowTimeout_steady flow s
  | qhSplitWrite val => exact (execQhSplitWrite_within val s).steady rfl
  | qhTimeoutWrite val => exact (execQhTimeoutWrite_within val s).steady rfl
  | qhCellUncorrectable spot => exact execQhCellUncorrectable_steady spot s
  | rdData port hdr data => exact execRdData_steady port hdr data s
  | wrAck port hdr => exact execWrAck_steady port hdr s
  | cdpHeaderDiscard port hdr => exact execCdpHeaderDiscard_steady port hdr s
  | cdpReadyChange port kRdy sRdy => exact (execCdpReadyChange_within port kRdy sRdy s).steady rfl
  | cdpCreditReturn port header data => exact (execCdpCreditReturn_within port header data s).steady rfl
  | hbmThermalSample stack temp => exact execHbmThermalSample_steady stack temp s
  | hbmRefresh stack chan bank => exact (execHbmRefresh_within stack chan bank s).steady rfl
  | hbmPatrol cw syms written => exact execHbmPatrol_steady cw syms written s
  | hbmReadUncorrectable e who => exact execHbmReadUncorrectable_steady e who s
  | larderPatrol block wrong => exact execLarderPatrol_steady block wrong s
  | larderReadUncorrectable block spot => exact execLarderReadUncorrectable_steady block spot s
  | hbmTempWrite stack val => exact (execHbmTempWrite_within stack val s).steady rfl
  | hbmHintCfgWrite stack val => exact (execHbmHintCfgWrite_within stack val s).steady rfl
  | test1500LoadInstr stack val hard => exact (execTest1500LoadInstr_within stack val hard s).steady rfl
  | test1500ShiftData stack val captured => exact (execTest1500ShiftData_within stack val captured s).steady rfl
  | marginSample ins => exact execMarginSample_steady ins s
  | readerVisit incs => exact execReaderVisit_steady incs s
  | dumpPeriodEnd incs => exact execDumpPeriodEnd_steady incs s
  | ctrModeWrite val => exact (execCtrModeWrite_within val s).steady rfl
  | ctrFreezeWrite val incs => exact execCtrFreezeWrite_steady val incs s
  | ctrDumpPeriodWrite val => exact (execCtrDumpPeriodWrite_within val s).steady rfl
  | ctrSampleWrite val => exact (execCtrSampleWrite_within val s).steady rfl
  | sampleRecordWrite idx times => exact (execSampleRecordWrite_within idx times s).steady rfl
  | mclIdleCauseClear col val => exact (execMclIdleCauseClear_within col val s).steady rfl
  | asyClear val => exact (execAsyClear_within val s).steady rfl
  | ldgLatePolicyWrite val => exact (execLdgLatePolicyWrite_within val s).steady rfl
  | gblEventWrite _ => exact absurd trivial stays
  | gblEventEnWrite off val => exact execGblEventEnWrite_steady off val s
  | gblMsiAddrWrite val => exact execGblMsiAddrWrite_steady val s
  | registerWrite _ _ => exact absurd trivial stays
  | spanRxElectricalIdle port => exact execSpanRxElectricalIdle_steady port s
  | lastRxExpire port => exact (execLastRxExpire_within port s).steady rfl

/-- A command of `MayClear` keeps the invariant. -/
theorem exec_keepsInv_of_mayClear {c : Instr} (may : MayClear c) (s : State) : KeepsInv s (exec c s) := by
  cases c with
  | wchRecoveryReset _ => exact .kcpWrite wchCommand_inv
  | gblResetCold _ => exact .kcpWrite writeGblReset_inv
  | gblResetRecovery _ => exact .kcpWrite writeGblReset_inv
  | cmbResetRequest => exact .kcpWrite requestReset_inv
  | resetTakeHold => exact execResetTakeHold_keepsInv s
  | porAssert => exact .next fun _ => powerLost_inv
  | rstNFall => exact execRstNFall_keepsInv s
  | refclkLoss => exact execRefclkLoss_keepsInv s
  | railFault => exact execRailFault_keepsInv s
  | powerTransitionDone us => exact execPowerTransitionDone_keepsInv us s
  | gblEventWrite _ => exact .kcpWrite writeEvent_inv
  | registerWrite _ _ => exact .kcpWrite regWrite_inv
  | _ => exact may.elim

theorem exec_keepsInv (c : Instr) (s : State) : KeepsInv s (exec c s) := by
  by_cases may : MayClear c
  · exact exec_keepsInv_of_mayClear may s
  · exact (exec_steady may s).keepsInv

/-- Settles O7: every command but those of `MayClear` is steady, command by command. -/
theorem eventsStayUntilCleared : Obligations.EventsStayUntilCleared := by
  unfold Obligations.EventsStayUntilCleared
  intro c s t stays next i set
  obtain ⟨u, hu, steady⟩ := exec_steady stays s
  obtain rfl : u = t := Host.Outcome.next.inj (hu.symm.trans next)
  exact steady.events i set

/-- Settles O6: a step runs one command on the state without it in the queue, and each command keeps the invariant. -/
theorem everyStepKeepsInv : Obligations.EveryStepKeepsInv := by
  unfold Obligations.EveryStepKeepsInv
  intro s t inv next
  unfold step at next
  split at next
  next => exact Host.Outcome.next.inj next ▸ inv
  next c rest _ =>
    obtain ⟨u, hu, keeps⟩ := exec_keepsInv c { s with pending := rest }
    obtain rfl : u = t := Host.Outcome.next.inj (hu.symm.trans next)
    exact keeps ((Steady.set (.refl s) (by rfl)).inv inv)

end Sys2Proof.Machine

/-! The frames of the register writes and of the Clerk's commands. -/

namespace Sys2Proof.Machine

open Sys2Proof

/-- Settles O46: each write's frame, as it stands among the frames of the commands. -/
theorem registerFrame : Obligations.RegisterFrame := by
  unfold Obligations.RegisterFrame
  intro s t
  exact ⟨fun val => (execMbxDoorbell_within val s).only,
    fun slot word val => (execMbxSlotWrite_within slot word val s).only,
    fun val => (execMbxRespHeadWrite_within val s).only,
    fun size val => (execMbxRingConfigWrite_within size val s).only,
    (execCommandTake_within s).only,
    (execResponseWrite_within s).only,
    fun val => (execCtrModeWrite_within val s).only,
    fun val incs => (execCtrFreezeWrite_within val incs s).only,
    fun val => (execCtrDumpPeriodWrite_within val s).only,
    fun val => (execCtrSampleWrite_within val s).only,
    fun col val => (execMclIdleCauseClear_within col val s).only,
    fun incs => (execReaderVisit_within incs s).only,
    fun incs => (execDumpPeriodEnd_within incs s).only,
    fun idx times => (execSampleRecordWrite_within idx times s).only,
    fun val => (execGblEventWrite_within val s).only,
    fun off val => (execGblEventEnWrite_within off val s).only,
    fun val => (execGblMsiAddrWrite_within val s).only,
    fun val => (execAsyClear_within val s).only,
    fun val => (execLdgLatePolicyWrite_within val s).only,
    fun val => (execQhSplitWrite_within val s).only,
    fun val => (execQhTimeoutWrite_within val s).only,
    fun val => (execFltRingHeadWrite_within val s).only,
    fun size val => (execFltRingConfigWrite_within size val s).only,
    fun val => (execFltStatusClear_within val s).only,
    fun stack val => (execHbmTempWrite_within stack val s).only,
    fun stack val => (execHbmHintCfgWrite_within stack val s).only,
    fun stack val hard => (execTest1500LoadInstr_within stack val hard s).only,
    fun stack val captured => (execTest1500ShiftData_within stack val captured s).only⟩

/-- Settles O47: each command's frame, as it stands among the frames of the commands. -/
theorem clerkCommandFrame : Obligations.ClerkCommandFrame := by
  unfold Obligations.ClerkCommandFrame
  intro s t
  exact ⟨fun slot => (execCtrConfig_within slot s).only,
    fun slot => (execFlowConfig_within slot s).only,
    fun slot => (execCtxSet_within slot s).only,
    fun slot => (execSegSet_within slot s).only,
    fun slot v place => (execTableCreate_within slot v place s).only,
    fun slot v => (execTableDescribe_within slot v s).only,
    fun slot => (execTableDestroy_within slot s).only,
    fun slot place => (execLoadStart_within slot place s).only,
    fun slot v => (execLoadRows_within slot v s).only,
    fun slot => (execLoadEnd_within slot s).only,
    fun slot => (execSwitch_within slot s).only,
    fun slot v => (execRowRestore_within slot v s).only,
    fun slot v => (execTemplateInstall_within slot v s).only,
    fun tslot => (execTemplateInstallComplete_within tslot s).only,
    fun slot => (execNodeSet_within slot s).only,
    fun slot v => (execRouteSet_within slot v s).only,
    fun slot v room => (execHomemapInstall_within slot v room s).only,
    fun slot => (execLarderPlan_within slot s).only,
    fun slot v => (execHotsetRefresh_within slot v s).only,
    fun slot v => (execDeferredConfigExecute_within slot v s).only,
    fun slot => (execIdentify_within slot s).only,
    fun slot v => (execLogRead_within slot v s).only,
    fun slot v => (execStepReport_within slot v s).only,
    fun slot volts mhz => (execMarginReport_within slot volts mhz s).only,
    fun slot => (execReplan_within slot s).only,
    fun slot => (execPowerState_within slot s).only⟩

end Sys2Proof.Machine

/-! SUPPORT. The mailbox: doorbells, slot words and the ring registers (R495 to R500). -/

namespace Sys2Proof.Machine

open Sys2Proof

/-! ## Doorbells and slot words (R495, R496) -/

theorem ringSlot_idle {n : Nat} {s : State} (idle : n ∉ s.mbx.busy) :
    ringSlot n s = { s with mbx := { s.mbx with busy := s.mbx.busy ++ [n], rung := s.mbx.rung ++ [n] } } := if_neg idle

theorem ringSlot_busy {n : Nat} {s : State} (busy : n ∈ s.mbx.busy) : ringSlot n s = mbxRefuse s := if_pos busy

theorem writeSlotWord_idle {n : Nat} {s : State} (w : Nat) (val : W64) (idle : n ∉ s.mbx.busy) :
    writeSlotWord n w val s = { s with mbx := { s.mbx with slots := mset s.mbx.slots (8 * n + w) val } } := if_neg idle

theorem writeSlotWord_busy {n : Nat} {s : State} (w : Nat) (val : W64) (busy : n ∈ s.mbx.busy) : writeSlotWord n w val s = mbxRefuse s :=
  if_pos busy

theorem mbxSlotWrite_slotWord {n w : Nat} (hn : n < 64) (hw : w < 8) (val : W64) (s : State) :
    exec (.mbxSlotWrite n w val) s = kcpWrite s (writeSlotWord n w val) := if_pos ⟨hn, hw⟩

/-! ## HEAD (R498) -/

/-- How far a count is past HEAD, where it has not wrapped. -/
theorem ahead_of_le {head k : Nat} (h : head ≤ k) (small : k < 2 ^ 32) : (k + pow32 - head) % pow32 = k - head := by
  unfold pow32
  omega

theorem headPasses_within {new head tail : Nat} (low : head ≤ new) (high : new ≤ tail) (small : tail < 2 ^ 32) :
    headPasses new head tail = false := by
  unfold headPasses
  rw [ahead_of_le (low.trans high) small, ahead_of_le low (high.trans_lt small)]
  exact decide_eq_false (by omega)

theorem headPasses_past {new head tail : Nat} (low : head ≤ tail) (past : tail < new) (small : new < 2 ^ 32) :
    headPasses new head tail = true := by
  unfold headPasses
  rw [ahead_of_le low (past.trans small), ahead_of_le (low.trans past.le) small]
  exact decide_eq_true (by omega)

theorem writeRespHead_within {val : W64} {s : State} (low : s.mbx.head ≤ bits val 0 32) (high : bits val 0 32 ≤ s.mbx.tail)
    (small : s.mbx.tail < 2 ^ 32) : writeRespHead val s = { s with mbx := { s.mbx with head := bits val 0 32 } } := by
  unfold writeRespHead
  simp [headPasses_within low high small]

theorem writeRespHead_past {val : W64} {s : State} (low : s.mbx.head ≤ s.mbx.tail) (past : s.mbx.tail < bits val 0 32) :
    writeRespHead val s = mbxRefuse s := by
  unfold writeRespHead
  simp [headPasses_past low past (bits_lt _ _ _)]

/-! ## The ring's base and size (R499) -/

theorem ringIdle_of_empty {s : State} (empty : s.mbx.head = s.mbx.tail) (idle : s.mbx.busy = []) : ringIdle s = true := by
  simp [ringIdle, empty, idle]

theorem ringIdle_of_busy {s : State} (busy : s.mbx.busy ≠ []) : ringIdle s = false := by
  simp [ringIdle, busy]

theorem writeRespBase_idle {val : W64} {s : State} (idle : ringIdle s = true) :
    (writeRespBase val s).mbx = { s.mbx with respBase := val &&& baseMask } := by
  unfold writeRespBase
  dsimp only
  rw [if_pos idle]
  split
  next same => rw [same]
  · rfl

theorem writeRespBase_refused {val : W64} {s : State} (busy : ringIdle s = false) (change : val &&& baseMask ≠ s.mbx.respBase) :
    writeRespBase val s = mbxRefuse s := by
  unfold writeRespBase
  simp [change, busy]

theorem ringSizeOk_pow {k : Nat} (low : 6 ≤ k) (high : k ≤ 16) : ringSizeOk (2 ^ k) = true := by
  have all : ∀ k ≤ 16, 6 ≤ k → ringSizeOk (2 ^ k) = true := by decide
  exact all k high low

theorem writeRespSize_idle {val : W64} {s : State} {n : Nat} (size : bits val 0 17 = n) (ok : ringSizeOk n = true) (idle : ringIdle s = true) :
    (writeRespSize val s).mbx = { s.mbx with respSize := n, refused := s.mbx.refused && !bit val 63 } := by
  unfold writeRespSize
  rw [size]
  dsimp only
  rw [if_pos (show (ringSizeOk n && ringIdle s) = true by rw [ok, idle]; rfl)]
  split
  next same => rw [same]
  · rfl

theorem writeRespSize_refused {val : W64} {s : State} (busy : ringIdle s = false) (change : bits val 0 17 ≠ s.mbx.respSize) :
    writeRespSize val s = mbxRefuse s := by
  unfold writeRespSize
  simp [change, busy]

/-- Settles O12: each write's one branch, doorbell by doorbell and register by register. -/
theorem mailboxRegisterWrites : Obligations.MailboxRegisterWrites := by
  unfold Obligations.MailboxRegisterWrites
  refine ⟨?rings, ?rungAgain, ?word, ?wordRefused, ?head, ?headRefused, ?config, ?configRefused⟩
  case rings =>
    intro s val alive idle
    exact kcpWrite_leads alive (by rw [ringSlot_idle idle])
  case rungAgain =>
    intro s val alive busy
    exact kcpWrite_leads alive (by rw [ringSlot_busy busy]; rfl)
  case word =>
    intro s n w val alive hn hw idle
    rw [mbxSlotWrite_slotWord hn hw]
    refine kcpWrite_leads alive ?_
    rw [writeSlotWord_idle w val idle]
    exact ⟨congrArg (Option.getD · 0) (mget_mset_same _ _ _), fun k other => congrArg (Option.getD · 0) (mget_mset_other _ _ _ _ other), rfl⟩
  case wordRefused =>
    intro s n w val alive hn hw busy
    rw [mbxSlotWrite_slotWord hn hw]
    exact kcpWrite_leads alive (by rw [writeSlotWord_busy w val busy]; rfl)
  case head =>
    intro s val alive low high small
    exact kcpWrite_leads alive (by rw [writeRespHead_within low high small])
  case headRefused =>
    intro s val alive low past
    exact kcpWrite_leads alive (by rw [writeRespHead_past low past]; rfl)
  case config =>
    intro s val alive empty idle
    have ringIdle := ringIdle_of_empty empty idle
    exact ⟨kcpWrite_leads alive (writeRespBase_idle ringIdle),
      fun k low high size => kcpWrite_leads alive (writeRespSize_idle size (ringSizeOk_pow low high) ringIdle)⟩
  case configRefused =>
    intro s val alive busy
    have notIdle := ringIdle_of_busy busy
    exact ⟨fun change => kcpWrite_leads alive (congrArg State.mbx (writeRespBase_refused notIdle change)),
      fun change => kcpWrite_leads alive (congrArg State.mbx (writeRespSize_refused notIdle change))⟩

/-! ## Writes of the mailbox by offset -/

theorem regWrite_mbx {off : Nat} (low : off < 0x10000) (val : W64) (s : State) : regWrite off val s = putMbx (off / 8 * 8) val s := by
  have small : off % 0x2000000 = off := Nat.mod_eq_of_lt (by omega)
  unfold regWrite blockOf
  rw [small, if_pos (by omega)]

theorem putMbx_slot {n b : Nat} (hn : n < 64) (hb : b < 64) (val : W64) (s : State) :
    putMbx ((64 * n + b) / 8 * 8) val s = writeSlotWord n (b / 8) val s := by
  have slot : (64 * n + b) / 8 * 8 / 64 = n := by omega
  have word : (64 * n + b) / 8 * 8 % 64 / 8 = b / 8 := by omega
  unfold putMbx
  rw [if_pos (by omega), slot, word]

/-- Settles O57: each of the writes reaches the branch of a busy slot. -/
theorem busySlotRefuses : Obligations.BusySlotRefuses := by
  unfold Obligations.BusySlotRefuses
  rintro s t n val alive hn busy rfl
  refine ⟨fun named => ⟨?_, ?_⟩, fun w hw => ?_, fun b hb => ?_⟩
  · exact kcpWrite_alive alive (ringSlot_busy (named ▸ busy))
  · exact (exec_registerWrite_alive _ _ alive).trans (congrArg _ (ringSlot_busy (named ▸ busy)))
  · rw [mbxSlotWrite_slotWord hn hw]
    exact kcpWrite_alive alive (writeSlotWord_busy w val busy)
  · rw [exec_registerWrite_alive _ _ alive, regWrite_mbx (by omega), putMbx_slot hn hb, writeSlotWord_busy _ val busy]
    rfl


/-! ## Commands taken and responses written (R497, R500) -/

theorem takeFirst_ok {n : Nat} {rest : List Nat} {s : State} (ok : msgOk s n (msgOf s n) = true) :
    (takeFirst n rest s).mbx = { s.mbx with rung := rest, taken := s.mbx.taken ++ [{ slot := n, msg := msgOf s n, held := false }] } :=
  congrArg State.mbx (if_pos ok)

theorem takeFirst_refused {n : Nat} {rest : List Nat} {s : State} (bad : msgOk s n (msgOf s n) = false) :
    (takeFirst n rest s).mbx = { s.mbx with rung := rest, respQ := s.mbx.respQ ++ [respOf n (msgOf s n) 0 .badDescriptor []] } :=
  congrArg State.mbx (if_neg (by rw [Bool.not_eq_true]; exact bad))

theorem commandTake_first {s : State} {n : Nat} {rest : List Nat} (runs : clerkRuns s = true) (owes : owesNothing s = true)
    (rung : s.mbx.rung = n :: rest) : exec .commandTake s = .next (takeFirst n rest s) := by
  change execCommandTake s = _
  unfold execCommandTake
  rw [rung]
  exact if_pos (by rw [runs, owes]; rfl)

theorem pumpPort_beside_mbx (p : Nat) (m : Mbx) (s : State) : pumpPort p { s with mbx := m } = { pumpPort p s with mbx := m } :=
  rfl

/-- What a write to the chip does is not about the mailbox. -/
theorem chipWrite_beside_mbx (kind : OutKind) (owner : Owner) (a : Nat) (bs : List Byte) (m : Mbx) (s : State) :
    chipWrite kind owner a bs { s with mbx := m } = { chipWrite kind owner a bs s with mbx := m } := by
  unfold chipWrite
  generalize pieces a bs = ps
  induction ps generalizing s with
  | nil => rfl
  | cons p ps ih =>
    rw [List.foldl_cons, List.foldl_cons, ← ih]
    unfold enqueue enqueueOn
    rw [← pumpPort_beside_mbx]
    rfl

theorem writeEntry_beside_mbx (r : Response) (i : Nat) (m : Mbx) (s : State) :
    writeEntry r i { s with mbx := m } = { chipWrite .pedWr .small
      (bits m.respBase 6 43 * 64 + (m.tail + i) % pow32 % m.respSize * 64)
      (respEntry r i (phaseOf ((m.tail + i) % pow32) m.respSize)) s with mbx := m } := chipWrite_beside_mbx ..

theorem responseReady_first {s : State} {r : Response} {rest : List Response} (runs : clerkRuns s = true) (first : s.mbx.respQ = r :: rest)
    (room : ringRoom (bit s.mbx.respBase 0) s.mbx.head s.mbx.tail s.mbx.respSize r.entries = true) :
    responseReady s = some (r, rest) := by
  unfold responseReady
  rw [first]
  exact if_pos (by rw [runs, room]; rfl)

/-- A response of one entry: it is written at TAIL's place, and TAIL passes it. -/
theorem writeResponse_one {r : Response} {rest : List Response} {s : State} (one : r.entries = 1) (small : s.mbx.tail < 2 ^ 32) :
    writeResponse r rest s = { chipWrite .pedWr .small (bits s.mbx.respBase 6 43 * 64 + s.mbx.tail % s.mbx.respSize * 64)
      (respEntry r 0 (phaseOf s.mbx.tail s.mbx.respSize)) s with
      mbx := { s.mbx with
        respQ := rest, tail := (s.mbx.tail + 1) % 2 ^ 32, busy := if r.kind = 2 then s.mbx.busy else s.mbx.busy.filter (· ≠ r.slot) } } := by
  have place : (s.mbx.tail + 0) % pow32 = s.mbx.tail := Nat.mod_eq_of_lt small
  unfold writeResponse
  simp only [one, List.range_one, List.reverse_singleton, List.foldl_cons, List.foldl_nil, writeEntry_beside_mbx, place]
  rfl

/-- Settles O13: the first rung slot is taken or refused, and the first response is written where the ring has room for it. -/
theorem commandsTakenAndAnswered : Obligations.CommandsTakenAndAnswered := by
  unfold Obligations.CommandsTakenAndAnswered
  refine ⟨fun s n rest runs owes rung => ?take, fun s r rest runs first one room small => ?write, fun s none => ?waits⟩
  case take =>
    have next := commandTake_first runs owes rung
    exact ⟨fun ok => ⟨_, next, takeFirst_ok ok⟩, fun bad => ⟨_, next, takeFirst_refused bad⟩⟩
  case write =>
    have ready := responseReady_first runs first (one ▸ room)
    have next : exec .responseWrite s = .next (writeResponse r rest s) := by
      change execResponseWrite s = _
      unfold execResponseWrite
      rw [ready]
    rw [writeResponse_one one small] at next
    exact ⟨_, next, rfl, rfl⟩
  case waits =>
    change execResponseWrite s = _
    unfold execResponseWrite
    rw [none]

end Sys2Proof.Machine

/-! SUPPORT. The interrupt lines follow their conditions (R635, R659), and messages leave what is pending (R660). -/

namespace Sys2Proof.Machine

open Sys2Proof

/-! ## The lines -/

/-- The number that has the bits `p` holds of among the first `k`. -/
def bitsWhere (p : Nat → Bool) (k : Nat) : Nat := (List.range k).foldl (fun c n => c + (if p n then 2 ^ n else 0)) 0

theorem bitsWhere_succ (p : Nat → Bool) (k : Nat) : bitsWhere p (k + 1) = bitsWhere p k + (if p k then 2 ^ k else 0) := by
  unfold bitsWhere
  rw [List.range_succ, List.foldl_append]
  rfl

theorem bitsWhere_lt (p : Nat → Bool) (k : Nat) : bitsWhere p k < 2 ^ k := by
  induction k with
  | zero => exact Nat.one_pos
  | succ k ih =>
    rw [bitsWhere_succ, Nat.pow_succ]
    split <;> omega

theorem testBit_bitsWhere (p : Nat → Bool) {k i : Nat} (h : i < k) : (bitsWhere p k).testBit i = p i := by
  induction k with
  | zero => exact absurd h (Nat.not_lt_zero i)
  | succ k ih =>
    rw [bitsWhere_succ]
    obtain below | rfl := Nat.lt_succ_iff_lt_or_eq.1 h
    · split
      · rw [Nat.add_comm, Nat.testBit_two_pow_add_gt below, ih below]
      · exact ih below
    · have top : (bitsWhere p i).testBit i = false := Nat.testBit_lt_two_pow (bitsWhere_lt p i)
      split
      next set => rw [Nat.add_comm, Nat.testBit_two_pow_add_eq, top, set]; rfl
      next clear => rw [Nat.add_zero, top, eq_false_of_ne_true clear]

theorem testBit_lineConds (s : State) {n : Nat} (h : n < 16) : (lineConds s).testBit n = lineCondOf s n :=
  testBit_bitsWhere (lineCondOf s) h

/-- A message that is sent leaves the lines as they are. -/
theorem riseMsi_irq (n : Nat) (s : State) : (riseMsi n s).gbl.irq = s.gbl.irq := by
  unfold riseMsi
  split
  · exact ((chipWrite_only ..).same .events (by decide)).2.2.1
  · rfl

theorem evalLines_irq (s : State) : (evalLines s).gbl.irq = bitsWhere (fun n => (lineConds s).testBit n && !msiLine s n) 16 := by
  unfold evalLines
  refine List.foldlRecOn (motive := fun t : State => t.gbl.irq = _) _ _ rfl fun t ht n _ => ?_
  split
  · exact (riseMsi_irq n t).trans ht
  · exact ht

theorem lineCondOf_congr {s t : State} (event : t.gbl.event = s.gbl.event) (enable : t.gbl.eventEn = s.gbl.eventEn)
    (route : t.gbl.route = s.gbl.route) (routeHi : t.gbl.routeHi = s.gbl.routeHi) (n : Nat) : lineCondOf t n = lineCondOf s n := by
  unfold lineCondOf lineOf
  rw [event, enable, route, routeHi]

/-- After the lines are evaluated each shows its condition (R635, R659). -/
theorem evalLines_follow (s : State) : LinesFollow (evalLines s) := by
  intro n hn
  have cond : lineCondOf (evalLines s) n = lineCondOf s n := lineCondOf_congr (evalLines_event s)
    (evalLines_field Gbl.eventEn (fun _ => rfl) s) (evalLines_field Gbl.route (fun _ => rfl) s) (evalLines_field Gbl.routeHi (fun _ => rfl) s) n
  have mode : msiLine (evalLines s) n = msiLine s n := congrArg (bit · n) (evalLines_field Gbl.msiMode (fun _ => rfl) s)
  rw [evalLines_irq, testBit_bitsWhere _ hn, testBit_lineConds s hn, cond, mode]

theorem raise_follow (e : Nat) (s : State) : LinesFollow (raise e s) := evalLines_follow _

/-! ## Messages (R660) -/

theorem sendMsi_msiPending (n : Nat) (s : State) : (sendMsi n s).gbl.msiPending = s.gbl.msiPending.filter (· ≠ n) :=
  ((chipWrite_only ..).same .events (by decide)).2.2.2.1

/-- Each message sent leaves the pending list. -/
theorem sendAll_msiPending (l : List Nat) (s : State) :
    (l.foldl (fun t n => sendMsi n t) s).gbl.msiPending = s.gbl.msiPending.filter (fun n => decide (n ∉ l)) := by
  induction l generalizing s with
  | nil => simp
  | cons n l ih =>
    rw [List.foldl_cons, ih, sendMsi_msiPending, List.filter_filter]
    refine List.filter_congr fun x _ => ?_
    simp [Bool.and_comm]

theorem writeMsiAddr_valid {val : W64} (valid : bit val 0 = true) (s : State) : (writeMsiAddr val s).gbl.msiPending = [] := by
  unfold writeMsiAddr
  dsimp only
  rw [if_pos valid, sendAll_msiPending]
  exact List.filter_eq_nil_iff.2 fun n pending => by simpa using pending

theorem writeMsiAddr_invalid {val : W64} (invalid : bit val 0 = false) (s : State) :
    writeMsiAddr val s = { s with gbl := { s.gbl with msiAddr := val &&& baseMask, msiSeq := [] } } :=
  if_neg (by rw [Bool.not_eq_true]; exact invalid)

/-- Settles O10: each write changes its register, and the lines are evaluated after it. -/
theorem eventRegisterWrites : Obligations.EventRegisterWrites := by
  unfold Obligations.EventRegisterWrites
  refine ⟨fun s val alive => ?clear, fun s val alive => ⟨?enable, ?route, ?routeHi⟩, fun s val alive valid => ?send, fun s val alive invalid => ?keep⟩
  case clear => exact kcpWrite_leads alive ⟨evalLines_event _, evalLines_follow _⟩
  case enable => exact kcpWrite_leads alive ⟨evalLines_field Gbl.eventEn (fun _ => rfl) _, evalLines_follow _⟩
  case route => exact kcpWrite_leads alive ⟨evalLines_field Gbl.route (fun _ => rfl) _, evalLines_follow _⟩
  case routeHi => exact kcpWrite_leads alive ⟨evalLines_field Gbl.routeHi (fun _ => rfl) _, evalLines_follow _⟩
  case send => exact kcpWrite_leads alive ⟨writeMsiAddr_msiAddr val s, writeMsiAddr_valid valid s⟩
  case keep => exact kcpWrite_leads alive (by rw [writeMsiAddr_invalid invalid]; exact ⟨rfl, rfl, rfl⟩)

end Sys2Proof.Machine

/-! SUPPORT. The heartbeat and its loss (R520, R521, R524). -/

namespace Sys2Proof.Machine

open Sys2Proof

theorem clerkBeat_running {s : State} (runs : clerkRuns s = true) : exec .clerkBeat s = .next { s with
    mbx := { s.mbx with beats := (s.mbx.beats + 1) % pow32, missed := 0 }
    wch := { s.wch with beat := true, shuttered := false }
    gbl := { s.gbl with active := if s.gbl.active = 3 then 0 else s.gbl.active } } :=
  congrArg Host.Outcome.next (if_pos runs)

theorem heartbeatIntervalEnd_beaten {s : State} (running : s.clerk.state = .running) (beat : s.wch.beat = true) :
    exec .heartbeatIntervalEnd s = .next { s with wch := { s.wch with beat := false } } :=
  congrArg Host.Outcome.next ((if_neg (not_not_intro running)).trans (if_pos beat))

/-- An interval without a beat is counted, up to 4. -/
def missInterval (s : State) : State := { s with mbx := { s.mbx with missed := min (s.mbx.missed + 1) 4 } }

theorem heartbeatIntervalEnd_missed {s : State} (running : s.clerk.state = .running) (beat : s.wch.beat = false) :
    exec .heartbeatIntervalEnd s = .next (if 4 ≤ min (s.mbx.missed + 1) 4 then clerkLost (missInterval s) else missInterval s) :=
  congrArg Host.Outcome.next ((if_neg (not_not_intro running)).trans (if_neg (by rw [beat]; decide)))

theorem clerkLost_wch (s : State) :
    (clerkLost s).wch = { s.wch with shuttered := true, lostCount := satAdd 16 s.wch.lostCount 1 } := (raise_only _ _).same .wch (by decide)

theorem clerkLost_mbx (s : State) : (clerkLost s).mbx = s.mbx := raise_mbx _ _

theorem clerkLost_clerk (s : State) : (clerkLost s).clerk = { s.clerk with state := .haltedLost } := raise_clerk _ _

/-- Settles O14: the beat, the interval with one and without, and the word that stops the Clerk. -/
theorem heartbeatAndItsLoss : Obligations.HeartbeatAndItsLoss := by
  unfold Obligations.HeartbeatAndItsLoss
  refine ⟨fun s runs => ?beat, fun s running beat => ?beaten, fun s running beat few => ?missed, fun s running beat many => ?lost,
    fun s running => ?stopped⟩
  case beat => exact ⟨_, clerkBeat_running runs, rfl, rfl, rfl, rfl⟩
  case beaten => exact ⟨_, heartbeatIntervalEnd_beaten running beat, rfl, rfl, rfl⟩
  case missed =>
    have count : min (s.mbx.missed + 1) 4 = s.mbx.missed + 1 := by omega
    have next := heartbeatIntervalEnd_missed running beat
    rw [if_neg (show ¬ 4 ≤ min (s.mbx.missed + 1) 4 by omega)] at next
    exact ⟨_, next, congrArg (fun k => { s.mbx with missed := k }) count, rfl, rfl⟩
  case lost =>
    have four : min (s.mbx.missed + 1) 4 = 4 := by omega
    have next := heartbeatIntervalEnd_missed running beat
    rw [if_pos (show 4 ≤ min (s.mbx.missed + 1) 4 from four.ge)] at next
    refine ⟨_, next, ?_, ?_, ?_, ?_, bit_raise (by decide) _, raise_follow _ _⟩
    · rw [clerkLost_mbx]
      exact four
    · rw [clerkLost_clerk]
    · rw [clerkLost_wch]
    · rw [clerkLost_wch]
      rfl
  case stopped =>
    refine ⟨_, congrArg Host.Outcome.next (if_pos running), rfl, ?_, rfl, rfl⟩
    simp [clerkRuns]

end Sys2Proof.Machine

/-! SUPPORT. Requests for a reset: what refuses one and what an accepted one starts (R541 to R544). -/

namespace Sys2Proof.Machine

open Sys2Proof

/-! ## The fields of a command word whose low bits are replaced -/

theorem shiftRight_lowReplaced {x low k lo : Nat} (small : low < 2 ^ k) (high : k ≤ lo) : (x / 2 ^ k * 2 ^ k + low) >>> lo = x >>> lo := by
  obtain ⟨j, rfl⟩ := Nat.exists_eq_add_of_le high
  have quotient : (x / 2 ^ k * 2 ^ k + low) / 2 ^ k = x / 2 ^ k := by
    rw [Nat.add_comm, Nat.add_mul_div_right _ _ (Nat.two_pow_pos k), Nat.div_eq_of_lt small, Nat.zero_add]
  rw [Nat.shiftRight_add, Nat.shiftRight_add, Nat.shiftRight_eq_div_pow _ k, Nat.shiftRight_eq_div_pow x k, quotient]

theorem withClass_toNat {n : Nat} (small : n < 4) (val : W64) : (withClass n val).toNat = val.toNat / 4 * 4 + n := by
  have bound := val.isLt
  exact Nat.mod_eq_of_lt (by omega)

theorem withOp_toNat {op : Nat} (small : op < 256) (val : W64) : (withOp op val).toNat = val.toNat / 256 * 256 + op := by
  have bound := val.isLt
  exact Nat.mod_eq_of_lt (by omega)

/-- The fields above CLASS are those written. -/
theorem bits_withClass {n lo : Nat} (small : n < 4) (high : 2 ≤ lo) (k : Nat) (val : W64) : bits (withClass n val) lo k = bits val lo k := by
  unfold bits
  rw [withClass_toNat small]
  exact congrArg (· % 2 ^ k) (shiftRight_lowReplaced (k := 2) small high)

/-- The fields above OP are those written. -/
theorem bits_withOp {op lo : Nat} (small : op < 256) (high : 8 ≤ lo) (k : Nat) (val : W64) : bits (withOp op val) lo k = bits val lo k := by
  unfold bits
  rw [withOp_toNat small]
  exact congrArg (· % 2 ^ k) (shiftRight_lowReplaced (k := 8) small high)

/-! ## A request -/

section
variable {cls : ResetClass} {source : Nat} {write : Bool} {s : State}

theorem requestReset_refused (weak : cls.rank ≤ rankActive s) : requestReset cls source write s = refuseReset write s := if_pos weak

/-- A stronger request takes hold at once where it is Clerk-only or the block is in SELFTEST. -/
theorem requestReset_takesHold (strong : rankActive s < cls.rank) (now : cls = .clerkOnly ∨ s.gbl.state = .selftest) :
    requestReset cls source write s = takeHold cls source (accepted cls s) := (if_neg (Nat.not_le.2 strong)).trans (if_pos now)

theorem requestReset_holdsOff (strong : rankActive s < cls.rank) (later : cls ≠ .clerkOnly) (tested : s.gbl.state ≠ .selftest) :
    requestReset cls source write s = holdOffReset cls source (accepted cls s) :=
  (if_neg (Nat.not_le.2 strong)).trans (if_neg (not_or.2 ⟨later, tested⟩))

theorem dropDrain_gbl (s : State) : (dropDrain s).gbl = s.gbl := by
  unfold dropDrain
  split <;> rfl

/-- The hold-off of an accepted request begins. -/
theorem holdOffReset_holdOff (cls : ResetClass) (source : Nat) (s : State) : HoldOff cls source s (holdOffReset cls source (accepted cls s)) := by
  refine ⟨?_, ((setGbl_only s _).mono (by decide)).trans ((holdOffReset_only ..).mono (by decide))⟩
  change { (dropDrain (accepted cls s)).gbl with state := .quiescing, quiesce := 1, seq := .holdOff cls source } = _
  rw [dropDrain_gbl]
  rfl

/-- A request by a command that carries it out on the state as it is. -/
theorem accepts_request {c : Instr} (runs : exec c s = .next (requestReset cls source write s)) (strong : rankActive s < cls.rank)
    (later : cls ≠ .clerkOnly) : Accepts c cls source s := by
  refine ⟨fun tested => ⟨_, runs, ?_⟩, fun selftest => runs.trans ?_⟩
  · rw [requestReset_holdsOff strong later tested]
    exact holdOffReset_holdOff cls source s
  · rw [requestReset_takesHold strong (.inr selftest)]

/-- What a Clerk-only reset leaves (R540). -/
theorem clerkOnlyHold_fields (source : Nat) (s : State) :
    (clerkOnlyHold source s).gbl = { s.gbl with
      lastReset := 3, resetSource := source, resets := satAdd 16 s.gbl.resets 1, active := if s.gbl.lifecycle = 5 then 0 else 3 } ∧
    (clerkOnlyHold source s).clerk = { s.clerk with state := if s.gbl.lifecycle = 5 then .notStarted else .booting, waiting := none } ∧
    (clerkOnlyHold source s).mbx = { s.mbx with missed := 0 } ∧ (clerkOnlyHold source s).wch = { s.wch with beat := false } ∧
    (clerkOnlyHold source s).pwr = { s.pwr with slot := none } ∧ (clerkOnlyHold source s).lrd = { s.lrd with refresh := none } :=
  ⟨rfl, rfl, rfl, rfl, rfl, rfl⟩

end

/-! ## GBL_RESET -/

theorem writeGblReset_badKey {val : W64} {s : State} (wrong : bits val 48 16 ≠ 0x5AFE) : writeGblReset val s = refuseReset true s := if_pos wrong

/-- A write of GBL_RESET with the key asks for the reset of its class. -/
theorem writeGblReset_key {val : W64} (key : bits val 48 16 = 0x5AFE) (cls : ResetClass) (s : State) :
    writeGblReset (withClass cls.code val) s = requestReset cls 2 true s := by
  have small : cls.code < 4 := by cases cls <;> decide
  unfold writeGblReset
  rw [bits_withClass small (by decide), withClass_class small, if_neg (not_not_intro key)]
  cases cls <;> rfl

theorem writeGblReset_refused {val : W64} {cls : ResetClass} {s : State} (refused : bits val 48 16 ≠ 0x5AFE ∨ cls.rank ≤ rankActive s) :
    writeGblReset (withClass cls.code val) s = refuseReset true s := by
  have small : cls.code < 4 := by cases cls <;> decide
  by_cases key : bits val 48 16 = 0x5AFE
  · exact (writeGblReset_key key cls s).trans (requestReset_refused (refused.resolve_left (not_not_intro key)))
  · exact writeGblReset_badKey (by rw [bits_withClass small (by decide)]; exact key)

/-! ## rst_n -/

/-- The pin's level shows. -/
def pinLow (s : State) : State := { s with gbl := { s.gbl with rstLow := true } }

theorem rstNFall_alive {s : State} (high : s.gbl.rstLow = false) (alive : kcpAlive s = true) :
    exec .rstNFall s = .next (requestReset .cold 1 false (pinLow s)) :=
  congrArg Host.Outcome.next ((if_neg (by rw [high]; decide)).trans (if_pos alive))

theorem rstNFall_dead {s : State} (high : s.gbl.rstLow = false) (dead : kcpAlive s = false) : exec .rstNFall s = .next (pinLow s) :=
  congrArg Host.Outcome.next ((if_neg (by rw [high]; decide)).trans (if_neg (by rw [Bool.not_eq_true]; exact dead)))

/-- Settles O19: each request is refused or accepted by its rank, and an accepted one holds off or takes hold at once. -/
theorem resetRequests : Obligations.ResetRequests := by
  unfold Obligations.ResetRequests
  refine ⟨fun s val alive key => ⟨fun strong => ?cold, fun strong => ?recovery, fun strong => ?clerkOnly⟩, fun s val alive c hc refused => ?refused,
    fun s alive => ⟨fun strong => ?cmb, fun weak => ?cmbRefused⟩, ?rstN, fun s low => ?lowAlready⟩
  case cold => exact accepts_request (kcpWrite_alive alive (writeGblReset_key key .cold s)) strong (by decide)
  case recovery => exact accepts_request (kcpWrite_alive alive (writeGblReset_key key .recovery s)) strong (by decide)
  case clerkOnly =>
    have taken := (writeGblReset_key key .clerkOnly s).trans (requestReset_takesHold strong (.inl rfl))
    obtain ⟨gbl, clerk, mbx, wch, pwr, lrd⟩ := clerkOnlyHold_fields 2 (accepted .clerkOnly s)
    exact ⟨_, kcpWrite_alive alive taken, gbl, clerk, mbx, wch, pwr, lrd,
      ((setGbl_only s _).mono (by decide)).trans ((clerkOnlyHold_only 2 _).mono (by decide))⟩
  case refused =>
    simp only [List.mem_cons, List.not_mem_nil, or_false] at hc
    obtain rfl | rfl | rfl := hc
    · exact kcpWrite_alive alive (writeGblReset_refused (cls := .cold) refused)
    · exact kcpWrite_alive alive (writeGblReset_refused (cls := .recovery) refused)
    · exact kcpWrite_alive alive (writeGblReset_refused (cls := .clerkOnly) refused)
  case cmb => exact accepts_request (kcpWrite_alive alive rfl) strong (by decide)
  case cmbRefused => exact kcpWrite_alive alive (requestReset_refused weak)
  case rstN =>
    intro s u high low
    obtain rfl : u = pinLow s := low
    refine ⟨fun alive strong => ⟨fun tested => ⟨_, rstNFall_alive high alive, ?_⟩, fun selftest => ?_⟩, fun alive weak => ?_, rstNFall_dead high⟩
    · rw [requestReset_holdsOff (cls := .cold) (s := pinLow s) strong (by decide) tested]
      exact holdOffReset_holdOff .cold 1 (pinLow s)
    · rw [rstNFall_alive high alive, requestReset_takesHold (cls := .cold) (s := pinLow s) strong (.inr selftest)]
    · rw [rstNFall_alive high alive, requestReset_refused (cls := .cold) (s := pinLow s) weak]
      rfl
  case lowAlready => exact congrArg Host.Outcome.next (if_pos low)

end Sys2Proof.Machine

/-! SUPPORT. The Watchman's commands (R524 to R526). -/

namespace Sys2Proof.Machine

open Sys2Proof

/-! ## What a command does -/

/-- What the Watchman does for a command that it carries out. -/
def wchAct (op : Nat) (val : W64) (s : State) : State :=
  match op with
  | 0 => wchResult 0 0 0 s
  | 1 => wchDump s
  | 2 => wchResult 0 2 0 (haltClerk .haltedHost s)
  | 3 => wchWriteCo (bits val 8 25) s
  | 4 => wchReset 4 .clerkOnly s
  | 5 => wchReset 5 .recovery s
  | 6 => wchForceHeld s
  | _ => wchResult 4 op 0 s

section
variable {op : Nat} {val : W64} {s : State}

theorem wchCommand_busy (small : op < 256) (busy : s.wch.busy = true) : wchCommand (withOp op val) s = wchResult 1 op 0 s := by
  unfold wchCommand
  rw [withOp_op small]
  exact if_pos busy

theorem wchCommand_closed (small : op < 256) (free : s.wch.busy = false) (shut : windowOpen s = false) (needs : op ∈ [3, 4, 5, 6]) :
    wchCommand (withOp op val) s = wchResult 2 op 0 s := by
  unfold wchCommand
  rw [withOp_op small]
  dsimp only
  rw [if_neg (by rw [free]; decide), if_pos ⟨needs, by rw [shut]; rfl⟩]

/-- Within its window, or needing none, a command goes on to its key. -/
theorem wchCommand_badKey (small : op < 256) (free : s.wch.busy = false) (window : op ∈ [3, 4, 5, 6] → windowOpen s = true)
    (wrong : bits val 48 16 ≠ 0x5AFE) (needs : op ∈ [2, 4, 5, 6]) : wchCommand (withOp op val) s = wchResult 3 op 0 s := by
  unfold wchCommand
  rw [withOp_op small, bits_withOp small (by decide)]
  dsimp only
  rw [if_neg (by rw [free]; decide), if_neg (fun h => by simp [window h.1] at h), if_pos ⟨needs, by simpa using wrong⟩]

theorem wchCommand_carriedOut (small : op < 256) (free : s.wch.busy = false) (window : op ∈ [3, 4, 5, 6] → windowOpen s = true)
    (key : op ∈ [2, 4, 5, 6] → bits val 48 16 = 0x5AFE) : wchCommand (withOp op val) s = wchAct op val s := by
  unfold wchCommand
  rw [withOp_op small, bits_withOp small (by decide), bits_withOp small (by decide)]
  dsimp only
  rw [if_neg (by rw [free]; decide), if_neg (fun h => by simp [window h.1] at h), if_neg (fun h => by simp [key h.1] at h)]
  rfl

end

/-! ## The commands -/

/-- A Clerk that is neither running nor booting opens the window (R525). -/
theorem windowOpen_of_halted {s : State} (running : s.clerk.state ≠ .running) (booting : s.clerk.state ≠ .booting) : windowOpen s = true := by
  simp [windowOpen, running, booting]

theorem wchWriteCo_done {s u : State} {ofs : Nat} (running : s.clerk.state ≠ .running) (booting : s.clerk.state ≠ .booting)
    (written : writeCoReg ofs s.wch.arg s = some u) : wchWriteCo ofs s = wchResult 0 3 0 u := by
  unfold wchWriteCo
  rw [if_neg (not_or.2 ⟨running, booting⟩), written]

/-- A block that FORCE_HELD drains (R526). -/
theorem wchForceHeld_drains {s : State} (active : s.gbl.state = .ready ∨ s.gbl.state = .running ∨ s.gbl.state = .retention) :
    (wchForceHeld s).gbl.state = .quiescing ∧ (wchForceHeld s).gbl.quiesce = 2 ∧ (wchForceHeld s).gbl.seq = .heldDrain ∧
      (wchForceHeld s).wch.busy = true ∧ (wchForceHeld s).wch.result = w64 (1 + 6 * 2 ^ 8) := by
  unfold wchForceHeld
  obtain ready | running | retention := active
  · rw [ready]
    exact ⟨rfl, rfl, rfl, rfl, rfl⟩
  · rw [running]
    exact ⟨rfl, rfl, rfl, rfl, rfl⟩
  · rw [retention]
    exact ⟨rfl, rfl, rfl, rfl, rfl⟩

/-- RESTART_CLERK of a block that is not Scrapped, against no reset. -/
theorem wchReset_restart {s : State} (idle : rankActive s = 0) :
    wchReset 4 .clerkOnly s = wchResult 0 4 0 (clerkOnlyHold 3 (accepted .clerkOnly s)) := by
  have strong : rankActive s < ResetClass.clerkOnly.rank := by rw [idle]; decide
  unfold wchReset
  rw [requestReset_takesHold strong (.inl rfl), if_neg (Nat.not_le.2 strong)]
  rfl

theorem wchReset_recovery {s : State} (strong : rankActive s < 2) (tested : s.gbl.state ≠ .selftest) :
    wchReset 5 .recovery s = wchResult 0 5 0 (holdOffReset .recovery 3 (accepted .recovery s)) := by
  have stronger : rankActive s < ResetClass.recovery.rank := strong
  unfold wchReset
  rw [requestReset_holdsOff stronger (by decide) tested, if_neg (Nat.not_le.2 stronger)]

/-- Settles O15: a command is refused while the Watchman is busy, outside its window or without the key, and else carried out. -/
theorem watchmanCommands : Obligations.WatchmanCommands := by
  unfold Obligations.WatchmanCommands
  refine ⟨fun s val alive free => ?nop, fun s val alive free => ?dump, fun s val alive free key => ?halt,
    fun s u val alive free running booting written => ?writeCo, fun s val alive free window key life idle => ?restart,
    fun s val alive free window key strong tested => ?recovery, fun s val alive free window key active => ?force,
    fun s val alive free wrong => ⟨?haltKey, fun window => ⟨?restartKey, ?recoveryKey, ?forceKey⟩⟩,
      fun s val alive free shut => ⟨?writeCoShut, ?forceShut⟩,
    fun s val alive busy => ?busy⟩
  case nop => exact kcpWrite_alive alive (wchCommand_carriedOut (op := 0) (by decide) free (by simp) (by simp))
  case dump =>
    refine ⟨_, kcpWrite_alive alive (wchCommand_carriedOut (op := 1) (by decide) free (by simp) (by simp)), _, rfl, rfl, ?_, ?_⟩
    · change w64 (0 + 1 * 2 ^ 8 + _) = _
      rw [Nat.zero_add]
    · exact setWch_only s _
  case halt =>
    exact ⟨_, kcpWrite_alive alive (wchCommand_carriedOut (op := 2) (by decide) free (by simp) (fun _ => key)), rfl, rfl, rfl, rfl, rfl, rfl⟩
  case writeCo =>
    have window := windowOpen_of_halted running booting
    exact kcpWrite_alive alive ((wchCommand_carriedOut (op := 3) (by decide) free (fun _ => window) (by simp)).trans
      (wchWriteCo_done running booting written))
  case restart =>
    have done := (wchCommand_carriedOut (op := 4) (val := val) (by decide) free (fun _ => window) (fun _ => key)).trans (wchReset_restart idle)
    obtain ⟨gbl, clerk, -⟩ := clerkOnlyHold_fields 3 (accepted .clerkOnly s)
    rw [show (accepted .clerkOnly s).gbl.lifecycle = s.gbl.lifecycle from rfl, if_neg life] at gbl clerk
    exact ⟨_, kcpWrite_alive alive done, congrArg Clerk.state clerk, congrArg Gbl.active gbl, congrArg Gbl.lastReset gbl,
      congrArg Gbl.resetSource gbl, rfl, rfl, rfl, rfl, rfl⟩
  case recovery =>
    have done := (wchCommand_carriedOut (op := 5) (val := val) (by decide) free (fun _ => window)
        (fun _ => key)).trans (wchReset_recovery strong tested)
    have gbl := (holdOffReset_holdOff .recovery 3 s).1
    exact ⟨_, kcpWrite_alive alive done, congrArg Gbl.state gbl, congrArg Gbl.quiesce gbl, congrArg Gbl.seq gbl, congrArg Gbl.active gbl⟩
  case force =>
    exact ⟨_, kcpWrite_alive alive (wchCommand_carriedOut (op := 6) (by decide) free (fun _ => window) (fun _ => key)), wchForceHeld_drains active⟩
  case haltKey => exact kcpWrite_alive alive (wchCommand_badKey (op := 2) (by decide) free (by simp) wrong (by decide))
  case restartKey => exact kcpWrite_alive alive (wchCommand_badKey (op := 4) (by decide) free (fun _ => window) wrong (by decide))
  case recoveryKey => exact kcpWrite_alive alive (wchCommand_badKey (op := 5) (by decide) free (fun _ => window) wrong (by decide))
  case forceKey => exact kcpWrite_alive alive (wchCommand_badKey (op := 6) (by decide) free (fun _ => window) wrong (by decide))
  case writeCoShut => exact kcpWrite_alive alive (wchCommand_closed (op := 3) (by decide) free shut (by decide))
  case forceShut => exact kcpWrite_alive alive (wchCommand_closed (op := 6) (by decide) free shut (by decide))
  case busy => exact kcpWrite_alive alive (wchCommand_busy (op := 2) (by decide) busy)

end Sys2Proof.Machine

/-! SUPPORT. Resets that take hold, and the loss of power (R236, R540, R545 to R548, R637). -/

namespace Sys2Proof.Machine

open Sys2Proof

/-- A frame without the events and the block leaves GBL as it is. -/
theorem OnlyIn.gbl {l : List Part} {s t : State} (h : OnlyIn l s t) (events : Part.events ∉ l) (block : Part.block ∉ l) : t.gbl = s.gbl := by
  obtain ⟨event, lineCond, irq, msiPending, msiSeq⟩ := h.same .events events
  have still : t.gbl.still = s.gbl.still := h.same .block block
  have whole (g : Gbl) : g = { g.still with
      event := g.event, lineCond := g.lineCond, irq := g.irq, msiPending := g.msiPending, msiSeq := g.msiSeq } := rfl
  rw [whole t.gbl, whole s.gbl, still, event, lineCond, irq, msiPending, msiSeq]

/-! ## A cold reset -/

theorem coldHold_frame (source : Nat) (s : State) : ∃ u : State,
    OnlyIn [.events, .ports] u (coldHold source s) ∧ (coldHold source s).gbl.event = 0 ∧
    u.gbl.still = ({ s.gbl.afterReset .cold source with testFailed := false, sramFailed := 0 } : Gbl).still ∧ MemoriesEmpty u := by
  refine ⟨_, (evalLines_only _).step (by decide) ((refreshReady_only _).step (by decide) (.refl _ _)), evalLines_event _, rfl, ?_⟩
  exact ⟨rfl, rfl, rfl, rfl, rfl, rfl, rfl, rfl, rfl, rfl⟩

/-- The memories are outside the events and the ports. -/
theorem MemoriesEmpty.only {u t : State} (h : MemoriesEmpty u) (k : OnlyIn [.events, .ports] u t) : MemoriesEmpty t := by
  obtain ⟨hbm, tables, templates, maps, flows, runs, ldg, lrd, mbx, clerk⟩ := h
  have qh : t.qh = u.qh := k.same .qh (by decide)
  exact ⟨Eq.trans (k.same .hbm (by decide)) hbm, Eq.trans (k.same .tables (by decide)) tables,
    Eq.trans (k.same .templates (by decide)) templates, Eq.trans (k.same .maps (by decide)) maps, (congrArg Qh.flows qh).trans flows,
    (congrArg Qh.runs qh).trans runs, Eq.trans (k.same .ldg (by decide)) ldg, Eq.trans (k.same .lrd (by decide)) lrd,
    Eq.trans (k.same .mbx (by decide)) mbx, Eq.trans (k.same .clerk (by decide)) clerk⟩

/-! ## A recovery reset -/

/-- The Ledger with the rebuilds of its journal changed. -/
def Ledger.rebuilt (f : List Rebuild → List Rebuild) (l : Ledger) : Ledger :=
  { l with journal := l.journal.map (fun j => { j with rebuilds := f j.rebuilds }) }

theorem settleRebuilds_ldg (s : State) : ∃ f, (settleRebuilds s).ldg = Ledger.rebuilt f s.ldg := ⟨_, rfl⟩

/-- The directory pass changes no more of the Ledger than the rebuilds of its journal. -/
theorem directoryPass_ldg (s : State) : ∃ f, (directoryPass s).ldg = Ledger.rebuilt f s.ldg := by
  unfold directoryPass
  extract_lets moved grounded
  have movedLdg : moved.ldg = s.ldg := (OnlyIn.foldl (l := [.tables, .hbm, .poison, .lrd]) (fun t m => .ite (fun _ => finishMove_only m t)
    fun _ => (groundEntry_only t _).mono (by decide)) s.moves { s with moves := [] }).same .ldg (by decide)
  have groundedLdg : grounded.ldg = moved.ldg := (OnlyIn.foldl groundEntry_only _ moved).same .ldg (by decide)
  rw [← movedLdg, ← groundedLdg]
  exact settleRebuilds_ldg _

/-- Whether the sealed step is kept does not turn on the rebuilds. -/
theorem sealedKept_rebuilt {s t : State} {f : List Rebuild → List Rebuild} (ldg : t.ldg = Ledger.rebuilt f s.ldg) : sealedKept t = sealedKept s := by
  unfold sealedKept
  rw [ldg]
  simp [Ledger.rebuilt, Function.comp_def]

theorem keptLedger_openStep (s : State) : (keptLedger s).openStep = none := by
  unfold keptLedger
  split <;> rfl

theorem keptLedger_lost {s : State} (lost : sealedKept s = false) : keptLedger s = Ledger.reset :=
  if_neg (by rw [Bool.not_eq_true]; exact lost)

theorem keptLedger_journal {s : State} (kept : sealedKept s = true) : (keptLedger s).journal = s.ldg.journal := by
  unfold keptLedger
  rw [if_pos kept]

/-- The Assayer after a recovery reset: nothing but spans that are open. -/
structure OpenSpansOnly (a : Asy) : Prop where
  rest : a = { Asy.reset with counts := a.counts }
  counts : ∀ tid, ∃ spans, mgetD a.counts tid AsyCounts.zero = { AsyCounts.zero with spans := spans }

theorem asySpanStart_openSpansOnly {s : State} (h : OpenSpansOnly s.asy) (tid k : Nat) : OpenSpansOnly (asySpanStart tid k s).asy := by
  obtain ⟨rest, counts⟩ := h
  refine ⟨?_, fun j => ?_⟩
  · exact congrArg (fun a : Asy => { a with counts := (asySpanStart tid k s).asy.counts }) rest
  · unfold asySpanStart asyMod
    dsimp only
    by_cases same : j = tid
    · obtain ⟨spans, opened⟩ := counts j
      rw [← same, mgetD_mmod_same, opened]
      exact ⟨_, rfl⟩
    · rw [mgetD_mmod_other _ same]
      exact counts j

theorem asyReopen_openSpansOnly {s : State} (h : OpenSpansOnly s.asy) : OpenSpansOnly (asyReopen s).asy := by
  unfold asyReopen
  refine List.foldlRecOn (motive := fun t : State => OpenSpansOnly t.asy) _ _ h fun t ht p _ => ?_
  refine List.foldlRecOn (motive := fun t : State => OpenSpansOnly t.asy) _ _ ht fun u hu v _ => ?_
  split
  · exact asySpanStart_openSpansOnly hu _ _
  · exact hu

theorem openSpansOnly_reset : OpenSpansOnly Asy.reset := ⟨rfl, fun _ => ⟨[], rfl⟩⟩

theorem lostOf_slot (s : State) (n : Nat) : (lostOf s n).slot = n := by
  unfold lostOf
  cases found : s.clerk.lost.find? (fun o => o.slot == n) with
  | none => rfl
  | some o =>
    have named := List.find?_some found
    exact beq_iff_eq.1 named

/-- What a recovery reset leaves. -/
structure Recovered (source : Nat) (s t : State) : Prop where
  gbl : t.gbl.still = (s.gbl.afterReset .recovery source).still
  event : t.gbl.event = 0
  qh : t.qh = Qh.reset
  xlt : t.xlt = Xlt.reset
  flt : t.flt = Flt.reset
  asy : OpenSpansOnly t.asy
  shutters : t.shutters = []
  mbx : t.mbx = { s.mbx with slots := [], rung := [], taken := [], respQ := [], awaiting := [], refused := false, missed := 0 }
  log : t.clerk.log = s.clerk.log
  lost : t.clerk.lost.map Owed.slot = s.mbx.busy
  ldg : ∃ p : State, (∃ f, p.ldg = Ledger.rebuilt f s.ldg) ∧ t.ldg = keptLedger p

theorem recoveryHold_recovered (source : Nat) (s : State) : Recovered source s (recoveryHold source s) := by
  have pass := directoryPass_only s
  have gbl : (directoryPass s).gbl = s.gbl := pass.gbl (by decide) (by decide)
  have mbx : (directoryPass s).mbx = s.mbx := pass.same .mbx (by decide)
  have clerk : (directoryPass s).clerk = s.clerk := pass.same .clerk (by decide)
  have ldg := directoryPass_ldg s
  unfold recoveryHold
  extract_lets report passed m _ _ _ _ cleared
  have released : OnlyIn [.tables, .moves, .lrd] cleared (releaseTables cleared) := releaseTables_only cleared
  have frame : OnlyIn [.tables, .moves, .lrd, .asy, .ports] cleared (refreshReady (asyReopen (releaseTables cleared))) :=
    (refreshReady_only _).step (by decide) ((asyReopen_only _).step (by decide) (released.mono (by decide)))
  have spans : OpenSpansOnly (asyReopen (releaseTables cleared)).asy :=
    asyReopen_openSpansOnly ((show (releaseTables cleared).asy = Asy.reset from released.same .asy (by decide)) ▸ openSpansOnly_reset)
  have keptSpans : (refreshReady (asyReopen (releaseTables cleared))).asy = (asyReopen (releaseTables cleared)).asy := rfl
  generalize refreshReady (asyReopen (releaseTables cleared)) = settled at *
  have lines := evalLines_only settled
  have whole : OnlyIn [.tables, .moves, .lrd, .asy, .ports, .events] cleared (evalLines settled) :=
    lines.step (by decide) (frame.mono (by decide))
  have keptClerk : (evalLines settled).clerk = cleared.clerk := whole.same .clerk (by decide)
  have keptMbx : (evalLines settled).mbx = cleared.mbx := whole.same .mbx (by decide)
  have asy : (evalLines settled).asy = settled.asy := lines.same .asy (by decide)
  constructor
  case gbl =>
    have still : (evalLines settled).gbl.still = cleared.gbl.still := whole.same .block (by decide)
    rw [still, ← gbl]
  case event => exact (evalLines_event settled).trans (frame.same .events (by decide)).1
  case qh => exact whole.same .qh (by decide)
  case xlt => exact whole.same .xlt (by decide)
  case flt => exact whole.same .flt (by decide)
  case asy => rw [asy, keptSpans]; exact spans
  case shutters => exact whole.same .shutters (by decide)
  case mbx => rw [keptMbx, ← mbx]
  case log => rw [keptClerk, ← clerk]
  case lost =>
    rw [keptClerk]
    change (passed.mbx.busy.map (lostOf passed)).map Owed.slot = s.mbx.busy
    rw [List.map_map, ← mbx]
    exact (List.map_congr_left fun n _ => lostOf_slot passed n).trans (List.map_id _)
  case ldg => exact ⟨passed, ldg, whole.same .ldg (by decide)⟩

/-! ## The end of FORCE_HELD's drain, and the loss of power -/

theorem enterHeld_frame (s : State) : OnlyIn [.events, .mbx, .maps, .qh, .ports, .cols, .ldg, .asy, .lrd, .span, .counts, .ctr] { s with
    gbl := { s.gbl with state := .held, heldCause := s.gbl.heldCause ||| 4, quiesce := 0, seq := .idle }
    wch := { s.wch with busy := false, result := w64 (6 * 2 ^ 8) } } (enterHeld s) :=
  (spanIdle_only _).step (by decide) ((refreshReady_only _).step (by decide) (.refl _ _))

theorem resetTakeHold_holdOff {s : State} {cls : ResetClass} {source : Nat} (seq : s.gbl.seq = .holdOff cls source) :
    exec .resetTakeHold s = .next (takeHold cls source s) := by
  change execResetTakeHold s = _
  unfold execResetTakeHold
  rw [seq]

theorem resetTakeHold_drained {s : State} (seq : s.gbl.seq = .heldDrain) : exec .resetTakeHold s = .next (enterHeld s) := by
  change execResetTakeHold s = _
  unfold execResetTakeHold
  rw [seq]

theorem powerLost_lost (porLow clockLost : Bool) (s : State) : (powerLost porLow clockLost s).gbl.state = .off ∧
    (powerLost porLow clockLost s).gbl.porLow = porLow ∧ (powerLost porLow clockLost s).gbl.clockLost = clockLost ∧
    MemoriesEmpty (powerLost porLow clockLost s) ∧ FusesKept s (powerLost porLow clockLost s) :=
  ⟨rfl, rfl, rfl, ⟨rfl, rfl, rfl, rfl, rfl, rfl, rfl, rfl, rfl, rfl⟩, rfl, rfl, rfl, rfl, rfl, rfl⟩

/-- Settles O20: the fields that each reset, the end of a drain and each edge of power leave. -/
theorem resetsTakeHold : Obligations.ResetsTakeHold := by
  unfold Obligations.ResetsTakeHold
  refine ⟨fun s src seq => ⟨_, resetTakeHold_holdOff seq, ?cold⟩, fun s src seq => ⟨_, resetTakeHold_holdOff seq, ?recovery⟩,
    fun s seq => ⟨_, resetTakeHold_drained seq, ?drained⟩, fun s => ⟨powerLost true false s, rfl, powerLost_lost true false s⟩,
    fun s powered c hc => ?power,
    fun s low => congrArg Host.Outcome.next (if_pos low), fun s => rfl⟩
  case cold =>
    obtain ⟨u, only, event, gbl, empty⟩ := coldHold_frame src s
    have still : (coldHold src s).gbl.still = u.gbl.still := only.same .block (by decide)
    rw [gbl] at still
    exact ⟨(congrArg Gbl.state still :), (congrArg Gbl.seq still :), event, (congrArg Gbl.lastReset still :), (congrArg Gbl.resetSource still :),
      (congrArg Gbl.resets still :), (congrArg Gbl.active still :), (congrArg Gbl.eventEn still :), (congrArg Gbl.msiAddr still :),
      MemoriesEmpty.only empty only,
      (congrArg Gbl.lifecycle still :), (congrArg Gbl.uid still :), (congrArg Gbl.stepping still :), (congrArg Gbl.rollback still :),
      (congrArg Gbl.ownerDigest still :), (congrArg Gbl.bootCount still :)⟩
  case recovery =>
    obtain ⟨still, event, qh, xlt, flt, asy, shutters, mbx, log, lost, p, ⟨f, passed⟩, ldg⟩ := recoveryHold_recovered src s
    have kept : sealedKept p = sealedKept s := sealedKept_rebuilt passed
    refine ⟨(congrArg Gbl.state still :), (congrArg Gbl.seq still :), event, (congrArg Gbl.lastReset still :), (congrArg Gbl.resetSource still :),
      (congrArg Gbl.resets still :), qh, xlt, flt, asy.rest, asy.counts, shutters, (congrArg Mbx.rung mbx :), (congrArg Mbx.taken mbx :),
      (congrArg Mbx.busy mbx :), log, lost, ?_, fun gone => ?_, fun keeps => ?_⟩
    · exact (congrArg Ledger.openStep ldg).trans (keptLedger_openStep p)
    · exact ldg.trans (keptLedger_lost (kept.trans gone))
    · have journal : (recoveryHold src s).ldg.journal = p.ldg.journal := (congrArg Ledger.journal ldg).trans (keptLedger_journal (kept.trans keeps))
      change (recoveryHold src s).ldg.journal.map _ = _
      rw [journal, passed]
      simp [Ledger.rebuilt, Function.comp_def]
  case drained =>
    have frame := enterHeld_frame s
    have still : (enterHeld s).gbl.still =
        ({ s.gbl with state := .held, heldCause := s.gbl.heldCause ||| 4, quiesce := 0, seq := .idle } : Gbl).still := frame.same .block (by decide)
    have wch : (enterHeld s).wch = { s.wch with busy := false, result := w64 (6 * 2 ^ 8) } := frame.same .wch (by decide)
    generalize enterHeld s = t at *
    exact ⟨(congrArg Gbl.state still :), (congrArg Gbl.heldCause still :), (congrArg Gbl.quiesce still :), (congrArg Gbl.seq still :),
      (congrArg Wch.busy wch :), (congrArg Wch.result wch :), frame.same .hbm (by decide), frame.same .tables (by decide)⟩
  case power =>
    simp only [List.mem_cons, List.not_mem_nil, or_false] at hc
    have lost : exec .refclkLoss s = .next (powerLost false true s) := congrArg Host.Outcome.next (if_neg (by rw [powered]; decide))
    obtain rfl | rfl := hc
    · exact ⟨_, lost, powerLost_lost false true s⟩
    · exact ⟨_, lost, powerLost_lost false true s⟩

end Sys2Proof.Machine

/-! SUPPORT. POWER_STATE and the end of a power transition (R557 to R562). -/

namespace Sys2Proof.Machine

open Sys2Proof

/-- A command that is ready is the taken message of its slot. -/
theorem Ready.taken {s : State} {op slot : Nat} {m : Msg} (ready : Ready s op slot m) :
    s.mbx.taken.find? (fun t => t.slot == slot) = some { slot := slot, msg := m, held := false } := by
  unfold Ready takenCmd at ready
  split at ready
  · cases ready
  · split at ready
    next t found =>
      have same : some t = some { slot := slot, msg := m, held := false } := by
        split at ready
        · cases ready
        · split at ready
          · split at ready
            · split at ready
              · exact ready
              · cases ready
            · cases ready
          · exact ready
      exact found.trans same
    · cases ready

theorem answerTaken_taken {s : State} {slot : Nat} {k : Taken} (taken : s.mbx.taken.find? (fun t => t.slot == slot) = some k) (st : Status) :
    answerTaken slot st s = postFinal slot k.msg st [] (untake slot s) := by
  unfold answerTaken
  rw [taken]

/-! ## POWER_STATE -/

theorem powerState_ready {s : State} {slot : Nat} {m : Msg} (ready : Ready s 0x0301 slot m) (free : s.pwr.busy = false) :
    exec (.powerState slot) s = .next (
      if bits (arg m 1) 0 3 = s.pwr.current then postFinal slot m .ok [] (untake slot s)
      else if !powerAllowed s (bits (arg m 1) 0 3) then postFinal slot m .badDescriptor [] (untake slot s)
      else startTransition slot (bits (arg m 1) 0 3) s) := by
  change execPowerState slot s = _
  have taken := ready.taken
  unfold Ready at ready
  unfold execPowerState
  rw [ready]
  dsimp only
  rw [answerTaken_taken taken, answerTaken_taken taken, if_neg (by rw [free]; decide)]

theorem startTransition_started (slot target : Nat) (s : State) :
    (startTransition slot target s).pwr = { s.pwr with target := target, busy := true, slot := some slot } ∧
    (startTransition slot target s).mbx.respQ = s.mbx.respQ ∧
    (target < 3 → (startTransition slot target s).gbl = s.gbl) ∧
    (3 ≤ target → (startTransition slot target s).gbl.state = .quiescing ∧ (startTransition slot target s).gbl.quiesce = 3) := by
  unfold startTransition
  dsimp only
  split
  next low => exact ⟨rfl, rfl, fun _ => rfl, fun high => absurd low (Nat.not_lt.2 high)⟩
  next high => exact ⟨rfl, rfl, fun low => absurd low high, fun _ => ⟨rfl, rfl⟩⟩

/-! ## The end of a transition -/

theorem powerTransitionDone_waits {s : State} (us : Nat) (waits : transitionReady s = false) : exec (.powerTransitionDone us) s = .next s :=
  congrArg Host.Outcome.next (if_pos (by rw [waits]; rfl))

theorem powerTransitionDone_ready {s : State} (us : Nat) (ready : transitionReady s = true) : exec (.powerTransitionDone us) s = .next (
    if s.pwr.target = 4 then powerLost false false s
    else if s.pwr.target = 3 then enterRetention us s
    else if s.gbl.state = .retention then leaveRetention us s
    else endTransition us s) := congrArg Host.Outcome.next (if_neg (by rw [ready]; decide))

theorem transitionReady_unsaved {s : State} (saves : s.pwr.target = 2 ∨ s.pwr.target = 3) (unsaved : tilesSaved s = false) :
    transitionReady s = false := by
  obtain two | three := saves
  · simp [transitionReady, savesTiles, two, unsaved]
  · simp [transitionReady, savesTiles, three, unsaved]

/-- A transition that needs no drain. -/
theorem transitionReady_low {s : State} (busy : s.pwr.busy = true) (low : s.pwr.target < 3) (saved : s.pwr.target = 2 → tilesSaved s = true) :
    transitionReady s = true := by
  by_cases two : s.pwr.target = 2
  · simp [transitionReady, busy, low, saved two]
  · have other : s.pwr.target ≠ 3 := low.ne
    simp [transitionReady, savesTiles, busy, low, two, other]

theorem transitionReady_drained {s : State} (busy : s.pwr.busy = true) (drained : s.gbl.seq = .powerDrain s.pwr.target)
    (saved : savesTiles s = true → tilesSaved s = true) : transitionReady s = true := by
  cases saves : savesTiles s with
  | false => simp [transitionReady, busy, drained, saves]
  | true => simp [transitionReady, busy, drained, saves, saved saves]

/-- The power state of a transition that ends. -/
def transitionEnded (us : Nat) (s : State) : State :=
  { s with pwr := { s.pwr with current := s.pwr.target, busy := false, slot := none, lastUs := min us 65535 } }

theorem endTransition_answers {s : State} {us slot : Nat} {k : Taken} (owner : s.pwr.slot = some slot)
    (taken : s.mbx.taken.find? (fun t => t.slot == slot) = some k) :
    endTransition us s = postFinal slot k.msg .ok [] (untake slot (transitionEnded us s)) := by
  unfold endTransition
  rw [owner]
  exact answerTaken_taken (s := transitionEnded us s) taken .ok

theorem answerTaken_pwr (slot : Nat) (st : Status) (s : State) : (answerTaken slot st s).pwr = s.pwr := by
  unfold answerTaken
  split <;> rfl

theorem endTransition_pwr (us : Nat) (s : State) : (endTransition us s).pwr = (transitionEnded us s).pwr := by
  unfold endTransition
  dsimp only
  split
  · exact answerTaken_pwr ..
  · rfl

theorem enterRetention_pwr (us : Nat) (s : State) : (enterRetention us s).pwr = (endTransition us s).pwr := by
  unfold enterRetention
  generalize endTransition us s = ended
  have kept : (spanIdle ended).pwr = ended.pwr := (spanIdle_only ended).same .pwr (by decide)
  generalize spanIdle ended = idle at *
  exact kept

/-- Settles O18: POWER_STATE by its target, and the end of a transition by what it waits for and where it leads. -/
theorem powerStateChanges : Obligations.PowerStateChanges := by
  unfold Obligations.PowerStateChanges
  refine ⟨fun s slot m ready free => ⟨fun same => ?same, fun other refused => ?refused, fun other allowed => ?starts⟩,
    fun s us slot k busy low saved owner taken state => ?ends,
      fun s us busy saves unsaved => powerTransitionDone_waits us (transitionReady_unsaved saves unsaved),
    fun s us busy three drained saved => ?retention, fun s us busy four drained => ?off⟩
  case same =>
    have next := powerState_ready ready free
    rw [if_pos same] at next
    exact ⟨_, next, rfl, rfl, rfl⟩
  case refused =>
    have next := powerState_ready ready free
    rw [if_neg other, if_pos (by rw [refused]; rfl)] at next
    exact ⟨_, next, rfl, rfl, rfl⟩
  case starts =>
    have next := powerState_ready ready free
    rw [if_neg other, if_neg (by rw [allowed]; decide)] at next
    exact ⟨_, next, startTransition_started slot _ s⟩
  case ends =>
    have next := powerTransitionDone_ready us (transitionReady_low busy low saved)
    rw [if_neg (by omega), if_neg (by omega), if_neg state, endTransition_answers owner taken] at next
    exact ⟨_, next, rfl, rfl, rfl⟩
  case retention =>
    have next := powerTransitionDone_ready us (transitionReady_drained busy (three ▸ drained) fun _ => saved)
    rw [if_neg (by omega), if_pos three] at next
    have pwr := (enterRetention_pwr us s).trans (endTransition_pwr us s)
    exact ⟨_, next, rfl, rfl, (congrArg Pwr.current pwr).trans three, congrArg Pwr.busy pwr⟩
  case off =>
    have ready : transitionReady s = true := transitionReady_drained busy (four ▸ drained) fun saves => by simp [savesTiles, four] at saves
    have next := powerTransitionDone_ready us ready
    rw [if_pos four] at next
    exact ⟨_, next, rfl, rfl, rfl, rfl, rfl, rfl⟩

end Sys2Proof.Machine

/-! SUPPORT. What the links' idling leaves of the response queue: it only grows (R497). -/

namespace Sys2Proof.Machine

open Sys2Proof

/-- The responses that wait in `s` wait in `t`. -/
def Posts (s t : State) : Prop := ∃ more, t.mbx.respQ = s.mbx.respQ ++ more

theorem Posts.refl (s : State) : Posts s s := ⟨[], (List.append_nil _).symm⟩

theorem Posts.trans {a b c : State} (h : Posts a b) (k : Posts b c) : Posts a c := by
  obtain ⟨more, h⟩ := h
  obtain ⟨rest, k⟩ := k
  exact ⟨more ++ rest, by rw [k, h, List.append_assoc]⟩

theorem Posts.of_mbx {s t : State} (same : t.mbx = s.mbx) : Posts s t := ⟨[], by rw [same, List.append_nil]⟩

theorem Posts.of_only {l : List Part} {s t : State} (h : OnlyIn l s t) (q : Part.mbx ∉ l) : Posts s t := .of_mbx (h.same .mbx q)

theorem Posts.foldl {α : Type} {f : State → α → State} (h : ∀ t x, Posts t (f t x)) : ∀ (xs : List α) (s : State), Posts s (xs.foldl f s)
  | [], s => .refl s
  | x :: xs, s => (h s x).trans (.foldl h xs (f s x))

theorem Posts.mem {s t : State} (h : Posts s t) {r : Response} (waits : r ∈ s.mbx.respQ) : r ∈ t.mbx.respQ := by
  obtain ⟨more, h⟩ := h
  rw [h]
  exact List.mem_append_left _ waits

theorem endRefresh_posts (r : Refresh) (s : State) : Posts s (endRefresh r s) := by
  unfold endRefresh
  dsimp only
  split
  · exact ⟨_, rfl⟩
  · have unsubscribed := OnlyIn.foldl (fun t (x : Nat × Nat × Nat) => unsubscribe_only x.1 x.2.1 x.2.2 t) r.removals
      (untake r.slot { s with lrd := { s.lrd with refresh := none } })
    exact (Posts.of_only unsubscribed (by decide)).trans ⟨_, rfl⟩

theorem stepRefresh_posts (s : State) : Posts s (stepRefresh s) := by
  unfold stepRefresh
  split
  · exact .refl s
  · have asked : ∀ n, Posts s (askReplicas n s) := fun n => .of_only (askReplicas_only n s) (by decide)
    dsimp only
    split
    · exact asked _
    · split
      · exact (asked _).trans (endRefresh_posts _ _)
      · exact asked _

theorem failReq_posts (q : Req) (st : Status) (s : State) : Posts s (failReq q st s) := by
  refine .trans ?_ (stepRefresh_posts _)
  have freed : Posts s (freeReq q s) := .of_only (freeReq_only q s) (by decide)
  split
  · exact freed.trans (.of_only (answerMill_only ..) (by decide))
  · exact freed.trans (.of_only (failMigration_only ..) (by decide))
  · exact freed.trans (.of_only (failPlacing_only ..) (by decide))

theorem refusePacket_posts (k : Packet) (s : State) : Posts s (refusePacket k s) := by
  unfold refusePacket
  split
  · exact .of_only (unreachable_only k s) (by decide)
  · have noted : Posts s (noteAbsent k.hdr.dest s) := .of_only (noteAbsent_only _ s) (by decide)
    dsimp only
    split
    · exact noted.trans (.of_only (refusePartial_only ..) (by decide))
    · split
      · exact noted.trans (failReq_posts _ _ _)
      · exact noted
    · exact noted.trans (.foldl (fun t _ => .of_only (absentWait_only _ _ t) (by decide)) _ _)
    · exact noted

theorem spanIdle_posts (s : State) : Posts s (spanIdle s) := by
  refine .foldl (fun t p => ?_) _ s
  refine .trans ?_ (.foldl (fun u q => refusePacket_posts q u) _ _)
  have idled : Posts t (portMod p Port.lanesIdle t) := .of_only (portMod_only ..) (by decide)
  split
  · exact idled.trans (.of_only (linkChanged_only ..) (by decide))
  · exact idled

end Sys2Proof.Machine

/-! SUPPORT. SELFTEST, WIPE and LIFECYCLE put the block in SELFTEST (R529, R537, R551 to R555). -/

namespace Sys2Proof.Machine

open Sys2Proof

/-- What a sequence in SELFTEST starts from. -/
structure Entered (q : Sequence) (s t : State) : Prop where
  still : t.gbl.still = ({ s.gbl with state := .selftest, heldCause := 0, seq := q } : Gbl).still
  clerk : t.clerk = s.clerk
  posts : Posts s t

theorem spanIdle_entered {q : Sequence} {s u : State}
    (still : u.gbl.still = ({ s.gbl with state := .selftest, heldCause := 0, seq := q } : Gbl).still)
    (clerk : u.clerk = s.clerk) (mbx : u.mbx = s.mbx) : Entered q s (spanIdle u) := by
  have idled := spanIdle_only u
  have posts := spanIdle_posts u
  generalize spanIdle u = t at *
  exact ⟨Eq.trans (idled.same .block (by decide)) still, Eq.trans (idled.same .clerk (by decide)) clerk, (Posts.of_mbx mbx).trans posts⟩

theorem enterSelftest_entered (q : Sequence) (s : State) : Entered q s (enterSelftest q s) := spanIdle_entered rfl rfl rfl

theorem Entered.only {q : Sequence} {l : List Part} {s t u : State} (h : Entered q s t) (k : OnlyIn l t u) (block : Part.block ∉ l)
    (clerk : Part.clerk ∉ l) (mbx : Part.mbx ∉ l) : Entered q s u :=
  ⟨Eq.trans (k.same .block block) h.still, Eq.trans (k.same .clerk clerk) h.clerk, h.posts.trans (.of_only k mbx)⟩

theorem Entered.state {q : Sequence} {s t : State} (h : Entered q s t) : t.gbl.state = .selftest := (congrArg Gbl.state h.still :)

/-- In SELFTEST there is nothing to settle. -/
theorem settle_selftest {s : State} (tested : s.gbl.state = .selftest) : settle s = s := by
  unfold settle
  rw [tested]

/-- A command that is accepted and enters SELFTEST. -/
theorem entered_accepted {q : Sequence} {s t : State} {slot : Nat} {m : Msg} (h : Entered q (accept slot m s) t) :
    t.gbl.state = .selftest ∧ t.gbl.seq = q ∧ t.gbl.heldCause = 0 ∧ respOf slot m 1 .ok [] ∈ t.mbx.respQ ∧
    t.clerk = { s.clerk with owed := s.clerk.owed ++ [{ slot := slot, seq := m.seq, op := m.op }] } :=
  ⟨h.state, (congrArg Gbl.seq h.still :), (congrArg Gbl.heldCause h.still :),
    h.posts.mem (List.mem_append_right _ (List.mem_singleton.2 rfl)), h.clerk⟩

theorem trainTested_entered {q : Sequence} {s t : State} (h : Entered q s t) : Entered q s (trainTested t) :=
  h.only (trainTested_only t) (by decide) (by decide) (by decide)

theorem selftest_enters {s : State} {slot : Nat} {m : Msg} (ready : Ready s 0x0201 slot m) : exec (.selftest slot) s = .next (settle (trainTested
    (enterSelftest (.selftest (bits (arg m 1) 0 4)) (accept slot m (untake slot s))))) := by
  change execSelftest slot s = _
  exact cmdStep_does ready rfl

theorem wipe_enters {s : State} {slot : Nat} {m : Msg} (ready : Ready s 0x0401 slot m) : exec (.wipe slot) s = .next (settle
    (enterSelftest (.wipe false) (accept slot m (untake slot s)))) := by
  change execWipe slot s = _
  exact cmdStep_does ready rfl

/-! ## LIFECYCLE -/

/-- The fuses that a change of the life cycle writes. -/
def fused (target : Nat) (bs : List Byte) (s : State) : State :=
  { s with gbl := { s.gbl with
    lifecycle := target, ownerDigest := if target = 1 then BitVec.ofNat 384 (fieldAt bs 32 48) else s.gbl.ownerDigest } }

section
variable {s : State} {slot : Nat} {m : Msg} {v : ChipView} {sigOk : Bool} {bs : List Byte}

theorem lifecycle_refused (ready : Ready s 0x0402 slot m) (bad : lifecycleChange s.gbl.lifecycle (bits (arg m 1) 0 3) = none) :
    exec (.lifecycle slot v sigOk) s = .next (settle (postFinal slot m .badDescriptor [] (untake slot s))) := by
  change execLifecycle slot v sigOk s = _
  unfold execLifecycle
  rw [cmdStep_ready ready]
  dsimp only
  rw [untake_gbl, bad]

theorem lifecycle_unsigned (ready : Ready s 0x0402 slot m) (change : lifecycleChange s.gbl.lifecycle (bits (arg m 1) 0 3) = some true)
    (read : clerkRead s v m.ctx (bits (arg m 2) 0 56) 176 = .ok bs) (token : tokenOk s (bits (arg m 1) 0 3) bs = true) (bad : sigOk = false) :
    exec (.lifecycle slot v sigOk) s = .next (settle (postFinal slot m .perm [] (untake slot s))) := by
  have token' : tokenOk (untake slot s) (bits (arg m 1) 0 3) bs = true := token
  change execLifecycle slot v sigOk s = _
  unfold execLifecycle
  rw [cmdStep_ready ready]
  dsimp only
  rw [untake_gbl, change, clerkRead_untake, read]
  simp [token', bad]

theorem lifecycle_changes {signed : Bool} (ready : Ready s 0x0402 slot m)
    (change : lifecycleChange s.gbl.lifecycle (bits (arg m 1) 0 3) = some signed)
    (read : clerkRead s v m.ctx (bits (arg m 2) 0 56) 176 = .ok bs) (token : tokenOk s (bits (arg m 1) 0 3) bs = true)
    (plain : signed = false → fieldAt bs 80 96 = 0) (good : signed = true → sigOk = true) :
    exec (.lifecycle slot v sigOk) s = .next (settle (enterSelftest (.lifecycle false)
      (accept slot m (fused (bits (arg m 1) 0 3) bs (untake slot s))))) := by
  have token' : tokenOk (untake slot s) (bits (arg m 1) 0 3) bs = true := token
  change execLifecycle slot v sigOk s = _
  unfold execLifecycle
  rw [cmdStep_ready ready]
  dsimp only
  rw [untake_gbl, change, clerkRead_untake, read]
  cases signed with
  | false => simp [token', plain rfl, fused]
  | true => simp [token', good rfl, fused]

end

/-- Settles O17: each command is accepted and enters SELFTEST, or is answered at once. -/
theorem sequenceCommandsStart : Obligations.SequenceCommandsStart := by
  unfold Obligations.SequenceCommandsStart
  refine ⟨fun s slot m ready => ?selftest, fun s slot m ready => ?wipe, fun s slot m v sigOk ready =>
    ⟨fun signed bs change read token plain good => ?changes, fun bad => ?refused, fun bs change read token bad => ?unsigned⟩⟩
  case selftest =>
    have entered := trainTested_entered (enterSelftest_entered (.selftest (bits (arg m 1) 0 4)) (accept slot m (untake slot s)))
    have next := selftest_enters ready
    rw [settle_selftest entered.state] at next
    exact ⟨_, next, entered_accepted (s := untake slot s) entered⟩
  case wipe =>
    have entered := enterSelftest_entered (.wipe false) (accept slot m (untake slot s))
    have next := wipe_enters ready
    rw [settle_selftest entered.state] at next
    exact ⟨_, next, entered_accepted (s := untake slot s) entered⟩
  case changes =>
    have entered := enterSelftest_entered (.lifecycle false) (accept slot m (fused (bits (arg m 1) 0 3) bs (untake slot s)))
    have next := lifecycle_changes ready change read token plain good
    rw [settle_selftest entered.state] at next
    obtain ⟨state, seq, -, answered, clerk⟩ := entered_accepted entered
    generalize enterSelftest _ _ = t at *
    exact ⟨_, next, state, seq, (congrArg Gbl.lifecycle entered.still :), (congrArg Gbl.ownerDigest entered.still :), answered, clerk⟩
  case refused =>
    refine ⟨_, lifecycle_refused ready bad, (settle_mbx _).trans (postFinal_mbx rfl m _ _), settle_lifecycle _⟩
  case unsigned =>
    refine ⟨_, lifecycle_unsigned ready change read token bad, (settle_mbx _).trans (postFinal_mbx rfl m _ _), settle_lifecycle _⟩

end Sys2Proof.Machine

/-! SUPPORT. The commands that query the block (R507, R509, R513, R515, R567, R568). -/

namespace Sys2Proof.Machine

open Sys2Proof

/-! ## Answers -/

/-- What an answer at once leaves. -/
theorem settled_answer_only {s t : State} {slot : Nat} (h : OnlyIn [.mbx, .block] s t) (m : Msg) (st : Status) (p : List W64) :
    OnlyIn [.mbx, .block] s (settle (postFinal slot m st p t)) :=
  (settle_only _).step (by decide) ((setMbx_only t _).step (by decide) h)

theorem untake_answerable (slot : Nat) (s : State) : OnlyIn [.mbx, .block] s (untake slot s) := (untake_only slot s).mono (by decide)

/-- A command that is answered at once and changes nothing else. -/
theorem answered_leads {c : Instr} {s : State} {slot : Nat} {m : Msg} {st : Status} {p : List W64}
    (next : exec c s = .next (settle (postFinal slot m st p (untake slot s)))) :
    Leads (exec c s) fun t => t.mbx = finalMbx s slot m st p ∧ OnlyIn [.mbx, .block] s t :=
  ⟨_, next, (settle_mbx _).trans (postFinal_mbx rfl m _ _), settled_answer_only (untake_answerable slot s) m st p⟩

/-! ## Results written to the chip -/

theorem sendResult_beside_mbx (slot : Nat) (x : Xlat) (da : Nat) (bs : List Byte) (b : Mbx) (s : State) :
    sendResult slot x da bs { s with mbx := b } = { sendResult slot x da bs s with mbx := b } := by
  unfold sendResult
  generalize cutPieces (rangePieces x da bs.length) bs = ps
  induction ps generalizing s with
  | nil => rfl
  | cons p ps ih =>
    rw [List.foldl_cons, List.foldl_cons, chipWrite_beside_mbx]
    exact ih _

section
variable {s : State} {v : ChipView} {slot : Nat} {m : Msg} {da : Nat} {bs : List Byte} {c : Instr} {payload : List W64}

/-- The result is written, and the answer waits for the acknowledgements. -/
theorem result_sent {x : Xlat} (next : exec c s = .next (settle (clerkResult (untake slot s) v slot m da bs payload)))
    (translates : translate s v m.ctx da bs.length true = .ok x) :
    Leads (exec c s) fun t => t.mbx = awaitingMbx s slot m payload (resultWrites x da bs) ∧ Part.ports.Same (sendResult slot x da bs s) t := by
  refine ⟨_, next, (settle_mbx _).trans (clerkResult_translated translates payload), ?_⟩
  have sent : ∃ b, clerkResult (untake slot s) v slot m da bs payload = sendResult slot x da bs { s with mbx := b } := by
    unfold clerkResult
    rw [translate_untake, translates]
    exact ⟨_, rfl⟩
  obtain ⟨b, sent⟩ := sent
  have beside := sendResult_beside_mbx slot x da bs b s
  rw [sent, beside]
  exact (settle_only { sendResult slot x da bs s with mbx := b }).same .ports (by decide)

/-- Where the destination does not translate, nothing is written. -/
theorem result_failed {e : XlatFail} (next : exec c s = .next (settle (clerkResult (untake slot s) v slot m da bs payload)))
    (fails : translate s v m.ctx da bs.length true = .error e) :
    Leads (exec c s) fun t => t.mbx = finalMbx s slot m (failStatus e) [] ∧ Part.ports.Same s t := by
  have noted := noteWalk_only v m.ctx e (untake slot s)
  have answered : clerkResult (untake slot s) v slot m da bs payload = postFinal slot m (failStatus e) [] (noteWalk v m.ctx e (untake slot s)) := by
    unfold clerkResult
    rw [translate_untake, fails]
  rw [answered] at next
  refine ⟨_, next, (settle_mbx _).trans (postFinal_mbx (noted.same .mbx (by decide)) m _ _), ?_⟩
  exact Part.Same.trans (noted.same .ports (by decide)) ((settle_only (postFinal slot m _ _ _)).same .ports (by decide))

end

/-! ## The commands -/

section
variable {s : State} {slot : Nat} {m : Msg} {v : ChipView}

theorem identify_ready (ready : Ready s 0x0101 slot m) : exec (.identify slot) s =
    .next (settle (postFinal slot m .ok [idPart s, idConfig s, s.gbl.idFw, w64 s.gbl.bootCount] (untake slot s))) := by
  change execIdentify slot s = _
  exact cmdStep_does ready rfl

theorem logRead_refused (ready : Ready s 0x0102 slot m) (bad : bits (arg m 2) 32 12 = 0 ∨ 2048 < bits (arg m 2) 32 12) :
    exec (.logRead slot v) s = .next (settle (postFinal slot m .badDescriptor [] (untake slot s))) := by
  change execLogRead slot v s = _
  exact cmdStep_does ready (if_pos bad)

theorem logRead_empty (ready : Ready s 0x0102 slot m) (some' : 1 ≤ bits (arg m 2) 32 12) (few : bits (arg m 2) 32 12 ≤ 2048)
    (none : logFrom s (bits (arg m 2) 0 32) (bits (arg m 2) 32 12) = []) :
    exec (.logRead slot v) s = .next (settle (postFinal slot m .ok (logSpan s) (untake slot s))) := by
  have asked : logFrom (untake slot s) (bits (arg m 2) 0 32) (bits (arg m 2) 32 12) = [] := none
  change execLogRead slot v s = _
  refine cmdStep_does ready ?_
  dsimp only
  rw [if_neg (by omega), asked]
  rfl

theorem logRead_sends {es : List LogEntry} (ready : Ready s 0x0102 slot m) (some' : 1 ≤ bits (arg m 2) 32 12)
    (few : bits (arg m 2) 32 12 ≤ 2048) (held : logFrom s (bits (arg m 2) 0 32) (bits (arg m 2) 32 12) = es) (ne : es ≠ []) :
    exec (.logRead slot v) s = .next (settle (clerkResult (untake slot s) v slot m (bits (arg m 1) 0 56) (wordsToBytes (es.flatMap logWords))
      (logSpan s))) := by
  have asked : logFrom (untake slot s) (bits (arg m 2) 0 32) (bits (arg m 2) 32 12) = es := held
  change execLogRead slot v s = _
  refine cmdStep_does ready ?_
  dsimp only
  rw [if_neg (by omega), asked]
  cases es with
  | nil => exact absurd rfl ne
  | cons e es => rfl

theorem stepReport_sends {step : Nat} {mx : AMap Nat} (ready : Ready s 0x0A04 slot m) (sealed : s.ldg.lastSealed = some (step, mx))
    (done : s.ldg.sealing = false) : exec (.stepReport slot v) s =
      .next (settle (clerkResult (untake slot s) v slot m (bits (arg m 1) 0 56) (stepReport mx) [w64 step])) := by
  change execStepReport slot v s = _
  refine cmdStep_does ready ?_
  rw [untake_ldg, sealed]
  exact if_neg (by rw [done]; decide)

theorem stepReport_refused (ready : Ready s 0x0A04 slot m) (none : s.ldg.lastSealed = none ∨ s.ldg.sealing = true) :
    exec (.stepReport slot v) s = .next (settle (postFinal slot m .badDescriptor [] (untake slot s))) := by
  change execStepReport slot v s = _
  refine cmdStep_does ready ?_
  rw [untake_ldg]
  split
  next => exact if_pos (none.resolve_left (by simp_all))
  next => rfl

end

/-! ## Operating points (R567, R568) -/

theorem voltOk_of_steps {v : Nat} (h : 550 ≤ v ∧ v ≤ 850 ∧ v % 5 = 0) : voltOk v = true := by
  simp [voltOk, h]

theorem voltOk_of_outside {v : Nat} (h : v < 550 ∨ 850 < v ∨ v % 5 ≠ 0) : voltOk v = false := by
  rw [← Bool.not_eq_true]
  intro ok
  simp only [voltOk, Bool.and_eq_true, decide_eq_true_eq, beq_iff_eq] at ok
  omega

theorem clockOk_of_steps {f : Nat} (low : 1000 ≤ f) (high : f ≤ 1600) (steps : f % 100 = 0) : clockOk f = true := by
  simp [clockOk, low, high, steps]

theorem clockOk_of_outside {f : Nat} (h : f < 1000 ∨ 1600 < f ∨ f % 100 ≠ 0) : clockOk f = false := by
  rw [← Bool.not_eq_true]
  intro ok
  simp only [clockOk, Bool.and_eq_true, decide_eq_true_eq, beq_iff_eq] at ok
  omega

theorem marginReport_ready {s : State} {slot : Nat} {m : Msg} {volts : List Nat} {mhz : Nat} (ready : Ready s 0x0D01 slot m)
    (proposal : volts.length = 4 ∧ volts.all voltOk = true ∧ clockOk mhz = true ∧ mhz ≤ s.pwr.millMhz) :
    exec (.marginReport slot volts mhz) s = .next (settle (postFinal slot m .ok (marginPayload s volts mhz) (untake slot s))) := by
  change execMarginReport slot volts mhz s = _
  exact (if_pos proposal).trans (cmdStep_does ready rfl)

/-- The voltages that REPLAN names. -/
def replanVolts (m : Msg) : List Nat := (List.range 4).map (fun g => bits (arg m 1) (16 * g) 16)

theorem replanVolts_eq {m : Msg} {v0 v1 v2 v3 : Nat} (h0 : bits (arg m 1) 0 16 = v0) (h1 : bits (arg m 1) 16 16 = v1)
    (h2 : bits (arg m 1) 32 16 = v2) (h3 : bits (arg m 1) 48 16 = v3) : replanVolts m = [v0, v1, v2, v3] := by
  subst h0 h1 h2 h3
  rfl

theorem replan_ready {s : State} {slot : Nat} {m : Msg} (ready : Ready s 0x0D02 slot m) : exec (.replan slot) s = .next (settle (
    if (replanVolts m).all voltOk && clockOk (bits (arg m 2) 0 16) then postFinal slot m .ok [] { untake slot s with
      pwr := { s.pwr with volts := replanVolts m, millMhz := bits (arg m 2) 0 16 } }
    else postFinal slot m .badDescriptor [] (untake slot s))) := by
  change execReplan slot s = _
  exact cmdStep_does ready rfl

/-- Settles O16: each query, by what it asks for and what the block holds. -/
theorem queriesAnswer : Obligations.QueriesAnswer := by
  unfold Obligations.QueriesAnswer
  refine ⟨fun s slot m ready => answered_leads (identify_ready ready), fun s slot m v ready => ⟨fun bad => answered_leads (logRead_refused ready bad),
      fun some few => ⟨fun none => answered_leads (logRead_empty ready some few none), ?logRead⟩⟩,
    fun s slot m v ready => ⟨fun step mx x sealed done => result_sent (stepReport_sends ready sealed done),
      fun step mx e sealed done => result_failed (stepReport_sends ready sealed done), fun none => answered_leads (stepReport_refused ready none)⟩,
    fun s slot m volts mhz ready four steps low high clock limit => ?margin, fun s slot m v0 v1 v2 v3 mhz ready h0 h1 h2 h3 clock =>
      ⟨fun steps low high hundreds => ?replans, fun outside => ?stays⟩⟩
  case logRead =>
    rintro es bs held ne rfl
    exact ⟨fun x => result_sent (logRead_sends ready some few held ne), fun e => result_failed (logRead_sends ready some few held ne)⟩
  case margin =>
    have fine : volts.all voltOk = true := List.all_eq_true.2 fun v hv => voltOk_of_steps (steps v hv)
    have next := marginReport_ready ready ⟨four, fine, clockOk_of_steps low high clock, limit⟩
    exact ⟨_, next, (settle_mbx _).trans (postFinal_mbx rfl m _ _), settle_pwr _⟩
  case replans =>
    have next := replan_ready ready
    have fine : [v0, v1, v2, v3].all voltOk = true := List.all_eq_true.2 fun v hv => voltOk_of_steps (steps v hv)
    rw [replanVolts_eq h0 h1 h2 h3, clock, fine, clockOk_of_steps low high hundreds, if_pos (show (true && true) = true from rfl)] at next
    exact ⟨_, next, (settle_mbx _).trans (postFinal_mbx rfl m _ _), settle_pwr _⟩
  case stays =>
    have next := replan_ready ready
    have bad : ([v0, v1, v2, v3].all voltOk && clockOk mhz) = false := by
      obtain ⟨v, hv, out⟩ | out := outside
      · rw [List.all_eq_false.2 ⟨v, hv, by rw [voltOk_of_outside out]; decide⟩, Bool.false_and]
      · rw [clockOk_of_outside out, Bool.and_false]
    rw [replanVolts_eq h0 h1 h2 h3, clock, bad, if_neg Bool.false_ne_true] at next
    exact ⟨_, next, (settle_mbx _).trans (postFinal_mbx rfl m _ _), settle_pwr _⟩

end Sys2Proof.Machine

/-! SUPPORT. The counters, the central reader, dumps and samples (R598 to R606, R611 to R613). -/

namespace Sys2Proof.Machine

open Sys2Proof

/-! ## Numbered values of a store -/

theorem mgetD_mset_same {α : Type} (m : AMap α) (k : Nat) (v d : α) : mgetD (mset m k v) k d = v := by
  rw [mgetD, mget_mset_same, Option.getD_some]

theorem mgetD_mset_other {α : Type} (m : AMap α) {k j : Nat} (h : j ≠ k) (v d : α) : mgetD (mset m k v) j d = mgetD m j d := by
  rw [mgetD, mget_mset_other _ _ _ _ h, mgetD]

/-! ## Islands -/

theorem islandOf_islandMod_same (i : Nat) (f : Island → Island) (s : State) : islandOf (islandMod i f s) i = f (islandOf s i) :=
  mgetD_mmod_same _ _ _ _

theorem islandOf_islandMod_other {i j : Nat} (h : j ≠ i) (f : Island → Island) (s : State) : islandOf (islandMod i f s) j = islandOf s j :=
  mgetD_mmod_other _ h _ _

/-- A change of every listed island. -/
theorem islandOf_islandMods (f : Island → Island) {l : List Nat} (once : l.Nodup) (s : State) (i : Nat) :
    islandOf (l.foldl (fun t j => islandMod j f t) s) i = if i ∈ l then f (islandOf s i) else islandOf s i := by
  induction l generalizing s with
  | nil => rfl
  | cons j l ih =>
    obtain ⟨fresh, once⟩ := List.nodup_cons.1 once
    rw [List.foldl_cons, ih once]
    by_cases here : i = j
    · subst here
      rw [if_neg fresh, islandOf_islandMod_same, if_pos List.mem_cons_self]
    · simp only [islandOf_islandMod_other here, List.mem_cons, here, false_or]

/-! ## CTR_CONFIG (R598) -/

/-- Counter `n` of an island is as CTR_CONFIG leaves it. -/
structure Configured (ev th n : Nat) (k : Island) : Prop where
  evsel : mgetD k.evsel n 0 = ev
  thresh : mgetD k.thresh n 0 = th
  value : mgetD k.value n 0 = 0
  agg : mgetD k.agg n 0 = 0
  sticky : k.sticky.testBit n = false

/-- Counter `n` of an island is as it was. -/
structure CounterKept (n : Nat) (k k' : Island) : Prop where
  evsel : mgetD k'.evsel n 0 = mgetD k.evsel n 0
  thresh : mgetD k'.thresh n 0 = mgetD k.thresh n 0
  value : mgetD k'.value n 0 = mgetD k.value n 0
  agg : mgetD k'.agg n 0 = mgetD k.agg n 0
  sticky : k.sticky.testBit n = false → k'.sticky.testBit n = false

theorem config_keeps {n j : Nat} (other : n ≠ j) (ev th : Nat) (k : Island) : CounterKept n k (k.config j ev th) :=
  ⟨mgetD_mset_other _ other _ _, mgetD_mset_other _ other _ _, mgetD_mset_other _ other _ _, mgetD_mset_other _ other _ _, fun clear => by
    rw [Island.config, Nat.testBit_and, clear, Bool.false_and]⟩

theorem config_sets {n : Nat} (small : n < 8) (ev th : Nat) (k : Island) : Configured ev th n (k.config n ev th) := by
  have masked : ∀ n < 8, (255 - 2 ^ n).testBit n = false := by decide
  refine ⟨mgetD_mset_same _ _ _ _, mgetD_mset_same _ _ _ _, mgetD_mset_same _ _ _ _, mgetD_mset_same _ _ _ _, ?_⟩
  rw [Island.config, Nat.testBit_and, masked n small, Bool.and_false]

theorem Configured.kept {ev th n : Nat} {k k' : Island} (h : Configured ev th n k) (kept : CounterKept n k k') : Configured ev th n k' :=
  ⟨kept.evsel.trans h.evsel, kept.thresh.trans h.thresh, kept.value.trans h.value, kept.agg.trans h.agg, kept.sticky h.sticky⟩

theorem CounterKept.refl (n : Nat) (k : Island) : CounterKept n k k := ⟨rfl, rfl, rfl, rfl, id⟩

theorem CounterKept.trans {n : Nat} {k k' k'' : Island} (h : CounterKept n k k') (h' : CounterKept n k' k'') : CounterKept n k k'' :=
  ⟨h'.evsel.trans h.evsel, h'.thresh.trans h.thresh, h'.value.trans h.value, h'.agg.trans h.agg, fun clear => h'.sticky (h.sticky clear)⟩

/-- The listed counters that the mask names are set. -/
def configListed (mask ev th : Nat) (l : List Nat) (k : Island) : Island :=
  l.foldl (fun k n => if mask.testBit n then k.config n ev th else k) k

theorem configListed_keeps {mask n : Nat} (unmasked : mask.testBit n = false) (ev th : Nat) (l : List Nat) (k : Island) :
    CounterKept n k (configListed mask ev th l k) := by
  refine List.foldlRecOn l _ (.refl n k) fun k' kept j _ => kept.trans ?_
  by_cases masked : mask.testBit j = true
  · rw [if_pos masked]
    exact config_keeps (by rintro rfl; exact Bool.false_ne_true (unmasked.symm.trans masked)) ev th k'
  · rw [if_neg masked]
    exact .refl n k'

theorem configListed_after {ev th n : Nat} {k : Island} (small : n < 8) (h : Configured ev th n k) (mask : Nat) (l : List Nat) :
    Configured ev th n (configListed mask ev th l k) := by
  refine List.foldlRecOn l _ h fun k' held j _ => ?_
  by_cases masked : mask.testBit j = true
  · rw [if_pos masked]
    by_cases here : n = j
    · exact here ▸ config_sets small ev th k'
    · exact held.kept (config_keeps here ev th k')
  · rwa [if_neg masked]

theorem configListed_sets {mask n : Nat} {l : List Nat} (listed : n ∈ l) (masked : mask.testBit n = true) (small : n < 8) (ev th : Nat) (k : Island) :
    Configured ev th n (configListed mask ev th l k) := by
  induction l generalizing k with
  | nil => exact absurd listed List.not_mem_nil
  | cons j l ih =>
    rcases List.mem_cons.1 listed with rfl | later
    · have first : configListed mask ev th (n :: l) k = configListed mask ev th l (k.config n ev th) := by
        rw [configListed, List.foldl_cons, if_pos masked, configListed]
      exact first ▸ configListed_after small (config_sets small ev th k) mask l
    · exact ih later _

theorem mem_islandRange {first last i : Nat} : i ∈ (List.range (last + 1 - first)).map (· + first) ↔ first ≤ i ∧ i ≤ last := by
  simp only [List.mem_map, List.mem_range]
  constructor
  · rintro ⟨a, small, rfl⟩
    omega
  · intro h
    exact ⟨i - first, by omega, by omega⟩

theorem islandOf_ctrConfigure (first last mask ev th : Nat) (s : State) (i : Nat) : islandOf (ctrConfigure first last mask ev th s) i =
    if first ≤ i ∧ i ≤ last then configListed mask ev th (List.range 8) (islandOf s i) else islandOf s i := by
  have once : ((List.range (last + 1 - first)).map (· + first)).Nodup := List.nodup_range.map (fun _ _ h => by simpa using h)
  exact (islandOf_islandMods _ once s i).trans (if_congr mem_islandRange rfl rfl)

theorem ctrConfig_ready {s : State} {slot : Nat} {m : Msg} (ready : Ready s 0x0B01 slot m) : exec (.ctrConfig slot) s = .next (settle (
    if ctrConfigOk (bits (arg m 1) 0 7) (bits (arg m 1) 8 7) (bits (arg m 1) 16 8) (bits (arg m 2) 0 15) then
      postFinal slot m .ok [] (ctrConfigure (bits (arg m 1) 0 7) (bits (arg m 1) 8 7) (bits (arg m 1) 16 8) (bits (arg m 2) 0 15)
        (bits (arg m 3) 0 32) (untake slot s))
    else postFinal slot m .badDescriptor [] (untake slot s))) := by
  change execCtrConfig slot s = _
  exact cmdStep_does ready rfl

theorem islandOf_settle (s : State) (i : Nat) : islandOf (settle s) i = islandOf s i := by rw [islandOf, settle_ctr, islandOf]

/-- A configuration that R598 accepts. -/
theorem ctrConfig_accepts {s : State} {slot : Nat} {m : Msg} (ready : Ready s 0x0B01 slot m)
    (fine : ctrConfigOk (bits (arg m 1) 0 7) (bits (arg m 1) 8 7) (bits (arg m 1) 16 8) (bits (arg m 2) 0 15) = true) :
    Leads (exec (.ctrConfig slot) s) fun t => t.mbx = finalMbx s slot m .ok [] ∧ ∀ i, islandOf t i =
      if bits (arg m 1) 0 7 ≤ i ∧ i ≤ bits (arg m 1) 8 7 then
        configListed (bits (arg m 1) 16 8) (bits (arg m 2) 0 15) (bits (arg m 3) 0 32) (List.range 8) (islandOf s i)
      else islandOf s i := by
  have next := ctrConfig_ready ready
  rw [if_pos fine] at next
  refine ⟨_, next, (settle_mbx _).trans (postFinal_mbx ((ctrConfigure_only _ _ _ _ _ _).same .mbx (by decide)) m _ _), fun i => ?_⟩
  exact (islandOf_settle _ i).trans (islandOf_ctrConfigure _ _ _ _ _ (untake slot s) i)

/-! ## The reader (R599) -/

/-- An island whose aggregates and sticky bits alone have changed. -/
structure Folded (k k' : Island) : Prop where
  evsel : k'.evsel = k.evsel
  value : k'.value = k.value
  seen : k'.seen = k.seen

/-- Counter `n` counts alone: it is neither half of a chained pair. -/
structure Alone (k : Island) (n : Nat) : Prop where
  upper : isUpper k n = false
  chained : isChained k n = false

/-- The aggregate of a counter that counts alone, after a visit. -/
def aggNext (k : Island) (n : Nat) : Nat :=
  (mgetD k.agg n 0 + (mgetD k.value n 0 + pow32 - mgetD k.seen n 0) % pow32) % pow48

theorem fold_folded (k : Island) (n : Nat) : Folded k (k.fold n) := by
  unfold Island.fold
  split
  · exact ⟨rfl, rfl, rfl⟩
  · split <;> exact ⟨rfl, rfl, rfl⟩

theorem Alone.folded {k k' : Island} {n : Nat} (h : Alone k n) (folded : Folded k k') : Alone k' n :=
  ⟨by rw [isUpper, evselOf, folded.evsel]; exact h.upper, by rw [isChained, evselOf, folded.evsel]; exact h.chained⟩

theorem fold_agg_same {k : Island} {n : Nat} (alone : Alone k n) : mgetD (k.fold n).agg n 0 = aggNext k n := by
  have folds : k.fold n = _ := (if_neg (by rw [alone.upper]; decide)).trans (if_neg (by rw [alone.chained]; decide))
  rw [folds]
  exact mgetD_mset_same _ _ _ _

/-- The upper half of a chained pair is no counter of its own. -/
theorem Alone.ne_upper {k : Island} {n j : Nat} (alone : Alone k n) (pair : isChained k j = true) : n ≠ j + 1 := by
  rintro rfl
  have upper := alone.upper
  simp only [isChained, Bool.and_eq_true, beq_iff_eq] at pair
  simp only [isUpper, Nat.add_sub_cancel, pair.2, Bool.and_true, beq_eq_false_iff_ne] at upper
  omega

theorem fold_agg_other {k : Island} {n j : Nat} (alone : Alone k n) (other : n ≠ j) : mgetD (k.fold j).agg n 0 = mgetD k.agg n 0 := by
  unfold Island.fold
  split
  · rfl
  · split
    next pair => exact (mgetD_mset_other _ (alone.ne_upper pair) _ _).trans (mgetD_mset_other _ other _ _)
    next => exact mgetD_mset_other _ other _ _

theorem aggNext_fold_other {k : Island} {n j : Nat} (alone : Alone k n) (other : n ≠ j) : aggNext (k.fold j) n = aggNext k n := by
  rw [aggNext, fold_agg_other alone other, (fold_folded k j).value, (fold_folded k j).seen, aggNext]

theorem foldAll_agg {n : Nat} {l : List Nat} (once : l.Nodup) {k : Island} (alone : Alone k n) :
    mgetD (l.foldl Island.fold k).agg n 0 = if n ∈ l then aggNext k n else mgetD k.agg n 0 := by
  induction l generalizing k with
  | nil => rfl
  | cons j l ih =>
    obtain ⟨fresh, once⟩ := List.nodup_cons.1 once
    rw [List.foldl_cons, ih once (alone.folded (fold_folded k j))]
    by_cases here : n = j
    · subst here
      rw [if_neg fresh, fold_agg_same alone, if_pos List.mem_cons_self]
    · simp only [aggNext_fold_other alone here, fold_agg_other alone here, List.mem_cons, here, false_or]

theorem visit_agg {k : Island} {n : Nat} (small : n < 8) (alone : Alone k n) : mgetD k.visit.agg n 0 = aggNext k n :=
  (foldAll_agg List.nodup_range alone).trans (if_pos (List.mem_range.2 small))

/-- What the islands hold once time has passed and before they are folded. -/
def timePassed (incs : List IslandInc) (s : State) : State := incs.foldl (fun t x => passTime x t) s

theorem visitAll_islands (incs : List IslandInc) (s : State) :
    (visitAll incs s).ctr.islands = (timePassed incs s).ctr.islands.map (fun p => (p.1, p.2.visit)) := by
  rw [visitAll]
  split
  · exact (raise_only _ _).same .counts (by decide)
  · rfl

theorem islandOf_visitAll (incs : List IslandInc) (s : State) (i : Nat) :
    islandOf (visitAll incs s) i = (islandOf (timePassed incs s) i).visit ∨
      (islandOf (visitAll incs s) i = Island.zero ∧ islandOf (timePassed incs s) i = Island.zero) := by
  have looked := mget_map (g := fun p : Nat × Island => (p.1, p.2.visit)) (fun _ => rfl) (timePassed incs s).ctr.islands i
  rw [islandOf, islandOf, mgetD, mgetD, visitAll_islands, looked]
  cases mget (timePassed incs s).ctr.islands i with
  | none => exact .inr ⟨rfl, rfl⟩
  | some k => exact .inl rfl

theorem visitAll_agg (incs : List IslandInc) (s : State) {i n : Nat} (small : n < 8) (alone : Alone (islandOf (timePassed incs s) i) n) :
    mgetD (islandOf (visitAll incs s) i).agg n 0 = aggNext (islandOf (timePassed incs s) i) n := by
  rcases islandOf_visitAll incs s i with visited | ⟨still, none⟩
  · rw [visited]
    exact visit_agg small alone
  · rw [still, none]
    change 0 = (0 + (0 + pow32 - 0) % pow32) % pow48
    decide

/-- The first wrap after every STICKY bit was clear fires CTR_STICKY. -/
theorem visitAll_sticky {incs : List IslandInc} {s : State} (clear : anySticky s = false) (wrapped : anySticky (visitAll incs s) = true) :
    bit (visitAll incs s).gbl.event evCtrSticky = true := by
  rw [visitAll, clear, anySticky] at *
  split at wrapped
  next fires => exact (congrArg (fun t : State => bit t.gbl.event evCtrSticky) (if_pos fires)).trans (bit_raise (by decide) _)
  next quiet => exact absurd (by simpa [anySticky] using wrapped) quiet

/-! ## Snapshots and dumps (R601, R602) -/

theorem visitAll_still (incs : List IslandInc) (s : State) : (visitAll incs s).ctr.still = s.ctr.still :=
  (visitAll_only incs s).same .ctr (by decide)

/-- A snapshot steps SEQ and leaves the other registers of the counters. -/
theorem snapshot_still (incs : List IslandInc) (s : State) :
    (snapshot incs s).ctr.still = ({ s.ctr with seq := (s.ctr.seq + 1) % pow32 } : Ctr).still := by
  have still := visitAll_still incs s
  rw [snapshot]
  generalize visitAll incs s = t at *
  exact congrArg (fun c : Ctr => ({ c with seq := (c.seq + 1) % pow32 } : Ctr)) still

/-- The writes of a dump record. -/
def dumped (base seq : Nat) (w : State) : State :=
  (dumpWrites (base * 16384 + seq) (wordsToBytes (dumpRecord w))).foldl (fun t p => chipWrite .pedWr .dump p.1 p.2 t) w

theorem dumped_only (base seq : Nat) (w : State) : OnlyIn [.ports] w (dumped base seq w) :=
  OnlyIn.foldl (fun t _ => chipWrite_only _ _ _ _ t) _ w

theorem dumpNow_eq (incs : List IslandInc) (s : State) : dumpNow incs s = raise evCounterDump (dumped (bits s.ctr.dumpBase 14 35)
    ((s.ctr.seq + 1) % pow32 % 2 ^ bits s.ctr.dumpBase 1 4 * 16384) (snapshot incs s)) := by
  have still := snapshot_still incs s
  have base : (snapshot incs s).ctr.dumpBase = s.ctr.dumpBase := (congrArg Ctr.dumpBase still :)
  have seq : (snapshot incs s).ctr.seq = (s.ctr.seq + 1) % pow32 := (congrArg Ctr.seq still :)
  rw [dumpNow, base, seq, dumped]

theorem dumpNow_still (incs : List IslandInc) (s : State) :
    (dumpNow incs s).ctr.still = ({ s.ctr with seq := (s.ctr.seq + 1) % pow32 } : Ctr).still := by
  rw [dumpNow_eq]
  have written := (dumped_only (bits s.ctr.dumpBase 14 35) ((s.ctr.seq + 1) % pow32 % 2 ^ bits s.ctr.dumpBase 1 4 * 16384)
    (snapshot incs s)).same .ctr (by decide)
  have raised := (raise_only evCounterDump (dumped (bits s.ctr.dumpBase 14 35)
    ((s.ctr.seq + 1) % pow32 % 2 ^ bits s.ctr.dumpBase 1 4 * 16384) (snapshot incs s))).same .ctr (by decide)
  exact Eq.trans raised (Eq.trans written (snapshot_still incs s))

section
variable {s : State} (incs : List IslandInc)

theorem dumpPeriodEnd_idle (idle : readerRuns s = false ∨ s.ctr.mode ≠ .dump ∨ bit s.ctr.dumpBase 0 = false) :
    exec (.dumpPeriodEnd incs) s = .next s :=
  congrArg Host.Outcome.next (if_pos (by simpa using idle))

theorem dumpPeriodEnd_goes (reads : readerRuns s = true) (mode : s.ctr.mode = .dump) (valid : bit s.ctr.dumpBase 0 = true) :
    exec (.dumpPeriodEnd incs) s = .next (if dumpBusy s then { s with ctr := { s.ctr with skipped := satAdd 16 s.ctr.skipped 1 } }
      else dumpNow incs s) :=
  congrArg Host.Outcome.next (if_neg (by simp [reads, mode, valid]))

end

/-! ## Samples (R606) -/

section
variable {s : State} {idx : Nat} {x : Sample} (times : List Nat)

/-- The sample is taken from those that wait. -/
def sampleTaken (idx : Nat) (s : State) : State := { s with ctr := { s.ctr with samples := s.ctr.samples.eraseIdx idx } }

theorem sampleRecordWrite_full (listed : s.ctr.samples[idx]? = some x) (done : x.done = true) (full : 64 ≤ pedlarWaiting s) :
    exec (.sampleRecordWrite idx times) s = .next { sampleTaken idx s with
      ctr := { (sampleTaken idx s).ctr with dropped := satAdd 15 s.ctr.dropped 1 } } := by
  change execSampleRecordWrite idx times s = _
  unfold execSampleRecordWrite
  rw [listed]
  exact (if_neg (by rw [done]; decide)).trans (if_pos full)

theorem sampleRecordWrite_writes (listed : s.ctr.samples[idx]? = some x) (done : x.done = true) (room : pedlarWaiting s < 64) {w : State}
    (written : w = chipWrite .pedWr .small (bits s.ctr.sample 12 37 * 4096 + s.ctr.sampleSeq % 2 ^ (bits s.ctr.sample 6 4 + 5) * 128)
      (wordsToBytes (sampleRecord s.ctr.sampleSeq x times)) (sampleTaken idx s)) :
    exec (.sampleRecordWrite idx times) s = .next { w with ctr := { w.ctr with sampleSeq := (w.ctr.sampleSeq + 1) % pow32 } } := by
  change execSampleRecordWrite idx times s = _
  unfold execSampleRecordWrite
  rw [listed]
  exact written ▸ (if_neg (by rw [done]; decide)).trans (if_neg (by change ¬ 64 ≤ pedlarWaiting s; omega))

end

/-! ## Control registers (R604, R611 to R613) -/

theorem writeCtrMode_ctr (val : W64) (s : State) : (writeCtrMode val s).ctr =
    if s.ctr.frozen = true then { s.ctr with refused := true }
    else { s.ctr with
      mode := if bits val 0 2 = 0 then .live else if bits val 0 2 = 1 then .dump else if bits val 0 2 = 2 then .freeze else s.ctr.mode
      refused := s.ctr.refused && !bit val 63 } := by
  unfold writeCtrMode
  split
  next => rfl
  next =>
    generalize bits val 0 2 = code
    match code with
    | 0 => rfl
    | 1 => rfl
    | 2 => rfl
    | _ + 3 => rfl

theorem writeCtrFreeze_takes {val : W64} {s : State} (incs : List IslandInc) (asked : bit val 0 = true) (live : s.ctr.frozen = false)
    (mode : s.ctr.mode = .freeze) : writeCtrFreeze incs val s = { snapshot incs s with
      ctr := { (snapshot incs s).ctr with freeze := true, frozen := true, snapshot := (snapshot incs s).ctr.islands } } :=
  (if_pos asked).trans (if_neg (by simp [live, mode]))

theorem writeCtrFreeze_refuses {val : W64} {s : State} (incs : List IslandInc) (asked : bit val 0 = true)
    (bad : s.ctr.frozen = true ∨ s.ctr.mode ≠ .freeze) : writeCtrFreeze incs val s = ctrRefuse s :=
  (if_pos asked).trans (if_pos bad)

theorem writeCtrFreeze_thaws {val : W64} (s : State) (incs : List IslandInc) (asked : bit val 0 = false) :
    (writeCtrFreeze incs val s).ctr = { s.ctr with freeze := false, frozen := false, snapshot := [] } :=
  congrArg State.ctr (if_neg (by rw [asked]; decide))

theorem writeCtrPeriod_ctr (val : W64) (s : State) : (writeCtrPeriod val s).ctr =
    if bits val 0 32 < 16 then { s.ctr with refused := true } else { s.ctr with period := bits val 0 32 } := by
  unfold writeCtrPeriod
  split <;> rfl

/-- K that a write of CTR_SAMPLE leaves. -/
def sampleK (val w : W64) : Nat := if bits val 1 5 < 4 ∨ 24 < bits val 1 5 then bits w 1 5 else bits val 1 5

theorem sampleK_lt (val w : W64) : sampleK val w < 2 ^ 5 := by
  unfold sampleK
  split <;> exact bits_lt _ _ _

/-- The fields of CTR_SAMPLE do not overlap. -/
theorem bits_sampleWord {a k c d : Nat} (ha : a < 2 ^ 1) (hk : k < 2 ^ 5) (hc : c < 2 ^ 4) (hd : d < 2 ^ 37) :
    bits (w64 (a + k * 2 + c * 2 ^ 6 + d * 2 ^ 12)) 1 5 = k ∧ bits (w64 (a + k * 2 + c * 2 ^ 6 + d * 2 ^ 12)) 0 1 = a ∧
    bits (w64 (a + k * 2 + c * 2 ^ 6 + d * 2 ^ 12)) 6 4 = c ∧ bits (w64 (a + k * 2 + c * 2 ^ 6 + d * 2 ^ 12)) 12 37 = d := by
  simp only [bits, w64, BitVec.toNat_ofNat, Nat.shiftRight_eq_div_pow]
  omega

theorem writeCtrSample_sample (val : W64) (s : State) : (writeCtrSample val s).ctr.sample =
    w64 (bits val 0 1 + sampleK val s.ctr.sample * 2 + bits val 6 4 * 2 ^ 6 + bits val 12 37 * 2 ^ 12) := rfl

/-- CLEAR is bit 63: it stands beside the other fields. -/
theorem toNat_clear_low (val : W64) : (val ||| 0x8000000000000000#64).toNat % 2 ^ 63 = val.toNat % 2 ^ 63 := by
  rw [BitVec.toNat_or, Nat.or_mod_two_pow]
  exact Nat.or_zero _

theorem bits_clear (val : W64) {lo n : Nat} (low : lo + n ≤ 63) : bits (val ||| 0x8000000000000000#64) lo n = bits val lo n :=
  bits_of_low (toNat_clear_low val) low

theorem bit_clear_wrapped (val : W64) : bit (val ||| 0x8000000000000000#64) 56 = bit val 56 := by
  rw [bit, BitVec.getLsbD_or]
  exact Bool.or_false _

theorem bit_clear (val : W64) : bit (val ||| 0x8000000000000000#64) 63 = true := by
  rw [bit, BitVec.getLsbD_or]
  exact Bool.or_true _

theorem writeIdleCause_clear (c : Nat) (val : W64) (s : State) : colOf (writeIdleCause c (val ||| 0x8000000000000000#64) s) c =
    { colOf s c with idle := [], wrapped := (colOf s c).wrapped && !bit val 56,
                     idleSel := if 8 < bits val 0 4 then (colOf s c).idleSel else bits val 0 4 } := by
  rw [writeIdleCause, colOf_colMod_same, bits_clear val (by decide), bit_clear_wrapped, bit_clear]
  rfl

/-! ## O30 -/

/-- Settles O30: CTR_CONFIG island by island and counter by counter, the register writes each by its rule, the reader's visit
by what it folds, dumps and samples by what they write. -/
theorem countersAndSamples : Obligations.CountersAndSamples := by
  unfold Obligations.CountersAndSamples
  refine ⟨fun s slot m ready => ⟨fun fine => ?config, fun bad => ?refused⟩, fun s val incs alive => ⟨?mode, fun asked live mode => ?freeze,
      fun asked bad => ?noFreeze, fun asked => ?thaw, ?period, ?sample, fun c small => ?idle⟩,
    fun s w incs reads passed => ?visit, fun s incs reads mode valid => ⟨fun w quiet taken => ?dump, fun busy => ?skip⟩,
    fun s incs idle => dumpPeriodEnd_idle incs idle, fun s u idx x times listed done taken => ⟨fun room => ?write, fun full => ?drop⟩⟩
  case config =>
    obtain ⟨t, next, answer, islands⟩ := ctrConfig_accepts ready fine
    refine ⟨t, next, answer, fun i n first last small masked => ?_, fun i n first last unmasked => ?_, fun i outside => ?_⟩
    · rw [islands, if_pos ⟨first, last⟩]
      obtain ⟨evsel, thresh, value, agg, sticky⟩ := configListed_sets (List.mem_range.2 small) masked small (bits (arg m 2) 0 15)
        (bits (arg m 3) 0 32) (islandOf s i)
      exact ⟨evsel, thresh, value, agg, sticky⟩
    · rw [islands, if_pos ⟨first, last⟩]
      obtain ⟨evsel, thresh, value, agg, _⟩ := configListed_keeps unmasked (bits (arg m 2) 0 15) (bits (arg m 3) 0 32) (List.range 8)
        (islandOf s i)
      exact ⟨evsel, thresh, value, agg⟩
    · rw [islands, if_neg (by omega)]
  case refused =>
    have next := ctrConfig_ready ready
    rw [if_neg (by rw [bad]; decide)] at next
    exact ⟨_, next, (settle_mbx _).trans (postFinal_mbx rfl m _ _), settle_ctr _⟩
  case mode => exact kcpWrite_leads alive (writeCtrMode_ctr val s)
  case freeze =>
    refine kcpWrite_leads alive ?_
    rw [writeCtrFreeze_takes incs asked live mode]
    exact ⟨rfl, rfl, rfl, rfl, (congrArg Ctr.seq (snapshot_still incs s) :)⟩
  case noFreeze => exact kcpWrite_leads alive (congrArg State.ctr (writeCtrFreeze_refuses incs asked bad))
  case thaw => exact kcpWrite_leads alive (writeCtrFreeze_thaws s incs asked)
  case period => exact kcpWrite_leads alive (writeCtrPeriod_ctr val s)
  case sample =>
    refine kcpWrite_leads alive ?_
    rw [writeCtrSample_sample]
    exact bits_sampleWord (bits_lt _ _ _) (sampleK_lt _ _) (bits_lt _ _ _) (bits_lt _ _ _)
  case idle =>
    have goes : exec (.mclIdleCauseClear c val) s = _ := if_pos small
    rw [goes]
    exact kcpWrite_leads alive ⟨writeIdleCause_clear c val s, fun o other => colOf_colMod_other other _ s⟩
  case visit =>
    subst passed
    refine ⟨_, congrArg Host.Outcome.next (if_pos reads), fun p listed => ?_, fun i n small upper chained =>
      visitAll_agg incs s small ⟨upper, chained⟩, visitAll_sticky⟩
    rw [visitAll_islands] at listed
    obtain ⟨q, _, rfl⟩ := List.mem_map.1 listed
    exact ⟨rfl, rfl⟩
  case dump =>
    subst taken
    have next := dumpPeriodEnd_goes incs reads mode valid
    rw [if_neg (by rw [quiet]; decide)] at next
    have still := dumpNow_still incs s
    exact ⟨next.trans (congrArg Host.Outcome.next (dumpNow_eq incs s)), _, next, dumpNow_eq incs s ▸ bit_raise (by decide) _,
      (congrArg Ctr.seq still :), (congrArg Ctr.skipped still :)⟩
  case skip =>
    have next := dumpPeriodEnd_goes incs reads mode valid
    rw [if_pos busy] at next
    exact ⟨_, next, rfl⟩
  case write =>
    subst taken
    have next := sampleRecordWrite_writes times listed done room rfl
    have still : Ctr.still _ = _ := (chipWrite_only .pedWr .small
      (bits s.ctr.sample 12 37 * 4096 + s.ctr.sampleSeq % 2 ^ (bits s.ctr.sample 6 4 + 5) * 128)
      (wordsToBytes (sampleRecord s.ctr.sampleSeq x times)) (sampleTaken idx s)).same .ctr (by decide)
    refine ⟨_, next, (congrArg Ctr.samples still :), ?_, (congrArg Ctr.dropped still :), rfl⟩
    exact (congrArg (fun c : Ctr => (c.sampleSeq + 1) % pow32) still :)
  case drop =>
    subst taken
    exact sampleRecordWrite_full times listed done full

end Sys2Proof.Machine

/-! SUPPORT. Shutters and saved tiles (R188 to R191, R574 to R579, R591). -/

namespace Sys2Proof.Machine

open Sys2Proof

/-- A table that stands is changed under its number. -/
theorem mget_tableMod_same {n : Nat} {x : Table} {s : State} (stands : mget s.tables n = some x) (f : Table → Table) :
    mget (tableMod n f s).tables n = some (f x) := by
  unfold tableMod
  rw [stands]
  exact mget_mset_same _ _ _

/-! ## SHUTTER (R574 to R578) -/

section
variable {s : State} {slot kind num : Nat} {m : Msg} (ready : Ready s 0x0C01 slot m) (hk : kind = bits (arg m 1) 0 3)
  (hn : num = bits (arg m 1) 8 24)
include ready hk hn

theorem shutter_starts (target : shutTarget s kind num = true) : exec (.shutter slot) s = .next (settle (startShutter kind num
    (bits (arg m 1) 0 32) (bit (arg m 1) 3) { slot := slot, seq := m.seq, op := m.op } (accept slot m (untake slot s)))) := by
  subst hk hn
  change execShutter slot s = _
  exact cmdStep_does ready (if_pos target)

theorem shutter_refused (refused : shutTarget s kind num = false) :
    exec (.shutter slot) s = .next (settle (postFinal slot m .badDescriptor [] (untake slot s))) := by
  subst hk hn
  change execShutter slot s = _
  refine cmdStep_does ready (if_neg ?_)
  change ¬ shutTarget s _ _ = true
  rw [refused]
  decide

end

/-- A gentle Shutter as it begins. -/
def newShutter (kind num w1 : Nat) (o : Owed) : Shutter :=
  { kind := kind, num := num, force := false, owners := [o], w1 := w1, counts := [], done := false }

theorem startShutter_gentle {kind num : Nat} {s : State} (none : s.shutters.find? (fun x => x.at kind num && !x.done) = none) (w1 : Nat) (o : Owed) :
    startShutter kind num w1 false o s =
      stopTarget kind num false { s with shutters := s.shutters ++ [newShutter kind num w1 o] } := by
  unfold startShutter
  rw [none]
  rfl

theorem startShutter_joins {kind num : Nat} {s : State} {x : Shutter} (runs : s.shutters.find? (fun x => x.at kind num && !x.done) = some x)
    (w1 : Nat) (o : Owed) : startShutter kind num w1 false o s =
      { s with shutters := s.shutters.map (fun y => if y.at kind num then { y with owners := y.owners ++ [o] } else y) } := by
  unfold startShutter
  rw [runs]
  change shutterMod kind num (fun x => { x with owners := x.owners ++ [o], force := x.force || false }) s = _
  simp only [Bool.or_false]
  rfl

section
variable (n : Nat) (s : State)

theorem stopTarget_flow (force : Bool) : flowOf (stopTarget 0 n force s) n = { flowOf s n with shut := true } := flowOf_flowMod_same n _ s

theorem stopTarget_table (force : Bool) {x : Table} (stands : mget s.tables n = some x) :
    mget (stopTarget 1 n force s).tables n = some { x with shut := some force } := mget_tableMod_same stands _

theorem stopTarget_column (force : Bool) : colOf (stopTarget 2 n force s) n = { colOf s n with state := .shuttering } := colOf_colMod_same n _ s

theorem stopTarget_stack (force : Bool) : stackOf (stopTarget 4 n force s) n = { stackOf s n with state := .shuttering } :=
  stackOf_stackMod_same n _ s

theorem openTarget_flow : flowOf (openTarget 0 n s) n = { flowOf s n with shut := false, shutForced := false } := flowOf_flowMod_same n _ s

theorem openTarget_table {x : Table} (stands : mget s.tables n = some x) : mget (openTarget 1 n s).tables n = some { x with shut := none } :=
  mget_tableMod_same stands _

theorem openTarget_column : colOf (openTarget 2 n s) n = { colOf s n with state := .enabled } := colOf_colMod_same n _ s

theorem openTarget_port : portAt (openTarget 3 n s) n = { portAt s n with state := .down } := portAt_portMod_same n _ s

theorem openTarget_stack : stackOf (openTarget 4 n s) n = { stackOf s n with state := .ready } := stackOf_stackMod_same n _ s

end

/-! ## SHUTTER_DONE (R576) -/

/-- Where no Shutter that is done owes a REPORT. -/
theorem reportShutters_pays (s : State) : ∀ y ∈ (reportShutters s).shutters, y.done = true → y.owners = [] := by
  intro y listed done
  obtain ⟨x, _, rfl⟩ := List.mem_map.1 (List.mem_filter.1 listed).1
  by_cases due : (x.done && !x.owners.isEmpty) = true
  · rw [if_pos due]
  · rw [if_neg due] at done ⊢
    simpa [done] using due

/-- What `finishShutter` reports on: the target is shut and the event raised. -/
def shutDown (x : Shutter) (us : Nat) (s : State) : State :=
  raise evShutterDone (shutTo x.kind x.num (shutterMod x.kind x.num (fun y => { y with counts := finalCounts s x us, done := true }) s))

theorem finishShutter_eq (x : Shutter) (us : Nat) (s : State) :
    finishShutter x us s = if clerkRuns (shutDown x us s) then reportShutters (shutDown x us s) else shutDown x us s := rfl

theorem shutDown_clerk (x : Shutter) (us : Nat) (s : State) : (shutDown x us s).clerk = s.clerk :=
  (raise_clerk _ _).trans ((shutTo_only _ _ _).same .clerk (by decide))

theorem finishShutter_only_reports (x : Shutter) (us : Nat) (s : State) : OnlyIn [.mbx, .clerk, .shutters] (shutDown x us s) (finishShutter x us s) :=
  .ite (fun _ => reportShutters_only _) fun _ => .refl _ _

theorem finishShutter_event (x : Shutter) (us : Nat) (s : State) : bit (finishShutter x us s).gbl.event 17 = true :=
  bit_of_only (finishShutter_only_reports x us s) (by decide) (bit_raise (by decide) _)

theorem shutTo_column (n : Nat) (s : State) : (colOf (shutTo 2 n s) n).state = .shuttered :=
  congrArg Column.state (colOf_colMod_same n (fun k => { k with state := .shuttered }) _)

theorem finishShutter_column {x : Shutter} (column : x.kind = 2) (us : Nat) (s : State) :
    (colOf (finishShutter x us s) x.num).state = .shuttered := by
  rw [colOf_of_only (finishShutter_only_reports x us s) (by decide), shutDown, colOf_of_only (raise_only _ _) (by decide), column]
  exact shutTo_column _ _

theorem finishShutter_stack {x : Shutter} (stack : x.kind = 4) (us : Nat) (s : State) :
    (stackOf (finishShutter x us s) x.num).state = .shuttered := by
  rw [stackOf_of_only (finishShutter_only_reports x us s) (by decide), shutDown, stackOf_of_only (raise_only _ _) (by decide), stack]
  exact congrArg Stack.state (stackOf_stackMod_same x.num (fun k => { k with state := .shuttered }) _)

theorem finishShutter_pays {s : State} (runs : clerkRuns s = true) (x : Shutter) (us : Nat) :
    ∀ y ∈ (finishShutter x us s).shutters, y.done = true → y.owners = [] := by
  rw [finishShutter_eq, if_pos ((clerkRuns_of_clerk (shutDown_clerk x us s)).trans runs)]
  exact reportShutters_pays _

theorem shutterDone_goes {s : State} {idx : Nat} {x : Shutter} (listed : s.shutters[idx]? = some x) (running : x.done = false)
    (ended : shutterReady s x = true) (us : Nat) : exec (.shutterDone idx us) s = .next (finishShutter x us s) := by
  change execShutterDone idx us s = _
  unfold execShutterDone
  rw [listed]
  exact congrArg Host.Outcome.next (if_pos (by rw [running, ended]; rfl))

/-! ## UNSHUTTER (R579) -/

section
variable {s : State} {slot kind num : Nat} {m : Msg} (ready : Ready s 0x0C02 slot m) (hk : kind = bits (arg m 1) 0 3)
  (hn : num = bits (arg m 1) 8 24)
include ready hk hn

theorem unshutter_opens (service : kind ≠ 5) (shut : shutterDone s kind num = true) (works : kind = 2 → (colOf s num).state ≠ .failed) :
    exec (.unshutter slot) s = .next (settle (postFinal slot m .ok [] (openTarget kind num
      { untake slot s with shutters := s.shutters.filter (fun x => !x.at kind num) }))) := by
  subst hk hn
  change execUnshutter slot s = _
  refine cmdStep_does ready (if_neg ?_)
  rintro (forwarding | unshut | ⟨column, failed⟩)
  · exact service forwarding
  · change (!shutterDone s _ _) = true at unshut
    rw [shut] at unshut
    exact absurd unshut (by decide)
  · exact works column failed

theorem unshutter_refused (refused : kind = 5 ∨ shutterDone s kind num = false ∨ (kind = 2 ∧ (colOf s num).state = .failed)) :
    exec (.unshutter slot) s = .next (settle (postFinal slot m .badDescriptor [] (untake slot s))) := by
  subst hk hn
  change execUnshutter slot s = _
  refine cmdStep_does ready (if_pos ?_)
  refine refused.imp_right fun refused => refused.imp_left fun unshut => ?_
  rw [show shutterDone (untake slot s) _ _ = false from unshut]
  rfl

end

/-! ## Saved tiles (R188 to R191) -/

section
variable {s : State} {col mill : Nat} {w : BagWork} {r : Run} (work : workOf s col mill = some w) (run : runOf s w.ord = some r)
  (saves : (savesTiles s && w.partly && (millOf (colOf s col) mill).saved.isNone) = true)
include work run saves

theorem tileSave_saves (certain : w.sawProv = false) : exec (.tileSave col mill) s = .next (tileSaved col mill w s) := by
  change execTileSave col mill s = _
  unfold execTileSave
  rw [work]
  dsimp only
  rw [run, saves, certain]
  rfl

theorem tileSave_discards (provisional : w.sawProv = true) : exec (.tileSave col mill) s = .next (waitBag col mill r w.closePass s) := by
  change execTileSave col mill s = _
  unfold execTileSave
  rw [work]
  dsimp only
  rw [run, saves, provisional]
  rfl

end

section
variable (s : State) (col mill : Nat) (w : BagWork)

theorem tileSaved_mill : millOf (colOf (tileSaved col mill w s) col) mill =
    { millOf (colOf s col) mill with work := none, saved := some w.saved } := by
  rw [tileSaved, millOf_millMod_same, colOf_of_only (hbmWrite_only _ _ _) (by decide), colOf_of_only (dropReads_only _ _) (by decide)]

theorem tileSaved_hbm : (tileSaved col mill w s).hbm = memWrite s.hbm (saveAddr s col mill) (tileImage w.saved) :=
  congrArg (memWrite · (saveAddr s col mill) (tileImage w.saved))
    ((dropReads_only (fun c m => c == col && m == mill) s).same .hbm (by decide))

theorem tileSaved_image (canonical : Memory.wf s.hbm = true) :
    hbmRead (tileSaved col mill w s) (saveAddr s col mill) (tileImage w.saved).length = tileImage w.saved := by
  rw [hbmRead, tileSaved_hbm]
  exact memRead_memWrite_same canonical _ _

theorem tileSaved_outside (a : Nat) (outside : a < saveAddr s col mill ∨ saveAddr s col mill + (tileImage w.saved).length ≤ a) :
    memGet (tileSaved col mill w s).hbm a = memGet s.hbm a := by
  rw [tileSaved_hbm]
  exact memGet_memWrite_outside _ _ _ _ outside

end

theorem tileRestore_restores {s : State} {col mill : Nat} {w : BagWork} (saved : (millOf (colOf s col) mill).saved = some w)
    (runs : millsRun s = true) (still : s.pwr.busy = false) (free : workOf s col mill = none) : exec (.tileRestore col mill) s =
      .next (millMod col mill (fun k => { k with work := some w, saved := none }) s) := by
  have idle : (millOf (colOf s col) mill).work = none := free
  change execTileRestore col mill s = _
  unfold execTileRestore
  dsimp only
  rw [saved, idle, runs, still]
  rfl

/-! ## O31 -/

/-- Settles O31: a gentle Shutter by what its target leaves, its end and UNSHUTTER by what they turn back, tiles by the image written. -/
theorem shuttersAndTiles : Obligations.ShuttersAndTiles := by
  unfold Obligations.ShuttersAndTiles
  refine ⟨fun s slot kind num m ready hk hn => ⟨fun target gentle fresh => ?begins, fun x target gentle runs => ?joins, fun refused => ?refused⟩,
    fun s idx us x listed running ended => ⟨_, shutterDone_goes listed running ended us, finishShutter_event x us s,
      fun column => finishShutter_column column us s, fun stack => finishShutter_stack stack us s, fun runs => finishShutter_pays runs x us⟩,
    fun s slot kind num m ready hk hn => ⟨fun service shut works => ?opens, fun refused => ?stays⟩,
    fun s col mill w r work run saves partly free => ?save, fun s col mill w saved runs still free => ⟨_, tileRestore_restores saved runs still free,
      millOf_millMod_same _ _ _ _, rfl⟩⟩
  case begins =>
    have next := shutter_starts ready hk hn target
    rw [gentle, startShutter_gentle (s := accept slot m (untake slot s)) fresh] at next
    have stops := stopTarget_only kind num false { accept slot m (untake slot s) with
      shutters := s.shutters ++ [newShutter kind num (bits (arg m 1) 0 32) { slot := slot, seq := m.seq, op := m.op }] }
    have settles := settle_only (stopTarget kind num false { accept slot m (untake slot s) with
      shutters := s.shutters ++ [newShutter kind num (bits (arg m 1) 0 32) { slot := slot, seq := m.seq, op := m.op }] })
    refine ⟨_, next, (settle_mbx _).trans (Eq.trans (stops.same .mbx (by decide)) (accept_mbx rfl m)),
      congrArg Clerk.owed ((settle_clerk _).trans (stops.same .clerk (by decide))),
      (settle_shutters _).trans (stops.same .shutters (by decide)), ?_, ?_, ?_, ?_⟩ <;> rintro rfl
    · exact (flowOf_of_only settles (by decide) num).trans (stopTarget_flow num _ false)
    · intro x stands
      exact (congrArg (mget · num) (settle_tables _)).trans (stopTarget_table num _ false stands)
    · exact (colOf_of_only settles (by decide) num).trans (stopTarget_column num _ false)
    · exact (stackOf_of_only settles (by decide) num).trans (stopTarget_stack num _ false)
  case joins =>
    have next := shutter_starts ready hk hn target
    rw [gentle, startShutter_joins (s := accept slot m (untake slot s)) runs] at next
    exact ⟨_, next, (settle_mbx _).trans (accept_mbx (t := untake slot s) rfl m), settle_shutters _⟩
  case refused =>
    exact ⟨_, shutter_refused ready hk hn refused, (settle_mbx _).trans (postFinal_mbx rfl m _ _), settle_shutters _⟩
  case opens =>
    have opened := openTarget_only kind num { untake slot s with shutters := s.shutters.filter (fun x => !x.at kind num) }
    have answers := settled_answer_only (slot := slot) (.refl _ (openTarget kind num { untake slot s with
      shutters := s.shutters.filter (fun x => !x.at kind num) })) m .ok []
    refine ⟨_, unshutter_opens ready hk hn service shut works, (settle_mbx _).trans (postFinal_mbx (opened.same .mbx (by decide)) m _ _),
      (settle_shutters _).trans (opened.same .shutters (by decide)), ?_, ?_, ?_, ?_, ?_⟩ <;> rintro rfl
    · exact (flowOf_of_only answers (by decide) num).trans (openTarget_flow num _)
    · intro x stands
      exact (congrArg (mget · num) (settle_tables _)).trans (openTarget_table num _ stands)
    · exact (colOf_of_only answers (by decide) num).trans (openTarget_column num _)
    · exact (portAt_of_only answers (by decide) num).trans (openTarget_port num _)
    · exact (stackOf_of_only answers (by decide) num).trans (openTarget_stack num _)
  case stays =>
    exact ⟨_, unshutter_refused ready hk hn refused, (settle_mbx _).trans (postFinal_mbx rfl m _ _), settle_shutters _⟩
  case save =>
    have goes : (savesTiles s && w.partly && (millOf (colOf s col) mill).saved.isNone) = true := by rw [saves, partly, free]; rfl
    exact ⟨fun certain => ⟨_, tileSave_saves work run goes certain, tileSaved_mill s col mill w, tileSaved_image s col mill w,
      tileSaved_outside s col mill w⟩, tileSave_discards work run goes⟩

end Sys2Proof.Machine
